-- ==== Sys2Proof/Word.lean ====
section
/-! DEFINITION. The word types of the SPS3192: the 40-bit word of R11, R12 and R28, and the byte, with the plainest
arithmetic on them. -/

namespace Sys2Proof

/-- A 40-bit word: register, SRAM word, sample, move-list word (R11, R28). -/
abbrev Word := BitVec 40

/-- A byte. -/
abbrev Byte := BitVec 8

/-- A word from a natural number, modulo 2^40. -/
def word (n : Nat) : Word := BitVec.ofNat 40 n

/-- Bits [hi:lo] of a natural number. -/
def bits (v hi lo : Nat) : Nat := v / 2 ^ lo % 2 ^ (hi + 1 - lo)

/-- Bit `i` of a natural number. -/
def bitAt (v i : Nat) : Bool := v.testBit i

/-- Two's complement reading of the low `w` bits. -/
def sext (w v : Nat) : Int :=
  let x := v % 2 ^ w
  if x < 2 ^ (w - 1) then (x : Int) else (x : Int) - (2 : Int) ^ w

/-- The low `w` bits of an integer, two's complement. -/
def toBits (w : Nat) (x : Int) : Nat := (x % ((2 : Int) ^ w)).toNat

/-- `x + 1` that stops at `m` (a counter that "stops at"). -/
def satInc (m x : Nat) : Nat := if x < m then x + 1 else x

/-- `x + d` that stops at `m`. -/
def satAdd (m x d : Nat) : Nat := Nat.min m (x + d)

/-- One bit of a Bool. -/
def b2n (b : Bool) : Nat := if b then 1 else 0

/-- `x` held between `lo` and `hi`: a value outside acts as the nearer limit. -/
def clampNat (lo hi x : Nat) : Nat := if x < lo then lo else if hi < x then hi else x

/-- `0` acts as `d`. -/
def orDefault (d x : Nat) : Nat := if x = 0 then d else x

/-- Number of one bits among the low `w` bits of `v`. -/
def popCount : Nat → Nat → Nat
  | 0, _ => 0
  | w + 1, v => v % 2 + popCount w (v / 2)

/-- The value of a list of bytes, most significant first (R12). -/
def beNat (l : List Nat) : Nat := l.foldl (fun a b => a * 256 + b % 256) 0

/-- The `n` bytes of a value, most significant first (R12). -/
def beBytes : Nat → Nat → List Nat
  | 0, _ => []
  | n + 1, v => (v / 256 ^ n % 256) :: beBytes n v

/-- Ceiling division. -/
def ceilDiv (a b : Nat) : Nat := (a + b - 1) / b

/-- Element `i` of a list of naturals, 0 beyond its end. -/
def nth (l : List Nat) (i : Nat) : Nat := l.getD i 0

end Sys2Proof
end

