-- ==== Sys2Proof/Syntax.lean ====
section
/-! DEFINITION. The commands of the block: one constructor per row of the spec's table of operations and events.
A command is the happening its row names; its operands are what the outside brings to it. -/

namespace Sys2Proof

/-- Who makes a register write (R13, R38). -/
inductive Src where
  | host
  | move
  | chain
  deriving DecidableEq, Repr

/-- The header of a Match chain cell other than a VOID: its SRC and SEQ fields (R70). -/
structure CellHead where
  src : Nat
  seq : Nat
  deriving DecidableEq, Repr

/-- The launch part of an RF move: WING, WHEN, LATE_LIMIT and word 1 (R255, R257). -/
structure Launch where
  wing : Nat
  when_ : Nat
  late : Nat
  t : Nat
  deriving DecidableEq, Repr

/-- The operands of a LISTEN move (R260). -/
structure ListenArgs where
  tapEn : Bool
  role : Nat
  coloured : Bool
  rate : Nat
  tapPort : Nat
  dest : Nat
  proto : Nat
  limit : Nat
  wait : Nat
  deriving DecidableEq, Repr

/-- The operands of an ANTICOLL move (R260). -/
structure AnticollArgs where
  proto : Nat
  wake : Bool
  hold : Bool
  quiet : Bool
  maskLen : Nat
  mask : Nat
  result : Nat
  deriving DecidableEq, Repr

/-- What the engine measures of the frame of a tag's reply besides its bits (R160, R165): whether the coding or a start or end of
frame is violated; of a Type B reply, in carrier cycles, the unmodulated subcarrier before the SOF (TR1), the low and the high
part of the SOF, the gaps between characters (EGT) and the EOF. -/
structure Reply where
  broken : Bool
  tr1 : Nat := 256
  sofLow : Nat := 1280
  sofHigh : Nat := 256
  egt : List Nat := []
  eof : Nat := 1280
  deriving DecidableEq, Repr

/-- A Blitz frame as sampled (R133, R140): the samples from its timing origin to its end, and of the answer to a SOUND the windows
of 64 samples of the quiet listen before it (R210). -/
structure BlitzFrame where
  samples : List Nat
  quiet : List (List Nat)
  deriving DecidableEq, Repr

/-- What a Kibitz ping measured: AMP and PHASE (R231), and whether the drive current lay outside the detector's window
(R235). -/
structure PingResult where
  amp : Nat
  phase : Nat
  bad : Bool
  deriving DecidableEq, Repr

/-- A 64-byte slot of the Scoresheet region as read, with a poison mark (R312). -/
structure SlotRead where
  bytes : List Nat
  poison : Bool
  deriving DecidableEq, Repr

/-- What a mount reads of one sector of the Scoresheet region: its slots from slot 0 on, empty where the list ends (R312). -/
structure SectorScan where
  slots : List SlotRead
  deriving DecidableEq, Repr

/-- What a TELEMETRY record measures: VDD_CORE, VPA_A and VPA_B in mV, the total forward RF power in mW (R309). -/
structure TelReading where
  vcore : Nat
  vpaA : Nat
  vpaB : Nat
  power : Nat
  deriving DecidableEq, Repr

/-- A WRITE frame as received: the level of ENUMI as HSEL_N fell (R74), the header, the data bytes that came whole, most
significant first (R12), then `bits` further bits of value `tail` when HSEL_N rose inside a byte (R358); `strobe` when a DDR nibble
without its strobe ended the data (R361). -/
structure WriteFrame where
  enumi : Bool
  board : Nat
  page : Nat
  off : Nat
  bytes : List Nat
  bits : Nat
  tail : Nat
  strobe : Bool
  deriving DecidableEq, Repr

/-- A mode that a device's SFDP describes (R376): 0 1S-1S-1S, 1 1S-4S-4S, 2 8D-8D-8D; its fastest frequency in MHz, the
dummy cycles of its read, and whether the SFDP header read in it is the one read in 1S-1S-1S. -/
structure FlashMode where
  mode : Nat
  fastest : Nat
  dummy : Nat
  same : Bool
  deriving DecidableEq, Repr

/-- What SFDP discovery reads of one flash device (R374): a valid signature, a 4-byte address read, log2 of the density,
of the page size and of the four erase sizes (0: not listed), suspend and resume listed, the modes described. -/
structure FlashDev where
  sig : Bool
  addr4 : Bool
  sizeLog2 : Nat
  pageLog2 : Nat
  erases : List Nat
  suspend : Bool
  modes : List FlashMode
  deriving DecidableEq, Repr

/-- How a PMBus transaction ended. -/
inductive PmbOutcome where
  | ok (value : Nat)
  | nack
  | pec
  deriving DecidableEq, Repr

/-- The commands: one constructor per row of spec/opcode_table.json, in the table's order. -/
inductive Instr where
  /-- REGISTER_WRITE (R16): A write by the host, Conductor or Match chain to a register that has no row of its own,
  applied field by field under its access codes. -/
  | registerWrite (src : Src) (page off value : Nat) (poison : Bool)
  /-- SOFT_RESET (R36): A write of 1 to a page's CTRL.SOFT_RESET returns the page to its reset values except LOCK,
  locked RWL fields and the error registers, and drops the work in flight. -/
  | softReset (page : Nat)
  /-- CTRL_ENABLE_WRITE (R37): A write of a page's CTRL.ENABLE; a write of 0 stops new work and ends the work in
  flight with the block's outcome. -/
  | ctrlEnableWrite (page : Nat) (on : Bool)
  /-- LOCK_WRITE (R14): A write of 1 to a page's CTRL.LOCK locks every RWL field of the page until device reset. -/
  | lockWrite (page : Nat)
  /-- CONFIG_WATCH_VISIT (R413): Every 2,048 CCLK the configuration watch recomputes one page's CFG_CRC and sets
  FAULT.CFG on a difference. -/
  | configWatchVisit (upsetOff upsetMask : Nat)
  /-- ANG_ENABLE (R48): ANG.CTRL.ENABLE changing from 0 to 1 loads PRESET and starts or holds the angle by source,
  or is refused. -/
  | angEnable
  /-- ANG_DISABLE (R58): ANG.CTRL.ENABLE written 0 stops the angle, ends pending WAIT_ANGLEs, disarms one-shot
  alarms and clears the lock state. -/
  | angDisable
  /-- SYNC_IN_EDGE (R49): A deglitched SYNC_IN edge of the selected polarity is accepted or rejected against its
  window and updates the loop. -/
  | syncInEdge
  /-- EDGE_WINDOW_CLOSE (R49): An acceptance window closes without an accepted edge and counts one missed edge. -/
  | edgeWindowClose
  /-- CYCLE_BOUNDARY (R41): The phase passes through zero; a pending rate change takes effect and the CYCLE producer
  is presented. -/
  | cycleBoundary
  /-- VIRTUAL_CYCLE_END (R45): A virtual cycle ends on its last CCLK and the angle steps forward exactly to the
  boundary. -/
  | virtualCycleEnd
  /-- VPERIOD_WRITE (R45): A write of ANG.VPERIOD.PERIOD is stored and taken at the next boundary or enable, or
  refused when out of range. -/
  | vperiodWrite (value : Nat)
  /-- ALARM_FIRE (R57): An armed angle alarm reaches its target, sets FLAG.ALARMn, raises its event and may wake the
  Board. -/
  | alarmFire (n : Nat) (late : Bool)
  /-- SYNC_OUT_PULSE (R63): The phase reaches ANG.SYNC_OUT.ANGLE and SYNC_OUT goes high. -/
  | syncOutPulse
  /-- SYNC_OUT_PULSE_END (R63): WIDTH × 64 CCLK after it began, the SYNC_OUT pulse ends. -/
  | syncOutPulseEnd
  /-- ACCUMULATOR_MISMATCH (R64): The duplicated angle accumulators disagree; FAULT.DUP is set and the agreeing
  accumulator is kept. -/
  | accumulatorMismatch (second : Bool)
  /-- ROLE_DECISION (R68): Within 10 µs of RESET_N release a Board becomes follower if MCLKI toggles, otherwise
  head. -/
  | roleDecision (mclkToggles : Bool)
  /-- IDLE_CELL (R79): An IDLE cell carrying the head's angle arrives; a follower takes or checks its angle against
  it. -/
  | idleCell (c : CellHead) (angle : Nat)
  /-- RATE_CELL (R81): A RATE cell arrives and its rate is scheduled for the named cycle boundary. -/
  | rateCell (c : CellHead) (boundary rate : Nat)
  /-- STATE_CELL (R81): A STATE cell arrives and the follower copies the head's lock and holdover flags and the
  Board count. -/
  | stateCell (c : CellHead) (tag count : Nat)
  /-- COUNT_CELL (R75): A COUNT cell arrives; a follower stores its position and forwards the incremented payload,
  or the head stores the count. -/
  | countCell (c : CellHead) (count : Nat)
  /-- RANGE_START_CELL (R77): A RANGE start cell arrives; the Board forwards it, stops forwarding and sends echo
  pulses. -/
  | rangeStartCell (c : CellHead)
  /-- RANGE_RESULT_CELL (R77): A RANGE result cell arrives; the Board stores its offset and adds its hop value
  before forwarding. -/
  | rangeResultCell (c : CellHead) (value : Nat)
  /-- HELLO_CELL (R76): A HELLO cell arrives; a duplicate number is detected and the head starts ranging once all
  followers have answered. -/
  | helloCell (c : CellHead) (position : Nat)
  /-- LAUNCH_CELL (R84): A LAUNCH cell arrives and arms, replaces or fires each enabled launch slot with the
  matching token. -/
  | launchCell (c : CellHead) (token angle : Nat)
  /-- EVENT_CELL (R85): An EVENT cell arrives and its channel's delivery is held pending until the launch angle. -/
  | eventCell (c : CellHead) (channel hop angle : Nat)
  /-- REPORT_CELL (R86): The report token arrives; a Board with pending words takes it, otherwise forwards it. -/
  | reportCell (c : CellHead)
  /-- BAD_CELL (R73): A cell with bad SYNC, CRC or a reserved TYPE is replaced by a VOID and counted. -/
  | badCell (word : Nat)
  /-- CELL_RESEND (R73): An originated cell not returned within RING.DELAY + 160 CCLK is sent once more, or declared
  lost. -/
  | cellResend (type : Nat)
  /-- COUNT_TIMEOUT (R75): A COUNT cell not returned within 65,536 CCLK sets FLAG.RING_OPEN. -/
  | countTimeout
  /-- DISCOVER (R75): MCH.CMD.DISCOVER on the head sends a COUNT cell. -/
  | discover
  /-- RANGE (R77): MCH.CMD.RANGE on the head starts ranging with a RANGE start cell. -/
  | range
  /-- ECHO_WINDOW_END (R77): After the echo window the head sends the RANGE result cell. -/
  | echoWindowEnd (roundTrips : List Nat)
  /-- BOARD_NUM (R74): A write of DEV.BOARD_NUM assigns a number at frame end, drives ENUMO and sends HELLO, or
  unassigns or is refused. -/
  | boardNum (value : Nat) (broadcast enumi : Bool)
  /-- POST_TOKEN (R84): A write of MCH.POST_TOKEN sends a LAUNCH cell with the token and MCH.POST_ANGLE. -/
  | postToken (token : Nat)
  /-- LSLOT_FIRE (R84): An armed launch slot reaches its angle, sets FLAG.LSLOTs and raises its event. -/
  | lslotFire (slot : Nat) (late : Bool)
  /-- CHAIN_LINKED_DELIVERY (R289): A pending chain-linked delivery is made when the Board's angle reaches its
  launch angle. -/
  | chainLinkedDelivery (ch angle : Nat)
  /-- TOKEN_HOLD_LIMIT (R86): A Board that has held the report token for HOLD_LIMIT µs reinserts it after the unit
  in progress. -/
  | tokenHoldLimit
  /-- REPORT_TOKEN_TIMEOUT (R86): No REPORT cell for HOLD_LIMIT + 100 µs at the head makes the head create a new
  token. -/
  | reportTokenTimeout
  /-- CHAIN_ANGLE_LOST (R87): A follower loses alignment, IDLE cells or MCLK and runs on at its own angle without
  originating cells. -/
  | chainAngleLost (mclk : Bool)
  /-- SWITCH_READBACK_FAULT (R91): A port switch readback that disagrees for 216 CCLK sets FAULT.SWITCHr and ends
  the field as an antenna-path fault. -/
  | switchReadbackFault (port : Nat)
  /-- TUNE_WRITE (R94): A write of FILf.TUNE changes the bank at the next carrier cycle, restarts Kibitz learning
  and overrides a running auto-tune. -/
  | tuneWrite (src : Src) (port value : Nat)
  /-- ATUNE_START (R96): A write of 1 to TXCn.ATUNE.START begins auto-tune on ATUNE.PORT, or ends it DISABLED,
  BAD_PORT, BUSY or LATE. -/
  | atuneStart (n : Nat)
  /-- ATUNE_COMPLETE (R96): The auto-tune scan and ramp-down end and the result DONE or FAIL is written. -/
  | atuneComplete (n : Nat) (gammas : List Nat)
  /-- FIELD_LAUNCH (R103): A field move's launch comparator fires and the ramp begins at the next carrier-cycle
  boundary once lock and rail are present. -/
  | fieldLaunch (n : Nat)
  /-- PLATEAU (R120): A field reaches its plateau and the adjacency colour and phase checks are made. -/
  | plateau (n : Nat)
  /-- SETTLE_END (R105): The settle time ends, the field is ON and the move ends DONE. -/
  | settleEnd (n : Nat)
  /-- RAMP_DOWN_END (R104): A ramp-down ends; the switch goes to OPEN and FIELD_OFF marks the end of the field. -/
  | rampDownEnd (n : Nat)
  /-- MONITOR_MEAN (R100): Every 16 carrier cycles the forward and reflected monitors update TXCn.MON. -/
  | monitorMean (n fwd refl sq : Nat)
  /-- PA_OVERCURRENT (R111): Output-stage current above its limit for 216 CCLK sets FAULT.OC. -/
  | paOvercurrent (n : Nat)
  /-- TXC_CONTROL_MISMATCH (R111): The duplicated ramp, modulation or switch controls disagree and FAULT.CTRL is
  set. -/
  | txcControlMismatch (n : Nat)
  /-- TXC8_ASSIGN (R115): A write of 1–8 to TXC8.CFG.ASSIGN assigns TXC8 to a Wing. -/
  | txc8Assign (value : Nat)
  /-- TXC8_RELEASE (R115): A write of 9 to TXC8.CFG.ASSIGN releases TXC8 once its field is off. -/
  | txc8Release
  /-- RAIL_LOWERING (R109): After the demand stays below the requested voltage for the lowering delay, the sequencer
  requests the lower voltage. -/
  | railLowering (rail : Nat)
  /-- RAIL_ACK (R395): A rail request is acknowledged by power-good or by polling, and waiting field-ons proceed. -/
  | railAck (rail : Nat)
  /-- TAP_READBACK_FAULT (R130): A tap selector readback that disagrees for 216 CCLK sets FAULT.TAP. -/
  | tapReadbackFault (n : Nat)
  /-- LEAK_CONVERGED (R132): After 64 samples of convergence the leak canceller sets READY.LEAK, or FLAG.LEAK_HIGH
  if the residual is high. -/
  | leakConverged (n i q residual : Nat)
  /-- CHECK_TONE_BLOCK (R134): Each block of 64 samples the chain measures the check tone and updates RXCn.CHECK. -/
  | checkToneBlock (n amp phase : Nat)
  /-- RXC_CONTROL_MISMATCH (R149): The duplicated gain, tap or decoder controls disagree and FAULT.CTRL is set. -/
  | rxcControlMismatch (n : Nat)
  /-- AGC_BLOCK (R136): After each block of 8 samples the fast AGC measures power and changes the gain. -/
  | agcBlock (n : Nat) (samples : List Nat)
  /-- PREAMBLE_DETECT (R139): The correlator finds DET.HOLD qualifying samples, freezes the AGC and starts fine
  timing. -/
  | preambleDetect (n : Nat) (samples : List Nat)
  /-- FINE_TIMING_DECISION (R140): At sample d + 135 the preamble is accepted with its timing origin, or fine timing
  fails. -/
  | fineTimingDecision (n : Nat) (samples : List Nat)
  /-- CAPTURE_WATCH_FIRE (R142): A stronger packet is detected during a frame and the chain switches to it or keeps
  the frame. -/
  | captureWatchFire (n : Nat) (samples : List Nat)
  /-- LEGACY_FRAME_START (R143): A legacy frame start is found and the subcarrier axis is estimated. -/
  | legacyFrameStart (n : Nat) (env : List (Int × Int))
  /-- LEGACY_FRAME_END (R135): A legacy frame ends, is handed to its engine with its mark, and stepped gain updates. -/
  | legacyFrameEnd (n : Nat) (clipped : Bool) (halves : List ((Int × Int) × (Int × Int)))
  /-- CAPTURE_START (R147): A write of 1 to CAP_CFG.START arms a sample capture or refuses it. -/
  | captureStart (n : Nat)
  /-- CAPTURE_STOP (R147): A write of 1 to CAP_CFG.STOP ends a running or armed capture STOPPED. -/
  | captureStop (n : Nat) (samples : List Nat)
  /-- CAPTURE_TRIGGER (R147): The selected trigger arrives and the capture records the trigger sample. -/
  | captureTrigger (n trig : Nat) (samples : List Nat)
  /-- CAPTURE_DONE (R147): The capture has written its last sample and ends DONE. -/
  | captureDone (n : Nat) (samples : List Nat)
  /-- CAPTURE_OVERRUN (R148): Memory writes deferred beyond 16 samples end the capture OVERRUN. -/
  | captureOverrun (n : Nat) (samples : List Nat)
  /-- RXC16_ASSIGN (R151): A write of 1–16 to RXC16.CFG.ASSIGN puts RXC16 in place of a chain. -/
  | rxc16Assign (value : Nat)
  /-- RXC16_RELEASE (R151): A write of 17 to RXC16.CFG.ASSIGN releases RXC16 once no listen or capture is in flight. -/
  | rxc16Release
  /-- REPLY_FRAME (R160): A tag reply is received whole, checked and written to the receive record with its status. -/
  | replyFrame (w : Nat) (r : Reply)
  /-- REPLY_WAIT_END (R164): The reply wait ends with no frame start and the record is written NO_RESPONSE. -/
  | replyWaitEnd (w : Nat)
  /-- PRT_ENGINE_MISMATCH (R181): A protocol engine's duplicated logic disagrees; its move ends FAULTED and a third
  mismatch takes it out of service. -/
  | prtEngineMismatch (w : Nat)
  /-- BLITZ_HEADER (R192): A Blitz header is decoded, checked and the Book to decode with is chosen. -/
  | blitzHeader (w : Nat) (samples : List Nat)
  /-- BLITZ_FRAME_END (R195): A Blitz frame ends; its CRC is checked, the record and link quality are written. -/
  | blitzFrameEnd (w : Nat) (f : BlitzFrame)
  /-- LANE_MISMATCH (R215): A Blitz lane's duplicated logic disagrees; its move ends FAULTED and a third mismatch
  takes it out of service. -/
  | laneMismatch (w : Nat)
  /-- INV_START (R225): INV.CMD.START starts a timed pass, or is refused for a bad plan. -/
  | invStart
  /-- INV_DISCOVER (R227): INV.CMD.DISCOVER starts a discovery pass over the queued ports. -/
  | invDiscover
  /-- INV_STOP (R229): INV.CMD.STOP lets the round in flight end and ends the pass. -/
  | invStop
  /-- ROUND_LAUNCH (R225): An inventory round launches by slot, token or back-to-back and gives each named port
  CONFIRM or PROBE. -/
  | roundLaunch (late : Bool)
  /-- PASS_END (R225): A pass ends after its last round; a repeating or discovery pass may follow. -/
  | passEnd
  /-- INV_SCHED_MISMATCH (R247): The duplicated inventory scheduler disagrees; the round's fields ramp down and the
  pass ends FAULTED. -/
  | invSchedMismatch
  /-- SWEEP_START (R232): The Kibitz sweep period expires and a sweep of the ports begins. -/
  | sweepStart
  /-- PING (R233): A Kibitz ping on one port ends and is judged against the port's baseline. -/
  | ping (port : Nat) (p : PingResult)
  /-- SWEEP_END (R232): A Kibitz sweep ends and presents the sweep-end event. -/
  | sweepEnd
  /-- PEND_HANDOFF (R236): On the first edge after a wake with INV enabled, changes held in KBZ.PEND are queued and
  recorded. -/
  | pendHandoff
  /-- KBZ_MISMATCH (R247): The duplicated Kibitz threshold logic disagrees; FAULT.CMP is set and the ping discarded. -/
  | kbzMismatch
  /-- CONTEXT_START (R251): A write of CTXj_CTRL.START starts a stopped context at CTXj_ENTRY, or is refused. -/
  | contextStart (src : Src) (c : Nat)
  /-- CONTEXT_ABORT (R266): A write of CTXj_CTRL.ABORT aborts the move in flight unless its completion comes first. -/
  | contextAbort (c : Nat)
  /-- CONTEXT_HALT (R267): A write of CTXj_CTRL.HALT aborts the move in flight and stops the context. -/
  | contextHalt (c : Nat)
  /-- MOVE_FETCH (R253): A move's words arrive from SRAM or the window and the move is issued, or the context stops. -/
  | moveFetch (c : Nat)
  /-- WING_CLAIM_GRANT (R259): A released Wing claim passes to the waiting context. -/
  | wingClaimGrant (w : Nat)
  /-- RF_MOVE_LAUNCH (R257): An RF move's launch comparator fires and the move launches at the next carrier-cycle
  boundary. -/
  | rfMoveLaunch (c : Nat) (late : Bool)
  /-- LATE_LIMIT_EXPIRY (R257): A move still waiting at T + LATE_LIMIT ends LATE without acting. -/
  | lateLimitExpiry (c : Nat)
  /-- MOVE_COMPLETION (R264): A block reports a move's status and the context goes on at its next move. -/
  | moveCompletion (c : Nat)
  /-- LOCKSTEP_MISMATCH (R269): The two Conductor engines disagree; outputs are suppressed and every context reloads
  from its checkpoint. -/
  | lockstepMismatch
  /-- STOP (R262): The STOP move stops the context and raises its DONE event. -/
  | stop (c : Nat)
  /-- FIELD (R103): A FIELD move arms a field-on, port change or field-off for its Wing. -/
  | field (c : Nat) (h : Launch) (off : Bool) (port : Nat)
  /-- TUNE (R260): A TUNE move runs auto-tune on a named port. -/
  | tune (c : Nat) (h : Launch) (reserve : Bool) (port : Nat)
  /-- SEND (R260): A SEND move sends a transmit descriptor's frame. -/
  | send (c : Nat) (h : Launch) (desc : Nat)
  /-- LISTEN (R260): A LISTEN move receives a frame of the named protocol into a receive record. -/
  | listen (c : Nat) (h : Launch) (a : ListenArgs)
  /-- XCHG (R260): An XCHG move sends a frame and receives the reply, legacy or Blitz. -/
  | xchg (c : Nat) (h : Launch) (tapEn blitz : Bool) (tapPort desc dest : Nat)
  /-- ANTICOLL (R171): An ANTICOLL move runs the anticollision procedure of its protocol and writes one entry per
  tag. -/
  | anticoll (c : Nat) (h : Launch) (a : AnticollArgs)
  /-- INVENTORY (R262): An INVENTORY move writes INV.CMD and optionally waits for the pass to end. -/
  | inventory (c : Nat) (wait : Bool) (action : Nat)
  /-- SOUND (R211): A SOUND move runs a quiet listen, sends SOUND and writes the port's measurement record. -/
  | sound (c : Nat) (h : Launch) (coloured : Bool)
  /-- BOOK (R213): A BOOK move computes a Book from the measurement record and loads it into the tag. -/
  | book (c : Nat) (h : Launch) (coloured : Bool)
  /-- GAMBIT (R204): A GAMBIT move moves an ACTIVE tag into Blitz and may reload its Book. -/
  | gambit (c : Nat) (h : Launch) (reload : Bool)
  /-- SEAL (R241): A SEAL move runs the five steps of a Sealed write on a Blitz tag. -/
  | seal (c : Nat) (h : Launch) (job : Nat)
  /-- WAIT_ANGLE (R262): A WAIT_ANGLE move arms the context's angle comparator. -/
  | waitAngle (c when_ angle : Nat)
  /-- WAIT_ANGLE_FIRE (R262): The context's comparator reaches its target and the WAIT_ANGLE ends DONE or LATE. -/
  | waitAngleFire (c : Nat) (late : Bool)
  /-- WAIT_EVENT (R262): A WAIT_EVENT move waits for the first delivery of a channel. -/
  | waitEvent (c ch timeout : Nat)
  /-- WAIT_EVENT_TIMEOUT (R262): A WAIT_EVENT's timeout passes and the move ends TIMEOUT. -/
  | waitEventTimeout (c : Nat)
  /-- RAISE (R286): A RAISE move presents the context's producer to a channel and ends DONE or REFUSED. -/
  | raise (c ch : Nat)
  /-- BRANCH (R262): A BRANCH move replaces the next address when its condition holds. -/
  | branch (c cond imm reg target : Nat)
  /-- CALL (R262): A CALL move pushes the next address and jumps to its target. -/
  | call (c target : Nat)
  /-- RETURN (R262): A RETURN move pops the next address from the call stack. -/
  | ret (c : Nat)
  /-- LOAD (R262): A LOAD move loads a word or immediate value into an accumulator. -/
  | load (c : Nat) (imm : Bool) (reg value : Nat)
  /-- STORE (R262): A STORE move writes an accumulator to an address. -/
  | store (c reg addr : Nat)
  /-- COPY (R262): A COPY move copies COUNT words from source to destination in ascending order. -/
  | copy (c count src dst : Nat)
  /-- LOG (R262): A LOG move queues a USER record to the Scoresheet. -/
  | log (c tag value : Nat)
  /-- PRODUCER_EVENT (R279): A producer presents an event, which the Arbiter numbers and each enabling channel
  accepts. -/
  | producerEvent (p hop : Nat)
  /-- CHANNEL_DELIVERY (R279): A channel delivers an accepted event after its delay and triggers every enabled task. -/
  | channelDelivery (ch : Nat)
  /-- HOST_FIRE (R286): A write of ARB.FIRE0 or FIRE1 presents the HOST producer to the named channels. -/
  | hostFire (high : Bool) (mask : Nat)
  /-- GPIO_EDGE (R288): A selected edge on a GPIO presents its producer 2 CCLK after sampling. -/
  | gpioEdge (n : Nat) (rising : Bool)
  /-- ARB_MISMATCH (R291): The duplicated Arbiter disagrees and the edge is recomputed, or its deliveries are
  dropped on a second mismatch. -/
  | arbMismatch (second : Bool)
  /-- CAL_DUE (R296): A calibration instance falls due by its period, temperature change or enable. -/
  | calDue (inst : Nat)
  /-- WING_WINDOW (R297): The built-in work takes a free Wing as context 11 and runs TXP and RXP on its chains. -/
  | wingWindow (w : Nat)
  /-- CAL_RUN_END (R300): A calibration run ends and is accepted or rejected by repeat agreement. -/
  | calRunEnd (inst : Nat) (readings : List Nat)
  /-- CAL_YIELD (R298): A calibration stops within 2 µs because foreground work waits for it. -/
  | calYield
  /-- CAL_STARVED (R299): An instance due for SHARE.PERIOD without an adopted result sets FLAG.STARVED. -/
  | calStarved (inst : Nat)
  /-- FORCED_WINDOW (R299): A starved Wing's next release grants a forced calibration window that does not yield. -/
  | forcedWindow (w : Nat)
  /-- APPLY_POINT (R303): The apply point is reached and every pending correction is applied together. -/
  | applyPoint
  /-- SOLO_APPLY (R303): In Solo operation a pending correction is applied at the first carrier-cycle boundary with
  no frame in the way. -/
  | soloApply
  /-- XB_ARM (R305): A write of CAL.XB_CFG.ARM arms a cross-Board phase measurement on a launch slot. -/
  | xbArm
  /-- XB_MEASUREMENT (R305): The armed slot fires and the Board drives or listens for the cross-Board measurement. -/
  | xbMeasurement (readings : List Nat)
  /-- XB_PEER (R306): A write of CAL.XB_PEER computes the carrier trim candidate from the two readings, or is
  refused. -/
  | xbPeer (phase : Nat)
  /-- CAL_MISMATCH (R314): The duplicated CAL acceptance logic disagrees and the run in flight is discarded. -/
  | calMismatch
  /-- SCO_MOUNT (R312): On enable with external memory ready, or on REMOUNT, the Scoresheet validates and mounts its
  region. -/
  | scoMount (sectors : List SectorScan)
  /-- REMOUNT (R312): SCO.CMD.REMOUNT mounts the region again. -/
  | remount (sectors : List SectorScan)
  /-- FORMAT (R312): SCO.CMD.FORMAT erases sector 0 of an unmounted region and writes its header. -/
  | format
  /-- TEL_NOW (R309): SCO.CMD.TEL_NOW queues a TELEMETRY record. -/
  | telNow (t : TelReading)
  /-- TELEMETRY_TIMER (R309): Every TEL.PERIOD seconds a TELEMETRY record is queued. -/
  | telemetryTimer (t : TelReading)
  /-- RECORD_PROGRAMMED (R310): A queued record has been programmed into its slot, or the program failed. -/
  | recordProgrammed (ok : Bool)
  /-- SECTOR_ERASED (R310): The next sector of the ring is erased and its header written. -/
  | sectorErased (ok : Bool)
  /-- SRAM_READ (R320): A word read ends clean, corrected, rebuilt, poisoned or already poisoned, with write-back. -/
  | sramRead (addr : Nat)
  /-- SRAM_WRITE (R321): A word write stores fresh check bits, clears poison and updates the line's parity. -/
  | sramWrite (addr value : Nat)
  /-- CODEC_MISMATCH (R327): The duplicated codec disagrees twice and the word is delivered poisoned. -/
  | codecMismatch (addr : Nat)
  /-- SCRUB_LINE (R329): Every INTERVAL CCLK the scrubber reads and repairs one line. -/
  | scrubLine
  /-- SCB_PERIOD_WRITE (R329): A write of SCB.CFG.PERIOD recomputes INTERVAL on its edge. -/
  | scbPeriodWrite (value : Nat)
  /-- SCRUB_SEQ_MISMATCH (R330): The duplicated line counter disagrees and the pass restarts at line 0. -/
  | scrubSeqMismatch
  /-- MEM_SELF_TEST (R332): After a reset the controller marches and injection-tests every bank and zeroes it. -/
  | memSelfTest (fails : Nat)
  /-- BANK_ZEROING (R334): On a wake, banks not retained are zeroed. -/
  | bankZeroing
  /-- BIST_GO (R334): A write of MEM.BIST.GO self-tests one bank, or is refused. -/
  | bistGo
  /-- INJ_GO (R335): A write of MEM.INJ.GO inverts stored bits of a word or parity word. -/
  | injGo
  /-- INJ_RAW (R335): A write of MEM.INJ.RAW copies the target's stored bits into MEM.RAW and RAW_CHK. -/
  | injRaw
  /-- MEM_WINDOW_READ (R328): A host read of MEM.WINk reads the SRAM word and records its poison mark. -/
  | memWindowRead (k : Nat)
  /-- MEM_WINDOW_WRITE (R328): A host write of MEM.WINk writes the SRAM word. -/
  | memWindowWrite (k value : Nat)
  /-- CKU_START (R337): CKU.CMD.START captures CFG and loads the seed of the block. -/
  | ckuStart (n : Nat)
  /-- CKU_DATA (R337): A write of CKU.DATAn feeds n bytes into the running CRC. -/
  | ckuData (n m value : Nat) (poison : Bool)
  /-- CKU_END (R338): CKU.CMD.END finishes the CRC, writes RESULT and does the mode's comparison or counter work. -/
  | ckuEnd (n : Nat)
  /-- CKU_RUN_WRITE (R341): A write of CKU.RUN replaces the running register. -/
  | ckuRunWrite (n value : Nat)
  /-- CKU_LOGIC_MISMATCH (R341): The duplicated CRC logic disagrees and the open block is marked poisoned. -/
  | ckuLogicMismatch (n : Nat)
  /-- HOST_READ (R356): A READ frame returns registers from page:offset with auto-increment. -/
  | hostRead (board page off count : Nat) (late : List Nat) (enumi : Bool)
  /-- HOST_WRITE (R357): A WRITE frame applies registers from page:offset in offset order. -/
  | hostWrite (f : WriteFrame)
  /-- STATUS (R367): A CONTROL STATUS frame returns the status byte. -/
  | status (board : Nat) (enumi : Bool)
  /-- RESIGN_FRAME (R367): A CONTROL RESIGN frame requests Resign. -/
  | resignFrame (board : Nat) (enumi : Bool)
  /-- SDR_RESET_PULSE (R347): An HSEL_N low pulse of 2 µs without HCLK sets HPT.CFG.MODE to SDR. -/
  | sdrResetPulse
  /-- RUNT (R361): HSEL_N rises before byte 2 is complete, or a DDR frame begins with HCLK high. -/
  | runt (ddr otherBoard : Bool) (bytes : Nat)
  /-- CLK_NO_SEL (R361): HCLK toggles while HSEL_N and HMSEL_N are high. -/
  | clkNoSel
  /-- RPT_PUSH (R363): A write of HPT.RPT_PUSH appends a report word, or drops it when the queue is full. -/
  | rptPush (value : Nat)
  /-- RPT_POP (R363): A read of HPT.RPT_POP removes and returns the oldest report word. -/
  | rptPop
  /-- REPORT_UNIT (R365): A token holder masters the host port and starts sending a report unit. -/
  | reportUnit
  /-- REPORT_UNIT_END (R365): The last nibble of a report unit is sent and the bus released. -/
  | reportUnitEnd
  /-- MASTER_COLLISION (R366): HSEL_N falls while the Board masters; it releases the bus and reinserts the token. -/
  | masterCollision
  /-- DECODER_MISMATCH (R368): The duplicated frame decoder disagrees and the rest of the frame is discarded. -/
  | decoderMismatch
  /-- XMP_DISCOVERY (R374): XMP enable resets the devices, reads SFDP and selects each device's mode. -/
  | xmpDiscovery
  /-- DISCOVERY_END (R374): External memory discovery ends and READY.READY shows whether device 0 is present. -/
  | discoveryEnd (devs : List FlashDev)
  /-- LINE_FETCH (R377): A 64-byte line fetch from flash completes into the buffer, or fails and poisons its words. -/
  | lineFetch (line : Nat) (data : List Nat) (ok : Bool)
  /-- PAGE_PROGRAM (R380): A flash page program completes and is compared, or fails. -/
  | pageProgram (dev : Nat) (ok : Bool)
  /-- XMP_ERASE (R383): XMP.ERASE.GO queues an erase of one region, or refuses it. -/
  | xmpErase
  /-- ERASE_COMPLETE (R383): A flash erase ends done or failed. -/
  | eraseComplete (dev : Nat) (ok : Bool)
  /-- XMP_WINDOW_READ (R377): A host read of XMP.WINk reads five window bytes. -/
  | xmpWindowRead (k : Nat)
  /-- XMP_WINDOW_WRITE (R380): A host write of XMP.WINk is translated into page programs. -/
  | xmpWindowWrite (k value : Nat)
  /-- XMP_MISMATCH (R385): The duplicated flash controller disagrees and the operation fails. -/
  | xmpMismatch
  /-- MODE_REQ (R390): A write of PWR.MODE_REQ runs the entry sequence to a lower mode or a wake to RUN. -/
  | modeReq (src : Src) (mode : Nat)
  /-- ENTRY_DONE (R390): The entry sequence's field-off, flash and drain waits end and CORE is isolated and rails
  turned off. -/
  | entryDone
  /-- WAKE_SOURCE (R391): An enabled wake source starts the wake of a Board below RUN. -/
  | wakeSource (cause : Nat)
  /-- WAKE_COMPLETE (R392): DEV.READY.READY becomes 1, the mode becomes RUN and the wake context may start. -/
  | wakeComplete
  /-- PMBUS_TRANSACTION (R394): A PMBus transaction completes, or fails and is repeated. -/
  | pmbusTransaction (rail cmd : Nat) (outcome : PmbOutcome)
  /-- RAIL_ATTEMPT_TIMEOUT (R395): A rail attempt not acknowledged within PG_TIMEOUT fails and is retried or the
  rail FAILED. -/
  | railAttemptTimeout (rail : Nat)
  /-- POWER_GOOD_LOST (R396): A power-good ball falls while its rail is acknowledged. -/
  | powerGoodLost (rail : Nat)
  /-- SAFE_REQUEST_DONE (R397): The safe request's last transaction ends and the PA rails are off. -/
  | safeRequestDone
  /-- REFERENCE_CHECK_PASSED (R398): The reference passes 4,096 windows of its check and CCLK may run from it. -/
  | referenceCheckPassed
  /-- SYN_LOCK (R398): The carrier synthesiser locks. -/
  | synLock
  /-- XTAL_TIMEOUT (R399): The reference has not passed its check within XTAL_TIMEOUT and CORE runs from the RC
  oscillator. -/
  | xtalTimeout
  /-- REFERENCE_LOSS (R400): Two bad windows switch CCLK to the RC path and stop every output stage. -/
  | referenceLoss
  /-- CLK_RESTORE (R400): CLK.CMD.RESTORE returns CCLK to the reference, or is refused. -/
  | clkRestore
  /-- SYN_UNLOCK (R400): The synthesiser loses lock while the reference holds and the output stages stop. -/
  | synUnlock
  /-- CLK_DISABLE (R398): CLK.CTRL.ENABLE written 0 ramps every field down and stops the synthesiser. -/
  | clkDisable
  /-- POWER_ON_RESET (R401): VDD_AON below or rising through 1.62 V resets everything. -/
  | powerOnReset
  /-- RESET_N (R401): RESET_N low for 1 µs resets the Board except the kept state. -/
  | resetN
  /-- CHIP_RESET (R401): A write of 0xC3 to DEV.CMD.CHIP_RESET resets the Board as RESET_N does. -/
  | chipReset (value : Nat)
  /-- THERMAL_READING (R404): Every 20 µs the junction sensor is read and throttle or shutdown applied. -/
  | thermalReading (tj : Nat)
  /-- SUPPLY_MONITOR_FAULT (R412): An AON supply monitor finds its supply out of range for its filter time. -/
  | supplyMonitorFault (unit : Nat)
  /-- CCLK_STOP (R412): The AON monitor sees no CCLK/64 edge for 1 µs. -/
  | cclkStop
  /-- FAULT_MANAGER_MISMATCH (R414): The fault manager's duplicated decision logic disagrees and the decision is
  recomputed. -/
  | faultManagerMismatch
  /-- RESIGN_N_LOW (R417): RESIGN_N low for 1 µs requests Resign. -/
  | resignNLow
  /-- RESIGN_RAMP_END (R418): 10 µs after the request the Resign ramps end and the safe request begins. -/
  | resignRampEnd
  /-- RESIGN_RELEASE (R420): A write of 0x5A to FLT.CMD.RELEASE ends a Resign, or is refused. -/
  | resignRelease (value : Nat)
  /-- TST_ARM (R422): A write of TST.ARM.KEY arms the test page for 65,536 CCLK, or disarms or is refused. -/
  | tstArm (key : Nat)
  /-- TST_ARM_EXPIRY (R422): 65,536 CCLK after arming the test page disarms. -/
  | tstArmExpiry
  /-- TST_INJECT (R423): A write of TST.INJ.GO makes the named injection into one checker, or is refused. -/
  | tstInject (unit inst : Nat)
  /-- INJECTION_OUTCOME_TIMEOUT (R424): An injection not detected within 1.1 ms is recorded MISSED. -/
  | injectionOutcomeTimeout
  /-- JTAG_INSTRUCTION (R450): An IEEE 1149.1 instruction loaded into the test access port takes effect. -/
  | jtagInstruction (code : Nat)
  /-- VOID_CELL (R72): A VOID cell arrives at a Board, which may insert a queued cell in its slot, and the head
  turns a returning VOID into an IDLE. -/
  | voidCell (c : CellHead)
  /-- BAD_OPCODE (R354): A host frame with OP 0b11, or a CONTROL frame with an unknown function or argument, is
  logged as BAD_OPCODE and its effect ends. -/
  | badOpcode (board op page off bytes : Nat) (enumi : Bool)
  /-- TRST_N (R401): TRST_N low resets the IEEE 1149.1 test logic, which then selects IDCODE. -/
  | trstN
  deriving DecidableEq, Repr

end Sys2Proof
end

