-- ==== Sys2Proof/Machine/Flags.lean ====
section
/-! DEFINITION. The check values and comparisons the blocks compute: the CRCs of R39, R162, R193 and R336, and exact
integer tests for the figures the spec gives in dB. -/

namespace Sys2Proof.Machine

open Sys2Proof

/-- One bit of a reflected CRC. -/
def crcBit (poly r : Nat) : Nat := if r % 2 = 1 then (r / 2) ^^^ poly else r / 2

/-- One byte of a reflected CRC, least significant bit first (R336). -/
def crcByte (poly r b : Nat) : Nat :=
  let x := r ^^^ (b % 256)
  crcBit poly (crcBit poly (crcBit poly (crcBit poly (crcBit poly (crcBit poly (crcBit poly (crcBit poly x)))))))

/-- A reflected CRC over bytes from a running register. -/
def crcRun (poly r : Nat) (l : List Nat) : Nat := l.foldl (crcByte poly) r

/-- 0x1021 reflected (R336). -/
def poly16 : Nat := 0x8408

/-- 0x1EDC_6F41 reflected (R336). -/
def poly32 : Nat := 0x82F63B78

/-- CRC_A: initial value 0x6363, no final XOR (R336). -/
def crcA (l : List Nat) : Nat := crcRun poly16 0x6363 l

/-- CRC_B and the CRC-16 of ISO/IEC 13239: initial value and final XOR 0xFFFF (R336). -/
def crcB (l : List Nat) : Nat := crcRun poly16 0xFFFF l ^^^ 0xFFFF

/-- CRC-32C (R39, R336). -/
def crc32c (l : List Nat) : Nat := crcRun poly32 0xFFFFFFFF l ^^^ 0xFFFFFFFF

/-- CRC-32C with a seed folded by a 16-bit value: the Blitz payload check (R193). -/
def crc32cFold (f : Nat) (l : List Nat) : Nat :=
  crcRun poly32 (0xFFFFFFFF ^^^ (f % 65536 * 0x10001)) l ^^^ 0xFFFFFFFF

/-- CRC-8 with polynomial x^8 + x^2 + x + 1 from a running register, each byte most significant bit first (R192, R394). -/
def crc8Run (r : Nat) (l : List Nat) : Nat :=
  l.foldl (fun r b => (List.range 8).foldl (fun r _ => if r.testBit 7 then (r * 2 % 256) ^^^ 0x07 else r * 2 % 256) (r ^^^ b)) r

/-- `a / b` in dB is greater than `t` dB, as powers: a^10 > b^10 · 10^t. -/
def dbAbove (a b t : Nat) : Bool := decide (b ^ 10 * 10 ^ t < a ^ 10)

/-- Integer square root, rounded down. -/
def isqrt (n : Nat) : Nat := Nat.sqrt n

/-- Integer square root, rounded up. -/
def isqrtUp (n : Nat) : Nat := if Nat.sqrt n * Nat.sqrt n = n then Nat.sqrt n else Nat.sqrt n + 1

end Sys2Proof.Machine
end

