-- ==== Sys2Proof/Config.lean ====
section
/-! DEFINITION. The free values of the model: what the spec leaves open where the machine goes on.  Each is an opaque
constant without a body, applied to a counter of the state (`State.free`) or to the operands it depends on, so no proof
can rest on a value of it. -/

namespace Sys2Proof.Config

/-- The Arbiter sequence number shown by LAST_ERR.SEQ for an error recorded while CORE, and the Arbiter with it, is
unpowered (R22, R275, R282: no number is given).  Assumption 5. -/
opaque seqUnpowered : Nat → Nat

/-- The Board's own transceiver latency in 1/32 CCLK, which ranging removes from each round trip (R77: no value is
given).  Assumption 14. -/
opaque transceiverLatency : Nat

/-- The fixed MCLK repeater delay of a Board in 1/32 CCLK, which ranging adds (R77: no value is given).
Assumption 14. -/
opaque repeaterDelay : Nat

/-- The bits of a window word that the external memory port delivers poisoned: beyond the fitted flash or of a line whose
fetch failed (R373, R378: only the mark is stated). Assumption 15. -/
opaque windowPoison : Nat → Word

/-- RANK shown by a FIL page's STATUS while its fan-out drives no port (R91: RANK is stated for a driven port only). Assumption 16. -/
opaque undrivenRank : Nat → Nat

/-- The 16 bits, 8 of them fraction, of a Kibitz deviation whose update falls outside its format (R233: no result is
stated). Assumption 17. -/
opaque kibitzDeviation : Nat → BitVec 16

/-- RESP_TIME of a reply to an engine that has never sent a reader frame (R159, R191): the rules count it from the end of the latest one.
Assumption 18. -/
opaque cutReplyTime : Nat → BitVec 24

/-- A sample that a capture wrote of which no command brings the value (R147): a write of STOP or START, or a disable, ends the capture
without naming what it wrote. Assumption 91. -/
opaque unseenSample : Nat → Word

/-- The largest envelope magnitude of a legacy frame that is cut off (R135): no command brings it. Assumption 92. -/
opaque cutLevel : Nat → BitVec 20

/-- The old value, new value, spread and deviation of an adopted synthesiser calibration, whose result lies in internal
settings (R295, R301: no values are given for its CAL.LAST and record). Assumption 19. -/
opaque synCalibration : Nat → BitVec 32

/-- The four readings of 16 bits that a TELEMETRY record holds when a plain register write of SCO.CMD asks for it: the write brings no
measurement with it (R309). Assumption 20. -/
opaque telReading : Nat → BitVec 64

/-- How long a SOFT_RESET takes, as a number of which 1 and more up to the bound is used (R36, R421: a bound is given). Assumption 85. -/
opaque softResetTime : Nat → Nat

/-- How far a tick of the RC oscillator divided by 32 lies from its nominal length, as a number of which the remainder by 3 is used
(R62: about 1 µs, within the oscillator's error). Assumption 86. -/
opaque rcTick : Nat → Nat

end Sys2Proof.Config
end

