-- ==== Sys2Proof/Machine/Regs.lean ====
section
/-! DEFINITION. The register table of the spec: which offsets every page implements, their reset values and their
access codes, as masks, from the caption and field tables of the block chapters (R11, R13, R16, R29, R30, R32, R39). -/

namespace Sys2Proof.Machine

/-- A field of a register: the register's offset on its page and the field's bits [hi:lo] (R11). -/
structure Fld where
  off : Nat
  hi : Nat
  lo : Nat
  deriving DecidableEq, Repr

/-- One row of the register table: `count` registers `stride` apart from offset `base`, their reset value and the
masks of the bits under each access code of R13; `crc` marks the bits that CFG_CRC covers (R39). -/
structure RegRow where
  base : Nat
  count : Nat
  stride : Nat
  reset : Nat
  rw : Nat
  rwl : Nat
  w1c : Nat
  wo : Nat
  ro : Nat
  crc : Nat
  deriving DecidableEq, Repr

/-- The kinds of implemented page (R29); TXC8, RXC16, EVT6–EVT7 and CND0 have tables of their own. -/
inductive PageKind where
  | dev
  | pwr
  | clk
  | ang
  | mch
  | hpt
  | xmp
  | mem
  | scb
  | cku
  | flt
  | sco
  | txc
  | txc8
  | rxc
  | rxc16
  | fil
  | kbz
  | cal
  | prt
  | blz
  | inv
  | cnd0
  | cnd
  | evt
  | evt6
  | arb
  | tst
  deriving DecidableEq, Repr

/-- The kind of a page, `none` for a reserved page (R29). -/
def pageKind (p : Nat) : Option PageKind :=
  if p = 0x00 then some .dev
  else if p = 0x01 then some .pwr
  else if p = 0x02 then some .clk
  else if p = 0x03 then some .ang
  else if p = 0x04 then some .mch
  else if p = 0x05 then some .hpt
  else if p = 0x06 then some .xmp
  else if p = 0x07 then some .mem
  else if p = 0x08 then some .scb
  else if 0x0A ≤ p ∧ p ≤ 0x0D then some .cku
  else if p = 0x0E then some .flt
  else if p = 0x0F then some .sco
  else if 0x10 ≤ p ∧ p ≤ 0x17 then some .txc
  else if p = 0x18 then some .txc8
  else if 0x20 ≤ p ∧ p ≤ 0x2F then some .rxc
  else if p = 0x30 then some .rxc16
  else if 0x40 ≤ p ∧ p ≤ 0x57 then some .fil
  else if p = 0x60 then some .kbz
  else if p = 0x61 then some .cal
  else if p = 0x62 then some .prt
  else if p = 0x63 then some .blz
  else if p = 0x64 then some .inv
  else if p = 0x68 then some .cnd0
  else if 0x69 ≤ p ∧ p ≤ 0x6B then some .cnd
  else if 0x70 ≤ p ∧ p ≤ 0x75 then some .evt
  else if 0x76 ≤ p ∧ p ≤ 0x77 then some .evt6
  else if p = 0x78 then some .arb
  else if p = 0x7F then some .tst
  else none

/-- Page number of instance 0 of a block: the TYPE of ID (R32). -/
def PageKind.type : PageKind → Nat
  | .dev => 0x00
  | .pwr => 0x01
  | .clk => 0x02
  | .ang => 0x03
  | .mch => 0x04
  | .hpt => 0x05
  | .xmp => 0x06
  | .mem => 0x07
  | .scb => 0x08
  | .cku => 0x0A
  | .flt => 0x0E
  | .sco => 0x0F
  | .txc => 0x10
  | .txc8 => 0x10
  | .rxc => 0x20
  | .rxc16 => 0x20
  | .fil => 0x40
  | .kbz => 0x60
  | .cal => 0x61
  | .prt => 0x62
  | .blz => 0x63
  | .inv => 0x64
  | .cnd0 => 0x68
  | .cnd => 0x68
  | .evt => 0x70
  | .evt6 => 0x70
  | .arb => 0x78
  | .tst => 0x7F

/-- Registers of the DEV page. -/
def rowsDev : List RegRow := [
  ⟨0x00, 1, 1, 0x0, 0x0, 0x0, 0x0, 0x0, 0xFFFFFF0000, 0x0⟩,
  ⟨0x01, 1, 1, 0x1, 0x0, 0x4, 0x0, 0x2, 0x1, 0x5⟩,
  ⟨0x02, 1, 1, 0x0, 0x0, 0x0, 0x0, 0x0, 0x7F, 0x0⟩,
  ⟨0x03, 1, 1, 0x0, 0x0, 0x0, 0x0, 0x0, 0xFF, 0x0⟩,
  ⟨0x07, 1, 1, 0x0, 0x0, 0x0, 0x1, 0x0, 0x0, 0x0⟩,
  ⟨0x08, 1, 1, 0x0, 0x0, 0x0, 0x0, 0x0, 0xFFFFFFFF, 0x0⟩,
  ⟨0x09, 1, 1, 0x0, 0x0, 0x0, 0x0, 0x0, 0xFFFFFFFFFF, 0x0⟩,
  ⟨0x0B, 1, 1, 0x0, 0x0, 0x0, 0x0, 0x0, 0xFFFFFFFF, 0x0⟩,
  ⟨0x10, 1, 1, 0x3E, 0x3F, 0x0, 0x0, 0x0, 0x0, 0x3F⟩,
  ⟨0x11, 1, 1, 0x40909, 0x0, 0x0, 0x0, 0x0, 0x7FFFF, 0x0⟩,
  ⟨0x12, 1, 1, 0x0, 0x0, 0x0, 0x0, 0x0, 0xFFFFFFFFFF, 0x0⟩,
  ⟨0x13, 1, 1, 0x0, 0x0, 0x0, 0x0, 0xFF, 0x0, 0x0⟩]

/-- Registers of the PWR page. -/
def rowsPwr : List RegRow := [
  ⟨0x00, 1, 1, 0x0, 0x0, 0x0, 0x0, 0x0, 0xFFFFFF0000, 0x0⟩,
  ⟨0x01, 1, 1, 0x1, 0x0, 0x4, 0x0, 0x2, 0x1, 0x5⟩,
  ⟨0x02, 1, 1, 0x0, 0x0, 0x0, 0x0, 0x0, 0x3F, 0x0⟩,
  ⟨0x03, 1, 1, 0x0, 0x0, 0x0, 0x0, 0x0, 0x1, 0x0⟩,
  ⟨0x04, 1, 1, 0x0, 0x0, 0x0, 0x7D, 0x0, 0x0, 0x0⟩,
  ⟨0x05, 1, 1, 0x0, 0x7D, 0x0, 0x0, 0x0, 0x0, 0x7D⟩,
  ⟨0x06, 1, 1, 0x0, 0x0, 0x0, 0x0, 0x7D, 0x0, 0x0⟩,
  ⟨0x07, 1, 1, 0x0, 0x0, 0x0, 0x1F, 0x0, 0x0, 0x0⟩,
  ⟨0x08, 1, 1, 0x0, 0x0, 0x0, 0x0, 0x0, 0xFFFFFFFF, 0x0⟩,
  ⟨0x09, 1, 1, 0x0, 0x0, 0x0, 0x0, 0x0, 0xFFFFFFFFFF, 0x0⟩,
  ⟨0x0B, 1, 1, 0x0, 0x0, 0x0, 0x0, 0x0, 0xFFFFFFFF, 0x0⟩,
  ⟨0x10, 1, 1, 0x0, 0x0, 0x0, 0x0, 0x7, 0x0, 0x0⟩,
  ⟨0x11, 1, 1, 0xC00000, 0xFFFFFF, 0x0, 0x0, 0x0, 0x0, 0xFFFFFF⟩,
  ⟨0x12, 1, 1, 0x80F, 0x8F1F, 0x0, 0x0, 0x0, 0x0, 0x8F1F⟩,
  ⟨0x13, 1, 1, 0x0, 0xFFFFFFFFFF, 0x0, 0x0, 0x0, 0x0, 0xFFFFFFFFFF⟩,
  ⟨0x14, 1, 1, 0x0, 0xFFFFFFFF, 0x0, 0x0, 0x0, 0x0, 0xFFFFFFFF⟩,
  ⟨0x15, 1, 1, 0x0, 0x1, 0x0, 0x0, 0x0, 0x0, 0x1⟩,
  ⟨0x16, 1, 1, 0x7080320, 0xFFFFFFFF, 0x0, 0x0, 0x0, 0x0, 0xFFFFFFFF⟩,
  ⟨0x17, 1, 1, 0xA2D0B4, 0xFFFFFFF, 0x0, 0x0, 0x0, 0x0, 0xFFFFFFF⟩,
  ⟨0x18, 1, 1, 0x30101, 0xF0101, 0x0, 0x0, 0x0, 0x0, 0xF0101⟩,
  ⟨0x19, 1, 1, 0x40030532, 0x7F3FFFFF, 0x0, 0x0, 0x0, 0x0, 0x7F3FFFFF⟩,
  ⟨0x1A, 1, 1, 0x41030532, 0x7F3FFFFF, 0x0, 0x0, 0x0, 0x0, 0x7F3FFFFF⟩,
  ⟨0x1B, 1, 1, 0x42030532, 0xFFFF3FFFFF, 0x0, 0x0, 0x0, 0x0, 0xFFFF3FFFFF⟩,
  ⟨0x1C, 1, 1, 0x43030532, 0xFFFF3FFFFF, 0x0, 0x0, 0x0, 0x0, 0xFFFF3FFFFF⟩,
  ⟨0x1D, 4, 1, 0x0, 0x0, 0x0, 0x0, 0x0, 0xFCFFFFFFFF, 0x0⟩,
  ⟨0x21, 1, 1, 0x6E69, 0xFFFF, 0x0, 0x0, 0x0, 0x0, 0xFFFF⟩,
  ⟨0x22, 1, 1, 0x0, 0x0, 0x0, 0x0, 0x0, 0xFFFFFFFF, 0x0⟩]

/-- Registers of the CLK page. -/
def rowsClk : List RegRow := [
  ⟨0x00, 1, 1, 0x0, 0x0, 0x0, 0x0, 0x0, 0xFFFFFF0000, 0x0⟩,
  ⟨0x01, 1, 1, 0x1, 0x1, 0x4, 0x0, 0x2, 0x0, 0x5⟩,
  ⟨0x02, 1, 1, 0x0, 0x0, 0x0, 0x0, 0x0, 0xF, 0x0⟩,
  ⟨0x03, 1, 1, 0x0, 0x0, 0x0, 0x0, 0x0, 0xF, 0x0⟩,
  ⟨0x04, 1, 1, 0x0, 0x0, 0x0, 0xF, 0x0, 0x0, 0x0⟩,
  ⟨0x05, 1, 1, 0x0, 0xF, 0x0, 0x0, 0x0, 0x0, 0xF⟩,
  ⟨0x06, 1, 1, 0x0, 0x0, 0x0, 0x0, 0xF, 0x0, 0x0⟩,
  ⟨0x07, 1, 1, 0x0, 0x0, 0x0, 0x7, 0x0, 0x0, 0x0⟩,
  ⟨0x08, 1, 1, 0x0, 0x0, 0x0, 0x0, 0x0, 0xFFFFFFFF, 0x0⟩,
  ⟨0x09, 1, 1, 0x0, 0x0, 0x0, 0x0, 0x0, 0xFFFFFFFFFF, 0x0⟩,
  ⟨0x0B, 1, 1, 0x0, 0x0, 0x0, 0x0, 0x0, 0xFFFFFFFF, 0x0⟩,
  ⟨0x10, 1, 1, 0xA0100, 0xFF0100, 0x0, 0x0, 0x0, 0x0, 0xFF0100⟩,
  ⟨0x11, 1, 1, 0x0, 0x0, 0x0, 0x0, 0x1, 0x0, 0x0⟩,
  ⟨0x12, 1, 1, 0x0, 0x0, 0x0, 0x0, 0x0, 0xFFFFFFFF, 0x0⟩]

/-- Registers of the ANG page. -/
def rowsAng : List RegRow := [
  ⟨0x00, 1, 1, 0x0, 0x0, 0x0, 0x0, 0x0, 0xFFFFFF0000, 0x0⟩,
  ⟨0x01, 1, 1, 0x0, 0x1, 0x4, 0x0, 0x2, 0x0, 0x5⟩,
  ⟨0x02, 1, 1, 0x0, 0x0, 0x0, 0x0, 0x0, 0x3F, 0x0⟩,
  ⟨0x03, 1, 1, 0x0, 0x0, 0x0, 0x0, 0x0, 0x1, 0x0⟩,
  ⟨0x04, 1, 1, 0x0, 0x0, 0x0, 0xFF1F, 0x0, 0x0, 0x0⟩,
  ⟨0x05, 1, 1, 0x0, 0xFF1F, 0x0, 0x0, 0x0, 0x0, 0xFF1F⟩,
  ⟨0x06, 1, 1, 0x0, 0x0, 0x0, 0x0, 0xFF1F, 0x0, 0x0⟩,
  ⟨0x07, 1, 1, 0x0, 0x0, 0x0, 0x3, 0x0, 0x0, 0x0⟩,
  ⟨0x08, 1, 1, 0x0, 0x0, 0x0, 0x0, 0x0, 0xFFFFFFFF, 0x0⟩,
  ⟨0x09, 1, 1, 0x0, 0x0, 0x0, 0x0, 0x0, 0xFFFFFFFFFF, 0x0⟩,
  ⟨0x0B, 1, 1, 0x0, 0x0, 0x0, 0x0, 0x0, 0xFFFFFFFF, 0x0⟩,
  ⟨0x10, 1, 1, 0x0, 0x0, 0x0, 0x0, 0x0, 0xFFFFFFFFFF, 0x0⟩,
  ⟨0x11, 1, 1, 0x4084400, 0x0, 0x7FFFF07, 0x0, 0x0, 0x0, 0x7FFFF07⟩,
  ⟨0x12, 1, 1, 0x40000800, 0x0, 0xFFFFFFFF, 0x0, 0x0, 0x0, 0xFFFFFFFF⟩,
  ⟨0x13, 1, 1, 0x423600, 0x0, 0x7FFFFF, 0x0, 0x0, 0x0, 0x7FFFFF⟩,
  ⟨0x14, 1, 1, 0x0, 0x0, 0xFFFF, 0x0, 0x0, 0x0, 0xFFFF⟩,
  ⟨0x15, 1, 1, 0x100, 0x0, 0xFFFF, 0x0, 0x0, 0x0, 0xFFFF⟩,
  ⟨0x16, 1, 1, 0x0, 0x0, 0x0, 0x0, 0x0, 0xFFFFFFFFFF, 0x0⟩,
  ⟨0x17, 1, 1, 0x0, 0x0, 0x0, 0x0, 0x0, 0xFFFFFFFF, 0x0⟩,
  ⟨0x18, 1, 1, 0x0, 0x0, 0x0, 0x0, 0x0, 0xFFFFFFFFFF, 0x0⟩,
  ⟨0x19, 1, 1, 0x0, 0x0, 0x0, 0x0, 0x0, 0xFFFFFFFF, 0x0⟩,
  ⟨0x1A, 1, 1, 0x0, 0x0, 0x0, 0x0, 0x0, 0xFFFFFF, 0x0⟩,
  ⟨0x1B, 1, 1, 0x0, 0x0, 0xFFFFFFFFFF, 0x0, 0x0, 0x0, 0xFFFFFFFFFF⟩,
  ⟨0x1C, 1, 1, 0x0, 0xFFFFFF01, 0x0, 0x0, 0x0, 0x0, 0xFFFFFF01⟩,
  ⟨0x20, 8, 2, 0x0, 0xFFFFFFFFFF, 0x0, 0x0, 0x0, 0x0, 0xFFFFFFFFFF⟩,
  ⟨0x21, 8, 2, 0x0, 0x7, 0x0, 0x0, 0x0, 0x0, 0x6⟩,
  ⟨0x30, 12, 1, 0x0, 0x0, 0x0, 0x0, 0x0, 0xFFFFFFFFFF, 0x0⟩,
  ⟨0x3C, 1, 1, 0x0, 0x0, 0x0, 0x0, 0x0, 0xFFF, 0x0⟩]

/-- Registers of the MCH page. -/
def rowsMch : List RegRow := [
  ⟨0x00, 1, 1, 0x0, 0x0, 0x0, 0x0, 0x0, 0xFFFFFF0000, 0x0⟩,
  ⟨0x01, 1, 1, 0x0, 0x1, 0x4, 0x0, 0x2, 0x0, 0x5⟩,
  ⟨0x02, 1, 1, 0x0, 0x0, 0x0, 0x0, 0x0, 0xFF, 0x0⟩,
  ⟨0x03, 1, 1, 0x0, 0x0, 0x0, 0x0, 0x0, 0x1, 0x0⟩,
  ⟨0x04, 1, 1, 0x0, 0x0, 0x0, 0xFFFF, 0x0, 0x0, 0x0⟩,
  ⟨0x05, 1, 1, 0x0, 0xFFFF, 0x0, 0x0, 0x0, 0x0, 0xFFFF⟩,
  ⟨0x06, 1, 1, 0x0, 0x0, 0x0, 0x0, 0xFFFF, 0x0, 0x0⟩,
  ⟨0x07, 1, 1, 0x0, 0x0, 0x0, 0xF, 0x0, 0x0, 0x0⟩,
  ⟨0x08, 1, 1, 0x0, 0x0, 0x0, 0x0, 0x0, 0xFFFFFFFF, 0x0⟩,
  ⟨0x09, 1, 1, 0x0, 0x0, 0x0, 0x0, 0x0, 0xFFFFFFFFFF, 0x0⟩,
  ⟨0x0B, 1, 1, 0x0, 0x0, 0x0, 0x0, 0x0, 0xFFFFFFFF, 0x0⟩,
  ⟨0x10, 1, 1, 0x200026, 0x6, 0xFFFFF0, 0x0, 0x0, 0x0, 0xFFFFF6⟩,
  ⟨0x11, 1, 1, 0x100, 0x0, 0x0, 0x0, 0x0, 0x3F3F, 0x0⟩,
  ⟨0x12, 1, 1, 0x0, 0x0, 0x0, 0x0, 0x0, 0xFFFFFFFF, 0x0⟩,
  ⟨0x13, 1, 1, 0x0, 0x0, 0x0, 0x0, 0x0, 0xFF00FFFFFF, 0x0⟩,
  ⟨0x14, 1, 1, 0x0, 0x0, 0x0, 0x0, 0x0, 0xFFFF, 0x0⟩,
  ⟨0x15, 1, 1, 0x0, 0x0, 0x0, 0x0, 0x3, 0x0, 0x0⟩,
  ⟨0x16, 1, 1, 0x0, 0x3FF, 0x0, 0x0, 0x0, 0x0, 0x0⟩,
  ⟨0x17, 1, 1, 0x640000, 0xFFFF0000, 0x0, 0x0, 0x0, 0x0, 0xFFFF0000⟩,
  ⟨0x18, 1, 1, 0x0, 0xFFFFFFFFFF, 0x0, 0x0, 0x0, 0x0, 0xFFFFFFFFFF⟩,
  ⟨0x19, 1, 1, 0x0, 0x0, 0x0, 0x0, 0xFF, 0x0, 0x0⟩,
  ⟨0x1A, 1, 1, 0x0, 0x0, 0x0, 0x0, 0x0, 0xFFFFFFFF, 0x0⟩,
  ⟨0x1B, 1, 1, 0x0, 0x0, 0x0, 0x0, 0x0, 0xFFFFFFFF, 0x0⟩,
  ⟨0x20, 8, 2, 0x0, 0x1FF, 0x0, 0x0, 0x0, 0x0, 0x1FF⟩,
  ⟨0x21, 8, 2, 0x0, 0x0, 0x0, 0x0, 0x0, 0xFFFFFFFFFF, 0x0⟩]

/-- Registers of the HPT page. -/
def rowsHpt : List RegRow := [
  ⟨0x00, 1, 1, 0x0, 0x0, 0x0, 0x0, 0x0, 0xFFFFFF0000, 0x0⟩,
  ⟨0x01, 1, 1, 0x1, 0x0, 0x4, 0x0, 0x2, 0x1, 0x5⟩,
  ⟨0x02, 1, 1, 0x0, 0x0, 0x0, 0x0, 0x0, 0xF, 0x0⟩,
  ⟨0x03, 1, 1, 0x0, 0x0, 0x0, 0x0, 0x0, 0x1, 0x0⟩,
  ⟨0x04, 1, 1, 0x0, 0x0, 0x0, 0x7F, 0x0, 0x0, 0x0⟩,
  ⟨0x05, 1, 1, 0x0, 0x7F, 0x0, 0x0, 0x0, 0x0, 0x7F⟩,
  ⟨0x06, 1, 1, 0x0, 0x0, 0x0, 0x0, 0x7F, 0x0, 0x0⟩,
  ⟨0x07, 1, 1, 0x0, 0x0, 0x0, 0x3, 0x0, 0x0, 0x0⟩,
  ⟨0x08, 1, 1, 0x0, 0x0, 0x0, 0x0, 0x0, 0xFFFFFFFF, 0x0⟩,
  ⟨0x09, 1, 1, 0x0, 0x0, 0x0, 0x0, 0x0, 0xFFFFFFFFFF, 0x0⟩,
  ⟨0x0B, 1, 1, 0x0, 0x0, 0x0, 0x0, 0x0, 0xFFFFFFFF, 0x0⟩,
  ⟨0x10, 1, 1, 0x4020, 0xFF31, 0x0, 0x0, 0x0, 0x0, 0xFF31⟩,
  ⟨0x11, 1, 1, 0xFFF, 0x0, 0x0, 0x0, 0x0, 0xFFFFFFFFFF, 0x0⟩,
  ⟨0x12, 1, 1, 0x80880, 0xFF1FF3, 0x0, 0x0, 0x0, 0x0, 0xFF1FF3⟩,
  ⟨0x13, 1, 1, 0x0, 0x0, 0x0, 0x0, 0xFFFFFFFF, 0x0, 0x0⟩,
  ⟨0x14, 1, 1, 0x0, 0x0, 0x0, 0x0, 0x0, 0x80FFFFFFFF, 0x0⟩,
  ⟨0x15, 1, 1, 0x0, 0x0, 0x0, 0x0, 0x0, 0xFFF03F, 0x0⟩,
  ⟨0x16, 1, 1, 0x0, 0x0, 0x0, 0x0, 0x0, 0x1F, 0x0⟩,
  ⟨0x17, 1, 1, 0x0, 0x0, 0x0, 0x0, 0x0, 0xFFFFFFFFFF, 0x0⟩,
  ⟨0x20, 16, 1, 0x0, 0x0, 0x0, 0x0, 0x0, 0xFFFFFFFFFF, 0x0⟩]

/-- Registers of the XMP page. -/
def rowsXmp : List RegRow := [
  ⟨0x00, 1, 1, 0x0, 0x0, 0x0, 0x0, 0x0, 0xFFFFFF0000, 0x0⟩,
  ⟨0x01, 1, 1, 0x0, 0x1, 0x4, 0x0, 0x2, 0x0, 0x5⟩,
  ⟨0x02, 1, 1, 0x0, 0x0, 0x0, 0x0, 0x0, 0x1F, 0x0⟩,
  ⟨0x03, 1, 1, 0x0, 0x0, 0x0, 0x0, 0x0, 0x7, 0x0⟩,
  ⟨0x04, 1, 1, 0x0, 0x0, 0x0, 0x3FF, 0x0, 0x0, 0x0⟩,
  ⟨0x05, 1, 1, 0x0, 0x3FF, 0x0, 0x0, 0x0, 0x0, 0x3FF⟩,
  ⟨0x06, 1, 1, 0x0, 0x0, 0x0, 0x0, 0x3FF, 0x0, 0x0⟩,
  ⟨0x07, 1, 1, 0x0, 0x0, 0x0, 0x3, 0x0, 0x0, 0x0⟩,
  ⟨0x08, 1, 1, 0x0, 0x0, 0x0, 0x0, 0x0, 0xFFFFFFFF, 0x0⟩,
  ⟨0x09, 1, 1, 0x0, 0x0, 0x0, 0x0, 0x0, 0xFFFFFFFFFF, 0x0⟩,
  ⟨0x0B, 1, 1, 0x0, 0x0, 0x0, 0x0, 0x0, 0xFFFFFFFF, 0x0⟩,
  ⟨0x10, 1, 1, 0x44C88A, 0xFFFFFB, 0x0, 0x0, 0x0, 0x0, 0xFFFFFB⟩,
  ⟨0x11, 2, 1, 0x0, 0x0, 0x0, 0x0, 0x0, 0xE0FFFFF03F, 0x0⟩,
  ⟨0x13, 2, 1, 0x0, 0x0, 0x0, 0x0, 0x0, 0xFFFFFFFF, 0x0⟩,
  ⟨0x15, 1, 1, 0x0, 0x3FFFFFFFF, 0x0, 0x0, 0x8000000000, 0x0, 0x3FFFFFFFF⟩,
  ⟨0x16, 1, 1, 0x0, 0x0, 0x0, 0x0, 0x0, 0xFFFFFFFFFF, 0x0⟩,
  ⟨0x17, 1, 1, 0x0, 0xFFFFFFFF, 0x0, 0x0, 0x0, 0x0, 0xFFFFFFFF⟩,
  ⟨0x18, 1, 1, 0x0, 0x0, 0x0, 0x0, 0x0, 0xFF, 0x0⟩,
  ⟨0x19, 1, 1, 0x0, 0x0, 0x0, 0x0, 0x0, 0xFFFFFFFFFF, 0x0⟩,
  ⟨0x40, 8, 1, 0x0, 0xFFFFFFFFFF, 0x0, 0x0, 0x0, 0x0, 0x0⟩]

/-- Registers of the MEM page. -/
def rowsMem : List RegRow := [
  ⟨0x00, 1, 1, 0x0, 0x0, 0x0, 0x0, 0x0, 0xFFFFFF0000, 0x0⟩,
  ⟨0x01, 1, 1, 0x1, 0x1, 0x4, 0x0, 0x2, 0x0, 0x5⟩,
  ⟨0x02, 1, 1, 0x0, 0x0, 0x0, 0x0, 0x0, 0x31, 0x0⟩,
  ⟨0x03, 1, 1, 0x0, 0x0, 0x0, 0x0, 0x0, 0x1FFFFFF, 0x0⟩,
  ⟨0x04, 1, 1, 0x0, 0x0, 0x0, 0x3F, 0x0, 0x0, 0x0⟩,
  ⟨0x05, 1, 1, 0x0, 0x3F, 0x0, 0x0, 0x0, 0x0, 0x3F⟩,
  ⟨0x06, 1, 1, 0x0, 0x0, 0x0, 0x0, 0x3F, 0x0, 0x0⟩,
  ⟨0x07, 1, 1, 0x0, 0x0, 0x0, 0x1F, 0x0, 0x0, 0x0⟩,
  ⟨0x08, 1, 1, 0x0, 0x0, 0x0, 0x0, 0x0, 0xFFFFFFFF, 0x0⟩,
  ⟨0x09, 1, 1, 0x0, 0x0, 0x0, 0x0, 0x0, 0xFFFFFFFFFF, 0x0⟩,
  ⟨0x0B, 1, 1, 0x0, 0x0, 0x0, 0x0, 0x0, 0xFFFFFFFF, 0x0⟩,
  ⟨0x10, 1, 1, 0x8, 0xFF, 0x0, 0x0, 0x0, 0x0, 0xFF⟩,
  ⟨0x11, 1, 1, 0x0, 0x1FFFFF, 0x0, 0x0, 0x0, 0x0, 0x1FFFFF⟩,
  ⟨0x12, 1, 1, 0x0, 0x0, 0x0, 0x0, 0x0, 0xFFFFFFFF, 0x0⟩,
  ⟨0x13, 1, 1, 0x0, 0x0, 0x0, 0x0, 0x0, 0xFFFFFFFFFF, 0x0⟩,
  ⟨0x14, 1, 1, 0x0, 0x1F00000000, 0x0, 0x0, 0x8000000000, 0xFFFFFF, 0x1F00000000⟩,
  ⟨0x15, 1, 1, 0x0, 0x201FFFFFFF, 0x0, 0x0, 0xC000000000, 0x0, 0x201FFFFFFF⟩,
  ⟨0x16, 1, 1, 0x0, 0xFFFFFFFFFF, 0x0, 0x0, 0x0, 0x0, 0xFFFFFFFFFF⟩,
  ⟨0x17, 1, 1, 0x0, 0x0, 0x0, 0x0, 0x0, 0xFFFFFFFFFF, 0x0⟩,
  ⟨0x18, 1, 1, 0x0, 0x0, 0x0, 0x0, 0x0, 0x1FF, 0x0⟩,
  ⟨0x20, 24, 1, 0x0, 0x0, 0x0, 0x0, 0x0, 0xFFFFFFFFFF, 0x0⟩,
  ⟨0x40, 32, 1, 0x0, 0xFFFFFFFFFF, 0x0, 0x0, 0x0, 0x0, 0x0⟩]

/-- Registers of the SCB page. -/
def rowsScb : List RegRow := [
  ⟨0x00, 1, 1, 0x0, 0x0, 0x0, 0x0, 0x0, 0xFFFFFF0000, 0x0⟩,
  ⟨0x01, 1, 1, 0x1, 0x1, 0x4, 0x0, 0x2, 0x0, 0x5⟩,
  ⟨0x02, 1, 1, 0x0, 0x0, 0x0, 0x0, 0x0, 0x3, 0x0⟩,
  ⟨0x03, 1, 1, 0x0, 0x0, 0x0, 0x0, 0x0, 0x1, 0x0⟩,
  ⟨0x04, 1, 1, 0x0, 0x0, 0x0, 0x7, 0x0, 0x0, 0x0⟩,
  ⟨0x05, 1, 1, 0x0, 0x7, 0x0, 0x0, 0x0, 0x0, 0x7⟩,
  ⟨0x06, 1, 1, 0x0, 0x0, 0x0, 0x0, 0x7, 0x0, 0x0⟩,
  ⟨0x07, 1, 1, 0x0, 0x0, 0x0, 0x3, 0x0, 0x0, 0x0⟩,
  ⟨0x08, 1, 1, 0x0, 0x0, 0x0, 0x0, 0x0, 0xFFFFFFFF, 0x0⟩,
  ⟨0x09, 1, 1, 0x0, 0x0, 0x0, 0x0, 0x0, 0xFFFFFFFFFF, 0x0⟩,
  ⟨0x0B, 1, 1, 0x0, 0x0, 0x0, 0x0, 0x0, 0xFFFFFFFF, 0x0⟩,
  ⟨0x10, 1, 1, 0x22701F4, 0xFFFF, 0x0, 0x0, 0x0, 0xFFFFFF0000, 0xFFFF⟩,
  ⟨0x11, 1, 1, 0x0, 0x0, 0x0, 0x0, 0x0, 0x3FFFF, 0x0⟩,
  ⟨0x12, 1, 1, 0x0, 0x0, 0x0, 0x0, 0x0, 0xFFFFFF, 0x0⟩,
  ⟨0x13, 1, 1, 0x0, 0x0, 0x0, 0x0, 0x0, 0xFFFFFFFFFF, 0x0⟩]

/-- Registers of the CKU pages. -/
def rowsCku : List RegRow := [
  ⟨0x00, 1, 1, 0x0, 0x0, 0x0, 0x0, 0x0, 0xFFFFFF0000, 0x0⟩,
  ⟨0x01, 1, 1, 0x0, 0x1, 0x4, 0x0, 0x2, 0x0, 0x5⟩,
  ⟨0x02, 1, 1, 0x0, 0x0, 0x0, 0x0, 0x0, 0x7, 0x0⟩,
  ⟨0x03, 1, 1, 0x0, 0x0, 0x0, 0x0, 0x0, 0x1, 0x0⟩,
  ⟨0x04, 1, 1, 0x0, 0x0, 0x0, 0x3F, 0x0, 0x0, 0x0⟩,
  ⟨0x05, 1, 1, 0x0, 0x3F, 0x0, 0x0, 0x0, 0x0, 0x3F⟩,
  ⟨0x06, 1, 1, 0x0, 0x0, 0x0, 0x0, 0x3F, 0x0, 0x0⟩,
  ⟨0x07, 1, 1, 0x0, 0x0, 0x0, 0x3, 0x0, 0x0, 0x0⟩,
  ⟨0x08, 1, 1, 0x0, 0x0, 0x0, 0x0, 0x0, 0xFFFFFFFF, 0x0⟩,
  ⟨0x09, 1, 1, 0x0, 0x0, 0x0, 0x0, 0x0, 0xFFFFFFFFFF, 0x0⟩,
  ⟨0x0B, 1, 1, 0x0, 0x0, 0x0, 0x0, 0x0, 0xFFFFFFFF, 0x0⟩,
  ⟨0x10, 1, 1, 0x13, 0x337, 0x0, 0x0, 0x0, 0x0, 0x337⟩,
  ⟨0x11, 1, 1, 0x0, 0xFFFFFFFFFF, 0x0, 0x0, 0x0, 0x0, 0xFF00000000⟩,
  ⟨0x12, 1, 1, 0x0, 0x0, 0x0, 0x0, 0x3, 0x0, 0x0⟩,
  ⟨0x13, 1, 1, 0x0, 0xFFFFFFFF, 0x0, 0x0, 0x0, 0x0, 0xFFFFFFFF⟩,
  ⟨0x14, 1, 1, 0x0, 0x0, 0x0, 0x0, 0x0, 0xFFFFFFFF, 0x0⟩,
  ⟨0x15, 1, 1, 0x0, 0xFFFFFFFF, 0x0, 0x0, 0x0, 0x0, 0x0⟩,
  ⟨0x16, 1, 1, 0x0, 0x10FF, 0x0, 0x0, 0x0, 0xF0F00, 0x0⟩,
  ⟨0x18, 5, 1, 0x0, 0x0, 0x0, 0x0, 0xFFFFFFFFFF, 0x0, 0x0⟩]

/-- Registers of the FLT page. -/
def rowsFlt : List RegRow := [
  ⟨0x00, 1, 1, 0x0, 0x0, 0x0, 0x0, 0x0, 0xFFFFFF0000, 0x0⟩,
  ⟨0x01, 1, 1, 0x1, 0x0, 0x4, 0x0, 0x2, 0x1, 0x5⟩,
  ⟨0x02, 1, 1, 0x0, 0x0, 0x0, 0x0, 0x0, 0x3, 0x0⟩,
  ⟨0x03, 1, 1, 0x0, 0x0, 0x0, 0x0, 0x0, 0x1, 0x0⟩,
  ⟨0x04, 1, 1, 0x0, 0x0, 0x0, 0xF, 0x0, 0x0, 0x0⟩,
  ⟨0x05, 1, 1, 0x0, 0xF, 0x0, 0x0, 0x0, 0x0, 0xF⟩,
  ⟨0x06, 1, 1, 0x0, 0x0, 0x0, 0x0, 0xF, 0x0, 0x0⟩,
  ⟨0x07, 1, 1, 0x0, 0x0, 0x0, 0xFFFF, 0x0, 0x0, 0x0⟩,
  ⟨0x08, 1, 1, 0x0, 0x0, 0x0, 0x0, 0x0, 0xFFFFFFFF, 0x0⟩,
  ⟨0x09, 1, 1, 0x0, 0x0, 0x0, 0x0, 0x0, 0xFFFFFFFFFF, 0x0⟩,
  ⟨0x0B, 1, 1, 0x0, 0x0, 0x0, 0x0, 0x0, 0xFFFFFFFF, 0x0⟩,
  ⟨0x10, 1, 1, 0xA101, 0x1, 0xFFFE, 0x0, 0x0, 0x0, 0xFFFF⟩,
  ⟨0x11, 1, 1, 0x0, 0x0, 0x0, 0x0, 0xFF, 0x0, 0x0⟩,
  ⟨0x12, 1, 1, 0x0, 0x0, 0x0, 0x0, 0x0, 0xFFFFFFFFFF, 0x0⟩,
  ⟨0x13, 1, 1, 0x17DBB8, 0x0, 0x1FFFF8, 0x0, 0x0, 0x0, 0x1FFFF8⟩,
  ⟨0x14, 1, 1, 0x0, 0x0, 0x0, 0x0, 0x0, 0xFF00E7, 0x0⟩,
  ⟨0x15, 1, 1, 0x0, 0x0, 0x0, 0x0, 0x0, 0xF, 0x0⟩,
  ⟨0x16, 1, 1, 0x0, 0x0, 0x0, 0x0, 0x0, 0xFFFFFFFF, 0x0⟩,
  ⟨0x17, 1, 1, 0x0, 0x0, 0x0, 0x0, 0x0, 0xFFFFFFFF, 0x0⟩,
  ⟨0x18, 8, 1, 0x0, 0x0, 0x0, 0x0, 0x0, 0xFFFFFFFFFF, 0x0⟩,
  ⟨0x21, 15, 1, 0x0, 0x0, 0x0, 0x0, 0x0, 0xFFFF, 0x0⟩]

/-- Registers of the SCO page. -/
def rowsSco : List RegRow := [
  ⟨0x00, 1, 1, 0x0, 0x0, 0x0, 0x0, 0x0, 0xFFFFFF0000, 0x0⟩,
  ⟨0x01, 1, 1, 0x0, 0x1, 0x4, 0x0, 0x2, 0x0, 0x5⟩,
  ⟨0x02, 1, 1, 0x0, 0x0, 0x0, 0x0, 0x0, 0x1F, 0x0⟩,
  ⟨0x03, 1, 1, 0x0, 0x0, 0x0, 0x0, 0x0, 0x1, 0x0⟩,
  ⟨0x04, 1, 1, 0x0, 0x0, 0x0, 0xF, 0x0, 0x0, 0x0⟩,
  ⟨0x05, 1, 1, 0x0, 0xF, 0x0, 0x0, 0x0, 0x0, 0xF⟩,
  ⟨0x06, 1, 1, 0x0, 0x0, 0x0, 0x0, 0xF, 0x0, 0x0⟩,
  ⟨0x07, 1, 1, 0x0, 0x0, 0x0, 0x3, 0x0, 0x0, 0x0⟩,
  ⟨0x08, 1, 1, 0x0, 0x0, 0x0, 0x0, 0x0, 0xFFFFFFFF, 0x0⟩,
  ⟨0x09, 1, 1, 0x0, 0x0, 0x0, 0x0, 0x0, 0xFFFFFFFFFF, 0x0⟩,
  ⟨0x0B, 1, 1, 0x0, 0x0, 0x0, 0x0, 0x0, 0xFFFFFFFF, 0x0⟩,
  ⟨0x10, 1, 1, 0x8000000000, 0xFFFFFFFFFF, 0x0, 0x0, 0x0, 0x0, 0xFFFFFFFFFF⟩,
  ⟨0x11, 1, 1, 0x100C032, 0xFFFFF1FF, 0x0, 0x0, 0x0, 0x0, 0xFFFFF1FF⟩,
  ⟨0x12, 1, 1, 0x3C0001, 0xFFFF0001, 0x0, 0x0, 0x0, 0x0, 0xFFFF0001⟩,
  ⟨0x13, 1, 1, 0x0, 0x0, 0x0, 0x0, 0x0, 0xFFFFFFFFFF, 0x0⟩,
  ⟨0x14, 1, 1, 0x0, 0x0, 0x0, 0x0, 0x0, 0xFFFFFFFFFF, 0x0⟩,
  ⟨0x15, 1, 1, 0x0, 0x0, 0x0, 0x0, 0x0, 0xFFFFFFFF, 0x0⟩,
  ⟨0x16, 1, 1, 0x0, 0x0, 0x0, 0x0, 0x0, 0xFFFFFFFF, 0x0⟩,
  ⟨0x17, 1, 1, 0x0, 0x0, 0x0, 0x0, 0x7, 0x0, 0x0⟩,
  ⟨0x18, 1, 1, 0x0, 0x0, 0x0, 0x0, 0x0, 0x1F, 0x0⟩,
  ⟨0x19, 1, 1, 0x0, 0x0, 0x0, 0x0, 0x0, 0xFFFFFFFFFF, 0x0⟩,
  ⟨0x1A, 1, 1, 0x0, 0x0, 0x0, 0x0, 0x0, 0xFFFFFFFF, 0x0⟩,
  ⟨0x1B, 1, 1, 0x0, 0x0, 0x0, 0x0, 0x0, 0xFFFFFFFF, 0x0⟩]

/-- Registers of the TXC pages. -/
def rowsTxc : List RegRow := [
  ⟨0x00, 1, 1, 0x0, 0x0, 0x0, 0x0, 0x0, 0xFFFFFF0000, 0x0⟩,
  ⟨0x01, 1, 1, 0x0, 0x1, 0x4, 0x0, 0x2, 0x0, 0x5⟩,
  ⟨0x02, 1, 1, 0x0, 0x0, 0x0, 0x0, 0x0, 0xFFFFF, 0x0⟩,
  ⟨0x03, 1, 1, 0x0, 0x0, 0x0, 0x0, 0x0, 0x7, 0x0⟩,
  ⟨0x04, 1, 1, 0x0, 0x0, 0x0, 0x7FF, 0x0, 0x0, 0x0⟩,
  ⟨0x05, 1, 1, 0x0, 0x7FF, 0x0, 0x0, 0x0, 0x0, 0x7FF⟩,
  ⟨0x06, 1, 1, 0x0, 0x0, 0x0, 0x0, 0x7FF, 0x0, 0x0⟩,
  ⟨0x07, 1, 1, 0x0, 0x0, 0x0, 0xF, 0x0, 0x0, 0x0⟩,
  ⟨0x08, 1, 1, 0x0, 0x0, 0x0, 0x0, 0x0, 0xFFFFFFFF, 0x0⟩,
  ⟨0x09, 1, 1, 0x0, 0x0, 0x0, 0x0, 0x0, 0xFFFFFFFFFF, 0x0⟩,
  ⟨0x0B, 1, 1, 0x0, 0x0, 0x0, 0x0, 0x0, 0xFFFFFFFF, 0x0⟩,
  ⟨0x11, 1, 1, 0x1900C8, 0xFF01FF, 0x0, 0x0, 0x0, 0x0, 0xFF01FF⟩,
  ⟨0x12, 1, 1, 0x40, 0x1FFFFFFFF, 0x0, 0x0, 0x0, 0x0, 0x1FFFFFFFF⟩,
  ⟨0x13, 1, 1, 0xB603E8, 0x3FF03FF, 0x0, 0x0, 0x0, 0x0, 0x3FF03FF⟩,
  ⟨0x14, 1, 1, 0x34F8, 0xFFFFF, 0x0, 0x0, 0x0, 0x0, 0xFFFFF⟩,
  ⟨0x15, 1, 1, 0x0, 0x0, 0x0, 0x0, 0x0, 0xFFFFFFFFFF, 0x0⟩,
  ⟨0x16, 1, 1, 0x1340, 0x1FFF, 0x0, 0x0, 0x0, 0x0, 0x1FFF⟩,
  ⟨0x17, 1, 1, 0x201A, 0x3F3F, 0x0, 0x0, 0x0, 0x0, 0x3F3F⟩,
  ⟨0x18, 1, 1, 0x1A21400, 0xFF3FFFF, 0x0, 0x0, 0x40000, 0x0, 0xFF3FFFF⟩,
  ⟨0x19, 1, 1, 0x0, 0x0, 0x0, 0x0, 0x0, 0xFFFFF, 0x0⟩,
  ⟨0x1A, 1, 1, 0x11C, 0x0, 0x0, 0x0, 0x0, 0x3FF, 0x0⟩,
  ⟨0x1B, 1, 1, 0x0, 0x3FF, 0x0, 0x0, 0x0, 0x0, 0x0⟩,
  ⟨0x20, 16, 1, 0x0, 0xFFFFFFFFFF, 0x0, 0x0, 0x0, 0x0, 0xFFFFFFFFFF⟩]

/-- Registers of the TXC8 page. -/
def rowsTxc8 : List RegRow := [
  ⟨0x00, 1, 1, 0x0, 0x0, 0x0, 0x0, 0x0, 0xFFFFFF0000, 0x0⟩,
  ⟨0x01, 1, 1, 0x0, 0x1, 0x4, 0x0, 0x2, 0x0, 0x5⟩,
  ⟨0x02, 1, 1, 0x0, 0x0, 0x0, 0x0, 0x0, 0xFFFFF, 0x0⟩,
  ⟨0x03, 1, 1, 0x0, 0x0, 0x0, 0x0, 0x0, 0x7, 0x0⟩,
  ⟨0x04, 1, 1, 0x0, 0x0, 0x0, 0x7FF, 0x0, 0x0, 0x0⟩,
  ⟨0x05, 1, 1, 0x0, 0x7FF, 0x0, 0x0, 0x0, 0x0, 0x7FF⟩,
  ⟨0x06, 1, 1, 0x0, 0x0, 0x0, 0x0, 0x7FF, 0x0, 0x0⟩,
  ⟨0x07, 1, 1, 0x0, 0x0, 0x0, 0xF, 0x0, 0x0, 0x0⟩,
  ⟨0x08, 1, 1, 0x0, 0x0, 0x0, 0x0, 0x0, 0xFFFFFFFF, 0x0⟩,
  ⟨0x09, 1, 1, 0x0, 0x0, 0x0, 0x0, 0x0, 0xFFFFFFFFFF, 0x0⟩,
  ⟨0x0B, 1, 1, 0x0, 0x0, 0x0, 0x0, 0x0, 0xFFFFFFFF, 0x0⟩,
  ⟨0x10, 1, 1, 0x100, 0x0, 0x100, 0x0, 0x1E00, 0xF0, 0x100⟩,
  ⟨0x11, 1, 1, 0x1900C8, 0xFF01FF, 0x0, 0x0, 0x0, 0x0, 0xFF01FF⟩,
  ⟨0x12, 1, 1, 0x40, 0x1FFFFFFFF, 0x0, 0x0, 0x0, 0x0, 0x1FFFFFFFF⟩,
  ⟨0x13, 1, 1, 0xB603E8, 0x3FF03FF, 0x0, 0x0, 0x0, 0x0, 0x3FF03FF⟩,
  ⟨0x14, 1, 1, 0x34F8, 0xFFFFF, 0x0, 0x0, 0x0, 0x0, 0xFFFFF⟩,
  ⟨0x15, 1, 1, 0x0, 0x0, 0x0, 0x0, 0x0, 0xFFFFFFFFFF, 0x0⟩,
  ⟨0x16, 1, 1, 0x1340, 0x1FFF, 0x0, 0x0, 0x0, 0x0, 0x1FFF⟩,
  ⟨0x17, 1, 1, 0x201A, 0x3F3F, 0x0, 0x0, 0x0, 0x0, 0x3F3F⟩,
  ⟨0x18, 1, 1, 0x1A21400, 0xFF3FFFF, 0x0, 0x0, 0x40000, 0x0, 0xFF3FFFF⟩,
  ⟨0x19, 1, 1, 0x0, 0x0, 0x0, 0x0, 0x0, 0xFFFFF, 0x0⟩,
  ⟨0x1A, 1, 1, 0x11C, 0x0, 0x0, 0x0, 0x0, 0x3FF, 0x0⟩,
  ⟨0x1B, 1, 1, 0x0, 0x3FF, 0x0, 0x0, 0x0, 0x0, 0x0⟩,
  ⟨0x20, 16, 1, 0x0, 0xFFFFFFFFFF, 0x0, 0x0, 0x0, 0x0, 0xFFFFFFFFFF⟩]

/-- Registers of the RXC pages. -/
def rowsRxc : List RegRow := [
  ⟨0x00, 1, 1, 0x0, 0x0, 0x0, 0x0, 0x0, 0xFFFFFF0000, 0x0⟩,
  ⟨0x01, 1, 1, 0x0, 0x1, 0x4, 0x0, 0x2, 0x0, 0x5⟩,
  ⟨0x02, 1, 1, 0x0, 0x0, 0x0, 0x0, 0x0, 0x7FFFF0D, 0x0⟩,
  ⟨0x03, 1, 1, 0x0, 0x0, 0x0, 0x0, 0x0, 0x3, 0x0⟩,
  ⟨0x04, 1, 1, 0x0, 0x0, 0x0, 0xFFF, 0x0, 0x0, 0x0⟩,
  ⟨0x05, 1, 1, 0x0, 0xFFF, 0x0, 0x0, 0x0, 0x0, 0xFFF⟩,
  ⟨0x06, 1, 1, 0x0, 0x0, 0x0, 0x0, 0xFFF, 0x0, 0x0⟩,
  ⟨0x07, 1, 1, 0x0, 0x0, 0x0, 0xF, 0x0, 0x0, 0x0⟩,
  ⟨0x08, 1, 1, 0x0, 0x0, 0x0, 0x0, 0x0, 0xFFFFFFFF, 0x0⟩,
  ⟨0x09, 1, 1, 0x0, 0x0, 0x0, 0x0, 0x0, 0xFFFFFFFFFF, 0x0⟩,
  ⟨0x0B, 1, 1, 0x0, 0x0, 0x0, 0x0, 0x0, 0xFFFFFFFF, 0x0⟩,
  ⟨0x10, 1, 1, 0x2, 0x2, 0x0, 0x0, 0x0, 0x0, 0x2⟩,
  ⟨0x11, 1, 1, 0x200, 0x3FF, 0x0, 0x0, 0x0, 0x0, 0x3FF⟩,
  ⟨0x12, 1, 1, 0x181806, 0x17F7F1F, 0x0, 0x0, 0x0, 0x0, 0x17F001F⟩,
  ⟨0x13, 1, 1, 0xF1E00, 0x1F7F00, 0x0, 0x0, 0x0, 0x7F, 0x1F0000⟩,
  ⟨0x14, 1, 1, 0x1080C04406, 0xF0FFFFFF1F, 0x0, 0x0, 0x0, 0x0, 0xF0FFFFFF1F⟩,
  ⟨0x15, 1, 1, 0x20A, 0x31F, 0x0, 0x0, 0x0, 0x0, 0x31F⟩,
  ⟨0x16, 1, 1, 0xA14, 0x1F1F, 0x0, 0x0, 0x0, 0x0, 0x1F1F⟩,
  ⟨0x17, 1, 1, 0x0, 0x0, 0x0, 0x0, 0x0, 0xFFFF007F, 0x0⟩,
  ⟨0x18, 1, 1, 0x0, 0x0, 0x0, 0x0, 0x0, 0xFFFFFFFFFF, 0x0⟩,
  ⟨0x19, 1, 1, 0x0, 0x3FF, 0x0, 0x0, 0x0, 0x0, 0x0⟩,
  ⟨0x1A, 1, 1, 0x0, 0x0, 0x0, 0x0, 0x0, 0xFFFF, 0x0⟩,
  ⟨0x1B, 1, 1, 0x0, 0x1FFFFF, 0x0, 0x0, 0x0, 0x0, 0x1FFFFF⟩,
  ⟨0x1C, 1, 1, 0x0, 0x3FFFFFFFFF, 0x0, 0x0, 0xC000000000, 0x0, 0x3FFFFFFFFF⟩,
  ⟨0x1D, 1, 1, 0x0, 0x0, 0x0, 0x0, 0x0, 0xE0003FFFFF, 0x0⟩,
  ⟨0x1E, 1, 1, 0x0, 0x0, 0x0, 0x0, 0x0, 0x1FFFFF, 0x0⟩,
  ⟨0x1F, 1, 1, 0x0, 0x0, 0x0, 0x0, 0x0, 0xFFFFFFFF, 0x0⟩]

/-- Registers of the RXC16 page. -/
def rowsRxc16 : List RegRow := [
  ⟨0x00, 1, 1, 0x0, 0x0, 0x0, 0x0, 0x0, 0xFFFFFF0000, 0x0⟩,
  ⟨0x01, 1, 1, 0x0, 0x1, 0x4, 0x0, 0x2, 0x0, 0x5⟩,
  ⟨0x02, 1, 1, 0x0, 0x0, 0x0, 0x0, 0x0, 0x7FFFF0D, 0x0⟩,
  ⟨0x03, 1, 1, 0x0, 0x0, 0x0, 0x0, 0x0, 0x3, 0x0⟩,
  ⟨0x04, 1, 1, 0x0, 0x0, 0x0, 0xFFF, 0x0, 0x0, 0x0⟩,
  ⟨0x05, 1, 1, 0x0, 0xFFF, 0x0, 0x0, 0x0, 0x0, 0xFFF⟩,
  ⟨0x06, 1, 1, 0x0, 0x0, 0x0, 0x0, 0xFFF, 0x0, 0x0⟩,
  ⟨0x07, 1, 1, 0x0, 0x0, 0x0, 0xF, 0x0, 0x0, 0x0⟩,
  ⟨0x08, 1, 1, 0x0, 0x0, 0x0, 0x0, 0x0, 0xFFFFFFFF, 0x0⟩,
  ⟨0x09, 1, 1, 0x0, 0x0, 0x0, 0x0, 0x0, 0xFFFFFFFFFF, 0x0⟩,
  ⟨0x0B, 1, 1, 0x0, 0x0, 0x0, 0x0, 0x0, 0xFFFFFFFF, 0x0⟩,
  ⟨0x10, 1, 1, 0x100, 0x0, 0x100, 0x0, 0x3E00, 0xF8, 0x100⟩,
  ⟨0x11, 1, 1, 0x200, 0x3FF, 0x0, 0x0, 0x0, 0x0, 0x3FF⟩,
  ⟨0x12, 1, 1, 0x181806, 0x17F7F1F, 0x0, 0x0, 0x0, 0x0, 0x17F001F⟩,
  ⟨0x13, 1, 1, 0xF1E00, 0x1F7F00, 0x0, 0x0, 0x0, 0x7F, 0x1F0000⟩,
  ⟨0x14, 1, 1, 0x1080C04406, 0xF0FFFFFF1F, 0x0, 0x0, 0x0, 0x0, 0xF0FFFFFF1F⟩,
  ⟨0x15, 1, 1, 0x20A, 0x31F, 0x0, 0x0, 0x0, 0x0, 0x31F⟩,
  ⟨0x16, 1, 1, 0xA14, 0x1F1F, 0x0, 0x0, 0x0, 0x0, 0x1F1F⟩,
  ⟨0x17, 1, 1, 0x0, 0x0, 0x0, 0x0, 0x0, 0xFFFF007F, 0x0⟩,
  ⟨0x18, 1, 1, 0x0, 0x0, 0x0, 0x0, 0x0, 0xFFFFFFFFFF, 0x0⟩,
  ⟨0x19, 1, 1, 0x0, 0x3FF, 0x0, 0x0, 0x0, 0x0, 0x0⟩,
  ⟨0x1A, 1, 1, 0x0, 0x0, 0x0, 0x0, 0x0, 0xFFFF, 0x0⟩,
  ⟨0x1B, 1, 1, 0x0, 0x1FFFFF, 0x0, 0x0, 0x0, 0x0, 0x1FFFFF⟩,
  ⟨0x1C, 1, 1, 0x0, 0x3FFFFFFFFF, 0x0, 0x0, 0xC000000000, 0x0, 0x3FFFFFFFFF⟩,
  ⟨0x1D, 1, 1, 0x0, 0x0, 0x0, 0x0, 0x0, 0xE0003FFFFF, 0x0⟩,
  ⟨0x1E, 1, 1, 0x0, 0x0, 0x0, 0x0, 0x0, 0x1FFFFF, 0x0⟩,
  ⟨0x1F, 1, 1, 0x0, 0x0, 0x0, 0x0, 0x0, 0xFFFFFFFF, 0x0⟩]

/-- Registers of the FIL pages. -/
def rowsFil : List RegRow := [
  ⟨0x00, 1, 1, 0x0, 0x0, 0x0, 0x0, 0x0, 0xFFFFFF0000, 0x0⟩,
  ⟨0x01, 1, 1, 0x0, 0x1, 0x4, 0x0, 0x2, 0x0, 0x5⟩,
  ⟨0x02, 1, 1, 0x0, 0x0, 0x0, 0x0, 0x0, 0xF81, 0x0⟩,
  ⟨0x03, 1, 1, 0x0, 0x0, 0x0, 0x0, 0x0, 0x1, 0x0⟩,
  ⟨0x04, 1, 1, 0x0, 0x0, 0x0, 0xFFFF, 0x0, 0x0, 0x0⟩,
  ⟨0x05, 1, 1, 0x0, 0xFFFF, 0x0, 0x0, 0x0, 0x0, 0xFFFF⟩,
  ⟨0x06, 1, 1, 0x0, 0x0, 0x0, 0x0, 0xFFFF, 0x0, 0x0⟩,
  ⟨0x07, 1, 1, 0x0, 0x0, 0x0, 0xFFFF01, 0x0, 0x0, 0x0⟩,
  ⟨0x08, 1, 1, 0x0, 0x0, 0x0, 0x0, 0x0, 0xFFFFFFFF, 0x0⟩,
  ⟨0x09, 1, 1, 0x0, 0x0, 0x0, 0x0, 0x0, 0xFFFFFFFFFF, 0x0⟩,
  ⟨0x0B, 1, 1, 0x0, 0x0, 0x0, 0x0, 0x0, 0xFFFFFFFF, 0x0⟩,
  ⟨0x10, 8, 1, 0x0, 0xFFFF, 0x0, 0x0, 0x0, 0x0, 0xFFFF⟩,
  ⟨0x18, 8, 1, 0x800, 0x1FF, 0xA00, 0x0, 0x0, 0x0, 0xBFF⟩,
  ⟨0x20, 32, 1, 0x0, 0x7FFFF7FFFF, 0x0, 0x0, 0x0, 0x0, 0x7FFFF7FFFF⟩]

/-- Registers of the KBZ page. -/
def rowsKbz : List RegRow := [
  ⟨0x00, 1, 1, 0x0, 0x0, 0x0, 0x0, 0x0, 0xFFFFFF0000, 0x0⟩,
  ⟨0x01, 1, 1, 0x0, 0x1, 0x4, 0x0, 0x2, 0x0, 0x5⟩,
  ⟨0x02, 1, 1, 0x0, 0x0, 0x0, 0x0, 0x0, 0x7, 0x0⟩,
  ⟨0x03, 1, 1, 0x0, 0x0, 0x0, 0x0, 0x0, 0x1, 0x0⟩,
  ⟨0x04, 1, 1, 0x0, 0x0, 0x0, 0x7, 0x0, 0x0, 0x0⟩,
  ⟨0x05, 1, 1, 0x0, 0x7, 0x0, 0x0, 0x0, 0x0, 0x7⟩,
  ⟨0x06, 1, 1, 0x0, 0x0, 0x0, 0x0, 0x7, 0x0, 0x0⟩,
  ⟨0x07, 1, 1, 0x0, 0x0, 0x0, 0x7, 0x0, 0x0, 0x0⟩,
  ⟨0x08, 1, 1, 0x0, 0x0, 0x0, 0x0, 0x0, 0xFFFFFFFF, 0x0⟩,
  ⟨0x09, 1, 1, 0x0, 0x0, 0x0, 0x0, 0x0, 0xFFFFFFFFFF, 0x0⟩,
  ⟨0x0B, 1, 1, 0x0, 0x0, 0x0, 0x0, 0x0, 0xFFFFFFFF, 0x0⟩,
  ⟨0x10, 1, 1, 0xA0008, 0xFF00FF, 0x0, 0x0, 0x0, 0x0, 0xFF00FF⟩,
  ⟨0x11, 1, 1, 0x7D0000, 0xFFFF0000, 0x0, 0x0, 0x0, 0x0, 0xFFFF0000⟩,
  ⟨0x12, 1, 1, 0x21054, 0xFFFFF, 0x0, 0x0, 0x0, 0x0, 0xFFFFF⟩,
  ⟨0x13, 1, 1, 0x602818, 0x3FFFFFFF, 0x0, 0x0, 0x0, 0x0, 0x3FFFFFFF⟩,
  ⟨0x14, 1, 1, 0x3, 0x3, 0x0, 0x0, 0x0, 0x0, 0x3⟩,
  ⟨0x15, 1, 1, 0x0, 0x0, 0x0, 0x0, 0x0, 0xFFFFFFFF, 0x0⟩,
  ⟨0x16, 1, 1, 0x0, 0x0, 0x0, 0x0, 0x0, 0xFFFFFFFF, 0x0⟩,
  ⟨0x17, 1, 1, 0x0, 0x0, 0x0, 0x0, 0x0, 0xFFFFFFFC00, 0x0⟩,
  ⟨0x18, 1, 1, 0x0, 0x0, 0x0, 0xFFFFFFFFFF, 0x0, 0x0, 0x0⟩,
  ⟨0x19, 1, 1, 0x0, 0x0, 0x0, 0xFFFFFFFFFF, 0x0, 0x0, 0x0⟩,
  ⟨0x1A, 1, 1, 0x0, 0x0, 0x0, 0xFFFFFFFFFF, 0x0, 0x0, 0x0⟩,
  ⟨0x1B, 1, 1, 0x0, 0x0, 0x0, 0xFFFFFFFFFF, 0x0, 0x0, 0x0⟩,
  ⟨0x1C, 1, 1, 0x0, 0x0, 0x0, 0xFFFFFFFF, 0x0, 0x0, 0x0⟩,
  ⟨0x20, 1, 1, 0xFFFFFFFFFF, 0xFFFFFFFFFF, 0x0, 0x0, 0x0, 0x0, 0xFFFFFFFFFF⟩,
  ⟨0x21, 1, 1, 0xFFFFFFFFFF, 0xFFFFFFFFFF, 0x0, 0x0, 0x0, 0x0, 0xFFFFFFFFFF⟩,
  ⟨0x22, 1, 1, 0xFFFFFFFFFF, 0xFFFFFFFFFF, 0x0, 0x0, 0x0, 0x0, 0xFFFFFFFFFF⟩,
  ⟨0x23, 1, 1, 0xFFFFFFFFFF, 0xFFFFFFFFFF, 0x0, 0x0, 0x0, 0x0, 0xFFFFFFFFFF⟩,
  ⟨0x24, 1, 1, 0xFFFFFFFF, 0xFFFFFFFF, 0x0, 0x0, 0x0, 0x0, 0xFFFFFFFF⟩,
  ⟨0x28, 1, 1, 0x0, 0x0, 0x0, 0x0, 0x0, 0xFFFFFFFFFF, 0x0⟩,
  ⟨0x29, 1, 1, 0x0, 0x0, 0x0, 0x0, 0x0, 0xFFFFFFFFFF, 0x0⟩,
  ⟨0x2A, 1, 1, 0x0, 0x0, 0x0, 0x0, 0x0, 0xFFFFFFFFFF, 0x0⟩,
  ⟨0x2B, 1, 1, 0x0, 0x0, 0x0, 0x0, 0x0, 0xFFFFFFFFFF, 0x0⟩,
  ⟨0x2C, 1, 1, 0x0, 0x0, 0x0, 0x0, 0x0, 0xFFFFFFFF, 0x0⟩,
  ⟨0x40, 192, 1, 0x1, 0xFFFFFFFFFF, 0x0, 0x0, 0x0, 0x0, 0x0⟩]

/-- Registers of the CAL page. -/
def rowsCal : List RegRow := [
  ⟨0x00, 1, 1, 0x0, 0x0, 0x0, 0x0, 0x0, 0xFFFFFF0000, 0x0⟩,
  ⟨0x01, 1, 1, 0x0, 0x1, 0x4, 0x0, 0x2, 0x0, 0x5⟩,
  ⟨0x02, 1, 1, 0x0, 0x0, 0x0, 0x0, 0x0, 0x71F, 0x0⟩,
  ⟨0x03, 1, 1, 0x0, 0x0, 0x0, 0x0, 0x0, 0x3, 0x0⟩,
  ⟨0x04, 1, 1, 0x0, 0x0, 0x0, 0x7B, 0x0, 0x0, 0x0⟩,
  ⟨0x05, 1, 1, 0x0, 0x7B, 0x0, 0x0, 0x0, 0x0, 0x7B⟩,
  ⟨0x06, 1, 1, 0x0, 0x0, 0x0, 0x0, 0x7B, 0x0, 0x0⟩,
  ⟨0x07, 1, 1, 0x0, 0x0, 0x0, 0x3, 0x0, 0x0, 0x0⟩,
  ⟨0x08, 1, 1, 0x0, 0x0, 0x0, 0x0, 0x0, 0xFFFFFFFF, 0x0⟩,
  ⟨0x09, 1, 1, 0x0, 0x0, 0x0, 0x0, 0x0, 0xFFFFFFFFFF, 0x0⟩,
  ⟨0x0B, 1, 1, 0x0, 0x0, 0x0, 0x0, 0x0, 0xFFFFFFFF, 0x0⟩,
  ⟨0x10, 1, 1, 0xF, 0xF, 0x0, 0x0, 0x0, 0x0, 0xF⟩,
  ⟨0x11, 1, 1, 0x3E80008, 0xFFFF00FF, 0x0, 0x0, 0x0, 0x0, 0xFFFF00FF⟩,
  ⟨0x12, 1, 1, 0x4010040804, 0xFFFFFFFF0F, 0x0, 0x0, 0x0, 0x0, 0xFFFFFFFF0F⟩,
  ⟨0x13, 1, 1, 0x7D0003C, 0xFFFF00FF, 0x0, 0x0, 0x0, 0x0, 0xFFFF00FF⟩,
  ⟨0x14, 1, 1, 0x0, 0x1FFFF0700, 0x0, 0x0, 0x0, 0x0, 0x1FFFF0700⟩,
  ⟨0x15, 1, 1, 0x0, 0x0, 0x0, 0x0, 0x0, 0x7FFFFFF, 0x0⟩,
  ⟨0x16, 1, 1, 0x140000, 0x701FF03FF, 0x0, 0x0, 0x8000000000, 0x0, 0x701FF03FF⟩,
  ⟨0x17, 1, 1, 0x0, 0x0, 0x0, 0x0, 0x0, 0x8000FF01FF, 0x0⟩,
  ⟨0x18, 1, 1, 0x0, 0x0, 0x0, 0x0, 0x1FF, 0x0, 0x0⟩,
  ⟨0x19, 1, 1, 0x0, 0x0, 0x0, 0x0, 0x0, 0xFFFFFFFF, 0x0⟩,
  ⟨0x1A, 1, 1, 0x0, 0x0, 0x0, 0x0, 0x0, 0xFFFFFFFFFF, 0x0⟩,
  ⟨0x1B, 1, 1, 0x0, 0x0, 0x0, 0x0, 0x0, 0xFFFFFFFF, 0x0⟩,
  ⟨0x1C, 1, 1, 0x0, 0x0, 0x0, 0x0, 0x0, 0xFFFFFFFF, 0x0⟩]

/-- Registers of the PRT page. -/
def rowsPrt : List RegRow := [
  ⟨0x00, 1, 1, 0x0, 0x0, 0x0, 0x0, 0x0, 0xFFFFFF0000, 0x0⟩,
  ⟨0x01, 1, 1, 0x0, 0x1, 0x4, 0x0, 0x2, 0x0, 0x5⟩,
  ⟨0x02, 1, 1, 0x0, 0x0, 0x0, 0x0, 0x0, 0xFFFF01, 0x0⟩,
  ⟨0x03, 1, 1, 0x0, 0x0, 0x0, 0x0, 0x0, 0x1, 0x0⟩,
  ⟨0x04, 1, 1, 0x0, 0x0, 0x0, 0xFF, 0x0, 0x0, 0x0⟩,
  ⟨0x05, 1, 1, 0x0, 0xFF, 0x0, 0x0, 0x0, 0x0, 0xFF⟩,
  ⟨0x06, 1, 1, 0x0, 0x0, 0x0, 0x0, 0xFF, 0x0, 0x0⟩,
  ⟨0x07, 1, 1, 0x0, 0x0, 0x0, 0xFF01, 0x0, 0x0, 0x0⟩,
  ⟨0x08, 1, 1, 0x0, 0x0, 0x0, 0x0, 0x0, 0xFFFFFFFF, 0x0⟩,
  ⟨0x09, 1, 1, 0x0, 0x0, 0x0, 0x0, 0x0, 0xFFFFFFFFFF, 0x0⟩,
  ⟨0x0B, 1, 1, 0x0, 0x0, 0x0, 0x0, 0x0, 0xFFFFFFFF, 0x0⟩,
  ⟨0x10, 1, 1, 0x400201, 0xFF0F01, 0x0, 0x0, 0x0, 0x0, 0xFF0F01⟩,
  ⟨0x11, 1, 1, 0x4940494, 0xFFFFFFFF, 0x0, 0x0, 0x0, 0x0, 0xFFFFFFFF⟩,
  ⟨0x12, 1, 1, 0x1B581024, 0xFFFFFF3F, 0x0, 0x0, 0x0, 0x0, 0xFFFFFF3F⟩,
  ⟨0x13, 1, 1, 0x2000EA8A0, 0x7FF1FFCF7, 0x0, 0x0, 0x0, 0x0, 0x7FF1FFCF7⟩,
  ⟨0x14, 1, 1, 0x1E000400, 0xFFFFFFFF, 0x0, 0x0, 0x0, 0x0, 0xFFFFFFFF⟩,
  ⟨0x15, 1, 1, 0x80100, 0xFFFFFFFF, 0x0, 0x0, 0x0, 0x0, 0xFFFFFFFF⟩,
  ⟨0x16, 1, 1, 0x15400014, 0xFFFFFFDD, 0x0, 0x0, 0x0, 0x0, 0xFFFFFFDD⟩,
  ⟨0x17, 1, 1, 0x10E01060, 0xFFFFFFFF, 0x0, 0x0, 0x0, 0x0, 0xFFFFFFFF⟩,
  ⟨0x18, 8, 1, 0x40, 0xFF0FF7, 0x0, 0x0, 0x0, 0x0, 0xFF0FF6⟩,
  ⟨0x20, 8, 1, 0x0, 0x0, 0x0, 0x0, 0x0, 0xFFE0FF3FFD, 0x0⟩,
  ⟨0x28, 8, 1, 0x0, 0x0, 0x0, 0x0, 0x0, 0xFFFFFF, 0x0⟩]

/-- Registers of the BLZ page. -/
def rowsBlz : List RegRow := [
  ⟨0x00, 1, 1, 0x0, 0x0, 0x0, 0x0, 0x0, 0xFFFFFF0000, 0x0⟩,
  ⟨0x01, 1, 1, 0x0, 0x1, 0x4, 0x0, 0x2, 0x0, 0x5⟩,
  ⟨0x02, 1, 1, 0x0, 0x0, 0x0, 0x0, 0x0, 0xFFFF01, 0x0⟩,
  ⟨0x03, 1, 1, 0x0, 0x0, 0x0, 0x0, 0x0, 0x1, 0x0⟩,
  ⟨0x04, 1, 1, 0x0, 0x0, 0x0, 0x3FF, 0x0, 0x0, 0x0⟩,
  ⟨0x05, 1, 1, 0x0, 0x3FF, 0x0, 0x0, 0x0, 0x0, 0x3FF⟩,
  ⟨0x06, 1, 1, 0x0, 0x0, 0x0, 0x0, 0x3FF, 0x0, 0x0⟩,
  ⟨0x07, 1, 1, 0x0, 0x0, 0x0, 0xFF01, 0x0, 0x0, 0x0⟩,
  ⟨0x08, 1, 1, 0x0, 0x0, 0x0, 0x0, 0x0, 0xFFFFFFFF, 0x0⟩,
  ⟨0x09, 1, 1, 0x0, 0x0, 0x0, 0x0, 0x0, 0xFFFFFFFFFF, 0x0⟩,
  ⟨0x0B, 1, 1, 0x0, 0x0, 0x0, 0x0, 0x0, 0xFFFFFFFF, 0x0⟩,
  ⟨0x10, 1, 1, 0x104013, 0x3FFF13, 0x0, 0x0, 0x0, 0x0, 0x3FFF13⟩,
  ⟨0x11, 1, 1, 0x34F8049410, 0xFFFFFFFFFF, 0x0, 0x0, 0x0, 0x0, 0xFFFFFFFFFF⟩,
  ⟨0x12, 1, 1, 0x50443024, 0xFFFFFFFF, 0x0, 0x0, 0x0, 0x0, 0xFFFFFFFF⟩,
  ⟨0x13, 1, 1, 0xC0004, 0xFFFF07, 0x0, 0x0, 0x0, 0x0, 0xFFFF07⟩,
  ⟨0x14, 1, 1, 0x17FD00, 0xFFFFFFFFFF, 0x0, 0x0, 0x0, 0x0, 0xFFFFFFFFFF⟩,
  ⟨0x15, 1, 1, 0x17E500, 0xFFFFFFFFFF, 0x0, 0x0, 0x0, 0x0, 0xFFFFFFFFFF⟩,
  ⟨0x16, 1, 1, 0x0, 0x0, 0x0, 0x0, 0x0, 0xFFFFFFFF, 0x0⟩,
  ⟨0x18, 8, 1, 0x0, 0xFFFF, 0x0, 0x0, 0x0, 0x0, 0x0⟩,
  ⟨0x20, 8, 1, 0x0, 0x0, 0x0, 0x0, 0x0, 0xFFFFFFFFF0, 0x0⟩]

/-- Registers of the INV page. -/
def rowsInv : List RegRow := [
  ⟨0x00, 1, 1, 0x0, 0x0, 0x0, 0x0, 0x0, 0xFFFFFF0000, 0x0⟩,
  ⟨0x01, 1, 1, 0x0, 0x1, 0x4, 0x0, 0x2, 0x0, 0x5⟩,
  ⟨0x02, 1, 1, 0x0, 0x0, 0x0, 0x0, 0x0, 0xFFF1, 0x0⟩,
  ⟨0x03, 1, 1, 0x0, 0x0, 0x0, 0x0, 0x0, 0x1, 0x0⟩,
  ⟨0x04, 1, 1, 0x0, 0x0, 0x0, 0x3FF, 0x0, 0x0, 0x0⟩,
  ⟨0x05, 1, 1, 0x0, 0x3FF, 0x0, 0x0, 0x0, 0x0, 0x3FF⟩,
  ⟨0x06, 1, 1, 0x0, 0x0, 0x0, 0x0, 0x3FF, 0x0, 0x0⟩,
  ⟨0x07, 1, 1, 0x0, 0x0, 0x0, 0x3, 0x0, 0x0, 0x0⟩,
  ⟨0x08, 1, 1, 0x0, 0x0, 0x0, 0x0, 0x0, 0xFFFFFFFF, 0x0⟩,
  ⟨0x09, 1, 1, 0x0, 0x0, 0x0, 0x0, 0x0, 0xFFFFFFFFFF, 0x0⟩,
  ⟨0x0B, 1, 1, 0x0, 0x0, 0x0, 0x0, 0x0, 0xFFFFFFFF, 0x0⟩,
  ⟨0x10, 1, 1, 0x30011, 0xF3111, 0x0, 0x0, 0x0, 0x0, 0xF3111⟩,
  ⟨0x11, 1, 1, 0x17DF00, 0xFFFFFFFFFF, 0x0, 0x0, 0x0, 0x0, 0xFFFFFFFFFF⟩,
  ⟨0x12, 1, 1, 0x17DD00, 0xFFFFFFFFFF, 0x0, 0x0, 0x0, 0x0, 0xFFFFFFFFFF⟩,
  ⟨0x13, 1, 1, 0x17DCC0, 0xFFFFFFFFFF, 0x0, 0x0, 0x0, 0x0, 0xFFFFFFFFFF⟩,
  ⟨0x14, 1, 1, 0x17DBC0, 0xFFFFFFFFFF, 0x0, 0x0, 0x0, 0x0, 0xFFFFFFFFFF⟩,
  ⟨0x15, 1, 1, 0x181802, 0x1FFFF73, 0x0, 0x0, 0x0, 0x0, 0x1FFFF73⟩,
  ⟨0x16, 1, 1, 0x0, 0xFFFFFFFFFF, 0x0, 0x0, 0x0, 0x0, 0xFFFFFFFFFF⟩,
  ⟨0x17, 1, 1, 0x0, 0x0, 0x0, 0x0, 0x7, 0x0, 0x0⟩,
  ⟨0x18, 1, 1, 0x20F010C, 0xF1F0FFF, 0x0, 0x0, 0x0, 0x0, 0xF1F0FFF⟩,
  ⟨0x19, 1, 1, 0x400000, 0xFFFF00, 0x0, 0x0, 0x0, 0xFF, 0xFF0000⟩,
  ⟨0x1A, 1, 1, 0x0, 0x0, 0x0, 0x0, 0x0, 0xFFFFFFFF, 0x0⟩,
  ⟨0x1B, 1, 1, 0x0, 0x0, 0x0, 0x0, 0x0, 0xFFFFFFFFFF, 0x0⟩,
  ⟨0x20, 1, 1, 0x0, 0xFFFF, 0x0, 0x0, 0x0, 0x0, 0xFFFF⟩,
  ⟨0x21, 1, 1, 0x2000, 0xFFFF, 0x0, 0x0, 0x0, 0x0, 0xFFFF⟩,
  ⟨0x22, 1, 1, 0x4000, 0xFFFF, 0x0, 0x0, 0x0, 0x0, 0xFFFF⟩,
  ⟨0x23, 1, 1, 0x6000, 0xFFFF, 0x0, 0x0, 0x0, 0x0, 0xFFFF⟩,
  ⟨0x24, 1, 1, 0x8000, 0xFFFF, 0x0, 0x0, 0x0, 0x0, 0xFFFF⟩,
  ⟨0x25, 1, 1, 0xA000, 0xFFFF, 0x0, 0x0, 0x0, 0x0, 0xFFFF⟩,
  ⟨0x26, 1, 1, 0xC000, 0xFFFF, 0x0, 0x0, 0x0, 0x0, 0xFFFF⟩,
  ⟨0x27, 1, 1, 0xE000, 0xFFFF, 0x0, 0x0, 0x0, 0x0, 0xFFFF⟩,
  ⟨0x28, 1, 1, 0x0, 0xFFFF, 0x0, 0x0, 0x0, 0x0, 0xFFFF⟩,
  ⟨0x29, 1, 1, 0x0, 0xFFFF, 0x0, 0x0, 0x0, 0x0, 0xFFFF⟩,
  ⟨0x2A, 1, 1, 0x0, 0xFFFF, 0x0, 0x0, 0x0, 0x0, 0xFFFF⟩,
  ⟨0x2B, 1, 1, 0x0, 0xFFFF, 0x0, 0x0, 0x0, 0x0, 0xFFFF⟩,
  ⟨0x2C, 1, 1, 0x0, 0xFFFF, 0x0, 0x0, 0x0, 0x0, 0xFFFF⟩,
  ⟨0x2D, 1, 1, 0x0, 0xFFFF, 0x0, 0x0, 0x0, 0x0, 0xFFFF⟩,
  ⟨0x2E, 1, 1, 0x0, 0xFFFF, 0x0, 0x0, 0x0, 0x0, 0xFFFF⟩,
  ⟨0x2F, 1, 1, 0x0, 0xFFFF, 0x0, 0x0, 0x0, 0x0, 0xFFFF⟩,
  ⟨0x30, 1, 1, 0x0, 0xFFFFFFFFFF, 0x0, 0x0, 0x0, 0x0, 0x0⟩,
  ⟨0x31, 1, 1, 0x0, 0xFFFFFFFFFF, 0x0, 0x0, 0x0, 0x0, 0x0⟩,
  ⟨0x32, 1, 1, 0x0, 0xFFFFFFFFFF, 0x0, 0x0, 0x0, 0x0, 0x0⟩,
  ⟨0x33, 1, 1, 0x0, 0xFFFFFFFFFF, 0x0, 0x0, 0x0, 0x0, 0x0⟩,
  ⟨0x34, 1, 1, 0x0, 0xFFFFFFFF, 0x0, 0x0, 0x0, 0x0, 0x0⟩]

/-- Registers of the CND0 page. -/
def rowsCnd0 : List RegRow := [
  ⟨0x00, 1, 1, 0x0, 0x0, 0x0, 0x0, 0x0, 0xFFFFFF0000, 0x0⟩,
  ⟨0x01, 1, 1, 0x0, 0x1, 0x4, 0x0, 0x2, 0x0, 0x5⟩,
  ⟨0x02, 1, 1, 0x0, 0x0, 0x0, 0x0, 0x0, 0xFFF001, 0x0⟩,
  ⟨0x03, 1, 1, 0x0, 0x0, 0x0, 0x0, 0x0, 0x1, 0x0⟩,
  ⟨0x04, 1, 1, 0x0, 0x0, 0x0, 0x7, 0x0, 0x0, 0x0⟩,
  ⟨0x05, 1, 1, 0x0, 0x7, 0x0, 0x0, 0x0, 0x0, 0x7⟩,
  ⟨0x06, 1, 1, 0x0, 0x0, 0x0, 0x0, 0x7, 0x0, 0x0⟩,
  ⟨0x07, 1, 1, 0x0, 0x0, 0x0, 0x7, 0x0, 0x0, 0x0⟩,
  ⟨0x08, 1, 1, 0x0, 0x0, 0x0, 0x0, 0x0, 0xFFFFFFFF, 0x0⟩,
  ⟨0x09, 1, 1, 0x0, 0x0, 0x0, 0x0, 0x0, 0xFFFFFFFFFF, 0x0⟩,
  ⟨0x0B, 1, 1, 0x0, 0x0, 0x0, 0x0, 0x0, 0xFFFFFFFF, 0x0⟩,
  ⟨0x10, 1, 1, 0x40, 0xFF, 0x0, 0x0, 0x0, 0x0, 0xFF⟩,
  ⟨0x11, 1, 1, 0xFFFFFFFF, 0x0, 0x0, 0x0, 0x0, 0xFFFFFFFF, 0x0⟩,
  ⟨0x12, 1, 1, 0x0, 0x0, 0x0, 0x0, 0x0, 0xFFFFFFFF, 0x0⟩,
  ⟨0x13, 1, 1, 0x0, 0x0, 0x0, 0x0, 0x0, 0xFFFFFFFF, 0x0⟩]

/-- Registers of the CND pages. -/
def rowsCnd : List RegRow := [
  ⟨0x00, 1, 1, 0x0, 0x0, 0x0, 0x0, 0x0, 0xFFFFFF0000, 0x0⟩,
  ⟨0x01, 1, 1, 0x0, 0x1, 0x4, 0x0, 0x2, 0x0, 0x5⟩,
  ⟨0x02, 1, 1, 0x0, 0x0, 0x0, 0x0, 0x0, 0x1F, 0x0⟩,
  ⟨0x03, 1, 1, 0x0, 0x0, 0x0, 0x0, 0x0, 0x1, 0x0⟩,
  ⟨0x04, 1, 1, 0x0, 0x0, 0x0, 0xFF, 0x0, 0x0, 0x0⟩,
  ⟨0x05, 1, 1, 0x0, 0xFF, 0x0, 0x0, 0x0, 0x0, 0xFF⟩,
  ⟨0x06, 1, 1, 0x0, 0x0, 0x0, 0x0, 0xFF, 0x0, 0x0⟩,
  ⟨0x07, 1, 1, 0x0, 0x0, 0x0, 0x1, 0x0, 0x0, 0x0⟩,
  ⟨0x08, 1, 1, 0x0, 0x0, 0x0, 0x0, 0x0, 0xFFFFFFFF, 0x0⟩,
  ⟨0x09, 1, 1, 0x0, 0x0, 0x0, 0x0, 0x0, 0xFFFFFFFFFF, 0x0⟩,
  ⟨0x0B, 1, 1, 0x0, 0x0, 0x0, 0x0, 0x0, 0xFFFFFFFF, 0x0⟩,
  ⟨0x10, 4, 16, 0x200, 0x300, 0x0, 0x0, 0x7, 0x0, 0x300⟩,
  ⟨0x11, 4, 16, 0x0, 0xFFFFFFFFFF, 0x0, 0x0, 0x0, 0x0, 0xFFFFFFFFFF⟩,
  ⟨0x12, 4, 16, 0x0, 0x0, 0x0, 0x0, 0x0, 0xFFFFFFFFFF, 0x0⟩,
  ⟨0x13, 4, 16, 0x0, 0x0, 0x0, 0x0, 0x0, 0xFFFFFFF8FF, 0x0⟩,
  ⟨0x14, 4, 16, 0x0, 0x0, 0x0, 0x0, 0x0, 0xFFFFFFFFFF, 0x0⟩,
  ⟨0x15, 4, 16, 0x0, 0x0, 0x0, 0x0, 0x0, 0xFFFFFFFF, 0x0⟩,
  ⟨0x18, 4, 16, 0x0, 0xFFFFFFFFFF, 0x0, 0x0, 0x0, 0x0, 0x0⟩,
  ⟨0x19, 4, 16, 0x0, 0xFFFFFFFFFF, 0x0, 0x0, 0x0, 0x0, 0x0⟩,
  ⟨0x1A, 4, 16, 0x0, 0xFFFFFFFFFF, 0x0, 0x0, 0x0, 0x0, 0x0⟩,
  ⟨0x1B, 4, 16, 0x0, 0xFFFFFFFFFF, 0x0, 0x0, 0x0, 0x0, 0x0⟩]

/-- Registers of the EVT pages. -/
def rowsEvt : List RegRow := [
  ⟨0x00, 1, 1, 0x0, 0x0, 0x0, 0x0, 0x0, 0xFFFFFF0000, 0x0⟩,
  ⟨0x01, 1, 1, 0x0, 0x1, 0x4, 0x0, 0x2, 0x0, 0x5⟩,
  ⟨0x02, 1, 1, 0x0, 0x0, 0x0, 0x0, 0x0, 0xFF01, 0x0⟩,
  ⟨0x03, 1, 1, 0x0, 0x0, 0x0, 0x0, 0x0, 0x1, 0x0⟩,
  ⟨0x04, 1, 1, 0x0, 0x0, 0x0, 0xFFFFFF, 0x0, 0x0, 0x0⟩,
  ⟨0x05, 1, 1, 0x0, 0xFFFFFF, 0x0, 0x0, 0x0, 0x0, 0xFFFFFF⟩,
  ⟨0x06, 1, 1, 0x0, 0x0, 0x0, 0x0, 0xFFFFFF, 0x0, 0x0⟩,
  ⟨0x07, 1, 1, 0x0, 0x0, 0x0, 0x1, 0x0, 0x0, 0x0⟩,
  ⟨0x08, 1, 1, 0x0, 0x0, 0x0, 0x0, 0x0, 0xFFFFFFFF, 0x0⟩,
  ⟨0x09, 1, 1, 0x0, 0x0, 0x0, 0x0, 0x0, 0xFFFFFFFFFF, 0x0⟩,
  ⟨0x0B, 1, 1, 0x0, 0x0, 0x0, 0x0, 0x0, 0xFFFFFFFF, 0x0⟩,
  ⟨0x10, 8, 16, 0x0, 0xFFFF0001, 0x0, 0x0, 0x0, 0x0, 0xFFFF0001⟩,
  ⟨0x11, 8, 16, 0x0, 0xFFFFFFFFFF, 0x0, 0x0, 0x0, 0x0, 0xFFFFFFFFFF⟩,
  ⟨0x12, 8, 16, 0x0, 0xFFFFFFFFFF, 0x0, 0x0, 0x0, 0x0, 0xFFFFFFFFFF⟩,
  ⟨0x13, 8, 16, 0x0, 0xFFFFFFFFFF, 0x0, 0x0, 0x0, 0x0, 0xFFFFFFFFFF⟩,
  ⟨0x14, 8, 16, 0x0, 0xFFFFFFFFFF, 0x0, 0x0, 0x0, 0x0, 0xFFFFFFFFFF⟩,
  ⟨0x15, 8, 16, 0x0, 0xFFFFFFFF, 0x0, 0x0, 0x0, 0x0, 0xFFFFFFFF⟩,
  ⟨0x16, 8, 16, 0x0, 0xFFFFFFFFFF, 0x0, 0x0, 0x0, 0x0, 0xFFFFFFFFFF⟩,
  ⟨0x17, 8, 16, 0x0, 0xFFFFFFFFFF, 0x0, 0x0, 0x0, 0x0, 0xFFFFFFFFFF⟩,
  ⟨0x18, 8, 16, 0x0, 0x1FF, 0x0, 0x0, 0x0, 0x0, 0x1FF⟩,
  ⟨0x19, 8, 16, 0x0, 0x0, 0x0, 0x0, 0x0, 0xFFFFFFFFFF, 0x0⟩,
  ⟨0x1A, 8, 16, 0x0, 0x0, 0x0, 0x0, 0x0, 0xFFFFFFFF, 0x0⟩,
  ⟨0x1B, 8, 16, 0x0, 0x0, 0x0, 0x0, 0x0, 0x1FFFFFFFFF, 0x0⟩]

/-- Registers of the EVT6 pages. -/
def rowsEvt6 : List RegRow := [
  ⟨0x00, 1, 1, 0x0, 0x0, 0x0, 0x0, 0x0, 0xFFFFFF0000, 0x0⟩,
  ⟨0x01, 1, 1, 0x0, 0x1, 0x4, 0x0, 0x2, 0x0, 0x5⟩,
  ⟨0x02, 1, 1, 0x0, 0x0, 0x0, 0x0, 0x0, 0xFF01, 0x0⟩,
  ⟨0x03, 1, 1, 0x0, 0x0, 0x0, 0x0, 0x0, 0x1, 0x0⟩,
  ⟨0x04, 1, 1, 0x0, 0x0, 0x0, 0xFFFFFFFF, 0x0, 0x0, 0x0⟩,
  ⟨0x05, 1, 1, 0x0, 0xFFFFFFFF, 0x0, 0x0, 0x0, 0x0, 0xFFFFFFFF⟩,
  ⟨0x06, 1, 1, 0x0, 0x0, 0x0, 0x0, 0xFFFFFFFF, 0x0, 0x0⟩,
  ⟨0x07, 1, 1, 0x0, 0x0, 0x0, 0x1, 0x0, 0x0, 0x0⟩,
  ⟨0x08, 1, 1, 0x0, 0x0, 0x0, 0x0, 0x0, 0xFFFFFFFF, 0x0⟩,
  ⟨0x09, 1, 1, 0x0, 0x0, 0x0, 0x0, 0x0, 0xFFFFFFFFFF, 0x0⟩,
  ⟨0x0B, 1, 1, 0x0, 0x0, 0x0, 0x0, 0x0, 0xFFFFFFFF, 0x0⟩,
  ⟨0x10, 8, 16, 0x0, 0xFFFF0003, 0x0, 0x0, 0x0, 0x0, 0xFFFF0003⟩,
  ⟨0x11, 8, 16, 0x0, 0xFFFFFFFFFF, 0x0, 0x0, 0x0, 0x0, 0xFFFFFFFFFF⟩,
  ⟨0x12, 8, 16, 0x0, 0xFFFFFFFFFF, 0x0, 0x0, 0x0, 0x0, 0xFFFFFFFFFF⟩,
  ⟨0x13, 8, 16, 0x0, 0xFFFFFFFFFF, 0x0, 0x0, 0x0, 0x0, 0xFFFFFFFFFF⟩,
  ⟨0x14, 8, 16, 0x0, 0xFFFFFFFFFF, 0x0, 0x0, 0x0, 0x0, 0xFFFFFFFFFF⟩,
  ⟨0x15, 8, 16, 0x0, 0xFFFFFFFF, 0x0, 0x0, 0x0, 0x0, 0xFFFFFFFF⟩,
  ⟨0x16, 8, 16, 0x0, 0xFFFFFFFFFF, 0x0, 0x0, 0x0, 0x0, 0xFFFFFFFFFF⟩,
  ⟨0x17, 8, 16, 0x0, 0xFFFFFFFFFF, 0x0, 0x0, 0x0, 0x0, 0xFFFFFFFFFF⟩,
  ⟨0x18, 8, 16, 0x0, 0x1FF, 0x0, 0x0, 0x0, 0x0, 0x1FF⟩,
  ⟨0x19, 8, 16, 0x0, 0x0, 0x0, 0x0, 0x0, 0xFFFFFFFFFF, 0x0⟩,
  ⟨0x1A, 8, 16, 0x0, 0x0, 0x0, 0x0, 0x0, 0xFFFFFFFF, 0x0⟩,
  ⟨0x1B, 8, 16, 0x0, 0x0, 0x0, 0x0, 0x0, 0x1FFFFFFFFF, 0x0⟩]

/-- Registers of the ARB page. -/
def rowsArb : List RegRow := [
  ⟨0x00, 1, 1, 0x0, 0x0, 0x0, 0x0, 0x0, 0xFFFFFF0000, 0x0⟩,
  ⟨0x01, 1, 1, 0x1, 0x1, 0x4, 0x0, 0x2, 0x0, 0x5⟩,
  ⟨0x02, 1, 1, 0x0, 0x0, 0x0, 0x0, 0x0, 0x1, 0x0⟩,
  ⟨0x03, 1, 1, 0x0, 0x0, 0x0, 0x0, 0x0, 0x1, 0x0⟩,
  ⟨0x04, 1, 1, 0x0, 0x0, 0x0, 0x1, 0x0, 0x0, 0x0⟩,
  ⟨0x05, 1, 1, 0x0, 0x1, 0x0, 0x0, 0x0, 0x0, 0x1⟩,
  ⟨0x06, 1, 1, 0x0, 0x0, 0x0, 0x0, 0x1, 0x0, 0x0⟩,
  ⟨0x07, 1, 1, 0x0, 0x0, 0x0, 0x7, 0x0, 0x0, 0x0⟩,
  ⟨0x08, 1, 1, 0x0, 0x0, 0x0, 0x0, 0x0, 0xFFFFFFFF, 0x0⟩,
  ⟨0x09, 1, 1, 0x0, 0x0, 0x0, 0x0, 0x0, 0xFFFFFFFFFF, 0x0⟩,
  ⟨0x0B, 1, 1, 0x0, 0x0, 0x0, 0x0, 0x0, 0xFFFFFFFF, 0x0⟩,
  ⟨0x10, 1, 1, 0x0, 0x0, 0x0, 0x0, 0x0, 0xFFFFFFFF, 0x0⟩,
  ⟨0x11, 1, 1, 0x0, 0x0, 0x0, 0x0, 0xFFFFFFFFFF, 0x0, 0x0⟩,
  ⟨0x12, 1, 1, 0x0, 0x0, 0x0, 0x0, 0xFFFFFF, 0x0, 0x0⟩,
  ⟨0x13, 1, 1, 0x0, 0xFFFFFFFF, 0x0, 0x0, 0x0, 0x0, 0xFFFFFFFF⟩,
  ⟨0x14, 1, 1, 0x0, 0xFFFF, 0x0, 0x0, 0x0, 0xFFFF0000, 0xFFFF⟩,
  ⟨0x40, 89, 1, 0x0, 0x0, 0x0, 0x0, 0x0, 0xFFFFFFFFFF, 0x0⟩]

/-- Registers of the TST page. -/
def rowsTst : List RegRow := [
  ⟨0x00, 1, 1, 0x0, 0x0, 0x0, 0x0, 0x0, 0xFFFFFF0000, 0x0⟩,
  ⟨0x01, 1, 1, 0x0, 0x1, 0x4, 0x0, 0x2, 0x0, 0x5⟩,
  ⟨0x02, 1, 1, 0x0, 0x0, 0x0, 0x0, 0x0, 0x3, 0x0⟩,
  ⟨0x03, 1, 1, 0x0, 0x0, 0x0, 0x0, 0x0, 0x1, 0x0⟩,
  ⟨0x04, 1, 1, 0x0, 0x0, 0x0, 0x7, 0x0, 0x0, 0x0⟩,
  ⟨0x05, 1, 1, 0x0, 0x7, 0x0, 0x0, 0x0, 0x0, 0x7⟩,
  ⟨0x06, 1, 1, 0x0, 0x0, 0x0, 0x0, 0x7, 0x0, 0x0⟩,
  ⟨0x07, 1, 1, 0x0, 0x0, 0x0, 0x3, 0x0, 0x0, 0x0⟩,
  ⟨0x08, 1, 1, 0x0, 0x0, 0x0, 0x0, 0x0, 0xFFFFFFFF, 0x0⟩,
  ⟨0x09, 1, 1, 0x0, 0x0, 0x0, 0x0, 0x0, 0xFFFFFFFFFF, 0x0⟩,
  ⟨0x0B, 1, 1, 0x0, 0x0, 0x0, 0x0, 0x0, 0xFFFFFFFF, 0x0⟩,
  ⟨0x10, 1, 1, 0x0, 0x0, 0x0, 0x0, 0xFF, 0x0, 0x0⟩,
  ⟨0x11, 1, 1, 0x0, 0xFFFF, 0x0, 0x0, 0x8000000000, 0x0, 0xFFFF⟩,
  ⟨0x12, 1, 1, 0x0, 0x0, 0x0, 0x0, 0x0, 0xFFFFFFFF00, 0x0⟩,
  ⟨0x13, 1, 1, 0x0, 0x0, 0x0, 0x0, 0x0, 0xFFFFFFFF, 0x0⟩,
  ⟨0x14, 1, 1, 0x0, 0x0, 0x0, 0x0, 0x0, 0xFFFFFFFF, 0x0⟩]

/-- The registers of a page by its kind. -/
def PageKind.rows : PageKind → List RegRow
  | .dev => rowsDev
  | .pwr => rowsPwr
  | .clk => rowsClk
  | .ang => rowsAng
  | .mch => rowsMch
  | .hpt => rowsHpt
  | .xmp => rowsXmp
  | .mem => rowsMem
  | .scb => rowsScb
  | .cku => rowsCku
  | .flt => rowsFlt
  | .sco => rowsSco
  | .txc => rowsTxc
  | .txc8 => rowsTxc8
  | .rxc => rowsRxc
  | .rxc16 => rowsRxc16
  | .fil => rowsFil
  | .kbz => rowsKbz
  | .cal => rowsCal
  | .prt => rowsPrt
  | .blz => rowsBlz
  | .inv => rowsInv
  | .cnd0 => rowsCnd0
  | .cnd => rowsCnd
  | .evt => rowsEvt
  | .evt6 => rowsEvt6
  | .arb => rowsArb
  | .tst => rowsTst

/-- The row of a page's table that holds an offset. -/
def findRow (l : List RegRow) (off : Nat) : Option RegRow :=
  l.find? fun r => decide (r.base ≤ off) && (off - r.base) % r.stride == 0 && decide ((off - r.base) / r.stride < r.count)

/-- The register row at page and offset; `none` on a reserved page or at a reserved offset (R30). -/
def regRow (page off : Nat) : Option RegRow :=
  match pageKind page with
  | none => none
  | some k => findRow k.rows off

/-- The last implemented offset of a page (R355). -/
def PageKind.lastOff : PageKind → Nat
  | .dev => 0x13
  | .pwr => 0x22
  | .clk => 0x12
  | .ang => 0x3C
  | .mch => 0x2F
  | .hpt => 0x2F
  | .xmp => 0x47
  | .mem => 0x5F
  | .scb => 0x13
  | .cku => 0x1C
  | .flt => 0x2F
  | .sco => 0x1B
  | .txc => 0x2F
  | .txc8 => 0x2F
  | .rxc => 0x1F
  | .rxc16 => 0x1F
  | .fil => 0x3F
  | .kbz => 0xFF
  | .cal => 0x1C
  | .prt => 0x2F
  | .blz => 0x27
  | .inv => 0x3F
  | .cnd0 => 0x13
  | .cnd => 0x4B
  | .evt => 0x8F
  | .evt6 => 0x8F
  | .arb => 0x98
  | .tst => 0x14

/-- Every implemented page in ascending order (R29, R413): 84 pages. -/
def pages : List Nat := (List.range 0x80).filter fun p => (pageKind p).isSome

/-- The reset value of a register (R16); the ID register of a page is its TYPE, INSTANCE and VERSION 1 (R32). -/
def resetOf (page off : Nat) : Word :=
  match pageKind page with
  | none => 0
  | some k =>
    if off = 0 then BitVec.ofNat 40 (k.type * 2 ^ 32 + (page - k.type) * 2 ^ 24 + 2 ^ 16)
    else match findRow k.rows off with
      | none => 0
      | some r => BitVec.ofNat 40 r.reset

end Sys2Proof.Machine
end

