-- ==== Sys2Proof/Machine/Fields.lean ====
section
/-! DEFINITION. The named fields of every register of the spec, one `Fld` (offset, high bit, low bit) each,
from the field tables of the block chapters (spec/01 to spec/16).  A register name alone is its whole 40 bits.
A replicated register takes its instance indices as arguments. -/

namespace Sys2Proof.Machine

/-! The common registers of every page (R32). -/
namespace COM
def ID : Fld := ⟨0x00, 39, 0⟩
def CTRL : Fld := ⟨0x01, 39, 0⟩
def LOCK : Fld := ⟨0x01, 2, 2⟩
def SOFT_RESET : Fld := ⟨0x01, 1, 1⟩
def ENABLE : Fld := ⟨0x01, 0, 0⟩
def STATUS : Fld := ⟨0x02, 39, 0⟩
def BUSY : Fld := ⟨0x02, 0, 0⟩
def READY : Fld := ⟨0x03, 39, 0⟩
def FLAG : Fld := ⟨0x04, 39, 0⟩
def FLAG_EN : Fld := ⟨0x05, 39, 0⟩
def FLAG_SET : Fld := ⟨0x06, 39, 0⟩
def FAULT : Fld := ⟨0x07, 39, 0⟩
def FAULT_CFG : Fld := ⟨0x07, 0, 0⟩
def ERR_COUNT : Fld := ⟨0x08, 31, 0⟩
def LAST_ERR : Fld := ⟨0x09, 39, 0⟩
def LAST_ERR_CODE : Fld := ⟨0x09, 39, 32⟩
def LAST_ERR_SEQ : Fld := ⟨0x09, 31, 0⟩
def CFG_CRC : Fld := ⟨0x0B, 31, 0⟩
end COM

/-! Fields of the ANG page. -/
namespace ANG
def NOW : Fld := ⟨0x10, 39, 0⟩
def NOW_CYCLE : Fld := ⟨0x10, 39, 32⟩
def NOW_PHASE : Fld := ⟨0x10, 31, 0⟩
def CFG : Fld := ⟨0x11, 39, 0⟩
def CFG_BW : Fld := ⟨0x11, 26, 24⟩
def CFG_DEGLITCH : Fld := ⟨0x11, 23, 16⟩
def CFG_MISS_LIMIT : Fld := ⟨0x11, 15, 12⟩
def CFG_ACQ_EDGES : Fld := ⟨0x11, 11, 8⟩
def CFG_EDGE_POL : Fld := ⟨0x11, 2, 2⟩
def CFG_SRC : Fld := ⟨0x11, 1, 0⟩
def WINDOW : Fld := ⟨0x12, 39, 0⟩
def WINDOW_HOLD_WINDOW : Fld := ⟨0x12, 31, 16⟩
def WINDOW_WINDOW : Fld := ⟨0x12, 15, 0⟩
def VPERIOD : Fld := ⟨0x13, 39, 0⟩
def VPERIOD_PERIOD : Fld := ⟨0x13, 22, 0⟩
def OFFSET : Fld := ⟨0x14, 39, 0⟩
def OFFSET_EDGE_OFFSET : Fld := ⟨0x14, 15, 0⟩
def SLEW : Fld := ⟨0x15, 39, 0⟩
def SLEW_SLEW_MAX : Fld := ⟨0x15, 15, 0⟩
def RATE : Fld := ⟨0x16, 39, 0⟩
def RATE_RATE : Fld := ⟨0x16, 39, 0⟩
def PERIOD : Fld := ⟨0x17, 39, 0⟩
def PERIOD_CCLKS : Fld := ⟨0x17, 31, 8⟩
def PERIOD_FRAC : Fld := ⟨0x17, 7, 0⟩
def EDGE : Fld := ⟨0x18, 39, 0⟩
def EDGE_CYCLE : Fld := ⟨0x18, 39, 32⟩
def EDGE_ERROR : Fld := ⟨0x18, 31, 0⟩
def COUNT : Fld := ⟨0x19, 39, 0⟩
def COUNT_REJECTED : Fld := ⟨0x19, 31, 16⟩
def COUNT_MISSED : Fld := ⟨0x19, 15, 0⟩
def HOLD : Fld := ⟨0x1A, 39, 0⟩
def HOLD_CYCLES : Fld := ⟨0x1A, 23, 0⟩
def PRESET : Fld := ⟨0x1B, 39, 0⟩
def PRESET_ANGLE : Fld := ⟨0x1B, 39, 0⟩
def SYNC_OUT : Fld := ⟨0x1C, 39, 0⟩
def SYNC_OUT_ANGLE : Fld := ⟨0x1C, 31, 16⟩
def SYNC_OUT_WIDTH : Fld := ⟨0x1C, 15, 8⟩
def SYNC_OUT_EN : Fld := ⟨0x1C, 0, 0⟩
def ALARM_TARGET (n : Nat) : Fld := ⟨0x20 + 2 * n, 39, 0⟩
def ALARM_TARGET_TARGET (n : Nat) : Fld := ⟨0x20 + 2 * n, 39, 0⟩
def ALARM_CTRL (n : Nat) : Fld := ⟨0x21 + 2 * n, 39, 0⟩
def ALARM_CTRL_WAKE (n : Nat) : Fld := ⟨0x21 + 2 * n, 2, 2⟩
def ALARM_CTRL_PERIODIC (n : Nat) : Fld := ⟨0x21 + 2 * n, 1, 1⟩
def ALARM_CTRL_ARM (n : Nat) : Fld := ⟨0x21 + 2 * n, 0, 0⟩
def WAIT (c : Nat) : Fld := ⟨0x30 + c, 39, 0⟩
def WAIT_TARGET (c : Nat) : Fld := ⟨0x30 + c, 39, 0⟩
def WAIT_ACTIVE : Fld := ⟨0x3C, 39, 0⟩
def WAIT_ACTIVE_ACTIVE : Fld := ⟨0x3C, 11, 0⟩
def STATUS_LOWRES : Fld := ⟨0x02, 5, 5⟩
def STATUS_CHAIN_HOLD : Fld := ⟨0x02, 4, 4⟩
def STATUS_REACQ : Fld := ⟨0x02, 3, 3⟩
def STATUS_HOLDOVER : Fld := ⟨0x02, 2, 2⟩
def STATUS_LOCKED : Fld := ⟨0x02, 1, 1⟩
def STATUS_BUSY : Fld := ⟨0x02, 0, 0⟩
def READY_READY : Fld := ⟨0x03, 0, 0⟩
def FLAG_ALARM : Fld := ⟨0x04, 15, 8⟩
def FLAG_LATE : Fld := ⟨0x04, 4, 4⟩
def FLAG_RANGE : Fld := ⟨0x04, 3, 3⟩
def FLAG_REJECT : Fld := ⟨0x04, 2, 2⟩
def FLAG_HOLDOVER : Fld := ⟨0x04, 1, 1⟩
def FLAG_LOCK : Fld := ⟨0x04, 0, 0⟩
def FAULT_DUP : Fld := ⟨0x07, 1, 1⟩
def FAULT_CFG : Fld := ⟨0x07, 0, 0⟩
end ANG

/-! Fields of the MCH page. -/
namespace MCH
def CFG : Fld := ⟨0x10, 39, 0⟩
def CFG_LEAD : Fld := ⟨0x10, 23, 8⟩
def CFG_ANGLE_TOL : Fld := ⟨0x10, 7, 4⟩
def CFG_REPORT_EN : Fld := ⟨0x10, 2, 2⟩
def CFG_RESEND_EN : Fld := ⟨0x10, 1, 1⟩
def POSITION : Fld := ⟨0x11, 39, 0⟩
def POSITION_COUNT : Fld := ⟨0x11, 13, 8⟩
def POSITION_POSITION : Fld := ⟨0x11, 5, 0⟩
def RANGE : Fld := ⟨0x12, 39, 0⟩
def RANGE_OFFSET : Fld := ⟨0x12, 31, 0⟩
def HOP : Fld := ⟨0x13, 39, 0⟩
def HOP_ECHOES : Fld := ⟨0x13, 39, 32⟩
def HOP_HOP : Fld := ⟨0x13, 23, 0⟩
def RING : Fld := ⟨0x14, 39, 0⟩
def RING_DELAY : Fld := ⟨0x14, 15, 0⟩
def CMD : Fld := ⟨0x15, 39, 0⟩
def CMD_RANGE : Fld := ⟨0x15, 1, 1⟩
def CMD_DISCOVER : Fld := ⟨0x15, 0, 0⟩
def CPHASE : Fld := ⟨0x16, 39, 0⟩
def CPHASE_TRIM : Fld := ⟨0x16, 9, 0⟩
def REPORT : Fld := ⟨0x17, 39, 0⟩
def REPORT_HOLD_LIMIT : Fld := ⟨0x17, 31, 16⟩
def POST_ANGLE : Fld := ⟨0x18, 39, 0⟩
def POST_ANGLE_ANGLE : Fld := ⟨0x18, 39, 0⟩
def POST_TOKEN : Fld := ⟨0x19, 39, 0⟩
def POST_TOKEN_TOKEN : Fld := ⟨0x19, 7, 0⟩
def COUNT1 : Fld := ⟨0x1A, 39, 0⟩
def COUNT1_RESENT : Fld := ⟨0x1A, 31, 16⟩
def COUNT1_CRC_ERR : Fld := ⟨0x1A, 15, 0⟩
def COUNT2 : Fld := ⟨0x1B, 39, 0⟩
def COUNT2_LATE : Fld := ⟨0x1B, 31, 16⟩
def COUNT2_DUP_DISCARD : Fld := ⟨0x1B, 15, 0⟩
def LSLOT_CFG (s : Nat) : Fld := ⟨0x20 + 2 * s, 39, 0⟩
def LSLOT_CFG_EN (s : Nat) : Fld := ⟨0x20 + 2 * s, 8, 8⟩
def LSLOT_CFG_TOKEN (s : Nat) : Fld := ⟨0x20 + 2 * s, 7, 0⟩
def LSLOT_ANGLE (s : Nat) : Fld := ⟨0x21 + 2 * s, 39, 0⟩
def LSLOT_ANGLE_ANGLE (s : Nat) : Fld := ⟨0x21 + 2 * s, 39, 0⟩
def STATUS_RANGING : Fld := ⟨0x02, 7, 7⟩
def STATUS_REALIGN : Fld := ⟨0x02, 6, 6⟩
def STATUS_TOKEN_HELD : Fld := ⟨0x02, 5, 5⟩
def STATUS_RING_OK : Fld := ⟨0x02, 4, 4⟩
def STATUS_ANGLE_OK : Fld := ⟨0x02, 3, 3⟩
def STATUS_RANGED : Fld := ⟨0x02, 2, 2⟩
def STATUS_HEAD : Fld := ⟨0x02, 1, 1⟩
def READY_READY : Fld := ⟨0x03, 0, 0⟩
def FLAG_LSLOT : Fld := ⟨0x04, 15, 8⟩
def FLAG_DUP_TOKEN : Fld := ⟨0x04, 7, 7⟩
def FLAG_RANGE_FAIL : Fld := ⟨0x04, 6, 6⟩
def FLAG_LOST : Fld := ⟨0x04, 5, 5⟩
def FLAG_LATE : Fld := ⟨0x04, 4, 4⟩
def FLAG_CRC : Fld := ⟨0x04, 3, 3⟩
def FLAG_RING_OPEN : Fld := ⟨0x04, 2, 2⟩
def FLAG_REPLACED : Fld := ⟨0x04, 1, 1⟩
def FLAG_ANGLE_DIFF : Fld := ⟨0x04, 0, 0⟩
def FAULT_DUP_NUMBER : Fld := ⟨0x07, 3, 3⟩
def FAULT_ANGLE_LOST : Fld := ⟨0x07, 2, 2⟩
def FAULT_MCLK_LOSS : Fld := ⟨0x07, 1, 1⟩
def FAULT_CFG : Fld := ⟨0x07, 0, 0⟩
end MCH

/-! Fields of the FIL page. -/
namespace FIL
def TUNE (r : Nat) : Fld := ⟨0x10 + r, 39, 0⟩
def TUNE_PARK (r : Nat) : Fld := ⟨0x10 + r, 15, 8⟩
def TUNE_CAP (r : Nat) : Fld := ⟨0x10 + r, 7, 0⟩
def PORT (r : Nat) : Fld := ⟨0x18 + r, 39, 0⟩
def PORT_FITTED (r : Nat) : Fld := ⟨0x18 + r, 11, 11⟩
def PORT_COLOUR (r : Nat) : Fld := ⟨0x18 + r, 9, 9⟩
def PORT_PHASE (r : Nat) : Fld := ⟨0x18 + r, 8, 0⟩
def ADJ (r : Nat) (m : Nat) : Fld := ⟨0x20 + 4 * r + m, 39, 0⟩
def ADJ_ODD (r : Nat) (m : Nat) : Fld := ⟨0x20 + 4 * r + m, 38, 20⟩
def ADJ_EVEN (r : Nat) (m : Nat) : Fld := ⟨0x20 + 4 * r + m, 18, 0⟩
def STATUS_RESERVE : Fld := ⟨0x02, 11, 11⟩
def STATUS_RANK : Fld := ⟨0x02, 10, 8⟩
def STATUS_DRIVEN : Fld := ⟨0x02, 7, 7⟩
def STATUS_BUSY : Fld := ⟨0x02, 0, 0⟩
def FLAG_ADJ : Fld := ⟨0x04, 15, 8⟩
def FLAG_TUNED : Fld := ⟨0x04, 7, 0⟩
def FAULT_PATH : Fld := ⟨0x07, 23, 16⟩
def FAULT_SWITCH : Fld := ⟨0x07, 15, 8⟩
def FAULT_CFG : Fld := ⟨0x07, 0, 0⟩
end FIL

/-! Fields of the TXC page. -/
namespace TXC
def CFG : Fld := ⟨0x10, 39, 0⟩
def CFG_ASSIGN : Fld := ⟨0x10, 12, 9⟩
def CFG_AUTO : Fld := ⟨0x10, 8, 8⟩
def CFG_SERVE : Fld := ⟨0x10, 7, 4⟩
def POWER : Fld := ⟨0x11, 39, 0⟩
def POWER_RLOAD : Fld := ⟨0x11, 23, 16⟩
def POWER_LEVEL : Fld := ⟨0x11, 8, 0⟩
def RAMP : Fld := ⟨0x12, 39, 0⟩
def RAMP_USER_TABLE : Fld := ⟨0x12, 32, 32⟩
def RAMP_DOWN_DWELL : Fld := ⟨0x12, 31, 24⟩
def RAMP_DOWN_STEPS : Fld := ⟨0x12, 23, 16⟩
def RAMP_UP_DWELL : Fld := ⟨0x12, 15, 8⟩
def RAMP_UP_STEPS : Fld := ⟨0x12, 7, 0⟩
def ASK : Fld := ⟨0x13, 39, 0⟩
def ASK_DEPTH_PART : Fld := ⟨0x13, 25, 16⟩
def ASK_DEPTH_FULL : Fld := ⟨0x13, 9, 0⟩
def SETTLE : Fld := ⟨0x14, 39, 0⟩
def SETTLE_CYCLES : Fld := ⟨0x14, 19, 0⟩
def MON : Fld := ⟨0x15, 39, 0⟩
def MON_GAMMA2 : Fld := ⟨0x15, 39, 32⟩
def MON_FWD : Fld := ⟨0x15, 31, 16⟩
def MON_REFL : Fld := ⟨0x15, 15, 0⟩
def MON_LIMIT : Fld := ⟨0x16, 39, 0⟩
def MON_LIMIT_REFL_ACT : Fld := ⟨0x16, 12, 12⟩
def MON_LIMIT_FWD_TOL : Fld := ⟨0x16, 11, 8⟩
def MON_LIMIT_REFL_MAX : Fld := ⟨0x16, 7, 0⟩
def ADJ_CFG : Fld := ⟨0x17, 39, 0⟩
def ADJ_CFG_PHASE_TOL : Fld := ⟨0x17, 13, 8⟩
def ADJ_CFG_ISOLATION : Fld := ⟨0x17, 5, 0⟩
def ATUNE : Fld := ⟨0x18, 39, 0⟩
def ATUNE_ACCEPT : Fld := ⟨0x18, 27, 20⟩
def ATUNE_START : Fld := ⟨0x18, 18, 18⟩
def ATUNE_WRITE : Fld := ⟨0x18, 17, 17⟩
def ATUNE_LEVEL : Fld := ⟨0x18, 16, 8⟩
def ATUNE_PORT : Fld := ⟨0x18, 7, 0⟩
def ATUNE_RESULT : Fld := ⟨0x19, 39, 0⟩
def ATUNE_RESULT_STATUS : Fld := ⟨0x19, 19, 16⟩
def ATUNE_RESULT_GAMMA2 : Fld := ⟨0x19, 15, 8⟩
def ATUNE_RESULT_CAP : Fld := ⟨0x19, 7, 0⟩
def RAIL : Fld := ⟨0x1A, 39, 0⟩
def RAIL_VNEED : Fld := ⟨0x1A, 9, 0⟩
def TRIM : Fld := ⟨0x1B, 39, 0⟩
def TRIM_PHASE : Fld := ⟨0x1B, 9, 0⟩
def RAMP_TBL (k : Nat) : Fld := ⟨0x20 + k, 39, 0⟩
def RAMP_TBL_E3 (k : Nat) : Fld := ⟨0x20 + k, 39, 30⟩
def RAMP_TBL_E2 (k : Nat) : Fld := ⟨0x20 + k, 29, 20⟩
def RAMP_TBL_E1 (k : Nat) : Fld := ⟨0x20 + k, 19, 10⟩
def RAMP_TBL_E0 (k : Nat) : Fld := ⟨0x20 + k, 9, 0⟩
def STATUS_FIELDS_ON : Fld := ⟨0x02, 19, 16⟩
def STATUS_PORT : Fld := ⟨0x02, 15, 8⟩
def STATUS_FIELD : Fld := ⟨0x02, 7, 5⟩
def STATUS_MODULATING : Fld := ⟨0x02, 4, 4⟩
def STATUS_REPLACED : Fld := ⟨0x02, 3, 3⟩
def STATUS_SERVING : Fld := ⟨0x02, 2, 2⟩
def STATUS_RAIL_WAIT : Fld := ⟨0x02, 1, 1⟩
def STATUS_BUSY : Fld := ⟨0x02, 0, 0⟩
def READY_RAIL : Fld := ⟨0x03, 2, 2⟩
def READY_LOCK : Fld := ⟨0x03, 1, 1⟩
def READY_READY : Fld := ⟨0x03, 0, 0⟩
def FLAG_TAKEOVER : Fld := ⟨0x04, 10, 10⟩
def FLAG_POWER_LIMIT : Fld := ⟨0x04, 9, 9⟩
def FLAG_ADJ_LEGACY : Fld := ⟨0x04, 8, 8⟩
def FLAG_ASK_CONFLICT : Fld := ⟨0x04, 7, 7⟩
def FLAG_ADJ_PHASE : Fld := ⟨0x04, 6, 6⟩
def FLAG_ADJ_COLOUR : Fld := ⟨0x04, 5, 5⟩
def FLAG_REFLECTED : Fld := ⟨0x04, 4, 4⟩
def FLAG_LATE : Fld := ⟨0x04, 3, 3⟩
def FLAG_TUNE_DONE : Fld := ⟨0x04, 2, 2⟩
def FLAG_FIELD_OFF : Fld := ⟨0x04, 1, 1⟩
def FLAG_FIELD_ON : Fld := ⟨0x04, 0, 0⟩
def FAULT_CTRL : Fld := ⟨0x07, 3, 3⟩
def FAULT_OC : Fld := ⟨0x07, 2, 2⟩
def FAULT_FWD : Fld := ⟨0x07, 1, 1⟩
def FAULT_CFG : Fld := ⟨0x07, 0, 0⟩
end TXC

/-! Fields of the RXC page. -/
namespace RXC
def CFG : Fld := ⟨0x10, 39, 0⟩
def CFG_ASSIGN : Fld := ⟨0x10, 13, 9⟩
def CFG_AUTO : Fld := ⟨0x10, 8, 8⟩
def CFG_SERVE : Fld := ⟨0x10, 7, 3⟩
def CFG_PAIR_FALLBACK : Fld := ⟨0x10, 1, 1⟩
def TAP : Fld := ⟨0x11, 39, 0⟩
def TAP_INIT_ON_TAP : Fld := ⟨0x11, 9, 9⟩
def TAP_MODE : Fld := ⟨0x11, 8, 8⟩
def TAP_PORT : Fld := ⟨0x11, 7, 0⟩
def GAIN : Fld := ⟨0x12, 39, 0⟩
def GAIN_FORCE : Fld := ⟨0x12, 24, 24⟩
def GAIN_INIT : Fld := ⟨0x12, 22, 16⟩
def GAIN_LEGACY : Fld := ⟨0x12, 14, 8⟩
def GAIN_UPPER : Fld := ⟨0x12, 4, 0⟩
def AGC : Fld := ⟨0x13, 39, 0⟩
def AGC_TARGET : Fld := ⟨0x13, 20, 16⟩
def AGC_START : Fld := ⟨0x13, 14, 8⟩
def AGC_FROZEN : Fld := ⟨0x13, 6, 0⟩
def DET : Fld := ⟨0x14, 39, 0⟩
def DET_CLASS : Fld := ⟨0x14, 39, 36⟩
def DET_XC_THR : Fld := ⟨0x14, 31, 24⟩
def DET_THR : Fld := ⟨0x14, 23, 16⟩
def DET_BACKOFF : Fld := ⟨0x14, 15, 12⟩
def DET_HOLD : Fld := ⟨0x14, 11, 8⟩
def DET_SNR : Fld := ⟨0x14, 4, 0⟩
def CAPTURE : Fld := ⟨0x15, 39, 0⟩
def CAPTURE_WATCH_EN : Fld := ⟨0x15, 9, 9⟩
def CAPTURE_MODE : Fld := ⟨0x15, 8, 8⟩
def CAPTURE_MARGIN : Fld := ⟨0x15, 4, 0⟩
def COLL : Fld := ⟨0x16, 39, 0⟩
def COLL_MIN_SNR : Fld := ⟨0x16, 12, 8⟩
def COLL_COLL_DB : Fld := ⟨0x16, 4, 0⟩
def LEVEL : Fld := ⟨0x17, 39, 0⟩
def LEVEL_NOISE : Fld := ⟨0x17, 31, 24⟩
def LEVEL_FRAME : Fld := ⟨0x17, 23, 16⟩
def LEVEL_GAIN : Fld := ⟨0x17, 6, 0⟩
def LEAK : Fld := ⟨0x18, 39, 0⟩
def LEAK_LEAK_I : Fld := ⟨0x18, 39, 20⟩
def LEAK_LEAK_Q : Fld := ⟨0x18, 19, 0⟩
def TRIM : Fld := ⟨0x19, 39, 0⟩
def TRIM_PHASE : Fld := ⟨0x19, 9, 0⟩
def CHECK : Fld := ⟨0x1A, 39, 0⟩
def CHECK_PHASE : Fld := ⟨0x1A, 15, 8⟩
def CHECK_AMP : Fld := ⟨0x1A, 7, 0⟩
def CAP_ADDR : Fld := ⟨0x1B, 39, 0⟩
def CAP_ADDR_START : Fld := ⟨0x1B, 20, 0⟩
def CAP_CFG : Fld := ⟨0x1C, 39, 0⟩
def CAP_CFG_START : Fld := ⟨0x1C, 39, 39⟩
def CAP_CFG_STOP : Fld := ⟨0x1C, 38, 38⟩
def CAP_CFG_RING : Fld := ⟨0x1C, 37, 37⟩
def CAP_CFG_TRIG : Fld := ⟨0x1C, 36, 34⟩
def CAP_CFG_PRE : Fld := ⟨0x1C, 33, 21⟩
def CAP_CFG_LEN : Fld := ⟨0x1C, 20, 0⟩
def CAP_STAT : Fld := ⟨0x1D, 39, 0⟩
def CAP_STAT_STATE : Fld := ⟨0x1D, 39, 37⟩
def CAP_STAT_WRAPPED : Fld := ⟨0x1D, 21, 21⟩
def CAP_STAT_NEXT : Fld := ⟨0x1D, 20, 0⟩
def CAP_TRIG : Fld := ⟨0x1E, 39, 0⟩
def CAP_TRIG_ADDR : Fld := ⟨0x1E, 20, 0⟩
def COUNT : Fld := ⟨0x1F, 39, 0⟩
def COUNT_FALSE_DET : Fld := ⟨0x1F, 31, 16⟩
def COUNT_CAPTURED : Fld := ⟨0x1F, 15, 0⟩
def STATUS_GAIN : Fld := ⟨0x02, 26, 20⟩
def STATUS_TAP : Fld := ⟨0x02, 19, 12⟩
def STATUS_STATE : Fld := ⟨0x02, 11, 9⟩
def STATUS_CAPTURING : Fld := ⟨0x02, 8, 8⟩
def STATUS_REPLACED : Fld := ⟨0x02, 3, 3⟩
def STATUS_SERVING : Fld := ⟨0x02, 2, 2⟩
def STATUS_BUSY : Fld := ⟨0x02, 0, 0⟩
def READY_LEAK : Fld := ⟨0x03, 1, 1⟩
def READY_READY : Fld := ⟨0x03, 0, 0⟩
def FLAG_TAKEOVER : Fld := ⟨0x04, 11, 11⟩
def FLAG_LEAK_HIGH : Fld := ⟨0x04, 10, 10⟩
def FLAG_CAP_OVERRUN : Fld := ⟨0x04, 9, 9⟩
def FLAG_CAP_DONE : Fld := ⟨0x04, 8, 8⟩
def FLAG_COLLISION : Fld := ⟨0x04, 7, 7⟩
def FLAG_CAPTURED : Fld := ⟨0x04, 6, 6⟩
def FLAG_OVERLAP : Fld := ⟨0x04, 5, 5⟩
def FLAG_CLIPPED : Fld := ⟨0x04, 4, 4⟩
def FLAG_FALSE_DET : Fld := ⟨0x04, 3, 3⟩
def FLAG_GAIN_STEP : Fld := ⟨0x04, 2, 2⟩
def FLAG_FRAME_END : Fld := ⟨0x04, 1, 1⟩
def FLAG_DETECT : Fld := ⟨0x04, 0, 0⟩
def FAULT_CTRL : Fld := ⟨0x07, 3, 3⟩
def FAULT_CHECK : Fld := ⟨0x07, 2, 2⟩
def FAULT_TAP : Fld := ⟨0x07, 1, 1⟩
def FAULT_CFG : Fld := ⟨0x07, 0, 0⟩
end RXC

/-! Fields of the PRT page. -/
namespace PRT
def ENGINE : Fld := ⟨0x10, 39, 0⟩
def ENGINE_MAX_TAGS : Fld := ⟨0x10, 23, 16⟩
def ENGINE_SILENT_REQS : Fld := ⟨0x10, 11, 8⟩
def ENGINE_BRANCH_RESUME : Fld := ⟨0x10, 0, 0⟩
def A_TIME : Fld := ⟨0x11, 39, 0⟩
def A_TIME_MIN_FDT : Fld := ⟨0x11, 31, 16⟩
def A_TIME_PCD_GAP : Fld := ⟨0x11, 15, 0⟩
def A_CFG : Fld := ⟨0x12, 39, 0⟩
def A_CFG_REQ_GUARD : Fld := ⟨0x12, 31, 16⟩
def A_CFG_FDT_TOL : Fld := ⟨0x12, 15, 8⟩
def A_CFG_PAUSE : Fld := ⟨0x12, 5, 0⟩
def B_CFG : Fld := ⟨0x13, 39, 0⟩
def B_CFG_SLOT_EXP : Fld := ⟨0x13, 34, 32⟩
def B_CFG_AFI : Fld := ⟨0x13, 31, 24⟩
def B_CFG_PCD_GAP : Fld := ⟨0x13, 20, 16⟩
def B_CFG_SOF_LOW : Fld := ⟨0x13, 15, 12⟩
def B_CFG_SOF_HIGH : Fld := ⟨0x13, 11, 10⟩
def B_CFG_EOF_LOW : Fld := ⟨0x13, 7, 4⟩
def B_CFG_EGT : Fld := ⟨0x13, 2, 0⟩
def B_TIME : Fld := ⟨0x14, 39, 0⟩
def B_TIME_ATQB_WAIT : Fld := ⟨0x14, 31, 16⟩
def B_TIME_TR0_MIN : Fld := ⟨0x14, 15, 0⟩
def B_ATTRIB : Fld := ⟨0x15, 39, 0⟩
def B_ATTRIB_PARAM1 : Fld := ⟨0x15, 31, 24⟩
def B_ATTRIB_PARAM2 : Fld := ⟨0x15, 23, 16⟩
def B_ATTRIB_PARAM3 : Fld := ⟨0x15, 15, 8⟩
def B_ATTRIB_PARAM4 : Fld := ⟨0x15, 7, 0⟩
def V_CFG : Fld := ⟨0x16, 39, 0⟩
def V_CFG_T3 : Fld := ⟨0x16, 31, 16⟩
def V_CFG_AFI : Fld := ⟨0x16, 15, 8⟩
def V_CFG_AFI_EN : Fld := ⟨0x16, 7, 7⟩
def V_CFG_ONE_SLOT : Fld := ⟨0x16, 6, 6⟩
def V_CFG_RATE_HIGH : Fld := ⟨0x16, 4, 4⟩
def V_CFG_SUBC_DUAL : Fld := ⟨0x16, 3, 3⟩
def V_CFG_ASK100 : Fld := ⟨0x16, 2, 2⟩
def V_CFG_CODING_256 : Fld := ⟨0x16, 0, 0⟩
def V_TIME : Fld := ⟨0x17, 39, 0⟩
def V_TIME_T1 : Fld := ⟨0x17, 31, 16⟩
def V_TIME_T2 : Fld := ⟨0x17, 15, 0⟩
def P4 (w : Nat) : Fld := ⟨0x18 + w, 39, 0⟩
def P4_NAD (w : Nat) : Fld := ⟨0x18 + w, 23, 16⟩
def P4_CID (w : Nat) : Fld := ⟨0x18 + w, 11, 8⟩
def P4_FWI (w : Nat) : Fld := ⟨0x18 + w, 7, 4⟩
def P4_NAD_EN (w : Nat) : Fld := ⟨0x18 + w, 2, 2⟩
def P4_CID_EN (w : Nat) : Fld := ⟨0x18 + w, 1, 1⟩
def P4_BLOCK (w : Nat) : Fld := ⟨0x18 + w, 0, 0⟩
def ENG_STAT (w : Nat) : Fld := ⟨0x20 + w, 39, 0⟩
def ENG_STAT_FSTATUS (w : Nat) : Fld := ⟨0x20 + w, 39, 32⟩
def ENG_STAT_MARK (w : Nat) : Fld := ⟨0x20 + w, 31, 29⟩
def ENG_STAT_TAGS (w : Nat) : Fld := ⟨0x20 + w, 23, 16⟩
def ENG_STAT_WTXM (w : Nat) : Fld := ⟨0x20 + w, 13, 8⟩
def ENG_STAT_PROTO (w : Nat) : Fld := ⟨0x20 + w, 7, 4⟩
def ENG_STAT_RATE (w : Nat) : Fld := ⟨0x20 + w, 3, 2⟩
def ENG_STAT_BUSY (w : Nat) : Fld := ⟨0x20 + w, 0, 0⟩
def ENG_TIME (w : Nat) : Fld := ⟨0x28 + w, 39, 0⟩
def ENG_TIME_RESP_TIME (w : Nat) : Fld := ⟨0x28 + w, 23, 0⟩
def STATUS_ENG_BUSY : Fld := ⟨0x02, 23, 16⟩
def STATUS_OOS : Fld := ⟨0x02, 15, 8⟩
def STATUS_BUSY : Fld := ⟨0x02, 0, 0⟩
def READY_READY : Fld := ⟨0x03, 0, 0⟩
def FLAG_STACK_DROP : Fld := ⟨0x04, 7, 7⟩
def FLAG_HALT_FAIL : Fld := ⟨0x04, 6, 6⟩
def FLAG_MAX_TAGS : Fld := ⟨0x04, 5, 5⟩
def FLAG_WTX : Fld := ⟨0x04, 4, 4⟩
def FLAG_TIMING : Fld := ⟨0x04, 3, 3⟩
def FLAG_COLLISION : Fld := ⟨0x04, 2, 2⟩
def FLAG_BAD_MOVE : Fld := ⟨0x04, 1, 1⟩
def FLAG_ANTICOLL_END : Fld := ⟨0x04, 0, 0⟩
def FAULT_ENG : Fld := ⟨0x07, 15, 8⟩
def FAULT_CFG : Fld := ⟨0x07, 0, 0⟩
end PRT

/-! Fields of the BLZ page. -/
namespace BLZ
def CFG : Fld := ⟨0x10, 39, 0⟩
def CFG_SOUND_SYMS : Fld := ⟨0x10, 21, 16⟩
def CFG_NOISE_WIN : Fld := ⟨0x10, 15, 8⟩
def CFG_LQ_START : Fld := ⟨0x10, 4, 4⟩
def CFG_READER_RATE : Fld := ⟨0x10, 1, 0⟩
def TIME : Fld := ⟨0x11, 39, 0⟩
def TIME_WAIT : Fld := ⟨0x11, 39, 24⟩
def TIME_RESP : Fld := ⟨0x11, 23, 8⟩
def TIME_TOL : Fld := ⟨0x11, 7, 0⟩
def THR : Fld := ⟨0x12, 39, 0⟩
def THR_T4 : Fld := ⟨0x12, 31, 24⟩
def THR_T3 : Fld := ⟨0x12, 23, 16⟩
def THR_T2 : Fld := ⟨0x12, 15, 8⟩
def THR_T1 : Fld := ⟨0x12, 7, 0⟩
def BOOKCFG : Fld := ⟨0x13, 39, 0⟩
def BOOKCFG_DEGRADE : Fld := ⟨0x13, 23, 16⟩
def BOOKCFG_MARGIN : Fld := ⟨0x13, 15, 8⟩
def BOOKCFG_MAX_CODE : Fld := ⟨0x13, 2, 0⟩
def BOOK_BASE : Fld := ⟨0x14, 39, 0⟩
def BOOK_BASE_ADDR : Fld := ⟨0x14, 39, 0⟩
def MEAS_BASE : Fld := ⟨0x15, 39, 0⟩
def MEAS_BASE_ADDR : Fld := ⟨0x15, 39, 0⟩
def COUNT : Fld := ⟨0x16, 39, 0⟩
def COUNT_HDR_ERR : Fld := ⟨0x16, 31, 16⟩
def COUNT_CRC_ERR : Fld := ⟨0x16, 15, 0⟩
def SEQ (w : Nat) : Fld := ⟨0x18 + w, 39, 0⟩
def SEQ_SEQ (w : Nat) : Fld := ⟨0x18 + w, 15, 0⟩
def LQ (w : Nat) : Fld := ⟨0x20 + w, 39, 0⟩
def LQ_SNR (w : Nat) : Fld := ⟨0x20 + w, 39, 30⟩
def LQ_WORST_SNR (w : Nat) : Fld := ⟨0x20 + w, 29, 20⟩
def LQ_WORST_TONE (w : Nat) : Fld := ⟨0x20 + w, 19, 15⟩
def LQ_GAIN (w : Nat) : Fld := ⟨0x20 + w, 14, 8⟩
def LQ_BOOK_ID (w : Nat) : Fld := ⟨0x20 + w, 7, 4⟩
def STATUS_OOS : Fld := ⟨0x02, 23, 16⟩
def STATUS_LANE_BUSY : Fld := ⟨0x02, 15, 8⟩
def STATUS_BUSY : Fld := ⟨0x02, 0, 0⟩
def READY_READY : Fld := ⟨0x03, 0, 0⟩
def FLAG_BAD_MOVE : Fld := ⟨0x04, 9, 9⟩
def FLAG_POISON : Fld := ⟨0x04, 8, 8⟩
def FLAG_GAMBIT_FAIL : Fld := ⟨0x04, 7, 7⟩
def FLAG_BOOK_FAIL : Fld := ⟨0x04, 6, 6⟩
def FLAG_BOOK_DONE : Fld := ⟨0x04, 5, 5⟩
def FLAG_REBOOK : Fld := ⟨0x04, 4, 4⟩
def FLAG_NO_BOOK : Fld := ⟨0x04, 3, 3⟩
def FLAG_CRC : Fld := ⟨0x04, 2, 2⟩
def FLAG_HDR_ERR : Fld := ⟨0x04, 1, 1⟩
def FLAG_FRAME_END : Fld := ⟨0x04, 0, 0⟩
def FAULT_LANE : Fld := ⟨0x07, 15, 8⟩
def FAULT_CFG : Fld := ⟨0x07, 0, 0⟩
end BLZ

/-! Fields of the INV page. -/
namespace INV
def CFG : Fld := ⟨0x10, 39, 0⟩
def CFG_MISS_LIMIT : Fld := ⟨0x10, 19, 16⟩
def CFG_PER_PORT : Fld := ⟨0x10, 13, 12⟩
def CFG_AUTO_DISC : Fld := ⟨0x10, 8, 8⟩
def CFG_KBZ_DISC : Fld := ⟨0x10, 4, 4⟩
def CFG_SEAL_AUTO : Fld := ⟨0x10, 0, 0⟩
def LEDGER_BASE : Fld := ⟨0x11, 39, 0⟩
def LEDGER_BASE_ADDR : Fld := ⟨0x11, 39, 0⟩
def PLAN_BASE : Fld := ⟨0x12, 39, 0⟩
def PLAN_BASE_ADDR : Fld := ⟨0x12, 39, 0⟩
def RING_BASE : Fld := ⟨0x13, 39, 0⟩
def RING_BASE_ADDR : Fld := ⟨0x13, 39, 0⟩
def SCRATCH_BASE : Fld := ⟨0x14, 39, 0⟩
def SCRATCH_BASE_ADDR : Fld := ⟨0x14, 39, 0⟩
def SCHED : Fld := ⟨0x15, 39, 0⟩
def SCHED_REPEAT : Fld := ⟨0x15, 24, 24⟩
def SCHED_ROUNDS : Fld := ⟨0x15, 23, 16⟩
def SCHED_SPAN : Fld := ⟨0x15, 15, 12⟩
def SCHED_NSLOTS : Fld := ⟨0x15, 11, 8⟩
def SCHED_LSLOT : Fld := ⟨0x15, 6, 4⟩
def SCHED_MODE : Fld := ⟨0x15, 1, 0⟩
def START_ANGLE : Fld := ⟨0x16, 39, 0⟩
def START_ANGLE_ANGLE : Fld := ⟨0x16, 39, 0⟩
def CMD : Fld := ⟨0x17, 39, 0⟩
def CMD_STOP : Fld := ⟨0x17, 2, 2⟩
def CMD_DISCOVER : Fld := ⟨0x17, 1, 1⟩
def CMD_START : Fld := ⟨0x17, 0, 0⟩
def SEAL : Fld := ⟨0x18, 39, 0⟩
def SEAL_RETRIES : Fld := ⟨0x18, 27, 24⟩
def SEAL_LEG_SNR : Fld := ⟨0x18, 20, 16⟩
def SEAL_FIELD_TOL : Fld := ⟨0x18, 11, 8⟩
def SEAL_MIN_MARGIN : Fld := ⟨0x18, 7, 0⟩
def RING : Fld := ⟨0x19, 39, 0⟩
def RING_SIZE : Fld := ⟨0x19, 23, 16⟩
def RING_RD : Fld := ⟨0x19, 15, 8⟩
def RING_WR : Fld := ⟨0x19, 7, 0⟩
def COUNT1 : Fld := ⟨0x1A, 39, 0⟩
def COUNT1_CUT : Fld := ⟨0x1A, 31, 16⟩
def COUNT1_MISSED : Fld := ⟨0x1A, 15, 0⟩
def COUNT2 : Fld := ⟨0x1B, 39, 0⟩
def COUNT2_PASSES : Fld := ⟨0x1B, 39, 16⟩
def COUNT2_DROPPED : Fld := ⟨0x1B, 15, 0⟩
def SLOT (k : Nat) : Fld := ⟨0x20 + k, 39, 0⟩
def SLOT_PHASE (k : Nat) : Fld := ⟨0x20 + k, 15, 0⟩
def QUEUE (i : Nat) : Fld := ⟨0x30 + i, 39, 0⟩
def QUEUE_PORTS (i : Nat) : Fld := ⟨0x30 + i, 39, 0⟩
def STATUS_ROUND : Fld := ⟨0x02, 15, 8⟩
def STATUS_STATE : Fld := ⟨0x02, 7, 5⟩
def STATUS_SEALING : Fld := ⟨0x02, 4, 4⟩
def STATUS_BUSY : Fld := ⟨0x02, 0, 0⟩
def READY_READY : Fld := ⟨0x03, 0, 0⟩
def FLAG_POISON : Fld := ⟨0x04, 9, 9⟩
def FLAG_RING_FULL : Fld := ⟨0x04, 8, 8⟩
def FLAG_LEDGER_FULL : Fld := ⟨0x04, 7, 7⟩
def FLAG_SEAL_CONFLICT : Fld := ⟨0x04, 6, 6⟩
def FLAG_SEAL_DONE : Fld := ⟨0x04, 5, 5⟩
def FLAG_SEAL_PENDING : Fld := ⟨0x04, 4, 4⟩
def FLAG_CUT : Fld := ⟨0x04, 3, 3⟩
def FLAG_CHANGE : Fld := ⟨0x04, 2, 2⟩
def FLAG_PASS_END : Fld := ⟨0x04, 1, 1⟩
def FLAG_ROUND_END : Fld := ⟨0x04, 0, 0⟩
def FAULT_SCHED : Fld := ⟨0x07, 1, 1⟩
def FAULT_CFG : Fld := ⟨0x07, 0, 0⟩
end INV

/-! Fields of the KBZ page. -/
namespace KBZ
def PING : Fld := ⟨0x10, 39, 0⟩
def PING_LEVEL : Fld := ⟨0x10, 23, 16⟩
def PING_LEN : Fld := ⟨0x10, 7, 0⟩
def SWEEP : Fld := ⟨0x11, 39, 0⟩
def SWEEP_PERIOD : Fld := ⟨0x11, 31, 16⟩
def TRACK : Fld := ⟨0x12, 39, 0⟩
def TRACK_CONFIRM : Fld := ⟨0x12, 19, 16⟩
def TRACK_LEARN : Fld := ⟨0x12, 15, 8⟩
def TRACK_BETA : Fld := ⟨0x12, 7, 4⟩
def TRACK_ALPHA : Fld := ⟨0x12, 3, 0⟩
def THR : Fld := ⟨0x13, 39, 0⟩
def THR_P_MIN : Fld := ⟨0x13, 29, 20⟩
def THR_A_MIN : Fld := ⟨0x13, 19, 8⟩
def THR_K : Fld := ⟨0x13, 7, 0⟩
def CFG : Fld := ⟨0x14, 39, 0⟩
def CFG_RUN_EN : Fld := ⟨0x14, 1, 1⟩
def CFG_WAKE : Fld := ⟨0x14, 0, 0⟩
def SWEEPS : Fld := ⟨0x15, 39, 0⟩
def SWEEPS_COUNT : Fld := ⟨0x15, 31, 0⟩
def COUNT : Fld := ⟨0x16, 39, 0⟩
def COUNT_SKIPPED : Fld := ⟨0x16, 31, 16⟩
def COUNT_HITS : Fld := ⟨0x16, 15, 0⟩
def LAST : Fld := ⟨0x17, 39, 0⟩
def LAST_PORT : Fld := ⟨0x17, 39, 32⟩
def LAST_AMP : Fld := ⟨0x17, 31, 20⟩
def LAST_PHASE : Fld := ⟨0x17, 19, 10⟩
def CHANGE (i : Nat) : Fld := ⟨0x18 + i, 39, 0⟩
def CHANGE_PORTS (i : Nat) : Fld := ⟨0x18 + i, 39, 0⟩
def MASK (i : Nat) : Fld := ⟨0x20 + i, 39, 0⟩
def MASK_PORTS (i : Nat) : Fld := ⟨0x20 + i, 39, 0⟩
def PEND (i : Nat) : Fld := ⟨0x28 + i, 39, 0⟩
def PEND_PORTS (i : Nat) : Fld := ⟨0x28 + i, 39, 0⟩
def BASE (p : Nat) : Fld := ⟨0x40 + p, 39, 0⟩
def BASE_MEAN_A (p : Nat) : Fld := ⟨0x40 + p, 39, 28⟩
def BASE_MEAN_P (p : Nat) : Fld := ⟨0x40 + p, 27, 18⟩
def BASE_DEV_A (p : Nat) : Fld := ⟨0x40 + p, 17, 10⟩
def BASE_DEV_P (p : Nat) : Fld := ⟨0x40 + p, 9, 2⟩
def BASE_STATE (p : Nat) : Fld := ⟨0x40 + p, 1, 0⟩
def STATUS_SWEEPING : Fld := ⟨0x02, 2, 2⟩
def STATUS_LEARNING : Fld := ⟨0x02, 1, 1⟩
def STATUS_BUSY : Fld := ⟨0x02, 0, 0⟩
def READY_READY : Fld := ⟨0x03, 0, 0⟩
def FLAG_OVERRUN : Fld := ⟨0x04, 2, 2⟩
def FLAG_SWEEP_END : Fld := ⟨0x04, 1, 1⟩
def FLAG_CHANGE : Fld := ⟨0x04, 0, 0⟩
def FAULT_CMP : Fld := ⟨0x07, 2, 2⟩
def FAULT_PING : Fld := ⟨0x07, 1, 1⟩
def FAULT_CFG : Fld := ⟨0x07, 0, 0⟩
end KBZ

/-! Fields of the CND0 page. -/
namespace CND0
def ARB : Fld := ⟨0x10, 39, 0⟩
def ARB_HK_GAP : Fld := ⟨0x10, 7, 0⟩
def CLAIM : Fld := ⟨0x11, 39, 0⟩
def CLAIM_OWNER : Fld := ⟨0x11, 31, 0⟩
def COUNT1 : Fld := ⟨0x12, 39, 0⟩
def COUNT1_RECOVERED : Fld := ⟨0x12, 31, 16⟩
def COUNT1_LATE_ABORT : Fld := ⟨0x12, 15, 0⟩
def COUNT2 : Fld := ⟨0x13, 39, 0⟩
def COUNT2_RERUN : Fld := ⟨0x13, 31, 16⟩
def COUNT2_START_REFUSED : Fld := ⟨0x13, 15, 0⟩
def STATUS_RUN : Fld := ⟨0x02, 23, 12⟩
def STATUS_BUSY : Fld := ⟨0x02, 0, 0⟩
def READY_READY : Fld := ⟨0x03, 0, 0⟩
def FLAG_LATE_ABORT : Fld := ⟨0x04, 2, 2⟩
def FLAG_RECOVERED : Fld := ⟨0x04, 1, 1⟩
def FLAG_START_REFUSED : Fld := ⟨0x04, 0, 0⟩
def FAULT_PERSIST : Fld := ⟨0x07, 2, 2⟩
def FAULT_LOCKSTEP : Fld := ⟨0x07, 1, 1⟩
def FAULT_CFG : Fld := ⟨0x07, 0, 0⟩
end CND0

/-! Fields of the CND page. -/
namespace CND
def CTX_CTRL (j : Nat) : Fld := ⟨0x10 + 16 * j, 39, 0⟩
def CTX_CTRL_RERUN (j : Nat) : Fld := ⟨0x10 + 16 * j, 9, 9⟩
def CTX_CTRL_STOP_ON_ERR (j : Nat) : Fld := ⟨0x10 + 16 * j, 8, 8⟩
def CTX_CTRL_ABORT (j : Nat) : Fld := ⟨0x10 + 16 * j, 2, 2⟩
def CTX_CTRL_HALT (j : Nat) : Fld := ⟨0x10 + 16 * j, 1, 1⟩
def CTX_CTRL_START (j : Nat) : Fld := ⟨0x10 + 16 * j, 0, 0⟩
def CTX_ENTRY (j : Nat) : Fld := ⟨0x11 + 16 * j, 39, 0⟩
def CTX_ENTRY_ADDR (j : Nat) : Fld := ⟨0x11 + 16 * j, 39, 0⟩
def CTX_PC (j : Nat) : Fld := ⟨0x12 + 16 * j, 39, 0⟩
def CTX_PC_ADDR (j : Nat) : Fld := ⟨0x12 + 16 * j, 39, 0⟩
def CTX_STATE (j : Nat) : Fld := ⟨0x13 + 16 * j, 39, 0⟩
def CTX_STATE_LAST_STATUS (j : Nat) : Fld := ⟨0x13 + 16 * j, 39, 32⟩
def CTX_STATE_RUN (j : Nat) : Fld := ⟨0x13 + 16 * j, 31, 28⟩
def CTX_STATE_REASON (j : Nat) : Fld := ⟨0x13 + 16 * j, 27, 24⟩
def CTX_STATE_DEPTH (j : Nat) : Fld := ⟨0x13 + 16 * j, 23, 20⟩
def CTX_STATE_HOP (j : Nat) : Fld := ⟨0x13 + 16 * j, 19, 16⟩
def CTX_STATE_OP (j : Nat) : Fld := ⟨0x13 + 16 * j, 15, 11⟩
def CTX_STATE_CLAIMS (j : Nat) : Fld := ⟨0x13 + 16 * j, 7, 0⟩
def CTX_LAUNCH (j : Nat) : Fld := ⟨0x14 + 16 * j, 39, 0⟩
def CTX_LAUNCH_ANGLE (j : Nat) : Fld := ⟨0x14 + 16 * j, 39, 0⟩
def CTX_MOVES (j : Nat) : Fld := ⟨0x15 + 16 * j, 39, 0⟩
def CTX_MOVES_COUNT (j : Nat) : Fld := ⟨0x15 + 16 * j, 31, 0⟩
def CTX_A (j : Nat) (r : Nat) : Fld := ⟨0x18 + 16 * j + r, 39, 0⟩
def CTX_A_VALUE (j : Nat) (r : Nat) : Fld := ⟨0x18 + 16 * j + r, 39, 0⟩
def STATUS_RUN : Fld := ⟨0x02, 4, 1⟩
def STATUS_BUSY : Fld := ⟨0x02, 0, 0⟩
def READY_READY : Fld := ⟨0x03, 0, 0⟩
def FLAG_FSTOP : Fld := ⟨0x04, 7, 4⟩
def FLAG_DONE : Fld := ⟨0x04, 3, 0⟩
def FAULT_CFG : Fld := ⟨0x07, 0, 0⟩
end CND

/-! Fields of the EVT page. -/
namespace EVT
def CH_CFG (k : Nat) : Fld := ⟨0x10 + 16 * k, 39, 0⟩
def CH_CFG_DELAY (k : Nat) : Fld := ⟨0x10 + 16 * k, 31, 16⟩
def CH_CFG_CHAIN (k : Nat) : Fld := ⟨0x10 + 16 * k, 1, 1⟩
def CH_CFG_EN (k : Nat) : Fld := ⟨0x10 + 16 * k, 0, 0⟩
def CH_PSEL (k : Nat) (m : Nat) : Fld := ⟨0x11 + 16 * k + m, 39, 0⟩
def CH_PSEL_PROD (k : Nat) (m : Nat) : Fld := ⟨0x11 + 16 * k + m, 39, 0⟩
def CH_TSEL (k : Nat) (m : Nat) : Fld := ⟨0x16 + 16 * k + m, 39, 0⟩
def CH_TSEL_TASK (k : Nat) (m : Nat) : Fld := ⟨0x16 + 16 * k + m, 39, 0⟩
def CH_COUNT1 (k : Nat) : Fld := ⟨0x19 + 16 * k, 39, 0⟩
def CH_COUNT1_FIRES (k : Nat) : Fld := ⟨0x19 + 16 * k, 39, 16⟩
def CH_COUNT1_MERGED (k : Nat) : Fld := ⟨0x19 + 16 * k, 15, 0⟩
def CH_COUNT2 (k : Nat) : Fld := ⟨0x1A + 16 * k, 39, 0⟩
def CH_COUNT2_DROPPED (k : Nat) : Fld := ⟨0x1A + 16 * k, 31, 16⟩
def CH_COUNT2_LOOP (k : Nat) : Fld := ⟨0x1A + 16 * k, 15, 0⟩
def CH_LAST (k : Nat) : Fld := ⟨0x1B + 16 * k, 39, 0⟩
def CH_LAST_UNALIGNED (k : Nat) : Fld := ⟨0x1B + 16 * k, 36, 36⟩
def CH_LAST_HOP (k : Nat) : Fld := ⟨0x1B + 16 * k, 35, 32⟩
def CH_LAST_SEQ (k : Nat) : Fld := ⟨0x1B + 16 * k, 31, 0⟩
def STATUS_PENDING : Fld := ⟨0x02, 15, 8⟩
def STATUS_BUSY : Fld := ⟨0x02, 0, 0⟩
def READY_READY : Fld := ⟨0x03, 0, 0⟩
def FLAG_CHAIN_DROP : Fld := ⟨0x04, 31, 24⟩
def FLAG_OVERFLOW : Fld := ⟨0x04, 23, 16⟩
def FLAG_LOOP : Fld := ⟨0x04, 15, 8⟩
def FLAG_FIRE : Fld := ⟨0x04, 7, 0⟩
def FAULT_CFG : Fld := ⟨0x07, 0, 0⟩
end EVT

/-! Fields of the ARB page. -/
namespace ARB
def SEQ : Fld := ⟨0x10, 39, 0⟩
def SEQ_NEXT : Fld := ⟨0x10, 31, 0⟩
def FIRE0 : Fld := ⟨0x11, 39, 0⟩
def FIRE0_CHANNELS : Fld := ⟨0x11, 39, 0⟩
def FIRE1 : Fld := ⟨0x12, 39, 0⟩
def FIRE1_CHANNELS : Fld := ⟨0x12, 23, 0⟩
def GPIO_EV : Fld := ⟨0x13, 39, 0⟩
def GPIO_EV_EDGE : Fld := ⟨0x13, 31, 0⟩
def GPIO_OUT : Fld := ⟨0x14, 39, 0⟩
def GPIO_OUT_LEVEL : Fld := ⟨0x14, 31, 16⟩
def GPIO_OUT_DRIVE : Fld := ⟨0x14, 15, 0⟩
def TASK (t : Nat) : Fld := ⟨0x40 + t, 39, 0⟩
def TASK_TRIGGERS (t : Nat) : Fld := ⟨0x40 + t, 39, 16⟩
def TASK_MERGED (t : Nat) : Fld := ⟨0x40 + t, 15, 0⟩
def STATUS_BUSY : Fld := ⟨0x02, 0, 0⟩
def READY_READY : Fld := ⟨0x03, 0, 0⟩
def FLAG_RETRY : Fld := ⟨0x04, 0, 0⟩
def FAULT_PERSIST : Fld := ⟨0x07, 2, 2⟩
def FAULT_DUP : Fld := ⟨0x07, 1, 1⟩
def FAULT_CFG : Fld := ⟨0x07, 0, 0⟩
end ARB

/-! Fields of the CAL page. -/
namespace CAL
def CFG : Fld := ⟨0x10, 39, 0⟩
def CFG_FORCE_EN : Fld := ⟨0x10, 3, 3⟩
def CFG_SYN_EN : Fld := ⟨0x10, 2, 2⟩
def CFG_RXP_EN : Fld := ⟨0x10, 1, 1⟩
def CFG_TXP_EN : Fld := ⟨0x10, 0, 0⟩
def PERIOD : Fld := ⟨0x11, 39, 0⟩
def PERIOD_CHAIN : Fld := ⟨0x11, 31, 16⟩
def PERIOD_SYN_DT : Fld := ⟨0x11, 7, 0⟩
def ACCEPT : Fld := ⟨0x12, 39, 0⟩
def ACCEPT_DRIFT : Fld := ⟨0x12, 39, 32⟩
def ACCEPT_JUMP : Fld := ⟨0x12, 31, 24⟩
def ACCEPT_AGREE : Fld := ⟨0x12, 23, 16⟩
def ACCEPT_AGREE_XB : Fld := ⟨0x12, 15, 8⟩
def ACCEPT_REPS : Fld := ⟨0x12, 3, 0⟩
def SHARE : Fld := ⟨0x13, 39, 0⟩
def SHARE_PERIOD : Fld := ⟨0x13, 31, 16⟩
def SHARE_WINDOW : Fld := ⟨0x13, 7, 0⟩
def APPLY : Fld := ⟨0x14, 39, 0⟩
def APPLY_SRC : Fld := ⟨0x14, 32, 32⟩
def APPLY_PHASE : Fld := ⟨0x14, 31, 16⟩
def APPLY_LSLOT : Fld := ⟨0x14, 10, 8⟩
def PEND : Fld := ⟨0x15, 39, 0⟩
def PEND_MCH : Fld := ⟨0x15, 26, 26⟩
def PEND_RXC : Fld := ⟨0x15, 25, 9⟩
def PEND_TXC : Fld := ⟨0x15, 8, 0⟩
def XB_CFG : Fld := ⟨0x16, 39, 0⟩
def XB_CFG_ARM : Fld := ⟨0x16, 39, 39⟩
def XB_CFG_LSLOT : Fld := ⟨0x16, 34, 32⟩
def XB_CFG_LEVEL : Fld := ⟨0x16, 24, 16⟩
def XB_CFG_ROLE : Fld := ⟨0x16, 9, 8⟩
def XB_CFG_PORT : Fld := ⟨0x16, 7, 0⟩
def XB_RESULT : Fld := ⟨0x17, 39, 0⟩
def XB_RESULT_VALID : Fld := ⟨0x17, 39, 39⟩
def XB_RESULT_SPREAD : Fld := ⟨0x17, 23, 16⟩
def XB_RESULT_PHASE : Fld := ⟨0x17, 8, 0⟩
def XB_PEER : Fld := ⟨0x18, 39, 0⟩
def XB_PEER_PHASE : Fld := ⟨0x18, 8, 0⟩
def TEMP : Fld := ⟨0x19, 39, 0⟩
def TEMP_TJ : Fld := ⟨0x19, 31, 16⟩
def TEMP_TJ_MAX : Fld := ⟨0x19, 15, 0⟩
def LAST : Fld := ⟨0x1A, 39, 0⟩
def LAST_INSTANCE : Fld := ⟨0x1A, 39, 32⟩
def LAST_NEW : Fld := ⟨0x1A, 31, 23⟩
def LAST_OLD : Fld := ⟨0x1A, 22, 14⟩
def LAST_SPREAD : Fld := ⟨0x1A, 13, 8⟩
def LAST_DEV : Fld := ⟨0x1A, 7, 0⟩
def COUNT1 : Fld := ⟨0x1B, 39, 0⟩
def COUNT1_ADOPTED : Fld := ⟨0x1B, 31, 16⟩
def COUNT1_REJECTED : Fld := ⟨0x1B, 15, 0⟩
def COUNT2 : Fld := ⟨0x1C, 39, 0⟩
def COUNT2_YIELDED : Fld := ⟨0x1C, 31, 16⟩
def COUNT2_FORCED : Fld := ⟨0x1C, 15, 0⟩
def STATUS_WING : Fld := ⟨0x02, 10, 8⟩
def STATUS_SIMUL_HOLD : Fld := ⟨0x02, 4, 4⟩
def STATUS_FORCED : Fld := ⟨0x02, 3, 3⟩
def STATUS_SYN : Fld := ⟨0x02, 2, 2⟩
def STATUS_WINDOW : Fld := ⟨0x02, 1, 1⟩
def STATUS_BUSY : Fld := ⟨0x02, 0, 0⟩
def READY_INIT_DONE : Fld := ⟨0x03, 1, 1⟩
def READY_READY : Fld := ⟨0x03, 0, 0⟩
def FLAG_XB_DONE : Fld := ⟨0x04, 6, 6⟩
def FLAG_DRIFT : Fld := ⟨0x04, 5, 5⟩
def FLAG_STARVED : Fld := ⟨0x04, 4, 4⟩
def FLAG_REJECT : Fld := ⟨0x04, 3, 3⟩
def FLAG_APPLIED : Fld := ⟨0x04, 1, 1⟩
def FLAG_ACCEPT : Fld := ⟨0x04, 0, 0⟩
def FAULT_CMP : Fld := ⟨0x07, 1, 1⟩
def FAULT_CFG : Fld := ⟨0x07, 0, 0⟩
end CAL

/-! Fields of the SCO page. -/
namespace SCO
def BASE : Fld := ⟨0x10, 39, 0⟩
def BASE_ADDR : Fld := ⟨0x10, 39, 0⟩
def CFG : Fld := ⟨0x11, 39, 0⟩
def CFG_SECTORS : Fld := ⟨0x11, 31, 16⟩
def CFG_LOG2 : Fld := ⟨0x11, 15, 12⟩
def CFG_AUTO_FORMAT : Fld := ⟨0x11, 8, 8⟩
def CFG_DRAIN_MS : Fld := ⟨0x11, 7, 0⟩
def TEL : Fld := ⟨0x12, 39, 0⟩
def TEL_PERIOD : Fld := ⟨0x12, 31, 16⟩
def TEL_EN : Fld := ⟨0x12, 0, 0⟩
def HEAD : Fld := ⟨0x13, 39, 0⟩
def HEAD_ADDR : Fld := ⟨0x13, 39, 0⟩
def OLDEST : Fld := ⟨0x14, 39, 0⟩
def OLDEST_ADDR : Fld := ⟨0x14, 39, 0⟩
def SEQ : Fld := ⟨0x15, 39, 0⟩
def SEQ_RSEQ : Fld := ⟨0x15, 31, 0⟩
def SSEQ : Fld := ⟨0x16, 39, 0⟩
def SSEQ_SSEQ : Fld := ⟨0x16, 31, 0⟩
def CMD : Fld := ⟨0x17, 39, 0⟩
def CMD_TEL_NOW : Fld := ⟨0x17, 2, 2⟩
def CMD_FORMAT : Fld := ⟨0x17, 1, 1⟩
def CMD_REMOUNT : Fld := ⟨0x17, 0, 0⟩
def QUEUE : Fld := ⟨0x18, 39, 0⟩
def QUEUE_QUEUED : Fld := ⟨0x18, 4, 0⟩
def COUNT1 : Fld := ⟨0x19, 39, 0⟩
def COUNT1_WRITTEN : Fld := ⟨0x19, 39, 16⟩
def COUNT1_DROPPED : Fld := ⟨0x19, 15, 0⟩
def COUNT2 : Fld := ⟨0x1A, 39, 0⟩
def COUNT2_TORN : Fld := ⟨0x1A, 31, 16⟩
def COUNT2_FAILED : Fld := ⟨0x1A, 15, 0⟩
def LOST : Fld := ⟨0x1B, 39, 0⟩
def LOST_COUNT : Fld := ⟨0x1B, 31, 0⟩
def STATUS_WAIT_XMP : Fld := ⟨0x02, 4, 4⟩
def STATUS_ERASING : Fld := ⟨0x02, 3, 3⟩
def STATUS_PROGRAMMING : Fld := ⟨0x02, 2, 2⟩
def STATUS_MOUNTED : Fld := ⟨0x02, 1, 1⟩
def STATUS_BUSY : Fld := ⟨0x02, 0, 0⟩
def READY_READY : Fld := ⟨0x03, 0, 0⟩
def FLAG_TORN : Fld := ⟨0x04, 3, 3⟩
def FLAG_WRAP : Fld := ⟨0x04, 2, 2⟩
def FLAG_DROPPED : Fld := ⟨0x04, 1, 1⟩
def FLAG_WRITTEN : Fld := ⟨0x04, 0, 0⟩
def FAULT_FLASH : Fld := ⟨0x07, 1, 1⟩
def FAULT_CFG : Fld := ⟨0x07, 0, 0⟩
end SCO

/-! Fields of the MEM page. -/
namespace MEM
def CFG : Fld := ⟨0x10, 39, 0⟩
def CFG_HARD_THR : Fld := ⟨0x10, 7, 0⟩
def ACC_BASE : Fld := ⟨0x11, 39, 0⟩
def ACC_BASE_ADDR : Fld := ⟨0x11, 20, 0⟩
def WIN_PSN : Fld := ⟨0x12, 39, 0⟩
def WIN_PSN_WIN : Fld := ⟨0x12, 31, 0⟩
def CE_LAST : Fld := ⟨0x13, 39, 0⟩
def CE_LAST_KIND : Fld := ⟨0x13, 39, 37⟩
def CE_LAST_SYNDROME : Fld := ⟨0x13, 36, 29⟩
def CE_LAST_REPEAT : Fld := ⟨0x13, 28, 21⟩
def CE_LAST_ADDR : Fld := ⟨0x13, 20, 0⟩
def BIST : Fld := ⟨0x14, 39, 0⟩
def BIST_GO : Fld := ⟨0x14, 39, 39⟩
def BIST_BANK : Fld := ⟨0x14, 36, 32⟩
def BIST_FAIL : Fld := ⟨0x14, 23, 0⟩
def INJ : Fld := ⟨0x15, 39, 0⟩
def INJ_GO : Fld := ⟨0x15, 39, 39⟩
def INJ_RAW : Fld := ⟨0x15, 38, 38⟩
def INJ_PARITY : Fld := ⟨0x15, 37, 37⟩
def INJ_CHECK_MASK : Fld := ⟨0x15, 28, 21⟩
def INJ_ADDR : Fld := ⟨0x15, 20, 0⟩
def INJ_MASK : Fld := ⟨0x16, 39, 0⟩
def INJ_MASK_MASK : Fld := ⟨0x16, 39, 0⟩
def RAW : Fld := ⟨0x17, 39, 0⟩
def RAW_DATA : Fld := ⟨0x17, 39, 0⟩
def RAW_CHK : Fld := ⟨0x18, 39, 0⟩
def RAW_CHK_POISON : Fld := ⟨0x18, 8, 8⟩
def RAW_CHK_CHECK : Fld := ⟨0x18, 7, 0⟩
def BANK_ERR (b : Nat) : Fld := ⟨0x20 + b, 39, 0⟩
def BANK_ERR_POISONED (b : Nat) : Fld := ⟨0x20 + b, 39, 32⟩
def BANK_ERR_REBUILT (b : Nat) : Fld := ⟨0x20 + b, 31, 16⟩
def BANK_ERR_CORRECTED (b : Nat) : Fld := ⟨0x20 + b, 15, 0⟩
def WIN (k : Nat) : Fld := ⟨0x40 + k, 39, 0⟩
def WIN_WORD (k : Nat) : Fld := ⟨0x40 + k, 39, 0⟩
def STATUS_INIT : Fld := ⟨0x02, 5, 5⟩
def STATUS_BIST : Fld := ⟨0x02, 4, 4⟩
def STATUS_BUSY : Fld := ⟨0x02, 0, 0⟩
def READY_BANK : Fld := ⟨0x03, 24, 1⟩
def READY_READY : Fld := ⟨0x03, 0, 0⟩
def FLAG_RANGE : Fld := ⟨0x04, 5, 5⟩
def FLAG_HARD : Fld := ⟨0x04, 4, 4⟩
def FLAG_POISONED : Fld := ⟨0x04, 3, 3⟩
def FLAG_REBUILT : Fld := ⟨0x04, 2, 2⟩
def FLAG_CORRECTED : Fld := ⟨0x04, 1, 1⟩
def FLAG_BIST_DONE : Fld := ⟨0x04, 0, 0⟩
def FAULT_HARD : Fld := ⟨0x07, 4, 4⟩
def FAULT_UNCORR : Fld := ⟨0x07, 3, 3⟩
def FAULT_CODEC : Fld := ⟨0x07, 2, 2⟩
def FAULT_BIST : Fld := ⟨0x07, 1, 1⟩
def FAULT_CFG : Fld := ⟨0x07, 0, 0⟩
end MEM

/-! Fields of the SCB page. -/
namespace SCB
def CFG : Fld := ⟨0x10, 39, 0⟩
def CFG_INTERVAL : Fld := ⟨0x10, 39, 16⟩
def CFG_PERIOD : Fld := ⟨0x10, 15, 0⟩
def POS : Fld := ⟨0x11, 39, 0⟩
def POS_LINE : Fld := ⟨0x11, 17, 0⟩
def COUNT : Fld := ⟨0x12, 39, 0⟩
def COUNT_PASSES : Fld := ⟨0x12, 23, 0⟩
def FOUND : Fld := ⟨0x13, 39, 0⟩
def FOUND_POISONED : Fld := ⟨0x13, 39, 32⟩
def FOUND_REBUILT : Fld := ⟨0x13, 31, 16⟩
def FOUND_CORRECTED : Fld := ⟨0x13, 15, 0⟩
def STATUS_FAST : Fld := ⟨0x02, 1, 1⟩
def STATUS_BUSY : Fld := ⟨0x02, 0, 0⟩
def READY_READY : Fld := ⟨0x03, 0, 0⟩
def FLAG_LATE : Fld := ⟨0x04, 2, 2⟩
def FLAG_FOUND : Fld := ⟨0x04, 1, 1⟩
def FLAG_PASS_END : Fld := ⟨0x04, 0, 0⟩
def FAULT_SEQ : Fld := ⟨0x07, 1, 1⟩
def FAULT_CFG : Fld := ⟨0x07, 0, 0⟩
end SCB

/-! Fields of the CKU page. -/
namespace CKU
def CFG : Fld := ⟨0x10, 39, 0⟩
def CFG_DIR : Fld := ⟨0x10, 9, 9⟩
def CFG_FOLD_WIDTH : Fld := ⟨0x10, 8, 8⟩
def CFG_MODE : Fld := ⟨0x10, 5, 4⟩
def CFG_POLY : Fld := ⟨0x10, 2, 0⟩
def FOLD : Fld := ⟨0x11, 39, 0⟩
def FOLD_STEP : Fld := ⟨0x11, 39, 32⟩
def FOLD_VALUE : Fld := ⟨0x11, 31, 0⟩
def CMD : Fld := ⟨0x12, 39, 0⟩
def CMD_END : Fld := ⟨0x12, 1, 1⟩
def CMD_START : Fld := ⟨0x12, 0, 0⟩
def EXPECT : Fld := ⟨0x13, 39, 0⟩
def EXPECT_VALUE : Fld := ⟨0x13, 31, 0⟩
def RESULT : Fld := ⟨0x14, 39, 0⟩
def RESULT_VALUE : Fld := ⟨0x14, 31, 0⟩
def RUN : Fld := ⟨0x15, 39, 0⟩
def RUN_REG : Fld := ⟨0x15, 31, 0⟩
def ALIVE : Fld := ⟨0x16, 39, 0⟩
def ALIVE_GAP : Fld := ⟨0x16, 19, 16⟩
def ALIVE_LAST_VALID : Fld := ⟨0x16, 12, 12⟩
def ALIVE_OUT : Fld := ⟨0x16, 11, 8⟩
def ALIVE_LAST : Fld := ⟨0x16, 7, 4⟩
def ALIVE_NEXT : Fld := ⟨0x16, 3, 0⟩
def DATA (m : Nat) : Fld := ⟨0x17 + m, 39, 0⟩
def DATA_BYTES (m : Nat) : Fld := ⟨0x17 + m, 39, 0⟩
def STATUS_MATCH : Fld := ⟨0x02, 2, 2⟩
def STATUS_OPEN : Fld := ⟨0x02, 1, 1⟩
def STATUS_BUSY : Fld := ⟨0x02, 0, 0⟩
def READY_READY : Fld := ⟨0x03, 0, 0⟩
def FLAG_BAD_CFG : Fld := ⟨0x04, 5, 5⟩
def FLAG_POISON : Fld := ⟨0x04, 4, 4⟩
def FLAG_GAP : Fld := ⟨0x04, 3, 3⟩
def FLAG_REPEAT : Fld := ⟨0x04, 2, 2⟩
def FLAG_MISMATCH : Fld := ⟨0x04, 1, 1⟩
def FLAG_DONE : Fld := ⟨0x04, 0, 0⟩
def FAULT_LOGIC : Fld := ⟨0x07, 1, 1⟩
def FAULT_CFG : Fld := ⟨0x07, 0, 0⟩
end CKU

/-! Fields of the HPT page. -/
namespace HPT
def CFG : Fld := ⟨0x10, 39, 0⟩
def CFG_DDR_WAIT : Fld := ⟨0x10, 15, 8⟩
def CFG_TURN : Fld := ⟨0x10, 5, 4⟩
def CFG_MODE : Fld := ⟨0x10, 0, 0⟩
def LAST_FRAME : Fld := ⟨0x11, 39, 0⟩
def LAST_FRAME_RESULT : Fld := ⟨0x11, 39, 36⟩
def LAST_FRAME_OPCODE : Fld := ⟨0x11, 35, 34⟩
def LAST_FRAME_BOARD : Fld := ⟨0x11, 33, 28⟩
def LAST_FRAME_PAGE : Fld := ⟨0x11, 27, 20⟩
def LAST_FRAME_OFFSET : Fld := ⟨0x11, 19, 12⟩
def LAST_FRAME_FIRST_ZERO : Fld := ⟨0x11, 11, 6⟩
def LAST_FRAME_PSN_INDEX : Fld := ⟨0x11, 5, 0⟩
def RPT_CFG : Fld := ⟨0x12, 39, 0⟩
def RPT_CFG_DIV : Fld := ⟨0x12, 23, 16⟩
def RPT_CFG_MAX_WORDS : Fld := ⟨0x12, 12, 8⟩
def RPT_CFG_WIDTH : Fld := ⟨0x12, 7, 4⟩
def RPT_CFG_AUTO_IRQ : Fld := ⟨0x12, 1, 1⟩
def RPT_CFG_MASTER_EN : Fld := ⟨0x12, 0, 0⟩
def RPT_PUSH : Fld := ⟨0x13, 39, 0⟩
def RPT_PUSH_WORD : Fld := ⟨0x13, 31, 0⟩
def RPT_POP : Fld := ⟨0x14, 39, 0⟩
def RPT_POP_VALID : Fld := ⟨0x14, 39, 39⟩
def RPT_POP_WORD : Fld := ⟨0x14, 31, 0⟩
def RPT_STAT : Fld := ⟨0x15, 39, 0⟩
def RPT_STAT_DROPPED : Fld := ⟨0x15, 23, 16⟩
def RPT_STAT_USEQ : Fld := ⟨0x15, 15, 12⟩
def RPT_STAT_QUEUED : Fld := ⟨0x15, 5, 0⟩
def VLOG_PTR : Fld := ⟨0x16, 39, 0⟩
def VLOG_PTR_WRAPPED : Fld := ⟨0x16, 4, 4⟩
def VLOG_PTR_WR : Fld := ⟨0x16, 3, 0⟩
def COUNT : Fld := ⟨0x17, 39, 0⟩
def COUNT_FRAMES : Fld := ⟨0x17, 39, 16⟩
def COUNT_UNITS : Fld := ⟨0x17, 15, 0⟩
def VLOG (k : Nat) : Fld := ⟨0x20 + k, 39, 0⟩
def VLOG_ENTRY (k : Nat) : Fld := ⟨0x20 + k, 39, 0⟩
def STATUS_DDR : Fld := ⟨0x02, 3, 3⟩
def STATUS_MASTERING : Fld := ⟨0x02, 2, 2⟩
def STATUS_SELECTED : Fld := ⟨0x02, 1, 1⟩
def STATUS_BUSY : Fld := ⟨0x02, 0, 0⟩
def READY_READY : Fld := ⟨0x03, 0, 0⟩
def FLAG_RPT_DROP : Fld := ⟨0x04, 6, 6⟩
def FLAG_MASTER_FAULT : Fld := ⟨0x04, 5, 5⟩
def FLAG_PARTIAL : Fld := ⟨0x04, 4, 4⟩
def FLAG_PAST_END : Fld := ⟨0x04, 3, 3⟩
def FLAG_RETRY : Fld := ⟨0x04, 2, 2⟩
def FLAG_VIOLATION : Fld := ⟨0x04, 1, 1⟩
def FLAG_UNIT_DONE : Fld := ⟨0x04, 0, 0⟩
def FAULT_DEC : Fld := ⟨0x07, 1, 1⟩
def FAULT_CFG : Fld := ⟨0x07, 0, 0⟩
end HPT

/-! Fields of the XMP page. -/
namespace XMP
def CFG : Fld := ⟨0x10, 39, 0⟩
def CFG_ERASE_X : Fld := ⟨0x10, 23, 20⟩
def CFG_PROG_X : Fld := ⟨0x10, 19, 16⟩
def CFG_FREQ : Fld := ⟨0x10, 15, 8⟩
def CFG_DQS_TIMEOUT : Fld := ⟨0x10, 7, 4⟩
def CFG_SUSPEND_EN : Fld := ⟨0x10, 3, 3⟩
def CFG_MODE_MAX : Fld := ⟨0x10, 1, 0⟩
def DEV (d : Nat) : Fld := ⟨0x11 + d, 39, 0⟩
def DEV_PRESENT (d : Nat) : Fld := ⟨0x11 + d, 39, 39⟩
def DEV_MODE (d : Nat) : Fld := ⟨0x11 + d, 38, 37⟩
def DEV_XCLK (d : Nat) : Fld := ⟨0x11 + d, 31, 24⟩
def DEV_DUMMY (d : Nat) : Fld := ⟨0x11 + d, 23, 16⟩
def DEV_PAGE_LOG2 (d : Nat) : Fld := ⟨0x11 + d, 15, 12⟩
def DEV_SIZE_LOG2 (d : Nat) : Fld := ⟨0x11 + d, 5, 0⟩
def DEV_ERASE (d : Nat) : Fld := ⟨0x13 + d, 39, 0⟩
def DEV_ERASE_TYPES (d : Nat) : Fld := ⟨0x13 + d, 31, 0⟩
def ERASE : Fld := ⟨0x15, 39, 0⟩
def ERASE_GO : Fld := ⟨0x15, 39, 39⟩
def ERASE_TYPE : Fld := ⟨0x15, 33, 32⟩
def ERASE_OFFSET : Fld := ⟨0x15, 31, 0⟩
def OP : Fld := ⟨0x16, 39, 0⟩
def OP_STATE : Fld := ⟨0x16, 39, 37⟩
def OP_DEV : Fld := ⟨0x16, 36, 36⟩
def OP_QUEUED : Fld := ⟨0x16, 35, 32⟩
def OP_OFFSET : Fld := ⟨0x16, 31, 0⟩
def ACC_BASE : Fld := ⟨0x17, 39, 0⟩
def ACC_BASE_OFFSET : Fld := ⟨0x17, 31, 0⟩
def WIN_PSN : Fld := ⟨0x18, 39, 0⟩
def WIN_PSN_WIN : Fld := ⟨0x18, 7, 0⟩
def COUNT : Fld := ⟨0x19, 39, 0⟩
def COUNT_ERASE_FAIL : Fld := ⟨0x19, 39, 32⟩
def COUNT_PROG_FAIL : Fld := ⟨0x19, 31, 16⟩
def COUNT_READ_FAIL : Fld := ⟨0x19, 15, 0⟩
def WIN (k : Nat) : Fld := ⟨0x40 + k, 39, 0⟩
def WIN_WORD (k : Nat) : Fld := ⟨0x40 + k, 39, 0⟩
def STATUS_DISCOVERY : Fld := ⟨0x02, 4, 4⟩
def STATUS_SUSPENDED : Fld := ⟨0x02, 3, 3⟩
def STATUS_ERASING : Fld := ⟨0x02, 2, 2⟩
def STATUS_PROGRAMMING : Fld := ⟨0x02, 1, 1⟩
def STATUS_BUSY : Fld := ⟨0x02, 0, 0⟩
def READY_DEV : Fld := ⟨0x03, 2, 1⟩
def READY_READY : Fld := ⟨0x03, 0, 0⟩
def FLAG_FALLBACK : Fld := ⟨0x04, 9, 9⟩
def FLAG_ERASE_REFUSED : Fld := ⟨0x04, 8, 8⟩
def FLAG_POISON_WR : Fld := ⟨0x04, 7, 7⟩
def FLAG_QFULL : Fld := ⟨0x04, 6, 6⟩
def FLAG_RANGE : Fld := ⟨0x04, 5, 5⟩
def FLAG_ERASE_FAIL : Fld := ⟨0x04, 4, 4⟩
def FLAG_PROG_FAIL : Fld := ⟨0x04, 3, 3⟩
def FLAG_READ_FAIL : Fld := ⟨0x04, 2, 2⟩
def FLAG_ERASE_DONE : Fld := ⟨0x04, 1, 1⟩
def FLAG_DISCOVERED : Fld := ⟨0x04, 0, 0⟩
def FAULT_CTRL : Fld := ⟨0x07, 1, 1⟩
def FAULT_CFG : Fld := ⟨0x07, 0, 0⟩
end XMP

/-! Fields of the DEV page. -/
namespace DEV
def BOARD_NUM : Fld := ⟨0x10, 39, 0⟩
def BOARD_NUM_NUM : Fld := ⟨0x10, 5, 0⟩
def CAUSE : Fld := ⟨0x11, 39, 0⟩
def CAUSE_FROM : Fld := ⟨0x11, 18, 16⟩
def CAUSE_RESET : Fld := ⟨0x11, 15, 8⟩
def CAUSE_WAKE : Fld := ⟨0x11, 7, 0⟩
def UPTIME : Fld := ⟨0x12, 39, 0⟩
def UPTIME_MS : Fld := ⟨0x12, 39, 0⟩
def CMD : Fld := ⟨0x13, 39, 0⟩
def CMD_CHIP_RESET : Fld := ⟨0x13, 7, 0⟩
def STATUS_MODE : Fld := ⟨0x02, 6, 4⟩
def STATUS_WAKE_FAIL : Fld := ⟨0x02, 3, 3⟩
def STATUS_WAKING : Fld := ⟨0x02, 2, 2⟩
def STATUS_ENTERING : Fld := ⟨0x02, 1, 1⟩
def STATUS_BUSY : Fld := ⟨0x02, 0, 0⟩
def READY_RF : Fld := ⟨0x03, 7, 7⟩
def READY_MEM : Fld := ⟨0x03, 6, 6⟩
def READY_CCLK : Fld := ⟨0x03, 5, 5⟩
def READY_REF : Fld := ⟨0x03, 4, 4⟩
def READY_CORE : Fld := ⟨0x03, 3, 3⟩
def READY_ANA : Fld := ⟨0x03, 2, 2⟩
def READY_AON : Fld := ⟨0x03, 1, 1⟩
def READY_READY : Fld := ⟨0x03, 0, 0⟩
def FAULT_CFG : Fld := ⟨0x07, 0, 0⟩
end DEV

/-! Fields of the PWR page. -/
namespace PWR
def MODE_REQ : Fld := ⟨0x10, 39, 0⟩
def MODE_REQ_MODE : Fld := ⟨0x10, 2, 0⟩
def RETAIN : Fld := ⟨0x11, 39, 0⟩
def RETAIN_BANKS : Fld := ⟨0x11, 23, 0⟩
def WAKE_EN : Fld := ⟨0x12, 39, 0⟩
def WAKE_EN_START : Fld := ⟨0x12, 15, 15⟩
def WAKE_EN_START_CTX : Fld := ⟨0x12, 11, 8⟩
def WAKE_EN_GPIO : Fld := ⟨0x12, 4, 4⟩
def WAKE_EN_ALARM : Fld := ⟨0x12, 3, 3⟩
def WAKE_EN_MATCH : Fld := ⟨0x12, 2, 2⟩
def WAKE_EN_HOST : Fld := ⟨0x12, 1, 1⟩
def WAKE_EN_KIBITZ : Fld := ⟨0x12, 0, 0⟩
def WAKE_ENTRY : Fld := ⟨0x13, 39, 0⟩
def WAKE_ENTRY_ADDR : Fld := ⟨0x13, 39, 0⟩
def WAKE_GPIO : Fld := ⟨0x14, 39, 0⟩
def WAKE_GPIO_LEVEL : Fld := ⟨0x14, 31, 16⟩
def WAKE_GPIO_EN : Fld := ⟨0x14, 15, 0⟩
def LP_CFG : Fld := ⟨0x15, 39, 0⟩
def LP_CFG_XTAL_KEEP : Fld := ⟨0x15, 0, 0⟩
def VSET : Fld := ⟨0x16, 39, 0⟩
def VSET_ANA : Fld := ⟨0x16, 31, 16⟩
def VSET_CORE : Fld := ⟨0x16, 15, 0⟩
def PA_CFG : Fld := ⟨0x17, 39, 0⟩
def PA_CFG_LOWER_MS : Fld := ⟨0x17, 27, 20⟩
def PA_CFG_FLOOR_B : Fld := ⟨0x17, 19, 10⟩
def PA_CFG_FLOOR_A : Fld := ⟨0x17, 9, 0⟩
def PMB : Fld := ⟨0x18, 39, 0⟩
def PMB_TOL : Fld := ⟨0x18, 19, 16⟩
def PMB_PEC_EN : Fld := ⟨0x18, 8, 8⟩
def PMB_FAST : Fld := ⟨0x18, 0, 0⟩
def RAIL_CFG (r : Nat) : Fld := ⟨0x19 + r, 39, 0⟩
def RAIL_CFG_VFIX (r : Nat) : Fld := ⟨0x19 + r, 39, 31⟩
def RAIL_CFG_ADDR (r : Nat) : Fld := ⟨0x19 + r, 30, 24⟩
def RAIL_CFG_CTL (r : Nat) : Fld := ⟨0x19 + r, 21, 20⟩
def RAIL_CFG_ACK (r : Nat) : Fld := ⟨0x19 + r, 19, 19⟩
def RAIL_CFG_RETRIES (r : Nat) : Fld := ⟨0x19 + r, 18, 16⟩
def RAIL_CFG_PG_TIMEOUT (r : Nat) : Fld := ⟨0x19 + r, 15, 8⟩
def RAIL_CFG_SETTLE (r : Nat) : Fld := ⟨0x19 + r, 7, 0⟩
def RAIL_STAT (r : Nat) : Fld := ⟨0x1D + r, 39, 0⟩
def RAIL_STAT_STATE (r : Nat) : Fld := ⟨0x1D + r, 39, 37⟩
def RAIL_STAT_TRIES (r : Nat) : Fld := ⟨0x1D + r, 36, 34⟩
def RAIL_STAT_STATUS_WORD (r : Nat) : Fld := ⟨0x1D + r, 31, 16⟩
def RAIL_STAT_VOUT (r : Nat) : Fld := ⟨0x1D + r, 15, 0⟩
def THERM : Fld := ⟨0x21, 39, 0⟩
def THERM_SHUT : Fld := ⟨0x21, 15, 8⟩
def THERM_THROTTLE : Fld := ⟨0x21, 7, 0⟩
def PMB_COUNT : Fld := ⟨0x22, 39, 0⟩
def PMB_COUNT_PEC_ERR : Fld := ⟨0x22, 31, 16⟩
def PMB_COUNT_NACK : Fld := ⟨0x22, 15, 0⟩
def STATUS_THROTTLE : Fld := ⟨0x02, 5, 5⟩
def STATUS_RAIL : Fld := ⟨0x02, 4, 1⟩
def STATUS_BUSY : Fld := ⟨0x02, 0, 0⟩
def FLAG_REQ_IGNORED : Fld := ⟨0x04, 6, 6⟩
def FLAG_PMB_ERR : Fld := ⟨0x04, 5, 5⟩
def FLAG_THROTTLE : Fld := ⟨0x04, 4, 4⟩
def FLAG_RAIL_FAIL : Fld := ⟨0x04, 3, 3⟩
def FLAG_WAKE_FAIL : Fld := ⟨0x04, 2, 2⟩
def FLAG_WAKE : Fld := ⟨0x04, 0, 0⟩
def FAULT_RAIL : Fld := ⟨0x07, 4, 1⟩
def FAULT_CFG : Fld := ⟨0x07, 0, 0⟩
end PWR

/-! Fields of the CLK page. -/
namespace CLK
def CFG : Fld := ⟨0x10, 39, 0⟩
def CFG_XTAL_TIMEOUT : Fld := ⟨0x10, 23, 16⟩
def CFG_AUTO_RESTORE : Fld := ⟨0x10, 8, 8⟩
def CMD : Fld := ⟨0x11, 39, 0⟩
def CMD_RESTORE : Fld := ⟨0x11, 0, 0⟩
def MEAS : Fld := ⟨0x12, 39, 0⟩
def MEAS_RC_ERR : Fld := ⟨0x12, 31, 16⟩
def MEAS_LOSSES : Fld := ⟨0x12, 15, 0⟩
def STATUS_SRC : Fld := ⟨0x02, 3, 2⟩
def STATUS_SYN_LOCK : Fld := ⟨0x02, 1, 1⟩
def STATUS_BUSY : Fld := ⟨0x02, 0, 0⟩
def READY_SYN : Fld := ⟨0x03, 3, 3⟩
def READY_REF : Fld := ⟨0x03, 2, 2⟩
def READY_CCLK : Fld := ⟨0x03, 1, 1⟩
def READY_READY : Fld := ⟨0x03, 0, 0⟩
def FLAG_FALLBACK : Fld := ⟨0x04, 3, 3⟩
def FLAG_REF_BACK : Fld := ⟨0x04, 2, 2⟩
def FLAG_REF_LOST : Fld := ⟨0x04, 1, 1⟩
def FLAG_SYN_UNLOCK : Fld := ⟨0x04, 0, 0⟩
def FAULT_SYN : Fld := ⟨0x07, 2, 2⟩
def FAULT_REF_LOSS : Fld := ⟨0x07, 1, 1⟩
def FAULT_CFG : Fld := ⟨0x07, 0, 0⟩
end CLK

/-! Fields of the TST page. -/
namespace TST
def ARM : Fld := ⟨0x10, 39, 0⟩
def ARM_KEY : Fld := ⟨0x10, 7, 0⟩
def INJ : Fld := ⟨0x11, 39, 0⟩
def INJ_GO : Fld := ⟨0x11, 39, 39⟩
def INJ_UNIT : Fld := ⟨0x11, 15, 8⟩
def INJ_INSTANCE : Fld := ⟨0x11, 7, 0⟩
def LAST : Fld := ⟨0x12, 39, 0⟩
def LAST_UNIT : Fld := ⟨0x12, 39, 32⟩
def LAST_INSTANCE : Fld := ⟨0x12, 31, 24⟩
def LAST_CLASS : Fld := ⟨0x12, 23, 16⟩
def LAST_RESULT : Fld := ⟨0x12, 15, 8⟩
def SEQ : Fld := ⟨0x13, 39, 0⟩
def SEQ_SEQ : Fld := ⟨0x13, 31, 0⟩
def COUNT : Fld := ⟨0x14, 39, 0⟩
def COUNT_DETECTED : Fld := ⟨0x14, 31, 16⟩
def COUNT_MISSED : Fld := ⟨0x14, 15, 0⟩
def STATUS_ARMED : Fld := ⟨0x02, 1, 1⟩
def STATUS_BUSY : Fld := ⟨0x02, 0, 0⟩
def READY_READY : Fld := ⟨0x03, 0, 0⟩
def FLAG_REFUSED : Fld := ⟨0x04, 2, 2⟩
def FLAG_MISSED : Fld := ⟨0x04, 1, 1⟩
def FLAG_DETECTED : Fld := ⟨0x04, 0, 0⟩
def FAULT_MISSED : Fld := ⟨0x07, 1, 1⟩
def FAULT_CFG : Fld := ⟨0x07, 0, 0⟩
end TST

/-! Fields of the FLT page. -/
namespace FLT
def CFG : Fld := ⟨0x10, 39, 0⟩
def CFG_RESIGN_ON : Fld := ⟨0x10, 15, 1⟩
def CFG_RECORD_EN : Fld := ⟨0x10, 0, 0⟩
def CMD : Fld := ⟨0x11, 39, 0⟩
def CMD_RELEASE : Fld := ⟨0x11, 7, 0⟩
def LAST : Fld := ⟨0x12, 39, 0⟩
def LAST_CLASS : Fld := ⟨0x12, 39, 32⟩
def LAST_PAGE : Fld := ⟨0x12, 31, 24⟩
def LAST_CODE : Fld := ⟨0x12, 23, 16⟩
def LAST_ACTION : Fld := ⟨0x12, 15, 8⟩
def LAST_PORT : Fld := ⟨0x12, 7, 0⟩
def KEEP_ADDR : Fld := ⟨0x13, 39, 0⟩
def KEEP_ADDR_LINE : Fld := ⟨0x13, 20, 3⟩
def RESIGN : Fld := ⟨0x14, 39, 0⟩
def RESIGN_COUNT : Fld := ⟨0x14, 23, 16⟩
def RESIGN_RECORD_DONE : Fld := ⟨0x14, 7, 7⟩
def RESIGN_SAFE_DONE : Fld := ⟨0x14, 6, 6⟩
def RESIGN_RF_OFF : Fld := ⟨0x14, 5, 5⟩
def RESIGN_CAUSE : Fld := ⟨0x14, 2, 0⟩
def SUPPLY : Fld := ⟨0x15, 39, 0⟩
def SUPPLY_CCLK_STOP : Fld := ⟨0x15, 3, 3⟩
def SUPPLY_AON_LOW : Fld := ⟨0x15, 2, 2⟩
def SUPPLY_ANA_OUT : Fld := ⟨0x15, 1, 1⟩
def SUPPLY_CORE_OUT : Fld := ⟨0x15, 0, 0⟩
def WATCH : Fld := ⟨0x16, 39, 0⟩
def WATCH_ROUNDS : Fld := ⟨0x16, 31, 8⟩
def WATCH_PAGE : Fld := ⟨0x16, 7, 0⟩
def TOTAL : Fld := ⟨0x17, 39, 0⟩
def TOTAL_COUNT : Fld := ⟨0x17, 31, 0⟩
def KEEP (k : Nat) : Fld := ⟨0x18 + k, 39, 0⟩
def KEEP_WORD (k : Nat) : Fld := ⟨0x18 + k, 39, 0⟩
def COUNTn (n : Nat) : Fld := ⟨0x20 + n, 39, 0⟩
def COUNTn_COUNT (n : Nat) : Fld := ⟨0x20 + n, 15, 0⟩
def STATUS_RESIGNED : Fld := ⟨0x02, 1, 1⟩
def STATUS_BUSY : Fld := ⟨0x02, 0, 0⟩
def READY_READY : Fld := ⟨0x03, 0, 0⟩
def FLAG_DROPPED : Fld := ⟨0x04, 3, 3⟩
def FLAG_RESIGN : Fld := ⟨0x04, 2, 2⟩
def FLAG_KEPT : Fld := ⟨0x04, 1, 1⟩
def FLAG_RECORD : Fld := ⟨0x04, 0, 0⟩
def FAULT_CLASS : Fld := ⟨0x07, 15, 1⟩
def FAULT_CFG : Fld := ⟨0x07, 0, 0⟩
end FLT

end Sys2Proof.Machine
end

