-- ==== Sys2Proof/Machine/AMap.lean ====
section
/-! DEFINITION. Sparse maps from natural numbers in one canonical form: a list of key and value pairs, keys strictly
rising, no entry equal to what an unlisted key reads as.  Registers and memories are held in this form. -/

namespace Sys2Proof.Machine.AMap

variable {β : Type}

/-- The value listed for a key. -/
def find (k : Nat) : List (Nat × β) → Option β
  | [] => none
  | (a, v) :: t => if a = k then some v else find k t

/-- What a key reads as, `d` giving the unlisted ones. -/
def get (d : Nat → β) (l : List (Nat × β)) (k : Nat) : β := (find k l).getD (d k)

/-- The list without a key. -/
def erase (k : Nat) (l : List (Nat × β)) : List (Nat × β) := l.filter fun e => e.1 ≠ k

/-- The list with a key set, in rising order. -/
def insert (k : Nat) (v : β) : List (Nat × β) → List (Nat × β)
  | [] => [(k, v)]
  | (a, w) :: t => if k < a then (k, v) :: (a, w) :: t else if a = k then (k, v) :: t else (a, w) :: insert k v t

/-- A write: the value that an unlisted key reads as removes the entry. -/
def set [DecidableEq β] (d : Nat → β) (l : List (Nat × β)) (k : Nat) (v : β) : List (Nat × β) :=
  if v = d k then erase k l else insert k v l

/-- Keys strictly rising from a bound. -/
def rising : Option Nat → List (Nat × β) → Bool
  | _, [] => true
  | none, (a, _) :: t => rising (some a) t
  | some b, (a, _) :: t => decide (b < a) && rising (some a) t

/-- The canonical form. -/
def wf [DecidableEq β] (d : Nat → β) (l : List (Nat × β)) : Bool :=
  rising none l && l.all fun e => decide (e.2 ≠ d e.1)

end Sys2Proof.Machine.AMap
end

