-- ==== Sys2Proof/Machine/State.lean ====
section
/-! DEFINITION. The state of a Board, as plain data.  Everything a register shows is held in the register file; the
structures beside it hold what the spec gives the blocks and no register shows.  `State.reset` is the Board right after
reset. -/

namespace Sys2Proof.Machine

open Sys2Proof

/-- Who uses an angle comparator (R56, R57). -/
inductive CmpUser where
  | alarm (n : Nat)
  | waitAngle (c : Nat)
  | rf (c : Nat)
  | lateLimit (c : Nat)
  | lslot (s : Nat)
  | chainDel (ch angle : Nat)
  | round
  | syncOut
  | apply
  | window
  deriving DecidableEq, Repr

/-- An armed angle comparator: its target and the advance still missing, in 2^-16 phase units; `waiting` while the
angle does not yet run (R56). -/
structure Cmp where
  user : CmpUser
  periodic : Bool
  target : Nat
  left : Nat
  waiting : Bool
  deriving DecidableEq, Repr

/-- The Cycle Angle unit: the duplicated accumulator (R40, R64), the loop (R50) and what was taken from the
configuration at the enable or the latest boundary (R47); the CCLK it has counted, and while it counts on RC ticks the time of the
next tick (R62). -/
structure Ang where
  running : Bool
  starting : Bool
  acc : Nat
  acc2 : Nat
  freq : Nat
  base : Nat
  slew : Int
  deferred : Option Nat
  rates : List (Nat × Nat)
  edgeAt : Nat
  pred : Nat
  rateOld : Nat
  rateAt : Nat
  edges : Nat
  closed : Nat
  missRun : Nat
  accRun : Nat
  lockRun : Nat
  src : Nat
  pol : Nat
  deglitch : Nat
  offset : Nat
  preset : Nat
  bw : Nat
  missLimit : Nat
  acqEdges : Nat
  window : Nat
  holdWindow : Nat
  period : Nat
  periodNext : Option Nat
  vcount : Nat
  syncOut : Bool
  clk : Nat
  tickAt : Option Nat
  deriving DecidableEq, Repr

/-- A pending delivery of an event channel (R279, R280, R289): the edge it is due on, or the launch angle of a
chain-linked one, with its hop count. -/
structure Delivery where
  ch : Nat
  due : Nat
  hop : Nat
  chain : Bool
  angle : Nat
  unaligned : Bool
  deriving DecidableEq, Repr

/-- A Match chain cell (R70, R71). -/
structure Cell where
  type : Nat
  src : Nat
  seq : Nat
  tag : Nat
  payload : Nat
  deriving DecidableEq, Repr

/-- A cell of this Board on its way round the ring: when it was sent, whether it is the resent copy (R73). -/
structure Flight where
  cell : Cell
  at_ : Nat
  copy : Bool
  deriving DecidableEq, Repr

/-- The Match chain logic outside registers: SEQ per type and the last SEQ accepted per originator and type (R73), cells
waiting for a slot and cells under way (R72), the latest cell on MDATO, alignment runs (R70), ENUMO (R74), the role
(R68), HELLOs held (R76), ranging and the loss of the chain angle (R77–R80, R87), until when the head fills a ring that it has ranged
anew with cells of its own (R69). -/
structure Mch where
  seqs : List (Nat × Nat)
  seen : List (Nat × Nat)
  queue : List Cell
  flights : List Flight
  mdato : Cell
  skip : Bool
  goodRun : Nat
  badRun : Nat
  aligned : Bool
  enumo : Bool
  roleSet : Bool
  head : Bool
  hellos : List Nat
  rangedOnce : Bool
  reopen : Bool
  rateHold : Nat
  gotRate : Bool
  lost : Bool
  mclkLost : Bool
  dup : Bool
  release : Bool
  fillTo : Nat
  deriving DecidableEq, Repr

/-- A record waiting in the Scoresheet queue (R308, R310). -/
structure ScoRec where
  kind : Nat
  angle : Nat
  arbseq : Nat
  uptime : Nat
  flags : Nat
  payload : List Nat
  deriving DecidableEq, Repr

/-- What a fault report says beyond its page and code (R415). -/
structure FaultInfo where
  cls : Nat
  action : Nat := 0
  interrupt : Nat := 0
  ctx : Nat := 0xFF
  port : Nat := 0xFF
  deriving DecidableEq, Repr

/-- A report that the fault manager takes up at the end of its edge (R414): page, code, the page's FAULT register and DETAIL as
they stood (R415), whether an injection caused it (R424). -/
structure Report where
  page : Nat
  code : Nat
  info : FaultInfo
  fault : List Nat
  detail : List Nat
  inj : Bool
  deriving DecidableEq, Repr

/-- The fault manager (R414–R418): when each class was last recorded, the faults of each class since its record, the
Resign request not yet taken, the reports of this edge. -/
structure Flt where
  recorded : List (Nat × Nat)
  surplus : List (Nat × Nat)
  request : Nat
  resignClass : Nat
  keptWrites : Nat
  reports : List Report
  asked : Nat
  deriving DecidableEq, Repr

/-- The host port outside registers (R363–R366): the report queue, the words of the unit in progress, whether they are
sent again, the bytes the Board drove in answer to the latest frame or window read, the latest result recorded and the poison of
the latest READ (R353, R354). -/
structure Hpt where
  rpt : List Nat
  unit : Nat
  resent : Bool
  out : List Nat
  result : Nat
  psn : Bool
  deriving DecidableEq, Repr

/-- The scrubber's pass (R329): when it began, its PERIOD, whether PERIOD was written during it, when the line began. -/
structure Scb where
  passAt : Nat
  passPeriod : Nat
  written : Bool
  lineAt : Nat
  deriving DecidableEq, Repr

/-- A request the PMBus sequencer serves (R394–R397): the rail, what is done (0 up, 1 a raise, 2 off, 3 a lowering, 4 the
safe request, 5 after a failed attempt), its rank, the commands still to send, the repeats of the command on the bus. -/
structure Job where
  rail : Nat
  op : Nat
  prio : Nat
  todo : List Nat
  reps : Nat
  deriving DecidableEq, Repr

/-- A supply rail outside registers (R395): requested and acknowledged voltage in mV (0 none), the VOUT_MODE exponent,
the STATUS_WORD of the polling pair, the rank of its latest request, the attempts made for it. -/
structure Rail where
  req : Nat
  ack : Nat
  expo : Nat
  sw : Nat
  prio : Nat
  tries : Nat
  deriving DecidableEq, Repr

/-- Power and clocks outside registers: CORE powered and out of reset, CCLK running, the rails and the sequencer (R394),
the bytes of the latest PMBus transaction, the request held (R390) as cause and mode, the cause of a wake or return (R391);
the mode an entry leads to, its phase (0 none, 1 contexts and fields, 2 external memory, 3 Scoresheet, 4 ending) and the end
of the drain, whether a wake source arrived during it (R405); a reset start-up whose self-test is still to come (R401); the reference
passes its check (R398), CCLK fell back from it or never had it in time, a RESTORE is taken (R399, R400), the synthesiser lost lock and has not locked since (R400); thermal shutdown
(R404); the tune copy (R393); the MODE record that AON holds for the Scoresheet (R392). -/
structure Pwr where
  core : Bool
  cclk : Bool
  rails : List Rail
  jobs : List Job
  wire : List Nat
  held : Option (Nat × Nat)
  cause : Nat
  target : Nat
  phase : Nat
  drainAt : Nat
  back : Bool
  fromReset : Bool
  refOk : Bool
  fell : Bool
  restore : Bool
  unlocked : Bool
  hot : Bool
  tunes : List (Nat × Word)
  modeRec : Option (List Nat)
  deriving DecidableEq, Repr

/-- A Conductor context outside registers (R251–R270): call stack, the move in flight, LAST_LAUNCH when it was issued,
its target, the angle up to which it may wait, the status its block has reported, whether it is a re-run (R270), the
stop a halt or disable leads to, the address that a BRANCH, CALL or RETURN gives, the words gathered for it and the first
poisoned one, the words a COPY has moved, whether a block or access has taken the move (R268). -/
structure Ctx where
  stack : List Nat
  move : Option Instr
  base : Nat
  target : Option Nat
  lateAt : Nat
  ended : Option Nat
  again : Bool
  stopAs : Option Nat
  next : Option Nat
  words : List Nat
  psn : Option Nat
  copied : Nat
  committed : Bool
  deriving DecidableEq, Repr

/-- A field's ramps as captured (R101, R102): the amplitude codes of the steps of either ramp and the length of a step in CCLK. -/
structure Ramp where
  up : List Nat
  upStep : Nat
  down : List Nat
  downStep : Nat
  deriving DecidableEq, Repr

/-- A field move that waits until the chain's own auto-tune has ended: what it asks for (1 field-on, 2 field-off), its context, hop and
port, whether its launch has come. -/
structure Held where
  act : Nat
  ctx : Option Nat
  hop : Nat
  port : Nat
  fired : Bool
  deriving DecidableEq, Repr

/-- A transmit chain outside registers: the pending action (0 none, 1 field-on, 2 field-off, 3 auto-tune, 4 a field-on ramping, 5 a cross-Board drive, 6 a field-off ramping) with its
context, port and launch and the edge of the launch boundary, a move held back by the auto-tune, the port its switch holds and from
when, the ramps in force and those captured for the field to come (R102), the planned phase (R119), the power in force (R99), the edge
on which the ramp in progress began and the amplitude it began from,
what follows the ramp-down and since when its status stands, the scan of an auto-tune with its readings and the half reading in hand (R96),
the takeover in progress with its Wing and port (R113), the runs of qualifying means (R111, R112), whether LEVEL was
limited since the field-on (R241) and a reply came in the field (R245), the depth of the reader frame in flight in 0.1 %, 0 between
frames (R106, R107); `level` is 1 more than the level of a cross-Board drive,
0 without one (R305). -/
structure Txc where
  act : Nat
  ctx : Option Nat
  hop : Nat
  port : Nat
  fired : Bool
  launchAt : Nat
  held : Option Held
  sw : Option Nat
  swAt : Nat
  ramp : Ramp
  capt : Option Ramp
  phase : Nat
  level : Nat
  lev : Nat
  since : Nat
  reached : Nat
  next : Option Nat
  endSt : Option Nat
  endAt : Nat
  offBy : Nat
  opening : Bool
  tunePage : Nat
  resPage : Nat
  scanning : Bool
  scan : List Nat
  half : Option Nat
  takeover : Nat
  carry : Bool
  tookAt : Nat
  tookPort : Nat
  tookOn : Nat
  release : Bool
  fwdRun : Nat
  reflRun : Nat
  injUntil : Nat
  limited : Bool
  heard : Bool
  ask : Nat
  deriving DecidableEq, Repr

/-- A receive chain outside registers: the context that uses it, the tap it has closed, the port last selected, whether a move
named it, and from when it is closed (R129, R130), until when its samples are blanked and when its grid of check-tone blocks began (R133,
R134), the noise blocks (R138), the AGC gate (R136), the class of the listen (R198); of the frame in progress or latest received
the energy of its long symbols and their number (R141), its mark, its bits in order, those that collided with the amplitudes of their
halves (R143–R145), when it started and at which angle, the axis of its subcarrier (R143), when its preamble was detected and when its
timing origin lay (R139, R140); the check-tone run (R134, R149), when the capture began to write, its progress, and the edge of its trigger with the CAP_TRIG before it (R147, R152), a takeover
or release in progress (R149, R151), the hop that a capture task gave (R284). -/
structure Rxc where
  ctx : Option Nat
  tap : Option Nat
  last : Option Nat
  named : Bool
  tapAt : Nat
  blankTo : Nat
  gridAt : Nat
  blitz : Bool
  classes : Nat
  noise : List (Nat × Nat)
  gated : Bool
  begun : Bool
  power : Nat
  powerN : Nat
  mark : Nat
  raw : List Bool
  colls : List (Nat × Nat × Nat)
  startAt : Nat
  startAngle : Nat
  axis : Int × Int
  detAt : Nat
  t0 : Nat
  checkRun : Nat
  capAt : Nat
  written : Nat
  trigWas : Nat × Nat
  tookAt : Nat
  tookFor : Nat
  takeover : Bool
  release : Bool
  injBlocks : Nat
  capHop : Nat
  deriving DecidableEq, Repr

/-- An end that a transmit field or a receive chain imposes on the other work of a Wing: its status and, from a receive
chain, the mark of the record (R149, R152, R182); `own` for the end of what the inventory itself began on the Wing. -/
structure WingEnd where
  wing : Nat
  status : Nat
  mark : Option Nat
  own : Bool
  deriving DecidableEq, Repr

/-- Timed steps of the Board that no command of the table names: the steps of a receive takeover (R149), the command
after a quiet listen (R210), the end of a lockstep recovery (R269), the end of the drive of a cross-Board measurement
(R305), the end of a forced window (R299), the end of a low pulse at RESIGN_N (R417), step 2 of an entry (R390), the end of the
condition at supply monitor `u` (R412, R423), the injecting edge of a GO for a unit and instance, with its Arbiter number (R424), the end of a SOFT_RESET (R36);
on the Match chain a slot that leaves MDATO, free or with a cell, the head's next slot of its own (R69) and the latest end of ranging (R77);
the start and the end of a reader frame of Wing `w` (R157), the comparison of the modulation of chain `n` with its neighbours, the cycle on which that of chains `n` and `m` differs (R121), the opening of a failed chain's tap (R149), the arming of a capture after another (R152); of a transmit chain a LEVEL written in a field (R99), the next half of an auto-tune's point (R96), a step of the takeover (R113); the next
port boundary of a sweep that is to stop (R37). -/
inductive Tm where
  | rxServe
  | rxReady
  | soundSend (w : Nat)
  | lockstep
  | xbOff
  | calCut
  | resignHigh
  | entryHalt
  | supplyBack (u : Nat)
  | tstMark (unit inst seq : Nat)
  | softDone (page : Nat)
  | slotOut (c : Cell) (free : Bool)
  | cellSlot
  | rangeEnd
  | levelStep (n : Nat)
  | scanStep (n : Nat)
  | txServe
  | kbzStop
  | frameStart (w : Nat)
  | frameOut (w : Nat)
  | askCheck (n : Nat)
  | askDiff (n m : Nat)
  | tapOpen (n : Nat)
  | capArm (n : Nat)
  | simulAt
  | xbTap (n port : Nat)
  | xrstHigh
  deriving DecidableEq, Repr

/-- A flash operation (R380, R383): a program of one page's bytes or an erase, its device, window offset, region size,
and who waits for it: a context, 254 the Scoresheet, 255 the host. -/
structure XmpOp where
  erase : Bool
  dev : Nat
  off : Nat
  bytes : List Nat
  size : Nat
  owner : Nat
  deriving DecidableEq, Repr

/-- A line delivered to the consumers that wait for it, and when: `data` is none when its fetch failed (R378). -/
structure XmpLine where
  line : Nat
  data : Option (List Nat)
  at_ : Nat
  deriving DecidableEq, Repr

/-- The external memory port outside registers: buffered lines, most recently used first (R377), lines being fetched
(with a mark for prefetches), lines delivered on this edge, consumers waiting for lines, the operations running, queued
(R381) and not yet taken into the queue, XRST_N, discovery ended, what CFG gave at the enable, suspend listed per
device, failed attempts of the fetch in progress (R378). -/
structure Xmp where
  lines : List (Nat × List Nat)
  want : List (Nat × Bool)
  once : List XmpLine
  waiters : List (List Nat × Instr)
  running : List XmpOp
  queue : List XmpOp
  backlog : List XmpOp
  xrst : Bool
  discovered : Bool
  modeMax : Nat
  freq : Nat
  suspend : Nat
  tries : Nat
  deriving DecidableEq, Repr

/-- A branch that an anticollision procedure has stored (R176, R179): the UID bytes of the completed cascade levels and
the known bits of the level, or mask length and mask. -/
structure Branch where
  levels : List (List Nat)
  bits : List Bool
  len : Nat
  mask : Nat
  deriving DecidableEq, Repr

/-- What an anticollision procedure awaits (R174, R178, R179). -/
inductive AcPhase where
  | wake
  | atqa
  | reselect
  | bits
  | sak
  | halt
  | slot
  | attrib
  | hltb
  | vselect
  | quiet
  deriving DecidableEq, Repr

/-- An anticollision procedure in progress (R171–R179). -/
structure Ac where
  proto : Nat
  wake : Bool
  hold : Bool
  quiet : Bool
  result : Nat
  max : Nat
  found : Nat
  silent : Nat
  uids : List (List Nat)
  stack : List Branch
  phase : AcPhase
  coll : Bool
  dropped : Bool
  atqa : Nat
  levels : List (List Nat)
  bits : List Bool
  resel : List (List Nat)
  len : Nat
  mask : Nat
  mlen : Nat
  mmask : Nat
  slot : Nat
  exp : Nat
  heard : Nat
  garbled : Nat
  deriving DecidableEq, Repr

/-- A reader frame (R158): its kind and rates, whether a CRC goes with it, an I-block prologue is still to be put before it and a
reply is awaited, its bytes, the bits of the last byte, the reply wait and the window of the reply time in carrier cycles (R164–R170). -/
structure TxFrame where
  kind : Nat
  rate : Nat
  rrate : Nat
  crc : Bool
  p4 : Bool
  expect : Bool
  bytes : List Nat
  lastBits : Nat
  wait : Nat
  lo : Nat
  hi : Nat
  deriving DecidableEq, Repr

/-- A Sealed write in progress (R240–R243): the port, entry and job, what the job says, the step, the retries used, and
whether the STATUS under way decides a step 4 whose SEAL drew no answer, the moves run on the job. -/
structure SealSt where
  port : Nat
  entry : Nat
  job : Nat
  addr : Nat
  len : Nat
  crc : Nat
  gen : Nat
  genCheck : Bool
  data : List Nat
  step : Nat
  tries : Nat
  reading : Bool
  deciding : Bool
  tstat : Nat
  resumed : Bool
  moves : Nat
  deriving DecidableEq, Repr

/-- What a Wing's protocol engine and Blitz lane are doing. -/
inductive Prog where
  | idle
  | send
  | exchange
  | anti (a : Ac)
  | blitz
  | gambit (rate : Nat) (again : Bool) (reload : Bool)
  | gambitWait (ans1 ans2 : Nat)
  | reload (id : Nat)
  | sound (quiet gain : Nat) (coloured : Bool)
  | book (id : Nat)
  | seal (q : SealSt)
  | legacySeal (job : Nat)
  | confirm
  | probe
  | rewake (levels : List (List Nat)) (selecting : Bool)
  deriving DecidableEq, Repr

/-- A protocol engine with the Blitz lane of its Wing: whom it serves (a context, or 32 + w for the inventory), its
receive chain and port, the PRT registers captured at the start of the move (R157), the latest reader frame and its bytes,
one handed on that has not ended with the edge on which it begins, whether it is in flight and on which transmit chain, what its end leads to and what is awaited
(0 nothing, 1 a legacy, 2 a Blitz reply) until when, the end of the latest reader frame and of the latest tag frame, the start of the
latest REQA or WUPA and the end of the frame that drew an empty slot (R164–R166), an S(WTX) request not yet answered (R170), the
receive record, the status with which an ordered end waits for a frame in flight or a reply that has begun (R182), mismatches within
10 ms (R181), the FWI of the latest ATQB; of the lane the command's SEQ and tone set, the header, the Book words applied and whether one was (R208), its mismatches. -/
structure Eng where
  user : Option Nat
  chain : Nat
  port : Nat
  cfg : List Word
  frame : TxFrame
  wire : List Nat
  air : Option (Nat × TxFrame)
  flying : Bool
  sender : Nat
  hear : Nat
  await : Nat
  waitAt : Option Nat
  airEnd : Option Nat
  tagAt : Option Nat
  reqAt : Option Nat
  emptyAt : Option Nat
  wtx : Bool
  dest : Option Nat
  limit : Nat
  prog : Prog
  stop : Option Nat
  mism : List Nat
  fwi : Nat
  seq : Nat
  set : Nat
  hdr : List Nat
  book : Nat × Nat
  booked : Bool
  laneMism : List Nat
  deriving DecidableEq, Repr

/-- A Wing in an inventory round (R223–R227, R243): its port (255 none); phase 0 nothing, 1 field coming, 2 its procedure,
3 resuming Sealed writes, 4 ramping down; CONFIRM rather than PROBE or discovery; the entries or protocols still to do and
the one in hand, with the step in it, whether a frame start was heard, the entries confirmed or matched; the entries whose
Sealed write is to be resumed. -/
structure InvWing where
  port : Nat
  phase : Nat
  confirm : Bool
  todo : List Nat
  cur : Nat
  sub : Nat
  heard : Bool
  ok : List Nat
  seals : List Nat
  deriving DecidableEq, Repr

/-- The inventory scheduler outside registers (R223–R229): the context whose move started the pass and the one that waits
for its end, the hop of its events; a discovery pass, after which timed passes resume; the plan words read with their
marks; the pass number, the next round, one in flight, the last one's end; the cycle of slot 0 and the latest cycle used;
the Wings; mismatches within 10 ms; out of service; the hop of a task's start that waits for plan lines (R284). -/
structure Inv where
  ctx : Option Nat
  waits : List Nat
  hop : Nat
  disc : Bool
  resume : Bool
  plan : List (Nat × Bool)
  pass : Nat
  round : Nat
  inRound : Bool
  ending : Bool
  c0 : Nat
  cyc : Nat
  wings : List InvWing
  mism : List Nat
  oos : Bool
  wantHop : Nat
  deriving DecidableEq, Repr

/-- Kibitz outside registers (R231–R235): the port of the sweep, when it began, the hits in a row on it, the pings of each
port since LEARN began, the eight fraction bits of the four values of each baseline, what a DOZE entry kept of the
configuration (R232), whether a sweep is due at the end of the one in progress, when each port's CAP was written last
(R246) and what the bank held before (R94), the hops of the sweep and of the next one (R284), whether the sweep stops at the next port
boundary (R37), the port in hand, as it was found pingable at its ping's start (R232). -/
structure Kbz where
  next : Nat
  hits : Nat
  began : Nat
  learn : List (Nat × Nat)
  frac : List (Nat × Nat)
  kept : List (Nat × Word)
  waited : Bool
  capAt : List (Nat × Nat)
  capWas : List (Nat × Nat)
  hop : Nat
  hopNext : Nat
  stopping : Bool
  hand : Option Nat
  deriving DecidableEq, Repr

/-- The statistical reference of a calibration instance (R301): the first value adopted after the enable, D with its
eight fraction bits, the candidate held unconfirmed. -/
structure CalRef where
  first : Nat
  dev : Nat
  held : Option Nat
  deriving DecidableEq, Repr

/-- The built-in background work outside registers (R295–R306): the instances due and since when, the references; the
corrections pending, by register (R302); the carrier advance in force; the run in progress (0 none, 1 TXP, 2 RXP, 3 SYN,
4 a cross-Board drive, 5 a cross-Board listen), its Wing and instances, whether it is forced; the instances starved, the
Wings owed a forced window and when each had its latest; TJ at SYN's latest adoption; the armed cross-Board measurement
(role, port, slot, level). -/
structure Cal where
  due : List (Nat × Nat)
  refs : List (Nat × CalRef)
  pend : List (Nat × Word)
  advance : Nat
  stage : Nat
  wing : Nat
  todo : List Nat
  forced : Bool
  starved : List Nat
  owed : List Nat
  forcedAt : List (Nat × Nat)
  synT : Nat
  xb : Option (Nat × Nat × Nat × Nat)
  deriving DecidableEq, Repr

/-- The Scoresheet outside registers (R310, R312): the operation in progress (0 none, 1 a record, 2 a sector erase, 3 a
header), the sector at the head or being prepared, failures in it, whether a format is under way; what TELEMETRY
counts and the highest TJ since the latest such record (R309); the SSEQ of the header being written. -/
structure Sco where
  op : Nat
  sector : Nat
  fails : Nat
  format : Bool
  tel : List Nat
  telMax : Nat
  sseq : Nat
  deriving DecidableEq, Repr

/-- Balls and test logic: the levels at the GPIO balls (R288, R391), RESIGN_N low (R417), the instruction in force in the test access
port (R450); HCLK has toggled in this high period of HSEL_N (R361); the page whose next configuration watch an injection
spoils, an injection into the external memory port (R423). -/
structure Pins where
  gpio : Nat
  resignLow : Bool
  tap : Nat
  noSel : Bool
  watchInj : Option Nat
  xmpInj : Bool
  deriving DecidableEq, Repr

/-- What has reached the registers on one CCLK edge (R13, R38): the edge, the W1C bits that hardware or FLAG_SET has set, by register,
the registers written and the latest place in the order Conductor 0, Match chain 1, host 2 of a writer, the pages locked, the registers
written as they stood before (R274), and the channels that HOST has been presented to (R286). -/
structure Touch where
  at_ : Nat
  sets : List (Nat × Word)
  writes : List (Nat × Nat)
  locks : List Nat
  olds : List (Nat × Word)
  fired : Nat
  deriving DecidableEq, Repr

/-- The state of a Board.  `mirror` lists by register the bits in which the copies of TXC0–TXC7 and RXC0–RXC15 that TXC8 and RXC16 keep
differ from the pages (R113, R149); `touch` is what has reached registers on the latest edge; `resetting` the pages whose SOFT_RESET is not yet
complete (R36); `edge` is what the Arbiter has numbered on the latest edge that had anything to number: the edge, and in
the order of R282 the rank of each happening and where its number is shown. -/
structure State where
  pending : List Instr
  now : Nat
  agenda : List (Nat × Instr)
  regs : List (Nat × Word)
  regPsn : List Nat
  crcHeld : List (Nat × Nat)
  sram : List Host.Cell
  parity : List Host.Cell
  free : Nat
  cmps : List Cmp
  ang : Ang
  deliveries : List Delivery
  mch : Mch
  scoQueue : List ScoRec
  flt : Flt
  hpt : Hpt
  scb : Scb
  poisonEdge : Nat
  codecInj : Bool
  memPhase : Nat
  bistBank : Nat
  cku : List Nat
  pwr : Pwr
  ctxs : List Ctx
  txc : List Txc
  wingEnds : List WingEnd
  rxc : List Rxc
  timers : List (Nat × Tm)
  xmp : Xmp
  engs : List Eng
  inv : Inv
  rates : List (Nat × Nat)
  kbz : Kbz
  lockMism : List Nat
  slot : Nat
  fires : List (Nat × Nat)
  trig : List (Nat × Nat × Bool)
  cal : Cal
  sco : Sco
  pins : Pins
  edge : Nat × List (Nat × Nat)
  touch : Touch
  resetting : List Nat
  mirror : List (Nat × Word)
  deriving DecidableEq, Repr

/-- The machine stops with a fault: none is raised, every command of the table has its effect. -/
inductive Fault where
  /-- Raised by no command: the spec gives every happening an effect (safe). -/
  | none
  deriving DecidableEq, Repr

/-- A command without a meaning. -/
inductive Refusal where
  /-- Raised by an arm of the dispatch that has no meaning yet (safe: the machine stops). -/
  | notModelled (mnemonic : String)
  deriving DecidableEq, Repr

/-- The Cycle Angle unit after reset (R48: not enabled). -/
def Ang.reset : Ang :=
  { running := false, starting := false, acc := 0, acc2 := 0, freq := 0, base := 0, slew := 0, deferred := Option.none, rates := [], edgeAt := 0,
    pred := 0, rateOld := 0, rateAt := 0, edges := 0, closed := 0, missRun := 0,
    accRun := 0, lockRun := 0, src := 0, pol := 0, deglitch := 8, offset := 0, preset := 0, bw := 4, missLimit := 4,
    acqEdges := 4, window := 2048, holdWindow := 16384, period := 4339200, periodNext := Option.none, vcount := 0,
    syncOut := false, clk := 0, tickAt := some 0 }

/-- The Match chain logic after reset. -/
def Mch.reset : Mch :=
  { seqs := [], seen := [], queue := [], flights := [], mdato := ⟨15, 62, 0, 0, 0⟩, skip := false, goodRun := 0,
    badRun := 0, aligned := false, enumo := false, roleSet := false, head := false, hellos := [], rangedOnce := false, reopen := false,
    rateHold := 0, gotRate := false, lost := false, mclkLost := false, dup := false, release := false,
    fillTo := 0 }

/-- A rail that is off. -/
def Rail.reset : Rail := { req := 0, ack := 0, expo := 0, sw := 0, prio := 1, tries := 0 }

/-- Power and clocks right after a reset: the start-up of R401 has begun with rail 0, cause 9 (R401, R405). -/
def Pwr.reset : Pwr :=
  { core := false, cclk := false, rails := [{ Rail.reset with req := 800, tries := 1 }, Rail.reset, Rail.reset, Rail.reset],
    jobs := [{ rail := 0, op := 0, prio := 1, todo := [0x03, 0x20, 0x21, 0x01], reps := 0 }], wire := [],
    held := none, cause := 9, target := 0, phase := 0, drainAt := 0, back := false, fromReset := true, refOk := false,
    fell := false, restore := false, unlocked := false, hot := false, tunes := [], modeRec := none }

/-- A context that is stopped. -/
def Ctx.reset : Ctx :=
  { stack := [], move := none, base := 0, target := none, lateAt := 0, ended := none, again := false, stopAs := none,
    next := none, words := [], psn := none, copied := 0, committed := false }

/-- A transmit chain with its field off. -/
def Txc.reset : Txc :=
  { act := 0, ctx := none, hop := 0, port := 0, fired := false, launchAt := 0, held := none, sw := none, swAt := 0,
    ramp := ⟨[], 2, [], 2⟩, capt := none, phase := 0, level := 0, lev := 0, since := 0, reached := 0, next := none,
    endSt := none, endAt := 0, offBy := 0, opening := false, tunePage := 0, resPage := 0, scanning := false, scan := [],
    half := none, takeover := 0, carry := false, tookAt := 0, tookPort := 192, tookOn := 255, release := false,
    fwdRun := 0, reflRun := 0, injUntil := 0, limited := false, heard := false, ask := 0 }

/-- A receive chain that is idle. -/
def Rxc.reset : Rxc :=
  { ctx := none, tap := none, last := none, named := false, tapAt := 0, blankTo := 0, gridAt := 0, blitz := false, classes := 15,
    noise := [], gated := false, begun := false, power := 0, powerN := 1, mark := 0, raw := [], colls := [], startAt := 0, startAngle := 0,
    axis := (1, 0), detAt := 0, t0 := 0, checkRun := 0, capAt := 0, written := 0, trigWas := (0, 0), tookAt := 0, tookFor := 0, takeover := false,
    release := false, injBlocks := 0, capHop := 0 }

/-- The external memory port after reset: XRST_N is low until the first enable. -/
def Xmp.reset : Xmp :=
  { lines := [], want := [], once := [], waiters := [], running := [], queue := [], backlog := [], xrst := false,
    discovered := false, modeMax := 2, freq := 200, suspend := 0, tries := 0 }

/-- No frame sent yet. -/
def TxFrame.reset : TxFrame :=
  { kind := 0, rate := 0, rrate := 0, crc := false, p4 := false, expect := false, bytes := [], lastBits := 0, wait := 0, lo := 0, hi := 0 }

/-- A protocol engine and Blitz lane at rest. -/
def Eng.reset : Eng :=
  { user := none, chain := 0, port := 0, cfg := [], frame := TxFrame.reset, wire := [], air := none, flying := false, sender := 0, hear := 0,
    await := 0, waitAt := none, airEnd := none, tagAt := none, reqAt := none, emptyAt := none, wtx := false, dest := none,
    limit := 0, prog := .idle, stop := none, mism := [], fwi := 4, seq := 0, set := 0, hdr := [], book := (0, 0), booked := false, laneMism := [] }

/-- A Wing outside any round. -/
def InvWing.reset : InvWing :=
  { port := 255, phase := 0, confirm := false, todo := [], cur := 0, sub := 0, heard := false, ok := [], seals := [] }

/-- The inventory scheduler at rest. -/
def Inv.reset : Inv :=
  { ctx := none, waits := [], hop := 0, disc := false, resume := false, plan := [], pass := 0, round := 0,
    inRound := false, ending := false, c0 := 0, cyc := 0, wings := List.replicate 8 InvWing.reset, mism := [],
    oos := false, wantHop := 0 }

/-- Kibitz at rest: every port in LEARN (R233). -/
def Kbz.reset : Kbz :=
  { next := 0, hits := 0, began := 0, learn := [], frac := [], kept := [], waited := false, capAt := [],
    capWas := [], hop := 0, hopNext := 0, stopping := false, hand := none }

/-- The background work at rest. -/
def Cal.reset : Cal :=
  { due := [], refs := [], pend := [], advance := 0, stage := 0, wing := 0, todo := [], forced := false, starved := [],
    owed := [], forcedAt := [], synT := 0, xb := none }

/-- The Scoresheet at rest. -/
def Sco.reset : Sco :=
  { op := 0, sector := 0, fails := 0, format := false, tel := [0, 0, 0, 0, 0], telMax := 0, sseq := 0 }

/-- The balls at reset: IDCODE is selected (R450). -/
def Pins.reset : Pins := { gpio := 0, resignLow := false, tap := 1, noSel := false, watchInj := none, xmpInj := false }

/-- The Board right after a power-on reset (R401): every register at its reset value, and the start-up of R392 as from OFF begun:
DEV.STATUS shows MODE OFF, WAKING and BUSY, rail 0 is REQUESTING in its first attempt, which PG_TIMEOUT ends after 5 ms. -/
def State.reset : State :=
  { pending := [], now := 0, agenda := [(1084800, .railAttemptTimeout 0)], regs := [(2, 0x45#40), (285, 0x2400000000#40)], regPsn := [], crcHeld := [], sram := [], parity := [], free := 0,
    cmps := [], ang := Ang.reset, deliveries := [], mch := Mch.reset, scoQueue := [],
    flt := { recorded := [], surplus := [], request := 0, resignClass := 0, keptWrites := 0, reports := [], asked := 0 },
    hpt := { rpt := [], unit := 0, resent := false, out := [], result := 0, psn := false },
    scb := { passAt := 0, passPeriod := 500, written := false, lineAt := 0 },
    poisonEdge := 0, codecInj := false, memPhase := 0, bistBank := 0, cku := [0, 0, 0, 0, 0, 0, 0, 0],
    pwr := Pwr.reset, ctxs := List.replicate 12 Ctx.reset, txc := List.replicate 9 Txc.reset,
    wingEnds := [], rxc := List.replicate 17 Rxc.reset, timers := [], xmp := Xmp.reset,
    engs := List.replicate 8 Eng.reset, inv := Inv.reset, rates := [], kbz := Kbz.reset, lockMism := [], slot := 11, fires := [], trig := [],
    cal := Cal.reset, sco := Sco.reset, pins := Pins.reset, edge := (0, []),
    touch := { at_ := 0, sets := [], writes := [], locks := [], olds := [], fired := 0 }, resetting := [], mirror := [] }

end Sys2Proof.Machine
end

