-- ==== Sys2Proof/Machine/Ops.lean ====
section
/-! DEFINITION. The named operations that every block shares: the register file, the agenda of the Board's own timed
happenings, Arbiter numbers, errors, flags, events, angle comparators, the Scoresheet queue and the fault manager's
report.  A block has no exception entry: the fault report of R414 is the one shared operation that a fault takes. -/

namespace Sys2Proof.Machine

open Sys2Proof

/-! ## Pages -/

def pDEV : Nat := 0x00
def pPWR : Nat := 0x01
def pCLK : Nat := 0x02
def pANG : Nat := 0x03
def pMCH : Nat := 0x04
def pHPT : Nat := 0x05
def pXMP : Nat := 0x06
def pMEM : Nat := 0x07
def pSCB : Nat := 0x08
def pCKU (n : Nat) : Nat := 0x0A + n
def pFLT : Nat := 0x0E
def pSCO : Nat := 0x0F
def pTXC (n : Nat) : Nat := 0x10 + n
def pRXC (n : Nat) : Nat := 0x20 + n
def pFIL (f : Nat) : Nat := 0x40 + f
def pKBZ : Nat := 0x60
def pCAL : Nat := 0x61
def pPRT : Nat := 0x62
def pBLZ : Nat := 0x63
def pINV : Nat := 0x64
def pCND0 : Nat := 0x68
/-- The CND page of context `c` (R272). -/
def pCND (c : Nat) : Nat := 0x69 + c / 4
def pEVT (i : Nat) : Nat := 0x70 + i
def pARB : Nat := 0x78
def pTST : Nat := 0x7F

/-- The pages in AON (R22, R31). -/
def aonPage (p : Nat) : Bool := p == pDEV || p == pPWR || p == pFLT || p == pHPT || p == pANG

/-! ## Fields and the register file -/

/-- The bits of a field. -/
def Fld.mask (f : Fld) : Word := (BitVec.allOnes 40 >>> (39 - (f.hi - f.lo))) <<< f.lo

/-- The value of a field in a word. -/
def Fld.get (f : Fld) (v : Word) : Nat := (v >>> f.lo).toNat % 2 ^ (f.hi + 1 - f.lo)

/-- A word with a field replaced. -/
def Fld.put (f : Fld) (v : Word) (x : Nat) : Word :=
  (v &&& ~~~f.mask) ||| ((BitVec.ofNat 40 x <<< f.lo) &&& f.mask)

/-- What an unlisted register holds: its reset value. -/
def regDefault (k : Nat) : Word := resetOf (k / 256) (k % 256)

/-- The stored value of a register. -/
def State.reg (s : State) (page off : Nat) : Word := AMap.get regDefault s.regs (page * 256 + off)

/-- A register replaced whole. -/
def State.setReg (s : State) (page off : Nat) (v : Word) : State :=
  { s with regs := AMap.set regDefault s.regs (page * 256 + off) v }

/-- A field's stored value. -/
def State.get (s : State) (page : Nat) (f : Fld) : Nat := f.get (s.reg page f.off)

/-- A field stored, modulo its width. -/
def State.put (s : State) (page : Nat) (f : Fld) (x : Nat) : State :=
  s.setReg page f.off (f.put (s.reg page f.off) x)

/-- A one-bit field. -/
def State.bit (s : State) (page : Nat) (f : Fld) : Bool := s.get page f != 0

/-- A one-bit field set to a Bool. -/
def State.putB (s : State) (page : Nat) (f : Fld) (b : Bool) : State := s.put page f (b2n b)

/-- Bit `i` of a field. -/
def State.bitOf (s : State) (page : Nat) (f : Fld) (i : Nat) : Bool := (s.get page f).testBit i

/-- Bit `i` of a field set or cleared. -/
def State.putBit (s : State) (page : Nat) (f : Fld) (i : Nat) (b : Bool) : State :=
  s.put page ⟨f.off, f.lo + i, f.lo + i⟩ (b2n b)

/-- A counter that stops at the field's greatest value. -/
def State.inc (s : State) (page : Nat) (f : Fld) : State :=
  s.put page f (satInc (2 ^ (f.hi + 1 - f.lo) - 1) (s.get page f))

/-- A counter raised by `d`, stopping at the field's greatest value. -/
def State.incBy (s : State) (page : Nat) (f : Fld) (d : Nat) : State :=
  s.put page f (satAdd (2 ^ (f.hi + 1 - f.lo) - 1) (s.get page f) d)

/-- A counter modulo its width. -/
def State.incMod (s : State) (page : Nat) (f : Fld) : State := s.put page f (s.get page f + 1)

/-- CTRL.ENABLE of a page (R32). -/
def State.enabled (s : State) (page : Nat) : Bool := s.bit page COM.ENABLE

/-- The pages of which TXC8 and RXC16 keep a copy. -/
def mirrored (page : Nat) : Bool := decide ((0x10 ≤ page ∧ page < 0x18) ∨ (0x20 ≤ page ∧ page < 0x30))

/-- A register as the copy that TXC8 or RXC16 keeps of its page holds it (R113, R149). -/
def State.mirrorReg (s : State) (page off : Nat) : Word :=
  s.reg page off ^^^ AMap.get (fun _ => 0) s.mirror (page * 256 + off)

/-- A field of that copy. -/
def State.mget (s : State) (page : Nat) (f : Fld) : Nat := f.get (s.mirrorReg page f.off)

/-- An accepted write brings the bits `m` of the copy of a register to the register's. -/
def State.mirrorTake (s : State) (k : Nat) (m : Word) : State :=
  { s with mirror := AMap.set (fun _ => 0) s.mirror k (AMap.get (fun _ => 0) s.mirror k &&& ~~~m) }

/-- What has reached registers on the present edge. -/
def State.touched (s : State) : Touch :=
  if s.touch.at_ = s.now then s.touch else { at_ := s.now, sets := [], writes := [], locks := [], olds := [], fired := 0 }

/-- CTRL.LOCK of a page is in force: from the edge after the one that sets it (R14, R38). -/
def State.locked (s : State) (page : Nat) : Bool := s.bit page COM.LOCK && !s.touched.locks.contains page

/-- The W1C bits of a register that were set on this edge (R13, R38). -/
def State.setNow (s : State) (k : Nat) : Word :=
  (s.touched.sets.filter fun e => e.1 == k).foldl (fun a e => a ||| e.2) 0

/-- Note W1C bits of a register as set on this edge. -/
def State.noteSet (s : State) (k : Nat) (m : Word) : State :=
  { s with touch := { s.touched with sets := s.touched.sets ++ [(k, m)] } }

/-- Bit `i` of a field in a W1C register set by the block: a clear on the same edge leaves it set (R13). -/
def State.raise (s : State) (page : Nat) (f : Fld) (i : Nat) : State :=
  (s.putBit page f i true).noteSet (page * 256 + f.off) (BitVec.ofNat 40 (2 ^ (f.lo + i)))

/-- The place in the order of same-edge writes (R38): Conductor, Match chain, host. -/
def writeRank : Src → Nat
  | .move => 0
  | .chain => 1
  | .host => 2

/-- The register has been written on this edge by a writer that comes later than `rank` (R38). -/
def State.writtenAfter (s : State) (k rank : Nat) : Bool := s.touched.writes.any fun e => e.1 == k && decide (rank < e.2)

/-- Note how a register stood before the writes of this edge. -/
def State.noteOld (s : State) (k : Nat) : State :=
  if s.touched.olds.any fun e => e.1 == k then s
  else { s with touch := { s.touched with olds := s.touched.olds ++ [(k, AMap.get regDefault s.regs k)] } }

/-- Note a write of a register on this edge. -/
def State.noteWrite (s : State) (k rank : Nat) : State :=
  let s := s.noteOld k
  { s with touch := { s.touched with writes := s.touched.writes ++ [(k, rank)] } }

/-- The registers as they stood before the writes of this edge: the configuration under which the edge's events are handled (R274). -/
def State.unwritten (s : State) : State :=
  { s with regs := s.touched.olds.foldl (fun l e => AMap.set regDefault l e.1 e.2) s.regs }

/-- A hardware update of an RW field: a software write on the same edge holds (R38). -/
def State.putHw (s : State) (page : Nat) (f : Fld) (x : Nat) : State :=
  if s.touched.writes.any fun e => e.1 == page * 256 + f.off then s else s.put page f x

/-- CORE powered and CCLK running, HOLD's gating aside (R22, R389). -/
def State.coreUp (s : State) : Bool := s.pwr.core && s.pwr.cclk

/-- The mode in force (R389). -/
def State.mode (s : State) : Nat := s.get pDEV DEV.STATUS_MODE

/-- CORE blocks run: CORE is up and the Board is not in HOLD, where CCLK is gated off them, an entry from HOLD aside (R389,
R390). -/
def State.coreRuns (s : State) : Bool := s.coreUp && (s.mode != 1 || s.bit pDEV DEV.STATUS_ENTERING)

/-! ## Register writes (R13–R16) -/

/-- The bits of a register that a write changes to the written value now: RW, and RWL while the page is unlocked. -/
def State.writable (s : State) (page : Nat) (r : RegRow) : Word :=
  BitVec.ofNat 40 (if s.locked page then r.rw else r.rw ||| r.rwl)

/-- The write names a locked RWL field with a value that differs from the stored one (R14). -/
def State.hitsLocked (s : State) (page off : Nat) (v : Word) : Bool :=
  match regRow page off with
  | none => false
  | some r => s.locked page && decide ((s.reg page off ^^^ v) &&& BitVec.ofNat 40 r.rwl ≠ 0)

/-- Every named field of the register is RO (R16). -/
def allRO (page off : Nat) : Bool :=
  match regRow page off with
  | none => false
  | some r => (r.rw ||| r.rwl ||| r.w1c ||| r.wo) == 0

/-- A write applied field by field under the access codes of R13: RW and unlocked RWL bits take the value, W1C bits
written 1 clear unless set on this edge, FLAG_SET sets FLAG bits, reserved and RO bits stay (R15, R16).  A write replaces a poison mark of the
register (R323), reaches the copy that a reserve chain keeps (R113, R149), and a covered field that is written brings CFG_CRC back to the
stored configuration (R39). -/
def State.writeFields (s : State) (page off : Nat) (v : Word) : State :=
  match regRow page off with
  | none => s
  | some r =>
    if off = 6 then
      (s.setReg page 4 (s.reg page 4 ||| (v &&& BitVec.ofNat 40 r.wo))).noteSet (page * 256 + 4) (v &&& BitVec.ofNat 40 r.wo)
    else
      let m := s.writable page r
      let clr := v &&& BitVec.ofNat 40 r.w1c &&& ~~~(s.setNow (page * 256 + off))
      let s' := s.setReg page off ((s.reg page off &&& ~~~(m ||| clr)) ||| (v &&& m))
      let s' := { s' with regPsn := s'.regPsn.filter fun k => k ≠ page * 256 + off }
      let s' := s'.mirrorTake (page * 256 + off) m
      if m &&& BitVec.ofNat 40 r.crc ≠ 0 then { s' with crcHeld := AMap.erase page s'.crcHeld } else s'

/-! ## The agenda: the Board's own timed happenings -/

/-- A happening due `d` CCLK from now. -/
def State.sched (s : State) (d : Nat) (c : Instr) : State := { s with agenda := s.agenda ++ [(s.now + d, c)] }

/-- A timed step due `d` CCLK from now. -/
def State.timer (s : State) (d : Nat) (t : Tm) : State := { s with timers := s.timers ++ [(s.now + d, t)] }

/-- A timed step taken off. -/
def State.untimer (s : State) (t : Tm) : State := { s with timers := s.timers.filter fun e => e.2 ≠ t }

/-- A timed step put in place of an earlier entry for it. -/
def State.retimer (s : State) (d : Nat) (t : Tm) : State := (s.untimer t).timer d t

/-- Happenings taken off the agenda. -/
def State.unsched (s : State) (c : Instr) : State := { s with agenda := s.agenda.filter fun e => e.2 ≠ c }

/-- A happening put on the agenda in place of an earlier entry for it. -/
def State.resched (s : State) (d : Nat) (c : Instr) : State := (s.unsched c).sched d c

/-- A fresh free value's index: the counter is read and advanced. -/
def State.nextFree (s : State) : State := { s with free := s.free + 1 }

/-- Repeat an update for each element of a list. -/
def State.forEach {α : Type} (s : State) (l : List α) (f : State → α → State) : State := l.foldl f s

/-- An update made only under a condition. -/
def State.when (s : State) (b : Bool) (f : State → State) : State := if b then f s else s

/-! ## Arbiter numbers, errors and flags -/

/-- The next Arbiter number (R282). -/
def State.seqNext (s : State) : Nat := s.get pARB ARB.SEQ_NEXT

/-- Where a number is shown: 1 + page for LAST_ERR of a page, 200 + channel for CHk_LAST; 0 nowhere. -/
def numShown (t : Nat) : Option (Nat × Fld) :=
  if t = 0 then none
  else if t < 200 then some (t - 1, COM.LAST_ERR_SEQ)
  else if t < 264 then some (pEVT ((t - 200) / 8), EVT.CH_LAST_SEQ ((t - 200) % 8))
  else none

/-- One happening numbered by the Arbiter (R282, R283): NEXT rises by one, modulo 2^32.  On one edge, completions come first, in
context order (`rank` below 1000), then errors by page (from 1000), producer events (from 2000), deliveries by channel (from
3000) and command writes (from 4000): what ranks later and was numbered on this edge already moves up.  Nothing is numbered while CORE is
unpowered (R290). -/
def State.numberAs (s : State) (rank shown : Nat) : Nat × State :=
  if s.coreUp then
    let items := if s.edge.1 = s.now then s.edge.2 else []
    let late := items.filter fun e => decide (rank < e.1)
    let n := (s.seqNext + 2 ^ 32 - late.length) % 2 ^ 32
    let s := s.put pARB ARB.SEQ_NEXT (s.seqNext + 1)
    let s := s.forEach (late.map Prod.snd).eraseDups fun s t =>
      match numShown t with
      | some (p, f) => s.put p f (s.get p f + 1)
      | none => s
    (n, { s with edge := (s.now, (items.filter fun e => !decide (rank < e.1)) ++ [(rank, shown)] ++ late) })
  else (0, s)

/-- A register write that acts as a command, numbered (R282). -/
def State.number (s : State) (src : Src) : State :=
  (s.numberAs (match src with
    | .move => 4000
    | .chain => 4001
    | .host => 4002) 0).2

/-- Record an error on a page (R35): COUNT rises, LAST_ERR takes the code and the error's Arbiter number (R282). -/
def State.recordErr (s : State) (page code : Nat) : State :=
  let s := s.inc page COM.ERR_COUNT
  let s := s.put page COM.LAST_ERR_CODE code
  if s.coreUp then
    let r := s.numberAs (1000 + page) (page + 1)
    r.2.put page COM.LAST_ERR_SEQ r.1
  else s.nextFree.put page COM.LAST_ERR_SEQ (Config.seqUnpowered s.free)

/-- Errors of one edge on two pages, the lower page first (R282). -/
def State.recordBoth (s : State) (page code page2 code2 : Nat) : State :=
  if page ≤ page2 then (s.recordErr page code).recordErr page2 code2 else (s.recordErr page2 code2).recordErr page code

/-- Set a FLAG bit or a range's bit `i` (R32). -/
def State.flag (s : State) (page : Nat) (f : Fld) (i : Nat := 0) : State := s.raise page f i

/-! ## The angle -/

/-- The Cycle Angle: the upper 40 bits of the accumulator (R40). -/
def State.angle (s : State) : Nat := s.ang.acc / 2 ^ 16 % 2 ^ 40

/-- The rate in force (R41). -/
def State.rate (s : State) : Nat := s.get pANG ANG.RATE_RATE

/-! ## Events -/

/-- The Board has lost the chain angle: launches and deliveries are unaligned (R87). -/
def State.unaligned (s : State) : Bool := s.mch.lost

/-- The configuration lets a channel accept (R274). -/
def State.channelOn (s : State) (ch : Nat) : Bool :=
  let c := s.unwritten
  c.enabled pARB && c.enabled (pEVT (ch / 8)) && c.bit (pEVT (ch / 8)) (EVT.CH_CFG_EN (ch % 8))

/-- The producer matrix feeds a producer into a channel (R278). -/
def State.feeds (s : State) (p ch : Nat) : Bool :=
  s.unwritten.bitOf (pEVT (ch / 8)) (EVT.CH_PSEL (ch % 8) (p / 40)) (p % 40)

/-- The channel is chain-linked (R289). -/
def State.chainLinked (s : State) (ch : Nat) : Bool :=
  decide (48 ≤ ch) && s.unwritten.bit (pEVT (ch / 8)) (EVT.CH_CFG_CHAIN (ch % 8))

/-- The delay of a channel (R279). -/
def State.channelDelay (s : State) (ch : Nat) : Nat := s.unwritten.get (pEVT (ch / 8)) (EVT.CH_CFG_DELAY (ch % 8))

/-- Update the PENDING bits of one EVT page from the pending deliveries (R280). -/
def State.pendingBits (s : State) (i : Nat) : State :=
  let v := (List.range 8).foldl (fun a k => a + (if s.deliveries.any fun d => d.ch == 8 * i + k then 2 ^ k else 0)) 0
  s.put (pEVT i) EVT.STATUS_PENDING v

/-- A channel takes an accepted event into its pending deliveries: it merges with one due on the same edge, finds a
free slot of the four, or is dropped; a slot freed on this edge is not free before the next (R279, R280, R292). -/
def State.holdDelivery (s : State) (d : Delivery) : State :=
  let pg := pEVT (d.ch / 8); let k := d.ch % 8
  if s.deliveries.any (fun e => e.ch == d.ch && e.chain == d.chain && e.due == d.due && e.angle == d.angle) then
    let s := s.inc pg (EVT.CH_COUNT1_MERGED k)
    { s with deliveries := s.deliveries.map fun e =>
        if e.ch = d.ch ∧ e.chain = d.chain ∧ e.due = d.due ∧ e.angle = d.angle then
          { e with hop := max e.hop d.hop, unaligned := e.unaligned || d.unaligned } else e }
  else if 4 ≤ (s.deliveries.filter fun e => e.ch == d.ch).length + s.fires.count (d.ch, s.now) then
    ((s.inc pg (EVT.CH_COUNT2_DROPPED k)).flag pg EVT.FLAG_OVERFLOW k).recordErr pg 2
  else
    ({ s with deliveries := s.deliveries ++ [d] } : State).pendingBits (d.ch / 8)

/-- One channel meets one presented event (R279, R285). -/
def State.acceptAt (s : State) (p hop ch : Nat) : State :=
  let pg := pEVT (ch / 8); let k := ch % 8
  if s.channelOn ch && s.feeds p ch then
    if 16 ≤ hop then
      ((s.inc pg (EVT.CH_COUNT2_LOOP k)).flag pg EVT.FLAG_LOOP k).recordErr pg 1
    else
      let delay := if s.chainLinked ch then 0 else s.channelDelay ch
      let n := s.deliveries.length
      let s := s.holdDelivery { ch := ch, due := s.now + 1 + delay, hop := hop, chain := false, angle := 0,
                                unaligned := s.unaligned && (s.chainLinked ch || decide (12 ≤ p ∧ p < 20)) }
      s.when (n < s.deliveries.length) fun s => s.sched (1 + delay) (.channelDelivery ch)
  else s

/-- The block of a producer is unpowered: AON blocks, which hold ANG and FLT, present while CORE is down, but nothing is
numbered or accepted then (R275, R290). -/
def State.present (s : State) (p hop : Nat) : State :=
  if s.coreUp then
    let s := (s.numberAs (2000 + p) 0).2
    if s.unwritten.enabled pARB then
      s.forEach (List.range 8) fun s i =>
        if s.unwritten.enabled (pEVT i) then
          s.forEach (List.range 8) fun s k => s.acceptAt p hop (8 * i + k)
        else s
    else s
  else s

/-- An event presented to one named channel (R276, R286): whether it was accepted, and the state after. -/
def State.presentTo (s : State) (p hop ch : Nat) : State × Bool :=
  let s := (s.numberAs (2000 + p) 0).2
  let ok := s.channelOn ch && s.feeds p ch && decide (hop < 16)
  (s.acceptAt p hop ch, ok)

/-! ## Angle comparators -/

/-- A comparator set up under R56 (one target) or R57 (`periodic`, phase only) at the angle now standing. -/
def State.cmpAt (s : State) (user : CmpUser) (periodic : Bool) (target : Nat) : Cmp :=
  let d := if periodic then (target + 2 ^ 32 - s.angle % 2 ^ 32) % 2 ^ 32 else (target + 2 ^ 40 - s.angle) % 2 ^ 40
  { user := user, periodic := periodic, target := target, left := d * 2 ^ 16 - (if d = 0 then 0 else s.ang.acc % 2 ^ 16),
    waiting := !s.ang.running }

/-- The target is late: the distance ahead is half the angle's range or more (R56). -/
def State.lateTarget (s : State) (target : Nat) : Bool := decide (2 ^ 39 ≤ (target + 2 ^ 40 - s.angle) % 2 ^ 40)

/-- The happening that a comparator's firing is, `late` when it fires on its arming edge for a late target. -/
def CmpUser.instr (late : Bool) : CmpUser → Instr
  | .alarm n => .alarmFire n late
  | .waitAngle c => .waitAngleFire c late
  | .rf c => .rfMoveLaunch c late
  | .lateLimit c => .lateLimitExpiry c
  | .lslot n => .lslotFire n late
  | .chainDel ch a => .chainLinkedDelivery ch a
  | .round => .roundLaunch late
  | .syncOut => .syncOutPulse
  | .apply => .applyPoint
  | .window => .edgeWindowClose

/-- A comparator's happening: the apply point comes on the next carrier-cycle boundary (R303), the close of a window once an edge
with its time stamp on the last CCLK would have been accepted (R43, R58), all others on this edge. -/
def State.fire (s : State) (u : CmpUser) (late : Bool) : State :=
  s.sched (if u = .apply then (16 - s.now % 16) % 16 else if u = .window then s.ang.deglitch * 64 else 0) (u.instr late)

/-- Comparators taken down. -/
def State.disarm (s : State) (u : CmpUser) : State := { s with cmps := s.cmps.filter fun c => c.user ≠ u }

/-- Flag and record a late target (R56). -/
def State.lateFlag (s : State) : State := (s.flag pANG ANG.FLAG_LATE).recordErr pANG 4

/-- Arm a one-target comparator under R56: reached or late on the arming edge fires at once, late also sets FLAG.LATE
and records code 0x04; while the angle does not run the comparator waits for it. -/
def State.arm (s : State) (u : CmpUser) (target : Nat) : State :=
  let s := s.disarm u
  let c := s.cmpAt u false target
  if c.waiting then { s with cmps := s.cmps ++ [c] }
  else if s.lateTarget target then s.lateFlag.fire u true
  else if c.left = 0 then s.fire u false
  else { s with cmps := s.cmps ++ [c] }

/-- Happenings of a comparator's user that are due on a later edge are taken off the agenda. -/
def State.unfire (s : State) (u : CmpUser) : State :=
  { s with agenda := s.agenda.filter fun e => e.1 ≤ s.now ∨ (e.2 ≠ u.instr true ∧ e.2 ≠ u.instr false) }

/-- Arm a comparator whose new target is tested from the next edge, with the angle of this edge (R58, R88): reached or late, it fires
then. -/
def State.armNext (s : State) (u : CmpUser) (target : Nat) : State :=
  let s := (s.disarm u).unfire u
  let c := s.cmpAt u false target
  if c.waiting then { s with cmps := s.cmps ++ [c] }
  else if s.lateTarget target then s.lateFlag.sched 1 (u.instr true)
  else if c.left = 0 then s.sched 1 (u.instr false)
  else { s with cmps := s.cmps ++ [c] }

/-- Arm a periodic comparator (R57): on its phase it fires at once, and again once per cycle. -/
def State.armPeriodic (s : State) (u : CmpUser) (phase : Nat) : State :=
  let s := s.disarm u
  let c := s.cmpAt u true phase
  if c.waiting then { s with cmps := s.cmps ++ [c] }
  else if c.left = 0 then
    ({ s with cmps := s.cmps ++ [{ c with left := 2 ^ 48 - s.ang.acc % 2 ^ 16 }] } : State).fire u false
  else { s with cmps := s.cmps ++ [c] }

/-- The angle has advanced by `d` (in 2^-16 phase units): each running comparator counts down; those that reach zero
put their happening on the agenda, periodic ones going on to the next cycle (R56, R57). -/
def State.countDown (s : State) (d : Nat) : State :=
  let fired := s.cmps.filter fun c => !c.waiting && decide (c.left ≤ d)
  let rest := s.cmps.filterMap fun c =>
    if c.waiting then some c
    else if d < c.left then some { c with left := c.left - d }
    else if c.periodic then some { c with left := c.left + 2 ^ 48 - d } else none
  State.forEach { s with cmps := rest } fired fun s c => s.fire c.user false

/-- The angle starts running: every waiting comparator is tested on this edge (R56). -/
def State.wakeCmps (s : State) : State :=
  let w := s.cmps.filter fun c => c.waiting
  let s : State := { s with cmps := s.cmps.filter fun c => !c.waiting }
  s.forEach w fun s c => if c.periodic then s.armPeriodic c.user c.target else s.arm c.user c.target

/-! ## Pending corrections (R302) -/

/-- The bit of CAL.PEND of a register that corrections reach. -/
def pendBit (key : Nat) : Nat :=
  let p := key / 256
  if p < 0x19 ∧ 0x10 ≤ p then p - 0x10 else if 0x20 ≤ p then p - 0x20 + 9 else 26

/-- CAL.PEND shows the corrections pending. -/
def State.showPend (s : State) : State :=
  s.forEach (List.range 27) fun s i => s.putBit pCAL CAL.PEND i (s.cal.pend.any fun e => pendBit e.1 == i)

/-- A value for a TRIM register, MCH.CPHASE or the carrier advance becomes pending, in place of an earlier one; it is
tested at the next carrier-cycle boundary (R302, R303). -/
def State.pendCorr (s : State) (page off : Nat) (v : Word) : State :=
  let s : State := { s with cal := { s.cal with pend := AMap.insert (page * 256 + off) v s.cal.pend } }
  s.showPend.resched ((16 - s.now % 16) % 16) .soloApply

/-! ## The Scoresheet queue (R310, R311) -/

/-- FLAGS of a record (R308). -/
def State.scoFlags (s : State) (inj : Bool) : Nat :=
  b2n s.ang.running + 2 * b2n (s.bit pANG ANG.STATUS_HOLDOVER) + 4 * b2n inj

/-- Records are queued while the region is mounted or its enable waits for external memory (R307, R312). -/
def State.scoTakes (s : State) : Bool :=
  s.coreUp && (s.bit pSCO SCO.STATUS_MOUNTED || s.bit pSCO SCO.STATUS_WAIT_XMP)

/-- Count one record lost (R311). -/
def State.scoLose (s : State) : State := s.inc pSCO SCO.LOST_COUNT

/-- A record dropped under R310. -/
def State.scoDrop (s : State) : State :=
  if s.coreUp then (((s.inc pSCO SCO.COUNT1_DROPPED).flag pSCO SCO.FLAG_DROPPED).recordErr pSCO 3).scoLose
  else s.scoLose

/-- The queue can take a record of a kind: the last four entries only FAULT (0x01) and MODE (0x05) records (R310). -/
def State.scoRoom (s : State) (kind : Nat) : Bool :=
  s.scoTakes && decide (s.scoQueue.length < (if kind = 1 ∨ kind = 5 then 16 else 12))

/-- Append a record to the queue. -/
def State.scoPush (s : State) (kind arbseq : Nat) (inj : Bool) (payload : List Nat) : State :=
  let s : State := { s with scoQueue := s.scoQueue ++
    [{ kind := kind, angle := s.angle, arbseq := arbseq, uptime := s.get pDEV DEV.UPTIME_MS, flags := s.scoFlags inj,
       payload := payload }] }
  s.put pSCO SCO.QUEUE_QUEUED s.scoQueue.length

/-- Queue a record or drop it (R310). -/
def State.scoRecord (s : State) (kind arbseq : Nat) (payload : List Nat) (inj : Bool := false) : State :=
  if s.scoRoom kind then s.scoPush kind arbseq inj payload else s.scoDrop

/-- With four free entries again and records lost, a LOST record (0x06) is queued with the count (R311). -/
def State.scoLostRecord (s : State) : State :=
  let n := s.get pSCO SCO.LOST_COUNT
  if n ≠ 0 ∧ s.scoTakes = true ∧ s.scoQueue.length ≤ 12 then
    (s.scoPush 6 s.seqNext false (beBytes 4 n)).put pSCO SCO.LOST_COUNT 0
  else s

/-- One more happening that TELEMETRY counts: 0 corrected memory errors, 1 fault records, 2 timed passes, 3 Kibitz changes,
4 adopted calibrations (R309). -/
def State.telCount (s : State) (i : Nat) : State :=
  { s with sco := { s.sco with tel := s.sco.tel.set i (nth s.sco.tel i + 1) } }

/-! ## The interrupt request and the report queue (R33, R363) -/

/-- The pages whose FLAG AND FLAG_EN is non-zero, ascending (R33). -/
def State.irqPages (s : State) : List Nat :=
  s.regs.filterMap fun e =>
    if e.1 % 256 = 4 ∧ e.2 &&& s.reg (e.1 / 256) 5 ≠ 0 then some (e.1 / 256) else none

/-- The interrupt request of R33. -/
def State.irq (s : State) : Bool := !s.irqPages.isEmpty

/-- Append a report word, or drop it when the queue of 32 is full (R363). -/
def State.rptAppend (s : State) (w : Nat) : State :=
  if 32 ≤ s.hpt.rpt.length then (s.inc pHPT HPT.RPT_STAT_DROPPED).flag pHPT HPT.FLAG_RPT_DROP
  else
    let s : State := { s with hpt := { s.hpt with rpt := s.hpt.rpt ++ [w % 2 ^ 32] } }
    s.put pHPT HPT.RPT_STAT_QUEUED s.hpt.rpt.length

/-- RPT_CFG.AUTO_IRQ acts: it acts as 0 while WIDTH is 1 nibble (R370). -/
def State.autoIrq (s : State) : Bool :=
  s.bit pHPT HPT.RPT_CFG_AUTO_IRQ && s.get pHPT HPT.RPT_CFG_WIDTH != 1

/-- A rise of the interrupt request between two states appends the lowest flagged page (R363). -/
def State.autoIrqWord (before after : State) : State :=
  if !before.irq && after.irq && after.autoIrq then after.rptAppend (after.irqPages.headD 0) else after

/-! ## The fault manager (R414–R416) -/

/-- Bytes of a register, most significant first (R12). -/
def State.regBytes (s : State) (page off : Nat) : List Nat := beBytes 5 (s.reg page off).toNat

/-- DETAIL of a fault record by class (R415). -/
def State.faultDetail (s : State) (page : Nat) (i : FaultInfo) : List Nat :=
  if i.cls = 4 then s.regBytes page 0x15
  else if i.cls = 5 then s.regBytes page 0x1A
  else if i.cls = 0x0B ∨ i.cls = 0x0C then s.regBytes pMEM 0x13
  else if i.cls = 1 then (if i.ctx < 12 then s.regBytes (pCND i.ctx) (0x12 + 16 * (i.ctx % 4)) else beBytes 5 0)
  else if i.cls = 8 then s.regBytes pFLT 0x15
  else if i.cls = 9 then s.regBytes pCAL 0x19
  else beBytes 5 0

/-- The 38 bytes of a fault record (R415). -/
def State.faultRecord (s : State) (r : Report) (i : FaultInfo) (count : Nat) : List Nat :=
  [i.cls, r.page, r.code] ++ r.fault ++ [i.action] ++ beBytes 2 (Nat.min 65535 i.interrupt) ++ [i.ctx, i.port,
    Nat.min 255 count] ++ r.detail ++ beBytes 4 (s.get r.page COM.LAST_ERR_SEQ) ++
    beBytes 4 (s.get pFLT FLT.TOTAL_COUNT) ++ List.replicate 11 0

/-! ## Stored SRAM words (R25, R317–R319)

Word `a` is eight cells from address 8a: bytes 0–4 the data, most significant first, 5 the check byte, 6 the three copies
of the poison bit; the eighth is not used.  The parity array is a second memory, indexed by line, without poison. -/

/-- What an unlisted cell reads as: 0, so that a zeroed word has valid check and parity bits (R332).  Assumption 6. -/
def memDefault (_ : Nat) : BitVec 8 := 0

/-- A stored word: data bits, check byte, poison copies. -/
structure Stored where
  data : Nat
  chk : Nat
  psn : Nat
  deriving DecidableEq, Repr

/-- One cell of a memory. -/
def cellAt (m : List Host.Cell) (a : Nat) : Nat := (AMap.get memDefault m a).toNat

/-- One cell written. -/
def setCell (m : List Host.Cell) (a v : Nat) : List Host.Cell := AMap.set memDefault m a (BitVec.ofNat 8 v)

/-- The canonical form of a memory: addresses strictly rising, no entry equal to the unlisted value. -/
def Memory.wf (m : List Host.Cell) : Bool := AMap.wf memDefault m

/-- A word as stored. -/
def storedAt (m : List Host.Cell) (a : Nat) : Stored :=
  { data := beNat [cellAt m (8 * a), cellAt m (8 * a + 1), cellAt m (8 * a + 2), cellAt m (8 * a + 3), cellAt m (8 * a + 4)],
    chk := cellAt m (8 * a + 5), psn := cellAt m (8 * a + 6) }

/-- A word stored. -/
def setStored (m : List Host.Cell) (a : Nat) (w : Stored) : List Host.Cell :=
  let m := setCell m (8 * a) (w.data / 2 ^ 32)
  let m := setCell m (8 * a + 1) (w.data / 2 ^ 24)
  let m := setCell m (8 * a + 2) (w.data / 2 ^ 16)
  let m := setCell m (8 * a + 3) (w.data / 2 ^ 8)
  let m := setCell m (8 * a + 4) w.data
  let m := setCell m (8 * a + 5) w.chk
  setCell m (8 * a + 6) w.psn

/-- The columns h_0 … h_39 of the inner code: the first forty bytes of weight 3, ascending (R318). -/
def eccCols : List Nat :=
  [0x07, 0x0B, 0x0D, 0x0E, 0x13, 0x15, 0x16, 0x19, 0x1A, 0x1C, 0x23, 0x25, 0x26, 0x29, 0x2A, 0x2C, 0x31, 0x32, 0x34, 0x38] ++
  [0x43, 0x45, 0x46, 0x49, 0x4A, 0x4C, 0x51, 0x52, 0x54, 0x58, 0x61, 0x62, 0x64, 0x68, 0x70, 0x83, 0x85, 0x86, 0x89, 0x8A]

/-- The check byte of a data word: the XOR of the columns of its one bits (R318). -/
def eccEncode (d : Nat) : Nat :=
  (eccCols.foldl (fun (p : Nat × Nat) h => (p.1 / 2, if p.1 % 2 = 1 then p.2 ^^^ h else p.2)) (d, 0)).2

/-- A word freshly encoded, with its poison bit (R318, R319). -/
def freshWord (d : Nat) (poison : Bool) : Stored := { data := d, chk := eccEncode d, psn := if poison then 7 else 0 }

/-- The last SRAM word address (R25). -/
def sramLast : Nat := 0x17FFFF

/-- The fault manager's line write: eight words with fresh check bits, parity and cleared poison (R416). -/
def State.writeLine (s : State) (line : Nat) (words : List Nat) : State :=
  let m := (List.range 8).foldl (fun m i => setStored m (8 * line + i) (freshWord (nth words i) false)) s.sram
  let x := words.foldl (· ^^^ ·) 0
  { s with sram := m, parity := setStored s.parity line (freshWord x false) }

/-! ## The fault report (R414–R416, R424) -/

/-- A bank that the fault manager's port reaches: CORE is powered, or the bank is retained (R416). -/
def State.bankReached (s : State) (b : Nat) : Bool := s.pwr.core || s.bitOf pPWR PWR.RETAIN_BANKS b

/-- The kept line and its AON copy written with a fault record and the Resign cause (R416). -/
def State.keepLine (s : State) (record : List Nat) : State :=
  let n := (s.flt.keptWrites + 1) % 256
  let s : State := { s with flt := { s.flt with keptWrites := n } }
  let bytes := record ++ [s.get pFLT FLT.RESIGN_CAUSE, n]
  let words := (List.range 8).map fun k => beNat ((bytes.drop (5 * k)).take 5)
  let s := s.forEach (List.range 8) fun s k => s.setReg pFLT (0x18 + k) (BitVec.ofNat 40 (nth words k))
  let line := s.get pFLT FLT.KEEP_ADDR_LINE
  let s := if line < 196608 ∧ s.bankReached (line / 8192) = true then s.writeLine line words else s
  s.flag pFLT FLT.FLAG_KEPT

/-- The last fault record written, as the first 38 bytes of the kept copy in AON (R416). -/
def State.keptRecord (s : State) : List Nat :=
  (((List.range 8).map fun k => s.regBytes pFLT (0x18 + k)).flatten).take 38

/-- The FAULT bit of the checker that a TST injection names: its page and bit (R423). -/
def tstTarget (unit inst : Nat) : Nat × Nat :=
  match unit with
  | 0x01 => (pCND0, 1)
  | 0x02 => (pTXC inst, 3)
  | 0x03 => (pTXC inst, 1)
  | 0x04 => (pRXC inst, 3)
  | 0x05 => (pRXC inst, 2)
  | 0x06 => (pPRT, 8 + inst)
  | 0x07 => (pBLZ, 8 + inst)
  | 0x08 => (pINV, 1)
  | 0x09 => (pKBZ, 2)
  | 0x0A => (pARB, 1)
  | 0x0B => (pCAL, 1)
  | 0x0C => (pMEM, 2)
  | 0x0D => (pSCB, 1)
  | 0x0E => (pXMP, 1)
  | 0x0F => (pCKU inst, 1)
  | 0x10 => (pANG, 1)
  | 0x11 => (pHPT, 1)
  | 0x12 => (pFLT, 15)
  | 0x13 => (inst, 0)
  | _ => (pFLT, if inst = 3 then 7 else 8)

/-- A reported fault bit is the one an open injection waits for (R424). -/
def State.injected (s : State) (page bit : Nat) : Bool :=
  s.bit pTST TST.STATUS_BUSY &&
    decide (tstTarget (s.get pTST TST.LAST_UNIT) (s.get pTST TST.LAST_INSTANCE) = (page, bit))

/-- The outcome of an open injection: DETECTED with the reported class (R424). -/
def State.tstDetected (s : State) (cls : Nat) : State :=
  let s := s.put pTST TST.LAST_CLASS cls
  let s := s.put pTST TST.LAST_RESULT 1
  let s := (s.flag pTST TST.FLAG_DETECTED).inc pTST TST.COUNT_DETECTED
  (s.putB pTST TST.STATUS_BUSY false).unsched .injectionOutcomeTimeout

/-- One millisecond in CCLK. -/
def ms : Nat := 216960

/-- A class was recorded less than 1 ms ago (R414). -/
def State.recentlyRecorded (s : State) (cls : Nat) : Bool :=
  match AMap.find cls s.flt.recorded with
  | none => false
  | some t => decide (s.now < t + ms)

/-- The fault manager's actions for one report, in the order of R414: class bit, counts, record, kept line,
Scoresheet, producer 188, Resign request; ACTION is 4 where the class requests Resign (R415).  A class recorded less than 1 ms
earlier is only counted, class 0x0D never. -/
def State.takeReport (s : State) (r : Report) : State :=
  let c := r.info.cls
  let asks := s.bitOf pFLT ⟨0x10, 15, 0⟩ c
  let i := if asks then { r.info with action := 4 } else r.info
  let s := s.raise pFLT COM.FAULT c
  let r := if r.page = pFLT then { r with fault := s.regBytes pFLT 7 } else r
  let s := s.inc pFLT (FLT.COUNTn_COUNT c)
  let s := s.incMod pFLT FLT.TOTAL_COUNT
  let n := (AMap.find c s.flt.surplus).getD 0 + 1
  if s.recentlyRecorded c && c != 0x0D then
    { s with flt := { s.flt with surplus := AMap.insert c n s.flt.surplus } }
  else
    let s : State := { s with flt := { s.flt with
      surplus := AMap.erase c s.flt.surplus
      recorded := AMap.insert c s.now s.flt.recorded } }
    let s := s.put pFLT FLT.LAST_CLASS c
    let s := s.put pFLT FLT.LAST_PAGE r.page
    let s := s.put pFLT FLT.LAST_CODE r.code
    let s := s.put pFLT FLT.LAST_ACTION i.action
    let s := s.put pFLT FLT.LAST_PORT i.port
    let s := s.recordErr pFLT c
    let s := if s.bit pFLT FLT.CFG_RECORD_EN then
        let rec38 := s.faultRecord r i n
        let s := ((s.keepLine rec38).flag pFLT FLT.FLAG_RECORD).telCount 1
        if s.scoRoom 1 then s.scoPush 1 (s.get r.page COM.LAST_ERR_SEQ) r.inj rec38
        else (s.scoDrop.flag pFLT FLT.FLAG_DROPPED).recordErr pFLT 0x10
      else s
    let s := s.present 188 0
    if asks then
      { s with flt := { s.flt with request := if s.flt.request = 0 then 3 else s.flt.request, resignClass := c, asked := s.now + 1 } }
    else s

/-- The reports of the edge are taken up. -/
def State.takeReports (s : State) : State :=
  ({ s with flt := { s.flt with reports := [] } } : State).forEach s.flt.reports State.takeReport

/-- A fault reports to the fault manager (R34, R414), which takes it up once its edge is numbered. -/
def State.reportFault (s : State) (page code : Nat) (i : FaultInfo) (inj : Bool := false) : State :=
  let r : Report :=
    { page := page, code := code, info := i, fault := s.regBytes page 7, detail := s.faultDetail page i, inj := inj }
  { s with flt := { s.flt with reports := s.flt.reports ++ [r] } }

/-- A fault: the page records the error (R35), the FAULT bit is set, and a bit that becomes 1 reports to the fault
manager on the same edge (R34); an open injection that waits for it is DETECTED (R424). -/
def State.setFault (s : State) (page bit code : Nat) (i : FaultInfo) : State :=
  let s := s.recordErr page code
  if s.bitOf page COM.FAULT bit then s
  else
    let inj := s.injected page bit
    let s := s.raise page COM.FAULT bit
    let s := s.reportFault page code i inj
    if inj then s.tstDetected i.cls else s

end Sys2Proof.Machine
end

