-- ==== Sys2Proof/Machine/Cells.lean ====
section
/-! DEFINITION. Sending on the Match chain: the cells as words, launch slots, cells queued by this Board, the slots they take, the
head's stream, the resend of a lost cell (R69–R73, R84). -/

namespace Sys2Proof.Machine

open Sys2Proof

/-- This Board is the head (R68). -/
def State.isHead (s : State) : Bool := s.mch.head

/-- The Match chain logic with its hidden state changed. -/
def State.withMch (s : State) (f : Mch → Mch) : State := { s with mch := f s.mch }

/-- The board number (R74). -/
def State.boardNum (s : State) : Nat := s.get pDEV DEV.BOARD_NUM_NUM

/-! ## Cells as words (R70) -/

/-- One bit into a CRC-8 with the polynomial x^8 + x^2 + x + 1. -/
def cellCrcBit (r : Nat) (b : Bool) : Nat := (r * 2 % 256) ^^^ (if r.testBit 7 != b then 7 else 0)

/-- The CRC-8 over the low `n` bits of a word, MSB first, from 0x00, no final XOR (R70). -/
def cellCrc (n w : Nat) : Nat := (List.range n).foldl (fun r i => cellCrcBit r (w.testBit (n - 1 - i))) 0

/-- Bits 71–8 of a cell: TYPE, SRC, SEQ, TAG, PAYLOAD (R70). -/
def Cell.body (c : Cell) : Nat :=
  (((c.type % 16 * 64 + c.src % 64) * 64 + c.seq % 64) * 256 + c.tag % 256) * 2 ^ 40 + c.payload % 2 ^ 40

/-- The 80 bits of a cell: SYNC, body, CRC (R70). -/
def Cell.bits (c : Cell) : Nat := (0xB4 * 2 ^ 64 + c.body) * 256 + cellCrc 64 c.body

/-- 80 bits with good SYNC and CRC (R70). -/
def wordGood (w : Nat) : Bool := w / 2 ^ 72 == 0xB4 && cellCrc 64 (w / 256 % 2 ^ 64) == w % 256

/-- 80 bits with bad SYNC, bad CRC or a reserved TYPE (R71, R73). -/
def wordBad (w : Nat) : Bool := !wordGood w || decide (9 ≤ w / 2 ^ 68 % 16 ∧ w / 2 ^ 68 % 16 < 15)

/-! ## Who sends -/

/-- MDAT forwarding runs: CORE is up, in RUN or HOLD (R69). -/
def State.forwards (s : State) : Bool := s.coreUp && decide (s.mode ≤ 1)

/-- The Board may originate a cell of a type: enabled, numbered or the head, the chain angle not lost, and for LAUNCH,
EVENT and REPORT its number not in use twice (R72, R75, R76, R87). -/
def State.mayOriginate (s : State) (type : Nat) : Bool :=
  s.forwards && s.enabled pMCH && (s.isHead || s.boardNum != 62) && !s.mch.lost &&
    !(s.mch.dup && decide (6 ≤ type ∧ type ≤ 8))

/-- A cell of this Board with the next SEQ of its type (R70). -/
def State.newCell (s : State) (type tag payload : Nat) : Cell × State :=
  let q := AMap.get (fun _ => 0) s.mch.seqs type
  ({ type := type, src := s.boardNum, seq := q, tag := tag % 256, payload := payload % 2 ^ 40 },
   s.withMch fun m => { m with seqs := AMap.set (fun _ => 0) m.seqs type ((q + 1) % 64) })

/-- The cells of a head whose ring is not closed do not return; it works as a chain of one (R6, R66). -/
def State.ownSlots (s : State) : Bool :=
  s.isHead && !s.bit pMCH MCH.STATUS_RING_OK && !s.bit pMCH MCH.STATUS_RANGING

/-! ## Launch slots (R84) -/

/-- A pending angle is armed on slot `n`. -/
def State.slotArmed (s : State) (n : Nat) : Bool := s.cmps.any fun c => c.user == .lslot n

/-- A late token or chain event (R84, R85). -/
def State.chainLate (s : State) : State :=
  ((s.flag pMCH MCH.FLAG_LATE).recordErr pMCH 3).inc pMCH MCH.COUNT2_LATE

/-- A cell for this Board's slots or channels is a wake source in HOLD (R391). -/
def State.holdWake (s : State) : State := s.when (s.mode == 1) fun s => s.sched 0 (.wakeSource 5)

/-- An armed slot fires, `late` on the edge that armed it for a late angle (R84): the cross-Board measurement, the apply point and
an inventory round that wait for the slot follow (R225, R303, R305). -/
def State.slotFires (s : State) (n : Nat) (late : Bool) : State :=
  let s := s.when late State.chainLate
  let s := (s.flag pMCH MCH.FLAG_LSLOT n).present (12 + n) 0
  let s := s.when (s.bit pCAL CAL.APPLY_SRC && s.get pCAL CAL.APPLY_LSLOT == n) fun s => s.sched 0 .applyPoint
  s.when (s.get pINV INV.SCHED_MODE == 1 && s.get pINV INV.SCHED_LSLOT == n) fun s => s.sched 0 (.roundLaunch false)

/-- The slot's pending angle is reached on this edge and its firing not yet taken. -/
def State.slotDue (s : State) (n : Nat) : Bool :=
  s.agenda.any fun e => decide (e.1 ≤ s.now) && (e.2 == .lslotFire n false || e.2 == .lslotFire n true)

/-- The slot has fired on this edge. -/
def State.slotFired (s : State) (n : Nat) : Bool := (s.setNow (pMCH * 256 + MCH.FLAG_LSLOT.off)).toNat.testBit (MCH.FLAG_LSLOT.lo + n)

/-- One launch slot meets a token (R84, R458).  On the edge of its firing it fires for the old angle first, and the new one is
tested from the next edge (R88). -/
def State.slotToken (s : State) (n token angle : Nat) : State :=
  if s.bit pMCH (MCH.LSLOT_CFG_EN n) && s.get pMCH (MCH.LSLOT_CFG_TOKEN n) == token then
    if !s.enabled pANG then s.inc pMCH MCH.COUNT2_LATE
    else
      let due := s.slotDue n
      let s := s.when due fun s =>
        (({ s with agenda := s.agenda.filter fun e => !(decide (e.1 ≤ s.now) && (e.2 == .lslotFire n false || e.2 == .lslotFire n true)) } : State).slotFires n false)
      let next := due || s.slotFired n
      let s := s.when (s.slotArmed n) fun s => (s.flag pMCH MCH.FLAG_REPLACED).recordErr pMCH 9
      let s := s.put pMCH (MCH.LSLOT_ANGLE_ANGLE n) angle
      (if next then s.armNext (.lslot n) angle else s.arm (.lslot n) angle).holdWake
  else s

/-- A token is handled: every enabled slot with it arms, replaces or fires (R84). -/
def State.handleToken (s : State) (token angle : Nat) : State :=
  s.forEach (List.range 8) fun s n => s.slotToken n token (angle % 2 ^ 40)

/-! ## Cells that leave -/

/-- The angle that stands for the launch angle of a chain-linked delivery whose cell has not been sent. -/
def unsent : Nat := 2 ^ 40

/-- An EVENT cell leaves: it takes the launch angle of R85 on this edge, and the delivery held for it waits for that angle,
merging with one already due there (R279, R289). -/
def State.stampEvent (s : State) (c : Cell) : Cell × State :=
  let a := (s.ang.acc + s.get pMCH MCH.CFG_LEAD * s.rate) / 2 ^ 16 % 2 ^ 40
  let ch := 48 + c.tag % 16
  let held := s.deliveries.find? fun d => d.ch == ch && d.chain && d.angle == unsent
  let s := match held with
    | none => s
    | some d =>
      let s : State := { s with deliveries := s.deliveries.erase d }
      let n := s.deliveries.length
      let s := s.holdDelivery { d with angle := a, due := 0 }
      s.when (n < s.deliveries.length) fun s => s.arm (.chainDel ch a) a
  ({ c with payload := a }, s)

/-- A cell leaves on MDATO as this Board's own and is watched for its return, a copy from when it was first sent (R73, R77). -/
def State.watchCell (s : State) (c : Cell) (copy : Bool) : State :=
  let s := s.withMch fun m => { m with mdato := c, skip := true,
                                       flights := if copy then m.flights else m.flights ++ [{ cell := c, at_ := s.now, copy := false }] }
  s.sched (s.get pMCH MCH.RING_DELAY + 160) (.cellResend c.type)

/-- Ranging begins on this Board: it ends within 30,000 CCLK + RING.DELAY (R77). -/
def State.startRanging (s : State) : State :=
  (s.putB pMCH MCH.STATUS_RANGING true).retimer (30000 + s.get pMCH MCH.RING_DELAY) .rangeEnd

/-- A cell leaves, with the number the Board now has: all but IDLE and REPORT are watched (R73, R86); with the RANGE start cell ranging
begins (R77); a LAUNCH cell of a head whose ring is not closed is handled as it leaves, since no cell comes back to a chain of one.
Assumption 12. -/
def State.sendCell (s : State) (c : Cell) : State :=
  if s.mch.flights.any fun f => f.copy && f.cell == c then s.watchCell c true
  else
    let c := { c with src := s.boardNum }
    if c.type = 8 ∨ c.type = 0 then s.withMch fun m => { m with mdato := c, skip := true }
    else
      let x := if c.type = 7 then s.stampEvent c else (c, s)
      let s := x.2.watchCell x.1 false
      if c.type = 4 ∧ c.tag = 1 then s.startRanging
      else if c.type = 6 ∧ s.ownSlots = true then
        (s.withMch fun m => { m with seen := AMap.insert (c.src * 16 + 6) c.seq m.seen }).handleToken c.tag c.payload
      else s

/-- A free cell goes on; an IDLE of the head is formed as it leaves, with the angle of that edge and the next SEQ (R70, R71). -/
def State.passFree (s : State) (free : Cell) : State :=
  if free.type = 0 ∧ s.isHead = true then
    let x := s.newCell 0 0 s.angle
    x.2.withMch fun m => { m with skip := false, mdato := x.1 }
  else s.withMch fun m => { m with skip := false, mdato := free }

/-- A free slot leaves: the first waiting cell that the Board may still send takes it unless the Board inserted one in the free slot
before, or ranging runs (R72, R76, R78, R87); otherwise `free` goes on. -/
def State.takeSlot (s : State) (free : Cell) : State :=
  match s.mch.queue.find? fun c => s.mayOriginate c.type with
  | some c =>
    if s.mch.skip || s.bit pMCH MCH.STATUS_RANGING then s.passFree free
    else (s.withMch fun m => { m with queue := m.queue.erase c }).sendCell c
  | none => s.passFree free

/-- A slot leaves MDATO 16 CCLK after it came in (R69). -/
def State.slotOut (s : State) (c : Cell) (free : Bool) : State :=
  if s.forwards then (if free then s.takeSlot c else s.withMch fun m => { m with mdato := c }) else s

/-- A slot that came in goes on, except while the Board does not forward for ranging (R69, R77). -/
def State.slotIn (s : State) (c : Cell) (free : Bool) : State :=
  if s.bit pMCH MCH.STATUS_RANGING && c.type != 4 then s else s.timer 16 (.slotOut c free)

/-- The VOID cell that this Board puts in place of another (R70, R71). -/
def State.newVoid (s : State) : Cell × State := s.newCell 15 0 0

/-- The head's cell stream (R69, R75): while its cells do not return, and after a ranging until they do, it fills a slot of its own
every 80 CCLK with a waiting cell or an IDLE.  Assumption 12. -/
def State.cellSlot (s : State) : State :=
  if s.isHead && s.enabled pMCH && s.forwards then
    let s := s.retimer 80 .cellSlot
    if !s.bit pMCH MCH.STATUS_RANGING && (!s.bit pMCH MCH.STATUS_RING_OK || decide (s.now < s.mch.fillTo)) then
      s.takeSlot { type := 0, src := s.boardNum, seq := 0, tag := 0, payload := 0 }
    else s
  else s

/-- The head's stream begins, with its first cell on this edge (R69). -/
def State.startStream (s : State) : State :=
  if s.timers.any fun t => t.2 == .cellSlot then s else s.timer 0 .cellSlot

/-- A cell queued for sending (R72); a RATE cell goes in the first free slot (R81). -/
def State.queueCell (s : State) (type tag payload : Nat) : State :=
  if s.mayOriginate type then
    let x := s.newCell type tag payload
    x.2.withMch fun m => { m with queue :=
      if type = 1 then m.queue.filter (fun c => c.type == 1) ++ x.1 :: m.queue.filter (fun c => c.type != 1) else m.queue ++ [x.1] }
  else s

end Sys2Proof.Machine
end

