-- ==== Sys2Proof/Machine/Operands.lean ====
section
/-! DEFINITION. The operand forms: the words of a move read into a command and written from one (R255, R256, R260,
R262).  The Conductor ignores reserved bits of move words; the words written here hold 0 in them. -/

namespace Sys2Proof.Machine

open Sys2Proof

/-- The words of a move with an opcode; 0 for a reserved opcode (R256). -/
def opWords (op : Nat) : Nat :=
  if 22 ≤ op then 0 else if (1 ≤ op ∧ op ≤ 6) ∨ (8 ≤ op ∧ op ≤ 11) ∨ op = 20 then 4 else 2

/-- The launch part of an RF move: WING, WHEN, LATE_LIMIT and word 1 (R255, R257). -/
def launchWords (w0 w1 : Nat) : Launch :=
  { wing := bits w0 33 31, when_ := bits w0 30 29, late := bits w0 28 16, t := w1 }

/-- The move of context `c` that words spell: none for a reserved opcode and where LONG does not match it (R255). -/
def decodeMove (c : Nat) (ws : List Nat) : Option Instr :=
  let w0 := nth ws 0
  let w1 := nth ws 1
  let w2 := nth ws 2
  let w3 := nth ws 3
  let op := bits w0 39 35
  let h := launchWords w0 w1
  if opWords op = 0 ∨ bitAt w0 34 ≠ decide (opWords op = 4) ∨ ws.length < opWords op then none
  else match op with
    | 0x00 => some (.stop c)
    | 0x01 => some (.field c h (bitAt w0 15) (bits w0 7 0))
    | 0x02 => some (.tune c h (bitAt w0 15) (bits w0 7 0))
    | 0x03 => some (.send c h w2)
    | 0x04 => some (.listen c h {
        tapEn := bitAt w0 15, role := bits w0 14 14, coloured := bitAt w0 13, rate := bits w0 12 11,
        tapPort := bits w0 7 0, dest := w2, proto := bits w3 39 37, limit := bits w3 35 24, wait := bits w3 23 0 })
    | 0x05 => some (.xchg c h (bitAt w0 15) (bitAt w0 13) (bits w0 7 0) w2 w3)
    | 0x06 => some (.anticoll c h {
        proto := bits w0 15 14, wake := bitAt w0 13, hold := bitAt w0 12, quiet := bitAt w0 11, maskLen := bits w0 5 0,
        mask := bits w2 38 19 * 2 ^ 40 + w3, result := 4 * bits w2 18 0 })
    | 0x07 => some (.inventory c (bitAt w0 2) (bits w0 1 0))
    | 0x08 => some (.sound c h (bitAt w0 13))
    | 0x09 => some (.book c h (bitAt w0 13))
    | 0x0A => some (.gambit c h (bitAt w0 13))
    | 0x0B => some (.seal c h w2)
    | 0x0C => some (.waitAngle c (bits w0 30 29) w1)
    | 0x0D => some (.waitEvent c (bits w0 5 0) (bits w1 31 0))
    | 0x0E => some (.raise c (bits w0 5 0))
    | 0x0F => some (.branch c (bits w0 15 12) (bits w0 11 4) (bits w0 1 0) w1)
    | 0x10 => some (.call c w1)
    | 0x11 => some (.ret c)
    | 0x12 => some (.load c (bitAt w0 2) (bits w0 1 0) w1)
    | 0x13 => some (.store c (bits w0 1 0) w1)
    | 0x14 => some (.copy c (bits w1 16 0) w2 w3)
    | 0x15 => some (.log c (bits w0 7 0) w1)
    | _ => none

/-- Word 0 of a move without a launch part: opcode, LONG and the bits of the opcode (R255). -/
def plainWord (op low : Nat) : Nat := op * 2 ^ 35 + (if opWords op = 4 then 2 ^ 34 else 0) + low

/-- Word 0 of an RF move (R255). -/
def rfWord (op : Nat) (h : Launch) (low : Nat) : Nat :=
  plainWord op 0 + h.wing * 2 ^ 31 + h.when_ * 2 ^ 29 + h.late * 2 ^ 16 + low

/-- The words of a move; none for a command that is no move (R255, R260, R262). -/
def encodeMove : Instr → Option (List Nat)
  | .stop _ => some [plainWord 0 0, 0]
  | .field _ h off port => some [rfWord 1 h (b2n off * 2 ^ 15 + port), h.t, 0, 0]
  | .tune _ h reserve port => some [rfWord 2 h (b2n reserve * 2 ^ 15 + port), h.t, 0, 0]
  | .send _ h desc => some [rfWord 3 h 0, h.t, desc, 0]
  | .listen _ h a => some [
      rfWord 4 h (b2n a.tapEn * 2 ^ 15 + a.role * 2 ^ 14 + b2n a.coloured * 2 ^ 13 + a.rate * 2 ^ 11 + a.tapPort), h.t, a.dest,
      a.proto * 2 ^ 37 + a.limit * 2 ^ 24 + a.wait]
  | .xchg _ h tapEn blitz tapPort desc dest =>
      some [rfWord 5 h (b2n tapEn * 2 ^ 15 + b2n blitz * 2 ^ 13 + tapPort), h.t, desc, dest]
  | .anticoll _ h a => some [
      rfWord 6 h (a.proto * 2 ^ 14 + b2n a.wake * 2 ^ 13 + b2n a.hold * 2 ^ 12 + b2n a.quiet * 2 ^ 11 + a.maskLen), h.t,
      a.mask / 2 ^ 40 * 2 ^ 19 + a.result / 4, a.mask % 2 ^ 40]
  | .inventory _ wait action => some [plainWord 7 (b2n wait * 4 + action), 0]
  | .sound _ h coloured => some [rfWord 8 h (b2n coloured * 2 ^ 13), h.t, 0, 0]
  | .book _ h coloured => some [rfWord 9 h (b2n coloured * 2 ^ 13), h.t, 0, 0]
  | .gambit _ h reload => some [rfWord 10 h (b2n reload * 2 ^ 13), h.t, 0, 0]
  | .seal _ h job => some [rfWord 11 h 0, h.t, job, 0]
  | .waitAngle _ when_ angle => some [plainWord 12 (when_ * 2 ^ 29), angle]
  | .waitEvent _ ch timeout => some [plainWord 13 ch, timeout]
  | .raise _ ch => some [plainWord 14 ch, 0]
  | .branch _ cond imm reg target => some [plainWord 15 (cond * 2 ^ 12 + imm * 2 ^ 4 + reg), target]
  | .call _ target => some [plainWord 16 0, target]
  | .ret _ => some [plainWord 17 0, 0]
  | .load _ imm reg value => some [plainWord 18 (b2n imm * 4 + reg), value]
  | .store _ reg addr => some [plainWord 19 reg, addr]
  | .copy _ count src dst => some [plainWord 20 0, count, src, dst]
  | .log _ tag value => some [plainWord 21 tag, value]
  | _ => none

/-- The opcode of a move, 0 for other commands (R256). -/
def moveOp (m : Instr) : Nat :=
  match encodeMove m with
  | some (w :: _) => bits w 39 35
  | _ => 0

/-- The words of a move. -/
def moveLen (m : Instr) : Nat := opWords (moveOp m)

/-- The first Conductor address of the window (R24). -/
def winBase : Nat := 0x8000000000

/-- The address `k` words after an address: window words lie five bytes apart (R26, R253). -/
def addrAt (a k : Nat) : Nat := (if winBase ≤ a then a + 5 * k else a + k) % 2 ^ 40

/-- Two regions of `n` words overlap (R262). -/
def overlap (n a b : Nat) : Bool :=
  let l := fun x => if winBase ≤ x then 5 * n else n
  decide (a < b + l b ∧ b < a + l a)

/-- The launch part of an RF move (R255). -/
def launchOf : Instr → Option Launch
  | .field _ h _ _ => some h
  | .tune _ h _ _ => some h
  | .send _ h _ => some h
  | .listen _ h _ => some h
  | .xchg _ h _ _ _ _ _ => some h
  | .anticoll _ h _ => some h
  | .sound _ h _ => some h
  | .book _ h _ => some h
  | .gambit _ h _ => some h
  | .seal _ h _ => some h
  | _ => none

/-- A move that its context refuses, BAD_MOVE: WHEN 3, another Wing named by a Wing context, and the values that the
tables of R260 and R262 refuse (R252, R255). -/
def badMove (c : Nat) (m : Instr) : Bool :=
  let rf := match launchOf m with
    | some h => h.when_ == 3 || (decide (c < 8) && h.wing != c)
    | none => false
  rf || match m with
    | .listen _ _ a => a.proto == 0 || decide (4 < a.proto)
    | .anticoll _ _ a => a.proto == 0
    | .inventory _ _ action => action == 3
    | .waitAngle _ when_ _ => when_ == 3
    | .branch _ cond imm _ _ => decide (9 < cond) || (decide (8 ≤ cond) && decide (39 < imm))
    | .copy _ count src dst => count == 0 || decide (65536 < count) || overlap count src dst
    | _ => false

end Sys2Proof.Machine
end

