-- ==== Sys2Proof/Machine/Contexts.lean ====
section
/-! DEFINITION. What the blocks use of the Conductor: the contexts' registers, Wing claims, and the report of a move's
status (R251, R253, R259, R264). -/

namespace Sys2Proof.Machine

open Sys2Proof

/-- A context's state outside registers. -/
def State.ctx (s : State) (c : Nat) : Ctx := s.ctxs.getD c Ctx.reset

/-- A context's state outside registers changed. -/
def State.withCtx (s : State) (c : Nat) (f : Ctx → Ctx) : State := { s with ctxs := s.ctxs.set c (f (s.ctx c)) }

/-- CTXj_STATE.RUN: 0 STOPPED, 1 FETCH, 2 CLAIM, 3 ARMED, 4 IN_BLOCK, 5 WAIT_ANGLE, 6 WAIT_EVENT, 7 RECOVER. -/
def State.run (s : State) (c : Nat) : Nat := s.get (pCND c) (CND.CTX_STATE_RUN (c % 4))

def State.setRun (s : State) (c r : Nat) : State := s.put (pCND c) (CND.CTX_STATE_RUN (c % 4)) r

/-- The hop of the events a context's moves produce: the context's hop + 1 (R284); of the work of an inventory round
(user 32 + w) the hop its pass gives. -/
def State.moveHop (s : State) (c : Nat) : Nat :=
  if 32 ≤ c then s.inv.hop else s.get (pCND c) (CND.CTX_STATE_HOP (c % 4)) + 1

def State.lastLaunch (s : State) (c : Nat) : Nat := s.get (pCND c) (CND.CTX_LAUNCH_ANGLE (c % 4))

def State.setLaunch (s : State) (c a : Nat) : State := s.put (pCND c) (CND.CTX_LAUNCH_ANGLE (c % 4)) a

/-- The Wing that the move in flight of a context names, if it is an RF move. -/
def State.moveWing (s : State) (c : Nat) : Option Nat :=
  match (s.ctx c).move with
  | some m => (launchOf m).map Launch.wing
  | none => none

/-- The Wing of a user of RF blocks: a context's move, or the inventory round (32 + w). -/
def State.userWing (s : State) (u : Nat) : Option Nat := if 32 ≤ u then some (u - 32) else s.moveWing u

/-! ## Wing claims (R259) -/

/-- CND0.CLAIM.OWNER of Wing `w`. -/
def ownerFld (w : Nat) : Fld := ⟨0x11, 4 * w + 3, 4 * w⟩

/-- The context that holds a Wing; 15 free. -/
def State.owner (s : State) (w : Nat) : Nat := s.get pCND0 (ownerFld w)

/-- A Wing's holder changed, with the CLAIMS bits of the contexts. -/
def State.setOwner (s : State) (w o : Nat) : State :=
  let old := s.owner w
  let s := s.when (decide (old < 12)) fun s => s.putBit (pCND old) (CND.CTX_STATE_CLAIMS (old % 4)) w false
  let s := s.when (decide (o < 12)) fun s => s.putBit (pCND o) (CND.CTX_STATE_CLAIMS (o % 4)) w true
  s.put pCND0 (ownerFld w) o

/-- Wings whose claim a calibration holds (R297, R305). -/
def State.calHolds (s : State) (w : Nat) : Bool := s.cal.stage == 3 || (s.cal.stage != 0 && s.cal.wing == w)

/-- A Wing released: it passes to a waiting context on this edge (R271). -/
def State.releaseWing (s : State) (w : Nat) : State :=
  if s.owner w = 15 then s else (s.setOwner w 15).sched 0 (.wingClaimGrant w)

/-! ## Auto-tune results (R96, R127) -/

/-- ATUNE_RESULT.STATUS of a move status (R127). -/
def tuneCode (st : Nat) : Nat :=
  if st = 0x00 then 2 else if st = 0x18 then 3 else if st = 0x19 then 4 else if st = 0x1A then 5
  else if st = 0x08 then 6 else if st = 0x09 then 7 else if st = 0x02 then 8 else if st = 0x03 then 9
  else if st = 0x04 then 10 else if st = 0x06 then 11 else 12

/-- ATUNE_RESULT of the page a TUNE move works on shows the status it ends with, whatever ends it (R110, R127). -/
def State.tuneShow (s : State) (c status : Nat) : State :=
  match (s.ctx c).move with
  | some (.tune _ h reserve _) =>
    if reserve ∨ h.wing < 8 then s.put (pTXC (if reserve then 8 else h.wing)) TXC.ATUNE_RESULT_STATUS (tuneCode status) else s
  | _ => s

/-! ## The end of a move -/

/-- A block reports the status of a context's move (R264), the first status standing, or ends what the inventory began on
a Wing. -/
def State.endMove (s : State) (c status : Nat) : State :=
  if 32 ≤ c then { s with wingEnds := s.wingEnds ++ [{ wing := c - 32, status := status, mark := none, own := true }] }
  else if s.run c = 0 ∨ (s.ctx c).ended.isSome = true ∨ (s.ctx c).move.isNone = true then s
  else (((s.numberAs c 0).2.tuneShow c status).withCtx c fun x => { x with ended := some status }).sched 0 (.moveCompletion c)

/-- End the move of an optional context. -/
def State.endFor (s : State) (c : Option Nat) (status : Nat) : State :=
  match c with
  | some c => s.endMove c status
  | none => s

/-- The context whose RF move is in the blocks of Wing `w` (R259). -/
def State.wingMove (s : State) (w : Nat) : Option Nat :=
  (List.range 12).find? fun c => s.run c == 4 && s.moveWing c == some w

/-- A move of a context begins a wait for lock or rail, up to T + LATE_LIMIT or the issue angle + LATE_LIMIT (R257, R258);
the limit is no launch comparator: one that has passed expires at once, without FLAG.LATE of ANG. -/
def State.armLimit (s : State) (c : Nat) : State :=
  let u := CmpUser.lateLimit c
  let s := s.disarm u
  let k := s.cmpAt u false (s.ctx c).lateAt
  if !k.waiting && (s.lateTarget (s.ctx c).lateAt || k.left == 0) then s.resched 0 (.lateLimitExpiry c)
  else { s with cmps := s.cmps ++ [k] }

/-- Statuses of R264. -/
def stDONE : Nat := 0x00
def stMORE : Nat := 0x01
def stLATE : Nat := 0x02
def stDISABLED : Nat := 0x03
def stREFLECTED : Nat := 0x04
def stTAKEOVER : Nat := 0x05
def stFAULTED : Nat := 0x06
def stBAD_RAMP : Nat := 0x07
def stBAD_PORT : Nat := 0x08
def stABORTED : Nat := 0x09
def stBAD_PARAM : Nat := 0x0A
def stBAD_ADDRESS : Nat := 0x0B
def stPOISONED : Nat := 0x0C
def stTIMEOUT : Nat := 0x0D
def stHALT_FAIL : Nat := 0x0E
def stGAMBIT_FAIL : Nat := 0x0F
def stBOOK_FAIL : Nat := 0x10
def stPENDING : Nat := 0x11
def stREFUSED : Nat := 0x12
def stLOW_MARGIN : Nat := 0x13
def stCONFLICT : Nat := 0x14
def stNOT_CAPABLE : Nat := 0x15
def stSENT : Nat := 0x16
def stUNKNOWN : Nat := 0x17
def stFAIL : Nat := 0x18
def stBUSY : Nat := 0x19
def stOVERRIDDEN : Nat := 0x1A
def stFULL : Nat := 0x1D

/-- The OK class (R264): DONE, MORE, SENT and 0x40. -/
def okClass (st : Nat) : Bool := st == stDONE || st == stMORE || st == stSENT || st == 0x40

/-- CCLK to the next carrier-cycle boundary, 0–15 (R60). -/
def State.toCarrier (s : State) : Nat := (16 - s.now % 16) % 16

/-- One microsecond and its multiples in CCLK, rounded up to whole CCLK (216.96 per µs). -/
def usec (n : Nat) : Nat := ceilDiv (n * 21696) 100

end Sys2Proof.Machine
end

