-- ==== Sys2Proof/Machine/Memory.lean ====
section
/-! DEFINITION. The SRAM controller (R317–R328, R332–R335), the scrubber (R329–R331) and the check-value units
(R336–R341). -/

namespace Sys2Proof.Machine

open Sys2Proof

/-! ## The inner code (R318) -/

/-- The class of a syndrome. -/
inductive EccClass where
  | clean
  | dataBit (j : Nat)
  | checkBit
  | bad
  deriving DecidableEq, Repr

/-- The class of a syndrome (R318): clean, one data bit by its column, one check bit, or uncorrectable. -/
def eccClass (syn : Nat) : EccClass :=
  if syn = 0 then .clean
  else match eccCols.findIdx? (· == syn) with
    | some j => .dataBit j
    | none => if popCount 8 syn = 1 then .checkBit else .bad

/-- The syndrome of a stored word: stored check byte XOR the one recomputed. -/
def Stored.syn (w : Stored) : Nat := w.chk ^^^ eccEncode w.data

/-- The class of a stored word. -/
def Stored.cls (w : Stored) : EccClass := eccClass w.syn

/-- The word is uncorrectable by the inner code. -/
def Stored.isBad (w : Stored) : Bool := w.cls == .bad

/-- The data after the inner code's correction (R318); an uncorrectable word's bits as they stand. -/
def Stored.fixed (w : Stored) : Nat :=
  match w.cls with
  | .dataBit j => w.data ^^^ 2 ^ j
  | _ => w.data

/-- The poison bit: the majority of its three copies (R319). -/
def Stored.poisoned (w : Stored) : Bool := decide (2 ≤ popCount 3 w.psn)

/-- CE_LAST.KIND of a single-bit correction (R320). -/
def Stored.kind (w : Stored) : Nat :=
  match w.cls with
  | .dataBit _ => 1
  | _ => 2

/-! ## Stored words of the Board -/

def State.word (s : State) (a : Nat) : Stored := storedAt s.sram a
def State.parityWord (s : State) (line : Nat) : Stored := storedAt s.parity line
def State.putWord (s : State) (a : Nat) (w : Stored) : State := { s with sram := setStored s.sram a w }
def State.putParity (s : State) (line : Nat) (w : Stored) : State := { s with parity := setStored s.parity line w }

/-- The word addresses of a line (R317). -/
def lineWords (line : Nat) : List Nat := (List.range 8).map fun i => 8 * line + i

/-- The parity word recomputed from the eight words as they stand (R320, R321). -/
def State.recomputeParity (s : State) (line : Nat) : State :=
  let x := (lineWords line).foldl (fun x a => x ^^^ (s.word a).fixed) 0
  s.putParity line (freshWord x false)

/-! ## Counts and faults (R325, R326) -/

/-- Who reads: the scrubber's findings are also counted on its page (R330). -/
def State.scbFound (s : State) (scrub : Bool) (f : Fld) : State :=
  s.when scrub fun s => (s.inc pSCB f).flag pSCB SCB.FLAG_FOUND

/-- Record an outcome of R326: the bank's count, CE_LAST with its REPEAT, the code, FLAG.HARD and FAULT.HARD at the
threshold. -/
def State.countEcc (s : State) (addr kind syn : Nat) (scrub : Bool) : State :=
  let same := s.get pMEM MEM.CE_LAST_KIND != 0 && s.get pMEM MEM.CE_LAST_ADDR == addr
  let old := if same then s.get pMEM MEM.CE_LAST_REPEAT else 0
  let rep := satInc 255 old
  let s := s.put pMEM MEM.CE_LAST_KIND kind
  let s := s.put pMEM MEM.CE_LAST_SYNDROME syn
  let s := s.put pMEM MEM.CE_LAST_REPEAT rep
  let s := s.put pMEM MEM.CE_LAST_ADDR addr
  let b := addr / 65536
  let s :=
    if kind = 4 then
      let s := (s.inc pMEM (MEM.BANK_ERR_POISONED b)).scbFound scrub SCB.FOUND_POISONED
      s.setFault pMEM 3 3 { cls := 0x0C }
    else if kind = 3 ∨ kind = 6 then
      let s := (s.inc pMEM (MEM.BANK_ERR_REBUILT b)).scbFound scrub SCB.FOUND_REBUILT
      (s.flag pMEM MEM.FLAG_REBUILT).recordErr pMEM 2
    else
      let s := (s.inc pMEM (MEM.BANK_ERR_CORRECTED b)).scbFound scrub SCB.FOUND_CORRECTED
      ((s.telCount 0).flag pMEM MEM.FLAG_CORRECTED).recordErr pMEM 1
  if rep ≠ old ∧ rep = orDefault 1 (s.get pMEM MEM.CFG_HARD_THR) then
    (s.flag pMEM MEM.FLAG_HARD).setFault pMEM 4 4 { cls := 0x0B, action := 1 }
  else s

/-- A poisoned word is delivered to a consumer: FLAG.POISONED, and producer 190 once per edge (R325, R342). -/
def State.deliverPoison (s : State) : State :=
  let s := s.flag pMEM MEM.FLAG_POISONED
  if s.poisonEdge = s.now + 1 then s else State.present { s with poisonEdge := s.now + 1 } 190 0

/-! ## Reads (R320) -/

/-- A word whose inner code is clean or correctable: outcome 1, 2 or 5, with write-back. -/
def State.readGood (s : State) (a : Nat) (scrub : Bool) : State :=
  let w := s.word a
  let psn := if w.poisoned then 7 else 0
  if w.cls = .clean then (if w.psn = psn then s else s.putWord a { w with psn := psn })
  else (s.putWord a (freshWord w.fixed w.poisoned)).countEcc a w.kind w.syn scrub

/-- Poison one word as outcome 4: its bits as they stand, re-encoded, with the mark. -/
def State.poisonWord (s : State) (a : Nat) (scrub : Bool) : State :=
  let w := s.word a
  (s.putWord a (freshWord w.data true)).countEcc a 4 w.syn scrub

/-- An uncorrectable word: outcome 3 when the rest of the line and its parity word are good, otherwise outcome 4 for
every uncorrectable word of the line. -/
def State.readBad (s : State) (a : Nat) (scrub : Bool) : State :=
  let line := a / 8
  let others := (lineWords line).filter fun x => x ≠ a
  let bad := others.filter fun x => (s.word x).isBad
  let p := s.parityWord line
  let s := s.forEach (others.filter fun x => !(s.word x).isBad) fun s x => s.readGood x scrub
  if bad.isEmpty && !p.isBad then
    let s := if p.cls = .clean then s
      else (s.putParity line (freshWord p.fixed false)).countEcc (8 * line) 5 p.syn scrub
    let v := others.foldl (fun x y => x ^^^ (s.word y).fixed) p.fixed
    let w := s.word a
    (s.putWord a (freshWord v w.poisoned)).countEcc a 3 w.syn scrub
  else
    let s := s.forEach (a :: bad) fun s x => s.poisonWord x scrub
    s.recomputeParity line

/-- A read of a word by any requester, in one of the outcomes of R320: the state after, whose word `a` then holds what
was delivered. -/
def State.readState (s : State) (a : Nat) (scrub : Bool) : State :=
  if (s.word a).isBad then s.readBad a scrub else s.readGood a scrub

/-- A consumer's read: data, poison mark, and the state after. -/
def State.memRead (s : State) (a : Nat) : Nat × Bool × State :=
  let t := s.readState a false
  let w := t.word a
  (w.data, w.poisoned, if w.poisoned then t.deliverPoison else t)

/-- What a read of a word delivers now, without its effects. -/
def State.peek (s : State) (a : Nat) : Nat × Bool :=
  let w := (s.readState a false).word a
  (w.data, w.poisoned)

/-! ## Writes (R321) -/

/-- A write of a word: fresh check bits, the poison mark that travels with the word (R263, R323) or none, and the
line's parity word. -/
def State.memWrite (s : State) (a v : Nat) (poison : Bool := false) : State :=
  let line := a / 8
  let old := s.word a
  let p := s.parityWord line
  let t := s.putWord a (freshWord v poison)
  if !old.isBad && !p.isBad then
    let t := if p.cls = .clean then t else t.countEcc (8 * line) 5 p.syn false
    t.putParity line (freshWord (p.fixed ^^^ old.fixed ^^^ v) false)
  else if !old.isBad then (t.recomputeParity line).countEcc (8 * line) 6 p.syn false
  else
    let bad := (lineWords line).filter fun x => x ≠ a && (s.word x).isBad
    if bad.isEmpty && !p.isBad then t.recomputeParity line
    else if bad.isEmpty then (t.recomputeParity line).countEcc (8 * line) 6 p.syn false
    else (t.forEach bad fun t x => t.poisonWord x false).recomputeParity line

/-- Consecutive words written from an address. -/
def State.memWrites (s : State) (a : Nat) (l : List Nat) : State :=
  (l.foldl (fun (p : State × Nat) v => (p.1.memWrite p.2 v, p.2 + 1)) (s, a)).1

/-- `n` consecutive words read: their values, whether any was poisoned, and the state after. -/
def State.memReads (s : State) (a n : Nat) : List Nat × Bool × State :=
  (List.range n).foldl (fun (r : List Nat × Bool × State) i =>
    let x := r.2.2.memRead (a + i)
    (r.1 ++ [x.1], r.2.1 || x.2.1, x.2.2)) ([], false, s)

/-- SRAM_READ: a word read by a requester (R320). -/
def effSramRead (a : Nat) (s : State) : State :=
  if s.coreUp && decide (a ≤ sramLast) then (s.memRead a).2.2 else s

/-- SRAM_WRITE: a word write (R321). -/
def effSramWrite (a v : Nat) (s : State) : State :=
  if s.coreUp && decide (a ≤ sramLast) then s.memWrite a (v % 2 ^ 40) else s

/-- CODEC_MISMATCH: the duplicated codec disagreed twice on an access; the word is delivered poisoned and not written
back (R327). -/
def effCodecMismatch (a : Nat) (s : State) : State :=
  if s.coreUp && decide (a ≤ sramLast) then (s.deliverPoison).setFault pMEM 2 5 { cls := 2, action := 1, interrupt := 1 }
  else s

/-! ## The scrubber (R329–R331) -/

/-- INTERVAL from PERIOD in ms (R329). -/
def scrubInterval (period : Nat) : Nat := clampNat 100 60000 period * 216960 / 196608

/-- The interval in force: 110 on the fast pass (R331). -/
def State.scbInterval (s : State) : Nat :=
  if s.bit pSCB SCB.STATUS_FAST then 110 else s.get pSCB SCB.CFG_INTERVAL

/-- Start a pass at line 0, the fast one at the first retained bank (R330, R331). -/
def State.scbStart (s : State) : State :=
  let first := if s.bit pSCB SCB.STATUS_FAST then ((List.range 24).filter (s.bitOf pPWR PWR.RETAIN_BANKS)).headD 0 else 0
  let s := s.put pSCB SCB.POS_LINE (8192 * first)
  let p := clampNat 100 60000 (s.get pSCB SCB.CFG_PERIOD)
  let s : State := { s with scb := { passAt := s.now, passPeriod := p, written := false, lineAt := s.now } }
  s.resched s.scbInterval .scrubLine

/-- The line after `l` on the pass in progress: the next one, or on the fast pass the next in a retained bank. -/
def State.scbNext (s : State) (l : Nat) : Nat :=
  if s.bit pSCB SCB.STATUS_FAST && !s.bitOf pPWR PWR.RETAIN_BANKS ((l + 1) / 8192) then
    (((List.range 25).filter fun b => decide ((l + 1) / 8192 < b) && (s.bitOf pPWR PWR.RETAIN_BANKS b || b == 24)).headD 24)
      * 8192
  else l + 1

/-- A pass over all lines ends (R329, R330): PASS_END, producer 189, LATE when it outlasted its PERIOD; a fast pass ends
into a pass at PERIOD (R331). -/
def State.scbPassEnd (s : State) : State :=
  if s.bit pSCB SCB.STATUS_FAST then (s.putB pSCB SCB.STATUS_FAST false).scbStart
  else
    let late := !s.scb.written && decide (s.scb.passAt + s.scb.passPeriod * ms < s.now)
    let s := (s.incMod pSCB SCB.COUNT_PASSES).flag pSCB SCB.FLAG_PASS_END
    let s := s.when late fun s => (s.flag pSCB SCB.FLAG_LATE).recordErr pSCB 1
    (s.present 189 0).scbStart

/-- One line scrubbed: R320 applied to its eight words and to its parity word. -/
def State.scrubOne (s : State) (line : Nat) : State :=
  let s := s.forEach (lineWords line) fun s a => s.readState a true
  let p := s.parityWord line
  match p.cls with
  | .clean => s
  | .bad => if (lineWords line).any fun a => (s.word a).isBad then s
            else (s.recomputeParity line).countEcc (8 * line) 6 p.syn true
  | _ => (s.putParity line (freshWord p.fixed false)).countEcc (8 * line) 5 p.syn true

/-- SCRUB_LINE: the scrubber reads and repairs one line (R329); it stands while disabled or in HOLD (R330, R390). -/
def effScrubLine (s : State) : State :=
  if s.coreRuns && s.enabled pSCB then
    let l := s.get pSCB SCB.POS_LINE
    let s := s.scrubOne l
    let n := s.scbNext l
    if 196608 ≤ n then s.scbPassEnd
    else
      let s := s.put pSCB SCB.POS_LINE n
      let s : State := { s with scb := { s.scb with lineAt := s.now } }
      s.resched s.scbInterval .scrubLine
  else s

/-- SCB_PERIOD_WRITE: INTERVAL is recomputed on the write edge and the next line begins by it (R329). -/
def effScbPeriodWrite (v : Nat) (s : State) : State :=
  if s.coreUp then
    let s := s.writeFields pSCB 0x10 (word v)
    let s := s.put pSCB SCB.CFG_INTERVAL (scrubInterval (s.get pSCB SCB.CFG_PERIOD))
    let s : State := { s with scb := { s.scb with written := true } }
    if s.enabled pSCB && s.mode == 0 then s.resched (Nat.max 1 (s.scb.lineAt + s.scbInterval - s.now)) .scrubLine else s
  else s

/-- SCRUB_SEQ_MISMATCH: the duplicated line counter disagrees; the pass, a fast one too, restarts at line 0 (R330). -/
def effScrubSeqMismatch (s : State) : State :=
  if s.coreRuns then (s.setFault pSCB 1 2 { cls := 2, action := 1, interrupt := 1 }).scbStart.put pSCB SCB.POS_LINE 0 else s

/-! ## Self-test, zeroing, injection (R332–R335) -/

/-- A bank's words and parity words zeroed with valid check bits and cleared poison (R332). -/
def State.zeroBank (s : State) (b : Nat) : State :=
  { s with sram := s.sram.filter (fun c => !decide (c.1 / 8 / 65536 = b)),
           parity := s.parity.filter (fun c => !decide (c.1 / 8 / 8192 = b)) }

/-- The kept line written back from its AON copy after a self-test (R416). -/
def State.restoreKept (s : State) : State :=
  let words := (List.range 8).map fun k => (s.reg pFLT (0x18 + k)).toNat
  let line := s.get pFLT FLT.KEEP_ADDR_LINE
  let s := if line < 196608 then s.writeLine line words else s
  s.flag pFLT FLT.FLAG_KEPT

/-- Banks that failed their self-test: BIST.FAIL, FAULT.BIST, FLAG.BIST_DONE, code 0x06 (R333). -/
def State.bistResult (s : State) (banks fails : Nat) : State :=
  let f := (s.get pMEM MEM.BIST_FAIL &&& (0xFFFFFF ^^^ banks)) ||| (fails &&& banks)
  let s := (s.put pMEM MEM.BIST_FAIL f).flag pMEM MEM.FLAG_BIST_DONE
  if fails &&& banks = 0 then s else s.setFault pMEM 1 6 { cls := 0x0B }

/-- MEM.READY.READY, and with it DEV.READY.READY: CORE and CCLK are up and every bank is usable (R333, R403). -/
def State.memUp (s : State) : Bool := s.coreUp && s.get pMEM MEM.READY_BANK == 0xFFFFFF

/-- All banks are usable: MEM is ready (R333), the scrubber starts (R331) and a wake in progress may end (R392). -/
def State.memReady (s : State) : State :=
  let s := s.put pMEM MEM.READY_BANK 0xFFFFFF
  let s := (s.putB pMEM MEM.STATUS_BIST false).putB pMEM MEM.STATUS_INIT false
  let s : State := { s with memPhase := 0 }
  (s.when (s.enabled pSCB) State.scbStart).sched 0 .wakeComplete

/-- MEM_SELF_TEST: the self-test ends with the banks of `fails` failing: after a reset on every bank (R332), or on the
bank that BIST.GO named (R334). -/
def effMemSelfTest (fails : Nat) (s : State) : State :=
  if s.coreUp && s.memPhase == 1 then
    let s : State := { s with sram := [], parity := [] }
    let s := s.bistResult 0xFFFFFF fails
    s.restoreKept.memReady
  else if s.coreUp && s.memPhase == 3 then
    let b := s.bistBank
    let s := (s.zeroBank b).bistResult (2 ^ b) fails
    let s := s.putBit pMEM MEM.READY_BANK b true
    let s : State := { s with memPhase := 0 }
    s.putB pMEM MEM.STATUS_BIST false
  else s

/-- BANK_ZEROING: on a wake the banks not retained are zeroed (R334). -/
def effBankZeroing (s : State) : State :=
  if s.coreUp && s.memPhase == 2 then
    let r := if s.get pDEV DEV.STATUS_MODE = 4 then 0 else s.get pPWR PWR.RETAIN_BANKS
    let s := s.forEach ((List.range 24).filter fun b => !r.testBit b) fun s b => s.zeroBank b
    let s := s.when (r != 0) fun s => s.putB pSCB SCB.STATUS_FAST true
    s.memReady
  else s

/-- BIST_GO: self-test of one bank, refused with code 0x08 while the Conductor is enabled, a protocol, Blitz or
inventory engine is busy, a capture is armed or running, or the bank does not exist (R334). -/
def effBistGo (s : State) : State :=
  if s.coreUp then
    let b := s.get pMEM MEM.BIST_BANK
    let busy := s.enabled pCND0 || s.get pINV INV.STATUS_STATE != 0 || s.get pBLZ BLZ.STATUS_LANE_BUSY != 0 ||
      s.get pPRT PRT.STATUS_ENG_BUSY != 0 || (List.range 17).any fun n => s.bit (pRXC n) RXC.STATUS_CAPTURING
    if busy || decide (24 ≤ b) || s.memPhase != 0 then s.recordErr pMEM 8
    else
      let s := (s.putB pMEM MEM.STATUS_BIST true).putBit pMEM MEM.READY_BANK b false
      { s with memPhase := 3, bistBank := b }
  else s

/-- A refused injection: target beyond SRAM also sets FLAG.RANGE (R335). -/
def State.injRefused (s : State) : Option State :=
  if s.locked pMEM then some (s.recordErr pMEM 8)
  else if sramLast < s.get pMEM MEM.INJ_ADDR then some ((s.flag pMEM MEM.FLAG_RANGE).recordErr pMEM 8)
  else none

/-- Stored bits inverted as INJ names them (R335). -/
def Stored.flip (w : Stored) (mask chk : Nat) : Stored := { w with data := w.data ^^^ mask, chk := w.chk ^^^ chk }

/-- INJ_GO: stored bits of a word or parity word inverted, uncorrected (R335). -/
def effInjGo (s : State) : State :=
  if s.coreUp then
    match s.injRefused with
    | some t => t
    | none =>
      let a := s.get pMEM MEM.INJ_ADDR
      let m := s.get pMEM MEM.INJ_MASK
      let c := s.get pMEM MEM.INJ_CHECK_MASK
      if s.bit pMEM MEM.INJ_PARITY then s.putParity (a / 8) ((s.parityWord (a / 8)).flip m c)
      else s.putWord a ((s.word a).flip m c)
  else s

/-- INJ_RAW: the target's stored bits copied into RAW and RAW_CHK (R335). -/
def effInjRaw (s : State) : State :=
  if s.coreUp then
    match s.injRefused with
    | some t => t
    | none =>
      let a := s.get pMEM MEM.INJ_ADDR
      let w := if s.bit pMEM MEM.INJ_PARITY then s.parityWord (a / 8) else s.word a
      let s := s.put pMEM MEM.RAW w.data
      let s := s.put pMEM MEM.RAW_CHK_CHECK w.chk
      s.putB pMEM MEM.RAW_CHK_POISON w.poisoned
  else s

/-! ## The host window (R328) -/

/-- The word a window register stands for, if the window serves it. -/
def State.winAddr (s : State) (k : Nat) : Option Nat :=
  let a := s.get pMEM MEM.ACC_BASE_ADDR + k
  if sramLast < a ∨ (s.memPhase = 3 ∧ a / 65536 = s.bistBank) then none else some a

/-- A window access that is not served: 0 read or the write discarded, FLAG.RANGE and code 0x07. -/
def State.winRange (s : State) : State := (s.flag pMEM MEM.FLAG_RANGE).recordErr pMEM 7

/-- A read of WINk: its value and mark, and the state after (R328); WIN0 under a TST codec injection is delivered
poisoned under R327 with the stored word unchanged (R423). -/
def State.winRead (s : State) (k : Nat) : Nat × Bool × State :=
  if !s.enabled pMEM then (0, false, s)
  else match s.winAddr k with
    | none => (0, false, s.winRange)
    | some a =>
      if s.codecInj && k == 0 then
        let v := (s.peek a).1
        let s : State := { s with codecInj := false }
        let s := (s.deliverPoison).setFault pMEM 2 5 { cls := 2, action := 1, interrupt := 1 }
        (v, true, s.putBit pMEM MEM.WIN_PSN_WIN k true)
      else
        let r := s.memRead a
        (r.1, r.2.1, r.2.2.putBit pMEM MEM.WIN_PSN_WIN k r.2.1)

/-- A write of WINk (R328). -/
def State.winWrite (s : State) (k v : Nat) (poison : Bool) : State :=
  if !s.enabled pMEM then s
  else match s.winAddr k with
    | none => s.winRange
    | some a => s.memWrite a v poison

/-- MEM_WINDOW_READ: a host read of WINk. -/
def effMemWindowRead (k : Nat) (s : State) : State :=
  if s.coreUp && decide (k < 32) then
    let r := s.winRead k
    { r.2.2 with hpt := { r.2.2.hpt with out := beBytes 5 r.1 } }
  else s

/-- MEM_WINDOW_WRITE: a host write of WINk. -/
def effMemWindowWrite (k v : Nat) (s : State) : State :=
  if s.coreUp && decide (k < 32) then s.winWrite k (v % 2 ^ 40) false else s

/-! ## Check-value units (R336–R341) -/

/-- The captured configuration of an open block: POLY, MODE, FOLD_WIDTH, DIR, as CFG [9:0]. -/
def State.ckuCfg (s : State) (n : Nat) : Nat := nth s.cku (2 * n)
/-- The last byte fed to the open block. -/
def State.ckuLast (s : State) (n : Nat) : Nat := nth s.cku (2 * n + 1)
def State.setCkuCfg (s : State) (n v : Nat) : State := { s with cku := s.cku.set (2 * n) v }
def State.setCkuLast (s : State) (n v : Nat) : State := { s with cku := s.cku.set (2 * n + 1) v }

/-- Width of a POLY in bits (R336). -/
def ckuWidth (poly : Nat) : Nat := if poly = 3 then 32 else 16
/-- Reflected polynomial (R336). -/
def ckuPoly (poly : Nat) : Nat := if poly = 3 then poly32 else poly16
/-- Initial value (R336). -/
def ckuInit (poly : Nat) : Nat := if poly = 0 then 0x6363 else if poly = 3 then 0xFFFFFFFF else 0xFFFF
/-- Final XOR (R336). -/
def ckuXor (poly : Nat) : Nat := if poly = 0 then 0 else if poly = 3 then 0xFFFFFFFF else 0xFFFF

/-- The fold F of a native block (R338). -/
def ckuFold (poly width v : Nat) : Nat :=
  if poly = 3 then (if width = 0 then v % 65536 * 0x10001 else v)
  else if width = 0 then v % 65536 else v % 65536 ^^^ (v / 65536 % 65536)

/-- The mark on RESULT and RUN of a unit (R341). -/
def State.ckuMark (s : State) (n : Nat) (b : Bool) : State :=
  let p := pCKU n * 256
  let l := s.regPsn.filter fun k => k ≠ p + 0x14 ∧ k ≠ p + 0x15
  { s with regPsn := if b then l ++ [p + 0x14, p + 0x15] else l }

/-- CKU_START: CFG captured, the running register seeded, the block open (R337, R338); an open block is abandoned, a
reserved POLY or MODE opens none. -/
def effCkuStart (n : Nat) (s : State) : State :=
  if s.coreRuns && decide (n < 4) && s.enabled (pCKU n) then
    let pg := pCKU n
    let poly := s.get pg CKU.CFG_POLY
    let mode := s.get pg CKU.CFG_MODE
    let s := s.ckuMark n false
    if 4 ≤ poly ∨ mode = 3 then
      ((s.putB pg CKU.STATUS_OPEN false).flag pg CKU.FLAG_BAD_CFG).recordErr pg 5
    else
      let f := ckuFold poly (s.get pg CKU.CFG_FOLD_WIDTH) (s.get pg CKU.FOLD_VALUE)
      let seed := if mode = 1 then ckuInit poly ^^^ f else ckuInit poly
      let s := (s.setCkuCfg n (s.get pg CKU.CFG)).setCkuLast n 0
      (s.put pg CKU.RUN_REG seed).putB pg CKU.STATUS_OPEN true
  else s

/-- Feed bytes into a unit's running register. -/
def State.ckuFeed (s : State) (n : Nat) (bytes : List Nat) : State :=
  let pg := pCKU n
  let poly := bits (s.ckuCfg n) 2 0
  let s := s.put pg CKU.RUN_REG (crcRun (ckuPoly poly) (s.get pg CKU.RUN_REG) bytes)
  s.setCkuLast n (bytes.getLastD 0)

/-- CKU_DATA: a write of DATAm feeds m bytes (R337); with no block open it is discarded with code 0x06; a poison mark is
fed as written and marks the block (R341). -/
def effCkuData (n m v : Nat) (poison : Bool) (s : State) : State :=
  if s.coreRuns && decide (n < 4 ∧ 1 ≤ m ∧ m ≤ 5) && s.enabled (pCKU n) then
    let pg := pCKU n
    if !s.bit pg CKU.STATUS_OPEN then s.recordErr pg 6
    else
      let s := s.ckuFeed n (beBytes m v)
      if poison then ((s.ckuMark n true).flag pg CKU.FLAG_POISON).recordErr pg 4 else s
  else s

/-- The comparison of R340: RESULT with EXPECT over the width of the CRC. -/
def State.ckuCompare (s : State) (n : Nat) : State :=
  let pg := pCKU n
  let w := ckuWidth (bits (s.ckuCfg n) 2 0)
  let ok := s.get pg CKU.RESULT_VALUE % 2 ^ w == s.get pg CKU.EXPECT_VALUE % 2 ^ w
  let s := s.putB pg CKU.STATUS_MATCH ok
  if ok then s else (s.flag pg CKU.FLAG_MISMATCH).recordErr pg 1

/-- The received alive counter against the latest accepted one (R339). -/
def State.ckuAlive (s : State) (n : Nat) : State :=
  let pg := pCKU n
  let c := s.ckuLast n % 16
  let last := s.get pg CKU.ALIVE_LAST
  let valid := s.bit pg CKU.ALIVE_LAST_VALID
  let d := (c + 16 - last) % 16
  let s := if valid && c == last then (s.flag pg CKU.FLAG_REPEAT).recordErr pg 2
    else if valid && decide (1 < d) then
      ((s.flag pg CKU.FLAG_GAP).recordErr pg 3).put pg CKU.ALIVE_GAP (d - 1)
    else s
  let s := (s.put pg CKU.ALIVE_LAST c).putB pg CKU.ALIVE_LAST_VALID true
  s.put pg CKU.ALIVE_OUT c

/-- CKU_END: final XOR, RESULT, FLAG.DONE and the mode's work (R337–R340). -/
def effCkuEnd (n : Nat) (s : State) : State :=
  if s.coreRuns && decide (n < 4) && s.enabled (pCKU n) && s.bit (pCKU n) CKU.STATUS_OPEN then
    let pg := pCKU n
    let cfg := s.ckuCfg n
    let poly := bits cfg 2 0
    let mode := bits cfg 5 4
    let dir := cfg.testBit 9
    let s := if mode = 2 ∧ dir = false then
        let c := s.get pg CKU.ALIVE_NEXT
        let s := s.ckuFeed n [c]
        (s.put pg CKU.ALIVE_OUT c).put pg CKU.ALIVE_NEXT (c + 1)
      else s
    let r := s.get pg CKU.RUN_REG ^^^ ckuXor poly
    let s := s.put pg CKU.RESULT_VALUE r
    let s := (s.putB pg CKU.STATUS_OPEN false).flag pg CKU.FLAG_DONE
    let s := if dir then s.ckuCompare n else s
    if mode = 1 then s.put pg CKU.FOLD_VALUE (s.get pg CKU.FOLD_VALUE + s.get pg CKU.FOLD_STEP)
    else if mode = 2 ∧ dir = true ∧ s.bit pg CKU.STATUS_MATCH = true then s.ckuAlive n
    else s
  else s

/-- CKU_RUN_WRITE: a write of RUN replaces the running register (R341). -/
def effCkuRunWrite (n v : Nat) (s : State) : State :=
  if s.coreUp && decide (n < 4) then s.writeFields (pCKU n) 0x15 (word v) else s

/-- CKU_LOGIC_MISMATCH: FAULT.LOGIC, and the open block is marked as poisoned (R341). -/
def effCkuLogicMismatch (n : Nat) (s : State) : State :=
  if s.coreRuns && decide (n < 4) then
    let s := s.when (s.bit (pCKU n) CKU.STATUS_OPEN) fun s => s.ckuMark n true
    s.setFault (pCKU n) 1 7 { cls := 2, action := 1, interrupt := 1 }
  else s

end Sys2Proof.Machine
end

