-- ==== Sys2Proof/Machine/Ledger.lean ====
section
/-! DEFINITION. The Ledger and the change ring of the inventory (R218–R222). -/

namespace Sys2Proof.Machine

open Sys2Proof

/-- Entries per port (R218). -/
def State.perPort (s : State) : Nat := s.get pINV INV.CFG_PER_PORT + 1

/-- The first word of an entry (R218). -/
def State.entryAddr (s : State) (p i : Nat) : Nat := s.get pINV INV.LEDGER_BASE_ADDR + 8 * (s.perPort * p + i)

/-- The Ledger lies in SRAM (R218). -/
def State.ledgerFits (s : State) : Bool := decide (s.get pINV INV.LEDGER_BASE_ADDR + 1536 * s.perPort ≤ sramLast + 1)

/-- The Ledger is kept: INV is enabled and its Ledger lies in SRAM. -/
def State.ledgerOn (s : State) : Bool := s.coreUp && s.enabled pINV && s.ledgerFits

/-- The chain port number of a port (R21). -/
def State.cpn (s : State) (p : Nat) : Nat := 192 * s.get pDEV DEV.BOARD_NUM_NUM + p

/-- A record of a change written to the ring, or dropped when it is full (R222); KIND 4–6 also present the SEAL event. -/
def State.invRecord (s : State) (kind port entry : Nat) : State :=
  let size := orDefault 256 (s.get pINV INV.RING_SIZE)
  let wr := s.get pINV INV.RING_WR
  if (wr + 1) % size = s.get pINV INV.RING_RD then
    ((s.inc pINV INV.COUNT2_DROPPED).flag pINV INV.FLAG_RING_FULL).recordErr pINV 5
  else
    let v := kind * 2 ^ 36 + port * 2 ^ 28 + entry * 2 ^ 26 + s.get pINV INV.COUNT2_PASSES
    let a := s.get pINV INV.RING_BASE_ADDR + wr
    let s := s.when (decide (a ≤ sramLast)) fun s => s.memWrite a v
    let s := (s.put pINV INV.RING_WR ((wr + 1) % size)).flag pINV INV.FLAG_CHANGE
    let s := s.present 119 s.inv.hop
    if 4 ≤ kind ∧ kind ≤ 6 then s.present 120 s.inv.hop else s

/-- The eight words of an entry; a poisoned one is not used: the entry counts as free, with FLAG.POISON, code 0x04 and a
POISON record (R221). -/
def State.entry (s : State) (p i : Nat) : List Nat × State :=
  let r := s.memReads (s.entryAddr p i) 8
  if r.2.1 then
    (List.replicate 8 0, ((r.2.2.flag pINV INV.FLAG_POISON).recordErr pINV 4).invRecord 8 p i)
  else (r.1, r.2.2)

/-- Fields of an entry (R219). -/
def entProto (e : List Nat) : Nat := bits (nth e 0) 39 36
def entState (e : List Nat) : Nat := bits (nth e 0) 35 33
def entSealPending (e : List Nat) : Bool := bitAt (nth e 0) 32
def entBlitzCap (e : List Nat) : Bool := bitAt (nth e 0) 31
def entInBlitz (e : List Nat) : Bool := bitAt (nth e 0) 30
def entSealCap (e : List Nat) : Bool := bitAt (nth e 0) 29
def entUidLen (e : List Nat) : Nat := bits (nth e 0) 28 25
def entMisses (e : List Nat) : Nat := bits (nth e 0) 10 7

/-- An entry is free (R219). -/
def entFree (e : List Nat) : Bool := entProto e == 0 || entState e == 0

/-- Bits [hi:lo] of a word replaced. -/
def setBits (v hi lo x : Nat) : Nat := v - bits v hi lo * 2 ^ lo + x % 2 ^ (hi + 1 - lo) * 2 ^ lo

/-- Bits [hi:lo] of word `k` of an entry replaced. -/
def entSet (e : List Nat) (k hi lo x : Nat) : List Nat := e.set k (setBits (nth e k) hi lo x)

/-- The bytes of the UID of an entry or a result entry, from its two UID words and length. -/
def uidOf (w1 w2 len : Nat) : List Nat := (beBytes 5 w1 ++ beBytes 5 w2).take len

/-- The UID bytes of an entry. -/
def entUid (e : List Nat) : List Nat := uidOf (nth e 1) (nth e 2) (entUidLen e)

/-- The words of an entry that differ are written. -/
def State.putEntry (s : State) (p i : Nat) (old new : List Nat) : State :=
  s.forEach (List.range 8) fun s k =>
    if nth old k = nth new k then s else s.memWrite (s.entryAddr p i + k) (nth new k)

/-- A read-modify-write of every entry of a port in use (R221). -/
def State.eachEntry (s : State) (p : Nat) (f : List Nat → List Nat) : State :=
  if s.ledgerOn then
    s.forEach (List.range s.perPort) fun s i =>
      let r := s.entry p i
      if entFree r.1 then r.2 else r.2.putEntry p i r.1 (f r.1)
  else s

/-- The field of a port goes off: every entry not ABSENT becomes IDLE (R220). -/
def State.ledgerOff (s : State) (p : Nat) : State :=
  s.eachEntry p fun e => entSet (entSet e 0 35 33 1) 0 30 30 0

/-- STATE of the port's entry with a UID and protocol changed (R220). -/
def State.ledgerTag (s : State) (p proto : Nat) (uid : List Nat) (from_ : Option Nat) (st : Nat) : State :=
  s.eachEntry p fun e =>
    if entProto e = proto ∧ entUid e = uid ∧ (from_ = none ∨ from_ = some (entState e)) then entSet e 0 35 33 st else e

/-- A Ledger change of the port's ACTIVE entry. -/
def State.ledgerActive (s : State) (p : Nat) (f : List Nat → List Nat) : State :=
  s.eachEntry p fun e => if entState e = 3 then f e else e

/-- The GAIN that the Ledger holds for a Blitz listen on a port: of its ACTIVE entry in Blitz, else of the Blitz-capable
entry seen last (R222). -/
def State.ledgerGain (s : State) (p : Nat) : Option Nat × State :=
  if s.ledgerOn then
    let r := (List.range s.perPort).foldl (fun (a : Option Nat × Option (Nat × Nat) × State) i =>
      let e := a.2.2.entry p i
      let g := bits (nth e.1 5) 14 8
      if entFree e.1 then (a.1, a.2.1, e.2)
      else if entState e.1 = 3 ∧ entInBlitz e.1 = true then (if a.1.isNone then some g else a.1, a.2.1, e.2)
      else if entBlitzCap e.1 then
        let newer := match a.2.1 with
          | none => true
          | some (t, _) => decide ((nth e.1 4 + 2 ^ 40 - t) % 2 ^ 40 < 2 ^ 39)
        (a.1, if newer then some (nth e.1 4, g) else a.2.1, e.2)
      else (a.1, a.2.1, e.2)) (none, none, s)
    (match r.1, r.2.1 with
      | some g, _ => some g
      | none, some (_, g) => some g
      | none, none => none, r.2.2)
  else (none, s)

/-! ## Kibitz baselines that other blocks restart (R233) -/

/-- The value that a port's CAP gives its bank: one just written from the next carrier-cycle boundary on (R94). -/
def State.capNow (s : State) (p : Nat) : Nat :=
  let v := s.get (pFIL (p / 8)) (FIL.TUNE_CAP (p % 8))
  match AMap.find p s.kbz.capAt, AMap.find p s.kbz.capWas with
  | some t, some old => if s.now < t + (16 - t % 16) then old else v
  | _, _ => v

/-- A write to a port's CAP, its bank at `old` so far: its baseline goes to LEARN, n restarted (R94, R233, R246). -/
def State.kbzLearn (s : State) (p old : Nat) : State :=
  let s := s.put pKBZ (KBZ.BASE_STATE p) 1
  { s with kbz := { s.kbz with
      learn := AMap.erase p s.kbz.learn, capAt := AMap.insert p s.now s.kbz.capAt, capWas := AMap.insert p old s.kbz.capWas } }

end Sys2Proof.Machine
end

