-- ==== Sys2Proof/Machine/Rails.lean ====
section
/-! DEFINITION. The supply rails and the PMBus sequencer (R387, R388, R394–R397) and the rail demand of the transmit
chains (R108, R109). -/

namespace Sys2Proof.Machine

open Sys2Proof

/-! ## Access -/

def State.rail (s : State) (r : Nat) : Rail := s.pwr.rails.getD r Rail.reset

def State.withPwr (s : State) (f : Pwr → Pwr) : State := { s with pwr := f s.pwr }

def State.withRail (s : State) (r : Nat) (f : Rail → Rail) : State :=
  s.withPwr fun p => { p with rails := p.rails.set r (f (s.rail r)) }

def State.tx (s : State) (n : Nat) : Txc := s.txc.getD n Txc.reset

def State.withTx (s : State) (n : Nat) (f : Txc → Txc) : State := { s with txc := s.txc.set n (f (s.tx n)) }

/-- How a rail is handled (R388): 0 PMBus, 1 fixed, 2 absent; rails 0 and 1 are never absent, and 3 acts as 2. -/
def State.railCtl (s : State) (r : Nat) : Nat :=
  let c := s.get pPWR (PWR.RAIL_CFG_CTL r)
  if r < 2 then Nat.min 1 c else Nat.min 2 c

/-- RAILr_STAT.STATE: 0 OFF, 1 REQUESTING, 2 RAMPING, 3 GOOD, 4 FAILED. -/
def State.railState (s : State) (r : Nat) : Nat := s.get pPWR (PWR.RAIL_STAT_STATE r)

/-- The declared voltage of a fixed PA rail in mV (R109). -/
def State.vfix (s : State) (r : Nat) : Nat :=
  let v := s.get pPWR (PWR.RAIL_CFG_VFIX r)
  10 * (if v = 0 ∨ 500 < v then 500 else Nat.max 180 v)

/-- The request of a rail at start-up in mV: VSET for rails 0 and 1, the floor for rails 2 and 3 (R387, R392). -/
def State.railSet (s : State) (r : Nat) : Nat :=
  match r with
  | 0 => clampNat 720 900 (s.get pPWR PWR.VSET_CORE)
  | 1 => clampNat 1710 1890 (s.get pPWR PWR.VSET_ANA)
  | 2 => 10 * clampNat 180 500 (s.get pPWR PWR.PA_CFG_FLOOR_A)
  | _ => 10 * clampNat 180 500 (s.get pPWR PWR.PA_CFG_FLOOR_B)

/-! ## Voltage formats (R394) -/

/-- VOUT_COMMAND for a voltage in mV and a VOUT_MODE exponent: ceil(V × 2^−N). -/
def voutCommand (mv expo : Nat) : Nat :=
  let n := sext 5 expo
  if n < 0 then ceilDiv (mv * 2 ^ (-n).toNat) 1000 else ceilDiv mv (1000 * 2 ^ n.toNat)

/-- A READ_VOUT word in mV. -/
def voutRead (raw expo : Nat) : Nat :=
  let n := sext 5 expo
  if n < 0 then raw * 1000 / 2 ^ (-n).toNat else raw * 1000 * 2 ^ n.toNat

/-- READ_VOUT lies within PMB.TOL % of the request (R395). -/
def State.voutGood (s : State) (r : Nat) : Bool :=
  let v := s.get pPWR (PWR.RAIL_STAT_VOUT r)
  let q := (s.rail r).req
  decide ((v - q + (q - v)) * 100 ≤ orDefault 1 (s.get pPWR PWR.PMB_TOL) * q)

/-- STATUS_WORD bits 11 (POWER_GOOD#) and 6 (OFF) are 0 (R395). -/
def statusGood (w : Nat) : Bool := !w.testBit 11 && !w.testBit 6

/-! ## The sequencer -/

/-- A request taken into the queue by rank, behind the one in service (R397). -/
def insertJob (j : Job) : List Job → List Job
  | [] => [j]
  | h :: t => if j.prio < h.prio then j :: h :: t else h :: insertJob j t

def putJob (j : Job) : List Job → List Job
  | [] => [j]
  | h :: t => h :: insertJob j t

/-- PG_TIMEOUT in CCLK (R395). -/
def State.pgTimeout (s : State) (r : Nat) : Nat := orDefault 1 (s.get pPWR (PWR.RAIL_CFG_PG_TIMEOUT r)) * ms

/-- The request at the front comes into service: the time of a rail attempt starts (R395). -/
def State.serveJob (s : State) : State :=
  match s.pwr.jobs with
  | j :: _ => if j.op = 0 ∨ j.op = 1 then s.resched (s.pgTimeout j.rail) (.railAttemptTimeout j.rail) else s
  | [] => s

/-- A request handed to the sequencer. -/
def State.addJob (s : State) (j : Job) : State :=
  let idle := s.pwr.jobs.isEmpty
  let s := s.withPwr fun p => { p with jobs := putJob j p.jobs }
  if idle then s.serveJob else s

/-- The request in service is complete. -/
def State.popJob (s : State) : State := (s.withPwr fun p => { p with jobs := p.jobs.drop 1 }).serveJob

/-- Requests of a rail taken off the queue. -/
def State.dropJobs (s : State) (r : Nat) : State :=
  s.withPwr fun p => { p with jobs := p.jobs.filter fun j => j.rail ≠ r }

/-- Rail `r` is no longer acknowledged. -/
def State.railDown (s : State) (r state : Nat) : State :=
  let s := s.put pPWR (PWR.RAIL_STAT_STATE r) state
  let s := s.putBit pPWR PWR.STATUS_RAIL r false
  s.withRail r fun x => { x with ack := 0 }

/-- An attempt to bring a CTL 0 rail up at `mv` (R395). -/
def State.railUp (s : State) (r mv prio : Nat) : State :=
  if s.railCtl r = 0 then
    let s := s.dropJobs r
    let s := s.withRail r fun x => { x with req := mv, prio := prio, tries := 1 }
    let s := s.put pPWR (PWR.RAIL_STAT_STATE r) 1
    let s := s.put pPWR (PWR.RAIL_STAT_TRIES r) 1
    s.addJob { rail := r, op := 0, prio := prio, todo := [0x03, 0x20, 0x21, 0x01], reps := 0 }
  else s

/-- A voltage change on a rail that is on (R395): `op` 1 a raise, 3 a lowering. -/
def State.railChange (s : State) (r mv op : Nat) : State :=
  let prio := if op = 3 then 3 else 2
  let s := s.dropJobs r
  let s := s.withRail r fun x => { x with req := mv, prio := prio, tries := 1 }
  let s := s.put pPWR (PWR.RAIL_STAT_STATE r) 1
  let s := s.put pPWR (PWR.RAIL_STAT_TRIES r) 1
  s.addJob { rail := r, op := op, prio := prio, todo := [0x21], reps := 0 }

/-- OPERATION 0x00 for a CTL 0 rail (R390, R396). -/
def State.railOff (s : State) (r : Nat) : State :=
  if s.railCtl r = 0 then
    let s := (s.dropJobs r).unsched (.railAttemptTimeout r)
    let s := s.withRail r fun x => { x with req := 0 }
    (s.railDown r (s.railState r)).addJob { rail := r, op := 2, prio := 1, todo := [0x01], reps := 0 }
  else s

/-- The safe request (R397): OPERATION 0x00 to rail 3 and then rail 2, before anything else. -/
def State.safeRequest (s : State) : State :=
  let rs := [3, 2].filter fun r => s.railCtl r == 0
  let s := s.forEach rs fun s r => (s.dropJobs r).unsched (.railAttemptTimeout r)
  let jobs := rs.map fun r => ({ rail := r, op := 4, prio := 0, todo := [0x01], reps := 0 } : Job)
  s.withPwr fun p => { p with jobs := jobs ++ p.jobs.map fun j => { j with reps := 0 } }

/-! ## Demand (R108, R109) -/

/-- VNEED in 10 mV units for a power in mW and RLOAD in 0.5 Ω: 0.6 V + √(2 × LEVEL × RLOAD), rounded up, 1.8–5.0 V. -/
def vneedOf (level rload : Nat) : Nat :=
  clampNat 180 500 (60 + isqrtUp (10 * Nat.min 500 level * clampNat 10 100 rload))

/-- The Wing that TXC8 serves, plus 1; 0 none. -/
def State.tx8Serve (s : State) : Nat := s.get (pTXC 8) TXC.CFG_SERVE

/-- The Wing that TXC8 serves or is taking over, plus 1; 0 none (R98, R113). -/
def State.tx8For (s : State) : Nat :=
  if s.tx8Serve ≠ 0 then s.tx8Serve else if (s.tx 8).takeover ≠ 0 then (s.tx 8).tookPort + 1 else 0

/-- The page whose configuration a chain acts on: TXC8 acts on the mirror of TXC w while it serves Wing w (R113). -/
def State.txPage (s : State) (n : Nat) : Nat :=
  if n = 8 ∧ s.tx8For ≠ 0 then pTXC (s.tx8For - 1) else pTXC n

/-- A configuration field of a chain as it acts on it: TXC8, while it serves, has it from its mirror (R113). -/
def State.txGet (s : State) (n : Nat) (f : Fld) : Nat :=
  if n = 8 ∧ s.tx8For ≠ 0 then s.mget (pTXC (s.tx8For - 1)) f else s.get (pTXC n) f

/-- STATUS.FIELD of a chain: 0 OFF, 1 ARMED, 2 RAMP_UP, 3 SETTLE, 4 ON, 5 RAMP_DOWN, 6 SWITCH, 7 TUNING. -/
def State.fieldSt (s : State) (n : Nat) : Nat := s.get (pTXC n) TXC.STATUS_FIELD

/-- The power a chain is set to deliver in mW: LEVEL, or ATUNE.LEVEL of the page an auto-tune uses (R96, R99); a cross-Board
drive has its own (R305). -/
def State.txLevel (s : State) (n : Nat) : Nat :=
  if (s.tx n).level ≠ 0 then Nat.min 500 ((s.tx n).level - 1)
  else if (s.tx n).act = 3 then Nat.min 500 (s.get (s.tx n).tunePage TXC.ATUNE_LEVEL)
  else Nat.min 500 (s.txGet n TXC.POWER_LEVEL)

def State.txLoad (s : State) (n : Nat) : Nat := clampNat 10 100 (s.txGet n TXC.POWER_RLOAD)

/-- The rail voltage a chain needs for what it delivers, 10 mV units. -/
def State.vneed (s : State) (n : Nat) : Nat := vneedOf (s.txLevel n) (s.txLoad n)

/-- The Wing a chain works for: its own, the one TXC8 serves, or the tuned port's (R98). -/
def State.txWing (s : State) (n : Nat) : Nat :=
  if n < 8 then n else if s.tx8For ≠ 0 then s.tx8For - 1 else (s.tx 8).port / 24

/-- The rail a chain counts on (R22, R109). -/
def State.txRail (s : State) (n : Nat) : Nat := if s.txWing n < 4 then 2 else 3

/-- The demand of a PA rail in mV (R109); it is ignored while the Board has resigned (R419). -/
def State.demand (s : State) (r : Nat) : Nat :=
  (List.range 9).foldl (fun d n =>
    if s.fieldSt n ≠ 0 ∧ s.txRail n = r then Nat.max d (10 * s.vneed n) else d) (s.railSet r)

/-- The lowering delay in CCLK (R109). -/
def State.lowerDelay (s : State) : Nat := orDefault 1 (s.get pPWR PWR.PA_CFG_LOWER_MS) * ms

/-- The Board has resigned (R419). -/
def State.resigned (s : State) : Bool := s.bit pFLT FLT.STATUS_RESIGNED

/-- The request of a rail that a rise of demand meets while it is being brought up (R109, R395): the voltage follows, and VOUT_COMMAND is sent
in the attempt unless it is still to come; `none` where no attempt with OPERATION 0x80 still to send is under way. -/
def State.raiseInUp (s : State) (r d : Nat) : Option State :=
  match s.pwr.jobs.find? fun j => j.rail == r && (j.op == 5 || (j.op == 0 && j.todo.contains 0x01)) with
  | none => none
  | some _ =>
    let s := s.withRail r fun x => { x with req := d }
    some (s.withPwr fun p => { p with jobs := p.jobs.map fun j =>
      if j.rail = r ∧ j.op = 0 ∧ (j.todo.drop 1).contains 0x21 = false then { j with todo := j.todo ++ [0x21] } else j })

/-- A PA rail follows its demand (R109): a rise is requested at once, from OFF or FAILED by a new set of attempts, during an attempt within
it; a fall after the lowering delay. -/
def State.followRail (s : State) (r : Nat) : State :=
  if s.railCtl r ≠ 0 ∨ s.resigned = true ∨ s.coreRuns = false then s
  else
    let d := s.demand r
    let q := (s.rail r).req
    if q < d then
      let s := s.unsched (.railLowering r)
      if s.railState r = 0 ∨ s.railState r = 4 then s.railUp r d 2
      else match s.raiseInUp r d with
        | some t => t
        | none => s.railChange r d 1
    else if d < q then (if s.agenda.any (fun e => e.2 == .railLowering r) then s else s.sched s.lowerDelay (.railLowering r))
    else s.unsched (.railLowering r)

def State.followRails (s : State) : State := (s.followRail 2).followRail 3

/-- RAIL_LOWERING: the demand has stayed below the requested voltage for the delay; the lower one is requested (R109). -/
def effRailLowering (r : Nat) (s : State) : State :=
  if decide (r = 2 ∨ r = 3) && s.railCtl r == 0 && !s.resigned && s.railState r == 3 && decide (s.demand r < (s.rail r).req) then
    s.railChange r (s.demand r) 3
  else s

/-! ## Waiting field-ons -/

/-- The chains whose pending action waits, and the moves that wait for lock, look again at their conditions at the next
carrier-cycle boundary (R103, R258). -/
def State.wakeChains (s : State) : State :=
  let s := s.forEach (List.range 9) fun s n =>
    if (s.tx n).fired && (s.tx n).act != 0 && !s.agenda.any (fun e => e.2 == .fieldLaunch n) then
      s.sched s.toCarrier (.fieldLaunch n)
    else s
  s.forEach (List.range 12) fun s c =>
    if s.run c == 4 && !(s.ctx c).committed && (s.moveWing c).isSome && !s.agenda.any (fun e => e.2 == .rfMoveLaunch c false) then
      s.sched s.toCarrier (.rfMoveLaunch c false)
    else s

/-! ## Acknowledgement and failure (R395, R396) -/

/-- The acknowledgement of a rail: the voltage asked for, or the declared one of a fixed rail. -/
def State.acknowledge (s : State) (r : Nat) : State :=
  let v := if s.railCtl r = 0 then (s.rail r).req else if r < 2 then s.railSet r else s.vfix r
  let s := (s.unsched (.railAttemptTimeout r)).withRail r fun x => { x with req := v, ack := v }
  let s := s.put pPWR (PWR.RAIL_STAT_STATE r) 3
  let s := if s.railCtl r = 0 ∧ s.bit pPWR (PWR.RAIL_CFG_ACK r) = true then s else s.put pPWR (PWR.RAIL_STAT_VOUT r) v
  s.putBit pPWR PWR.STATUS_RAIL r true

/-- A failed attempt (R395): code 0x01, STATUS_WORD is read once and OPERATION 0x00 sent. -/
def State.failAttempt (s : State) (r : Nat) : State :=
  let prio := (s.rail r).prio
  let s := ((s.unsched (.railAttemptTimeout r)).flag pPWR PWR.FLAG_RAIL_FAIL).recordErr pPWR 1
  let s := s.railDown r 1
  let s := s.dropJobs r
  s.addJob { rail := r, op := 5, prio := prio, todo := [0x79, 0x01], reps := 0 }

/-- RAIL_ATTEMPT_TIMEOUT: the acknowledgement has not come within PG_TIMEOUT (R395). -/
def effRailAttemptTimeout (r : Nat) (s : State) : State :=
  if decide (r < 4) && s.railCtl r == 0 && decide (s.railState r = 1 ∨ s.railState r = 2) then s.failAttempt r else s

/-- The bytes that a transaction writes: address, command and data, low byte first, and while PMB.PEC_EN is 1 the PEC byte of SMBus after
them, a CRC-8 from 0 over them; a read repeats the address, and its PEC byte comes from the regulator (R5, R394; assumption 69). -/
def State.pmbBytes (s : State) (j : Job) (cmd : Nat) : List Nat :=
  let a := 2 * s.get pPWR (PWR.RAIL_CFG_ADDR j.rail)
  let pec := fun l : List Nat => if s.bit pPWR PWR.PMB_PEC_EN then l ++ [crc8Run 0 l] else l
  if cmd = 0x21 then
    let v := voutCommand (s.rail j.rail).req (s.rail j.rail).expo
    pec [a, cmd, v % 256, v / 256 % 256]
  else if cmd = 0x01 then pec [a, cmd, if j.op = 0 then 0x80 else 0x00]
  else if cmd = 0x03 then pec [a, cmd]
  else [a, cmd, a + 1]

/-- A failed transaction is counted and repeated up to three times; then the attempt fails (R394). -/
def State.pmbFail (s : State) (j : Job) (f : Fld) : State :=
  let s := ((s.inc pPWR f).flag pPWR PWR.FLAG_PMB_ERR).recordErr pPWR 4
  if j.reps < 3 then s.withPwr fun p => { p with jobs := { j with reps := j.reps + 1 } :: p.jobs.drop 1 }
  else if j.op = 5 ∨ j.op = 2 ∨ j.op = 4 then
    s.withPwr fun p => { p with jobs := { j with reps := 0, todo := j.todo.drop 1 } :: p.jobs.drop 1 }
  else s.failAttempt j.rail

end Sys2Proof.Machine
end

