-- ==== Sys2Proof/Machine/Field.lean ====
section
/-! DEFINITION. Ports and transmit chains (R90–R125, R460): switches, fields, ramps, auto-tune, monitors, chain faults and
the takeover by TXC8. -/

namespace Sys2Proof.Machine

open Sys2Proof

/-! ## Ports and switches (R90–R93, R98) -/

/-- The chain that serves a Wing (R98), TXC8 from the start of a takeover on (R113). -/
def State.serving (s : State) (w : Nat) : Nat := if s.tx8For = w + 1 then 8 else w

/-- A port that may be driven, tuned or tapped: fitted, its File enabled (R93). -/
def State.portOk (s : State) (p : Nat) : Bool :=
  decide (p < 192) && s.enabled (pFIL (p / 8)) && s.bit (pFIL (p / 8)) (FIL.PORT_FITTED (p % 8))

/-- A port within a chain's reach (R97, R98). -/
def State.inReach (s : State) (n p : Nat) : Bool :=
  if n = 8 then s.tx8For == 0 || s.tx8For == p / 24 + 1 else p / 24 == n && s.tx8For != n + 1

/-- BAD_PORT is recorded on the File and on the chain's page (R93). -/
def State.badPort (s : State) (page p : Nat) : State :=
  (s.recordErr page 0x0C).when (decide (p < 192) && !s.portOk p) fun s => s.recordErr (pFIL (p / 8)) 6

/-- The port a switch connects to a chain, once the 64 CCLK of the change are over (R91). -/
def State.driven (s : State) (n : Nat) : Option Nat := if (s.tx n).swAt ≤ s.now then (s.tx n).sw else none

/-- The chain whose switch is at a port. -/
def State.chainAt (s : State) (p : Nat) : Option Nat := (List.range 9).find? fun n => (s.tx n).sw == some p

/-! ## Receive taps (R129, R130) -/

def State.rx (s : State) (n : Nat) : Rxc := s.rxc.getD n Rxc.reset

def State.withRx (s : State) (n : Nat) (f : Rxc → Rxc) : State := { s with rxc := s.rxc.set n (f (s.rx n)) }

/-- The chain that RXC16 serves in place of, plus 1; 0 none. -/
def State.rx16Serve (s : State) : Nat := s.get (pRXC 16) RXC.CFG_SERVE

/-- The chain that RXC16 serves, or takes over from the detecting edge on, plus 1 (R149). -/
def State.rx16For (s : State) : Nat :=
  if s.rx16Serve ≠ 0 then s.rx16Serve else if (s.rx 16).takeover then (s.rx 16).tookFor + 1 else 0

/-- The page whose configuration a chain acts on: RXC16 acts on the mirror of RXC n while it serves it (R149). -/
def State.rxPage (s : State) (n : Nat) : Nat := if n = 16 ∧ s.rx16For ≠ 0 then pRXC (s.rx16For - 1) else pRXC n

/-- A configuration field of a chain as it acts on it: RXC16, while it serves, has it from its mirror (R149). -/
def State.rxGet (s : State) (n : Nat) (f : Fld) : Nat :=
  if n = 16 ∧ s.rx16For ≠ 0 then s.mget (pRXC (s.rx16For - 1)) f else s.get (pRXC n) f

def State.rxBit (s : State) (n : Nat) (f : Fld) : Bool := s.rxGet n f != 0

/-- A hardware update of a configuration field, made in the mirror too (R149); a software write on the same edge holds (R38, R152). -/
def State.rxPutHw (s : State) (n : Nat) (f : Fld) (x : Nat) : State :=
  let pg := s.rxPage n
  (s.putHw pg f x).mirrorTake (pg * 256 + f.off) f.mask

/-- A chain's own fault stands (R149). -/
def State.rxFaulted (s : State) (n : Nat) : Bool := s.get (pRXC n) ⟨7, 3, 1⟩ != 0

/-- A chain in service for its own role. -/
def State.rxOk (s : State) (n : Nat) : Bool := s.enabled (pRXC n) && !s.rxFaulted n

/-- RXC16 serves, or is taking over, in place of a chain. -/
def State.rxReplaced (s : State) (n : Nat) : Bool := s.rx16Serve == n + 1 || ((s.rx 16).takeover && (s.rx 16).tookFor == n)

/-- The port a chain is to tap for a move on Wing `w` (R129), `fixed` a tap that the move names. -/
def State.tapPort (s : State) (n w : Nat) (fixed : Option Nat) : Option Nat :=
  match fixed with
  | some p => some p
  | none =>
    if s.rxBit n RXC.TAP_MODE then some (s.rxGet n RXC.TAP_PORT)
    else if n = 16 ∧ s.rx16For = 0 then none
    else (s.tx (s.serving w)).sw

/-- The tap lies within the chain's reach and the port may be tapped (R93, R129). -/
def State.tapOk (s : State) (n p : Nat) : Bool := s.portOk p && (n == 16 || p / 24 == n / 2)

/-- A tap selected: a port other than the one last selected is a change, which opens the tap for 64 CCLK, clears READY.LEAK and
may reset the legacy gain (R130, R132, R135). -/
def State.selectTap (s : State) (n p : Nat) : State :=
  if (s.rx n).last = some p then (s.withRx n fun r => { r with tap := some p }).put (pRXC n) RXC.STATUS_TAP p
  else
    let s := s.withRx n fun r => { r with tap := some p, last := some p, tapAt := s.now + 64 }
    let s := s.put (pRXC n) RXC.STATUS_TAP p
    let s := s.putB (pRXC n) RXC.READY_LEAK false
    if s.rxBit n RXC.TAP_INIT_ON_TAP then s.rxPutHw n RXC.GAIN_LEGACY (Nat.min 66 (s.rxGet n RXC.GAIN_INIT)) else s

/-- The Wing whose chain a receive chain follows. -/
def State.rxWing (s : State) (n : Nat) : Nat := if n = 16 then (s.rx16For - 1) / 2 else n / 2

/-- A chain that no move gives a tap of its own takes the tap that RXCn.TAP chooses; a change asked for during a frame waits for
the frame's end, and a port out of reach is no tap (R129, R130). -/
def State.retap (s : State) (n : Nat) : State :=
  if (s.rx n).named || decide (2 ≤ s.get (pRXC n) RXC.STATUS_STATE) || !s.rxOk n || s.rxReplaced n || (n == 16 && (s.rx 16).takeover) then s
  else match s.tapPort n (s.rxWing n) none with
    | some p => if s.tapOk n p then s.selectTap n p else s.withRx n fun r => { r with tap := none }
    | none => s.withRx n fun r => { r with tap := none }

/-- The chains of a Wing follow the port its transmit chain drives (R129). -/
def State.retapWing (s : State) (w : Nat) : State := ((s.retap (2 * w)).retap (2 * w + 1)).retap 16

/-! ## Switches -/

/-- A switch set to a port, through OPEN for 64 CCLK (R91). -/
def State.setSwitch (s : State) (n p : Nat) : State :=
  if (s.tx n).sw = some p then s.withTx n fun t => { t with opening := false }
  else
    let s := s.withTx n fun t => { t with sw := some p, swAt := s.now + 64, opening := false }
    (s.put (pTXC n) TXC.STATUS_PORT p).retapWing (p / 24)

/-- A switch returned to OPEN; the port parks (R92). -/
def State.openSwitch (s : State) (n : Nat) : State :=
  match (s.tx n).sw with
  | some p => (s.withTx n fun t => { t with sw := none, opening := false }).retapWing (p / 24)
  | none => s.withTx n fun t => { t with opening := false }

/-- The receive chains look again at their taps: a port that may no longer be tapped is none (R93, R129). -/
def State.retapAll (s : State) : State :=
  s.forEach (List.range 17) fun s n =>
    let s := match (s.rx n).tap with
      | some p => if s.portOk p then s else s.withRx n fun r => { r with tap := none }
      | none => s
    s.retap n

/-! ## Fields -/

def State.setField (s : State) (n st : Nat) : State := s.put (pTXC n) TXC.STATUS_FIELD st

/-- A field on or ramping (R122): RAMP_UP, SETTLE, ON, RAMP_DOWN, TUNING. -/
def State.lit (s : State) (n : Nat) : Bool :=
  let f := s.fieldSt n
  f == 2 || f == 3 || f == 4 || f == 5 || f == 7

/-- FIELDS_ON (R122). -/
def State.fieldsOn (s : State) : Nat := ((List.range 9).filter fun n => s.lit n).length

/-- Simul operation: three or more fields (R122). -/
def State.simul (s : State) : Bool := decide (3 ≤ s.fieldsOn)

/-- The synthesiser is locked (R258). -/
def State.synLocked (s : State) : Bool := s.bit pCLK CLK.STATUS_SYN_LOCK

/-- A chain's field-on need not wait for its rail: it has acknowledged at least VNEED, or is fixed (R109). -/
def State.railReady (s : State) (n : Nat) : Bool :=
  let r := s.txRail n
  match s.railCtl r with
  | 0 => s.bitOf pPWR PWR.STATUS_RAIL r && decide (10 * s.vneed n ≤ (s.rail r).ack)
  | 1 => s.bitOf pPWR PWR.STATUS_RAIL r
  | _ => false

/-- The rail of a chain has acknowledged at least its VNEED, a fixed one at the voltage declared for it (R109, R127). -/
def State.railShown (s : State) (n : Nat) : Bool :=
  s.railReady n && decide (10 * s.vneed n ≤ (s.rail (s.txRail n)).ack)

/-- A chain's own fault stands and TXC8 does not replace it (R114). -/
def State.chainFaulted (s : State) (n : Nat) : Bool := s.get (pTXC n) ⟨7, 3, 1⟩ != 0

/-- No field can be provided on a chain: Resign (R419), thermal shutdown (R404), a fault (R114). -/
def State.noField (s : State) (n : Nat) : Bool := s.resigned || s.pwr.hot || s.chainFaulted n

/-- Another chain has a field on, ramping or between two ports of the Wing of `p`: two never stand in one Wing (R20). -/
def State.otherField (s : State) (n p : Nat) : Bool :=
  (List.range 9).any fun m => m != n && (s.lit m || s.fieldSt m == 6) &&
    ((s.tx m).sw.any (fun q => q / 24 == p / 24) || (s.tx m).next.any (fun q => q / 24 == p / 24))

/-! ### Ramps (R101, R102) -/

/-- The built-in raised cosine: entry j is round(1023 × (1 − cos(π (j + 1) / 64)) / 2). -/
def builtIn : List Nat :=
  [1, 2, 6, 10, 15, 22, 30, 39, 49, 60, 73, 86, 101, 116, 133, 150] ++
  [168, 187, 207, 227, 249, 270, 293, 316, 339, 363, 387, 412, 436, 461, 486, 512] ++
  [537, 562, 587, 611, 636, 660, 684, 707, 730, 753, 774, 796, 816, 836, 855, 873] ++
  [890, 907, 922, 937, 950, 963, 974, 984, 993, 1001, 1008, 1013, 1017, 1021, 1022, 1023]

/-- The table entry of step `i` of `n`: ceil(64 × i / N) − 1. -/
def rampIndex (n i : Nat) : Nat := ceilDiv (64 * i) n - 1

/-- The steps that a count field gives: 0 and values above 64 act as 64. -/
def rampSteps (n : Nat) : Nat := if n = 0 ∨ 64 < n then 64 else n

/-- The codes of a ramp-up of `n` steps. -/
def rampUpCodes (table : List Nat) (n : Nat) : List Nat := (List.range n).map fun k => nth table (rampIndex n (k + 1))

/-- The codes of a ramp-down of `n` steps: index(N − 1), …, index(1), then zero. -/
def rampDownCodes (table : List Nat) (n : Nat) : List Nat :=
  ((List.range (n - 1)).map fun k => nth table (rampIndex n (n - 1 - k))) ++ [0]

/-- The lengths of a ramp in CCLK. -/
def Ramp.upLen (r : Ramp) : Nat := r.up.length * r.upStep
def Ramp.downLen (r : Ramp) : Nat := r.down.length * r.downStep

/-- Both ramps of a field last 109–4,339 CCLK (R102). -/
def Ramp.ok (r : Ramp) : Bool :=
  decide (109 ≤ r.upLen ∧ r.upLen ≤ 4339) && decide (109 ≤ r.downLen ∧ r.downLen ≤ 4339)

/-- The ramp that a takeover and a cross-Board drive use: 64 built-in entries of 2 CCLK either way (R113, R305). -/
def Ramp.plain : Ramp := ⟨rampUpCodes builtIn 64, 2, rampDownCodes builtIn 64, 2⟩

/-- The linear ramp to zero in 2,170 CCLK of a Resign, by steps of 31 CCLK (R418). -/
def Ramp.resign (r : Ramp) : Ramp := { r with down := (List.range 70).map fun k => 1023 * (69 - k) / 70, downStep := 31 }

/-- The table that a chain uses: its own, or the built-in one. -/
def State.rampTable (s : State) (n : Nat) : List Nat :=
  if s.txGet n TXC.RAMP_USER_TABLE = 0 then builtIn
  else ((List.range 16).map fun k =>
    [s.txGet n (TXC.RAMP_TBL_E0 k), s.txGet n (TXC.RAMP_TBL_E1 k), s.txGet n (TXC.RAMP_TBL_E2 k), s.txGet n (TXC.RAMP_TBL_E3 k)]).flatten

/-- The ramps that a chain's configuration gives now (R101). -/
def State.chainRamp (s : State) (n : Nat) : Ramp :=
  let t := s.rampTable n
  let u := rampSteps (s.txGet n TXC.RAMP_UP_STEPS)
  let ud := s.txGet n TXC.RAMP_UP_DWELL + 2
  let ds := s.txGet n TXC.RAMP_DOWN_STEPS
  if ds = 0 then ⟨rampUpCodes t u, ud, rampDownCodes t u, ud⟩
  else ⟨rampUpCodes t u, ud, rampDownCodes t (rampSteps ds), s.txGet n TXC.RAMP_DOWN_DWELL + 2⟩

/-- The amplitude code that a chain produces, unmodulated (R101): of the step it has come to, 1023 from the plateau on; a ramp-down that
begins below the plateau is scaled to the amplitude reached (R460; assumption 88). -/
def State.ampCode (s : State) (n : Nat) : Nat :=
  let t := s.tx n
  let f := s.fieldSt n
  if f = 2 then nth t.ramp.up ((s.now - t.since) / t.ramp.upStep)
  else if f = 3 ∨ f = 4 ∨ f = 7 then 1023
  else if f = 5 then nth t.ramp.down ((s.now - t.since) / t.ramp.downStep) * t.reached / 1023
  else 0

/-- The carrier phase a chain applies at a port: planned phase, the chain's trim, the Board's carrier advance and trim,
modulo 512 (R119). -/
def State.carrierPhase (s : State) (n : Nat) : Nat :=
  ((s.tx n).phase + s.get (pTXC n) TXC.TRIM_PHASE + s.cal.advance + s.get pMCH MCH.CPHASE_TRIM) % 512

/-- The context that holds the Wing a chain works for, as a fault record names it. -/
def State.txContext (s : State) (n : Nat) : Nat :=
  let o := s.owner (s.txWing n)
  if o < 12 then o else 0xFF

def State.txPort (s : State) (n : Nat) : Nat := (s.tx n).sw.getD 0xFF

/-! ## What waits on a chain -/

/-- A field-on whose chain is off is armed: the switch is set to the port at once, and a launch that has come goes on at the next
carrier-cycle boundary (R103). -/
def State.armNow (s : State) (n : Nat) : State :=
  let t := s.tx n
  if t.act = 1 ∧ s.fieldSt n = 0 then
    (((s.setField n 1).setSwitch n t.port).followRails).when t.fired fun s => s.resched s.toCarrier (.fieldLaunch n)
  else if t.act = 2 ∧ t.fired = true then s.resched s.toCarrier (.fieldLaunch n)
  else s

/-- A field move that the chain's auto-tune held back takes its place (assumption 88). -/
def State.takeHeld (s : State) (n : Nat) : State :=
  match (s.tx n).held with
  | some h =>
    if (s.tx n).act = 0 then
      (s.withTx n fun t => { t with act := h.act, ctx := h.ctx, hop := h.hop, port := h.port, fired := h.fired, held := none }).armNow n
    else s
  | none => s

/-- A field move held back ends without action. -/
def State.dropHeld (s : State) (n st : Nat) : State :=
  match (s.tx n).held with
  | some h => (s.withTx n fun t => { t with held := none }).endFor h.ctx st
  | none => s

/-- The chain whose action belongs to a context, or which holds the context's move back. -/
def State.heldBy (s : State) (c n : Nat) : Bool := match (s.tx n).held with
  | some h => h.ctx == some c
  | none => false

/-- An auto-tune ends with a status: result, FLAG.TUNE_DONE, errors, and its move's status (R96, R97, R110). -/
def State.tuneEnd (s : State) (n st : Nat) : State :=
  let t := s.tx n
  let pg := t.resPage
  let s := (s.put pg TXC.ATUNE_RESULT_STATUS (tuneCode st)).flag pg TXC.FLAG_TUNE_DONE
  let s := if st = stLATE then (s.flag pg TXC.FLAG_LATE).recordErr pg 0x0A
    else if st = stFAIL then s.recordErr pg 0x0E
    else if st = stBAD_RAMP then s.recordErr pg 1 else s
  let s := s.untimer (.scanStep n)
  ((s.withTx n fun t => { t with act := 0, ctx := none, fired := false, scanning := false }).endFor t.ctx st).takeHeld n

/-! ## The end of a field -/

/-- A field-on on a tapped port clears READY.LEAK (R132). -/
def State.leakLost (s : State) (p : Nat) : State :=
  s.forEach (List.range 17) fun s n =>
    if (s.rxc.getD n Rxc.reset).tap = some p then s.putB (pRXC n) RXC.READY_LEAK false else s

/-- A field on the chain has ended: FLAG.FIELD_OFF, the producer, the rails, what waits for it on other chains, and the claim when no
move needs it (R20, R104, R109, R259). -/
def State.fieldGone (s : State) (n : Nat) : State :=
  let hop := (s.tx n).offBy
  let w := s.txWing n
  let s := (s.setField n 0).flag (pTXC n) TXC.FLAG_FIELD_OFF
  let s := s.withTx n fun t => { t with offBy := 0, next := none, endSt := none, reflRun := 0 }
  let s := (s.present (29 + n) hop).followRails
  let s := (s.ledgerOff (s.txPort n)).wakeChains
  let o := s.owner w
  if o = 15 ∨ s.moveWing o = some w then s else s.releaseWing w

/-- A move that is not yet launched, or an auto-tune before its ramp, ends without action: the switch set at arming
returns to OPEN (R103, R460). -/
def State.dropArmed (s : State) (n st : Nat) : State :=
  let t := s.tx n
  let s := s.unsched (.fieldLaunch n)
  let s := s.putB (pTXC n) TXC.STATUS_RAIL_WAIT false
  let s := if s.fieldSt n = 1 then (s.setField n 0).openSwitch n else s
  let s := s.withTx n fun t => { t with capt := none }
  let s := if t.act = 3 then s.tuneEnd n st
    else (s.withTx n fun t => { t with act := 0, ctx := none, fired := false }).endFor t.ctx st
  s.followRails.wakeChains

/-- The status that a ramp-down under way leads to: a reflection, fault or disable stands against the move's own ramp-down on its edge, and
the first of them against a later one (R125, assumption 88). -/
def Txc.laterEnd (t : Txc) (st now : Nat) : Nat :=
  match t.endSt with
  | none => st
  | some x => if x = stDONE ∨ (st = stDONE ∧ t.endAt ≠ now) then st else x

/-- The chain begins the ramp-down at the captured ramp from the amplitude reached; its move ends with `st` when it is over (R37, R104,
R460). -/
def State.rampDown (s : State) (n st : Nat) : State :=
  let f := s.fieldSt n
  let s := s.untimer (.scanStep n)
  if f = 2 ∨ f = 3 ∨ f = 4 ∨ f = 7 then
    let a := s.ampCode n
    let s := (s.unsched (.plateau n)).unsched (.settleEnd n)
    let s := s.setField n 5
    let s := s.withTx n fun t => { t with
      endSt := some st, endAt := s.now, since := s.now, reached := a, takeover := 0, scanning := false }
    s.resched (s.tx n).ramp.downLen (.rampDownEnd n)
  else if f = 6 then
    let s := s.unsched (.fieldLaunch n)
    let s := (s.setField n 5).withTx n fun t => { t with endSt := some st, endAt := s.now, since := s.now, reached := 0, next := none }
    s.resched 0 (.rampDownEnd n)
  else if f = 5 then s.withTx n fun t => { t with endSt := some (t.laterEnd st s.now), endAt := s.now, next := none, scanning := false }
  else s

/-- The output stage stops without a ramp; the switch leaves on the next edge (R113, R114, R400). -/
def State.stageOff (s : State) (n : Nat) : State :=
  let s := ((s.unsched (.plateau n)).unsched (.settleEnd n)).unsched (.rampDownEnd n)
  let s := (s.unsched (.fieldLaunch n)).setField n 0
  (s.withTx n fun t => { t with opening := true, capt := none }).sched 1 (.rampDownEnd n)

/-- The work of a Wing's other blocks is ended with the field's status (R182, R213): taken up when the happening is over. -/
def State.wingEnd (s : State) (w st : Nat) : State := { s with wingEnds := s.wingEnds ++ [{ wing := w, status := st, mark := none, own := false }] }

/-- A takeover whose field is not up yet is left with the field off (R113, R427). -/
def State.dropTakeover (s : State) (n st : Nat) : State :=
  if n = 8 ∧ ((s.tx 8).takeover = 1 ∨ (s.tx 8).takeover = 2) ∧ (s.tx 8).carry = true then
    let t := s.tx 8
    let s := (s.withTx 8 fun t => { t with carry := false, act := 0, ctx := none, fired := false }).endFor t.ctx st
    (s.wingEnd (s.txWing 8) st).when (decide (t.takeover = 2)) fun s =>
      (s.untimer .txServe).withTx 8 (fun t => { t with takeover := 0 }) |>.dropArmed 8 st
  else s

/-- A field stops without a ramp and ends with a status (R114, R400, R418). -/
def State.killField (s : State) (n st : Nat) : State :=
  let s := (s.dropHeld n st).dropTakeover n st
  if s.fieldSt n = 0 then (if (s.tx n).act = 2 then s.dropArmed n st else s)
  else if s.fieldSt n = 1 then s.dropArmed n st
  else
    let t := s.tx n
    let w := s.txWing n
    let s := (s.stageOff n).withTx n fun t => { t with takeover := 0 }
    let s := if t.act = 3 then s.tuneEnd n st
      else (s.withTx n fun t => { t with act := 0, ctx := none, fired := false }).endFor t.ctx st
    (s.wingEnd w st).fieldGone n

/-- A field ends with a status by its ramp: what is armed ends at once, a field on ramps down (R37, R112, R404, R459). -/
def State.endField (s : State) (n st : Nat) : State :=
  let w := s.txWing n
  let s := (s.dropHeld n st).dropTakeover n st
  let s := if s.fieldSt n = 1 ∨ (s.tx n).act = 1 ∨ (s.fieldSt n = 0 ∧ (s.tx n).act = 2) then s.dropArmed n st else s
  if s.fieldSt n = 0 then s
  else
    let s := s.when ((s.tx n).act == 3) fun s => s.tuneEnd n st
    (s.wingEnd w st).rampDown n st

/-! ## Arming a field move (R103, R104, R109) -/

/-- A FIELD move that has its claim is armed on its chain: field-off, or field-on for a port; it ends FAULTED on a faulted chain and
while the Board has resigned (R114, R419).  During the chain's own auto-tune it waits for its end (assumption 88). -/
def State.armField (s : State) (c w : Nat) (off : Bool) (port : Nat) : State :=
  let n := s.serving w
  let hop := s.moveHop c
  if s.resigned || s.chainFaulted n || (!off && s.noField n) then s.endMove c stFAULTED
  else if !off && !(s.portOk port && s.inReach n port) then (s.badPort (pTXC n) port).endMove c stBAD_PORT
  else if (s.tx n).act = 3 then
    s.withTx n fun t => { t with held := some ⟨if off then 2 else 1, some c, hop, port, false⟩ }
  else if off then s.withTx n fun t => { t with act := 2, ctx := some c, hop := hop, fired := false }
  else (s.withTx n fun t => { t with act := 1, ctx := some c, hop := hop, port := port, fired := false, capt := none }).armNow n

/-- The launch of a chain's pending action: it begins at the next carrier-cycle boundary (R60, R103); of one held back, with the auto-tune's
end. -/
def State.fireField (s : State) (n : Nat) : State :=
  (s.withTx n fun t => { t with fired := true, launchAt := s.now + s.toCarrier }).resched s.toCarrier (.fieldLaunch n)

/-- The launch of a context's field move. -/
def State.fireFor (s : State) (c n : Nat) : State :=
  if s.heldBy c n then s.withTx n fun t => { t with held := t.held.map fun h => { h with fired := true } } else s.fireField n

/-- A field-on ends LATE: FLAG.LATE and code 0x0A of the chain's page (R103, R127). -/
def State.lateMark (s : State) (n : Nat) : State := (s.flag (pTXC n) TXC.FLAG_LATE).recordErr (pTXC n) 0x0A

/-- A field-on that waits for lock or rail ends LATE (R103). -/
def State.fieldLate (s : State) (n : Nat) : State := (s.lateMark n).dropArmed n stLATE

/-- A context's action on a chain that is not launched, or is held back, ends without action; a field-on that ends LATE is marked so. -/
def State.dropFor (s : State) (c n st : Nat) : State :=
  let on := if s.heldBy c n then (s.tx n).held.any fun h => h.act == 1 else (s.tx n).act == 1
  let s := s.when (on && st == stLATE) fun s => s.lateMark n
  if s.heldBy c n then s.dropHeld n st else s.dropArmed n st

/-- An auto-tune begun by a register write can no longer be launched: lock cannot come, or its rail is absent or FAILED (R97). -/
def State.tuneHopeless (s : State) (n : Nat) : Bool :=
  (s.tx n).ctx.isNone &&
    (!s.enabled pCLK || s.get pCLK CLK.STATUS_SRC == 0 || s.railCtl (s.txRail n) == 2 || s.railState (s.txRail n) == 4)

/-- The chain begins its ramp-up at the port its switch holds, at its LEVEL (R99, R101, R102, R119). -/
def State.rampUp (s : State) (n : Nat) (r : Ramp) : State :=
  let p := s.txPort n
  let s := s.leakLost p
  let phase := s.get (pFIL (p / 8)) (FIL.PORT_PHASE (p % 8))
  let lev := s.txLevel n
  let s := s.putB (pTXC n) TXC.STATUS_RAIL_WAIT false
  let s := (s.setField n 2).withTx n fun t => { t with
    phase := phase, lev := lev, ramp := r, capt := none, since := s.now, fired := false, reflRun := 0, limited := false, heard := false }
  s.sched r.upLen (.plateau n)

/-- The move of a chain ends and its action is over. -/
def State.actDone (s : State) (n st : Nat) : State :=
  let c := (s.tx n).ctx
  (s.withTx n fun t => { t with act := 0, ctx := none, fired := false }).endFor c st

/-- A field-on begins on its launch boundary: it captures its ramps, and ends BAD_RAMP where one lies outside its range (R102). -/
def State.captureRamp (s : State) (n : Nat) : State :=
  if (s.tx n).capt.isSome then s
  else
    let r := s.chainRamp n
    if r.ok then s.withTx n fun t => { t with capt := some r }
    else (s.recordErr (pTXC n) 1).dropArmed n stBAD_RAMP

/-- A field-on or auto-tune waits: for lock, for its rail, for the field of another chain in its Wing, and a field-on for the end of an
auto-tune that an idle TXC8 runs in the Wing (R20, R97, R103). -/
def State.mustWait (s : State) (n : Nat) : Bool :=
  let t := s.tx n
  !s.synLocked || !s.railReady n || s.otherField n t.port ||
    (t.act != 3 && n != 8 && s.fieldSt 8 != 0 && s.tx8For == 0 && s.txWing 8 == n)

/-- The wait begins: RAIL_WAIT, and for a move the limit of its launch (R103, R257). -/
def State.beginWait (s : State) (n : Nat) : State :=
  let s := s.putB (pTXC n) TXC.STATUS_RAIL_WAIT (!s.railReady n)
  match (s.tx n).ctx with
  | some c => if 12 ≤ c then s else if s.enabled pANG then s.armLimit c else s.dropArmed n stDISABLED
  | none => s

/-- A field-on, port change or auto-tune of a chain begins: its waits are over. -/
def State.beginField (s : State) (n : Nat) : State :=
  let t := s.tx n
  let f := s.fieldSt n
  if s.now < t.swAt ∧ f = 1 then s.resched ((t.swAt - s.now) + (16 - t.swAt % 16) % 16) (.fieldLaunch n)
  else if t.act = 3 then
    let r := s.chainRamp n
    if r.ok then s.rampUp n r else s.dropArmed n stBAD_RAMP
  else
    let s := s.withTx n fun t => { t with act := 4 }
    if f = 1 then s.rampUp n (t.capt.getD (s.chainRamp n))
    else
      let s := ((s.unsched (.settleEnd n)).setField n 5).withTx n fun t => { t with
        next := some t.port, since := s.now, reached := 1023, fired := false }
      s.resched (s.tx n).ramp.downLen (.rampDownEnd n)

/-- A field-on, port change or auto-tune of a chain at its carrier-cycle boundary (R97, R102–R104): one that names the port already on is
done; else the ramp is captured, and what it waits for is looked at; during a ramp-down it goes on at its end. -/
def State.launchOn (s : State) (n : Nat) : State :=
  let t := s.tx n
  let tune := t.act == 3
  let f := s.fieldSt n
  if !tune && (f == 3 || f == 4) && t.sw == some t.port then s.actDone n stDONE
  else if s.noField n then s.dropArmed n stFAULTED
  else if !(s.portOk t.port && s.inReach n t.port) then (s.badPort (pTXC n) t.port).dropArmed n stBAD_PORT
  else if tune && s.tuneHopeless n then s.dropArmed n stLATE
  else
    let s := if tune then s else s.captureRamp n
    if (s.tx n).act = 0 ∨ f = 5 then s
    else if !tune && decide (f = 1) && s.railCtl (s.txRail n) == 0 && s.railState (s.txRail n) == 4 then s.fieldLate n
    else if s.mustWait n then s.beginWait n
    else s.beginField n

/-- The actions of chain `a` not yet launched pass to chain `b` (R98, R113, R115). -/
def State.moveAct (s : State) (a b : Nat) : State :=
  let t := s.tx a
  if (t.act = 1 ∨ t.act = 2) ∧ (s.fieldSt a = 0 ∨ s.fieldSt a = 1) then
    let s := s.withTx b fun x => { x with
      act := t.act, ctx := t.ctx, hop := t.hop, port := t.port, fired := t.fired, launchAt := t.launchAt, capt := t.capt }
    let s := s.unsched (.fieldLaunch a)
    let s := s.putB (pTXC a) TXC.STATUS_RAIL_WAIT false
    let s := if s.fieldSt a = 1 then (s.setField a 0).openSwitch a else s
    s.withTx a fun x => { x with act := 0, ctx := none, fired := false, capt := none }
  else s

/-- A takeover is complete (R113). -/
def State.tookOver (s : State) : State :=
  ((((s.withTx 8 fun t => { t with takeover := 0, carry := false, tookAt := s.now }).flag (pTXC 8) TXC.FLAG_TAKEOVER).recordErr (pTXC 8) 0x0D).present 38 0).followRails

/-- The steps of a takeover after the detecting edge (R113): at 65 CCLK TXC8 serves the Wing and the switch takes RESERVE;
at the carrier-cycle boundary the ramp-up of 64 built-in entries begins, at the phase of the field carried on. -/
def State.takeoverStep (s : State) : State :=
  let t := s.tx 8
  let w := t.tookPort
  if t.takeover = 1 then
    let s := (s.put (pTXC 8) TXC.CFG_SERVE (w + 1)).putB (pTXC 8) TXC.STATUS_SERVING true
    if t.carry then
      let s := s.withTx 8 fun x => { x with takeover := 2 }
      let s := (s.setField 8 1).withTx 8 fun x => { x with sw := some t.tookOn, swAt := s.now }
      ((s.put (pTXC 8) TXC.STATUS_PORT t.tookOn).retapWing w).timer s.toCarrier .txServe
    else (s.tookOver.retapWing w).armNow 8
  else if t.takeover = 2 then
    if s.noField 8 then s.dropTakeover 8 stFAULTED
    else ((s.withTx 8 fun t => { t with takeover := 3 }).rampUp 8 Ramp.plain).withTx 8 fun x => { x with phase := t.phase, fired := t.fired }
  else s

/-- A cross-Board drive begins, lock and rail permitting: planned phase 0 and the built-in ramp (R305). -/
def State.driveOn (s : State) (n : Nat) : State :=
  let t := s.tx n
  if s.noField n then s.dropArmed n stFAULTED
  else if s.mustWait n then s
  else if s.now < t.swAt then s.resched ((t.swAt - s.now) + (16 - t.swAt % 16) % 16) (.fieldLaunch n)
  else (s.rampUp n Ramp.plain).withTx n fun t => { t with phase := 0 }

/-- FIELD_LAUNCH: the pending action of a chain begins at the carrier-cycle boundary (R103, R104); on TXC8 in a takeover it waits for its
end (R113). -/
def effFieldLaunch (n : Nat) (s : State) : State :=
  if s.coreRuns && decide (n < 9) then
    let t := s.tx n
    if s.fieldSt n = 6 then s.rampUp n (t.capt.getD (s.chainRamp n))
    else if !t.fired ∨ t.takeover ≠ 0 then s
    else if t.act = 2 then
      if s.lit n then (s.withTx n fun t => { t with act := 6, offBy := t.hop, fired := false }).rampDown n stDONE
      else s.actDone n stDONE
    else if t.act = 5 then s.driveOn n
    else if t.act = 1 ∨ t.act = 3 then s.launchOn n
    else s
  else s

/-! ## Adjacency (R116–R121) -/

/-- The ports of this Board that are coupled to a port under the chain's ISOLATION: none while the Board has no number (R21, R117). -/
def State.coupledPorts (s : State) (n p : Nat) : List Nat :=
  let f := pFIL (p / 8)
  let r := p % 8
  let iso := s.txGet n TXC.ADJ_CFG_ISOLATION
  let base := 192 * s.boardNum
  let entries := (List.range 4).flatMap fun m => [s.get f (FIL.ADJ_EVEN r m), s.get f (FIL.ADJ_ODD r m)]
  entries.filterMap fun e =>
    let cpn := bits e 13 0
    if e.testBit 18 && decide (8 + 2 * bits e 17 14 < iso) && s.boardNum != 62 && decide (base ≤ cpn ∧ cpn < base + 192) then some (cpn - base)
    else none

/-- The planned phases of two ports lie outside 90° and 270° by more than PHASE_TOL (R120). -/
def phaseBad (a b tol : Nat) : Bool :=
  let d := (a + 512 - b) % 512
  !(decide (128 - tol ≤ d ∧ d ≤ 128 + tol) || decide (384 - tol ≤ d ∧ d ≤ 384 + tol))

/-- One coupled neighbour with a field is checked at the plateau of chain `n` at port `p` (R120). -/
def State.checkNeighbour (s : State) (n p m q : Nat) : State :=
  let pg := pTXC n
  let cp := s.bit (pFIL (p / 8)) (FIL.PORT_COLOUR (p % 8))
  let cq := s.bit (pFIL (q / 8)) (FIL.PORT_COLOUR (q % 8))
  let bad1 := cp == cq
  let bad2 := phaseBad (s.tx n).phase (s.tx m).phase (s.txGet n TXC.ADJ_CFG_PHASE_TOL)
  let each := fun (s : State) =>
    let s := (s.flag (pFIL (p / 8)) FIL.FLAG_ADJ (p % 8)).flag (pFIL (q / 8)) FIL.FLAG_ADJ (q % 8)
    s.recordBoth (pFIL (p / 8)) 4 (pFIL (q / 8)) 4
  let s := s.when bad1 fun s => each ((s.flag pg TXC.FLAG_ADJ_COLOUR).recordErr pg 6)
  s.when bad2 fun s => each ((s.flag pg TXC.FLAG_ADJ_PHASE).recordErr pg 7)

/-- The chains with a field on a port coupled to the port of chain `n`. -/
def State.coupledChains (s : State) (n : Nat) : List (Nat × Nat) :=
  match (s.tx n).sw with
  | none => []
  | some p =>
    let near := s.coupledPorts n p
    (List.range 9).filterMap fun m =>
      match (s.tx m).sw with
      | some q => if m ≠ n ∧ s.lit m = true ∧ near.contains q = true then some (m, q) else none
      | none => none

/-- A legacy frame sent beside a coupled field (R121). -/
def State.legacyBeside (s : State) (n : Nat) : State :=
  if (s.coupledChains n).isEmpty then s else (s.flag (pTXC n) TXC.FLAG_ADJ_LEGACY).recordErr (pTXC n) 9

/-- The modulation of two coupled fields differs on a carrier cycle (R121). -/
def State.askConflict (s : State) (n m : Nat) : State :=
  let s := (s.flag (pTXC n) TXC.FLAG_ASK_CONFLICT).flag (pTXC m) TXC.FLAG_ASK_CONFLICT
  s.recordBoth (pTXC n) 8 (pTXC m) 8

/-- The power the acknowledged rail voltage allows, in 0.01 mW: (V − 0.6 V)² / (2 × RLOAD) (R99). -/
def State.railPower (s : State) (n : Nat) : Nat :=
  let v := (s.rail (s.txRail n)).ack / 10
  10 * (v - 60) * (v - 60) / s.txLoad n

/-- The power in force is not reachable at the rail's voltage (R99). -/
def State.powerLimit (s : State) (n : Nat) : State :=
  if s.railPower n < 100 * (s.tx n).lev then
    ((s.withTx n fun t => { t with limited := true }).flag (pTXC n) TXC.FLAG_POWER_LIMIT).recordErr (pTXC n) 0x0B
  else s

/-- A LEVEL written in a field takes effect at a carrier-cycle boundary outside modulation (R99): during a frame it waits for its end. -/
def State.levelStep (s : State) (n : Nat) : State :=
  if (s.tx n).act ≠ 3 ∧ s.lit n = true ∧ s.bit (pTXC n) TXC.STATUS_MODULATING = false ∧ (s.tx n).lev ≠ s.txLevel n then
    let s := s.withTx n fun t => { t with lev := s.txLevel n }
    if s.fieldSt n = 3 ∨ s.fieldSt n = 4 then s.powerLimit n else s
  else s

/-- A takeover's field is up: the move in flight on the Wing ends TAKEOVER, a launch that has come meanwhile goes on (R113). -/
def State.tookUp (s : State) : State :=
  let s := s.setField 8 4
  let s := if (s.tx 8).act = 4 then s.actDone 8 stTAKEOVER else s.armNow 8
  let s := if (s.tx 8).act = 1 ∧ (s.tx 8).fired = true then s.resched s.toCarrier (.fieldLaunch 8) else s
  s.tookOver.wingEnd (s.txWing 8) stTAKEOVER

/-- The scan of an auto-tune begins: 32 carrier cycles to settle and 32 to measure for each point (R96). -/
def State.scanBegin (s : State) (n : Nat) : State :=
  let s := (s.setField n 7).put (s.tx n).resPage TXC.ATUNE_RESULT_STATUS 1
  (s.withTx n fun t => { t with scanning := true, scan := [], half := none }).timer 768 (.scanStep n)

/-- PLATEAU: the field has reached its plateau; adjacency is checked and the settle begins (R103, R120), an auto-tune
starts its scan (R96), a takeover completes (R113). -/
def effPlateau (n : Nat) (s : State) : State :=
  if s.coreRuns && decide (n < 9) && s.fieldSt n == 2 then
    let t := s.tx n
    let p := s.txPort n
    let s := s.forEach (s.coupledChains n) fun s e => s.checkNeighbour n p e.1 e.2
    let s := (s.powerLimit n).when ((s.coupledChains n).any fun e => s.bit (pTXC e.1) TXC.STATUS_MODULATING) fun s => s.retimer 1 (.askCheck n)
    if n = 8 ∧ t.takeover = 3 then s.tookUp
    else if t.act = 3 then s.scanBegin n
    else
      let s := s.when (t.act == 5) fun s => s.timer (usec 100) .xbOff
      (s.setField n 3).sched (16 * s.txGet n TXC.SETTLE_CYCLES) (.settleEnd n)
  else s

/-- SETTLE_END: the field is ON and its move ends DONE (R103, R105). -/
def effSettleEnd (n : Nat) (s : State) : State :=
  if s.coreRuns && decide (n < 9) && s.fieldSt n == 3 then
    let s := ((s.setField n 4).flag (pTXC n) TXC.FLAG_FIELD_ON).present (20 + n) (s.tx n).hop
    if (s.tx n).act = 4 then s.actDone n stDONE else s
  else s

/-- TXC8 is released once its field is off, and the Wing returns to its own chain with the moves that wait (R115). -/
def State.releaseTx8 (s : State) : State :=
  let w := s.tx8Serve - 1
  if (s.tx 8).release && s.fieldSt 8 == 0 && (s.tx 8).takeover == 0 && s.tx8Serve != 0 then
    let s := (s.put (pTXC 8) TXC.CFG_SERVE 0).putB (pTXC 8) TXC.STATUS_SERVING false
    let s := (s.withTx 8 fun t => { t with release := false }).putB (pTXC w) TXC.STATUS_REPLACED false
    ((s.moveAct 8 w).retapWing w).armNow w
  else s

/-- RAMP_DOWN_END: the field is off, or the port change goes on through the switch; 64 CCLK later the switch goes to OPEN
and the port parks (R104).  A field-on armed meanwhile sets its switch now (R103), and the closing ramp of a whole scan completes its
auto-tune (R96). -/
def effRampDownEnd (n : Nat) (s : State) : State :=
  if s.coreUp && decide (n < 9) then
    let t := s.tx n
    if s.fieldSt n = 5 then
      match t.next with
      | some q =>
        let s := (s.withTx n fun t => { t with next := none, sw := none }).setField n 6
        (s.setSwitch n q).sched 64 (.fieldLaunch n)
      | none =>
        let st := t.endSt.getD stDONE
        let s := ((s.withTx n fun t => { t with opening := true }).fieldGone n).sched 64 (.rampDownEnd n)
        let s := s.when (t.act == 3 && t.scanning) fun s => s.sched 0 (.atuneComplete n [])
        let s := s.when (t.act == 3 && !t.scanning) fun s => s.tuneEnd n st
        let s := s.when (decide (t.act = 2 ∨ t.act = 4 ∨ t.act = 5 ∨ t.act = 6)) fun s => s.actDone n st
        s.armNow n
    else if t.opening && decide (s.fieldSt n = 0) then s.openSwitch n
    else s
  else s

/-! ## Auto-tune (R96, R97) -/

/-- Auto-tune begun on chain `n` at a port, with the ATUNE fields of page `pg` and its result on page `rp`, for a move or
for a register write; the tests of R97 in their order. -/
def State.startTune (s : State) (n port pg rp : Nat) (c : Option Nat) : State :=
  let refuse := fun (s : State) (st : Nat) => (s.put rp TXC.ATUNE_RESULT_STATUS (tuneCode st)).endFor c st
  let own := s.fieldSt (port / 24)
  if c.isSome && (s.resigned || s.chainFaulted n) then refuse s stFAULTED
  else if !s.enabled rp && c.isNone then
    ((s.put rp TXC.ATUNE_RESULT_STATUS 9).flag rp TXC.FLAG_TUNE_DONE).recordErr rp 0x0E
  else if !(s.portOk port && s.inReach n port) then refuse (s.badPort rp port) stBAD_PORT
  else if s.fieldSt n != 0 || (s.tx n).act != 0 || (s.tx 8).takeover != 0 && (n == 8 || (s.tx 8).tookPort == n) ||
      (n == 8 && s.tx8For == 0 && (own != 0 || (s.tx (port / 24)).act != 0)) then
    refuse (s.recordErr rp 0x0E) stBUSY
  else if s.noField n then refuse s stFAULTED
  else
    let hop := match c with
      | some c => s.moveHop c
      | none => 0
    let s := s.withTx n fun t => { t with
      act := 3, ctx := c, hop := hop, port := port, fired := false, capt := none, tunePage := pg, resPage := rp, scanning := false }
    if s.tuneHopeless n then s.tuneEnd n stLATE
    else ((s.put rp TXC.ATUNE_RESULT_STATUS 1).setField n 1).setSwitch n port |>.followRails

/-- ATUNE_START: a write of 1 to TXCn.ATUNE.START (R96, R97, R459). -/
def effAtuneStart (n : Nat) (s : State) : State :=
  if s.coreUp && decide (n < 9) then
    let k := if n < 8 ∧ s.tx8Serve = n + 1 then 8 else n
    let s := s.startTune k (s.get (pTXC n) TXC.ATUNE_PORT) (pTXC n) (pTXC n) none
    if (s.tx k).act = 3 ∧ (s.tx k).ctx = none ∧ (s.tx k).fired = false then s.fireField k else s
  else s

/-- The capacitor values of the coarse scan (R96). -/
def coarseCaps : List Nat := (List.range 16).map fun i => 8 + 16 * i

/-- The fine scan about the coarse minimum (R96). -/
def fineCaps (best : Nat) : List Nat := (List.range 256).filter fun c => decide (best ≤ c + 15 ∧ c ≤ best + 15)

/-- The capacitor value with the lowest reading, the lowest value on a tie. -/
def bestCap (l : List (Nat × Nat)) : Nat × Nat :=
  l.foldl (fun b e => if e.2 < b.2 ∨ (e.2 = b.2 ∧ e.1 < b.1) then e else b) (256, 256)

/-- The result of a scan: the best capacitor value and its GAMMA2, from the readings in the order of R96. -/
def scanResult (gammas : List Nat) : Nat × Nat :=
  let coarse := coarseCaps.mapIdx fun i c => (c, gammas.getD i 255)
  let b := (bestCap coarse).1
  let fine := (fineCaps b).mapIdx fun i c => (c, gammas.getD (16 + i) 255)
  bestCap (fine ++ coarse.filter fun e => e.1 ≠ b)

/-- The value that point `i` of a scan gives the bank: the coarse points, then those about the lowest of them (R96). -/
def scanCap (readings : List Nat) (i : Nat) : Option Nat :=
  if i < 16 then coarseCaps[i]?
  else
    let coarse := coarseCaps.mapIdx fun j c => (c, readings.getD j 255)
    (fineCaps (bestCap coarse).1)[i - 16]?

/-- A point of a scan is measured in two halves of 16 carrier cycles, each at what TXCn.MON.GAMMA2 shows at its end; after the last point
the chain ramps down (R96; assumption 88). -/
def State.scanStep (s : State) (n : Nat) : State :=
  if (s.tx n).act = 3 ∧ s.fieldSt n = 7 ∧ (s.tx n).scanning = true then
    let g := s.get (pTXC n) TXC.MON_GAMMA2
    match (s.tx n).half with
    | none => (s.withTx n fun t => { t with half := some g }).timer 256 (.scanStep n)
    | some h =>
      let s := s.withTx n fun t => { t with half := none, scan := t.scan ++ [(h + g) / 2] }
      if (scanCap (s.tx n).scan (s.tx n).scan.length).isSome then s.timer 768 (.scanStep n)
      else
        let s := (s.setField n 5).withTx n fun t => { t with endSt := none, since := s.now, reached := 1023 }
        s.resched (s.tx n).ramp.downLen (.rampDownEnd n)
  else s

/-- The field of an auto-tune is over: its ramp, or what is left of it, has ended. -/
def State.tuneOff (s : State) (n : Nat) : State :=
  if s.fieldSt n = 0 then s
  else
    let s := (s.unsched (.rampDownEnd n)).withTx n fun t => { t with opening := true }
    (s.fieldGone n).sched 64 (.rampDownEnd n)

/-- ATUNE_COMPLETE: the scan and the closing ramp are over; the result is written, from the readings given or, with none, those that the
chain has taken (R96). -/
def effAtuneComplete (n : Nat) (gammas : List Nat) (s : State) : State :=
  if s.coreRuns && decide (n < 9) && (s.tx n).act == 3 &&
      (s.fieldSt n == 7 || ((s.tx n).scanning && (s.fieldSt n == 5 || s.fieldSt n == 0))) then
    let t := s.tx n
    let r := scanResult (if gammas.isEmpty then t.scan else gammas.map fun g => g % 256)
    let p := t.port
    let f := pFIL (p / 8)
    let old := s.capNow p
    let s := (s.put t.resPage TXC.ATUNE_RESULT_CAP r.1).put t.resPage TXC.ATUNE_RESULT_GAMMA2 r.2
    let s := s.flag f FIL.FLAG_TUNED (p % 8)
    let ok := decide (r.2 ≤ s.get t.tunePage TXC.ATUNE_ACCEPT)
    let s := if ok then
        if s.bit t.tunePage TXC.ATUNE_WRITE then
          let v := (FIL.TUNE_CAP (p % 8)).put (s.reg f (0x10 + p % 8)) r.1
          (s.writeFields f (0x10 + p % 8) v).kbzLearn p old
        else s
      else s.recordErr f 5
    (s.tuneOff n).tuneEnd n (if ok then stDONE else stFAIL)
  else s

/-- A software write of FILf.TUNE ends an auto-tune of the port OVERRIDDEN, on the edge of its end too (R97, R125). -/
def State.tuneOverride (s : State) (p : Nat) : State :=
  s.forEach (List.range 9) fun s n =>
    if (s.tx n).act = 3 ∧ (s.tx n).port = p then
      if s.fieldSt n = 1 then s.dropArmed n stOVERRIDDEN
      else (s.tuneEnd n stOVERRIDDEN).rampDown n stOVERRIDDEN
    else s

/-! ## Chain faults and the takeover (R111–R115) -/

/-- The conditions of a takeover (R113); a Resign holds against it (R427). -/
def State.canTake (s : State) (n : Nat) : Bool :=
  decide (n < 8) && s.tx8Serve == 0 && (s.tx 8).takeover == 0 && s.enabled (pTXC 8) && s.bit (pTXC 8) TXC.CFG_AUTO &&
    !s.resigned && s.flt.request == 0

/-- An idle TXC8 that auto-tunes stops: its stage without a ramp, the auto-tune ABORTED with code 0x0E (R113). -/
def State.stopTune8 (s : State) : State :=
  let tune := (s.tx 8).act == 3
  let lit := s.lit 8
  let s := s.when tune fun s => s.recordErr (pTXC 8) 0x0E
  let s := if lit then s.stageOff 8 else s
  let s := if tune then (if lit then s.tuneEnd 8 stABORTED else s.dropArmed 8 stABORTED) else s
  if lit then s.fieldGone 8 else s

/-- The field of a failed chain that a takeover does not carry on: that of an auto-tune ends FAULTED, a ramp-down under way or beginning on
this edge counts as complete (R113, R125). -/
def State.endFailed (s : State) (w : Nat) : State :=
  let t := s.tx w
  let f := s.fieldSt w
  if t.act = 3 then (if f = 1 ∨ f = 0 then s.dropArmed w stFAULTED else ((s.stageOff w).tuneEnd w stFAULTED).fieldGone w)
  else if f = 5 then
    let s := s.stageOff w
    (if t.act = 1 ∨ t.act = 2 then s else s.actDone w (t.endSt.getD stDONE)).fieldGone w
  else if t.act = 2 ∧ t.fired = true ∧ t.launchAt = s.now ∧ s.lit w = true then ((s.stageOff w).actDone w stDONE).fieldGone w
  else s

/-- The field of a failed chain is carried on by TXC8, with the move that has begun or waits on it (R113). -/
def State.carryOn (s : State) (w : Nat) : State :=
  let t := s.tx w
  let f := s.fieldSt w
  let phase := if f = 6 then s.get (pFIL (t.port / 8)) (FIL.PORT_PHASE (t.port % 8)) else t.phase
  let s := s.withTx 8 fun x => { x with
    act := t.act, ctx := t.ctx, hop := t.hop, port := t.port, fired := t.fired, launchAt := t.launchAt, capt := none,
    carry := true, tookOn := if f = 6 then t.port else t.sw.getD t.port, phase := phase }
  (s.stageOff w).withTx w fun x => { x with act := 0, ctx := none, fired := false, next := none, endSt := none }

/-- TXC8 takes over Wing `w` (R113). -/
def State.takeOver (s : State) (w : Nat) : State :=
  let s := (s.stopTune8.putB (pTXC w) TXC.STATUS_REPLACED true).endFailed w
  let f := s.fieldSt w
  let s := s.withTx 8 fun x => { x with takeover := 1, tookPort := w, tookOn := 255, carry := false, act := 0, ctx := none, fired := false }
  let s := if f = 2 ∨ f = 3 ∨ f = 4 ∨ f = 6 then s.carryOn w else s.moveAct w 8
  (s.unsched (.fieldLaunch 8)).timer 65 .txServe

/-- A fault of R111 on a chain: it is reported, and TXC8 masks it or the field ends FAULTED (R113, R114); a forward mismatch of TXC8 soon
after a takeover, on the same port, is the port's. -/
def State.chainFault (s : State) (n bit code : Nat) : State :=
  let p := s.txPort n
  let c := s.txContext n
  if n = 8 ∧ code = 2 ∧ s.tx8Serve ≠ 0 ∧ s.now ≤ (s.tx 8).tookAt + ms ∧ (s.tx 8).tookAt ≠ 0 ∧ (s.tx 8).tookOn = p then
    let s := s.setFault (pFIL (p / 8)) (16 + p % 8) 3 { cls := 6, ctx := c, port := p }
    s.killField 8 stFAULTED
  else
    let take := s.canTake n
    let s := s.setFault (pTXC n) bit code { cls := 4, action := if take then 2 else 0, interrupt := if take then 208 else 0, ctx := c, port := p }
    if take && s.flt.request == 0 then s.takeOver n else s.killField n stFAULTED

/-- A chain that works: enabled, or with a field of its own still ramping down (R37, R125). -/
def State.chainLive (s : State) (n : Nat) : Bool := s.enabled (pTXC n) || s.lit n

/-- PA_OVERCURRENT (R111). -/
def effPaOvercurrent (n : Nat) (s : State) : State :=
  if s.coreRuns && decide (n < 9) && s.chainLive n then s.chainFault n 2 3 else s

/-- TXC_CONTROL_MISMATCH (R111). -/
def effTxcControlMismatch (n : Nat) (s : State) : State :=
  if s.coreRuns && decide (n < 9) && s.chainLive n then s.chainFault n 3 4 else s

/-- The reflection action of R112. -/
def State.reflect (s : State) (n : Nat) : State :=
  let p := s.txPort n
  let s := (s.recordErr (pTXC n) 5).flag (pTXC n) TXC.FLAG_REFLECTED
  let s := s.setFault (pFIL (p / 8)) (16 + p % 8) 2 { cls := 6, ctx := s.txContext n, port := p }
  if s.txGet n TXC.MON_LIMIT_REFL_ACT ≠ 0 then s.endField n stREFLECTED else s

/-- A reading `d` dB lower, rounded down: the largest x with x^10 × 10^d ≤ v^10. -/
def lowered (v d : Nat) : Nat :=
  (List.range 17).foldl (fun x i =>
    let y := x + 2 ^ (16 - i)
    if y ^ 10 * 10 ^ d ≤ v ^ 10 then y else x) 0

/-- MONITOR_MEAN: the means over 16 carrier cycles of forward and reflected power, in 0.01 mW; `sq` is the mean of a² of
the amplitude codes the chain produced in them (R100, R111, R112). -/
def effMonitorMean (n fwd refl sq : Nat) (s : State) : State :=
  if s.coreRuns && decide (n < 9) && s.chainLive n then
    let t := s.tx n
    let pg := pTXC n
    let g := if fwd < 100 then 0 else Nat.min 255 (256 * refl / fwd)
    let tol := orDefault 1 (s.txGet n TXC.MON_LIMIT_FWD_TOL)
    let shown := if s.now < t.injUntil then lowered fwd (tol + 3) else fwd
    let s := ((s.put pg TXC.MON_GAMMA2 g).put pg TXC.MON_FWD (Nat.min 65535 shown)).put pg TXC.MON_REFL (Nat.min 65535 refl)
    let pcmd := Nat.min (100 * (if s.lit n then t.lev else s.txLevel n)) (s.railPower n) / (if s.bit pPWR PWR.STATUS_THROTTLE then 2 else 1)
    let cmd := pcmd * sq / (1023 * 1023)
    let skip := decide (cmd * 20 < pcmd) || !s.lit n
    let bad := dbAbove shown cmd tol || dbAbove cmd shown tol
    let fr := if skip then t.fwdRun else if bad then t.fwdRun + 1 else 0
    let rr := if s.lit n && decide (s.txGet n TXC.MON_LIMIT_REFL_MAX < g) then t.reflRun + 1 else 0
    let s := s.withTx n fun t => { t with fwdRun := fr % 8, reflRun := rr % 8 }
    let s := s.when (decide (rr = 8)) fun s => s.reflect n
    s.when (decide (fr = 8)) fun s => s.chainFault n 1 2
  else s

/-- SWITCH_READBACK_FAULT: a switch readback disagrees; a field on the port ends (R91). -/
def effSwitchReadbackFault (port : Nat) (s : State) : State :=
  if s.coreRuns && decide (port < 192) then
    let n := s.chainAt port
    let c := match n with
      | some n => s.txContext n
      | none => 0xFF
    let s := s.setFault (pFIL (port / 8)) (8 + port % 8) 1 { cls := 6, ctx := c, port := port }
    match n with
    | some n => s.endField n stFAULTED
    | none => s
  else s

/-- TXC8_ASSIGN: a write of 1–8 to TXC8.CFG.ASSIGN (R115); any other value has no effect.  An auto-tune of the idle TXC8 ends ABORTED, a
field of the Wing's own chain ramps down as for DISABLED, and what waits on that chain passes to TXC8 (R20; assumption 88). -/
def effTxc8Assign (v : Nat) (s : State) : State :=
  if s.coreUp && decide (1 ≤ v ∧ v ≤ 8) then
    if s.tx8Serve != 0 || (s.tx 8).takeover != 0 then s.recordErr (pTXC 8) 0x0F
    else
      let w := v - 1
      let s := s.when ((s.tx 8).act == 3) fun s =>
        let s := s.recordErr (pTXC 8) 0x0E
        if s.lit 8 then (s.tuneEnd 8 stABORTED).rampDown 8 stABORTED else s.dropArmed 8 stABORTED
      let s := s.when (s.lit w) fun s => s.endField w stDISABLED
      let s := (s.put (pTXC 8) TXC.CFG_SERVE v).putB (pTXC 8) TXC.STATUS_SERVING true
      let s := s.withTx 8 fun t => { t with tookAt := 0 }
      ((s.putB (pTXC w) TXC.STATUS_REPLACED true).moveAct w 8).armNow 8
  else s

/-- TXC8_RELEASE: a write of 9 releases TXC8 once its field is off (R115). -/
def effTxc8Release (s : State) : State :=
  if s.coreUp && s.tx8Serve != 0 then (s.withTx 8 fun t => { t with release := true }).releaseTx8 else s

/-! ## Aborts, disabling, and the whole Board -/

/-- An abort reaches the FIELD or TUNE move of a chain first (R460). -/
def State.abortField (s : State) (n : Nat) : State :=
  let t := s.tx n
  let f := s.fieldSt n
  if t.act = 2 then s.dropArmed n stABORTED
  else if t.act = 6 then s.withTx n fun t => { t with endSt := some stABORTED }
  else if t.act = 4 ∧ f = 5 ∧ t.next.isSome = true then s.withTx n fun t => { t with next := none, endSt := some stABORTED }
  else if t.act = 4 then s.rampDown n stABORTED
  else if t.act = 3 ∧ s.lit n = true then s.rampDown n stABORTED
  else if t.act = 1 ∨ t.act = 3 then s.dropArmed n stABORTED
  else s

/-- A write of 0 to a chain's CTRL.ENABLE: the field ramps down and the move ends DISABLED (R37). -/
def State.disableChain (s : State) (n : Nat) : State := s.endField n stDISABLED

/-- A File page disabled, or a port of it no longer fitted: a field on such a port ramps down and a field-on armed for it ends, as for
DISABLED, and no tap stays there (R93, R125). -/
def State.dropPorts (s : State) (gone : Nat → Bool) : State :=
  let s := s.forEach (List.range 9) fun s n =>
    if (s.tx n).sw.any gone || ((s.tx n).act == 1 && gone (s.tx n).port) then s.endField n stDISABLED else s
  s.retapAll

def State.disableFile (s : State) (f : Nat) : State := s.dropPorts fun p => p / 8 == f

/-- Every field on the Board ramps down and ends with a status, those armed too (R404). -/
def State.allDown (s : State) (st : Nat) : State := s.forEach (List.range 9) fun s n => s.endField n st

/-- Every field on the Board that is on or ramping ramps down and ends with a status (R398). -/
def State.litDown (s : State) (st : Nat) : State :=
  s.forEach (List.range 9) fun s n => if s.fieldSt n = 0 ∨ s.fieldSt n = 1 then s else s.endField n st

/-- Every output stage stops without a ramp (R400). -/
def State.allStop (s : State) (st : Nat) : State := s.forEach (List.range 9) fun s n => s.killField n st

/-- A LEVEL write reaches the rail's demand at once and a field at the next carrier-cycle boundary (R99, R109). -/
def State.powerWritten (s : State) (n : Nat) : State :=
  (s.followRails).when (s.lit n) fun s => s.timer (16 - s.now % 16) (.levelStep n)

end Sys2Proof.Machine
end

