-- ==== Sys2Proof/Machine/Air.lean ====
section
/-! DEFINITION. Reader frames on the air (R106, R107, R121, R156, R162–R166): the bytes and CRC that leave, their coding into low
intervals of the carrier, and what a frame's start and end do to the transmit chain.  The codings of ISO/IEC 14443-2 and ISO/IEC
15693-2 that the manual names without repeating them are assumption 89's. -/

namespace Sys2Proof.Machine

open Sys2Proof

/-! ## Bits, bytes and checks (R161, R162) -/

/-- Bits in order of arrival packed into bytes, least significant bit first (R161). -/
def packBits (l : List Bool) : List Nat :=
  (List.range (ceilDiv l.length 8)).map fun i =>
    (List.range 8).foldl (fun a j => a + (if l.getD (8 * i + j) false then 2 ^ j else 0)) 0

/-- The bits of bytes, least significant bit first. -/
def unpackBits (l : List Nat) : List Bool := (l.map fun b => (List.range 8).map fun j => b.testBit j).flatten

/-- The odd parity bit of a byte (R161). -/
def oddParity (b : Nat) : Bool := popCount 8 b % 2 == 0

/-- The CRC of a kind of frame: CRC_A for Type A, CRC_B for Type B, CRC-16 of ISO/IEC 13239 for ISO/IEC 15693 (R162). -/
def frameCrc (kind : Nat) (l : List Nat) : Nat := if kind = 0 then crcA l else crcB l

/-- The two CRC bytes in the order sent, low byte first (R162). -/
def crcBytes (kind : Nat) (l : List Nat) : List Nat := [frameCrc kind l % 256, frameCrc kind l / 256]

/-- The kinds whose CRC an engine makes and checks: short and bit-oriented frames have none (R158). -/
def crcKind (kind : Nat) : Bool := kind == 0 || kind == 3 || kind == 4 || kind == 5

/-- The bytes of a frame as they leave, CRC included (R158, R162). -/
def TxFrame.wire (f : TxFrame) : List Nat :=
  if f.kind = 1 then [f.bytes.headD 0 % 128]
  else if f.kind = 5 then []
  else if f.crc && crcKind f.kind then f.bytes ++ crcBytes f.kind f.bytes else f.bytes

/-- The logic value in which a Type A reader frame ends before its end of communication (R164). -/
def TxFrame.lastBit (f : TxFrame) : Bool :=
  let b := f.wire.getLastD 0
  if f.kind = 1 then b.testBit 6
  else if f.kind = 2 ∧ f.lastBits ≠ 0 then b.testBit (f.lastBits - 1)
  else oddParity b

/-! ## Captured configuration (R157) -/

def State.eng (s : State) (w : Nat) : Eng := s.engs.getD w Eng.reset

def State.withEng (s : State) (w : Nat) (f : Eng → Eng) : State := { s with engs := s.engs.set w (f (s.eng w)) }

/-- A PRT field as the engine captured it at the start of its move (R157). -/
def Eng.get (e : Eng) (f : Fld) : Nat := f.get (e.cfg.getD (f.off - 0x10) 0)

/-! ## Coding into low intervals -/

/-- An elementary time unit at a rate, in carrier cycles: 128, 64, 32, 16 (R156). -/
def etu (rate : Nat) : Nat := 128 / 2 ^ rate

/-- A pause of a Type A frame: ceil(PAUSE / 2^i) carrier cycles, a PAUSE of 0 acting as 1 (R163). -/
def pauseLen (pause rate : Nat) : Nat := ceilDiv (orDefault 1 pause) (2 ^ rate)

/-- The bits of a Type A frame in the order sent, parity after each whole byte (R158, R161). -/
def TxFrame.aBits (f : TxFrame) : List Bool :=
  let byte := fun b => ((List.range 8).map fun j => b.testBit j) ++ [oddParity b]
  if f.kind = 1 then (List.range 7).map fun j => (f.wire.headD 0).testBit j
  else if f.kind = 2 ∧ f.lastBits ≠ 0 then
    (f.wire.dropLast.map byte).flatten ++ (List.range f.lastBits).map fun j => (f.wire.getLastD 0).testBit j
  else (f.wire.map byte).flatten

/-- The starts of the pauses of a Type A frame in modified Miller coding: a logic 1 has its pause in mid-bit, a logic 0 at its start
unless a 1 came before it; the start of communication is a 0 with a pause and the end of communication a 0. -/
def millerAt (u : Nat) : Nat → Bool → List Bool → List Nat
  | at_, prev, [] => if prev then [] else [at_]
  | at_, prev, b :: l => (if b then [at_ + u / 2] else if prev then [] else [at_]) ++ millerAt u (at_ + u) b l

/-- The runs of low levels in a list of levels, one per `u` carrier cycles, from `at_` on. -/
def lowRuns (u : Nat) : Nat → Nat → List Bool → List (Nat × Nat)
  | at_, run, [] => if run = 0 then [] else [(at_ - run, run)]
  | at_, run, b :: l =>
    if b then (if run = 0 then [] else [(at_ - run, run)]) ++ lowRuns u (at_ + u) 0 l else lowRuns u (at_ + u) (run + u) l

/-- The levels of a Type B frame, one per etu, high without modulation: SOF, characters of a start bit 0, eight data bits and a stop
bit 1 with the extra guard time between them, EOF (R165). -/
def Eng.bLevels (e : Eng) (f : TxFrame) : List Bool :=
  let low := fun n => List.replicate n false
  let high := fun n => List.replicate n true
  let char := fun b => [false] ++ ((List.range 8).map fun j => b.testBit j) ++ [true]
  let egt := high (Nat.min 6 (e.get PRT.B_CFG_EGT))
  low (clampNat 10 11 (e.get PRT.B_CFG_SOF_LOW)) ++ high (clampNat 2 3 (e.get PRT.B_CFG_SOF_HIGH)) ++
    (List.intersperse egt (f.wire.map char)).flatten ++ low (clampNat 10 11 (e.get PRT.B_CFG_EOF_LOW))

/-- The levels of an ISO/IEC 15693 frame, one per 128 carrier cycles: a start of frame of 1,024, each 2 bits with a pulse in one of 4
slots of 256 or each byte with one in one of 256, an end of frame of 512 (R156). -/
def Eng.vLevels (e : Eng) (f : TxFrame) : List Bool :=
  let pulse := fun n v => ((List.range n).map fun i => [true, i != v]).flatten
  let sof := fun k => (List.range 8).map fun i => !(i == 0 || i == k)
  let eof := [true, true, false, true]
  if f.kind = 5 then eof
  else if e.get PRT.V_CFG_CODING_256 = 1 then sof 7 ++ (f.wire.map fun b => pulse 256 (b % 256)).flatten ++ eof
  else sof 5 ++ (f.wire.map fun b => ((List.range 4).map fun i => pulse 4 (b / 4 ^ i % 4)).flatten).flatten ++ eof

/-- The intervals in which a frame lowers the carrier: start from the frame's beginning and length, in carrier cycles. -/
def Eng.lows (e : Eng) (f : TxFrame) : List (Nat × Nat) :=
  if f.kind ≤ 2 then
    let u := etu f.rate
    (0 :: millerAt u u false f.aBits).map fun t => (t, pauseLen (e.get PRT.A_CFG_PAUSE) f.rate)
  else if f.kind = 3 then lowRuns (etu f.rate) 0 0 (e.bLevels f)
  else lowRuns 128 0 0 (e.vLevels f)

/-- The carrier cycles from a frame's beginning to its end, from which the reply time runs: the end of the last pause of Type A, the
end of the EOF otherwise (R164–R166). -/
def Eng.span (e : Eng) (f : TxFrame) : Nat :=
  if f.kind ≤ 2 then (e.lows f).foldl (fun m p => Nat.max m (p.1 + p.2)) 0
  else if f.kind = 3 then etu f.rate * (e.bLevels f).length
  else 128 * (e.vLevels f).length

/-! ## The carrier of a chain that modulates (R106, R107, R121) -/

/-- A depth held to 100–1,000 (R106). -/
def askDepth (d : Nat) : Nat := clampNat 100 1000 d

/-- The depth of a frame: DEPTH_FULL for 100 % frames, DEPTH_PART for 10 % frames (R107, R163, R165, R166). -/
def State.frameDepth (s : State) (n : Nat) (e : Eng) (f : TxFrame) : Nat :=
  let full := decide (f.kind ≤ 2) || (decide (4 ≤ f.kind) && e.get PRT.V_CFG_ASK100 == 1)
  askDepth (s.txGet n (if full then TXC.ASK_DEPTH_FULL else TXC.ASK_DEPTH_PART))

/-- The intervals in which a chain lowers its carrier, in carrier cycles of the Board's time (R60), those of the frame in flight. -/
def State.lowsOf (s : State) (n : Nat) : List (Nat × Nat) :=
  match (List.range 8).find? fun w => (s.eng w).flying && (s.eng w).sender == n with
  | none => []
  | some w => match (s.eng w).air with
    | none => []
    | some a => ((s.eng w).lows (s.eng w).frame).map fun l => (a.1 / 16 + l.1, l.2)

/-- The amplitude of a chain's carrier in 1/1000 of a code: a in general, b = a × (1 − DEPTH / 1000) in the low intervals of the frame in
flight (R106). -/
def State.carrierAmp (s : State) (n : Nat) : Nat :=
  let c := s.now / 16
  if (s.lowsOf n).any fun l => decide (l.1 ≤ c ∧ c < l.1 + l.2) then s.ampCode n * (1000 - (s.tx n).ask) else s.ampCode n * 1000

/-- The first carrier cycle, from `c` on, on which two lists of low intervals differ; `n` bounds the intervals looked at. -/
def firstDiff (c : Nat) : Nat → List (Nat × Nat) → List (Nat × Nat) → Option Nat
  | 0, _, _ => none
  | _, [], [] => none
  | n + 1, [], b :: l => if b.1 + b.2 ≤ c then firstDiff c n [] l else some (Nat.max c b.1)
  | n + 1, a :: k, [] => if a.1 + a.2 ≤ c then firstDiff c n k [] else some (Nat.max c a.1)
  | n + 1, a :: k, b :: l =>
    if a.1 + a.2 ≤ c then firstDiff c n k (b :: l)
    else if b.1 + b.2 ≤ c then firstDiff c n (a :: k) l
    else if Nat.max c a.1 ≠ Nat.max c b.1 then some (Nat.min (Nat.max c a.1) (Nat.max c b.1))
    else if a.1 + a.2 ≠ b.1 + b.2 then some (Nat.min (a.1 + a.2) (b.1 + b.2))
    else firstDiff c n k l

/-- The modulation of chain `n` is compared with that of the chains with a field on a coupled port, from this carrier cycle on (R121). -/
def State.askCheck (s : State) (n : Nat) : State :=
  s.forEach (s.coupledChains n) fun s e =>
    let k := s.lowsOf n
    let l := s.lowsOf e.1
    match firstDiff (s.now / 16) (k.length + l.length) k l with
    | some c => s.retimer (16 * c - s.now) (.askDiff n e.1)
    | none => s

/-- The carrier cycle on which two coupled fields differ in modulation (R121). -/
def State.askDiff (s : State) (n m : Nat) : State :=
  if (s.coupledChains n).any (fun e => e.1 == m) && (s.bit (pTXC n) TXC.STATUS_MODULATING || s.bit (pTXC m) TXC.STATUS_MODULATING) then
    s.askConflict n m
  else s

/-- A reader frame begins on chain `n`: its depth is captured and STATUS.MODULATING set; a coupled field makes a legacy one a frame
beside a field (R107, R121, R127).  The modulation is compared once every frame of this edge has begun. -/
def State.modBegin (s : State) (n d : Nat) (legacy : Bool) : State :=
  let s := (s.withTx n fun t => { t with ask := d }).putB (pTXC n) TXC.STATUS_MODULATING true
  (s.when legacy fun s => s.legacyBeside n).retimer 1 (.askCheck n)

/-- A receive chain's tap carries the field of chain `m`, its own or a neighbour's (R132, R133). -/
def State.nearRx (s : State) (n m : Nat) : Bool :=
  match (s.rx n).tap, (s.tx m).sw with
  | some p, some q => s.lit m && (p == q || (s.coupledPorts m q).contains p)
  | _, _ => false

/-- A chain with a field on the tap of a receive chain or on a coupled port modulates (R132, R133). -/
def State.nearModulates (s : State) (n : Nat) : Bool :=
  (List.range 9).any fun m => s.bit (pTXC m) TXC.STATUS_MODULATING && s.nearRx n m

/-- The samples of a receive chain are blanked (R133). -/
def State.blankedNow (s : State) (n : Nat) : Bool :=
  decide (s.now < (s.rx n).blankTo) || decide (s.now < (s.rx n).tapAt) || s.nearModulates n

/-- The modulation of chain `n` ends: the samples of the receive chains near it stay blanked for 8 samples more (R133), and a LEVEL
written during the frame takes effect (R99). -/
def State.modEnd (s : State) (n : Nat) : State :=
  let s := s.forEach ((List.range 17).filter fun k => s.nearRx k n) fun s k =>
    s.withRx k fun r => { r with blankTo := Nat.max r.blankTo (s.now + 256) }
  ((s.withTx n fun t => { t with ask := 0 }).putB (pTXC n) TXC.STATUS_MODULATING false).levelStep n

end Sys2Proof.Machine
end

