-- ==== Sys2Proof/Machine/Tones.lean ====
section
/-! DEFINITION. Samples and what is computed from them: levels (R133), the check of a long symbol (R140), tone sets, pilots, the
64-point transform, channel estimate, combining and decisions of a Blitz frame (R184–R196), and the quantities of a SOUND (R210, R211).
Complex values are pairs of integers; the word lengths inside the demodulator, which no rule gives, are assumption 90's. -/

namespace Sys2Proof.Machine

open Sys2Proof

/-! ## Samples and levels (R133) -/

def fullScale : Nat := 524287

/-- I and Q of a sample (R133). -/
def sampleI (v : Nat) : Int := sext 20 (v / 2 ^ 20)
def sampleQ (v : Nat) : Int := sext 20 v

/-- A blanked sample. -/
def blanked (v : Nat) : Bool := v % 2 ^ 40 == 0x8000080000

/-- A sample as the loops, measures and decoders take it: a blanked one adds nothing. -/
def sampleC (v : Nat) : Int × Int := if blanked v then (0, 0) else (sampleI v, sampleQ v)

/-- |z|² of a complex value. -/
def cAbs2 (z : Int × Int) : Nat := (z.1 * z.1 + z.2 * z.2).toNat

/-- |s|² of a sample. -/
def sampleP (v : Nat) : Nat := cAbs2 (sampleC v)

/-- A sample clips when |I| or |Q| reaches 524,287; a blanked one does not count. -/
def clips (v : Nat) : Bool :=
  !blanked v && (decide (fullScale ≤ (sampleI v).natAbs) || decide (fullScale ≤ (sampleQ v).natAbs))

/-- Energy of a list of samples. -/
def energy (l : List Nat) : Nat := l.foldl (fun a v => a + sampleP v) 0

/-- A power `e / n` below full scale, in 0.5 dB units to the nearest, at most 255. -/
def halfDbBelow (e n : Nat) : Nat :=
  if e = 0 then 255
  else ((List.range 255).filter fun h => decide (10 ^ (2 * h + 1) * e ^ 40 ≤ (n * (fullScale * fullScale)) ^ 40)).length

/-- round(−t − P) dB of a power `e / n`, for P in dBFS (R136). -/
def agcStep (e n t : Nat) : Int :=
  let fs := n * (fullScale * fullScale)
  if e = 0 then 66
  else
    -- the number of dB values g in −66 … 66 with g + 1/2 ≤ −t − P, counted from −66
    let below := (List.range 132).filter fun i =>
      let k : Int := 2 * ((i : Int) - 66) + 1 + 2 * t
      if 0 ≤ k then decide (10 ^ k.toNat * e ^ 20 ≤ fs ^ 20) else decide (e ^ 20 ≤ fs ^ 20 * 10 ^ (-k).toNat)
    (below.length : Int) - 66

/-- A gain held to 0–66 dB. -/
def gainHold (g : Int) : Nat := (max 0 (min 66 g)).toNat

/-- The largest g with a / b ≥ 10^((2g − 1) / 200), in −2,048 … 2,047: 10 × log10(a / b) in 0.1 dB, to the nearest. -/
def logTenths (a b : Nat) : Int :=
  (List.range 12).foldl (fun (g : Int) i =>
    let h := g + 2 ^ (11 - i)
    let k := 2 * h - 1
    if (if 0 ≤ k then decide (10 ^ k.toNat * b ^ 200 ≤ a ^ 200) else decide (b ^ 200 ≤ a ^ 200 * 10 ^ (-k).toNat)) then h else g) (-2048)

/-- A level in 0.1 dB as its field of 10 bits holds it, saturating. -/
def tenBits (g : Int) : Nat := ((max (-512) (min 511 g)) % 1024).toNat

/-! ## Complex arithmetic -/

def cAdd (a b : Int × Int) : Int × Int := (a.1 + b.1, a.2 + b.2)
def cSub (a b : Int × Int) : Int × Int := (a.1 - b.1, a.2 - b.2)
def cMul (a b : Int × Int) : Int × Int := (a.1 * b.1 - a.2 * b.2, a.1 * b.2 + a.2 * b.1)
def cConj (a : Int × Int) : Int × Int := (a.1, -a.2)
def cScale (k : Int) (a : Int × Int) : Int × Int := (k * a.1, k * a.2)
def cSum (l : List (Int × Int)) : Int × Int := l.foldl cAdd (0, 0)

/-- 2^20 × cos(2π j / 64) for j = 0 … 16. -/
def cosTab : List Int :=
  [1048576, 1043527, 1028428, 1003425, 968758, 924761, 871859, 810560, 741455, 665210, 582558, 494295, 401273, 304386, 204567, 102778, 0]

/-- 2^20 × cos(2π j / 64). -/
def cos64 (j : Nat) : Int :=
  let k := j % 64
  if k ≤ 16 then cosTab.getD k 0
  else if k ≤ 32 then -cosTab.getD (32 - k) 0
  else if k ≤ 48 then -cosTab.getD (k - 32) 0
  else cosTab.getD (64 - k) 0

/-- 2^20 × sin(2π j / 64). -/
def sin64 (j : Nat) : Int := cos64 (j + 48)

/-- Bin `b` of the 64-point transform of a window, times 2^20. -/
def dftBin (l : List Nat) (b : Nat) : Int × Int :=
  cSum (l.zipIdx.map fun e => cMul (sampleC e.1) (cos64 (b * e.2), -sin64 (b * e.2)))

/-! ## Tone sets and pilots (R184, R189, R190, R197, R198) -/

/-- A data tone of a set: 0 all tones, 1 light, 2 dark square (R197). -/
def inSet (set k : Nat) : Bool :=
  decide (4 ≤ k ∧ k ≤ 19) && (set == 0 || (set == 1 && k % 2 == 0) || (set == 2 && k % 2 == 1))

/-- A tone of a set, pilots included (R184, R197). -/
def inSetPilot (set k : Nat) : Bool := inSet set k || (k == 3 && set != 2) || (k == 20 && set != 1)

/-- The classes that the correlator may accept: class 0, or class 2 for a dark square (R198). -/
def setClasses (set : Nat) : Nat := if set = 2 then 4 else 1

/-- The data tones of a set, ascending. -/
def dataTones (set : Nat) : List Nat := (List.range 21).filter (inSet set)

/-- The tones of a set with its pilots, ascending. -/
def setTones (set : Nat) : List Nat := (List.range 21).filter (inSetPilot set)

/-- The pilots of a set (R194, R197). -/
def pilotTones (set : Nat) : List Nat := [3, 20].filter (inSetPilot set)

/-- The header symbols of a frame (R197). -/
def headerSymbols (set : Nat) : Nat := if set = 0 then 2 else 4

/-- L_k of the long symbols (R190). -/
def longTone (k : Nat) : Int :=
  ([1, 1, -1, 1, -1, -1, 1, 1, 1, -1, 1, -1, -1, -1, 1, -1, 1, 1] : List Int).getD (k - 3) 1

/-- λ(i), the useful part of a long symbol of a set, times 2^20 (R190). -/
def lambda (set i : Nat) : Int := ((setTones set).map fun k => 2 * longTone k * cos64 (k * i)).foldl (· + ·) 0

/-- The pilot register before symbol `m` (R189). -/
def pilotReg : Nat → Nat
  | 0 => 127
  | m + 1 => let r := pilotReg m; (2 * r + (r / 64 + r / 32) % 2) % 128

/-- The pilot value p_m of symbol `m`, counted from the first header symbol (R189). -/
def pilot (m : Nat) : Int := let r := pilotReg m; if (r / 64 + r / 32) % 2 = 0 then 1 else -1

/-! ## Fine timing (R140) -/

/-- X(n) at the start of a list of samples, as numerator and denominator. -/
def matchLong (set : Nat) (l : List Nat) : Nat × Nat :=
  let w := (l.take 64).zipIdx.map fun e => (sampleC e.1, lambda set e.2)
  let c := cSum (w.map fun e => cScale e.2 e.1)
  (cAbs2 c, (w.map fun e => cAbs2 e.1).foldl (· + ·) 0 * (w.map fun e => (e.2 * e.2).toNat).foldl (· + ·) 0)

/-- The position of the largest X among the 65 of a decision, d + 8 first, the earliest on a tie, with that X. -/
def matchPeak (set : Nat) (l : List Nat) : Nat × Nat × Nat :=
  (List.range 65).foldl (fun b j =>
    let x := matchLong set (l.drop j)
    if b.2.1 * x.2 < x.1 * b.2.2 then (j, x.1, x.2) else b) (0, 0, 1)

/-! ## Demodulation (R185, R186, R194) -/

/-- The window of symbol `j` counted from T0, where 0 and 1 are the long symbols (R140, R185); the long symbols are taken with the same
BACKOFF (assumption 90). -/
def fftWindow (backoff : Nat) (l : List Nat) (j : Nat) : List Nat := (l.drop (80 * j + 16 - backoff)).take 64

/-- X_k and X_{−k}, the two sidebands of a tone (R184, R186). -/
def sidebands (win : List Nat) (k : Nat) : (Int × Int) × (Int × Int) := (dftBin win k, dftBin win (64 - k))

/-- 2 H_k and 2 H_{−k} of each tone of a set, from the long symbols (R194). -/
def chanEst (set backoff : Nat) (l : List Nat) : List (Nat × (Int × Int) × (Int × Int)) :=
  (setTones set).map fun k =>
    let a := sidebands (fftWindow backoff l 0) k
    let b := sidebands (fftWindow backoff l 1) k
    (k, cScale (longTone k) (cAdd a.1 b.1), cScale (longTone k) (cAdd a.2 b.2))

/-- 2 H of a tone's sidebands. -/
def chanAt (h : List (Nat × (Int × Int) × (Int × Int))) (k : Nat) : (Int × Int) × (Int × Int) :=
  ((h.find? fun e => e.1 == k).map Prod.snd).getD ((0, 0), (0, 0))

/-- ρ_m of a symbol, as Σ conj(2H p) X, and Σ |2H|²: ρ is twice their quotient (R194). -/
def pilotSum (set : Nat) (h : List (Nat × (Int × Int) × (Int × Int))) (p : Int) (win : List Nat) : (Int × Int) × Nat :=
  (cSum ((pilotTones set).map fun k =>
      let e := chanAt h k
      let x := sidebands win k
      cScale p (cAdd (cMul (cConj e.1) x.1) (cMul (cConj e.2) x.2))),
    ((pilotTones set).map fun k => cAbs2 (chanAt h k).1 + cAbs2 (chanAt h k).2).foldl (· + ·) 0)

/-- A quotient to the nearest integer; 0 over 0. -/
def divNear (a : Int) (b : Nat) : Int := if b = 0 then 0 else (2 * a + b) / (2 * b)

/-- d̂_k of a tone in a symbol, in units of 2^-20: both bins divided by ρ, then combined (R186, R194). -/
def combine (h : List (Nat × (Int × Int) × (Int × Int))) (sg : (Int × Int) × Nat) (win : List Nat) (k : Nat) : Int × Int :=
  let e := chanAt h k
  let x := sidebands win k
  let a := cScale sg.2 (cConj sg.1)
  let num := cAdd (cMul (cConj e.1) (cMul x.1 a)) (cMul e.2 (cConj (cMul x.2 a)))
  let den := cAbs2 sg.1 * (cAbs2 e.1 + cAbs2 e.2)
  (divNear (num.1 * 2 ^ 20) den, divNear (num.2 * 2 ^ 20) den)

/-! ## Constellations (R187) -/

/-- 1, 1/√2, cos 22.5°, sin 22.5° and 1/√10 in units of 2^-20. -/
def unit20 : Int := 1048576
def rootHalf : Int := 741455
def cosEighth : Int := 968758
def sinEighth : Int := 401273
def rootTenth : Int := 331589

/-- The bits b0b1b2 of the eight points of 8-PSK, n = 0 … 7. -/
def eightMap : List (List Bool) :=
  [[false, false, false], [true, false, false], [true, true, false], [false, true, false],
   [false, true, true], [true, true, true], [true, false, true], [false, false, true]]

/-- The points of 8-PSK in order. -/
def eightPoints : List (Int × Int) :=
  [(cosEighth, sinEighth), (sinEighth, cosEighth), (-sinEighth, cosEighth), (-cosEighth, sinEighth),
   (-cosEighth, -sinEighth), (-sinEighth, -cosEighth), (sinEighth, -cosEighth), (cosEighth, -sinEighth)]

/-- The four levels of 16-QAM with their bits, in units of 1/√10. -/
def quarterMap : List (Int × List Bool) :=
  [(-3, [false, false]), (-1, [false, true]), (1, [true, true]), (3, [true, false])]

/-- The bits and points of a code (R187); none for code 0. -/
def points (code : Nat) : List (List Bool × (Int × Int)) :=
  match code with
  | 1 => [([false], (unit20, 0)), ([true], (-unit20, 0))]
  | 2 => [([false, false], (rootHalf, rootHalf)), ([true, false], (-rootHalf, rootHalf)),
          ([false, true], (rootHalf, -rootHalf)), ([true, true], (-rootHalf, -rootHalf))]
  | 3 => eightMap.zip eightPoints
  | 4 => quarterMap.flatMap fun i => quarterMap.map fun q => (i.2 ++ q.2, (i.1 * rootTenth, q.1 * rootTenth))
  | _ => []

/-- The nearest point of a code to a combined value, the first listed on a tie (R194). -/
def nearest (code : Nat) (d : Int × Int) : List Bool × (Int × Int) :=
  (points code).foldl (fun b e => if cAbs2 (cSub d e.2) < cAbs2 (cSub d b.2) then e else b) ((points code).headD ([], (0, 0)))

/-- The bits of a symbol, tones ascending, each with its code (R188). -/
def symbolBits (codes : List (Nat × Nat)) (d : Nat → Int × Int) : List Bool :=
  (codes.map fun e => (nearest e.2 (d e.1)).1).flatten

/-- The points that the bits of a stream give a symbol's tones, ascending, the stream's end padded with 0 bits (R188). -/
def mapBits (codes : List (Nat × Nat)) (bits : List Bool) : List (Nat × (Int × Int)) :=
  (codes.foldl (fun (x : List (Nat × (Int × Int)) × List Bool) e =>
    let n := ((points e.2).headD ([], (0, 0))).1.length
    let b := (List.range n).map fun i => x.2.getD i false
    (match (points e.2).find? fun p => p.1 == b with
      | some p => x.1 ++ [(e.1, p.2)]
      | none => x.1, x.2.drop n)) ([], bits)).1

/-! ## A frame as demodulated -/

/-- A frame's demodulation: the samples from T0, the BACKOFF, the set and the channel. -/
structure Demod where
  set : Nat
  backoff : Nat
  samples : List Nat
  chan : List (Nat × (Int × Int) × (Int × Int))

def demodOf (set backoff : Nat) (l : List Nat) : Demod := { set := set, backoff := backoff, samples := l, chan := chanEst set backoff l }

/-- The window of symbol `m`, counted from the first header symbol. -/
def Demod.win (x : Demod) (m : Nat) : List Nat := fftWindow x.backoff x.samples (m + 2)

def Demod.rho (x : Demod) (m : Nat) : (Int × Int) × Nat := pilotSum x.set x.chan (pilot m) (x.win m)

/-- The combined values of the tones of symbol `m`. -/
def Demod.values (x : Demod) (m : Nat) (tones : List Nat) : List (Nat × (Int × Int)) :=
  let sg := x.rho m
  let w := x.win m
  tones.map fun k => (k, combine x.chan sg w k)

/-- The index of the second of two consecutive symbols, of the first `n`, on which Re(ρ) is negative (R194). -/
def Demod.slip (x : Demod) (n : Nat) : Option Nat :=
  let neg := (List.range n).map fun m => decide ((x.rho m).1.1 < 0)
  (List.range n).find? fun m => decide (0 < m) && neg.getD m false && neg.getD (m - 1) false

/-- The bits of symbols `m`, …, `m + n − 1` under the codes of their tones. -/
def Demod.bits (x : Demod) (m n : Nat) (codes : List (Nat × Nat)) : List Bool :=
  ((List.range n).map fun i =>
    let v := x.values (m + i) (codes.map Prod.fst)
    symbolBits codes fun k => ((v.find? fun e => e.1 == k).map Prod.snd).getD (0, 0)).flatten

/-- For each tone, over symbols `m`, …, `m + n − 1`: the power of the decided points and the squared distance from them (R196). -/
def Demod.errors (x : Demod) (m n : Nat) (codes : List (Nat × Nat)) : List (Nat × Nat × Nat) :=
  let vs := (List.range n).map fun i => x.values (m + i) (codes.map Prod.fst)
  codes.map fun e =>
    let ds := vs.map fun v => ((v.find? fun t => t.1 == e.1).map Prod.snd).getD (0, 0)
    ds.foldl (fun (a : Nat × Nat × Nat) d =>
      let p := (nearest e.2 d).2
      (a.1, a.2.1 + cAbs2 p, a.2.2 + cAbs2 (cSub d p))) (e.1, 0, 0)

/-- Power and error of tone `k` in a list of them. -/
def errAt (l : List (Nat × Nat × Nat)) (k : Nat) : Nat × Nat := ((l.find? fun e => e.1 == k).map Prod.snd).getD (0, 0)

/-- The SNR of a power over an error, in 0.1 dB (R196). -/
def snrTenths (p e : Nat) : Int := if e = 0 then 511 else logTenths p e

/-! ## SOUND (R210, R211) -/

/-- Σ_m X_b / (L_k p_m) of a bin over the sound symbols, which follow the header's `h`. -/
def Demod.soundSum (x : Demod) (h n k bin : Nat) : Int × Int :=
  cSum ((List.range n).map fun i => cScale (longTone k * pilot (h + i)) (dftBin (x.win (h + i)) bin))

/-- Σ |X_b|² of a bin over the windows of the quiet listen. -/
def quietSum (ws : List (List Nat)) (bin : Nat) : Nat := (ws.map fun w => cAbs2 (dftBin (w.take 64) bin)).foldl (· + ·) 0

/-- G_b / N_b as a quotient, both at the gains of their measurement. -/
def Demod.soundRatio (x : Demod) (ws : List (List Nat)) (h n k bin : Nat) : Nat × Nat :=
  (cAbs2 (x.soundSum h n k bin) * ws.length, n * n * quietSum ws bin)

/-- A ratio in 0.1 dB, with both gains referred to the receive tap (R210, R211). -/
def ratioTenths (a b quiet gain : Nat) : Int := if b = 0 then 511 else logTenths a b + 10 * ((quiet : Int) - gain)

/-- The three SNRs of a tone of a measurement record: combined, upper and lower sideband (R209, R211). -/
def Demod.soundTone (x : Demod) (ws : List (List Nat)) (h n quiet gain k : Nat) : Nat × Nat × Nat :=
  let u := x.soundRatio ws h n k k
  let l := x.soundRatio ws h n k (64 - k)
  let both := if u.2 = 0 ∨ l.2 = 0 then (1, 0) else (u.1 * l.2 + l.1 * u.2, u.2 * l.2)
  (tenBits (ratioTenths both.1 both.2 quiet gain), tenBits (ratioTenths u.1 u.2 quiet gain), tenBits (ratioTenths l.1 l.2 quiet gain))

end Sys2Proof.Machine
end

