-- ==== Sys2Proof/Machine/Receive.lean ====
section
/-! DEFINITION. Receive chains (R128–R153): roles and taps, the leak canceller, the check tone, stepped gain and fast AGC,
preamble detection, fine timing, the capture watch, legacy frames and collisions, sample capture, and the spare chain RXC16. -/

namespace Sys2Proof.Machine

open Sys2Proof

/-! ## Roles and taps (R128–R130) -/

/-- RXC 2w + 1 stands in as the primary chain of Wing `w` (R128). -/
def State.standsIn (s : State) (w : Nat) : Bool :=
  !s.rxOk (2 * w) && !s.rxReplaced (2 * w) && s.bit (pRXC (2 * w)) RXC.CFG_PAIR_FALLBACK &&
    s.bit (pRXC (2 * w + 1)) RXC.CFG_PAIR_FALLBACK && s.rxOk (2 * w + 1) && !s.rxReplaced (2 * w + 1)

/-- The chain of a role, or the status with which a move for it ends (R128). -/
def State.roleChain (s : State) (w role : Nat) : Nat ⊕ Nat :=
  let own := 2 * w + role
  let fail := if s.rxFaulted own || (s.rxReplaced own && s.rxFaulted 16) then stFAULTED else stDISABLED
  if s.rxReplaced own then (if s.rxOk 16 then .inl 16 else .inr fail)
  else if role = 1 ∧ s.standsIn w = true then .inr stFAULTED
  else if s.rxOk own then .inl own
  else if role = 0 ∧ s.standsIn w = true then .inl (2 * w + 1)
  else .inr fail

/-- A move finds no chain for its role: code 0x0C when the chain has failed (R128). -/
def State.roleFail (s : State) (w role st : Nat) : State :=
  if st = stFAULTED then s.recordErr (pRXC (2 * w + role)) 0x0C else s

/-- The hop of the events of a chain: that of the move it listens for (R284). -/
def State.rxHop (s : State) (n : Nat) : Nat :=
  match (s.rx n).ctx with
  | some c => s.moveHop c
  | none => 0

/-- The engine for which a chain receives. -/
def State.engOf (s : State) (n : Nat) : Option Nat :=
  if (s.rx n).ctx.isNone then none
  else (List.range 8).find? fun w => (s.eng w).user == (s.rx n).ctx && (s.eng w).chain == n

/-- The role whose chain a move uses (R128, R260). -/
def rxRole : Instr → Option Nat
  | .listen _ _ a => some a.role
  | .xchg .. => some 0
  | .anticoll .. => some 0
  | .sound .. => some 0
  | .book .. => some 0
  | .gambit .. => some 0
  | .seal .. => some 0
  | _ => none

/-- A move that is to use a chain has been issued and has not ended (R151, R153). -/
def State.rxIssued (s : State) (n : Nat) : Bool :=
  (List.range 12).any fun c =>
    match (s.ctx c).move with
    | none => false
    | some m => match rxRole m, launchOf m with
      | some r, some h => (s.ctx c).ended.isNone && (match s.roleChain h.wing r with
        | .inl k => k == n
        | .inr _ => false)
      | _, _ => false

/-- A move that uses a chain is in flight, from its issue until its record is written (R151, R153). -/
def State.rxInFlight (s : State) (n : Nat) : Bool := (s.rx n).ctx.isSome || s.rxIssued n

/-! ## Captures to SRAM (R147, R148) -/

/-- CAP_STAT.STATE: 0 IDLE, 1 ARMED, 2 RUNNING, 3 DONE, 4 STOPPED, 5 OVERRUN, 6 REFUSED. -/
def State.capState (s : State) (n : Nat) : Nat := s.get (pRXC n) RXC.CAP_STAT_STATE

/-- The next word of a capture. -/
def State.capNext (s : State) (n : Nat) : Nat :=
  let len := s.rxGet n RXC.CAP_CFG_LEN
  let k := (s.rx n).written
  s.rxGet n RXC.CAP_ADDR_START + (if s.rxBit n RXC.CAP_CFG_RING then k % len else k)

/-- Samples written to the region, one word each, within it (R147). -/
def State.capWrite (s : State) (n : Nat) (samples : List Nat) : State :=
  s.forEach (if s.rxBit n RXC.CAP_CFG_RING then samples else samples.take (s.rxGet n RXC.CAP_CFG_LEN - (s.rx n).written)) fun s v =>
    let s := s.memWrite (s.capNext n) (v % 2 ^ 40)
    let s := s.withRx n fun r => { r with written := r.written + 1 }
    let s := s.put (pRXC n) RXC.CAP_STAT_NEXT (s.capNext n)
    s.putB (pRXC n) RXC.CAP_STAT_WRAPPED
      (s.rxBit n RXC.CAP_CFG_RING && decide (s.rxGet n RXC.CAP_CFG_LEN ≤ (s.rx n).written))

/-- A capture is writing: running, or armed with a ring. -/
def State.capWriting (s : State) (n : Nat) : Bool :=
  s.capState n == 2 || (s.capState n == 1 && s.rxBit n RXC.CAP_CFG_RING)

/-- The samples that a capture has written since it began, one every 32 CCLK, and that no command has brought: their values are free
(assumption 91). -/
def State.capUnseen (s : State) (n : Nat) : State :=
  if s.capWriting n then
    let len := s.rxGet n RXC.CAP_CFG_LEN
    let due := s.now / 32 - (s.rx n).capAt / 32 - (s.rx n).written
    let k := Nat.min due (if s.rxBit n RXC.CAP_CFG_RING then len else len - (s.rx n).written)
    let s := s.withRx n fun r => { r with written := r.written + (if s.rxBit n RXC.CAP_CFG_RING then due - k else 0) }
    s.forEach (List.range k) fun s _ => (s.capWrite n [(Config.unseenSample s.free).toNat]).nextFree
  else s

/-- A capture ends with a state; DONE and STOPPED set FLAG.CAP_DONE and present the event (R147). -/
def State.capEnd (s : State) (n st : Nat) : State :=
  let s := (s.put (pRXC n) RXC.CAP_STAT_STATE st).putB (pRXC n) RXC.STATUS_CAPTURING false
  if st = 3 ∨ st = 4 then (s.flag (pRXC n) RXC.FLAG_CAP_DONE).present (73 + n) (max (s.rx n).capHop (s.rxHop n)) else s

/-- A capture ends STOPPED (R147); a trigger on the same edge is not recorded (R152). -/
def State.capStop (s : State) (n : Nat) : State :=
  let w := (s.rx n).trigWas
  (if w.1 = s.now ∧ s.capState n = 2 then s.put (pRXC n) RXC.CAP_TRIG_ADDR w.2 else s).capEnd n 4

/-- The trigger of an armed capture arrives: CAP_TRIG takes the word of the trigger sample (R147). -/
def State.capTrig (s : State) (n trig : Nat) : State :=
  if s.capState n = 1 ∧ s.rxGet n RXC.CAP_CFG_TRIG = trig then
    let s := s.withRx n fun r => { r with
      trigWas := (s.now, s.get (pRXC n) RXC.CAP_TRIG_ADDR), capAt := if s.rxBit n RXC.CAP_CFG_RING then r.capAt else s.now }
    (s.put (pRXC n) RXC.CAP_TRIG_ADDR (s.capNext n)).put (pRXC n) RXC.CAP_STAT_STATE 2
  else s

/-- A trigger of the Board's own: a ring has first written the samples before it (R147). -/
def State.trigger (s : State) (n trig : Nat) : State :=
  if s.capState n = 1 ∧ s.rxGet n RXC.CAP_CFG_TRIG = trig then (s.capUnseen n).capTrig n trig else s

/-- A capture is armed with the fields as they stand, or refused (R147). -/
def State.capArm (s : State) (n : Nat) : State :=
  let len := s.rxGet n RXC.CAP_CFG_LEN
  let a := s.rxGet n RXC.CAP_ADDR_START
  let ring := s.rxBit n RXC.CAP_CFG_RING
  let trig := s.rxGet n RXC.CAP_CFG_TRIG
  if len = 0 ∨ sramLast < a + len - 1 ∨ (ring = true ∧ trig ≠ 0 ∧ len ≤ s.rxGet n RXC.CAP_CFG_PRE) then
    (s.put (pRXC n) RXC.CAP_STAT_STATE 6).recordErr (pRXC n) 7
  else
    let s := s.withRx n fun r => { r with written := 0, capHop := 0, capAt := s.now }
    let s := (s.put (pRXC n) RXC.CAP_STAT_NEXT a).putB (pRXC n) RXC.CAP_STAT_WRAPPED false
    (s.put (pRXC n) RXC.CAP_STAT_STATE (if trig = 0 then 2 else 1)).putB (pRXC n) RXC.STATUS_CAPTURING true

/-- The chain that captures for a page: RXC16 while it serves (R149). -/
def State.capChain (s : State) (n : Nat) : Nat := if n < 16 ∧ s.rx16Serve = n + 1 then 16 else n

/-- CAPTURE_START: a write of 1 to CAP_CFG.START; a running capture ends STOPPED first and the new one is armed on the next edge (R147,
R152). -/
def effCaptureStart (n : Nat) (s : State) : State :=
  if s.coreRuns && decide (n < 17) && s.enabled (pRXC (s.capChain n)) then
    let n := s.capChain n
    if s.capState n = 1 ∨ s.capState n = 2 then ((s.capUnseen n).capStop n).retimer 1 (.capArm n) else s.capArm n
  else s

/-- CAPTURE_STOP: a write of 1 to CAP_CFG.STOP ends a running or armed capture, the samples up to it written (R147). -/
def effCaptureStop (n : Nat) (samples : List Nat) (s : State) : State :=
  if s.coreRuns && decide (n < 17) then
    let n := s.capChain n
    let s := s.untimer (.capArm n)
    if s.capState n = 1 ∨ s.capState n = 2 then
      let s := if samples.isEmpty then s.capUnseen n else if s.capWriting n then s.capWrite n samples else s
      s.capStop n
    else s
  else s

/-- CAPTURE_TRIGGER: the selected trigger arrives, after the samples that a ring has written before it (R147). -/
def effCaptureTrigger (n trig : Nat) (samples : List Nat) (s : State) : State :=
  if s.coreRuns && decide (n < 17) && decide (s.capState n = 1) then
    let s := if s.rxBit n RXC.CAP_CFG_RING then s.capWrite n samples else s
    s.capTrig n trig
  else s

/-- The samples that a running capture still writes before it ends DONE: LEN, or LEN − PRE in a ring from its trigger on; a ring
without a trigger never ends so (R147). -/
def State.capLeft (s : State) (n : Nat) : Option Nat :=
  let len := s.rxGet n RXC.CAP_CFG_LEN
  if !s.rxBit n RXC.CAP_CFG_RING then some len
  else if s.rxGet n RXC.CAP_CFG_TRIG = 0 then none
  else some (len - s.rxGet n RXC.CAP_CFG_PRE)

/-- CAPTURE_DONE: the samples from the start, or in a ring from the trigger sample on, are all written (R147). -/
def effCaptureDone (n : Nat) (samples : List Nat) (s : State) : State :=
  if s.coreRuns && decide (n < 17) && decide (s.capState n = 2) && s.capLeft n == some samples.length then
    (s.capWrite n samples).capEnd n 3
  else s

/-- CAPTURE_OVERRUN: the words written stay valid (R148). -/
def effCaptureOverrun (n : Nat) (samples : List Nat) (s : State) : State :=
  if s.coreRuns && decide (n < 17) && s.capWriting n then
    (((s.capWrite n samples).capEnd n 5).flag (pRXC n) RXC.FLAG_CAP_OVERRUN).recordErr (pRXC n) 5
  else s

/-! ## Noise floor and gain (R135–R138) -/

/-- The noise floor at a gain: the least block power, each rescaled from the gain it was measured at (R138), as a pair:
energy of 8 samples and its gain. -/
def noiseFloor (l : List (Nat × Nat)) : Option (Nat × Nat) :=
  l.foldl (fun b e => match b with
    | none => some e
    | some m => if e.1 ^ 10 * 10 ^ m.2 < m.1 ^ 10 * 10 ^ e.2 then some e else some m) none

/-- A power of `e / n` measured at gain `g` lies at least `d` dB above the noise floor. -/
def aboveNoise (floor : Option (Nat × Nat)) (e n g d : Nat) : Bool :=
  match floor with
  | none => true
  | some f => decide (10 ^ (d + g) * (f.1 * n) ^ 10 ≤ (e * 8) ^ 10 * 10 ^ f.2)

def State.rxGain (s : State) (n : Nat) : Nat := s.get (pRXC n) RXC.STATUS_GAIN

/-- LEVEL.NOISE shows the noise floor at the gain in use (R138), rounded to 0.5 dB. -/
def State.showNoise (s : State) (n : Nat) : State :=
  match noiseFloor (s.rx n).noise with
  | none => s
  | some f =>
    let h : Int := halfDbBelow f.1 8 + 2 * ((f.2 : Int) - s.rxGain n)
    s.put (pRXC n) RXC.LEVEL_NOISE (Nat.min 255 h.toNat)

/-- A change of gain: the noise floor is rescaled, and two samples are blanked (R133, R138). -/
def State.setGain (s : State) (n g : Nat) : State :=
  if s.rxGain n = g then s
  else ((s.put (pRXC n) RXC.STATUS_GAIN g).withRx n fun r => { r with blankTo := Nat.max r.blankTo (s.now + 64) }).showNoise n

/-! ## The start and the end of a listen -/

/-- STATUS.STATE: 0 IDLE, 1 SEARCH, 2 TIMING, 3 FRAME, 4 BLANKED. -/
def State.rxState (s : State) (n : Nat) : Nat := s.get (pRXC n) RXC.STATUS_STATE
def State.setRxState (s : State) (n st : Nat) : State := s.put (pRXC n) RXC.STATUS_STATE st

/-- A listen begins on a chain (R135–R137, R147): its gain and class, capture trigger 1.  One routed to RXC16 before step 4 of a takeover
starts there (R149). -/
def State.rxListen (s : State) (n c : Nat) (blitz : Bool) (classes : Nat) : State :=
  let s := s.withRx n fun r => { r with
    ctx := some c, blitz := blitz, classes := classes, gated := false, begun := false, mark := 0, raw := [], colls := [] }
  if n = 16 ∧ (s.rx 16).takeover = true then s.setRxState n 0
  else
    let g := if blitz && !s.rxBit n RXC.GAIN_FORCE then s.rxGet n RXC.AGC_START else s.rxGet n RXC.GAIN_LEGACY
    ((s.setGain n (Nat.min 66 g)).setRxState n 1).trigger n 1

/-- A move takes a chain, from its launch until its record is written (R151, R153). -/
def State.rxTake (s : State) (n c : Nat) : State :=
  s.withRx n fun r => { r with ctx := some c, begun := false, mark := 0, raw := [], colls := [] }

/-- RXC16 may be heard: a listen routed to it during a takeover starts at step 4 (R149). -/
def State.rxHears (s : State) (n : Nat) : Bool := !(s.rx n).takeover

/-- RXC16 is released with no listen or capture in flight (R151). -/
def State.releaseRx16 (s : State) : State :=
  let k := s.rx16Serve - 1
  if (s.rx 16).release && s.rx16Serve != 0 && !s.rxInFlight 16 && !(s.capState 16 == 1 || s.capState 16 == 2) then
    let s := (s.put (pRXC 16) RXC.CFG_SERVE 0).putB (pRXC 16) RXC.STATUS_SERVING false
    ((s.withRx 16 fun r => { r with release := false }).putB (pRXC k) RXC.STATUS_REPLACED false).retapWing (k / 2)
  else s

/-- A chain is free of a move's tap: it takes the one of its own setting (R129, R260). -/
def State.rxRest (s : State) (n : Nat) : State :=
  if (s.rx n).ctx.isNone then (s.withRx n fun r => { r with named := false }).retap n else s

/-- A listen ends on the chains of a context: the tap a move named returns to the chain's setting (R129, R260). -/
def State.rxFree (s : State) (c : Nat) : State :=
  s.forEach (List.range 17) fun s n =>
    if (s.rx n).ctx = some c then
      ((s.withRx n fun r => { r with ctx := none }).setRxState n 0).rxRest n
    else s

/-- The chain on which a context listens. -/
def State.rxOf (s : State) (c : Nat) : Option Nat := (List.range 17).find? fun n => (s.rx n).ctx == some c

/-! ## Leak canceller and check tone -/

/-- A field stands on the tap of a chain or on a port coupled to it (R132). -/
def State.nearField (s : State) (n : Nat) : Bool := (List.range 9).any fun m => s.nearRx n m

/-- LEAK_CONVERGED: 64 samples of convergence are over (R132), with a field on the closed tap or on a neighbour of it, no modulation there
and no frame in progress; `residual` is the residual's magnitude at the ADC. -/
def effLeakConverged (n i q residual : Nat) (s : State) : State :=
  if s.coreRuns && decide (n < 17) && s.enabled (pRXC n) && s.nearField n && !s.nearModulates n && s.rxState n != 3 &&
      decide ((s.rx n).tapAt ≤ s.now) then
    let s := (s.put (pRXC n) RXC.LEAK_LEAK_I i).put (pRXC n) RXC.LEAK_LEAK_Q q
    let s := s.putB (pRXC n) RXC.READY_LEAK true
    if fullScale * fullScale < 10 * residual * residual then
      (s.flag (pRXC n) RXC.FLAG_LEAK_HIGH).recordErr (pRXC n) 9
    else s
  else s

/-! ## Legacy frames (R135, R143–R145) -/

/-- A projection is of a negative sum. -/
def dotI (a b : Int × Int) : Int := a.1 * b.1 + a.2 * b.2

/-- The principal axis of complex envelope samples, as a direction, turned so that it points along them: half the angle of Σ z² (R143). -/
def axisOf (env : List (Int × Int)) : Int × Int :=
  let z := cSum (env.map fun e => cMul e e)
  let u : Int × Int := ((isqrt (z.1 * z.1 + z.2 * z.2).toNat : Int) + z.1, z.2)
  let u := if u = (0, 0) then (0, 1) else u
  if dotI u (cSum env) < 0 then cScale (-1) u else u

/-- The codings in which one of two halves of a bit carries the subcarrier (R145). -/
def halfCoded (kind rate : Nat) : Bool := (decide (kind ≤ 2) && rate == 0) || decide (4 ≤ kind)

/-- A bit decoded from the projections of its halves (R143): a 1 of Type A at 106 kbit/s has its subcarrier in the first half, a 1 of
ISO/IEC 15693 in the second (or its first subcarrier there); in BPSK a 1 has the phase of the frame's start. -/
def halfBit (kind rate : Nat) (axis : Int × Int) (h : (Int × Int) × (Int × Int)) : Bool :=
  let a := dotI axis h.1
  let b := dotI axis h.2
  if decide (kind ≤ 2) && rate == 0 then decide (b.natAbs ≤ a.natAbs)
  else if 4 ≤ kind then decide (a.natAbs < b.natAbs)
  else decide (0 ≤ a + b)

/-- LEGACY_FRAME_START: a legacy frame start is found, never on blanked samples; the frame is received at GAIN.LEGACY as it stands at this
boundary, and the complex subcarrier of its first 16 cycles gives its axis (R130, R133, R137, R143). -/
def effLegacyFrameStart (n : Nat) (env : List (Int × Int)) (s : State) : State :=
  if s.coreRuns && decide (n < 17) && s.rxState n == 1 && !(s.rx n).blitz && s.rxHears n && !s.blankedNow n then
    let s := s.withRx n fun r => { r with
      begun := true, startAt := s.now, startAngle := s.angle, mark := 0, raw := [], colls := [], axis := axisOf env
      power := (env.map cAbs2).foldl Nat.max 0 }
    ((s.put (pRXC n) RXC.STATUS_GAIN (Nat.min 66 (s.rxGet n RXC.GAIN_LEGACY))).setRxState n 3).trigger n 3
  else s

/-- A bit whose halves have the energies `a` and `b` is a collision (R145). -/
def State.collides (s : State) (n a b : Nat) : Bool :=
  let hi := Nat.max a b
  let lo := Nat.min a b
  let d := clampNat 6 20 (s.rxGet n RXC.COLL_COLL_DB)
  decide (hi ^ 10 ≤ lo ^ 10 * 10 ^ d) && decide (0 < hi) &&
    aboveNoise (noiseFloor (s.rx n).noise) lo 1 (s.rxGain n) (s.rxGet n RXC.COLL_MIN_SNR)

/-- The stepped gain after a legacy frame whose largest envelope has the power `e` (R135). -/
def State.stepGain (s : State) (n e : Nat) : State :=
  let u := orDefault 1 (s.rxGet n RXC.GAIN_UPPER)
  let g := s.rxGet n RXC.GAIN_LEGACY
  let fs := (fullScale * fullScale) ^ 10
  let g' := Nat.min 66 (if fs < e ^ 10 * 10 ^ u then g - 6 else if e ^ 10 * 10 ^ (u + 9) < fs then g + 6 else g)
  if s.rxBit n RXC.GAIN_FORCE ∨ g' = g then s
  else
    let s := s.rxPutHw n RXC.GAIN_LEGACY g'
    (s.setGain n (Nat.min 66 (s.rxGet n RXC.GAIN_LEGACY))).flag (pRXC n) RXC.FLAG_GAIN_STEP

/-- A frame ends on a chain: FLAG.FRAME_END and its event (R153). -/
def State.frameEnds (s : State) (n : Nat) : State := (s.flag (pRXC n) RXC.FLAG_FRAME_END).present (56 + n) (s.rxHop n)

/-- LEVEL of the latest frame, of power `e / n`, and whether it clipped (R153). -/
def State.showLevel (s : State) (n e k : Nat) (clipped : Bool) : State :=
  (s.put (pRXC n) RXC.LEVEL_FRAME (if clipped then 0 else halfDbBelow e k)).put (pRXC n) RXC.LEVEL_GAIN (s.rxGain n)

/-- A frame that clipped: its mark, FLAG.CLIPPED and code 0x04 (R135, R144). -/
def State.clippedFrame (s : State) (n : Nat) : State :=
  ((s.withRx n fun r => { r with mark := Nat.max 1 r.mark }).flag (pRXC n) RXC.FLAG_CLIPPED).recordErr (pRXC n) 4

/-- LEGACY_FRAME_END: the frame ends with the complex envelopes of the halves of each bit; its bits are decoded along its axis, its
collision bits are found without it, it is handed on with its mark, and the gain may step (R135, R143–R145). -/
def effLegacyFrameEnd (n : Nat) (clipped : Bool) (halves : List ((Int × Int) × (Int × Int))) (s : State) : State :=
  if s.coreRuns && decide (n < 17) && s.rxState n == 3 && !(s.rx n).blitz then
    let f := (s.eng ((s.engOf n).getD 0)).frame
    let raw := halves.map (halfBit f.kind f.rrate (s.rx n).axis)
    let colls := if halfCoded f.kind f.rrate then
        halves.zipIdx.filterMap fun h =>
          let a := cAbs2 h.1.1
          let b := cAbs2 h.1.2
          if s.collides n a b then some (h.2, isqrt a, isqrt b) else none
      else []
    let top := halves.foldl (fun m h => Nat.max m (Nat.max (cAbs2 h.1) (cAbs2 h.2))) (s.rx n).power
    let s := (s.withRx n fun r => { r with raw := raw, colls := colls }).showLevel n top 1 clipped
    let s := s.when clipped fun s => s.clippedFrame n
    let s := s.when (!colls.isEmpty) fun s => s.flag (pRXC n) RXC.FLAG_COLLISION
    (((s.frameEnds n).setRxState n 1).stepGain n (if clipped then fullScale * fullScale else top)).retap n
  else s

/-- A frame in progress is cut off: it has ended, and a legacy one may step the gain, by a level that is free (R135, R153;
assumption 92). -/
def State.cutFrame (s : State) (n : Nat) : State :=
  if s.rxState n = 3 then
    let s := s.frameEnds n
    if (s.rx n).blitz then s
    else
      let l := (Config.cutLevel s.free).toNat
      let e := Nat.max (s.rx n).power (l * l)
      ((s.nextFree.showLevel n e 1 false).setRxState n 1).stepGain n e
  else s

/-! ## Chain faults and the takeover by RXC16 (R149, R150) -/

/-- The moves that use a chain end with a status, and their records carry a mark (R149, R152). -/
def State.rxEnds (s : State) (n st mark : Nat) : State :=
  match (s.rx n).ctx with
  | none => s
  | some c =>
    match s.userWing c with
    | some w => { s with wingEnds := s.wingEnds ++ [{ wing := w, status := st, mark := some mark, own := false }] }
    | none => s

/-- A listen that waits on a failed chain `n` goes on on the chain that stands in (R128, R150). -/
def State.fallBack (s : State) (n : Nat) : State :=
  let r := s.rx n
  let s := s.forEach (List.range 8) fun s w => if (s.eng w).user = r.ctx ∧ (s.eng w).chain = n then s.withEng w fun e => { e with chain := n + 1 } else s
  let s := (s.withRx n fun x => { x with ctx := none }).setRxState n 0
  let s := s.withRx (n + 1) fun x => { x with ctx := r.ctx, named := r.named }
  let s := match r.last with
    | some p => s.selectTap (n + 1) p
    | none => s
  let waits := (List.range 8).any fun w => (s.eng w).user == r.ctx && (s.eng w).chain == n + 1 && (s.eng w).await != 0
  match r.ctx with
  | some c => if waits then s.rxListen (n + 1) c r.blitz r.classes else s
  | none => s

/-- A fault of R149 on a chain. -/
def State.rxFault (s : State) (n bit code : Nat) : State :=
  let p := (s.rx n).tap
  let c := (s.rx n).ctx.getD 0xFF
  if n = 16 ∧ code = 1 ∧ s.rx16For ≠ 0 ∧ (s.rx 16).tookAt ≠ 0 ∧ s.now ≤ (s.rx 16).tookAt + ms ∧ p.isSome = true ∧
      (s.rx (s.rx16For - 1)).last = p then
    (s.recordErr (pRXC 16) 0x0D).rxEnds 16 stFAULTED 6
  else
    let take := decide (n < 16) && s.rx16Serve == 0 && !(s.rx 16).takeover && s.enabled (pRXC 16) &&
      s.bit (pRXC 16) RXC.CFG_AUTO && !s.resigned && s.flt.request == 0
    let first := !s.rxFaulted n
    let s := s.setFault (pRXC n) bit code
      { cls := 5, action := if take then 2 else 0, interrupt := if take then 2113 else 0, ctx := c, port := p.getD 0xFF }
    if !first then s
    else if take && s.flt.request == 0 then
      let s := (((s.rxEnds n stTAKEOVER 5).cutFrame n).putB (pRXC n) RXC.STATUS_REPLACED true).setRxState n 0
      let s := s.withRx 16 fun r => { r with takeover := true, tookFor := n, tookAt := s.now, last := p, named := (s.rx n).named }
      (s.timer 1 (.tapOpen n)).timer 65 .rxServe
    else
      let waits := s.rxState n == 0 || s.rxState n == 1
      let s := s.timer 1 (.tapOpen n)
      if n % 2 = 0 ∧ n < 16 ∧ s.standsIn (n / 2) = true ∧ (s.rx (n + 1)).ctx = none then
        if waits then s.fallBack n else ((s.rxEnds n stFAULTED 6).cutFrame n).setRxState n 0
      else
        let s := s.when (s.rx n).ctx.isSome fun s => s.recordErr (pRXC n) 0x0C
        ((s.rxEnds n stFAULTED 6).cutFrame n).setRxState n 0

/-- Step 2 of a takeover: the failed chain's tap opens (R149). -/
def State.tapOpen (s : State) (n : Nat) : State := s.withRx n fun r => { r with tap := none }

/-- Step 3: RXC16 serves, with the same tap, at GAIN.INIT and AGC.START (R149). -/
def State.rxServe (s : State) : State :=
  if (s.rx 16).takeover then
    let k := (s.rx 16).tookFor
    let s := (s.put (pRXC 16) RXC.CFG_SERVE (k + 1)).putB (pRXC 16) RXC.STATUS_SERVING true
    let g := Nat.min 66 (s.rxGet 16 RXC.GAIN_INIT)
    let s := ((s.rxPutHw 16 RXC.GAIN_LEGACY g).setGain 16 g).putB (pRXC 16) RXC.READY_LEAK false
    let s := match (s.rx 16).last with
      | some p => (s.put (pRXC 16) RXC.STATUS_TAP p).withRx 16 fun r => { r with tap := some p, tapAt := s.now }
      | none => s
    s.timer 2048 .rxReady
  else s

/-- Step 4: RXC16 is ready for the role, its leak canceller has converged where a field stands, and a listen that waits for it starts
(R132, R149). -/
def State.rxReady (s : State) : State :=
  if (s.rx 16).takeover then
    let s := s.withRx 16 fun r => { r with takeover := false, tookAt := s.now }
    let s := ((s.flag (pRXC 16) RXC.FLAG_TAKEOVER).recordErr (pRXC 16) 0x0A).present 90 0
    let s := s.when (s.nearField 16 && !s.nearModulates 16) fun s => s.putB (pRXC 16) RXC.READY_LEAK true
    match s.engOf 16 with
    | some w =>
      if (s.eng w).await = 0 then s else s.rxListen 16 ((s.rx 16).ctx.getD 0) (s.rx 16).blitz (s.rx 16).classes
    | none => s.rxRest 16
  else s

/-- TAP_READBACK_FAULT (R130). -/
def effTapReadbackFault (n : Nat) (s : State) : State :=
  if s.coreRuns && decide (n < 17) && s.enabled (pRXC n) then s.rxFault n 1 1 else s

/-- RXC_CONTROL_MISMATCH (R149). -/
def effRxcControlMismatch (n : Nat) (s : State) : State :=
  if s.coreRuns && decide (n < 17) && s.enabled (pRXC n) then s.rxFault n 3 3 else s

/-- The 64 samples of a check-tone block end on this edge, and one of them was blanked, as after a change of gain (R134, R152). -/
def State.checkDue (s : State) (n : Nat) : Bool := decide ((s.rx n).gridAt < s.now ∧ (s.now - (s.rx n).gridAt) % 2048 = 0)
def State.checkSkips (s : State) (n : Nat) : Bool :=
  decide (s.now < Nat.max (s.rx n).blankTo (s.rx n).tapAt + 2048) || s.nearModulates n

/-- CHECK_TONE_BLOCK: the errors of a block of the grid that is not skipped, amplitude in 0.1 dB and phase in 360°/256 (R134, R149). -/
def effCheckToneBlock (n amp phase : Nat) (s : State) : State :=
  if s.coreRuns && decide (n < 17) && s.enabled (pRXC n) && s.checkDue n && !s.checkSkips n then
    let inj := (s.rx n).injBlocks
    let ph := if inj = 0 then phase else phase + 32
    let s := (s.put (pRXC n) RXC.CHECK_AMP amp).put (pRXC n) RXC.CHECK_PHASE ph
    let bad := decide (30 < (sext 8 amp).natAbs) || decide (256 < 12 * (sext 8 ph).natAbs)
    let run := if bad then (s.rx n).checkRun + 1 else 0
    let s := s.withRx n fun r => { r with checkRun := run % 4, injBlocks := inj - 1 }
    if run = 4 then s.rxFault n 2 2 else s
  else s

/-! ## Fast AGC and the preamble (R136–R142) -/

/-- AGC_BLOCK: a block of 8 samples, none of them blanked, of a listen that is searching, for the noise floor of every listen and the gain
of a Blitz listen (R133, R136, R138). -/
def effAgcBlock (n : Nat) (samples : List Nat) (s : State) : State :=
  if s.coreRuns && decide (n < 17) && s.rxState n == 1 && decide (samples.length = 8) && !samples.any blanked && !s.blankedNow n then
    let e := energy samples
    let g := s.rxGain n
    let s := s.withRx n fun r => { r with noise := ((e, g) :: r.noise).take 32 }
    let gate := (s.rx n).blitz && ((s.rx n).gated || aboveNoise (noiseFloor (s.rx n).noise) e 8 g (s.rxGet n RXC.DET_SNR))
    let s := (s.withRx n fun r => { r with gated := gate }).showNoise n
    if gate && !s.rxBit n RXC.GAIN_FORCE then
      let t := clampNat 6 30 (s.rxGet n RXC.AGC_TARGET)
      let d : Int := if samples.any clips then -18 else agcStep e 8 t
      if 1 < d.natAbs then s.setGain n (gainHold ((g : Int) + d)) else s
    else s
  else s

/-- C(n) of R139 over the newest 32 samples, newest first: real and imaginary parts. -/
def corrC (l : List Nat) : Int × Int :=
  cSum (((l.take 16).zip ((l.drop 16).take 16)).map fun p => cMul (sampleC p.1) (cConj (sampleC p.2)))

/-- The class of a sample: round(arg C / 90°) mod 4 (R139). -/
def corrClass (c : Int × Int) : Nat :=
  if c.2.natAbs ≤ c.1.natAbs then (if 0 ≤ c.1 then 0 else 2) else (if 0 ≤ c.2 then 1 else 3)

/-- The newest 32 samples, none blanked, give M(n) ≥ DET.THR / 256 and a class that DET.CLASS and the listen accept (R139, R141, R198). -/
def State.corrHit (s : State) (n : Nat) (l : List Nat) : Bool :=
  let c := corrC l
  let e2 := energy (l.take 32)
  let thr := s.rxGet n RXC.DET_THR
  let q := corrClass c
  decide (l.length = 32) && !l.any blanked && decide (0 < e2) && decide (thr * thr * (e2 * e2) ≤ cAbs2 c * 4 * 65536) &&
    (s.rxGet n RXC.DET_CLASS).testBit q && (s.rx n).classes.testBit q

/-- E(n) lies at least DET.SNR dB above the noise floor (R139). -/
def State.corrGate (s : State) (n : Nat) (l : List Nat) : Bool :=
  aboveNoise (noiseFloor (s.rx n).noise) (energy (l.take 32)) 32 (s.rxGain n) (s.rxGet n RXC.DET_SNR)

/-- The window of 32 samples that ends `i` samples before the newest. -/
def corrWin (samples : List Nat) (i : Nat) : List Nat := (samples.drop i).take 32

/-- DET.HOLD, 0 acting as 1. -/
def State.detHold (s : State) (n : Nat) : Nat := orDefault 1 (s.rxGet n RXC.DET_HOLD)

/-- PREAMBLE_DETECT: the samples up to the detection, newest first; the newest DET.HOLD windows all qualify (R139).  The frame is received
at the gain that stands now, with GAIN.FORCE at GAIN.LEGACY (R136, R137). -/
def effPreambleDetect (n : Nat) (samples : List Nat) (s : State) : State :=
  if s.coreRuns && decide (n < 17) && (s.rx n).blitz && s.rxState n == 1 && s.rxHears n && !s.blankedNow n &&
      (List.range (s.detHold n)).all (fun i => s.corrHit n (corrWin samples i) && s.corrGate n (corrWin samples i)) then
    let s := (s.flag (pRXC n) RXC.FLAG_DETECT).setRxState n 2
    let s := s.withRx n fun r => { r with detAt := s.now, mark := 0 }
    let s := if s.rxBit n RXC.GAIN_FORCE then s.setGain n (Nat.min 66 (s.rxGet n RXC.GAIN_LEGACY))
      else s.put (pRXC n) RXC.AGC_FROZEN (s.rxGain n)
    (s.present (39 + n) (s.rxHop n)).trigger n 2
  else s

/-- The angle `d` CCLK before this edge at the rate in force. -/
def State.angleAgo (s : State) (d : Nat) : Nat :=
  (s.ang.acc + 2 ^ 56 - (d * s.rate) % 2 ^ 56) / 2 ^ 16 % 2 ^ 40

/-- FINE_TIMING_DECISION: the 128 samples d + 8 … d + 135 are complete (R140).  T0 and the angle of the frame's first sample follow from
the position of the largest X; P_frame stands on the samples of the long symbols received so far until the header (R141). -/
def effFineTimingDecision (n : Nat) (samples : List Nat) (s : State) : State :=
  if s.coreRuns && decide (n < 17) && s.rxState n == 2 && decide (samples.length = 128) then
    let w := s.engOf n
    let x := matchPeak (s.eng (w.getD 0)).set samples
    if s.rxGet n RXC.DET_XC_THR * x.2.2 ≤ 256 * x.2.1 then
      let t0 := (s.rx n).detAt + 32 * x.1 - 256
      let l := samples.drop (x.1 - 16)
      let s := s.withRx n fun r => { r with
        t0 := t0, startAt := t0 - 2048, startAngle := s.angleAgo (s.now - (t0 - 2048)), begun := true, power := energy l, powerN := l.length
        mark := if l.any clips then Nat.max 1 r.mark else r.mark }
      (s.setRxState n 3).showLevel n (energy l) l.length (l.any clips)
    else
      let s := s.inc (pRXC n) RXC.COUNT_FALSE_DET
      let s := ((s.flag (pRXC n) RXC.FLAG_FALSE_DET).recordErr (pRXC n) 8).setRxState n 1
      match w with
      | some w => if (s.eng w).stop.isSome || (s.eng w).waitAt.any (fun t => t ≤ s.now) then s.resched 0 (.replyWaitEnd w) else s
      | none => s
  else s

/-- CAPTURE_WATCH_FIRE: the newest samples, newest first: the correlator and its class have held for DET.HOLD samples and each time the
last 16 samples lay CAPTURE.MARGIN above P_frame (R141, R142, R198). -/
def effCaptureWatchFire (n : Nat) (samples : List Nat) (s : State) : State :=
  let r := s.rx n
  let margin := Nat.max 3 (s.rxGet n RXC.CAPTURE_MARGIN)
  let strong := fun i => decide (10 ^ margin * (r.power * 16) ^ 10 ≤ (energy ((samples.drop i).take 16) * r.powerN) ^ 10)
  if s.coreRuns && decide (n < 17) && r.blitz && s.rxState n == 3 && s.rxBit n RXC.CAPTURE_WATCH_EN &&
      (List.range (s.detHold n)).all (fun i => s.corrHit n (corrWin samples i) && strong i) then
    if s.rxBit n RXC.CAPTURE_MODE then
      (s.withRx n fun r => { r with mark := Nat.max 2 r.mark }).flag (pRXC n) RXC.FLAG_OVERLAP
    else
      let s := ((s.inc (pRXC n) RXC.COUNT_CAPTURED).flag (pRXC n) RXC.FLAG_CAPTURED).frameEnds n
      let s := s.withRx n fun r => { r with mark := 3, begun := false, detAt := s.now }
      let s := match s.engOf n with
        | some w => s.withEng w fun e => { e with hdr := [], booked := false }
        | none => s
      let t := clampNat 6 30 (s.rxGet n RXC.AGC_TARGET)
      let g := gainHold ((s.rxGain n : Int) + agcStep (energy (samples.take 16)) 16 t)
      let s := if s.rxBit n RXC.GAIN_FORCE then s else (s.setGain n g).put (pRXC n) RXC.AGC_FROZEN g
      s.setRxState n 2
  else s

/-! ## Assignment, release and disable (R151, R152) -/

/-- RXC16_ASSIGN: a write of 1–16 to RXC16.CFG.ASSIGN (R151). -/
def effRxc16Assign (v : Nat) (s : State) : State :=
  if s.coreUp && decide (1 ≤ v ∧ v ≤ 16) then
    if s.rx16Serve != 0 || (s.rx 16).takeover then s.recordErr (pRXC 16) 0x0B
    else
      let s := (s.put (pRXC 16) RXC.CFG_SERVE v).putB (pRXC 16) RXC.STATUS_SERVING true
      let s := s.withRx 16 fun r => { r with tookAt := 0 }
      (s.putB (pRXC (v - 1)) RXC.STATUS_REPLACED true).rxRest 16
  else s

/-- RXC16_RELEASE: a write of 17 releases RXC16 once it has no listen or capture in flight (R151). -/
def effRxc16Release (s : State) : State :=
  if s.coreUp && s.rx16Serve != 0 then (s.withRx 16 fun r => { r with release := true }).releaseRx16 else s

/-- A rise of a chain's CTRL.ENABLE: the tap follows its setting, and the grid of check-tone blocks begins (R129, R134). -/
def State.rxEnable (s : State) (n : Nat) : State := (s.withRx n fun r => { r with gridAt := s.now }).retap n

/-- A write of 0 to a chain's CTRL.ENABLE (R37, R152): the listen ends with mark DISCARDED, a capture ends STOPPED. -/
def State.disableRx (s : State) (n : Nat) : State :=
  let s := (s.rxEnds n stDISABLED 4).untimer (.capArm n)
  let s := if s.capState n = 1 ∨ s.capState n = 2 then (s.capUnseen n).capStop n else s
  let s := s.withRx n fun r => { r with tap := none }
  s.when (n == 16) State.releaseRx16

end Sys2Proof.Machine
end

