-- ==== Sys2Proof/Machine/Xmp.lean ====
section
/-! DEFINITION. The external memory port (R371–R386): discovery, reads of window words through the line buffer, writes
translated into page programs, erases. -/

namespace Sys2Proof.Machine

open Sys2Proof

/-- The port with its hidden state changed. -/
def State.withXmp (s : State) (f : Xmp → Xmp) : State := { s with xmp := f s.xmp }

/-- XMP.READY.READY: discovery has ended with device 0 present (R374, R375). -/
def State.xmpReady (s : State) : Bool :=
  s.coreUp && s.enabled pXMP && s.xmp.discovered && s.bit pXMP (XMP.DEV_PRESENT 0)

/-- The density of a device in bytes (R372, R374). -/
def State.density (s : State) (d : Nat) : Nat :=
  if s.bit pXMP (XMP.DEV_PRESENT d) then 2 ^ s.get pXMP (XMP.DEV_SIZE_LOG2 d) else 0

/-- The first window offset beyond the fitted flash; 0 until the port is ready (R372, R373, R375). -/
def State.flashEnd (s : State) : Nat :=
  if s.xmpReady then Nat.min (2 ^ 32) (s.density 0 + s.density 1) else 0

/-- The device of a window offset (R372). -/
def State.devOf (s : State) (off : Nat) : Nat := if off < s.density 0 then 0 else 1

/-- An access beyond the fitted flash (R373). -/
def State.xmpRange (s : State) : State := (s.flag pXMP XMP.FLAG_RANGE).recordErr pXMP 4

/-- A Conductor address in the window; a word beginning above 0x80_FFFF_FFFB is unmapped (R24, R26). -/
def inWindow (a : Nat) : Bool := decide (winBase ≤ a ∧ a ≤ 0x80FFFFFFFB)

/-- A Conductor address in SRAM (R25). -/
def inSram (a : Nat) : Bool := decide (a ≤ sramLast)

/-- Bytes that an operation touches lie in a line. -/
def XmpOp.touches (o : XmpOp) (line : Nat) : Bool := decide (o.off < 64 * line + 64 ∧ 64 * line < o.off + o.size)

/-- Operations accepted and not yet ended. -/
def Xmp.ops (x : Xmp) : List XmpOp := x.running ++ x.queue ++ x.backlog

/-- A line is touched by an operation accepted and not yet ended (R381, R382). -/
def Xmp.touched (x : Xmp) (line : Nat) : Bool := x.ops.any fun o => o.touches line

/-- STATUS and OP follow what the port does (R386): a running operation shows as suspended while a line of its device is
fetched under R382. -/
def State.xmpShow (s : State) : State :=
  let x := s.xmp
  let o := x.running.head?
  let erasing := x.running.any fun o => o.erase
  let prog := x.running.any fun o => !o.erase
  let sus := s.bit pXMP XMP.CFG_SUSPEND_EN && x.running.any fun o =>
    x.suspend.testBit o.dev && x.want.any fun l => s.devOf (64 * l.1) == o.dev && !o.touches l.1
  let disc := s.bit pXMP XMP.STATUS_DISCOVERY
  let st := if disc then 4 else if sus then 3 else match o with
    | some o => if o.erase then 2 else 1
    | none => 0
  let s := ((s.putB pXMP XMP.STATUS_ERASING erasing).putB pXMP XMP.STATUS_PROGRAMMING prog).putB pXMP XMP.STATUS_SUSPENDED sus
  let s := (s.put pXMP XMP.OP_STATE st).put pXMP XMP.OP_QUEUED x.queue.length
  match o with
  | some o => (s.put pXMP XMP.OP_DEV o.dev).put pXMP XMP.OP_OFFSET o.off
  | none => s

/-! ## Reads (R377, R378) -/

/-- What a line gives a consumer now: its bytes, none in place of the bytes when its fetch has failed, or nothing while
it is neither delivered nor buffered. -/
def State.lineNow (s : State) (line : Nat) : Option (Option (List Nat)) :=
  match s.xmp.once.find? fun o => o.line == line && o.at_ == s.now with
  | some o => some o.data
  | none => if s.xmp.touched line then none else (AMap.find line s.xmp.lines).map some

/-- The lines that hold the five bytes of the word at an offset. -/
def wordLines (off : Nat) : List Nat :=
  if off / 64 = (off + 4) / 64 then [off / 64] else [off / 64, (off + 4) / 64]

/-- A line used: it becomes the most recently used (R377). -/
def Xmp.touch (x : Xmp) (line : Nat) : Xmp :=
  match AMap.find line x.lines with
  | some d => { x with lines := (line, d) :: x.lines.filter fun e => e.1 ≠ line }
  | none => x

/-- Lines asked of the flash. -/
def State.xmpWant (s : State) (lines : List Nat) (prefetch : Bool) : State :=
  let add := fun (w : List (Nat × Bool)) l =>
    if w.any (fun e => e.1 == l) then (if prefetch then w else w.map fun e => if e.1 = l then (l, false) else e)
    else w ++ [(l, prefetch)]
  (s.withXmp fun x => { x with want := lines.foldl add x.want }).xmpShow

/-- A consumer waits for lines; it runs again once all of them have been delivered. -/
def State.xmpWait (s : State) (lines : List Nat) (again : Instr) : State :=
  (s.withXmp fun x => { x with waiters := x.waiters ++ [(lines, again)] }).xmpWant lines false

/-- A poisoned window word: the spec gives no bits for it (R373, R378). -/
def State.poisonedWord (s : State) : Nat × Bool × State := ((Config.windowPoison s.free).toNat, true, s.nextFree)

/-- The word at a window offset: its value, its mark and the state after, or the lines still missing (R373, R377,
R378). -/
def State.winWord (s : State) (off : Nat) : List Nat ⊕ (Nat × Bool × State) :=
  if s.flashEnd ≤ off + 4 then .inr s.xmpRange.poisonedWord
  else
    let ls := wordLines off
    let missing := ls.filter fun l => (s.lineNow l).isNone
    if missing.isEmpty = false then .inl missing
    else
      let ds := ls.map fun l => (s.lineNow l).join
      if ds.any Option.isNone then .inr s.poisonedWord
      else
        let bytes := (ds.map fun d => d.getD []).flatten
        let v := beNat ((bytes.drop (off % 64)).take 5)
        .inr (v, false, s.withXmp fun x => ls.foldl Xmp.touch x)

/-- How far a consumer's words have come: all are there, a fetch is awaited, or an address is not mapped. -/
inductive Got where
  | all
  | wait
  | unmapped
  deriving DecidableEq, Repr

/-- Read the words that a context still misses of the `n` at an address, SRAM or window, appending them to those it
holds; `again` runs when missing lines have come. -/
def State.gather (s : State) (c addr : Nat) (again : Instr) : Nat → Got × State
  | 0 => (.all, s)
  | k + 1 =>
    match s.gather c addr again k with
    | (.all, s) =>
      if (s.ctx c).words.length = k then
        let a := if winBase ≤ addr then addr + 5 * k else addr + k
        let keep := fun (v : Nat) (p : Bool) (s : State) =>
          s.withCtx c fun x => { x with words := x.words ++ [v], psn := if p && x.psn.isNone then some k else x.psn }
        if inSram a then
          let r := s.memRead a
          (.all, keep r.1 r.2.1 r.2.2)
        else if inWindow a then
          match s.winWord (a - winBase) with
          | .inl ls => (.wait, s.xmpWait ls again)
          | .inr r => (.all, keep r.1 r.2.1 r.2.2)
        else (.unmapped, s)
      else (.all, s)
    | r => r

/-- The line after that of a move fetch is fetched too while its device is idle (R377). -/
def State.xmpPrefetch (s : State) (addr : Nat) : State :=
  let l := (addr - winBase) / 64 + 1
  if inWindow addr && decide (64 * l + 63 < s.flashEnd) && (s.lineNow l).isNone && !s.xmp.touched l &&
      !s.xmp.running.any (fun o => o.dev == s.devOf (64 * l)) && s.xmp.want.isEmpty then s.xmpWant [l] true
  else s

/-- A line is delivered, or its fetch has failed, to the consumers that wait for it. -/
def State.deliverLine (s : State) (line : Nat) (data : Option (List Nat)) : State :=
  let s := s.withXmp fun x => { x with
    want := x.want.filter fun e => e.1 ≠ line
    once := { line := line, data := data, at_ := s.now } :: x.once.filter fun o => o.line ≠ line && o.at_ = s.now
    tries := 0 }
  let ws := s.xmp.waiters.map fun w => (w.1.filter fun l => l ≠ line, w.2)
  let s := s.withXmp fun x => { x with waiters := ws.filter fun w => !w.1.isEmpty }
  s.forEach (ws.filter fun w => w.1.isEmpty) fun s w => s.sched 0 w.2

/-- A fetch has failed twice (R378); a failed prefetch is only counted. -/
def State.lineFailed (s : State) (line : Nat) : State :=
  let pre := s.xmp.want.any fun e => e.1 == line && e.2
  let s := s.inc pXMP XMP.COUNT_READ_FAIL
  let s := s.when (!pre) fun s => (s.flag pXMP XMP.FLAG_READ_FAIL).recordErr pXMP 2
  s.deliverLine line none

/-- LINE_FETCH: a line that the port asked for arrives, or its fetch and the retry have failed (R377, R378). -/
def effLineFetch (line : Nat) (data : List Nat) (ok : Bool) (s : State) : State :=
  if s.coreRuns && s.xmp.want.any fun e => e.1 == line then
    if ok && decide (data.length = 64) then
      let d := data.map (· % 256)
      let s := s.deliverLine line (some d)
      (if s.xmp.touched line then s else s.withXmp fun x => { x with
        lines := ((line, d) :: x.lines.filter fun e => e.1 ≠ line).take 8 }).xmpShow
    else (s.lineFailed line).xmpShow
  else s

/-! ## Writes and erases (R380–R383) -/

/-- Operations move from the backlog into the queue of eight, and from the queue to their device when it is idle
(R381); what an accepted operation touches leaves the buffer (R377). -/
def State.xmpStart (s : State) : State :=
  (s.withXmp fun x =>
    let n := 8 - x.queue.length
    let q := x.queue ++ x.backlog.take n
    let r := q.foldl (fun (r : List XmpOp × List XmpOp) o =>
      if r.1.any (fun p => p.dev == o.dev) || r.2.any (fun p => p.dev == o.dev) then (r.1, r.2 ++ [o]) else (r.1 ++ [o], r.2))
      (x.running, [])
    { x with running := r.1, queue := r.2, backlog := x.backlog.drop n,
             lines := x.lines.filter fun l => !(x.ops.any fun o => o.touches l.1) }).xmpShow

/-- One byte joins the pieces of a write, one piece for each flash page the bytes touch (R380). -/
def State.addByte (s : State) (owner : Nat) (l : List XmpOp) (e : Nat × Nat) : List XmpOp :=
  let d := s.devOf e.1
  let base := if d = 0 then 0 else s.density 0
  let page := fun a => (a - base) / 2 ^ s.get pXMP (XMP.DEV_PAGE_LOG2 d)
  match l.getLast? with
  | some o =>
    if o.off + o.size = e.1 ∧ o.dev = d ∧ page o.off = page e.1 then
      l.dropLast ++ [{ o with bytes := o.bytes ++ [e.2], size := o.size + 1 }]
    else l ++ [{ erase := false, dev := d, off := e.1, bytes := [e.2], size := 1, owner := owner }]
  | none => [{ erase := false, dev := d, off := e.1, bytes := [e.2], size := 1, owner := owner }]

/-- The bytes of words written at a window offset, five per word, most significant first (R26). -/
def wordBytes (off : Nat) (ws : List Nat) : List (Nat × Nat) :=
  let b := (ws.map (beBytes 5)).flatten
  (List.range b.length).map fun i => (off + i, nth b i)

/-- The page programs of a write of unpoisoned bytes. -/
def State.pieces (s : State) (owner : Nat) (l : List (Nat × Nat)) : List XmpOp := l.foldl (s.addByte owner) []

/-- A write by a context: words with their marks; poisoned words and words beyond the fitted flash are discarded; the
rest is programmed page by page, waiting for room in the queue (R373, R380, R381). -/
def State.xmpStore (s : State) (c off : Nat) (ws : List (Nat × Bool)) : State :=
  let at_ := (List.range ws.length).map fun i => (off + 5 * i, ws.getD i (0, false))
  let s := s.forEach at_ fun s e =>
    if e.2.2 then (s.flag pXMP XMP.FLAG_POISON_WR).recordErr pXMP 5
    else if s.flashEnd ≤ e.1 + 4 then s.xmpRange else s
  let good := at_.filter fun e => !e.2.2 && decide (e.1 + 4 < s.flashEnd)
  let l := s.pieces c ((good.map fun e => wordBytes e.1 [e.2.1]).flatten)
  (s.withXmp fun x => { x with backlog := x.backlog ++ l }).xmpStart

/-- A write that does not wait, of the host or the Scoresheet: discarded when the queue has no room for its pages
(R381).  True when it was taken. -/
def State.xmpPost (s : State) (owner off : Nat) (bytes : List Nat) : Bool × State :=
  if bytes.isEmpty || decide (s.flashEnd < off + bytes.length) then (false, s.xmpRange)
  else
    let l := s.pieces owner ((List.range bytes.length).map fun i => (off + i, nth bytes i))
    if 8 < s.xmp.queue.length + s.xmp.backlog.length + l.length then
      (false, (s.flag pXMP XMP.FLAG_QFULL).recordErr pXMP 6)
    else (true, (s.withXmp fun x => { x with queue := x.queue ++ l }).xmpStart)

/-- A context's STORE or COPY waits for its page programs. -/
def Ctx.stores (x : Ctx) : Bool :=
  x.committed && match x.move with
    | some (.store ..) => true
    | some (.copy ..) => true
    | _ => false

/-- The operations of an owner have all ended: a context's STORE or COPY ends (R381). -/
def State.xmpOwnerDone (s : State) (owner : Nat) : State :=
  if owner < 12 ∧ (s.ctx owner).stores = true ∧ s.xmp.ops.any (fun o => o.owner == owner) = false then s.endMove owner stDONE else s

/-- The lines that an ended operation touched leave the buffer (R377). -/
def State.xmpForget (s : State) (o : XmpOp) : State :=
  s.withXmp fun x => { x with lines := x.lines.filter fun l => !o.touches l.1 }

/-- A page program ends, compared or failed (R380). -/
def State.programDone (s : State) (o : XmpOp) (ok : Bool) : State :=
  let s := (s.withXmp fun x => { x with running := x.running.filter fun p => p.dev ≠ o.dev }).xmpForget o
  let s := s.when (!ok) fun s => ((s.inc pXMP XMP.COUNT_PROG_FAIL).flag pXMP XMP.FLAG_PROG_FAIL).recordErr pXMP 3
  let s := s.xmpStart
  let s := s.when (o.owner == 254) fun s => s.sched 0 (.recordProgrammed ok)
  s.xmpOwnerDone o.owner

/-- PAGE_PROGRAM: the program running on a device ends (R380). -/
def effPageProgram (dev : Nat) (ok : Bool) (s : State) : State :=
  if s.coreUp then
    match s.xmp.running.find? fun o => o.dev == dev && !o.erase with
    | some o => s.programDone o ok
    | none => s
  else s

/-- An erase ends, done or failed (R383). -/
def State.eraseDone (s : State) (o : XmpOp) (ok : Bool) : State :=
  let s := (s.withXmp fun x => { x with running := x.running.filter fun p => p.dev ≠ o.dev }).xmpForget o
  let s := if ok then s.flag pXMP XMP.FLAG_ERASE_DONE
    else ((s.inc pXMP XMP.COUNT_ERASE_FAIL).flag pXMP XMP.FLAG_ERASE_FAIL).recordErr pXMP 8
  let s := s.xmpStart
  s.when (o.owner == 254) fun s => s.sched 0 (.sectorErased ok)

/-- ERASE_COMPLETE: the erase running on a device ends (R383). -/
def effEraseComplete (dev : Nat) (ok : Bool) (s : State) : State :=
  if s.coreUp then
    match s.xmp.running.find? fun o => o.dev == dev && o.erase with
    | some o => s.eraseDone o ok
    | none => s
  else s

/-- The erase type byte of a device: [7] listed, [4:0] log2 of the size (R386). -/
def State.eraseType (s : State) (d t : Nat) : Nat := s.get pXMP (XMP.DEV_ERASE_TYPES d) / 256 ^ t % 256

/-- Why an erase of type `t` at an offset is refused, or its operation (R383). -/
def State.eraseOp (s : State) (t off owner : Nat) : Option XmpOp :=
  let d := s.devOf off
  let e := s.eraseType d t
  let size := 2 ^ (e % 32)
  let devEnd := if d = 0 then s.density 0 else s.flashEnd
  if e < 128 ∨ off % size ≠ 0 ∨ devEnd < off + size ∨ s.flashEnd < off + size then none
  else some { erase := true, dev := d, off := off, bytes := [], size := size, owner := owner }

/-- An erase accepted into the queue; false when it is refused or the queue is full. -/
def State.xmpEraseQ (s : State) (t off owner : Nat) : Bool × State :=
  let s := s.when (decide (s.flashEnd ≤ off)) State.xmpRange
  match s.eraseOp t off owner with
  | none => (false, (s.flag pXMP XMP.FLAG_ERASE_REFUSED).recordErr pXMP 7)
  | some o =>
    if 8 ≤ s.xmp.queue.length then (false, (s.flag pXMP XMP.FLAG_QFULL).recordErr pXMP 6)
    else (true, (s.withXmp fun x => { x with queue := x.queue ++ [o] }).xmpStart)

/-- XMP_ERASE: a write of 1 to ERASE.GO (R383). -/
def effXmpErase (s : State) : State :=
  if s.coreRuns && s.enabled pXMP then (s.xmpEraseQ (s.get pXMP XMP.ERASE_TYPE) (s.get pXMP XMP.ERASE_OFFSET) 255).2 else s

/-- Queued writes and erases discarded with code 0x06 (R384, R390). -/
def State.xmpDiscard (s : State) : State :=
  let l := s.xmp.queue ++ s.xmp.backlog
  let s := s.withXmp fun x => { x with queue := [], backlog := [] }
  let s := s.forEach l fun s _ => (s.flag pXMP XMP.FLAG_QFULL).recordErr pXMP 6
  let s := s.forEach (List.range 12) fun s c => if l.any (fun o => o.owner == c) then s.xmpOwnerDone c else s
  let s := s.forEach (l.filter fun o => o.owner == 254) fun s o => s.sched 0 (if o.erase then .sectorErased false else .recordProgrammed false)
  s.xmpShow

/-- A write of 0 to CTRL.ENABLE (R377, R384): running operations complete, queued ones are discarded, waiting reads are
poisoned, the buffer is invalid. -/
def State.disableXmp (s : State) : State :=
  let s := s.xmpDiscard
  let s := s.forEach (s.xmp.want.map Prod.fst) fun s l => s.deliverLine l none
  let s := s.withXmp fun x => { x with lines := [], discovered := false }
  (s.putB pXMP XMP.STATUS_DISCOVERY false).xmpShow

/-! ## Discovery (R374, R376) -/

/-- XMP_DISCOVERY: the enable resets the devices by 10 µs of XRST_N low and begins discovery with the values of CFG (R374). -/
def effXmpDiscovery (s : State) : State :=
  if s.coreRuns && s.enabled pXMP && !s.xmp.discovered && !s.bit pXMP XMP.STATUS_DISCOVERY then
    let m := Nat.min 2 (s.get pXMP XMP.CFG_MODE_MAX)
    let f := clampNat 10 200 (s.get pXMP XMP.CFG_FREQ)
    let s := (s.withXmp fun x => { x with lines := [], xrst := false, modeMax := m, freq := f }).retimer (usec 10) .xrstHigh
    (s.putB pXMP XMP.STATUS_DISCOVERY true).xmpShow
  else s

/-- The ceiling of a mode in MHz (R376). -/
def modeCeiling (m : Nat) : Nat := if m = 0 then 100 else if m = 1 then 133 else 200

/-- The highest mode at or below `m` that is described and entered, and how many were abandoned on the way (R374,
R376). -/
def pickMode (modes : List FlashMode) : Nat → Option FlashMode × Nat
  | 0 => match modes.find? fun e => e.mode == 0 with
    | some e => if e.same then (some e, 0) else (none, 1)
    | none => (none, 0)
  | m + 1 => match modes.find? fun e => e.mode == m + 1 with
    | some e => if e.same then (some e, 0) else ((pickMode modes m).1, (pickMode modes m).2 + 1)
    | none => pickMode modes m

/-- A device is present (R374). -/
def devPresent (d : FlashDev) : Bool :=
  d.sig && d.addr4 && decide (16 ≤ d.sizeLog2 ∧ d.sizeLog2 ≤ 32) && (d.erases.take 4).any fun e => e != 0

/-- The CCLK reference is the RC oscillator (R376, R399). -/
def State.onRc (s : State) : Bool := s.get pCLK CLK.STATUS_SRC == 0

/-- What discovery found of one device goes to its registers (R374, R376). -/
def State.takeDev (s : State) (d : Nat) (f : FlashDev) : State :=
  let r := pickMode f.modes s.xmp.modeMax
  let s := s.setReg pXMP (0x11 + d) 0
  let s := s.setReg pXMP (0x13 + d) 0
  let s := s.when (devPresent f) fun s => s.forEach (List.range r.2) fun s _ => (s.flag pXMP XMP.FLAG_FALLBACK).recordErr pXMP 9
  match (devPresent f), r.1 with
  | true, some m =>
    let clk := if s.onRc then 16 else Nat.min s.xmp.freq (Nat.min (modeCeiling m.mode) m.fastest)
    let s := (s.putB pXMP (XMP.DEV_PRESENT d) true).put pXMP (XMP.DEV_MODE d) m.mode
    let s := (s.put pXMP (XMP.DEV_XCLK d) clk).put pXMP (XMP.DEV_DUMMY d) m.dummy
    let s := (s.put pXMP (XMP.DEV_PAGE_LOG2 d) f.pageLog2).put pXMP (XMP.DEV_SIZE_LOG2 d) f.sizeLog2
    let types := (List.range 4).foldl (fun a t => a + (if nth f.erases t = 0 then 0 else (128 + nth f.erases t % 32) * 256 ^ t)) 0
    let s := s.put pXMP (XMP.DEV_ERASE_TYPES d) types
    s.withXmp fun x => { x with suspend := x.suspend ||| (if f.suspend then 2 ^ d else 0) }
  | _, _ => if d = 0 then s.recordErr pXMP 1 else s

/-- DISCOVERY_END: discovery of both chip selects ends (R374). -/
def effDiscoveryEnd (devs : List FlashDev) (s : State) : State :=
  if s.coreRuns && s.enabled pXMP && s.bit pXMP XMP.STATUS_DISCOVERY then
    let absent : FlashDev := { sig := false, addr4 := false, sizeLog2 := 0, pageLog2 := 0, erases := [], suspend := false, modes := [] }
    let s := s.withXmp fun x => { x with suspend := 0 }
    let s := (s.takeDev 0 (devs.getD 0 absent)).takeDev 1 (devs.getD 1 absent)
    let s := s.withXmp fun x => { x with discovered := true }
    ((s.putB pXMP XMP.STATUS_DISCOVERY false).flag pXMP XMP.FLAG_DISCOVERED).xmpShow
  else s

/-! ## The host window and the controller's fault -/

/-- The window offset of WINk. -/
def State.xmpWinOff (s : State) (k : Nat) : Nat := s.get pXMP XMP.ACC_BASE_OFFSET + 5 * k

/-- XMP_WINDOW_READ: a host read of WINk, delivered when its lines are there (R377). -/
def effXmpWindowRead (k : Nat) (s : State) : State :=
  if s.coreRuns && decide (k < 8) then
    match s.winWord (s.xmpWinOff k) with
    | .inl ls => s.xmpWait ls (.xmpWindowRead k)
    | .inr r => ({ r.2.2 with hpt := { r.2.2.hpt with out := beBytes 5 r.1 } } : State).putBit pXMP XMP.WIN_PSN_WIN k r.2.1
  else s

/-- A host write of WINk translated into page programs (R380, R381). -/
def State.xmpWinWrite (s : State) (k v : Nat) (poison : Bool) : State :=
  if poison then (s.flag pXMP XMP.FLAG_POISON_WR).recordErr pXMP 5
  else (s.xmpPost 255 (s.xmpWinOff k) (beBytes 5 v)).2

/-- XMP_WINDOW_WRITE: a host write of WINk. -/
def effXmpWindowWrite (k v : Nat) (s : State) : State :=
  if s.coreRuns && decide (k < 8) then s.xmpWinWrite k v false else s

/-- XMP_MISMATCH: during a read the fetch fails once more, its retry failing the line; during a program or erase the
operation stops and counts as failed (R378, R385). -/
def effXmpMismatch (s : State) : State :=
  if s.coreRuns && s.enabled pXMP then
    let s := s.setFault pXMP 1 0x0A { cls := 2, action := 1, interrupt := 1 }
    match s.xmp.want, s.xmp.running with
    | l :: _, [] => if s.xmp.tries = 0 then s.withXmp fun x => { x with tries := 1 } else (s.lineFailed l.1).xmpShow
    | _, o :: _ => if o.erase then s.eraseDone o false else s.programDone o false
    | [], [] => s
  else s

end Sys2Proof.Machine
end

