-- ==== Sys2Proof/Machine/Prt.lean ====
section
/-! DEFINITION. Protocol engines (R154–R170, R181): descriptors, reader frames and when they may begin, replies and receive records. -/

namespace Sys2Proof.Machine

open Sys2Proof

/-- The PRT registers that a move captures at its start. -/
def State.prtCfg (s : State) : List Word := (List.range 8).map fun k => s.reg pPRT (0x10 + k)

/-- Engine `w` is out of service (R181). -/
def State.engOut (s : State) (w : Nat) : Bool := s.bitOf pPRT PRT.STATUS_OOS w

/-! ## Waits and windows (R164–R166, R169, R170) -/

/-- A SEL byte of a cascade level. -/
def isSel (b : Nat) : Bool := b == 0x93 || b == 0x95 || b == 0x97

/-- REQA, WUPA, ANTICOLL or SELECT: the frames whose reply time is exact (R164). -/
def TxFrame.exact (f : TxFrame) : Bool :=
  (f.kind == 1 && (f.bytes.headD 0 % 128 == 0x26 || f.bytes.headD 0 % 128 == 0x52)) ||
  (f.kind == 2 && isSel (f.bytes.headD 0)) ||
  (f.kind == 0 && isSel (f.bytes.headD 0) && nth f.bytes 1 == 0x70 && f.bytes.length == 7)

/-- The frame waiting time for an FWI, 15 acting as 4 (R169). -/
def fwt (fwi : Nat) : Nat := 4096 * 2 ^ (if fwi = 15 then 4 else fwi)

/-- The test of R170 on a PCB. -/
def isWtx (b : Nat) : Bool := b &&& 0xF7 == 0xF2

/-- The INF byte of an S(WTX) block: after the PCB, and the CID where the PCB announces one. -/
def wtxInf (l : List Nat) : Nat := nth l (if (l.headD 0).testBit 3 then 2 else 1)

/-- The nominal reply time of a Type A frame (R164). -/
def TxFrame.fdt (f : TxFrame) : Nat := if f.lastBit then 1236 else 1172

/-- The window of RESP_TIME of a frame (R164–R166). -/
def Eng.window (e : Eng) (f : TxFrame) : Nat × Nat :=
  if f.kind ≤ 2 then
    (if f.exact then (f.fdt - e.get PRT.A_CFG_FDT_TOL, f.fdt + e.get PRT.A_CFG_FDT_TOL)
      else (e.get PRT.A_TIME_MIN_FDT, 2 ^ 24))
  else if f.kind = 3 then (e.get PRT.B_TIME_TR0_MIN, 2 ^ 24)
  else (e.get PRT.V_TIME_T1 - 32, e.get PRT.V_TIME_T1 + 32)

/-- The default reply wait of a frame under the dialogue state P4w: `wtx` for the answer to an S(WTX) request, whose wait is
FWT × m (R164–R166, R169, R170). -/
def Eng.defaultWait (e : Eng) (f : TxFrame) (p4 : Nat) : Nat :=
  let b := f.bytes.headD 0
  let fw := fwt (bits p4 7 4)
  if e.wtx && decide (f.kind = 0 ∨ f.kind = 3) && isWtx b then Nat.min (fw * (wtxInf f.bytes % 64)) 67108864 + 49152
  else if f.p4 then fw + 49152
  else if f.kind ≤ 2 then (if f.exact then (e.window f).2 else 13560)
  else if f.kind = 3 then
    (if (b = 5 ∧ f.bytes.length = 3) ∨ (f.bytes.length = 1 ∧ b % 16 = 5) then e.get PRT.B_TIME_ATQB_WAIT
      else if b = 0x1D ∨ b = 0x50 then fwt e.fwi + 49152 else 13560)
  else e.get PRT.V_TIME_T1 + 96

/-! ## Transmit descriptors (R158) -/

def dKind (ws : List Nat) : Nat := bits (nth ws 0) 39 36
def dRate (ws : List Nat) : Nat := bits (nth ws 0) 35 34
def dCrc (ws : List Nat) : Bool := bitAt (nth ws 0) 33
def dP4 (ws : List Nat) : Bool := bitAt (nth ws 0) 32
def dAddr (ws : List Nat) : Bool := bitAt (nth ws 0) 31
def dExpect (ws : List Nat) : Bool := bitAt (nth ws 0) 30
def dLength (ws : List Nat) : Nat := bits (nth ws 0) 27 16
def dLastBits (ws : List Nat) : Nat := bits (nth ws 0) 15 13
def dSplit (ws : List Nat) : Bool := bitAt (nth ws 1) 39
def dRrate (ws : List Nat) : Nat := bits (nth ws 1) 37 36
def dLimit (ws : List Nat) : Nat := orDefault 4095 (bits (nth ws 1) 35 24)
def dWait (ws : List Nat) : Nat := bits (nth ws 1) 23 0

/-- The first data word of a descriptor. -/
def dFirst (ws : List Nat) : Nat := if dAddr ws then 4 else 2

/-- The words of a descriptor. -/
def dWords (ws : List Nat) : Nat := dFirst ws + ceilDiv (dLength ws) 5

/-- The bytes of words, most significant first (R12). -/
def bytesOf (ws : List Nat) : List Nat := (ws.map (beBytes 5)).flatten

/-- The data bytes of a descriptor, the UID inserted after the second when ADDR is 1 (R158). -/
def dData (ws : List Nat) : List Nat :=
  let d := (bytesOf (ws.drop (dFirst ws))).take (dLength ws)
  if dAddr ws then d.take 2 ++ uidOf (nth ws 2) (nth ws 3) 8 ++ d.drop 2 else d

/-- A two-subcarrier low-rate reply is selected (R155, R158). -/
def Eng.dualLow (e : Eng) : Bool := e.get PRT.V_CFG_SUBC_DUAL != 0 && e.get PRT.V_CFG_RATE_HIGH == 0

/-- The descriptors that an engine refuses (R158). -/
def Eng.dBad (e : Eng) (ws : List Nat) : Bool :=
  let k := dKind ws
  decide (6 ≤ k) || (decide (k = 1 ∨ k = 2) && dRate ws != 0) || (dP4 ws && k != 0 && k != 3) ||
    (dAddr ws && k != 4) || (dSplit ws && k != 0 && k != 3) || (decide (4 ≤ k) && e.dualLow)

/-- The I-block prologue for the dialogue state P4w (R168). -/
def prologue (p4 : Nat) : List Nat :=
  let cid := p4.testBit 1
  let nad := p4.testBit 2
  [2 + p4 % 2 + 8 * b2n cid + 4 * b2n nad] ++ (if cid then [bits p4 11 8] else []) ++ (if nad then [bits p4 23 16] else [])

/-- The reader frame of a descriptor, before it begins: `wait` is the descriptor's, 0 for the default (R158). -/
def frameOf (ws : List Nat) : TxFrame :=
  { kind := dKind ws, rate := dRate ws, rrate := if dSplit ws then dRrate ws else dRate ws, crc := dCrc ws, p4 := dP4 ws,
    expect := dExpect ws, bytes := dData ws, lastBits := dLastBits ws, wait := dWait ws, lo := 0, hi := 0 }

/-- A frame that the Board builds itself, before it begins. -/
def Eng.ownFrame (_e : Eng) (kind rate : Nat) (crc expect : Bool) (bytes : List Nat) (lastBits : Nat := 0) : TxFrame :=
  { kind := kind, rate := rate, rrate := rate, crc := crc, p4 := false, expect := expect, bytes := bytes, lastBits := lastBits,
    wait := 0, lo := 0, hi := 0 }

/-- A frame as it begins, with the dialogue state P4w as it stands then: the prologue before its data, its reply wait and the window of
its reply time (R164–R166, R168–R170, R182). -/
def Eng.begin (e : Eng) (f : TxFrame) (p4 : Nat) : TxFrame :=
  let g := { f with bytes := if f.p4 then prologue p4 ++ f.bytes else f.bytes }
  { g with wait := orDefault (e.defaultWait f p4) f.wait, lo := (e.window g).1, hi := (e.window g).2 }

/-! ## A move in an engine -/

/-- ENGw_STAT.PROTO of a kind of frame. -/
def protoOf (kind : Nat) : Nat := if kind ≤ 2 then 1 else if kind = 3 then 2 else 3

/-- ENG_BUSY and BUSY of an engine. -/
def State.engBusy (s : State) (w : Nat) (b : Bool) : State :=
  (s.putBit pPRT PRT.STATUS_ENG_BUSY w b).putB pPRT (PRT.ENG_STAT_BUSY w) b

/-- LANE_BUSY of a Blitz lane. -/
def State.laneBusy (s : State) (w : Nat) (b : Bool) : State := s.putBit pBLZ BLZ.STATUS_LANE_BUSY w b

/-- A move starts in engine `w` for a user: the PRT registers are captured (R157). -/
def State.engStart (s : State) (w u : Nat) (p : Prog) : State :=
  let cfg := s.prtCfg
  let s := s.withEng w fun e => { e with
    user := some u, cfg := cfg, prog := p, await := 0, waitAt := none, dest := none, limit := 4095, stop := none,
    port := s.txPort (s.serving w), booked := false }
  s.engBusy w true

/-- A move that takes an engine takes its receive chain with it. -/
def State.engStartRx (s : State) (w u : Nat) (p : Prog) (n : Nat) : State :=
  ((s.engStart w u p).withEng w fun e => { e with chain := n }).rxTake n u

/-- A reader frame handed on or in flight is cut off with its carrier. -/
def State.frameCut (s : State) (w : Nat) : State :=
  let e := s.eng w
  let s := ((s.untimer (.frameStart w)).untimer (.frameOut w)).withEng w fun e => { e with air := none, flying := false, hear := 0 }
  s.when e.flying fun s => s.modEnd e.sender

/-- The engine is free, the receive chain is released and the move ends. -/
def State.engEnd (s : State) (w st : Nat) : State :=
  let u := (s.eng w).user
  let s := (s.frameCut w).unsched (.replyWaitEnd w)
  let s := s.withEng w fun e => { e with user := none, prog := .idle, await := 0, waitAt := none, dest := none, stop := none }
  let s := (s.engBusy w false).laneBusy w false
  match u with
  | some u => (s.rxFree u).endMove u st
  | none => s

/-- A bad tap (R129). -/
def State.badTap (s : State) (n p : Nat) : State :=
  (s.when (decide (p < 192)) fun s => s.recordErr (pFIL (p / 8)) 6).recordErr (pRXC n) 6

/-- The receive chain for a role is found and set on its tap; on failure the status with which the move ends (R128,
R129). -/
def State.openRx (s : State) (w role : Nat) (fixed : Option Nat) : Nat × Option Nat × State :=
  match s.roleChain w role with
  | .inr st => (0, some st, s.roleFail w role st)
  | .inl n =>
    match s.tapPort n w fixed with
    | none => (n, some stBAD_PORT, s)
    | some p =>
      if s.tapOk n p then (n, none, (s.withRx n fun r => { r with named := fixed.isSome }).selectTap n p)
      else (n, some stBAD_PORT, s.badTap n p)

/-- A reply is awaited for `cc` carrier cycles from now. -/
def State.waitFor (s : State) (w cc : Nat) : State :=
  (s.withEng w fun e => { e with waitAt := some (s.now + 16 * cc) }).resched (16 * cc) (.replyWaitEnd w)

/-- The engine awaits a legacy reply on its chain. -/
def State.awaitLegacy (s : State) (w : Nat) : State :=
  let e := s.eng w
  ((s.withEng w fun e => { e with await := 1 }).rxListen e.chain (e.user.getD 0) false 15).waitFor w e.frame.wait

/-! ## Reader frames (R157, R164–R166) -/

/-- REQA or WUPA. -/
def TxFrame.isReq (f : TxFrame) : Bool := f.kind == 1 && f.exact

/-- The gap before a frame after a tag's frame, in carrier cycles (R164–R166). -/
def Eng.gap (e : Eng) (f : TxFrame) : Nat :=
  if f.kind ≤ 2 then e.get PRT.A_TIME_PCD_GAP
  else if f.kind = 3 then e.get PRT.B_CFG_PCD_GAP * etu f.rate
  else e.get PRT.V_TIME_T2

/-- The earliest carrier-cycle boundary, from `now` on, at which a frame may begin: the gap after a tag's frame, the request guard time
between REQA and WUPA frames, and the time of an EOF after an empty slot, T3 and at least T1 + 96 (R157, R164–R166). -/
def Eng.startAt (e : Eng) (now : Nat) (f : TxFrame) : Nat :=
  let after := fun (t : Option Nat) (cc : Nat) => match t with
    | some t => t + 16 * cc
    | none => 0
  let g := after e.tagAt (e.gap f)
  let r := if f.isReq then after e.reqAt (e.get PRT.A_CFG_REQ_GUARD) else 0
  let v := if f.kind = 5 then after e.emptyAt (Nat.max (e.get PRT.V_CFG_T3) (e.get PRT.V_TIME_T1 + 96)) else 0
  ceilDiv (Nat.max (Nat.max now g) (Nat.max r v)) 16 * 16

/-- A reader frame is handed on: it begins at the earliest boundary that the timing rules allow; `hear` says what is awaited after it. -/
def State.handOn (s : State) (w : Nat) (f : TxFrame) (hear : Nat) : State :=
  let t := (s.eng w).startAt s.now f
  (s.withEng w fun e => { e with air := some (t, f), hear := hear, await := 0, waitAt := none }).retimer (t - s.now) (.frameStart w)

/-- A frame of a legacy exchange. -/
def State.sendFrame (s : State) (w : Nat) (f : TxFrame) : State := s.handOn w f (b2n f.expect)

/-- The tone set of a frame: 0 all tones, 1 light, 2 dark square (R197). -/
def State.toneSet (s : State) (p : Nat) (coloured : Bool) : Nat :=
  if coloured then 1 + s.get (pFIL (p / 8)) (FIL.PORT_COLOUR (p % 8)) else 0

/-- A reader frame begins: the dialogue state, the depth and the port's colour are taken as they stand, the chain modulates (R107, R157,
R168, R182, R197). -/
def State.frameStart (s : State) (w : Nat) : State :=
  let e := s.eng w
  match e.air with
  | none => s
  | some (_, raw) =>
    let f := e.begin raw (s.reg pPRT (0x18 + w)).toNat
    let n := s.serving w
    let s := s.withEng w fun e => { e with
      frame := f, wire := f.wire, air := some (s.now, raw), flying := true, sender := n, set := s.toneSet e.port (e.set != 0)
      wtx := e.wtx && !isWtx (raw.bytes.headD 0), reqAt := if f.isReq then some s.now else e.reqAt }
    let s := s.put pPRT (PRT.ENG_STAT_PROTO w) (protoOf f.kind)
    (s.modBegin n (s.frameDepth n e f) (e.hear != 2)).timer (16 * e.span f) (.frameOut w)

/-- The end of a reader frame on the air. -/
def State.frameEnd (s : State) (w : Nat) : State :=
  let n := (s.eng w).sender
  (s.withEng w fun e => { e with air := none, flying := false, airEnd := some s.now, emptyAt := none }).modEnd n

/-! ## Replies (R159–R161, R164–R170) -/

/-- A reply as the engine takes it: its frame status, the bytes to be stored, the bits, the position shown in ERR_POS,
the receive mark, the reply time, start angle and level, and the received positions of collisions. -/
structure RxRes where
  status : Nat
  bytes : List Nat
  bits : List Bool
  errPos : Nat
  mark : Nat
  time : Nat
  angle : Nat
  level : Nat
  colls : List Nat
  deriving DecidableEq, Repr

/-- Frame statuses (R160, R195). -/
def fsOK : Nat := 0x00
def fsTIMING : Nat := 0x01
def fsNO_RESPONSE : Nat := 0x02
def fsCOLLISION : Nat := 0x03
def fsCRC : Nat := 0x04
def fsPARITY : Nat := 0x05
def fsFRAMING : Nat := 0x06
def fsBCC : Nat := 0x07
def fsOVERFLOW : Nat := 0x08
def fsWTX : Nat := 0x09
def fsERROR_FLAG : Nat := 0x0A
def fsBOOK : Nat := 0x0B

/-- A reply that is good for a procedure: status OK or TIMING. -/
def RxRes.good (r : RxRes) : Bool := r.status == fsOK || r.status == fsTIMING

/-- A frame started. -/
def RxRes.started (r : RxRes) : Bool := r.status != fsNO_RESPONSE

/-- No reply (R159, R160). -/
def State.noReply (s : State) (w : Nat) : RxRes :=
  { status := fsNO_RESPONSE, bytes := [], bits := [], errPos := 0xFFF, mark := (s.rx (s.eng w).chain).mark,
    time := 0xFFFFFF, angle := s.angle, level := 0, colls := [] }

/-- The reply time of the frame begun on an engine's chain, from the end of the latest reader frame, in steps of 2 carrier cycles (R159,
R164–R166, R191); free where the engine has sent none (assumption 18). -/
def State.respTime (s : State) (w : Nat) : Nat :=
  match (s.eng w).airEnd with
  | some t => Nat.min 0xFFFFFE (((s.rx (s.eng w).chain).startAt - t) / 32 * 2)
  | none => (Config.cutReplyTime s.free).toNat / 2 * 2

/-- The first status that applies, in the order of R160. -/
def frameStatus (overflow collision framing parity crc bcc wtx errFlag timing : Bool) : Nat :=
  if overflow then fsOVERFLOW else if collision then fsCOLLISION else if framing then fsFRAMING
  else if parity then fsPARITY else if crc then fsCRC else if bcc then fsBCC else if wtx then fsWTX else if errFlag then fsERROR_FLAG
  else if timing then fsTIMING else fsOK

/-- The CRC check of received bytes: whole bytes, at least two, the last two the CRC of the rest. -/
def crcGood (kind : Nat) (bits : List Bool) : Bool :=
  let b := packBits bits
  let n := b.length - 2
  bits.length % 8 == 0 && decide (2 ≤ b.length) && b.drop n == crcBytes kind (b.take n)

/-- Kind of reply that a listening engine decodes. -/
def Eng.kind (e : Eng) : Nat := e.frame.kind

/-! ### Type A: parity (R161) -/

/-- The received bits of a Type A frame without its parity bits, each with its place in the frame, and the positions of parity errors, each
that of the last bit of its byte: `left` bits complete the byte in hand, `even` tells that its bits so far hold an even number of ones, `i`
and `j` count places and positions. -/
def unparity : Nat → Bool → Nat → Nat → List Bool → List (Nat × Bool) × List Nat
  | _, _, _, _, [] => ([], [])
  | 0, even, i, j, p :: l =>
    let r := unparity 8 true (i + 1) j l
    (r.1, if p = even then r.2 else (j - 1) :: r.2)
  | left + 1, even, i, j, b :: l =>
    let r := unparity left (even != b) (i + 1) (j + 1) l
    ((i, b) :: r.1, r.2)

/-- The bits of the split byte that the reader sent in a bit-oriented frame (R161, R175). -/
def TxFrame.splitBits (f : TxFrame) : List Bool :=
  if f.kind = 2 ∧ f.lastBits ≠ 0 then (List.range f.lastBits).map fun j => (f.bytes.getLastD 0).testBit j else []

/-! ### Type B: characters (R165) -/

/-- The bits of the characters of a Type B frame: every start bit 0 and stop bit 1, whole characters; and the data bits with their places. -/
def charsOk (raw : List Bool) : Bool :=
  raw.length % 10 == 0 && (List.range (raw.length / 10)).all fun i => !raw.getD (10 * i) true && raw.getD (10 * i + 9) false

def charBits (raw : List Bool) : List (Nat × Bool) :=
  (List.range (raw.length / 10)).flatMap fun i => (List.range 8).map fun j => (10 * i + 1 + j, raw.getD (10 * i + 1 + j) false)

/-- The SOF, EGT, EOF and TR1 of a Type B reply lie within their limits at a rate (R165). -/
def replyTimes (r : Reply) (rate : Nat) : Bool :=
  let u := etu rate
  let near := fun (lo hi x : Nat) => decide ((2 * lo - 1) * u ≤ 2 * x ∧ 2 * x ≤ (2 * hi + 1) * u)
  decide (256 ≤ r.tr1) && near 10 11 r.sofLow && near 2 3 r.sofHigh && r.egt.all (fun g => decide (g ≤ 2 * u)) && near 10 11 r.eof

/-! ### All kinds -/

/-- What an engine reads of a frame's bits: the data bits with their places in the frame, the positions of parity errors, whether the
framing is good. -/
def TxFrame.read (f : TxFrame) (raw : List Bool) (r : Reply) : List (Nat × Bool) × List Nat × Bool :=
  if f.kind ≤ 2 then
    let h := f.splitBits
    let x := unparity (8 - h.length) (h.foldl (fun e b => e != b) true) 0 0 raw
    (x.1, x.2, !r.broken)
  else if f.kind = 3 then (charBits raw, [], !r.broken && charsOk raw && replyTimes r f.rrate)
  else (raw.mapIdx fun i b => (i, b), [], !r.broken)

/-- The block check character of four UID bytes (R174). -/
def bccOf (uid : List Nat) : Nat := (uid.take 4).foldl (· ^^^ ·) 0

/-- The UID bits that an ANTICOLL frame names (R174, R175). -/
def TxFrame.known (f : TxFrame) : List Bool :=
  let b := unpackBits (f.bytes.drop 2)
  if f.lastBits = 0 then b else b.take (b.length - (8 - f.lastBits))

/-- The answer to an ANTICOLL frame completes a UID whose BCC does not match it (R160, R174). -/
def TxFrame.badBcc (f : TxFrame) (bits : List Bool) : Bool :=
  let full := packBits (f.known ++ bits)
  f.kind == 2 && isSel (f.bytes.headD 0) && decide ((f.known ++ bits).length = 40) && bccOf full != nth full 4

/-- The reply decoded and checked: status, data and positions, before its effects on the page; whether it is an S(WTX) request (R159–R161,
R164–R166, R168, R170). -/
def State.decodeReply (s : State) (w : Nat) (r : Reply) : RxRes × Bool :=
  let e := s.eng w
  let n := e.chain
  let f := e.frame
  let x := f.read (s.rx n).raw r
  let hit := fun i => (s.rx n).colls.any fun c => c.1 == i
  let bts := x.1.map fun b => b.2 || hit b.1
  let colls := (x.1.zipIdx.filter fun b => hit b.1.1).map Prod.snd
  let perr := match colls with
    | [] => x.2.1.head?
    | c :: _ => x.2.1.find? fun p => decide (p < c)
  let crcOn := f.crc && crcKind f.kind
  let good := crcOn && crcGood f.kind bts
  let all := packBits bts
  let data := if crcOn then all.take (all.length - 2) else all
  let isW := good && decide (f.kind = 0 ∨ f.kind = 3) && isWtx (data.headD 0)
  let m := wtxInf data % 64
  let wBad := isW && (m == 0 || decide (60 ≤ m))
  let time := s.respTime w
  let st := frameStatus (decide (e.limit < data.length)) (!colls.isEmpty) (!x.2.2 || wBad) perr.isSome (crcOn && !good) (f.badBcc bts) isW
    (decide (4 ≤ f.kind) && (data.headD 0).testBit 0) (decide (time < f.lo) || decide (f.hi < time))
  ({ status := st, bytes := data.take e.limit, bits := bts, errPos := Nat.min 0xFFF ((colls.head?.or perr).getD 0xFFF)
     mark := (s.rx n).mark, time := time, angle := (s.rx n).startAngle, level := s.get (pRXC n) RXC.LEVEL_FRAME, colls := colls }, isW)

/-- ENGw_STAT and ENGw_TIME of the latest reply, and the flags of its status (R183). -/
def State.showReply (s : State) (w : Nat) (r : RxRes) : State :=
  let f := (s.eng w).frame
  let s := s.when r.started fun s => (s.withTx (s.serving w) fun t => { t with heard := true }).withEng w fun e => { e with tagAt := some s.now }
  let s := (s.put pPRT (PRT.ENG_STAT_FSTATUS w) r.status).put pPRT (PRT.ENG_STAT_MARK w) r.mark
  let s := s.when (r.started && decide (f.kind ≤ 3)) fun s => s.put pPRT (PRT.ENG_STAT_RATE w) f.rrate
  let s := s.put pPRT (PRT.ENG_TIME_RESP_TIME w) r.time
  let s := if r.status = fsOVERFLOW then s.recordErr pPRT 6 else s
  let s := if r.status = fsCOLLISION then s.flag pPRT PRT.FLAG_COLLISION else s
  if r.status = fsTIMING then s.flag pPRT PRT.FLAG_TIMING else s

/-- The ISO/IEC 14443-4 helper on a frame with good CRC: BLOCK toggles; an S(WTX) request sets FLAG.WTX, its WTXM is taken, and its answer
is to come (R168, R170, R183). -/
def State.blockReply (s : State) (w : Nat) (r : RxRes) (isW : Bool) : State :=
  let e := s.eng w
  let all := packBits r.bits
  let pcb := all.headD 0
  let good := e.frame.crc && decide (e.frame.kind = 0 ∨ e.frame.kind = 3) && crcGood e.frame.kind r.bits
  let blk := s.get pPRT (PRT.P4_BLOCK w)
  let s := if good && decide (2 < all.length) && (pcb &&& 0xE2 == 2 || pcb &&& 0xF6 == 0xA2) && pcb % 2 == blk then
      s.putHw pPRT (PRT.P4_BLOCK w) (1 - blk) else s
  if isW then
    let m := wtxInf (all.take (all.length - 2)) % 64
    let s := ((s.put pPRT (PRT.ENG_STAT_WTXM w) m).flag pPRT PRT.FLAG_WTX).withEng w fun e => { e with wtx := true }
    if m = 0 ∨ 60 ≤ m then s.recordErr pPRT 8 else s
  else s

/-- The FWI of an ATQB (R178). -/
def State.atqbFwi (s : State) (w : Nat) (r : RxRes) : State :=
  if r.good ∧ (s.eng w).frame.kind = 3 ∧ 12 ≤ r.bytes.length ∧ r.bytes.headD 0 = 0x50 then
    s.withEng w fun e => { e with fwi := nth r.bytes 11 / 16 % 16 }
  else s

/-- The words of a receive record (R159). -/
def recordWords (r : RxRes) : List Nat :=
  let last := if r.status = fsOVERFLOW ∨ r.bytes.length * 8 ≤ r.bits.length then 0 else r.bits.length % 8
  [r.status * 2 ^ 32 + r.mark * 2 ^ 29 + r.bytes.length * 2 ^ 16 + last * 2 ^ 13, r.time * 2 ^ 16 + Nat.min 0xFFF r.errPos, r.angle] ++
    (List.range (ceilDiv r.bytes.length 5)).map fun i =>
      beNat ((List.range 5).map fun j => nth r.bytes (5 * i + j))

/-- A receive record lies in SRAM whole (R261). -/
def recordFits (dest limit : Nat) : Bool := decide (dest + 3 + ceilDiv limit 5 ≤ sramLast + 1)

/-- The exchange's record is written and its frame-end event presented (R159, R264, R284). -/
def State.writeRecord (s : State) (w : Nat) (ws : List Nat) : State :=
  match (s.eng w).dest with
  | some d => s.memWrites d ws
  | none => s

/-- The hop of an engine's events. -/
def State.engHop (s : State) (w : Nat) : Nat :=
  match (s.eng w).user with
  | some u => s.moveHop u
  | none => 0

/-- An exchange ends with a reply or with none: record, event, and the move's status 0x40 + the frame status, or the one
that an abort, a disable or the loss of the field or chain imposes (R182, R264). -/
def State.exchangeEnd (s : State) (w : Nat) (r : RxRes) : State :=
  let s := (s.writeRecord w (recordWords r)).present (91 + w) (s.engHop w)
  s.engEnd w ((s.eng w).stop.getD (0x40 + r.status))

/-! ## Engine faults (R181) -/

/-- A mismatch noted: how many lie within 10 ms, this one included. -/
def recent10ms (now : Nat) (l : List Nat) : List Nat := (l.filter fun t => decide (now < t + 10 * ms)) ++ [now]

/-- A logic unit goes out of service: a persistent fault (R411). -/
def State.outOfService (s : State) (page code ctx port : Nat) : State :=
  (s.recordErr page code).reportFault page code { cls := 0x0D, action := 3, ctx := ctx, port := port }

end Sys2Proof.Machine
end

