-- ==== Sys2Proof/Machine/Anticoll.lean ====
section
/-! DEFINITION. Anticollision procedures (R171–R180): ISO/IEC 14443 Type A and Type B and ISO/IEC 15693, one step per
reply. -/

namespace Sys2Proof.Machine

open Sys2Proof

/-- The procedure's state kept, and its next frame sent. -/
def State.acSend (s : State) (w : Nat) (a : Ac) (f : TxFrame) : State :=
  (s.withEng w fun e => { e with prog := .anti a }).sendFrame w f

/-- An ANTICOLL ends (R171): FLAG.ANTICOLL_END, the event, and the status, an ordered end having its own. -/
def State.acEnd (s : State) (w st : Nat) : State :=
  let s := (s.flag pPRT PRT.FLAG_ANTICOLL_END).present (99 + w) (s.engHop w)
  s.engEnd w ((s.eng w).stop.getD st)

/-- The move ends at MAX_TAGS (R171). -/
def State.acMax (s : State) (w : Nat) : State := ((s.flag pPRT PRT.FLAG_MAX_TAGS).recordErr pPRT 4).acEnd w stMORE

/-- A tag found twice (R171). -/
def State.acTwice (s : State) (w : Nat) : State := ((s.flag pPRT PRT.FLAG_HALT_FAIL).recordErr pPRT 5).acEnd w stHALT_FAIL

/-- A result entry is written (R171, R172). -/
def State.acEntry (s : State) (w : Nat) (a : Ac) (uid ws : List Nat) : Ac × State :=
  let s := s.memWrites (a.result + 4 * a.found) ws
  ({ a with found := a.found + 1, uids := uid :: a.uids }, s.put pPRT (PRT.ENG_STAT_TAGS w) (a.found + 1))

/-- Silent requests that end a procedure (R173). -/
def Eng.silentReqs (e : Eng) : Nat := orDefault 1 (e.get PRT.ENGINE_SILENT_REQS)

/-- A branch stored, or dropped when the stack is full (R176). -/
def State.acPush (s : State) (a : Ac) (depth : Nat) (b : Branch) : Ac × State :=
  if depth ≤ a.stack.length then ({ a with dropped := true }, (s.flag pPRT PRT.FLAG_STACK_DROP).recordErr pPRT 7)
  else ({ a with stack := b :: a.stack }, s)

/-! ## Type A (R174–R177) -/

/-- SEL of a cascade level. -/
def selOf (level : Nat) : Nat := 0x91 + 2 * level

/-- NVB for `b` known UID bits (R175). -/
def nvbOf (b : Nat) : Nat := 16 * (2 + b / 8) + b % 8

/-- An ANTICOLL frame (R174, R175). -/
def Eng.anticollFrame (e : Eng) (level : Nat) (known : List Bool) : TxFrame :=
  e.ownFrame 2 0 false true ([selOf level, nvbOf known.length] ++ packBits known) (known.length % 8)

/-- A SELECT frame (R174). -/
def Eng.selectFrame (e : Eng) (level : Nat) (uid : List Nat) : TxFrame :=
  e.ownFrame 0 0 true true ([selOf level, 0x70] ++ uid ++ [bccOf uid])

/-- REQA, or WUPA while WAKE asks for it. -/
def Eng.reqaFrame (e : Eng) (wake : Bool) : TxFrame := e.ownFrame 1 0 false true [if wake then 0x52 else 0x26]

/-- HLTA (R162, R164). -/
def Eng.hltaFrame (e : Eng) : TxFrame := e.ownFrame 0 0 true true [0x50, 0x00]

/-- The next request of Type A, or the end by silence (R173, R174). -/
def State.acNextA (s : State) (w : Nat) (a : Ac) : State :=
  if (s.eng w).silentReqs ≤ a.silent then s.acEnd w stDONE
  else s.acSend w { a with phase := .atqa } ((s.eng w).reqaFrame (a.wake && a.found == 0))

/-- Along a path: completed levels are selected again, then the level's known bits go into an ANTICOLL (R174, R176). -/
def State.acWalk (s : State) (w : Nat) (a : Ac) : State :=
  match a.resel with
  | u :: _ => s.acSend w { a with phase := .reselect } ((s.eng w).selectFrame (a.levels.length + 1) u)
  | [] => s.acSend w { a with phase := .bits } ((s.eng w).anticollFrame (a.levels.length + 1) a.bits)

/-- ATQA as shown in an entry: the first byte received in the upper byte (R172). -/
def atqaOf (r : RxRes) : Nat := nth (packBits r.bits) 0 * 256 + nth (packBits r.bits) 1

/-- The one SAK byte of a good reply to a SELECT. -/
def sakOf (r : RxRes) : Option Nat := if r.good && r.bytes.length == 1 then r.bytes.head? else none

/-- The words of a result entry (R172): word 0 without the UID length and PROTO, UID bytes left aligned. -/
def entryWords (proto ulen info level : Nat) (w1 w2 : List Nat) (angle : Nat) : List Nat :=
  [proto * 2 ^ 36 + ulen * 2 ^ 32 + info * 2 ^ 8 + level % 256, beNat ((List.range 5).map fun i => nth w1 i),
   beNat ((List.range 5).map fun i => nth w2 i), angle]

/-- A Type A tag is complete (R174, R177). -/
def State.acFoundA (s : State) (w : Nat) (a : Ac) (uid : List Nat) (sak : Nat) (r : RxRes) : State :=
  if a.uids.contains uid then s.acTwice w
  else
    let p := (s.eng w).port
    let x := s.acEntry w a uid (entryWords 1 uid.length (a.atqa * 256 + sak) r.level (uid.take 5) (uid.drop 5) r.angle)
    let s := x.2.ledgerTag p 1 uid none 3
    if a.hold then s.acEnd w (if a.coll then stMORE else stDONE)
    else (s.ledgerTag p 1 uid (some 3) 4).acSend w { x.1 with phase := .halt } ((s.eng w).hltaFrame)

/-- A reply, or its absence, in a Type A procedure; a tag that answers HLTA is not halted (R164, R174–R177, R220). -/
def State.acReplyA (s : State) (w : Nat) (a : Ac) (r : RxRes) : State :=
  match a.phase with
  | .atqa =>
    if !r.started then s.acNextA w { a with silent := a.silent + 1 }
    else
      let path := a.stack.headD { levels := [], bits := [], len := 0, mask := 0 }
      s.acWalk w { a with
        silent := 0, atqa := atqaOf r, stack := a.stack.drop 1, levels := [], resel := path.levels, bits := path.bits }
  | .reselect =>
    match sakOf r, a.resel with
    | some _, u :: rest => s.acWalk w { a with levels := a.levels ++ [u], resel := rest }
    | _, _ => s.acNextA w a
  | .bits =>
    if !r.started then s.acNextA w a
    else
      let b := a.bits.length
      let full := a.bits ++ r.bits
      match r.colls with
      | c :: _ =>
        let k := b + c
        let a := { a with coll := true }
        if k < 32 then
          let x := if (s.eng w).get PRT.ENGINE_BRANCH_RESUME = 0 then (a, s)
            else s.acPush a 8 { levels := a.levels, bits := full.take k ++ [false], len := 0, mask := 0 }
          x.2.acWalk w { x.1 with bits := full.take k ++ [true] }
        else s.acNextA w a
      | [] =>
        let uid := packBits (full.take 32)
        if full.length = 40 ∧ r.good = true then
          s.acSend w { a with phase := .sak, bits := full.take 32 } ((s.eng w).selectFrame (a.levels.length + 1) uid)
        else s.acNextA w a
  | .sak =>
    match sakOf r with
    | none => s.acNextA w a
    | some sak =>
      let u := packBits a.bits
      if sak.testBit 2 then
        if a.levels.length = 2 then (s.put pPRT (PRT.ENG_STAT_FSTATUS w) fsFRAMING).acNextA w a
        else s.acWalk w { a with levels := a.levels ++ [u], bits := [] }
      else s.acFoundA w a ((a.levels.map fun l => l.drop 1).flatten ++ u) sak r
  | _ =>
    let s := s.when r.started fun s => s.ledgerTag (s.eng w).port 1 (a.uids.headD []) (some 4) 3
    if a.max ≤ a.found then s.acMax w else s.acNextA w a

/-! ## Type B (R178) -/

/-- REQB or WUPB for 2^n slots. -/
def Eng.reqbFrame (e : Eng) (wupb : Bool) (n : Nat) : TxFrame :=
  e.ownFrame 3 0 true true [0x05, e.get PRT.B_CFG_AFI, 8 * b2n wupb + n]

/-- The next REQB, or the end by silence. -/
def State.acNextB (s : State) (w : Nat) (a : Ac) : State :=
  if (s.eng w).silentReqs ≤ a.silent then s.acEnd w stDONE
  else s.acSend w { a with phase := .slot, heard := 0, garbled := 0, slot := 1 } ((s.eng w).reqbFrame (a.wake && a.found == 0) a.exp)

/-- The next slot, or the end of the request. -/
def State.acSlotB (s : State) (w : Nat) (a : Ac) : State :=
  if a.slot < 2 ^ a.exp then
    s.acSend w { a with phase := .slot, slot := a.slot + 1 } ((s.eng w).ownFrame 3 0 true true [a.slot * 16 + 5])
  else
    s.acNextB w { a with
      silent := if a.heard = 0 then a.silent + 1 else 0
      exp := if a.garbled ≠ 0 ∧ a.exp < 4 then a.exp + 1 else a.exp }

/-- A reply is an ATQB with good CRC. -/
def isAtqb (r : RxRes) : Bool := r.good && decide (12 ≤ r.bytes.length) && r.bytes.headD 0 == 0x50

/-- The words of a Type B entry. -/
def atqbWords (r : RxRes) : List Nat :=
  let b := r.bytes
  entryWords 2 4 (nth b 9 * 65536 + nth b 10 * 256 + nth b 11) r.level ((b.drop 1).take 4) ((b.drop 5).take 4) r.angle

/-- The answer to ATTRIB is stored as a receive record, at the place of the next result entry and of its size (R178; assumption 93). -/
def State.attribRecord (s : State) (a : Ac) (r : RxRes) : State :=
  if a.found < a.max then s.memWrites (a.result + 4 * a.found) (recordWords { r with bytes := r.bytes.take 5 }) else s

/-- A reply in a Type B procedure. -/
def State.acReplyB (s : State) (w : Nat) (a : Ac) (r : RxRes) : State :=
  let e := s.eng w
  match a.phase with
  | .slot =>
    if isAtqb r then
      let pupi := (r.bytes.drop 1).take 4
      let a := { a with heard := a.heard + 1 }
      if a.uids.contains pupi then s.acTwice w
      else
        let x := s.acEntry w a pupi (atqbWords r)
        if a.hold then
          let at4 := [e.get PRT.B_ATTRIB_PARAM1, e.get PRT.B_ATTRIB_PARAM2, e.get PRT.B_ATTRIB_PARAM3, e.get PRT.B_ATTRIB_PARAM4]
          x.2.acSend w { x.1 with phase := .attrib } ((x.2.eng w).ownFrame 3 0 true true ([0x1D] ++ pupi ++ at4))
        else
          let s := x.2.ledgerTag e.port 2 pupi (some 3) 4
          s.acSend w { x.1 with phase := .hltb } ((s.eng w).ownFrame 3 0 true true ([0x50] ++ pupi))
    else if r.started then s.acSlotB w { a with heard := a.heard + 1, garbled := a.garbled + 1 }
    else s.acSlotB w a
  | .attrib =>
    let s := (s.attribRecord a r).when r.started fun s => s.ledgerTag e.port 2 (a.uids.headD []) none 3
    s.acEnd w (if a.garbled ≠ 0 ∨ a.slot < 2 ^ a.exp then stMORE else stDONE)
  | _ => if a.max ≤ a.found then s.acMax w else s.acSlotB w a

/-! ## ISO/IEC 15693 (R179, R180) -/

/-- The subcarrier and rate bits of the flags byte. -/
def Eng.vRate (e : Eng) : Nat := e.get PRT.V_CFG_SUBC_DUAL + 2 * e.get PRT.V_CFG_RATE_HIGH

/-- The flags byte of an INVENTORY request. -/
def Eng.vFlags (e : Eng) (oneSlot : Bool) : Nat :=
  0x04 + e.vRate + 0x10 * e.get PRT.V_CFG_AFI_EN + 0x20 * b2n oneSlot

/-- Bytes of a number, least significant first. -/
def leBytes (n v : Nat) : List Nat := (beBytes n v).reverse

/-- An INVENTORY request with a mask (R179). -/
def Eng.inventoryFrame (e : Eng) (oneSlot : Bool) (len mask : Nat) : TxFrame :=
  let afi := if e.get PRT.V_CFG_AFI_EN = 0 then [] else [e.get PRT.V_CFG_AFI]
  e.ownFrame 4 0 true true ([e.vFlags oneSlot, 0x01] ++ afi ++ [len] ++ leBytes (ceilDiv len 8) (mask % 2 ^ len))

/-- A request in addressed mode (R180). -/
def Eng.addressedFrame (e : Eng) (cmd : Nat) (uid : List Nat) (expect : Bool) : TxFrame :=
  e.ownFrame 4 0 true expect ([0x20 + e.vRate, cmd] ++ uid)

/-- One slot per request (R179). -/
def Eng.oneSlot (e : Eng) : Bool := e.get PRT.V_CFG_ONE_SLOT != 0

/-- A stored branch taken: its INVENTORY request. -/
def State.acPopV (s : State) (w : Nat) (a : Ac) (b : Branch) (rest : List Branch) : State :=
  s.acSend w { a with phase := .slot, stack := rest, len := b.len, mask := b.mask, slot := 0 }
    ((s.eng w).inventoryFrame (s.eng w).oneSlot b.len b.mask)

/-- A pass begins with the move's mask. -/
def State.acPassV (s : State) (w : Nat) (a : Ac) (len mask : Nat) : State :=
  s.acPopV w { a with heard := 0 } { levels := [], bits := [], len := len, mask := mask } []

/-- The next branch, or the end of the pass. -/
def State.acBranchV (s : State) (w : Nat) (a : Ac) : State :=
  match a.stack with
  | b :: rest => s.acPopV w a b rest
  | [] =>
    if a.quiet then
      let silent := if a.heard = 0 then a.silent + 1 else 0
      if (s.eng w).silentReqs ≤ silent then s.acEnd w stDONE
      else s.acPassV w { a with silent := silent } a.mlen a.mmask
    else s.acEnd w (if a.dropped then stMORE else stDONE)

/-- The next slot, or the next branch. -/
def State.acSlotV (s : State) (w : Nat) (a : Ac) : State :=
  if (s.eng w).oneSlot || decide (15 ≤ a.slot) then s.acBranchV w a
  else s.acSend w { a with phase := .slot, slot := a.slot + 1 } ((s.eng w).ownFrame 5 0 true true [])

/-- The branches a garbled slot gives (R179). -/
def State.acGarbledV (s : State) (w : Nat) (a : Ac) (r : RxRes) : Ac × State :=
  let push := fun (x : Ac × State) (len mask : Nat) =>
    if 64 < len then ({ x.1 with dropped := true }, (x.2.flag pPRT PRT.FLAG_STACK_DROP).recordErr pPRT 7)
    else x.2.acPush x.1 16 { levels := [], bits := [], len := len, mask := mask }
  if (s.eng w).oneSlot then
    let c := r.colls.headD 0
    let j := c - 16
    if r.colls ≠ [] ∧ 16 ≤ c ∧ j < 64 ∧ a.len ≤ j then
      let uid := (List.range j).foldl (fun v i => v + (if r.bits.getD (16 + i) false then 2 ^ i else 0)) 0
      push (push (a, s) (j + 1) uid) (j + 1) (uid + 2 ^ j)
    else push (push (a, s) (a.len + 1) a.mask) (a.len + 1) (a.mask ||| 2 ^ a.len)
  else push (a, s) (a.len + 4) (a.mask + a.slot * 2 ^ a.len)

/-- A tag's entry is written and it needs no frame: the end at MAX_TAGS, or the next slot. -/
def State.acTagV (s : State) (w : Nat) (a : Ac) : State := if a.max ≤ a.found then s.acMax w else s.acSlotV w a

/-- A reply in an ISO/IEC 15693 procedure. -/
def State.acReplyV (s : State) (w : Nat) (a : Ac) (r : RxRes) : State :=
  let e := s.eng w
  match a.phase with
  | .slot =>
    if r.good && r.bytes.length == 10 then
      let uid := (r.bytes.drop 2).take 8
      let a := { a with heard := a.heard + 1 }
      if a.uids.contains uid then s.acTwice w
      else
        let info := nth r.bytes 1 * 65536 + nth r.bytes 0 * 256
        let x := s.acEntry w a uid (entryWords 3 8 info r.level (uid.take 5) (uid.drop 5) r.angle)
        if a.hold then x.2.acSend w { x.1 with phase := .vselect } (e.addressedFrame 0x25 uid true)
        else if a.quiet then
          (x.2.ledgerTag e.port 3 uid none 4).acSend w { x.1 with phase := .quiet } (e.addressedFrame 0x02 uid false)
        else x.2.acTagV w x.1
    else if r.started then
      let x := s.acGarbledV w { a with heard := a.heard + 1 } r
      x.2.acSlotV w x.1
    else s.acSlotV w a
  | _ =>
    let s := if r.good then s.ledgerTag e.port 3 (a.uids.headD []) none 3 else s
    let left := !a.stack.isEmpty || (!e.oneSlot && decide (a.slot < 15))
    s.acEnd w (if !r.started || r.status == fsERROR_FLAG || left then stMORE else stDONE)

/-! ## All three -/

/-- An ANTICOLL begins on engine `w` (R171). -/
def State.acBegin (s : State) (w : Nat) (args : AnticollArgs) (max : Nat) : State :=
  let e := s.eng w
  let len := Nat.min 60 args.maskLen
  let a : Ac := {
    proto := args.proto, wake := args.wake, hold := args.hold, quiet := args.quiet, result := args.result, max := max,
    found := 0, silent := 0, uids := [], stack := [], phase := .atqa, coll := false, dropped := false, atqa := 0,
    levels := [], bits := [], resel := [], len := 0, mask := 0, mlen := len, mmask := args.mask % 2 ^ len, slot := 0,
    exp := Nat.min 4 (e.get PRT.B_CFG_SLOT_EXP), heard := 0, garbled := 0 }
  let s := s.put pPRT (PRT.ENG_STAT_TAGS w) 0
  if args.proto = 1 then s.acNextA w a
  else if args.proto = 2 then s.acNextB w a
  else if e.dualLow then ((s.flag pPRT PRT.FLAG_BAD_MOVE).recordErr pPRT 3).acEnd w stBAD_PARAM
  else if args.wake then s.acSend w { a with phase := .wake } (e.ownFrame 4 0 true false [e.vRate, 0x26])
  else s.acPassV w a a.mlen a.mmask

/-- The procedure goes on after a frame that awaits no reply: RESET TO READY, STAY QUIET (R179, R180). -/
def State.acContinue (s : State) (w : Nat) (a : Ac) : State :=
  if a.phase = .wake then s.acPassV w a a.mlen a.mmask
  else if a.phase = .quiet then s.acTagV w a
  else s

/-- A reply, or its absence, in an anticollision procedure; an ordered end takes it as the last (R182). -/
def State.acReply (s : State) (w : Nat) (a : Ac) (r : RxRes) : State :=
  if (s.eng w).stop.isSome then s.acEnd w stABORTED
  else if a.proto = 1 then s.acReplyA w a r
  else if a.proto = 2 then s.acReplyB w a r
  else s.acReplyV w a r

end Sys2Proof.Machine
end

