-- ==== Sys2Proof/Machine/Blz.lean ====
section
/-! DEFINITION. The Blitz engine (R184–R217): headers, Books, frames, measurement records, and the GAMBIT, SOUND and BOOK
moves. -/

namespace Sys2Proof.Machine

open Sys2Proof

/-! ## Tone sets, Books and records -/

/-- The code of a tone in a Book of two words (R207). -/
def bookCode (b : Nat × Nat) (k : Nat) : Nat :=
  if k < 12 then b.1 / 2 ^ (3 * (k - 4)) % 8 else b.2 / 2 ^ (3 * (k - 12)) % 8

/-- The ID of a Book; 0 for none (R207). -/
def bookId (b : Nat × Nat) : Nat := bits b.1 39 36

/-- Book 0: code 1 on every data tone (R208). -/
def book0 : Nat × Nat := (0x249249, 0x249249)

/-- The Conductor address of word `k` of a port's Book slot (R208). -/
def State.bookAddr (s : State) (p k : Nat) : Nat :=
  let b := s.get pBLZ BLZ.BOOK_BASE_ADDR
  if winBase ≤ b then b + 20 * p + 5 * k else b + 4 * p + k

/-- The Book table lies in the external window. -/
def State.bookInWindow (s : State) : Bool := decide (winBase ≤ s.get pBLZ BLZ.BOOK_BASE_ADDR)

/-- The words of a port's slot from word `k` on, with their marks, or the window lines still missing; a slot outside SRAM
and window reads as no Book. -/
def State.bookWords (s : State) (p k n : Nat) : List Nat ⊕ (List (Nat × Bool) × State) :=
  (List.range n).foldl (fun r i =>
    match r with
    | .inl ls => .inl ls
    | .inr (l, s) =>
      let a := s.bookAddr p (k + i)
      if inSram a then
        let m := s.memRead a
        .inr (l ++ [(m.1, m.2.1)], m.2.2)
      else if inWindow a then
        match s.winWord (a - winBase) with
        | .inl ls => .inl ls
        | .inr m => .inr (l ++ [(m.1, m.2.1)], m.2.2)
      else .inr (l ++ [(0, false)], s)) (.inr ([], s))

/-- The first word of a port's measurement record, and whether the record lies in SRAM (R209). -/
def State.measAddr (s : State) (p : Nat) : Nat := s.get pBLZ BLZ.MEAS_BASE_ADDR + 32 * p
def State.measFits (s : State) (p : Nat) : Bool := decide (s.measAddr p + 31 ≤ sramLast)

/-! ## Commands and listens (R200, R204) -/

/-- The gain at which a Blitz listen starts is taken from the Ledger while BLZ.CFG.LQ_START is 1 (R136, R196). -/
def State.startGain (s : State) (w : Nat) : State :=
  if s.bit pBLZ BLZ.CFG_LQ_START then
    let r := s.ledgerGain (s.eng w).port
    match r.1 with
    | some g => r.2.rxPutHw (s.eng w).chain RXC.AGC_START g
    | none => r.2
  else s

/-- The lane awaits a Blitz reply on its chain for BLZ.TIME.WAIT (R136, R191, R196, R198): its gain from the Ledger, its class by the tone
set; a window table's lines are asked for (R379). -/
def State.awaitBlitz (s : State) (w : Nat) : State :=
  let e := s.eng w
  let s := (s.withEng w fun e => { e with await := 2, hdr := [], booked := false }).startGain w
  let s := (s.rxListen e.chain (e.user.getD 0) true (setClasses e.set)).waitFor w (s.get pBLZ BLZ.TIME_WAIT)
  if s.bookInWindow then
    match s.bookWords e.port 0 4 with
    | .inl ls => s.xmpWant ls false
    | .inr r => r.2
  else s

/-- A command with a Blitz reply is handed on, with its SEQ and tone set (R163, R200). -/
def State.sendBlitz (s : State) (w : Nat) (f : TxFrame) (seq set : Nat) : State :=
  (s.withEng w fun e => { e with seq := seq, set := set }).handOn w f 2

/-- A command that the lane builds goes out with the lane's SEQ, which then rises (R200, R204); its reply is awaited. -/
def State.laneSend (s : State) (w code : Nat) (coloured : Bool) (params : List Nat) : State :=
  let e := s.eng w
  let seq := s.get pBLZ (BLZ.SEQ_SEQ w)
  let rate := AMap.get (fun _ => 0) s.rates e.port
  let f := e.ownFrame 0 rate true true ([code, b2n coloured, seq % 256, seq / 256] ++ params)
  (s.putHw pBLZ (BLZ.SEQ_SEQ w) (seq + 1)).sendBlitz w f seq (s.toneSet e.port coloured)

/-! ## Headers (R192, R208) -/

/-- The CRC-8 of a header: initial value 0xFF (R192). -/
def crc8 (l : List Nat) : Nat := crc8Run 0xFF l

def hdrLength (h : List Nat) : Nat := nth h 0 + nth h 1 % 16 * 256
def hdrBook (h : List Nat) : Nat := nth h 1 / 16
def hdrType (h : List Nat) : Nat := nth h 2 % 16
def hdrTstat (h : List Nat) : Nat := nth h 2 / 16

/-- A header that passes its checks (R192). -/
def hdrGood (h : List Nat) : Bool :=
  h.length == 4 && crc8 (h.take 3) == nth h 3 && decide (hdrType h < 3) &&
    !(hdrType h == 1 && (hdrLength h == 0 || decide (64 < hdrLength h)))

/-- A pending Book is promoted: copied over the current words, then cleared (R208). -/
def State.promoteBook (s : State) (p : Nat) (b : Nat × Nat) : State :=
  let s := (s.memWrite (s.bookAddr p 0) b.1).memWrite (s.bookAddr p 1) b.2
  let s := (s.memWrite (s.bookAddr p 2) 0).memWrite (s.bookAddr p 3) 0
  (s.flag pBLZ BLZ.FLAG_BOOK_DONE).present 116 0

/-- The Book that a good header names is applied, or none (R208, R379). -/
def State.chooseBook (s : State) (w id : Nat) (l : List (Nat × Bool)) : State :=
  let p := (s.eng w).port
  let word := fun i => l.getD i (0, false)
  let cur := ((word 0).1, (word 1).1)
  let pend := ((word 2).1, (word 3).1)
  let use := fun (s : State) (b : Nat × Nat) => s.withEng w fun e => { e with book := b, booked := true }
  let poisoned := fun (s : State) => (s.flag pBLZ BLZ.FLAG_POISON).recordErr pBLZ 8
  if id = 0 then use s book0
  else if id = bookId cur ∧ (word 0).2 = false then
    if (word 1).2 then poisoned s else use s cur
  else if !s.bookInWindow && id == bookId pend && !(word 2).2 then
    if (word 3).2 then poisoned s else use (s.promoteBook p pend) pend
  else if (word 0).2 || (!s.bookInWindow && (word 2).2) then poisoned s
  else (s.flag pBLZ BLZ.FLAG_NO_BOOK).recordErr pBLZ 4

/-! ## Frame ends (R191, R193–R196) -/

/-- A Blitz reply as the lane takes it. -/
structure BlitzRes where
  status : Nat
  typ : Nat
  id : Nat
  tstat : Nat
  bytes : List Nat
  errPos : Nat
  mark : Nat
  time : Nat
  angle : Nat
  sound : List (Nat × Nat × Nat)
  deriving DecidableEq, Repr

/-- A Blitz reply that a procedure of the Board takes as good: status OK or TIMING. -/
def BlitzRes.good (r : BlitzRes) : Bool := r.status == fsOK || r.status == fsTIMING

/-- No Blitz reply. -/
def State.noBlitz (s : State) (w : Nat) : BlitzRes :=
  { status := fsNO_RESPONSE, typ := 0, id := 0, tstat := 0, bytes := [], errPos := 0xFFF,
    mark := (s.rx (s.eng w).chain).mark, time := 0xFFFFFF, angle := s.angle, sound := [] }

/-- A frame cut, or ended after a bad header: status FRAMING, with what a good header said (R192, R195). -/
def State.cutBlitz (s : State) (w : Nat) : BlitzRes :=
  let e := s.eng w
  let h := if hdrGood e.hdr then e.hdr else [0, 0, 0, 0]
  { (s.noBlitz w) with
    status := fsFRAMING, typ := hdrType h, id := hdrBook h, tstat := hdrTstat h, time := s.respTime w
    angle := (s.rx e.chain).startAngle }

/-- The words of a Blitz record (R159, R195). -/
def blitzWords (r : BlitzRes) : List Nat :=
  [r.status * 2 ^ 32 + r.mark * 2 ^ 29 + r.bytes.length * 2 ^ 16 + r.typ * 256 + r.id * 16 + r.tstat,
   r.time * 2 ^ 16 + r.errPos, r.angle] ++
    (List.range (ceilDiv r.bytes.length 5)).map fun i => beNat ((List.range 5).map fun j => nth r.bytes (5 * i + j))

/-- RESP_TIME outside its window (R191). -/
def State.blitzLate (s : State) (time : Nat) : Bool :=
  let m := s.get pBLZ BLZ.TIME_RESP
  let t := s.get pBLZ BLZ.TIME_TOL
  decide (time + t < m) || decide (m + t < time)

/-- The data tones of a set with their codes in a Book; code 1 on all of them (R187, R192, R208). -/
def bookTones (set : Nat) (b : Nat × Nat) : List (Nat × Nat) := (dataTones set).map fun k => (k, bookCode b k)
def headerTones (set : Nat) : List (Nat × Nat) := (dataTones set).map fun k => (k, 1)

/-- B: the bits per symbol of a Book over the tones of a set (R188, R214). -/
def bitsPer (set : Nat) (b : Nat × Nat) : Nat := ((bookTones set b).map Prod.snd).foldl (· + ·) 0

/-- The payload symbols of a frame, by its header and Book (R192, R193, R211). -/
def Eng.payload (e : Eng) : Nat :=
  let len := hdrLength e.hdr
  if hdrType e.hdr = 1 then len
  else if hdrType e.hdr = 0 ∧ len ≠ 0 ∧ e.booked = true ∧ bitsPer e.set e.book ≠ 0 then ceilDiv (8 * (len + 4)) (bitsPer e.set e.book)
  else 0

/-- A frame of a lane as demodulated (R194). -/
def State.demod (s : State) (w : Nat) (samples : List Nat) : Demod :=
  let e := s.eng w
  demodOf e.set (s.rxGet e.chain RXC.DET_BACKOFF) samples

/-- The frame as received, with its status in the order of R195. -/
def State.decodeBlitz (s : State) (w : Nat) (f : BlitzFrame) : BlitzRes :=
  let e := s.eng w
  let r := s.rx e.chain
  let h := e.hdr
  let x := s.demod w f.samples
  let hs := headerSymbols e.set
  let data := hdrType h == 0 && hdrLength h != 0
  let len := hdrLength h
  let bytes := packBits (x.bits hs e.payload (bookTones e.set e.book))
  let pay := bytes.take len
  let crc := beNat ((bytes.drop len).take 4).reverse
  let crcBad := data && (decide (bytes.length < len + 4) || crc32cFold e.seq pay != crc)
  let slip := x.slip (hs + e.payload)
  let time := s.respTime w
  let st := if data && decide (e.limit < len) then fsOVERFLOW else if slip.isSome then fsFRAMING
    else if !e.booked then fsBOOK else if crcBad then fsCRC else if s.blitzLate time then fsTIMING else fsOK
  let quiet := match e.prog with
    | .sound _ g _ => g
    | _ => 0
  { status := st, typ := hdrType h, id := hdrBook h, tstat := hdrTstat h,
    bytes := if data && e.booked then pay.take e.limit else []
    errPos := Nat.min 0xFFF (slip.getD 0xFFF), mark := r.mark, time := time, angle := r.startAngle
    sound := if hdrType h = 1 then
        (List.range 18).map fun i => x.soundTone f.quiet hs len quiet (s.rxGain e.chain) (i + 3)
      else [] }

/-- The threshold of a tone code in 0.25 dB (R212). -/
def State.toneThr (s : State) (c : Nat) : Nat :=
  if c = 1 then s.get pBLZ BLZ.THR_T1 else if c = 2 then s.get pBLZ BLZ.THR_T2
  else if c = 3 then s.get pBLZ BLZ.THR_T3 else s.get pBLZ BLZ.THR_T4

/-- A tone lies more than DEGRADE below the threshold of its code (R196): 0.1 dB against 0.25 dB. -/
def State.degraded (s : State) (b : Nat × Nat) (t : Nat × Nat) : Bool :=
  let c := bookCode b t.1
  decide (0 < c) && decide (2 * sext 10 t.2 + 5 * s.get pBLZ BLZ.BOOKCFG_DEGRADE < 5 * (s.toneThr c : Int))

/-- Power and error of each data tone of a frame: over the header, and the payload where it is decoded (R196). -/
def State.toneErrors (s : State) (w : Nat) (f : BlitzFrame) : List (Nat × Nat × Nat) :=
  let e := s.eng w
  let x := s.demod w f.samples
  let hs := headerSymbols e.set
  let hd := x.errors 0 hs (headerTones e.set)
  let codes := if hdrType e.hdr = 1 then headerTones e.set else (bookTones e.set e.book).filter fun t => t.2 != 0
  let pl := x.errors hs e.payload codes
  hd.map fun t => (t.1, t.2.1 + (errAt pl t.1).1, t.2.2 + (errAt pl t.1).2)

/-- The link quality of a frame of TYPE 0 or 1 (R196), and of every frame with a good header in the Ledger (R222). -/
def State.linkQuality (s : State) (w : Nat) (f : BlitzFrame) : State :=
  let e := s.eng w
  let s := if hdrType e.hdr < 2 then
      let l := s.toneErrors w f
      let ts := l.map fun t => (t.1, tenBits (snrTenths t.2.1 t.2.2))
      let all := tenBits (snrTenths ((l.map fun t => t.2.1).foldl (· + ·) 0) ((l.map fun t => t.2.2).foldl (· + ·) 0))
      let worst := ts.foldl (fun (m : Nat × Nat) t => if sext 10 t.2 < sext 10 m.2 then t else m) (ts.headD (4, 0))
      let s := (s.put pBLZ (BLZ.LQ_SNR w) all).put pBLZ (BLZ.LQ_WORST_SNR w) worst.2
      let s := (s.put pBLZ (BLZ.LQ_WORST_TONE w) worst.1).put pBLZ (BLZ.LQ_GAIN w) (s.rxGain e.chain)
      let s := s.put pBLZ (BLZ.LQ_BOOK_ID w) (hdrBook e.hdr)
      if e.booked && ts.any fun t => s.degraded e.book t then
        ((s.flag pBLZ BLZ.FLAG_REBOOK).recordErr pBLZ 0x0C).present 115 (s.engHop w)
      else s
    else s
  let lq := (s.reg pBLZ (0x20 + w)).toNat
  s.ledgerActive e.port fun x => if entInBlitz x then x.set 5 lq else x

/-- A Blitz frame ends on its chain and in its lane: flags, codes and events (R193–R195). -/
def State.blitzShow (s : State) (w : Nat) (r : BlitzRes) : State :=
  let n := (s.eng w).chain
  let s := (s.withTx (s.serving w) fun t => { t with heard := true }).withEng w fun e => { e with tagAt := some s.now }
  let s := if r.status = fsCRC then ((s.flag pBLZ BLZ.FLAG_CRC).recordErr pBLZ 3).inc pBLZ BLZ.COUNT_CRC_ERR else s
  let s := if r.errPos ≠ 0xFFF then s.recordErr pBLZ 0x0A else s
  let s := (s.frameEnds n).flag pBLZ BLZ.FLAG_FRAME_END |>.present (107 + w) (s.engHop w)
  (s.withEng w fun e => { e with await := 0, waitAt := none }).setRxState n 0

/-- A frame with a clipped sample, in its long symbols or later (R144, R153). -/
def State.blitzClip (s : State) (w : Nat) (samples : List Nat) : State :=
  let n := (s.eng w).chain
  if samples.any clips ∨ (s.rx n).mark = 1 then (s.clippedFrame n).put (pRXC n) RXC.LEVEL_FRAME 0 else s

/-- The reply acknowledges the LEAVE that the exchange sent (R201, R220). -/
def State.leftBlitz (s : State) (w : Nat) (r : BlitzRes) : Bool :=
  decide ((s.eng w).hear = 2 ∧ (s.eng w).frame.bytes.headD 0 = 0x4F) && r.good && r.typ == 2 && r.tstat == 0

/-- An exchange with a Blitz reply ends (R195, R264); a LEAVE acknowledged halts the port's ACTIVE entry (R220; assumption 94). -/
def State.blitzEnd (s : State) (w : Nat) (r : BlitzRes) : State :=
  let s := s.when (s.leftBlitz w r) fun s => s.ledgerActive (s.eng w).port fun e => entSet (entSet e 0 35 33 4) 0 30 30 0
  (s.writeRecord w (blitzWords r)).engEnd w ((s.eng w).stop.getD (0x40 + r.status))

/-! ## SOUND (R210, R211) -/

/-- A SOUND move begins on its lane with the quiet listen at its launch angle, its gain held at AGC.START; the command
follows after NOISE_WIN windows of 80 samples. -/
def State.soundBegin (s : State) (w : Nat) (coloured : Bool) : State :=
  let e := s.eng w
  if !s.measFits e.port then s.engEnd w stBAD_ADDRESS
  else
    let s := s.startGain w
    let g := Nat.min 66 (s.rxGet e.chain RXC.AGC_START)
    let s := s.withEng w fun x => { x with prog := .sound s.angle g coloured }
    ((s.setGain e.chain g).setRxState e.chain 0).timer (Nat.max 8 (s.get pBLZ BLZ.CFG_NOISE_WIN) * 2560) (.soundSend w)

/-- The quiet listen is over: SOUND goes out (R211). -/
def State.soundSend (s : State) (w : Nat) : State :=
  match (s.eng w).prog with
  | .sound _ _ coloured => s.laneSend w 0x41 coloured [orDefault 64 (s.get pBLZ BLZ.CFG_SOUND_SYMS)]
  | _ => s

/-- The reply to SOUND: the measurement record is written for the tones of the set (R209, R211). -/
def State.soundReply (s : State) (w quiet : Nat) (r : BlitzRes) : State :=
  let e := s.eng w
  if r.status = fsOK ∧ r.typ = 1 then
    let a := s.measAddr e.port
    let s := s.forEach ((List.range 18).filter fun i => inSetPilot e.set (i + 3)) fun s i =>
      let t := r.sound.getD i (0, 0, 0)
      s.memWrite (a + i) (t.1 % 1024 * 2 ^ 30 + t.2.1 % 1024 * 2 ^ 20 + t.2.2 % 1024 * 2 ^ 10)
    ((s.memWrite (a + 18) quiet).memWrite (a + 19) r.angle).engEnd w ((s.eng w).stop.getD stDONE)
  else s.engEnd w ((s.eng w).stop.getD (0x40 + r.status))

/-! ## BOOK (R212, R213) -/

/-- The highest code that the thresholds, with MARGIN, and the limit allow a tone of SNR `snr` (R212). -/
def State.toneCode (s : State) (limit snr : Nat) : Nat :=
  (List.range (limit + 1)).foldl (fun c i =>
    if 1 ≤ i ∧ 5 * ((s.toneThr i : Int) + s.get pBLZ BLZ.BOOKCFG_MARGIN) ≤ 2 * sext 10 snr then i else c) 0

/-- The codes of the sixteen data tones, from a measurement record (R212). -/
def State.bookCodes (s : State) (rec : List Nat) (set : Nat) : List Nat :=
  let m := s.get pBLZ BLZ.BOOKCFG_MAX_CODE
  let lim := Nat.min (if m = 0 then 1 else Nat.min 4 m) (bits (nth rec 20) 26 24)
  (List.range 16).map fun i => if inSet set (i + 4) then s.toneCode lim (bits (nth rec (i + 1)) 39 30) else 0

/-- Eight tone codes packed, the first in [2:0] (R207). -/
def packCodes (l : List Nat) : Nat := (List.range 8).foldl (fun a i => a + nth l i * 8 ^ i) 0

/-- The two words of a Book (R207). -/
def bookOf (id set : Nat) (codes : List Nat) : Nat × Nat :=
  (id * 2 ^ 36 + set * 2 ^ 32 + codes.foldl (· + ·) 0 * 2 ^ 24 + packCodes codes, packCodes (codes.drop 8))

/-- The parameters of a BOOK command (R201). -/
def bookParams (b : Nat × Nat) : List Nat := [bookId b] ++ leBytes 3 (b.1 % 2 ^ 24) ++ leBytes 3 (b.2 % 2 ^ 24)

/-- The thresholds rise (R212). -/
def State.thrRise (s : State) : Bool :=
  decide (s.toneThr 1 ≤ s.toneThr 2 ∧ s.toneThr 2 ≤ s.toneThr 3 ∧ s.toneThr 3 ≤ s.toneThr 4)

/-- A BOOK move (R212, R213, R324, R379). -/
def State.bookBegin (s : State) (w : Nat) (coloured : Bool) : State :=
  let p := (s.eng w).port
  let set := s.toneSet p coloured
  if s.bookInWindow || !s.measFits p || decide (sramLast < s.bookAddr p 3) then s.engEnd w stBAD_ADDRESS
  else if !s.thrRise then (s.recordErr pBLZ 0x0B).engEnd w stBAD_PARAM
  else
    let m := s.memReads (s.measAddr p) 21
    let s := m.2.2
    if m.2.1 then s.engEnd w stPOISONED
    else
      let codes := s.bookCodes m.1 set
      if codes.all (· == 0) then ((s.flag pBLZ BLZ.FLAG_BOOK_FAIL).recordErr pBLZ 5).engEnd w stBOOK_FAIL
      else
        let c := s.memRead (s.bookAddr p 0)
        let s := c.2.2
        if c.2.1 then ((s.flag pBLZ BLZ.FLAG_POISON).recordErr pBLZ 8).engEnd w stPOISONED
        else
          let b := bookOf (bits c.1 39 36 % 15 + 1) set codes
          let s := (s.memWrite (s.bookAddr p 2) b.1).memWrite (s.bookAddr p 3) b.2
          let s := s.withEng w fun e => { e with prog := .book (bookId b) }
          s.laneSend w 0x42 coloured (bookParams b)

/-- The reply to BOOK: an ACK with TSTAT 0 and the ID means that the tag took it (R204, R213). -/
def State.bookReply (s : State) (w id : Nat) (r : BlitzRes) : State :=
  if r.good && r.typ == 2 && r.tstat == 0 && r.id == id then s.engEnd w ((s.eng w).stop.getD stDONE)
  else ((s.flag pBLZ BLZ.FLAG_BOOK_FAIL).recordErr pBLZ 6).engEnd w ((s.eng w).stop.getD stBOOK_FAIL)

/-! ## GAMBIT (R202, R204) -/

/-- GAMBIT goes out at 106 kbit/s with a command rate and the port's colour. -/
def State.gambitSend (s : State) (w rate : Nat) (again reload : Bool) : State :=
  let e := s.eng w
  let col := s.get (pFIL (e.port / 8)) (FIL.PORT_COLOUR (e.port % 8))
  (s.withEng w fun e => { e with prog := .gambit rate again reload }).sendFrame w (e.ownFrame 0 0 true true [0x4B, rate + 4 * col])

/-- A GAMBIT move begins. -/
def State.gambitBegin (s : State) (w : Nat) (reload : Bool) : State :=
  if !s.measFits (s.eng w).port then s.engEnd w stBAD_ADDRESS
  else s.gambitSend w (s.get pBLZ BLZ.CFG_READER_RATE) false reload

/-- The Gambit failed. -/
def State.gambitFail (s : State) (w : Nat) : State :=
  ((s.flag pBLZ BLZ.FLAG_GAMBIT_FAIL).recordErr pBLZ 7).engEnd w ((s.eng w).stop.getD stGAMBIT_FAIL)

/-- The Gambit is done: the Ledger's ACTIVE entry of the port is in Blitz (R220). -/
def State.gambitDone (s : State) (w ans1 : Nat) : State :=
  let s := s.ledgerActive (s.eng w).port fun e =>
    entSet (entSet (entSet e 0 31 31 1) 0 30 30 1) 0 29 29 (b2n (ans1.testBit 3))
  s.engEnd w ((s.eng w).stop.getD stDONE)

/-- ANS1 of the latest Gambit of a port, from word 20 of its record. -/
def State.ans1 (s : State) (p : Nat) : Nat := bits (s.peek (s.measAddr p + 20)).1 31 24

/-- The tag holds another Book than the current one of its port: that one is sent, once its words are there; lines of a window table that
are missing are waited for, and the move goes on with them (R204, R379). -/
def State.gambitReload (s : State) (w a1 a2 : Nat) : State :=
  match s.bookWords (s.eng w).port 0 2 with
  | .inl ls =>
    (s.withEng w fun e => { e with prog := .gambitWait a1 a2 }).xmpWait ls (.rfMoveLaunch ((s.eng w).user.getD 0) false)
  | .inr (l, s) =>
    let w0 := l.getD 0 (0, false)
    let w1 := l.getD 1 (0, false)
    if w0.2 || w1.2 then ((s.flag pBLZ BLZ.FLAG_POISON).recordErr pBLZ 8).engEnd w stPOISONED
    else
      let b := (w0.1, w1.1)
      if bookId b = 0 ∨ bookId b = a2 % 16 then s.gambitDone w a1
      else (s.withEng w fun e => { e with prog := .reload (bookId b) }).laneSend w 0x42 false (bookParams b)

/-- The answer to GAMBIT; its rate is agreed once the tag is in Blitz (R202, R204). -/
def State.gambitReply (s : State) (w rate : Nat) (again reload : Bool) (r : RxRes) : State :=
  let p := (s.eng w).port
  let a0 := nth r.bytes 0
  let a1 := nth r.bytes 1
  let a2 := nth r.bytes 2
  if !(r.good && r.bytes.length == 3) then s.gambitFail w
  else if a0 % 16 = 1 ∧ again = false ∧ bits a1 6 5 < s.get pBLZ BLZ.CFG_READER_RATE ∧ (s.eng w).stop = none then
    s.gambitSend w (bits a1 6 5) true reload
  else if a0 % 16 ≠ 0 then s.gambitFail w
  else
    let s : State := { s with rates := AMap.set (fun _ => 0) s.rates p rate }
    let s := s.memWrite (s.measAddr p + 20) (a0 * 2 ^ 32 + a1 * 2 ^ 24 + a2 * 2 ^ 16)
    if reload && (s.eng w).stop.isNone then s.gambitReload w a1 a2 else s.gambitDone w a1

/-- The reply to the BOOK of a reload. -/
def State.reloadReply (s : State) (w id : Nat) (r : BlitzRes) : State :=
  if r.good && r.typ == 2 && r.tstat == 0 && r.id == id then s.gambitDone w (s.ans1 (s.eng w).port)
  else ((s.flag pBLZ BLZ.FLAG_BOOK_FAIL).recordErr pBLZ 6).engEnd w ((s.eng w).stop.getD stBOOK_FAIL)

end Sys2Proof.Machine
end

