-- ==== Sys2Proof/Machine/Seal.lean ====
section
/-! DEFINITION. Sealed writes (R238–R245): the job, the five steps through the Blitz lane, what a lost field leaves, LEGACY
jobs. -/

namespace Sys2Proof.Machine

open Sys2Proof

/-! ## Words that a block reads from SRAM or the window -/

/-- The Conductor address of word `k` from `addr` on (R26). -/
def wordAddr (addr k : Nat) : Nat := if winBase ≤ addr then addr + 5 * k else addr + k

/-- What a block's read of words gives: the words with their marks, the window lines still missing, or an address that is
not mapped. -/
inductive BlockGot where
  | words (l : List (Nat × Bool))
  | missing (lines : List Nat)
  | unmapped
  deriving DecidableEq, Repr

/-- `n` words read at a Conductor address, SRAM or window. -/
def State.blockWords (s : State) (addr : Nat) : Nat → BlockGot × State
  | 0 => (.words [], s)
  | k + 1 =>
    match s.blockWords addr k with
    | (.words l, s) =>
      let a := wordAddr addr k
      if inSram a then
        let r := s.memRead a
        (.words (l ++ [(r.1, r.2.1)]), r.2.2)
      else if inWindow a then
        match s.winWord (a - winBase) with
        | .inl ls => (.missing ls, s)
        | .inr r => (.words (l ++ [(r.1, r.2.1)]), r.2.2)
      else (.unmapped, s)
    | r => r

/-- A block writes a word at a Conductor address, into SRAM or by a page program. -/
def State.blockWrite (s : State) (a v : Nat) : State :=
  if inSram a then s.memWrite a v
  else if inWindow a then (s.xmpPost 255 (a - winBase) (beBytes 5 v)).2
  else s

/-! ## The job and the Ledger entry (R219, R240) -/

/-- STATUS.SEALING: a SEAL move is in flight (R248). -/
def State.sealShow (s : State) : State :=
  s.putB pINV INV.STATUS_SEALING (s.engs.any fun e => match e.prog with
    | .seal _ => true
    | .legacySeal _ => true
    | _ => false)

/-- Word 2 of the job written by the Board (R240). -/
def State.sealResult (s : State) (q : SealSt) (result : Nat) : State :=
  s.blockWrite (wordAddr q.job 2)
    (result * 2 ^ 32 + q.step * 2 ^ 28 + q.tstat * 2 ^ 24 + q.gen * 2 ^ 8 + q.moves)

/-- RESULT values (R240). -/
def seRUNNING : Nat := 1
def seDONE : Nat := 2
def sePENDING : Nat := 3
def seLOW_MARGIN : Nat := 4
def seREFUSED : Nat := 5
def seCONFLICT : Nat := 6
def seNOT_CAPABLE : Nat := 7
def seSENT : Nat := 8
def seUNKNOWN : Nat := 9

/-- The job's Ledger entry changed; one that is free or poisoned is left. -/
def State.sealEntry (s : State) (q : SealSt) (f : List Nat → List Nat) : State :=
  if s.ledgerOn && decide (q.entry < s.perPort) then
    let r := s.entry q.port q.entry
    if entFree r.1 then r.2 else r.2.putEntry q.port q.entry r.1 (f r.1)
  else s

/-- PENDING_SEAL and SEAL_STEP cleared. -/
def State.sealClear (s : State) (q : SealSt) : State :=
  s.sealEntry q fun e => entSet (entSet e 0 32 32 0) 6 23 20 0

/-- A SEAL move ends with its RESULT and status, an ordered end having its own. -/
def State.sealDone (s : State) (w : Nat) (q : SealSt) (result st : Nat) : State :=
  ((s.sealResult q result).engEnd w ((s.eng w).stop.getD st)).sealShow

/-- The field counts as lost at the step reached (R242): the write stays pending. -/
def State.sealLost (s : State) (w : Nat) (q : SealSt) (st : Nat) : State := s.sealDone w q sePENDING st

/-- Another generation (R242). -/
def State.sealConflict (s : State) (w : Nat) (q : SealSt) : State :=
  let s := (s.sealClear q).invRecord 6 q.port q.entry
  ((s.flag pINV INV.FLAG_SEAL_CONFLICT).recordErr pINV 6).sealDone w q seCONFLICT stCONFLICT

/-- The tag refused (R239, R241). -/
def State.sealRefused (s : State) (w : Nat) (q : SealSt) : State :=
  ((s.sealClear q).recordErr pINV 8).sealDone w q seREFUSED stREFUSED

/-- A margin failed (R241). -/
def State.sealLow (s : State) (w : Nat) (q : SealSt) : State :=
  ((s.sealClear q).recordErr pINV 9).sealDone w q seLOW_MARGIN stLOW_MARGIN

/-- Step 5 has passed (R241). -/
def State.sealPassed (s : State) (w : Nat) (q : SealSt) : State :=
  let s := (s.sealClear q).invRecord 5 q.port q.entry
  (s.flag pINV INV.FLAG_SEAL_DONE).sealDone w q seDONE stDONE

/-! ## The steps (R238, R241) -/

/-- The command of the step in hand. -/
def State.sealSend (s : State) (w : Nat) (q : SealSt) : State :=
  let s := s.withEng w fun e => { e with prog := .seal q }
  let gen := leBytes 2 q.gen
  let region := leBytes 3 q.addr ++ leBytes 2 q.len
  if q.step = 1 ∨ q.deciding = true ∨ (q.step = 5 ∧ q.reading = false) then s.laneSend w 0x44 false []
  else if q.step = 2 then s.laneSend w 0x48 false (region ++ gen ++ q.data)
  else if q.step = 3 then s.laneSend w 0x49 false []
  else if q.step = 4 then s.laneSend w 0x4A false (gen ++ leBytes 4 q.crc)
  else s.laneSend w 0x43 false region

/-- A step starts: SEAL_GEN and SEAL_STEP, at step 1 PENDING_SEAL, SEAL_JOB and the SEAL_PENDING record (R241). -/
def State.sealStep (s : State) (w : Nat) (q : SealSt) (step : Nat) : State :=
  let q := { q with step := step, tries := 0, reading := false, deciding := false }
  let s := s.sealEntry q fun e =>
    let e := entSet (entSet e 6 39 24 q.gen) 6 23 20 step
    if step = 1 then (entSet e 0 32 32 1).set 7 q.job else e
  let s := if step = 1 then (s.invRecord 4 q.port q.entry).flag pINV INV.FLAG_SEAL_PENDING else s
  (s.sealResult q seRUNNING).sealSend w q

/-- The reader field holds (R241, step 1). -/
def State.sealField (s : State) (w : Nat) : Bool :=
  let n := s.serving w
  !dbAbove (100 * s.txLevel n) (s.get (pTXC n) TXC.MON_FWD) (orDefault 1 (s.get pINV INV.SEAL_FIELD_TOL)) &&
    s.railReady n && !(s.tx n).limited

/-- What the tag's reply to STATUS says: MARGIN, SEAL_GEN and PEND (R201). -/
def tagMargin (b : List Nat) : Nat := nth b 0
def tagGen (b : List Nat) : Nat := nth b 1 + 256 * nth b 2
def tagPend (b : List Nat) : Nat := nth b 3

/-- The reply is one that the step awaits: a refusal, or a frame of the TYPE and LENGTH of R201 and R238. -/
def sealReplyOk (q : SealSt) (r : BlitzRes) : Bool :=
  r.good && (r.tstat != 0 ||
    (if q.step = 1 ∨ q.deciding = true ∨ (q.step = 5 ∧ q.reading = false) then r.typ == 0 && r.bytes.length == 4
     else if q.step = 2 ∨ q.step = 4 then r.typ == 2
     else if q.step = 3 then r.typ == 0 && r.bytes.length == 10
     else r.typ == 0 && r.bytes.length == q.len))

/-- The row for step 4 of R242: what STATUS says of a SEAL whose outcome is not known. -/
def State.sealDecide (s : State) (w : Nat) (q : SealSt) (b : List Nat) : State :=
  if tagGen b = (q.gen + 1) % 65536 ∧ tagPend b = 0 then s.sealStep w q 5
  else if tagGen b = q.gen ∧ tagPend b = 1 then s.sealStep w q 3
  else if tagGen b = q.gen ∧ tagPend b = 0 then s.sealStep w { q with resumed := true } 1
  else s.sealConflict w q

/-- A step's reply that is no refusal is judged (R241). -/
def State.sealJudge (s : State) (w : Nat) (q : SealSt) (b : List Nat) : State :=
  if q.deciding then s.sealDecide w q b
  else if q.step = 1 then
    if !s.sealField w || decide (tagMargin b < s.get pINV INV.SEAL_MIN_MARGIN) then s.sealLow w q
    else if (q.resumed || q.genCheck) && tagGen b != q.gen then s.sealConflict w q
    else s.sealStep w { q with gen := tagGen b } 2
  else if q.step = 2 then s.sealStep w q 3
  else if q.step = 3 then
    if b = leBytes 4 q.crc ++ leBytes 3 q.addr ++ leBytes 2 q.len ++ [1] then s.sealStep w q 4 else s.sealLost w q stPENDING
  else if q.step = 4 then s.sealStep w q 5
  else if q.reading then (if crc32c b = q.crc then s.sealPassed w q else s.sealLost w q stPENDING)
  else if tagGen b = (q.gen + 1) % 65536 ∧ tagPend b = 0 then s.sealSend w { q with reading := true }
  else s.sealLost w q stPENDING

/-- A reply, or none, to a Sealed write's command: retries, the STATUS after an unanswered SEAL, refusals (R239,
R241, R242). -/
def State.sealReply (s : State) (w : Nat) (q : SealSt) (r : BlitzRes) : State :=
  if (s.eng w).stop.isSome then s.sealLost w q stPENDING
  else
    let q := if r.good && r.tstat != 0 then { q with tstat := r.tstat } else q
    let n := s.get pINV INV.SEAL_RETRIES
    if !sealReplyOk q r then
      if q.tries < n then s.sealSend w { q with tries := q.tries + 1 }
      else if q.step = 4 ∧ q.deciding = false then s.sealSend w { q with deciding := true, tries := n }
      else s.sealLost w q stPENDING
    else if r.tstat != 0 && !(q.step == 4 && !q.deciding && r.tstat == 10) then s.sealRefused w q
    else s.sealJudge w q r.bytes

/-! ## LEGACY jobs (R245) -/

/-- The port's latest reply in the current field stands far enough above the noise. -/
def State.legacySnr (s : State) (w n : Nat) : Bool :=
  (s.tx (s.serving w)).heard &&
    decide (s.get (pRXC n) RXC.LEVEL_FRAME + 2 * s.get pINV INV.SEAL_LEG_SNR ≤ s.get (pRXC n) RXC.LEVEL_NOISE)

/-- The job's descriptor goes out once, as an XCHG; a poisoned data word stops the frame (R324). -/
def State.legacySend (s : State) (w : Nat) (q : SealSt) (ws : List Nat) (psn : Option Nat) : State :=
  let s := s.sealResult q seRUNNING
  match psn with
  | some _ => s.sealDone w q seUNKNOWN stPOISONED
  | none => s.sendFrame w { frameOf ws with expect := true }

/-- The answer to a LEGACY job: SENT on status OK, else UNKNOWN. -/
def State.legacyReply (s : State) (w job : Nat) (ok : Bool) : State :=
  let r := s.blockWords (wordAddr job 2) 1
  let w2 := match r.1 with
    | .words l => (l.headD (0, false)).1
    | _ => 0
  let s := r.2.blockWrite (wordAddr job 2) (setBits w2 39 32 (if ok then seSENT else seUNKNOWN))
  (s.engEnd w ((s.eng w).stop.getD (if ok then stSENT else stUNKNOWN))).sealShow

/-! ## The start of a SEAL move (R240–R242) -/

/-- A poisoned job word (R240). -/
def State.jobPoisoned (s : State) (u : Nat) : State := ((s.flag pINV INV.FLAG_POISON).recordErr pINV 4).endMove u stPOISONED

/-- A job that the Board refuses (R240). -/
def State.jobBad (s : State) (u : Nat) : State := (s.recordErr pINV 7).endMove u stBAD_PARAM

/-- Engine `w` and the Wing's primary role are taken for a user's Sealed write. -/
def State.sealTake (s : State) (w u : Nat) (p : Prog) : Option State × State :=
  let x := s.openRx w 0 none
  match x.2.1 with
  | some st => (none, x.2.2.endMove u st)
  | none =>
    let s := x.2.2.engStartRx w u p x.1
    (some ((s.laneBusy w true).sealShow), s)

/-- The steps of a Sealed write begin, or go on where an unfinished one of the same job stood (R241, R242). -/
def State.sealBegin (s : State) (w u : Nat) (q : SealSt) : State :=
  let r := if s.ledgerOn && decide (q.entry < s.perPort) then s.entry q.port q.entry else (List.replicate 8 0, s)
  let e := r.1
  let s := r.2
  if !(entInBlitz e && entSealCap e) || entFree e then (s.sealResult q seNOT_CAPABLE).endMove u stNOT_CAPABLE
  else
    let on := entSealPending e && nth e 7 == q.job
    let q := if on then { q with gen := bits (nth e 6) 39 24, resumed := true } else q
    let step := if on then bits (nth e 6) 23 20 else 1
    match s.sealTake w u (.seal q) with
    | (none, s) => s
    | (some s, _) =>
      if step = 5 then s.sealStep w q 5
      else if step = 4 then
        let q := { q with step := 4, deciding := true }
        (s.sealResult q seRUNNING).sealSend w q
      else s.sealStep w q 1

/-- A LEGACY job begins: its descriptor's checks (R158), the field and level checks, then its frame (R245). -/
def State.legacyBegin (s : State) (w u : Nat) (q : SealSt) (ws : List Nat) (psn : Option Nat) : State :=
  if psn.any (· < 4) then s.endMove u stPOISONED
  else
    match s.sealTake w u (.legacySeal q.job) with
    | (none, s) => s
    | (some s, _) =>
      if (s.eng w).dBad ws then (((s.flag pPRT PRT.FLAG_BAD_MOVE).recordErr pPRT 3).engEnd w stBAD_PARAM).sealShow
      else if s.sealField w && s.legacySnr w (s.eng w).chain then s.legacySend w q ws psn
      else (s.recordErr pINV 9).sealDone w q seLOW_MARGIN stLOW_MARGIN

/-- A SEAL move starts on engine `w` for a user; `again` runs once missing window lines have come. -/
def State.sealLaunch (s : State) (w u job : Nat) (again : Instr) : State :=
  match s.blockWords job 3 with
  | (.unmapped, s) => s.endMove u stBAD_ADDRESS
  | (.missing ls, s) => s.xmpWait ls again
  | (.words h, s) =>
    let word := fun k => (h.getD k (0, false)).1
    let len := bits (word 0) 15 4
    let legacy := bitAt (word 0) 0
    if h.any Prod.snd then s.jobPoisoned u
    else if !legacy && (len == 0 || decide (256 < len)) then s.jobBad u
    else
      match s.blockWords (wordAddr job 3) (if legacy then 1 else ceilDiv len 5) with
      | (.unmapped, s) => s.endMove u stBAD_ADDRESS
      | (.missing ls, s) => s.xmpWait ls again
      | (.words d, s) =>
        let data := (bytesOf (d.map Prod.fst)).take len
        let q : SealSt := {
          port := s.txPort (s.serving w), entry := bits (word 0) 3 2, job := job, addr := bits (word 0) 39 16, len := len,
          crc := bits (word 1) 39 8, gen := bits (word 2) 23 8, genCheck := bitAt (word 0) 1, data := data, step := 1,
          tries := 0, reading := false, deciding := false, tstat := bits (word 2) 27 24, resumed := false,
          moves := satInc 255 (word 2 % 256) }
        if d.any Prod.snd then s.jobPoisoned u
        else if legacy then
          let a := (d.headD (0, false)).1
          if 12 ≤ u then s.jobBad u
          else match s.gather u a again 2 with
            | (.unmapped, s) => s.endMove u stBAD_ADDRESS
            | (.wait, s) => s
            | (.all, s) =>
              match s.gather u a again (dWords (s.ctx u).words) with
              | (.unmapped, s) => s.endMove u stBAD_ADDRESS
              | (.wait, s) => s
              | (.all, s) => s.legacyBegin w u q (s.ctx u).words (s.ctx u).psn
        else if crc32c data ≠ q.crc then s.jobBad u
        else s.sealBegin w u q

end Sys2Proof.Machine
end

