-- ==== Sys2Proof/Machine/Inv.lean ====
section
/-! DEFINITION. Inventory passes (R223–R229, R243, R247): the plan, rounds by slot, token or back to back, CONFIRM, PROBE and
discovery on each Wing, the merge into the Ledger, the resumption of Sealed writes. -/

namespace Sys2Proof.Machine

open Sys2Proof

def State.withInv (s : State) (f : Inv → Inv) : State := { s with inv := f s.inv }

def State.invWing (s : State) (w : Nat) : InvWing := s.inv.wings.getD w InvWing.reset

def State.withWing (s : State) (w : Nat) (f : InvWing → InvWing) : State :=
  s.withInv fun i => { i with wings := i.wings.set w (f (s.invWing w)) }

/-- The inventory uses a Wing. -/
def State.invHolds (s : State) (w : Nat) : Bool := (s.invWing w).phase != 0

/-- STATUS.STATE: 0 IDLE, 1 ARMED, 2 TIMED, 3 DISCOVERY, 4 STOPPING. -/
def State.invState (s : State) : Nat := s.get pINV INV.STATUS_STATE

def State.setInvState (s : State) (st : Nat) : State :=
  (s.put pINV INV.STATUS_STATE st).putB pINV INV.STATUS_BUSY (st != 0)

/-! ## The queue (R227) -/

/-- A port is queued for discovery. -/
def State.queued (s : State) (p : Nat) : Bool := s.bitOf pINV (INV.QUEUE_PORTS (p / 40)) (p % 40)

def State.setQueued (s : State) (p : Nat) (b : Bool) : State :=
  let f : Fld := INV.QUEUE_PORTS (p / 40)
  s.putHw pINV ⟨f.off, f.lo + p % 40, f.lo + p % 40⟩ (b2n b)

/-- Some port is queued. -/
def State.anyQueued (s : State) : Bool := (List.range 5).any fun i => s.get pINV (INV.QUEUE i) != 0

/-! ## The plan (R224) -/

/-- The rounds of a pass. -/
def State.rounds (s : State) : Nat := orDefault 256 (s.get pINV INV.SCHED_ROUNDS)

/-- The two words of round `r` of the plan read. -/
def State.planRound (s : State) (r : Nat) : (Nat × Bool) × (Nat × Bool) :=
  (s.inv.plan.getD (2 * r) (0, false), s.inv.plan.getD (2 * r + 1) (0, false))

/-- A poisoned plan word leaves the round's Wings idle (R324). -/
def State.planBad (s : State) (r : Nat) : Bool := (s.planRound r).1.2 || (s.planRound r).2.2

/-- The port that round `r` names for Wing `w`; 255 none. -/
def State.planPort (s : State) (r w : Nat) : Nat :=
  let x := s.planRound r
  if s.planBad r then 255 else if w < 5 then x.1.1 / 2 ^ (32 - 8 * w) % 256 else x.2.1 / 2 ^ (32 - 8 * (w - 5)) % 256

/-- LAST of round `r`. -/
def State.planLast (s : State) (r : Nat) : Bool := !s.planBad r && bitAt (s.planRound r).2.1 15

/-- The protocols of round `r`, in the order A, B, ISO/IEC 15693. -/
def State.planProtos (s : State) (r : Nat) : List Nat :=
  [1, 2, 3].filter fun k => bitAt (s.planRound r).2.1 (11 + k)

/-- The rounds that the plan read holds. -/
def State.planLen (s : State) : Nat := s.inv.plan.length / 2

/-- The plan read up to `n` rounds, or to the round marked LAST. -/
def State.readPlan (s : State) : Nat → BlockGot × State
  | 0 => (.words [], s)
  | k + 1 =>
    match s.readPlan k with
    | (.words _, s) =>
      if s.planLen ≠ k ∨ (0 < k ∧ s.planLast (k - 1) = true) then (.words [], s)
      else match s.blockWords (wordAddr (s.get pINV INV.PLAN_BASE_ADDR) (2 * k)) 2 with
        | (.words l, s) => (.words [], s.withInv fun i => { i with plan := i.plan ++ l })
        | r => r
    | r => r

/-- Every port of the plan lies in its Wing (R224). -/
def State.planOk (s : State) : Bool :=
  (List.range s.planLen).all fun r => (List.range 8).all fun w =>
    s.planPort r w == 255 || s.planPort r w / 24 == w

/-! ## Slots (R225) -/

def State.nslots (s : State) : Nat := orDefault 16 (s.get pINV INV.SCHED_NSLOTS)
def State.slotSpan (s : State) : Nat := orDefault 1 (s.get pINV INV.SCHED_SPAN)
def State.slotPhase (s : State) (j : Nat) : Nat := s.get pINV (INV.SLOT_PHASE j) * 65536
def State.schedMode (s : State) : Nat := s.get pINV INV.SCHED_MODE

/-- The slots of a cycle rise strictly. -/
def State.slotsRise (s : State) : Bool := (List.range (s.nslots - 1)).all fun j => decide (s.slotPhase j < s.slotPhase (j + 1))

/-- The cycle of slot 0. -/
def State.firstCycle (s : State) : Nat :=
  let a := s.get pINV INV.START_ANGLE_ANGLE
  (a / 2 ^ 32 + (if a % 2 ^ 32 ≤ s.slotPhase 0 then 0 else 1)) % 256

/-- The comparator armed for round `r` of pass `n` (R56). -/
def State.armSlot (s : State) (n r : Nat) : State :=
  let k := (n * s.rounds + r) * s.slotSpan
  let q := k / s.nslots
  let s := s.withInv fun i => { i with cyc := q }
  s.arm .round ((s.inv.c0 + q) % 256 * 2 ^ 32 + s.slotPhase (k % s.nslots))

/-- The index of the next slot at the angle now standing. -/
def State.nextSlot (s : State) : Nat :=
  let d := s.inv.cyc + (s.angle / 2 ^ 32 + 512 - s.inv.c0 - s.inv.cyc % 256) % 256
  match (List.range s.nslots).find? fun j => s.angle % 2 ^ 32 ≤ s.slotPhase j with
  | some j => d * s.nslots + j
  | none => (d + 1) * s.nslots

/-! ## Passes -/

/-- A timed pass waits for its first round, or a discovery pass begins (R225, R227).  `next` says that a round's launch is
at hand. -/
def State.armPass (s : State) (n : Nat) (next : Bool) : State :=
  let s := (s.withInv fun i => { i with disc := false, pass := n, round := 0, ending := false }).setInvState 1
  if next then s.sched 0 (.roundLaunch false)
  else if s.schedMode = 0 then s.armSlot n 0
  else if s.schedMode = 1 then s
  else s.sched s.toCarrier (.roundLaunch false)

/-- A discovery pass (R227). -/
def State.armDisc (s : State) : State :=
  let s := (s.disarm .round).withInv fun i => { i with disc := true, round := 0, ending := false }
  (s.setInvState 3).sched s.toCarrier (.roundLaunch false)

/-- A start of a pass is refused (R229). -/
def State.invRefuse (s : State) : Option Bool × State := (some false, (s.withInv fun i => { i with wantHop := 0 }).recordErr pINV 7)

/-- A pass is started by INV.CMD, an INVENTORY move or a task: taken, refused with code 0x07, or none while the plan's
window lines are fetched (R218, R224, R225, R227, R229). -/
def State.invBegin (s : State) (disc : Bool) (ctx : Option Nat) (hop : Nat) (again : Instr) : Option Bool × State :=
  let mode := s.schedMode
  if s.invState ≠ 0 ∨ s.enabled pINV = false ∨ s.inv.oos = true ∨ s.ledgerFits = false ∨ (disc = false ∧ mode = 3) ∨
      (disc = false ∧ mode = 0 ∧ s.slotsRise = false) then
    (s.withInv fun i => if s.invState = 0 then { i with plan := [] } else i).invRefuse
  else
    match s.readPlan s.rounds with
    | (.missing ls, s) => (none, (s.withInv fun i => { i with wantHop := hop }).xmpWait ls again)
    | (.unmapped, s) => (s.withInv fun i => { i with plan := [] }).invRefuse
    | (.words _, s) =>
      if s.planOk then
        let c0 := s.firstCycle
        let s := s.withInv fun i => { i with ctx := ctx, hop := hop, resume := false, c0 := c0, cyc := 0, wantHop := 0 }
        (some true, if disc then s.armDisc else s.armPass 0 false)
      else (s.withInv fun i => { i with plan := [] }).invRefuse

/-- INV_START: INV.CMD.START (R225). -/
def effInvStart (s : State) : State := if s.coreRuns then (s.invBegin false none s.inv.wantHop .invStart).2 else s

/-- INV_DISCOVER: INV.CMD.DISCOVER (R227). -/
def effInvDiscover (s : State) : State := if s.coreRuns then (s.invBegin true none s.inv.wantHop .invDiscover).2 else s

/-- The pass is over once no round is in flight. -/
def State.endPass (s : State) : State := (s.withInv fun i => { i with ending := true }).sched 0 .passEnd

/-- A pass ends after the round in flight (R229). -/
def State.invStop (s : State) : State :=
  if s.invState = 0 then s
  else
    let s := (s.setInvState 4).disarm .round
    if s.inv.inRound then s else (s.unsched (.roundLaunch false)).endPass

/-- INV_STOP: INV.CMD.STOP (R229). -/
def effInvStop (s : State) : State := if s.coreRuns then s.invStop else s

/-! ## One Wing of a round -/

/-- Other rounds follow the one in flight at a launch of their own, which cuts it (R226). -/
def State.followed (s : State) : Bool :=
  !s.inv.disc && decide (s.schedMode ≠ 2) && s.invState != 4 &&
    (s.bit pINV INV.SCHED_REPEAT || decide (s.inv.round < s.planLen))

/-- The field of a Wing ramps down (R223, R226, R229). -/
def State.invOff (s : State) (w st : Nat) : State :=
  let n := s.serving w
  let s := s.withWing w fun i => { i with phase := 4 }
  let s := s.withTx n fun t => { t with offBy := s.inv.hop }
  if (s.tx n).ctx = some (32 + w) then
    if s.lit n then (s.withTx n fun t => { t with act := 0, ctx := none, fired := false }).rampDown n st
    else s.withTx n (fun t => { t with ctx := none }) |>.dropArmed n st
  else s.rampDown n st

/-- The engine's work for the inventory is dropped: a Sealed write stays pending (R226, R242). -/
def State.invDrop (s : State) (w : Nat) : State :=
  if (s.eng w).user = some (32 + w) then
    let s := match (s.eng w).prog with
      | .seal q => s.sealResult q sePENDING
      | _ => s
    let s := (s.frameCut w).unsched (.replyWaitEnd w)
    let s := s.withEng w fun e => { e with user := none, prog := .idle, await := 0, waitAt := none, dest := none, stop := none }
    (((s.engBusy w false).laneBusy w false).rxFree (32 + w)).sealShow
  else s

/-- A cut procedure counted (R226). -/
def State.cutCount (s : State) (count : Bool) : State :=
  s.when count fun s => ((s.inc pINV INV.COUNT1_CUT).flag pINV INV.FLAG_CUT).recordErr pINV 2

/-- A procedure that still runs is cut (R226, R229). -/
def State.invCut (s : State) (w st : Nat) (count : Bool) : State :=
  let i := s.invWing w
  if i.phase = 0 ∨ i.phase = 4 then s
  else
    ((s.cutCount count).invDrop w).invOff w st

/-- A procedure that still runs is cut by the page's disable: a frame in flight, or a reply that has begun, first comes to its end (R229). -/
def State.invCutLate (s : State) (w st : Nat) (count : Bool) : State :=
  let e := s.eng w
  let i := s.invWing w
  if e.user = some (32 + w) ∧ (i.phase = 2 ∨ i.phase = 3) ∧
      (e.flying = true ∨ (e.await ≠ 0 ∧ ((s.rx e.chain).begun = true ∨ s.rxState e.chain = 2))) then
    (s.cutCount count).withEng w fun x => { x with stop := some st }
  else s.invCut w st count

/-- A round ends (R226). -/
def State.endRound (s : State) : State :=
  let s := s.withInv fun i => { i with inRound := false }
  let last := s.invState == 4 || (if s.inv.disc then false else decide (s.planLen ≤ s.inv.round))
  let s := (s.flag pINV INV.FLAG_ROUND_END).present 117 s.inv.hop
  if last then s.endPass
  else if s.inv.disc || s.schedMode == 2 then s.sched (16 - s.now % 16) (.roundLaunch false)
  else s

/-- With every Wing's field off, a round that no launch follows ends (R225–R227). -/
def State.roundDone (s : State) : State :=
  if s.inv.inRound && !s.followed && s.inv.wings.all (fun i => i.phase == 0) then s.endRound else s

/-- A Wing's field is off: its claim is released (R259). -/
def State.invSettle (s : State) (w : Nat) : State :=
  if (s.invWing w).phase = 4 ∧ s.fieldSt (s.serving w) = 0 ∧ (s.tx (s.serving w)).ctx ≠ some (32 + w) then
    let s := s.withWing w fun _ => InvWing.reset
    let s := if s.inv.ctx.any fun c => s.owner w == c && s.moveWing c != some w then s.releaseWing w
      else s.sched 0 (.wingClaimGrant w)
    s.roundDone
  else s

/-- Wings whose fields are off are settled. -/
def State.invSettleAll (s : State) : State := s.forEach (List.range 8) State.invSettle

/-- Engine and receive chain of a Wing are taken for the inventory; none when a block is disabled, out of service or has no
chain for the role. -/
def State.invTake (s : State) (w : Nat) (p : Prog) : Option State :=
  if !s.enabled pPRT || s.engOut w || (s.eng w).user.isSome then none
  else
    let x := s.openRx w 0 none
    match x.2.1 with
    | some _ => none
    | none => some (x.2.2.engStartRx w (32 + w) p x.1)

/-! ## CONFIRM and PROBE (R223) -/

/-- Level 1 of a UID as ANTICOLL carries it: the cascade tag leads a longer UID. -/
def uidLevel1 (uid : List Nat) : List Nat := if uid.length ≤ 4 then uid.take 4 else 0x88 :: uid.take 3

/-- The first frame of a CONFIRM or PROBE for a protocol. -/
def Eng.probeFrame (e : Eng) (proto len mask : Nat) : TxFrame :=
  if proto = 1 then e.reqaFrame true
  else if proto = 2 then e.reqbFrame true 0
  else e.inventoryFrame true len mask

/-- MISSES of a port's entries raised by one, to ABSENT with a LEFT record at the limit (R220, R223, R227). -/
def State.missEntries (s : State) (p : Nat) (l : List Nat) (count : Bool) : State :=
  s.forEach l fun s i =>
    let r := s.entry p i
    let s := r.2
    if entFree r.1 then s
    else
      let m := satInc 15 (entMisses r.1)
      let s := s.when count fun s => s.inc pINV INV.COUNT1_MISSED
      let gone := decide (orDefault 1 (s.get pINV INV.CFG_MISS_LIMIT) ≤ m)
      let e := entSet r.1 0 10 7 m
      let s := s.putEntry p i r.1 (if gone then entSet e 0 35 33 0 else e)
      s.when gone fun s => s.invRecord 2 p i

/-- The next frame of a CONFIRM or PROBE, or its end: the unconfirmed entries are missed and the field goes off; none after an ordered
end (R229). -/
def State.invNext (s : State) (w : Nat) : State :=
  let i := s.invWing w
  if (s.eng w).stop.isSome then s.engEnd w ((s.eng w).stop.getD stDONE)
  else match i.todo with
    | [] =>
      let s := if i.confirm then s.missEntries i.port
          ((List.range s.perPort).filter fun k => !i.ok.contains k && i.seals.contains k) true else s
      (s.withWing w fun x => { x with phase := 4 }).engEnd w stDONE
    | k :: rest =>
      let s := s.withWing w fun x => { x with todo := rest, cur := k, sub := 0, heard := false }
      if i.confirm then
        let r := s.entry i.port k
        if entFree r.1 then r.2.sendFrame w ((s.eng w).probeFrame 1 0 0)
        else
          let uid := entUid r.1
          r.2.sendFrame w ((s.eng w).probeFrame (entProto r.1) 60 (beNat uid.reverse % 2 ^ 60))
      else s.sendFrame w ((s.eng w).probeFrame k 0 0)

/-- The tag of an entry has answered (R220, R223, R243). -/
def State.confirmed (s : State) (p k : Nat) (r : RxRes) : State :=
  let x := s.entry p k
  let s := x.2
  if entFree x.1 then s
  else
    let e := entSet (entSet x.1 0 35 33 2) 0 10 7 0
    let e := entSet (entSet e 3 15 8 r.level) 3 7 0 (s.get pINV INV.COUNT2_PASSES)
    let s := s.putEntry p k x.1 (e.set 4 r.angle)
    if entSealPending e && s.bit pINV INV.CFG_SEAL_AUTO then s.setQueued p true else s

/-- The reply matches an entry: the BCC of level 1, the PUPI or the UID (R223). -/
def confirms (e : List Nat) (r : RxRes) : Bool :=
  let uid := entUid e
  if entProto e = 1 then r.good && r.bits.length == 8 && r.bytes == [bccOf (uidLevel1 uid)]
  else if entProto e = 2 then isAtqb r && (r.bytes.drop 1).take 4 == uid
  else r.good && r.bytes.length == 10 && (r.bytes.drop 2).take 8 == uid

/-- A reply, or none, in a CONFIRM or PROBE. -/
def State.invReply (s : State) (w : Nat) (r : RxRes) : State :=
  let i := s.invWing w
  let heard := i.heard || r.started
  if i.confirm then
    let x := s.entry i.port i.cur
    let s := x.2
    if entProto x.1 = 1 ∧ i.sub = 0 ∧ (s.eng w).stop = none then
      let s := s.withWing w fun y => { y with sub := 1, heard := heard }
      s.sendFrame w ((s.eng w).anticollFrame 1 (unpackBits (uidLevel1 (entUid x.1))))
    else if !entFree x.1 && confirms x.1 r then
      ((s.withWing w fun y => { y with ok := i.cur :: y.ok }).confirmed i.port i.cur r).invNext w
    else (s.when heard fun s => s.setQueued i.port true).invNext w
  else (s.when r.started fun s => s.setQueued i.port true).invNext w

/-! ## Discovery (R227) -/

/-- The next protocol's ANTICOLL on a Wing. -/
def State.discNext (s : State) (w : Nat) : State :=
  let i := s.invWing w
  let area := s.get pINV INV.SCRATCH_BASE_ADDR + 32 * w
  match i.todo with
  | [] => s
  | k :: rest =>
    let s := s.withWing w fun x => { x with todo := rest, cur := k }
    match s.invTake w .idle with
    | some t =>
      if sramLast < area + 31 then t.engEnd w stBAD_ADDRESS
      else t.acBegin w { proto := k, wake := true, hold := false, quiet := false, maskLen := 0, mask := 0, result := area } 8
    | none => s.invOff w stDONE

/-- One result of discovery merged into the port's entries (R220, R227). -/
def State.mergeOne (s : State) (w : Nat) (ws : List Nat) : State :=
  let i := s.invWing w
  let p := i.port
  let r0 := nth ws 0
  let got := (List.range s.perPort).foldl (fun (a : List (List Nat) × State) k =>
    let x := a.2.entry p k
    (a.1 ++ [x.1], x.2)) ([], s)
  let s := got.2
  let word3 := bits r0 31 8 * 2 ^ 16 + r0 % 256 * 256 + s.get pINV INV.COUNT2_PASSES % 256
  let hit := (List.range s.perPort).find? fun k =>
    let e := got.1.getD k []
    !entFree e && entProto e == bits r0 39 36 && nth e 1 == nth ws 1 && nth e 2 == nth ws 2
  let free := (List.range s.perPort).find? fun k => entFree (got.1.getD k [])
  match hit, free with
  | some k, _ =>
    let e := got.1.getD k []
    let s := s.putEntry p k e (((entSet (entSet e 0 35 33 2) 0 10 7 0).set 3 word3).set 4 (nth ws 3))
    s.withWing w fun x => { x with ok := k :: x.ok }
  | none, some k =>
    let e := [bits r0 39 36 * 2 ^ 36 + 2 * 2 ^ 33 + bits r0 35 32 * 2 ^ 25 + s.cpn p % 2 ^ 14 * 2 ^ 11, nth ws 1, nth ws 2,
      word3, nth ws 3, 0, 0, 0]
    let s := s.forEach (List.range 8) fun s j => s.memWrite (s.entryAddr p k + j) (nth e j)
    (s.withWing w fun x => { x with ok := k :: x.ok }).invRecord 1 p k
  | none, none => ((s.flag pINV INV.FLAG_LEDGER_FULL).recordErr pINV 3).invRecord 7 p 0

/-- The results of an ANTICOLL of discovery are merged. -/
def State.merge (s : State) (w : Nat) : State :=
  let a := s.get pINV INV.SCRATCH_BASE_ADDR + 32 * w
  s.forEach (List.range (Nat.min 8 (s.get pPRT (PRT.ENG_STAT_TAGS w)))) fun s k =>
    let m := s.memReads (a + 4 * k) 4
    m.2.2.mergeOne w m.1

/-- The matched entries of a port whose Sealed write is unfinished (R243). -/
def State.pendingSeals (s : State) (w : Nat) : List Nat × State :=
  let i := s.invWing w
  (List.range s.perPort).foldl (fun (a : List Nat × State) k =>
    let x := a.2.entry i.port k
    if i.ok.contains k && !entFree x.1 && entSealPending x.1 && entProto x.1 == 1 then (a.1 ++ [k], x.2) else (a.1, x.2)) ([], s)

/-! ## The resumption of Sealed writes (R243) -/

/-- The levels of a UID as SELECT carries them. -/
def uidLevels (uid : List Nat) : List (List Nat) :=
  if uid.length ≤ 4 then [uid]
  else if uid.length ≤ 7 then [0x88 :: uid.take 3, uid.drop 3]
  else [0x88 :: uid.take 3, 0x88 :: (uid.drop 3).take 3, uid.drop 6]

/-- The next entry whose Sealed write is resumed: its tag is woken, or the field goes off. -/
def State.sealNext (s : State) (w : Nat) : State :=
  let i := s.invWing w
  match i.seals with
  | [] => s.invOff w stDONE
  | k :: rest =>
    let x := s.entry i.port k
    let s := x.2.withWing w fun y => { y with phase := 3, seals := rest, cur := k, sub := 0 }
    match s.invTake w (.rewake (uidLevels (entUid x.1)) false) with
    | some t => t.sendFrame w ((t.eng w).reqaFrame true)
    | none => s.invOff w stDONE

/-- A reply while a tag is selected again. -/
def State.rewakeReply (s : State) (w : Nat) (levels : List (List Nat)) (selecting : Bool) (r : RxRes) : State :=
  let e := s.eng w
  let level := fun (l : List (List Nat)) => (uidLevels (entUid (s.entry (s.invWing w).port (s.invWing w).cur).1)).length - l.length + 1
  let send := fun (s : State) (l : List (List Nat)) =>
    (s.withEng w fun x => { x with prog := .rewake l true }).sendFrame w (e.selectFrame (level l) (l.headD []))
  if e.stop.isSome then s.engEnd w (e.stop.getD stFAIL)
  else if !selecting then (if r.started then send s levels else s.engEnd w stFAIL)
  else match sakOf r with
    | none => s.engEnd w stFAIL
    | some _ =>
      match levels.drop 1 with
      | [] =>
        let x := s.entry e.port (s.invWing w).cur
        let s := if entFree x.1 then x.2 else x.2.putEntry e.port (s.invWing w).cur x.1 (entSet x.1 0 35 33 3)
        s.engEnd w stDONE
      | l => send s l

/-- A step of a resumption has ended with a status: GAMBIT follows the selection, the SEAL move the Gambit. -/
def State.resumeStep (s : State) (w st : Nat) : State :=
  let i := s.invWing w
  if st = stDONE ∧ i.sub = 0 ∧ (s.enabled pBLZ = false ∨ s.bitOf pBLZ BLZ.STATUS_OOS w = true) then s.sealNext w
  else if st = stDONE ∧ i.sub = 0 then
    let s := s.withWing w fun y => { y with sub := 1 }
    match s.invTake w .idle with
    | some t => (t.laneBusy w true).gambitBegin w false
    | none => s.invOff w stDONE
  else if st = stDONE ∧ i.sub = 1 then
    let s := s.withWing w fun y => { y with sub := 2 }
    let x := s.entry i.port i.cur
    x.2.sealLaunch w (32 + w) (nth x.1 7) (.seal (32 + w) { wing := w, when_ := 0, late := 0, t := 0 } (nth x.1 7))
  else s.sealNext w

/-! ## Continuations -/

/-- The field of a Wing is on and settled: its procedure begins (R223, R226, R227). -/
def State.invProc (s : State) (w : Nat) : State :=
  let i := s.invWing w
  let s := s.withWing w fun x => { x with phase := 2 }
  if s.inv.disc then (if i.todo.isEmpty then s.invOff w stDONE else s.discNext w)
  else match s.invTake w (if i.confirm then .confirm else .probe) with
    | some t => t.invNext w
    | none => s.invOff w stDONE

/-- What the inventory began on a Wing has ended with a status: its field-on, its procedure, or a step of a resumption. -/
def State.invOwn (s : State) (w st : Nat) : State :=
  let i := s.invWing w
  if i.phase = 1 then (if st = stDONE then s.invProc w else s.withWing w fun x => { x with phase := 4 })
  else if i.phase = 2 ∧ s.inv.disc = true then
    let s := s.merge w
    if st ≠ stDONE ∧ st ≠ stMORE then s.invOff w stDONE
    else if i.todo.isEmpty then
      let s := s.setQueued i.port false
      let s := s.missEntries i.port ((List.range s.perPort).filter fun k => !(s.invWing w).ok.contains k) false
      let x := if s.bit pINV INV.CFG_SEAL_AUTO then s.pendingSeals w else ([], s)
      (x.2.withWing w fun y => { y with seals := x.1 }).sealNext w
    else s.discNext w
  else if i.phase = 3 then (if st = stDISABLED then s.invOff w st else s.resumeStep w st)
  else if i.phase = 2 ∨ (i.phase = 4 ∧ s.lit (s.serving w) = true ∧ s.fieldSt (s.serving w) ≠ 5) then s.invOff w stDONE
  else s

/-! ## ROUND_LAUNCH and PASS_END -/

/-- The Ledger entries of a port that are not free. -/
def State.usedEntries (s : State) (p : Nat) : List Nat × State :=
  if s.ledgerOn then
    (List.range s.perPort).foldl (fun (a : List Nat × State) k =>
      let x := a.2.entry p k
      (if entFree x.1 then a.1 else a.1 ++ [k], x.2)) ([], s)
  else ([], s)

/-- A Wing's part of a round: its claim, its procedure and its field-on (R223, R226, R227, R259). -/
def State.launchWing (s : State) (r w : Nat) : State :=
  let p := s.planPort r w
  if p = 255 ∨ (s.inv.disc = true ∧ s.queued p = false) ∨ s.invHolds w = true then s
  else if (s.owner w ≠ 15 ∧ s.inv.ctx ≠ some (s.owner w)) ∨ s.calHolds w = true then s
  else
    let s := match s.inv.ctx with
      | some c => s.setOwner w c
      | none => s
    let x := if s.inv.disc then ([], s) else s.usedEntries p
    let confirm := !x.1.isEmpty
    let s := x.2.withWing w fun _ => { InvWing.reset with
      port := p, phase := 1, confirm := confirm, todo := if confirm then x.1 else s.planProtos r,
      seals := if confirm then x.1 else [] }
    let s := s.armField (32 + w) w false p
    if (s.tx (s.serving w)).ctx = some (32 + w) then s.fireField (s.serving w)
    else s.withWing w fun x => { x with phase := 4 }

/-- The next round that the pass runs: a discovery pass passes over rounds that name no queued port (R227). -/
def State.roundFrom (s : State) : Option Nat :=
  (List.range s.planLen).find? fun r => decide (s.inv.round ≤ r) &&
    (!s.inv.disc || s.planBad r || (List.range 8).any fun w => s.planPort r w != 255 && s.queued (s.planPort r w))

/-- Round `r` launches. -/
def State.launchRound (s : State) (r : Nat) : State :=
  let s := (s.put pINV INV.STATUS_ROUND r).setInvState (if s.inv.disc then 3 else 2)
  let s := s.withInv fun i => { i with inRound := true, round := r + 1 }
  let s := s.when (s.planBad r) fun s => (((s.flag pINV INV.FLAG_POISON).recordErr pINV 4).invRecord 8 0 0)
  let s := s.forEach (List.range 8) fun s w => s.launchWing r w
  let s := if s.inv.disc = false ∧ s.schedMode = 0 ∧ s.followed = true then
      (if r + 1 < s.planLen then s.armSlot s.inv.pass (r + 1) else s.armSlot (s.inv.pass + 1) 0) else s
  s.invSettleAll.roundDone

/-- ROUND_LAUNCH: the comparator of the round's slot has fired, its token has, or the round before has ended: the round in
flight is cut and the next one launches (R225, R226). -/
def effRoundLaunch (_late : Bool) (s : State) : State :=
  if s.coreRuns && s.enabled pINV && (s.invState == 1 || s.invState == 2 || s.invState == 3) && !s.inv.ending then
    if s.inv.inRound then
      if s.followed then
        let s := s.forEach (List.range 8) fun s w => s.invCut w stDONE true
        let s := s.endRound
        if s.inv.ending then s else match s.roundFrom with
          | some r => s.launchRound r
          | none => s.endPass
      else s
    else match s.roundFrom with
      | some r => s.launchRound r
      | none => s.endPass
  else s

/-- The pass is over: its count, flag, event, and the move that waits for it (R225, R229, R262). -/
def State.passOver (s : State) (st : Nat) : State :=
  let s := s.when (!s.inv.disc) fun s => (s.incMod pINV INV.COUNT2_PASSES).telCount 2
  let s := (s.flag pINV INV.FLAG_PASS_END).present 118 s.inv.hop
  let l := s.inv.waits
  (s.withInv fun i => { i with waits := [], ending := false, inRound := false }).forEach l fun s c => s.endMove c st

/-- The scheduler is idle again. -/
def State.invIdle (s : State) : State :=
  ((s.disarm .round).withInv fun i => { i with plan := [], disc := false, resume := false }).setInvState 0

/-- PASS_END: the pass ends; a discovery pass, the next timed pass or none follows (R225, R227, R229). -/
def effPassEnd (s : State) : State :=
  if s.coreRuns && s.invState != 0 && s.inv.ending && !s.inv.inRound then
    let stop := s.invState == 4
    let disc := s.inv.disc
    let resume := s.inv.resume
    let rep := s.bit pINV INV.SCHED_REPEAT
    let s := s.passOver stDONE
    if stop then s.invIdle
    else if !disc && s.bit pINV INV.CFG_AUTO_DISC && s.anyQueued then
      (s.withInv fun i => { i with resume := rep }).armDisc
    else if disc && resume then
      let per := s.rounds * s.slotSpan
      s.armPass (ceilDiv s.nextSlot per) false
    else if !disc && rep then s.armPass (s.inv.pass + 1) (s.schedMode != 2)
    else s.invIdle
  else s

/-- A pass is broken off with a status: its procedures are cut and its fields ramp down as for DISABLED (R229, R247). -/
def State.invAbandon (s : State) (st : Nat) (count : Bool) : State :=
  if s.invState = 0 then s.withInv fun i => { i with plan := [] }
  else
    let s := s.forEach (List.range 8) fun s w => s.invCutLate w stDISABLED count
    ((s.unsched (.roundLaunch false)).passOver st).invIdle

/-- INV_SCHED_MISMATCH: FAULT.SCHED, the fields of the round ramp down and the pass ends FAULTED; a third within 10 ms takes
INV out of service (R247, R411). -/
def effInvSchedMismatch (s : State) : State :=
  if s.coreRuns && s.enabled pINV then
    let m := recent10ms s.now s.inv.mism
    let s := s.withInv fun i => { i with mism := m }
    let s := s.setFault pINV 1 1 { cls := 2, action := 1, interrupt := 1 }
    let s := if 3 ≤ m.length then
        (s.withInv fun i => { i with oos := true }).reportFault pINV 1 { cls := 0x0D, action := 3 } else s
    s.invAbandon stFAULTED false
  else s

/-- PEND_HANDOFF: on the first edge after a wake with INV enabled, each change held in KBZ.PEND is queued and recorded, in
ascending port order (R236). -/
def effPendHandoff (s : State) : State :=
  if s.coreRuns && s.enabled pINV then
    let ports := (List.range 192).filter fun p => s.bitOf pKBZ (KBZ.PEND_PORTS (p / 40)) (p % 40)
    s.forEach ports fun s p =>
      let s := if s.bit pINV INV.CFG_KBZ_DISC then s.setQueued p true else s
      (s.invRecord 3 p 0).putBit pKBZ (KBZ.PEND_PORTS (p / 40)) (p % 40) false
  else s

end Sys2Proof.Machine
end

