-- ==== Sys2Proof/Machine/Kbz.lean ====
section
/-! DEFINITION. Kibitz (R231–R237, R246, R247): sweeps, pings judged against the baselines, confirmed changes. -/

namespace Sys2Proof.Machine

open Sys2Proof

def State.withKbz (s : State) (f : Kbz → Kbz) : State := { s with kbz := f s.kbz }

/-- The scheduler runs in DOZE on what the Board kept at its entry (R232, R390). -/
def State.dozing (s : State) : Bool := s.mode == 2 && !s.pwr.core

/-- A configuration field as the scheduler has it: the register, or in DOZE what the entry kept (R232). -/
def State.kget (s : State) (page : Nat) (f : Fld) : Nat :=
  if s.coreUp then s.get page f else f.get ((AMap.find (page * 256 + f.off) s.kbz.kept).getD 0)

/-- The registers that a DOZE entry keeps for Kibitz: its settings and mask, the fitted and enable bits (R232, R390). -/
def keptKeys : List Nat :=
  (List.range 5).map (fun i => pKBZ * 256 + 0x10 + i) ++ [pKBZ * 256 + 1] ++ (List.range 5).map (fun i => pKBZ * 256 + 0x20 + i) ++
    ((List.range 24).map fun f => pFIL f * 256 + 1) ++
    ((List.range 24).map fun f => (List.range 8).map fun r => pFIL f * 256 + (FIL.PORT_FITTED r).off).flatten

/-- What the DOZE entry keeps. -/
def State.kbzKeep (s : State) : State :=
  s.withKbz fun k => { k with kept := keptKeys.map fun i => (i, s.reg (i / 256) (i % 256)) }

/-- Sweeps run: KBZ enabled, in DOZE or, with RUN_EN, in RUN, with the ping reference running (R235, R399). -/
def State.kbzRuns (s : State) : Bool :=
  s.kget pKBZ COM.ENABLE != 0 && (if s.coreUp then s.get pCLK CLK.STATUS_SRC != 0 else s.pwr.refOk) && !s.resigned &&
    ((s.coreUp && decide (s.mode = 0) && s.bit pKBZ KBZ.CFG_RUN_EN) || s.dozing)

/-- A FLAG bit of the KBZ page, which lies in CORE. -/
def State.kbzFlag (s : State) (f : Fld) : State := s.when s.coreUp fun s => s.flag pKBZ f

/-- A field on or ramping stands on a port coupled to this one (R232, R246). -/
def State.coupledField (s : State) (p : Nat) : Bool :=
  (List.range 9).any fun n => s.lit n &&
    (match (s.tx n).sw with
      | some q => (s.coupledPorts n q).contains p || (s.coupledPorts n p).contains q
      | none => false)

/-- A port that may be pinged (R232). -/
def State.pingable (s : State) (p : Nat) : Bool :=
  let f := pFIL (p / 8)
  (s.kget pKBZ (KBZ.MASK_PORTS (p / 40))).testBit (p % 40) && s.kget f COM.ENABLE != 0 &&
    s.kget f (FIL.PORT_FITTED (p % 8)) != 0 &&
    (!s.coreUp || ((s.chainAt p).isNone && !(List.range 17).any (fun n => (s.rx n).tap == some p) && !s.coupledField p))

/-- The baseline of a port learns or tracks: one with STATE OFF is not pinged (R233). -/
def State.watched (s : State) (p : Nat) : Bool :=
  let st := s.get pKBZ (KBZ.BASE_STATE p)
  st == 1 || st == 2

/-- The next ping starts: the port in hand is the next that may be pinged now (R231, R232). -/
def State.takeHand (s : State) : State :=
  let p := (List.range 192).find? fun p => decide (s.kbz.next ≤ p) && s.pingable p && s.watched p
  s.withKbz fun k => { k with hand := p }

/-- A sweep begins now; the next is due PERIOD ms from here (R232). -/
def State.sweepNow (s : State) : State :=
  let s := s.withKbz fun k => { k with next := 0, hits := 0, began := s.now, waited := false, hop := k.hopNext, hopNext := 0 }
  let s := (s.putB pKBZ KBZ.STATUS_SWEEPING true).putB pKBZ KBZ.STATUS_BUSY true
  s.takeHand.resched (orDefault 1 (s.kget pKBZ KBZ.SWEEP_PERIOD) * ms) .sweepStart

/-- SWEEP_START: the period expires; a sweep still running delays the next to its own end, and a period that passes while
sweeps stand is followed by the next (R232). -/
def effSweepStart (s : State) : State :=
  if s.kbzRuns then
    if s.bit pKBZ KBZ.STATUS_SWEEPING then
      let s := s.withKbz fun k => { k with waited := true }
      (s.kbzFlag KBZ.FLAG_OVERRUN).when s.coreUp fun s => s.recordErr pKBZ 2
    else s.sweepNow
  else s.when (s.kget pKBZ COM.ENABLE != 0) fun s => s.resched (orDefault 1 (s.kget pKBZ KBZ.SWEEP_PERIOD) * ms) .sweepStart

/-- The task SWEEP: a sweep begins at once, or at the end of the one in progress (R277, R284). -/
def State.sweepTask (s : State) (hop : Nat) : State :=
  if s.kbzRuns then
    let s := s.withKbz fun k => { k with hopNext := hop }
    if s.bit pKBZ KBZ.STATUS_SWEEPING then s.withKbz fun k => { k with waited := true } else s.sweepNow
  else s

/-- Pings passed over (R232). -/
def State.skipTo (s : State) (p : Nat) : State :=
  let l := (List.range p).filter fun q => decide (s.kbz.next ≤ q) && !s.pingable q
  (s.incBy pKBZ KBZ.COUNT_SKIPPED l.length).withKbz fun k => { k with next := Nat.max k.next p }

/-- Hits that were not confirmed are counted (R234). -/
def State.dropHits (s : State) : State := (s.incBy pKBZ KBZ.COUNT_HITS s.kbz.hits).withKbz fun k => { k with hits := 0 }

/-! ## Baselines (R233): values in 1/256 of a code or phase unit -/

/-- A baseline with its fraction bits. -/
structure Base where
  ma : Nat
  mp : Nat
  da : Nat
  dp : Nat
  deriving DecidableEq, Repr

def State.base (s : State) (p : Nat) : Base :=
  let f := (AMap.find p s.kbz.frac).getD 0
  { ma := 256 * s.get pKBZ (KBZ.BASE_MEAN_A p) + bits f 31 24, mp := 256 * s.get pKBZ (KBZ.BASE_MEAN_P p) + bits f 23 16,
    da := 256 * s.get pKBZ (KBZ.BASE_DEV_A p) + bits f 15 8, dp := 256 * s.get pKBZ (KBZ.BASE_DEV_P p) + bits f 7 0 }

/-- A baseline replaced; one that software has written on this edge holds (R38, R246). -/
def State.setBase (s : State) (p : Nat) (b : Base) : State :=
  if s.touched.writes.any fun e => e.1 == pKBZ * 256 + (KBZ.BASE_STATE p).off then s else
  let s := (s.put pKBZ (KBZ.BASE_MEAN_A p) (b.ma / 256)).put pKBZ (KBZ.BASE_MEAN_P p) (b.mp / 256)
  let s := (s.put pKBZ (KBZ.BASE_DEV_A p) (b.da / 256)).put pKBZ (KBZ.BASE_DEV_P p) (b.dp / 256)
  s.withKbz fun k => { k with
    frac := AMap.set (fun _ => 0) k.frac p (b.ma % 256 * 2 ^ 24 + b.mp % 256 * 2 ^ 16 + b.da % 256 * 2 ^ 8 + b.dp % 256) }

/-- The differences of a ping from a baseline (R233). -/
def Base.diffA (b : Base) (amp : Nat) : Int := (256 * amp : Nat) - (b.ma : Int)
def Base.diffP (b : Base) (phase : Nat) : Int :=
  ((256 * phase : Nat) - (b.mp : Int) + 512 * 256) % (1024 * 256) - 512 * 256

/-- A value moved toward another by 1/n of the difference, to 8 fraction bits. -/
def track (x : Nat) (d : Int) (n : Nat) : Int := (x * n + d) / n

/-- A deviation that its update takes outside its 16 bits is not stated (R233): a free value. -/
def State.devOr (s : State) (x : Int) : Nat × State :=
  if 65535 < x then ((Config.kibitzDeviation s.free).toNat, s.nextFree) else (x.toNat, s)

/-- The baseline updated with `1/n` of the means and `1/m` of the deviations (R233). -/
def State.trackBase (s : State) (p : Nat) (b : Base) (amp phase n m : Nat) : State :=
  let xa := b.diffA amp
  let xp := b.diffP phase
  let ra := s.devOr (track b.da (xa.natAbs - (b.da : Int)) m)
  let rp := ra.2.devOr (track b.dp (xp.natAbs - (b.dp : Int)) m)
  rp.2.setBase p { ma := (track b.ma xa n).toNat % (4096 * 256), mp := ((track b.mp xp n) % (1024 * 256)).toNat,
                   da := ra.1, dp := rp.1 }

/-- A ping is a hit (R233). -/
def State.isHit (s : State) (b : Base) (amp phase : Nat) : Bool :=
  let k := s.kget pKBZ KBZ.THR_K
  decide (1024 * s.kget pKBZ KBZ.THR_A_MIN + k * b.da < 4 * (b.diffA amp).natAbs) ||
    decide (1024 * s.kget pKBZ KBZ.THR_P_MIN + k * b.dp < 4 * (b.diffP phase).natAbs)

/-- A change is confirmed (R234, R236). -/
def State.kbzChange (s : State) (p amp phase : Nat) : State :=
  let s := (s.raise pKBZ (KBZ.CHANGE_PORTS (p / 40)) (p % 40)).kbzFlag KBZ.FLAG_CHANGE
  let s := (s.telCount 3).present 121 s.kbz.hop
  let b := s.base p
  let s := s.setBase p { b with ma := 256 * amp, mp := 256 * phase }
  let s := s.withKbz fun k => { k with hits := 0, next := p + 1 }
  if s.dozing then
    let s := s.putBit pKBZ (KBZ.PEND_PORTS (p / 40)) (p % 40) true
    s.when (s.kget pKBZ KBZ.CFG_WAKE != 0) fun s => s.sched 0 (.wakeSource 3)
  else
    let s := if s.bit pINV INV.CFG_KBZ_DISC then s.setQueued p true else s
    s.invRecord 3 p 0

/-- A ping in TRACK (R233, R234). -/
def State.trackPing (s : State) (p amp phase : Nat) : State :=
  let b := s.base p
  if s.isHit b amp phase then
    let n := s.kbz.hits + 1
    if orDefault 1 (s.kget pKBZ KBZ.TRACK_CONFIRM) ≤ n then s.kbzChange p amp phase
    else s.withKbz fun k => { k with hits := n, next := p }
  else
    let s := s.trackBase p b amp phase (2 ^ s.kget pKBZ KBZ.TRACK_ALPHA) (2 ^ s.kget pKBZ KBZ.TRACK_BETA)
    s.dropHits.withKbz fun k => { k with next := p + 1 }

/-- A ping in LEARN (R233). -/
def State.learnPing (s : State) (p amp phase : Nat) : State :=
  let n := (AMap.find p s.kbz.learn).getD 0 + 1
  let s := s.trackBase p (s.base p) amp phase n n
  let s := s.withKbz fun k => { k with next := p + 1 }
  if orDefault 1 (s.kget pKBZ KBZ.TRACK_LEARN) ≤ n then
    (s.put pKBZ (KBZ.BASE_STATE p) 2).withKbz fun k => { k with learn := AMap.erase p k.learn }
  else s.withKbz fun k => { k with learn := AMap.insert p n k.learn }

/-- The length of a ping in CCLK (R231). -/
def State.pingLen (s : State) : Nat := usec (clampNat 4 32 (s.kget pKBZ KBZ.PING_LEN))

/-- The ping's result is discarded: CAP was written during it (R246). -/
def State.capDuring (s : State) (p : Nat) : Bool :=
  match AMap.find p s.kbz.capAt with
  | some t => decide (s.now < t + s.pingLen)
  | none => false

/-- A sweep stops: the hits in hand are dropped. -/
def State.stopSweep (s : State) : State :=
  let s := s.dropHits.withKbz fun k => { k with stopping := false }
  let s := s.untimer .kbzStop
  (s.putB pKBZ KBZ.STATUS_SWEEPING false).putB pKBZ KBZ.STATUS_BUSY false

/-- A ping of a port is discarded: a field has come up on it or on a coupled port, or the port in hand was another and this one may not be pinged
(R232, R246). -/
def State.pingLost (s : State) (p : Nat) : Bool :=
  if s.kbz.hand = some p then s.coreUp && ((s.chainAt p).isSome || s.coupledField p) else !s.pingable p

/-- A ping of a port ends and is judged against its baseline; a port that may not be pinged is passed over. -/
def State.pingIn (s : State) (port : Nat) (r : PingResult) : State :=
  if (s.kbzRuns || s.kbz.stopping) && s.bit pKBZ KBZ.STATUS_SWEEPING && decide (port < 192 ∧ s.kbz.next ≤ port) &&
      (s.kbz.hits == 0 || port == s.kbz.next) then
    let s := s.skipTo port
    let amp := r.amp % 4096
    let phase := r.phase % 1024
    let st := s.get pKBZ (KBZ.BASE_STATE port)
    if s.pingLost port then
      (s.dropHits.inc pKBZ KBZ.COUNT_SKIPPED).withKbz fun k => { k with next := port + 1 }
    else if st ≠ 1 ∧ st ≠ 2 then s.withKbz fun k => { k with next := port + 1 }
    else
      let s := (s.put pKBZ KBZ.LAST_PORT port).put pKBZ KBZ.LAST_AMP amp
      let s := s.put pKBZ KBZ.LAST_PHASE phase
      if r.bad then
        (s.dropHits.withKbz fun k => { k with next := port + 1 }).setFault pKBZ 1 1 { cls := 6, port := port }
      else if s.capDuring port then s.dropHits.withKbz fun k => { k with next := port + 1 }
      else if st = 1 then s.learnPing port amp phase
      else s.trackPing port amp phase
  else s

/-- PING: a ping of a port ends and is judged against its baseline; a port that may not be pinged is passed over (R232–R235,
R246); a sweep that is to stop does so now (R37). -/
def effPing (port : Nat) (r : PingResult) (s : State) : State :=
  let stop := s.kbz.stopping && s.bit pKBZ KBZ.STATUS_SWEEPING && decide (port < 192 ∧ s.kbz.next ≤ port)
  (s.pingIn port r).takeHand.when stop State.stopSweep

/-- A sweep is over: its count, flag and event; one that was due begins (R232). -/
def State.sweepOver (s : State) : State :=
  let s := (s.skipTo 192).dropHits
  let s := (s.incMod pKBZ KBZ.SWEEPS_COUNT).kbzFlag KBZ.FLAG_SWEEP_END
  let s := (s.putB pKBZ KBZ.STATUS_SWEEPING false).putB pKBZ KBZ.STATUS_BUSY false
  let s := s.present 122 s.kbz.hop
  if s.kbz.waited && s.kbzRuns then s.sweepNow else s

/-- SWEEP_END: a sweep ends (R232). -/
def effSweepEnd (s : State) : State :=
  if s.kbz.stopping then s.stopSweep
  else if s.kbzRuns && s.bit pKBZ KBZ.STATUS_SWEEPING then s.sweepOver else s

/-- The port in hand of a sweep: the next that may be pinged (R231, R232). -/
def State.pingPort (s : State) : Option Nat :=
  if s.bit pKBZ KBZ.STATUS_SWEEPING then s.kbz.hand else none

/-- A sweep is to stop at the next port boundary, once the ping in hand has ended (R37, R390). -/
def State.endSweep (s : State) : State :=
  if s.bit pKBZ KBZ.STATUS_SWEEPING then
    (s.withKbz fun k => { k with stopping := true }).retimer (s.pingLen + usec 8) .kbzStop
  else s

/-- The port boundary has come at which a sweep stops. -/
def State.kbzStop (s : State) : State := if s.kbz.stopping then s.stopSweep else s

/-- The tune bank's value at a port (R92, R94, R96): PARK while its switch is OPEN, no receive chain has selected its tap and no ping driver
works on it; the value of the point under an auto-tune's scan; else CAP. -/
def State.bank (s : State) (p : Nat) : Nat :=
  match (List.range 9).find? fun n => (s.tx n).act == 3 && (s.tx n).scanning && (s.tx n).port == p with
  | some n =>
    let l := (s.tx n).scan
    (scanCap l (if s.fieldSt n = 7 then l.length else l.length - 1)).getD (s.capNow p)
  | none =>
    if (List.range 9).any (fun n => s.driven n == some p) || (List.range 17).any (fun n => (s.rx n).tap == some p) ||
        s.pingPort == some p then s.capNow p
    else s.get (pFIL (p / 8)) (FIL.TUNE_PARK (p % 8))

/-- KBZ_MISMATCH: FAULT.CMP; the ping in hand is discarded and the sweep goes on (R247). -/
def effKbzMismatch (s : State) : State :=
  if s.coreUp && s.enabled pKBZ then
    let s := s.setFault pKBZ 2 3 { cls := 2, action := 1, interrupt := 1 }
    if s.bit pKBZ KBZ.STATUS_SWEEPING then (s.dropHits.withKbz fun k => { k with next := k.hand.getD k.next + 1 }).takeHand else s
  else s

end Sys2Proof.Machine
end

