-- ==== Sys2Proof/Machine/Wing.lean ====
section
/-! DEFINITION. Replies and ends on a Wing's engine and lane: the commands REPLY_FRAME, REPLY_WAIT_END, BLITZ_HEADER,
BLITZ_FRAME_END, the mismatches of R181 and R215, and what aborts, disables and the loss of field or chain do to the work in
hand (R149, R152, R182, R216). -/

namespace Sys2Proof.Machine

open Sys2Proof

/-! ## Legacy replies -/

/-- A legacy reply, or none, goes to what the engine is doing; the ISO/IEC 14443-4 helper looks at every frame (R168, R170). -/
def State.legacyIn (s : State) (w : Nat) (r : RxRes) (isW : Bool) : State :=
  let s := ((s.withEng w fun e => { e with await := 0, waitAt := none }).unsched (.replyWaitEnd w)).setRxState (s.eng w).chain 0
  let s := (s.atqbFwi w r).blockReply w r isW
  match (s.eng w).prog with
  | .exchange => s.exchangeEnd w r
  | .anti a => s.acReply w a r
  | .gambit rate again reload => s.gambitReply w rate again reload r
  | .legacySeal job => (s.present (91 + w) (s.engHop w)).legacyReply w job (r.status == fsOK)
  | .confirm => s.invReply w r
  | .probe => s.invReply w r
  | .rewake levels selecting => s.rewakeReply w levels selecting r
  | _ => s.engEnd w ((s.eng w).stop.getD (0x40 + r.status))

/-- REPLY_FRAME: a reply that has begun and ended on its chain is checked and recorded (R159–R161). -/
def effReplyFrame (w : Nat) (r : Reply) (s : State) : State :=
  let e := s.eng w
  if s.coreRuns && decide (w < 8) && e.user.isSome && e.await == 1 && (s.rx e.chain).begun && s.rxState e.chain != 3 then
    let d := s.decodeReply w r
    (s.showReply w d.1).legacyIn w d.1 d.2
  else s

/-! ## Blitz replies -/

/-- A Blitz reply, or none, goes to what the lane is doing; a change of tap asked for during the frame follows it (R130). -/
def State.blitzIn (s : State) (w : Nat) (r : BlitzRes) : State :=
  let n := (s.eng w).chain
  let s := (s.withEng w fun e => { e with await := 0, waitAt := none }).unsched (.replyWaitEnd w)
  let s := (s.setRxState n 0).retap n
  match (s.eng w).prog with
  | .blitz => s.blitzEnd w r
  | .reload id => s.reloadReply w id r
  | .sound quiet _ _ => s.soundReply w quiet r
  | .book id => s.bookReply w id r
  | .seal q => s.sealReply w q r
  | _ => s.engEnd w ((s.eng w).stop.getD (0x40 + r.status))

/-- A wait is over: its time has come, or an ordered end has (R160, R164, R182, R191). -/
def State.waitOver (s : State) (w : Nat) : Bool :=
  (s.eng w).stop.isSome || (s.eng w).waitAt.any fun t => decide (t ≤ s.now)

/-- REPLY_WAIT_END: the wait is over and no frame has started, nor has a preamble been detected (R152, R160, R164, R191); after the EOF of
an ISO/IEC 15693 slot the slot was empty (R166). -/
def effReplyWaitEnd (w : Nat) (s : State) : State :=
  let e := s.eng w
  if s.coreRuns && decide (w < 8) && e.user.isSome && !(s.rx e.chain).begun && s.rxState e.chain != 2 && s.waitOver w then
    if e.await = 1 then
      let r := s.noReply w
      let s := s.when (decide (4 ≤ e.frame.kind)) fun s => s.withEng w fun e => { e with emptyAt := e.airEnd }
      (s.showReply w r).legacyIn w r false
    else if e.await = 2 then s.blitzIn w (s.noBlitz w)
    else s
  else s

/-- A Blitz frame ends on its header: a header that fails its checks, or pilots that slipped in it (R192, R194). -/
def State.headerEnd (s : State) (w : Nat) (samples : List Nat) (slip : Option Nat) : State :=
  let s := s.blitzClip w samples
  let r := { s.cutBlitz w with errPos := slip.getD 0xFFF }
  (s.blitzShow w r).blitzIn w r

/-- BLITZ_HEADER: the samples from the timing origin to the header's end: P_frame, the header's four bytes and their checks, and the
Book, once the slot's words are there (R141, R188, R192, R194, R208). -/
def effBlitzHeader (w : Nat) (samples : List Nat) (s : State) : State :=
  let e := s.eng w
  let hs := headerSymbols e.set
  if s.coreRuns && decide (w < 8) && e.user.isSome && e.await == 2 && (s.rx e.chain).begun && s.rxState e.chain == 3 &&
      decide (80 * (2 + hs) ≤ samples.length) then
    let x := s.demod w samples
    let h := packBits (x.bits 0 hs (headerTones e.set))
    let l := samples.take 160
    let s := (s.withRx e.chain fun r => { r with power := energy l, powerN := 160 }).showLevel e.chain (energy l) 160 (samples.any clips)
    match x.slip hs with
    | some m => s.headerEnd w samples (some m)
    | none =>
      let s := s.withEng w fun x => { x with hdr := h, booked := false }
      if !hdrGood h then
        (((s.flag pBLZ BLZ.FLAG_HDR_ERR).recordErr pBLZ 2).inc pBLZ BLZ.COUNT_HDR_ERR).headerEnd w samples none
      else match s.bookWords e.port 0 4 with
        | .inl ls => s.xmpWait ls (.blitzHeader w samples)
        | .inr r => r.2.chooseBook w (hdrBook h) r.1
  else s

/-- BLITZ_FRAME_END: a frame with a good header ends (R193–R196). -/
def effBlitzFrameEnd (w : Nat) (f : BlitzFrame) (s : State) : State :=
  let e := s.eng w
  if s.coreRuns && decide (w < 8) && e.user.isSome && e.await == 2 && (s.rx e.chain).begun && s.rxState e.chain == 3 && hdrGood e.hdr then
    let s := (s.blitzClip w f.samples).linkQuality w f
    let r := s.decodeBlitz w f
    (s.blitzShow w r).blitzIn w r
  else s

/-! ## Ends that field, chain or engine impose -/

/-- The record of the exchange in hand when it is broken off: FRAMING if a frame had begun, else NO_RESPONSE, with the mark
(R152, R182, R216). -/
def State.brokenRecord (s : State) (w : Nat) (mark : Option Nat) : State :=
  let e := s.eng w
  let r := s.rx e.chain
  let m := mark.getD r.mark
  match e.prog with
  | .exchange =>
    let x := { s.noReply w with
      status := if r.begun then fsFRAMING else fsNO_RESPONSE, mark := m, angle := if r.begun then r.startAngle else s.angle
      time := if r.begun then s.respTime w else 0xFFFFFF }
    let s := s.when r.begun State.nextFree
    ((s.showReply w x).writeRecord w (recordWords x)).present (91 + w) (s.engHop w)
  | .blitz =>
    let x := { (if r.begun then s.cutBlitz w else s.noBlitz w) with mark := m }
    let s := s.when r.begun fun s => (s.nextFree.flag pBLZ BLZ.FLAG_FRAME_END).present (107 + w) (s.engHop w)
    s.writeRecord w (blitzWords x)
  | .anti _ => s.put pPRT (PRT.ENG_STAT_MARK w) m
  | _ => s

/-- The status of a Sealed write that an end from outside breaks off (R242). -/
def sealBroken (st : Nat) : Nat := if st = stDISABLED ∨ st = stFAULTED ∨ st = stREFLECTED ∨ st = stTAKEOVER then stPENDING else st

/-- The work of a Wing's engine and lane ends with a status: a frame being received is cut off, records are written, result entries stay,
a Sealed write stays pending; the record in flight of an ANTICOLL that a takeover ends has mark TAKEOVER (R152, R181, R182, R215, R216,
R242). -/
def State.breakWing (s : State) (w st : Nat) (mark : Option Nat) : State :=
  let e := s.eng w
  if e.user.isSome then
    let m := match e.prog with
      | .anti _ => if st = stTAKEOVER then some (mark.getD 5) else mark
      | _ => mark
    let s := (s.cutFrame e.chain).brokenRecord w m
    match e.prog with
    | .anti _ => (s.flag pPRT PRT.FLAG_ANTICOLL_END).present (99 + w) (s.engHop w) |>.engEnd w st
    | .seal q => s.sealDone w q sePENDING (sealBroken st)
    | .legacySeal job => s.legacyReply w job false
    | _ => s.engEnd w st
  else s

/-- The work in hand ends as it was ordered to. -/
def State.stopNow (s : State) (w : Nat) : State :=
  match (s.eng w).prog with
  | .seal q => s.sealDone w q sePENDING stPENDING
  | _ => s.breakWing w ((s.eng w).stop.getD stDONE) none

/-- An ordered end of the work in hand: an abort, a halt, or the page's disable (R181, R182, R215, R216).  A wait ends at
once; a reader frame in flight is sent and a reply that has begun, or a preamble detected, is received to its end. -/
def State.stopWing (s : State) (w st : Nat) : State :=
  let e := s.eng w
  if e.user.isNone then s
  else
    let t := s.withEng w fun x => { x with stop := some (x.stop.getD st) }
    if e.flying = true ∨ (e.await ≠ 0 ∧ ((s.rx e.chain).begun = true ∨ s.rxState e.chain = 2)) then t else t.stopNow w

/-- The end of a reader frame: an ordered end, what is awaited after it, the next step of a procedure, or the end of a SEND (R164–R166,
R171, R182, R260). -/
def State.frameOut (s : State) (w : Nat) : State :=
  let e := s.eng w
  let s := s.frameEnd w
  if e.stop.isSome then s.stopNow w
  else if e.hear = 1 then s.awaitLegacy w
  else if e.hear = 2 then s.awaitBlitz w
  else match e.prog with
    | .anti a => s.acContinue w a
    | _ => (s.present (91 + w) (s.engHop w)).engEnd w stDONE

/-! ## Mismatches -/

/-- PRT_ENGINE_MISMATCH: FAULT.ENGw, the engine's move ends FAULTED; the third within 10 ms takes the engine out of service
(R181, R411). -/
def effPrtEngineMismatch (w : Nat) (s : State) : State :=
  if s.coreRuns && decide (w < 8) && s.enabled pPRT then
    let m := recent10ms s.now (s.eng w).mism
    let s := s.withEng w fun e => { e with mism := m }
    let c := (s.eng w).user.getD 0xFF
    let c := if c < 12 then c else 0xFF
    let s := s.setFault pPRT (8 + w) 1 { cls := 2, action := 1, interrupt := 1, ctx := c, port := s.txPort (s.serving w) }
    let s := s.breakWing w stFAULTED none
    if 3 ≤ m.length ∧ s.engOut w = false then
      (s.putBit pPRT PRT.STATUS_OOS w true).outOfService pPRT 2 c (s.txPort (s.serving w))
    else s
  else s

/-- Lane `w` is out of service (R215). -/
def State.laneOut (s : State) (w : Nat) : Bool := s.bitOf pBLZ BLZ.STATUS_OOS w

/-- LANE_MISMATCH: FAULT.LANEw, the frame in flight is recorded FRAMING and its move ends FAULTED; the third within 10 ms
takes the lane out of service (R215, R411). -/
def effLaneMismatch (w : Nat) (s : State) : State :=
  if s.coreRuns && decide (w < 8) && s.enabled pBLZ then
    let m := recent10ms s.now (s.eng w).laneMism
    let s := s.withEng w fun e => { e with laneMism := m }
    let c := (s.eng w).user.getD 0xFF
    let c := if c < 12 then c else 0xFF
    let s := s.setFault pBLZ (8 + w) 1 { cls := 2, action := 1, interrupt := 1, ctx := c, port := s.txPort (s.serving w) }
    let s := s.when (s.bitOf pBLZ BLZ.STATUS_LANE_BUSY w) fun s => s.breakWing w stFAULTED none
    if 3 ≤ m.length ∧ s.laneOut w = false then
      (s.putBit pBLZ BLZ.STATUS_OOS w true).outOfService pBLZ 0x0D c (s.txPort (s.serving w))
    else s
  else s

/-! ## Ends left by the happening -/

/-- One end of the list that fields and chains leave. -/
def State.takeEnd (s : State) (e : WingEnd) : State :=
  if e.own then s.invOwn e.wing e.status else s.breakWing e.wing e.status e.mark

/-- The ends left by fields and chains are taken up, and those that these lead to, in `n` rounds. -/
def State.takeEnds : Nat → State → State
  | 0, s => s
  | n + 1, s =>
    match s.wingEnds with
    | [] => s
    | l => State.takeEnds n (({ s with wingEnds := [] } : State).forEach l State.takeEnd)

end Sys2Proof.Machine
end

