-- ==== Sys2Proof/Machine/Conductor.lean ====
section
/-! DEFINITION. The Conductor (R250–R271): contexts, move fetch, the issue, launch and completion of moves, Wing claims, abort
and halt, lockstep recovery; the RF moves and the control moves that need no register access. -/

namespace Sys2Proof.Machine

open Sys2Proof

/-! ## Contexts -/

/-- The contexts that run move lists (R252). -/
def listCtx (c : Nat) : Bool := decide (c < 12) && c != 10

/-- The edge on which a lockstep recovery in progress ends (R269). -/
def State.recoverAt (s : State) : Option Nat := (s.timers.find? fun t => t.2 == .lockstep).map Prod.fst

/-- The Conductor is out of service after a third mismatch within 10 ms (R269). -/
def State.conductorOut (s : State) : Bool := decide (3 ≤ s.lockMism.length)

/-- The register of accumulator A[r]. -/
def accOff (c r : Nat) : Nat := 0x18 + 16 * (c % 4) + r % 4

def State.acc (s : State) (c r : Nat) : Nat := (s.reg (pCND c) (accOff c r)).toNat

/-- The poison mark of an accumulator (R263). -/
def State.accPoisoned (s : State) (c r : Nat) : Bool := s.regPsn.contains (pCND c * 256 + accOff c r)

/-- A register's poison mark set or cleared. -/
def State.markReg (s : State) (page off : Nat) (b : Bool) : State :=
  let k := page * 256 + off
  let l := s.regPsn.filter fun x => x ≠ k
  { s with regPsn := if b then l ++ [k] else l }

/-- An accumulator takes a word with its mark. -/
def State.setA (s : State) (c r v : Nat) (psn : Bool) : State :=
  (s.setReg (pCND c) (accOff c r) (BitVec.ofNat 40 v)).markReg (pCND c) (accOff c r) psn

/-- REASON of a stopped context: 1 STOP, 2 HALT, 3 BAD_MOVE, 4 BAD_ADDRESS, 5 POISON, 6 STACK, 7 STOP_ON_ERR, 8 DISABLED,
9 FAULT. -/
def State.reason (s : State) (c : Nat) : Nat := s.get (pCND c) (CND.CTX_STATE_REASON (c % 4))
def State.setReason (s : State) (c r : Nat) : State := s.put (pCND c) (CND.CTX_STATE_REASON (c % 4)) r

def State.pc (s : State) (c : Nat) : Nat := s.get (pCND c) (CND.CTX_PC_ADDR (c % 4))
def State.setPc (s : State) (c a : Nat) : State := s.put (pCND c) (CND.CTX_PC_ADDR (c % 4)) a
def State.lastStatus (s : State) (c : Nat) : Nat := s.get (pCND c) (CND.CTX_STATE_LAST_STATUS (c % 4))
def State.setOp (s : State) (c op : Nat) : State := s.put (pCND c) (CND.CTX_STATE_OP (c % 4)) op

/-- CTXj_STATE.DEPTH follows the call stack. -/
def State.setStack (s : State) (c : Nat) (l : List Nat) : State :=
  (s.withCtx c fun x => { x with stack := l }).put (pCND c) (CND.CTX_STATE_DEPTH (c % 4)) l.length

/-- The next fetch of a context. -/
def State.fetchNext (s : State) (c : Nat) : State := (s.setRun c 1).resched 1 (.moveFetch c)

/-- The comparators and timers of a context's move are taken down, ANG.WAITc with them. -/
def State.clearWaits (s : State) (c : Nat) : State :=
  let s := ((s.disarm (.waitAngle c)).disarm (.rf c)).disarm (.lateLimit c)
  let s := ((s.unsched (.rfMoveLaunch c false)).unsched (.rfMoveLaunch c true)).unsched (.lateLimitExpiry c)
  let s := ((s.unsched (.waitAngleFire c false)).unsched (.waitAngleFire c true)).unsched (.waitEventTimeout c)
  s.putBit pANG ANG.WAIT_ACTIVE_ACTIVE c false

/-! ## Wing claims (R259, R271, R297) -/

/-- A context may take the claim on a Wing now. -/
def State.claimFree (s : State) (c w : Nat) : Bool :=
  !s.calHolds w && !s.invHolds w && (s.owner w == 15 || s.owner w == c)

/-- A forced window that a Wing is owed may begin: its latest is SHARE.PERIOD or more back (R299). -/
def State.forcedReady (s : State) (w : Nat) : Bool :=
  s.cal.owed.contains w && match AMap.find w s.cal.forcedAt with
    | some t => decide (t + orDefault 1 (s.get pCAL CAL.SHARE_PERIOD) * ms ≤ s.now)
    | none => true

/-- The access slots' order from the context served last (R254). -/
def State.slotOrder (s : State) : List Nat :=
  let l := (List.range 12).filter listCtx
  (l.filter fun c => s.slot < c) ++ l.filter fun c => c ≤ s.slot

/-- A held field is ramped down as a field-off, by its context's stop (R259). -/
def State.fieldOffNow (s : State) (w hop : Nat) : State :=
  let n := s.serving w
  if s.invHolds w then s.invCut w stDONE false
  else if (s.tx n).act = 3 ∧ (s.tx n).ctx = none then s
  else if s.fieldSt n = 1 then s.dropArmed n stABORTED
  else if s.fieldSt n = 0 then s
  else (s.withTx n fun t => { t with offBy := hop }).rampDown n stDONE

/-- The claims of a context that has stopped: fields ramp down unless it ended with STOP, and a Wing whose field is off is
released (R259). -/
def State.dropClaims (s : State) (c : Nat) (down : Bool) : State :=
  s.forEach (List.range 8) fun s w =>
    if s.owner w = c ∧ s.calHolds w = false then
      let s := s.when down fun s => s.fieldOffNow w (s.moveHop c)
      if s.fieldSt (s.serving w) = 0 ∧ s.invHolds w = false then s.releaseWing w else s
    else s

/-! ## Starts and stops (R251, R265) -/

/-- A start is refused (R251). -/
def State.refuseStart (s : State) (c : Nat) : State :=
  ((s.inc pCND0 CND0.COUNT2_START_REFUSED).flag pCND0 CND0.FLAG_START_REFUSED).recordErr (pCND c) 7

/-- A context starts at an address (R251, R392). -/
def State.startAt (s : State) (c hop entry : Nat) : State :=
  let s := (s.setLaunch c s.angle).put (pCND c) (CND.CTX_STATE_LAST_STATUS (c % 4)) stDONE
  let s := ((s.withCtx c fun _ => Ctx.reset).setStack c []).put (pCND c) (CND.CTX_STATE_HOP (c % 4)) hop
  ((s.setReason c 0).setPc c entry).fetchNext c

/-- A start of a context, with the hop of the starting event, or its refusal (R251, R269, R390). -/
def State.startCtx (s : State) (c hop : Nat) : State :=
  if listCtx c && s.run c == 0 && s.enabled (pCND c) && s.enabled pCND0 && !s.conductorOut &&
      !s.bit pDEV DEV.STATUS_ENTERING then
    s.startAt c hop (s.get (pCND c) (CND.CTX_ENTRY_ADDR (c % 4)))
  else s.refuseStart c

/-- A context stops with a reason and an error code of its page, 0 for none (R259, R265). -/
def State.stopCtx (s : State) (c reason code : Nat) : State :=
  let s := s.when (s.ctx c).move.isSome fun s => s.incMod (pCND c) (CND.CTX_MOVES_COUNT (c % 4))
  let s := ((s.clearWaits c).unsched (.moveFetch c)).unsched (.moveCompletion c)
  let s := s.withCtx c fun x => { Ctx.reset with stack := x.stack }
  let s := ((s.setRun c 0).setReason c reason).setOp c 0
  let s := s.when (decide (code ≠ 0)) fun s => s.recordErr (pCND c) code
  let s := s.dropClaims c (decide (reason ≠ 1))
  let hop := s.moveHop c
  if reason = 1 then (s.flag (pCND c) CND.FLAG_DONE (c % 4)).present (123 + c) hop
  else if reason = 2 then s
  else (s.flag (pCND c) CND.FLAG_FSTOP (c % 4)).present (135 + c) hop

/-! ## Issue and completion (R253, R255, R257, R264–R270) -/

/-- A move is issued: it is in flight, its checkpoint holding LAST_LAUNCH (R268). -/
def State.takeMove (s : State) (c : Nat) (m : Instr) : State :=
  let base := if (s.ctx c).again then (s.ctx c).base else s.lastLaunch c
  let s := s.unsched (.moveFetch c)
  let s := s.withCtx c fun x => { x with
    move := some m, base := base, target := none, ended := none, next := none, words := [], psn := none, copied := 0,
    committed := false }
  { (s.setOp c (moveOp m)).setRun c 4 with slot := c }

/-- A move of a context: at its issue, or with `more` each time it goes on before a block or access has taken it.  It waits
out a lockstep recovery (R269); a move that the context refuses stops it (R255). -/
def State.issue (s : State) (c : Nat) (m : Instr) (more : Bool) (go : State → State) : State :=
  let x := s.ctx c
  if !(s.coreRuns && listCtx c) then s
  else
    let first := s.run c == 1 && (x.move.isNone || (x.again && x.move == some m && x.ended.isNone))
    let on := more && s.run c == 4 && x.move == some m && x.ended.isNone && !x.committed
    if first || on then
      match s.recoverAt with
      | some t => s.resched (t - s.now) m
      | none => if on then go s else if badMove c m then s.stopCtx c 3 3 else go (s.takeMove c m)
    else s

/-- Control moves that leave LAST_STATUS as it is (R262). -/
def keepsStatus : Instr → Bool
  | .branch .. => true
  | .call .. => true
  | .ret .. => true
  | .load .. => true
  | .store .. => true
  | .copy .. => true
  | _ => false

/-- SEAL moves, which are never re-run (R270). -/
def isSeal : Instr → Bool
  | .seal .. => true
  | _ => false

/-- A control mismatch of the move's block on this edge (R181, R215, R247). -/
def State.mismatchNow (s : State) (m : Instr) : Bool :=
  match launchOf m with
  | some h => (s.eng h.wing).mism.contains s.now || (s.eng h.wing).laneMism.contains s.now
  | none => s.inv.mism.contains s.now

/-- The move of a context has ended with a status: it is re-run once after TAKEOVER or a mismatch of its block (R270), or
the context stops or goes on at its next move (R253, R264, R265). -/
def State.complete (s : State) (c : Nat) (m : Instr) (st : Nat) : State :=
  let x := s.ctx c
  let s := s.clearWaits c
  if (st == stTAKEOVER || (st == stFAULTED && s.mismatchNow m)) && s.bit (pCND c) (CND.CTX_CTRL_RERUN (c % 4)) &&
      !x.again && x.stopAs.isNone && !isSeal m then
    let s := (s.inc pCND0 CND0.COUNT2_RERUN).setLaunch c x.base
    let s := s.withCtx c fun x => { x with again := true, ended := none }
    (s.setRun c 1).sched 1 m
  else
    let s := s.incMod (pCND c) (CND.CTX_MOVES_COUNT (c % 4))
    let s := if keepsStatus m then s else s.put (pCND c) (CND.CTX_STATE_LAST_STATUS (c % 4)) st
    let s := s.withCtx c fun x => { Ctx.reset with stack := x.stack }
    let s := s.setOp c 0
    let s := match launchOf m with
      | some h =>
        if s.owner h.wing = c ∧ s.fieldSt (s.serving h.wing) = 0 ∧ s.calHolds h.wing = false ∧ s.invHolds h.wing = false then
          s.releaseWing h.wing else s
      | none => s
    match x.stopAs with
    | some r => s.stopCtx c r 0
    | none =>
      if st = stBAD_ADDRESS then s.stopCtx c 4 4
      else if !okClass st && s.bit (pCND c) (CND.CTX_CTRL_STOP_ON_ERR (c % 4)) then s.stopCtx c 7 8
      else (s.setPc c (x.next.getD (addrAt (s.pc c) (moveLen m)))).fetchNext c

/-- MOVE_COMPLETION: a status reported to the Conductor takes effect (R264). -/
def effMoveCompletion (c : Nat) (s : State) : State :=
  if s.coreRuns && listCtx c && s.run c != 0 then
    match (s.ctx c).move, (s.ctx c).ended with
    | some m, some st =>
      match s.recoverAt with
      | some t => s.resched (t - s.now) (.moveCompletion c)
      | none => s.complete c m st
    | _, _ => s
  else s

/-- MOVE_FETCH: a move's words arrive and the move is issued, an RF move on the next CCLK; a word that is poisoned, lies
in register space or is not mapped, or spells no move, stops the context (R253–R255). -/
def effMoveFetch (c : Nat) (s : State) : State :=
  if s.coreRuns && listCtx c && s.run c == 1 && (s.ctx c).move.isNone then
    match s.recoverAt with
    | some t => s.resched (t - s.now) (.moveFetch c)
    | none =>
      let a := s.pc c
      let s : State := { s with slot := c }
      let s := s.when (s.ctx c).words.isEmpty fun s => s.xmpPrefetch a
      let x := s.gather c a (.moveFetch c) 2
      let x := match x.1 with
        | .all => if bitAt (nth (x.2.ctx c).words 0) 34 then x.2.gather c a (.moveFetch c) 4 else x
        | _ => x
      let s := x.2
      match x.1 with
      | .wait => s
      | .unmapped => s.stopCtx c 4 4
      | .all =>
        if (s.ctx c).psn.isSome then s.stopCtx c 5 5
        else match decodeMove c (s.ctx c).words with
          | none => s.stopCtx c 3 3
          | some m =>
            let s := s.withCtx c fun x => { x with words := [], psn := none }
            s.sched (if (launchOf m).isSome then 1 else 0) m
  else s

/-! ## RF moves: issue, claim and launch (R257–R261, R459) -/

/-- A move that transmits (R258). -/
def transmits : Instr → Bool
  | .field _ _ off _ => !off
  | .listen .. => false
  | m => (launchOf m).isSome

/-- A move that switches a field on. -/
def fieldOn : Instr → Bool
  | .field _ _ off _ => !off
  | _ => false

/-- The block that a Blitz move needs besides its chain. -/
def isBlitz : Instr → Bool
  | .listen _ _ a => a.proto == 4
  | .xchg _ _ _ blitz _ _ _ => blitz
  | .sound .. => true
  | .book .. => true
  | .gambit .. => true
  | .seal .. => true
  | _ => false

/-- The chain that a move drives (R98, R459). -/
def State.moveChain (s : State) (m : Instr) (w : Nat) : Nat :=
  match m with
  | .tune _ _ reserve _ => if reserve then 8 else s.serving w
  | _ => s.serving w

/-- A block that the move needs is disabled (R459). -/
def State.blockOff (s : State) (m : Instr) (w : Nat) : Bool :=
  let field := match m with
    | .field .. => true
    | .tune .. => true
    | _ => false
  ((transmits m || field) && !s.enabled (pTXC (s.moveChain m w))) ||
    (if isBlitz m then !s.enabled pBLZ else !field && !s.enabled pPRT) || (isSeal m && !s.enabled pINV)

/-- A move has the claim on its Wing: a FIELD move is armed on its chain, and the launch is awaited (R103, R257). -/
def State.claimed (s : State) (c : Nat) (m : Instr) (h : Launch) : State :=
  let s := ((s.setOwner h.wing c).disarm (.lateLimit c)).setRun c 3
  let s := match m with
    | .field _ _ off port => s.armField c h.wing off port
    | _ => s
  if (s.ctx c).ended.isSome then s
  else match (s.ctx c).target with
    | some t => s.arm (.rf c) t
    | none => s.sched s.toCarrier (.rfMoveLaunch c false)

/-- An RF move is issued: the tests of R459 and R458, its launch angle, the claim of its Wing or the wait for it (R257,
R259); a calibration that holds the Wing yields (R298). -/
def State.issueRf (s : State) (c : Nat) (m : Instr) (h : Launch) : State :=
  s.issue c m false fun s =>
    let target := if h.when_ = 1 then some (h.t % 2 ^ 40) else if h.when_ = 2 then some (((s.ctx c).base + h.t) % 2 ^ 40) else none
    let s := s.withCtx c fun x => { x with
      target := target, lateAt := (target.getD s.angle + h.late % 8192 * 65536) % 2 ^ 40 }
    if 8 ≤ h.wing ∨ s.blockOff m h.wing = true ∨ (target.isSome = true ∧ s.enabled pANG = false) then s.endMove c stDISABLED
    else if s.claimFree c h.wing then s.claimed c m h
    else
      let s := s.setRun c 2
      let s := s.when (s.calHolds h.wing && decide (s.cal.stage < 4) && !s.cal.forced && !s.agenda.any fun e => e.2 == .calYield) fun s =>
        s.sched 434 .calYield
      if target.isSome then s.armLimit c else s

/-- WING_CLAIM_GRANT: a released claim passes to the first waiting context in round-robin order, after a calibration that
is owed a forced window (R259, R271, R299). -/
def effWingClaimGrant (w : Nat) (s : State) : State :=
  if s.coreRuns && decide (w < 8) && s.owner w == 15 && !s.calHolds w && !s.invHolds w then
    match s.recoverAt with
    | some t => s.resched (t - s.now) (.wingClaimGrant w)
    | none =>
      if s.forcedReady w then s.sched 0 (.forcedWindow w)
      else match s.slotOrder.find? fun c => s.run c == 2 && s.moveWing c == some w with
        | some c =>
          match (s.ctx c).move with
          | some m => match launchOf m with
            | some h => s.claimed c m h
            | none => s
          | none => s
        | none => s
  else s

/-- The chain that carries a context's FIELD or TUNE move, or holds it back. -/
def State.chainFor (s : State) (c : Nat) : Option Nat :=
  (List.range 9).find? fun n => ((s.tx n).ctx == some c && (s.tx n).act != 0) || s.heldBy c n

/-! ### What an RF move does at its launch (R260) -/

/-- A move's role finds its receive chain and tap; the engine is taken, or the move ends (R128, R129). -/
def State.takeEngine (s : State) (c w role : Nat) (fixed : Option Nat) (p : Prog) : Option State × State :=
  let x := s.openRx w role fixed
  match x.2.1 with
  | some st => (none, x.2.2.endMove c st)
  | none =>
    let s := x.2.2.engStartRx w c p x.1
    (some s, s)

/-- A descriptor that an engine refuses (R158, R205). -/
def State.badDesc (s : State) (w : Nat) (blitz : Bool) : State :=
  if blitz then ((s.flag pBLZ BLZ.FLAG_BAD_MOVE).recordErr pBLZ 9).engEnd w stBAD_PARAM
  else ((s.flag pPRT PRT.FLAG_BAD_MOVE).recordErr pPRT 3).engEnd w stBAD_PARAM

/-- A descriptor that an exchange with a Blitz reply may send (R205). -/
def blitzDesc (ws : List Nat) : Bool :=
  dKind ws == 0 && dCrc ws && !dP4 ws && dExpect ws && !dSplit ws && decide (4 ≤ dLength ws)

/-- A SEND or XCHG with its descriptor read: the frame is handed on, its reply is awaited after it (R157–R159, R205, R260, R324). -/
def State.startSend (s : State) (c w : Nat) (fixed : Option Nat) (blitz : Bool) (dest : Option Nat) : State :=
  let ws := (s.ctx c).words
  let psn := (s.ctx c).psn
  if psn.any (· < 4) then s.endMove c stPOISONED
  else if dest.any fun d => !recordFits d (dLimit ws) then s.endMove c stBAD_ADDRESS
  else
    let s := s.withCtx c fun x => { x with committed := true }
    let x := match dest with
      | some _ => s.takeEngine c w 0 fixed (if blitz then .blitz else .exchange)
      | none => (some (s.engStart w c .send), s)
    match x.1 with
    | none => x.2
    | some s =>
      let e := s.eng w
      if e.dBad ws || (blitz && !blitzDesc ws) then s.badDesc w blitz
      else if psn.isSome then s.engEnd w stPOISONED
      else
        let s := s.withEng w fun e => { e with dest := dest, limit := dLimit ws }
        let b := dData ws
        if blitz then
          (s.laneBusy w true).sendBlitz w (frameOf ws) (nth b 2 + 256 * nth b 3) (s.toneSet e.port ((nth b 1).testBit 0))
        else if dest.isSome ∧ dExpect ws = true then s.sendFrame w (frameOf ws)
        else s.sendFrame w { frameOf ws with expect := false }

/-- Words of a transmit descriptor gathered, SRAM or window, then the frame (R158, R261, R379). -/
def State.descMove (s : State) (c w desc : Nat) (fixed : Option Nat) (blitz : Bool) (dest : Option Nat) : State :=
  let again := Instr.rfMoveLaunch c false
  match s.gather c desc again 2 with
  | (.unmapped, s) => s.endMove c stBAD_ADDRESS
  | (.wait, s) => s
  | (.all, s) =>
    match s.gather c desc again (dWords (s.ctx c).words) with
    | (.unmapped, s) => s.endMove c stBAD_ADDRESS
    | (.wait, s) => s
    | (.all, s) => s.startSend c w fixed blitz dest

/-- A LISTEN: no command goes out; the frame's CRC is left in the data and no window of the reply time is tested. -/
def State.startListen (s : State) (c w : Nat) (a : ListenArgs) : State :=
  let limit := orDefault 4095 a.limit
  if !recordFits a.dest limit then s.endMove c stBAD_ADDRESS
  else
    let s := s.withCtx c fun x => { x with committed := true }
    let fixed := if a.tapEn then some a.tapPort else none
    match (s.takeEngine c w a.role fixed (if a.proto = 4 then .blitz else .exchange)).1 with
    | none => (s.takeEngine c w a.role fixed .exchange).2
    | some s =>
      let s := s.withEng w fun e => { e with dest := some a.dest, limit := limit }
      if a.proto = 4 then
        let s := (s.laneBusy w true).withEng w fun e => { e with set := s.toneSet e.port a.coloured }
        (s.awaitBlitz w).waitFor w (orDefault (s.get pBLZ BLZ.TIME_WAIT) a.wait)
      else
        let f : TxFrame := {
          kind := if a.proto = 1 then 0 else if a.proto = 2 then 3 else 4, rate := a.rate, rrate := a.rate, crc := false, p4 := false,
          expect := true, bytes := [], lastBits := 0, wait := orDefault 13560 a.wait, lo := 0, hi := 2 ^ 24 }
        ((s.withEng w fun e => { e with frame := f, wire := [] }).put pPRT (PRT.ENG_STAT_PROTO w) a.proto).awaitLegacy w

/-- An ANTICOLL begins; a result area that leaves SRAM ends it (R171, R261). -/
def State.startAnticoll (s : State) (c w : Nat) (a : AnticollArgs) : State :=
  let max := orDefault 1 (s.get pPRT PRT.ENGINE_MAX_TAGS)
  if sramLast + 1 < a.result + 4 * max then s.endMove c stBAD_ADDRESS
  else
    let s := s.withCtx c fun x => { x with committed := true }
    match s.takeEngine c w 0 none .exchange with
    | (none, s) => s
    | (some s, _) => s.acBegin w a max

/-- SOUND, BOOK and GAMBIT begin on the Wing's lane (R204, R211, R213). -/
def State.startLane (s : State) (c w : Nat) (begin_ : State → State) : State :=
  let s := s.withCtx c fun x => { x with committed := true }
  match s.takeEngine c w 0 none .blitz with
  | (none, s) => s
  | (some s, _) => begin_ (s.laneBusy w true)

/-- A TUNE starts its auto-tune on the Wing's chain, or on TXC8 (R96–R98). -/
def State.startTuneMove (s : State) (c w : Nat) (reserve : Bool) (port : Nat) : State :=
  let n := if reserve then 8 else s.serving w
  let pg := if reserve then pTXC 8 else pTXC w
  let s := (s.withCtx c fun x => { x with committed := true }).startTune n port pg pg (some c)
  if (s.tx n).act = 3 ∧ (s.tx n).ctx = some c then s.fireField n else s

/-- An RF move begins in its blocks at its carrier-cycle boundary: RESIGNED, lock, the driven port and the engine's and
lane's service are tested first (R181, R215, R258, R260, R419). -/
def State.startRf (s : State) (c : Nat) (m : Instr) (w : Nat) : State :=
  match m with
  | .field .. => s
  | .tune _ _ reserve port => s.startTuneMove c w reserve port
  | _ =>
    if s.resigned then s.endMove c stFAULTED
    else if transmits m && !s.synLocked then
      if s.enabled pANG then s.armLimit c else s.endMove c stDISABLED
    else
      let s := s.disarm (.lateLimit c)
      if (s.driven (s.serving w)).isNone then s.endMove c stBAD_PORT
      else if s.engOut w || (isBlitz m && s.laneOut w) then s.endMove c stFAULTED
      else match m with
        | .send _ _ desc => s.descMove c w desc none false none
        | .listen _ _ a => s.startListen c w a
        | .xchg _ _ tapEn blitz tapPort desc dest => s.descMove c w desc (if tapEn then some tapPort else none) blitz (some dest)
        | .anticoll _ _ a => s.startAnticoll c w a
        | .sound _ _ coloured => s.startLane c w fun s => s.soundBegin w coloured
        | .book _ _ coloured => s.startLane c w fun s => s.bookBegin w coloured
        | .gambit _ _ reload => s.startLane c w fun s => s.gambitBegin w reload
        | .seal _ _ job => (s.sealLaunch w c job (.rfMoveLaunch c false)).withCtx c fun x => { x with committed := x.committed || (s.eng w).user == some c }
        | _ => s

/-- The move's launch: LAST_LAUNCH is written, and the move begins at the carrier-cycle boundary (R60, R257). -/
def State.fireRf (s : State) (c : Nat) (m : Instr) (h : Launch) (late : Bool) : State :=
  let t := (s.ctx c).target
  let past := match t with
    | some t => late && decide (h.late % 8192 * 65536 < (s.angle + 2 ^ 40 - t) % 2 ^ 40)
    | none => false
  let s := s.setLaunch c (t.getD s.angle)
  if past then
    match s.chainFor c with
    | some n => s.dropFor c n stLATE
    | none => s.endMove c stLATE
  else
    let s := s.setRun c 4
    match m with
    | .field .. =>
      let s := s.withCtx c fun x => { x with committed := true }
      match s.chainFor c with
      | some n => s.fireFor c n
      | none => s
    | _ => s.sched s.toCarrier (.rfMoveLaunch c false)

/-- A GAMBIT that waits for the words of its Book goes on (R204, R379). -/
def State.laneOn (s : State) (w : Nat) : State :=
  match (s.eng w).prog with
  | .gambitWait a1 a2 => s.gambitReload w a1 a2
  | _ => s

/-- RF_MOVE_LAUNCH: the launch comparator of a context's RF move has fired, or the move's carrier-cycle boundary has come
(R257, R60). -/
def effRfMoveLaunch (c : Nat) (late : Bool) (s : State) : State :=
  if s.coreRuns && listCtx c && (s.ctx c).ended.isNone then
    match (s.ctx c).move with
    | some m => match launchOf m with
      | some h =>
        match s.recoverAt with
        | some t => if (s.ctx c).committed then s else s.resched (t - s.now) (.rfMoveLaunch c ((s.ctx c).target.isSome && s.run c == 3))
        | none =>
          if s.run c = 3 then s.fireRf c m h late
          else if s.run c = 4 ∧ (s.ctx c).committed = false then s.startRf c m h.wing
          else if s.run c = 4 ∧ (s.eng h.wing).user = some c then s.laneOn h.wing
          else s
      | none => s
    | none => s
  else s

/-- LATE_LIMIT_EXPIRY: a move that still waits for its claim, lock or rail ends LATE without having acted (R103, R257,
R258). -/
def effLateLimitExpiry (c : Nat) (s : State) : State :=
  if s.coreRuns && listCtx c && (s.ctx c).ended.isNone then
    match (s.ctx c).move with
    | some m => match launchOf m with
      | some h =>
        if s.run c = 2 then
          let s := s.setLaunch c ((s.ctx c).target.getD (s.lastLaunch c))
          (s.when (fieldOn m) fun s => s.lateMark (s.serving h.wing)).endMove c stLATE
        else if s.run c = 4 then
          match s.chainFor c with
          | some n =>
            if s.heldBy c n = true ∨ (s.tx n).act = 1 then s.dropFor c n stLATE
            else if (s.tx n).act = 3 ∧ s.fieldSt n = 1 then s.dropArmed n stLATE else s
          | none =>
            if !(s.ctx c).committed && transmits m && !s.synLocked then
              ((s.flag (pTXC (s.serving h.wing)) TXC.FLAG_LATE).recordErr (pTXC (s.serving h.wing)) 0x0A).endMove c stLATE
            else s
        else s
      | none => s
    | none => s
  else s

/-! ## Abort, halt and disable (R266, R267) -/

/-- A word gathered by a COPY for the window, with its mark above it. -/
def copiedWord (v : Nat) : Nat × Bool := (v % 2 ^ 40, decide (2 ^ 40 ≤ v))

/-- An abort reaches the move in flight first: its block ends it ABORTED (R182, R216, R246, R266, R460). -/
def State.abortMove (s : State) (c : Nat) : State :=
  match (s.ctx c).move with
  | none => s
  | some m =>
    let s := s.withInv fun i => { i with waits := i.waits.filter fun x => x ≠ c }
    match s.chainFor c with
    | some n => if s.heldBy c n then s.dropHeld n stABORTED else s.abortField n
    | none =>
      match (List.range 8).find? fun w => (s.eng w).user == some c with
      | some w => s.stopWing w stABORTED
      | none =>
        let s := match m with
          | .copy _ _ _ dst =>
            if inWindow dst && !(s.ctx c).committed && !(s.ctx c).words.isEmpty then
              s.xmpStore c (dst - winBase) ((s.ctx c).words.map copiedWord) else s
          | _ => s
        (s.clearWaits c).endMove c stABORTED

/-- An abort of a context, which a completion on the same edge or the want of a move in flight makes late (R266). -/
def State.abortCtx (s : State) (c hop : Nat) : State :=
  if (s.ctx c).move.isSome && (s.ctx c).ended.isNone then s.abortMove c
  else ((s.inc pCND0 CND0.COUNT1_LATE_ABORT).flag pCND0 CND0.FLAG_LATE_ABORT).present (147 + c) hop

/-- A context is halted with a reason (R267). -/
def State.haltCtx (s : State) (c reason : Nat) : State :=
  if s.run c = 0 then
    if s.reason c = 1 ∧ (List.range 8).any (fun w => s.owner w == c) = true then (s.setReason c reason).dropClaims c true else s
  else if (s.ctx c).move.isSome then
    let s := s.withCtx c fun x => { x with stopAs := some reason }
    if (s.ctx c).ended.isNone then s.abortMove c else s
  else s.stopCtx c reason 0

/-- CONTEXT_START: a write of 1 to CTXj_CTRL.START (R251). -/
def effContextStart (_src : Src) (c : Nat) (s : State) : State :=
  if s.coreRuns && decide (c < 12) then s.startCtx c 0 else s

/-- CONTEXT_ABORT: a write of 1 to CTXj_CTRL.ABORT (R266); none of context 10, which has no move (R252, R277). -/
def effContextAbort (c : Nat) (s : State) : State :=
  if s.coreRuns && listCtx c then s.abortCtx c 0 else s

/-- CONTEXT_HALT: a write of 1 to CTXj_CTRL.HALT (R267). -/
def effContextHalt (c : Nat) (s : State) : State :=
  if s.coreRuns && listCtx c then s.haltCtx c 2 else s

/-- The contexts of a CND page, all of them for CND0. -/
def pageCtxs (page : Nat) : List Nat :=
  if page = pCND0 then List.range 12 else (List.range 12).filter fun c => pCND c = page

/-- A write of 0 to CTRL.ENABLE of CND0 or a CND page halts its contexts with reason DISABLED (R267). -/
def State.disableCnd (s : State) (page : Nat) : State :=
  s.forEach (pageCtxs page) fun s c => if listCtx c then s.haltCtx c 8 else s

/-- ANG stops: waits of RF moves for an angle end DISABLED, and so does every WAIT_ANGLE (R58, R458). -/
def State.angStopMoves (s : State) : State :=
  s.forEach (List.range 12) fun s c =>
    if (s.ctx c).move.isSome && (s.ctx c).ended.isNone then
      let limited := s.cmps.any fun k => k.user == .lateLimit c
      if s.run c = 5 then (s.clearWaits c).endMove c stDISABLED
      else if ((s.run c = 2 ∨ s.run c = 3) ∧ (s.ctx c).target.isSome = true) ∨ (s.run c = 4 ∧ limited = true) then
        let s := s.clearWaits c
        match s.chainFor c with
        | some n => s.dropFor c n stDISABLED
        | none => s.endMove c stDISABLED
      else s
    else s

/-! ## Lockstep (R250, R268, R269) -/

/-- Step 4 of a recovery: issue resumes, held statuses are delivered (R269). -/
def State.lockRecovered (s : State) : State :=
  if s.coreUp then (s.inc pCND0 CND0.COUNT1_RECOVERED).flag pCND0 CND0.FLAG_RECOVERED else s

/-- A COPY that is not committed runs again from its first word (R269). -/
def State.copyAgain (s : State) (c : Nat) : State :=
  match (s.ctx c).move with
  | some (.copy ..) => if (s.ctx c).committed then s else s.withCtx c fun x => { x with words := [], copied := 0 }
  | _ => s

/-- LOCKSTEP_MISMATCH: the recovery of R269 begins, or with the third mismatch within 10 ms the Conductor goes out of
service and every field ramps down. -/
def effLockstepMismatch (s : State) : State :=
  if s.coreRuns && !s.conductorOut then
    let s : State := { s with lockMism := recent10ms s.now s.lockMism, timers := s.timers.filter fun t => t.2 ≠ .lockstep }
    let s := s.setFault pCND0 1 1 { cls := 1, action := 1, interrupt := 128 }
    let s := s.forEach (List.range 12) State.copyAgain
    if s.conductorOut then
      let s := s.setFault pCND0 2 2 { cls := 0x0D, action := 3 }
      let s := s.allDown stFAULTED
      s.forEach (List.range 12) fun s c => if s.run c ≠ 0 ∧ listCtx c = true then (s.abortMove c).stopCtx c 9 0 else s
    else s.timer 128 .lockstep
  else s

/-! ## The RF move rows -/

/-- FIELD (R103, R104, R260). -/
def effField (c : Nat) (h : Launch) (off : Bool) (port : Nat) (s : State) : State := s.issueRf c (.field c h off port) h
/-- TUNE (R96, R260). -/
def effTune (c : Nat) (h : Launch) (reserve : Bool) (port : Nat) (s : State) : State := s.issueRf c (.tune c h reserve port) h
/-- SEND (R158, R260). -/
def effSend (c : Nat) (h : Launch) (desc : Nat) (s : State) : State := s.issueRf c (.send c h desc) h
/-- LISTEN (R260). -/
def effListen (c : Nat) (h : Launch) (a : ListenArgs) (s : State) : State := s.issueRf c (.listen c h a) h
/-- XCHG (R205, R260). -/
def effXchg (c : Nat) (h : Launch) (tapEn blitz : Bool) (tapPort desc dest : Nat) (s : State) : State :=
  s.issueRf c (.xchg c h tapEn blitz tapPort desc dest) h
/-- ANTICOLL (R171, R260). -/
def effAnticoll (c : Nat) (h : Launch) (a : AnticollArgs) (s : State) : State := s.issueRf c (.anticoll c h a) h
/-- SOUND (R211). -/
def effSound (c : Nat) (h : Launch) (coloured : Bool) (s : State) : State := s.issueRf c (.sound c h coloured) h
/-- BOOK (R213). -/
def effBook (c : Nat) (h : Launch) (coloured : Bool) (s : State) : State := s.issueRf c (.book c h coloured) h
/-- GAMBIT (R204). -/
def effGambit (c : Nat) (h : Launch) (reload : Bool) (s : State) : State := s.issueRf c (.gambit c h reload) h

/-- SEAL (R240–R242): a move of a context; as the continuation of an inventory resumption (32 + w) it goes on with its job
once missing window lines have come. -/
def effSeal (c : Nat) (h : Launch) (job : Nat) (s : State) : State :=
  if 32 ≤ c ∧ c < 40 then
    if s.coreRuns && (s.invWing (c - 32)).phase == 3 && (s.eng (c - 32)).user.isNone then s.sealLaunch (c - 32) c job (.seal c h job)
    else s
  else s.issueRf c (.seal c h job) h

/-! ## Control moves (R262) -/

/-- STOP: the context stops with reason STOP and raises its DONE event. -/
def effStop (c : Nat) (s : State) : State := s.issue c (.stop c) false fun s => s.stopCtx c 1 0

/-- INVENTORY: INV.CMD is written; the move ends when the command is taken or, with WAIT, when the pass ends (R229, R247,
R262). -/
def effInventory (c : Nat) (wait : Bool) (action : Nat) (s : State) : State :=
  let m := Instr.inventory c wait action
  s.issue c m true fun s =>
    let ok := fun (s : State) =>
      if wait && s.invState != 0 then (s.withInv fun i => { i with waits := i.waits ++ [c] }).withCtx c fun x => { x with committed := true }
      else s.endMove c stDONE
    let s := s.number .move
    if action = 2 then ok s.invStop
    else match s.invBegin (action == 1) (some c) (s.moveHop c) m with
      | (none, s) => s
      | (some true, s) => ok s
      | (some false, s) => s.endMove c stREFUSED

/-- WAIT_ANGLE: the context's comparator is armed under R56 and shown in ANG.WAITc (R58, R262). -/
def effWaitAngle (c when_ angle : Nat) (s : State) : State :=
  s.issue c (.waitAngle c when_ angle) false fun s =>
    let base := if when_ = 1 then 0 else if when_ = 2 then (s.ctx c).base else s.angle
    let t := (base + angle) % 2 ^ 40
    if !s.enabled pANG then s.endMove c stDISABLED
    else
      let s := s.withCtx c fun x => { x with target := some t }
      let s := (s.put pANG (ANG.WAIT_TARGET c) t).putBit pANG ANG.WAIT_ACTIVE_ACTIVE c true
      (s.setRun c 5).arm (.waitAngle c) t

/-- WAIT_ANGLE_FIRE: DONE on firing, LATE if late; LAST_LAUNCH becomes the target (R262). -/
def effWaitAngleFire (c : Nat) (late : Bool) (s : State) : State :=
  if s.coreRuns && listCtx c && s.run c == 5 && (s.ctx c).ended.isNone then
    (s.setLaunch c ((s.ctx c).target.getD 0)).endMove c (if late then stLATE else stDONE)
  else s

/-- WAIT_EVENT: DONE on the first fire of the channel from the issue edge on, that edge included (R262, R271). -/
def effWaitEvent (c ch timeout : Nat) (s : State) : State :=
  s.issue c (.waitEvent c ch timeout) false fun s =>
    let s := s.setRun c 6
    if s.fires.contains (ch, s.now) then s.endMove c stDONE
    else s.when (decide (timeout ≠ 0)) fun s => s.sched timeout (.waitEventTimeout c)

/-- WAIT_EVENT_TIMEOUT: the timeout passes and the move ends TIMEOUT (R262). -/
def effWaitEventTimeout (c : Nat) (s : State) : State :=
  if s.coreRuns && listCtx c && s.run c == 6 then s.endMove c stTIMEOUT else s

/-- A delivery of a channel ends the WAIT_EVENTs for it (R262, R287). -/
def State.wakeWaiters (s : State) (ch : Nat) : State :=
  s.forEach (List.range 12) fun s c =>
    match s.run c, (s.ctx c).move with
    | 6, some (.waitEvent _ k _) => if k = ch then s.endMove c stDONE else s
    | _, _ => s

/-- RAISE: the context's producer is presented to the channel with its hop count + 1; DONE if the channel accepts it
(R251, R286). -/
def effRaise (c ch : Nat) (s : State) : State :=
  s.issue c (.raise c ch) false fun s =>
    let r := s.presentTo (159 + c) (s.moveHop c) (ch % 64)
    r.1.endMove c (if r.2 then stDONE else stREFUSED)

/-- The condition of a BRANCH on LAST_STATUS and on the value of A[REG], DEC_NZ having counted it down (R262). -/
def branchHolds (cond imm st a : Nat) : Bool :=
  match cond with
  | 0 => true
  | 1 => okClass st
  | 2 => !okClass st
  | 3 => st == imm
  | 4 => st != imm
  | 5 => a == 0
  | 6 => a != 0
  | 7 => a != 0
  | 8 => a.testBit imm
  | _ => !a.testBit imm

/-- BRANCH: the next address is the target when COND holds; a poisoned operand stops the context (R262, R263). -/
def effBranch (c cond imm reg target : Nat) (s : State) : State :=
  s.issue c (.branch c cond imm reg target) false fun s =>
    if 5 ≤ cond ∧ s.accPoisoned c reg = true then s.stopCtx c 5 5
    else
      let a := if cond = 7 then (s.acc c reg + 2 ^ 40 - 1) % 2 ^ 40 else s.acc c reg
      let s := s.when (decide (cond = 7)) fun s => s.setA c reg a false
      let s := if branchHolds cond imm (s.lastStatus c) a then s.withCtx c fun x => { x with next := some (target % 2 ^ 40) } else s
      s.endMove c stDONE

/-- CALL: the next address is pushed; a ninth push stops the context (R262). -/
def effCall (c target : Nat) (s : State) : State :=
  s.issue c (.call c target) false fun s =>
    let l := (s.ctx c).stack
    if 8 ≤ l.length then s.stopCtx c 6 6
    else ((s.setStack c (addrAt (s.pc c) 2 :: l)).withCtx c fun x => { x with next := some (target % 2 ^ 40) }).endMove c stDONE

/-- RETURN: the next address is popped; an empty stack stops the context (R262). -/
def effRet (c : Nat) (s : State) : State :=
  s.issue c (.ret c) false fun s =>
    match (s.ctx c).stack with
    | [] => s.stopCtx c 6 6
    | a :: l => ((s.setStack c l).withCtx c fun x => { x with next := some a }).endMove c stDONE

/-- LOG: a USER record is queued with the context, TAG, word 1, A0 and LAST_STATUS; FULL when the queue has no entry for it
(R262, R309, R310). -/
def effLog (c tag value : Nat) (s : State) : State :=
  s.issue c (.log c tag value) false fun s =>
    let full := decide (12 ≤ s.scoQueue.length)
    let s := s.scoRecord 2 s.seqNext ([c, tag % 256] ++ beBytes 5 value ++ beBytes 5 (s.acc c 0) ++ [s.lastStatus c])
    s.endMove c (if full then stFULL else stDONE)

end Sys2Proof.Machine
end

