-- ==== Sys2Proof/Machine/Events.lean ====
section
/-! DEFINITION. The event fabric (R274–R292): producers, channel deliveries, tasks, chain-linked channels, software firing
and the fabric's faults. -/

namespace Sys2Proof.Machine

open Sys2Proof

/-! ## Tasks (R277, R281) -/

/-- A GPIO output level (R288). -/
def State.gpioLevel (s : State) (n : Nat) : Bool := s.bitOf pARB ARB.GPIO_OUT_LEVEL n

/-- SET or CLEAR of a GPIO; both on one edge invert the level that stood before (R288). -/
def State.gpioTask (s : State) (n : Nat) (up : Bool) : State :=
  let other := if up then 73 + n else 57 + n
  match s.trig.find? fun e => e.1 == other && e.2.1 == s.now with
  | some e => s.putBit pARB ARB.GPIO_OUT_LEVEL n (!e.2.2)
  | none => s.putBit pARB ARB.GPIO_OUT_LEVEL n up

/-- A task of INV with the hop of its trigger (R277, R284). -/
def State.invTask (s : State) (disc : Bool) (hop : Nat) : State :=
  (s.invBegin disc none hop (if disc then .invDiscover else .invStart)).2

/-- CAPTURE of a receive chain: trigger 4 (R147). -/
def State.captureTask (s : State) (n hop : Nat) : State :=
  if s.capState n = 1 ∧ s.get (pRXC n) RXC.CAP_CFG_TRIG = 4 then
    (s.withRx n fun r => { r with capHop := hop }).trigger n 4
  else s

/-- What a task does on a trigger of hop `hop` (R277). -/
def State.taskAct (s : State) (t hop : Nat) : State :=
  if t < 12 then s.startCtx t hop
  else if t < 24 then (if listCtx (t - 12) then s.abortCtx (t - 12) (hop + 1) else s)
  else if t < 36 then (if listCtx (t - 24) then s.haltCtx (t - 24) 2 else s)
  else if t < 53 then s.captureTask (t - 36) (hop + 1)
  else if t = 53 then s.invTask false (hop + 1)
  else if t = 54 then s.invTask true (hop + 1)
  else if t = 55 then s.invStop
  else if t = 56 then s.sweepTask (hop + 1)
  else if t < 73 then s.gpioTask (t - 57) true
  else s.gpioTask (t - 73) false

/-- A later trigger of one edge raises the hop of what the first began (R281). -/
def State.taskHop (s : State) (t hop : Nat) : State :=
  if t < 12 then
    s.when (s.run t != 0 && decide (s.get (pCND t) (CND.CTX_STATE_HOP (t % 4)) < hop)) fun s =>
      s.put (pCND t) (CND.CTX_STATE_HOP (t % 4)) hop
  else if 36 ≤ t ∧ t < 53 then s.withRx (t - 36) fun r => if r.capHop = 0 then r else { r with capHop := max r.capHop (hop + 1) }
  else if t = 53 ∨ t = 54 then s.withInv fun i => { i with hop := max i.hop (hop + 1) }
  else if t = 56 then s.withKbz fun k => if k.waited then { k with hopNext := max k.hopNext (hop + 1) } else { k with hop := max k.hop (hop + 1) }
  else s

/-- A channel's delivery triggers a task; triggers of one edge merge (R281). -/
def State.trigTask (s : State) (t hop : Nat) : State :=
  let again := s.trig.any fun e => e.1 == t && e.2.1 == s.now
  let s := s.incMod pARB (ARB.TASK_TRIGGERS t)
  if again then (s.inc pARB (ARB.TASK_MERGED t)).taskHop t hop
  else
    let lv := s.gpioLevel (if t < 73 then t - 57 else t - 73)
    let s := s.taskAct t hop
    { s with trig := (t, s.now, lv) :: s.trig.filter fun e => e.2.1 == s.now }

/-- The tasks that a channel drives, ascending (R278), under the TSEL before the writes of this edge (R292). -/
def State.channelTasks (s : State) (ch : Nat) : List Nat :=
  (List.range 89).filter fun t => s.unwritten.bitOf (pEVT (ch / 8)) (EVT.CH_TSEL (ch % 8) (t / 40)) (t % 40)

/-! ## Delivery (R279, R287) -/

/-- A channel delivers: number, FIRE flag, FIRES, LAST, tasks, waits; a second delivery of one edge merges. -/
def State.deliver (s : State) (d : Delivery) : State :=
  let pg := pEVT (d.ch / 8); let k := d.ch % 8
  let s := ({ s with deliveries := s.deliveries.erase d } : State).pendingBits (d.ch / 8)
  let tasks := s.channelTasks d.ch
  let unal := d.unaligned || (d.chain && s.unaligned)
  let s := if s.fires.contains (d.ch, s.now) then
      let s := s.inc pg (EVT.CH_COUNT1_MERGED k)
      let s := s.put pg (EVT.CH_LAST_HOP k) (max d.hop (s.get pg (EVT.CH_LAST_HOP k)))
      { s with fires := (d.ch, s.now) :: s.fires }
    else
      let r := s.numberAs (3000 + d.ch) (200 + d.ch)
      let q := r.1
      let s := (r.2.flag pg EVT.FLAG_FIRE k).incMod pg (EVT.CH_COUNT1_FIRES k)
      let s := (s.put pg (EVT.CH_LAST_SEQ k) q).put pg (EVT.CH_LAST_HOP k) d.hop
      let s := s.putB pg (EVT.CH_LAST_UNALIGNED k) unal
      { s with fires := (d.ch, s.now) :: s.fires.filter fun e => e.2 == s.now }
  (s.forEach tasks fun s t => s.trigTask t d.hop).wakeWaiters d.ch

/-- A chain-linked fire cannot be sent (R289). -/
def State.cannotSend (s : State) : Bool :=
  s.boardNum == 62 || s.bit pMCH MCH.FAULT_DUP_NUMBER || s.bit pMCH MCH.FAULT_ANGLE_LOST || !s.enabled pMCH ||
    !s.enabled pANG || !s.mayOriginate 7

/-- A local delivery of a chain-linked channel: its EVENT cell is queued, or the fire is dropped (R85, R289). -/
def State.chainFire (s : State) (d : Delivery) : State :=
  let pg := pEVT (d.ch / 8); let k := d.ch % 8
  if s.cannotSend then
    let s := ({ s with deliveries := s.deliveries.erase d } : State).pendingBits (d.ch / 8)
    ((s.inc pg (EVT.CH_COUNT2_DROPPED k)).flag pg EVT.FLAG_CHAIN_DROP k).recordErr pg 3
  else
    let s : State := { s with deliveries := s.deliveries.map fun e =>
      if e = d then { d with chain := true, angle := unsent, due := 0 } else e }
    s.queueCell 7 (d.hop % 16 * 16 + d.ch % 16) 0

/-- The pending local delivery of a channel that is due first. -/
def State.nextDelivery (s : State) (ch : Nat) : Option Delivery :=
  (s.deliveries.filter fun d => d.ch == ch && !d.chain).foldl (fun a d => match a with
    | none => some d
    | some b => if d.due < b.due then some d else a) none

/-- CHANNEL_DELIVERY: an accepted event's delay has passed (R279, R289). -/
def effChannelDelivery (ch : Nat) (s : State) : State :=
  if s.coreUp && decide (ch < 64) then
    match s.nextDelivery ch with
    | none => s
    | some d =>
      let s : State := { s with agenda := s.agenda.filter fun e => e ≠ (d.due, .channelDelivery ch) }
      if s.chainLinked ch then s.chainFire d else s.deliver d
  else s

/-- CHAIN_LINKED_DELIVERY: the Board's angle reaches the launch angle of a chain-linked delivery (R85, R289). -/
def effChainLinkedDelivery (ch angle : Nat) (s : State) : State :=
  let s := s.disarm (.chainDel ch angle)
  if s.coreUp && s.channelOn ch then
    match s.deliveries.find? fun d => d.ch == ch && d.chain && d.angle == angle with
    | some d => s.deliver d
    | none => s
  else s

/-! ## Producers and software firing (R275, R276, R286) -/

/-- Producers that are presented to every channel: all but HOST and the RAISEs, and those of context 10, which runs no move
(R275, R276). -/
def openProducer (p : Nat) : Bool :=
  decide (p < 192) && p != 171 && !decide (159 ≤ p ∧ p < 171) && p != 133 && p != 145 && p != 157

/-- PRODUCER_EVENT: a producer presents an event (R275, R279, R284, R285). -/
def effProducerEvent (p hop : Nat) (s : State) : State := if openProducer p then s.present p hop else s

/-- HOST_FIRE: a write of FIRE0, or of FIRE1 with `high`, presents HOST, one event, to each named channel, once on one edge whoever
writes (R275, R276, R286). -/
def effHostFire (high : Bool) (mask : Nat) (s : State) : State :=
  if s.coreUp then
    let m := if high then mask % 2 ^ 24 * 2 ^ 40 else mask % 2 ^ 40
    let old := s.touched.fired
    let s := if m != 0 ∧ old = 0 then (s.numberAs 2171 0).2 else s
    let s : State := { s with touch := { s.touched with fired := old ||| m } }
    s.forEach (List.range 64) fun s ch => s.when (m.testBit ch && !old.testBit ch) fun s => s.acceptAt 171 0 ch
  else s

/-! ## Stops of channels, faults (R290, R291) -/

/-- A pending delivery falls due on this edge (R290). -/
def State.dueNow (s : State) (d : Delivery) : Bool :=
  if d.chain then d.angle != unsent && s.ang.running && (d.angle == s.angle || s.lateTarget d.angle) else decide (d.due ≤ s.now)

/-- A channel stops accepting: its pending deliveries are dropped, but those of this edge (R290). -/
def State.stopChannel (s : State) (ch : Nat) : State :=
  let l := s.deliveries.filter fun d => d.ch == ch && !s.dueNow d
  let s : State := { s with
    deliveries := s.deliveries.filter fun d => d.ch ≠ ch || s.dueNow d
    agenda := s.agenda.filter fun e => decide (e.1 ≤ s.now) || decide (e.2 ≠ .channelDelivery ch)
    cmps := s.cmps.filter fun c => match c.user with
      | .chainDel h _ => h ≠ ch
      | _ => true }
  (s.incBy (pEVT (ch / 8)) (EVT.CH_COUNT2_DROPPED (ch % 8)) l.length).pendingBits (ch / 8)

/-- The eight channels of a page stop. -/
def State.stopPage (s : State) (i : Nat) : State := s.forEach (List.range 8) fun s k => s.stopChannel (8 * i + k)

/-- Every channel stops. -/
def State.stopFabric (s : State) : State := s.forEach (List.range 8) State.stopPage

/-- Chain-linked deliveries are dropped when ANG stops (R458). -/
def State.dropChainDeliveries (s : State) : State :=
  s.forEach (s.deliveries.filter fun d => d.chain) fun s d =>
    let s : State := { s with deliveries := s.deliveries.erase d }
    ((s.disarm (.chainDel d.ch d.angle)).inc (pEVT (d.ch / 8)) (EVT.CH_COUNT2_DROPPED (d.ch % 8))).pendingBits (d.ch / 8)

/-- ARB_MISMATCH: FAULT.DUP; the edge's deliveries come one CCLK late, or, the recomputation mismatching as well (`second`),
are dropped (R291). -/
def effArbMismatch (second : Bool) (s : State) : State :=
  if s.coreRuns then
    let dueNow := s.deliveries.filter fun d => !d.chain && decide (d.due ≤ s.now)
    let isDue := fun (e : Nat × Instr) => dueNow.any fun d => e == (d.due, .channelDelivery d.ch)
    let s := s.setFault pARB 1 1 { cls := 3, action := 1, interrupt := 1 }
    if second then
      let s : State := { s with agenda := s.agenda.filter fun e => !isDue e }
      let s := s.forEach dueNow fun s d =>
        (({ s with deliveries := s.deliveries.erase d } : State).inc (pEVT (d.ch / 8)) (EVT.CH_COUNT2_DROPPED (d.ch % 8))).pendingBits (d.ch / 8)
      s.setFault pARB 2 2 { cls := 0x0D, action := 3 }
    else
      let s : State := { s with
        agenda := s.agenda.map fun e => if isDue e then (s.now + 1, e.2) else e
        deliveries := s.deliveries.map fun d => if !d.chain && decide (d.due ≤ s.now) then { d with due := s.now + 1 } else d }
      s.flag pARB ARB.FLAG_RETRY
  else s

end Sys2Proof.Machine
end

