-- ==== Sys2Proof/Machine/Cal.lean ====
section
/-! DEFINITION. Background calibration (R295–R306, R313, R314): instances falling due, Wing windows, acceptance, adoption,
the application of corrections, the carrier phase between Boards. -/

namespace Sys2Proof.Machine

open Sys2Proof

def State.withCal (s : State) (f : Cal → Cal) : State := { s with cal := f s.cal }

/-! ## Instances (R295, R296): 0 SYN, 1–9 TXC0–TXC8, 10–26 RXC0–RXC16, 27 MCH -/

/-- The kind of an instance is enabled in CAL.CFG. -/
def State.kindOn (s : State) (i : Nat) : Bool :=
  if i = 0 then s.bit pCAL CAL.CFG_SYN_EN else if i < 10 then s.bit pCAL CAL.CFG_TXP_EN else s.bit pCAL CAL.CFG_RXP_EN

def State.isDue (s : State) (i : Nat) : Bool := s.cal.due.any fun e => e.1 == i

/-- STATUS follows the run in progress (R315). -/
def State.calShow (s : State) : State :=
  let c := s.cal
  let s := s.putB pCAL CAL.STATUS_BUSY (c.stage != 0)
  let s := s.putB pCAL CAL.STATUS_WINDOW (c.stage == 1 || c.stage == 2)
  let s := s.putB pCAL CAL.STATUS_SYN (c.stage == 3)
  let s := s.putB pCAL CAL.STATUS_FORCED (c.forced && c.stage != 0)
  s.put pCAL CAL.STATUS_WING c.wing

/-- READY.INIT_DONE: every enabled instance has its first adopted result (R301). -/
def State.calInitDone (s : State) : Bool :=
  (List.range 27).all fun i => !s.kindOn i || (AMap.find i s.cal.refs).isSome

/-- An instance falls due (R296, R299). -/
def State.fallDue (s : State) (i : Nat) : State :=
  if s.isDue i then s
  else
    let s := s.withCal fun c => { c with due := c.due ++ [(i, s.now)] }
    (s.unsched (.calDue i)).resched (orDefault 1 (s.get pCAL CAL.SHARE_PERIOD) * ms) (.calStarved i)

/-- CAL_DUE (R296). -/
def effCalDue (i : Nat) (s : State) : State :=
  if s.coreUp && s.enabled pCAL && decide (i < 27) && s.kindOn i then s.fallDue i else s

/-- CAL.CFG written: an instance whose interval ended while its kind was disabled falls due (R296). -/
def State.calCfg (s : State) : State :=
  if s.enabled pCAL then
    s.forEach ((List.range 27).filter fun i => s.kindOn i && !s.isDue i && !s.agenda.any (fun e => e.2 == .calDue i) &&
      (i != 0 || (AMap.find 0 s.cal.refs).isNone)) fun s i => s.sched 0 (.calDue i)
  else s

/-- CTRL.ENABLE of CAL changes from 0 to 1: the enabled instances fall due, the references start anew (R296, R301). -/
def State.calEnable (s : State) : State :=
  let tj := s.get pCAL CAL.TEMP_TJ
  let s := s.withCal fun c => { c with due := [], refs := [], synT := tj }
  let s := s.put pCAL CAL.TEMP_TJ_MAX tj
  s.forEach ((List.range 27).filter s.kindOn) fun s i => s.resched 0 (.calDue i)

/-- A new junction temperature, 0.25 °C two's complement (R296, R404). -/
def State.calTemp (s : State) (tj : Nat) : State :=
  let s := s.put pCAL CAL.TEMP_TJ tj
  let t := sext 16 tj
  let s := s.when (decide (sext 16 (s.get pCAL CAL.TEMP_TJ_MAX) < t)) fun s => s.put pCAL CAL.TEMP_TJ_MAX tj
  let s : State := if sext 16 s.sco.telMax < t then { s with sco := { s.sco with telMax := tj } } else s
  let dt := (4 * orDefault 1 (s.get pCAL CAL.PERIOD_SYN_DT) : Nat)
  s.when (s.enabled pCAL && decide (dt ≤ (t - sext 16 s.cal.synT).natAbs)) fun s => s.resched 0 (.calDue 0)

/-! ## Runs (R297, R298) -/

/-- The claims that a run holds are released; it is over. -/
def State.calOver (s : State) : State :=
  let stage := s.cal.stage
  let w := s.cal.wing
  let s := { s with timers := s.timers.filter fun t => t.2 ≠ Tm.xbOff ∧ t.2 ≠ Tm.calCut ∧ !(match t.2 with
    | .xbTap _ _ => true
    | _ => false) }
  let s := (s.unsched .calYield).withCal fun c => { c with stage := 0, todo := [], forced := false }
  let s := s.calShow
  let s := s.when (stage == 3 && s.enabled pCLK && s.pwr.refOk) fun s => (s.putB pCLK CLK.STATUS_SYN_LOCK true).wakeChains
  s.forEach (if stage = 3 then List.range 8 else if stage = 0 then [] else [w]) State.releaseWing

/-- Context 11 takes the claims of a run. -/
def State.calClaim (s : State) (stage w : Nat) (ws todo : List Nat) : State :=
  let s := s.forEach ws fun s w => s.setOwner w 11
  (s.withCal fun c => { c with stage := stage, wing := w, todo := todo }).calShow

/-- The Wing may be taken: free, and no move waits for it (R297). -/
def State.calMayTake (s : State) (w : Nat) (forced : Bool) : Bool :=
  s.owner w == 15 && !s.invHolds w && s.recoverAt.isNone &&
    (forced || !(List.range 12).any fun c => s.run c == 2 && s.moveWing c == some w)

/-- The TXP instances of a window: the chain serving the Wing, and TXC8 while it serves none and is not auto-tuning. -/
def State.windowTx (s : State) (w : Nat) : List Nat :=
  if s.bit pCAL CAL.CFG_TXP_EN then
    (if s.serving w = w then [1 + w] else []) ++
      (if s.isDue 9 ∧ s.tx8Serve = 0 ∧ (s.tx 8).takeover = 0 ∧ (s.tx 8).act = 0 then [9] else [])
  else []

/-- The RXP instances of a window: both receive chains of the Wing, and RXC16 while it serves none and captures nothing. -/
def State.windowRx (s : State) (w : Nat) : List Nat :=
  if s.bit pCAL CAL.CFG_RXP_EN then
    [10 + 2 * w, 11 + 2 * w] ++
      (if s.isDue 26 ∧ s.rx16Serve = 0 ∧ (s.rx 16).takeover = false ∧ s.bit (pRXC 16) RXC.STATUS_CAPTURING = false then [26] else [])
  else []

/-- A window begins with TXP, or with RXP when there is no TXP to run. -/
def State.openWindow (s : State) (w : Nat) : State :=
  let t := s.windowTx w
  let r := s.windowRx w
  if t.isEmpty ∧ r.isEmpty then s
  else if t.isEmpty then s.calClaim 2 w [w] r else s.calClaim 1 w [w] t

/-- No field is on, ramping or armed on the Board. -/
def State.quiet (s : State) : Bool := (List.range 9).all fun n => s.fieldSt n == 0 && (s.tx n).act == 0

/-- WING_WINDOW: the built-in work takes a free Wing for its due instances, or all eight Wings (`w` = 8) for SYN (R297). -/
def effWingWindow (w : Nat) (s : State) : State :=
  if s.coreRuns && s.enabled pCAL && s.cal.stage == 0 then
    if w < 8 then
      if s.calMayTake w false && (s.windowTx w ++ s.windowRx w).any s.isDue then s.openWindow w else s
    else if w = 8 ∧ s.isDue 0 = true ∧ s.quiet = true ∧ (List.range 8).all (s.calMayTake · false) = true then
      (s.calClaim 3 0 (List.range 8) [0]).putB pCLK CLK.STATUS_SYN_LOCK false
    else s
  else s

/-- FORCED_WINDOW: the Wing released goes to a window that does not yield and lasts SHARE.WINDOW at most (R299). -/
def effForcedWindow (w : Nat) (s : State) : State :=
  if s.coreRuns && s.enabled pCAL && s.cal.stage == 0 && decide (w < 8) && s.calMayTake w true && s.forcedReady w then
    let s := s.withCal fun c => { c with
      owed := c.owed.filter fun x => x ≠ w
      forced := true, forcedAt := AMap.insert w s.now c.forcedAt }
    let s := (s.inc pCAL CAL.COUNT2_FORCED).openWindow w
    if s.cal.stage = 0 then (s.withCal fun c => { c with forced := false }).sched 0 (.wingClaimGrant w)
    else s.timer (usec (Nat.min 60 (s.get pCAL CAL.SHARE_WINDOW))) .calCut
  else s

/-- A forced window has lasted SHARE.WINDOW. -/
def State.calCut (s : State) : State := if s.cal.forced && decide (s.cal.stage = 1 ∨ s.cal.stage = 2) then s.calOver else s

/-- A cross-Board run stops. -/
def State.xbStop (s : State) : State :=
  if s.cal.stage = 4 then s.fieldOffNow s.cal.wing 0 else if s.cal.stage = 5 then s.calOver else s

/-- Foreground work waits for what the calibration holds (R298). -/
def State.calWanted (s : State) : Bool :=
  (List.range 12).any fun c =>
    (s.run c == 2 && (s.moveWing c).any s.calHolds) ||
      (s.cal.stage == 3 && (s.run c == 4 && !(s.ctx c).committed && (s.ctx c).move.any transmits))

/-- CAL_YIELD: the run stops, its claims are released, its instances stay due (R298). -/
def effCalYield (s : State) : State :=
  if s.coreUp && decide (1 ≤ s.cal.stage ∧ s.cal.stage ≤ 3) && (!s.enabled pCAL || (!s.cal.forced && s.calWanted)) then
    s.calOver.inc pCAL CAL.COUNT2_YIELDED
  else s

/-- CTRL.ENABLE of CAL written 0: a run stops as under R298, nothing is due (R313). -/
def State.calDisable (s : State) : State :=
  let s : State := { s with agenda := s.agenda.filter fun e => match e.2 with
    | .calDue _ => false
    | .calStarved _ => false
    | _ => true }
  let s := s.withCal fun c => { c with due := [], starved := [], owed := [], xb := none }
  if s.cal.stage = 0 then s else if s.cal.stage < 4 then s.resched 434 .calYield else s.xbStop

/-- CAL_STARVED: an instance has been due for SHARE.PERIOD; a forced window is owed to its Wing (R299). -/
def effCalStarved (i : Nat) (s : State) : State :=
  if s.coreUp && s.enabled pCAL && s.isDue i && s.kindOn i then
    let s := (s.flag pCAL CAL.FLAG_STARVED).recordErr pCAL 4
    let s := s.resched (orDefault 1 (s.get pCAL CAL.SHARE_PERIOD) * ms) (.calStarved i)
    let w := if i < 10 then i - 1 else (i - 10) / 2
    if s.bit pCAL CAL.CFG_FORCE_EN && i != 0 && decide (w < 8) && !s.cal.owed.contains w then
      s.withCal fun c => { c with owed := c.owed ++ [w] }
    else s
  else s

/-! ## Acceptance (R300, R301) -/

/-- The circular difference of two phases, in [−256, 256). -/
def circDiff (a b : Nat) : Int := sext 9 (a % 512 + 512 - b % 512)

/-- The circular distance of two phases. -/
def circDist (a b : Nat) : Nat := (circDiff a b).natAbs

/-- The circular mean, rounded to the nearest unit, halves up (R300). -/
def circMean (l : List Nat) : Nat :=
  let a := l.headD 0
  let n := (l.length : Int)
  let sum := l.foldl (fun (x : Int) v => x + circDiff v a) 0
  toBits 9 ((a : Int) + (2 * sum + n) / (2 * n))

/-- The largest circular distance between two measurements. -/
def circSpread (l : List Nat) : Nat := l.foldl (fun m a => l.foldl (fun m b => Nat.max m (circDist a b)) m) 0

/-- Measurements per run (R300). -/
def State.calReps (s : State) : Nat := clampNat 2 8 (s.get pCAL CAL.ACCEPT_REPS)

/-- The register that an instance trims. -/
def calReg (i : Nat) : Nat × Nat :=
  if i < 10 then (pTXC (i - 1), TXC.TRIM_PHASE.off) else if i < 27 then (pRXC (i - 10), RXC.TRIM_PHASE.off)
  else (pMCH, MCH.CPHASE_TRIM.off)

/-- The value in force of an instance, modulo 512 (R301). -/
def State.calValue (s : State) (i : Nat) : Nat := (s.reg (calReg i).1 (calReg i).2).toNat % 512

/-- What every adoption does besides the correction (R301). -/
def State.adopted (s : State) (i old new spread dev : Nat) (confirmed : Bool) : State :=
  let s := ((s.telCount 4).flag pCAL CAL.FLAG_ACCEPT).inc pCAL CAL.COUNT1_ADOPTED
  let s := (s.put pCAL CAL.LAST_INSTANCE i).put pCAL CAL.LAST_NEW new
  let s := ((s.put pCAL CAL.LAST_OLD old).put pCAL CAL.LAST_SPREAD spread).put pCAL CAL.LAST_DEV dev
  let q := s.seqNext
  let s := s.present 191 0
  let s := s.scoRecord 4 q ([i] ++ beBytes 2 old ++ beBytes 2 new ++ [spread % 256, dev % 256, b2n confirmed])
  let s := s.withCal fun c => { c with due := c.due.filter fun e => e.1 ≠ i }
  let s := s.unsched (.calStarved i)
  if i = 0 ∨ i = 27 ∨ s.enabled pCAL = false then s
  else s.resched (orDefault 1 (s.get pCAL CAL.PERIOD_CHAIN) * ms) (.calDue i)

/-- An accepted candidate is adopted: its deviation, drift and pending correction (R301, R302); a value written on the same edge stays the
pending one (R313). -/
def State.adopt (s : State) (i c spread : Nat) (confirmed : Bool) : State :=
  let v := s.calValue i
  let d := circDist c v
  let ref : CalRef := match AMap.find i s.cal.refs with
    | none => { first := c, dev := 128 * s.get pCAL CAL.ACCEPT_AGREE, held := none }
    | some r => { r with dev := (r.dev + Int.tdiv ((256 * d : Nat) - (r.dev : Int)) 8).toNat, held := none }
  let s := s.withCal fun x => { x with refs := AMap.insert i ref x.refs }
  let s := s.when (decide (s.get pCAL CAL.ACCEPT_DRIFT < circDist c ref.first)) fun s =>
    (s.flag pCAL CAL.FLAG_DRIFT).recordErr pCAL 5
  let s := s.when (!s.touched.writes.any fun e => e.1 == (calReg i).1 * 256 + (calReg i).2) fun s =>
    s.pendCorr (calReg i).1 (calReg i).2 (BitVec.ofNat 40 c)
  s.adopted i v c spread (ref.dev / 256) confirmed

/-- An accepted candidate meets its instance's reference (R301). -/
def State.candidate (s : State) (i c spread : Nat) : State :=
  match AMap.find i s.cal.refs with
  | none => s.adopt i c spread false
  | some r =>
    if 256 * circDist c (s.calValue i) ≤ Nat.max (256 * s.get pCAL CAL.ACCEPT_JUMP) (4 * r.dev) then s.adopt i c spread false
    else if r.held.any (fun h => decide (circDist c h ≤ s.get pCAL CAL.ACCEPT_AGREE)) then s.adopt i c spread true
    else
      let s := s.withCal fun x => { x with refs := AMap.insert i { r with held := some c } x.refs }
      s.recordErr pCAL 3

/-- A run is rejected (R300). -/
def State.calReject (s : State) : State :=
  ((s.flag pCAL CAL.FLAG_REJECT).recordErr pCAL 2).inc pCAL CAL.COUNT1_REJECTED

/-- A synthesiser calibration is accepted. -/
def State.synAdopted (s : State) : State :=
  let x := (Config.synCalibration s.free).toNat
  let s := s.nextFree.withCal fun c => { c with synT := s.get pCAL CAL.TEMP_TJ, refs := AMap.insert 0 ⟨0, 0, none⟩ c.refs }
  s.adopted 0 (bits x 31 23) (bits x 22 14) (bits x 13 8) (bits x 7 0) false

/-- A finished run is evaluated: REPS phases, for RXP then REPS check-tone amplitudes in 0.1 dB; for SYN 1 when the
synthesiser locked in time with its control voltage inside its window (R300). -/
def State.calEvaluate (s : State) (i : Nat) (readings : List Nat) : State :=
  if i = 0 then (if nth readings 0 = 1 then s.synAdopted else s.calReject)
  else
    let n := s.calReps
    let l := (readings.take n).map (· % 512)
    let amps := (readings.drop n).take n
    let sp := circSpread l
    let ampOk := amps.all fun a => amps.all fun b => decide (a ≤ b + 3)
    if sp ≤ s.get pCAL CAL.ACCEPT_AGREE ∧ (i < 10 ∨ ampOk = true) then s.candidate i (circMean l) sp else s.calReject

/-- The readings that a run of an instance gives. -/
def State.readingsFor (s : State) (i : Nat) : Nat := if i = 0 then 1 else if i < 10 then s.calReps else 2 * s.calReps

/-- CAL_RUN_END: a run of an instance ends; RXP follows TXP, and the window ends after it (R297, R300). -/
def effCalRunEnd (i : Nat) (readings : List Nat) (s : State) : State :=
  if s.coreRuns && decide (1 ≤ s.cal.stage ∧ s.cal.stage ≤ 3) && s.cal.todo.contains i && decide (s.readingsFor i ≤ readings.length) then
    let s := s.withCal fun c => { c with todo := c.todo.filter fun x => x ≠ i }
    let s := s.calEvaluate i readings
    if s.cal.todo.isEmpty then
      let r := if s.cal.stage = 1 then s.windowRx s.cal.wing else []
      if r.isEmpty then s.calOver else (s.withCal fun c => { c with stage := 2, todo := r }).calShow
    else s
  else s

/-! ## Application (R302, R303) -/

/-- A receive chain of the Wing is inside a frame: TIMING or FRAME. -/
def State.inFrame (s : State) (n : Nat) : Bool := s.rxState n == 2 || s.rxState n == 3

/-- A correction of the carrier-cycle boundary in Solo operation finds no frame in the way (R303). -/
def State.soloFree (s : State) (key : Nat) : Bool :=
  let page := key / 256
  let modulating := fun n => s.bit (pTXC n) TXC.STATUS_MODULATING
  if page = pMCH then !(List.range 17).any s.inFrame && !(List.range 9).any modulating
  else if 0x20 ≤ page then !s.inFrame (page - 0x20)
  else
    let n := page - 0x10
    let served := (List.range 8).filter fun w => s.serving w == n
    !modulating n && !served.any fun w => s.inFrame (2 * w) || s.inFrame (2 * w + 1) ||
      (s.rx16Serve != 0 && (s.rx16Serve - 1) / 2 == w && s.inFrame 16)

/-- One pending correction takes effect: a TRIM register, MCH.CPHASE, or the carrier advance of R82. -/
def State.applyOne (s : State) (e : Nat × Word) : State :=
  if e.1 = pMCH * 256 + MCH.RANGE_OFFSET.off then s.withCal fun c => { c with advance := e.2.toNat % 512 }
  else s.setReg (e.1 / 256) (e.1 % 256) e.2

/-- Corrections that are in `go` are applied. -/
def State.applyAll (s : State) (go : Nat → Bool) : State :=
  let l := s.cal.pend.filter fun e => go e.1
  if l.isEmpty then s
  else
    let s := s.forEach l State.applyOne
    let s := s.withCal fun c => { c with pend := c.pend.filter fun e => !go e.1 }
    s.showPend.flag pCAL CAL.FLAG_APPLIED

/-- SOLO_APPLY: a carrier-cycle boundary with SIMUL_HOLD 0 (R303). -/
def effSoloApply (s : State) : State :=
  if s.coreRuns && !s.bit pCAL CAL.STATUS_SIMUL_HOLD then (s.unsched .soloApply).applyAll s.soloFree else s

/-- APPLY_POINT: every pending correction is applied, and SIMUL_HOLD returns to 0 in Solo operation (R303). -/
def effApplyPoint (s : State) : State :=
  if s.coreRuns then (s.applyAll fun _ => true).putB pCAL CAL.STATUS_SIMUL_HOLD s.simul else s

/-! ## Carrier phase between Boards (R305, R306) -/

/-- XB_ARM: XB_CFG.ARM arms the measurement that XB_CFG sets up (R305). -/
def effXbArm (s : State) : State :=
  if s.coreRuns && s.enabled pCAL then
    let role := s.get pCAL CAL.XB_CFG_ROLE
    let x := (role, s.get pCAL CAL.XB_CFG_PORT, s.get pCAL CAL.XB_CFG_LSLOT, s.get pCAL CAL.XB_CFG_LEVEL)
    s.withCal fun c => { c with xb := if role = 1 ∨ role = 2 then some x else none }
  else s

/-- The Board's part of a measurement fails; a LISTEN leaves VALID at 0 (R305). -/
def State.xbFail (s : State) (listen : Bool) : State :=
  ((s.when listen fun s => s.putB pCAL CAL.XB_RESULT_VALID false).recordErr pCAL 6).flag pCAL CAL.FLAG_XB_DONE

/-- The Board's part of a measurement is over. -/
def State.xbOver (s : State) : State := (s.calOver.forEach (List.range 17) State.rxRest).flag pCAL CAL.FLAG_XB_DONE

/-- DRIVE: the field is armed at XB_CFG.LEVEL and launched. -/
def State.xbDrive (s : State) (w port level : Nat) : State :=
  let n := s.serving w
  if !(s.portOk port && s.inReach n port) || s.noField n || s.fieldSt n != 0 || !s.enabled (pTXC n) then s.xbFail false
  else
    let s := s.calClaim 4 w [w] []
    let s := s.withTx n fun t => { t with act := 5, ctx := none, hop := 0, port := port, level := level + 1 }
    (((s.setField n 1).setSwitch n port).followRails).fireField n

/-- LISTEN: the secondary role taps the port from 20 µs after the firing until the last block is taken. -/
def State.xbListen (s : State) (w port : Nat) (readings : List Nat) : State :=
  match s.roleChain w 1 with
  | .inr _ => s.xbFail true
  | .inl n =>
    if !s.tapOk n port || decide (readings.length < s.calReps) then s.xbFail true
    else
      let s := ((s.putB pCAL CAL.XB_RESULT_VALID false).calClaim 5 w [w] readings).withRx n fun r => { r with named := true }
      (s.timer (usec 20) (.xbTap n port)).timer (ceilDiv (s.calReps * 204800 + 433920) 100) .xbOff

/-- XB_MEASUREMENT: the armed slot fires and the Board drives, or listens with the readings of its blocks (R305). -/
def effXbMeasurement (readings : List Nat) (s : State) : State :=
  if s.coreRuns && s.enabled pCAL then
    match s.cal.xb with
    | none => s
    | some (role, port, _, level) =>
      let s := s.withCal fun c => { c with xb := none }
      let w := port / 24
      if port < 192 ∧ s.cal.stage = 0 ∧ s.owner w = 15 ∧ s.invHolds w = false then
        if role = 1 then s.xbDrive w port level else s.xbListen w port readings
      else s.xbFail (role == 2)
  else s

/-- The drive has held its field for 100 µs, or the listen has its blocks (R300, R305). -/
def State.xbOff (s : State) : State :=
  if s.cal.stage = 4 then s.fieldOffNow s.cal.wing 0
  else if s.cal.stage = 5 then
    let l := (s.cal.todo.take s.calReps).map (· % 512)
    let sp := circSpread l
    let ok := decide (sp ≤ s.get pCAL CAL.ACCEPT_AGREE_XB)
    let s := (s.put pCAL CAL.XB_RESULT_PHASE (circMean l)).put pCAL CAL.XB_RESULT_SPREAD sp
    let s := s.putB pCAL CAL.XB_RESULT_VALID ok
    (s.when (!ok) State.calReject).xbOver
  else s

/-- XB_PEER: the carrier trim candidate of R306, half the circular difference of the two readings rounded with halves up. -/
def effXbPeer (phase : Nat) (s : State) : State :=
  if s.coreRuns && s.enabled pCAL then
    if !s.bit pCAL CAL.XB_RESULT_VALID then s.recordErr pCAL 7
    else
      let d := circDiff (s.get pCAL CAL.XB_RESULT_PHASE) phase
      let d := if d = -256 then 256 else d
      s.candidate 27 (toBits 9 ((s.calValue 27 : Int) + (d + 1) / 2)) (s.get pCAL CAL.XB_RESULT_SPREAD)
  else s

/-- CAL_MISMATCH: FAULT.CMP, the run in flight is discarded, pending corrections stay (R314). -/
def effCalMismatch (s : State) : State :=
  if s.coreRuns && s.enabled pCAL then
    let s := s.setFault pCAL 1 1 { cls := 2, action := 1, interrupt := 1 }
    if s.cal.stage = 0 then s else if s.cal.stage < 4 then s.calOver else s.xbStop
  else s

/-- A carrier-cycle boundary in Simul operation sets SIMUL_HOLD (R303). -/
def State.simulAt (s : State) : State := s.when (s.simul && s.coreRuns) fun s => s.putB pCAL CAL.STATUS_SIMUL_HOLD true

/-- What follows a happening for the background work: a drive whose field has ended is over, a takeover ends the Wing's
window (R313), Simul operation looks for its boundary, and pending corrections look for their boundary (R303). -/
def State.calSettle (s : State) : State :=
  let n := s.serving s.cal.wing
  let s := if s.cal.stage = 4 ∧ (s.tx n).act ≠ 5 then
      if s.fieldSt n = 0 then
        (s.forEach (List.range 9) fun s n => s.withTx n fun t => { t with level := 0 }).xbOver
      else if s.fieldSt n = 5 then s else s.fieldOffNow s.cal.wing 0
    else s
  let s := s.when (decide (s.cal.stage = 1 ∨ s.cal.stage = 2) && (((s.tx 8).takeover == 1 && (s.tx 8).tookPort == s.cal.wing) ||
    ((s.rx 16).takeover && (s.rx 16).tookFor / 2 == s.cal.wing))) State.calOver
  let s := if s.simul && s.coreRuns && !s.bit pCAL CAL.STATUS_SIMUL_HOLD then
      (if s.toCarrier = 0 then s.simulAt else s.retimer s.toCarrier .simulAt)
    else s
  s.when (s.coreRuns && !s.bit pCAL CAL.STATUS_SIMUL_HOLD && s.cal.pend.any (fun e => s.soloFree e.1) &&
      !s.agenda.any fun e => e.2 == .soloApply) fun s => s.sched s.toCarrier .soloApply

end Sys2Proof.Machine
end

