-- ==== Sys2Proof/Machine/Angle.lean ====
section
/-! DEFINITION. The Cycle Angle unit: enable and start (R47, R48), the loop on SYNC_IN edges (R49–R53), cycle boundaries
(R41, R45), alarms (R57), SYNC_OUT (R63) and the duplicated accumulator (R64). -/

namespace Sys2Proof.Machine

open Sys2Proof

/-- The angle unit with its hidden state changed. -/
def State.withAng (s : State) (f : Ang → Ang) : State := { s with ang := f s.ang }

/-- floor(2^48 / period): the rate of a reference cycle of `period` CCLK (R45, R48). -/
def rateOf (period : Nat) : Nat := 2 ^ 48 / period

/-- A reference period in range, in CCLK (R45). -/
def periodOk (p : Nat) : Bool := decide (21696 ≤ p ∧ p ≤ 5424000)

/-- Both accumulators set (R40, R64). -/
def State.setAcc (s : State) (a : Nat) : State :=
  s.withAng fun g => { g with acc := a % 2 ^ 56, acc2 := a % 2 ^ 56 }

/-- The half-width of the acceptance window in force, in tempi (R49, R53). -/
def State.halfWindow (s : State) : Nat :=
  Nat.min 32768 (if s.bit pANG ANG.STATUS_HOLDOVER then s.ang.holdWindow
    else if s.ang.edges < 2 then 32768 else s.ang.window)

/-- The close of the window around the prediction, W tempi after it, is armed (R49); one that has passed comes at once. -/
def State.armWindow (s : State) : State :=
  let d : Int := sext 56 ((s.ang.pred + s.halfWindow * 65536) * 2 ^ 16 + 2 ^ 56 - s.ang.acc)
  let s := (s.disarm .window).unsched .edgeWindowClose
  if d ≤ 0 then s.fire .window false
  else { s with cmps := s.cmps ++ [{ user := .window, periodic := false, target := 0, left := d.toNat, waiting := false }] }

/-- BW, MISS_LIMIT, ACQ_EDGES and the windows taken at a cycle boundary (R47). -/
def State.takeBoundaryCfg (s : State) : State :=
  let bw := s.get pANG ANG.CFG_BW
  let ml := s.get pANG ANG.CFG_MISS_LIMIT
  let ae := s.get pANG ANG.CFG_ACQ_EDGES
  let w := s.get pANG ANG.WINDOW_WINDOW
  let hw := s.get pANG ANG.WINDOW_HOLD_WINDOW
  s.withAng fun g => { g with bw := bw, missLimit := ml, acqEdges := ae, window := w, holdWindow := hw }

/-- The alarm's comparator follows its registers (R57, R58): armed while ARM is 1, one-target or periodic; a target that a write gives
is tested from the next edge.  DEDUCED (assumption 86): so is one that the write of ARM arms, for a clear of ARM on the
write edge would lose to the write (R38). -/
def State.alarmConfig (s : State) (n : Nat) : State :=
  let s := (s.disarm (.alarm n)).unfire (.alarm n)
  let t := s.get pANG (ANG.ALARM_TARGET_TARGET n)
  if s.bit pANG (ANG.ALARM_CTRL_ARM n) && s.enabled pANG then
    if s.bit pANG (ANG.ALARM_CTRL_PERIODIC n) then s.armPeriodic (.alarm n) (t % 2 ^ 32) else s.armNext (.alarm n) t
  else s

/-- SYNC_OUT's comparator follows its register; while EN is 0 SYNC_OUT is driven low (R63). -/
def State.syncOutConfig (s : State) : State :=
  let s := s.disarm .syncOut
  if s.bit pANG ANG.SYNC_OUT_EN && s.enabled pANG then
    s.armPeriodic .syncOut (s.get pANG ANG.SYNC_OUT_ANGLE * 65536)
  else (s.unsched .syncOutPulseEnd).withAng fun g => { g with syncOut := false }

/-- The CAL apply point with APPLY.SRC 0 is a periodic comparator (R57, R303). -/
def State.applyConfig (s : State) : State :=
  let s := s.disarm .apply
  if s.enabled pANG && !s.bit pCAL CAL.APPLY_SRC then s.armPeriodic .apply (s.get pCAL CAL.APPLY_PHASE * 65536) else s

/-- LOCKED becomes 1 (R51, R53). -/
def State.lockAngle (s : State) : State :=
  let s := s.putB pANG ANG.STATUS_LOCKED true
  let s := s.putB pANG ANG.STATUS_REACQ false
  (s.flag pANG ANG.FLAG_LOCK).present 9 0

/-- The angle starts running from `acc` at `rate` (R48): comparators that waited for it are tested on this edge. -/
def State.startAngle (s : State) (acc rate : Nat) : State :=
  let s := s.setAcc acc
  let s := s.withAng fun g => { g with running := true, starting := false, rateOld := rate, rateAt := g.clk }
  let s := s.put pANG ANG.RATE_RATE rate
  s.wakeCmps

/-- R47: an enable is refused for SRC 3, and for SRC 0 or 1 with PERIOD out of range. -/
def State.angRefused (s : State) : Bool :=
  let src := s.get pANG ANG.CFG_SRC
  src == 3 || (src != 2 && !periodOk (s.get pANG ANG.VPERIOD_PERIOD))

/-- ANG_ENABLE: CTRL.ENABLE from 0 to 1 (R47, R48). -/
def effAngEnable (s : State) : State :=
  if s.enabled pANG then s
  else if s.angRefused then s.recordErr pANG 5
  else
    let src := s.get pANG ANG.CFG_SRC
    let s := s.putB pANG COM.ENABLE true
    let s := s.put pANG ANG.COUNT 0
    let s := s.takeBoundaryCfg
    let p := s.get pANG ANG.VPERIOD_PERIOD
    let pol := s.get pANG ANG.CFG_EDGE_POL
    let dg := s.get pANG ANG.CFG_DEGLITCH
    let off := s.get pANG ANG.OFFSET_EDGE_OFFSET
    let pre := s.get pANG ANG.PRESET_ANGLE
    let s := s.withAng fun g => { g with
      src := src, pol := pol, deglitch := dg, offset := off, preset := pre, period := p, periodNext := none,
      running := false, starting := src == 1, rates := [], edges := 0, closed := 0, missRun := 0, accRun := 0,
      lockRun := 0, freq := 0, slew := 0, vcount := 0 }
    let s := (s.setAcc (pre * 2 ^ 16)).withMch fun m => { m with gotRate := false }
    let s := s.forEach (List.range 8) fun s n => s.alarmConfig n
    s.syncOutConfig.applyConfig

/-- SRC 1: the angle starts on the edge after the enable, at the phase of PRESET, with LOCKED at 1 (R48, R51). -/
def State.startVirtual (s : State) : State :=
  (s.startAngle (s.ang.preset * 2 ^ 16) (rateOf s.ang.period)).lockAngle

/-! ## Cycle boundaries -/

/-- The rate that applies from the boundary that begins cycle `cyc`: one computed or received for it, one deferred past
a ranging (R78), and for SRC 0 otherwise floor(F), in holdover the held rate (R41, R46, R50, R52). -/
def State.boundaryRate (s : State) (cyc : Nat) : Nat :=
  if s.ang.src = 1 then rateOf (s.ang.periodNext.getD s.ang.period)
  else match AMap.find cyc s.ang.rates with
    | some r => r
    | none => match s.ang.deferred with
      | some r => r
      | none => if s.ang.src = 0 ∧ 0 < s.ang.edges then (if s.bit pANG ANG.STATUS_HOLDOVER then s.ang.base else s.ang.freq / 2 ^ 16)
                else if s.ang.src = 2 then s.ang.base else s.rate

/-- The rate in force without a follower's slew. -/
def State.baseRate (s : State) : Nat := if s.ang.src = 2 then s.ang.base else s.rate

/-- A rate `r` is held back at a boundary while ranging runs, and one that fell into it at the first boundary after it as well
(R78). -/
def State.rateHeld (s : State) (r : Nat) : Bool :=
  s.bit pMCH MCH.STATUS_RANGING || (s.mch.rateHold != 0 && s.ang.deferred == some r)

/-- The boundary holds a rate back: a change is kept for later (R78). -/
def State.holdRate (s : State) (r : Nat) : State :=
  let d := if r = s.baseRate then none else some r
  let s := s.withAng fun g => { g with deferred := d }
  s.when (!s.bit pMCH MCH.STATUS_RANGING) fun s => { s with mch := { s.mch with rateHold := 0 } }

/-- The correction of the rate that removes a follower's angle difference at no more than SLEW_MAX tempi per cycle
(R53, R80), for the base rate `r`. -/
def State.slewRate (s : State) (r : Nat) : Int :=
  let lim : Int := ((orDefault 1 (s.get pANG ANG.SLEW_SLEW_MAX) * 2 ^ 32 : Nat) : Int)
  Int.tdiv (max (-lim) (min lim s.ang.slew) * r) (2 ^ 48)

/-- The head's RATE cell for the next boundary (R81). -/
def State.sendRate (s : State) : State :=
  let next := (s.angle / 2 ^ 32 + 1) % 256
  s.queueCell 1 0 (next % 64 * 2 ^ 34 + s.boundaryRate next % 2 ^ 34)

/-- A head whose next rate changes within a cycle, by holdover or a written PERIOD, sends it once more, so that every Board applies
the same rate at that boundary (R45, R46, R52; DEDUCED, assumption 86). -/
def State.resendRate (s : State) : State := s.when (s.ang.running && s.isHead) State.sendRate

/-- The head's cells of a cycle: RATE for the next boundary and STATE (R71, R81). -/
def State.headCells (s : State) : State :=
  if s.isHead then
    let s := s.sendRate
    let tag := b2n (s.bit pANG ANG.STATUS_LOCKED) + 2 * b2n (s.bit pANG ANG.STATUS_HOLDOVER) +
      4 * b2n (s.bit pANG ANG.STATUS_REACQ)
    s.queueCell 2 tag (s.get pMCH MCH.POSITION_COUNT)
  else s

/-- What every boundary does beyond the rate: configuration taken, with the open window's close, holdover cycles counted, CYCLE
presented (R41, R47, R54). -/
def State.boundaryCommon (s : State) : State :=
  let s := s.takeBoundaryCfg
  let s := s.when (s.cmps.any fun c => c.user == .window) State.armWindow
  let s := s.when (s.bit pANG ANG.STATUS_HOLDOVER) fun s => s.inc pANG ANG.HOLD_CYCLES
  s.headCells.present 8 0

/-- CYCLE_BOUNDARY: the phase passes through zero (R41).  The rate of the cycle after this one is decided here, as the head sends it
now (R46, R81; DEDUCED, assumption 86): floor(F) of a cycle without a rate is F as it stands one cycle before. -/
def effCycleBoundary (s : State) : State :=
  if s.ang.running && s.ang.src != 1 then
    let cyc := s.angle / 2 ^ 32
    let r := s.boundaryRate cyc
    let r' : Nat := ((r : Int) + (if s.ang.src = 2 then s.slewRate r else 0)).toNat
    let s := if s.rateHeld r then s.holdRate r
      else
        let old := s.rate
        let s : State := { s with mch := { s.mch with rateHold := 0 } }
        (s.put pANG ANG.RATE_RATE r').withAng fun g => { g with base := r, deferred := none, rateOld := old, rateAt := g.clk }
    let s := s.withAng fun g => { g with rates := g.rates.filter fun e => e.1 ≠ cyc }
    let next := (cyc + 1) % 256
    let rn := s.boundaryRate next
    let s := s.when (s.ang.src == 0) fun s => s.withAng fun g => { g with rates := AMap.insert next rn g.rates }
    s.boundaryCommon
  else s

/-- The distance from the accumulator to the next boundary, in 2^-16 phase units. -/
def Ang.toBoundary (g : Ang) : Nat := 2 ^ 48 - g.acc % 2 ^ 48

/-- VIRTUAL_CYCLE_END: the angle moves to exactly the boundary, and a written PERIOD is taken there (R45), or after a ranging that the
boundary falls into (R78). -/
def effVirtualCycleEnd (s : State) : State :=
  if s.ang.running && s.ang.src == 1 then
    let d := s.ang.toBoundary
    let s := s.setAcc (s.ang.acc + d)
    let p := s.ang.periodNext.getD s.ang.period
    let s := s.withAng fun g => { g with vcount := 0 }
    let s := if s.rateHeld (rateOf p) then s.holdRate (rateOf p)
      else
        let s : State := { s with mch := { s.mch with rateHold := 0 } }
        (s.put pANG ANG.RATE_RATE (rateOf p)).withAng fun g => { g with period := p, periodNext := none, deferred := none }
    (s.countDown d).boundaryCommon
  else s

/-- The angle counts on RC ticks from now on: CCLK stops (R62). -/
def State.angTicks (s : State) : State :=
  let d := 216 + Config.rcTick s.free % 3
  (s.withAng fun g => { g with tickAt := some (s.now + d) }).nextFree

/-- The angle advances by `k` CCLK of its count (R40, R45): it advances by the rate, or, at the end of a virtual cycle, leaves
the step to VIRTUAL_CYCLE_END. -/
def State.angStep (s : State) (k : Nat) : State :=
  let s := s.withAng fun g => { g with clk := g.clk + k }
  if s.ang.starting then s.startVirtual
  else if s.ang.running then
    let r := k * s.rate
    if s.ang.src = 1 ∧ (s.ang.toBoundary ≤ r ∨ s.ang.period ≤ s.ang.vcount + k) then s.sched 0 .virtualCycleEnd
    else
      let cross := decide (s.ang.toBoundary ≤ r)
      let s := s.setAcc (s.ang.acc + r)
      let s := s.withAng fun g => { g with vcount := g.vcount + k }
      let s := s.countDown r
      if cross then s.sched 0 .cycleBoundary else s
  else s

/-- One CCLK passes at the angle unit.  While CORE is off it counts ticks of the RC oscillator divided by 32, each the advance of
217 CCLK (1 µs) and 216 to 218 CCLK long, and after a wake it goes on with CCLK at the next tick (R62). -/
def State.tickAngle (s : State) : State :=
  match s.ang.tickAt with
  | none => s.angStep 1
  | some t =>
    if s.now < t then s
    else
      let s := if s.pwr.core then s.withAng fun g => { g with tickAt := none } else s.angTicks
      s.angStep 217

/-- VPERIOD_WRITE: stored under its access code; with SRC 1 running it is taken at the next boundary, or not taken when
out of range (R45). -/
def effVperiodWrite (v : Nat) (s : State) : State :=
  let free := !s.locked pANG
  let s := s.writeFields pANG 0x13 (word v)
  let p := s.get pANG ANG.VPERIOD_PERIOD
  if free && s.enabled pANG && s.ang.src == 1 then
    if periodOk p then (s.withAng fun g => { g with periodNext := some p }).resendRate else s.recordErr pANG 5
  else s

/-! ## The loop on SYNC_IN edges -/

/-- How many CCLK of the unit's count the time stamp of an edge accepted now lies back (R43), in whole ticks where ticks are counted
(R62). -/
def State.stampBack (s : State) : Nat :=
  let d := s.ang.deglitch * 64
  if s.ang.tickAt.isSome then d / 217 * 217 else d

/-- The advance of the angle over the latest `d` CCLK, in 2^-16 phase units; a boundary among them changed the rate (R41). -/
def State.advanced (s : State) (d : Nat) : Nat :=
  let n := Nat.min d (s.ang.clk - s.ang.rateAt)
  n * s.rate + (d - n) * s.ang.rateOld

/-- The prediction moves on to the next cycle, and the close of its window is armed (R49).  DEDUCED (assumption 86): the close waits for
the deglitch time, so that an edge stamped within the window is taken although it is accepted after its end. -/
def State.nextWindow (s : State) : State := (s.withAng fun g => { g with pred := (g.pred + 2 ^ 32) % 2 ^ 40 }).armWindow

/-- A truncated quotient (R50: each quotient rounded toward zero). -/
def tdiv (a : Int) (b : Nat) : Int := Int.tdiv a b

/-- A rejected edge (R49, R65): FLAG.REJECT, with `range` also FLAG.RANGE; it breaks the runs of consecutive accepted edges. -/
def State.rejectEdge (s : State) (range : Bool) (code : Nat) : State :=
  let s := s.inc pANG ANG.COUNT_REJECTED
  let s := (s.flag pANG ANG.FLAG_REJECT).when range fun s => s.flag pANG ANG.FLAG_RANGE
  let s := s.recordErr pANG code
  let s := s.present 11 0
  s.withAng fun g => { g with accRun := 0, lockRun := 0 }

/-- The first accepted edge (R48): the angle starts, advanced from EDGE_OFFSET by the deglitch time at the initial
rate; the cycle count is PRESET's.  DEDUCED (assumption 86): though no error is measured at it, it is an accepted edge of error 0
and the first of the eight of R51. -/
def State.firstEdge (s : State) : State :=
  let r := rateOf s.ang.period
  let stamp := (s.ang.preset / 2 ^ 32 * 2 ^ 32 + s.ang.offset * 65536) * 2 ^ 16
  let adv := s.stampBack * r
  let at0 := s.ang.clk - s.stampBack
  let s := s.startAngle (stamp + adv) r
  let s := s.withAng fun g => { g with freq := r * 2 ^ 16, edgeAt := at0, pred := stamp / 2 ^ 16 % 2 ^ 40, edges := 1, closed := 0, missRun := 0, lockRun := 1 }
  let s := s.put pANG ANG.EDGE_CYCLE (s.ang.preset / 2 ^ 32)
  let s := s.put pANG ANG.EDGE_ERROR 0
  s.nextWindow

/-- The loop update at an accepted edge with phase error `e` and the interval `t` over `n` cycles (R50): the frequency
part and the rate for cycle k + 2.  DEDUCED (assumption 86): c is kept as an exact quotient, only the two quotients by powers of two are
rounded, F's to its 16 fraction bits and Q to whole units of the rate. -/
def State.loopUpdate (s : State) (e : Int) (t n cyc : Nat) : State :=
  let f0 : Int := if s.ang.edges = 2 then ((2 ^ 64 * n / t : Nat) : Int) else s.ang.freq
  let f := f0 + tdiv (-e * 2 ^ 32 * n) (t * 2 ^ (2 * s.ang.bw + 6))
  let q := tdiv (-e * 2 ^ 16 * n) (t * 2 ^ (s.ang.bw + 2))
  let lim : Int := ((orDefault 1 (s.get pANG ANG.SLEW_SLEW_MAX) * 2 ^ 32 * n / t : Nat) : Int)
  let q := max (-lim) (min lim q)
  let r := (f / 2 ^ 16 + q).toNat
  s.withAng fun g => { g with freq := f.toNat, rates := AMap.insert ((cyc + 2) % 256) r g.rates }

/-- LOCKED after 8 consecutive accepted edges within 64 tempi; lost beyond 256 tempi (R51). -/
def State.lockTest (s : State) (e : Int) : State :=
  let s := s.withAng fun g => { g with lockRun := if e.natAbs ≤ 64 * 65536 then g.lockRun + 1 else 0 }
  if 256 * 65536 < e.natAbs then s.putB pANG ANG.STATUS_LOCKED false
  else if 8 ≤ s.ang.lockRun ∧ s.bit pANG ANG.STATUS_LOCKED = false then s.lockAngle else s

/-- An accepted edge from the second on: interval `t` over `n` cycles, error `e` at cycle count `cyc` (R49–R53).  DEDUCED (assumption
86): a second accepted edge that falls into holdover sets F to 2^48 / N (R50) without the update, which waits for the end of
holdover (R53); edges accepted in holdover count in the run of R51. -/
def State.acceptEdge (s : State) (e : Int) (t n cyc : Nat) : State :=
  let hold := s.bit pANG ANG.STATUS_HOLDOVER
  let s := s.withAng fun g => { g with
    edges := Nat.min 3 (g.edges + 1), edgeAt := g.clk - s.stampBack, closed := 0, missRun := 0,
    accRun := if hold then g.accRun + 1 else 0 }
  let s := s.put pANG ANG.EDGE_CYCLE cyc
  let s := s.put pANG ANG.EDGE_ERROR (toBits 32 e)
  let per := t * 256 / n
  let s := s.put pANG ANG.PERIOD per
  if hold && decide (s.ang.accRun < orDefault 1 s.ang.acqEdges) then
    ((if s.ang.edges = 2 then s.withAng fun g => { g with freq := 2 ^ 64 * n / t } else s).lockTest e).nextWindow
  else
    let s := s.when hold fun s => (s.putB pANG ANG.STATUS_HOLDOVER false).putB pANG ANG.STATUS_REACQ true
    let s := s.loopUpdate e t n cyc
    (s.lockTest e).nextWindow

/-- SYNC_IN_EDGE: a deglitched edge of the selected polarity (R43, R48–R51, R53).  DEDUCED (assumption 86): the window is tested before
the period, so that an edge outside both takes code 0x01 alone; the cycle k of R50 is that of the time stamp. -/
def effSyncInEdge (s : State) : State :=
  if s.enabled pANG && s.ang.src == 0 then
    if !s.ang.running then s.firstEdge
    else
      let adv := s.advanced s.stampBack
      let stamp := (s.ang.acc + 2 ^ 56 - adv % 2 ^ 56) % 2 ^ 56 / 2 ^ 16
      let e0 : Int := sext 32 (stamp + 2 ^ 32 - s.ang.offset * 65536)
      let e : Int := if e0 = -(2 : Int) ^ 31 then (2 : Int) ^ 31 else e0
      let dist : Int := sext 40 (stamp + 2 ^ 40 - s.ang.pred)
      let t := s.ang.clk - s.stampBack - s.ang.edgeAt
      let n := 1 + s.ang.closed
      if s.halfWindow * 65536 < dist.natAbs ∨ t = 0 then s.rejectEdge false 1
      else if t < 21696 * n ∨ 5424000 * n < t then s.rejectEdge true 3
      else s.acceptEdge e t n (stamp / 2 ^ 32 % 256)
  else s

/-- Holdover begins (R52). -/
def State.enterHoldover (s : State) : State :=
  let s := s.putB pANG ANG.STATUS_HOLDOVER true
  let s := s.putB pANG ANG.STATUS_LOCKED false
  let s := s.put pANG ANG.HOLD_CYCLES 0
  let s := s.withAng fun g => { g with rates := [], deferred := none, base := g.freq / 2 ^ 16, accRun := 0, lockRun := 0 }
  ((s.flag pANG ANG.FLAG_HOLDOVER).present 10 0).resendRate

/-- EDGE_WINDOW_CLOSE: a window closes without an accepted edge: one miss, and holdover after MISS_LIMIT of them in a
row (R49, R52).  DEDUCED (assumption 86): a miss breaks the runs of consecutive accepted edges of R51 and R53. -/
def effEdgeWindowClose (s : State) : State :=
  if s.enabled pANG && s.ang.running && s.ang.src == 0 then
    let s := (s.inc pANG ANG.COUNT_MISSED).recordErr pANG 2
    let s := s.withAng fun g => { g with closed := g.closed + 1, missRun := g.missRun + 1, accRun := 0, lockRun := 0 }
    let s := s.when (decide (orDefault 1 s.ang.missLimit ≤ s.ang.missRun) && !s.bit pANG ANG.STATUS_HOLDOVER)
      State.enterHoldover
    s.nextWindow
  else s

/-! ## Alarms, SYNC_OUT and the duplicated accumulator -/

/-- ALARM_FIRE: an armed alarm reaches its target, or is late on its arming edge (R57); a write of its ARM on the same edge holds
(R38, R58). -/
def effAlarmFire (n : Nat) (_late : Bool) (s : State) : State :=
  if decide (n < 8) && s.enabled pANG && s.bit pANG (ANG.ALARM_CTRL_ARM n) then
    let s := s.when (!s.bit pANG (ANG.ALARM_CTRL_PERIODIC n)) fun s =>
      let s := s.putHw pANG (ANG.ALARM_CTRL_ARM n) 0
      s.when (!s.bit pANG (ANG.ALARM_CTRL_ARM n)) fun s => s.disarm (.alarm n)
    let s := (s.flag pANG ANG.FLAG_ALARM n).present n 0
    s.when (s.bit pANG (ANG.ALARM_CTRL_WAKE n) && (s.mode != 0 || s.bit pDEV DEV.STATUS_ENTERING)) fun s => s.sched 0 (.wakeSource 6)
  else s

/-- SYNC_OUT_PULSE: the phase reaches ANGLE; the pulse lasts WIDTH × 64 CCLK and merges with one still running (R63). -/
def effSyncOutPulse (s : State) : State :=
  let w := s.get pANG ANG.SYNC_OUT_WIDTH
  if s.enabled pANG && s.ang.running && s.bit pANG ANG.SYNC_OUT_EN && w != 0 then
    (s.withAng fun g => { g with syncOut := true }).resched (64 * w) .syncOutPulseEnd
  else s

/-- SYNC_OUT_PULSE_END: the pulse ends (R63). -/
def effSyncOutPulseEnd (s : State) : State :=
  (s.unsched .syncOutPulseEnd).withAng fun g => { g with syncOut := false }

/-- ACCUMULATOR_MISMATCH: FAULT.DUP, and the unit goes on from the accumulator that agrees (R64); `second` says that the
second one is in error. -/
def effAccumulatorMismatch (second : Bool) (s : State) : State :=
  let s := s.setAcc (if second then s.ang.acc else s.ang.acc2)
  s.setFault pANG 1 7 { cls := 2, action := 1, interrupt := 1 }

end Sys2Proof.Machine
end

