-- ==== Sys2Proof/Machine/Chain.lean ====
section
/-! DEFINITION. The Match chain: role, cells received, enumeration, ranging, launch slots, the report token and the loss
of the chain angle (R68–R88). -/

namespace Sys2Proof.Machine

open Sys2Proof

/-- ROLE_DECISION: within 10 µs of the release of RESET_N a Board that sees MCLKI toggling is a follower, otherwise the
head; the role holds until the next device reset (R68). -/
def effRoleDecision (toggles : Bool) (s : State) : State :=
  if s.mch.roleSet then s else s.withMch fun m => { m with roleSet := true, head := !toggles }

/-! ## Receiving -/

/-- A good cell arrives: alignment after 8 good cells in a row (R70). -/
def State.goodCell (s : State) : State :=
  s.withMch fun m => { m with goodRun := Nat.min 8 (m.goodRun + 1), badRun := 0,
                              aligned := m.aligned || decide (7 ≤ m.goodRun) }

/-- The cell is this Board's own: types 0–4 by the head, the others by SRC (R72). -/
def State.ownCell (s : State) (type src : Nat) : Bool :=
  if type ≤ 4 then s.isHead else src == s.boardNum

/-- A cell passes on (R69). -/
def State.forwardCell (s : State) (c : Cell) : State := s.slotIn c false

/-- A VOID goes on in the slot of a cell that this Board has taken out of it: it is no free slot here (R72). -/
def State.voidOut (s : State) : State :=
  let x := s.newVoid
  x.2.slotIn x.1 false

/-- The head starts ranging with a RANGE start cell, which waits its turn for a slot (R76, R77, R88). -/
def State.rangeNow (s : State) : State :=
  if s.isHead && s.enabled pMCH && !s.bit pMCH MCH.STATUS_RANGING && !s.mch.queue.any (fun c => c.type == 4) then s.queueCell 4 1 0
  else s

/-- The head's cells return: a ring found open before closes again, and a chain ranged before is ranged anew (R87, R89). -/
def State.ringClosed (s : State) (type : Nat) : State :=
  if s.isHead && s.enabled pMCH && s.mch.reopen && (type == 3 || s.get pMCH MCH.POSITION_COUNT != 1) then
    let s := (s.putB pMCH MCH.STATUS_RING_OK true).withMch fun m => { m with reopen := false }
    s.when s.mch.rangedOnce State.rangeNow
  else s

/-- The `n`-th resend watch of a type taken off the agenda. -/
def dropWatch (c : Instr) : Nat → List (Nat × Instr) → List (Nat × Instr)
  | _, [] => []
  | n, e :: l => if e.2 = c then (match n with
      | 0 => l
      | n + 1 => e :: dropWatch c n l) else e :: dropWatch c n l

/-- An own cell returns: it is stripped, its slot goes on as VOID, its watch ends; the head measures the ring delay on
COUNT and RANGE.  DEDUCED (assumption 87): from the first sending, since a cell that was sent again and its copy look alike
(R72, R73, R77). -/
def State.stripOwn (s : State) (type seq : Nat) : State :=
  let l := s.mch.flights.filter fun f => f.cell.type == type
  let i := (l.findIdx? fun f => f.cell.seq == seq).getD 0
  let s := match l[i]? with
    | some f =>
      let s := s.when (decide (type = 3 ∨ type = 4)) fun s => s.put pMCH MCH.RING_DELAY (s.now - f.at_)
      let s : State := { s with agenda := dropWatch (.cellResend type) i s.agenda }
      s.withMch fun m => { m with flights := m.flights.erase f, queue := m.queue.filter fun c => !(f.copy && c == f.cell) }
    | none => s
  (s.ringClosed type).voidOut

/-- The cell repeats the SRC, TYPE and SEQ last accepted (R73). -/
def State.dupCell (s : State) (type : Nat) (h : CellHead) : Bool :=
  AMap.find (h.src * 16 + type) s.mch.seen == some h.seq

/-- Cells are taken in: while ranging runs none flow but RANGE cells, and to the head what was under way before its start cell
(R77, R78). -/
def State.takesCells (s : State) (type : Nat) : Bool :=
  s.forwards && (type == 4 || !s.bit pMCH MCH.STATUS_RANGING ||
    (s.isHead && s.mch.flights.any fun f => f.cell.type == 4 && f.cell.tag == 1))

/-- The SEQ of a cell accepted last from its SRC with its TYPE (R73). -/
def State.noteSeen (s : State) (type : Nat) (h : CellHead) : State :=
  s.withMch fun m => { m with seen := AMap.insert (h.src * 16 + type) h.seq m.seen }

/-- Handle a cell that another Board originated, or an own one where its type is handled on return as well: `own` runs
on the returned cell, `other` on a received one, which is then forwarded as `out`; without alignment or with the page disabled a
cell is forwarded as it came, `raw`, and not handled (R69, R72, R73, R88). -/
def State.cellIn (s : State) (type : Nat) (h : CellHead) (raw out : Cell) (own other : State → State) : State :=
  if s.takesCells type then
    let s := s.goodCell
    if !s.mch.aligned then s.forwardCell raw
    else if s.ownCell type h.src then
      let s := s.stripOwn type h.seq
      if s.enabled pMCH then own s else s
    else if !s.enabled pMCH then s.forwardCell raw
    else
      let s := s.forwardCell out
      if s.dupCell type h then s.inc pMCH MCH.COUNT2_DUP_DISCARD
      else
        other (s.noteSeen type h)
  else s

/-- The cell a head field set gives. -/
def mkCell (type : Nat) (h : CellHead) (tag payload : Nat) : Cell := ⟨type, h.src, h.seq, tag, payload⟩

/-! ## The angle on the chain -/

/-- In-chain latency plus OFFSET, as an advance in 2^-16 phase units at the rate in force (R79). -/
def State.chainAdvance (s : State) (rate : Nat) : Nat :=
  let l := 16 * s.get pMCH MCH.POSITION_POSITION + 8
  rate * l + rate * s.get pMCH MCH.RANGE_OFFSET / 32

/-- The signed difference of two accumulator values modulo 2^56. -/
def accDiff (a b : Nat) : Int := sext 56 (a + 2 ^ 56 - b % 2 ^ 56)

/-- A follower checks its running angle against the chain's (R80, R87): beyond ANGLE_TOL it flags the difference and
removes it by slew; within it a realignment and a lost angle end.  After a loss of MCLK it first waits for a new ranging. -/
def State.checkAngle (s : State) (a : Nat) : State :=
  let d := accDiff a s.ang.acc
  if s.mch.lost && s.mch.mclkLost then s
  else if s.get pMCH MCH.CFG_ANGLE_TOL * s.rate < d.natAbs then
    ((s.withAng fun g => { g with slew := d }).flag pMCH MCH.FLAG_ANGLE_DIFF).putB pMCH MCH.STATUS_REALIGN true
  else
    let s := s.putB pMCH MCH.STATUS_REALIGN false
    let s := s.withAng fun g => { g with slew := 0 }
    if s.mch.lost then
      let s := s.withMch fun m => { m with lost := false }
      (s.putB pANG ANG.STATUS_HOLDOVER false).putB pMCH MCH.STATUS_ANGLE_OK true
    else s

/-- A follower meets the head's angle (R79, R80): it takes it once it is ranged and holds a RATE, and checks it after. -/
def State.idleAngle (s : State) (angle : Nat) : State :=
  if s.enabled pANG && s.ang.src == 2 then
    if !s.ang.running then
      if s.bit pMCH MCH.STATUS_RANGED && s.mch.gotRate then
        let r := s.ang.base
        (s.startAngle (angle * 2 ^ 16 + s.chainAdvance r) r).putB pMCH MCH.STATUS_ANGLE_OK true
      else s
    else s.checkAngle ((angle * 2 ^ 16 + s.chainAdvance s.rate) % 2 ^ 56)
  else s

/-- IDLE_CELL: the head's angle arrives in a free slot; at the head, its own, it goes on as VOID (R72, R79, R80). -/
def effIdleCell (h : CellHead) (angle : Nat) (s : State) : State :=
  if s.takesCells 0 then
    let s := s.goodCell
    if s.isHead then
      let x := s.newVoid
      x.2.slotIn x.1 true
    else
      let s := s.slotIn (mkCell 0 h 0 angle) true
      if s.mch.aligned && s.enabled pMCH then
        if s.dupCell 0 h then s.inc pMCH MCH.COUNT2_DUP_DISCARD
        else ((s.noteSeen 0 h).idleAngle (angle % 2 ^ 40)).resched 4096 (.chainAngleLost false)
      else s
  else s

/-- VOID_CELL: a free slot; the head turns a returning VOID into an IDLE, which takes its angle as it leaves (R72). -/
def effVoidCell (h : CellHead) (s : State) : State :=
  if s.takesCells 15 then
    let s := s.goodCell
    s.slotIn (if s.isHead && s.enabled pMCH then mkCell 0 h 0 0 else mkCell 15 h 0 0) true
  else s

/-- RATE_CELL: the rate of a named boundary, held until that boundary (R81). -/
def effRateCell (h : CellHead) (boundary rate : Nat) (s : State) : State :=
  let c := mkCell 1 h 0 (boundary % 64 * 2 ^ 34 + rate % 2 ^ 34)
  s.cellIn 1 h c c id fun s =>
    let s := s.withMch fun m => { m with gotRate := s.enabled pANG && s.ang.src == 2 && s.bit pMCH MCH.STATUS_RANGED }
    if s.ang.src = 2 then
      let cyc := s.angle / 2 ^ 32
      let k := (cyc + (boundary + 64 - cyc % 64) % 64) % 256
      let s := s.when (!s.ang.running) fun s => s.withAng fun g => { g with base := rate }
      s.when s.ang.running fun s => s.withAng fun g => { g with rates := AMap.insert k (rate % 2 ^ 34) g.rates }
    else s

/-- STATE_CELL: the head's lock and holdover flags and the Board count (R51, R55, R75, R81). -/
def effStateCell (h : CellHead) (tag count : Nat) (s : State) : State :=
  s.cellIn 2 h (mkCell 2 h tag count) (mkCell 2 h tag count) id fun s =>
    let s := s.put pMCH MCH.POSITION_COUNT count
    if s.enabled pANG && s.ang.src == 2 then
      let s := s.putB pANG ANG.STATUS_CHAIN_HOLD (tag.testBit 1)
      if tag.testBit 0 && !s.bit pANG ANG.STATUS_LOCKED then s.lockAngle
      else s.putB pANG ANG.STATUS_LOCKED (tag.testBit 0)
    else s

/-! ## Enumeration, discovery and ranging -/

/-- Send a COUNT cell and wait for it (R75).  DEDUCED (assumption 87): on a ring already closed too, COUNT is 1 and RING_OK 0 from here
until the cell returns. -/
def State.discover (s : State) : State :=
  if s.isHead && s.enabled pMCH then
    let s := s.put pMCH MCH.POSITION_COUNT 1
    let s := s.putB pMCH MCH.STATUS_RING_OK false
    ((s.queueCell 3 0 0).resched 65536 .countTimeout).startStream
  else s

/-- DISCOVER: MCH.CMD.DISCOVER on the head (R75). -/
def effDiscover (s : State) : State := if s.coreRuns then s.discover else s

/-- COUNT_CELL: a follower takes its position and counts itself on; the head stores the number of Boards (R75).  DEDUCED (assumption
87): HELLO cells held from before this discovery count no longer toward COUNT - 1 (R76). -/
def effCountCell (h : CellHead) (count : Nat) (s : State) : State :=
  s.cellIn 3 h (mkCell 3 h 0 count) (mkCell 3 h 0 (count + 1))
    (fun s =>
      let s := (s.put pMCH MCH.POSITION_COUNT (count + 1)).unsched .countTimeout
      (s.putB pMCH MCH.STATUS_RING_OK true).withMch fun m => { m with hellos := [] })
    (fun s => s.put pMCH MCH.POSITION_POSITION (count + 1))

/-- COUNT_TIMEOUT: the COUNT cell has not returned; the ring is open (R75). -/
def effCountTimeout (s : State) : State :=
  if s.coreRuns && s.isHead && s.enabled pMCH && !s.bit pMCH MCH.STATUS_RING_OK then
    (((s.unsched .countTimeout).flag pMCH MCH.FLAG_RING_OPEN).recordErr pMCH 4).withMch fun m => { m with reopen := true }
  else s

/-- RANGE: MCH.CMD.RANGE on the head (R77). -/
def effRange (s : State) : State := if s.coreRuns then s.rangeNow else s

/-- RANGE_START_CELL: forwarded, then the Board stops forwarding and sends echo pulses, 64 of them, one every 256 CCLK, from
2,048 CCLK on (R77). -/
def effRangeStartCell (h : CellHead) (s : State) : State :=
  s.cellIn 4 h (mkCell 4 h 1 0) (mkCell 4 h 1 0) id fun s => s.startRanging

/-- The hop value a Board adds to a RANGE result; all ones when fewer than 48 echoes came back (R77). -/
def State.addHop (s : State) (v : Nat) : Nat :=
  if v = 0xFFFFFFFFFF ∨ s.get pMCH MCH.HOP_ECHOES < 48 then 0xFFFFFFFFFF else v + s.get pMCH MCH.HOP_HOP

/-- ECHO_WINDOW_END: the echo window is over; the hop value follows from the round trips, in 1/32 CCLK, and the head
sends the RANGE result cell (R77). -/
def effEchoWindowEnd (trips : List Nat) (s : State) : State :=
  if s.forwards && s.bit pMCH MCH.STATUS_RANGING then
    let n := Nat.min 64 trips.length
    let total := (trips.take 64).foldl (· + ·) 0
    let hop := if n = 0 then 0
      else (total - n * (32 * 32 + Config.transceiverLatency)) / (2 * n) + Config.repeaterDelay
    let s := s.put pMCH MCH.HOP_ECHOES n
    let s := s.put pMCH MCH.HOP_HOP hop
    if s.isHead then
      let x := s.newCell 4 2 (s.addHop 0)
      x.2.sendCell x.1
    else s
  else s

/-- Ranging ends on a Board: a rate change that fell into it waits one more boundary, the wait for IDLE cells begins anew, and the head
fills the ring with cells again (R69, R78, R87). -/
def State.endRanging (s : State) : State :=
  let s := (s.putB pMCH MCH.STATUS_RANGING false).withMch fun m => { m with
    rateHold := b2n s.ang.deferred.isSome, mclkLost := false, fillTo := s.now + s.get pMCH MCH.RING_DELAY }
  s.when (!s.isHead) fun s => s.resched 4096 (.chainAngleLost false)

/-- The time is over in which ranging ends at the latest (R77). -/
def State.rangeEnd (s : State) : State := s.when (s.bit pMCH MCH.STATUS_RANGING) State.endRanging

/-- The head creates the report token while REPORT_EN is 1, and watches for it (R86). -/
def State.createToken (s : State) : State :=
  if s.isHead && s.bit pMCH MCH.CFG_REPORT_EN then
    let lim := orDefault 1 (s.get pMCH MCH.REPORT_HOLD_LIMIT)
    (s.queueCell 8 0 0).resched ((lim + 100) * 216960 / 1000) .reportTokenTimeout
  else s

/-- RANGE_RESULT_CELL: a follower stores its offset, or keeps the old one when ranging failed upstream, and adds its hop;
at the head ranging is complete (R77, R86).  DEDUCED (assumption 87): the head, which has no OFFSET to keep, sets RANGED and creates the
token also when the result comes back all ones. -/
def effRangeResultCell (h : CellHead) (v : Nat) (s : State) : State :=
  s.cellIn 4 h (mkCell 4 h 2 v) (mkCell 4 h 2 (s.addHop v))
    (fun s =>
      let first := !s.mch.rangedOnce
      let s := s.endRanging
      let s := (s.putB pMCH MCH.STATUS_RANGED true).withMch fun m => { m with rangedOnce := true }
      s.when first State.createToken)
    (fun s =>
      let s := s.endRanging
      if v = 0xFFFFFFFFFF then (s.flag pMCH MCH.FLAG_RANGE_FAIL).recordErr pMCH 0x0A
      else
        let s := (s.put pMCH MCH.RANGE_OFFSET v).putB pMCH MCH.STATUS_RANGED true
        s.pendCorr pMCH MCH.RANGE_OFFSET.off (s.reg pMCH MCH.RANGE_OFFSET.off))

/-- HELLO_CELL: a number in use twice, and the head's count of followers that have answered (R76).  DEDUCED (assumption 87): a HELLO with
this Board's number and another position comes from the other Board of that number and is forwarded, not stripped as an own one. -/
def effHelloCell (h : CellHead) (position : Nat) (s : State) : State :=
  let clash := h.src == s.boardNum && position != s.get pMCH MCH.POSITION_POSITION
  let dupNum := fun (s : State) =>
    if clash then (s.withMch fun m => { m with dup := true }).setFault pMCH 3 7 { cls := 0x0E } else s
  if clash && s.takesCells 5 && s.enabled pMCH && s.mch.aligned then dupNum (s.forwardCell (mkCell 5 h 0 position)).goodCell
  else
    s.cellIn 5 h (mkCell 5 h 0 position) (mkCell 5 h 0 position) id fun s =>
      if s.isHead then
        let s := s.withMch fun m => { m with hellos := if m.hellos.contains h.src then m.hellos else m.hellos ++ [h.src] }
        if s.bit pMCH MCH.STATUS_RING_OK && s.mch.hellos.length + 1 == s.get pMCH MCH.POSITION_COUNT then s.rangeNow else s
      else s

/-- A Board's number is written (R74): it drives ENUMO high and sends HELLO, or is unassigned. -/
def State.takeNumber (s : State) (v : Nat) : State :=
  let s := s.put pDEV DEV.BOARD_NUM_NUM v
  let s : State := { s with crcHeld := AMap.erase pDEV s.crcHeld }
  if v = 62 then s.withMch fun m => { m with enumo := false, dup := false }
  else
    let s := s.withMch fun m => { m with enumo := true, dup := false }
    s.queueCell 5 0 (s.get pMCH MCH.POSITION_POSITION)

/-! ## Launch tokens (R84) -/

/-- LAUNCH_CELL: the token of another Board, or the own one on its return unless it has been handled when it was sent (R84). -/
def effLaunchCell (h : CellHead) (token angle : Nat) (s : State) : State :=
  let c := mkCell 6 h token angle
  s.cellIn 6 h c c (fun s => if s.dupCell 6 h then s else (s.noteSeen 6 h).handleToken token angle) fun s => s.handleToken token angle

/-- POST_TOKEN: a LAUNCH cell with the token and POST_ANGLE; ignored while the number is 62 (R84). -/
def effPostToken (token : Nat) (s : State) : State :=
  if s.coreRuns && s.boardNum != 62 then s.queueCell 6 token (s.get pMCH MCH.POST_ANGLE_ANGLE) else s

/-- LSLOT_FIRE: an armed slot reaches its angle, or is late on its arming edge (R84). -/
def effLslotFire (n : Nat) (late : Bool) (s : State) : State :=
  if s.coreRuns && decide (n < 8) && s.enabled pMCH && s.enabled pANG then (s.disarm (.lslot n)).slotFires n late else s

/-- A write of LSLOTs_CFG.EN = 0 with the slot armed drops its angle, counted in COUNT2.LATE (R88). -/
def State.slotDrop (s : State) (n : Nat) : State :=
  if s.slotArmed n && !s.bit pMCH (MCH.LSLOT_CFG_EN n) then (s.disarm (.lslot n)).inc pMCH MCH.COUNT2_LATE else s

/-! ## Chain-linked channels (R85, R289) -/

/-- EVENT_CELL: a handled cell takes a pending slot until its launch angle; a late one is delivered on receipt (R85,
R289, R458). -/
def effEventCell (h : CellHead) (ch hop angle : Nat) (s : State) : State :=
  let c := mkCell 7 h (hop % 16 * 16 + (ch - 48) % 16) angle
  s.cellIn 7 h c c id fun s =>
    let a := angle % 2 ^ 40
    if decide (48 ≤ ch ∧ ch < 64) && s.channelOn ch && s.chainLinked ch then
      if !s.enabled pANG then s.inc (pEVT (ch / 8)) (EVT.CH_COUNT2_DROPPED (ch % 8))
      else
        let s := s.when (s.ang.running && s.lateTarget a) State.chainLate
        let n := s.deliveries.length
        let merged := s.deliveries.any fun e => e.ch == ch && e.chain && e.due == 0 && e.angle == a
        let s := s.holdDelivery { ch := ch, due := 0, hop := hop % 16, chain := true, angle := a, unaligned := false }
        (if merged || s.deliveries.length == n then s else s.arm (.chainDel ch a) a).holdWake
    else s

/-! ## The report token (R86) -/

/-- Report words are pending for the token (R363). -/
def State.wordsPending (s : State) : Bool := s.bit pHPT HPT.RPT_CFG_MASTER_EN && !s.hpt.rpt.isEmpty

/-- The Board reinserts the token. -/
def State.reinsertToken (s : State) : State :=
  if s.bit pMCH MCH.STATUS_TOKEN_HELD then
    let s := s.putB pMCH MCH.STATUS_TOKEN_HELD false
    let s := (s.unsched .tokenHoldLimit).withMch fun m => { m with release := false }
    s.when (!s.isHead || s.bit pMCH MCH.CFG_REPORT_EN) fun s => s.queueCell 8 0 0
  else s

/-- The token goes on.  DEDUCED (assumption 87): at the Board that inserted it last it is a cell of its own that has returned (R72): the
Board puts it into the slot anew, with the next SEQ, so that it circulates (R86) and no Board takes it for a repeat (R73). -/
def State.passToken (s : State) (h : CellHead) : State :=
  if h.src = s.boardNum ∧ s.mayOriginate 8 = true then
    let x := s.newCell 8 0 0
    x.2.forwardCell x.1
  else s.forwardCell (mkCell 8 h 0 0)

/-- REPORT_CELL: taken with words pending, forwarded otherwise; a second token is stripped, and a head with REPORT_EN at 0 lets none
circulate (R86, R89). -/
def effReportCell (h : CellHead) (s : State) : State :=
  if s.takesCells 8 then
    let s := s.goodCell
    if !(s.mch.aligned && s.enabled pMCH) then s.forwardCell (mkCell 8 h 0 0)
    else if h.src != s.boardNum && s.dupCell 8 h then (s.forwardCell (mkCell 8 h 0 0)).inc pMCH MCH.COUNT2_DUP_DISCARD
    else
      let s := s.noteSeen 8 h
      let s := s.when s.isHead fun s =>
        s.resched ((orDefault 1 (s.get pMCH MCH.REPORT_HOLD_LIMIT) + 100) * 216960 / 1000) .reportTokenTimeout
      if s.bit pMCH MCH.STATUS_TOKEN_HELD then s.voidOut.flag pMCH MCH.FLAG_DUP_TOKEN
      else if s.bit pMCH MCH.CFG_REPORT_EN && s.wordsPending && s.mayOriginate 8 then
        let s := s.voidOut.putB pMCH MCH.STATUS_TOKEN_HELD true
        s.resched (orDefault 1 (s.get pMCH MCH.REPORT_HOLD_LIMIT) * 216960 / 1000) .tokenHoldLimit
      else if s.isHead && !s.bit pMCH MCH.CFG_REPORT_EN then s.voidOut
      else s.passToken h
  else s

/-- No report word is left and none is being sent: the token goes back (R86). -/
def State.tokenIdle (s : State) : State :=
  if s.wordsPending || s.bit pHPT HPT.STATUS_MASTERING then s else s.reinsertToken

/-- REPORT_EN has been written: a head that has been ranged and waits for no token creates one (R86, R89). -/
def State.reportEnabled (s : State) : State :=
  s.when (s.enabled pMCH && s.mch.rangedOnce && !s.bit pMCH MCH.STATUS_TOKEN_HELD && !s.agenda.any (fun e => e.2 == .reportTokenTimeout))
    State.createToken

/-- TOKEN_HOLD_LIMIT: the token is reinserted, after the unit in progress (R86). -/
def effTokenHoldLimit (s : State) : State :=
  if s.coreRuns && s.bit pMCH MCH.STATUS_TOKEN_HELD then
    if s.bit pHPT HPT.STATUS_MASTERING then s.withMch fun m => { m with release := true } else s.reinsertToken
  else s

/-- REPORT_TOKEN_TIMEOUT: the head creates a new token (R86). -/
def effReportTokenTimeout (s : State) : State :=
  if s.coreRuns && s.enabled pMCH && s.mch.rangedOnce then s.createToken else s

/-! ## Errors on the ring (R73, R87) -/

/-- The follower loses the chain angle: its own holdover begins at the last rate received (R54, R55, R87). -/
def State.loseChain (s : State) : State :=
  let s := s.withMch fun m => { m with lost := true }
  let s := (s.putB pMCH MCH.STATUS_ANGLE_OK false).putB pMCH MCH.STATUS_REALIGN false
  let s := (s.putB pANG ANG.STATUS_HOLDOVER true).put pANG ANG.HOLD_CYCLES 0
  let s := (s.flag pANG ANG.FLAG_HOLDOVER).withAng fun g => { g with slew := 0 }
  let s := s.recordErr pANG 6
  s.setFault pMCH 2 6 { cls := 0x0E }

/-- CHAIN_ANGLE_LOST: a follower loses alignment, IDLE cells or MCLK (`mclk`) and runs on at its own angle (R87). -/
def effChainAngleLost (mclk : Bool) (s : State) : State :=
  let s := s.unsched (.chainAngleLost false)
  if s.coreUp && s.mch.roleSet && !s.isHead then
    let s := s.when mclk fun s =>
      (s.withMch fun m => { m with mclkLost := true }).setFault pMCH 1 5 { cls := 7 }
    if s.bit pMCH MCH.STATUS_ANGLE_OK && (mclk || !s.bit pMCH MCH.STATUS_RANGING) then s.loseChain else s
  else s

/-- BAD_CELL: 80 bits with bad SYNC, CRC or a reserved TYPE: a VOID goes on in its place; alignment is lost after four (R70, R73). -/
def effBadCell (word : Nat) (s : State) : State :=
  if s.forwards && wordBad word then
    let s := (s.inc pMCH MCH.COUNT1_CRC_ERR).flag pMCH MCH.FLAG_CRC
    let s := (s.recordErr pMCH 1).voidOut
    let s := s.withMch fun m => { m with goodRun := 0, badRun := m.badRun + 1 }
    if 4 ≤ s.mch.badRun then
      let s := s.withMch fun m => { m with aligned := false }
      if !s.isHead then s.sched 0 (.chainAngleLost false) else s
    else s
  else s

/-- The head's cells no longer return: its ring is open (R89). -/
def State.ringOpens (s : State) : State :=
  s.when (s.isHead && s.bit pMCH MCH.STATUS_RING_OK) fun s =>
    ((s.putB pMCH MCH.STATUS_RING_OK false).withMch fun m => { m with reopen := true }).startStream

/-- CELL_RESEND: an own cell of a type has not come back: sent once more with the same SEQ, in the next slot, a RANGE cell at once, or
lost after its copy; either loss of a cell that is not sent again opens the head's ring (R73, R77, R89). -/
def effCellResend (type : Nat) (s : State) : State :=
  if s.forwards && s.enabled pMCH then
    match s.mch.flights.find? fun f => f.cell.type == type with
    | none => s
    | some f =>
      let s := s.withMch fun m => { m with flights := m.flights.filter fun g => g ≠ f }
      if f.copy then ((s.flag pMCH MCH.FLAG_LOST).recordErr pMCH 2).ringOpens
      else if s.bit pMCH MCH.CFG_RESEND_EN && s.mayOriginate type then
        let s := s.inc pMCH MCH.COUNT1_RESENT
        let s := s.withMch fun m => { m with flights := m.flights ++ [{ f with copy := true }] }
        if s.isHead && type == 4 && s.bit pMCH MCH.STATUS_RANGING then s.sendCell f.cell
        else s.withMch fun m => { m with queue := f.cell :: m.queue }
      else s.ringOpens
  else s

end Sys2Proof.Machine
end

