-- ==== Sys2Proof/Machine/Sco.lean ====
section
/-! DEFINITION. The Scoresheet (R307–R312): the region, its mount, records programmed from the queue, sectors erased in
turn, telemetry. -/

namespace Sys2Proof.Machine

open Sys2Proof

def State.withSco (s : State) (f : Sco → Sco) : State := { s with sco := f s.sco }

/-! ## The region (R307) -/

def State.scoSectors (s : State) : Nat := s.get pSCO SCO.CFG_SECTORS
def State.scoLog2 (s : State) : Nat := s.get pSCO SCO.CFG_LOG2
def State.scoBase (s : State) : Nat := s.get pSCO SCO.BASE_ADDR

/-- Slots of a sector, the header's included. -/
def State.scoSlots (s : State) : Nat := 2 ^ s.scoLog2 / 64

/-- The window address of a sector of the region. -/
def State.sectorAddr (s : State) (k : Nat) : Nat := s.scoBase + k * 2 ^ s.scoLog2

/-- The erase type of a device that covers one sector. -/
def State.scoErase (s : State) (d : Nat) : Option Nat :=
  (List.range 4).find? fun t => decide (128 ≤ s.eraseType d t) && s.eraseType d t % 32 == s.scoLog2

/-- The region meets the conditions of R307. -/
def State.regionOk (s : State) : Bool :=
  let size := 2 ^ s.scoLog2
  let off := s.scoBase - winBase
  let stop := off + s.scoSectors * size
  decide (12 ≤ s.scoLog2 ∧ s.scoLog2 ≤ 16 ∧ 2 ≤ s.scoSectors ∧ winBase ≤ s.scoBase ∧ s.scoBase % size = 0 ∧ stop ≤ s.flashEnd) &&
    (s.scoErase (s.devOf off)).isSome && (s.scoErase (s.devOf (stop - 1))).isSome

/-- The queued records are lost; one being programmed completes (R311, R313). -/
def State.scoDiscard (s : State) : State :=
  let keep := if s.sco.op = 1 then 1 else 0
  let s := (s.scoQueue.drop keep).foldl (fun s _ => s.scoLose) s
  ({ s with scoQueue := s.scoQueue.take keep } : State).put pSCO SCO.QUEUE_QUEUED keep

/-- STATUS follows the operation in progress. -/
def State.scoShow (s : State) : State :=
  let s := s.putB pSCO SCO.STATUS_PROGRAMMING (s.sco.op == 1 || s.sco.op == 3)
  (s.putB pSCO SCO.STATUS_ERASING (s.sco.op == 2)).put pSCO SCO.QUEUE_QUEUED s.scoQueue.length

/-- The enable is refused: ENABLE returns to 0, code 0x05, queued records are lost (R307). -/
def State.scoRefuse (s : State) : State :=
  let s := (s.putB pSCO COM.ENABLE false).putB pSCO SCO.STATUS_WAIT_XMP false
  (s.recordErr pSCO 5).scoDiscard

/-- The test of R307 once external memory is ready; the mount reads the region next. -/
def State.scoTest (s : State) : State :=
  let s := s.putB pSCO SCO.STATUS_WAIT_XMP false
  if s.regionOk then s else s.scoRefuse

/-- CTRL.ENABLE of SCO from 0 to 1 (R307). -/
def State.scoEnable (s : State) : State := if s.xmpReady then s.scoTest else s.putB pSCO SCO.STATUS_WAIT_XMP true

/-! ## Programs and erases (R310) -/

/-- The 64 bytes of a record (R308). -/
def State.recordBytes (s : State) (rseq : Nat) (r : ScoRec) : List Nat :=
  let b := [r.kind, s.boardNum % 64] ++ beBytes 4 rseq ++ beBytes 5 r.angle ++ beBytes 4 r.arbseq ++ beBytes 5 r.uptime ++
    beBytes 2 r.flags ++ (r.payload ++ List.replicate 38 0).take 38
  b ++ beBytes 4 (crc32c b)

/-- External memory can take a write or an erase of the Scoresheet. -/
def State.scoMay (s : State) : Bool :=
  s.coreRuns && s.xmpReady && s.sco.op == 0 && decide (s.xmp.queue.length + s.xmp.backlog.length < 8)

/-- The header record of the sector being prepared (R309). -/
def State.header (s : State) : ScoRec :=
  { kind := 0x7E, angle := s.angle, arbseq := s.seqNext, uptime := s.get pDEV DEV.UPTIME_MS, flags := s.scoFlags false,
    payload := beBytes 4 s.sco.sseq ++ beBytes 2 s.scoSectors ++ [s.scoLog2] }

/-- The erase of a sector begins (R310). -/
def State.scoEraseSector (s : State) (k : Nat) : State :=
  let off := s.sectorAddr k - winBase
  let s := s.withSco fun x => { x with op := 2, sector := k }
  match s.scoErase (s.devOf off) with
  | some t => (s.xmpEraseQ t off 254).2.scoShow
  | none => s.scoShow

/-- The next sector of the ring after the head or the one in preparation. -/
def State.nextSector (s : State) : Nat := (s.sco.sector + 1) % Nat.max 1 s.scoSectors

/-- The head sector is full or given up: the next one is erased. -/
def State.scoAdvance (s : State) : State := s.scoEraseSector s.nextSector

/-- The record at the head of the queue is programmed at HEAD. -/
def State.scoProgram (s : State) : State :=
  match s.scoQueue with
  | r :: _ =>
    let x := s.xmpPost 254 (s.get pSCO SCO.HEAD_ADDR - winBase) (s.recordBytes (s.get pSCO SCO.SEQ_RSEQ) r)
    if x.1 then (x.2.withSco fun x => { x with op := 1 }).scoShow else x.2
  | [] => s

/-- HEAD lies past the last slot of its sector. -/
def State.headFull (s : State) : Bool := decide (s.sectorAddr s.sco.sector + 2 ^ s.scoLog2 ≤ s.get pSCO SCO.HEAD_ADDR)

/-- What a happening leaves for the Scoresheet: the test that waits for external memory (R307), the next record (R310), a
LOST record (R311). -/
def State.scoSettle (s : State) : State :=
  let s := if s.bit pSCO SCO.STATUS_WAIT_XMP then
      (if s.xmpReady then s.scoTest else if s.coreUp && s.enabled pXMP && s.xmp.discovered then s.scoRefuse else s)
    else s
  let s := s.scoLostRecord
  if s.bit pSCO SCO.STATUS_MOUNTED && s.scoMay then
    if s.headFull || decide (3 ≤ s.sco.fails) then s.scoAdvance else s.scoProgram
  else s

/-- RECORD_PROGRAMMED: the program of a record or header ends (R310). -/
def effRecordProgrammed (ok : Bool) (s : State) : State :=
  if s.coreUp && (s.sco.op == 1 || s.sco.op == 3) then
    let header := s.sco.op == 3
    let s := s.withSco fun x => { x with op := 0 }
    let s := if ok then
        let s := ((s.incMod pSCO SCO.COUNT1_WRITTEN).flag pSCO SCO.FLAG_WRITTEN).incMod pSCO SCO.SEQ_RSEQ
        if header then
          let a := s.sectorAddr s.sco.sector + 64
          let s := (s.put pSCO SCO.SSEQ_SSEQ s.sco.sseq).put pSCO SCO.HEAD_ADDR a
          let s := s.when s.sco.format fun s => s.put pSCO SCO.OLDEST_ADDR a
          (s.putB pSCO SCO.STATUS_MOUNTED (s.enabled pSCO)).withSco fun x => { x with fails := 0, format := false }
        else
          let s : State := { s with scoQueue := s.scoQueue.drop 1 }
          s.put pSCO SCO.HEAD_ADDR (s.get pSCO SCO.HEAD_ADDR + 64)
      else
        let s := (s.inc pSCO SCO.COUNT2_FAILED).setFault pSCO 1 1 { cls := 0x0E }
        if header then (if s.enabled pSCO && s.coreRuns && s.xmpReady then s.scoAdvance else s)
        else
          let s := s.withSco fun x => { x with fails := x.fails + 1 }
          s.put pSCO SCO.HEAD_ADDR (s.get pSCO SCO.HEAD_ADDR + 64)
    s.scoShow
  else s

/-- The header of an erased sector given to the flash at its first address (R308). -/
def State.scoHeaderAt (s : State) (a : Nat) : State :=
  let x := s.xmpPost 254 (a - winBase) (s.recordBytes (s.get pSCO SCO.SEQ_RSEQ) s.header)
  if x.1 then x.2.withSco fun x => { x with op := 3 } else x.2

/-- SECTOR_ERASED: the erase of a sector ends; its header is programmed, or it is passed over for this turn (R310). -/
def effSectorErased (ok : Bool) (s : State) : State :=
  if s.coreUp && s.sco.op == 2 then
    let k := s.sco.sector
    let a := s.sectorAddr k
    let s := s.withSco fun x => { x with op := 0 }
    let s := if ok then
        let old := s.get pSCO SCO.OLDEST_ADDR
        let s := if a ≤ old ∧ old < a + 2 ^ s.scoLog2 ∧ s.sco.format = false then
            (s.put pSCO SCO.OLDEST_ADDR (s.sectorAddr s.nextSector + 64)).flag pSCO SCO.FLAG_WRAP
          else s
        if s.enabled pSCO && s.coreRuns then
          (s.withSco fun x => { x with sseq := if x.format then 1 else (s.get pSCO SCO.SSEQ_SSEQ + 1) % 2 ^ 32 }).scoHeaderAt a
        else s
      else
        let s := (s.inc pSCO SCO.COUNT2_FAILED).setFault pSCO 1 2 { cls := 0x0E }
        if s.enabled pSCO && s.coreRuns && s.xmpReady then s.scoAdvance else s
    s.scoShow
  else s

/-! ## Mounting (R312) -/

/-- A slot that reads 0xFF in all 64 bytes is empty. -/
def slotEmpty (x : SlotRead) : Bool := !x.poison && x.bytes.all (· == 0xFF)

/-- A slot good under its CRC and free of poison. -/
def slotGood (x : SlotRead) : Bool :=
  !x.poison && x.bytes.length == 64 && beNat (x.bytes.drop 60) == crc32c (x.bytes.take 60)

def emptySlot : SlotRead := { bytes := List.replicate 64 0xFF, poison := false }

/-- `b` comes after `a`, or is the same (R283). -/
def seqAfter (a b : Nat) : Bool := decide ((b + 2 ^ 32 - a % 2 ^ 32) % 2 ^ 32 < 2 ^ 31)

/-- The SSEQ of a sector with a valid header (R312). -/
def State.validHeader (s : State) (x : SectorScan) : Option Nat :=
  let h := x.slots.getD 0 emptySlot
  if slotGood h ∧ nth h.bytes 0 = 0x7E ∧ beNat ((h.bytes.drop 26).take 2) = s.scoSectors ∧ nth h.bytes 28 = s.scoLog2 then
    some (beNat ((h.bytes.drop 22).take 4)) else none

/-- The sectors with a valid header, with their SSEQ. -/
def State.headers (s : State) (l : List SectorScan) : List (Nat × Nat) :=
  (List.range s.scoSectors).filterMap fun k => (l[k]?.bind s.validHeader).map fun q => (k, q)

/-- The sector whose SSEQ comes last, or with `first` first. -/
def pickSector (first : Bool) (l : List (Nat × Nat)) : Option (Nat × Nat) :=
  l.foldl (fun a e => match a with
    | none => some e
    | some b => if seqAfter b.2 e.2 != first then some e else a) none

/-- The highest RSEQ of a sector's good slots. -/
def highestRseq (l : List SlotRead) : Option Nat :=
  (l.filter slotGood).foldl (fun a x =>
    let q := beNat ((x.bytes.drop 2).take 4)
    match a with
    | none => some q
    | some b => if seqAfter b q then some q else a) none

/-- The region is formatted from sector 0 (R312). -/
def State.scoFormat (s : State) : State :=
  if s.scoMay then (s.withSco fun x => { x with format := true, fails := 0 }).scoEraseSector 0 else s

/-- The region is read and mounted on the sector with the latest header (R312). -/
def State.mount (s : State) (l : List SectorScan) : State :=
  let hs := s.headers l
  match pickSector false hs with
  | none => s.when (s.bit pSCO SCO.CFG_AUTO_FORMAT) State.scoFormat
  | some (k, q) =>
    let x := ((l[k]?.map SectorScan.slots).getD [] ++ List.replicate s.scoSlots emptySlot).take s.scoSlots
    let torn := x.filter fun y => !slotEmpty y && !slotGood y
    let s := s.forEach torn fun s _ => ((s.inc pSCO SCO.COUNT2_TORN).flag pSCO SCO.FLAG_TORN).recordErr pSCO 4
    let head := (x.findIdx? slotEmpty).getD s.scoSlots
    let s := s.put pSCO SCO.HEAD_ADDR (s.sectorAddr k + 64 * head)
    let s := s.put pSCO SCO.SEQ_RSEQ ((highestRseq x).getD 0 + 1)
    let s := s.put pSCO SCO.SSEQ_SSEQ q
    let s := s.put pSCO SCO.OLDEST_ADDR (s.sectorAddr (((pickSector true hs).map Prod.fst).getD k) + 64)
    (s.putB pSCO SCO.STATUS_MOUNTED true).withSco fun y => { y with sector := k, fails := 0, format := false }

/-- The Scoresheet is enabled and its region valid. -/
def State.scoUsable (s : State) : Bool := s.coreRuns && s.enabled pSCO && s.xmpReady && s.regionOk

/-- SCO_MOUNT: the region is mounted after an enable (R307, R312). -/
def effScoMount (l : List SectorScan) (s : State) : State :=
  if s.scoUsable && !s.bit pSCO SCO.STATUS_MOUNTED && s.sco.op == 0 then
    (s.putB pSCO SCO.STATUS_WAIT_XMP false).mount l
  else s

/-- REMOUNT: CMD.REMOUNT mounts the region again (R312); while an operation is in progress the region stays unmounted until SCO_MOUNT. -/
def effRemount (l : List SectorScan) (s : State) : State :=
  if s.scoUsable then
    let s := s.putB pSCO SCO.STATUS_MOUNTED false
    if s.sco.op = 0 then s.mount l else s
  else s

/-- FORMAT: CMD.FORMAT formats an unmounted region (R312). -/
def effFormat (s : State) : State :=
  if s.scoUsable && !s.bit pSCO SCO.STATUS_MOUNTED then s.scoFormat else s

/-- CTRL.ENABLE of SCO written 0: a program in progress completes, queued records are lost (R313). -/
def State.scoDisable (s : State) : State :=
  ((s.putB pSCO SCO.STATUS_MOUNTED false).putB pSCO SCO.STATUS_WAIT_XMP false).scoDiscard

/-! ## Telemetry (R309) -/

/-- The TELEMETRY record; its counts go on where the queue drops it. -/
def State.telemetry (s : State) (t : TelReading) : State :=
  let n := fun i => nth s.sco.tel i
  let tj := s.get pCAL CAL.TEMP_TJ
  let p := beBytes 2 tj ++ beBytes 2 s.sco.telMax ++ beBytes 2 t.vcore ++ beBytes 2 t.vpaA ++ beBytes 2 t.vpaB ++
    beBytes 2 t.power ++ [s.mode] ++ beBytes 4 (n 0) ++ beBytes 4 (n 1) ++ beBytes 3 (n 2) ++ beBytes 2 (n 3) ++ beBytes 2 (n 4)
  let room := s.scoRoom 3
  let s := s.scoRecord 3 s.seqNext p
  s.when room fun s => s.withSco fun x => { x with tel := [0, 0, 0, 0, 0], telMax := tj }

/-- TEL_NOW: CMD.TEL_NOW queues a TELEMETRY record. -/
def effTelNow (t : TelReading) (s : State) : State :=
  if s.coreRuns && s.enabled pSCO then s.telemetry t else s

/-- TELEMETRY_TIMER: the period of TEL ends; a record is queued while TEL.EN is 1 (R309). -/
def effTelemetryTimer (t : TelReading) (s : State) : State :=
  if s.coreRuns && s.enabled pSCO then
    s.when (s.bit pSCO SCO.TEL_EN) fun s => s.telemetry t
  else s

end Sys2Proof.Machine
end

