-- ==== Sys2Proof/Machine/Hpt.lean ====
section
/-! DEFINITION. The host port's violation log, reports and decoder (R347, R353, R354, R360–R368); the frames that reach
registers follow in Frames. -/

namespace Sys2Proof.Machine

open Sys2Proof

def State.withHpt (s : State) (f : Hpt → Hpt) : State := { s with hpt := f s.hpt }

/-! ## Results and violations (R354, R360–R362) -/

/-- A log entry (R362). -/
def vlogEntry (code op board page off bytes : Nat) : Nat :=
  code % 16 * 2 ^ 36 + op % 4 * 2 ^ 34 + board % 64 * 2 ^ 28 + page % 256 * 2 ^ 20 + off % 256 * 2 ^ 12 + Nat.min 4095 bytes

/-- A violation is logged (R360, R362). -/
def State.violate (s : State) (code op board page off bytes : Nat) : State :=
  let w := s.get pHPT HPT.VLOG_PTR_WR
  let s := s.when (s.get pHPT (HPT.VLOG_ENTRY w) != 0) fun s => s.putB pHPT HPT.VLOG_PTR_WRAPPED true
  let s := s.put pHPT (HPT.VLOG_ENTRY w) (vlogEntry code op board page off bytes)
  ((s.put pHPT HPT.VLOG_PTR_WR (w + 1)).flag pHPT HPT.FLAG_VIOLATION).recordErr pHPT code

/-- The latest result recorded (R354). -/
def State.setResult (s : State) (r : Nat) : State := s.withHpt fun h => { h with result := r }

/-- A Resign is requested: 1 ball, 2 host, 3 fault manager (R417). -/
def State.requestResign (s : State) (cause : Nat) : State :=
  { s with flt := { s.flt with request := if s.flt.request = 0 then cause else Nat.min cause s.flt.request, asked := s.now + 1 } }

/-! ## Reports (R363–R366) -/

/-- RPT_PUSH: a report word is appended (R363). -/
def effRptPush (v : Nat) (s : State) : State := s.rptAppend v

/-- What a read of RPT_POP returns, and the queue without the word; a Board that holds the report token and has no word left reinserts
it (R86, R363). -/
def State.popWord (s : State) : Nat × State :=
  let k := s.hpt.unit
  match s.hpt.rpt[k]? with
  | some w =>
    let s := s.withHpt fun h => { h with rpt := h.rpt.eraseIdx k }
    (2 ^ 39 + w, (s.put pHPT HPT.RPT_STAT_QUEUED s.hpt.rpt.length).tokenIdle)
  | none => (0, s)

/-- RPT_POP: a read of RPT_POP (R363). -/
def effRptPop (s : State) : State :=
  let x := s.popWord
  x.2.withHpt fun h => { h with out := beBytes 5 x.1 }

/-- Nibbles of a report word or header, most significant first. -/
def nibbles (k v : Nat) : List Nat := (List.range k).map fun i => v / 16 ^ (k - 1 - i) % 16

/-- RPT_CFG.WIDTH in force. -/
def State.rptWidth (s : State) : Nat :=
  let w := s.get pHPT HPT.RPT_CFG_WIDTH
  if w = 0 ∨ 8 < w then 8 else w

/-- REPORT_UNIT: the holder of the report token masters a unit (R364, R365). -/
def effReportUnit (s : State) : State :=
  let n := Nat.min s.hpt.rpt.length (orDefault 32 (s.get pHPT HPT.RPT_CFG_MAX_WORDS))
  if s.coreRuns && s.bit pMCH MCH.STATUS_TOKEN_HELD && s.bit pHPT HPT.RPT_CFG_MASTER_EN && !s.bit pHPT HPT.STATUS_MASTERING &&
      decide (0 < n) then
    let q := s.get pHPT HPT.RPT_STAT_USEQ
    let head := s.boardNum % 64 * 1024 + (n - 1) * 32 + q * 2 + b2n s.hpt.resent
    let w := s.rptWidth
    let s := s.withHpt fun h => { h with unit := n, out := nibbles 4 head ++ ((h.rpt.take n).map (nibbles w)).flatten }
    let s := (s.put pHPT HPT.RPT_STAT_USEQ (q + 1)).putB pHPT HPT.STATUS_MASTERING true
    s.resched (clampNat 4 64 (s.get pHPT HPT.RPT_CFG_DIV) * (6 + n * w)) .reportUnitEnd
  else s

/-- REPORT_UNIT_END: the unit's words leave the queue; the token stays for the next unit or is reinserted (R86, R365). -/
def effReportUnitEnd (s : State) : State :=
  if s.bit pHPT HPT.STATUS_MASTERING then
    let s := (s.unsched .reportUnitEnd).withHpt fun h => { h with rpt := h.rpt.drop h.unit, unit := 0, resent := false }
    let s := (s.put pHPT HPT.RPT_STAT_QUEUED s.hpt.rpt.length).putB pHPT HPT.STATUS_MASTERING false
    let s := (s.flag pHPT HPT.FLAG_UNIT_DONE).incMod pHPT HPT.COUNT_UNITS
    if s.mch.release || !s.wordsPending then s.reinsertToken else s
  else s

/-- MASTER_COLLISION: HSEL_N falls while the Board masters: the unit's words stay queued, the token is reinserted (R366). -/
def effMasterCollision (s : State) : State :=
  if s.bit pHPT HPT.STATUS_MASTERING then
    let s := (s.unsched .reportUnitEnd).withHpt fun h => { h with unit := 0, resent := true }
    let s := (s.putB pHPT HPT.STATUS_MASTERING false).flag pHPT HPT.FLAG_MASTER_FAULT
    ((s.violate 0xC 0 0 0 0 0).setResult 0xC).reinsertToken
  else s

/-! ## Outside frames (R347, R361, R368) -/

/-- HSEL_N falls: the high period that CLK_NO_SEL watches is over. -/
def State.selFall (s : State) : State := { s with pins := { s.pins with noSel := false } }

/-- The mode in force becomes CFG.MODE (R347). -/
def State.takeMode (s : State) : State := s.putB pHPT HPT.STATUS_DDR (s.bit pHPT HPT.CFG_MODE)

/-- SDR_RESET_PULSE: MODE returns to 0 (R347). -/
def effSdrResetPulse (s : State) : State :=
  if s.bit pHPT HPT.STATUS_MASTERING then effMasterCollision s.selFall
  else (s.selFall.putB pHPT HPT.CFG_MODE false).takeMode

/-- RUNT: a frame shorter than its header, or a DDR frame that begins with HCLK high; a Board that saw another's number logs
nothing (R361). -/
def effRunt (ddr otherBoard : Bool) (bytes : Nat) (s : State) : State :=
  if s.bit pHPT HPT.STATUS_MASTERING then effMasterCollision s.selFall
  else
    let s := s.selFall
    if ddr && !s.bit pHPT HPT.STATUS_DDR then s
    else if otherBoard && !ddr then s else (s.violate 9 0 0 0 0 bytes).setResult 9

/-- CLK_NO_SEL: HCLK toggles with HSEL_N and HMSEL_N high, logged once per high period of HSEL_N (R361). -/
def effClkNoSel (s : State) : State :=
  if s.pins.noSel || s.bit pHPT HPT.STATUS_MASTERING then s
  else
    let s : State := { s with pins := { s.pins with noSel := true } }
    (s.violate 0xB 0 0 0 0 0).setResult 0xB

/-- DECODER_MISMATCH: FAULT.DEC, the rest of the frame is discarded (R368). -/
def effDecoderMismatch (s : State) : State :=
  (s.setFault pHPT 1 0x0D { cls := 2, action := 1, interrupt := 1 }).setResult 0xD

/-! ## Frames of this Board (R350, R353, R354) -/

/-- A frame names this Board: by its number, which while it is 62 counts only with ENUMI high as HSEL_N fell, or by 63 (R74, R350). -/
def State.ownFrame (s : State) (board : Nat) (enumi : Bool) : Bool :=
  (board % 64 == s.boardNum && (s.boardNum != 62 || enumi)) || board % 64 == 63

/-- DEV.READY.READY, the fault manager's uncleared faults, the request of R33 and the latest READ's poison as the status byte
shows them (R353). -/
def State.statusByte (s : State) : Nat :=
  128 * b2n s.memUp + 64 * b2n s.irq + 32 * b2n (s.get pFLT ⟨7, 15, 1⟩ != 0) + 16 * b2n s.hpt.psn +
    s.hpt.result % 16

/-- The status byte goes out, unless the frame is a broadcast (R350, R351). -/
def State.answer (s : State) (board : Nat) (l : List Nat) : State :=
  let l := s.statusByte :: l
  s.withHpt fun h => { h with out := if board % 64 = 63 then [] else l }

/-- The record of a frame that is this Board's own (R354, R370). -/
def State.frameRecord (s : State) (op board page off result first psn : Nat) : State :=
  let s := s.incMod pHPT HPT.COUNT_FRAMES
  let s := (s.put pHPT HPT.LAST_FRAME_RESULT result).put pHPT HPT.LAST_FRAME_OPCODE op
  let s := ((s.put pHPT HPT.LAST_FRAME_BOARD board).put pHPT HPT.LAST_FRAME_PAGE page).put pHPT HPT.LAST_FRAME_OFFSET off
  ((s.put pHPT HPT.LAST_FRAME_FIRST_ZERO first).put pHPT HPT.LAST_FRAME_PSN_INDEX psn).setResult result

/-- A frame that is this Board's own runs, and its end is a wake source below HOLD; one that meets a unit in progress is ignored
(R350, R366, R391). -/
def State.frame (s : State) (board : Nat) (enumi : Bool) (f : State → State) : State :=
  if s.bit pHPT HPT.STATUS_MASTERING then effMasterCollision s.selFall
  else
    let s := s.selFall
    if s.ownFrame board enumi then
      let s := f s
      s.when (decide (2 ≤ s.mode) || s.bit pDEV DEV.STATUS_ENTERING) fun s => s.sched 0 (.wakeSource 4)
    else s

/-- STATUS: the frame returns the status byte (R367). -/
def effStatus (board : Nat) (enumi : Bool) (s : State) : State :=
  s.frame board enumi fun s => (s.answer board []).frameRecord 2 board 0 0 0 63 63

/-- RESIGN_FRAME: CONTROL 0xA5 0x5A requests Resign (R367, R417). -/
def effResignFrame (board : Nat) (enumi : Bool) (s : State) : State :=
  s.frame board enumi fun s => ((s.answer board []).frameRecord 2 board 0xA5 0x5A 0 63 63).requestResign 2

/-- BAD_OPCODE: OP 0b11, or a CONTROL frame with an unknown function or argument (R349, R354, R367). -/
def effBadOpcode (board op page off bytes : Nat) (enumi : Bool) (s : State) : State :=
  s.frame board enumi fun s =>
    let known := (page == 0 && off == 0) || (page == 0xA5 && off == 0x5A)
    if op = 3 ∨ (op = 2 ∧ known = false) then
      ((s.answer board []).violate 7 op board page off bytes).frameRecord op board page off 7 63 63
    else s

end Sys2Proof.Machine
end

