-- ==== Sys2Proof/Machine/Power.lean ====
section
/-! DEFINITION. Modes, waking, the PMBus sequences, clocks, resets, temperature and the GPIO balls (R288, R389–R405). -/

namespace Sys2Proof.Machine

open Sys2Proof

/-! ## CORE going off and coming up (R390, R392, R393) -/

/-- What AON keeps on its agenda and for itself while CORE is off: its own timed happenings (R22, R62, R235). -/
def aonInstr : Instr → Bool
  | .alarmFire _ _ => true
  | .syncOutPulse => true
  | .syncOutPulseEnd => true
  | .edgeWindowClose => true
  | .cycleBoundary => true
  | .virtualCycleEnd => true
  | .railAttemptTimeout _ => true
  | .safeRequestDone => true
  | .wakeSource _ => true
  | .wakeComplete => true
  | .entryDone => true
  | .sweepStart => true
  | .sweepEnd => true
  | .resignRampEnd => true
  | .faultManagerMismatch => true
  | .supplyMonitorFault _ => true
  | .cclkStop => true
  | _ => false

/-- A comparator that lies in AON (R56, R63). -/
def aonCmp : CmpUser → Bool
  | .alarm _ => true
  | .syncOut => true
  | .window => true
  | _ => false

/-- Timed steps that AON takes. -/
def aonTm : Tm → Bool
  | .resignHigh => true
  | .supplyBack _ => true
  | .softDone _ => true
  | .kbzStop => true
  | .xrstHigh => true
  | _ => false

/-- A register whose value survives CORE being off: the AON pages, the Kibitz baselines and captures of the KBZ page (R235),
SCO.LOST, and the tune banks while rail 1 stays on (R393). -/
def keptReg (tunes : Bool) (k : Nat) : Bool :=
  let p := k / 256
  let o := k % 256
  aonPage p || (p == pKBZ && (decide (0x15 ≤ o ∧ o ≤ 0x1C) || decide (0x28 ≤ o ∧ o ≤ 0x2C) || decide (0x40 ≤ o))) ||
    k == pSCO * 256 + SCO.LOST_COUNT.off || (tunes && decide (0x40 ≤ p ∧ p < 0x58) && decide ((FIL.TUNE_CAP 0).off ≤ o ∧ o ≤ (FIL.TUNE_CAP 7).off))

/-- The tune registers as AON copies them (R393). -/
def State.tuneCopy (s : State) : List (Nat × Word) :=
  s.regs.filter fun e => decide (0x40 ≤ e.1 / 256 ∧ e.1 / 256 < 0x58) &&
    decide ((FIL.TUNE_CAP 0).off ≤ e.1 % 256 ∧ e.1 % 256 ≤ (FIL.TUNE_CAP 7).off)

/-- CORE loses power: its registers return to their reset values, its work is gone, queued records are counted as lost
(R311, R393). -/
def State.coreOff (s : State) : State :=
  let s := s.incBy pSCO SCO.LOST_COUNT s.scoQueue.length
  let keep := s.bitOf pPWR PWR.STATUS_RAIL 1
  let s : State := { s with
    regs := s.regs.filter fun e => keptReg keep e.1
    regPsn := s.regPsn.filter fun k => keptReg keep k
    crcHeld := s.crcHeld.filter fun e => aonPage e.1
    agenda := s.agenda.filter fun e => aonInstr e.2
    cmps := s.cmps.filter fun c => aonCmp c.user
    timers := s.timers.filter fun t => aonTm t.2
    deliveries := [], scoQueue := [], ctxs := State.reset.ctxs, txc := State.reset.txc, wingEnds := [],
    rxc := State.reset.rxc, xmp := { Xmp.reset with xrst := s.xmp.xrst }, engs := State.reset.engs, inv := Inv.reset, rates := [], lockMism := [],
    slot := State.reset.slot, fires := [], trig := [], cal := Cal.reset, sco := Sco.reset, scb := State.reset.scb,
    cku := State.reset.cku, edge := (0, []), mirror := [], poisonEdge := 0, codecInj := false, memPhase := 0,
    mch := { Mch.reset with roleSet := s.mch.roleSet, head := s.mch.head } }
  let s : State := { s with
    pins := { s.pins with watchInj := none, xmpInj := false }, kbz := { s.kbz with stopping := false, capWas := [] } }
  let s := (s.putB pHPT HPT.STATUS_MASTERING false).withHpt fun h => { h with unit := 0 }
  let s := s.withPwr fun p => { p with core := false, cclk := false, restore := false, unlocked := false }
  s.angTicks

/-- The synthesiser starts to lock, where the reference, rail 1 and CLK.CTRL.ENABLE allow it: within 40 µs (R398). -/
def State.synStart (s : State) : State :=
  if s.coreUp && s.pwr.refOk && s.enabled pCLK && s.get pCLK CLK.STATUS_SRC != 0 && s.bitOf pPWR PWR.STATUS_RAIL 1 &&
      !s.bit pCLK CLK.STATUS_SYN_LOCK then
    (s.putB pCLK CLK.STATUS_BUSY true).resched 8679 .synLock
  else s

/-- The reference that CCLK runs from: the crystal at the head, MCLKI at a follower (R398). -/
def State.refSrc (s : State) : Nat := if s.mch.roleSet && !s.isHead then 2 else 1

/-- The tune latches and FIL pages are reloaded from the copy of AON (R393); a value written on this edge holds (R405). -/
def State.reloadTunes (s : State) : State :=
  let s := s.forEach (s.pwr.tunes.filter fun e => !s.touched.writes.any fun w => w.1 == e.1) fun s e => s.setReg (e.1 / 256) (e.1 % 256) e.2
  s.withPwr fun p => { p with tunes := [] }

/-- The reference's time begins: rail 1 is acknowledged and CORE runs (R393, R399). -/
def State.anaUp (s : State) : State :=
  if s.coreUp && s.bitOf pPWR PWR.STATUS_RAIL 1 then
    let s := s.reloadTunes
    let s := if s.pwr.refOk || s.pwr.fell then s else s.resched (orDefault 1 (s.get pCLK CLK.CFG_XTAL_TIMEOUT) * ms) .xtalTimeout
    s.synStart
  else s

/-- CORE comes out of reset on rail 0's acknowledgement (R392): CCLK runs, MEM tests or zeroes its banks, the
configuration watch restarts at page 0 (R413). -/
def State.coreOn (s : State) : State :=
  let s : State := { s with
    regs := s.regs.filter fun e => keptReg (s.bitOf pPWR PWR.STATUS_RAIL 1) e.1
    agenda := s.agenda.filter fun e => e.2 ≠ .sweepStart ∧ e.2 ≠ .sweepEnd }
  let s := s.withPwr fun p => { p with core := true, cclk := true }
  let s := s.put pCLK CLK.STATUS_SRC (if s.pwr.refOk then s.refSrc else 0)
  let s : State := { s with memPhase := if s.pwr.fromReset then 1 else 2 }
  let s := if s.pwr.fromReset then s.putB pMEM MEM.STATUS_BIST true
    else (s.putB pMEM MEM.STATUS_INIT true).resched 65536 .bankZeroing
  let s := s.put pFLT FLT.WATCH_PAGE 0
  (s.resched 2048 (.configWatchVisit 0 0)).anaUp

/-! ## Readiness (R403) -/

/-- READY.RF: the synthesiser and at least one PA rail that is not absent. -/
def State.rfReady (s : State) : Bool :=
  s.coreUp && s.synLocked && [2, 3].any fun r => s.railCtl r != 2 && s.bitOf pPWR PWR.STATUS_RAIL r

/-- What DEV.READY shows (R403, R406). -/
def State.devReadyWord (s : State) : Nat :=
  b2n s.memUp + 2 + 4 * b2n (s.bitOf pPWR PWR.STATUS_RAIL 1) + 8 * b2n (s.bitOf pPWR PWR.STATUS_RAIL 0) + 16 * b2n s.pwr.refOk +
    32 * b2n s.coreUp + 64 * b2n s.memUp + 128 * b2n s.rfReady

/-! ## Waking (R391, R392) -/

/-- A rail that a wake brings up: an on or fixed one needs nothing more, an absent one is left out. -/
def State.wakeRail (s : State) (r : Nat) : State :=
  if s.bitOf pPWR PWR.STATUS_RAIL r || s.railCtl r == 2 then s
  else if s.railCtl r = 1 then s.acknowledge r
  else s.railUp r (s.railSet r) 1

/-- The rails after CORE: rail 1, and rails 2 and 3 to their floors unless the Board has resigned (R392, R417). -/
def State.wakeRails (s : State) : State :=
  let s := s.wakeRail 1
  let s := if s.resigned then s else (s.wakeRail 2).wakeRail 3
  if s.railCtl 1 = 1 then s.anaUp else s

/-- A wake begins with a cause (R391): from HOLD CCLK is ungated within 64 CCLK, otherwise rail 0 comes first (R392). -/
def State.beginWake (s : State) (cause : Nat) : State :=
  let s := ((s.putB pDEV DEV.STATUS_WAKING true).putB pDEV DEV.STATUS_BUSY true).withPwr fun p => { p with cause := cause }
  if s.mode = 1 then s.resched 64 .wakeComplete
  else
    let s := s.wakeRail 0
    if s.bitOf pPWR PWR.STATUS_RAIL 0 then s.coreOn.wakeRails else s

/-! ## Entry (R390) -/

/-- An entry sequence begins: the MODE record is queued, contexts are halted on the next edge; with CORE off already only the
rails remain. -/
def State.beginEntry (s : State) (cause target : Nat) : State :=
  let s := ((s.putB pDEV DEV.STATUS_ENTERING true).putB pDEV DEV.STATUS_BUSY true)
  let s := s.scoRecord 5 s.seqNext [s.mode, target, cause]
  let s := s.withPwr fun p => { p with target := target, back := false, phase := if s.pwr.core then 0 else 4 }
  if s.pwr.core then { s with timers := s.timers ++ [(s.now + 1, .entryHalt)] } else s.resched 1 .entryDone

/-- Step 2 of an entry: contexts halted with reason HALT, the inventory pass ended, the sweep stopped at its port boundary,
captures STOPPED; fields go off (R390). -/
def State.entryHalt (s : State) : State :=
  if s.bit pDEV DEV.STATUS_ENTERING && s.pwr.phase == 0 then
    let s := s.forEach (List.range 12) fun s c => if listCtx c then s.haltCtx c 2 else s
    let s := s.invAbandon stDISABLED true
    let s := s.when (s.bit pKBZ KBZ.STATUS_SWEEPING) State.endSweep
    let s := s.forEach (List.range 17) fun s n => if s.capState n = 1 ∨ s.capState n = 2 then (s.capUnseen n).capStop n else s
    let s := s.forEach (List.range 9) fun s n => s.endField n stABORTED
    s.withPwr fun p => { p with phase := 1 }
  else s

/-- The waits of an entry: fields off; external memory quiet, its queue discarded for DOZE and below; the Scoresheet
drained for at most DRAIN_MS (R390, R311). -/
def State.entrySettle (s : State) : State :=
  if s.pwr.phase = 1 ∧ s.quiet = true then
    (s.when (decide (s.pwr.target ≠ 1)) State.xmpDiscard).withPwr fun p => { p with phase := 2 }
  else if s.pwr.phase = 2 ∧ s.xmp.running.isEmpty = true then
    if s.pwr.target = 1 then (s.withPwr fun p => { p with phase := 4 }).resched 1 .entryDone
    else
      let d := s.get pSCO SCO.CFG_DRAIN_MS * ms
      (s.withPwr fun p => { p with phase := 3, drainAt := s.now + d }).resched (d + 1) .entryDone
  else if s.pwr.phase = 3 ∧ s.scoQueue.isEmpty = true then
    (s.withPwr fun p => { p with phase := 4 }).resched 1 .entryDone
  else s

/-- A request for a mode (R390): codes 5–7 are ignored, one during a sequence is held, HOLD from a mode with CORE off is reached
through RUN. -/
def State.modeRequest (s : State) (cause mode : Nat) : State :=
  if 5 ≤ mode then (s.flag pPWR PWR.FLAG_REQ_IGNORED).recordErr pPWR 5
  else if s.bit pDEV DEV.STATUS_BUSY then s.withPwr fun p => { p with held := some (cause, mode) }
  else if mode = s.mode then s
  else if mode = 0 then s.beginWake cause
  else if mode = 1 ∧ s.pwr.core = false then (s.beginWake cause).withPwr fun p => { p with held := some (cause, 1) }
  else s.beginEntry cause mode

/-- MODE_REQ: a write of PWR.MODE_REQ by the host (cause 1) or a move (cause 2) (R390). -/
def effModeReq (src : Src) (mode : Nat) (s : State) : State :=
  s.modeRequest (if src = .host then 1 else 2) (mode % 8)

/-- The request held during a sequence acts at its end (R390). -/
def State.actHeld (s : State) : State :=
  match s.pwr.held with
  | none => s
  | some r => (s.withPwr fun p => { p with held := none }).modeRequest r.1 r.2

/-- The MODE record of a wake, which AON holds until the Scoresheet is mounted; one that another takes the place of is counted as lost
(R311, R392). -/
def State.holdModeRec (s : State) (l : List Nat) : State :=
  (s.when s.pwr.modeRec.isSome State.scoLose).withPwr fun p => { p with modeRec := some l }

/-- WAKE_EN.START: CND0 and the page of START_CTX are enabled and the context starts at WAKE_ENTRY at hop 0 (R392). -/
def State.wakeStart (s : State) : State :=
  let c := s.get pPWR PWR.WAKE_EN_START_CTX
  if s.bit pPWR PWR.WAKE_EN_START && listCtx c then
    let s := (s.putB pCND0 COM.ENABLE true).putB (pCND c) COM.ENABLE true
    if s.run c = 0 then s.startAt c 0 (s.get pPWR PWR.WAKE_ENTRY_ADDR) else s.refuseStart c
  else s

/-- The Board is in RUN again: MODE, FLAG.WAKE, CAUSE, the MODE record, the wake context, and then a held request (R390, R392,
R405). -/
def State.backInRun (s : State) : State :=
  let from_ := s.mode
  let c := s.pwr.cause
  let s := ((s.put pDEV DEV.STATUS_MODE 0).putB pDEV DEV.STATUS_WAKING false).putB pDEV DEV.STATUS_BUSY false
  let s := (s.putB pDEV DEV.STATUS_WAKE_FAIL false).flag pPWR PWR.FLAG_WAKE
  let s := (s.put pDEV DEV.CAUSE_WAKE c).when (decide (c < 8)) fun s => s.put pDEV DEV.CAUSE_FROM from_
  let s := s.withPwr fun p => { p with fromReset := false, cause := 0, back := false }
  let s := s.when (from_ == 1 && s.enabled pSCB) fun s => s.resched 1 .scrubLine
  ((s.holdModeRec [from_, 0, c]).wakeStart).actHeld

/-- WAKE_COMPLETE: DEV.READY.READY is 1, or CCLK is ungated (R392). -/
def effWakeComplete (s : State) : State :=
  if s.bit pDEV DEV.STATUS_WAKING && s.memUp then s.backInRun else s

/-- A GPIO that WAKE_GPIO names stands at its wake level (R391). -/
def State.gpioWakes (s : State) : Bool :=
  s.bit pPWR PWR.WAKE_EN_GPIO &&
    (List.range 16).any fun n => s.bitOf pPWR PWR.WAKE_GPIO_EN n && s.pins.gpio.testBit n == s.bitOf pPWR PWR.WAKE_GPIO_LEVEL n

/-- A wake source with its enables, in a mode it wakes from (R391): 3 Kibitz, 4 host, 5 Match, 6 alarm, 7 GPIO; whether an
alarm's or Kibitz's own enable is set is tested where it arises. -/
def State.sourceOk (s : State) (mode cause : Nat) : Bool :=
  match cause with
  | 3 => mode == 2 && s.bit pPWR PWR.WAKE_EN_KIBITZ && s.kget pKBZ KBZ.CFG_WAKE != 0
  | 4 => decide (2 ≤ mode) && s.bit pPWR PWR.WAKE_EN_HOST
  | 5 => s.bit pPWR PWR.WAKE_EN_MATCH
  | 6 => s.bit pPWR PWR.WAKE_EN_ALARM && (List.range 8).any fun n => s.bit pANG (ANG.ALARM_CTRL_WAKE n)
  | 7 => s.gpioWakes
  | _ => false

/-- WAKE_SOURCE: the wake starts; during an entry, the Board returns to RUN after its step 5 (R391, R405). -/
def effWakeSource (cause : Nat) (s : State) : State :=
  if s.bit pDEV DEV.STATUS_ENTERING then
    if s.sourceOk s.pwr.target cause && !s.pwr.back then s.withPwr fun p => { p with back := true, cause := cause } else s
  else if s.mode != 0 && !s.bit pDEV DEV.STATUS_WAKING && s.sourceOk s.mode cause then s.beginWake cause
  else s

/-- Steps 6 and 7 of an entry below HOLD: AON takes its captures, CORE is isolated, rails 3, 2, 0 and, for SLEEP and OFF, rail 1 go
off (R232, R390, R393). -/
def State.lowPower (s : State) (target : Nat) : State :=
  let sweeps := s.pwr.core && s.enabled pKBZ
  let xtal := target = 2 ∨ s.bit pPWR PWR.LP_CFG_XTAL_KEEP = true ∨ s.railCtl 1 ≠ 0
  let s := if s.pwr.core then
      let s := s.kbzKeep.withPwr fun p => { p with tunes := s.tuneCopy }
      let s := s.when (decide ¬xtal) fun s => s.putBit pPWR PWR.STATUS_RAIL 1 false
      s.coreOff
    else s
  let s := s.put pDEV DEV.STATUS_MODE target
  let s := s.forEach [3, 2, 0] fun s r => if s.railState r = 0 then s else s.railOff r
  let s := if xtal then s else
    (if s.railState 1 = 0 then s else s.railOff 1).withPwr fun p => { p with refOk := p.refOk && s.mch.roleSet && !s.isHead }
  s.when (sweeps && decide (target = 2)) fun s => s.resched (orDefault 1 (s.kget pKBZ KBZ.SWEEP_PERIOD) * ms) .sweepStart

/-- ENTRY_DONE: the waits are over (R390). -/
def effEntryDone (s : State) : State :=
  if s.bit pDEV DEV.STATUS_ENTERING && decide (3 ≤ s.pwr.phase) then
    let t := s.pwr.target
    let back := s.pwr.back
    let s := (s.unsched .entryDone).withPwr fun p => { p with phase := 0, target := 0 }
    if back then (s.putB pDEV DEV.STATUS_ENTERING false).backInRun
    else
      let s := if t = 1 then s.put pDEV DEV.STATUS_MODE 1 else s.lowPower t
      let s := (s.putB pDEV DEV.STATUS_ENTERING false).putB pDEV DEV.STATUS_BUSY false
      (s.when s.gpioWakes fun s => s.sched 0 (.wakeSource 7)).actHeld
  else s

/-! ## PMBus (R394–R397) -/

/-- A rail is acknowledged: what waited for it goes on (R103, R392). -/
def State.railAcked (s : State) (r : Nat) : State :=
  let s := s.acknowledge r
  if r = 0 then (if s.pwr.core || !s.bit pDEV DEV.STATUS_WAKING then s else s.coreOn.wakeRails)
  else if r = 1 then s.anaUp
  else if s.coreUp then s.wakeChains else s

/-- RAIL_ACK: the power-good ball of a rail stands high after SETTLE (R388, R395). -/
def effRailAck (r : Nat) (s : State) : State :=
  if r < 4 ∧ ((s.railCtl r = 0 ∧ s.bit pPWR (PWR.RAIL_CFG_ACK r) = false ∧ s.railState r = 2) ∨
      (s.railCtl r = 1 ∧ s.bitOf pPWR PWR.STATUS_RAIL r = false)) then s.railAcked r
  else s

/-- A wake or start-up stops because a rail failed: every rail it turned on goes off and the Board stays in SLEEP (R396). -/
def State.wakeFail (s : State) : State :=
  let s := s.when s.pwr.core State.coreOff
  let s := (s.unsched .wakeComplete).put pDEV DEV.STATUS_MODE 3
  let s := ((s.putB pDEV DEV.STATUS_WAKING false).putB pDEV DEV.STATUS_BUSY false).putB pDEV DEV.STATUS_WAKE_FAIL true
  let s := (s.flag pPWR PWR.FLAG_WAKE_FAIL).withPwr fun p => { p with cause := 0 }
  (s.forEach [3, 2, 1, 0] fun s r => if s.railState r = 0 ∨ s.railState r = 4 then s else s.railOff r).actHeld

/-- All attempts of a rail have failed (R395, R396). -/
def State.railFailed (s : State) (r : Nat) : State :=
  let s := s.put pPWR (PWR.RAIL_STAT_STATE r) 4
  let s := s.setFault pPWR (1 + r) 2 { cls := 8 }
  if s.bit pDEV DEV.STATUS_WAKING then s.wakeFail
  else if s.coreUp then s.wakeChains else s

/-- After a failed attempt's OPERATION 0x00: a further attempt, or the rail FAILED (R395). -/
def State.railRetry (s : State) (j : Job) : State :=
  let n := (s.rail j.rail).tries
  let s := s.popJob
  if n ≤ s.get pPWR (PWR.RAIL_CFG_RETRIES j.rail) then
    let s := s.withRail j.rail fun x => { x with tries := n + 1 }
    let s := (s.put pPWR (PWR.RAIL_STAT_TRIES j.rail) (Nat.min 7 (n + 1))).put pPWR (PWR.RAIL_STAT_STATE j.rail) 1
    s.addJob { rail := j.rail, op := 0, prio := j.prio, todo := [0x03, 0x21, 0x01], reps := 0 }
  else s.railFailed j.rail

/-- Every transaction of the request in service has been sent. -/
def State.jobSent (s : State) (j : Job) : State :=
  let r := j.rail
  if j.op = 5 then s.railRetry j
  else if j.op = 2 then (s.put pPWR (PWR.RAIL_STAT_STATE r) 0).popJob
  else if j.op = 4 then
    let s := (s.put pPWR (PWR.RAIL_STAT_STATE r) 0).withRail r fun x => { x with req := 0 }
    let s := (s.railDown r 0).popJob
    if s.pwr.jobs.any (fun k => k.op == 4) then s else s.resched 0 .safeRequestDone
  else if j.op = 3 then s.popJob.acknowledge r
  else
    let s := s.put pPWR (PWR.RAIL_STAT_STATE r) 2
    if s.bit pPWR (PWR.RAIL_CFG_ACK r) then
      s.withPwr fun p => { p with jobs := { j with todo := [0x79, 0x8B], reps := 0 } :: p.jobs.drop 1 }
    else s.popJob

/-- A completed transaction of the request in service: what it reads is taken, the next command follows (R394, R395). -/
def State.pmbDone (s : State) (j : Job) (cmd value : Nat) : State :=
  let r := j.rail
  let polls := j.op ≠ 5 ∧ s.railState r = 2
  if cmd = 0x20 ∧ bits value 7 5 ≠ 0 then (s.recordErr pPWR 6).failAttempt r
  else
    let s := if cmd = 0x20 then s.withRail r fun x => { x with expo := value % 32 }
      else if cmd = 0x79 ∧ polls then s.withRail r fun x => { x with sw := value % 65536 }
      else if cmd = 0x79 then s.put pPWR (PWR.RAIL_STAT_STATUS_WORD r) value
      else if cmd = 0x8B then s.put pPWR (PWR.RAIL_STAT_VOUT r) (Nat.min 65535 (voutRead value (s.rail r).expo)) else s
    if cmd = 0x8B then
      if statusGood (s.rail r).sw && s.voutGood r then s.popJob.railAcked r
      else s.withPwr fun p => { p with jobs := { j with todo := [0x79, 0x8B], reps := 0 } :: p.jobs.drop 1 }
    else
      let j' := { j with todo := j.todo.drop 1, reps := 0 }
      let s := s.withPwr fun p => { p with jobs := j' :: p.jobs.drop 1 }
      if j'.todo.isEmpty then s.jobSent j' else s

/-- PMBUS_TRANSACTION: the command on the bus completes, or fails and is repeated (R394). -/
def effPmbusTransaction (rail cmd : Nat) (o : PmbOutcome) (s : State) : State :=
  match s.pwr.jobs with
  | j :: _ =>
    if j.rail = rail ∧ j.todo.head? = some cmd then
      let s := s.withPwr fun p => { p with wire := s.pmbBytes j cmd }
      match o with
      | .ok v => s.pmbDone j cmd v
      | .nack => s.pmbFail j PWR.PMB_COUNT_NACK
      | .pec => if s.bit pPWR PWR.PMB_PEC_EN then s.pmbFail j PWR.PMB_COUNT_PEC_ERR else s
    else s
  | [] => s

/-- POWER_GOOD_LOST: the ball of an acknowledged rail falls (R396). -/
def effPowerGoodLost (r : Nat) (s : State) : State :=
  if decide (r < 4) && s.bitOf pPWR PWR.STATUS_RAIL r then (s.railDown r 2).setFault pPWR (1 + r) 3 { cls := 8 } else s

/-- SAFE_REQUEST_DONE: rails 3 and 2 are off (R397, R418). -/
def effSafeRequestDone (s : State) : State :=
  if s.resigned && s.bit pFLT FLT.RESIGN_RF_OFF && !s.pwr.jobs.any (fun j => j.op == 4) then
    (s.putB pFLT FLT.RESIGN_SAFE_DONE true).putB pFLT COM.BUSY false
  else s

/-! ## Clocks (R398–R400) -/

/-- CCLK goes over to the reference on the first edge with every FIELD OFF, where AUTO_RESTORE, a RESTORE or the first passing check
allows it (R398, R400). -/
def State.refSwitch (s : State) : State :=
  if s.coreUp && s.pwr.refOk && s.get pCLK CLK.STATUS_SRC == 0 && ((List.range 9).all fun n => s.fieldSt n == 0) &&
      (!s.pwr.fell || s.pwr.restore || s.bit pCLK CLK.CFG_AUTO_RESTORE) then
    let s := s.put pCLK CLK.STATUS_SRC s.refSrc
    let s := s.when s.pwr.fell fun s => s.flag pCLK CLK.FLAG_REF_BACK
    (s.withPwr fun p => { p with fell := false, restore := false }).synStart
  else s

/-- The synthesiser of a disabled CLK page stops on the edge after the last ramp-down ends (R398). -/
def State.synStop (s : State) : State :=
  if s.coreUp && !s.enabled pCLK && ((List.range 9).all fun n => s.fieldSt n == 0) then
    ((s.putB pCLK CLK.STATUS_SYN_LOCK false).putB pCLK CLK.STATUS_BUSY false).unsched .synLock
  else s

/-- REFERENCE_CHECK_PASSED (R398). -/
def effReferenceCheckPassed (s : State) : State :=
  ((s.unsched .xtalTimeout).withPwr fun p => { p with refOk := true }).refSwitch

/-- SYN_LOCK: the synthesiser has locked (R398). -/
def effSynLock (s : State) : State :=
  if s.coreUp && s.pwr.refOk && s.enabled pCLK && s.get pCLK CLK.STATUS_SRC != 0 && s.bitOf pPWR PWR.STATUS_RAIL 1 then
    let s := ((s.unsched .synLock).putB pCLK CLK.STATUS_SYN_LOCK true).putB pCLK CLK.STATUS_BUSY false
    (s.withPwr fun p => { p with unlocked := false }).wakeChains
  else s

/-- XTAL_TIMEOUT: CORE goes on from the RC oscillator (R399). -/
def effXtalTimeout (s : State) : State :=
  if s.coreUp && !s.pwr.refOk && !s.pwr.fell then
    let s := (s.unsched .xtalTimeout).withPwr fun p => { p with fell := true }
    ((s.flag pCLK CLK.FLAG_FALLBACK).recordErr pCLK 1).wakeChains
  else s

/-- Output stages stop without a ramp, frames in flight take the FAULTED mark (R400). -/
def State.stopStages (s : State) : State :=
  let s := (s.putB pCLK CLK.STATUS_SYN_LOCK false).putB pCLK CLK.STATUS_BUSY false
  let s := (s.unsched .synLock).allStop stFAULTED
  s.forEach (List.range 8) fun s w => if (s.wingEnds.any fun e => e.wing == w) then s else s.wingEnd w stFAULTED

/-- The reference is lost: CCLK on the RC path, output stages off, FAULT.REF_LOSS; at a follower R87 as well (R400). -/
def State.refLost (s : State) : State :=
  let s := s.withPwr fun p => { p with refOk := false, fell := p.fell || p.core }
  if s.coreUp then
    let s := (s.put pCLK CLK.STATUS_SRC 0).stopStages
    let s := (s.flag pCLK CLK.FLAG_REF_LOST).inc pCLK CLK.MEAS_LOSSES
    effChainAngleLost true (s.setFault pCLK 1 2 { cls := 7 })
  else s

/-- REFERENCE_LOSS: two windows in a row outside 24–30 edges (R400). -/
def effReferenceLoss (s : State) : State := if s.pwr.refOk then s.refLost else s

/-- CLK_RESTORE: a write of CMD.RESTORE, refused while the reference fails its check (R400). -/
def effClkRestore (s : State) : State :=
  if s.coreRuns then
    if !s.pwr.refOk then s.recordErr pCLK 4
    else if s.get pCLK CLK.STATUS_SRC = 0 then (s.withPwr fun p => { p with restore := true }).refSwitch
    else s
  else s

/-- SYN_UNLOCK: the synthesiser loses lock while the reference holds (R400). -/
def effSynUnlock (s : State) : State :=
  if s.coreUp && s.synLocked then
    ((s.stopStages.flag pCLK CLK.FLAG_SYN_UNLOCK).withPwr fun p => { p with unlocked := true }).setFault pCLK 2 3 { cls := 7 }
  else s

/-- A write of 0 to CLK.CTRL.ENABLE: every field ramps down and its move ends DISABLED; field-ons that wait end LATE at their limit,
auto-tunes begun by a register write at once (R97, R398). -/
def State.clkOff (s : State) : State :=
  (((s.putB pCLK COM.ENABLE false).litDown stDISABLED).wakeChains).synStop

/-- CLK_DISABLE (R398). -/
def effClkDisable (s : State) : State := if s.coreRuns && s.enabled pCLK then s.clkOff else s

/-! ## Resets (R401) -/

/-- What survives RESET_N and CHIP_RESET: DEV.CAUSE, DEV.UPTIME, KEEP0–KEEP7 and the counts since power-on (R401, R416,
R428). -/
def resetKeeps (k : Nat) : Bool :=
  k == pDEV * 256 + 0x11 || k == pDEV * 256 + 0x12 || k == pFLT * 256 + 0x17 ||
    (k / 256 == pFLT && decide (0x18 ≤ k % 256 ∧ k % 256 < 0x30))

/-- RESIGN_N low at the release of a reset resigns the Board at once (R417). -/
def State.resetRelease (s : State) : State := s.when s.pins.resignLow fun s => s.requestResign 1

/-- A reset by RESET_N or CHIP_RESET: the start-up of R392 begins as from OFF (R401). -/
def State.deviceReset (s : State) (cause : Nat) : State :=
  let from_ := s.mode
  let count := s.get pFLT FLT.RESIGN_COUNT
  let regs := (State.reset.regs ++ s.regs.filter fun e => resetKeeps e.1)
  let t : State := { State.reset with
    pending := s.pending, now := s.now, free := s.free, regs := regs
    agenda := State.reset.agenda.map fun e => (s.now + e.1, e.2)
    flt := { State.reset.flt with keptWrites := s.flt.keptWrites }
    pwr := { Pwr.reset with cause := cause }
    scb := { State.reset.scb with passAt := s.now, lineAt := s.now }
    timers := s.timers.filter fun t => t.2 == .resignHigh
    pins := { Pins.reset with gpio := s.pins.gpio, resignLow := s.pins.resignLow, tap := s.pins.tap } }
  let t : State := { t with regs := canonRegs t.regs }
  let t := (t.put pDEV DEV.CAUSE_FROM from_).put pDEV DEV.CAUSE_RESET cause
  (t.put pFLT FLT.RESIGN_COUNT count).resetRelease
where
  /-- The register file in its canonical order. -/
  canonRegs (l : List (Nat × Word)) : List (Nat × Word) :=
    l.foldl (fun m e => AMap.set regDefault m e.1 e.2) []

/-- POWER_ON_RESET: everything, AON included; the count of milliseconds restarts (R401). -/
def effPowerOnReset (s : State) : State :=
  let t : State := { State.reset with
    pending := s.pending, free := s.free
    timers := (s.timers.filter fun t => t.2 == .resignHigh).map fun t => (t.1 - s.now, t.2)
    pins := { Pins.reset with gpio := s.pins.gpio, resignLow := s.pins.resignLow, tap := s.pins.tap } }
  t.resetRelease

/-- RESET_N low for at least 1 µs (R401). -/
def effResetN (s : State) : State := s.deviceReset 8

/-- CHIP_RESET: a write of DEV.CMD.CHIP_RESET; 0xC3 resets as RESET_N does, other values than 0 record code 0x01 (R401). -/
def effChipReset (v : Nat) (s : State) : State :=
  if v % 256 = 0xC3 then s.deviceReset 0x0A
  else if v % 256 = 0 then s
  else s.recordErr pDEV 1

/-! ## Temperature (R404) -/

/-- THERMAL_READING: the junction sensor in 0.25 °C, while CORE is powered (R404, R412). -/
def effThermalReading (tj : Nat) (s : State) : State :=
  if s.coreUp then
    let s := s.calTemp (tj % 65536)
    let t := sext 16 tj
    let thr : Int := ((4 * s.get pPWR PWR.THERM_THROTTLE : Nat) : Int)
    let shut : Int := ((4 * s.get pPWR PWR.THERM_SHUT : Nat) : Int)
    let s := if thr ≤ t then
        (if s.bit pPWR PWR.STATUS_THROTTLE then s else (s.putB pPWR PWR.STATUS_THROTTLE true).flag pPWR PWR.FLAG_THROTTLE)
      else s.when (decide (t < thr - 20)) fun s => s.putB pPWR PWR.STATUS_THROTTLE false
    if shut ≤ t then
      if s.pwr.hot then s
      else
        let s := (s.withPwr fun p => { p with hot := true }).allDown stFAULTED
        (s.recordErr pPWR 7).reportFault pFLT 9 { cls := 9 }
    else s.when (decide (t < shut - 20)) fun s => s.withPwr fun p => { p with hot := false }
  else s

/-! ## GPIO (R288, R391) -/

/-- GPIO_EDGE: a GPIO ball changes its level; a selected edge presents producer 172 + n 2 CCLK later, and in a mode below RUN a
wake level that stands for 1 µs wakes the Board. -/
def effGpioEdge (n : Nat) (rising : Bool) (s : State) : State :=
  if n < 16 then
    let g := s.pins.gpio % 2 ^ n + (if rising then 2 ^ n else 0) + s.pins.gpio / 2 ^ (n + 1) * 2 ^ (n + 1)
    let s : State := { s with pins := { s.pins with gpio := g } }
    let e := s.get pARB ARB.GPIO_EV_EDGE / 4 ^ n % 4
    let s := s.when (s.coreRuns && (e == 3 || e == (if rising then 1 else 2))) fun s => s.sched 2 (.producerEvent (172 + n) 0)
    if (s.mode != 0 || s.bit pDEV DEV.STATUS_ENTERING) && s.gpioWakes then
      (if s.agenda.any (fun e => e.2 == .wakeSource 7) then s else s.sched 217 (.wakeSource 7))
    else s.unsched (.wakeSource 7)
  else s

/-! ## What follows every happening -/

/-- AON's MODE record goes to the Scoresheet once it is mounted (R392). -/
def State.giveModeRec (s : State) : State :=
  match s.pwr.modeRec with
  | none => s
  | some l =>
    if s.coreUp && s.bit pSCO SCO.STATUS_MOUNTED then
      (s.withPwr fun p => { p with modeRec := none }).scoRecord 5 s.seqNext l
    else s

/-- Entry waits, clocks and the held record, after each happening. -/
def State.pwrSettle (s : State) : State :=
  s.entrySettle.entrySettle.entrySettle.refSwitch.synStop.giveModeRec

end Sys2Proof.Machine
end

