-- ==== Sys2Proof/Machine/Fault.lean ====
section
/-! DEFINITION. The configuration watch, the AON monitors, the fault manager's own check, Resign and the TST page
(R412–R427), and the test access port (R450). -/

namespace Sys2Proof.Machine

open Sys2Proof

/-! ## The configuration checksum (R39, R413) -/

/-- The bytes of one covered register: its offset and its value with uncovered bits 0. -/
def State.crcBytes (s : State) (page off : Nat) (r : RegRow) : List Nat :=
  if r.crc = 0 then [] else off :: beBytes 5 ((s.reg page off &&& BitVec.ofNat 40 r.crc).toNat)

/-- CRC-32C of a page's covered fields (R39). -/
def State.cfgCrc (s : State) (page : Nat) : Nat :=
  crc32c (page :: ((List.range 256).map fun off =>
    match regRow page off with
    | some r => s.crcBytes page off r
    | none => []).flatten)

/-- The same over the copy that a reserve chain keeps of the page (R113, R149). -/
def State.mirrorCrc (s : State) (page : Nat) : Nat :=
  crc32c (page :: ((List.range 256).map fun off =>
    match regRow page off with
    | some r => if r.crc = 0 then [] else off :: beBytes 5 ((s.mirrorReg page off &&& BitVec.ofNat 40 r.crc).toNat)
    | none => []).flatten)

/-- What CFG_CRC.VALUE holds: the checksum as of the latest accepted write of a covered field. -/
def State.crcValue (s : State) (page : Nat) : Nat :=
  match AMap.find page s.crcHeld with
  | some v => v
  | none => s.cfgCrc page

/-- The covered bits of a register. -/
def crcMask (page off : Nat) : Word :=
  match regRow page off with
  | some r => BitVec.ofNat 40 r.crc
  | none => 0

/-- The page after `p` in the watch's round, and whether the round is complete (R413). -/
def nextPage (p : Nat) : Nat × Bool :=
  match pages.find? fun q => decide (p < q) with
  | some q => (q, false)
  | none => (0, true)

/-- The page whose copy lies at an offset from 256 on of the mirror that TXC8 or RXC16 keeps (R113, R149). -/
def mirrorOf (page off : Nat) : Option Nat :=
  let n := off / 256 - 1
  if off < 256 then none
  else if page = 0x18 ∧ n < 8 then some (pTXC n)
  else if page = 0x30 ∧ n < 16 then some (pRXC n)
  else none

/-- Covered bits of a register flip without a write: VALUE stays as it was, and so does the copy that a reserve chain keeps; at an offset
from 256 × (n + 1) on of TXC8's or RXC16's page it is the copy of chain n that flips. -/
def State.upset (s : State) (page off mask : Nat) : State :=
  match mirrorOf page off with
  | some p =>
    let m := BitVec.ofNat 40 mask &&& crcMask p (off % 256)
    let k := p * 256 + off % 256
    { s with mirror := AMap.set (fun _ => 0) s.mirror k (AMap.get (fun _ => 0) s.mirror k ^^^ m) }
  | none =>
    let m := BitVec.ofNat 40 mask &&& crcMask page off
    if m = 0 then s
    else
      let v := s.crcValue page
      let k := page * 256 + off
      let d := AMap.get (fun _ => 0) s.mirror k
      let s := s.setReg page off (s.reg page off ^^^ m)
      let s : State := { s with crcHeld := AMap.insert page v s.crcHeld }
      if mirrored page then { s with mirror := AMap.set (fun _ => 0) s.mirror k (d ^^^ m) } else s

/-- The copies that a reserve chain's page covers agree with what was written (R39, R113, R149). -/
def State.mirrorsGood (s : State) (page : Nat) : Bool :=
  let l := if page = 0x18 then (List.range 8).map pTXC else if page = 0x30 then (List.range 16).map pRXC else []
  l.all fun p => s.mirrorCrc p == s.crcValue p

/-- A covered field of a page has been written on this edge (R413). -/
def State.coveredNow (s : State) (page : Nat) : Bool := s.touched.writes.any fun e => e.1 / 256 == page && crcMask page (e.1 % 256) != 0

/-- CONFIG_WATCH_VISIT: the watch recomputes the CRC of the page it has come to and sets FAULT.CFG on a difference (R39,
R413); `upsetMask` are covered bits of the register at `upsetOff`, or of a copy that the page keeps, that have flipped since the latest visit; a comparison on the edge of a
covered write comes 1 CCLK later. -/
def effConfigWatchVisit (upsetOff upsetMask : Nat) (s : State) : State :=
  if s.coreRuns then
    let p := s.get pFLT FLT.WATCH_PAGE
    let s := (s.unsched (.configWatchVisit 0 0)).upset p upsetOff upsetMask
    if s.coveredNow p then s.sched 1 (.configWatchVisit 0 0) else
    let bad := s.crcValue p != s.cfgCrc p || !s.mirrorsGood p || s.pins.watchInj == some p
    let s := s.when (s.pins.watchInj == some p) fun s => { s with pins := { s.pins with watchInj := none } }
    let s := if bad then s.setFault p 0 0xFF { cls := 0x0A } else s
    let n := nextPage p
    let s := (s.put pFLT FLT.WATCH_PAGE n.1).when n.2 fun s => s.incMod pFLT FLT.WATCH_ROUNDS
    s.sched 2048 (.configWatchVisit 0 0)
  else s

/-! ## Monitors and the fault manager (R412, R414) -/

/-- A fault of AON itself, reported with page 0x0E and its class as code; an open injection that waits for it is DETECTED
(R415, R424). -/
def State.aonFault (s : State) (i : FaultInfo) : State :=
  let inj := s.injected pFLT i.cls
  let s := s.reportFault pFLT i.cls i inj
  if inj then s.tstDetected i.cls else s

/-- SUPPLY_MONITOR_FAULT: 0 VDD_CORE while rail 0, 1 the ANA supply while rail 1 is acknowledged, 2 VDD_AON; out of range for
its filter time (R412). -/
def effSupplyMonitorFault (u : Nat) (s : State) : State :=
  if decide (u < 3) && (u == 2 || s.bitOf pPWR PWR.STATUS_RAIL u) then
    (s.putBit pFLT ⟨0x15, 3, 0⟩ u true).aonFault { cls := 8 }
  else s

/-- CCLK_STOP: class 0x07, handled as a loss of the reference; the monitor sees CCLK again on the RC path (R412). -/
def effCclkStop (s : State) : State :=
  if s.coreUp && s.pwr.refOk then
    let s := (s.putB pFLT FLT.SUPPLY_CCLK_STOP true).aonFault { cls := 7 }
    let s := s.refLost
    { s with timers := s.timers ++ [(s.now + 217, .supplyBack 3)] }
  else s

/-- The condition at a monitor is over. -/
def State.supplyBack (s : State) (u : Nat) : State := s.putBit pFLT ⟨0x15, 3, 0⟩ u false

/-- FAULT_MANAGER_MISMATCH: class 0x0F; the decision is recomputed (R414). -/
def effFaultManagerMismatch (s : State) : State := s.aonFault { cls := 0x0F, action := 1, interrupt := 1 }

/-! ## Resign (R417–R420) -/

/-- A Resign begins (R418): every output stage ramps to zero in 2,170 CCLK, field moves end FAULTED, contexts are halted while
CORE responds, Kibitz stops, the kept line takes the cause. -/
def State.beginResign (s : State) (cause : Nat) : State :=
  let n := satInc 255 (s.get pFLT FLT.RESIGN_COUNT)
  let s := (s.put pFLT FLT.RESIGN 0).put pFLT FLT.RESIGN_COUNT n
  let s := (s.put pFLT FLT.RESIGN_CAUSE cause).putB pFLT FLT.STATUS_RESIGNED true
  let s := (s.putB pFLT COM.BUSY true).flag pFLT FLT.FLAG_RESIGN
  let s := if s.coreUp then
      let s := s.forEach (List.range 9) fun s n =>
        (s.when (s.lit n && s.fieldSt n != 5) fun s => s.withTx n fun t => { t with ramp := t.ramp.resign }).endField n stFAULTED
      s.forEach (List.range 12) fun s c => if listCtx c then s.haltCtx c 2 else s
    else s
  let s := s.when (s.bit pKBZ KBZ.STATUS_SWEEPING) State.stopSweep
  let s := (s.keepLine s.keptRecord).putB pFLT FLT.RESIGN_RECORD_DONE true
  s.resched 2170 .resignRampEnd

/-- The request latched in AON is taken up; a Board that has resigned takes no further one (R417, R427). -/
def State.takeResign (s : State) : State :=
  let c := s.flt.request
  if c = 0 then s
  else
    let s : State := { s with flt := { s.flt with request := 0 } }
    if s.resigned then s else s.beginResign c

/-- RESIGN_N_LOW: the ball has been low for 1 µs; it is taken to go high 1 µs later (R417). -/
def effResignNLow (s : State) : State :=
  let s : State := { s with pins := { s.pins with resignLow := true }, timers := s.timers.filter fun t => t.2 ≠ .resignHigh }
  let s : State := { s with timers := s.timers ++ [(s.now + 217, .resignHigh)] }
  s.requestResign 1

/-- RESIGN_RAMP_END: the ramps have ended and the safe request begins (R418). -/
def effResignRampEnd (s : State) : State :=
  if s.resigned && !s.bit pFLT FLT.RESIGN_RF_OFF then
    let s := (s.unsched .resignRampEnd).putB pFLT FLT.RESIGN_RF_OFF true
    let s := s.safeRequest
    if s.pwr.jobs.any (fun j => j.op == 4) then s else s.sched 0 .safeRequestDone
  else s

/-- RESIGN_RELEASE: a write of FLT.CMD.RELEASE; 0x5A ends the Resign or is refused with code 0x11 (R420), as it is beside a request on its
edge (R427). -/
def effResignRelease (v : Nat) (s : State) : State :=
  if v % 256 = 0x5A ∧ s.resigned = true then
    if s.pins.resignLow || s.flt.asked == s.now + 1 || !s.bit pFLT FLT.RESIGN_SAFE_DONE ||
        (s.get pFLT FLT.RESIGN_CAUSE == 3 && s.bitOf pFLT COM.FAULT s.flt.resignClass) then s.recordErr pFLT 0x11
    else
      let s := s.putB pFLT FLT.STATUS_RESIGNED false
      if s.coreUp then
        s.forEach [2, 3] fun s r => if s.railCtl r = 0 then s.railUp r (s.demand r) 2 else s
      else s
  else s

/-! ## Proving the checkers (R422–R424) -/

/-- A refused arming or GO (R422, R423). -/
def State.tstRefuse (s : State) (code : Nat) : State := (s.flag pTST TST.FLAG_REFUSED).recordErr pTST code

/-- The page is disarmed. -/
def State.tstDisarm (s : State) : State := (s.putB pTST TST.STATUS_ARMED false).unsched .tstArmExpiry

/-- TST_ARM: a write of ARM.KEY (R422). -/
def effTstArm (key : Nat) (s : State) : State :=
  if s.coreRuns then
    let s := s.tstDisarm
    if key % 256 ≠ 0x3C then s
    else if !s.enabled pTST || s.locked pTST then s.tstRefuse 1
    else (s.putB pTST TST.STATUS_ARMED true).sched 65536 .tstArmExpiry
  else s

/-- TST_ARM_EXPIRY (R422). -/
def effTstArmExpiry (s : State) : State := if s.coreUp then s.tstDisarm else s

/-- The unit exists with this instance, its page is enabled and the condition of R423's table is met. -/
def State.tstOk (s : State) (unit inst : Nat) : Bool :=
  match unit with
  | 0x01 => inst == 0 && s.enabled pCND0
  | 0x02 => decide (inst < 9) && s.enabled (pTXC inst)
  | 0x03 => decide (inst < 9) && s.enabled (pTXC inst) && (s.fieldSt inst == 3 || s.fieldSt inst == 4)
  | 0x04 => decide (inst < 17) && s.enabled (pRXC inst)
  | 0x05 => decide (inst < 17) && s.enabled (pRXC inst) && (s.rx inst).ctx.isSome
  | 0x06 => decide (inst < 8) && s.enabled pPRT
  | 0x07 => decide (inst < 8) && s.enabled pBLZ
  | 0x08 => inst == 0 && s.enabled pINV
  | 0x09 => inst == 0 && s.enabled pKBZ
  | 0x0A => inst == 0 && s.enabled pARB
  | 0x0B => inst == 0 && s.enabled pCAL
  | 0x0C => inst == 0 && s.enabled pMEM
  | 0x0D => inst == 0 && s.enabled pSCB
  | 0x0E => inst == 0 && s.enabled pXMP && s.bit pXMP (XMP.DEV_PRESENT 0)
  | 0x0F => decide (inst < 4) && s.enabled (pCKU inst)
  | 0x10 => inst == 0 && s.enabled pANG
  | 0x11 => inst == 0
  | 0x12 => inst == 0
  | 0x13 => (pageKind inst).isSome
  | 0x14 => decide (inst < 4)
  | _ => false

/-- The injection itself: the command that the checker raises, one CCLK after GO where the table gives no other time (R423). -/
def State.inject (s : State) (unit inst : Nat) : State :=
  match unit with
  | 0x01 => s.sched 1 .lockstepMismatch
  | 0x02 => s.sched 1 (.txcControlMismatch inst)
  | 0x03 => s.withTx inst fun t => { t with injUntil := s.now + 1 + 2560 }
  | 0x04 => s.sched 1 (.rxcControlMismatch inst)
  | 0x05 => s.withRx inst fun r => { r with injBlocks := 6 }
  | 0x06 => s.sched 1 (.prtEngineMismatch inst)
  | 0x07 => s.sched 1 (.laneMismatch inst)
  | 0x08 => s.sched 1 .invSchedMismatch
  | 0x09 => s.sched 1 .kbzMismatch
  | 0x0A => s.sched 1 (.arbMismatch false)
  | 0x0B => s.sched 1 .calMismatch
  | 0x0C => { s with codecInj := true }
  | 0x0D => s.sched 1 .scrubSeqMismatch
  | 0x0E => { s with pins := { s.pins with xmpInj := true } }
  | 0x0F => s.sched 1 (.ckuLogicMismatch inst)
  | 0x10 => s.sched 1 (.accumulatorMismatch true)
  | 0x11 => s.sched 64 .decoderMismatch
  | 0x12 => s.sched 1 .faultManagerMismatch
  | 0x13 => { s with pins := { s.pins with watchInj := some inst } }
  | _ =>
    if inst = 3 then s.sched (usec 1 + 1) .cclkStop
    else
      let s := s.sched (usec 4 + 1) (.supplyMonitorFault inst)
      { s with timers := s.timers ++ [(s.now + usec 5 + 1, .supplyBack inst)] }

/-- TST_INJECT: a write of INJ.GO with a unit and instance (R423). -/
def effTstInject (unit inst : Nat) (s : State) : State :=
  if s.coreRuns then
    let seq := s.seqNext
    let s := ((s.put pTST TST.INJ_UNIT unit).put pTST TST.INJ_INSTANCE inst)
    let armed := s.bit pTST TST.STATUS_ARMED
    let s := s.tstDisarm
    if !armed then s.tstRefuse 1
    else if !s.tstOk unit inst then s.tstRefuse 2
    else if s.bit pTST TST.STATUS_BUSY then s.tstRefuse 4
    else
      let d := if unit = 0x11 then 64 else 1
      let s : State := { s with timers := s.timers ++ [(s.now + d, .tstMark unit inst seq)] }
      s.inject unit inst
  else s

/-- The injecting edge: LAST, SEQ and BUSY, and the time allowed for the outcome (R424). -/
def State.tstMark (s : State) (unit inst seq : Nat) : State :=
  let s := ((s.put pTST TST.LAST_UNIT unit).put pTST TST.LAST_INSTANCE inst).put pTST TST.LAST_CLASS 0
  let s := ((s.put pTST TST.LAST_RESULT 3).putB pTST TST.STATUS_BUSY true).put pTST TST.SEQ_SEQ seq
  s.resched (usec 1100) .injectionOutcomeTimeout

/-- INJECTION_OUTCOME_TIMEOUT: MISSED (R424). -/
def effInjectionOutcomeTimeout (s : State) : State :=
  if s.coreUp && s.bit pTST TST.STATUS_BUSY then
    let s := (s.unsched .injectionOutcomeTimeout).putB pTST TST.STATUS_BUSY false
    let s := ((s.put pTST TST.LAST_RESULT 2).flag pTST TST.FLAG_MISSED).inc pTST TST.COUNT_MISSED
    s.setFault pTST 1 3 { cls := 2 }
  else s

/-- An injection into the external memory port meets the next read or program (R423). -/
def State.xmpInjSettle (s : State) : State :=
  if s.pins.xmpInj && (!s.xmp.want.isEmpty || s.xmp.running.any fun o => !o.erase) then
    { s with pins := { s.pins with xmpInj := false } }.sched 0 .xmpMismatch
  else s

/-! ## The test access port (R401, R450) -/

/-- The instruction that a 5-bit code selects: codes outside the table are BYPASS. -/
def tapInstr (code : Nat) : Nat :=
  let c := code % 32
  if c = 0 ∨ c = 1 ∨ c = 2 ∨ c = 4 ∨ c = 5 then c else 0x1F

/-- The register that an instruction in force puts between TDI and TDO, and whether it takes the balls: EXTEST, HIGHZ and
CLAMP act as BYPASS while RESET_N is high (R450). -/
def State.tapActs (s : State) (resetLow : Bool) : Nat :=
  if !resetLow && (s.pins.tap == 0 || s.pins.tap == 4 || s.pins.tap == 5) then 0x1F else s.pins.tap

/-- What IDCODE reads (R450). -/
def idcode : Nat := 0x131925AF

/-- JTAG_INSTRUCTION: an instruction is loaded; a running Board is not touched by it (R450). -/
def effJtagInstruction (code : Nat) (s : State) : State := { s with pins := { s.pins with tap := tapInstr code } }

/-- TRST_N: the test logic is reset and selects IDCODE (R401, R450). -/
def effTrstN (s : State) : State := { s with pins := { s.pins with tap := 1 } }

end Sys2Proof.Machine
end

