-- ==== Sys2Proof/Machine/Enable.lean ====
section
/-! DEFINITION. CTRL of every page: ENABLE, LOCK and SOFT_RESET (R14, R36, R37), with what each block does with its work in
flight, and the angle's stop (R58, R458). -/

namespace Sys2Proof.Machine

open Sys2Proof

/-! ## The angle stops (R58, R458) -/

/-- One-shot alarms are disarmed, periodic ones keep ARM. -/
def State.dropAlarms (s : State) : State :=
  s.forEach (List.range 8) fun s n =>
    s.when (!s.bit pANG (ANG.ALARM_CTRL_PERIODIC n)) fun s => s.putB pANG (ANG.ALARM_CTRL_ARM n) false

/-- Armed launch slots lose their angles, counted in MCH.COUNT2.LATE. -/
def State.dropSlots (s : State) : State :=
  s.forEach ((List.range 8).filter s.slotArmed) fun s n => (s.disarm (.lslot n)).inc pMCH MCH.COUNT2_LATE

/-- Happenings of a list taken off the agenda. -/
def State.unschedAll (s : State) (l : List Instr) : State := s.forEach l State.unsched

/-- ANG.CTRL.ENABLE written 0: the angle stops, moves and waits that rest on it end, no comparator stays armed (R58, R458). -/
def State.angDisable (s : State) : State :=
  if s.enabled pANG then
    let s := (s.putB pANG COM.ENABLE false).angStopMoves
    let s := s.dropAlarms.dropSlots.dropChainDeliveries
    let s := s.when (s.schedMode == 0 && !s.inv.disc) State.invStop
    let s := ((s.putB pANG ANG.STATUS_LOCKED false).putB pANG ANG.STATUS_HOLDOVER false).putB pANG ANG.STATUS_REACQ false
    let s := s.putB pANG ANG.STATUS_CHAIN_HOLD false
    let s := s.withAng fun g => { g with running := false, starting := false, syncOut := false }
    let s : State := { s with cmps := [] }
    s.unschedAll [.cycleBoundary, .virtualCycleEnd, .edgeWindowClose, .syncOutPulse, .syncOutPulseEnd]
  else s

/-! ## Work that waits for a block (R37, R459) -/

/-- RF moves that wait, before any block has taken them, for a block that is now disabled end DISABLED. -/
def State.dropWaiting (s : State) : State :=
  s.forEach (List.range 12) fun s c =>
    let x := s.ctx c
    match x.move with
    | some m => match launchOf m with
      | some h =>
        if x.ended.isNone && !x.committed && decide (2 ≤ s.run c ∧ s.run c ≤ 4) && s.blockOff m h.wing && (s.chainFor c).isNone then
          (s.clearWaits c).endMove c stDISABLED
        else s
      | none => s
    | none => s

/-- Programs that run on a Wing's Blitz lane. -/
def Prog.onLane : Prog → Bool
  | .blitz => true
  | .gambit _ _ _ => true
  | .gambitWait _ _ => true
  | .reload _ => true
  | .sound _ _ _ => true
  | .book _ => true
  | .seal _ => true
  | _ => false

/-- Programs of a SEAL move. -/
def Prog.ofSeal : Prog → Bool
  | .seal _ => true
  | .legacySeal _ => true
  | _ => false

/-- The Wings whose engine runs a program of a kind stop it (R181, R215). -/
def State.stopProgs (s : State) (p : Prog → Bool) : State :=
  s.forEach (List.range 8) fun s w => if (s.eng w).user.isSome && p (s.eng w).prog then s.stopWing w stDISABLED else s

/-! ## CTRL.ENABLE (R37) -/

/-- CTRL.ENABLE of a page changes from 0 to 1. -/
def State.enablePage (s : State) (page : Nat) (k : PageKind) : State :=
  let on := s.putB page COM.ENABLE true
  match k with
  | .ang => effAngEnable s
  | .clk => on.synStart
  | .mch => on.discover
  | .xmp => effXmpDiscovery on
  | .scb => on.resched 1 .scrubLine
  | .sco => on.scoEnable
  | .kbz => on.resched (orDefault 1 (on.get pKBZ KBZ.SWEEP_PERIOD) * ms) .sweepStart
  | .cal => on.calEnable
  | .fil => on.retapAll
  | .txc => on.withTx (page - 0x10) fun t => { t with fwdRun := 0, reflRun := 0 }
  | .txc8 => on.withTx 8 fun t => { t with fwdRun := 0, reflRun := 0 }
  | .rxc => on.rxEnable (page - 0x20)
  | .rxc16 => on.rxEnable 16
  | .inv => on.when ((List.range 5).any fun i => on.reg pKBZ (0x28 + i) != 0) fun s => s.sched 1 .pendHandoff
  | _ => on

/-- CTRL.ENABLE of a page changes from 1 to 0: no new work, and the work in flight ends as the block's chapter says. -/
def State.disablePage (s : State) (page : Nat) (k : PageKind) : State :=
  let off := s.putB page COM.ENABLE false
  match k with
  | .ang => s.angDisable
  | .clk => s.clkOff
  | .mch => off.withMch fun m => { m with queue := [] }
  | .xmp => off.disableXmp
  | .scb => off.unsched .scrubLine
  | .sco => off.scoDisable
  | .txc => (off.disableChain (page - 0x10)).dropWaiting
  | .txc8 => (off.disableChain 8).dropWaiting
  | .rxc => off.disableRx (page - 0x20)
  | .rxc16 => off.disableRx 16
  | .fil => off.disableFile (page - 0x40)
  | .kbz => (off.unsched .sweepStart).endSweep
  | .cal => off.calDisable
  | .prt => (off.stopProgs fun p => !p.onLane).dropWaiting
  | .blz => (off.stopProgs Prog.onLane).dropWaiting
  | .inv => ((off.stopProgs Prog.ofSeal).invAbandon stDISABLED true).dropWaiting
  | .cnd0 => off.disableCnd page
  | .cnd => off.disableCnd page
  | .evt => off.stopPage (page - 0x70)
  | .evt6 => off.stopPage (page - 0x70)
  | .arb => off.stopFabric
  | .tst => off.tstDisarm
  | _ => off

/-- The pages whose ENABLE is RO and reads 1 (R32). -/
def alwaysOn : PageKind → Bool
  | .dev => true
  | .pwr => true
  | .hpt => true
  | .flt => true
  | _ => false

/-- CTRL.ENABLE written. -/
def State.setEnable (s : State) (page : Nat) (on : Bool) : State :=
  match pageKind page with
  | none => s
  | some k =>
    if alwaysOn k || s.enabled page == on then s
    else
      let s : State := { s.noteOld (page * 256 + 1) with crcHeld := AMap.erase page s.crcHeld }
      if on then s.enablePage page k else s.disablePage page k

/-- CTRL.LOCK written 1; it is cleared by a device reset only (R14). -/
def State.setLock (s : State) (page : Nat) : State :=
  if (pageKind page).isSome && !s.locked page then
    let s : State := { s with crcHeld := AMap.erase page s.crcHeld }
    let s := s.putB page COM.LOCK true
    { s with touch := { s.touched with locks := s.touched.locks ++ [page] } }
  else s

/-! ## CTRL.SOFT_RESET (R36) -/

/-- Registers that a SOFT_RESET leaves (R36): FAULT and the error registers; the port's log and counts (R369); and what shows state that the
reset of the block does not change: STATUS and READY, the rails, AON's supply monitors and kept line, the Arbiter's next number, the
claims held.  DEDUCED, assumption 23. -/
def softKeeps (k : PageKind) (off : Nat) : Bool :=
  off == 2 || off == 3 || off == 7 || off == 8 || off == 9 ||
    match k with
    | .pwr => decide (0x1D ≤ off ∧ off ≤ 0x20)
    | .flt => off == FLT.SUPPLY.off || decide (0x18 ≤ off ∧ off ≤ 0x1F)
    | .hpt => off == HPT.VLOG_PTR.off || decide ((HPT.VLOG 0).off ≤ off ∧ off ≤ (HPT.VLOG 15).off) || off == HPT.COUNT.off
    | .arb => off == ARB.SEQ.off
    | .cnd0 => off == 0x11
    | _ => false

/-- Bits of a register that a SOFT_RESET leaves: those that show the service of a reserve chain (R115, R151), and the cause and steps of a
Resign in force, which only a release ends (R420; assumption 23). -/
def softMask (k : PageKind) (off : Nat) : Word :=
  match k with
  | .txc8 => if off = 0x10 then 0xF0 else 0
  | .rxc16 => if off = 0x10 then 0xF8 else 0
  | .flt => if off = FLT.RESIGN.off then 0xFF else 0
  | _ => 0

/-- One register returns to its reset value: LOCK stays, and with LOCK at 1 every RWL field. -/
def State.softReg (s : State) (page : Nat) (k : PageKind) (off : Nat) (old : Word) : State :=
  if softKeeps k off then s
  else if off = 1 then s.setReg page 1 (resetOf page 1 ||| (old &&& 4))
  else match regRow page off with
    | none => s
    | some r =>
      let keep := softMask k off ||| (if s.locked page then BitVec.ofNat 40 r.rwl else 0)
      s.setReg page off ((resetOf page off &&& ~~~keep) ||| (old &&& keep))

/-- Every register of a page. -/
def State.softRegs (s : State) (page : Nat) (k : PageKind) : State :=
  let s := s.forEach (s.regs.filter fun e => e.1 / 256 == page) fun s e => s.softReg page k (e.1 % 256) e.2
  { s with crcHeld := AMap.erase page s.crcHeld, regPsn := s.regPsn.filter (fun i => i / 256 ≠ page),
           mirror := s.mirror.filter fun e => e.1 / 256 ≠ page }

/-- A context is forced to a stop. -/
def State.forceStop (s : State) (c : Nat) : State :=
  let s := if s.run c ≠ 0 ∨ (s.ctx c).move.isSome = true then s.stopCtx c 8 0 else s
  s.withCtx c fun _ => Ctx.reset

/-- The work in flight is dropped as by disabling; the pages whose ENABLE is RO have none but a report unit, which is finished. -/
def State.softDrop (s : State) (page : Nat) (k : PageKind) : State :=
  let s := if alwaysOn k || !s.enabled page then s else s.disablePage page k
  match k with
  | .cnd => s.forEach (pageCtxs page) State.forceStop
  | .cal => if 1 ≤ s.cal.stage ∧ s.cal.stage ≤ 3 then s.calOver else s
  | .mch => s.dropSlots.unschedAll [.countTimeout, .tokenHoldLimit, .reportTokenTimeout]
  | .tst => { s with timers := s.timers.filter fun t => match t.2 with
      | .tstMark _ _ _ => false
      | _ => true }.unsched .injectionOutcomeTimeout
  | _ => s

/-- A correction pending for a TRIM register goes with the page. -/
def State.dropTrim (s : State) (page : Nat) : State :=
  (s.withCal fun c => { c with pend := c.pend.filter fun e => e.1 / 256 ≠ page }).showPend

/-- The block's state outside registers after its SOFT_RESET. -/
def State.softState (s : State) (page : Nat) (k : PageKind) : State :=
  match k with
  | .dev => if s.boardNum = 62 ∧ s.mch.enumo = true then s.takeNumber 62 else s
  | .ang => { s with ang := { Ang.reset with clk := s.ang.clk, tickAt := s.ang.tickAt } }
  | .clk => s.synStart
  | .mch =>
    let s := ((s.putB pMCH MCH.STATUS_RANGING false).putB pMCH MCH.STATUS_REALIGN false).putB pMCH MCH.STATUS_TOKEN_HELD false
    let s := (s.putB pMCH MCH.STATUS_RANGED false).putB pMCH MCH.STATUS_RING_OK false
    s.withMch fun m => { m with queue := [], flights := [], hellos := [], rangedOnce := false, reopen := false, release := false }
  | .hpt =>
    let s := s.withHpt fun h => { h with rpt := h.rpt.take h.unit }
    s.put pHPT HPT.RPT_STAT_QUEUED s.hpt.rpt.length
  | .xmp => s.xmpShow
  | .scb => (s.putB pSCB SCB.STATUS_FAST false).scbStart
  | .cku => ((((s.setCkuCfg (page - 0x0A) 0).setCkuLast (page - 0x0A) 0).putB page CKU.STATUS_OPEN false).putB page CKU.STATUS_MATCH false)
  | .sco => s.scoShow
  | .txc => s.dropTrim page
  | .txc8 => effTxc8Release (s.dropTrim page)
  | .rxc => s.dropTrim page
  | .rxc16 => effRxc16Release (s.dropTrim page)
  | .kbz => s.withKbz fun b => { Kbz.reset with kept := b.kept }
  | .cal =>
    let s := s.withCal fun c => { c with due := [], refs := [], starved := [], owed := [], forcedAt := [], xb := none }
    s.calShow.showPend
  | .prt => (s.put pPRT PRT.STATUS_OOS 0).forEach (List.range 8) fun s w => s.withEng w fun e => { e with mism := [] }
  | .blz => (s.put pBLZ BLZ.STATUS_OOS 0).forEach (List.range 8) fun s w => s.withEng w fun e => { e with laneMism := [] }
  | .inv => s.withInv fun i => { i with oos := false, mism := [] }
  | .cnd0 => { s with lockMism := [] }
  | .tst => s.putB pTST TST.STATUS_BUSY false
  | _ => s

/-- CTRL.SOFT_RESET: work dropped, registers at their reset values, FAULT and the error registers as they were; READY reads 0 from
this edge until the reset is complete, after a time the manual leaves open, at most 64 CCLK, or
1 µs while CCLK has stopped (R36, R421). -/
def State.softReset (s : State) (page : Nat) : State :=
  match pageKind page with
  | none => s
  | some k =>
    let e8 := s.reg page 8
    let e9 := s.reg page 9
    let s := ((s.softDrop page k).softRegs page k).softState page k
    let s := (s.setReg page 8 e8).setReg page 9 e9
    let d := Config.softResetTime s.free % (if s.pwr.cclk then 64 else 217) + 1
    let s := s.nextFree
    { s with resetting := (s.resetting.filter fun p => p ≠ page) ++ [page],
             timers := (s.timers.filter fun t => t.2 ≠ .softDone page) ++ [(s.now + d, .softDone page)] }

/-- The SOFT_RESET of a page is complete: READY follows the block again (R36). -/
def State.softDone (s : State) (page : Nat) : State := { s with resetting := s.resetting.filter fun p => p ≠ page }

/-- A page's domain is powered, so that its registers can be reached (R22, R31). -/
def State.reachable (s : State) (page : Nat) : Bool := (pageKind page).isSome && (aonPage page || s.coreUp)

/-- A write of CTRL: LOCK, then SOFT_RESET, which leaves ENABLE at its reset value whatever is written to it (R36), else ENABLE; one
of HPT's is applied at the end of its frame (R369). -/
def State.ctrlWrite (s : State) (page v : Nat) : State :=
  let s := if v.testBit 2 then s.setLock page else s
  if v.testBit 1 then s.softReset page else s.setEnable page (v.testBit 0)

/-- SOFT_RESET: a write of 1 to a page's CTRL.SOFT_RESET with ENABLE written as it stands (R36). -/
def effSoftReset (page : Nat) (s : State) : State := if s.reachable page then s.softReset page else s

/-- CTRL_ENABLE_WRITE (R37). -/
def effCtrlEnableWrite (page : Nat) (on : Bool) (s : State) : State := if s.reachable page then s.setEnable page on else s

/-- LOCK_WRITE (R14). -/
def effLockWrite (page : Nat) (s : State) : State := if s.reachable page then s.setLock page else s

/-- ANG_DISABLE (R58, R458). -/
def effAngDisable (s : State) : State := if s.enabled pANG then s.setEnable pANG false else s

end Sys2Proof.Machine
end

