-- ==== Sys2Proof/Machine/Write.lean ====
section
/-! DEFINITION. A write and a read of one register, by whatever initiator (R13–R16, R30–R39): the stored fields, the commands that
writes of WO fields are, and what each register shows. -/

namespace Sys2Proof.Machine

open Sys2Proof

/-! ## W1C bits whose cause is still present (R34) -/

/-- FAULT bits of a page that their cause sets again: a configuration that differs from CFG_CRC (R39), a duplicate number (R76), the lost
chain angle and MCLK (R87), the lost reference, a synthesiser that has not locked again (R400), a rail that FAILED (R395). -/
def State.faultStays (s : State) (page : Nat) : Word :=
  let cfg := b2n (s.crcValue page != s.cfgCrc page)
  let own :=
    if page = pMCH then 8 * b2n s.mch.dup + 4 * b2n s.mch.lost + 2 * b2n s.mch.mclkLost
    else if page = pCLK then 2 * b2n (s.pwr.fell && !s.pwr.refOk) + 4 * b2n s.pwr.unlocked
    else if page = pPWR then ((List.range 4).filter fun r => s.railState r == 4).foldl (fun a r => a + 2 ^ (1 + r)) 0
    else 0
  BitVec.ofNat 40 (own + cfg)

/-- A write of FAULT (R13, R34). -/
def State.clearFault (s : State) (page v : Nat) : State :=
  let stay := s.faultStays page
  s.writeFields page 7 (BitVec.ofNat 40 v &&& ~~~stay)

/-! ## Corrections and values that take effect later (R302) -/

/-- A software write of a TRIM register or MCH.CPHASE becomes a pending correction. -/
def State.trimWrite (s : State) (page off v : Nat) : State :=
  match regRow page off with
  | none => s
  | some r =>
    let m := s.writable page r
    let s : State := { s with regPsn := s.regPsn.filter fun i => i ≠ page * 256 + off }
    s.pendCorr page off ((s.reg page off &&& ~~~m) ||| (BitVec.ofNat 40 v &&& m))

/-! ## Writes that do more than store (R282: command writes) -/

/-- PWR registers: rails follow their settings, wake levels are looked at again. -/
def State.pwrWritten (s : State) (off : Nat) : State :=
  if off = PWR.VSET.off then
    s.forEach [0, 1] fun s r =>
      if s.railCtl r = 0 ∧ s.bitOf pPWR PWR.STATUS_RAIL r = true ∧ (s.rail r).req ≠ s.railSet r then s.railChange r (s.railSet r) 1 else s
  else if off = PWR.PA_CFG.off ∨ ((PWR.RAIL_CFG 0).off ≤ off ∧ off ≤ (PWR.RAIL_CFG 3).off) then s.followRails
  else if (off = PWR.WAKE_EN.off ∨ off = PWR.WAKE_GPIO.off) ∧ s.mode ≠ 0 ∧ s.gpioWakes = true then s.sched 217 (.wakeSource 7)
  else s

/-- MCH.CMD (R75, R77). -/
def State.mchCmd (s : State) (v : Nat) : State :=
  let s := if v.testBit 0 then effDiscover s else s
  if v.testBit 1 then effRange s else s

/-- CKUn.CMD: END is taken before START. -/
def State.ckuCmd (s : State) (n v : Nat) : State :=
  let s := if v.testBit 1 then effCkuEnd n s else s
  if v.testBit 0 then effCkuStart n s else s

/-- SCO.CMD: a REMOUNT leaves the region unmounted until it is read again; a record of TEL_NOW made by a register write holds
readings that nothing states. -/
def State.scoCmd (s : State) (v : Nat) : State :=
  let s := if v.testBit 0 && s.scoUsable then s.putB pSCO SCO.STATUS_MOUNTED false else s
  let s := if v.testBit 1 then effFormat s else s
  if v.testBit 2 then
    let x := Config.telReading s.free
    let f := fun i => bits x.toNat (16 * i + 15) (16 * i)
    effTelNow { vcore := f 0, vpaA := f 1, vpaB := f 2, power := f 3 } s.nextFree
  else s

/-- INV.CMD in the order of its bits (R225, R229). -/
def State.invCmd (s : State) (v : Nat) : State :=
  let s := if v.testBit 0 then effInvStart s else s
  let s := if v.testBit 1 then effInvDiscover s else s
  if v.testBit 2 then effInvStop s else s

/-- CTXj_CTRL: ABORT and HALT come before START, and a START beside a HALT is refused (R251, R266, R267, R271). -/
def State.ctxCmd (s : State) (src : Src) (c v : Nat) : State :=
  let s := if v.testBit 2 then effContextAbort c s else s
  let s := if v.testBit 1 then effContextHalt c s else s
  if v.testBit 0 then (if v.testBit 1 then (if s.coreRuns then s.refuseStart c else s) else effContextStart src c s) else s

/-- TXC registers with an effect of their own. -/
def State.txcWritten (s : State) (n off v : Nat) : State :=
  if off = TXC.POWER.off then
    let s := s.powerWritten n
    if s.tx8Serve = n + 1 then s.powerWritten 8 else s
  else if off = TXC.ATUNE.off ∧ v.testBit 18 = true then effAtuneStart n s
  else if off = TXC.CFG.off ∧ n = 8 then
    let a := bits v 12 9
    if a = 9 then effTxc8Release s else effTxc8Assign a s
  else s

/-- RXC registers with an effect of their own. -/
def State.rxcWritten (s : State) (n off v : Nat) : State :=
  if off = RXC.CAP_CFG.off then
    let s := if v.testBit 39 then effCaptureStart n s else s
    if v.testBit 38 then effCaptureStop n [] s else s
  else if off = RXC.CFG.off ∧ n = 16 then
    let a := bits v 13 9
    if a = 17 then effRxc16Release s else effRxc16Assign a s
  else if off = RXC.TAP.off then (s.retap n).retap 16
  else s

/-- CND pages: accumulators take host writes only while their context is stopped (R271). -/
def State.cndWrite (s : State) (src : Src) (page off v : Nat) : State :=
  let c := 4 * (page - 0x69) + (off - 0x10) / 16
  if src = .host ∧ 0x10 ≤ off ∧ 8 ≤ off % 16 ∧ s.run c ≠ 0 then s
  else
    let s := s.writeFields page off (BitVec.ofNat 40 v)
    if 0x10 ≤ off ∧ off % 16 = 0 then s.ctxCmd src c v else s

/-- KBZ.BASEp: the fraction bits go with the value they extended, a port put into LEARN learns anew (R233). -/
def State.kbzWritten (s : State) (off : Nat) : State :=
  if 0x40 ≤ off then
    let p := off - 0x40
    s.withKbz fun k => { k with
      frac := AMap.erase p k.frac, learn := if s.get pKBZ (KBZ.BASE_STATE p) = 1 then AMap.erase p k.learn else k.learn }
  else s

/-- FILf.TUNEr: an auto-tune of the port ends OVERRIDDEN, the bank takes the value, the baseline is learnt anew (R97, R125, R233); FILf.PORTr: a port
no longer fitted is left (R93). -/
def State.filWrite (s : State) (page off v : Nat) : State :=
  if 0x10 ≤ off ∧ off < 0x18 then
    let p := 8 * (page - 0x40) + (off - 0x10)
    let old := s.capNow p
    (((s.tuneOverride p).writeFields page off (BitVec.ofNat 40 v)).kbzLearn p old)
  else if 0x18 ≤ off ∧ off < 0x20 then
    let p := 8 * (page - 0x40) + (off - 0x18)
    let s := s.writeFields page off (BitVec.ofNat 40 v)
    if s.bit page (FIL.PORT_FITTED (off - 0x18)) then s.retapAll else s.dropPorts fun q => q == p
  else s.writeFields page off (BitVec.ofNat 40 v)

/-- ANG registers (R45, R57, R63). -/
def State.angWrite (s : State) (off v : Nat) : State :=
  if off = ANG.VPERIOD.off then effVperiodWrite v s
  else
    let s := s.writeFields pANG off (BitVec.ofNat 40 v)
    if 0x20 ≤ off ∧ off < 0x30 then s.alarmConfig ((off - 0x20) / 2)
    else if off = ANG.SYNC_OUT.off then s.syncOutConfig else s

/-- MEM registers: INJ.GO comes before INJ.RAW (R334, R335). -/
def State.memWrite1 (s : State) (off v : Nat) (psn : Bool) : State :=
  if 0x40 ≤ off then s.winWrite (off - 0x40) (v % 2 ^ 40) psn
  else
    let s := s.writeFields pMEM off (BitVec.ofNat 40 v)
    if off = MEM.BIST.off ∧ v.testBit 39 = true then effBistGo s
    else if off = MEM.INJ.off then
      let s := if v.testBit 39 then effInjGo s else s
      if v.testBit 38 then effInjRaw s else s
    else s

/-- A channel whose EN has become 0 stops accepting (R290). -/
def State.chWritten (s : State) (page off : Nat) : State :=
  let l := (List.range 8).filter fun k => (EVT.CH_CFG_EN k).off == off && !s.bit page (EVT.CH_CFG_EN k)
  s.forEach l fun s k => s.stopChannel (8 * (page - 0x70) + k)

/-- What a write to offset 0x10 or above does, by page. -/
def State.blockWrite1 (s : State) (src : Src) (page : Nat) (k : PageKind) (off v : Nat) (psn : Bool) : State :=
  let w := s.writeFields page off (BitVec.ofNat 40 v)
  match k with
  | .dev =>
    if off = DEV.CMD.off then effChipReset v s
    else if off = DEV.BOARD_NUM.off then (if v % 64 = 63 then s else w.takeNumber (v % 64)) else w
  | .pwr => if off = PWR.MODE_REQ.off then effModeReq src v s else w.pwrWritten off
  | .clk => if off = CLK.CMD.off ∧ v.testBit 0 = true then effClkRestore s else w
  | .ang => s.angWrite off v
  | .mch =>
    if off = MCH.CMD.off then s.mchCmd v
    else if off = MCH.POST_TOKEN.off then effPostToken (v % 256) s
    else if off = MCH.CFG.off then w.reportEnabled
    else if off = MCH.CPHASE.off then s.trimWrite page off v
    else if 0x20 ≤ off ∧ off % 2 = 0 then w.slotDrop ((off - 0x20) / 2) else w
  | .hpt =>
    if off = HPT.RPT_PUSH.off then effRptPush v s
    else if off = HPT.CFG.off ∧ src ≠ .host then w.takeMode
    else if off = HPT.RPT_CFG.off then w.tokenIdle else w
  | .xmp =>
    if 0x40 ≤ off then (if s.coreRuns then s.xmpWinWrite (off - 0x40) (v % 2 ^ 40) psn else s)
    else if off = XMP.ERASE.off ∧ v.testBit 39 = true then effXmpErase w else w
  | .mem => s.memWrite1 off v psn
  | .scb => if off = SCB.CFG.off then effScbPeriodWrite v s else w
  | .cku =>
    let n := page - 0x0A
    if off = CKU.CMD.off then s.ckuCmd n v
    else if 0x18 ≤ off then effCkuData n (off - 0x17) v psn s else w
  | .flt => if off = FLT.CMD.off then effResignRelease v s else w
  | .sco => if off = SCO.CMD.off then s.scoCmd v else w
  | .txc => if off = TXC.TRIM.off then s.trimWrite page off v else w.txcWritten (page - 0x10) off v
  | .txc8 => if off = TXC.TRIM.off then s.trimWrite page off v else w.txcWritten 8 off v
  | .rxc => if off = RXC.TRIM.off then s.trimWrite page off v else w.rxcWritten (page - 0x20) off v
  | .rxc16 => if off = RXC.TRIM.off then s.trimWrite page off v else w.rxcWritten 16 off v
  | .fil => s.filWrite page off v
  | .kbz => w.kbzWritten off
  | .cal =>
    if off = CAL.CFG_TXP_EN.off then w.calCfg
    else if off = CAL.XB_CFG.off ∧ v.testBit 39 = true then effXbArm w
    else if off = CAL.XB_PEER.off then effXbPeer (v % 512) s
    else if off = CAL.APPLY.off then w.applyConfig else w
  | .prt => w
  | .blz => w
  | .inv => if off = INV.CMD.off then s.invCmd v else w
  | .cnd0 => w
  | .cnd => s.cndWrite src page off v
  | .evt => w.chWritten page off
  | .evt6 => w.chWritten page off
  | .arb => if off = ARB.FIRE0.off then effHostFire false v s else if off = ARB.FIRE1.off then effHostFire true v s else w
  | .tst =>
    if off = TST.ARM.off then effTstArm (v % 256) s
    else if off = TST.INJ.off ∧ v.testBit 39 = true then effTstInject (bits v 15 8) (v % 256) w else w
/-- A write that acts as a command: of CTRL, or of a register with a WO field (R282). -/
def commandWrite (page off : Nat) : Bool :=
  off == 1 || match regRow page off with
    | some r => r.wo != 0 && off != 6
    | none => false

/-- Registers that take a poison mark with the word they pass on (R328, R341, R379). -/
def takesMark (page off : Nat) : Bool :=
  (page == pMEM && decide (0x40 ≤ off)) || (page == pXMP && decide (0x40 ≤ off)) || (decide (0x0A ≤ page ∧ page ≤ 0x0D) && decide (0x18 ≤ off))

/-- A register receives a poisoned word: it holds the mark, and the page's FAULT.CFG is set (R323). -/
def State.poisonReg (s : State) (page off : Nat) : State :=
  let k := page * 256 + off
  let s : State := { s with regPsn := (s.regPsn.filter fun x => x ≠ k) ++ [k] }
  s.setFault page 0 0xFF { cls := 0x0A }

/-- What a write carries where a later one in the order Conductor, Match chain, host has reached the register on this edge: its RW and
RWL fields keep what that one stored, its WO and W1C bits act (R38). -/
def State.carried (s : State) (src : Src) (page off v : Nat) : Nat :=
  match regRow page off with
  | none => v
  | some r =>
    if s.writtenAfter (page * 256 + off) (writeRank src) then
      let m := BitVec.ofNat 40 (r.rw ||| r.rwl)
      ((BitVec.ofNat 40 v &&& ~~~m) ||| (s.reg page off &&& m)).toNat
    else v

/-- One register written: reserved offsets and pages whose domain is off discard the write (R30, R31). -/
def State.applyWrite (s : State) (src : Src) (page off v : Nat) (psn : Bool) : State :=
  match pageKind page with
  | none => s
  | some k =>
    if !s.reachable page || (regRow page off).isNone then s
    else
      let v := s.carried src page off v
      let s := s.noteWrite (page * 256 + off) (writeRank src)
      let s :=
        if off = 1 then s.ctrlWrite page v
        else if off = 7 then s.clearFault page v
        else if off < 0x10 then s.writeFields page off (BitVec.ofNat 40 v)
        else s.blockWrite1 src page k off v psn
      let s := if psn && !takesMark page off then s.poisonReg page off else s
      if commandWrite page off then s.number src else s

/-- REGISTER_WRITE (R13, R16, R38). -/
def effRegisterWrite (src : Src) (page off value : Nat) (poison : Bool) (s : State) : State :=
  s.applyWrite src page off (value % 2 ^ 40) poison

/-- TUNE_WRITE: a software write of FILf.TUNEr (R95, R97, R125). -/
def effTuneWrite (src : Src) (port value : Nat) (s : State) : State :=
  if port < 192 then s.applyWrite src (pFIL (port / 8)) (0x10 + port % 8) (value % 2 ^ 40) false else s

/-! ## What STATUS and READY show (R32) -/

/-- A bit replaced in a word. -/
def withBit (v : Nat) (i : Nat) (b : Bool) : Nat := if v.testBit i = b then v else if b then v + 2 ^ i else v - 2 ^ i

/-- The driven port of a File's fan-out and the chain that drives it (R91). -/
def State.drivenIn (s : State) (f : Nat) : Option (Nat × Nat) :=
  (List.range 9).findSome? fun n => match s.driven n with
    | some p => if p / 8 = f then some (p, n) else none
    | none => none

/-- FIL.STATUS: RANK of an undriven fan-out is free. -/
def State.filStatus (s : State) (f : Nat) : Nat :=
  match s.drivenIn f with
  | some (p, n) => b2n (n == 8) * 2048 + p % 8 * 256 + 128 + 1
  | none => Config.undrivenRank s.free % 8 * 256

/-- CTXj_STATE.RUN as it is read: context 10 is IN_BLOCK while a ping is in hand (R252); a context that is not stopped shows RECOVER while
the recovery of R269 stands. -/
def State.shownRun (s : State) (c : Nat) : Nat :=
  if c = 10 then (if s.pingPort.isSome then 4 else 0)
  else if s.recoverAt.isSome = true ∧ s.run c ≠ 0 then 7 else s.run c

/-- The run bits of contexts, from bit `lo` on. -/
def State.runBits (s : State) (cs : List Nat) (lo : Nat) : Nat :=
  let l := cs.map fun c => s.shownRun c != 0
  (l.zipIdx.foldl (fun a e => a + (if e.1 then 2 ^ (lo + e.2) else 0)) 0) + b2n (l.any id)

/-- STATUS of a receive chain: a search on samples that are blanked shows BLANKED (assumption 95), BUSY a capture or a move that uses the
chain (R153). -/
def State.rxStatus (s : State) (n v : Nat) : Nat :=
  let v := if bits v 11 9 = 1 ∧ s.blankedNow n = true then setBits v 11 9 4 else v
  withBit v 0 (v.testBit 8 || s.rxInFlight n)

/-- STATUS of a page; `sel` while a frame that is this Board's own is in progress. -/
def State.statusOf (s : State) (page : Nat) (k : PageKind) (sel : Bool) : Nat :=
  let v := (s.reg page 2).toNat
  match k with
  | .pwr => withBit v 0 (!s.pwr.jobs.isEmpty)
  | .ang => withBit (withBit v 5 (s.ang.running && s.ang.tickAt.isSome)) 0 s.ang.running
  | .mch => if s.mch.roleSet && s.isHead then withBit (withBit v 1 true) 3 s.ang.running else withBit v 1 false
  | .hpt => withBit (withBit v 1 sel) 0 (sel || s.bit pHPT HPT.STATUS_MASTERING)
  | .xmp => withBit v 0 (bits v 4 1 != 0)
  | .mem => withBit v 0 (bits v 5 4 != 0)
  | .cku => withBit v 0 (v.testBit 1)
  | .sco => withBit v 0 (bits v 3 2 != 0)
  | .txc => withBit (v % 65536 + s.fieldsOn * 65536) 0 (bits v 7 5 != 0)
  | .txc8 => withBit (v % 65536 + s.fieldsOn * 65536) 0 (bits v 7 5 != 0)
  | .rxc => s.rxStatus (page - 0x20) v
  | .rxc16 => s.rxStatus 16 v
  | .fil => s.filStatus (page - 0x40)
  | .kbz => withBit v 1 ((List.range 192).any fun p => s.get pKBZ (KBZ.BASE_STATE p) == 1)
  | .prt => withBit v 0 (bits v 23 16 != 0)
  | .blz => withBit v 0 (bits v 15 8 != 0)
  | .cnd0 => s.runBits (List.range 12) 12
  | .cnd => s.runBits (pageCtxs page) 1
  | .evt => withBit v 0 (bits v 15 8 != 0)
  | .evt6 => withBit v 0 (bits v 15 8 != 0)
  | .arb => withBit v 0 (!s.deliveries.isEmpty)
  | _ => v

/-- The protocol engines have one in service (R183). -/
def State.prtReady (s : State) : Bool := s.enabled pPRT && s.get pPRT PRT.STATUS_OOS != 0xFF

/-- READY of a chain: RAIL, LOCK, and whether it may be used. -/
def State.txReady (s : State) (n : Nat) : Nat :=
  let page := pTXC n
  b2n (s.enabled page && !s.bit page TXC.STATUS_REPLACED && !s.chainFaulted n) + 2 * b2n s.synLocked + 4 * b2n (s.railShown n)

/-- READY of a receive chain. -/
def State.rxReadyWord (s : State) (n : Nat) : Nat :=
  let page := pRXC n
  b2n (s.enabled page && !s.bit page RXC.STATUS_REPLACED && !s.rxFaulted n && !(s.rx n).takeover) + 2 * b2n (s.bit page RXC.READY_LEAK)

/-- READY of a page. -/
def State.readyOf (s : State) (page : Nat) (k : PageKind) : Nat :=
  let on := s.enabled page
  let v := (s.reg page 3).toNat
  match k with
  | .dev => s.devReadyWord
  | .pwr => 1
  | .hpt => 1
  | .flt => 1
  | .clk => b2n on + 2 + 4 * b2n s.pwr.refOk + 8 * b2n s.synLocked
  | .ang => b2n s.ang.running
  | .mch => b2n (on && (if s.isHead then s.bit pMCH MCH.STATUS_RING_OK else s.mch.aligned))
  | .xmp =>
    let up := on && s.xmp.discovered
    b2n s.xmpReady + 2 * b2n (up && s.bit pXMP (XMP.DEV_PRESENT 0)) + 4 * b2n (up && s.bit pXMP (XMP.DEV_PRESENT 1))
  | .mem => withBit v 0 (on && s.memUp)
  | .scb => b2n (on && s.memUp)
  | .sco => b2n (on && s.bit pSCO SCO.STATUS_MOUNTED)
  | .txc => s.txReady (page - 0x10)
  | .txc8 => s.txReady 8
  | .rxc => s.rxReadyWord (page - 0x20)
  | .rxc16 => s.rxReadyWord 16
  | .kbz => b2n (on && s.get pCLK CLK.STATUS_SRC != 0)
  | .cal => b2n on + 2 * b2n (on && s.calInitDone)
  | .prt => b2n s.prtReady
  | .blz => b2n (on && s.get pBLZ BLZ.STATUS_OOS != 0xFF)
  | .inv => b2n (on && s.prtReady && !s.inv.oos)
  | .cnd0 => b2n (on && s.get pCND0 ⟨7, 2, 2⟩ == 0)
  | .cnd => b2n (on && s.enabled pCND0)
  | .evt => b2n (on && s.enabled pARB)
  | .evt6 => b2n (on && s.enabled pARB)
  | .arb => b2n (on && s.get pARB ⟨7, 2, 2⟩ == 0)
  | _ => b2n on

/-- What a read of a register returns, without the side effects that some reads have. -/
def State.view (s : State) (page off : Nat) (sel : Bool) : Nat :=
  match pageKind page with
  | none => 0
  | some k =>
    if (regRow page off).isNone then 0
    else if off = 2 then s.statusOf page k sel
    else if off = 3 then (if s.resetting.contains page then withBit (s.readyOf page k) 0 false else s.readyOf page k)
    else if off = 0x0B then s.crcValue page
    else if page = pANG ∧ off = ANG.NOW.off then s.angle
    else if k = .cnd ∧ 0x10 ≤ off ∧ off % 16 = 3 then
      let j := (off - 0x13) / 16
      ((CND.CTX_STATE_RUN j).put (s.reg page off) (s.shownRun (4 * (page - 0x69) + j))).toNat
    else if k = .txc ∧ off = TXC.RAIL.off then s.vneed (page - 0x10)
    else if k = .txc8 ∧ off = TXC.RAIL.off then s.vneed 8
    else (s.reg page off).toNat

/-- A register's poison mark. -/
def State.regPoisoned (s : State) (page off : Nat) : Bool := s.regPsn.contains (page * 256 + off)

/-- A read of an undriven fan-out's RANK uses a free value up. -/
def State.afterRead (s : State) (page off : Nat) : State :=
  if 0x40 ≤ page ∧ page < 0x58 ∧ off = 2 ∧ (s.drivenIn (page - 0x40)).isNone = true then s.nextFree
  else s

/-- What a read needs that is not there yet (lines of external memory), or its value, mark and the state after (R30–R32, R328,
R363, R377). -/
def State.readReg (s : State) (page off : Nat) (sel : Bool) : List Nat ⊕ (Nat × Bool × State) :=
  if page = pMEM ∧ 0x40 ≤ off ∧ off < 0x60 then .inr (s.winRead (off - 0x40))
  else if page = pXMP ∧ 0x40 ≤ off ∧ off < 0x48 then
    match s.winWord (s.xmpWinOff (off - 0x40)) with
    | .inl l => .inl l
    | .inr (v, p, t) => .inr (v, p, t.putBit pXMP XMP.WIN_PSN_WIN (off - 0x40) p)
  else if page = pHPT ∧ off = HPT.RPT_POP.off then .inr (s.popWord.1, false, s.popWord.2)
  else .inr (s.view page off sel, s.regPoisoned page off, s.afterRead page off)

end Sys2Proof.Machine
end

