-- ==== Sys2Proof/Machine/CtlMoves.lean ====
section
/-! DEFINITION. LOAD, STORE and COPY (R262, R263) and the Conductor's access to one address (R24–R27). -/

namespace Sys2Proof.Machine

open Sys2Proof

/-- The first Conductor address of the registers (R24). -/
def regBase : Nat := 0x100000000

/-- The page and offset of an implemented register at a Conductor address (R24, R27). -/
def regAt (a : Nat) : Option (Nat × Nat) :=
  let page := (a - regBase) / 256
  let off := a % 256
  if regBase ≤ a ∧ a < regBase + 65536 ∧ (pageKind page).isSome = true ∧ (regRow page off).isSome = true then some (page, off)
  else none

/-- An address that the Conductor may access: SRAM, an implemented register or a whole word of the window (R24–R27). -/
def mapped (a : Nat) : Bool := inSram a || inWindow a || (regAt a).isSome

/-- A Conductor read of one word: none at an unmapped address; the lines of external memory that it still misses, or the
word, its mark and the state after (R27, R263). -/
def State.ctlRead (s : State) (a : Nat) : Option (List Nat ⊕ (Nat × Bool × State)) :=
  if inSram a then some (.inr (s.memRead a))
  else if inWindow a then some (s.winWord (a - winBase))
  else match regAt a with
    | some (page, off) => some (s.readReg page off false)
    | none => none

/-- A Conductor write of one word with its mark to SRAM or a register: none elsewhere (R27, R263, R323). -/
def State.ctlWrite (s : State) (a v : Nat) (psn : Bool) : Option State :=
  if inSram a then some (s.memWrite a (v % 2 ^ 40) psn)
  else match regAt a with
    | some (page, off) => some (s.applyWrite .move page off (v % 2 ^ 40) psn)
    | none => none

/-- Words of a context's move go to the window; the move ends once their pages are programmed (R380, R381). -/
def State.ctlStore (s : State) (c addr : Nat) (ws : List (Nat × Bool)) : State :=
  ((s.withCtx c fun x => { x with committed := true }).xmpStore c (addr - winBase) ws).xmpOwnerDone c

/-- LOAD: A[REG] takes the value, or the word at the address with its mark (R262, R263). -/
def effLoad (c : Nat) (imm : Bool) (reg value : Nat) (s : State) : State :=
  let m := Instr.load c imm reg value
  s.issue c m true fun s =>
    if imm then (s.setA c reg (value % 2 ^ 40) false).endMove c stDONE
    else match s.ctlRead value with
      | none => s.endMove c stBAD_ADDRESS
      | some (.inl ls) => s.xmpWait ls m
      | some (.inr (v, p, s)) => (s.setA c reg v p).endMove c stDONE

/-- STORE: the word at the address takes A[REG] with its mark (R262, R263). -/
def effStore (c reg addr : Nat) (s : State) : State :=
  s.issue c (.store c reg addr) false fun s =>
    let v := s.acc c reg
    let p := s.accPoisoned c reg
    if inWindow addr then s.ctlStore c addr [(v, p)]
    else match s.ctlWrite addr v p with
      | none => s.endMove c stBAD_ADDRESS
      | some s => s.endMove c stDONE

/-- A COPY to the window ends its gathering: what it has read is written (R380). -/
def State.copyFlush (s : State) (c dst : Nat) : State :=
  s.ctlStore c dst ((s.ctx c).words.map copiedWord)

/-- A COPY meets an address that is not mapped: the words already copied stay (R27, R266). -/
def State.copyBad (s : State) (c dst : Nat) : State :=
  let s := if inWindow dst && !(s.ctx c).words.isEmpty then s.xmpStore c (dst - winBase) ((s.ctx c).words.map copiedWord) else s
  s.endMove c stBAD_ADDRESS

/-- COPY: COUNT words in ascending order, one in two CCLK, each with its mark; those for the window are written together
(R254, R262, R263, R380). -/
def effCopy (c count src dst : Nat) (s : State) : State :=
  let m := Instr.copy c count src dst
  s.issue c m true fun s =>
    let k := (s.ctx c).copied
    let b := addrAt dst k
    match s.ctlRead (addrAt src k) with
    | none => s.copyBad c dst
    | some (.inl ls) => s.xmpWait ls m
    | some (.inr (v, p, s)) =>
      let next := fun (s : State) =>
        let s := s.withCtx c fun x => { x with copied := k + 1 }
        if k + 1 < count then s.sched 2 m
        else if inWindow dst then s.copyFlush c dst
        else s.endMove c stDONE
      if inWindow b then next (s.withCtx c fun x => { x with words := x.words ++ [v + b2n p * 2 ^ 40] })
      else match s.ctlWrite b v p with
        | none => s.copyBad c dst
        | some s => next s

end Sys2Proof.Machine
end

