-- ==== Sys2Proof/Machine/Frames.lean ====
section
/-! DEFINITION. READ and WRITE frames of the host port (R349–R361), and the write of DEV.BOARD_NUM at the end of its frame (R74). -/

namespace Sys2Proof.Machine

open Sys2Proof

/-- An index shown in LAST_FRAME: 63 for none, held at 62 (R370). -/
def frameIndex : Option Nat → Nat
  | none => 63
  | some i => Nat.min 62 i

/-- A frame in progress: its header, the state, the bytes driven, the highest result code (R354), the violations logged (R360),
the index of the first register sent as zeros for want of time and of the first poisoned one, the code that applies to the
first register; for a WRITE, whether its effect has ended, and what is applied at its end. -/
structure Frame where
  op : Nat
  board : Nat
  page : Nat
  off : Nat
  s : State
  out : List Nat
  res : Nat
  vios : List Nat
  firstZero : Option Nat
  firstPsn : Option Nat
  code0 : Option Nat
  dead : Bool
  num : Option Nat
  ctrl : Option Nat

/-- A frame begins. -/
def Frame.start (s : State) (op board page off : Nat) : Frame :=
  { op := op, board := board % 64, page := page % 256, off := off % 256, s := s, out := [], res := 0, vios := [],
    firstZero := none, firstPsn := none, code0 := none, dead := false, num := none, ctrl := none }

/-- A result code applies. -/
def Frame.code (f : Frame) (c : Nat) : Frame := { f with res := Nat.max f.res c }

/-- A violation at an offset, logged once per frame (R360, R362). -/
def Frame.violate (f : Frame) (c off bytes : Nat) : Frame :=
  if f.vios.contains c then f
  else { f with s := f.s.violate c f.op f.board f.page (off % 256) bytes, vios := c :: f.vios, res := Nat.max f.res c }

/-- The offset lies past the page's last implemented one, or past 0xFF (R355). -/
def pastEnd (k : PageKind) (off : Nat) : Bool := decide (k.lastOff < off)

/-- FLAG.PAST_END and its result (R355). -/
def Frame.past (f : Frame) : Frame := { f.code 3 with s := f.s.flag pHPT HPT.FLAG_PAST_END }

/-! ## READ (R353, R355, R356) -/

/-- A register returned as a value. -/
def Frame.give (f : Frame) (v : Nat) (c : Nat) : Frame :=
  { f with out := f.out ++ beBytes 5 v, code0 := some (f.code0.getD c) }

/-- A register whose value was not ready in time is sent as zeros (R352, R353). -/
def Frame.retry (f : Frame) (i : Nat) : Frame :=
  { f.code 1 with s := f.s.flag pHPT HPT.FLAG_RETRY, firstZero := some (f.firstZero.getD i) }.give 0 1

/-- Register `i` of a READ; `late` when its value is not ready when its first bit must leave. -/
def Frame.readOne (f : Frame) (late : Bool) (i : Nat) : Frame :=
  let o := f.off + i
  match pageKind f.page with
  | none => (f.violate 6 o (if i = 0 then 3 else 5 * i)).give 0 6
  | some k =>
    if !f.s.reachable f.page then (f.code 2).give 0 2
    else if pastEnd k o then f.past.give 0 3
    else match f.s.readReg f.page o true with
      | .inl ls => { f with s := f.s.xmpWant ls false }.retry i
      | .inr (v, p, t) =>
        if late then { f with s := t }.retry i
        else { f with s := t, firstPsn := if p && f.firstPsn.isNone then some i else f.firstPsn }.give v 0

/-- The read status byte of an SDR READ: VALID, or the code that applies to the first register (R353). -/
def readStatus (c : Nat) : Nat := if c = 0 then 0x80 else c % 16

/-- HOST_READ: a READ frame that clocks `count` registers; the registers at the indices `late` are not ready in time (R349,
R353, R356). -/
def effHostRead (board page off count : Nat) (late : List Nat) (enumi : Bool) (s : State) : State :=
  s.frame board enumi fun s =>
    let f := Frame.start s 0 board page off
    if board % 64 = 63 then
      let f := f.violate 8 f.off 3
      (f.s.withHpt fun h => { h with out := [] }).frameRecord 0 f.board f.page f.off f.res 63 63
    else
      let sb := s.statusByte
      let f := (List.range count).foldl (fun f i => f.readOne (late.contains i) i) f
      let pre := if s.bit pHPT HPT.STATUS_DDR then [sb] else match f.code0 with
        | none => [sb]
        | some c => [sb, readStatus c]
      let t := f.s.withHpt fun h => { h with out := pre ++ f.out, psn := f.firstPsn.isSome }
      t.frameRecord 0 f.board f.page f.off f.res (frameIndex f.firstZero) (frameIndex f.firstPsn)

/-! ## WRITE (R355, R357, R358, R360, R361) -/

/-- One register of a WRITE, `bytes` bytes of the frame received. -/
def Frame.writeOne (f : Frame) (i v bytes : Nat) : Frame :=
  let o := f.off + i
  if f.dead then f
  else match pageKind f.page with
    | none => f.violate 6 o bytes
    | some k =>
      if !f.s.reachable f.page then f.code 2
      else if pastEnd k o then f.past
      else if f.page = pDEV ∧ o = DEV.BOARD_NUM.off then
        if f.board = 63 ∨ v % 64 = 63 then { f.violate 8 o bytes with dead := true } else { f with num := some (v % 64) }
      else if f.page = pHPT ∧ o = 1 ∧ v.testBit 1 = true then { f with ctrl := some v }
      else if allRO f.page o then f.violate 5 o bytes
      else
        let locked := f.s.hitsLocked f.page o (BitVec.ofNat 40 v)
        let f := { f with s := f.s.applyWrite .host f.page o v false }
        if locked then f.violate 5 o bytes else f

/-- The registers whose data came whole: five bytes each, the first carrying [39:32] (R12). -/
def frameWords (w : WriteFrame) : List Nat :=
  (List.range (w.bytes.length / 5)).map fun i => beNat (((w.bytes.drop (5 * i)).take 5).map (· % 256))

/-- The bits received of the register that HSEL_N cut short, and their number (R358). -/
def frameRest (w : WriteFrame) : Nat × Nat :=
  let l := w.bytes.drop (5 * (w.bytes.length / 5))
  let b := w.bits % 8
  (beNat (l.map (· % 256)) * 2 ^ b + w.tail % 2 ^ b, 8 * l.length + b)

/-- The registers of one frame are applied on separate edges (R357): nothing of the one before counts as of this edge. -/
def Frame.nextEdge (f : Frame) : Frame :=
  { f with s := { f.s with touch := { at_ := f.s.now, sets := [], writes := [], locks := [], olds := [], fired := 0 } } }

/-- The register in which HSEL_N rises, right-aligned, or in which a nibble lacks its strobe. -/
def Frame.writeTail (f : Frame) (w : WriteFrame) (ddr : Bool) : Frame :=
  let n := w.bytes.length / 5
  let bytes := 3 + w.bytes.length
  if f.dead then f
  else if w.strobe && ddr then f.violate 0xA (f.off + n) bytes
  else if 0 < (frameRest w).2 then
    let f := { f with s := f.s.flag pHPT HPT.FLAG_PARTIAL }.violate 4 (f.off + n) bytes
    (if n = 0 then f else f.nextEdge).writeOne n (frameRest w).1 bytes
  else f

/-- What a WRITE leaves to its end: the Board's number, HPT's SOFT_RESET (R74, R369). -/
def Frame.writeEnd (f : Frame) : State :=
  if f.dead then f.s
  else
    let s := match f.num with
      | some v => f.s.takeNumber v
      | none => f.s
    match f.ctrl with
    | some v => s.applyWrite .host pHPT 1 v false
    | none => s

/-- HOST_WRITE: a WRITE frame (R349, R357). -/
def effHostWrite (w : WriteFrame) (s : State) : State :=
  s.frame w.board w.enumi fun s =>
    let ddr := s.bit pHPT HPT.STATUS_DDR
    let s := if ddr then s.withHpt fun h => { h with out := [] } else s.answer w.board []
    let f := Frame.start s 1 w.board w.page w.off
    let f := ((frameWords w).zipIdx.foldl (fun f e => (if e.2 = 0 then f else f.nextEdge).writeOne e.2 e.1 (8 + 5 * e.2)) f).writeTail w ddr
    f.writeEnd.takeMode.frameRecord 1 f.board f.page f.off f.res 63 63

/-- BOARD_NUM: a WRITE frame with DEV.BOARD_NUM alone, to this Board or to all of them (R74). -/
def effBoardNum (value : Nat) (broadcast enumi : Bool) (s : State) : State :=
  effHostWrite { enumi := enumi, board := if broadcast then 63 else s.boardNum, page := pDEV, off := DEV.BOARD_NUM.off,
                 bytes := beBytes 5 value, bits := 0, tail := 0, strobe := false } s

end Sys2Proof.Machine
end

