-- ==== Sys2Proof/Machine/Exec.lean ====
section
/-! DEFINITION. The meanings of the commands, one for each row of the table: the effect that its family defines, and what
follows every happening. -/

namespace Sys2Proof.Machine

open Sys2Proof

/-- What follows a happening on its edge: ends that fields and chains leave reach their users, the inventory, background work,
Scoresheet, power sequences and an injection that waits look at what has changed, a Resign request latched by the fault manager
is taken up, and a rise of the interrupt request appends its report word (R259, R271, R303, R310, R363, R390, R417, R423). -/
def State.settle (before after : State) : State :=
  let s := ((State.takeEnds 8 after.releaseTx8.releaseRx16).takeReports).invSettleAll
  let s := (State.takeEnds 8 s.calSettle.releaseTx8.releaseRx16).scoSettle
  let s := (State.takeEnds 8 s.pwrSettle.takeReports.xmpInjSettle.takeResign).takeReports
  before.autoIrqWord s

/-- A happening with what follows it; the queue of commands is not its own. -/
def State.finish (before after : State) : State :=
  { before.settle after with pending := before.pending }

/-- A command answers with the state after it. -/
def State.answerWith (before after : State) : Host.Outcome State Fault Refusal := .next (before.finish after)

/-- REGISTER_WRITE (R16). -/
def execRegisterWrite (src : Src) (page off value : Nat) (poison : Bool) (s : State) : Host.Outcome State Fault Refusal :=
  s.answerWith (effRegisterWrite src page off value poison s)

/-- SOFT_RESET (R36), numbered by the Arbiter as a command write (R282). -/
def execSoftReset (page : Nat) (s : State) : Host.Outcome State Fault Refusal := s.answerWith ((effSoftReset page s).number .host)

/-- CTRL_ENABLE_WRITE (R37), numbered by the Arbiter as a command write (R282). -/
def execCtrlEnableWrite (page : Nat) (on : Bool) (s : State) : Host.Outcome State Fault Refusal :=
  s.answerWith ((effCtrlEnableWrite page on s).number .host)

/-- LOCK_WRITE (R14), numbered by the Arbiter as a command write (R282). -/
def execLockWrite (page : Nat) (s : State) : Host.Outcome State Fault Refusal := s.answerWith ((effLockWrite page s).number .host)

/-- CONFIG_WATCH_VISIT (R413). -/
def execConfigWatchVisit (upsetOff upsetMask : Nat) (s : State) : Host.Outcome State Fault Refusal :=
  s.answerWith (effConfigWatchVisit upsetOff upsetMask s)

/-- ANG_ENABLE (R48), numbered by the Arbiter as a command write (R282). -/
def execAngEnable (s : State) : Host.Outcome State Fault Refusal := s.answerWith ((effAngEnable s).number .host)

/-- ANG_DISABLE (R58), numbered by the Arbiter as a command write (R282). -/
def execAngDisable (s : State) : Host.Outcome State Fault Refusal := s.answerWith ((effAngDisable s).number .host)

/-- SYNC_IN_EDGE (R49). -/
def execSyncInEdge (s : State) : Host.Outcome State Fault Refusal := s.answerWith (effSyncInEdge s)

/-- EDGE_WINDOW_CLOSE (R49). -/
def execEdgeWindowClose (s : State) : Host.Outcome State Fault Refusal := s.answerWith (effEdgeWindowClose s)

/-- CYCLE_BOUNDARY (R41). -/
def execCycleBoundary (s : State) : Host.Outcome State Fault Refusal := s.answerWith (effCycleBoundary s)

/-- VIRTUAL_CYCLE_END (R45). -/
def execVirtualCycleEnd (s : State) : Host.Outcome State Fault Refusal := s.answerWith (effVirtualCycleEnd s)

/-- VPERIOD_WRITE (R45). -/
def execVperiodWrite (value : Nat) (s : State) : Host.Outcome State Fault Refusal := s.answerWith (effVperiodWrite value s)

/-- ALARM_FIRE (R57). -/
def execAlarmFire (n : Nat) (late : Bool) (s : State) : Host.Outcome State Fault Refusal := s.answerWith (effAlarmFire n late s)

/-- SYNC_OUT_PULSE (R63). -/
def execSyncOutPulse (s : State) : Host.Outcome State Fault Refusal := s.answerWith (effSyncOutPulse s)

/-- SYNC_OUT_PULSE_END (R63). -/
def execSyncOutPulseEnd (s : State) : Host.Outcome State Fault Refusal := s.answerWith (effSyncOutPulseEnd s)

/-- ACCUMULATOR_MISMATCH (R64). -/
def execAccumulatorMismatch (second : Bool) (s : State) : Host.Outcome State Fault Refusal :=
  s.answerWith (effAccumulatorMismatch second s)

/-- ROLE_DECISION (R68). -/
def execRoleDecision (mclkToggles : Bool) (s : State) : Host.Outcome State Fault Refusal :=
  s.answerWith (effRoleDecision mclkToggles s)

/-- IDLE_CELL (R79). -/
def execIdleCell (c : CellHead) (angle : Nat) (s : State) : Host.Outcome State Fault Refusal :=
  s.answerWith (effIdleCell c angle s)

/-- RATE_CELL (R81). -/
def execRateCell (c : CellHead) (boundary rate : Nat) (s : State) : Host.Outcome State Fault Refusal :=
  s.answerWith (effRateCell c boundary rate s)

/-- STATE_CELL (R81). -/
def execStateCell (c : CellHead) (tag count : Nat) (s : State) : Host.Outcome State Fault Refusal :=
  s.answerWith (effStateCell c tag count s)

/-- COUNT_CELL (R75). -/
def execCountCell (c : CellHead) (count : Nat) (s : State) : Host.Outcome State Fault Refusal :=
  s.answerWith (effCountCell c count s)

/-- RANGE_START_CELL (R77). -/
def execRangeStartCell (c : CellHead) (s : State) : Host.Outcome State Fault Refusal := s.answerWith (effRangeStartCell c s)

/-- RANGE_RESULT_CELL (R77). -/
def execRangeResultCell (c : CellHead) (value : Nat) (s : State) : Host.Outcome State Fault Refusal :=
  s.answerWith (effRangeResultCell c value s)

/-- HELLO_CELL (R76). -/
def execHelloCell (c : CellHead) (position : Nat) (s : State) : Host.Outcome State Fault Refusal :=
  s.answerWith (effHelloCell c position s)

/-- LAUNCH_CELL (R84). -/
def execLaunchCell (c : CellHead) (token angle : Nat) (s : State) : Host.Outcome State Fault Refusal :=
  s.answerWith (effLaunchCell c token angle s)

/-- EVENT_CELL (R85). -/
def execEventCell (c : CellHead) (channel hop angle : Nat) (s : State) : Host.Outcome State Fault Refusal :=
  s.answerWith (effEventCell c channel hop angle s)

/-- REPORT_CELL (R86). -/
def execReportCell (c : CellHead) (s : State) : Host.Outcome State Fault Refusal := s.answerWith (effReportCell c s)

/-- BAD_CELL (R73). -/
def execBadCell (word : Nat) (s : State) : Host.Outcome State Fault Refusal := s.answerWith (effBadCell word s)

/-- CELL_RESEND (R73). -/
def execCellResend (type : Nat) (s : State) : Host.Outcome State Fault Refusal := s.answerWith (effCellResend type s)

/-- COUNT_TIMEOUT (R75). -/
def execCountTimeout (s : State) : Host.Outcome State Fault Refusal := s.answerWith (effCountTimeout s)

/-- DISCOVER (R75), numbered by the Arbiter as a command write (R282). -/
def execDiscover (s : State) : Host.Outcome State Fault Refusal := s.answerWith ((effDiscover s).number .host)

/-- RANGE (R77), numbered by the Arbiter as a command write (R282). -/
def execRange (s : State) : Host.Outcome State Fault Refusal := s.answerWith ((effRange s).number .host)

/-- ECHO_WINDOW_END (R77). -/
def execEchoWindowEnd (roundTrips : List Nat) (s : State) : Host.Outcome State Fault Refusal :=
  s.answerWith (effEchoWindowEnd roundTrips s)

/-- BOARD_NUM (R74). -/
def execBoardNum (value : Nat) (broadcast enumi : Bool) (s : State) : Host.Outcome State Fault Refusal :=
  s.answerWith (effBoardNum value broadcast enumi s)

/-- POST_TOKEN (R84), numbered by the Arbiter as a command write (R282). -/
def execPostToken (token : Nat) (s : State) : Host.Outcome State Fault Refusal :=
  s.answerWith ((effPostToken token s).number .host)

/-- LSLOT_FIRE (R84). -/
def execLslotFire (slot : Nat) (late : Bool) (s : State) : Host.Outcome State Fault Refusal :=
  s.answerWith (effLslotFire slot late s)

/-- CHAIN_LINKED_DELIVERY (R289). -/
def execChainLinkedDelivery (ch angle : Nat) (s : State) : Host.Outcome State Fault Refusal :=
  s.answerWith (effChainLinkedDelivery ch angle s)

/-- TOKEN_HOLD_LIMIT (R86). -/
def execTokenHoldLimit (s : State) : Host.Outcome State Fault Refusal := s.answerWith (effTokenHoldLimit s)

/-- REPORT_TOKEN_TIMEOUT (R86). -/
def execReportTokenTimeout (s : State) : Host.Outcome State Fault Refusal := s.answerWith (effReportTokenTimeout s)

/-- CHAIN_ANGLE_LOST (R87). -/
def execChainAngleLost (mclk : Bool) (s : State) : Host.Outcome State Fault Refusal := s.answerWith (effChainAngleLost mclk s)

/-- SWITCH_READBACK_FAULT (R91). -/
def execSwitchReadbackFault (port : Nat) (s : State) : Host.Outcome State Fault Refusal :=
  s.answerWith (effSwitchReadbackFault port s)

/-- TUNE_WRITE (R94). -/
def execTuneWrite (src : Src) (port value : Nat) (s : State) : Host.Outcome State Fault Refusal :=
  s.answerWith (effTuneWrite src port value s)

/-- ATUNE_START (R96), numbered by the Arbiter as a command write (R282). -/
def execAtuneStart (n : Nat) (s : State) : Host.Outcome State Fault Refusal := s.answerWith ((effAtuneStart n s).number .host)

/-- ATUNE_COMPLETE (R96). -/
def execAtuneComplete (n : Nat) (gammas : List Nat) (s : State) : Host.Outcome State Fault Refusal :=
  s.answerWith (effAtuneComplete n gammas s)

/-- FIELD_LAUNCH (R103). -/
def execFieldLaunch (n : Nat) (s : State) : Host.Outcome State Fault Refusal := s.answerWith (effFieldLaunch n s)

/-- PLATEAU (R120). -/
def execPlateau (n : Nat) (s : State) : Host.Outcome State Fault Refusal := s.answerWith (effPlateau n s)

/-- SETTLE_END (R105). -/
def execSettleEnd (n : Nat) (s : State) : Host.Outcome State Fault Refusal := s.answerWith (effSettleEnd n s)

/-- RAMP_DOWN_END (R104). -/
def execRampDownEnd (n : Nat) (s : State) : Host.Outcome State Fault Refusal := s.answerWith (effRampDownEnd n s)

/-- MONITOR_MEAN (R100). -/
def execMonitorMean (n fwd refl sq : Nat) (s : State) : Host.Outcome State Fault Refusal :=
  s.answerWith (effMonitorMean n fwd refl sq s)

/-- PA_OVERCURRENT (R111). -/
def execPaOvercurrent (n : Nat) (s : State) : Host.Outcome State Fault Refusal := s.answerWith (effPaOvercurrent n s)

/-- TXC_CONTROL_MISMATCH (R111). -/
def execTxcControlMismatch (n : Nat) (s : State) : Host.Outcome State Fault Refusal := s.answerWith (effTxcControlMismatch n s)

/-- TXC8_ASSIGN (R115), numbered by the Arbiter as a command write (R282). -/
def execTxc8Assign (value : Nat) (s : State) : Host.Outcome State Fault Refusal :=
  s.answerWith ((effTxc8Assign value s).number .host)

/-- TXC8_RELEASE (R115), numbered by the Arbiter as a command write (R282). -/
def execTxc8Release (s : State) : Host.Outcome State Fault Refusal := s.answerWith ((effTxc8Release s).number .host)

/-- RAIL_LOWERING (R109). -/
def execRailLowering (rail : Nat) (s : State) : Host.Outcome State Fault Refusal := s.answerWith (effRailLowering rail s)

/-- RAIL_ACK (R395). -/
def execRailAck (rail : Nat) (s : State) : Host.Outcome State Fault Refusal := s.answerWith (effRailAck rail s)

/-- TAP_READBACK_FAULT (R130). -/
def execTapReadbackFault (n : Nat) (s : State) : Host.Outcome State Fault Refusal := s.answerWith (effTapReadbackFault n s)

/-- LEAK_CONVERGED (R132). -/
def execLeakConverged (n i q residual : Nat) (s : State) : Host.Outcome State Fault Refusal :=
  s.answerWith (effLeakConverged n i q residual s)

/-- CHECK_TONE_BLOCK (R134). -/
def execCheckToneBlock (n amp phase : Nat) (s : State) : Host.Outcome State Fault Refusal :=
  s.answerWith (effCheckToneBlock n amp phase s)

/-- RXC_CONTROL_MISMATCH (R149). -/
def execRxcControlMismatch (n : Nat) (s : State) : Host.Outcome State Fault Refusal := s.answerWith (effRxcControlMismatch n s)

/-- AGC_BLOCK (R136). -/
def execAgcBlock (n : Nat) (samples : List Nat) (s : State) : Host.Outcome State Fault Refusal :=
  s.answerWith (effAgcBlock n samples s)

/-- PREAMBLE_DETECT (R139). -/
def execPreambleDetect (n : Nat) (samples : List Nat) (s : State) : Host.Outcome State Fault Refusal :=
  s.answerWith (effPreambleDetect n samples s)

/-- FINE_TIMING_DECISION (R140). -/
def execFineTimingDecision (n : Nat) (samples : List Nat) (s : State) : Host.Outcome State Fault Refusal :=
  s.answerWith (effFineTimingDecision n samples s)

/-- CAPTURE_WATCH_FIRE (R142). -/
def execCaptureWatchFire (n : Nat) (samples : List Nat) (s : State) : Host.Outcome State Fault Refusal :=
  s.answerWith (effCaptureWatchFire n samples s)

/-- LEGACY_FRAME_START (R143). -/
def execLegacyFrameStart (n : Nat) (env : List (Int × Int)) (s : State) : Host.Outcome State Fault Refusal :=
  s.answerWith (effLegacyFrameStart n env s)

/-- LEGACY_FRAME_END (R135). -/
def execLegacyFrameEnd (n : Nat) (clipped : Bool) (halves : List ((Int × Int) × (Int × Int))) (s : State) : Host.Outcome State Fault Refusal :=
  s.answerWith (effLegacyFrameEnd n clipped halves s)

/-- CAPTURE_START (R147), numbered by the Arbiter as a command write (R282). -/
def execCaptureStart (n : Nat) (s : State) : Host.Outcome State Fault Refusal := s.answerWith ((effCaptureStart n s).number .host)

/-- CAPTURE_STOP (R147), numbered by the Arbiter as a command write (R282). -/
def execCaptureStop (n : Nat) (samples : List Nat) (s : State) : Host.Outcome State Fault Refusal :=
  s.answerWith ((effCaptureStop n samples s).number .host)

/-- CAPTURE_TRIGGER (R147). -/
def execCaptureTrigger (n trig : Nat) (samples : List Nat) (s : State) : Host.Outcome State Fault Refusal :=
  s.answerWith (effCaptureTrigger n trig samples s)

/-- CAPTURE_DONE (R147). -/
def execCaptureDone (n : Nat) (samples : List Nat) (s : State) : Host.Outcome State Fault Refusal :=
  s.answerWith (effCaptureDone n samples s)

/-- CAPTURE_OVERRUN (R148). -/
def execCaptureOverrun (n : Nat) (samples : List Nat) (s : State) : Host.Outcome State Fault Refusal :=
  s.answerWith (effCaptureOverrun n samples s)

/-- RXC16_ASSIGN (R151), numbered by the Arbiter as a command write (R282). -/
def execRxc16Assign (value : Nat) (s : State) : Host.Outcome State Fault Refusal :=
  s.answerWith ((effRxc16Assign value s).number .host)

/-- RXC16_RELEASE (R151), numbered by the Arbiter as a command write (R282). -/
def execRxc16Release (s : State) : Host.Outcome State Fault Refusal := s.answerWith ((effRxc16Release s).number .host)

/-- REPLY_FRAME (R160). -/
def execReplyFrame (w : Nat) (r : Reply) (s : State) : Host.Outcome State Fault Refusal := s.answerWith (effReplyFrame w r s)

/-- REPLY_WAIT_END (R164). -/
def execReplyWaitEnd (w : Nat) (s : State) : Host.Outcome State Fault Refusal := s.answerWith (effReplyWaitEnd w s)

/-- PRT_ENGINE_MISMATCH (R181). -/
def execPrtEngineMismatch (w : Nat) (s : State) : Host.Outcome State Fault Refusal := s.answerWith (effPrtEngineMismatch w s)

/-- BLITZ_HEADER (R192). -/
def execBlitzHeader (w : Nat) (samples : List Nat) (s : State) : Host.Outcome State Fault Refusal :=
  s.answerWith (effBlitzHeader w samples s)

/-- BLITZ_FRAME_END (R195). -/
def execBlitzFrameEnd (w : Nat) (f : BlitzFrame) (s : State) : Host.Outcome State Fault Refusal :=
  s.answerWith (effBlitzFrameEnd w f s)

/-- LANE_MISMATCH (R215). -/
def execLaneMismatch (w : Nat) (s : State) : Host.Outcome State Fault Refusal := s.answerWith (effLaneMismatch w s)

/-- INV_START (R225), numbered by the Arbiter as a command write (R282). -/
def execInvStart (s : State) : Host.Outcome State Fault Refusal := s.answerWith ((effInvStart s).number .host)

/-- INV_DISCOVER (R227), numbered by the Arbiter as a command write (R282). -/
def execInvDiscover (s : State) : Host.Outcome State Fault Refusal := s.answerWith ((effInvDiscover s).number .host)

/-- INV_STOP (R229), numbered by the Arbiter as a command write (R282). -/
def execInvStop (s : State) : Host.Outcome State Fault Refusal := s.answerWith ((effInvStop s).number .host)

/-- ROUND_LAUNCH (R225). -/
def execRoundLaunch (late : Bool) (s : State) : Host.Outcome State Fault Refusal := s.answerWith (effRoundLaunch late s)

/-- PASS_END (R225). -/
def execPassEnd (s : State) : Host.Outcome State Fault Refusal := s.answerWith (effPassEnd s)

/-- INV_SCHED_MISMATCH (R247). -/
def execInvSchedMismatch (s : State) : Host.Outcome State Fault Refusal := s.answerWith (effInvSchedMismatch s)

/-- SWEEP_START (R232). -/
def execSweepStart (s : State) : Host.Outcome State Fault Refusal := s.answerWith (effSweepStart s)

/-- PING (R233). -/
def execPing (port : Nat) (p : PingResult) (s : State) : Host.Outcome State Fault Refusal := s.answerWith (effPing port p s)

/-- SWEEP_END (R232). -/
def execSweepEnd (s : State) : Host.Outcome State Fault Refusal := s.answerWith (effSweepEnd s)

/-- PEND_HANDOFF (R236). -/
def execPendHandoff (s : State) : Host.Outcome State Fault Refusal := s.answerWith (effPendHandoff s)

/-- KBZ_MISMATCH (R247). -/
def execKbzMismatch (s : State) : Host.Outcome State Fault Refusal := s.answerWith (effKbzMismatch s)

/-- CONTEXT_START (R251), numbered by the Arbiter as a command write (R282). -/
def execContextStart (src : Src) (c : Nat) (s : State) : Host.Outcome State Fault Refusal :=
  s.answerWith ((effContextStart src c s).number src)

/-- CONTEXT_ABORT (R266), numbered by the Arbiter as a command write (R282). -/
def execContextAbort (c : Nat) (s : State) : Host.Outcome State Fault Refusal := s.answerWith ((effContextAbort c s).number .host)

/-- CONTEXT_HALT (R267), numbered by the Arbiter as a command write (R282). -/
def execContextHalt (c : Nat) (s : State) : Host.Outcome State Fault Refusal := s.answerWith ((effContextHalt c s).number .host)

/-- MOVE_FETCH (R253). -/
def execMoveFetch (c : Nat) (s : State) : Host.Outcome State Fault Refusal := s.answerWith (effMoveFetch c s)

/-- WING_CLAIM_GRANT (R259). -/
def execWingClaimGrant (w : Nat) (s : State) : Host.Outcome State Fault Refusal := s.answerWith (effWingClaimGrant w s)

/-- RF_MOVE_LAUNCH (R257). -/
def execRfMoveLaunch (c : Nat) (late : Bool) (s : State) : Host.Outcome State Fault Refusal :=
  s.answerWith (effRfMoveLaunch c late s)

/-- LATE_LIMIT_EXPIRY (R257). -/
def execLateLimitExpiry (c : Nat) (s : State) : Host.Outcome State Fault Refusal := s.answerWith (effLateLimitExpiry c s)

/-- MOVE_COMPLETION (R264). -/
def execMoveCompletion (c : Nat) (s : State) : Host.Outcome State Fault Refusal := s.answerWith (effMoveCompletion c s)

/-- LOCKSTEP_MISMATCH (R269). -/
def execLockstepMismatch (s : State) : Host.Outcome State Fault Refusal := s.answerWith (effLockstepMismatch s)

/-- STOP (R262). -/
def execStop (c : Nat) (s : State) : Host.Outcome State Fault Refusal := s.answerWith (effStop c s)

/-- FIELD (R103). -/
def execField (c : Nat) (h : Launch) (off : Bool) (port : Nat) (s : State) : Host.Outcome State Fault Refusal :=
  s.answerWith (effField c h off port s)

/-- TUNE (R260). -/
def execTune (c : Nat) (h : Launch) (reserve : Bool) (port : Nat) (s : State) : Host.Outcome State Fault Refusal :=
  s.answerWith (effTune c h reserve port s)

/-- SEND (R260). -/
def execSend (c : Nat) (h : Launch) (desc : Nat) (s : State) : Host.Outcome State Fault Refusal :=
  s.answerWith (effSend c h desc s)

/-- LISTEN (R260). -/
def execListen (c : Nat) (h : Launch) (a : ListenArgs) (s : State) : Host.Outcome State Fault Refusal :=
  s.answerWith (effListen c h a s)

/-- XCHG (R260). -/
def execXchg (c : Nat) (h : Launch) (tapEn blitz : Bool) (tapPort desc dest : Nat) (s : State) : Host.Outcome State Fault Refusal :=
  s.answerWith (effXchg c h tapEn blitz tapPort desc dest s)

/-- ANTICOLL (R171). -/
def execAnticoll (c : Nat) (h : Launch) (a : AnticollArgs) (s : State) : Host.Outcome State Fault Refusal :=
  s.answerWith (effAnticoll c h a s)

/-- INVENTORY (R262). -/
def execInventory (c : Nat) (wait : Bool) (action : Nat) (s : State) : Host.Outcome State Fault Refusal :=
  s.answerWith (effInventory c wait action s)

/-- SOUND (R211). -/
def execSound (c : Nat) (h : Launch) (coloured : Bool) (s : State) : Host.Outcome State Fault Refusal :=
  s.answerWith (effSound c h coloured s)

/-- BOOK (R213). -/
def execBook (c : Nat) (h : Launch) (coloured : Bool) (s : State) : Host.Outcome State Fault Refusal :=
  s.answerWith (effBook c h coloured s)

/-- GAMBIT (R204). -/
def execGambit (c : Nat) (h : Launch) (reload : Bool) (s : State) : Host.Outcome State Fault Refusal :=
  s.answerWith (effGambit c h reload s)

/-- SEAL (R241). -/
def execSeal (c : Nat) (h : Launch) (job : Nat) (s : State) : Host.Outcome State Fault Refusal := s.answerWith (effSeal c h job s)

/-- WAIT_ANGLE (R262). -/
def execWaitAngle (c when_ angle : Nat) (s : State) : Host.Outcome State Fault Refusal :=
  s.answerWith (effWaitAngle c when_ angle s)

/-- WAIT_ANGLE_FIRE (R262). -/
def execWaitAngleFire (c : Nat) (late : Bool) (s : State) : Host.Outcome State Fault Refusal :=
  s.answerWith (effWaitAngleFire c late s)

/-- WAIT_EVENT (R262). -/
def execWaitEvent (c ch timeout : Nat) (s : State) : Host.Outcome State Fault Refusal := s.answerWith (effWaitEvent c ch timeout s)

/-- WAIT_EVENT_TIMEOUT (R262). -/
def execWaitEventTimeout (c : Nat) (s : State) : Host.Outcome State Fault Refusal := s.answerWith (effWaitEventTimeout c s)

/-- RAISE (R286). -/
def execRaise (c ch : Nat) (s : State) : Host.Outcome State Fault Refusal := s.answerWith (effRaise c ch s)

/-- BRANCH (R262). -/
def execBranch (c cond imm reg target : Nat) (s : State) : Host.Outcome State Fault Refusal :=
  s.answerWith (effBranch c cond imm reg target s)

/-- CALL (R262). -/
def execCall (c target : Nat) (s : State) : Host.Outcome State Fault Refusal := s.answerWith (effCall c target s)

/-- RETURN (R262). -/
def execRet (c : Nat) (s : State) : Host.Outcome State Fault Refusal := s.answerWith (effRet c s)

/-- LOAD (R262). -/
def execLoad (c : Nat) (imm : Bool) (reg value : Nat) (s : State) : Host.Outcome State Fault Refusal :=
  s.answerWith (effLoad c imm reg value s)

/-- STORE (R262). -/
def execStore (c reg addr : Nat) (s : State) : Host.Outcome State Fault Refusal := s.answerWith (effStore c reg addr s)

/-- COPY (R262). -/
def execCopy (c count src dst : Nat) (s : State) : Host.Outcome State Fault Refusal := s.answerWith (effCopy c count src dst s)

/-- LOG (R262). -/
def execLog (c tag value : Nat) (s : State) : Host.Outcome State Fault Refusal := s.answerWith (effLog c tag value s)

/-- PRODUCER_EVENT (R279). -/
def execProducerEvent (p hop : Nat) (s : State) : Host.Outcome State Fault Refusal := s.answerWith (effProducerEvent p hop s)

/-- CHANNEL_DELIVERY (R279). -/
def execChannelDelivery (ch : Nat) (s : State) : Host.Outcome State Fault Refusal := s.answerWith (effChannelDelivery ch s)

/-- HOST_FIRE (R286), numbered by the Arbiter as a command write (R282). -/
def execHostFire (high : Bool) (mask : Nat) (s : State) : Host.Outcome State Fault Refusal :=
  s.answerWith ((effHostFire high mask s).number .host)

/-- GPIO_EDGE (R288). -/
def execGpioEdge (n : Nat) (rising : Bool) (s : State) : Host.Outcome State Fault Refusal := s.answerWith (effGpioEdge n rising s)

/-- ARB_MISMATCH (R291). -/
def execArbMismatch (second : Bool) (s : State) : Host.Outcome State Fault Refusal := s.answerWith (effArbMismatch second s)

/-- CAL_DUE (R296). -/
def execCalDue (inst : Nat) (s : State) : Host.Outcome State Fault Refusal := s.answerWith (effCalDue inst s)

/-- WING_WINDOW (R297). -/
def execWingWindow (w : Nat) (s : State) : Host.Outcome State Fault Refusal := s.answerWith (effWingWindow w s)

/-- CAL_RUN_END (R300). -/
def execCalRunEnd (inst : Nat) (readings : List Nat) (s : State) : Host.Outcome State Fault Refusal :=
  s.answerWith (effCalRunEnd inst readings s)

/-- CAL_YIELD (R298). -/
def execCalYield (s : State) : Host.Outcome State Fault Refusal := s.answerWith (effCalYield s)

/-- CAL_STARVED (R299). -/
def execCalStarved (inst : Nat) (s : State) : Host.Outcome State Fault Refusal := s.answerWith (effCalStarved inst s)

/-- FORCED_WINDOW (R299). -/
def execForcedWindow (w : Nat) (s : State) : Host.Outcome State Fault Refusal := s.answerWith (effForcedWindow w s)

/-- APPLY_POINT (R303). -/
def execApplyPoint (s : State) : Host.Outcome State Fault Refusal := s.answerWith (effApplyPoint s)

/-- SOLO_APPLY (R303). -/
def execSoloApply (s : State) : Host.Outcome State Fault Refusal := s.answerWith (effSoloApply s)

/-- XB_ARM (R305), numbered by the Arbiter as a command write (R282). -/
def execXbArm (s : State) : Host.Outcome State Fault Refusal := s.answerWith ((effXbArm s).number .host)

/-- XB_MEASUREMENT (R305). -/
def execXbMeasurement (readings : List Nat) (s : State) : Host.Outcome State Fault Refusal :=
  s.answerWith (effXbMeasurement readings s)

/-- XB_PEER (R306), numbered by the Arbiter as a command write (R282). -/
def execXbPeer (phase : Nat) (s : State) : Host.Outcome State Fault Refusal := s.answerWith ((effXbPeer phase s).number .host)

/-- CAL_MISMATCH (R314). -/
def execCalMismatch (s : State) : Host.Outcome State Fault Refusal := s.answerWith (effCalMismatch s)

/-- SCO_MOUNT (R312). -/
def execScoMount (sectors : List SectorScan) (s : State) : Host.Outcome State Fault Refusal := s.answerWith (effScoMount sectors s)

/-- REMOUNT (R312), numbered by the Arbiter as a command write (R282). -/
def execRemount (sectors : List SectorScan) (s : State) : Host.Outcome State Fault Refusal :=
  s.answerWith ((effRemount sectors s).number .host)

/-- FORMAT (R312), numbered by the Arbiter as a command write (R282). -/
def execFormat (s : State) : Host.Outcome State Fault Refusal := s.answerWith ((effFormat s).number .host)

/-- TEL_NOW (R309), numbered by the Arbiter as a command write (R282). -/
def execTelNow (t : TelReading) (s : State) : Host.Outcome State Fault Refusal := s.answerWith ((effTelNow t s).number .host)

/-- TELEMETRY_TIMER (R309). -/
def execTelemetryTimer (t : TelReading) (s : State) : Host.Outcome State Fault Refusal := s.answerWith (effTelemetryTimer t s)

/-- RECORD_PROGRAMMED (R310). -/
def execRecordProgrammed (ok : Bool) (s : State) : Host.Outcome State Fault Refusal := s.answerWith (effRecordProgrammed ok s)

/-- SECTOR_ERASED (R310). -/
def execSectorErased (ok : Bool) (s : State) : Host.Outcome State Fault Refusal := s.answerWith (effSectorErased ok s)

/-- SRAM_READ (R320). -/
def execSramRead (addr : Nat) (s : State) : Host.Outcome State Fault Refusal := s.answerWith (effSramRead addr s)

/-- SRAM_WRITE (R321). -/
def execSramWrite (addr value : Nat) (s : State) : Host.Outcome State Fault Refusal := s.answerWith (effSramWrite addr value s)

/-- CODEC_MISMATCH (R327). -/
def execCodecMismatch (addr : Nat) (s : State) : Host.Outcome State Fault Refusal := s.answerWith (effCodecMismatch addr s)

/-- SCRUB_LINE (R329). -/
def execScrubLine (s : State) : Host.Outcome State Fault Refusal := s.answerWith (effScrubLine s)

/-- SCB_PERIOD_WRITE (R329). -/
def execScbPeriodWrite (value : Nat) (s : State) : Host.Outcome State Fault Refusal := s.answerWith (effScbPeriodWrite value s)

/-- SCRUB_SEQ_MISMATCH (R330). -/
def execScrubSeqMismatch (s : State) : Host.Outcome State Fault Refusal := s.answerWith (effScrubSeqMismatch s)

/-- MEM_SELF_TEST (R332). -/
def execMemSelfTest (fails : Nat) (s : State) : Host.Outcome State Fault Refusal := s.answerWith (effMemSelfTest fails s)

/-- BANK_ZEROING (R334). -/
def execBankZeroing (s : State) : Host.Outcome State Fault Refusal := s.answerWith (effBankZeroing s)

/-- BIST_GO (R334), numbered by the Arbiter as a command write (R282). -/
def execBistGo (s : State) : Host.Outcome State Fault Refusal := s.answerWith ((effBistGo s).number .host)

/-- INJ_GO (R335), numbered by the Arbiter as a command write (R282). -/
def execInjGo (s : State) : Host.Outcome State Fault Refusal := s.answerWith ((effInjGo s).number .host)

/-- INJ_RAW (R335), numbered by the Arbiter as a command write (R282). -/
def execInjRaw (s : State) : Host.Outcome State Fault Refusal := s.answerWith ((effInjRaw s).number .host)

/-- MEM_WINDOW_READ (R328). -/
def execMemWindowRead (k : Nat) (s : State) : Host.Outcome State Fault Refusal := s.answerWith (effMemWindowRead k s)

/-- MEM_WINDOW_WRITE (R328). -/
def execMemWindowWrite (k value : Nat) (s : State) : Host.Outcome State Fault Refusal := s.answerWith (effMemWindowWrite k value s)

/-- CKU_START (R337), numbered by the Arbiter as a command write (R282). -/
def execCkuStart (n : Nat) (s : State) : Host.Outcome State Fault Refusal := s.answerWith ((effCkuStart n s).number .host)

/-- CKU_DATA (R337), numbered by the Arbiter as a command write (R282). -/
def execCkuData (n m value : Nat) (poison : Bool) (s : State) : Host.Outcome State Fault Refusal :=
  s.answerWith ((effCkuData n m value poison s).number .host)

/-- CKU_END (R338), numbered by the Arbiter as a command write (R282). -/
def execCkuEnd (n : Nat) (s : State) : Host.Outcome State Fault Refusal := s.answerWith ((effCkuEnd n s).number .host)

/-- CKU_RUN_WRITE (R341). -/
def execCkuRunWrite (n value : Nat) (s : State) : Host.Outcome State Fault Refusal := s.answerWith (effCkuRunWrite n value s)

/-- CKU_LOGIC_MISMATCH (R341). -/
def execCkuLogicMismatch (n : Nat) (s : State) : Host.Outcome State Fault Refusal := s.answerWith (effCkuLogicMismatch n s)

/-- HOST_READ (R356). -/
def execHostRead (board page off count : Nat) (late : List Nat) (enumi : Bool) (s : State) : Host.Outcome State Fault Refusal :=
  s.answerWith (effHostRead board page off count late enumi s)

/-- HOST_WRITE (R357). -/
def execHostWrite (f : WriteFrame) (s : State) : Host.Outcome State Fault Refusal := s.answerWith (effHostWrite f s)

/-- STATUS (R367). -/
def execStatus (board : Nat) (enumi : Bool) (s : State) : Host.Outcome State Fault Refusal :=
  s.answerWith (effStatus board enumi s)

/-- RESIGN_FRAME (R367). -/
def execResignFrame (board : Nat) (enumi : Bool) (s : State) : Host.Outcome State Fault Refusal :=
  s.answerWith (effResignFrame board enumi s)

/-- SDR_RESET_PULSE (R347). -/
def execSdrResetPulse (s : State) : Host.Outcome State Fault Refusal := s.answerWith (effSdrResetPulse s)

/-- RUNT (R361). -/
def execRunt (ddr otherBoard : Bool) (bytes : Nat) (s : State) : Host.Outcome State Fault Refusal :=
  s.answerWith (effRunt ddr otherBoard bytes s)

/-- CLK_NO_SEL (R361). -/
def execClkNoSel (s : State) : Host.Outcome State Fault Refusal := s.answerWith (effClkNoSel s)

/-- RPT_PUSH (R363), numbered by the Arbiter as a command write (R282). -/
def execRptPush (value : Nat) (s : State) : Host.Outcome State Fault Refusal := s.answerWith ((effRptPush value s).number .host)

/-- RPT_POP (R363). -/
def execRptPop (s : State) : Host.Outcome State Fault Refusal := s.answerWith (effRptPop s)

/-- REPORT_UNIT (R365). -/
def execReportUnit (s : State) : Host.Outcome State Fault Refusal := s.answerWith (effReportUnit s)

/-- REPORT_UNIT_END (R365). -/
def execReportUnitEnd (s : State) : Host.Outcome State Fault Refusal := s.answerWith (effReportUnitEnd s)

/-- MASTER_COLLISION (R366). -/
def execMasterCollision (s : State) : Host.Outcome State Fault Refusal := s.answerWith (effMasterCollision s)

/-- DECODER_MISMATCH (R368). -/
def execDecoderMismatch (s : State) : Host.Outcome State Fault Refusal := s.answerWith (effDecoderMismatch s)

/-- XMP_DISCOVERY (R374). -/
def execXmpDiscovery (s : State) : Host.Outcome State Fault Refusal := s.answerWith (effXmpDiscovery s)

/-- DISCOVERY_END (R374). -/
def execDiscoveryEnd (devs : List FlashDev) (s : State) : Host.Outcome State Fault Refusal := s.answerWith (effDiscoveryEnd devs s)

/-- LINE_FETCH (R377). -/
def execLineFetch (line : Nat) (data : List Nat) (ok : Bool) (s : State) : Host.Outcome State Fault Refusal :=
  s.answerWith (effLineFetch line data ok s)

/-- PAGE_PROGRAM (R380). -/
def execPageProgram (dev : Nat) (ok : Bool) (s : State) : Host.Outcome State Fault Refusal :=
  s.answerWith (effPageProgram dev ok s)

/-- XMP_ERASE (R383), numbered by the Arbiter as a command write (R282). -/
def execXmpErase (s : State) : Host.Outcome State Fault Refusal := s.answerWith ((effXmpErase s).number .host)

/-- ERASE_COMPLETE (R383). -/
def execEraseComplete (dev : Nat) (ok : Bool) (s : State) : Host.Outcome State Fault Refusal :=
  s.answerWith (effEraseComplete dev ok s)

/-- XMP_WINDOW_READ (R377). -/
def execXmpWindowRead (k : Nat) (s : State) : Host.Outcome State Fault Refusal := s.answerWith (effXmpWindowRead k s)

/-- XMP_WINDOW_WRITE (R380). -/
def execXmpWindowWrite (k value : Nat) (s : State) : Host.Outcome State Fault Refusal := s.answerWith (effXmpWindowWrite k value s)

/-- XMP_MISMATCH (R385). -/
def execXmpMismatch (s : State) : Host.Outcome State Fault Refusal := s.answerWith (effXmpMismatch s)

/-- MODE_REQ (R390), numbered by the Arbiter as a command write (R282). -/
def execModeReq (src : Src) (mode : Nat) (s : State) : Host.Outcome State Fault Refusal :=
  s.answerWith ((effModeReq src mode s).number src)

/-- ENTRY_DONE (R390). -/
def execEntryDone (s : State) : Host.Outcome State Fault Refusal := s.answerWith (effEntryDone s)

/-- WAKE_SOURCE (R391). -/
def execWakeSource (cause : Nat) (s : State) : Host.Outcome State Fault Refusal := s.answerWith (effWakeSource cause s)

/-- WAKE_COMPLETE (R392). -/
def execWakeComplete (s : State) : Host.Outcome State Fault Refusal := s.answerWith (effWakeComplete s)

/-- PMBUS_TRANSACTION (R394). -/
def execPmbusTransaction (rail cmd : Nat) (outcome : PmbOutcome) (s : State) : Host.Outcome State Fault Refusal :=
  s.answerWith (effPmbusTransaction rail cmd outcome s)

/-- RAIL_ATTEMPT_TIMEOUT (R395). -/
def execRailAttemptTimeout (rail : Nat) (s : State) : Host.Outcome State Fault Refusal :=
  s.answerWith (effRailAttemptTimeout rail s)

/-- POWER_GOOD_LOST (R396). -/
def execPowerGoodLost (rail : Nat) (s : State) : Host.Outcome State Fault Refusal := s.answerWith (effPowerGoodLost rail s)

/-- SAFE_REQUEST_DONE (R397). -/
def execSafeRequestDone (s : State) : Host.Outcome State Fault Refusal := s.answerWith (effSafeRequestDone s)

/-- REFERENCE_CHECK_PASSED (R398). -/
def execReferenceCheckPassed (s : State) : Host.Outcome State Fault Refusal := s.answerWith (effReferenceCheckPassed s)

/-- SYN_LOCK (R398). -/
def execSynLock (s : State) : Host.Outcome State Fault Refusal := s.answerWith (effSynLock s)

/-- XTAL_TIMEOUT (R399). -/
def execXtalTimeout (s : State) : Host.Outcome State Fault Refusal := s.answerWith (effXtalTimeout s)

/-- REFERENCE_LOSS (R400). -/
def execReferenceLoss (s : State) : Host.Outcome State Fault Refusal := s.answerWith (effReferenceLoss s)

/-- CLK_RESTORE (R400), numbered by the Arbiter as a command write (R282). -/
def execClkRestore (s : State) : Host.Outcome State Fault Refusal := s.answerWith ((effClkRestore s).number .host)

/-- SYN_UNLOCK (R400). -/
def execSynUnlock (s : State) : Host.Outcome State Fault Refusal := s.answerWith (effSynUnlock s)

/-- CLK_DISABLE (R398), numbered by the Arbiter as a command write (R282). -/
def execClkDisable (s : State) : Host.Outcome State Fault Refusal := s.answerWith ((effClkDisable s).number .host)

/-- POWER_ON_RESET (R401). -/
def execPowerOnReset (s : State) : Host.Outcome State Fault Refusal := s.answerWith (effPowerOnReset s)

/-- RESET_N (R401). -/
def execResetN (s : State) : Host.Outcome State Fault Refusal := s.answerWith (effResetN s)

/-- CHIP_RESET (R401), numbered by the Arbiter as a command write (R282). -/
def execChipReset (value : Nat) (s : State) : Host.Outcome State Fault Refusal :=
  s.answerWith ((effChipReset value s).number .host)

/-- THERMAL_READING (R404). -/
def execThermalReading (tj : Nat) (s : State) : Host.Outcome State Fault Refusal := s.answerWith (effThermalReading tj s)

/-- SUPPLY_MONITOR_FAULT (R412). -/
def execSupplyMonitorFault (unit : Nat) (s : State) : Host.Outcome State Fault Refusal :=
  s.answerWith (effSupplyMonitorFault unit s)

/-- CCLK_STOP (R412). -/
def execCclkStop (s : State) : Host.Outcome State Fault Refusal := s.answerWith (effCclkStop s)

/-- FAULT_MANAGER_MISMATCH (R414). -/
def execFaultManagerMismatch (s : State) : Host.Outcome State Fault Refusal := s.answerWith (effFaultManagerMismatch s)

/-- RESIGN_N_LOW (R417). -/
def execResignNLow (s : State) : Host.Outcome State Fault Refusal := s.answerWith (effResignNLow s)

/-- RESIGN_RAMP_END (R418). -/
def execResignRampEnd (s : State) : Host.Outcome State Fault Refusal := s.answerWith (effResignRampEnd s)

/-- RESIGN_RELEASE (R420), numbered by the Arbiter as a command write (R282). -/
def execResignRelease (value : Nat) (s : State) : Host.Outcome State Fault Refusal :=
  s.answerWith ((effResignRelease value s).number .host)

/-- TST_ARM (R422), numbered by the Arbiter as a command write (R282). -/
def execTstArm (key : Nat) (s : State) : Host.Outcome State Fault Refusal := s.answerWith ((effTstArm key s).number .host)

/-- TST_ARM_EXPIRY (R422). -/
def execTstArmExpiry (s : State) : Host.Outcome State Fault Refusal := s.answerWith (effTstArmExpiry s)

/-- TST_INJECT (R423), numbered by the Arbiter as a command write (R282). -/
def execTstInject (unit inst : Nat) (s : State) : Host.Outcome State Fault Refusal :=
  s.answerWith ((effTstInject unit inst s).number .host)

/-- INJECTION_OUTCOME_TIMEOUT (R424). -/
def execInjectionOutcomeTimeout (s : State) : Host.Outcome State Fault Refusal := s.answerWith (effInjectionOutcomeTimeout s)

/-- JTAG_INSTRUCTION (R450). -/
def execJtagInstruction (code : Nat) (s : State) : Host.Outcome State Fault Refusal := s.answerWith (effJtagInstruction code s)

/-- VOID_CELL (R72). -/
def execVoidCell (c : CellHead) (s : State) : Host.Outcome State Fault Refusal := s.answerWith (effVoidCell c s)

/-- BAD_OPCODE (R354). -/
def execBadOpcode (board op page off bytes : Nat) (enumi : Bool) (s : State) : Host.Outcome State Fault Refusal :=
  s.answerWith (effBadOpcode board op page off bytes enumi s)

/-- TRST_N (R401). -/
def execTrstN (s : State) : Host.Outcome State Fault Refusal := s.answerWith (effTrstN s)

end Sys2Proof.Machine
end

