-- ==== Sys2Proof/Machine/Dispatch.lean ====
section
/-! DEFINITION. One arm per command: its meaning, or a rejection by name. -/

namespace Sys2Proof.Machine

open Sys2Proof

def exec (i : Instr) (s : State) : Host.Outcome State Fault Refusal :=
  match i with
  | .registerWrite src page off value poison => Sys2Proof.Machine.execRegisterWrite src page off value poison s
  | .softReset page => Sys2Proof.Machine.execSoftReset page s
  | .ctrlEnableWrite page on => Sys2Proof.Machine.execCtrlEnableWrite page on s
  | .lockWrite page => Sys2Proof.Machine.execLockWrite page s
  | .configWatchVisit upsetOff upsetMask => Sys2Proof.Machine.execConfigWatchVisit upsetOff upsetMask s
  | .angEnable => Sys2Proof.Machine.execAngEnable s
  | .angDisable => Sys2Proof.Machine.execAngDisable s
  | .syncInEdge => Sys2Proof.Machine.execSyncInEdge s
  | .edgeWindowClose => Sys2Proof.Machine.execEdgeWindowClose s
  | .cycleBoundary => Sys2Proof.Machine.execCycleBoundary s
  | .virtualCycleEnd => Sys2Proof.Machine.execVirtualCycleEnd s
  | .vperiodWrite value => Sys2Proof.Machine.execVperiodWrite value s
  | .alarmFire n late => Sys2Proof.Machine.execAlarmFire n late s
  | .syncOutPulse => Sys2Proof.Machine.execSyncOutPulse s
  | .syncOutPulseEnd => Sys2Proof.Machine.execSyncOutPulseEnd s
  | .accumulatorMismatch second => Sys2Proof.Machine.execAccumulatorMismatch second s
  | .roleDecision mclkToggles => Sys2Proof.Machine.execRoleDecision mclkToggles s
  | .idleCell c angle => Sys2Proof.Machine.execIdleCell c angle s
  | .rateCell c boundary rate => Sys2Proof.Machine.execRateCell c boundary rate s
  | .stateCell c tag count => Sys2Proof.Machine.execStateCell c tag count s
  | .countCell c count => Sys2Proof.Machine.execCountCell c count s
  | .rangeStartCell c => Sys2Proof.Machine.execRangeStartCell c s
  | .rangeResultCell c value => Sys2Proof.Machine.execRangeResultCell c value s
  | .helloCell c position => Sys2Proof.Machine.execHelloCell c position s
  | .launchCell c token angle => Sys2Proof.Machine.execLaunchCell c token angle s
  | .eventCell c channel hop angle => Sys2Proof.Machine.execEventCell c channel hop angle s
  | .reportCell c => Sys2Proof.Machine.execReportCell c s
  | .badCell word => Sys2Proof.Machine.execBadCell word s
  | .cellResend type => Sys2Proof.Machine.execCellResend type s
  | .countTimeout => Sys2Proof.Machine.execCountTimeout s
  | .discover => Sys2Proof.Machine.execDiscover s
  | .range => Sys2Proof.Machine.execRange s
  | .echoWindowEnd roundTrips => Sys2Proof.Machine.execEchoWindowEnd roundTrips s
  | .boardNum value broadcast enumi => Sys2Proof.Machine.execBoardNum value broadcast enumi s
  | .postToken token => Sys2Proof.Machine.execPostToken token s
  | .lslotFire slot late => Sys2Proof.Machine.execLslotFire slot late s
  | .chainLinkedDelivery ch angle => Sys2Proof.Machine.execChainLinkedDelivery ch angle s
  | .tokenHoldLimit => Sys2Proof.Machine.execTokenHoldLimit s
  | .reportTokenTimeout => Sys2Proof.Machine.execReportTokenTimeout s
  | .chainAngleLost mclk => Sys2Proof.Machine.execChainAngleLost mclk s
  | .switchReadbackFault port => Sys2Proof.Machine.execSwitchReadbackFault port s
  | .tuneWrite src port value => Sys2Proof.Machine.execTuneWrite src port value s
  | .atuneStart n => Sys2Proof.Machine.execAtuneStart n s
  | .atuneComplete n gammas => Sys2Proof.Machine.execAtuneComplete n gammas s
  | .fieldLaunch n => Sys2Proof.Machine.execFieldLaunch n s
  | .plateau n => Sys2Proof.Machine.execPlateau n s
  | .settleEnd n => Sys2Proof.Machine.execSettleEnd n s
  | .rampDownEnd n => Sys2Proof.Machine.execRampDownEnd n s
  | .monitorMean n fwd refl sq => Sys2Proof.Machine.execMonitorMean n fwd refl sq s
  | .paOvercurrent n => Sys2Proof.Machine.execPaOvercurrent n s
  | .txcControlMismatch n => Sys2Proof.Machine.execTxcControlMismatch n s
  | .txc8Assign value => Sys2Proof.Machine.execTxc8Assign value s
  | .txc8Release => Sys2Proof.Machine.execTxc8Release s
  | .railLowering rail => Sys2Proof.Machine.execRailLowering rail s
  | .railAck rail => Sys2Proof.Machine.execRailAck rail s
  | .tapReadbackFault n => Sys2Proof.Machine.execTapReadbackFault n s
  | .leakConverged n re im residual => Sys2Proof.Machine.execLeakConverged n re im residual s
  | .checkToneBlock n amp phase => Sys2Proof.Machine.execCheckToneBlock n amp phase s
  | .rxcControlMismatch n => Sys2Proof.Machine.execRxcControlMismatch n s
  | .agcBlock n samples => Sys2Proof.Machine.execAgcBlock n samples s
  | .preambleDetect n samples => Sys2Proof.Machine.execPreambleDetect n samples s
  | .fineTimingDecision n samples => Sys2Proof.Machine.execFineTimingDecision n samples s
  | .captureWatchFire n samples => Sys2Proof.Machine.execCaptureWatchFire n samples s
  | .legacyFrameStart n env => Sys2Proof.Machine.execLegacyFrameStart n env s
  | .legacyFrameEnd n clipped halves => Sys2Proof.Machine.execLegacyFrameEnd n clipped halves s
  | .captureStart n => Sys2Proof.Machine.execCaptureStart n s
  | .captureStop n samples => Sys2Proof.Machine.execCaptureStop n samples s
  | .captureTrigger n trig samples => Sys2Proof.Machine.execCaptureTrigger n trig samples s
  | .captureDone n samples => Sys2Proof.Machine.execCaptureDone n samples s
  | .captureOverrun n samples => Sys2Proof.Machine.execCaptureOverrun n samples s
  | .rxc16Assign value => Sys2Proof.Machine.execRxc16Assign value s
  | .rxc16Release => Sys2Proof.Machine.execRxc16Release s
  | .replyFrame w r => Sys2Proof.Machine.execReplyFrame w r s
  | .replyWaitEnd w => Sys2Proof.Machine.execReplyWaitEnd w s
  | .prtEngineMismatch w => Sys2Proof.Machine.execPrtEngineMismatch w s
  | .blitzHeader w samples => Sys2Proof.Machine.execBlitzHeader w samples s
  | .blitzFrameEnd w f => Sys2Proof.Machine.execBlitzFrameEnd w f s
  | .laneMismatch w => Sys2Proof.Machine.execLaneMismatch w s
  | .invStart => Sys2Proof.Machine.execInvStart s
  | .invDiscover => Sys2Proof.Machine.execInvDiscover s
  | .invStop => Sys2Proof.Machine.execInvStop s
  | .roundLaunch late => Sys2Proof.Machine.execRoundLaunch late s
  | .passEnd => Sys2Proof.Machine.execPassEnd s
  | .invSchedMismatch => Sys2Proof.Machine.execInvSchedMismatch s
  | .sweepStart => Sys2Proof.Machine.execSweepStart s
  | .ping port p => Sys2Proof.Machine.execPing port p s
  | .sweepEnd => Sys2Proof.Machine.execSweepEnd s
  | .pendHandoff => Sys2Proof.Machine.execPendHandoff s
  | .kbzMismatch => Sys2Proof.Machine.execKbzMismatch s
  | .contextStart src c => Sys2Proof.Machine.execContextStart src c s
  | .contextAbort c => Sys2Proof.Machine.execContextAbort c s
  | .contextHalt c => Sys2Proof.Machine.execContextHalt c s
  | .moveFetch c => Sys2Proof.Machine.execMoveFetch c s
  | .wingClaimGrant w => Sys2Proof.Machine.execWingClaimGrant w s
  | .rfMoveLaunch c late => Sys2Proof.Machine.execRfMoveLaunch c late s
  | .lateLimitExpiry c => Sys2Proof.Machine.execLateLimitExpiry c s
  | .moveCompletion c => Sys2Proof.Machine.execMoveCompletion c s
  | .lockstepMismatch => Sys2Proof.Machine.execLockstepMismatch s
  | .stop c => Sys2Proof.Machine.execStop c s
  | .field c h off port => Sys2Proof.Machine.execField c h off port s
  | .tune c h reserve port => Sys2Proof.Machine.execTune c h reserve port s
  | .send c h desc => Sys2Proof.Machine.execSend c h desc s
  | .listen c h a => Sys2Proof.Machine.execListen c h a s
  | .xchg c h tapEn blitz tapPort desc dest => Sys2Proof.Machine.execXchg c h tapEn blitz tapPort desc dest s
  | .anticoll c h a => Sys2Proof.Machine.execAnticoll c h a s
  | .inventory c wait action => Sys2Proof.Machine.execInventory c wait action s
  | .sound c h coloured => Sys2Proof.Machine.execSound c h coloured s
  | .book c h coloured => Sys2Proof.Machine.execBook c h coloured s
  | .gambit c h reload => Sys2Proof.Machine.execGambit c h reload s
  | .seal c h job => Sys2Proof.Machine.execSeal c h job s
  | .waitAngle c when_ angle => Sys2Proof.Machine.execWaitAngle c when_ angle s
  | .waitAngleFire c late => Sys2Proof.Machine.execWaitAngleFire c late s
  | .waitEvent c ch timeout => Sys2Proof.Machine.execWaitEvent c ch timeout s
  | .waitEventTimeout c => Sys2Proof.Machine.execWaitEventTimeout c s
  | .raise c ch => Sys2Proof.Machine.execRaise c ch s
  | .branch c cond imm reg target => Sys2Proof.Machine.execBranch c cond imm reg target s
  | .call c target => Sys2Proof.Machine.execCall c target s
  | .ret c => Sys2Proof.Machine.execRet c s
  | .load c imm reg value => Sys2Proof.Machine.execLoad c imm reg value s
  | .store c reg addr => Sys2Proof.Machine.execStore c reg addr s
  | .copy c count src dst => Sys2Proof.Machine.execCopy c count src dst s
  | .log c tag value => Sys2Proof.Machine.execLog c tag value s
  | .producerEvent p hop => Sys2Proof.Machine.execProducerEvent p hop s
  | .channelDelivery ch => Sys2Proof.Machine.execChannelDelivery ch s
  | .hostFire high mask => Sys2Proof.Machine.execHostFire high mask s
  | .gpioEdge n rising => Sys2Proof.Machine.execGpioEdge n rising s
  | .arbMismatch second => Sys2Proof.Machine.execArbMismatch second s
  | .calDue inst => Sys2Proof.Machine.execCalDue inst s
  | .wingWindow w => Sys2Proof.Machine.execWingWindow w s
  | .calRunEnd inst readings => Sys2Proof.Machine.execCalRunEnd inst readings s
  | .calYield => Sys2Proof.Machine.execCalYield s
  | .calStarved inst => Sys2Proof.Machine.execCalStarved inst s
  | .forcedWindow w => Sys2Proof.Machine.execForcedWindow w s
  | .applyPoint => Sys2Proof.Machine.execApplyPoint s
  | .soloApply => Sys2Proof.Machine.execSoloApply s
  | .xbArm => Sys2Proof.Machine.execXbArm s
  | .xbMeasurement readings => Sys2Proof.Machine.execXbMeasurement readings s
  | .xbPeer phase => Sys2Proof.Machine.execXbPeer phase s
  | .calMismatch => Sys2Proof.Machine.execCalMismatch s
  | .scoMount sectors => Sys2Proof.Machine.execScoMount sectors s
  | .remount sectors => Sys2Proof.Machine.execRemount sectors s
  | .format => Sys2Proof.Machine.execFormat s
  | .telNow t => Sys2Proof.Machine.execTelNow t s
  | .telemetryTimer t => Sys2Proof.Machine.execTelemetryTimer t s
  | .recordProgrammed ok => Sys2Proof.Machine.execRecordProgrammed ok s
  | .sectorErased ok => Sys2Proof.Machine.execSectorErased ok s
  | .sramRead addr => Sys2Proof.Machine.execSramRead addr s
  | .sramWrite addr value => Sys2Proof.Machine.execSramWrite addr value s
  | .codecMismatch addr => Sys2Proof.Machine.execCodecMismatch addr s
  | .scrubLine => Sys2Proof.Machine.execScrubLine s
  | .scbPeriodWrite value => Sys2Proof.Machine.execScbPeriodWrite value s
  | .scrubSeqMismatch => Sys2Proof.Machine.execScrubSeqMismatch s
  | .memSelfTest fails => Sys2Proof.Machine.execMemSelfTest fails s
  | .bankZeroing => Sys2Proof.Machine.execBankZeroing s
  | .bistGo => Sys2Proof.Machine.execBistGo s
  | .injGo => Sys2Proof.Machine.execInjGo s
  | .injRaw => Sys2Proof.Machine.execInjRaw s
  | .memWindowRead k => Sys2Proof.Machine.execMemWindowRead k s
  | .memWindowWrite k value => Sys2Proof.Machine.execMemWindowWrite k value s
  | .ckuStart n => Sys2Proof.Machine.execCkuStart n s
  | .ckuData n m value poison => Sys2Proof.Machine.execCkuData n m value poison s
  | .ckuEnd n => Sys2Proof.Machine.execCkuEnd n s
  | .ckuRunWrite n value => Sys2Proof.Machine.execCkuRunWrite n value s
  | .ckuLogicMismatch n => Sys2Proof.Machine.execCkuLogicMismatch n s
  | .hostRead board page off count late enumi => Sys2Proof.Machine.execHostRead board page off count late enumi s
  | .hostWrite f => Sys2Proof.Machine.execHostWrite f s
  | .status board enumi => Sys2Proof.Machine.execStatus board enumi s
  | .resignFrame board enumi => Sys2Proof.Machine.execResignFrame board enumi s
  | .sdrResetPulse => Sys2Proof.Machine.execSdrResetPulse s
  | .runt ddr otherBoard bytes => Sys2Proof.Machine.execRunt ddr otherBoard bytes s
  | .clkNoSel => Sys2Proof.Machine.execClkNoSel s
  | .rptPush value => Sys2Proof.Machine.execRptPush value s
  | .rptPop => Sys2Proof.Machine.execRptPop s
  | .reportUnit => Sys2Proof.Machine.execReportUnit s
  | .reportUnitEnd => Sys2Proof.Machine.execReportUnitEnd s
  | .masterCollision => Sys2Proof.Machine.execMasterCollision s
  | .decoderMismatch => Sys2Proof.Machine.execDecoderMismatch s
  | .xmpDiscovery => Sys2Proof.Machine.execXmpDiscovery s
  | .discoveryEnd devs => Sys2Proof.Machine.execDiscoveryEnd devs s
  | .lineFetch line data ok => Sys2Proof.Machine.execLineFetch line data ok s
  | .pageProgram dev ok => Sys2Proof.Machine.execPageProgram dev ok s
  | .xmpErase => Sys2Proof.Machine.execXmpErase s
  | .eraseComplete dev ok => Sys2Proof.Machine.execEraseComplete dev ok s
  | .xmpWindowRead k => Sys2Proof.Machine.execXmpWindowRead k s
  | .xmpWindowWrite k value => Sys2Proof.Machine.execXmpWindowWrite k value s
  | .xmpMismatch => Sys2Proof.Machine.execXmpMismatch s
  | .modeReq src mode => Sys2Proof.Machine.execModeReq src mode s
  | .entryDone => Sys2Proof.Machine.execEntryDone s
  | .wakeSource cause => Sys2Proof.Machine.execWakeSource cause s
  | .wakeComplete => Sys2Proof.Machine.execWakeComplete s
  | .pmbusTransaction rail cmd outcome => Sys2Proof.Machine.execPmbusTransaction rail cmd outcome s
  | .railAttemptTimeout rail => Sys2Proof.Machine.execRailAttemptTimeout rail s
  | .powerGoodLost rail => Sys2Proof.Machine.execPowerGoodLost rail s
  | .safeRequestDone => Sys2Proof.Machine.execSafeRequestDone s
  | .referenceCheckPassed => Sys2Proof.Machine.execReferenceCheckPassed s
  | .synLock => Sys2Proof.Machine.execSynLock s
  | .xtalTimeout => Sys2Proof.Machine.execXtalTimeout s
  | .referenceLoss => Sys2Proof.Machine.execReferenceLoss s
  | .clkRestore => Sys2Proof.Machine.execClkRestore s
  | .synUnlock => Sys2Proof.Machine.execSynUnlock s
  | .clkDisable => Sys2Proof.Machine.execClkDisable s
  | .powerOnReset => Sys2Proof.Machine.execPowerOnReset s
  | .resetN => Sys2Proof.Machine.execResetN s
  | .chipReset value => Sys2Proof.Machine.execChipReset value s
  | .thermalReading tj => Sys2Proof.Machine.execThermalReading tj s
  | .supplyMonitorFault unit => Sys2Proof.Machine.execSupplyMonitorFault unit s
  | .cclkStop => Sys2Proof.Machine.execCclkStop s
  | .faultManagerMismatch => Sys2Proof.Machine.execFaultManagerMismatch s
  | .resignNLow => Sys2Proof.Machine.execResignNLow s
  | .resignRampEnd => Sys2Proof.Machine.execResignRampEnd s
  | .resignRelease value => Sys2Proof.Machine.execResignRelease value s
  | .tstArm key => Sys2Proof.Machine.execTstArm key s
  | .tstArmExpiry => Sys2Proof.Machine.execTstArmExpiry s
  | .tstInject unit inst => Sys2Proof.Machine.execTstInject unit inst s
  | .injectionOutcomeTimeout => Sys2Proof.Machine.execInjectionOutcomeTimeout s
  | .jtagInstruction code => Sys2Proof.Machine.execJtagInstruction code s
  | .voidCell c => Sys2Proof.Machine.execVoidCell c s
  | .badOpcode board op page off bytes enumi => Sys2Proof.Machine.execBadOpcode board op page off bytes enumi s
  | .trstN => Sys2Proof.Machine.execTrstN s

end Sys2Proof.Machine
end

