-- ==== Sys2Proof/Machine/Time.lean ====
section
/-! DEFINITION. The Board's own time (DESIGN CHOICE, assumption 13): with no command waiting, timed steps that the table
does not name are taken, happenings that are due join the queue, and otherwise one CCLK passes. -/

namespace Sys2Proof.Machine

open Sys2Proof

/-- In HOLD the clock is gated off the CORE blocks and what they have due waits (R389). -/
def State.gated (s : State) : Bool := s.coreUp && !s.coreRuns

/-- A happening on the agenda is due and not held back. -/
def State.isDueNow (s : State) (e : Nat × Instr) : Bool := decide (e.1 ≤ s.now) && (aonInstr e.2 || !s.gated)

/-- Forwarding on the Match chain and the head's stream run in HOLD too (R69). -/
def chainTm : Tm → Bool
  | .slotOut _ _ => true
  | .cellSlot => true
  | _ => false

/-- A timed step is due and not held back. -/
def State.timerDue (s : State) (t : Nat × Tm) : Bool := decide (t.1 ≤ s.now) && (aonTm t.2 || chainTm t.2 || !s.gated)

/-- A timed step is taken. -/
def State.runTimer (s : State) (t : Tm) : State :=
  match t with
  | .rxServe => s.rxServe
  | .rxReady => s.rxReady
  | .soundSend w => s.soundSend w
  | .lockstep => s.lockRecovered
  | .xbOff => s.xbOff
  | .calCut => s.calCut
  | .resignHigh => { s with pins := { s.pins with resignLow := false } }
  | .entryHalt => s.entryHalt
  | .supplyBack u => s.supplyBack u
  | .tstMark unit inst seq => s.tstMark unit inst seq
  | .softDone page => s.softDone page
  | .slotOut c free => s.slotOut c free
  | .cellSlot => s.cellSlot
  | .rangeEnd => s.rangeEnd
  | .levelStep n => s.levelStep n
  | .scanStep n => s.scanStep n
  | .txServe => s.takeoverStep
  | .kbzStop => s.kbzStop
  | .frameStart w => s.frameStart w
  | .frameOut w => s.frameOut w
  | .askCheck n => s.askCheck n
  | .askDiff n m => s.askDiff n m
  | .tapOpen n => s.tapOpen n
  | .capArm n => s.capArm n
  | .simulAt => s.simulAt
  | .xbTap n port => s.selectTap n port
  | .xrstHigh => s.withXmp fun x => { x with xrst := true }

/-- DEV.UPTIME counts milliseconds, one in 216,960 CCLK (R309, R401). -/
def State.tickUptime (s : State) : State := if s.now % ms = 0 then s.incMod pDEV DEV.UPTIME_MS else s

/-- One CCLK passes: the angle advances (R40), AON counts the time. -/
def State.tick (s : State) : State := ({ s with now := s.now + 1 } : State).tickUptime.tickAngle

/-- The Arbiter's order of what happens on one edge (R282): completions by context, then what else comes up, then producer events,
then deliveries by channel. -/
def edgeRank : Instr → Nat
  | .moveCompletion c => c
  | .producerEvent p _ => 1000 + p
  | .channelDelivery ch => 2000 + ch
  | .chainLinkedDelivery ch _ => 2000 + ch
  | _ => 100

/-- A happening taken into its place on an edge, behind those of its rank. -/
def insertDue (c : Instr) : List Instr → List Instr
  | [] => [c]
  | d :: l => if edgeRank c < edgeRank d then c :: d :: l else d :: insertDue c l

/-- What the Board does of its own with no command waiting: due timed steps are taken, then happenings due join the queue in
the order of R282, then one CCLK passes. -/
def State.elapse (s : State) : State :=
  let ts := s.timers.filter s.timerDue
  if ts.isEmpty = false then
    let t : State := { s with timers := s.timers.filter fun e => !s.timerDue e }
    s.finish (t.forEach ts fun s e => s.runTimer e.2)
  else
    let due := s.agenda.filter s.isDueNow
    if due.isEmpty = false then
      { s with agenda := s.agenda.filter (fun e => !s.isDueNow e),
               pending := due.foldl (fun l e => insertDue e.2 l) [] }
    else
      s.finish s.tick

end Sys2Proof.Machine
end

