-- ==== Sys2Proof/Machine/Step.lean ====
section
/-! DEFINITION. The step of the machine: the command at the front of the queue, and on an empty queue the Board's own time. -/

namespace Sys2Proof.Machine

open Sys2Proof

/-- One step: the front command with the rest of the queue behind it; with nothing commanded the Board's own time goes on. -/
def step (s : State) : Host.Outcome State Fault Refusal :=
  match s.pending with
  | [] => .next s.elapse
  | c :: rest => exec c { s with pending := rest }

/-- The state in which the next step takes the command that a word of the table spells: the table gives its rows no bits, so the
word spells none and the state stands. -/
def State.withFetchWord (s : State) (nbits w : Nat) : State :=
  match decodeTableWord nbits w with
  | some c => { s with pending := c :: s.pending }
  | none => s

end Sys2Proof.Machine
end

