-- ==== Sys2Proof/Safety.lean ====
section
/-! DEFINITION. The terms in which claims are stated: what it means that a command does something, when nothing follows a
happening on its edge, and the canonical form of the memories. -/

namespace Sys2Proof.Machine

open Sys2Proof

/-- Nothing waits that a happening's edge would take up: no end imposed on a Wing, no fault report, no Resign request, no field of
the inventory or of background work to settle, no mounted or mounting Scoresheet, no entry of a low mode, no clock to be switched or
stopped, no injection into external memory, and no interrupt words in the report queue. -/
def State.calm (s : State) : Bool :=
  s.wingEnds.isEmpty && s.flt.reports.isEmpty && s.flt.request == 0 &&
  ((List.range 8).all fun w => (s.invWing w).phase != 4) &&
  s.cal.stage != 1 && s.cal.stage != 2 && s.cal.stage != 4 && s.cal.pend.isEmpty && !s.simul &&
  !s.bit pSCO SCO.STATUS_WAIT_XMP && !s.bit pSCO SCO.STATUS_MOUNTED &&
  s.pwr.phase == 0 && (!s.pwr.refOk || s.get pCLK CLK.STATUS_SRC != 0 || !s.coreUp) && (s.enabled pCLK || !s.coreUp) &&
  !s.pins.xmpInj && !s.autoIrq && !(s.tx 8).release && !(s.rx 16).release

/-- A command does something: it answers a next state.  `u` is the Board as the command's own effect leaves it, of which `P` holds;
what else falls on the same edge (`State.finish`: ends taken up, reports, records, the queue of commands kept) makes the answer of
it, and where nothing waits to be taken up the answer is `u` itself with the queue as it was. -/
def Does (c : Instr) (s : State) (P : State → Prop) : Prop :=
  ∃ u, exec c s = .next (s.finish u) ∧ P u ∧ (u.calm = true → exec c s = .next { u with pending := s.pending })

/-- Memory is unchanged: every word, with its check bits and marks, and every parity word reads as before. -/
def SameMemory (s u : State) : Prop := u.sram = s.sram ∧ u.parity = s.parity

/-- Nothing has changed but the pages named and what Arbiter numbers and events reach (R282, R283): every byte of memory is as before,
and every register of another page, the pages of ARB and EVT and the numbers of LAST_ERR (offset 9) aside. -/
def SameElsewhere (pages : List Nat) (s u : State) : Prop :=
  SameMemory s u ∧ ∀ q o, o < 256 → q ∉ pages → o ≠ 9 → q ≠ pARB → ¬ (0x70 ≤ q ∧ q ≤ 0x77) → u.reg q o = s.reg q o

/-- No receive chain writes samples to memory: none captures, and none waits armed with a ring (R147). -/
def State.noCapture (s : State) : Bool := (List.range 17).all fun m => !s.capWriting m

/-- The word `b` lies in no line of the capture region of a receive chain, or that chain writes no samples (R147). -/
def State.offCapture (s : State) (n b : Nat) : Bool :=
  !s.capWriting n || (s.rxGet n RXC.CAP_CFG_LEN != 0 &&
    decide (b / 8 < s.rxGet n RXC.CAP_ADDR_START / 8 ∨ (s.rxGet n RXC.CAP_ADDR_START + s.rxGet n RXC.CAP_CFG_LEN - 1) / 8 < b / 8))

/-- The pages of the transmit chains, with those that a serving number of TXC8 can name (R97). -/
def txPages : List Nat := List.range' 0x10 16

/-- The pages of the receive chains, with those that a serving number of RXC16 can name (R127). -/
def rxPages : List Nat := List.range' 0x20 32

/-- The pages that a command of Cycle Angle, match chain and host port may change, for the
commands whose effect stays within a few pages and leaves memory alone; none for the others. -/
def timingFrame : Instr → Option (List Nat)
  | .angEnable | .syncInEdge | .edgeWindowClose | .cycleBoundary | .virtualCycleEnd | .vperiodWrite .. | .alarmFire ..
  | .voidCell .. | .reportTokenTimeout | .postToken .. => some [pANG]
  | .syncOutPulse | .syncOutPulseEnd | .roleDecision .. => some []
  | .accumulatorMismatch .. => some [pANG, pTST]
  | .idleCell .. | .rateCell .. | .stateCell .. | .countCell .. | .rangeStartCell .. | .launchCell .. | .eventCell ..
  | .reportCell .. | .discover | .range | .echoWindowEnd .. | .tokenHoldLimit => some [pANG, pMCH]
  | .rangeResultCell .. => some [pANG, pMCH, pCAL]
  | .helloCell .. | .chainAngleLost .. => some [pANG, pMCH, pTST]
  | .badCell .. | .cellResend .. | .countTimeout | .lslotFire .. => some [pMCH]
  | .status .. | .resignFrame .. | .sdrResetPulse | .runt .. | .reportUnitEnd | .masterCollision | .badOpcode .. => some [pANG, pMCH, pHPT]
  | .clkNoSel | .rptPush .. | .rptPop | .reportUnit => some [pHPT]
  | .decoderMismatch => some [pHPT, pTST]
  | _ => none

/-- The pages that a command of chains, inventory, Kibitz, Conductor, events and background work may change, for the
commands whose effect stays within a few pages and leaves memory alone; none for the others. -/
def radioFrame : Instr → Option (List Nat)
  | .settleEnd .. | .txc8Assign .. | .txc8Release => some txPages
  | .fieldLaunch .. => some (pPWR :: (txPages ++ rxPages))
  | .leakConverged .. | .agcBlock .. | .captureWatchFire .. | .legacyFrameEnd .. | .rxc16Assign .. | .rxc16Release => some rxPages
  | .fineTimingDecision .. => some (pANG :: rxPages)
  | .invStop => some [pINV]
  | .passEnd => some [pANG, pINV]
  | .sweepStart | .sweepEnd => some [pKBZ]
  | .kbzMismatch => some [pKBZ, pTST]
  | .waitAngleFire .. => some (List.range' 0x68 8)
  | .waitEventTimeout .. | .producerEvent .. | .hostFire .. | .gpioEdge .. | .calDue .. | .xbArm => some []
  | .arbMismatch .. => some [pTST]
  | .wingWindow .. => some [pCAL, pCLK, pCND0, pCND 11]
  | .calStarved .. => some [pCAL]
  | _ => none

/-- The pages that a command of Scoresheet, checks, external memory, power, clocks, faults and injections may change, for the
commands whose effect stays within a few pages and leaves memory alone; none for the others. -/
def serviceFrame : Instr → Option (List Nat)
  | .scoMount .. | .remount .. | .format => some [pSCO, pXMP]
  | .telNow .. | .telemetryTimer .. => some [pSCO]
  | .recordProgrammed .. | .sectorErased .. => some [pSCO, pXMP, pTST]
  | .scbPeriodWrite .. => some [pSCB]
  | .scrubSeqMismatch => some [pSCB, pTST]
  | .ckuStart .. | .ckuData .. | .ckuEnd .. | .ckuRunWrite .. => some (List.range' 0x0A 4)
  | .ckuLogicMismatch .. => some (pTST :: List.range' 0x0A 4)
  | .xmpDiscovery | .discoveryEnd .. | .lineFetch .. | .pageProgram .. | .xmpErase | .eraseComplete ..
  | .xmpWindowRead .. | .xmpWindowWrite .. => some [pXMP]
  | .xmpMismatch => some [pXMP, pTST]
  | .railLowering .. | .railAttemptTimeout .. => some [pPWR]
  | .powerGoodLost .. => some [pPWR, pTST]
  | .safeRequestDone | .resignRampEnd => some [pFLT]
  | .referenceCheckPassed | .synLock | .xtalTimeout | .clkRestore => some [pCLK]
  | .supplyMonitorFault .. | .faultManagerMismatch | .tstInject .. => some [pFLT, pTST]
  | .resignNLow | .jtagInstruction .. | .trstN => some []
  | .resignRelease .. => some [pFLT, pPWR]
  | .tstArm .. | .tstArmExpiry | .injectionOutcomeTimeout => some [pTST]
  | _ => none

/-- The Board is in canonical form: its register file and memories are canonical lists, so that equal contents are equal data, and it
has its twelve contexts, nine transmit and seventeen receive chains, eight engines and eight Wings (R19, R23). -/
structure State.Canon (s : State) : Prop where
  regs : AMap.wf regDefault s.regs = true
  sram : Memory.wf s.sram = true
  parity : Memory.wf s.parity = true
  ctxs : s.ctxs.length = 12
  txc : s.txc.length = 9
  rxc : s.rxc.length = 17
  engs : s.engs.length = 8
  wings : s.inv.wings.length = 8

end Sys2Proof.Machine
end

