-- ==== Sys2Proof/WellFormed.lean ====
section
/-! DEFINITION. Well-formed commands: every operand lies in the range that its field, instance or address has in the spec.  The
machine takes any command; an operand outside its range names nothing and has no effect, or is cut to its field. -/

namespace Sys2Proof

/-- A 40-bit word. -/
def w40 (v : Nat) : Bool := decide (v < 2 ^ 40)
/-- A byte. -/
def byte (v : Nat) : Bool := decide (v < 256)
/-- A port, 0–191 (R91). -/
def port (p : Nat) : Bool := decide (p < 192)
/-- A transmit chain, TXC0–TXC8. -/
def txc (n : Nat) : Bool := decide (n < 9)
/-- A receive chain, RXC0–RXC16. -/
def rxc (n : Nat) : Bool := decide (n < 17)
/-- A Wing. -/
def wing (w : Nat) : Bool := decide (w < 8)
/-- A Conductor context (R23). -/
def ctx (c : Nat) : Bool := decide (c < 12)

/-- SRC and SEQ of a cell (R70). -/
def CellHead.wf (c : CellHead) : Bool := decide (c.src < 64) && decide (c.seq < 64)

/-- WING, WHEN, LATE_LIMIT and word 1 of an RF move (R255). -/
def Launch.wf (h : Launch) : Bool := decide (h.wing < 8) && decide (h.when_ < 4) && decide (h.late < 2 ^ 13) && w40 h.t

/-- The fields of a LISTEN (R260). -/
def ListenArgs.wf (a : ListenArgs) : Bool :=
  decide (a.role < 2) && decide (a.rate < 4) && byte a.tapPort && w40 a.dest && decide (a.proto < 8) &&
    decide (a.limit < 2 ^ 12) && decide (a.wait < 2 ^ 24)

/-- The fields of an ANTICOLL (R260): the result address is a multiple of 4. -/
def AnticollArgs.wf (a : AnticollArgs) : Bool :=
  decide (a.proto < 4) && decide (a.maskLen < 64) && decide (a.mask < 2 ^ 60) && decide (a.result < 2 ^ 21) &&
    decide (a.result % 4 = 0)

/-- A sector as read: slots of 64 bytes (R308). -/
def SectorScan.wf (c : SectorScan) : Bool := c.slots.all fun s => s.bytes.all byte && decide (s.bytes.length ≤ 64)

/-- The readings of a TELEMETRY record (R309). -/
def TelReading.wf (t : TelReading) : Bool :=
  decide (t.vcore < 65536) && decide (t.vpaA < 65536) && decide (t.vpaB < 65536) && decide (t.power < 65536)

/-- A WRITE frame: bytes, and fewer than eight bits of one cut off (R358). -/
def WriteFrame.wf (f : WriteFrame) : Bool :=
  decide (f.board < 64) && byte f.page && byte f.off && f.bytes.all byte && decide (f.bits < 8) && decide (f.tail < 2 ^ f.bits)

/-- What a PMBus read returns. -/
def PmbOutcome.wf : PmbOutcome → Bool
  | .ok v => decide (v < 65536)
  | .nack => true
  | .pec => true

/-- A command is well-formed. -/
def Instr.wf : Instr → Bool
  | .registerWrite _ page off v _ => byte page && byte off && w40 v
  | .softReset page => byte page
  | .ctrlEnableWrite page _ => byte page
  | .lockWrite page => byte page
  | .configWatchVisit o m => decide (o < 4608) && w40 m
  | .angEnable => true
  | .angDisable => true
  | .syncInEdge => true
  | .edgeWindowClose => true
  | .cycleBoundary => true
  | .virtualCycleEnd => true
  | .vperiodWrite v => w40 v
  | .alarmFire n _ => decide (n < 8)
  | .syncOutPulse => true
  | .syncOutPulseEnd => true
  | .accumulatorMismatch _ => true
  | .roleDecision _ => true
  | .idleCell c a => c.wf && w40 a
  | .rateCell c b r => c.wf && decide (b < 64) && decide (r < 2 ^ 34)
  | .stateCell c t n => c.wf && byte t && w40 n
  | .countCell c n => c.wf && w40 n
  | .rangeStartCell c => c.wf
  | .rangeResultCell c v => c.wf && w40 v
  | .helloCell c p => c.wf && decide (p < 64)
  | .launchCell c t a => c.wf && byte t && w40 a
  | .eventCell c ch h a => c.wf && decide (48 ≤ ch ∧ ch < 64) && decide (h < 16) && w40 a
  | .reportCell c => c.wf
  | .badCell word => decide (word < 2 ^ 80)
  | .cellResend t => decide (t < 16)
  | .countTimeout => true
  | .discover => true
  | .range => true
  | .echoWindowEnd l => decide (l.length ≤ 64)
  | .boardNum v _ _ => w40 v
  | .postToken t => byte t
  | .lslotFire k _ => decide (k < 8)
  | .chainLinkedDelivery ch a => decide (48 ≤ ch ∧ ch < 64) && w40 a
  | .tokenHoldLimit => true
  | .reportTokenTimeout => true
  | .chainAngleLost _ => true
  | .switchReadbackFault p => port p
  | .tuneWrite _ p v => port p && w40 v
  | .atuneStart n => txc n
  | .atuneComplete n l => txc n && l.all w40
  | .fieldLaunch n => txc n
  | .plateau n => txc n
  | .settleEnd n => txc n
  | .rampDownEnd n => txc n
  | .monitorMean n f r q => txc n && w40 f && w40 r && w40 q
  | .paOvercurrent n => txc n
  | .txcControlMismatch n => txc n
  | .txc8Assign v => decide (v < 16)
  | .txc8Release => true
  | .railLowering r => decide (r < 4)
  | .railAck r => decide (r < 4)
  | .tapReadbackFault n => rxc n
  | .leakConverged n i q r => rxc n && w40 i && w40 q && w40 r
  | .checkToneBlock n a p => rxc n && w40 a && w40 p
  | .rxcControlMismatch n => rxc n
  | .agcBlock n l => rxc n && decide (l.length = 8) && l.all w40
  | .preambleDetect n l => rxc n && l.all w40
  | .fineTimingDecision n l => rxc n && decide (l.length = 128) && l.all w40
  | .captureWatchFire n l => rxc n && l.all w40
  | .legacyFrameStart n _ => rxc n
  | .legacyFrameEnd n _ _ => rxc n
  | .captureStart n => rxc n
  | .captureStop n l => rxc n && l.all w40
  | .captureTrigger n t l => rxc n && decide (t < 4) && l.all w40
  | .captureDone n l => rxc n && l.all w40
  | .captureOverrun n l => rxc n && l.all w40
  | .rxc16Assign v => decide (v < 32)
  | .rxc16Release => true
  | .replyFrame w _ => wing w
  | .replyWaitEnd w => wing w
  | .prtEngineMismatch w => wing w
  | .blitzHeader w l => wing w && l.all w40
  | .blitzFrameEnd w f => wing w && f.samples.all w40 && f.quiet.all fun l => l.all w40
  | .laneMismatch w => wing w
  | .invStart => true
  | .invDiscover => true
  | .invStop => true
  | .roundLaunch _ => true
  | .passEnd => true
  | .invSchedMismatch => true
  | .sweepStart => true
  | .ping p r => port p && w40 r.amp && w40 r.phase
  | .sweepEnd => true
  | .pendHandoff => true
  | .kbzMismatch => true
  | .contextStart _ c => ctx c
  | .contextAbort c => ctx c
  | .contextHalt c => ctx c
  | .moveFetch c => ctx c
  | .wingClaimGrant w => wing w
  | .rfMoveLaunch c _ => ctx c
  | .lateLimitExpiry c => ctx c
  | .moveCompletion c => ctx c
  | .lockstepMismatch => true
  | .stop c => ctx c
  | .field c h _ p => ctx c && h.wf && byte p
  | .tune c h _ p => ctx c && h.wf && byte p
  | .send c h d => ctx c && h.wf && w40 d
  | .listen c h a => ctx c && h.wf && a.wf
  | .xchg c h _ _ p d r => ctx c && h.wf && byte p && w40 d && w40 r
  | .anticoll c h a => ctx c && h.wf && a.wf
  | .inventory c _ a => ctx c && decide (a < 4)
  | .sound c h _ => ctx c && h.wf
  | .book c h _ => ctx c && h.wf
  | .gambit c h _ => ctx c && h.wf
  | .seal c h j => (ctx c || decide (32 ≤ c ∧ c < 40)) && h.wf && w40 j
  | .waitAngle c k a => ctx c && decide (k < 4) && w40 a
  | .waitAngleFire c _ => ctx c
  | .waitEvent c ch t => ctx c && decide (ch < 64) && decide (t < 2 ^ 32)
  | .waitEventTimeout c => ctx c
  | .raise c ch => ctx c && decide (ch < 64)
  | .branch c k i r t => ctx c && decide (k < 16) && byte i && decide (r < 4) && w40 t
  | .call c t => ctx c && w40 t
  | .ret c => ctx c
  | .load c _ r v => ctx c && decide (r < 4) && w40 v
  | .store c r a => ctx c && decide (r < 4) && w40 a
  | .copy c n a b => ctx c && decide (n < 2 ^ 17) && w40 a && w40 b
  | .log c t v => ctx c && byte t && w40 v
  | .producerEvent p h => decide (p < 240) && decide (h < 17)
  | .channelDelivery ch => decide (ch < 64)
  | .hostFire _ m => decide (m < 2 ^ 32)
  | .gpioEdge n _ => decide (n < 16)
  | .arbMismatch _ => true
  | .calDue i => decide (i < 27)
  | .wingWindow w => decide (w < 9)
  | .calRunEnd i l => decide (i < 27) && l.all w40
  | .calYield => true
  | .calStarved i => decide (i < 27)
  | .forcedWindow w => wing w
  | .applyPoint => true
  | .soloApply => true
  | .xbArm => true
  | .xbMeasurement l => l.all w40
  | .xbPeer p => decide (p < 512)
  | .calMismatch => true
  | .scoMount l => l.all SectorScan.wf
  | .remount l => l.all SectorScan.wf
  | .format => true
  | .telNow t => t.wf
  | .telemetryTimer t => t.wf
  | .recordProgrammed _ => true
  | .sectorErased _ => true
  | .sramRead a => decide (a < 24 * 65536)
  | .sramWrite a v => decide (a < 24 * 65536) && w40 v
  | .codecMismatch a => decide (a < 24 * 65536)
  | .scrubLine => true
  | .scbPeriodWrite v => w40 v
  | .scrubSeqMismatch => true
  | .memSelfTest f => decide (f < 2 ^ 24)
  | .bankZeroing => true
  | .bistGo => true
  | .injGo => true
  | .injRaw => true
  | .memWindowRead k => decide (k < 32)
  | .memWindowWrite k v => decide (k < 32) && w40 v
  | .ckuStart n => decide (n < 4)
  | .ckuData n m v _ => decide (n < 4) && decide (1 ≤ m ∧ m ≤ 5) && w40 v
  | .ckuEnd n => decide (n < 4)
  | .ckuRunWrite n v => decide (n < 4) && w40 v
  | .ckuLogicMismatch n => decide (n < 4)
  | .hostRead b p o _ _ _ => decide (b < 64) && byte p && byte o
  | .hostWrite f => f.wf
  | .status b _ => decide (b < 64)
  | .resignFrame b _ => decide (b < 64)
  | .sdrResetPulse => true
  | .runt _ _ _ => true
  | .clkNoSel => true
  | .rptPush v => w40 v
  | .rptPop => true
  | .reportUnit => true
  | .reportUnitEnd => true
  | .masterCollision => true
  | .decoderMismatch => true
  | .xmpDiscovery => true
  | .discoveryEnd l => decide (l.length ≤ 2)
  | .lineFetch l d _ => decide (l < 2 ^ 26) && d.all byte
  | .pageProgram d _ => decide (d < 2)
  | .xmpErase => true
  | .eraseComplete d _ => decide (d < 2)
  | .xmpWindowRead k => decide (k < 8)
  | .xmpWindowWrite k v => decide (k < 8) && w40 v
  | .xmpMismatch => true
  | .modeReq _ m => decide (m < 8)
  | .entryDone => true
  | .wakeSource c => decide (c < 16)
  | .wakeComplete => true
  | .pmbusTransaction r c o => decide (r < 4) && byte c && o.wf
  | .railAttemptTimeout r => decide (r < 4)
  | .powerGoodLost r => decide (r < 4)
  | .safeRequestDone => true
  | .referenceCheckPassed => true
  | .synLock => true
  | .xtalTimeout => true
  | .referenceLoss => true
  | .clkRestore => true
  | .synUnlock => true
  | .clkDisable => true
  | .powerOnReset => true
  | .resetN => true
  | .chipReset v => w40 v
  | .thermalReading t => decide (t < 2 ^ 16)
  | .supplyMonitorFault u => decide (u < 3)
  | .cclkStop => true
  | .faultManagerMismatch => true
  | .resignNLow => true
  | .resignRampEnd => true
  | .resignRelease v => w40 v
  | .tstArm k => byte k
  | .tstArmExpiry => true
  | .tstInject u i => byte u && byte i
  | .injectionOutcomeTimeout => true
  | .jtagInstruction c => decide (c < 32)
  | .voidCell c => c.wf
  | .badOpcode b o p f _ _ => decide (b < 64) && decide (o < 8) && byte p && byte f
  | .trstN => true

end Sys2Proof
end

