-- ==== Sys2Proof/Certificates/Slice0/Obligations.lean ====
section
/-! DEFINITION. The statements for the provers.  `Does c s P` says that the command `c` answers a next state from `s` and that `P` holds
of what its effect leaves; `SameElsewhere l s u` that nothing but the pages of `l` and numbers has changed (see `Sys2Proof/Safety.lean`). -/

open Sys2Proof Sys2Proof.Machine

/-- R48: with the angle disabled and CFG.SRC and VPERIOD admitted (R47), the write of ANG.CTRL.ENABLE 0 to 1 takes the source and sets the
angle to PRESET; with SRC 1 the angle starts on the next edge. R47: a refused enable records code 0x05 and leaves the unit disabled. R58:
the write 1 to 0 stops it: no comparator stays armed, LOCKED and HOLDOVER read 0. -/
def Obligations.AngEnableDisable : Prop :=
  (∀ s : State, s.enabled pANG = false → s.angRefused = false →
     Does .angEnable s fun u => u.enabled pANG = true ∧ u.ang.src = s.get pANG ANG.CFG_SRC ∧
       u.ang.acc = s.get pANG ANG.PRESET_ANGLE * 2 ^ 16 % 2 ^ 56 ∧ u.ang.acc2 = u.ang.acc ∧ u.ang.running = false ∧
       u.ang.starting = (s.get pANG ANG.CFG_SRC == 1) ∧ u.get pANG ANG.COUNT = 0) ∧
  (∀ s : State, s.enabled pANG = false → s.angRefused = true →
     Does .angEnable s fun u => u.enabled pANG = false ∧ u.get pANG COM.LAST_ERR_CODE = 5 ∧ u.ang = s.ang) ∧
  (∀ s : State, s.enabled pANG = true →
     Does .angDisable s fun u => u.ang.running = false ∧ u.ang.starting = false ∧ u.cmps = [] ∧ u.bit pANG ANG.STATUS_LOCKED = false ∧
       u.bit pANG ANG.STATUS_HOLDOVER = false)

/-- What gives the angle its rate (R41). A boundary of a running angle that is neither virtual nor a follower's takes the rate found for the
cycle it begins, unless ranging holds changes (R78); at the end of a virtual cycle the angle moves to the boundary exactly and the period
written takes force (R45); on the edge source, a SYNC_IN edge on a running angle leaves RATE as it is (R50), and the first edge starts the
angle at the rate of the period in force (R48), with error 0; a window that closes without an edge counts a miss and leaves RATE as it is,
and one that completes MISS_LIMIT of them in a row begins holdover (R49, R52). R45: a VPERIOD in range written while the enabled angle has
SRC 1, its page unlocked, is kept for the next boundary and is not in force before it; one out of range is not taken and records code
0x05. -/
def Obligations.AngBoundariesAndPeriod : Prop :=
  (∀ s : State, s.ang.running = true → s.ang.src ≠ 1 → s.ang.src ≠ 2 → s.rateHeld (s.boundaryRate (s.angle / 2 ^ 32)) = false →
     Does .cycleBoundary s fun u => u.get pANG ANG.RATE_RATE = s.boundaryRate (s.angle / 2 ^ 32) % 2 ^ 40 ∧ u.ang.acc = s.ang.acc) ∧
  (∀ s : State, s.ang.running = true → s.ang.src = 1 → s.rateHeld (rateOf (s.ang.periodNext.getD s.ang.period)) = false →
     Does .virtualCycleEnd s fun u => u.get pANG ANG.RATE_RATE = rateOf (s.ang.periodNext.getD s.ang.period) % 2 ^ 40 ∧
       u.ang.period = s.ang.periodNext.getD s.ang.period ∧ u.ang.periodNext = none ∧ u.ang.acc % 2 ^ 48 = 0) ∧
  (∀ s : State, s.enabled pANG = true → s.ang.src = 0 → s.ang.running = true →
     Does .syncInEdge s fun u => u.get pANG ANG.RATE_RATE = s.get pANG ANG.RATE_RATE ∧ u.ang.running = true ∧ u.ang.acc = s.ang.acc) ∧
  (∀ s : State, s.enabled pANG = true → s.ang.src = 0 → s.ang.running = false →
     Does .syncInEdge s fun u => u.get pANG ANG.RATE_RATE = rateOf s.ang.period % 2 ^ 40 ∧ u.ang.running = true ∧
       u.get pANG ANG.EDGE_ERROR = 0) ∧
  (∀ s : State, s.enabled pANG = true → s.ang.src = 0 → s.ang.running = true →
     Does .edgeWindowClose s fun u => u.get pANG ANG.COUNT_MISSED = satInc 65535 (s.get pANG ANG.COUNT_MISSED) ∧
       u.ang.closed = s.ang.closed + 1 ∧ u.get pANG ANG.RATE_RATE = s.get pANG ANG.RATE_RATE) ∧
  (∀ s : State, s.enabled pANG = true → s.ang.src = 0 → s.ang.running = true → s.bit pANG ANG.STATUS_HOLDOVER = false →
     orDefault 1 s.ang.missLimit ≤ s.ang.missRun + 1 →
     Does .edgeWindowClose s fun u => u.bit pANG ANG.STATUS_HOLDOVER = true ∧ u.bit pANG ANG.STATUS_LOCKED = false ∧
       u.bit pANG ANG.FLAG_HOLDOVER = true ∧ u.get pANG ANG.HOLD_CYCLES = 0 ∧ u.get pANG ANG.RATE_RATE = s.get pANG ANG.RATE_RATE) ∧
  (∀ (s : State) (v : Nat), s.locked pANG = false → s.enabled pANG = true → s.ang.src = 1 →
     periodOk ((s.writeFields pANG 0x13 (word v)).get pANG ANG.VPERIOD_PERIOD) = true →
     Does (.vperiodWrite v) s fun u => u.ang.periodNext = some ((s.writeFields pANG 0x13 (word v)).get pANG ANG.VPERIOD_PERIOD) ∧
       u.ang.period = s.ang.period ∧ u.get pANG ANG.RATE_RATE = s.get pANG ANG.RATE_RATE) ∧
  (∀ (s : State) (v : Nat), s.locked pANG = false → s.enabled pANG = true → s.ang.src = 1 →
     periodOk ((s.writeFields pANG 0x13 (word v)).get pANG ANG.VPERIOD_PERIOD) = false →
     Does (.vperiodWrite v) s fun u => u.ang.periodNext = s.ang.periodNext ∧ u.ang.period = s.ang.period ∧
       u.get pANG COM.LAST_ERR_CODE = 5)

/-- R57: an armed alarm sets its flag, and a one-shot alarm, its control register not written on the same edge (R38), disarms; R63: with
SYNC_OUT.EN 1, a WIDTH other than 0 and the angle running, SYNC_OUT goes high for WIDTH × 64 CCLK, and low at the end of its pulse; R64:
on a difference of the two accumulators the unit goes on from the one in agreement and FAULT.DUP is set. -/
def Obligations.AngAlarmsAndOutputs : Prop :=
  (∀ (s : State) (n : Nat) (late : Bool), n < 8 → s.enabled pANG = true → s.bit pANG (ANG.ALARM_CTRL_ARM n) = true →
     s.touched.writes.any (fun e => e.1 == pANG * 256 + (ANG.ALARM_CTRL_ARM n).off) = false →
     Does (.alarmFire n late) s fun u => u.bitOf pANG ANG.FLAG_ALARM n = true ∧
       (s.bit pANG (ANG.ALARM_CTRL_PERIODIC n) = false → u.bit pANG (ANG.ALARM_CTRL_ARM n) = false) ∧ u.ang = s.ang) ∧
  (∀ s : State, s.enabled pANG = true → s.ang.running = true → s.bit pANG ANG.SYNC_OUT_EN = true → s.get pANG ANG.SYNC_OUT_WIDTH ≠ 0 →
     Does .syncOutPulse s fun u => u.ang.syncOut = true ∧ (s.now + 64 * s.get pANG ANG.SYNC_OUT_WIDTH, .syncOutPulseEnd) ∈ u.agenda ∧
       u.regs = s.regs) ∧
  (∀ s : State, Does .syncOutPulseEnd s fun u => u.ang.syncOut = false ∧ u.regs = s.regs ∧ u.ang.acc = s.ang.acc) ∧
  (∀ (s : State) (b : Bool),
     Does (.accumulatorMismatch b) s fun u => u.ang.acc = u.ang.acc2 ∧ u.ang.acc = (if b then s.ang.acc else s.ang.acc2) % 2 ^ 56 ∧
       u.bitOf pANG COM.FAULT 1 = true)

/-- R68: the role is decided once after RESET_N: a Board that sees MCLKI toggling is a follower, otherwise the head; it holds until the next
device reset. R75, R76: CMD.DISCOVER on a head that may originate cells queues a COUNT cell, sets COUNT to 1 and shows the ring open until
the COUNT cell returns; without its return within 65,536 CCLK FLAG.RING_OPEN is set and code 0x04 recorded. A HELLO cell of another Board
that reaches the head, outside ranging, enters its sender among those that have answered, and passes on. -/
def Obligations.ChainRoleAndDiscovery : Prop :=
  (∀ (s : State) (toggles : Bool), s.mch.roleSet = false →
     Does (.roleDecision toggles) s fun u => u.mch.roleSet = true ∧ u.isHead = !toggles ∧ u.regs = s.regs) ∧
  (∀ (s : State) (toggles : Bool), s.mch.roleSet = true → Does (.roleDecision toggles) s fun u => u = s) ∧
  (∀ s : State, s.coreRuns = true → s.isHead = true → s.enabled pMCH = true → s.mayOriginate 3 = true →
     Does .discover s fun u => u.get pMCH MCH.POSITION_COUNT = 1 ∧ u.bit pMCH MCH.STATUS_RING_OK = false ∧
       u.mch.queue = s.mch.queue ++ [{ type := 3, src := s.boardNum, seq := AMap.get (fun _ => 0) s.mch.seqs 3, tag := 0, payload := 0 }] ∧
       (s.now + 65536, .countTimeout) ∈ u.agenda) ∧
  (∀ s : State, s.coreRuns = true → s.isHead = true → s.enabled pMCH = true → s.bit pMCH MCH.STATUS_RING_OK = false →
     Does .countTimeout s fun u => u.bit pMCH MCH.FLAG_RING_OPEN = true ∧ u.get pMCH COM.LAST_ERR_CODE = 4) ∧
  (∀ (s : State) (h : CellHead) (position : Nat), s.takesCells 5 = true → s.enabled pMCH = true → s.mch.aligned = true → s.isHead = true →
     s.bit pMCH MCH.STATUS_RANGING = false → h.src ≠ s.boardNum → s.dupCell 5 h = false →
     Does (.helloCell h position) s fun u => h.src ∈ u.mch.hellos ∧ (s.now + 16, .slotOut (mkCell 5 h 0 position) false) ∈ u.timers)

/-- R72, R79: an IDLE or VOID cell that a Board takes in is a free slot, which goes on 16 CCLK later (R69). A ranged follower that holds a
RATE starts its angle at the head's angle, advanced by the latency of its place and its offset, and shows ANGLE_OK; a follower passes a
VOID on as a free slot, and the head makes an IDLE of it. -/
def Obligations.ChainFreeSlots : Prop :=
  (∀ (s : State) (h : CellHead) (angle : Nat), s.takesCells 0 = true → s.enabled pMCH = true → s.mch.aligned = true → s.isHead = false →
     s.dupCell 0 h = false → s.enabled pANG = true → s.ang.src = 2 → s.ang.running = false → s.bit pMCH MCH.STATUS_RANGED = true →
     s.mch.gotRate = true →
     Does (.idleCell h angle) s fun u => u.ang.running = true ∧ u.bit pMCH MCH.STATUS_ANGLE_OK = true ∧
       u.ang.acc = (angle % 2 ^ 40 * 2 ^ 16 + s.chainAdvance s.ang.base) % 2 ^ 56 ∧
       (s.now + 16, .slotOut (mkCell 0 h 0 angle) true) ∈ u.timers) ∧
  (∀ (s : State) (h : CellHead), s.takesCells 15 = true → s.isHead = false →
     Does (.voidCell h) s fun u => (s.now + 16, .slotOut (mkCell 15 h 0 0) true) ∈ u.timers ∧ u.regs = s.regs) ∧
  (∀ (s : State) (h : CellHead), s.takesCells 15 = true → s.bit pMCH MCH.STATUS_RANGING = false → s.isHead = true →
     s.enabled pMCH = true → Does (.voidCell h) s fun u => (s.now + 16, .slotOut (mkCell 0 h 0 0) true) ∈ u.timers ∧ u.regs = s.regs)

/-- R81: a RATE cell is kept for the boundary it names and leaves RATE as it is; a STATE cell gives the Board count and, on a follower's
angle, LOCKED and CHAIN_HOLD. R75: a follower takes the position one above the COUNT it receives and passes the count on; at the head the
returned COUNT gives the number of Boards and closes the ring. R73: a cell that repeats SRC, TYPE and SEQ is discarded and counted, and
still passes on. What passes on leaves 16 CCLK later (R69). -/
def Obligations.ChainHeadCells : Prop :=
  (∀ (s : State) (h : CellHead) (boundary : Nat) (rate : Nat), s.takesCells 1 = true → s.enabled pMCH = true → s.mch.aligned = true →
     s.isHead = false → s.dupCell 1 h = false → s.enabled pANG = true → s.bit pMCH MCH.STATUS_RANGED = true → s.ang.src = 2 →
     s.ang.running = true →
     Does (.rateCell h boundary rate) s fun u => u.mch.gotRate = true ∧ rate % 2 ^ 34 ∈ u.ang.rates.map Prod.snd ∧
       u.get pANG ANG.RATE_RATE = s.get pANG ANG.RATE_RATE ∧
       (s.now + 16, .slotOut (mkCell 1 h 0 (boundary % 64 * 2 ^ 34 + rate % 2 ^ 34)) false) ∈ u.timers) ∧
  (∀ (s : State) (h : CellHead) (tag : Nat) (count : Nat), s.takesCells 2 = true → s.enabled pMCH = true → s.mch.aligned = true →
     s.isHead = false → s.dupCell 2 h = false →
     Does (.stateCell h tag count) s fun u => u.get pMCH MCH.POSITION_COUNT = count % 2 ^ 6 ∧
       (s.enabled pANG = true → s.ang.src = 2 → u.bit pANG ANG.STATUS_LOCKED = tag.testBit 0 ∧ u.bit pANG ANG.STATUS_CHAIN_HOLD = tag.testBit 1) ∧
       (s.now + 16, .slotOut (mkCell 2 h tag count) false) ∈ u.timers) ∧
  (∀ (s : State) (h : CellHead) (count : Nat), s.takesCells 3 = true → s.enabled pMCH = true → s.mch.aligned = true → s.isHead = false →
     s.dupCell 3 h = false →
     Does (.countCell h count) s fun u => u.get pMCH MCH.POSITION_POSITION = (count + 1) % 2 ^ 6 ∧
       (s.now + 16, .slotOut (mkCell 3 h 0 (count + 1)) false) ∈ u.timers) ∧
  (∀ (s : State) (h : CellHead) (count : Nat), s.takesCells 3 = true → s.enabled pMCH = true → s.mch.aligned = true → s.isHead = true →
     Does (.countCell h count) s fun u => u.get pMCH MCH.POSITION_COUNT = (count + 1) % 2 ^ 6 ∧ u.bit pMCH MCH.STATUS_RING_OK = true) ∧
  (∀ (s : State) (h : CellHead) (count : Nat), s.takesCells 3 = true → s.enabled pMCH = true → s.mch.aligned = true → s.isHead = false →
     s.dupCell 3 h = true →
     Does (.countCell h count) s fun u => u.get pMCH MCH.COUNT2_DUP_DISCARD = satInc 65535 (s.get pMCH MCH.COUNT2_DUP_DISCARD) ∧
       (s.now + 16, .slotOut (mkCell 3 h 0 (count + 1)) false) ∈ u.timers ∧
       u.get pMCH MCH.POSITION_POSITION = s.get pMCH MCH.POSITION_POSITION)

/-- R77, R72: CMD.RANGE on the head queues the RANGE start cell, and ranging has not yet started; on a follower ranging starts with that cell,
which it passes on 16 CCLK later (R69), and is to end 30,000 CCLK + RING.DELAY later at the latest; the echo window stores how many echoes
came back, at most 64. A RANGE result that did not fail gives the follower its offset, ends ranging and sets RANGED; a failed one sets
FLAG.RANGE_FAIL and records code 0x0A, and the offset stays; both pass on with the follower's hop value added. -/
def Obligations.ChainRanging : Prop :=
  (∀ s : State, s.coreRuns = true → s.isHead = true → s.enabled pMCH = true → s.mayOriginate 4 = true →
     s.bit pMCH MCH.STATUS_RANGING = false → s.mch.queue.any (fun c => c.type == 4) = false →
     Does .range s fun u =>
       u.mch.queue = s.mch.queue ++ [{ type := 4, src := s.boardNum, seq := AMap.get (fun _ => 0) s.mch.seqs 4, tag := 1, payload := 0 }] ∧
       u.bit pMCH MCH.STATUS_RANGING = false) ∧
  (∀ (s : State) (h : CellHead), s.takesCells 4 = true → s.enabled pMCH = true → s.mch.aligned = true → s.isHead = false →
     s.dupCell 4 h = false →
     Does (.rangeStartCell h) s fun u => u.bit pMCH MCH.STATUS_RANGING = true ∧ (s.now + 16, .slotOut (mkCell 4 h 1 0) false) ∈ u.timers ∧
       (s.now + (30000 + s.get pMCH MCH.RING_DELAY), .rangeEnd) ∈ u.timers) ∧
  (∀ (s : State) (trips : List Nat), s.forwards = true → s.bit pMCH MCH.STATUS_RANGING = true →
     Does (.echoWindowEnd trips) s fun u => u.get pMCH MCH.HOP_ECHOES = Nat.min 64 trips.length ∧ u.bit pMCH MCH.STATUS_RANGING = true) ∧
  (∀ (s : State) (h : CellHead) (v : Nat), s.takesCells 4 = true → s.enabled pMCH = true → s.mch.aligned = true → s.isHead = false →
     s.dupCell 4 h = false → v ≠ 0xFFFFFFFFFF →
     Does (.rangeResultCell h v) s fun u => u.get pMCH MCH.RANGE_OFFSET = v % 2 ^ 32 ∧ u.bit pMCH MCH.STATUS_RANGED = true ∧
       u.bit pMCH MCH.STATUS_RANGING = false ∧ (s.now + 16, .slotOut (mkCell 4 h 2 (s.addHop v)) false) ∈ u.timers) ∧
  (∀ (s : State) (h : CellHead) (v : Nat), s.takesCells 4 = true → s.enabled pMCH = true → s.mch.aligned = true → s.isHead = false →
     s.dupCell 4 h = false → v = 0xFFFFFFFFFF →
     Does (.rangeResultCell h v) s fun u => u.get pMCH MCH.RANGE_OFFSET = s.get pMCH MCH.RANGE_OFFSET ∧
       u.bit pMCH MCH.FLAG_RANGE_FAIL = true ∧ u.get pMCH COM.LAST_ERR_CODE = 0x0A ∧ u.bit pMCH MCH.STATUS_RANGING = false ∧
       (s.now + 16, .slotOut (mkCell 4 h 2 (s.addHop v)) false) ∈ u.timers)

/-- R84: POST_TOKEN on a Board that may originate LAUNCH cells queues one with the token and POST_ANGLE; each enabled slot whose token matches
takes the angle of a LAUNCH cell of another Board, which passes on; a slot that reaches its angle sets its flag and is no longer armed.
R86: a Board with report words takes the REPORT cell until the hold limit, and at that limit, with no unit in progress, reinserts the
token; the head creates a new token when it stays away. -/
def Obligations.ChainTokens : Prop :=
  (∀ (s : State) (token : Nat), s.coreRuns = true → s.boardNum ≠ 62 → s.mayOriginate 6 = true →
     Does (.postToken token) s fun u =>
       u.mch.queue = s.mch.queue ++ [{ type := 6, src := s.boardNum, seq := AMap.get (fun _ => 0) s.mch.seqs 6, tag := token % 256, payload := s.get pMCH MCH.POST_ANGLE_ANGLE % 2 ^ 40 }]) ∧
  (∀ (s : State) (h : CellHead) (token : Nat) (angle : Nat) (n : Nat), s.takesCells 6 = true → s.enabled pMCH = true →
     s.mch.aligned = true → s.isHead = false → s.dupCell 6 h = false → n < 8 → s.enabled pANG = true →
     s.bit pMCH (MCH.LSLOT_CFG_EN n) = true → s.get pMCH (MCH.LSLOT_CFG_TOKEN n) = token → h.src ≠ s.boardNum →
     Does (.launchCell h token angle) s fun u => u.get pMCH (MCH.LSLOT_ANGLE_ANGLE n) = angle % 2 ^ 40 ∧
       (s.now + 16, .slotOut (mkCell 6 h token angle) false) ∈ u.timers) ∧
  (∀ (s : State) (n : Nat) (late : Bool), s.coreRuns = true → n < 8 → s.enabled pMCH = true → s.enabled pANG = true →
     Does (.lslotFire n late) s fun u => u.bitOf pMCH MCH.FLAG_LSLOT n = true ∧ u.slotArmed n = false) ∧
  (∀ (s : State) (h : CellHead), s.takesCells 8 = true → s.enabled pMCH = true → s.mch.aligned = true →
     h.src = s.boardNum ∨ s.dupCell 8 h = false → s.bit pMCH MCH.STATUS_TOKEN_HELD = false → s.bit pMCH MCH.CFG_REPORT_EN = true →
     s.wordsPending = true → s.mayOriginate 8 = true →
     Does (.reportCell h) s fun u => u.bit pMCH MCH.STATUS_TOKEN_HELD = true ∧
       (s.now + orDefault 1 (s.get pMCH MCH.REPORT_HOLD_LIMIT) * 216960 / 1000, .tokenHoldLimit) ∈ u.agenda) ∧
  (∀ s : State, s.coreRuns = true → s.bit pMCH MCH.STATUS_TOKEN_HELD = true → s.bit pHPT HPT.STATUS_MASTERING = false →
     s.isHead = false ∨ s.bit pMCH MCH.CFG_REPORT_EN = true → s.mayOriginate 8 = true →
     Does .tokenHoldLimit s fun u => u.bit pMCH MCH.STATUS_TOKEN_HELD = false ∧
       u.mch.queue = s.mch.queue ++ [{ type := 8, src := s.boardNum, seq := AMap.get (fun _ => 0) s.mch.seqs 8, tag := 0, payload := 0 }]) ∧
  (∀ s : State, s.coreRuns = true → s.enabled pMCH = true → s.mch.rangedOnce = true → s.isHead = true →
     s.bit pMCH MCH.CFG_REPORT_EN = true → s.mayOriginate 8 = true →
     Does .reportTokenTimeout s fun u =>
       u.mch.queue = s.mch.queue ++ [{ type := 8, src := s.boardNum, seq := AMap.get (fun _ => 0) s.mch.seqs 8, tag := 0, payload := 0 }])

/-- R70, R73: 80 bits that are no good cell are counted, with FLAG.CRC and code 0x01, and outside ranging a VOID of this Board goes on in
their place 16 CCLK later (R69); the fourth in a row loses alignment. A watched cell that does not return is sent once more by a follower,
with RESEND_EN, in its next slot, counted in RESENT; when that copy is lost as well, FLAG.LOST is set and code 0x02 recorded; without
RESEND_EN it is watched no longer, nothing is flagged, and the head's ring is open (R89). R87: a follower that loses the chain angle shows
HOLDOVER, its cycles counted from 0, no ANGLE_OK, and FAULT.ANGLE_LOST. R85: an EVENT cell for an accepting channel with a free place
holds a delivery at its launch angle. -/
def Obligations.ChainErrors : Prop :=
  (∀ (s : State) (word : Nat), s.forwards = true → wordBad word = true →
     Does (.badCell word) s fun u => u.get pMCH MCH.COUNT1_CRC_ERR = satInc 65535 (s.get pMCH MCH.COUNT1_CRC_ERR) ∧
       u.bit pMCH MCH.FLAG_CRC = true ∧ u.get pMCH COM.LAST_ERR_CODE = 1 ∧
       (s.bit pMCH MCH.STATUS_RANGING = false → (s.now + 16, .slotOut ({ type := 15, src := s.boardNum, seq := AMap.get (fun _ => 0) s.mch.seqs 15, tag := 0, payload := 0 } : Cell) false) ∈ u.timers) ∧
       u.mch.goodRun = 0 ∧ (3 ≤ s.mch.badRun → u.mch.aligned = false)) ∧
  (∀ (s : State) (type : Nat) (f : Flight), s.forwards = true → s.enabled pMCH = true →
     (s.mch.flights.find? fun f => f.cell.type == type) = some f → s.isHead = false → f.copy = false →
     s.bit pMCH MCH.CFG_RESEND_EN = true → s.mayOriginate type = true →
     Does (.cellResend type) s fun u => u.get pMCH MCH.COUNT1_RESENT = satInc 65535 (s.get pMCH MCH.COUNT1_RESENT) ∧
       u.mch.queue = f.cell :: s.mch.queue) ∧
  (∀ (s : State) (type : Nat) (f : Flight), s.forwards = true → s.enabled pMCH = true →
     (s.mch.flights.find? fun f => f.cell.type == type) = some f → f.copy = true →
     Does (.cellResend type) s fun u => u.bit pMCH MCH.FLAG_LOST = true ∧ u.get pMCH COM.LAST_ERR_CODE = 2) ∧
  (∀ (s : State) (type : Nat) (f : Flight), s.forwards = true → s.enabled pMCH = true →
     (s.mch.flights.find? fun f => f.cell.type == type) = some f → f.copy = false → s.bit pMCH MCH.CFG_RESEND_EN = false →
     Does (.cellResend type) s fun u => f ∉ u.mch.flights ∧ u.bit pMCH MCH.FLAG_LOST = s.bit pMCH MCH.FLAG_LOST ∧
       u.mch.queue = s.mch.queue ∧ (s.isHead = true → u.bit pMCH MCH.STATUS_RING_OK = false)) ∧
  (∀ (s : State) (mclk : Bool), s.coreUp = true → s.mch.roleSet = true → s.isHead = false → s.bit pMCH MCH.STATUS_ANGLE_OK = true →
     mclk = true ∨ s.bit pMCH MCH.STATUS_RANGING = false →
     Does (.chainAngleLost mclk) s fun u => u.bit pMCH MCH.STATUS_ANGLE_OK = false ∧ u.bit pANG ANG.STATUS_HOLDOVER = true ∧
       u.get pANG ANG.HOLD_CYCLES = 0 ∧ u.mch.lost = true ∧ u.bit pMCH MCH.FAULT_ANGLE_LOST = true) ∧
  (∀ (s : State) (h : CellHead) (ch : Nat) (hop : Nat) (angle : Nat), s.takesCells 7 = true → s.enabled pMCH = true →
     s.mch.aligned = true → s.isHead = false → s.dupCell 7 h = false → h.src ≠ s.boardNum → 48 ≤ ch → ch < 64 → s.channelOn ch = true →
     s.chainLinked ch = true → s.enabled pANG = true → (s.deliveries.filter fun e => e.ch == ch).length + s.fires.count (ch, s.now) < 4 →
     Does (.eventCell h ch hop angle) s fun u =>
       u.deliveries.any (fun d => d.ch == ch && d.chain && d.due == 0 && d.angle == angle % 2 ^ 40) = true)

/-- R101–R103: an armed field-on of a chain whose field is off, its port driveable and in reach, with nothing to wait for (lock, rail, other
fields of the Wing), its switch through and the ramps of its configuration legal, begins its ramp-up with those ramps at its launch, and
the plateau is due after the programmed steps; at the plateau the settle begins, of 16 CCLK for each of SETTLE_CYCLES; at its end the
field is ON and FLAG.FIELD_ON set (R105). -/
def Obligations.FieldOn : Prop :=
  (∀ (s : State) (n : Nat), s.coreRuns = true → n < 9 → s.txc.length = 9 → (s.tx n).takeover = 0 → s.fieldSt n = 1 →
     (s.tx n).fired = true → (s.tx n).act = 1 → (s.tx n).capt = none → s.noField n = false → s.portOk (s.tx n).port = true →
     s.inReach n (s.tx n).port = true → s.mustWait n = false → s.railCtl (s.txRail n) ≠ 0 ∨ s.railState (s.txRail n) ≠ 4 →
     (s.tx n).swAt ≤ s.now → (s.chainRamp n).ok = true →
     Does (.fieldLaunch n) s fun u => u.fieldSt n = 2 ∧ (s.now + (s.chainRamp n).upLen, .plateau n) ∈ u.agenda ∧ (u.tx n).act = 4 ∧
       (u.tx n).ramp = s.chainRamp n ∧ (u.tx n).since = s.now ∧ (u.tx n).sw = (s.tx n).sw) ∧
  (∀ (s : State) (n : Nat), s.coreRuns = true → n < 9 → s.txc.length = 9 → s.fieldSt n = 2 → (s.tx n).act = 4 →
     n ≠ 8 ∨ (s.tx n).takeover ≠ 3 →
     Does (.plateau n) s fun u => u.fieldSt n = 3 ∧ (s.now + 16 * s.txGet n TXC.SETTLE_CYCLES, .settleEnd n) ∈ u.agenda) ∧
  (∀ (s : State) (n : Nat), s.coreRuns = true → n < 9 → s.fieldSt n = 3 →
     Does (.settleEnd n) s fun u => u.fieldSt n = 4 ∧ u.bit (pTXC n) TXC.FLAG_FIELD_ON = true)

/-- R103, R104: a field-off launched on a field that is ON begins the ramp-down of the captured ramp; at its end the field is OFF,
FLAG.FIELD_OFF is set and the switch is due to open in 64 CCLK; then the switch is at OPEN. -/
def Obligations.FieldOff : Prop :=
  (∀ (s : State) (n : Nat), s.coreRuns = true → n < 9 → s.txc.length = 9 → (s.tx n).takeover = 0 → s.fieldSt n = 4 →
     (s.tx n).fired = true → (s.tx n).act = 2 →
     Does (.fieldLaunch n) s fun u => u.fieldSt n = 5 ∧ (s.now + (s.tx n).ramp.downLen, .rampDownEnd n) ∈ u.agenda ∧
       (u.tx n).endSt = some stDONE ∧ (u.tx n).act = 6) ∧
  (∀ (s : State) (n : Nat), s.coreUp = true → n < 9 → s.txc.length = 9 → s.fieldSt n = 5 → (s.tx n).next = none → (s.tx n).act = 6 →
     Does (.rampDownEnd n) s fun u => u.fieldSt n = 0 ∧ u.bit (pTXC n) TXC.FLAG_FIELD_OFF = true ∧ (u.tx n).opening = true ∧
       (s.now + 64, .rampDownEnd n) ∈ u.agenda ∧ (u.tx n).act = 0) ∧
  (∀ (s : State) (n : Nat), s.coreUp = true → n < 9 → s.txc.length = 9 → s.fieldSt n = 0 → (s.tx n).opening = true →
     Does (.rampDownEnd n) s fun u => (u.tx n).sw = none ∧ u.regs = s.regs)

/-- R96, R97: a write of ATUNE.START on an idle enabled chain, its port driveable and in reach, no takeover of it under way, lock and rail not
out of the question, arms an auto-tune of that port, shown as running in ATUNE_RESULT; at the end of a scan that nothing held back waits
for and whose result its own page shows, ATUNE_RESULT shows the best capacitor value of its readings, that value's GAMMA2 and DONE within
ATUNE.ACCEPT, FAIL beyond it, FLAG.TUNE_DONE is set and the field is off; a start on a port that may not be driven is shown BAD_PORT and
leaves the field as it is. R94, R13: a write of a TUNE register, by a writer that no later one has overtaken on the edge (R38), stores the
written value in the bits that its access code lets a write change and leaves its other bits. Each of the three commands completes under
these conditions. -/
def Obligations.TuneRuns : Prop :=
  (∀ (s : State) (n : Nat), s.coreUp = true → n < 8 → s.txc.length = 9 → s.tx8Serve ≠ n + 1 → s.enabled (pTXC n) = true →
     s.portOk (s.get (pTXC n) TXC.ATUNE_PORT) = true → s.inReach n (s.get (pTXC n) TXC.ATUNE_PORT) = true → s.fieldSt n = 0 →
     (s.tx n).act = 0 → (s.tx 8).takeover = 0 ∨ (s.tx 8).tookPort ≠ n → s.noField n = false → s.enabled pCLK = true →
     s.get pCLK CLK.STATUS_SRC ≠ 0 → s.railCtl (s.txRail n) ≠ 2 → s.railState (s.txRail n) ≠ 4 →
     Does (.atuneStart n) s fun u => u.fieldSt n = 1 ∧ (u.tx n).act = 3 ∧ (u.tx n).port = s.get (pTXC n) TXC.ATUNE_PORT ∧
       u.get (pTXC n) TXC.ATUNE_RESULT_STATUS = 1 ∧ (u.tx n).fired = true ∧ (s.now + s.toCarrier, .fieldLaunch n) ∈ u.agenda) ∧
  (∀ (s : State) (n : Nat) (gammas : List Nat), s.coreRuns = true → n < 9 → s.txc.length = 9 →
     s.fieldSt n = 7 ∨ ((s.tx n).scanning = true ∧ (s.fieldSt n = 5 ∨ s.fieldSt n = 0)) → (s.tx n).act = 3 → (s.tx n).held = none →
     (s.tx n).port < 192 → (s.tx n).resPage = pTXC n → (s.tx n).tunePage = pTXC n →
     Does (.atuneComplete n gammas) s fun u =>
       u.get (pTXC n) TXC.ATUNE_RESULT_CAP = (scanResult (if gammas.isEmpty then (s.tx n).scan else gammas.map fun g => g % 256)).1 % 2 ^ 8 ∧
       u.get (pTXC n) TXC.ATUNE_RESULT_GAMMA2 = (scanResult (if gammas.isEmpty then (s.tx n).scan else gammas.map fun g => g % 256)).2 % 2 ^ 8 ∧
       u.get (pTXC n) TXC.ATUNE_RESULT_STATUS = (if (scanResult (if gammas.isEmpty then (s.tx n).scan else gammas.map fun g => g % 256)).2 ≤ s.get (pTXC n) TXC.ATUNE_ACCEPT then 2 else 3) ∧
       u.bit (pTXC n) TXC.FLAG_TUNE_DONE = true ∧ u.fieldSt n = 0 ∧ (u.tx n).act = 0) ∧
  (∀ (s : State) (n : Nat), s.coreUp = true → n < 8 → s.tx8Serve ≠ n + 1 → s.enabled (pTXC n) = true →
     s.portOk (s.get (pTXC n) TXC.ATUNE_PORT) = false → (s.tx n).act = 0 →
     Does (.atuneStart n) s fun u => u.get (pTXC n) TXC.ATUNE_RESULT_STATUS = 6 ∧ u.fieldSt n = s.fieldSt n) ∧
  (∀ (s : State) (src : Src) (port : Nat) (value : Nat) (r : RegRow), port < 192 → s.coreUp = true →
     regRow (pFIL (port / 8)) (0x10 + port % 8) = some r →
     s.writtenAfter (pFIL (port / 8) * 256 + (0x10 + port % 8)) (writeRank src) = false →
     Does (.tuneWrite src port value) s fun u =>
       u.reg (pFIL (port / 8)) (0x10 + port % 8) = (s.reg (pFIL (port / 8)) (0x10 + port % 8) &&& ~~~(s.writable (pFIL (port / 8)) r)) ||| (BitVec.ofNat 40 (value % 2 ^ 40) &&& s.writable (pFIL (port / 8)) r))

/-- R100: the monitor of an enabled chain, no injection masking it, shows the forward and reflected power it measured and their GAMMA2. R111:
an overcurrent and a control mismatch set their FAULT bits on the chain's page; R91: a switch readback that disagrees sets the port's
FAULT bit on its File page. -/
def Obligations.ChainMonitorAndFaults : Prop :=
  (∀ (s : State) (n : Nat) (fwd : Nat) (refl : Nat) (sq : Nat), s.coreRuns = true → n < 9 → s.enabled (pTXC n) = true →
     (s.tx n).injUntil ≤ s.now →
     Does (.monitorMean n fwd refl sq) s fun u => u.get (pTXC n) TXC.MON_FWD = Nat.min 65535 fwd ∧
       u.get (pTXC n) TXC.MON_REFL = Nat.min 65535 refl ∧
       u.get (pTXC n) TXC.MON_GAMMA2 = (if fwd < 100 then 0 else Nat.min 255 (256 * refl / fwd))) ∧
  (∀ (s : State) (n : Nat), s.coreRuns = true → n < 9 → s.enabled (pTXC n) = true →
     Does (.paOvercurrent n) s fun u => u.bitOf (pTXC n) COM.FAULT 2 = true) ∧
  (∀ (s : State) (n : Nat), s.coreRuns = true → n < 9 → s.enabled (pTXC n) = true →
     Does (.txcControlMismatch n) s fun u => u.bitOf (pTXC n) COM.FAULT 3 = true) ∧
  (∀ (s : State) (port : Nat), s.coreRuns = true → port < 192 →
     Does (.switchReadbackFault port) s fun u => u.bitOf (pFIL (port / 8)) COM.FAULT (8 + port % 8) = true)

/-- R147: a capture started on an enabled chain that RXC16 does not replace, none being in progress there, with a region inside SRAM and, in a
ring with a trigger, fewer than LEN words before it, runs at once without a trigger and waits ARMED with one; a region that does not fit
is REFUSED with code 0x07; a start during a capture ends that one STOPPED and arms the new one on the next edge (R152). A trigger that is
selected makes an armed capture RUNNING, CAP_TRIG naming the word of its sample; a stop ends it STOPPED, the last sample of its LEN (or of
the LEN − PRE from a ring's trigger on) DONE, both with FLAG.CAP_DONE; R148: an overrun ends it OVERRUN with FLAG.CAP_OVERRUN and code
0x05. No word of a line outside the region changes. -/
def Obligations.CaptureRuns : Prop :=
  (∀ (s : State) (n : Nat), s.coreRuns = true → n < 17 → s.capChain n = n → s.enabled (pRXC n) = true → s.capState n ≠ 1 →
     s.capState n ≠ 2 → s.rxGet n RXC.CAP_CFG_LEN ≠ 0 → s.rxGet n RXC.CAP_ADDR_START + s.rxGet n RXC.CAP_CFG_LEN - 1 ≤ sramLast →
     s.rxBit n RXC.CAP_CFG_RING = false ∨ s.rxGet n RXC.CAP_CFG_TRIG = 0 ∨ s.rxGet n RXC.CAP_CFG_PRE < s.rxGet n RXC.CAP_CFG_LEN →
     Does (.captureStart n) s fun u => u.capState n = (if s.rxGet n RXC.CAP_CFG_TRIG = 0 then 2 else 1) ∧
       u.get (pRXC n) RXC.CAP_STAT_NEXT = s.rxGet n RXC.CAP_ADDR_START % 2 ^ 21 ∧ u.bit (pRXC n) RXC.STATUS_CAPTURING = true ∧
       SameElsewhere rxPages s u) ∧
  (∀ (s : State) (n : Nat), s.coreRuns = true → n < 17 → s.capChain n = n → s.enabled (pRXC n) = true → s.capState n ≠ 1 →
     s.capState n ≠ 2 → s.rxGet n RXC.CAP_CFG_LEN ≠ 0 → sramLast < s.rxGet n RXC.CAP_ADDR_START + s.rxGet n RXC.CAP_CFG_LEN - 1 →
     Does (.captureStart n) s fun u => u.capState n = 6 ∧ u.get (pRXC n) COM.LAST_ERR_CODE = 7 ∧ SameElsewhere rxPages s u) ∧
  (∀ (s : State) (n : Nat) (b : Nat), s.coreRuns = true → n < 17 → s.capChain n = n → s.enabled (pRXC n) = true →
     s.capState n = 1 ∨ s.capState n = 2 → s.offCapture n b = true →
     Does (.captureStart n) s fun u => u.capState n = 4 ∧ u.bit (pRXC n) RXC.FLAG_CAP_DONE = true ∧ (s.now + 1, .capArm n) ∈ u.timers ∧
       u.word b = s.word b ∧ u.parityWord (b / 8) = s.parityWord (b / 8)) ∧
  (∀ (s : State) (n : Nat) (samples : List Nat) (b : Nat), s.coreRuns = true → n < 17 → s.capChain n = n →
     s.capState n = 1 ∨ s.capState n = 2 → s.offCapture n b = true →
     Does (.captureStop n samples) s fun u => u.capState n = 4 ∧ u.bit (pRXC n) RXC.STATUS_CAPTURING = false ∧
       u.bit (pRXC n) RXC.FLAG_CAP_DONE = true ∧ u.word b = s.word b ∧ u.parityWord (b / 8) = s.parityWord (b / 8)) ∧
  (∀ (s : State) (n : Nat) (trig : Nat) (samples : List Nat), s.coreRuns = true → n < 17 → s.capState n = 1 →
     s.rxGet n RXC.CAP_CFG_TRIG = trig → s.rxBit n RXC.CAP_CFG_RING = false →
     Does (.captureTrigger n trig samples) s fun u => u.capState n = 2 ∧ u.get (pRXC n) RXC.CAP_TRIG_ADDR = s.capNext n % 2 ^ 21 ∧
       SameElsewhere rxPages s u) ∧
  (∀ (s : State) (n : Nat) (samples : List Nat) (b : Nat), s.coreRuns = true → n < 17 → s.capState n = 2 →
     s.capLeft n = some samples.length → s.offCapture n b = true →
     Does (.captureDone n samples) s fun u => u.capState n = 3 ∧ u.bit (pRXC n) RXC.FLAG_CAP_DONE = true ∧ u.word b = s.word b ∧
       u.parityWord (b / 8) = s.parityWord (b / 8)) ∧
  (∀ (s : State) (n : Nat) (samples : List Nat) (b : Nat), s.coreRuns = true → n < 17 → s.capState n = 2 → s.offCapture n b = true →
     Does (.captureOverrun n samples) s fun u => u.capState n = 5 ∧ u.bit (pRXC n) RXC.FLAG_CAP_OVERRUN = true ∧
       u.get (pRXC n) COM.LAST_ERR_CODE = 5 ∧ u.word b = s.word b ∧ u.parityWord (b / 8) = s.parityWord (b / 8))

/-- R132: on an enabled chain with a field on its tap or a port coupled to it, none of them modulating, no frame in progress and its tap
closed, the converged leak canceller shows its coefficients and READY.LEAK. R134: a block of the check tone's grid that is not skipped
shows its errors. R138, R136: a block of a searching chain, no sample of it blanked, enters the noise floor's 32 newest blocks. R139:
DET.HOLD windows that qualify in correlation, class and power set FLAG.DETECT and begin timing, the gain frozen; R140: a largest X(n) of
at least XC_THR / 256 begins the frame, its timing origin at the sample of the largest X, and a lower one counts a false detection with
code 0x08 and the chain searches on. R141: a stronger packet with MODE 0 during a watched frame goes back to timing, with CAPTURED
counted, flagged and marked, and that frame has ended. -/
def Obligations.ReceiveLevels : Prop :=
  (∀ (s : State) (n : Nat) (i : Nat) (q : Nat) (residual : Nat), s.coreRuns = true → n < 17 → s.enabled (pRXC n) = true →
     s.nearField n = true → s.nearModulates n = false → s.rxState n ≠ 3 → (s.rx n).tapAt ≤ s.now →
     Does (.leakConverged n i q residual) s fun u => u.bit (pRXC n) RXC.READY_LEAK = true ∧ u.get (pRXC n) RXC.LEAK_LEAK_I = i % 2 ^ 20 ∧
       u.get (pRXC n) RXC.LEAK_LEAK_Q = q % 2 ^ 20 ∧ SameMemory s u) ∧
  (∀ (s : State) (n : Nat) (amp : Nat) (phase : Nat), s.coreRuns = true → n < 17 → s.enabled (pRXC n) = true → s.checkDue n = true →
     s.checkSkips n = false → (s.rx n).checkRun < 3 → (s.rx n).injBlocks = 0 →
     Does (.checkToneBlock n amp phase) s fun u => u.get (pRXC n) RXC.CHECK_AMP = amp % 2 ^ 8 ∧
       u.get (pRXC n) RXC.CHECK_PHASE = phase % 2 ^ 8 ∧ SameElsewhere rxPages s u) ∧
  (∀ (s : State) (n : Nat) (samples : List Nat), s.coreRuns = true → n < 17 → s.rxc.length = 17 → s.rxState n = 1 → samples.length = 8 →
     samples.any blanked = false → s.blankedNow n = false →
     Does (.agcBlock n samples) s fun u => (u.rx n).noise = ((energy samples, s.rxGain n) :: (s.rx n).noise).take 32 ∧ u.rxState n = 1 ∧
       SameMemory s u) ∧
  (∀ (s : State) (n : Nat) (samples : List Nat) (b : Nat), s.coreRuns = true → n < 17 → (s.rx n).blitz = true → s.rxState n = 1 →
     s.rxHears n = true → s.blankedNow n = false → s.rxBit n RXC.GAIN_FORCE = false →
     (List.range (s.detHold n)).all (fun i => s.corrHit n (corrWin samples i) && s.corrGate n (corrWin samples i)) = true →
     s.offCapture n b = true →
     Does (.preambleDetect n samples) s fun u => u.rxState n = 2 ∧ u.bit (pRXC n) RXC.FLAG_DETECT = true ∧
       u.get (pRXC n) RXC.AGC_FROZEN = s.rxGain n % 2 ^ 7 ∧ u.word b = s.word b ∧ u.parityWord (b / 8) = s.parityWord (b / 8) ∧
       (s.noCapture = true → SameElsewhere rxPages s u)) ∧
  (∀ (s : State) (n : Nat) (samples : List Nat), s.coreRuns = true → n < 17 → s.rxc.length = 17 → s.rxState n = 2 → samples.length = 128 →
     s.rxGet n RXC.DET_XC_THR * (matchPeak (s.eng ((s.engOf n).getD 0)).set samples).2.2 ≤ 256 * (matchPeak (s.eng ((s.engOf n).getD 0)).set samples).2.1 →
     Does (.fineTimingDecision n samples) s fun u => u.rxState n = 3 ∧
       (u.rx n).t0 = (s.rx n).detAt + 32 * (matchPeak (s.eng ((s.engOf n).getD 0)).set samples).1 - 256 ∧
       (u.rx n).startAngle = s.angleAgo (s.now - ((u.rx n).t0 - 2048)) ∧ (u.rx n).begun = true ∧ SameMemory s u) ∧
  (∀ (s : State) (n : Nat) (samples : List Nat), s.coreRuns = true → n < 17 → s.rxState n = 2 → samples.length = 128 →
     256 * (matchPeak (s.eng ((s.engOf n).getD 0)).set samples).2.1 < s.rxGet n RXC.DET_XC_THR * (matchPeak (s.eng ((s.engOf n).getD 0)).set samples).2.2 →
     Does (.fineTimingDecision n samples) s fun u => u.rxState n = 1 ∧
       u.get (pRXC n) RXC.COUNT_FALSE_DET = satInc 65535 (s.get (pRXC n) RXC.COUNT_FALSE_DET) ∧ u.bit (pRXC n) RXC.FLAG_FALSE_DET = true ∧
       u.get (pRXC n) COM.LAST_ERR_CODE = 8 ∧ SameMemory s u) ∧
  (∀ (s : State) (n : Nat) (samples : List Nat), s.coreRuns = true → n < 17 → s.rxc.length = 17 → (s.rx n).blitz = true →
     s.rxState n = 3 → s.rxBit n RXC.CAPTURE_WATCH_EN = true → s.rxBit n RXC.CAPTURE_MODE = false →
     (List.range (s.detHold n)).all (fun i => s.corrHit n (corrWin samples i)) = true →
     (List.range (s.detHold n)).all (fun i => decide (10 ^ Nat.max 3 (s.rxGet n RXC.CAPTURE_MARGIN) * ((s.rx n).power * 16) ^ 10 ≤ (energy ((samples.drop i).take 16) * (s.rx n).powerN) ^ 10)) = true →
     Does (.captureWatchFire n samples) s fun u => u.rxState n = 2 ∧ u.bit (pRXC n) RXC.FLAG_CAPTURED = true ∧ (u.rx n).mark = 3 ∧
       u.get (pRXC n) RXC.COUNT_CAPTURED = satInc 65535 (s.get (pRXC n) RXC.COUNT_CAPTURED) ∧ u.bit (pRXC n) RXC.FLAG_FRAME_END = true)

/-- R143: the start of a legacy frame on a searching chain that hears, outside a blanked sample, begins the frame at GAIN.LEGACY (R137) and
notes the angle and the axis of its first subcarrier cycles; R144, R145: its end decodes the halves of its bits along that axis, sets
FLAG.FRAME_END, shows FLAG.COLLISION where a bit of a coding with half-bit subcarriers collided and FLAG.CLIPPED with code 0x04 where it
clipped, and the chain searches on. -/
def Obligations.LegacyFrames : Prop :=
  (∀ (s : State) (n : Nat) (env : List (Int × Int)) (b : Nat), s.coreRuns = true → n < 17 → s.rxc.length = 17 → s.rxState n = 1 →
     (s.rx n).blitz = false → s.rxHears n = true → s.blankedNow n = false → s.offCapture n b = true →
     Does (.legacyFrameStart n env) s fun u => u.rxState n = 3 ∧ u.rxGain n = Nat.min 66 (s.rxGet n RXC.GAIN_LEGACY) ∧
       (u.rx n).startAngle = s.angle ∧ (u.rx n).axis = axisOf env ∧ (u.rx n).colls = [] ∧ u.word b = s.word b ∧
       u.parityWord (b / 8) = s.parityWord (b / 8) ∧ (s.noCapture = true → SameElsewhere rxPages s u)) ∧
  (∀ (s : State) (n : Nat) (clipped : Bool) (halves : List ((Int × Int) × (Int × Int))), s.coreRuns = true → n < 17 → s.rxc.length = 17 →
     s.rxState n = 3 → (s.rx n).blitz = false →
     Does (.legacyFrameEnd n clipped halves) s fun u => u.rxState n = 1 ∧ u.bit (pRXC n) RXC.FLAG_FRAME_END = true ∧
       (u.rx n).raw = halves.map (halfBit (s.eng ((s.engOf n).getD 0)).frame.kind (s.eng ((s.engOf n).getD 0)).frame.rrate (s.rx n).axis) ∧
       (clipped = true → u.bit (pRXC n) RXC.FLAG_CLIPPED = true ∧ u.get (pRXC n) COM.LAST_ERR_CODE = 4) ∧
       (halfCoded (s.eng ((s.engOf n).getD 0)).frame.kind (s.eng ((s.engOf n).getD 0)).frame.rrate = true → halves.any (fun h => s.collides n (cAbs2 h.1) (cAbs2 h.2)) = true → u.bit (pRXC n) RXC.FLAG_COLLISION = true) ∧
       SameMemory s u)

/-- R160, R164: a reply received whole ends its exchange: the engine shows the status of the reply decoded, is free again, and the move ends
with 0x40 + that status; a wait that is over with no frame begun and no preamble detected does the same with NO_RESPONSE. R195: a Blitz
frame that ends gives its move 0x40 + the status decoded, with FLAG.FRAME_END, and frees the lane. -/
def Obligations.RepliesEndExchanges : Prop :=
  (∀ (s : State) (w : Nat) (r : Reply) (c : Nat), s.coreRuns = true → w < 8 → (s.eng w).await = 1 → (s.rx (s.eng w).chain).begun = true →
     s.rxState (s.eng w).chain ≠ 3 → (s.eng w).prog = .exchange → (s.eng w).user = some c → c < 12 → s.ctxs.length = 12 →
     s.engs.length = 8 → s.run c ≠ 0 → (s.ctx c).ended = none → (s.ctx c).move.isSome = true → (s.eng w).stop = none →
     Does (.replyFrame w r) s fun u => u.get pPRT (PRT.ENG_STAT_FSTATUS w) = (s.decodeReply w r).1.status ∧ (u.eng w).user = none ∧
       (u.ctx c).ended = some (0x40 + (s.decodeReply w r).1.status)) ∧
  (∀ (s : State) (w : Nat) (c : Nat), s.coreRuns = true → w < 8 → (s.eng w).await = 1 → (s.rx (s.eng w).chain).begun = false →
     s.rxState (s.eng w).chain ≠ 2 → (s.eng w).waitAt.any (fun t => decide (t ≤ s.now)) = true → (s.eng w).prog = .exchange →
     (s.eng w).user = some c → c < 12 → s.ctxs.length = 12 → s.engs.length = 8 → s.run c ≠ 0 → (s.ctx c).ended = none →
     (s.ctx c).move.isSome = true → (s.eng w).stop = none →
     Does (.replyWaitEnd w) s fun u => u.get pPRT (PRT.ENG_STAT_FSTATUS w) = fsNO_RESPONSE ∧ (u.eng w).user = none ∧
       (u.ctx c).ended = some (0x40 + fsNO_RESPONSE)) ∧
  (∀ (s : State) (w : Nat) (f : BlitzFrame) (c : Nat), s.coreRuns = true → w < 8 → (s.eng w).await = 2 →
     (s.rx (s.eng w).chain).begun = true → s.rxState (s.eng w).chain = 3 → hdrGood (s.eng w).hdr = true → (s.eng w).prog = .blitz →
     (s.eng w).user = some c → c < 12 → s.ctxs.length = 12 → s.engs.length = 8 → s.run c ≠ 0 → (s.ctx c).ended = none →
     (s.ctx c).move.isSome = true → (s.eng w).stop = none →
     Does (.blitzFrameEnd w f) s fun u => (u.eng w).user = none ∧
       (u.ctx c).ended = some (0x40 + (((s.blitzClip w f.samples).linkQuality w f).decodeBlitz w f).status) ∧
       u.bit pBLZ BLZ.FLAG_FRAME_END = true)

/-- R130, R149: a tap readback that disagrees and a control mismatch set their FAULT bits on the chain's page. R151: a write of 1 to 16 to
RXC16.CFG.ASSIGN makes the free spare chain serve in place of that chain; one in use refuses with code 0x0B; a write of 17 releases it
when it has no listen or capture in flight. R115: a write of 1 to 8 to TXC8.CFG.ASSIGN makes the spare chain, serving and taking over
none, serve that Wing, shown on both pages; one that serves or takes over refuses with code 0x0F; a write of 9 releases it, its field off
and no takeover under way. R109: a variable rail that is on and follows demand, the Board not resigned, whose demand stayed below its
voltage for the delay is asked for the lower one. -/
def Obligations.SparesAndChainFaults : Prop :=
  (∀ (s : State) (n : Nat), s.coreRuns = true → n < 17 → s.enabled (pRXC n) = true → n < 16 ∨ s.rx16For = 0 →
     Does (.tapReadbackFault n) s fun u => u.bitOf (pRXC n) COM.FAULT 1 = true ∧
       (s.noCapture = true → SameElsewhere (pTST :: rxPages) s u)) ∧
  (∀ (s : State) (n : Nat), s.coreRuns = true → n < 17 → s.enabled (pRXC n) = true →
     Does (.rxcControlMismatch n) s fun u => u.bitOf (pRXC n) COM.FAULT 3 = true ∧
       (s.noCapture = true → SameElsewhere (pTST :: rxPages) s u)) ∧
  (∀ (s : State) (v : Nat), s.coreUp = true → 1 ≤ v → v ≤ 16 → s.rx16Serve = 0 → (s.rx 16).takeover = false →
     Does (.rxc16Assign v) s fun u => u.rx16Serve = v ∧ u.bit (pRXC 16) RXC.STATUS_SERVING = true ∧
       u.bit (pRXC (v - 1)) RXC.STATUS_REPLACED = true ∧ SameMemory s u) ∧
  (∀ (s : State) (v : Nat), s.coreUp = true → 1 ≤ v → v ≤ 16 → s.rx16Serve ≠ 0 ∨ (s.rx 16).takeover = true →
     Does (.rxc16Assign v) s fun u => u.rx16Serve = s.rx16Serve ∧ u.get (pRXC 16) COM.LAST_ERR_CODE = 0x0B) ∧
  (∀ s : State, s.coreUp = true → s.rx16Serve ≠ 0 → s.rxc.length = 17 → s.rxInFlight 16 = false → s.capState 16 ≠ 1 → s.capState 16 ≠ 2 →
     Does .rxc16Release s fun u => u.rx16Serve = 0 ∧ u.bit (pRXC 16) RXC.STATUS_SERVING = false ∧
       u.bit (pRXC (s.rx16Serve - 1)) RXC.STATUS_REPLACED = false ∧ SameMemory s u) ∧
  (∀ (s : State) (v : Nat), s.coreUp = true → 1 ≤ v → v ≤ 8 → s.tx8Serve = 0 → (s.tx 8).takeover = 0 →
     Does (.txc8Assign v) s fun u => u.tx8Serve = v ∧ u.bit (pTXC 8) TXC.STATUS_SERVING = true ∧
       u.bit (pTXC (v - 1)) TXC.STATUS_REPLACED = true) ∧
  (∀ (s : State) (v : Nat), s.coreUp = true → 1 ≤ v → v ≤ 8 → s.tx8Serve ≠ 0 ∨ (s.tx 8).takeover ≠ 0 →
     Does (.txc8Assign v) s fun u => u.tx8Serve = s.tx8Serve ∧ u.get (pTXC 8) COM.LAST_ERR_CODE = 0x0F) ∧
  (∀ s : State, s.coreUp = true → s.tx8Serve ≠ 0 → s.fieldSt 8 = 0 → (s.tx 8).takeover = 0 → s.txc.length = 9 →
     Does .txc8Release s fun u => u.tx8Serve = 0 ∧ u.bit (pTXC 8) TXC.STATUS_SERVING = false ∧
       u.bit (pTXC (s.tx8Serve - 1)) TXC.STATUS_REPLACED = false) ∧
  (∀ (s : State) (r : Nat), r = 2 ∨ r = 3 → s.railCtl r = 0 → s.resigned = false → s.railState r = 3 → s.demand r < (s.rail r).req →
     Does (.railLowering r) s fun u => u.railState r = 1)

/-- R192: a header that is not good sets FLAG.HDR_ERR, records code 0x02, counts it, and its frame ends FRAMING; R194: a header in which the
pilots slipped ends its frame FRAMING with code 0x0A. R208: a good one is kept, and Book 0 is applied where it names that. R181: a
mismatch of a protocol engine sets FAULT.ENG of its Wing; R215: one of a Blitz lane sets FAULT.LANE of its Wing. -/
def Obligations.BlitzHeadersAndEngineFaults : Prop :=
  (∀ (s : State) (w : Nat) (samples : List Nat) (c : Nat), s.coreRuns = true → w < 8 → (s.eng w).await = 2 →
     (s.rx (s.eng w).chain).begun = true → s.rxState (s.eng w).chain = 3 → 80 * (2 + headerSymbols (s.eng w).set) ≤ samples.length →
     (s.demod w samples).slip (headerSymbols (s.eng w).set) = none →
     hdrGood (packBits ((s.demod w samples).bits 0 (headerSymbols (s.eng w).set) (headerTones (s.eng w).set))) = false →
     (s.eng w).prog = .blitz → (s.eng w).user = some c → c < 12 → s.ctxs.length = 12 → s.engs.length = 8 → s.run c ≠ 0 →
     (s.ctx c).ended = none → (s.ctx c).move.isSome = true → (s.eng w).stop = none →
     Does (.blitzHeader w samples) s fun u => u.bit pBLZ BLZ.FLAG_HDR_ERR = true ∧
       u.get pBLZ BLZ.COUNT_HDR_ERR = satInc 65535 (s.get pBLZ BLZ.COUNT_HDR_ERR) ∧ u.get pBLZ COM.LAST_ERR_CODE = 2 ∧
       (u.ctx c).ended = some (0x40 + fsFRAMING)) ∧
  (∀ (s : State) (w : Nat) (samples : List Nat) (c : Nat), s.coreRuns = true → w < 8 → (s.eng w).await = 2 →
     (s.rx (s.eng w).chain).begun = true → s.rxState (s.eng w).chain = 3 → 80 * (2 + headerSymbols (s.eng w).set) ≤ samples.length →
     ((s.demod w samples).slip (headerSymbols (s.eng w).set)).isSome = true → (s.eng w).prog = .blitz → (s.eng w).user = some c → c < 12 →
     s.ctxs.length = 12 → s.engs.length = 8 → s.run c ≠ 0 → (s.ctx c).ended = none → (s.ctx c).move.isSome = true →
     (s.eng w).stop = none →
     Does (.blitzHeader w samples) s fun u => u.get pBLZ COM.LAST_ERR_CODE = 0x0A ∧ (u.ctx c).ended = some (0x40 + fsFRAMING)) ∧
  (∀ (s : State) (w : Nat) (samples : List Nat), s.coreRuns = true → w < 8 → (s.eng w).await = 2 → (s.rx (s.eng w).chain).begun = true →
     s.rxState (s.eng w).chain = 3 → 80 * (2 + headerSymbols (s.eng w).set) ≤ samples.length → s.engs.length = 8 →
     (s.eng w).user.isSome = true → (s.demod w samples).slip (headerSymbols (s.eng w).set) = none →
     hdrGood (packBits ((s.demod w samples).bits 0 (headerSymbols (s.eng w).set) (headerTones (s.eng w).set))) = true →
     (s.bookWords (s.eng w).port 0 4).isRight = true → s.bookInWindow = false →
     Does (.blitzHeader w samples) s fun u =>
       (u.eng w).hdr = (packBits ((s.demod w samples).bits 0 (headerSymbols (s.eng w).set) (headerTones (s.eng w).set))) ∧
       (hdrBook (packBits ((s.demod w samples).bits 0 (headerSymbols (s.eng w).set) (headerTones (s.eng w).set))) = 0 → (u.eng w).booked = true ∧ (u.eng w).book = book0)) ∧
  (∀ (s : State) (w : Nat), s.coreRuns = true → w < 8 → s.enabled pPRT = true →
     Does (.prtEngineMismatch w) s fun u => u.bitOf pPRT COM.FAULT (8 + w) = true) ∧
  (∀ (s : State) (w : Nat), s.coreRuns = true → w < 8 → s.enabled pBLZ = true →
     Does (.laneMismatch w) s fun u => u.bitOf pBLZ COM.FAULT (8 + w) = true)

/-- R223, R225, R227: a start with INV enabled and idle, the ledger and the plan in place, arms a pass, one that runs back to back with its
first round due at the carrier-cycle boundary, and a discovery start arms discovery, its first round due there as well; a stop makes a
running pass STOPPING (R229). R226: a round that is due begins with the plan's next round, shown in STATUS.ROUND; without one the pass
ends. R227: a pass that is stopped or does not repeat ends IDLE with FLAG.PASS_END, a counted pass with COUNT2.PASSES one higher, modulo
its width. R247: a mismatch of the scheduler sets FAULT.SCHED and ends what runs. R236: the changes that Kibitz left pending in DOZE are
handed on and cleared, and with KBZ_DISC queued for discovery. -/
def Obligations.InventoryPasses : Prop :=
  (∀ s : State, s.coreRuns = true → s.enabled pINV = true → s.invState = 0 → s.inv.oos = false → s.ledgerFits = true →
     (s.readPlan s.rounds).2.planOk = true → (match (s.readPlan s.rounds).1 with | .words _ => true | _ => false) = true →
     s.schedMode = 1 ∨ s.schedMode = 2 →
     Does .invStart s fun u => u.invState = 1 ∧ u.inv.disc = false ∧ u.inv.pass = 0 ∧ u.inv.ending = false ∧
       (s.schedMode = 2 → (s.now + s.toCarrier, .roundLaunch false) ∈ u.agenda)) ∧
  (∀ s : State, s.coreRuns = true → s.enabled pINV = true → s.invState = 0 → s.inv.oos = false → s.ledgerFits = true →
     (s.readPlan s.rounds).2.planOk = true → (match (s.readPlan s.rounds).1 with | .words _ => true | _ => false) = true →
     Does .invDiscover s fun u => u.invState = 3 ∧ u.inv.disc = true ∧ (s.now + s.toCarrier, .roundLaunch false) ∈ u.agenda) ∧
  (∀ s : State, s.coreRuns = true → s.invState ≠ 0 →
     Does .invStop s fun u => u.invState = 4 ∧ (s.inv.inRound = false → u.inv.ending = true)) ∧
  (∀ (s : State) (late : Bool) (r : Nat), s.coreRuns = true → s.enabled pINV = true → s.invState = 1 ∨ s.invState = 2 ∨ s.invState = 3 →
     s.inv.ending = false → s.inv.inRound = false → s.roundFrom = some r →
     Does (.roundLaunch late) s fun u => u.get pINV INV.STATUS_ROUND = r % 2 ^ 8) ∧
  (∀ (s : State) (late : Bool), s.coreRuns = true → s.enabled pINV = true → s.invState = 1 ∨ s.invState = 2 ∨ s.invState = 3 →
     s.inv.ending = false → s.inv.inRound = false → s.roundFrom = none →
     Does (.roundLaunch late) s fun u => u.inv.ending = true ∧ (s.now, .passEnd) ∈ u.agenda ∧ u.regs = s.regs) ∧
  (∀ s : State, s.coreRuns = true → s.invState = 4 → s.inv.ending = true → s.inv.inRound = false →
     Does .passEnd s fun u => u.invState = 0 ∧ u.bit pINV INV.FLAG_PASS_END = true ∧ u.inv.plan = []) ∧
  (∀ s : State, s.coreRuns = true → s.invState = 2 → s.inv.ending = true → s.inv.inRound = false → s.inv.disc = false →
     s.bit pINV INV.CFG_AUTO_DISC = false → s.bit pINV INV.SCHED_REPEAT = false →
     Does .passEnd s fun u => u.invState = 0 ∧ u.bit pINV INV.FLAG_PASS_END = true ∧
       u.get pINV INV.COUNT2_PASSES = (s.get pINV INV.COUNT2_PASSES + 1) % 2 ^ (INV.COUNT2_PASSES.hi + 1 - INV.COUNT2_PASSES.lo)) ∧
  (∀ s : State, s.coreRuns = true → s.enabled pINV = true →
     Does .invSchedMismatch s fun u => u.bitOf pINV COM.FAULT 1 = true ∧ u.invState = 0) ∧
  (∀ (s : State) (p : Nat), s.coreRuns = true → s.enabled pINV = true → p < 192 → s.bitOf pKBZ (KBZ.PEND_PORTS (p / 40)) (p % 40) = true →
     Does .pendHandoff s fun u => u.bitOf pKBZ (KBZ.PEND_PORTS (p / 40)) (p % 40) = false ∧
       (s.bit pINV INV.CFG_KBZ_DISC = true → u.queued p = true))

/-- R232: a sweep begins when the period expires, the next one period later; one that is due while a sweep runs waits for its end with
FLAG.OVERRUN and code 0x02. R233, R235: the ping of a port in LEARN or TRACK shows port, AMP and PHASE in LAST, and a drive current
outside its window sets FAULT.PING. R232: the end of a sweep is counted and flagged. R247: a mismatch sets FAULT.CMP. -/
def Obligations.KibitzSweeps : Prop :=
  (∀ s : State, s.kbzRuns = true → s.bit pKBZ KBZ.STATUS_SWEEPING = false →
     Does .sweepStart s fun u => u.bit pKBZ KBZ.STATUS_SWEEPING = true ∧ u.kbz.next = 0 ∧
       (s.now + orDefault 1 (s.kget pKBZ KBZ.SWEEP_PERIOD) * ms, .sweepStart) ∈ u.agenda ∧ SameMemory s u) ∧
  (∀ s : State, s.kbzRuns = true → s.coreUp = true → s.bit pKBZ KBZ.STATUS_SWEEPING = true →
     Does .sweepStart s fun u => u.kbz.waited = true ∧ u.bit pKBZ KBZ.FLAG_OVERRUN = true ∧ u.get pKBZ COM.LAST_ERR_CODE = 2 ∧
       SameMemory s u) ∧
  (∀ (s : State) (port : Nat) (r : PingResult), s.kbzRuns = true → s.bit pKBZ KBZ.STATUS_SWEEPING = true → port < 192 →
     s.kbz.next ≤ port → s.kbz.hits = 0 ∨ port = s.kbz.next → (s.skipTo port).pingable port = true →
     s.get pKBZ (KBZ.BASE_STATE port) = 1 ∨ s.get pKBZ (KBZ.BASE_STATE port) = 2 →
     Does (.ping port r) s fun u => u.get pKBZ KBZ.LAST_PORT = port ∧ u.get pKBZ KBZ.LAST_AMP = r.amp % 4096 ∧
       u.get pKBZ KBZ.LAST_PHASE = r.phase % 1024 ∧ (r.bad = true → u.bitOf pKBZ COM.FAULT 1 = true)) ∧
  (∀ s : State, s.kbzRuns = true → s.coreUp = true → s.bit pKBZ KBZ.STATUS_SWEEPING = true → s.kbz.waited = false →
     Does .sweepEnd s fun u => u.bit pKBZ KBZ.STATUS_SWEEPING = false ∧ u.bit pKBZ KBZ.FLAG_SWEEP_END = true ∧
       u.get pKBZ KBZ.SWEEPS_COUNT = (s.get pKBZ KBZ.SWEEPS_COUNT + 1) % 2 ^ (KBZ.SWEEPS_COUNT.hi + 1 - KBZ.SWEEPS_COUNT.lo) ∧
       SameMemory s u) ∧
  (∀ s : State, s.coreUp = true → s.enabled pKBZ = true → Does .kbzMismatch s fun u => u.bitOf pKBZ COM.FAULT 2 = true ∧ SameMemory s u)

/-- R320, R326: a read of a word whose syndrome is 0 leaves it and every other word as it was, but that three unequal copies of its poison
mark take their majority, and one with the mark sets FLAG.POISONED; of a word with a single-bit error, the word is corrected, written back
with fresh check bits, its poison mark kept, and the outcome shown in CE_LAST; of an uncorrectable word whose line is otherwise good, it
is rebuilt as the parity word XOR the seven others and written back, with FLAG.REBUILT and KIND 3; with a second uncorrectable word in the
line, or an uncorrectable parity word, every uncorrectable word keeps its bits, is marked poisoned and FAULT.UNCORR is set. -/
def Obligations.ReadsCorrect : Prop :=
  (∀ (s : State) (a : Nat) (b : Nat), s.coreUp = true → a ≤ sramLast → (s.word a).cls = .clean → (s.word a).psn = 0 ∨ (s.word a).psn = 7 →
     Does (.sramRead a) s fun u => u.word b = s.word b ∧ u.parityWord b = s.parityWord b ∧
       ((s.word a).psn = 7 → u.bit pMEM MEM.FLAG_POISONED = true) ∧ ((s.word a).psn = 0 → u.regs = s.regs)) ∧
  (∀ (s : State) (a : Nat) (b : Nat), s.coreUp = true → a ≤ sramLast → (s.word a).cls = .clean → (s.word a).psn ≠ 0 → (s.word a).psn ≠ 7 →
     b ≠ a →
     Does (.sramRead a) s fun u => u.word a = { s.word a with psn := if (s.word a).poisoned then 7 else 0 } ∧ u.word b = s.word b ∧
       u.parityWord b = s.parityWord b) ∧
  (∀ (s : State) (a : Nat) (b : Nat), s.coreUp = true → a ≤ sramLast → (s.word a).cls ≠ .clean → (s.word a).cls ≠ .bad → b ≠ a →
     Does (.sramRead a) s fun u => u.word a = freshWord (s.word a).fixed (s.word a).poisoned ∧ u.word b = s.word b ∧
       u.get pMEM MEM.CE_LAST_ADDR = a ∧ u.get pMEM MEM.CE_LAST_KIND = (s.word a).kind ∧
       u.get pMEM MEM.CE_LAST_SYNDROME = (s.word a).syn % 2 ^ 8 ∧ u.bit pMEM MEM.FLAG_CORRECTED = true) ∧
  (∀ (s : State) (a : Nat), s.coreUp = true → a ≤ sramLast → (s.word a).isBad = true → (s.parityWord (a / 8)).isBad = false →
     ((lineWords (a / 8)).all fun x => x == a || !(s.word x).isBad) = true →
     Does (.sramRead a) s fun u =>
       u.word a = freshWord (((lineWords (a / 8)).filter fun x => x ≠ a).foldl (fun v x => v ^^^ (s.word x).fixed) (s.parityWord (a / 8)).fixed) (s.word a).poisoned ∧
       u.bit pMEM MEM.FLAG_REBUILT = true ∧ u.get pMEM MEM.CE_LAST_KIND = 3 ∧ u.get pMEM MEM.CE_LAST_ADDR = a) ∧
  (∀ (s : State) (a : Nat) (b : Nat), s.coreUp = true → a ≤ sramLast → b / 8 = a / 8 → b ≠ a → (s.word a).isBad = true →
     (s.word b).isBad = true →
     Does (.sramRead a) s fun u => u.word a = freshWord (s.word a).data true ∧ u.word b = freshWord (s.word b).data true ∧
       u.bitOf pMEM COM.FAULT 3 = true ∧ u.bit pMEM MEM.FLAG_POISONED = true) ∧
  (∀ (s : State) (a : Nat), s.coreUp = true → a ≤ sramLast → (s.word a).isBad = true → (s.parityWord (a / 8)).isBad = true →
     Does (.sramRead a) s fun u => u.word a = freshWord (s.word a).data true ∧ u.bitOf pMEM COM.FAULT 3 = true ∧
       u.bit pMEM MEM.FLAG_POISONED = true)

/-- R321: a write of a word stores it with fresh check bits and a cleared poison bit. Its line's parity word becomes old parity XOR old word
XOR new word, from a good old word and parity word; the XOR of the eight words as they then stand, where the old word or the parity word
is uncorrectable; where the old word is and the line has another fault, the other uncorrectable words are poisoned. No word of another
line changes. -/
def Obligations.WritesKeepParity : Prop :=
  (∀ (s : State) (a : Nat) (v : Nat) (b : Nat), s.coreUp = true → a ≤ sramLast → v < 2 ^ 40 → b ≠ a → (s.word a).isBad = false →
     (s.parityWord (a / 8)).isBad = false →
     Does (.sramWrite a v) s fun u => u.word a = freshWord v false ∧ u.word b = s.word b ∧
       u.parityWord (a / 8) = freshWord ((s.parityWord (a / 8)).fixed ^^^ (s.word a).fixed ^^^ v) false ∧
       (b / 8 ≠ a / 8 → u.parityWord (b / 8) = s.parityWord (b / 8))) ∧
  (∀ (s : State) (a : Nat) (v : Nat) (b : Nat), s.coreUp = true → a ≤ sramLast → v < 2 ^ 40 → b ≠ a → (s.word a).isBad = false →
     (s.parityWord (a / 8)).isBad = true →
     Does (.sramWrite a v) s fun u => u.word a = freshWord v false ∧ u.word b = s.word b ∧
       u.parityWord (a / 8) = freshWord ((lineWords (a / 8)).foldl (fun x y => x ^^^ (u.word y).fixed) 0) false ∧
       u.get pMEM MEM.CE_LAST_KIND = 6) ∧
  (∀ (s : State) (a : Nat) (v : Nat), s.coreUp = true → a ≤ sramLast → v < 2 ^ 40 → (s.word a).isBad = true →
     ((lineWords (a / 8)).all fun x => x == a || !(s.word x).isBad) = true →
     Does (.sramWrite a v) s fun u => u.word a = freshWord v false ∧
       u.parityWord (a / 8) = freshWord ((lineWords (a / 8)).foldl (fun x y => x ^^^ (u.word y).fixed) 0) false) ∧
  (∀ (s : State) (a : Nat) (v : Nat) (b : Nat), s.coreUp = true → a ≤ sramLast → v < 2 ^ 40 → b / 8 = a / 8 → b ≠ a →
     (s.word a).isBad = true → (s.word b).isBad = true →
     Does (.sramWrite a v) s fun u => u.word a = freshWord v false ∧ u.word b = freshWord (s.word b).data true ∧
       u.parityWord (a / 8) = freshWord ((lineWords (a / 8)).foldl (fun x y => x ^^^ (u.word y).fixed) 0) false) ∧
  (∀ (s : State) (a : Nat) (v : Nat) (b : Nat), s.coreUp = true → a ≤ sramLast → b / 8 ≠ a / 8 →
     Does (.sramWrite a v) s fun u => u.word b = s.word b ∧ u.parityWord (b / 8) = s.parityWord (b / 8))

/-- R329: with the scrubber enabled, a line begun goes on to the next, which is due one INTERVAL later; the last one ends the pass, counted
and flagged, and a pass begins at line 0 (R330). The fast pass of R331 goes on at INTERVAL 110 to the next retained bank and ends into a
pass at PERIOD from line 0. A write of PERIOD recomputes INTERVAL. R330: a mismatch of the line counter sets FAULT.SEQ and restarts the
pass at line 0. R327: a codec mismatch delivers the word poisoned, without writing it, and sets FAULT.CODEC. -/
def Obligations.Scrubbing : Prop :=
  (∀ s : State, s.coreRuns = true → s.enabled pSCB = true → s.bit pSCB SCB.STATUS_FAST = false → s.get pSCB SCB.POS_LINE + 1 < 196608 →
     Does .scrubLine s fun u => u.get pSCB SCB.POS_LINE = s.get pSCB SCB.POS_LINE + 1 ∧
       (s.now + s.get pSCB SCB.CFG_INTERVAL, .scrubLine) ∈ u.agenda) ∧
  (∀ s : State, s.coreRuns = true → s.enabled pSCB = true → s.bit pSCB SCB.STATUS_FAST = false → s.get pSCB SCB.POS_LINE = 196607 →
     Does .scrubLine s fun u => u.get pSCB SCB.POS_LINE = 0 ∧
       u.get pSCB SCB.COUNT_PASSES = (s.get pSCB SCB.COUNT_PASSES + 1) % 2 ^ (SCB.COUNT_PASSES.hi + 1 - SCB.COUNT_PASSES.lo) ∧
       u.bit pSCB SCB.FLAG_PASS_END = true ∧ u.scb.passAt = s.now) ∧
  (∀ s : State, s.coreRuns = true → s.enabled pSCB = true → s.bit pSCB SCB.STATUS_FAST = true →
     s.scbNext (s.get pSCB SCB.POS_LINE) < 196608 →
     Does .scrubLine s fun u => u.get pSCB SCB.POS_LINE = s.scbNext (s.get pSCB SCB.POS_LINE) ∧ (s.now + 110, .scrubLine) ∈ u.agenda) ∧
  (∀ s : State, s.coreRuns = true → s.enabled pSCB = true → s.bit pSCB SCB.STATUS_FAST = true →
     196608 ≤ s.scbNext (s.get pSCB SCB.POS_LINE) →
     Does .scrubLine s fun u => u.get pSCB SCB.POS_LINE = 0 ∧ u.bit pSCB SCB.STATUS_FAST = false ∧
       (s.now + s.get pSCB SCB.CFG_INTERVAL, .scrubLine) ∈ u.agenda) ∧
  (∀ (s : State) (v : Nat), s.coreUp = true → s.locked pSCB = false →
     Does (.scbPeriodWrite v) s fun u => u.get pSCB SCB.CFG_PERIOD = v % 2 ^ 16 ∧
       u.get pSCB SCB.CFG_INTERVAL = scrubInterval (v % 2 ^ 16) ∧ SameElsewhere [pSCB] s u) ∧
  (∀ s : State, s.coreRuns = true →
     Does .scrubSeqMismatch s fun u => u.bitOf pSCB COM.FAULT 1 = true ∧ u.get pSCB SCB.POS_LINE = 0 ∧ u.scb.passAt = s.now ∧
       SameMemory s u) ∧
  (∀ (s : State) (a : Nat), s.coreUp = true → a ≤ sramLast →
     Does (.codecMismatch a) s fun u => u.bitOf pMEM COM.FAULT 2 = true ∧ u.bit pMEM MEM.FLAG_POISONED = true ∧ SameMemory s u)

/-- R332, R333: a self-test after reset, with no line kept by the fault manager, leaves every bank zeroed and usable, with the failed ones in
BIST.FAIL; R334: a wake zeroes the banks not retained, and BIST.GO takes one bank out of use while nothing else works, or is refused with
code 0x08 while the Conductor is enabled. R335: an injection inverts the stored bits that its masks name and no others, and RAW shows
them; a target beyond SRAM is refused with FLAG.RANGE. -/
def Obligations.BanksAndInjection : Prop :=
  (∀ (s : State) (f : Nat) (b : Nat), s.coreUp = true → s.memPhase = 1 → 196608 ≤ s.get pFLT FLT.KEEP_ADDR_LINE →
     Does (.memSelfTest f) s fun u => u.word b = ⟨0, 0, 0⟩ ∧ u.get pMEM MEM.READY_BANK = 0xFFFFFF ∧
       u.get pMEM MEM.BIST_FAIL = f % 2 ^ 24 ∧ (f % 2 ^ 24 ≠ 0 → u.bitOf pMEM COM.FAULT 1 = true) ∧ u.memPhase = 0) ∧
  (∀ (s : State) (b : Nat) (a : Nat), s.coreUp = true → s.memPhase = 2 → b < 24 → s.mode ≠ 4 → a / 65536 = b →
     Does .bankZeroing s fun u => u.word a = (if s.bitOf pPWR PWR.RETAIN_BANKS b then s.word a else ⟨0, 0, 0⟩) ∧
       u.get pMEM MEM.READY_BANK = 0xFFFFFF ∧ u.memPhase = 0) ∧
  (∀ s : State, s.coreUp = true → s.enabled pCND0 = true →
     Does .bistGo s fun u => u.get pMEM COM.LAST_ERR_CODE = 8 ∧ u.memPhase = s.memPhase ∧ SameElsewhere [pMEM] s u) ∧
  (∀ s : State, s.coreUp = true → s.enabled pCND0 = false → s.get pINV INV.STATUS_STATE = 0 → s.get pBLZ BLZ.STATUS_LANE_BUSY = 0 →
     s.get pPRT PRT.STATUS_ENG_BUSY = 0 → ((List.range 17).all fun n => !s.bit (pRXC n) RXC.STATUS_CAPTURING) = true →
     s.get pMEM MEM.BIST_BANK < 24 → s.memPhase = 0 →
     Does .bistGo s fun u => u.memPhase = 3 ∧ u.bistBank = s.get pMEM MEM.BIST_BANK ∧
       u.bitOf pMEM MEM.READY_BANK (s.get pMEM MEM.BIST_BANK) = false ∧ SameElsewhere [pMEM] s u) ∧
  (∀ (s : State) (b : Nat) (q : Nat) (o : Nat), s.coreUp = true → s.locked pMEM = false → s.get pMEM MEM.INJ_ADDR ≤ sramLast →
     s.bit pMEM MEM.INJ_PARITY = false → q < pEVT 0 →
     Does .injGo s fun u =>
       u.word b = (if b = s.get pMEM MEM.INJ_ADDR then (s.word b).flip (s.get pMEM MEM.INJ_MASK) (s.get pMEM MEM.INJ_CHECK_MASK) else s.word b) ∧
       u.reg q o = s.reg q o ∧ u.parity = s.parity) ∧
  (∀ (s : State) (q : Nat) (o : Nat), s.coreUp = true → s.locked pMEM = false → s.get pMEM MEM.INJ_ADDR ≤ sramLast →
     s.bit pMEM MEM.INJ_PARITY = true → q < pEVT 0 →
     Does .injGo s fun u =>
       u.parityWord (s.get pMEM MEM.INJ_ADDR / 8) = (s.parityWord (s.get pMEM MEM.INJ_ADDR / 8)).flip (s.get pMEM MEM.INJ_MASK) (s.get pMEM MEM.INJ_CHECK_MASK) ∧
       u.reg q o = s.reg q o ∧ u.sram = s.sram) ∧
  (∀ s : State, s.coreUp = true → s.locked pMEM = false → sramLast < s.get pMEM MEM.INJ_ADDR →
     Does .injGo s fun u => u.bit pMEM MEM.FLAG_RANGE = true ∧ u.get pMEM COM.LAST_ERR_CODE = 8 ∧ SameElsewhere [pMEM] s u) ∧
  (∀ s : State, s.coreUp = true → s.locked pMEM = false → s.get pMEM MEM.INJ_ADDR ≤ sramLast → s.bit pMEM MEM.INJ_PARITY = false →
     Does .injRaw s fun u => u.get pMEM MEM.RAW = (s.word (s.get pMEM MEM.INJ_ADDR)).data ∧
       u.get pMEM MEM.RAW_CHK_CHECK = (s.word (s.get pMEM MEM.INJ_ADDR)).chk % 2 ^ 8 ∧
       u.bit pMEM MEM.RAW_CHK_POISON = (s.word (s.get pMEM MEM.INJ_ADDR)).poisoned ∧ SameElsewhere [pMEM] s u)

/-- R328: a read of WINk delivers the word at ACC_BASE + k with the effects of any read, and its poison mark in WIN_PSN; a write replaces the
word under R321; beyond SRAM it reads 0 and discards writes, with FLAG.RANGE and code 0x07; with MEM disabled it reads 0 and discards
writes. -/
def Obligations.WindowOfMemory : Prop :=
  (∀ (s : State) (w : Nat), s.coreUp = true → w < 32 → s.enabled pMEM = true → s.memPhase ≠ 3 → s.codecInj = false →
     s.get pMEM MEM.ACC_BASE_ADDR + w ≤ sramLast →
     Does (.memWindowRead w) s fun u => u.hpt.out = beBytes 5 (s.peek (s.get pMEM MEM.ACC_BASE_ADDR + w)).1 ∧
       u.bitOf pMEM MEM.WIN_PSN_WIN w = (s.peek (s.get pMEM MEM.ACC_BASE_ADDR + w)).2 ∧
       u.sram = (s.readState (s.get pMEM MEM.ACC_BASE_ADDR + w) false).sram) ∧
  (∀ (s : State) (w : Nat) (v : Nat), s.coreUp = true → w < 32 → v < 2 ^ 40 → s.enabled pMEM = true → s.memPhase ≠ 3 →
     s.get pMEM MEM.ACC_BASE_ADDR + w ≤ sramLast →
     Does (.memWindowWrite w v) s fun u => u = s.memWrite (s.get pMEM MEM.ACC_BASE_ADDR + w) v) ∧
  (∀ (s : State) (w : Nat), s.coreUp = true → w < 32 → s.enabled pMEM = true →
     sramLast < s.get pMEM MEM.ACC_BASE_ADDR + w ∨ s.memPhase = 3 ∧ (s.get pMEM MEM.ACC_BASE_ADDR + w) / 65536 = s.bistBank →
     Does (.memWindowRead w) s fun u => u.hpt.out = [0, 0, 0, 0, 0] ∧ u.bit pMEM MEM.FLAG_RANGE = true ∧
       u.get pMEM COM.LAST_ERR_CODE = 7 ∧ SameElsewhere [pMEM] s u) ∧
  (∀ (s : State) (w : Nat) (v : Nat), s.coreUp = true → w < 32 → s.enabled pMEM = true →
     sramLast < s.get pMEM MEM.ACC_BASE_ADDR + w ∨ s.memPhase = 3 ∧ (s.get pMEM MEM.ACC_BASE_ADDR + w) / 65536 = s.bistBank →
     Does (.memWindowWrite w v) s fun u => u.bit pMEM MEM.FLAG_RANGE = true ∧ u.get pMEM COM.LAST_ERR_CODE = 7 ∧ SameElsewhere [pMEM] s u) ∧
  (∀ (s : State) (w : Nat), s.coreUp = true → w < 32 → s.enabled pMEM = false →
     Does (.memWindowRead w) s fun u => u.hpt.out = [0, 0, 0, 0, 0] ∧ u.regs = s.regs ∧ SameMemory s u) ∧
  (∀ (s : State) (w : Nat) (v : Nat), s.enabled pMEM = false → Does (.memWindowWrite w v) s fun u => u = s)

/-- R337, R338: START with a valid POLY and MODE captures CFG, seeds the running register and opens the block; a reserved one opens none, with
FLAG.BAD_CFG and code 0x05. A write of DATAm feeds its bytes, in order; with no block open it is discarded with code 0x06. END of a plain
block gives RUN XOR the final value in RESULT, closes the block and sets FLAG.DONE; with DIR 1 RESULT is compared with EXPECT (R340).
R341: a write of RUN replaces the running register; a mismatch sets FAULT.LOGIC. -/
def Obligations.CheckValues : Prop :=
  (∀ (s : State) (n : Nat), s.coreRuns = true → n < 4 → s.enabled (pCKU n) = true → s.get (pCKU n) CKU.CFG_POLY < 4 →
     s.get (pCKU n) CKU.CFG_MODE = 0 ∨ s.get (pCKU n) CKU.CFG_MODE = 2 →
     Does (.ckuStart n) s fun u => u.get (pCKU n) CKU.RUN_REG = ckuInit (s.get (pCKU n) CKU.CFG_POLY) ∧
       u.bit (pCKU n) CKU.STATUS_OPEN = true ∧ SameElsewhere [pCKU n] s u) ∧
  (∀ (s : State) (n : Nat), s.coreRuns = true → n < 4 → s.enabled (pCKU n) = true →
     4 ≤ s.get (pCKU n) CKU.CFG_POLY ∨ s.get (pCKU n) CKU.CFG_MODE = 3 →
     Does (.ckuStart n) s fun u => u.bit (pCKU n) CKU.STATUS_OPEN = false ∧ u.bit (pCKU n) CKU.FLAG_BAD_CFG = true ∧
       u.get (pCKU n) COM.LAST_ERR_CODE = 5 ∧ SameElsewhere [pCKU n] s u) ∧
  (∀ (s : State) (n : Nat) (m : Nat) (v : Nat), s.coreRuns = true → n < 4 → 1 ≤ m → m ≤ 5 → s.enabled (pCKU n) = true →
     s.bit (pCKU n) CKU.STATUS_OPEN = true →
     Does (.ckuData n m v false) s fun u =>
       u.get (pCKU n) CKU.RUN_REG = crcRun (ckuPoly (bits (s.ckuCfg n) 2 0)) (s.get (pCKU n) CKU.RUN_REG) (beBytes m v) % 2 ^ 32 ∧
       u.bit (pCKU n) CKU.STATUS_OPEN = true ∧ SameElsewhere [pCKU n] s u) ∧
  (∀ (s : State) (n : Nat) (m : Nat) (v : Nat) (p : Bool), s.coreRuns = true → n < 4 → 1 ≤ m → m ≤ 5 → s.enabled (pCKU n) = true →
     s.bit (pCKU n) CKU.STATUS_OPEN = false →
     Does (.ckuData n m v p) s fun u => u.get (pCKU n) CKU.RUN_REG = s.get (pCKU n) CKU.RUN_REG ∧ u.get (pCKU n) COM.LAST_ERR_CODE = 6 ∧
       SameElsewhere [pCKU n] s u) ∧
  (∀ (s : State) (n : Nat), s.coreRuns = true → n < 4 → s.enabled (pCKU n) = true → s.bit (pCKU n) CKU.STATUS_OPEN = true →
     bits (s.ckuCfg n) 5 4 = 0 →
     Does (.ckuEnd n) s fun u =>
       u.get (pCKU n) CKU.RESULT_VALUE = (s.get (pCKU n) CKU.RUN_REG ^^^ ckuXor (bits (s.ckuCfg n) 2 0)) % 2 ^ 32 ∧
       u.bit (pCKU n) CKU.STATUS_OPEN = false ∧ u.bit (pCKU n) CKU.FLAG_DONE = true ∧
       ((s.ckuCfg n).testBit 9 = true → u.bit (pCKU n) CKU.STATUS_MATCH = (u.get (pCKU n) CKU.RESULT_VALUE % 2 ^ ckuWidth (bits (s.ckuCfg n) 2 0) == s.get (pCKU n) CKU.EXPECT_VALUE % 2 ^ ckuWidth (bits (s.ckuCfg n) 2 0))) ∧
       ((s.ckuCfg n).testBit 9 = true → u.bit (pCKU n) CKU.STATUS_MATCH = false → u.bit (pCKU n) CKU.FLAG_MISMATCH = true ∧ u.get (pCKU n) COM.LAST_ERR_CODE = 1) ∧
       SameElsewhere [pCKU n] s u) ∧
  (∀ (s : State) (n : Nat) (v : Nat), s.coreUp = true → n < 4 → s.locked (pCKU n) = false →
     Does (.ckuRunWrite n v) s fun u => u.get (pCKU n) CKU.RUN_REG = v % 2 ^ 32 ∧ SameElsewhere [pCKU n] s u) ∧
  (∀ (s : State) (n : Nat), s.coreRuns = true → n < 4 →
     Does (.ckuLogicMismatch n) s fun u => u.bitOf (pCKU n) COM.FAULT 1 = true ∧ SameMemory s u)

/-- R13, R14: a write of a common register other than CTRL and FAULT stores the written value in its RW fields and, while the page is
unlocked, in its RWL fields, clears the W1C bits written 1 that were not set on this edge, and changes no other bit of it; where a writer
later in the order of R38 has written the register on this edge, its RW and RWL fields stay as that one left them. FLAG_SET sets the FLAG
bits written 1. R30, R31: a write of a reserved offset, of a reserved page or of an unpowered page changes nothing. R37, R14: ENABLE of a
check-value unit takes the value written; a write of 1 to it enables PRT, BLZ, a CND or EVT page, ARB, TST, SCB, KBZ, a TXC page or a
check-value unit that is disabled, and a write of 0 disables MCH, SCB and TST, each changing no other page; DEV, PWR, HPT and FLT are
always enabled, and a write to theirs changes no register (ARB and EVT and the numbers of LAST_ERR aside). LOCK becomes 1 on every page
but FLT. R36: SOFT_RESET of any page makes READY.READY read 0, to end within 64 CCLK or, with CCLK stopped, 1 µs, and leaves LAST_ERR and
ERR_COUNT as they were; that of a check-value unit returns its own registers to their reset values. -/
def Obligations.RegisterWrites : Prop :=
  (∀ (s : State) (src : Src) (page : Nat) (off : Nat) (v : Nat) (r : RegRow), s.reachable page = true → off < 0x10 → off ≠ 1 → off ≠ 6 →
     off ≠ 7 → regRow page off = some r →
     Does (.registerWrite src page off v false) s fun u =>
       u.reg page off = (if s.writtenAfter (page * 256 + off) (writeRank src) = true then s.reg page off &&& ~~~(BitVec.ofNat 40 v &&& BitVec.ofNat 40 r.w1c &&& ~~~(s.setNow (page * 256 + off))) else (s.reg page off &&& ~~~(s.writable page r ||| (BitVec.ofNat 40 v &&& BitVec.ofNat 40 r.w1c &&& ~~~(s.setNow (page * 256 + off))))) ||| (BitVec.ofNat 40 v &&& s.writable page r)) ∧
       SameMemory s u) ∧
  (∀ (s : State) (src : Src) (page : Nat) (v : Nat) (r : RegRow), s.reachable page = true → regRow page 6 = some r →
     Does (.registerWrite src page 6 v false) s fun u => u.reg page 4 = s.reg page 4 ||| (BitVec.ofNat 40 v &&& BitVec.ofNat 40 r.wo) ∧
       SameMemory s u) ∧
  (∀ (s : State) (src : Src) (page : Nat) (off : Nat) (v : Nat) (p : Bool), s.reachable page = false ∨ regRow page off = none →
     Does (.registerWrite src page off v p) s fun u => u = s) ∧
  (∀ (s : State) (n : Nat) (on : Bool), s.coreUp = true → n < 4 → s.locked (pCKU n) = false →
     Does (.ctrlEnableWrite (pCKU n) on) s fun u => u.enabled (pCKU n) = on ∧ SameMemory s u) ∧
  (∀ (s : State) (page : Nat), s.coreUp = true → s.enabled page = false →
     page ∈ [pPRT, pBLZ, pCND0, pCND 0, pCND 4, pCND 8, pARB, pTST, pSCB, pKBZ] ++ (List.range 8).map pEVT ++ List.range' 0x10 9 ++ List.range' 0x0A 4 →
     Does (.ctrlEnableWrite page true) s fun u => u.enabled page = true ∧ SameElsewhere [page] s u) ∧
  (∀ (s : State) (page : Nat), s.coreUp = true → page ∈ [pMCH, pSCB, pTST] →
     Does (.ctrlEnableWrite page false) s fun u => u.enabled page = false ∧ SameElsewhere [page] s u) ∧
  (∀ (s : State) (page : Nat) (on : Bool), page ∈ [pDEV, pPWR, pHPT, pFLT] →
     Does (.ctrlEnableWrite page on) s fun u => u.reg page 1 = s.reg page 1 ∧ SameElsewhere [] s u) ∧
  (∀ (s : State) (page : Nat), s.reachable page = true →
     Does (.softReset page) s fun u => u.view page 3 false % 2 = 0 ∧ u.reg page 8 = s.reg page 8 ∧ u.reg page 9 = s.reg page 9 ∧
       u.timers.any (fun t => t.2 == .softDone page && decide (t.1 ≤ s.now + 217)) = true) ∧
  (∀ (s : State) (page : Nat), s.reachable page = true → page ≠ pFLT →
     Does (.lockWrite page) s fun u => u.bit page COM.LOCK = true ∧ SameElsewhere [page] s u) ∧
  (∀ (s : State) (n : Nat) (o : Nat), s.coreUp = true → n < 4 → 0x10 ≤ o → s.locked (pCKU n) = false →
     Does (.softReset (pCKU n)) s fun u => u.reg (pCKU n) o = regDefault (pCKU n * 256 + o) ∧ u.bit (pCKU n) CKU.STATUS_OPEN = false ∧
       u.view (pCKU n) 3 false % 2 = 0 ∧ SameMemory s u)

/-- R31: while CORE is unpowered a READ of a register of DEV, PWR, FLT, HPT or ANG returns its value and a WRITE reaches it (FLAG_EN takes the
value written); a READ of any other page returns zeros with the code of an unpowered domain, and a WRITE to it is discarded; neither
counts as a violation. (SDR frames; the five bytes of a register leave most significant first.) -/
def Obligations.UnpoweredPages : Prop :=
  (∀ (s : State) (b : Nat) (en : Bool) (page : Nat) (off : Nat), s.coreUp = false → s.bit pHPT HPT.STATUS_MASTERING = false →
     s.bit pHPT HPT.STATUS_DDR = false → s.ownFrame b en = true → b % 64 ≠ 63 →
     page = pDEV ∨ page = pPWR ∨ page = pFLT ∨ page = pHPT ∨ page = pANG → (regRow page off).isSome = true →
     ¬ (page = pHPT ∧ off = HPT.RPT_POP.off) →
     Does (.hostRead b page off 1 [] en) s fun u => u.hpt.out = [s.statusByte, 0x80] ++ beBytes 5 (s.selFall.view page off true) ∧
       u.hpt.result = 0 ∧ u.get pHPT HPT.VLOG_PTR = s.get pHPT HPT.VLOG_PTR) ∧
  (∀ (s : State) (b : Nat) (en : Bool) (page : Nat) (off : Nat) (v : Nat) (r : RegRow), s.coreUp = false →
     s.bit pHPT HPT.STATUS_MASTERING = false → s.ownFrame b en = true →
     page = pDEV ∨ page = pPWR ∨ page = pFLT ∨ page = pHPT ∨ page = pANG → off = 5 → s.locked page = false → regRow page off = some r →
     Does (.hostWrite ⟨en, b, page, off, beBytes 5 v, 0, 0, false⟩) s fun u =>
       u.reg page off = (s.reg page off &&& ~~~(s.writable page r)) ||| (BitVec.ofNat 40 v &&& s.writable page r) ∧ u.hpt.result = 0 ∧
       u.get pHPT HPT.VLOG_PTR = s.get pHPT HPT.VLOG_PTR) ∧
  (∀ (s : State) (b : Nat) (en : Bool) (page : Nat) (off : Nat), s.coreUp = false → s.bit pHPT HPT.STATUS_MASTERING = false →
     s.bit pHPT HPT.STATUS_DDR = false → s.ownFrame b en = true → b % 64 ≠ 63 → page < 256 → (pageKind page).isSome = true →
     ¬ (page = pDEV ∨ page = pPWR ∨ page = pFLT ∨ page = pHPT ∨ page = pANG) →
     Does (.hostRead b page off 1 [] en) s fun u => u.hpt.out = [s.statusByte, 2, 0, 0, 0, 0, 0] ∧ u.hpt.result = 2 ∧
       u.get pHPT HPT.VLOG_PTR = s.get pHPT HPT.VLOG_PTR ∧ SameElsewhere [pHPT] s u) ∧
  (∀ (s : State) (b : Nat) (en : Bool) (page : Nat) (off : Nat) (v : Nat), s.coreUp = false → s.bit pHPT HPT.STATUS_MASTERING = false →
     s.ownFrame b en = true → page < 256 → (pageKind page).isSome = true →
     ¬ (page = pDEV ∨ page = pPWR ∨ page = pFLT ∨ page = pHPT ∨ page = pANG) →
     Does (.hostWrite ⟨en, b, page, off, beBytes 5 v, 0, 0, false⟩) s fun u => u.hpt.result = 2 ∧
       u.get pHPT HPT.VLOG_PTR = s.get pHPT HPT.VLOG_PTR ∧ SameElsewhere [pHPT] s u)

/-- R350, R367: a STATUS frame to this Board returns its status byte, and CONTROL 0xA5 0x5A also requests Resign; a frame to another Board
changes no register. R354, R360, R362: a frame with OP 3, or a CONTROL frame with an unknown function or argument, is logged as BAD_OPCODE
at VLOG_PTR.WR, with FLAG.VIOLATION and result 7. R353: a READ of a page that is not implemented returns zeros with code 6. R74: a WRITE
of DEV.BOARD_NUM takes the number at the end of the frame; one broadcast is refused with code 8. R349, R16: a WRITE frame to this Board
stores in FLAG_EN of an unlocked page of a check-value unit as a write of the register does. -/
def Obligations.HostFrames : Prop :=
  (∀ (s : State) (b : Nat) (en : Bool), s.bit pHPT HPT.STATUS_MASTERING = false → s.ownFrame b en = true → b % 64 ≠ 63 →
     Does (.status b en) s fun u => u.hpt.out = [s.statusByte] ∧ u.get pHPT HPT.LAST_FRAME_OPCODE = 2 ∧ SameElsewhere [pHPT] s u) ∧
  (∀ (s : State) (b : Nat) (en : Bool), s.bit pHPT HPT.STATUS_MASTERING = false → s.ownFrame b en = false →
     Does (.status b en) s fun u => u.regs = s.regs ∧ u.hpt = s.hpt ∧ SameMemory s u) ∧
  (∀ (s : State) (b : Nat) (en : Bool), s.bit pHPT HPT.STATUS_MASTERING = false → s.ownFrame b en = true → s.flt.request = 0 →
     Does (.resignFrame b en) s fun u => u.flt.request = 2 ∧ SameElsewhere [pHPT] s u) ∧
  (∀ (s : State) (b : Nat) (en : Bool) (op : Nat) (page : Nat) (off : Nat) (n : Nat), s.bit pHPT HPT.STATUS_MASTERING = false →
     s.ownFrame b en = true → op = 3 ∨ op = 2 ∧ ¬ (page = 0 ∧ off = 0) ∧ ¬ (page = 0xA5 ∧ off = 0x5A) → page < 256 → off < 256 →
     n < 4096 →
     Does (.badOpcode b op page off n en) s fun u =>
       u.get pHPT (HPT.VLOG_ENTRY (s.get pHPT HPT.VLOG_PTR_WR)) = 7 * 2 ^ 36 + op * 2 ^ 34 + b % 64 * 2 ^ 28 + page * 2 ^ 20 + off * 2 ^ 12 + n ∧
       u.get pHPT HPT.VLOG_PTR_WR = (s.get pHPT HPT.VLOG_PTR_WR + 1) % 16 ∧ u.bit pHPT HPT.FLAG_VIOLATION = true ∧ u.hpt.result = 7 ∧
       u.get pHPT COM.LAST_ERR_CODE = 7 ∧ SameElsewhere [pHPT] s u) ∧
  (∀ (s : State) (b : Nat) (en : Bool) (page : Nat) (off : Nat), s.bit pHPT HPT.STATUS_MASTERING = false →
     s.bit pHPT HPT.STATUS_DDR = false → s.ownFrame b en = true → b % 64 ≠ 63 → pageKind (page % 256) = none →
     Does (.hostRead b page off 1 [] en) s fun u => u.hpt.out = [s.statusByte, 6, 0, 0, 0, 0, 0] ∧ u.hpt.result = 6 ∧
       SameElsewhere [pHPT] s u) ∧
  (∀ (s : State) (n : Nat) (bc : Bool) (en : Bool), s.bit pHPT HPT.STATUS_MASTERING = false → bc = false → n < 63 →
     s.boardNum ≠ 62 ∨ en = true → Does (.boardNum n bc en) s fun u => u.boardNum = n ∧ u.hpt.result = 0 ∧ SameMemory s u) ∧
  (∀ (s : State) (n : Nat) (bc : Bool) (en : Bool), s.bit pHPT HPT.STATUS_MASTERING = false → bc = true →
     Does (.boardNum n bc en) s fun u => u.boardNum = s.boardNum ∧ u.hpt.result = 8 ∧ u.bit pHPT HPT.FLAG_VIOLATION = true ∧
       SameElsewhere [pHPT] s u) ∧
  (∀ (s : State) (b : Nat) (en : Bool) (page : Nat) (off : Nat) (v : Nat), s.bit pHPT HPT.STATUS_MASTERING = false →
     s.ownFrame b en = true → page = pCKU 0 ∨ page = pCKU 1 ∨ page = pCKU 2 ∨ page = pCKU 3 → s.coreUp = true → off = 5 →
     s.locked page = false →
     Does (.hostWrite ⟨en, b, page, off, beBytes 5 v, 0, 0, false⟩) s fun u => u.hpt.result = 0 ∧
       u.reg page off = (match regRow page off with | some r => (s.reg page off &&& ~~~(s.writable page r)) ||| (BitVec.ofNat 40 v &&& s.writable page r) | none => s.reg page off))

/-- R363: a report word goes to the end of the queue, or is dropped and counted where the queue is full, and RPT_POP takes the first. R364,
R365: the holder of the report token masters a unit of the words waiting, at most MAX_WORDS of them, and at its end they leave the queue
with FLAG.UNIT_DONE. R366: a collision ends the unit, its words stay queued, with MASTER_FAULT logged. R347: a reset pulse returns to SDR.
R361: a runt frame is logged with code 9, clocks without a select with 0xB. R368: a mismatch of the decoder sets FAULT.DEC. -/
def Obligations.HostReports : Prop :=
  (∀ (s : State) (v : Nat), s.hpt.rpt.length < 32 →
     Does (.rptPush v) s fun u => u.hpt.rpt = s.hpt.rpt ++ [v % 2 ^ 32] ∧ u.get pHPT HPT.RPT_STAT_QUEUED = s.hpt.rpt.length + 1 ∧
       SameElsewhere [pHPT] s u) ∧
  (∀ (s : State) (v : Nat), s.hpt.rpt.length = 32 →
     Does (.rptPush v) s fun u => u.hpt.rpt = s.hpt.rpt ∧ u.get pHPT HPT.RPT_STAT_DROPPED = satInc 255 (s.get pHPT HPT.RPT_STAT_DROPPED) ∧
       u.bit pHPT HPT.FLAG_RPT_DROP = true ∧ SameElsewhere [pHPT] s u) ∧
  (∀ (s : State) (w : Nat) (l : List Nat), s.hpt.rpt = w :: l → s.hpt.unit = 0 → w < 2 ^ 32 →
     Does .rptPop s fun u => u.hpt.out = beBytes 5 (2 ^ 39 + w) ∧ u.hpt.rpt = l ∧ SameElsewhere [pHPT, pMCH] s u) ∧
  (∀ s : State, s.coreRuns = true → s.bit pMCH MCH.STATUS_TOKEN_HELD = true → s.bit pHPT HPT.RPT_CFG_MASTER_EN = true →
     s.bit pHPT HPT.STATUS_MASTERING = false → s.hpt.rpt ≠ [] →
     Does .reportUnit s fun u => u.bit pHPT HPT.STATUS_MASTERING = true ∧
       u.hpt.unit = Nat.min s.hpt.rpt.length (orDefault 32 (s.get pHPT HPT.RPT_CFG_MAX_WORDS)) ∧
       u.get pHPT HPT.RPT_STAT_USEQ = (s.get pHPT HPT.RPT_STAT_USEQ + 1) % 2 ^ (HPT.RPT_STAT_USEQ.hi + 1 - HPT.RPT_STAT_USEQ.lo) ∧
       u.hpt.rpt = s.hpt.rpt ∧ SameElsewhere [pHPT] s u) ∧
  (∀ s : State, s.bit pHPT HPT.STATUS_MASTERING = true →
     Does .reportUnitEnd s fun u => u.hpt.rpt = s.hpt.rpt.drop s.hpt.unit ∧ u.bit pHPT HPT.STATUS_MASTERING = false ∧
       u.bit pHPT HPT.FLAG_UNIT_DONE = true ∧ SameMemory s u) ∧
  (∀ s : State, s.bit pHPT HPT.STATUS_MASTERING = true →
     Does .masterCollision s fun u => u.hpt.rpt = s.hpt.rpt ∧ u.hpt.resent = true ∧ u.bit pHPT HPT.STATUS_MASTERING = false ∧
       u.bit pHPT HPT.FLAG_MASTER_FAULT = true ∧ u.hpt.result = 12 ∧ SameMemory s u) ∧
  (∀ s : State, s.bit pHPT HPT.STATUS_MASTERING = false →
     Does .sdrResetPulse s fun u => u.bit pHPT HPT.CFG_MODE = false ∧ u.bit pHPT HPT.STATUS_DDR = false ∧ SameElsewhere [pHPT] s u) ∧
  (∀ (s : State) (b : Bool) (n : Nat), s.bit pHPT HPT.STATUS_MASTERING = false → b = false →
     Does (.runt false b n) s fun u => u.hpt.result = 9 ∧ u.get pHPT COM.LAST_ERR_CODE = 9 ∧ u.bit pHPT HPT.FLAG_VIOLATION = true ∧
       SameElsewhere [pHPT] s u) ∧
  (∀ s : State, s.bit pHPT HPT.STATUS_MASTERING = false → s.pins.noSel = false →
     Does .clkNoSel s fun u => u.hpt.result = 11 ∧ u.pins.noSel = true ∧ SameElsewhere [pHPT] s u) ∧
  (∀ s : State, Does .decoderMismatch s fun u => u.bitOf pHPT COM.FAULT 1 = true ∧ u.hpt.result = 13 ∧ SameMemory s u)

/-- R374: an enable begins discovery, whose end sets FLAG.DISCOVERED and shows a device 0 that is present with its mode and size, which makes
the port ready. R377: a line that arrives is buffered whole, the least recently used of eight giving place; a window word whose lines are
buffered is read from them, most significant byte first, and one of whose lines some are not waits for those. R378: a failed fetch is
counted and, unless it was a prefetch, flagged with code 0x02. R373: beyond the fitted flash FLAG.RANGE is set with code 0x04, and a write
is discarded. -/
def Obligations.FlashReads : Prop :=
  (∀ s : State, s.coreRuns = true → s.enabled pXMP = true → s.xmp.discovered = false → s.bit pXMP XMP.STATUS_DISCOVERY = false →
     Does .xmpDiscovery s fun u => u.bit pXMP XMP.STATUS_DISCOVERY = true ∧ u.xmp.lines = [] ∧ SameElsewhere [pXMP] s u) ∧
  (∀ (s : State) (l : List FlashDev), s.coreRuns = true → s.enabled pXMP = true → s.bit pXMP XMP.STATUS_DISCOVERY = true →
     Does (.discoveryEnd l) s fun u => u.bit pXMP XMP.STATUS_DISCOVERY = false ∧ u.bit pXMP XMP.FLAG_DISCOVERED = true ∧
       u.xmp.discovered = true ∧ SameElsewhere [pXMP] s u) ∧
  (∀ (s : State) (f : FlashDev) (m : FlashMode), s.coreRuns = true → s.enabled pXMP = true → s.bit pXMP XMP.STATUS_DISCOVERY = true →
     devPresent f = true → (pickMode f.modes s.xmp.modeMax).1 = some m →
     Does (.discoveryEnd [f]) s fun u => u.bit pXMP (XMP.DEV_PRESENT 0) = true ∧ u.bit pXMP (XMP.DEV_PRESENT 1) = false ∧
       u.get pXMP (XMP.DEV_SIZE_LOG2 0) = f.sizeLog2 % 2 ^ (1 + (XMP.DEV_SIZE_LOG2 0).hi - (XMP.DEV_SIZE_LOG2 0).lo) ∧
       u.get pXMP (XMP.DEV_MODE 0) = m.mode % 4 ∧ u.xmpReady = true) ∧
  (∀ (s : State) (l : Nat) (d : List Nat), s.coreRuns = true → s.xmp.want.any (fun e => e.1 == l) = true → d.length = 64 →
     s.xmp.touched l = false →
     Does (.lineFetch l d true) s fun u => u.xmp.lines = ((l, d.map (· % 256)) :: s.xmp.lines.filter (fun e => e.1 ≠ l)).take 8 ∧
       u.xmp.want.any (fun e => e.1 == l) = false ∧ SameElsewhere [pXMP] s u) ∧
  (∀ (s : State) (l : Nat) (d : List Nat) (p : Bool), s.coreRuns = true → s.xmp.want = [(l, p)] →
     Does (.lineFetch l d false) s fun u => u.get pXMP XMP.COUNT_READ_FAIL = satInc 65535 (s.get pXMP XMP.COUNT_READ_FAIL) ∧
       (p = false → u.bit pXMP XMP.FLAG_READ_FAIL = true ∧ u.get pXMP COM.LAST_ERR_CODE = 2) ∧ u.xmp.want = [] ∧ SameElsewhere [pXMP] s u) ∧
  (∀ (s : State) (w : Nat) (ds : List (List Nat)), s.coreRuns = true → w < 8 → s.xmpWinOff w + 4 < s.flashEnd →
     (wordLines (s.xmpWinOff w)).map s.lineNow = ds.map (fun d => some (some d)) →
     Does (.xmpWindowRead w) s fun u => u.hpt.out = beBytes 5 (beNat ((ds.flatten.drop (s.xmpWinOff w % 64)).take 5)) ∧
       u.bitOf pXMP XMP.WIN_PSN_WIN w = false ∧ SameElsewhere [pXMP] s u) ∧
  (∀ (s : State) (w : Nat) (ls : List Nat), s.coreRuns = true → w < 8 → s.xmpWinOff w + 4 < s.flashEnd →
     (wordLines (s.xmpWinOff w)).filter (fun l => (s.lineNow l).isNone) = ls → ls ≠ [] →
     Does (.xmpWindowRead w) s fun u => (ls, .xmpWindowRead w) ∈ u.xmp.waiters ∧
       (ls.all fun l => u.xmp.want.any fun e => e.1 == l) = true ∧ SameElsewhere [pXMP] s u) ∧
  (∀ (s : State) (w : Nat), s.coreRuns = true → w < 8 → s.flashEnd ≤ s.xmpWinOff w + 4 →
     Does (.xmpWindowRead w) s fun u => u.bit pXMP XMP.FLAG_RANGE = true ∧ u.bitOf pXMP XMP.WIN_PSN_WIN w = true ∧
       u.get pXMP COM.LAST_ERR_CODE = 4 ∧ SameElsewhere [pXMP] s u) ∧
  (∀ (s : State) (w : Nat) (v : Nat), s.coreRuns = true → w < 8 → s.flashEnd < s.xmpWinOff w + 5 →
     Does (.xmpWindowWrite w v) s fun u => u.bit pXMP XMP.FLAG_RANGE = true ∧ u.get pXMP COM.LAST_ERR_CODE = 4 ∧ u.xmp = s.xmp ∧
       SameElsewhere [pXMP] s u)

/-- R380, R381: a host write of WINk on an idle port within one page of device 0 starts one page program of its five bytes; a host's program
that ends leaves the device idle where nothing waits, and one that fails its comparison is counted and flagged with code 0x03. R383: an
erase of a listed type at an aligned offset of a device starts on an idle port, one of another type or offset is refused with code 0x07;
its end sets FLAG.ERASE_DONE, or counts and flags the failure with code 0x08. R385: a mismatch sets FAULT.CTRL. -/
def Obligations.FlashWrites : Prop :=
  (∀ (s : State) (w : Nat) (v : Nat), s.coreRuns = true → w < 8 → v < 2 ^ 40 → s.xmpWinOff w + 5 ≤ s.flashEnd →
     s.devOf (s.xmpWinOff w) = 0 → s.devOf (s.xmpWinOff w + 4) = 0 →
     s.xmpWinOff w / 2 ^ s.get pXMP (XMP.DEV_PAGE_LOG2 0) = (s.xmpWinOff w + 4) / 2 ^ s.get pXMP (XMP.DEV_PAGE_LOG2 0) →
     s.xmp.running = [] → s.xmp.queue = [] → s.xmp.backlog = [] →
     Does (.xmpWindowWrite w v) s fun u =>
       u.xmp.running = [{ erase := false, dev := 0, off := s.xmpWinOff w, bytes := beBytes 5 v, size := 5, owner := 255 }] ∧
       u.bit pXMP XMP.STATUS_PROGRAMMING = true ∧ SameElsewhere [pXMP] s u) ∧
  (∀ (s : State) (d : Nat) (o : XmpOp), s.coreUp = true → s.xmp.running.find? (fun o => o.dev == d && !o.erase) = some o → o.owner = 255 →
     Does (.pageProgram d true) s fun u =>
       (s.xmp.queue = [] → s.xmp.backlog = [] → u.xmp.running = s.xmp.running.filter fun p => p.dev ≠ o.dev) ∧ SameElsewhere [pXMP] s u) ∧
  (∀ (s : State) (d : Nat) (o : XmpOp), s.coreUp = true → s.xmp.running.find? (fun o => o.dev == d && !o.erase) = some o → o.owner = 255 →
     Does (.pageProgram d false) s fun u => u.get pXMP XMP.COUNT_PROG_FAIL = satInc 65535 (s.get pXMP XMP.COUNT_PROG_FAIL) ∧
       u.bit pXMP XMP.FLAG_PROG_FAIL = true ∧ u.get pXMP COM.LAST_ERR_CODE = 3 ∧ SameElsewhere [pXMP] s u) ∧
  (∀ (s : State) (o : XmpOp), s.coreRuns = true → s.enabled pXMP = true → s.get pXMP XMP.ERASE_OFFSET < s.flashEnd →
     s.eraseOp (s.get pXMP XMP.ERASE_TYPE) (s.get pXMP XMP.ERASE_OFFSET) 255 = some o → s.xmp.running = [] → s.xmp.queue = [] →
     s.xmp.backlog = [] →
     Does .xmpErase s fun u => u.xmp.running = [o] ∧ o.off = s.get pXMP XMP.ERASE_OFFSET ∧ u.bit pXMP XMP.STATUS_ERASING = true ∧
       SameElsewhere [pXMP] s u) ∧
  (∀ s : State, s.coreRuns = true → s.enabled pXMP = true →
     s.eraseOp (s.get pXMP XMP.ERASE_TYPE) (s.get pXMP XMP.ERASE_OFFSET) 255 = none →
     Does .xmpErase s fun u => u.bit pXMP XMP.FLAG_ERASE_REFUSED = true ∧ u.get pXMP COM.LAST_ERR_CODE = 7 ∧ u.xmp = s.xmp ∧
       SameElsewhere [pXMP] s u) ∧
  (∀ (s : State) (d : Nat) (o : XmpOp), s.coreUp = true → s.xmp.running.find? (fun o => o.dev == d && o.erase) = some o → o.owner = 255 →
     Does (.eraseComplete d true) s fun u => u.bit pXMP XMP.FLAG_ERASE_DONE = true ∧ SameElsewhere [pXMP] s u) ∧
  (∀ (s : State) (d : Nat) (o : XmpOp), s.coreUp = true → s.xmp.running.find? (fun o => o.dev == d && o.erase) = some o → o.owner = 255 →
     Does (.eraseComplete d false) s fun u => u.get pXMP XMP.COUNT_ERASE_FAIL = satInc 255 (s.get pXMP XMP.COUNT_ERASE_FAIL) ∧
       u.bit pXMP XMP.FLAG_ERASE_FAIL = true ∧ u.get pXMP COM.LAST_ERR_CODE = 8 ∧ SameElsewhere [pXMP] s u) ∧
  (∀ s : State, s.coreRuns = true → s.enabled pXMP = true → Does .xmpMismatch s fun u => u.bitOf pXMP COM.FAULT 1 = true ∧ SameMemory s u)

/-- R279: an event presented by a producer that a channel enables, with none of the channel due on the same edge and fewer than four held, is
held for delivery 1 + DELAY CCLK later, with the hop it came with; one due on the same edge as another merges with it and is counted in
MERGED (R280); one that finds four is dropped, counted, flagged OVERFLOW and recorded with code 0x02. R285: at hop 16 the channel drops it
instead, counts it in COUNT2.LOOP, sets FLAG.LOOP and records code 0x01. R276, R286: a write of FIRE0 or FIRE1 presents HOST to each
channel named that it has not been presented to on this edge. R288: a GPIO edge of the kind selected presents its producer 2 CCLK later. -/
def Obligations.EventsAreHeld : Prop :=
  (∀ (s : State) (p : Nat) (hop : Nat) (ch : Nat), s.coreUp = true → ch < 64 → s.channelOn ch = true → s.feeds p ch = true →
     s.chainLinked ch = false → openProducer p = true → hop < 16 →
     (s.deliveries.any fun e => e.ch == ch && e.chain == false && e.due == s.now + 1 + s.channelDelay ch && e.angle == 0) = false →
     (s.deliveries.filter fun e => e.ch == ch).length + s.fires.count (ch, s.now) < 4 →
     Does (.producerEvent p hop) s fun u =>
       ⟨ch, s.now + 1 + s.channelDelay ch, hop, false, 0, s.unaligned && decide (12 ≤ p ∧ p < 20)⟩ ∈ u.deliveries ∧
       (s.now + (1 + s.channelDelay ch), .channelDelivery ch) ∈ u.agenda ∧ SameElsewhere [] s u) ∧
  (∀ (s : State) (p : Nat) (hop : Nat) (ch : Nat), s.coreUp = true → ch < 64 → s.channelOn ch = true → s.feeds p ch = true →
     s.chainLinked ch = false → openProducer p = true → hop < 16 →
     (s.deliveries.any fun e => e.ch == ch && e.chain == false && e.due == s.now + 1 + s.channelDelay ch && e.angle == 0) = true →
     Does (.producerEvent p hop) s fun u =>
       (u.deliveries.any fun e => e.ch == ch && e.due == s.now + 1 + s.channelDelay ch && decide (hop ≤ e.hop)) = true ∧
       u.get (pEVT (ch / 8)) (EVT.CH_COUNT1_MERGED (ch % 8)) = satInc 65535 (s.get (pEVT (ch / 8)) (EVT.CH_COUNT1_MERGED (ch % 8))) ∧
       SameElsewhere [] s u) ∧
  (∀ (s : State) (p : Nat) (hop : Nat) (ch : Nat), s.coreUp = true → ch < 64 → s.channelOn ch = true → s.feeds p ch = true →
     s.chainLinked ch = false → openProducer p = true → hop < 16 →
     (s.deliveries.any fun e => e.ch == ch && e.chain == false && e.due == s.now + 1 + s.channelDelay ch && e.angle == 0) = false →
     4 ≤ (s.deliveries.filter fun e => e.ch == ch).length + s.fires.count (ch, s.now) →
     Does (.producerEvent p hop) s fun u => (u.deliveries.filter fun e => e.ch == ch) = (s.deliveries.filter fun e => e.ch == ch) ∧
       u.get (pEVT (ch / 8)) (EVT.CH_COUNT2_DROPPED (ch % 8)) = satInc 65535 (s.get (pEVT (ch / 8)) (EVT.CH_COUNT2_DROPPED (ch % 8))) ∧
       u.bitOf (pEVT (ch / 8)) EVT.FLAG_OVERFLOW (ch % 8) = true ∧ SameElsewhere [] s u) ∧
  (∀ (s : State) (p : Nat) (hop : Nat) (ch : Nat), s.coreUp = true → ch < 64 → s.channelOn ch = true → s.feeds p ch = true →
     openProducer p = true → 16 ≤ hop →
     Does (.producerEvent p hop) s fun u => u.deliveries = s.deliveries ∧
       u.get (pEVT (ch / 8)) (EVT.CH_COUNT2_LOOP (ch % 8)) = satInc 65535 (s.get (pEVT (ch / 8)) (EVT.CH_COUNT2_LOOP (ch % 8))) ∧
       u.bitOf (pEVT (ch / 8)) EVT.FLAG_LOOP (ch % 8) = true ∧ u.get (pEVT (ch / 8)) COM.LAST_ERR_CODE = 1 ∧ SameElsewhere [] s u) ∧
  (∀ (s : State) (hi : Bool) (m : Nat) (ch : Nat), s.coreUp = true → ch < 64 → s.channelOn ch = true → s.feeds 171 ch = true →
     s.chainLinked ch = false → (if hi then 40 ≤ ch ∧ m.testBit (ch - 40) = true else ch < 40 ∧ m.testBit ch = true) →
     s.touched.fired.testBit ch = false →
     (s.deliveries.any fun e => e.ch == ch && e.chain == false && e.due == s.now + 1 + s.channelDelay ch && e.angle == 0) = false →
     (s.deliveries.filter fun e => e.ch == ch).length + s.fires.count (ch, s.now) < 4 →
     Does (.hostFire hi m) s fun u =>
       ⟨ch, s.now + 1 + s.channelDelay ch, 0, false, 0, s.unaligned && decide (12 ≤ 171 ∧ 171 < 20)⟩ ∈ u.deliveries ∧ SameElsewhere [] s u) ∧
  (∀ (s : State) (n : Nat) (r : Bool), s.coreRuns = true → n < 16 →
     s.get pARB ARB.GPIO_EV_EDGE / 4 ^ n % 4 = 3 ∨ s.get pARB ARB.GPIO_EV_EDGE / 4 ^ n % 4 = (if r then 1 else 2) →
     Does (.gpioEdge n r) s fun u => (s.now + 2, .producerEvent (172 + n) 0) ∈ u.agenda ∧ u.pins.gpio / 2 ^ n % 2 = b2n r ∧
       u.regs = s.regs ∧ SameMemory s u)

/-- R279, R287: a delivery that is due sets the channel's FIRE flag, counts in FIRES and shows its hop in LAST; a second one of the same edge
is counted in MERGED instead. A channel whose one task is SET of a GPIO output sets its level, and the task counts the trigger (R281,
R288). R289: a chain-linked channel holds its delivery for a launch angle and queues an EVENT cell with its number and hop, and delivers
when the angle comes; it drops the delivery with CHAIN_DROP and code 0x03 while the Board's number is 62. R291: a mismatch of the fabric
sets FAULT.DUP, a second one FAULT.PERSIST. -/
def Obligations.ChannelsDeliver : Prop :=
  (∀ (s : State) (ch : Nat) (d : Delivery), s.coreUp = true → ch < 64 → s.nextDelivery ch = some d → s.chainLinked ch = false →
     (ch, s.now) ∉ s.fires → s.channelTasks ch = [] →
     Does (.channelDelivery ch) s fun u => u.bitOf (pEVT (ch / 8)) EVT.FLAG_FIRE (ch % 8) = true ∧
       u.get (pEVT (ch / 8)) (EVT.CH_COUNT1_FIRES (ch % 8)) = (s.get (pEVT (ch / 8)) (EVT.CH_COUNT1_FIRES (ch % 8)) + 1) % 2 ^ (1 + (EVT.CH_COUNT1_FIRES 0).hi - (EVT.CH_COUNT1_FIRES 0).lo) ∧
       u.get (pEVT (ch / 8)) (EVT.CH_LAST_HOP (ch % 8)) = d.hop % 16 ∧ u.deliveries = s.deliveries.erase d ∧ SameMemory s u) ∧
  (∀ (s : State) (ch : Nat) (d : Delivery), s.coreUp = true → ch < 64 → s.nextDelivery ch = some d → s.chainLinked ch = false →
     (ch, s.now) ∈ s.fires → s.channelTasks ch = [] →
     Does (.channelDelivery ch) s fun u =>
       u.get (pEVT (ch / 8)) (EVT.CH_COUNT1_MERGED (ch % 8)) = satInc 65535 (s.get (pEVT (ch / 8)) (EVT.CH_COUNT1_MERGED (ch % 8))) ∧
       u.get (pEVT (ch / 8)) (EVT.CH_COUNT1_FIRES (ch % 8)) = s.get (pEVT (ch / 8)) (EVT.CH_COUNT1_FIRES (ch % 8)) ∧
       u.deliveries = s.deliveries.erase d ∧ SameMemory s u) ∧
  (∀ (s : State) (ch : Nat) (d : Delivery) (n : Nat), s.coreUp = true → ch < 64 → s.nextDelivery ch = some d → s.chainLinked ch = false →
     n < 16 → s.channelTasks ch = [57 + n] → s.trig = [] →
     Does (.channelDelivery ch) s fun u => u.bitOf pARB ARB.GPIO_OUT_LEVEL n = true ∧
       u.get pARB (ARB.TASK_TRIGGERS (57 + n)) = (s.get pARB (ARB.TASK_TRIGGERS (57 + n)) + 1) % 2 ^ (1 + (ARB.TASK_TRIGGERS 0).hi - (ARB.TASK_TRIGGERS 0).lo) ∧
       SameMemory s u) ∧
  (∀ (s : State) (ch : Nat) (d : Delivery), s.coreUp = true → ch < 64 → s.nextDelivery ch = some d → s.chainLinked ch = true →
     s.cannotSend = false →
     Does (.channelDelivery ch) s fun u =>
       (u.deliveries.any fun e => e.ch == ch && e.chain && e.angle == unsent && e.hop == d.hop) = true ∧
       u.deliveries.length = s.deliveries.length ∧ (u.mch.queue.any fun e => e.type == 7 && e.tag == d.hop % 16 * 16 + ch % 16) = true ∧
       SameMemory s u) ∧
  (∀ (s : State) (ch : Nat) (d : Delivery), s.coreUp = true → ch < 64 → s.nextDelivery ch = some d → s.chainLinked ch = true →
     s.boardNum = 62 →
     Does (.channelDelivery ch) s fun u => u.deliveries = s.deliveries.erase d ∧
       u.bitOf (pEVT (ch / 8)) EVT.FLAG_CHAIN_DROP (ch % 8) = true ∧ u.get (pEVT (ch / 8)) COM.LAST_ERR_CODE = 3 ∧ SameElsewhere [] s u) ∧
  (∀ (s : State) (ch : Nat) (a : Nat) (d : Delivery), s.coreUp = true → ch < 64 → s.channelOn ch = true →
     s.deliveries.find? (fun d => d.ch == ch && d.chain && d.angle == a) = some d → (ch, s.now) ∉ s.fires → s.channelTasks ch = [] →
     Does (.chainLinkedDelivery ch a) s fun u => u.bitOf (pEVT (ch / 8)) EVT.FLAG_FIRE (ch % 8) = true ∧
       u.get (pEVT (ch / 8)) (EVT.CH_COUNT1_FIRES (ch % 8)) = (s.get (pEVT (ch / 8)) (EVT.CH_COUNT1_FIRES (ch % 8)) + 1) % 2 ^ (1 + (EVT.CH_COUNT1_FIRES 0).hi - (EVT.CH_COUNT1_FIRES 0).lo) ∧
       u.get (pEVT (ch / 8)) (EVT.CH_LAST_HOP (ch % 8)) = d.hop % 16 ∧
       u.bit (pEVT (ch / 8)) (EVT.CH_LAST_UNALIGNED (ch % 8)) = (d.unaligned || s.unaligned) ∧ u.deliveries = s.deliveries.erase d ∧
       SameMemory s u) ∧
  (∀ (s : State) (second : Bool), s.coreRuns = true →
     Does (.arbMismatch second) s fun u => u.bitOf pARB COM.FAULT 1 = true ∧ (second = true → u.bitOf pARB COM.FAULT 2 = true) ∧
       (second = false → u.bit pARB ARB.FLAG_RETRY = true) ∧ SameMemory s u)

/-- R296: an enabled instance falls due, and is starved SHARE.PERIOD later (R299), with FLAG.STARVED and code 0x04. R297: the built-in work
takes a free Wing for its due instances, as owner 11, the transmit chain first, and all eight Wings for the synthesiser; R298: it yields
the Wing it holds to foreground work, its instances staying due. R299: a Wing ready for the forced window it is owed is taken for one.
R300: a receive chain's run, the last of its window, whose spread is within AGREE and whose amplitudes agree, the first of its instance,
is adopted: its mean becomes pending for the trim register (R301, R302); one of a greater spread is rejected with code 0x02. R314: a
mismatch sets FAULT.CMP and ends the run, pending corrections staying. -/
def Obligations.CalibrationRuns : Prop :=
  (∀ (s : State) (i : Nat), s.coreUp = true → s.enabled pCAL = true → i < 27 → s.kindOn i = true → s.isDue i = false →
     Does (.calDue i) s fun u => (i, s.now) ∈ u.cal.due ∧
       (s.now + orDefault 1 (s.get pCAL CAL.SHARE_PERIOD) * ms, .calStarved i) ∈ u.agenda ∧ u.regs = s.regs ∧ SameMemory s u) ∧
  (∀ (s : State) (w : Nat), s.coreRuns = true → s.enabled pCAL = true → s.cal.stage = 0 → w < 8 → s.calMayTake w false = true →
     (s.windowTx w ++ s.windowRx w).any s.isDue = true →
     Does (.wingWindow w) s fun u => u.cal.stage = (if s.windowTx w = [] then 2 else 1) ∧
       u.cal.todo = (if s.windowTx w = [] then s.windowRx w else s.windowTx w) ∧ u.owner w = 11 ∧ u.bit pCAL CAL.STATUS_BUSY = true ∧
       SameElsewhere [pCAL, pCND0, pCND 11] s u) ∧
  (∀ s : State, s.coreRuns = true → s.enabled pCAL = true → s.cal.stage = 0 → s.isDue 0 = true → s.quiet = true →
     ((List.range 8).all (s.calMayTake · false)) = true →
     Does (.wingWindow 8) s fun u => u.cal.stage = 3 ∧ u.owner 7 = 11 ∧ u.synLocked = false ∧
       SameElsewhere [pCAL, pCND0, pCND 11, pCLK] s u) ∧
  (∀ (s : State) (i : Nat) (l : List Nat), s.coreRuns = true → s.enabled pCAL = true → s.cal.stage = 2 → s.cal.todo = [i] → 10 ≤ i →
     i < 27 → s.readingsFor i ≤ l.length → circSpread ((l.take s.calReps).map (· % 512)) ≤ s.get pCAL CAL.ACCEPT_AGREE →
     (l.drop s.calReps).take s.calReps = List.replicate s.calReps 7 → AMap.find i s.cal.refs = none → s.isDue 0 = false →
     s.touched.writes = [] →
     Does (.calRunEnd i l) s fun u => u.bit pCAL CAL.FLAG_ACCEPT = true ∧
       AMap.find ((pRXC (i - 10)) * 256 + RXC.TRIM_PHASE.off) u.cal.pend = some (BitVec.ofNat 40 (circMean ((l.take s.calReps).map (· % 512)))) ∧
       u.isDue i = false ∧ u.cal.stage = 0 ∧ u.get pCAL CAL.LAST_INSTANCE = i ∧ SameMemory s u) ∧
  (∀ (s : State) (i : Nat) (l : List Nat), s.coreRuns = true → s.enabled pCAL = true → s.cal.stage = 2 → s.cal.todo = [i] → 10 ≤ i →
     i < 27 → s.readingsFor i ≤ l.length → s.get pCAL CAL.ACCEPT_AGREE < circSpread ((l.take s.calReps).map (· % 512)) →
     Does (.calRunEnd i l) s fun u => u.bit pCAL CAL.FLAG_REJECT = true ∧ u.get pCAL COM.LAST_ERR_CODE = 2 ∧ u.cal.due = s.cal.due ∧
       u.cal.pend = s.cal.pend ∧ u.cal.stage = 0 ∧ SameMemory s u) ∧
  (∀ s : State, s.coreUp = true → 1 ≤ s.cal.stage → s.cal.stage ≤ 3 → s.cal.wing < 8 → s.owner s.cal.wing = 11 →
     s.enabled pCAL = false ∨ s.cal.forced = false ∧ s.calWanted = true →
     Does .calYield s fun u => u.cal.stage = 0 ∧ u.owner s.cal.wing ≠ 11 ∧ u.cal.due = s.cal.due ∧
       u.get pCAL CAL.COUNT2_YIELDED = satInc (2 ^ (1 + CAL.COUNT2_YIELDED.hi - CAL.COUNT2_YIELDED.lo) - 1) (s.get pCAL CAL.COUNT2_YIELDED) ∧
       SameMemory s u) ∧
  (∀ (s : State) (i : Nat), s.coreUp = true → s.enabled pCAL = true → s.isDue i = true → s.kindOn i = true →
     Does (.calStarved i) s fun u => u.bit pCAL CAL.FLAG_STARVED = true ∧ u.get pCAL COM.LAST_ERR_CODE = 4 ∧ u.isDue i = true ∧
       SameElsewhere [pCAL] s u) ∧
  (∀ (s : State) (w : Nat), s.coreRuns = true → s.enabled pCAL = true → s.cal.stage = 0 → w < 8 → s.calMayTake w true = true →
     s.forcedReady w = true → s.windowTx w ++ s.windowRx w ≠ [] →
     Does (.forcedWindow w) s fun u => u.cal.stage = (if s.windowTx w = [] then 2 else 1) ∧ u.cal.forced = true ∧ u.owner w = 11 ∧
       w ∉ u.cal.owed ∧ SameElsewhere [pCAL, pCND0, pCND 11] s u) ∧
  (∀ s : State, s.coreRuns = true → s.enabled pCAL = true → s.cal.stage ≤ 3 → s.cal.wing < 8 →
     Does .calMismatch s fun u => u.bitOf pCAL COM.FAULT 1 = true ∧ u.cal.stage = 0 ∧ u.cal.pend = s.cal.pend ∧ SameMemory s u)

/-- R303: at an application point a pending correction, the only one, takes effect, FLAG.APPLIED is set and none is pending; in Solo operation
a boundary applies it where no frame is in its way. R305: XB_CFG.ARM arms the measurement it sets up; one whose Wing is not free fails
with FLAG.XB_DONE and code 0x06. R306: without a valid reading of its own a peer's reading is refused with code 0x07, and with one, the
first, the adopted candidate is the trim plus half the circular difference, rounded with halves up; a software write of the register on
the same edge would stay (R313). R305: the DRIVE of a free Wing claims it for owner 11 and drives the port at LEVEL; a LISTEN claims it
and clears VALID. -/
def Obligations.CorrectionsApply : Prop :=
  (∀ (s : State) (q : Nat) (o : Nat) (v : Word), s.coreRuns = true → s.cal.pend = [(q * 256 + o, v)] → q < 256 → o < 256 → q ≠ pCAL →
     ¬ (q = pMCH ∧ o = MCH.RANGE_OFFSET.off) →
     Does .applyPoint s fun u => u.reg q o = v ∧ u.cal.pend = [] ∧ u.bit pCAL CAL.FLAG_APPLIED = true ∧
       u.bit pCAL CAL.STATUS_SIMUL_HOLD = s.simul ∧ SameElsewhere [pCAL, q] s u) ∧
  (∀ (s : State) (q : Nat) (o : Nat) (v : Word), s.coreRuns = true → s.bit pCAL CAL.STATUS_SIMUL_HOLD = false →
     s.cal.pend = [(q * 256 + o, v)] → q < 256 → o < 256 → q ≠ pCAL → ¬ (q = pMCH ∧ o = MCH.RANGE_OFFSET.off) →
     Does .soloApply s fun u => u.reg q o = (if s.soloFree (q * 256 + o) then v else s.reg q o) ∧
       u.cal.pend = (if s.soloFree (q * 256 + o) then [] else s.cal.pend) ∧ SameElsewhere [pCAL, q] s u) ∧
  (∀ s : State, s.coreRuns = true → s.enabled pCAL = true →
     Does .xbArm s fun u =>
       u.cal.xb = (if s.get pCAL CAL.XB_CFG_ROLE = 1 ∨ s.get pCAL CAL.XB_CFG_ROLE = 2 then some (s.get pCAL CAL.XB_CFG_ROLE, s.get pCAL CAL.XB_CFG_PORT, s.get pCAL CAL.XB_CFG_LSLOT, s.get pCAL CAL.XB_CFG_LEVEL) else none) ∧
       SameElsewhere [] s u) ∧
  (∀ (s : State) (l : List Nat) (r : Nat) (p : Nat) (a : Nat) (b : Nat), s.coreRuns = true → s.enabled pCAL = true →
     s.cal.xb = some (r, p, a, b) → s.owner (p / 24) ≠ 15 →
     Does (.xbMeasurement l) s fun u => u.cal.xb = none ∧ u.bit pCAL CAL.FLAG_XB_DONE = true ∧ u.get pCAL COM.LAST_ERR_CODE = 6 ∧
       (r = 2 → u.bit pCAL CAL.XB_RESULT_VALID = false) ∧ SameElsewhere [pCAL] s u) ∧
  (∀ (s : State) (p : Nat), s.coreRuns = true → s.enabled pCAL = true → s.bit pCAL CAL.XB_RESULT_VALID = false →
     Does (.xbPeer p) s fun u => u.get pCAL COM.LAST_ERR_CODE = 7 ∧ u.cal = s.cal ∧ SameElsewhere [pCAL] s u) ∧
  (∀ (s : State) (p : Nat) (d : Int), s.coreRuns = true → s.enabled pCAL = true → s.bit pCAL CAL.XB_RESULT_VALID = true →
     AMap.find 27 s.cal.refs = none → s.touched.writes = [] → d = circDiff (s.get pCAL CAL.XB_RESULT_PHASE) p →
     Does (.xbPeer p) s fun u =>
       AMap.find (pMCH * 256 + MCH.CPHASE_TRIM.off) u.cal.pend = some (BitVec.ofNat 40 (toBits 9 ((s.calValue 27 : Int) + ((if d = -256 then 256 else d) + 1) / 2))) ∧
       u.bit pCAL CAL.FLAG_ACCEPT = true ∧ SameMemory s u) ∧
  (∀ (s : State) (l : List Nat) (p : Nat) (a : Nat) (b : Nat) (n : Nat), s.coreRuns = true → s.enabled pCAL = true →
     s.cal.xb = some (1, p, a, b) → p < 192 → s.cal.stage = 0 → s.owner (p / 24) = 15 → s.invHolds (p / 24) = false →
     n = s.serving (p / 24) → s.txc.length = 9 → s.portOk p = true → s.inReach n p = true → s.noField n = false → s.fieldSt n = 0 →
     s.enabled (pTXC n) = true →
     Does (.xbMeasurement l) s fun u => u.cal.xb = none ∧ u.cal.stage = 4 ∧ u.owner (p / 24) = 11 ∧ (u.tx n).port = p ∧
       (u.tx n).level = b + 1) ∧
  (∀ (s : State) (l : List Nat) (p : Nat) (a : Nat) (b : Nat) (n : Nat), s.coreRuns = true → s.enabled pCAL = true →
     s.cal.xb = some (2, p, a, b) → p < 192 → s.cal.stage = 0 → s.owner (p / 24) = 15 → s.invHolds (p / 24) = false →
     s.roleChain (p / 24) 1 = .inl n → s.tapOk n p = true → s.calReps ≤ l.length →
     Does (.xbMeasurement l) s fun u => u.cal.xb = none ∧ u.cal.stage = 5 ∧ u.owner (p / 24) = 11 ∧
       u.bit pCAL CAL.XB_RESULT_VALID = false ∧ SameMemory s u)

/-- R312: a mount takes the sector whose header is valid and comes last: SSEQ shows its number, HEAD its first empty slot, the region is
mounted; a remount does so again; without a valid header and without AUTO_FORMAT nothing is mounted, and FORMAT of an unmounted region
begins the erase of sector 0. R309: TEL_NOW and the end of a telemetry period queue a TELEMETRY record where the queue has room, and
restart its counts; without room the record is dropped with FLAG.DROPPED and code 0x03.  -/
def Obligations.ScoresheetMounts : Prop :=
  (∀ (s : State) (l : List SectorScan) (n : Nat) (q : Nat) (x : SectorScan), s.scoUsable = true → s.bit pSCO SCO.STATUS_MOUNTED = false →
     s.sco.op = 0 → pickSector false (s.headers l) = some (n, q) → l[n]? = some x → x.slots.length ≤ s.scoSlots →
     Does (.scoMount l) s fun u => u.bit pSCO SCO.STATUS_MOUNTED = true ∧ u.sco.sector = n ∧ u.get pSCO SCO.SSEQ_SSEQ = q % 2 ^ 32 ∧
       u.get pSCO SCO.HEAD_ADDR = (s.sectorAddr n + 64 * ((x.slots.findIdx? slotEmpty).getD x.slots.length)) % 2 ^ (1 + SCO.HEAD_ADDR.hi - SCO.HEAD_ADDR.lo) ∧
       SameElsewhere [pSCO] s u) ∧
  (∀ (s : State) (l : List SectorScan) (n : Nat) (q : Nat) (x : SectorScan), s.scoUsable = true → s.sco.op = 0 →
     pickSector false (s.headers l) = some (n, q) → l[n]? = some x → x.slots.length ≤ s.scoSlots →
     Does (.remount l) s fun u => u.bit pSCO SCO.STATUS_MOUNTED = true ∧ u.sco.sector = n ∧ u.get pSCO SCO.SSEQ_SSEQ = q % 2 ^ 32 ∧
       u.get pSCO SCO.HEAD_ADDR = (s.sectorAddr n + 64 * ((x.slots.findIdx? slotEmpty).getD x.slots.length)) % 2 ^ (1 + SCO.HEAD_ADDR.hi - SCO.HEAD_ADDR.lo) ∧
       SameElsewhere [pSCO] s u) ∧
  (∀ (s : State) (l : List SectorScan), s.scoUsable = true → s.bit pSCO SCO.STATUS_MOUNTED = false → s.sco.op = 0 →
     pickSector false (s.headers l) = none → s.bit pSCO SCO.CFG_AUTO_FORMAT = false →
     Does (.scoMount l) s fun u => u.bit pSCO SCO.STATUS_MOUNTED = false ∧ u.sco = s.sco ∧ SameElsewhere [pSCO] s u) ∧
  (∀ (s : State) (e : Nat), s.scoUsable = true → s.bit pSCO SCO.STATUS_MOUNTED = false → s.scoMay = true → s.xmp.running = [] →
     s.xmp.queue = [] → s.xmp.backlog = [] → s.scoErase (s.devOf (s.sectorAddr 0 - winBase)) = some e →
     (s.eraseOp e (s.sectorAddr 0 - winBase) 254).isSome = true →
     Does .format s fun u => u.sco.op = 2 ∧ u.sco.format = true ∧
       u.xmp.running.map (fun o => (o.erase, o.off, o.owner)) = [(true, s.sectorAddr 0 - winBase, 254)] ∧ SameElsewhere [pSCO, pXMP] s u) ∧
  (∀ (s : State) (t : TelReading), s.coreRuns = true → s.enabled pSCO = true → s.scoRoom 3 = true →
     Does (.telNow t) s fun u => u.scoQueue.length = s.scoQueue.length + 1 ∧
       u.scoQueue.map (fun r => r.kind) = s.scoQueue.map (fun r => r.kind) ++ [3] ∧ u.sco.tel = [0, 0, 0, 0, 0] ∧ SameElsewhere [pSCO] s u) ∧
  (∀ (s : State) (t : TelReading), s.coreRuns = true → s.enabled pSCO = true → s.bit pSCO SCO.TEL_EN = true → s.scoRoom 3 = false →
     Does (.telemetryTimer t) s fun u => u.scoQueue = s.scoQueue ∧ u.bit pSCO SCO.FLAG_DROPPED = true ∧ u.get pSCO COM.LAST_ERR_CODE = 3 ∧
       SameElsewhere [pSCO] s u) ∧
  (∀ (s : State) (t : TelReading), s.coreRuns = true → s.enabled pSCO = true → s.bit pSCO SCO.TEL_EN = true → s.scoRoom 3 = true →
     Does (.telemetryTimer t) s fun u => u.scoQueue.length = s.scoQueue.length + 1 ∧
       u.scoQueue.map (fun r => r.kind) = s.scoQueue.map (fun r => r.kind) ++ [3] ∧ u.sco.tel = [0, 0, 0, 0, 0] ∧ SameElsewhere [pSCO] s u)

/-- R310: a record programmed leaves the queue, HEAD advances by one slot and RSEQ by one, with FLAG.WRITTEN; a failed program sets
FAULT.FLASH and is counted, the record stays queued and the slot is passed over; a sector whose erase fails is counted so too. R308, R309:
an erased sector gets a header in its first slot, which, once programmed, makes it the head, with its SSEQ. -/
def Obligations.ScoresheetRecords : Prop :=
  (∀ (s : State) (r : ScoRec) (l : List ScoRec), s.coreUp = true → s.sco.op = 1 → s.scoQueue = r :: l →
     s.get pSCO SCO.HEAD_ADDR + 64 < 2 ^ 40 →
     Does (.recordProgrammed true) s fun u => u.scoQueue = l ∧ u.get pSCO SCO.HEAD_ADDR = s.get pSCO SCO.HEAD_ADDR + 64 ∧
       u.get pSCO SCO.SEQ_RSEQ = (s.get pSCO SCO.SEQ_RSEQ + 1) % 2 ^ 32 ∧ u.bit pSCO SCO.FLAG_WRITTEN = true ∧ u.sco.op = 0 ∧
       SameElsewhere [pSCO] s u) ∧
  (∀ s : State, s.coreUp = true → s.sco.op = 1 → s.get pSCO SCO.HEAD_ADDR + 64 < 2 ^ 40 →
     Does (.recordProgrammed false) s fun u => u.scoQueue = s.scoQueue ∧ u.get pSCO SCO.HEAD_ADDR = s.get pSCO SCO.HEAD_ADDR + 64 ∧
       u.get pSCO SCO.SEQ_RSEQ = s.get pSCO SCO.SEQ_RSEQ ∧ u.bitOf pSCO COM.FAULT 1 = true ∧ u.sco.op = 0 ∧
       u.sco.fails = s.sco.fails + 1 ∧ u.get pSCO SCO.COUNT2_FAILED = satInc 65535 (s.get pSCO SCO.COUNT2_FAILED) ∧ SameMemory s u) ∧
  (∀ s : State, s.coreUp = true → s.sco.op = 3 → s.enabled pSCO = true → s.sectorAddr s.sco.sector + 64 < 2 ^ 40 →
     Does (.recordProgrammed true) s fun u => u.get pSCO SCO.HEAD_ADDR = s.sectorAddr s.sco.sector + 64 ∧
       u.get pSCO SCO.SSEQ_SSEQ = s.sco.sseq % 2 ^ 32 ∧ u.bit pSCO SCO.STATUS_MOUNTED = true ∧ u.scoQueue = s.scoQueue ∧
       SameElsewhere [pSCO] s u) ∧
  (∀ s : State, s.coreRuns = true → s.enabled pSCO = true → s.sco.op = 2 → s.xmp.running = [] → s.xmp.queue = [] → s.xmp.backlog = [] →
     s.sectorAddr s.sco.sector - winBase + 64 ≤ s.flashEnd → s.get pXMP (XMP.DEV_PAGE_LOG2 0) = 8 → s.density 1 = 0 →
     s.scoBase % 256 = 0 → 8 ≤ s.scoLog2 → winBase ≤ s.scoBase →
     Does (.sectorErased true) s fun u => u.sco.op = 3 ∧
       u.xmp.running.map (fun o => (o.erase, o.off, o.size, o.owner)) = [(false, s.sectorAddr s.sco.sector - winBase, 64, 254)] ∧
       SameElsewhere [pSCO, pXMP] s u) ∧
  (∀ s : State, s.coreUp = true → s.sco.op = 2 →
     Does (.sectorErased false) s fun u => u.bitOf pSCO COM.FAULT 1 = true ∧
       u.get pSCO SCO.COUNT2_FAILED = satInc 65535 (s.get pSCO SCO.COUNT2_FAILED) ∧ u.scoQueue = s.scoQueue ∧ SameMemory s u)

/-- R390: a request for a low mode from RUN begins an entry sequence, shown ENTERING; a reserved code is ignored with FLAG.REQ_IGNORED and
code 0x05; one during a sequence is held; the sequence ended, the Board is in the mode, and CORE is off below HOLD. R391, R392: a wake
source that is enabled begins a wake from HOLD and from a lower mode, and turns an entry in progress back; the wake, its memory ready and
nothing held, ends in RUN with its cause, FLAG.WAKE set. -/
def Obligations.ModesChange : Prop :=
  (∀ (s : State) (src : Src) (m : Nat), s.bit pDEV DEV.STATUS_BUSY = false → s.mode = 0 → s.pwr.core = true → 1 ≤ m → m ≤ 4 →
     Does (.modeReq src m) s fun u => u.bit pDEV DEV.STATUS_ENTERING = true ∧ u.bit pDEV DEV.STATUS_BUSY = true ∧ u.pwr.target = m ∧
       (s.now + 1, .entryHalt) ∈ u.timers ∧ SameElsewhere [pDEV, pSCO] s u) ∧
  (∀ (s : State) (src : Src) (m : Nat), 5 ≤ m → m ≤ 7 →
     Does (.modeReq src m) s fun u => u.bit pPWR PWR.FLAG_REQ_IGNORED = true ∧ u.get pPWR COM.LAST_ERR_CODE = 5 ∧ u.pwr = s.pwr ∧
       SameElsewhere [pPWR] s u) ∧
  (∀ (s : State) (src : Src) (m : Nat), s.bit pDEV DEV.STATUS_BUSY = true → m ≤ 4 →
     Does (.modeReq src m) s fun u => u.pwr.held = some (if src = .host then 1 else 2, m) ∧ u.mode = s.mode ∧ SameElsewhere [] s u) ∧
  (∀ s : State, s.bit pDEV DEV.STATUS_ENTERING = true → 3 ≤ s.pwr.phase → s.pwr.back = false → 2 ≤ s.pwr.target → s.pwr.target ≤ 4 →
     s.pwr.held = none →
     Does .entryDone s fun u => u.mode = s.pwr.target ∧ u.pwr.core = false ∧ u.bit pDEV DEV.STATUS_ENTERING = false ∧
       u.bit pDEV DEV.STATUS_BUSY = false ∧ SameMemory s u) ∧
  (∀ s : State, s.bit pDEV DEV.STATUS_ENTERING = true → 3 ≤ s.pwr.phase → s.pwr.back = false → s.pwr.target = 1 → s.pwr.held = none →
     Does .entryDone s fun u => u.mode = 1 ∧ u.pwr.core = s.pwr.core ∧ u.bit pDEV DEV.STATUS_ENTERING = false ∧ SameElsewhere [pDEV] s u) ∧
  (∀ (s : State) (n : Nat), s.bit pDEV DEV.STATUS_ENTERING = false → s.mode = 1 → s.bit pDEV DEV.STATUS_WAKING = false →
     s.sourceOk 1 n = true →
     Does (.wakeSource n) s fun u => u.bit pDEV DEV.STATUS_WAKING = true ∧ u.pwr.cause = n ∧ (s.now + 64, .wakeComplete) ∈ u.agenda ∧
       SameElsewhere [pDEV] s u) ∧
  (∀ (s : State) (n : Nat), s.bit pDEV DEV.STATUS_ENTERING = false → 2 ≤ s.mode → s.bit pDEV DEV.STATUS_WAKING = false →
     s.sourceOk s.mode n = true →
     Does (.wakeSource n) s fun u => u.bit pDEV DEV.STATUS_WAKING = true ∧ u.bit pDEV DEV.STATUS_BUSY = true ∧ u.pwr.cause = n ∧
       SameMemory s u) ∧
  (∀ (s : State) (n : Nat), s.bit pDEV DEV.STATUS_ENTERING = true → s.sourceOk s.pwr.target n = true → s.pwr.back = false →
     Does (.wakeSource n) s fun u => u.pwr.back = true ∧ u.pwr.cause = n ∧ SameElsewhere [] s u) ∧
  (∀ s : State, s.bit pDEV DEV.STATUS_WAKING = true → s.memUp = true → s.pwr.held = none → s.bit pPWR PWR.WAKE_EN_START = false →
     Does .wakeComplete s fun u => u.mode = 0 ∧
       u.get pDEV DEV.CAUSE_WAKE = s.pwr.cause % 2 ^ (1 + DEV.CAUSE_WAKE.hi - DEV.CAUSE_WAKE.lo) ∧ u.bit pPWR PWR.FLAG_WAKE = true ∧
       u.bit pDEV DEV.STATUS_WAKING = false ∧ u.bit pDEV DEV.STATUS_BUSY = false ∧ SameMemory s u)

/-- R395: the power-good ball of a ramping rail acknowledges it, as STATUS.RAIL shows; an attempt without acknowledgement fails with
FLAG.RAIL_FAIL and code 0x01, and the regulator is asked off before a further one. R394: a transaction that completes goes on to the next
command of its request; one that is not acknowledged is counted and repeated. R396: a rail whose power-good falls is no longer
acknowledged and sets its FAULT bit. R397: the safe request done is shown in RESIGN.SAFE_DONE. -/
def Obligations.RailsAreSequenced : Prop :=
  (∀ (s : State) (r : Nat), 2 ≤ r → r < 4 → s.railCtl r = 0 → s.bit pPWR (PWR.RAIL_CFG_ACK r) = false → s.railState r = 2 →
     s.coreUp = true → s.pwr.rails.length = 4 →
     Does (.railAck r) s fun u => u.railState r = 3 ∧ u.bitOf pPWR PWR.STATUS_RAIL r = true ∧ (u.rail r).ack = (s.rail r).req ∧
       SameElsewhere [pPWR] s u) ∧
  (∀ (s : State) (r : Nat), r < 4 → s.railCtl r = 0 → s.railState r = 1 ∨ s.railState r = 2 →
     Does (.railAttemptTimeout r) s fun u => u.railState r = 1 ∧ u.bitOf pPWR PWR.STATUS_RAIL r = false ∧
       u.bit pPWR PWR.FLAG_RAIL_FAIL = true ∧ u.get pPWR COM.LAST_ERR_CODE = 1 ∧
       (u.pwr.jobs.any fun j => j.rail == r && j.op == 5) = true ∧ SameElsewhere [pPWR] s u) ∧
  (∀ (s : State) (j : Job) (c : Nat) (d : Nat) (l : List Nat) (js : List Job), s.pwr.jobs = j :: js → j.todo = c :: d :: l → c ≠ 0x20 →
     c ≠ 0x79 → c ≠ 0x8B →
     Does (.pmbusTransaction j.rail c (.ok 0)) s fun u => u.pwr.jobs = { j with todo := d :: l, reps := 0 } :: js ∧
       u.pwr.wire = s.pmbBytes j c ∧ SameElsewhere [] s u) ∧
  (∀ (s : State) (j : Job) (c : Nat) (js : List Job), s.pwr.jobs = j :: js → j.todo.head? = some c → j.reps < 3 →
     Does (.pmbusTransaction j.rail c .nack) s fun u => u.pwr.jobs = { j with reps := j.reps + 1 } :: js ∧
       u.bit pPWR PWR.FLAG_PMB_ERR = true ∧ u.get pPWR COM.LAST_ERR_CODE = 4 ∧
       u.get pPWR PWR.PMB_COUNT_NACK = satInc (2 ^ (1 + PWR.PMB_COUNT_NACK.hi - PWR.PMB_COUNT_NACK.lo) - 1) (s.get pPWR PWR.PMB_COUNT_NACK) ∧
       SameElsewhere [pPWR] s u) ∧
  (∀ (s : State) (r : Nat), r < 4 → s.bitOf pPWR PWR.STATUS_RAIL r = true →
     Does (.powerGoodLost r) s fun u => u.bitOf pPWR PWR.STATUS_RAIL r = false ∧ u.railState r = 2 ∧
       u.bitOf pPWR COM.FAULT (1 + r) = true ∧ SameMemory s u) ∧
  (∀ s : State, s.resigned = true → s.bit pFLT FLT.RESIGN_RF_OFF = true → s.pwr.jobs = [] →
     Does .safeRequestDone s fun u => u.bit pFLT FLT.RESIGN_SAFE_DONE = true ∧ SameElsewhere [pFLT] s u)

/-- R398: the reference that passes its check takes over CCLK while every field is off; the synthesiser that has locked shows SYN_LOCK; a
disabled page, with no field on or armed, stops it. R399: without the crystal in time CORE goes on from the oscillator with FLAG.FALLBACK
and code 0x01. R400: a lost reference puts CCLK on the oscillator and sets FAULT.REF, a lost lock FAULT.SYN; RESTORE is refused with code
0x04 while the reference fails. R404: a junction at the throttle limit throttles, 5 °C below it no longer. R399: with the reference
present again and no field on, RESTORE returns CCLK to the reference. -/
def Obligations.ClocksFollow : Prop :=
  (∀ s : State, s.coreUp = true → s.get pCLK CLK.STATUS_SRC = 0 → s.pwr.fell = false →
     ((List.range 9).all fun n => s.fieldSt n == 0) = true →
     Does .referenceCheckPassed s fun u => u.get pCLK CLK.STATUS_SRC = s.refSrc ∧ u.pwr.refOk = true ∧ SameElsewhere [pCLK] s u) ∧
  (∀ s : State, s.coreUp = true → s.pwr.refOk = true → s.enabled pCLK = true → s.get pCLK CLK.STATUS_SRC ≠ 0 →
     s.bitOf pPWR PWR.STATUS_RAIL 1 = true →
     Does .synLock s fun u => u.synLocked = true ∧ u.bit pCLK CLK.STATUS_BUSY = false ∧ SameElsewhere [pCLK] s u) ∧
  (∀ s : State, s.coreUp = true → s.pwr.refOk = false → s.pwr.fell = false →
     Does .xtalTimeout s fun u => u.pwr.fell = true ∧ u.bit pCLK CLK.FLAG_FALLBACK = true ∧ u.get pCLK COM.LAST_ERR_CODE = 1 ∧
       SameElsewhere [pCLK] s u) ∧
  (∀ s : State, s.coreUp = true → s.pwr.refOk = true →
     Does .referenceLoss s fun u => u.get pCLK CLK.STATUS_SRC = 0 ∧ u.synLocked = false ∧ u.bitOf pCLK COM.FAULT 1 = true ∧
       u.bit pCLK CLK.FLAG_REF_LOST = true ∧ u.pwr.refOk = false ∧ SameMemory s u) ∧
  (∀ s : State, s.coreRuns = true → s.pwr.refOk = false →
     Does .clkRestore s fun u => u.get pCLK COM.LAST_ERR_CODE = 4 ∧ u.get pCLK CLK.STATUS_SRC = s.get pCLK CLK.STATUS_SRC ∧
       SameElsewhere [pCLK] s u) ∧
  (∀ s : State, s.coreUp = true → s.synLocked = true →
     Does .synUnlock s fun u => u.synLocked = false ∧ u.bitOf pCLK COM.FAULT 2 = true ∧ u.bit pCLK CLK.FLAG_SYN_UNLOCK = true ∧
       SameMemory s u) ∧
  (∀ s : State, s.coreRuns = true → s.enabled pCLK = true → ((List.range 9).all fun n => s.fieldSt n == 0 && (s.tx n).act == 0) = true →
     Does .clkDisable s fun u => u.enabled pCLK = false ∧ u.synLocked = false ∧ SameMemory s u) ∧
  (∀ (s : State) (t : Nat), s.coreUp = true → t < 2 ^ 15 → 4 * s.get pPWR PWR.THERM_THROTTLE ≤ t → t < 4 * s.get pPWR PWR.THERM_SHUT →
     Does (.thermalReading t) s fun u => u.bit pPWR PWR.STATUS_THROTTLE = true ∧ u.get pCAL CAL.TEMP_TJ = t ∧
       SameElsewhere [pPWR, pCAL] s u) ∧
  (∀ (s : State) (t : Nat), s.coreUp = true → t < 2 ^ 15 → t + 20 < 4 * s.get pPWR PWR.THERM_THROTTLE →
     t < 4 * s.get pPWR PWR.THERM_SHUT →
     Does (.thermalReading t) s fun u => u.bit pPWR PWR.STATUS_THROTTLE = false ∧ SameElsewhere [pPWR, pCAL] s u) ∧
  (∀ s : State, s.coreRuns = true → s.pwr.refOk = true → s.get pCLK CLK.STATUS_SRC = 0 →
     ((List.range 9).all fun n => s.fieldSt n == 0) = true → s.enabled pCLK = true →
     Does .clkRestore s fun u => u.get pCLK CLK.STATUS_SRC = s.refSrc ∧ SameElsewhere [pCLK] s u)

/-- R401: RESET_N, and CHIP_RESET with 0xC3, bring every register outside FLT (and, for CHIP_RESET, which the Arbiter numbers, outside ARB and
the event pages) to its reset value but DEV.CAUSE and DEV.UPTIME, CAUSE showing the kind, and zero the memory; RESET_N leaves DEV.UPTIME
and the kept words as they were; CHIP_RESET with another value other than 0 records code 0x01 and resets nothing; a power-on reset brings
AON to its reset values as well. R450: TRST_N selects IDCODE and an instruction loaded into the test access port is in force there;
neither changes a register or the memory. -/
def Obligations.ResetsRestart : Prop :=
  (∀ (s : State) (q : Nat) (o : Nat), o < 256 → ¬ (q = pDEV ∧ (o = 0x11 ∨ o = 0x12)) → q ≠ pFLT → s.pins.resignLow = false →
     Does .resetN s fun u => u.reg q o = State.reset.reg q o ∧ u.get pDEV DEV.CAUSE_RESET = 8 ∧ u.reg pDEV 0x12 = s.reg pDEV 0x12 ∧
       u.reg pFLT 0x18 = s.reg pFLT 0x18 ∧ u.sram = [] ∧ u.now = s.now) ∧
  (∀ (s : State) (v : Nat) (q : Nat) (o : Nat), v % 256 = 0xC3 → o < 256 → ¬ (q = pDEV ∧ (o = 0x11 ∨ o = 0x12)) → q ≠ pFLT → q ≠ pARB →
     ¬ (0x70 ≤ q ∧ q ≤ 0x77) → s.pins.resignLow = false →
     Does (.chipReset v) s fun u => u.reg q o = State.reset.reg q o ∧ u.get pDEV DEV.CAUSE_RESET = 10 ∧ u.sram = []) ∧
  (∀ (s : State) (v : Nat), v % 256 ≠ 0xC3 → v % 256 ≠ 0 →
     Does (.chipReset v) s fun u => u.get pDEV COM.LAST_ERR_CODE = 1 ∧ SameElsewhere [pDEV] s u) ∧
  (∀ s : State, s.pins.resignLow = false →
     Does .powerOnReset s fun u => u.regs = State.reset.regs ∧ u.sram = State.reset.sram ∧ u.now = State.reset.now ∧
       u.pwr = State.reset.pwr ∧ u.agenda = State.reset.agenda) ∧
  (∀ s : State, Does .trstN s fun u => u.pins.tap = 1 ∧ u.regs = s.regs ∧ SameMemory s u) ∧
  (∀ (s : State) (i : Nat), Does (.jtagInstruction i) s fun u => u.pins.tap = tapInstr i ∧ u.regs = s.regs ∧ SameMemory s u)

/-- R412, R414: with no injection open, a supply outside its range sets its bit in FLT.SUPPLY and reports class 0x08; a CCLK stop sets
CCLK_STOP, reports class 0x07 and is handled as a loss of the reference; a mismatch of the fault manager reports class 0x0F. R417:
RESIGN_N low requests Resign with cause 1. R418: the ramps ended, RESIGN.RF_OFF is set and the safe request goes to the rails. R413: a
visit of the configuration watch sets FAULT.CFG of the page where its CRC, that of a copy it covers, or an injection makes it differ, and
passes on to the next page, due 2,048 CCLK later; where a covered field of the page is written on this edge it comes again 1 CCLK later. -/
def Obligations.MonitorsReport : Prop :=
  (∀ (s : State) (n : Nat), n < 3 → n = 2 ∨ s.bitOf pPWR PWR.STATUS_RAIL n = true → s.bit pTST TST.STATUS_BUSY = false →
     Does (.supplyMonitorFault n) s fun u => u.bitOf pFLT ⟨0x15, 3, 0⟩ n = true ∧
       u.flt.reports.map (fun r => (r.page, r.info.cls)) = s.flt.reports.map (fun r => (r.page, r.info.cls)) ++ [(pFLT, 8)] ∧
       SameElsewhere [pFLT] s u) ∧
  (∀ s : State, s.coreUp = true → s.pwr.refOk = true →
     Does .cclkStop s fun u => u.bit pFLT FLT.SUPPLY_CCLK_STOP = true ∧
       (u.flt.reports.any fun r => r.page == pFLT && r.info.cls == 7) = true ∧ u.get pCLK CLK.STATUS_SRC = 0 ∧
       u.bitOf pCLK COM.FAULT 1 = true ∧ u.synLocked = false ∧ SameMemory s u) ∧
  (∀ s : State, s.bit pTST TST.STATUS_BUSY = false →
     Does .faultManagerMismatch s fun u =>
       u.flt.reports.map (fun r => (r.page, r.info.cls)) = s.flt.reports.map (fun r => (r.page, r.info.cls)) ++ [(pFLT, 15)] ∧
       SameElsewhere [] s u) ∧
  (∀ s : State,
     Does .resignNLow s fun u => u.flt.request = (if s.flt.request = 0 then 1 else Nat.min 1 s.flt.request) ∧ u.pins.resignLow = true ∧
       u.regs = s.regs ∧ SameMemory s u) ∧
  (∀ s : State, s.resigned = true → s.bit pFLT FLT.RESIGN_RF_OFF = false →
     Does .resignRampEnd s fun u => u.bit pFLT FLT.RESIGN_RF_OFF = true ∧
       (u.pwr.jobs.filter fun j => j.op == 4).map (fun j => j.rail) = ([3, 2].filter fun r => s.railCtl r == 0) ++ (s.pwr.jobs.filter fun j => j.op == 4 && !(s.railCtl j.rail == 0 && (j.rail == 2 || j.rail == 3))).map (fun j => j.rail) ∧
       SameElsewhere [pFLT] s u) ∧
  (∀ (s : State) (p : Nat) (o : Nat) (m : Nat) (bad : Bool), s.coreRuns = true → p = s.get pFLT FLT.WATCH_PAGE →
     (pageKind p).isSome = true → s.coveredNow p = false →
     bad = ((s.upset p o m).crcValue p != (s.upset p o m).cfgCrc p || !(s.upset p o m).mirrorsGood p || s.pins.watchInj == some p) →
     Does (.configWatchVisit o m) s fun u => (bad = true → u.bitOf p COM.FAULT 0 = true) ∧
       (bad = false → m = 0 → SameElsewhere [pFLT] s u) ∧ u.get pFLT FLT.WATCH_PAGE = (nextPage p).1 ∧
       (s.now + 2048, .configWatchVisit 0 0) ∈ u.agenda ∧ SameMemory s u) ∧
  (∀ (s : State) (p : Nat) (o : Nat) (m : Nat), s.coreRuns = true → p = s.get pFLT FLT.WATCH_PAGE → s.coveredNow p = true →
     Does (.configWatchVisit o m) s fun u => (s.now + 1, .configWatchVisit 0 0) ∈ u.agenda ∧ u.get pFLT FLT.WATCH_PAGE = p ∧
       SameMemory s u)

/-- R420: a write of 0x5A to FLT.CMD.RELEASE is refused with code 0x11 while RESIGN_N is low, beside a request on its edge (R427), while the
safe request has not completed, and for cause 3 while the class bit that caused the Resign is still 1; otherwise RESIGNED is 0, the rails
under PMBus control are asked for their demand, and contexts stay as they stand. Any other value, and a write while the Board has not
resigned, has no effect. -/
def Obligations.ReleaseEndsResign : Prop :=
  (∀ (s : State) (v : Nat), v % 256 = 0x5A → s.resigned = true →
     s.pins.resignLow = true ∨ s.flt.asked = s.now + 1 ∨ s.bit pFLT FLT.RESIGN_SAFE_DONE = false ∨ s.get pFLT FLT.RESIGN_CAUSE = 3 ∧ s.bitOf pFLT COM.FAULT s.flt.resignClass = true →
     Does (.resignRelease v) s fun u => u.resigned = true ∧ u.get pFLT COM.LAST_ERR_CODE = 0x11 ∧ u.pwr = s.pwr ∧ SameElsewhere [pFLT] s u) ∧
  (∀ (s : State) (v : Nat) (r : Nat), v % 256 = 0x5A → s.resigned = true → s.pins.resignLow = false → s.flt.asked ≠ s.now + 1 →
     s.bit pFLT FLT.RESIGN_SAFE_DONE = true → ¬ (s.get pFLT FLT.RESIGN_CAUSE = 3 ∧ s.bitOf pFLT COM.FAULT s.flt.resignClass = true) →
     s.coreUp = true → r = 2 ∨ r = 3 → s.pwr.rails.length = 4 →
     Does (.resignRelease v) s fun u => u.resigned = false ∧ (s.railCtl r = 0 → (u.rail r).req = s.demand r ∧ u.railState r = 1) ∧
       u.ctxs = s.ctxs ∧ SameElsewhere [pFLT, pPWR] s u) ∧
  (∀ (s : State) (v : Nat), v % 256 ≠ 0x5A ∨ s.resigned = false →
     Does (.resignRelease v) s fun u => u.resigned = s.resigned ∧ u.pwr = s.pwr ∧ u.ctxs = s.ctxs ∧ SameElsewhere [] s u)

/-- R422: a write of 0x3C to ARM.KEY arms the page for 65,536 CCLK; another value disarms it; with the page disabled or locked the arming is
refused with FLAG.REFUSED and code 0x01, as is a GO of a page that is not armed (R423); a GO takes the injection, to be marked on the next
edge, and disarms. R424: an outcome that does not come in time is MISSED. -/
def Obligations.InjectionsAreArmed : Prop :=
  (∀ (s : State) (key : Nat), s.coreRuns = true → key % 256 = 0x3C → s.enabled pTST = true → s.locked pTST = false →
     Does (.tstArm key) s fun u => u.bit pTST TST.STATUS_ARMED = true ∧ (s.now + 65536, .tstArmExpiry) ∈ u.agenda ∧
       SameElsewhere [pTST] s u) ∧
  (∀ (s : State) (key : Nat), s.coreRuns = true → key % 256 ≠ 0x3C →
     Does (.tstArm key) s fun u => u.bit pTST TST.STATUS_ARMED = false ∧ SameElsewhere [pTST] s u) ∧
  (∀ (s : State) (key : Nat), s.coreRuns = true → key % 256 = 0x3C → s.enabled pTST = false ∨ s.locked pTST = true →
     Does (.tstArm key) s fun u => u.bit pTST TST.STATUS_ARMED = false ∧ u.bit pTST TST.FLAG_REFUSED = true ∧
       u.get pTST COM.LAST_ERR_CODE = 1 ∧ SameElsewhere [pTST] s u) ∧
  (∀ s : State, s.coreUp = true → Does .tstArmExpiry s fun u => u.bit pTST TST.STATUS_ARMED = false ∧ SameElsewhere [pTST] s u) ∧
  (∀ (s : State) (n : Nat) (i : Nat), s.coreRuns = true → s.bit pTST TST.STATUS_ARMED = false →
     Does (.tstInject n i) s fun u => u.bit pTST TST.FLAG_REFUSED = true ∧ u.get pTST COM.LAST_ERR_CODE = 1 ∧ u.timers = s.timers ∧
       u.pins = s.pins ∧ SameElsewhere [pTST] s u) ∧
  (∀ (s : State) (n : Nat) (i : Nat), s.coreRuns = true → s.bit pTST TST.STATUS_ARMED = true → s.tstOk n i = true →
     s.bit pTST TST.STATUS_BUSY = false → n ≠ 0x11 →
     Does (.tstInject n i) s fun u => (s.now + 1, .tstMark n i s.seqNext) ∈ u.timers ∧ u.bit pTST TST.STATUS_ARMED = false ∧
       SameElsewhere [pTST] s u) ∧
  (∀ s : State, s.coreUp = true → s.bit pTST TST.STATUS_BUSY = true →
     Does .injectionOutcomeTimeout s fun u => u.get pTST TST.LAST_RESULT = 2 ∧ u.bit pTST TST.FLAG_MISSED = true ∧
       u.bit pTST TST.STATUS_BUSY = false ∧ u.bitOf pTST COM.FAULT 1 = true ∧ SameMemory s u)

/-- R251: a stopped context with its page and CND0 enabled, the Conductor in service and no low mode being entered, starts at CTXj_ENTRY, its
stack empty, its first fetch due one CCLK later, LAST_LAUNCH the angle now; a start that finds it running, a page disabled, the Conductor
out of service or a low mode being entered leaves it as it is, and is counted, flagged and recorded with code 0x07. R266: an abort ends a
WAIT_ANGLE in flight ABORTED; an abort without a move in flight is counted as late and flagged. R267: a halt stops a context between
moves, which owns no Wing, with reason HALT. R262, R265: a STOP move stops a context that owns no Wing with reason STOP and its DONE flag.
R269: a lockstep mismatch, the first within 10 ms, sets FAULT.LOCKSTEP, and recovery takes 128 CCLK. -/
def Obligations.ContextsStartAndStop : Prop :=
  (∀ (s : State) (src : Src) (c : Nat), s.coreRuns = true → listCtx c = true → s.ctxs.length = 12 → s.run c = 0 →
     s.enabled (pCND c) = true → s.enabled pCND0 = true → s.conductorOut = false → s.bit pDEV DEV.STATUS_ENTERING = false →
     Does (.contextStart src c) s fun u => u.run c = 1 ∧ u.pc c = s.get (pCND c) (CND.CTX_ENTRY_ADDR (c % 4)) ∧ u.ctx c = Ctx.reset ∧
       (s.now + 1, .moveFetch c) ∈ u.agenda ∧ u.lastLaunch c = s.angle ∧ SameElsewhere [pCND c] s u) ∧
  (∀ (s : State) (src : Src) (c : Nat), s.coreRuns = true → listCtx c = true →
     s.run c ≠ 0 ∨ s.enabled (pCND c) = false ∨ s.enabled pCND0 = false ∨ s.conductorOut = true ∨ s.bit pDEV DEV.STATUS_ENTERING = true →
     Does (.contextStart src c) s fun u => u.bit pCND0 CND0.FLAG_START_REFUSED = true ∧
       u.get pCND0 CND0.COUNT2_START_REFUSED = satInc (2 ^ (1 + CND0.COUNT2_START_REFUSED.hi - CND0.COUNT2_START_REFUSED.lo) - 1) (s.get pCND0 CND0.COUNT2_START_REFUSED) ∧
       u.get (pCND c) COM.LAST_ERR_CODE = 7 ∧ u.run c = s.run c ∧ u.ctxs = s.ctxs ∧ SameElsewhere [pCND0, pCND c] s u) ∧
  (∀ (s : State) (c : Nat), s.coreRuns = true → listCtx c = true → (s.ctx c).move = none →
     Does (.contextAbort c) s fun u => u.bit pCND0 CND0.FLAG_LATE_ABORT = true ∧
       u.get pCND0 CND0.COUNT1_LATE_ABORT = satInc (2 ^ (1 + CND0.COUNT1_LATE_ABORT.hi - CND0.COUNT1_LATE_ABORT.lo) - 1) (s.get pCND0 CND0.COUNT1_LATE_ABORT) ∧
       u.ctxs = s.ctxs ∧ SameElsewhere [pCND0] s u) ∧
  (∀ (s : State) (c : Nat) (w : Nat) (a : Nat), s.coreRuns = true → listCtx c = true → s.ctxs.length = 12 → s.run c = 5 →
     (s.ctx c).move = some (.waitAngle c w a) → (s.ctx c).ended = none → s.chainFor c = none →
     ((List.range 8).all fun w => (s.eng w).user != some c) = true →
     Does (.contextAbort c) s fun u => (u.ctx c).ended = some stABORTED ∧ (s.now, .moveCompletion c) ∈ u.agenda ∧ SameElsewhere [pANG] s u) ∧
  (∀ (s : State) (c : Nat), s.coreRuns = true → listCtx c = true → s.ctxs.length = 12 → s.run c = 1 → (s.ctx c).move = none →
     ((List.range 8).all fun w => s.owner w != c) = true →
     Does (.contextHalt c) s fun u => u.run c = 0 ∧ u.reason c = 2 ∧ SameElsewhere [pCND c, pANG] s u) ∧
  (∀ (s : State) (c : Nat), s.coreRuns = true → listCtx c = true → s.ctxs.length = 12 → s.run c = 1 → (s.ctx c).move = none →
     s.recoverAt = none → badMove c (.stop c) = false → ((List.range 8).all fun w => s.owner w != c) = true →
     Does (.stop c) s fun u => u.run c = 0 ∧ u.reason c = 1 ∧ u.bitOf (pCND c) CND.FLAG_DONE (c % 4) = true ∧
       (u.ctx c).stack = (s.ctx c).stack ∧ SameElsewhere [pCND c, pANG] s u) ∧
  (∀ s : State, s.coreRuns = true → s.lockMism = [] →
     Does .lockstepMismatch s fun u => u.bitOf pCND0 COM.FAULT 1 = true ∧ u.recoverAt = some (s.now + 128) ∧ SameMemory s u)

/-- R253, R255: a fetch of two clean words in SRAM that spell a control move issues it at once, and two that spell no move stop the context
with reason BAD_MOVE and code 0x03; a first word marked poisoned, the second clean, stops it with reason POISON and code 0x05 (contexts
that own no Wing). R264, R265: a control move's status of the OK class, of a move that sets LAST_STATUS and does not jump, is shown there,
the move counted, and the next fetch follows one CCLK later at the next address; a status outside it, with STOP_ON_ERR set and the context
owning no Wing, stops the context with reason STOP_ON_ERR and code 0x08 (BAD_ADDRESS, TAKEOVER and FAULTED aside, which have rules of
their own). -/
def Obligations.MovesAreFetchedAndEnd : Prop :=
  (∀ (s : State) (c : Nat) (m : Instr), s.coreRuns = true → listCtx c = true → s.ctxs.length = 12 → s.run c = 1 → (s.ctx c).move = none →
     s.recoverAt = none → (s.ctx c).words = [] → (s.ctx c).psn = none → s.pc c + 1 ≤ sramLast →
     s.word (s.pc c) = freshWord (s.word (s.pc c)).data false → s.word (s.pc c + 1) = freshWord (s.word (s.pc c + 1)).data false →
     (s.word (s.pc c)).data.testBit 34 = false → decodeMove c [(s.word (s.pc c)).data, (s.word (s.pc c + 1)).data] = some m →
     launchOf m = none → Does (.moveFetch c) s fun u => (s.now, m) ∈ u.agenda ∧ u.slot = c ∧ SameElsewhere [] s u) ∧
  (∀ (s : State) (c : Nat), s.coreRuns = true → listCtx c = true → s.ctxs.length = 12 → s.run c = 1 → (s.ctx c).move = none →
     s.recoverAt = none → (s.ctx c).words = [] → (s.ctx c).psn = none → s.pc c + 1 ≤ sramLast →
     s.word (s.pc c) = freshWord (s.word (s.pc c)).data false → s.word (s.pc c + 1) = freshWord (s.word (s.pc c + 1)).data false →
     (s.word (s.pc c)).data.testBit 34 = false → decodeMove c [(s.word (s.pc c)).data, (s.word (s.pc c + 1)).data] = none →
     ((List.range 8).all fun w => s.owner w != c) = true →
     Does (.moveFetch c) s fun u => u.run c = 0 ∧ u.reason c = 3 ∧ u.get (pCND c) COM.LAST_ERR_CODE = 3 ∧
       u.bitOf (pCND c) CND.FLAG_FSTOP (c % 4) = true ∧ SameElsewhere [pCND c, pANG] s u) ∧
  (∀ (s : State) (c : Nat), s.coreRuns = true → listCtx c = true → s.ctxs.length = 12 → s.run c = 1 → (s.ctx c).move = none →
     s.recoverAt = none → (s.ctx c).words = [] → (s.ctx c).psn = none → s.pc c + 1 ≤ sramLast →
     s.word (s.pc c) = freshWord (s.word (s.pc c)).data true → s.word (s.pc c + 1) = freshWord (s.word (s.pc c + 1)).data false →
     (s.word (s.pc c)).data.testBit 34 = false → ((List.range 8).all fun w => s.owner w != c) = true →
     Does (.moveFetch c) s fun u => u.run c = 0 ∧ u.reason c = 5 ∧ u.get (pCND c) COM.LAST_ERR_CODE = 5 ∧
       SameElsewhere [pCND c, pANG, pMEM] s u) ∧
  (∀ (s : State) (c : Nat) (m : Instr) (st : Nat), s.coreRuns = true → listCtx c = true → s.ctxs.length = 12 → s.run c ≠ 0 →
     (s.ctx c).move = some m → (s.ctx c).ended = some st → (s.ctx c).stopAs = none → (s.ctx c).next = none → s.recoverAt = none →
     okClass st = true → keepsStatus m = false → launchOf m = none →
     Does (.moveCompletion c) s fun u => u.lastStatus c = st % 2 ^ 8 ∧ u.pc c = addrAt (s.pc c) (moveLen m) ∧ u.run c = 1 ∧
       (s.now + 1, .moveFetch c) ∈ u.agenda ∧
       u.get (pCND c) (CND.CTX_MOVES_COUNT (c % 4)) = (s.get (pCND c) (CND.CTX_MOVES_COUNT (c % 4)) + 1) % 2 ^ (1 + (CND.CTX_MOVES_COUNT 0).hi - (CND.CTX_MOVES_COUNT 0).lo) ∧
       SameElsewhere [pCND c, pANG] s u) ∧
  (∀ (s : State) (c : Nat) (m : Instr) (st : Nat), s.coreRuns = true → listCtx c = true → s.ctxs.length = 12 → s.run c ≠ 0 →
     (s.ctx c).move = some m → (s.ctx c).ended = some st → (s.ctx c).stopAs = none → s.recoverAt = none → okClass st = false →
     st ≠ stBAD_ADDRESS → st ≠ stTAKEOVER → st ≠ stFAULTED → launchOf m = none →
     s.bit (pCND c) (CND.CTX_CTRL_STOP_ON_ERR (c % 4)) = true → ((List.range 8).all fun w => s.owner w != c) = true →
     Does (.moveCompletion c) s fun u => u.run c = 0 ∧ u.reason c = 7 ∧ u.get (pCND c) COM.LAST_ERR_CODE = 8 ∧
       (keepsStatus m = false → u.lastStatus c = st % 2 ^ 8) ∧ SameElsewhere [pCND c, pANG] s u)

/-- R257, R259: each RF move with WHEN 0, issued with its blocks enabled and its Wing free or its own, takes the claim on the Wing and is
armed, its launch due at the next carrier-cycle boundary; a FIELD with the Board not resigned and its chain without a fault, a field-on
also with a fitted port of an enabled File within the chain's reach and no thermal shutdown, while no auto-tune runs on the chain. R257,
R259 (a SEND for the moves): a move with WHEN 1 is armed for T, one with WHEN 2 for LAST_LAUNCH plus T; one whose Wing another holds waits
for the claim; R459: one whose block is disabled ends DISABLED. A released Wing's claim passes to the first waiting context in round-robin
order, unless a forced window is owed. R257: at its launch comparator a move but FIELD shows T in LAST_LAUNCH and is due at the next
carrier-cycle boundary; a move that no chain carries yet and that is later than LATE_LIMIT ends LATE with T in LAST_LAUNCH, and so does,
at its LATE_LIMIT, a move still waiting for its claim. -/
def Obligations.RfMovesClaimAndLaunch : Prop :=
  (∀ (s : State) (c : Nat) (h : Launch) (off : Bool) (port : Nat), s.coreRuns = true → listCtx c = true → s.ctxs.length = 12 →
     s.run c = 1 → (s.ctx c).move = none → s.recoverAt = none → badMove c (.field c h off port) = false → h.when_ = 0 → h.wing < 8 →
     s.blockOff (.field c h off port) h.wing = false → s.claimFree c h.wing = true → off = true → s.resigned = false →
     s.chainFaulted (s.serving h.wing) = false →
     Does (.field c h off port) s fun u => u.owner h.wing = c ∧ u.run c = 3 ∧ (u.ctx c).move = some (.field c h off port) ∧
       (s.now + s.toCarrier, .rfMoveLaunch c false) ∈ u.agenda ∧ SameMemory s u) ∧
  (∀ (s : State) (c : Nat) (h : Launch) (off : Bool) (port : Nat), s.coreRuns = true → listCtx c = true → s.ctxs.length = 12 →
     s.run c = 1 → (s.ctx c).move = none → s.recoverAt = none → badMove c (.field c h off port) = false → h.when_ = 0 → h.wing < 8 →
     s.blockOff (.field c h off port) h.wing = false → s.claimFree c h.wing = true → off = false → s.noField (s.serving h.wing) = false →
     s.portOk port = true → s.inReach (s.serving h.wing) port = true → (s.tx (s.serving h.wing)).act ≠ 3 →
     Does (.field c h off port) s fun u => u.owner h.wing = c ∧ u.run c = 3 ∧ (u.ctx c).move = some (.field c h off port) ∧
       (s.now + s.toCarrier, .rfMoveLaunch c false) ∈ u.agenda ∧ SameMemory s u) ∧
  (∀ (s : State) (c : Nat) (h : Launch) (r : Bool) (port : Nat), s.coreRuns = true → listCtx c = true → s.ctxs.length = 12 → s.run c = 1 →
     (s.ctx c).move = none → s.recoverAt = none → badMove c (.tune c h r port) = false → h.when_ = 0 → h.wing < 8 →
     s.blockOff (.tune c h r port) h.wing = false → s.claimFree c h.wing = true →
     Does (.tune c h r port) s fun u => u.owner h.wing = c ∧ u.run c = 3 ∧ (u.ctx c).move = some (.tune c h r port) ∧
       (s.now + s.toCarrier, .rfMoveLaunch c false) ∈ u.agenda ∧ SameMemory s u) ∧
  (∀ (s : State) (c : Nat) (h : Launch) (a : Nat), s.coreRuns = true → listCtx c = true → s.ctxs.length = 12 → s.run c = 1 →
     (s.ctx c).move = none → s.recoverAt = none → badMove c (.send c h a) = false → h.when_ = 0 → h.wing < 8 →
     s.blockOff (.send c h a) h.wing = false → s.claimFree c h.wing = true →
     Does (.send c h a) s fun u => u.owner h.wing = c ∧ u.run c = 3 ∧ (u.ctx c).move = some (.send c h a) ∧
       (s.now + s.toCarrier, .rfMoveLaunch c false) ∈ u.agenda ∧ SameMemory s u) ∧
  (∀ (s : State) (c : Nat) (h : Launch) (a : ListenArgs), s.coreRuns = true → listCtx c = true → s.ctxs.length = 12 → s.run c = 1 →
     (s.ctx c).move = none → s.recoverAt = none → badMove c (.listen c h a) = false → h.when_ = 0 → h.wing < 8 →
     s.blockOff (.listen c h a) h.wing = false → s.claimFree c h.wing = true →
     Does (.listen c h a) s fun u => u.owner h.wing = c ∧ u.run c = 3 ∧ (u.ctx c).move = some (.listen c h a) ∧
       (s.now + s.toCarrier, .rfMoveLaunch c false) ∈ u.agenda ∧ SameMemory s u) ∧
  (∀ (s : State) (c : Nat) (h : Launch) (e : Bool) (b : Bool) (p : Nat) (d : Nat) (t : Nat), s.coreRuns = true → listCtx c = true →
     s.ctxs.length = 12 → s.run c = 1 → (s.ctx c).move = none → s.recoverAt = none → badMove c (.xchg c h e b p d t) = false →
     h.when_ = 0 → h.wing < 8 → s.blockOff (.xchg c h e b p d t) h.wing = false → s.claimFree c h.wing = true →
     Does (.xchg c h e b p d t) s fun u => u.owner h.wing = c ∧ u.run c = 3 ∧ (u.ctx c).move = some (.xchg c h e b p d t) ∧
       (s.now + s.toCarrier, .rfMoveLaunch c false) ∈ u.agenda ∧ SameMemory s u) ∧
  (∀ (s : State) (c : Nat) (h : Launch) (a : AnticollArgs), s.coreRuns = true → listCtx c = true → s.ctxs.length = 12 → s.run c = 1 →
     (s.ctx c).move = none → s.recoverAt = none → badMove c (.anticoll c h a) = false → h.when_ = 0 → h.wing < 8 →
     s.blockOff (.anticoll c h a) h.wing = false → s.claimFree c h.wing = true →
     Does (.anticoll c h a) s fun u => u.owner h.wing = c ∧ u.run c = 3 ∧ (u.ctx c).move = some (.anticoll c h a) ∧
       (s.now + s.toCarrier, .rfMoveLaunch c false) ∈ u.agenda ∧ SameMemory s u) ∧
  (∀ (s : State) (c : Nat) (h : Launch) (b : Bool), s.coreRuns = true → listCtx c = true → s.ctxs.length = 12 → s.run c = 1 →
     (s.ctx c).move = none → s.recoverAt = none → badMove c (.sound c h b) = false → h.when_ = 0 → h.wing < 8 →
     s.blockOff (.sound c h b) h.wing = false → s.claimFree c h.wing = true →
     Does (.sound c h b) s fun u => u.owner h.wing = c ∧ u.run c = 3 ∧ (u.ctx c).move = some (.sound c h b) ∧
       (s.now + s.toCarrier, .rfMoveLaunch c false) ∈ u.agenda ∧ SameMemory s u) ∧
  (∀ (s : State) (c : Nat) (h : Launch) (b : Bool), s.coreRuns = true → listCtx c = true → s.ctxs.length = 12 → s.run c = 1 →
     (s.ctx c).move = none → s.recoverAt = none → badMove c (.book c h b) = false → h.when_ = 0 → h.wing < 8 →
     s.blockOff (.book c h b) h.wing = false → s.claimFree c h.wing = true →
     Does (.book c h b) s fun u => u.owner h.wing = c ∧ u.run c = 3 ∧ (u.ctx c).move = some (.book c h b) ∧
       (s.now + s.toCarrier, .rfMoveLaunch c false) ∈ u.agenda ∧ SameMemory s u) ∧
  (∀ (s : State) (c : Nat) (h : Launch) (b : Bool), s.coreRuns = true → listCtx c = true → s.ctxs.length = 12 → s.run c = 1 →
     (s.ctx c).move = none → s.recoverAt = none → badMove c (.gambit c h b) = false → h.when_ = 0 → h.wing < 8 →
     s.blockOff (.gambit c h b) h.wing = false → s.claimFree c h.wing = true →
     Does (.gambit c h b) s fun u => u.owner h.wing = c ∧ u.run c = 3 ∧ (u.ctx c).move = some (.gambit c h b) ∧
       (s.now + s.toCarrier, .rfMoveLaunch c false) ∈ u.agenda ∧ SameMemory s u) ∧
  (∀ (s : State) (c : Nat) (h : Launch) (a : Nat), s.coreRuns = true → listCtx c = true → s.ctxs.length = 12 → s.run c = 1 →
     (s.ctx c).move = none → s.recoverAt = none → badMove c (.seal c h a) = false → h.when_ = 0 → h.wing < 8 →
     s.blockOff (.seal c h a) h.wing = false → s.claimFree c h.wing = true →
     Does (.seal c h a) s fun u => u.owner h.wing = c ∧ u.run c = 3 ∧ (u.ctx c).move = some (.seal c h a) ∧
       (s.now + s.toCarrier, .rfMoveLaunch c false) ∈ u.agenda ∧ SameMemory s u) ∧
  (∀ (s : State) (c : Nat) (h : Launch) (a : Nat), s.coreRuns = true → listCtx c = true → s.ctxs.length = 12 → s.run c = 1 →
     (s.ctx c).move = none → s.recoverAt = none → badMove c (.send c h a) = false → h.wing < 8 → h.when_ = 1 → s.enabled pANG = true →
     s.blockOff (.send c h a) h.wing = false → s.claimFree c h.wing = true →
     Does (.send c h a) s fun u => u.owner h.wing = c ∧ u.run c = 3 ∧ (u.ctx c).target = some (h.t % 2 ^ 40) ∧ SameMemory s u) ∧
  (∀ (s : State) (c : Nat) (h : Launch) (a : Nat), s.coreRuns = true → listCtx c = true → s.ctxs.length = 12 → s.run c = 1 →
     (s.ctx c).move = none → s.recoverAt = none → badMove c (.send c h a) = false → h.wing < 8 → h.when_ = 2 → (s.ctx c).again = false →
     s.enabled pANG = true → s.blockOff (.send c h a) h.wing = false → s.claimFree c h.wing = true →
     Does (.send c h a) s fun u => u.owner h.wing = c ∧ u.run c = 3 ∧ (u.ctx c).target = some ((s.lastLaunch c + h.t) % 2 ^ 40) ∧
       SameMemory s u) ∧
  (∀ (s : State) (c : Nat) (h : Launch) (a : Nat), s.coreRuns = true → listCtx c = true → s.ctxs.length = 12 → s.run c = 1 →
     (s.ctx c).move = none → s.recoverAt = none → badMove c (.send c h a) = false → h.wing < 8 → h.when_ = 0 →
     s.blockOff (.send c h a) h.wing = false → s.claimFree c h.wing = false →
     Does (.send c h a) s fun u => u.run c = 2 ∧ u.owner h.wing = s.owner h.wing ∧ (u.ctx c).move = some (.send c h a) ∧
       (u.ctx c).ended = none ∧ SameMemory s u) ∧
  (∀ (s : State) (c : Nat) (h : Launch) (a : Nat), s.coreRuns = true → listCtx c = true → s.ctxs.length = 12 → s.run c = 1 →
     (s.ctx c).move = none → s.recoverAt = none → badMove c (.send c h a) = false → h.wing < 8 → s.blockOff (.send c h a) h.wing = true →
     Does (.send c h a) s fun u => (u.ctx c).ended = some stDISABLED ∧ (s.now, .moveCompletion c) ∈ u.agenda ∧ u.run c = 4 ∧
       SameElsewhere [pCND c] s u) ∧
  (∀ (s : State) (w : Nat) (c : Nat) (m : Instr) (h : Launch), s.coreRuns = true → w < 8 → s.owner w = 15 → s.calHolds w = false →
     s.invHolds w = false → s.recoverAt = none → s.forcedReady w = false →
     (s.slotOrder.find? fun c => s.run c == 2 && s.moveWing c == some w) = some c → (s.ctx c).move = some m → launchOf m = some h →
     moveOp m ≠ 1 → (s.ctx c).ended = none → Does (.wingClaimGrant w) s fun u => u.owner w = c ∧ u.run c = 3 ∧ SameMemory s u) ∧
  (∀ (s : State) (c : Nat) (m : Instr) (h : Launch) (t : Nat), s.coreRuns = true → listCtx c = true → s.ctxs.length = 12 → s.run c = 3 →
     (s.ctx c).move = some m → (s.ctx c).ended = none → launchOf m = some h → moveOp m ≠ 1 → (s.ctx c).target = some t → t < 2 ^ 40 →
     s.recoverAt = none →
     Does (.rfMoveLaunch c false) s fun u => u.run c = 4 ∧ u.lastLaunch c = t ∧ (s.now + s.toCarrier, .rfMoveLaunch c false) ∈ u.agenda ∧
       SameElsewhere [pCND c] s u) ∧
  (∀ (s : State) (c : Nat) (m : Instr) (h : Launch) (t : Nat), s.coreRuns = true → listCtx c = true → s.ctxs.length = 12 → s.run c = 3 →
     (s.ctx c).move = some m → (s.ctx c).ended = none → launchOf m = some h → (s.ctx c).target = some t → t < 2 ^ 40 →
     s.recoverAt = none → s.chainFor c = none → h.late % 8192 * 65536 < (s.angle + 2 ^ 40 - t) % 2 ^ 40 →
     Does (.rfMoveLaunch c true) s fun u => (u.ctx c).ended = some stLATE ∧ u.lastLaunch c = t ∧ SameElsewhere [pCND c] s u) ∧
  (∀ (s : State) (c : Nat) (m : Instr) (h : Launch), s.coreRuns = true → listCtx c = true → s.ctxs.length = 12 → s.run c = 2 →
     (s.ctx c).move = some m → (s.ctx c).ended = none → launchOf m = some h →
     Does (.lateLimitExpiry c) s fun u => (u.ctx c).ended = some stLATE ∧ (s.now, .moveCompletion c) ∈ u.agenda ∧
       SameElsewhere [pCND c] s u)

/-- R262, R263: LOAD gives an accumulator the immediate value, or a clean word of SRAM; STORE writes an accumulator with its mark to a word of
SRAM; a COPY of one clean word writes it; a LOAD or STORE at an unmapped address, and such a COPY to or from one, ends BAD_ADDRESS with
memory as it was. BRANCH, its operand not poisoned, takes its target when its condition holds, DEC_NZ counting the accumulator down. CALL
and RETURN push and pop the next address, a ninth push and an empty stack stopping the context (one that owns no Wing) with reason STACK
and code 0x06. LOG queues a USER record where the queue has room, and ends FULL with nothing queued where it holds 12. RAISE ends DONE on
a channel that is on, fed by the context's producer, with fewer than 16 hops, and REFUSED on one that is not on. Each other one ends DONE;
each end is completed at once. -/
def Obligations.ControlMoves : Prop :=
  (∀ (s : State) (c : Nat) (r : Nat) (v : Nat), s.coreRuns = true → listCtx c = true → s.ctxs.length = 12 → s.run c = 1 →
     (s.ctx c).move = none → s.recoverAt = none → badMove c (.load c true r v) = false → r < 4 →
     Does (.load c true r v) s fun u => u.acc c r = v % 2 ^ 40 ∧ u.accPoisoned c r = false ∧ (u.ctx c).ended = some stDONE ∧
       (s.now, .moveCompletion c) ∈ u.agenda ∧ u.run c = 4 ∧ SameElsewhere [pCND c] s u) ∧
  (∀ (s : State) (c : Nat) (r : Nat) (a : Nat), s.coreRuns = true → listCtx c = true → s.ctxs.length = 12 → s.run c = 1 →
     (s.ctx c).move = none → s.recoverAt = none → badMove c (.load c false r a) = false → r < 4 →
     s.word a = freshWord (s.word a).data false → a ≤ sramLast →
     Does (.load c false r a) s fun u => u.acc c r = (s.word a).data % 2 ^ 40 ∧ u.accPoisoned c r = false ∧
       (u.ctx c).ended = some stDONE ∧ (s.now, .moveCompletion c) ∈ u.agenda ∧ u.run c = 4 ∧ SameElsewhere [pCND c] s u) ∧
  (∀ (s : State) (c : Nat) (r : Nat) (a : Nat), s.coreRuns = true → listCtx c = true → s.ctxs.length = 12 → s.run c = 1 →
     (s.ctx c).move = none → s.recoverAt = none → badMove c (.load c false r a) = false → mapped a = false →
     Does (.load c false r a) s fun u => (u.ctx c).ended = some stBAD_ADDRESS ∧ (s.now, .moveCompletion c) ∈ u.agenda ∧ u.run c = 4 ∧
       (u.regPsn = s.regPsn) ∧ SameElsewhere [pCND c] s u) ∧
  (∀ (s : State) (c : Nat) (r : Nat) (a : Nat), s.coreRuns = true → listCtx c = true → s.ctxs.length = 12 → s.run c = 1 →
     (s.ctx c).move = none → s.recoverAt = none → badMove c (.store c r a) = false → mapped a = false →
     Does (.store c r a) s fun u => (u.ctx c).ended = some stBAD_ADDRESS ∧ (s.now, .moveCompletion c) ∈ u.agenda ∧ u.run c = 4 ∧
       SameElsewhere [pCND c] s u) ∧
  (∀ (s : State) (c : Nat) (a : Nat) (d : Nat), s.coreRuns = true → listCtx c = true → s.ctxs.length = 12 → s.run c = 1 →
     (s.ctx c).move = none → s.recoverAt = none → badMove c (.copy c 1 a d) = false → a < 2 ^ 40 → mapped a = false →
     Does (.copy c 1 a d) s fun u => (u.ctx c).ended = some stBAD_ADDRESS ∧ (s.now, .moveCompletion c) ∈ u.agenda ∧ u.run c = 4 ∧
       SameElsewhere [pCND c] s u) ∧
  (∀ (s : State) (c : Nat) (a : Nat) (d : Nat), s.coreRuns = true → listCtx c = true → s.ctxs.length = 12 → s.run c = 1 →
     (s.ctx c).move = none → s.recoverAt = none → badMove c (.copy c 1 a d) = false → s.word a = freshWord (s.word a).data false →
     a ≤ sramLast → d < 2 ^ 40 → mapped d = false →
     Does (.copy c 1 a d) s fun u => (u.ctx c).ended = some stBAD_ADDRESS ∧ (s.now, .moveCompletion c) ∈ u.agenda ∧ u.run c = 4 ∧
       SameElsewhere [pCND c] s u) ∧
  (∀ (s : State) (c : Nat) (r : Nat) (a : Nat) (b : Nat), s.coreRuns = true → listCtx c = true → s.ctxs.length = 12 → s.run c = 1 →
     (s.ctx c).move = none → s.recoverAt = none → badMove c (.store c r a) = false → r < 4 → a ≤ sramLast → (s.word a).isBad = false →
     (s.parityWord (a / 8)).isBad = false → b ≠ a →
     Does (.store c r a) s fun u => u.word a = freshWord (s.acc c r % 2 ^ 40) (s.accPoisoned c r) ∧ u.word b = s.word b ∧
       (u.ctx c).ended = some stDONE ∧ (s.now, .moveCompletion c) ∈ u.agenda ∧ u.run c = 4) ∧
  (∀ (s : State) (c : Nat) (a : Nat) (d : Nat) (b : Nat), s.coreRuns = true → listCtx c = true → s.ctxs.length = 12 → s.run c = 1 →
     (s.ctx c).move = none → s.recoverAt = none → badMove c (.copy c 1 a d) = false → s.word a = freshWord (s.word a).data false →
     a ≤ sramLast → d ≤ sramLast → (s.word d).isBad = false → (s.parityWord (d / 8)).isBad = false → b ≠ d →
     Does (.copy c 1 a d) s fun u => u.word d = freshWord ((s.word a).data % 2 ^ 40) false ∧ u.word b = s.word b ∧
       (u.ctx c).ended = some stDONE ∧ (s.now, .moveCompletion c) ∈ u.agenda ∧ u.run c = 4) ∧
  (∀ (s : State) (c : Nat) (cond : Nat) (imm : Nat) (r : Nat) (t : Nat), s.coreRuns = true → listCtx c = true → s.ctxs.length = 12 →
     s.run c = 1 → (s.ctx c).move = none → s.recoverAt = none → badMove c (.branch c cond imm r t) = false →
     cond < 5 ∨ s.accPoisoned c r = false → cond ≠ 7 →
     Does (.branch c cond imm r t) s fun u =>
       (u.ctx c).next = (if branchHolds cond imm (s.lastStatus c) (s.acc c r) then some (t % 2 ^ 40) else none) ∧
       (u.ctx c).ended = some stDONE ∧ (s.now, .moveCompletion c) ∈ u.agenda ∧ u.run c = 4 ∧ SameElsewhere [pCND c] s u) ∧
  (∀ (s : State) (c : Nat) (imm : Nat) (r : Nat) (t : Nat), s.coreRuns = true → listCtx c = true → s.ctxs.length = 12 → s.run c = 1 →
     (s.ctx c).move = none → s.recoverAt = none → badMove c (.branch c 7 imm r t) = false → s.accPoisoned c r = false → r < 4 →
     Does (.branch c 7 imm r t) s fun u => u.acc c r = (s.acc c r + 2 ^ 40 - 1) % 2 ^ 40 ∧
       (u.ctx c).next = (if s.acc c r % 2 ^ 40 = 1 then none else some (t % 2 ^ 40)) ∧ (u.ctx c).ended = some stDONE ∧
       (s.now, .moveCompletion c) ∈ u.agenda ∧ u.run c = 4 ∧ SameElsewhere [pCND c] s u) ∧
  (∀ (s : State) (c : Nat) (t : Nat), s.coreRuns = true → listCtx c = true → s.ctxs.length = 12 → s.run c = 1 → (s.ctx c).move = none →
     s.recoverAt = none → badMove c (.call c t) = false → (s.ctx c).stack.length < 8 →
     Does (.call c t) s fun u => (u.ctx c).stack = addrAt (s.pc c) 2 :: (s.ctx c).stack ∧ (u.ctx c).next = some (t % 2 ^ 40) ∧
       (u.ctx c).ended = some stDONE ∧ (s.now, .moveCompletion c) ∈ u.agenda ∧ u.run c = 4 ∧ SameElsewhere [pCND c] s u) ∧
  (∀ (s : State) (c : Nat) (t : Nat), s.coreRuns = true → listCtx c = true → s.ctxs.length = 12 → s.run c = 1 → (s.ctx c).move = none →
     s.recoverAt = none → badMove c (.call c t) = false → 8 ≤ (s.ctx c).stack.length →
     ((List.range 8).all fun w => s.owner w != c) = true →
     Does (.call c t) s fun u => u.run c = 0 ∧ u.reason c = 6 ∧ u.get (pCND c) COM.LAST_ERR_CODE = 6 ∧ SameElsewhere [pCND c, pANG] s u) ∧
  (∀ (s : State) (c : Nat) (a : Nat) (l : List Nat), s.coreRuns = true → listCtx c = true → s.ctxs.length = 12 → s.run c = 1 →
     (s.ctx c).move = none → s.recoverAt = none → badMove c (.ret c) = false → (s.ctx c).stack = a :: l →
     Does (.ret c) s fun u => (u.ctx c).stack = l ∧ (u.ctx c).next = some a ∧ (u.ctx c).ended = some stDONE ∧
       (s.now, .moveCompletion c) ∈ u.agenda ∧ u.run c = 4 ∧ SameElsewhere [pCND c] s u) ∧
  (∀ (s : State) (c : Nat), s.coreRuns = true → listCtx c = true → s.ctxs.length = 12 → s.run c = 1 → (s.ctx c).move = none →
     s.recoverAt = none → badMove c (.ret c) = false → (s.ctx c).stack = [] → ((List.range 8).all fun w => s.owner w != c) = true →
     Does (.ret c) s fun u => u.run c = 0 ∧ u.reason c = 6 ∧ u.get (pCND c) COM.LAST_ERR_CODE = 6 ∧ SameElsewhere [pCND c, pANG] s u) ∧
  (∀ (s : State) (c : Nat) (g : Nat) (v : Nat), s.coreRuns = true → listCtx c = true → s.ctxs.length = 12 → s.run c = 1 →
     (s.ctx c).move = none → s.recoverAt = none → badMove c (.log c g v) = false → s.scoRoom 2 = true →
     Does (.log c g v) s fun u =>
       u.scoQueue.map (fun r => (r.kind, r.payload)) = s.scoQueue.map (fun r => (r.kind, r.payload)) ++ [(2, [c, g % 256] ++ beBytes 5 v ++ beBytes 5 (s.acc c 0) ++ [s.lastStatus c])] ∧
       (u.ctx c).ended = some stDONE ∧ (s.now, .moveCompletion c) ∈ u.agenda ∧ u.run c = 4 ∧ SameElsewhere [pCND c, pSCO] s u) ∧
  (∀ (s : State) (c : Nat) (g : Nat) (v : Nat), s.coreRuns = true → listCtx c = true → s.ctxs.length = 12 → s.run c = 1 →
     (s.ctx c).move = none → s.recoverAt = none → badMove c (.log c g v) = false → 12 ≤ s.scoQueue.length →
     Does (.log c g v) s fun u => u.scoQueue = s.scoQueue ∧ (u.ctx c).ended = some stFULL ∧ (s.now, .moveCompletion c) ∈ u.agenda ∧
       u.run c = 4 ∧ SameElsewhere [pCND c, pSCO] s u) ∧
  (∀ (s : State) (c : Nat) (ch : Nat), s.coreRuns = true → listCtx c = true → s.ctxs.length = 12 → s.run c = 1 → (s.ctx c).move = none →
     s.recoverAt = none → badMove c (.raise c ch) = false → ch < 64 → s.channelOn ch = true → s.feeds (159 + c) ch = true →
     s.moveHop c < 16 →
     Does (.raise c ch) s fun u => (u.ctx c).ended = some stDONE ∧ (s.now, .moveCompletion c) ∈ u.agenda ∧ u.run c = 4 ∧
       SameElsewhere [pCND c] s u) ∧
  (∀ (s : State) (c : Nat) (ch : Nat), s.coreRuns = true → listCtx c = true → s.ctxs.length = 12 → s.run c = 1 → (s.ctx c).move = none →
     s.recoverAt = none → badMove c (.raise c ch) = false → ch < 64 → s.channelOn ch = false →
     Does (.raise c ch) s fun u => (u.ctx c).ended = some stREFUSED ∧ (s.now, .moveCompletion c) ∈ u.agenda ∧ u.run c = 4 ∧
       SameElsewhere [pCND c] s u)

/-- R262: WAIT_ANGLE arms the context's comparator for its target (from the angle now with WHEN 0, the angle given with WHEN 1, from
LAST_LAUNCH with WHEN 2), shown in ANG.WAITc, and ends DONE when it fires, LATE when late, LAST_LAUNCH taking the target; with ANG
disabled it ends DISABLED. WAIT_EVENT ends DONE at once where its channel has fired on the edge, else waits, its timeout due where one is
given, and ends TIMEOUT when its time passes. An INVENTORY STOP with no pass running ends DONE; a START or DISCOVER with INV disabled ends
REFUSED, with code 0x07. R225: an INVENTORY move that starts a pass ends DONE with the pass armed. -/
def Obligations.WaitingMoves : Prop :=
  (∀ (s : State) (c : Nat) (w : Nat) (a : Nat) (t : Nat), s.coreRuns = true → listCtx c = true → s.ctxs.length = 12 → s.run c = 1 →
     (s.ctx c).move = none → s.recoverAt = none → badMove c (.waitAngle c w a) = false → w < 3 → (s.ctx c).again = false →
     s.enabled pANG = true → t = ((if w = 1 then 0 else if w = 2 then s.lastLaunch c else s.angle) + a) % 2 ^ 40 →
     Does (.waitAngle c w a) s fun u => u.run c = 5 ∧ (u.ctx c).target = some t ∧ u.bitOf pANG ANG.WAIT_ACTIVE_ACTIVE c = true ∧
       u.get pANG (ANG.WAIT_TARGET c) = t ∧ SameElsewhere [pCND c, pANG] s u) ∧
  (∀ (s : State) (c : Nat) (w : Nat) (a : Nat), s.coreRuns = true → listCtx c = true → s.ctxs.length = 12 → s.run c = 1 →
     (s.ctx c).move = none → s.recoverAt = none → badMove c (.waitAngle c w a) = false → s.enabled pANG = false →
     Does (.waitAngle c w a) s fun u => (u.ctx c).ended = some stDISABLED ∧ (s.now, .moveCompletion c) ∈ u.agenda ∧ u.run c = 4 ∧
       SameElsewhere [pCND c] s u) ∧
  (∀ (s : State) (c : Nat) (late : Bool) (t : Nat) (m : Instr), s.coreRuns = true → listCtx c = true → s.ctxs.length = 12 → s.run c = 5 →
     (s.ctx c).ended = none → (s.ctx c).move = some m → (s.ctx c).target = some t → t < 2 ^ 40 →
     Does (.waitAngleFire c late) s fun u => (u.ctx c).ended = some (if late then stLATE else stDONE) ∧ u.lastLaunch c = t ∧
       (s.now, .moveCompletion c) ∈ u.agenda ∧ SameElsewhere [pCND c] s u) ∧
  (∀ (s : State) (c : Nat) (ch : Nat) (t : Nat), s.coreRuns = true → listCtx c = true → s.ctxs.length = 12 → s.run c = 1 →
     (s.ctx c).move = none → s.recoverAt = none → badMove c (.waitEvent c ch t) = false → (ch, s.now) ∉ s.fires →
     Does (.waitEvent c ch t) s fun u => u.run c = 6 ∧ (u.ctx c).ended = none ∧ (t ≠ 0 → (s.now + t, .waitEventTimeout c) ∈ u.agenda) ∧
       SameElsewhere [pCND c] s u) ∧
  (∀ (s : State) (c : Nat) (ch : Nat) (t : Nat), s.coreRuns = true → listCtx c = true → s.ctxs.length = 12 → s.run c = 1 →
     (s.ctx c).move = none → s.recoverAt = none → badMove c (.waitEvent c ch t) = false → (ch, s.now) ∈ s.fires →
     Does (.waitEvent c ch t) s fun u => (u.ctx c).ended = some stDONE ∧ (s.now, .moveCompletion c) ∈ u.agenda ∧
       SameElsewhere [pCND c] s u) ∧
  (∀ (s : State) (c : Nat) (m : Instr), s.coreRuns = true → listCtx c = true → s.ctxs.length = 12 → s.run c = 6 → (s.ctx c).ended = none →
     (s.ctx c).move = some m →
     Does (.waitEventTimeout c) s fun u => (u.ctx c).ended = some stTIMEOUT ∧ (s.now, .moveCompletion c) ∈ u.agenda ∧
       SameElsewhere [pCND c] s u) ∧
  (∀ (s : State) (c : Nat) (w : Bool), s.coreRuns = true → listCtx c = true → s.ctxs.length = 12 → s.run c = 1 → (s.ctx c).move = none →
     s.recoverAt = none → badMove c (.inventory c w 2) = false → s.invState = 0 →
     Does (.inventory c w 2) s fun u => (u.ctx c).ended = some stDONE ∧ (s.now, .moveCompletion c) ∈ u.agenda ∧ u.run c = 4 ∧
       u.invState = 0 ∧ SameElsewhere [pCND c] s u) ∧
  (∀ (s : State) (c : Nat) (w : Bool) (a : Nat), s.coreRuns = true → listCtx c = true → s.ctxs.length = 12 → s.run c = 1 →
     (s.ctx c).move = none → s.recoverAt = none → badMove c (.inventory c w a) = false → a < 2 → s.enabled pINV = false →
     Does (.inventory c w a) s fun u => (u.ctx c).ended = some stREFUSED ∧ (s.now, .moveCompletion c) ∈ u.agenda ∧ u.run c = 4 ∧
       u.get pINV COM.LAST_ERR_CODE = 7 ∧ SameElsewhere [pCND c, pINV] s u) ∧
  (∀ (s : State) (c : Nat) (w : Bool) (a : Nat), s.coreRuns = true → listCtx c = true → s.ctxs.length = 12 → s.run c = 1 →
     (s.ctx c).move = none → s.recoverAt = none → badMove c (.inventory c w a) = false → w = false → a = 0 → s.enabled pINV = true →
     s.invState = 0 → s.inv.oos = false → s.ledgerFits = true → (s.readPlan s.rounds).2.planOk = true →
     (match (s.readPlan s.rounds).1 with | .words _ => true | _ => false) = true → s.schedMode = 1 ∨ s.schedMode = 2 →
     Does (.inventory c w a) s fun u => (u.ctx c).ended = some stDONE ∧ (s.now, .moveCompletion c) ∈ u.agenda ∧ u.run c = 4 ∧
       u.invState = 1 ∧ u.inv.disc = false ∧ u.inv.pass = 0)

/-- Every command answers a next state, with the queue as it was; a step takes the command at the front of the queue and is exec of it on the
state with the rest of the queue; with nothing commanded the Board's own time goes on (the tick on an empty queue is the model's choice,
log entry 13). -/
def Obligations.StepRunsTheFront : Prop :=
  (∀ (c : Instr) (s : State), ∃ t, exec c s = .next t ∧ t.pending = s.pending) ∧
  (∀ (c : Instr) (rest : List Instr) (s : State), s.pending = c :: rest → step s = exec c { s with pending := rest }) ∧
  (∀ s : State, s.pending = [] → step s = .next s.elapse)

/-- R401: right after a power-on reset every register holds its reset value, but for DEV.STATUS, which shows the start-up of R392 (OFF,
WAKING, BUSY), and the state of rail 0, which is being requested; no memory word is listed and no command waits. Values of the register
tables, for one register of each of several pages. (That unlisted words read 0 is the model's choice, log entry 6.) -/
def Obligations.ResetValues : Prop :=
  (∀ q o, o < 256 → ¬ (q = pDEV ∧ o = 2) → ¬ (q = pPWR ∧ o = 0x1D) → State.reset.reg q o = regDefault (q * 256 + o)) ∧
  State.reset.bit pDEV DEV.STATUS_WAKING = true ∧ State.reset.bit pDEV DEV.STATUS_BUSY = true ∧ State.reset.railState 0 = 1 ∧
  State.reset.reg pANG 0x13 = 0x0000423600 ∧ State.reset.reg pMCH 0x10 = 0x0000200026 ∧ State.reset.reg (pFIL 23) 0x1F = 0x0000000800 ∧
  State.reset.reg (pTXC 8) 0x10 = 0x0000000100 ∧ State.reset.reg (pTXC 7) 0x11 = 0x00001900C8 ∧
  State.reset.reg (pRXC 0) 0x14 = 0x1080C04406 ∧ State.reset.reg pPRT 0x13 = 0x02000EA8A0 ∧ State.reset.reg pBLZ 0x11 = 0x34F8049410 ∧
  State.reset.reg pINV 0x15 = 0x0000181802 ∧ State.reset.reg pKBZ 0x23 = 0xFFFFFFFFFF ∧ State.reset.reg pCND0 0x11 = 0x00FFFFFFFF ∧
  State.reset.reg pCAL 0x12 = 0x4010040804 ∧ State.reset.reg pSCO 0x10 = 0x8000000000 ∧ State.reset.reg pSCB 0x10 = 0x00022701F4 ∧
  State.reset.reg (pCKU 3) 0x10 = 0x0000000013 ∧ State.reset.reg pHPT 0x12 = 0x0000080880 ∧ State.reset.reg pXMP 0x10 = 0x000044C88A ∧
  State.reset.reg pDEV 0x11 = 0x0000040909 ∧ State.reset.reg pPWR 0x17 = 0x0000A2D0B4 ∧ State.reset.reg pCLK 0x10 = 0x00000A0100 ∧
  State.reset.reg pFLT 0x10 = 0x000000A101 ∧ State.reset.sram = [] ∧ State.reset.parity = [] ∧ State.reset.pending = []

/-- The state after a power-on reset is canonical: its register file and memories are canonical lists, and it has its contexts, chains,
engines and Wings (R19, R23). -/
def Obligations.ResetIsCanonical : Prop :=
  State.reset.Canon

/-- Every step, from every state, keeps the canonical form: whatever command is at the front, and with none, the register file and the
memories stay canonical lists, and the Board keeps its twelve contexts, nine transmit and seventeen receive chains, eight engines and
eight Wings (R19, R23). -/
def Obligations.StepKeepsCanonical : Prop :=
  ∀ s t : State, step s = .next t → s.Canon → t.Canon

/-- R255, R256, R260, R262: the words of a well-formed move spell that move: whatever its operands, read for its context they give it, and
they are as many as the opcode has, each of 40 bits. -/
def Obligations.MoveRoundTrip : Prop :=
  ∀ (m : Instr) (ws : List Nat), m.wf = true → encodeMove m = some ws →
    (∃ c, decodeMove c ws = some m) ∧ ws.length = moveLen m ∧ ∀ w ∈ ws, w < 2 ^ 40

/-- R414: the fault manager takes up a report that has been made, the only one waiting: the class bit is set in FLT.FAULT, FLT.TOTAL is one
higher, and, unless the class was recorded less than 1 ms ago, LAST shows class, page and code, and a class in CFG.RESIGN_ON requests
Resign (R417) where no request stands. Within that millisecond the fault is only shown in FAULT and counted, with no record, no LAST and
no request, a class 0x0D excepted. -/
def Obligations.FaultsAreTakenUp : Prop :=
  (∀ (s : State) (r : Report), s.flt.reports = [r] → 1 ≤ r.info.cls → r.info.cls < 16 → r.page < 128 → r.code < 256 →
    (s.recentlyRecorded r.info.cls = false ∨ r.info.cls = 13) →
    s.takeReports.bitOf pFLT COM.FAULT r.info.cls = true ∧
    s.takeReports.get pFLT FLT.TOTAL_COUNT = (s.get pFLT FLT.TOTAL_COUNT + 1) % 2 ^ (1 + FLT.TOTAL_COUNT.hi - FLT.TOTAL_COUNT.lo) ∧
    s.takeReports.get pFLT FLT.LAST_CLASS = r.info.cls ∧ s.takeReports.get pFLT FLT.LAST_PAGE = r.page ∧
    s.takeReports.get pFLT FLT.LAST_CODE = r.code ∧
    (s.bitOf pFLT ⟨0x10, 15, 0⟩ r.info.cls = true → s.flt.request = 0 → s.takeReports.flt.request = 3)) ∧
  (∀ (s : State) (r : Report), s.flt.reports = [r] → 1 ≤ r.info.cls → r.info.cls < 16 → s.recentlyRecorded r.info.cls = true →
    r.info.cls ≠ 13 →
    s.takeReports.flt.reports = [] ∧ s.takeReports.bitOf pFLT COM.FAULT r.info.cls = true ∧
    s.takeReports.get pFLT FLT.TOTAL_COUNT = (s.get pFLT FLT.TOTAL_COUNT + 1) % 2 ^ (1 + FLT.TOTAL_COUNT.hi - FLT.TOTAL_COUNT.lo) ∧
    s.takeReports.reg pFLT 0x12 = s.reg pFLT 0x12 ∧ s.takeReports.flt.request = s.flt.request ∧
    s.takeReports.scoQueue = s.scoQueue)

/-- The frame of the commands of the Cycle Angle, the match chain and the host port whose effect stays within a few pages: a well-formed one
changes no memory word and, the pages of ARB and EVT and the Arbiter numbers of LAST_ERR aside (R282, R283), no register but of the pages
that timingFrame names. -/
def Obligations.FramesOfTiming : Prop :=
  ∀ (s : State) (c : Instr) (l : List Nat), c.wf = true → timingFrame c = some l → Does c s fun u => SameElsewhere l s u

/-- The frame of the commands of the chains, the inventory, Kibitz, the Conductor, events and background work whose effect stays within a few
pages: a well-formed one changes no memory word and, the pages of ARB and EVT and the Arbiter numbers of LAST_ERR aside (R282, R283), no
register but of the pages that radioFrame names. -/
def Obligations.FramesOfRadio : Prop :=
  ∀ (s : State) (c : Instr) (l : List Nat), c.wf = true → radioFrame c = some l → Does c s fun u => SameElsewhere l s u

/-- The frame of the commands of Scoresheet, check values, external memory, power, clocks, faults and injections whose effect stays within a
few pages: a well-formed one changes no memory word and, the pages of ARB and EVT and the Arbiter numbers of LAST_ERR aside (R282, R283),
no register but of the pages that serviceFrame names. -/
def Obligations.FramesOfServices : Prop :=
  ∀ (s : State) (c : Instr) (l : List Nat), c.wf = true → serviceFrame c = some l → Does c s fun u => SameElsewhere l s u
end

