-- ==== Sys2Proof/Laws/AMap.lean ====
section
/-! SUPPORT. Laws of the sparse maps: what a key reads as after a write, and that a write keeps the canonical form. -/

namespace Sys2Proof.Machine.AMap

variable {β : Type}

theorem find_insert_same (k : Nat) (v : β) (l : List (Nat × β)) : find k (insert k v l) = some v := by
  induction l with
  | nil => simp [insert, find]
  | cons e t ih =>
    obtain ⟨a, w⟩ := e
    unfold insert
    split
    · simp [find]
    · split
      · simp [find]
      · rename_i h2; simp [find, h2, ih]

theorem find_insert_ne {j k : Nat} (h : j ≠ k) (v : β) (l : List (Nat × β)) : find j (insert k v l) = find j l := by
  induction l with
  | nil => simp [insert, find, Ne.symm h]
  | cons e t ih =>
    obtain ⟨a, w⟩ := e
    unfold insert
    split
    · simp [find, Ne.symm h]
    · split
      · rename_i h2; subst h2; simp [find, Ne.symm h]
      · simp only [find, ih]

theorem find_erase_same (k : Nat) (l : List (Nat × β)) : find k (erase k l) = none := by
  induction l with
  | nil => rfl
  | cons e t ih =>
    obtain ⟨a, w⟩ := e
    by_cases h : a = k
    · simpa [erase, h] using ih
    · have : erase k ((a, w) :: t) = (a, w) :: erase k t := by simp [erase, h]
      rw [this]; simp only [find, h, if_false]; exact ih

theorem find_erase_ne {j k : Nat} (h : j ≠ k) (l : List (Nat × β)) : find j (erase k l) = find j l := by
  induction l with
  | nil => rfl
  | cons e t ih =>
    obtain ⟨a, w⟩ := e
    by_cases h2 : a = k
    · subst h2
      have : erase a ((a, w) :: t) = erase a t := by simp [erase]
      rw [this, ih]; simp [find, Ne.symm h]
    · have : erase k ((a, w) :: t) = (a, w) :: erase k t := by simp [erase, h2]
      rw [this]; simp only [find, ih]

/-- Keys from a bound. -/
theorem rising_mono {a b : Nat} (h : a ≤ b) {l : List (Nat × β)} (hl : rising (some b) l = true) : rising (some a) l = true := by
  cases l with
  | nil => rfl
  | cons e t =>
    obtain ⟨c, w⟩ := e
    simp only [rising, Bool.and_eq_true, decide_eq_true_eq] at hl ⊢
    exact ⟨by omega, hl.2⟩

theorem rising_none_of_some {a : Nat} {l : List (Nat × β)} (hl : rising (some a) l = true) : rising none l = true := by
  cases l with
  | nil => rfl
  | cons e t => obtain ⟨c, w⟩ := e; simp only [rising, Bool.and_eq_true] at hl ⊢; exact hl.2

theorem rising_filter (p : Nat × β → Bool) (o : Option Nat) (l : List (Nat × β)) (hl : rising o l = true) :
    rising o (l.filter p) = true := by
  induction l generalizing o with
  | nil => exact hl
  | cons e t ih =>
    obtain ⟨c, w⟩ := e
    have ht : rising (some c) t = true := by
      cases o <;> simp only [rising, Bool.and_eq_true] at hl
      · exact hl
      · exact hl.2
    by_cases hp : p (c, w) = true
    · rw [List.filter_cons_of_pos hp]
      cases o
      · exact ih _ ht
      · simp only [rising, Bool.and_eq_true] at hl ⊢; exact ⟨hl.1, ih _ ht⟩
    · rw [List.filter_cons_of_neg hp]
      have := ih _ ht
      cases o with
      | none => exact rising_none_of_some this
      | some b =>
        simp only [rising, Bool.and_eq_true, decide_eq_true_eq] at hl
        exact rising_mono (by omega) this

theorem rising_insert (k : Nat) (v : β) (o : Option Nat) (l : List (Nat × β)) (hl : rising o l = true)
    (hk : ∀ b, o = some b → b < k) : rising o (insert k v l) = true := by
  induction l generalizing o with
  | nil => cases o <;> simp_all [insert, rising]
  | cons e t ih =>
    obtain ⟨a, w⟩ := e
    have ht : rising (some a) t = true := by
      cases o <;> simp only [rising, Bool.and_eq_true] at hl
      · exact hl
      · exact hl.2
    unfold insert
    split
    · rename_i h1
      have : rising (some k) ((a, w) :: t) = true := by simp [rising, h1, ht]
      cases o with
      | none => exact this
      | some b => simp [rising, hk b rfl, h1, ht]
    · split
      · rename_i h2; subst h2
        cases o <;> simp_all [rising]
      · rename_i h1 h2
        have := ih (some a) ht (by intro b hb; cases hb; omega)
        cases o with
        | none => simpa [rising] using this
        | some b =>
          simp only [rising, Bool.and_eq_true] at hl ⊢
          exact ⟨hl.1, this⟩

theorem mem_insert {k : Nat} {v : β} {l : List (Nat × β)} {e : Nat × β} (h : e ∈ insert k v l) : e = (k, v) ∨ e ∈ l := by
  induction l with
  | nil => simpa [insert] using h
  | cons x t ih =>
    obtain ⟨a, w⟩ := x
    unfold insert at h
    split at h
    · simpa using h
    · split at h
      · rcases List.mem_cons.1 h with h | h
        · exact .inl h
        · exact .inr (List.mem_cons_of_mem _ h)
      · rcases List.mem_cons.1 h with h | h
        · exact .inr (h ▸ List.mem_cons_self ..)
        · rcases ih h with h | h
          · exact .inl h
          · exact .inr (List.mem_cons_of_mem _ h)

variable [DecidableEq β]

/-- A key reads as what was last written to it. -/
@[simp] theorem get_set_same (d : Nat → β) (l : List (Nat × β)) (k : Nat) (v : β) : get d (set d l k v) k = v := by
  unfold set get
  split
  · rename_i h; simp [find_erase_same, h]
  · simp [find_insert_same]

/-- A write to one key leaves what every other reads as. -/
theorem get_set_ne (d : Nat → β) (l : List (Nat × β)) {j k : Nat} (h : j ≠ k) (v : β) : get d (set d l k v) j = get d l j := by
  unfold set get
  split
  · rw [find_erase_ne h]
  · rw [find_insert_ne h]

/-- Dropping entries keeps the canonical form. -/
theorem wf_filter (d : Nat → β) (p : Nat × β → Bool) {l : List (Nat × β)} (h : wf d l = true) : wf d (l.filter p) = true := by
  simp only [wf, Bool.and_eq_true, List.all_eq_true] at h ⊢
  exact ⟨rising_filter p none l h.1, fun e he => h.2 e (List.mem_of_mem_filter he)⟩

/-- A write keeps the canonical form. -/
theorem wf_set (d : Nat → β) {l : List (Nat × β)} (h : wf d l = true) (k : Nat) (v : β) : wf d (set d l k v) = true := by
  unfold set
  split
  · exact wf_filter d _ h
  · rename_i hv
    simp only [wf, Bool.and_eq_true, List.all_eq_true] at h ⊢
    refine ⟨rising_insert k v none l h.1 (by simp), fun e he => ?_⟩
    rcases mem_insert he with he | he
    · subst he; simpa using hv
    · exact h.2 e he

end Sys2Proof.Machine.AMap
end

