-- ==== Sys2Proof/Laws/Reg.lean ====
section
/-! SUPPORT. Laws of the register file: what a field reads as after a register or a field is stored. -/

namespace Sys2Proof.Machine

open Sys2Proof

/-- A bit of a field's mask. -/
theorem Fld.mask_bit (f : Fld) (h : f.lo ≤ f.hi) (h40 : f.hi < 40) (i : Nat) :
    f.mask.getLsbD i = (decide (f.lo ≤ i) && decide (i ≤ f.hi)) := by
  unfold Fld.mask
  simp only [BitVec.getLsbD_shiftLeft, BitVec.getLsbD_ushiftRight, BitVec.getLsbD_allOnes]
  rw [Bool.eq_iff_iff]
  simp only [Bool.and_eq_true, Bool.not_eq_true', decide_eq_true_eq, decide_eq_false_iff_not]
  omega

/-- A bit of a word after a field is put. -/
theorem Fld.put_bit (f : Fld) (h : f.lo ≤ f.hi) (h40 : f.hi < 40) (v : Word) (x i : Nat) :
    (f.put v x).getLsbD i = if f.lo ≤ i ∧ i ≤ f.hi then x.testBit (i - f.lo) else v.getLsbD i := by
  unfold Fld.put
  simp only [BitVec.getLsbD_or, BitVec.getLsbD_and, BitVec.getLsbD_not, BitVec.getLsbD_shiftLeft, f.mask_bit h h40,
    BitVec.getLsbD_ofNat]
  by_cases h1 : f.lo ≤ i <;> by_cases h2 : i ≤ f.hi
  · have h3 : i < 40 := by omega
    have h4 : ¬ i < f.lo := by omega
    have h5 : i - f.lo < 40 := by omega
    simp [h1, h2, h3, h4, h5]
  all_goals
    simp [h1, h2]
    try (intro hb; exact BitVec.lt_of_getLsbD hb)

/-- A bit of what a field reads. -/
theorem Fld.get_testBit (f : Fld) (v : Word) (i : Nat) :
    (f.get v).testBit i = (decide (i < f.hi + 1 - f.lo) && v.getLsbD (f.lo + i)) := by
  unfold Fld.get
  rw [Nat.testBit_mod_two_pow, BitVec.testBit_toNat, BitVec.getLsbD_ushiftRight]

/-- A field reads as it was put, modulo its width. -/
@[simp] theorem Fld.get_put_same (f : Fld) (h : f.lo ≤ f.hi) (h40 : f.hi < 40) (v : Word) (x : Nat) :
    f.get (f.put v x) = x % 2 ^ (f.hi + 1 - f.lo) := by
  apply Nat.eq_of_testBit_eq
  intro i
  rw [f.get_testBit, f.put_bit h h40, Nat.testBit_mod_two_pow]
  by_cases hi : i < f.hi + 1 - f.lo
  · rw [if_pos (by omega)]; simp [hi]
  · simp [hi]

/-- A field put leaves every field of other bits. -/
theorem Fld.get_put_ne (g f : Fld) (h : f.lo ≤ f.hi) (h40 : f.hi < 40) (hd : g.hi < f.lo ∨ f.hi < g.lo) (v : Word) (x : Nat) :
    g.get (f.put v x) = g.get v := by
  apply Nat.eq_of_testBit_eq
  intro i
  rw [g.get_testBit, g.get_testBit, f.put_bit h h40]
  by_cases hi : i < g.hi + 1 - g.lo
  · rw [if_neg (by omega)]
  · simp [hi]

/-- A register reads as it was stored. -/
@[simp] theorem State.reg_setReg_same (s : State) (p o : Nat) (v : Word) : (s.setReg p o v).reg p o = v :=
  AMap.get_set_same _ _ _ _

/-- A register stored leaves every other. -/
theorem State.reg_setReg_ne (s : State) {p o q r : Nat} (h : q * 256 + r ≠ p * 256 + o) (v : Word) :
    (s.setReg p o v).reg q r = s.reg q r :=
  AMap.get_set_ne _ _ h _

/-- A field reads as it was stored, modulo its width. -/
theorem State.get_put_same (s : State) (p : Nat) (f : Fld) (h : f.lo ≤ f.hi) (h40 : f.hi < 40) (x : Nat) :
    (s.put p f x).get p f = x % 2 ^ (f.hi + 1 - f.lo) := by
  unfold State.get State.put
  rw [State.reg_setReg_same, Fld.get_put_same f h h40]

/-- A field stored leaves every field of another register. -/
theorem State.get_put_reg (s : State) {p q : Nat} {f g : Fld} (h : q * 256 + g.off ≠ p * 256 + f.off) (x : Nat) :
    (s.put p f x).get q g = s.get q g := by
  unfold State.get State.put
  rw [State.reg_setReg_ne _ h]

/-- A field stored leaves every field of other bits, in the same register too. -/
theorem State.get_put_bits (s : State) {p q : Nat} {f g : Fld} (h : f.lo ≤ f.hi) (h40 : f.hi < 40)
    (hd : g.hi < f.lo ∨ f.hi < g.lo) (x : Nat) : (s.put p f x).get q g = s.get q g := by
  by_cases hr : q * 256 + g.off = p * 256 + f.off
  · unfold State.get State.put
    have : (s.setReg p f.off (f.put (s.reg p f.off) x)).reg q g.off = f.put (s.reg p f.off) x := by
      unfold State.reg State.setReg; rw [hr]; exact AMap.get_set_same _ _ _ _
    rw [this, Fld.get_put_ne g f h h40 hd]
    unfold State.reg; rw [hr]
  · exact State.get_put_reg s hr x

/-- A field reads below two to its width. -/
theorem State.get_lt (s : State) (p : Nat) (f : Fld) : s.get p f < 2 ^ (f.hi + 1 - f.lo) := by
  unfold State.get Fld.get; exact Nat.mod_lt _ (Nat.two_pow_pos _)

/-- A one-bit field set to a Bool reads as that Bool. -/
theorem State.bit_putB_same (s : State) (p : Nat) (f : Fld) (h : f.lo = f.hi) (h40 : f.hi < 40) (b : Bool) :
    (s.putB p f b).bit p f = b := by
  unfold State.bit State.putB
  rw [State.get_put_same _ _ _ (by omega) h40, h]
  cases b <;> simp [b2n]

/-- A counter counts, stopping at the field's greatest value. -/
theorem State.get_inc_same (s : State) (p : Nat) (f : Fld) (h : f.lo ≤ f.hi) (h40 : f.hi < 40) :
    (s.inc p f).get p f = satInc (2 ^ (f.hi + 1 - f.lo) - 1) (s.get p f) := by
  unfold State.inc
  rw [State.get_put_same _ _ _ h h40]
  apply Nat.mod_eq_of_lt
  have := s.get_lt p f
  unfold satInc; split <;> omega

/-- A bit of a field reads as it was put. -/
theorem State.bitOf_putBit_same (s : State) (p : Nat) (f : Fld) (i : Nat) (h : f.lo + i ≤ f.hi) (h40 : f.hi < 40) (b : Bool) :
    (s.putBit p f i b).bitOf p f i = b := by
  unfold State.bitOf State.putBit State.get State.put
  rw [State.reg_setReg_same, Fld.get_testBit, Fld.put_bit _ (Nat.le_refl _) (by simp only; omega)]
  simp only
  rw [if_pos ⟨Nat.le_refl _, Nat.le_refl _⟩, decide_eq_true (by omega)]
  cases b <;> simp [b2n]

/-- A one-bit flag reads 1 once set. -/
theorem State.bit_flag_same (s : State) (p : Nat) (f : Fld) (h : f.lo = f.hi) (h40 : f.hi < 40) : (s.flag p f).bit p f = true := by
  have e := State.bitOf_putBit_same s p f 0 (by omega) h40 true
  unfold State.bitOf at e
  unfold State.bit State.flag State.raise
  show ((s.putBit p f 0 true).get p f != 0) = true
  generalize (s.putBit p f 0 true).get p f = x at e ⊢
  cases x
  · simp at e
  · rfl

/-- A field stored leaves every other register. -/
theorem State.reg_put_ne (s : State) {p o q : Nat} {f : Fld} (h : q * 256 + o ≠ p * 256 + f.off) (x : Nat) :
    (s.put p f x).reg q o = s.reg q o := State.reg_setReg_ne s h _

end Sys2Proof.Machine
end

