-- ==== Sys2Proof/Laws/Number.lean ====
section
/-! SUPPORT. Laws of the shared operations on errors, flags and events: what Arbiter numbers, recorded errors and presented events can
change, said once (R35, R282, R279). -/

namespace Sys2Proof.Machine

open Sys2Proof

/-- An update repeated over a list keeps what each update keeps. -/
theorem State.forEach_inv {α : Type} (P : State → Prop) (l : List α) (f : State → α → State)
    (h : ∀ t a, a ∈ l → P t → P (f t a)) (s : State) (h0 : P s) : P (s.forEach l f) := by
  unfold State.forEach
  induction l generalizing s with
  | nil => exact h0
  | cons a t ih =>
    exact ih (fun u b hb => h u b (List.mem_cons_of_mem _ hb)) (f s a) (h s a (List.mem_cons_self ..) h0)

/-- Registers that Arbiter numbers and the event channels reach: LAST_ERR of every page, ARB.SEQ, the EVT pages. -/
def numKey (q o : Nat) : Bool := o == 9 || (q == pARB && o == ARB.SEQ_NEXT.off) || decide (0x70 ≤ q ∧ q ≤ 0x77)

/-- Everything of a state but registers, the edge's numbers and notes, deliveries, the agenda, comparators and the index of free
values. -/
def State.rest (s : State) : State :=
  { s with regs := [], edge := (0, []), touch := { at_ := 0, sets := [], writes := [], locks := [], olds := [], fired := 0 },
           deliveries := [], agenda := [], free := 0, cmps := [] }

/-- Between two states nothing has changed but the registers that `K` names, those that numbers and events reach, and what `rest`
leaves out. -/
structure Only (K : Nat → Nat → Bool) (s t : State) : Prop where
  reg : ∀ q o, o < 256 → numKey q o = false → K q o = false → t.reg q o = s.reg q o
  rest : t.rest = s.rest

/-- No registers beyond those. -/
def noKeys : Nat → Nat → Bool := fun _ _ => false

/-- One register. -/
def oneKey (p f : Nat) : Nat → Nat → Bool := fun q o => q == p && o == f

variable {K : Nat → Nat → Bool} {s t u : State}

theorem Only.refl (K : Nat → Nat → Bool) (s : State) : Only K s s := ⟨fun _ _ _ _ _ => rfl, rfl⟩

theorem Only.trans (h : Only K s t) (g : Only K t u) : Only K s u :=
  ⟨fun q o ho hk hx => (g.reg q o ho hk hx).trans (h.reg q o ho hk hx), g.rest.trans h.rest⟩

theorem Only.mono {K' : Nat → Nat → Bool} (h : Only K' s t) (hk : ∀ q o, K q o = false → K' q o = false) : Only K s t :=
  ⟨fun q o ho hn hx => h.reg q o ho hn (hk q o hx), h.rest⟩

theorem Only.of_none (h : Only noKeys s t) : Only K s t := h.mono fun _ _ _ => rfl

/-- A field put in a register that is among those named, or that numbers reach. -/
theorem Only.put (h : Only K s t) {p : Nat} {f : Fld} (hf : f.off < 256) (hk : numKey p f.off = true ∨ K p f.off = true) (x : Nat) :
    Only K s (t.put p f x) := by
  refine ⟨fun q o ho hq hx => ?_, h.rest⟩
  rw [State.reg_put_ne]
  · exact h.reg q o ho hq hx
  · intro he
    have : q = p ∧ o = f.off := by omega
    rw [this.1, this.2] at hq hx
    rcases hk with hk | hk
    · rw [hq] at hk; cases hk
    · rw [hx] at hk; cases hk

theorem Only.sched (h : Only K s t) (d : Nat) (c : Instr) : Only K s (t.sched d c) :=
  ⟨h.reg, h.rest⟩

theorem Only.touch (h : Only K s t) (x : Touch) : Only K s { t with touch := x } := ⟨h.reg, h.rest⟩

/-- A bit of a field put in a register that is among those named, or that numbers reach. -/
theorem Only.putBit (h : Only K s t) {p : Nat} {f : Fld} (hf : f.off < 256) (hk : numKey p f.off = true ∨ K p f.off = true) (i : Nat)
    (b : Bool) : Only K s (t.putBit p f i b) := h.put (f := { off := f.off, lo := f.lo + i, hi := f.lo + i }) hf hk _

theorem Only.raise (h : Only K s t) {p : Nat} {f : Fld} (hf : f.off < 256) (hk : numKey p f.off = true ∨ K p f.off = true) (i : Nat) :
    Only K s (t.raise p f i) := (h.putBit hf hk i true).touch _

theorem Only.fire (h : Only K s t) (x : CmpUser) (late : Bool) : Only K s (t.fire x late) := h.sched _ _

theorem Only.when (h : Only K s t) (b : Bool) {f : State → State} (hf : ∀ u, Only K s u → Only K s (f u)) :
    Only K s (t.when b f) := by
  unfold State.when; split
  · exact hf t h
  · exact h

theorem Only.deliver (h : Only K s t) (l : List Delivery) : Only K s { t with deliveries := l } := ⟨h.reg, h.rest⟩

theorem Only.edge (h : Only K s t) (e : Nat × List (Nat × Nat)) : Only K s { t with edge := e } := ⟨h.reg, h.rest⟩

theorem Only.cmps (h : Only K s t) (l : List Cmp) : Only K s { t with cmps := l } := ⟨h.reg, h.rest⟩

theorem Only.nextFree (h : Only K s t) : Only K s t.nextFree := ⟨h.reg, h.rest⟩

theorem numShown_key {n p : Nat} {f : Fld} (h : numShown n = some (p, f)) : f.off < 256 ∧ numKey p f.off = true := by
  unfold numShown at h
  split at h
  · cases h
  · split at h
    · cases h; exact ⟨by decide, by simp [numKey, COM.LAST_ERR_SEQ]⟩
    · split at h
      · cases h
        refine ⟨?_, ?_⟩
        · simp only [EVT.CH_LAST_SEQ]; omega
        · have hp : 0x70 ≤ pEVT ((n - 200) / 8) ∧ pEVT ((n - 200) / 8) ≤ 0x77 := by unfold pEVT; omega
          unfold numKey; rw [decide_eq_true hp, Bool.or_true]
      · cases h

/-- What numbering can change (R282): ARB.SEQ, the numbers shown, the edge's list. -/
theorem State.numberAs_only (s : State) (r n : Nat) : Only K s (s.numberAs r n).2 := by
  unfold State.numberAs
  split
  · refine Only.edge (State.forEach_inv (Only K s) _ _ ?_ _ ?_) _
    · intro t a _ ht
      split
      · rename_i p f hs
        exact ht.put (numShown_key hs).1 (.inl (numShown_key hs).2) _
      · exact ht
    · exact (Only.refl K s).put (by decide) (.inl (by decide)) _
  · exact Only.refl K s

/-- A register write that acts as a command changes numbers only. -/
theorem State.number_only (s : State) (src : Src) : Only K s (s.number src) := State.numberAs_only ..

theorem numKey_nine (p : Nat) {f : Fld} (h : f.off = 9) : f.off < 256 ∧ numKey p f.off = true := by
  rw [h]; exact ⟨by decide, by simp [numKey]⟩

/-- What a recorded error can change (R35): ERR_COUNT of its page, and numbers. -/
theorem State.recordErr_only (s : State) (p c : Nat) (hk : numKey p 8 = true ∨ K p 8 = true) : Only K s (s.recordErr p c) := by
  unfold State.recordErr
  have h1 := ((Only.refl K s).put (p := p) (f := COM.ERR_COUNT) (by decide) hk
    (satInc (2 ^ (COM.ERR_COUNT.hi + 1 - COM.ERR_COUNT.lo) - 1) (s.get p COM.ERR_COUNT))).put
      (numKey_nine p (f := COM.LAST_ERR_CODE) rfl).1 (.inl (numKey_nine p (f := COM.LAST_ERR_CODE) rfl).2) c
  dsimp only
  split
  · exact (h1.trans (State.numberAs_only ..)).put (numKey_nine p rfl).1 (.inl (numKey_nine p rfl).2) _
  · exact h1.nextFree.put (numKey_nine p rfl).1 (.inl (numKey_nine p rfl).2) _

/-- Every register of an EVT page is one that events reach. -/
theorem evtKey {ch : Nat} (h : ch < 64) (o : Nat) : numKey (pEVT (ch / 8)) o = true := by
  have hp : 0x70 ≤ pEVT (ch / 8) ∧ pEVT (ch / 8) ≤ 0x77 := by unfold pEVT; omega
  unfold numKey; rw [decide_eq_true hp, Bool.or_true]

/-- What a channel's holding of an event can change (R280). -/
theorem State.holdDelivery_only (s : State) (d : Delivery) (h : d.ch < 64) : Only K s (s.holdDelivery d) := by
  have hm : d.ch % 8 < 8 := Nat.mod_lt _ (by decide)
  unfold State.holdDelivery
  dsimp only
  split
  · exact ((Only.refl K s).put (p := pEVT (d.ch / 8)) (f := EVT.CH_COUNT1_MERGED (d.ch % 8))
      (by simp only [EVT.CH_COUNT1_MERGED]; omega) (.inl (evtKey h _)) _).deliver _
  · split
    · refine Only.trans ?_ (State.recordErr_only _ _ 2 (.inl (evtKey h _)))
      refine Only.raise (p := pEVT (d.ch / 8)) (f := EVT.FLAG_OVERFLOW) (Only.put (Only.refl K s) ?_ (.inl (evtKey h _)) _)
        (by decide) (.inl (evtKey h _)) _
      simp only [EVT.CH_COUNT2_DROPPED]; omega
    · exact ((Only.refl K s).deliver _).put (by decide) (.inl (evtKey h _)) _

/-- What one channel's meeting of an event can change (R279). -/
theorem State.acceptAt_only (s : State) (p hop : Nat) {ch : Nat} (h : ch < 64) : Only K s (s.acceptAt p hop ch) := by
  have hm : ch % 8 < 8 := Nat.mod_lt _ (by decide)
  unfold State.acceptAt
  dsimp only
  split
  · split
    · refine Only.trans ?_ (State.recordErr_only _ _ 1 (.inl (evtKey h _)))
      refine Only.raise (p := pEVT (ch / 8)) (f := EVT.FLAG_LOOP) (Only.put (Only.refl K s) ?_ (.inl (evtKey h _)) _)
        (by decide) (.inl (evtKey h _)) _
      simp only [EVT.CH_COUNT2_LOOP]; omega
    · exact Only.when (State.holdDelivery_only s { ch := ch, due := _, hop := _, chain := _, angle := _, unaligned := _ } h) _
        fun t ht => ht.sched _ _
  · exact Only.refl K s

/-- What a presented event can change (R276, R279): numbers, and the channels that take it. -/
theorem State.present_only (s : State) (p hop : Nat) : Only K s (s.present p hop) := by
  unfold State.present
  split
  · dsimp only
    split
    · refine State.forEach_inv (Only K s) _ _ ?_ _ (State.numberAs_only ..)
      intro t i hi ht
      split
      · refine State.forEach_inv (Only K s) _ _ ?_ _ ht
        intro u k hk hu
        exact hu.trans (State.acceptAt_only _ _ _ (by have := List.mem_range.1 hi; have := List.mem_range.1 hk; omega))
      · exact ht
    · exact State.numberAs_only ..
  · exact Only.refl K s

/-- A field that is not reached. -/
theorem Only.get (h : Only K s t) {q : Nat} {f : Fld} (ho : f.off < 256) (hn : numKey q f.off = false) (hk : K q f.off = false) :
    t.get q f = s.get q f := by unfold State.get; rw [h.reg q f.off ho hn hk]

theorem Only.bit (h : Only K s t) {q : Nat} {f : Fld} (ho : f.off < 256) (hn : numKey q f.off = false) (hk : K q f.off = false) :
    t.bit q f = s.bit q f := by unfold State.bit; rw [h.get ho hn hk]

/-! ## Comparators (R56, R57) -/

/-- What the arming of comparators can change: the comparators, what falls due at once, and ANG's FLAG and ERR_COUNT. -/
def angKeys : Nat → Nat → Bool := fun q o => q == pANG && (o == 4 || o == 8)

theorem State.arm_only (s : State) (x : CmpUser) (target : Nat) : Only angKeys s (s.arm x target) := by
  unfold State.arm
  dsimp only
  have h := (Only.refl angKeys s).cmps (s.cmps.filter fun c => c.user ≠ x)
  split
  · exact h.cmps _
  · split
    · refine Only.fire (Only.trans (Only.raise (p := pANG) (f := ANG.FLAG_LATE) h (by decide) (.inr (by decide)) _) (State.recordErr_only _ _ _ (.inr (by decide)))) _ _
    · split
      · exact h.fire _ _
      · exact h.cmps _

theorem State.armPeriodic_only (s : State) (x : CmpUser) (phase : Nat) : Only K s (s.armPeriodic x phase) := by
  unfold State.armPeriodic
  dsimp only
  have h := (Only.refl K s).cmps (s.cmps.filter fun c => c.user ≠ x)
  split
  · exact h.cmps _
  · split
    · exact (h.cmps _).fire _ _
    · exact h.cmps _

end Sys2Proof.Machine
end

