-- ==== Sys2Proof/Laws/State.lean ====
section
/-! SUPPORT. What each named update of the state leaves, field by field, so that no proof unfolds a record update; and what
registers read as after an update that stores none. -/

namespace Sys2Proof.Machine

open Sys2Proof

variable (s : State)

@[simp] theorem State.setReg_pending (p o : Nat) (v : Word) : (s.setReg p o v).pending = s.pending := rfl
@[simp] theorem State.setReg_now (p o : Nat) (v : Word) : (s.setReg p o v).now = s.now := rfl
@[simp] theorem State.setReg_agenda (p o : Nat) (v : Word) : (s.setReg p o v).agenda = s.agenda := rfl
@[simp] theorem State.setReg_regPsn (p o : Nat) (v : Word) : (s.setReg p o v).regPsn = s.regPsn := rfl
@[simp] theorem State.setReg_crcHeld (p o : Nat) (v : Word) : (s.setReg p o v).crcHeld = s.crcHeld := rfl
@[simp] theorem State.setReg_sram (p o : Nat) (v : Word) : (s.setReg p o v).sram = s.sram := rfl
@[simp] theorem State.setReg_parity (p o : Nat) (v : Word) : (s.setReg p o v).parity = s.parity := rfl
@[simp] theorem State.setReg_free (p o : Nat) (v : Word) : (s.setReg p o v).free = s.free := rfl
@[simp] theorem State.setReg_cmps (p o : Nat) (v : Word) : (s.setReg p o v).cmps = s.cmps := rfl
@[simp] theorem State.setReg_ang (p o : Nat) (v : Word) : (s.setReg p o v).ang = s.ang := rfl
@[simp] theorem State.setReg_deliveries (p o : Nat) (v : Word) : (s.setReg p o v).deliveries = s.deliveries := rfl
@[simp] theorem State.setReg_mch (p o : Nat) (v : Word) : (s.setReg p o v).mch = s.mch := rfl
@[simp] theorem State.setReg_scoQueue (p o : Nat) (v : Word) : (s.setReg p o v).scoQueue = s.scoQueue := rfl
@[simp] theorem State.setReg_flt (p o : Nat) (v : Word) : (s.setReg p o v).flt = s.flt := rfl
@[simp] theorem State.setReg_hpt (p o : Nat) (v : Word) : (s.setReg p o v).hpt = s.hpt := rfl
@[simp] theorem State.setReg_scb (p o : Nat) (v : Word) : (s.setReg p o v).scb = s.scb := rfl
@[simp] theorem State.setReg_poisonEdge (p o : Nat) (v : Word) : (s.setReg p o v).poisonEdge = s.poisonEdge := rfl
@[simp] theorem State.setReg_codecInj (p o : Nat) (v : Word) : (s.setReg p o v).codecInj = s.codecInj := rfl
@[simp] theorem State.setReg_memPhase (p o : Nat) (v : Word) : (s.setReg p o v).memPhase = s.memPhase := rfl
@[simp] theorem State.setReg_bistBank (p o : Nat) (v : Word) : (s.setReg p o v).bistBank = s.bistBank := rfl
@[simp] theorem State.setReg_cku (p o : Nat) (v : Word) : (s.setReg p o v).cku = s.cku := rfl
@[simp] theorem State.setReg_pwr (p o : Nat) (v : Word) : (s.setReg p o v).pwr = s.pwr := rfl
@[simp] theorem State.setReg_ctxs (p o : Nat) (v : Word) : (s.setReg p o v).ctxs = s.ctxs := rfl
@[simp] theorem State.setReg_txc (p o : Nat) (v : Word) : (s.setReg p o v).txc = s.txc := rfl
@[simp] theorem State.setReg_wingEnds (p o : Nat) (v : Word) : (s.setReg p o v).wingEnds = s.wingEnds := rfl
@[simp] theorem State.setReg_rxc (p o : Nat) (v : Word) : (s.setReg p o v).rxc = s.rxc := rfl
@[simp] theorem State.setReg_timers (p o : Nat) (v : Word) : (s.setReg p o v).timers = s.timers := rfl
@[simp] theorem State.setReg_xmp (p o : Nat) (v : Word) : (s.setReg p o v).xmp = s.xmp := rfl
@[simp] theorem State.setReg_engs (p o : Nat) (v : Word) : (s.setReg p o v).engs = s.engs := rfl
@[simp] theorem State.setReg_inv (p o : Nat) (v : Word) : (s.setReg p o v).inv = s.inv := rfl
@[simp] theorem State.setReg_rates (p o : Nat) (v : Word) : (s.setReg p o v).rates = s.rates := rfl
@[simp] theorem State.setReg_kbz (p o : Nat) (v : Word) : (s.setReg p o v).kbz = s.kbz := rfl
@[simp] theorem State.setReg_lockMism (p o : Nat) (v : Word) : (s.setReg p o v).lockMism = s.lockMism := rfl
@[simp] theorem State.setReg_slot (p o : Nat) (v : Word) : (s.setReg p o v).slot = s.slot := rfl
@[simp] theorem State.setReg_fires (p o : Nat) (v : Word) : (s.setReg p o v).fires = s.fires := rfl
@[simp] theorem State.setReg_trig (p o : Nat) (v : Word) : (s.setReg p o v).trig = s.trig := rfl
@[simp] theorem State.setReg_cal (p o : Nat) (v : Word) : (s.setReg p o v).cal = s.cal := rfl
@[simp] theorem State.setReg_sco (p o : Nat) (v : Word) : (s.setReg p o v).sco = s.sco := rfl
@[simp] theorem State.setReg_pins (p o : Nat) (v : Word) : (s.setReg p o v).pins = s.pins := rfl
@[simp] theorem State.setReg_edge (p o : Nat) (v : Word) : (s.setReg p o v).edge = s.edge := rfl
@[simp] theorem State.setReg_touch (p o : Nat) (v : Word) : (s.setReg p o v).touch = s.touch := rfl
@[simp] theorem State.setReg_resetting (p o : Nat) (v : Word) : (s.setReg p o v).resetting = s.resetting := rfl
@[simp] theorem State.setReg_mirror (p o : Nat) (v : Word) : (s.setReg p o v).mirror = s.mirror := rfl
@[simp] theorem State.setReg_coreUp (p o : Nat) (v : Word) : (s.setReg p o v).coreUp = s.coreUp := rfl

@[simp] theorem State.put_pending (p : Nat) (f : Fld) (x : Nat) : (s.put p f x).pending = s.pending := rfl
@[simp] theorem State.put_now (p : Nat) (f : Fld) (x : Nat) : (s.put p f x).now = s.now := rfl
@[simp] theorem State.put_agenda (p : Nat) (f : Fld) (x : Nat) : (s.put p f x).agenda = s.agenda := rfl
@[simp] theorem State.put_regPsn (p : Nat) (f : Fld) (x : Nat) : (s.put p f x).regPsn = s.regPsn := rfl
@[simp] theorem State.put_crcHeld (p : Nat) (f : Fld) (x : Nat) : (s.put p f x).crcHeld = s.crcHeld := rfl
@[simp] theorem State.put_sram (p : Nat) (f : Fld) (x : Nat) : (s.put p f x).sram = s.sram := rfl
@[simp] theorem State.put_parity (p : Nat) (f : Fld) (x : Nat) : (s.put p f x).parity = s.parity := rfl
@[simp] theorem State.put_free (p : Nat) (f : Fld) (x : Nat) : (s.put p f x).free = s.free := rfl
@[simp] theorem State.put_cmps (p : Nat) (f : Fld) (x : Nat) : (s.put p f x).cmps = s.cmps := rfl
@[simp] theorem State.put_ang (p : Nat) (f : Fld) (x : Nat) : (s.put p f x).ang = s.ang := rfl
@[simp] theorem State.put_deliveries (p : Nat) (f : Fld) (x : Nat) : (s.put p f x).deliveries = s.deliveries := rfl
@[simp] theorem State.put_mch (p : Nat) (f : Fld) (x : Nat) : (s.put p f x).mch = s.mch := rfl
@[simp] theorem State.put_scoQueue (p : Nat) (f : Fld) (x : Nat) : (s.put p f x).scoQueue = s.scoQueue := rfl
@[simp] theorem State.put_flt (p : Nat) (f : Fld) (x : Nat) : (s.put p f x).flt = s.flt := rfl
@[simp] theorem State.put_hpt (p : Nat) (f : Fld) (x : Nat) : (s.put p f x).hpt = s.hpt := rfl
@[simp] theorem State.put_scb (p : Nat) (f : Fld) (x : Nat) : (s.put p f x).scb = s.scb := rfl
@[simp] theorem State.put_poisonEdge (p : Nat) (f : Fld) (x : Nat) : (s.put p f x).poisonEdge = s.poisonEdge := rfl
@[simp] theorem State.put_codecInj (p : Nat) (f : Fld) (x : Nat) : (s.put p f x).codecInj = s.codecInj := rfl
@[simp] theorem State.put_memPhase (p : Nat) (f : Fld) (x : Nat) : (s.put p f x).memPhase = s.memPhase := rfl
@[simp] theorem State.put_bistBank (p : Nat) (f : Fld) (x : Nat) : (s.put p f x).bistBank = s.bistBank := rfl
@[simp] theorem State.put_cku (p : Nat) (f : Fld) (x : Nat) : (s.put p f x).cku = s.cku := rfl
@[simp] theorem State.put_pwr (p : Nat) (f : Fld) (x : Nat) : (s.put p f x).pwr = s.pwr := rfl
@[simp] theorem State.put_ctxs (p : Nat) (f : Fld) (x : Nat) : (s.put p f x).ctxs = s.ctxs := rfl
@[simp] theorem State.put_txc (p : Nat) (f : Fld) (x : Nat) : (s.put p f x).txc = s.txc := rfl
@[simp] theorem State.put_wingEnds (p : Nat) (f : Fld) (x : Nat) : (s.put p f x).wingEnds = s.wingEnds := rfl
@[simp] theorem State.put_rxc (p : Nat) (f : Fld) (x : Nat) : (s.put p f x).rxc = s.rxc := rfl
@[simp] theorem State.put_timers (p : Nat) (f : Fld) (x : Nat) : (s.put p f x).timers = s.timers := rfl
@[simp] theorem State.put_xmp (p : Nat) (f : Fld) (x : Nat) : (s.put p f x).xmp = s.xmp := rfl
@[simp] theorem State.put_engs (p : Nat) (f : Fld) (x : Nat) : (s.put p f x).engs = s.engs := rfl
@[simp] theorem State.put_inv (p : Nat) (f : Fld) (x : Nat) : (s.put p f x).inv = s.inv := rfl
@[simp] theorem State.put_rates (p : Nat) (f : Fld) (x : Nat) : (s.put p f x).rates = s.rates := rfl
@[simp] theorem State.put_kbz (p : Nat) (f : Fld) (x : Nat) : (s.put p f x).kbz = s.kbz := rfl
@[simp] theorem State.put_lockMism (p : Nat) (f : Fld) (x : Nat) : (s.put p f x).lockMism = s.lockMism := rfl
@[simp] theorem State.put_slot (p : Nat) (f : Fld) (x : Nat) : (s.put p f x).slot = s.slot := rfl
@[simp] theorem State.put_fires (p : Nat) (f : Fld) (x : Nat) : (s.put p f x).fires = s.fires := rfl
@[simp] theorem State.put_trig (p : Nat) (f : Fld) (x : Nat) : (s.put p f x).trig = s.trig := rfl
@[simp] theorem State.put_cal (p : Nat) (f : Fld) (x : Nat) : (s.put p f x).cal = s.cal := rfl
@[simp] theorem State.put_sco (p : Nat) (f : Fld) (x : Nat) : (s.put p f x).sco = s.sco := rfl
@[simp] theorem State.put_pins (p : Nat) (f : Fld) (x : Nat) : (s.put p f x).pins = s.pins := rfl
@[simp] theorem State.put_edge (p : Nat) (f : Fld) (x : Nat) : (s.put p f x).edge = s.edge := rfl
@[simp] theorem State.put_touch (p : Nat) (f : Fld) (x : Nat) : (s.put p f x).touch = s.touch := rfl
@[simp] theorem State.put_resetting (p : Nat) (f : Fld) (x : Nat) : (s.put p f x).resetting = s.resetting := rfl
@[simp] theorem State.put_mirror (p : Nat) (f : Fld) (x : Nat) : (s.put p f x).mirror = s.mirror := rfl
@[simp] theorem State.put_coreUp (p : Nat) (f : Fld) (x : Nat) : (s.put p f x).coreUp = s.coreUp := rfl

@[simp] theorem State.putB_pending (p : Nat) (f : Fld) (b : Bool) : (s.putB p f b).pending = s.pending := rfl
@[simp] theorem State.putB_now (p : Nat) (f : Fld) (b : Bool) : (s.putB p f b).now = s.now := rfl
@[simp] theorem State.putB_agenda (p : Nat) (f : Fld) (b : Bool) : (s.putB p f b).agenda = s.agenda := rfl
@[simp] theorem State.putB_regPsn (p : Nat) (f : Fld) (b : Bool) : (s.putB p f b).regPsn = s.regPsn := rfl
@[simp] theorem State.putB_crcHeld (p : Nat) (f : Fld) (b : Bool) : (s.putB p f b).crcHeld = s.crcHeld := rfl
@[simp] theorem State.putB_sram (p : Nat) (f : Fld) (b : Bool) : (s.putB p f b).sram = s.sram := rfl
@[simp] theorem State.putB_parity (p : Nat) (f : Fld) (b : Bool) : (s.putB p f b).parity = s.parity := rfl
@[simp] theorem State.putB_free (p : Nat) (f : Fld) (b : Bool) : (s.putB p f b).free = s.free := rfl
@[simp] theorem State.putB_cmps (p : Nat) (f : Fld) (b : Bool) : (s.putB p f b).cmps = s.cmps := rfl
@[simp] theorem State.putB_ang (p : Nat) (f : Fld) (b : Bool) : (s.putB p f b).ang = s.ang := rfl
@[simp] theorem State.putB_deliveries (p : Nat) (f : Fld) (b : Bool) : (s.putB p f b).deliveries = s.deliveries := rfl
@[simp] theorem State.putB_mch (p : Nat) (f : Fld) (b : Bool) : (s.putB p f b).mch = s.mch := rfl
@[simp] theorem State.putB_scoQueue (p : Nat) (f : Fld) (b : Bool) : (s.putB p f b).scoQueue = s.scoQueue := rfl
@[simp] theorem State.putB_flt (p : Nat) (f : Fld) (b : Bool) : (s.putB p f b).flt = s.flt := rfl
@[simp] theorem State.putB_hpt (p : Nat) (f : Fld) (b : Bool) : (s.putB p f b).hpt = s.hpt := rfl
@[simp] theorem State.putB_scb (p : Nat) (f : Fld) (b : Bool) : (s.putB p f b).scb = s.scb := rfl
@[simp] theorem State.putB_poisonEdge (p : Nat) (f : Fld) (b : Bool) : (s.putB p f b).poisonEdge = s.poisonEdge := rfl
@[simp] theorem State.putB_codecInj (p : Nat) (f : Fld) (b : Bool) : (s.putB p f b).codecInj = s.codecInj := rfl
@[simp] theorem State.putB_memPhase (p : Nat) (f : Fld) (b : Bool) : (s.putB p f b).memPhase = s.memPhase := rfl
@[simp] theorem State.putB_bistBank (p : Nat) (f : Fld) (b : Bool) : (s.putB p f b).bistBank = s.bistBank := rfl
@[simp] theorem State.putB_cku (p : Nat) (f : Fld) (b : Bool) : (s.putB p f b).cku = s.cku := rfl
@[simp] theorem State.putB_pwr (p : Nat) (f : Fld) (b : Bool) : (s.putB p f b).pwr = s.pwr := rfl
@[simp] theorem State.putB_ctxs (p : Nat) (f : Fld) (b : Bool) : (s.putB p f b).ctxs = s.ctxs := rfl
@[simp] theorem State.putB_txc (p : Nat) (f : Fld) (b : Bool) : (s.putB p f b).txc = s.txc := rfl
@[simp] theorem State.putB_wingEnds (p : Nat) (f : Fld) (b : Bool) : (s.putB p f b).wingEnds = s.wingEnds := rfl
@[simp] theorem State.putB_rxc (p : Nat) (f : Fld) (b : Bool) : (s.putB p f b).rxc = s.rxc := rfl
@[simp] theorem State.putB_timers (p : Nat) (f : Fld) (b : Bool) : (s.putB p f b).timers = s.timers := rfl
@[simp] theorem State.putB_xmp (p : Nat) (f : Fld) (b : Bool) : (s.putB p f b).xmp = s.xmp := rfl
@[simp] theorem State.putB_engs (p : Nat) (f : Fld) (b : Bool) : (s.putB p f b).engs = s.engs := rfl
@[simp] theorem State.putB_inv (p : Nat) (f : Fld) (b : Bool) : (s.putB p f b).inv = s.inv := rfl
@[simp] theorem State.putB_rates (p : Nat) (f : Fld) (b : Bool) : (s.putB p f b).rates = s.rates := rfl
@[simp] theorem State.putB_kbz (p : Nat) (f : Fld) (b : Bool) : (s.putB p f b).kbz = s.kbz := rfl
@[simp] theorem State.putB_lockMism (p : Nat) (f : Fld) (b : Bool) : (s.putB p f b).lockMism = s.lockMism := rfl
@[simp] theorem State.putB_slot (p : Nat) (f : Fld) (b : Bool) : (s.putB p f b).slot = s.slot := rfl
@[simp] theorem State.putB_fires (p : Nat) (f : Fld) (b : Bool) : (s.putB p f b).fires = s.fires := rfl
@[simp] theorem State.putB_trig (p : Nat) (f : Fld) (b : Bool) : (s.putB p f b).trig = s.trig := rfl
@[simp] theorem State.putB_cal (p : Nat) (f : Fld) (b : Bool) : (s.putB p f b).cal = s.cal := rfl
@[simp] theorem State.putB_sco (p : Nat) (f : Fld) (b : Bool) : (s.putB p f b).sco = s.sco := rfl
@[simp] theorem State.putB_pins (p : Nat) (f : Fld) (b : Bool) : (s.putB p f b).pins = s.pins := rfl
@[simp] theorem State.putB_edge (p : Nat) (f : Fld) (b : Bool) : (s.putB p f b).edge = s.edge := rfl
@[simp] theorem State.putB_touch (p : Nat) (f : Fld) (b : Bool) : (s.putB p f b).touch = s.touch := rfl
@[simp] theorem State.putB_resetting (p : Nat) (f : Fld) (b : Bool) : (s.putB p f b).resetting = s.resetting := rfl
@[simp] theorem State.putB_mirror (p : Nat) (f : Fld) (b : Bool) : (s.putB p f b).mirror = s.mirror := rfl
@[simp] theorem State.putB_coreUp (p : Nat) (f : Fld) (b : Bool) : (s.putB p f b).coreUp = s.coreUp := rfl

@[simp] theorem State.putBit_pending (p : Nat) (f : Fld) (i : Nat) (b : Bool) : (s.putBit p f i b).pending = s.pending := rfl
@[simp] theorem State.putBit_now (p : Nat) (f : Fld) (i : Nat) (b : Bool) : (s.putBit p f i b).now = s.now := rfl
@[simp] theorem State.putBit_agenda (p : Nat) (f : Fld) (i : Nat) (b : Bool) : (s.putBit p f i b).agenda = s.agenda := rfl
@[simp] theorem State.putBit_regPsn (p : Nat) (f : Fld) (i : Nat) (b : Bool) : (s.putBit p f i b).regPsn = s.regPsn := rfl
@[simp] theorem State.putBit_crcHeld (p : Nat) (f : Fld) (i : Nat) (b : Bool) : (s.putBit p f i b).crcHeld = s.crcHeld := rfl
@[simp] theorem State.putBit_sram (p : Nat) (f : Fld) (i : Nat) (b : Bool) : (s.putBit p f i b).sram = s.sram := rfl
@[simp] theorem State.putBit_parity (p : Nat) (f : Fld) (i : Nat) (b : Bool) : (s.putBit p f i b).parity = s.parity := rfl
@[simp] theorem State.putBit_free (p : Nat) (f : Fld) (i : Nat) (b : Bool) : (s.putBit p f i b).free = s.free := rfl
@[simp] theorem State.putBit_cmps (p : Nat) (f : Fld) (i : Nat) (b : Bool) : (s.putBit p f i b).cmps = s.cmps := rfl
@[simp] theorem State.putBit_ang (p : Nat) (f : Fld) (i : Nat) (b : Bool) : (s.putBit p f i b).ang = s.ang := rfl
@[simp] theorem State.putBit_deliveries (p : Nat) (f : Fld) (i : Nat) (b : Bool) : (s.putBit p f i b).deliveries = s.deliveries := rfl
@[simp] theorem State.putBit_mch (p : Nat) (f : Fld) (i : Nat) (b : Bool) : (s.putBit p f i b).mch = s.mch := rfl
@[simp] theorem State.putBit_scoQueue (p : Nat) (f : Fld) (i : Nat) (b : Bool) : (s.putBit p f i b).scoQueue = s.scoQueue := rfl
@[simp] theorem State.putBit_flt (p : Nat) (f : Fld) (i : Nat) (b : Bool) : (s.putBit p f i b).flt = s.flt := rfl
@[simp] theorem State.putBit_hpt (p : Nat) (f : Fld) (i : Nat) (b : Bool) : (s.putBit p f i b).hpt = s.hpt := rfl
@[simp] theorem State.putBit_scb (p : Nat) (f : Fld) (i : Nat) (b : Bool) : (s.putBit p f i b).scb = s.scb := rfl
@[simp] theorem State.putBit_poisonEdge (p : Nat) (f : Fld) (i : Nat) (b : Bool) : (s.putBit p f i b).poisonEdge = s.poisonEdge := rfl
@[simp] theorem State.putBit_codecInj (p : Nat) (f : Fld) (i : Nat) (b : Bool) : (s.putBit p f i b).codecInj = s.codecInj := rfl
@[simp] theorem State.putBit_memPhase (p : Nat) (f : Fld) (i : Nat) (b : Bool) : (s.putBit p f i b).memPhase = s.memPhase := rfl
@[simp] theorem State.putBit_bistBank (p : Nat) (f : Fld) (i : Nat) (b : Bool) : (s.putBit p f i b).bistBank = s.bistBank := rfl
@[simp] theorem State.putBit_cku (p : Nat) (f : Fld) (i : Nat) (b : Bool) : (s.putBit p f i b).cku = s.cku := rfl
@[simp] theorem State.putBit_pwr (p : Nat) (f : Fld) (i : Nat) (b : Bool) : (s.putBit p f i b).pwr = s.pwr := rfl
@[simp] theorem State.putBit_ctxs (p : Nat) (f : Fld) (i : Nat) (b : Bool) : (s.putBit p f i b).ctxs = s.ctxs := rfl
@[simp] theorem State.putBit_txc (p : Nat) (f : Fld) (i : Nat) (b : Bool) : (s.putBit p f i b).txc = s.txc := rfl
@[simp] theorem State.putBit_wingEnds (p : Nat) (f : Fld) (i : Nat) (b : Bool) : (s.putBit p f i b).wingEnds = s.wingEnds := rfl
@[simp] theorem State.putBit_rxc (p : Nat) (f : Fld) (i : Nat) (b : Bool) : (s.putBit p f i b).rxc = s.rxc := rfl
@[simp] theorem State.putBit_timers (p : Nat) (f : Fld) (i : Nat) (b : Bool) : (s.putBit p f i b).timers = s.timers := rfl
@[simp] theorem State.putBit_xmp (p : Nat) (f : Fld) (i : Nat) (b : Bool) : (s.putBit p f i b).xmp = s.xmp := rfl
@[simp] theorem State.putBit_engs (p : Nat) (f : Fld) (i : Nat) (b : Bool) : (s.putBit p f i b).engs = s.engs := rfl
@[simp] theorem State.putBit_inv (p : Nat) (f : Fld) (i : Nat) (b : Bool) : (s.putBit p f i b).inv = s.inv := rfl
@[simp] theorem State.putBit_rates (p : Nat) (f : Fld) (i : Nat) (b : Bool) : (s.putBit p f i b).rates = s.rates := rfl
@[simp] theorem State.putBit_kbz (p : Nat) (f : Fld) (i : Nat) (b : Bool) : (s.putBit p f i b).kbz = s.kbz := rfl
@[simp] theorem State.putBit_lockMism (p : Nat) (f : Fld) (i : Nat) (b : Bool) : (s.putBit p f i b).lockMism = s.lockMism := rfl
@[simp] theorem State.putBit_slot (p : Nat) (f : Fld) (i : Nat) (b : Bool) : (s.putBit p f i b).slot = s.slot := rfl
@[simp] theorem State.putBit_fires (p : Nat) (f : Fld) (i : Nat) (b : Bool) : (s.putBit p f i b).fires = s.fires := rfl
@[simp] theorem State.putBit_trig (p : Nat) (f : Fld) (i : Nat) (b : Bool) : (s.putBit p f i b).trig = s.trig := rfl
@[simp] theorem State.putBit_cal (p : Nat) (f : Fld) (i : Nat) (b : Bool) : (s.putBit p f i b).cal = s.cal := rfl
@[simp] theorem State.putBit_sco (p : Nat) (f : Fld) (i : Nat) (b : Bool) : (s.putBit p f i b).sco = s.sco := rfl
@[simp] theorem State.putBit_pins (p : Nat) (f : Fld) (i : Nat) (b : Bool) : (s.putBit p f i b).pins = s.pins := rfl
@[simp] theorem State.putBit_edge (p : Nat) (f : Fld) (i : Nat) (b : Bool) : (s.putBit p f i b).edge = s.edge := rfl
@[simp] theorem State.putBit_touch (p : Nat) (f : Fld) (i : Nat) (b : Bool) : (s.putBit p f i b).touch = s.touch := rfl
@[simp] theorem State.putBit_resetting (p : Nat) (f : Fld) (i : Nat) (b : Bool) : (s.putBit p f i b).resetting = s.resetting := rfl
@[simp] theorem State.putBit_mirror (p : Nat) (f : Fld) (i : Nat) (b : Bool) : (s.putBit p f i b).mirror = s.mirror := rfl
@[simp] theorem State.putBit_coreUp (p : Nat) (f : Fld) (i : Nat) (b : Bool) : (s.putBit p f i b).coreUp = s.coreUp := rfl

@[simp] theorem State.inc_pending (p : Nat) (f : Fld) : (s.inc p f).pending = s.pending := rfl
@[simp] theorem State.inc_now (p : Nat) (f : Fld) : (s.inc p f).now = s.now := rfl
@[simp] theorem State.inc_agenda (p : Nat) (f : Fld) : (s.inc p f).agenda = s.agenda := rfl
@[simp] theorem State.inc_regPsn (p : Nat) (f : Fld) : (s.inc p f).regPsn = s.regPsn := rfl
@[simp] theorem State.inc_crcHeld (p : Nat) (f : Fld) : (s.inc p f).crcHeld = s.crcHeld := rfl
@[simp] theorem State.inc_sram (p : Nat) (f : Fld) : (s.inc p f).sram = s.sram := rfl
@[simp] theorem State.inc_parity (p : Nat) (f : Fld) : (s.inc p f).parity = s.parity := rfl
@[simp] theorem State.inc_free (p : Nat) (f : Fld) : (s.inc p f).free = s.free := rfl
@[simp] theorem State.inc_cmps (p : Nat) (f : Fld) : (s.inc p f).cmps = s.cmps := rfl
@[simp] theorem State.inc_ang (p : Nat) (f : Fld) : (s.inc p f).ang = s.ang := rfl
@[simp] theorem State.inc_deliveries (p : Nat) (f : Fld) : (s.inc p f).deliveries = s.deliveries := rfl
@[simp] theorem State.inc_mch (p : Nat) (f : Fld) : (s.inc p f).mch = s.mch := rfl
@[simp] theorem State.inc_scoQueue (p : Nat) (f : Fld) : (s.inc p f).scoQueue = s.scoQueue := rfl
@[simp] theorem State.inc_flt (p : Nat) (f : Fld) : (s.inc p f).flt = s.flt := rfl
@[simp] theorem State.inc_hpt (p : Nat) (f : Fld) : (s.inc p f).hpt = s.hpt := rfl
@[simp] theorem State.inc_scb (p : Nat) (f : Fld) : (s.inc p f).scb = s.scb := rfl
@[simp] theorem State.inc_poisonEdge (p : Nat) (f : Fld) : (s.inc p f).poisonEdge = s.poisonEdge := rfl
@[simp] theorem State.inc_codecInj (p : Nat) (f : Fld) : (s.inc p f).codecInj = s.codecInj := rfl
@[simp] theorem State.inc_memPhase (p : Nat) (f : Fld) : (s.inc p f).memPhase = s.memPhase := rfl
@[simp] theorem State.inc_bistBank (p : Nat) (f : Fld) : (s.inc p f).bistBank = s.bistBank := rfl
@[simp] theorem State.inc_cku (p : Nat) (f : Fld) : (s.inc p f).cku = s.cku := rfl
@[simp] theorem State.inc_pwr (p : Nat) (f : Fld) : (s.inc p f).pwr = s.pwr := rfl
@[simp] theorem State.inc_ctxs (p : Nat) (f : Fld) : (s.inc p f).ctxs = s.ctxs := rfl
@[simp] theorem State.inc_txc (p : Nat) (f : Fld) : (s.inc p f).txc = s.txc := rfl
@[simp] theorem State.inc_wingEnds (p : Nat) (f : Fld) : (s.inc p f).wingEnds = s.wingEnds := rfl
@[simp] theorem State.inc_rxc (p : Nat) (f : Fld) : (s.inc p f).rxc = s.rxc := rfl
@[simp] theorem State.inc_timers (p : Nat) (f : Fld) : (s.inc p f).timers = s.timers := rfl
@[simp] theorem State.inc_xmp (p : Nat) (f : Fld) : (s.inc p f).xmp = s.xmp := rfl
@[simp] theorem State.inc_engs (p : Nat) (f : Fld) : (s.inc p f).engs = s.engs := rfl
@[simp] theorem State.inc_inv (p : Nat) (f : Fld) : (s.inc p f).inv = s.inv := rfl
@[simp] theorem State.inc_rates (p : Nat) (f : Fld) : (s.inc p f).rates = s.rates := rfl
@[simp] theorem State.inc_kbz (p : Nat) (f : Fld) : (s.inc p f).kbz = s.kbz := rfl
@[simp] theorem State.inc_lockMism (p : Nat) (f : Fld) : (s.inc p f).lockMism = s.lockMism := rfl
@[simp] theorem State.inc_slot (p : Nat) (f : Fld) : (s.inc p f).slot = s.slot := rfl
@[simp] theorem State.inc_fires (p : Nat) (f : Fld) : (s.inc p f).fires = s.fires := rfl
@[simp] theorem State.inc_trig (p : Nat) (f : Fld) : (s.inc p f).trig = s.trig := rfl
@[simp] theorem State.inc_cal (p : Nat) (f : Fld) : (s.inc p f).cal = s.cal := rfl
@[simp] theorem State.inc_sco (p : Nat) (f : Fld) : (s.inc p f).sco = s.sco := rfl
@[simp] theorem State.inc_pins (p : Nat) (f : Fld) : (s.inc p f).pins = s.pins := rfl
@[simp] theorem State.inc_edge (p : Nat) (f : Fld) : (s.inc p f).edge = s.edge := rfl
@[simp] theorem State.inc_touch (p : Nat) (f : Fld) : (s.inc p f).touch = s.touch := rfl
@[simp] theorem State.inc_resetting (p : Nat) (f : Fld) : (s.inc p f).resetting = s.resetting := rfl
@[simp] theorem State.inc_mirror (p : Nat) (f : Fld) : (s.inc p f).mirror = s.mirror := rfl
@[simp] theorem State.inc_coreUp (p : Nat) (f : Fld) : (s.inc p f).coreUp = s.coreUp := rfl

@[simp] theorem State.incBy_pending (p : Nat) (f : Fld) (d : Nat) : (s.incBy p f d).pending = s.pending := rfl
@[simp] theorem State.incBy_now (p : Nat) (f : Fld) (d : Nat) : (s.incBy p f d).now = s.now := rfl
@[simp] theorem State.incBy_agenda (p : Nat) (f : Fld) (d : Nat) : (s.incBy p f d).agenda = s.agenda := rfl
@[simp] theorem State.incBy_regPsn (p : Nat) (f : Fld) (d : Nat) : (s.incBy p f d).regPsn = s.regPsn := rfl
@[simp] theorem State.incBy_crcHeld (p : Nat) (f : Fld) (d : Nat) : (s.incBy p f d).crcHeld = s.crcHeld := rfl
@[simp] theorem State.incBy_sram (p : Nat) (f : Fld) (d : Nat) : (s.incBy p f d).sram = s.sram := rfl
@[simp] theorem State.incBy_parity (p : Nat) (f : Fld) (d : Nat) : (s.incBy p f d).parity = s.parity := rfl
@[simp] theorem State.incBy_free (p : Nat) (f : Fld) (d : Nat) : (s.incBy p f d).free = s.free := rfl
@[simp] theorem State.incBy_cmps (p : Nat) (f : Fld) (d : Nat) : (s.incBy p f d).cmps = s.cmps := rfl
@[simp] theorem State.incBy_ang (p : Nat) (f : Fld) (d : Nat) : (s.incBy p f d).ang = s.ang := rfl
@[simp] theorem State.incBy_deliveries (p : Nat) (f : Fld) (d : Nat) : (s.incBy p f d).deliveries = s.deliveries := rfl
@[simp] theorem State.incBy_mch (p : Nat) (f : Fld) (d : Nat) : (s.incBy p f d).mch = s.mch := rfl
@[simp] theorem State.incBy_scoQueue (p : Nat) (f : Fld) (d : Nat) : (s.incBy p f d).scoQueue = s.scoQueue := rfl
@[simp] theorem State.incBy_flt (p : Nat) (f : Fld) (d : Nat) : (s.incBy p f d).flt = s.flt := rfl
@[simp] theorem State.incBy_hpt (p : Nat) (f : Fld) (d : Nat) : (s.incBy p f d).hpt = s.hpt := rfl
@[simp] theorem State.incBy_scb (p : Nat) (f : Fld) (d : Nat) : (s.incBy p f d).scb = s.scb := rfl
@[simp] theorem State.incBy_poisonEdge (p : Nat) (f : Fld) (d : Nat) : (s.incBy p f d).poisonEdge = s.poisonEdge := rfl
@[simp] theorem State.incBy_codecInj (p : Nat) (f : Fld) (d : Nat) : (s.incBy p f d).codecInj = s.codecInj := rfl
@[simp] theorem State.incBy_memPhase (p : Nat) (f : Fld) (d : Nat) : (s.incBy p f d).memPhase = s.memPhase := rfl
@[simp] theorem State.incBy_bistBank (p : Nat) (f : Fld) (d : Nat) : (s.incBy p f d).bistBank = s.bistBank := rfl
@[simp] theorem State.incBy_cku (p : Nat) (f : Fld) (d : Nat) : (s.incBy p f d).cku = s.cku := rfl
@[simp] theorem State.incBy_pwr (p : Nat) (f : Fld) (d : Nat) : (s.incBy p f d).pwr = s.pwr := rfl
@[simp] theorem State.incBy_ctxs (p : Nat) (f : Fld) (d : Nat) : (s.incBy p f d).ctxs = s.ctxs := rfl
@[simp] theorem State.incBy_txc (p : Nat) (f : Fld) (d : Nat) : (s.incBy p f d).txc = s.txc := rfl
@[simp] theorem State.incBy_wingEnds (p : Nat) (f : Fld) (d : Nat) : (s.incBy p f d).wingEnds = s.wingEnds := rfl
@[simp] theorem State.incBy_rxc (p : Nat) (f : Fld) (d : Nat) : (s.incBy p f d).rxc = s.rxc := rfl
@[simp] theorem State.incBy_timers (p : Nat) (f : Fld) (d : Nat) : (s.incBy p f d).timers = s.timers := rfl
@[simp] theorem State.incBy_xmp (p : Nat) (f : Fld) (d : Nat) : (s.incBy p f d).xmp = s.xmp := rfl
@[simp] theorem State.incBy_engs (p : Nat) (f : Fld) (d : Nat) : (s.incBy p f d).engs = s.engs := rfl
@[simp] theorem State.incBy_inv (p : Nat) (f : Fld) (d : Nat) : (s.incBy p f d).inv = s.inv := rfl
@[simp] theorem State.incBy_rates (p : Nat) (f : Fld) (d : Nat) : (s.incBy p f d).rates = s.rates := rfl
@[simp] theorem State.incBy_kbz (p : Nat) (f : Fld) (d : Nat) : (s.incBy p f d).kbz = s.kbz := rfl
@[simp] theorem State.incBy_lockMism (p : Nat) (f : Fld) (d : Nat) : (s.incBy p f d).lockMism = s.lockMism := rfl
@[simp] theorem State.incBy_slot (p : Nat) (f : Fld) (d : Nat) : (s.incBy p f d).slot = s.slot := rfl
@[simp] theorem State.incBy_fires (p : Nat) (f : Fld) (d : Nat) : (s.incBy p f d).fires = s.fires := rfl
@[simp] theorem State.incBy_trig (p : Nat) (f : Fld) (d : Nat) : (s.incBy p f d).trig = s.trig := rfl
@[simp] theorem State.incBy_cal (p : Nat) (f : Fld) (d : Nat) : (s.incBy p f d).cal = s.cal := rfl
@[simp] theorem State.incBy_sco (p : Nat) (f : Fld) (d : Nat) : (s.incBy p f d).sco = s.sco := rfl
@[simp] theorem State.incBy_pins (p : Nat) (f : Fld) (d : Nat) : (s.incBy p f d).pins = s.pins := rfl
@[simp] theorem State.incBy_edge (p : Nat) (f : Fld) (d : Nat) : (s.incBy p f d).edge = s.edge := rfl
@[simp] theorem State.incBy_touch (p : Nat) (f : Fld) (d : Nat) : (s.incBy p f d).touch = s.touch := rfl
@[simp] theorem State.incBy_resetting (p : Nat) (f : Fld) (d : Nat) : (s.incBy p f d).resetting = s.resetting := rfl
@[simp] theorem State.incBy_mirror (p : Nat) (f : Fld) (d : Nat) : (s.incBy p f d).mirror = s.mirror := rfl
@[simp] theorem State.incBy_coreUp (p : Nat) (f : Fld) (d : Nat) : (s.incBy p f d).coreUp = s.coreUp := rfl

@[simp] theorem State.incMod_pending (p : Nat) (f : Fld) : (s.incMod p f).pending = s.pending := rfl
@[simp] theorem State.incMod_now (p : Nat) (f : Fld) : (s.incMod p f).now = s.now := rfl
@[simp] theorem State.incMod_agenda (p : Nat) (f : Fld) : (s.incMod p f).agenda = s.agenda := rfl
@[simp] theorem State.incMod_regPsn (p : Nat) (f : Fld) : (s.incMod p f).regPsn = s.regPsn := rfl
@[simp] theorem State.incMod_crcHeld (p : Nat) (f : Fld) : (s.incMod p f).crcHeld = s.crcHeld := rfl
@[simp] theorem State.incMod_sram (p : Nat) (f : Fld) : (s.incMod p f).sram = s.sram := rfl
@[simp] theorem State.incMod_parity (p : Nat) (f : Fld) : (s.incMod p f).parity = s.parity := rfl
@[simp] theorem State.incMod_free (p : Nat) (f : Fld) : (s.incMod p f).free = s.free := rfl
@[simp] theorem State.incMod_cmps (p : Nat) (f : Fld) : (s.incMod p f).cmps = s.cmps := rfl
@[simp] theorem State.incMod_ang (p : Nat) (f : Fld) : (s.incMod p f).ang = s.ang := rfl
@[simp] theorem State.incMod_deliveries (p : Nat) (f : Fld) : (s.incMod p f).deliveries = s.deliveries := rfl
@[simp] theorem State.incMod_mch (p : Nat) (f : Fld) : (s.incMod p f).mch = s.mch := rfl
@[simp] theorem State.incMod_scoQueue (p : Nat) (f : Fld) : (s.incMod p f).scoQueue = s.scoQueue := rfl
@[simp] theorem State.incMod_flt (p : Nat) (f : Fld) : (s.incMod p f).flt = s.flt := rfl
@[simp] theorem State.incMod_hpt (p : Nat) (f : Fld) : (s.incMod p f).hpt = s.hpt := rfl
@[simp] theorem State.incMod_scb (p : Nat) (f : Fld) : (s.incMod p f).scb = s.scb := rfl
@[simp] theorem State.incMod_poisonEdge (p : Nat) (f : Fld) : (s.incMod p f).poisonEdge = s.poisonEdge := rfl
@[simp] theorem State.incMod_codecInj (p : Nat) (f : Fld) : (s.incMod p f).codecInj = s.codecInj := rfl
@[simp] theorem State.incMod_memPhase (p : Nat) (f : Fld) : (s.incMod p f).memPhase = s.memPhase := rfl
@[simp] theorem State.incMod_bistBank (p : Nat) (f : Fld) : (s.incMod p f).bistBank = s.bistBank := rfl
@[simp] theorem State.incMod_cku (p : Nat) (f : Fld) : (s.incMod p f).cku = s.cku := rfl
@[simp] theorem State.incMod_pwr (p : Nat) (f : Fld) : (s.incMod p f).pwr = s.pwr := rfl
@[simp] theorem State.incMod_ctxs (p : Nat) (f : Fld) : (s.incMod p f).ctxs = s.ctxs := rfl
@[simp] theorem State.incMod_txc (p : Nat) (f : Fld) : (s.incMod p f).txc = s.txc := rfl
@[simp] theorem State.incMod_wingEnds (p : Nat) (f : Fld) : (s.incMod p f).wingEnds = s.wingEnds := rfl
@[simp] theorem State.incMod_rxc (p : Nat) (f : Fld) : (s.incMod p f).rxc = s.rxc := rfl
@[simp] theorem State.incMod_timers (p : Nat) (f : Fld) : (s.incMod p f).timers = s.timers := rfl
@[simp] theorem State.incMod_xmp (p : Nat) (f : Fld) : (s.incMod p f).xmp = s.xmp := rfl
@[simp] theorem State.incMod_engs (p : Nat) (f : Fld) : (s.incMod p f).engs = s.engs := rfl
@[simp] theorem State.incMod_inv (p : Nat) (f : Fld) : (s.incMod p f).inv = s.inv := rfl
@[simp] theorem State.incMod_rates (p : Nat) (f : Fld) : (s.incMod p f).rates = s.rates := rfl
@[simp] theorem State.incMod_kbz (p : Nat) (f : Fld) : (s.incMod p f).kbz = s.kbz := rfl
@[simp] theorem State.incMod_lockMism (p : Nat) (f : Fld) : (s.incMod p f).lockMism = s.lockMism := rfl
@[simp] theorem State.incMod_slot (p : Nat) (f : Fld) : (s.incMod p f).slot = s.slot := rfl
@[simp] theorem State.incMod_fires (p : Nat) (f : Fld) : (s.incMod p f).fires = s.fires := rfl
@[simp] theorem State.incMod_trig (p : Nat) (f : Fld) : (s.incMod p f).trig = s.trig := rfl
@[simp] theorem State.incMod_cal (p : Nat) (f : Fld) : (s.incMod p f).cal = s.cal := rfl
@[simp] theorem State.incMod_sco (p : Nat) (f : Fld) : (s.incMod p f).sco = s.sco := rfl
@[simp] theorem State.incMod_pins (p : Nat) (f : Fld) : (s.incMod p f).pins = s.pins := rfl
@[simp] theorem State.incMod_edge (p : Nat) (f : Fld) : (s.incMod p f).edge = s.edge := rfl
@[simp] theorem State.incMod_touch (p : Nat) (f : Fld) : (s.incMod p f).touch = s.touch := rfl
@[simp] theorem State.incMod_resetting (p : Nat) (f : Fld) : (s.incMod p f).resetting = s.resetting := rfl
@[simp] theorem State.incMod_mirror (p : Nat) (f : Fld) : (s.incMod p f).mirror = s.mirror := rfl
@[simp] theorem State.incMod_coreUp (p : Nat) (f : Fld) : (s.incMod p f).coreUp = s.coreUp := rfl

@[simp] theorem State.flag_pending (p : Nat) (f : Fld) (i : Nat) : (s.flag p f i).pending = s.pending := rfl
@[simp] theorem State.flag_now (p : Nat) (f : Fld) (i : Nat) : (s.flag p f i).now = s.now := rfl
@[simp] theorem State.flag_agenda (p : Nat) (f : Fld) (i : Nat) : (s.flag p f i).agenda = s.agenda := rfl
@[simp] theorem State.flag_regPsn (p : Nat) (f : Fld) (i : Nat) : (s.flag p f i).regPsn = s.regPsn := rfl
@[simp] theorem State.flag_crcHeld (p : Nat) (f : Fld) (i : Nat) : (s.flag p f i).crcHeld = s.crcHeld := rfl
@[simp] theorem State.flag_sram (p : Nat) (f : Fld) (i : Nat) : (s.flag p f i).sram = s.sram := rfl
@[simp] theorem State.flag_parity (p : Nat) (f : Fld) (i : Nat) : (s.flag p f i).parity = s.parity := rfl
@[simp] theorem State.flag_free (p : Nat) (f : Fld) (i : Nat) : (s.flag p f i).free = s.free := rfl
@[simp] theorem State.flag_cmps (p : Nat) (f : Fld) (i : Nat) : (s.flag p f i).cmps = s.cmps := rfl
@[simp] theorem State.flag_ang (p : Nat) (f : Fld) (i : Nat) : (s.flag p f i).ang = s.ang := rfl
@[simp] theorem State.flag_deliveries (p : Nat) (f : Fld) (i : Nat) : (s.flag p f i).deliveries = s.deliveries := rfl
@[simp] theorem State.flag_mch (p : Nat) (f : Fld) (i : Nat) : (s.flag p f i).mch = s.mch := rfl
@[simp] theorem State.flag_scoQueue (p : Nat) (f : Fld) (i : Nat) : (s.flag p f i).scoQueue = s.scoQueue := rfl
@[simp] theorem State.flag_flt (p : Nat) (f : Fld) (i : Nat) : (s.flag p f i).flt = s.flt := rfl
@[simp] theorem State.flag_hpt (p : Nat) (f : Fld) (i : Nat) : (s.flag p f i).hpt = s.hpt := rfl
@[simp] theorem State.flag_scb (p : Nat) (f : Fld) (i : Nat) : (s.flag p f i).scb = s.scb := rfl
@[simp] theorem State.flag_poisonEdge (p : Nat) (f : Fld) (i : Nat) : (s.flag p f i).poisonEdge = s.poisonEdge := rfl
@[simp] theorem State.flag_codecInj (p : Nat) (f : Fld) (i : Nat) : (s.flag p f i).codecInj = s.codecInj := rfl
@[simp] theorem State.flag_memPhase (p : Nat) (f : Fld) (i : Nat) : (s.flag p f i).memPhase = s.memPhase := rfl
@[simp] theorem State.flag_bistBank (p : Nat) (f : Fld) (i : Nat) : (s.flag p f i).bistBank = s.bistBank := rfl
@[simp] theorem State.flag_cku (p : Nat) (f : Fld) (i : Nat) : (s.flag p f i).cku = s.cku := rfl
@[simp] theorem State.flag_pwr (p : Nat) (f : Fld) (i : Nat) : (s.flag p f i).pwr = s.pwr := rfl
@[simp] theorem State.flag_ctxs (p : Nat) (f : Fld) (i : Nat) : (s.flag p f i).ctxs = s.ctxs := rfl
@[simp] theorem State.flag_txc (p : Nat) (f : Fld) (i : Nat) : (s.flag p f i).txc = s.txc := rfl
@[simp] theorem State.flag_wingEnds (p : Nat) (f : Fld) (i : Nat) : (s.flag p f i).wingEnds = s.wingEnds := rfl
@[simp] theorem State.flag_rxc (p : Nat) (f : Fld) (i : Nat) : (s.flag p f i).rxc = s.rxc := rfl
@[simp] theorem State.flag_timers (p : Nat) (f : Fld) (i : Nat) : (s.flag p f i).timers = s.timers := rfl
@[simp] theorem State.flag_xmp (p : Nat) (f : Fld) (i : Nat) : (s.flag p f i).xmp = s.xmp := rfl
@[simp] theorem State.flag_engs (p : Nat) (f : Fld) (i : Nat) : (s.flag p f i).engs = s.engs := rfl
@[simp] theorem State.flag_inv (p : Nat) (f : Fld) (i : Nat) : (s.flag p f i).inv = s.inv := rfl
@[simp] theorem State.flag_rates (p : Nat) (f : Fld) (i : Nat) : (s.flag p f i).rates = s.rates := rfl
@[simp] theorem State.flag_kbz (p : Nat) (f : Fld) (i : Nat) : (s.flag p f i).kbz = s.kbz := rfl
@[simp] theorem State.flag_lockMism (p : Nat) (f : Fld) (i : Nat) : (s.flag p f i).lockMism = s.lockMism := rfl
@[simp] theorem State.flag_slot (p : Nat) (f : Fld) (i : Nat) : (s.flag p f i).slot = s.slot := rfl
@[simp] theorem State.flag_fires (p : Nat) (f : Fld) (i : Nat) : (s.flag p f i).fires = s.fires := rfl
@[simp] theorem State.flag_trig (p : Nat) (f : Fld) (i : Nat) : (s.flag p f i).trig = s.trig := rfl
@[simp] theorem State.flag_cal (p : Nat) (f : Fld) (i : Nat) : (s.flag p f i).cal = s.cal := rfl
@[simp] theorem State.flag_sco (p : Nat) (f : Fld) (i : Nat) : (s.flag p f i).sco = s.sco := rfl
@[simp] theorem State.flag_pins (p : Nat) (f : Fld) (i : Nat) : (s.flag p f i).pins = s.pins := rfl
@[simp] theorem State.flag_edge (p : Nat) (f : Fld) (i : Nat) : (s.flag p f i).edge = s.edge := rfl
@[simp] theorem State.flag_resetting (p : Nat) (f : Fld) (i : Nat) : (s.flag p f i).resetting = s.resetting := rfl
@[simp] theorem State.flag_mirror (p : Nat) (f : Fld) (i : Nat) : (s.flag p f i).mirror = s.mirror := rfl
@[simp] theorem State.flag_coreUp (p : Nat) (f : Fld) (i : Nat) : (s.flag p f i).coreUp = s.coreUp := rfl

@[simp] theorem State.raise_pending (p : Nat) (f : Fld) (i : Nat) : (s.raise p f i).pending = s.pending := rfl
@[simp] theorem State.raise_now (p : Nat) (f : Fld) (i : Nat) : (s.raise p f i).now = s.now := rfl
@[simp] theorem State.raise_agenda (p : Nat) (f : Fld) (i : Nat) : (s.raise p f i).agenda = s.agenda := rfl
@[simp] theorem State.raise_regPsn (p : Nat) (f : Fld) (i : Nat) : (s.raise p f i).regPsn = s.regPsn := rfl
@[simp] theorem State.raise_crcHeld (p : Nat) (f : Fld) (i : Nat) : (s.raise p f i).crcHeld = s.crcHeld := rfl
@[simp] theorem State.raise_sram (p : Nat) (f : Fld) (i : Nat) : (s.raise p f i).sram = s.sram := rfl
@[simp] theorem State.raise_parity (p : Nat) (f : Fld) (i : Nat) : (s.raise p f i).parity = s.parity := rfl
@[simp] theorem State.raise_free (p : Nat) (f : Fld) (i : Nat) : (s.raise p f i).free = s.free := rfl
@[simp] theorem State.raise_cmps (p : Nat) (f : Fld) (i : Nat) : (s.raise p f i).cmps = s.cmps := rfl
@[simp] theorem State.raise_ang (p : Nat) (f : Fld) (i : Nat) : (s.raise p f i).ang = s.ang := rfl
@[simp] theorem State.raise_deliveries (p : Nat) (f : Fld) (i : Nat) : (s.raise p f i).deliveries = s.deliveries := rfl
@[simp] theorem State.raise_mch (p : Nat) (f : Fld) (i : Nat) : (s.raise p f i).mch = s.mch := rfl
@[simp] theorem State.raise_scoQueue (p : Nat) (f : Fld) (i : Nat) : (s.raise p f i).scoQueue = s.scoQueue := rfl
@[simp] theorem State.raise_flt (p : Nat) (f : Fld) (i : Nat) : (s.raise p f i).flt = s.flt := rfl
@[simp] theorem State.raise_hpt (p : Nat) (f : Fld) (i : Nat) : (s.raise p f i).hpt = s.hpt := rfl
@[simp] theorem State.raise_scb (p : Nat) (f : Fld) (i : Nat) : (s.raise p f i).scb = s.scb := rfl
@[simp] theorem State.raise_poisonEdge (p : Nat) (f : Fld) (i : Nat) : (s.raise p f i).poisonEdge = s.poisonEdge := rfl
@[simp] theorem State.raise_codecInj (p : Nat) (f : Fld) (i : Nat) : (s.raise p f i).codecInj = s.codecInj := rfl
@[simp] theorem State.raise_memPhase (p : Nat) (f : Fld) (i : Nat) : (s.raise p f i).memPhase = s.memPhase := rfl
@[simp] theorem State.raise_bistBank (p : Nat) (f : Fld) (i : Nat) : (s.raise p f i).bistBank = s.bistBank := rfl
@[simp] theorem State.raise_cku (p : Nat) (f : Fld) (i : Nat) : (s.raise p f i).cku = s.cku := rfl
@[simp] theorem State.raise_pwr (p : Nat) (f : Fld) (i : Nat) : (s.raise p f i).pwr = s.pwr := rfl
@[simp] theorem State.raise_ctxs (p : Nat) (f : Fld) (i : Nat) : (s.raise p f i).ctxs = s.ctxs := rfl
@[simp] theorem State.raise_txc (p : Nat) (f : Fld) (i : Nat) : (s.raise p f i).txc = s.txc := rfl
@[simp] theorem State.raise_wingEnds (p : Nat) (f : Fld) (i : Nat) : (s.raise p f i).wingEnds = s.wingEnds := rfl
@[simp] theorem State.raise_rxc (p : Nat) (f : Fld) (i : Nat) : (s.raise p f i).rxc = s.rxc := rfl
@[simp] theorem State.raise_timers (p : Nat) (f : Fld) (i : Nat) : (s.raise p f i).timers = s.timers := rfl
@[simp] theorem State.raise_xmp (p : Nat) (f : Fld) (i : Nat) : (s.raise p f i).xmp = s.xmp := rfl
@[simp] theorem State.raise_engs (p : Nat) (f : Fld) (i : Nat) : (s.raise p f i).engs = s.engs := rfl
@[simp] theorem State.raise_inv (p : Nat) (f : Fld) (i : Nat) : (s.raise p f i).inv = s.inv := rfl
@[simp] theorem State.raise_rates (p : Nat) (f : Fld) (i : Nat) : (s.raise p f i).rates = s.rates := rfl
@[simp] theorem State.raise_kbz (p : Nat) (f : Fld) (i : Nat) : (s.raise p f i).kbz = s.kbz := rfl
@[simp] theorem State.raise_lockMism (p : Nat) (f : Fld) (i : Nat) : (s.raise p f i).lockMism = s.lockMism := rfl
@[simp] theorem State.raise_slot (p : Nat) (f : Fld) (i : Nat) : (s.raise p f i).slot = s.slot := rfl
@[simp] theorem State.raise_fires (p : Nat) (f : Fld) (i : Nat) : (s.raise p f i).fires = s.fires := rfl
@[simp] theorem State.raise_trig (p : Nat) (f : Fld) (i : Nat) : (s.raise p f i).trig = s.trig := rfl
@[simp] theorem State.raise_cal (p : Nat) (f : Fld) (i : Nat) : (s.raise p f i).cal = s.cal := rfl
@[simp] theorem State.raise_sco (p : Nat) (f : Fld) (i : Nat) : (s.raise p f i).sco = s.sco := rfl
@[simp] theorem State.raise_pins (p : Nat) (f : Fld) (i : Nat) : (s.raise p f i).pins = s.pins := rfl
@[simp] theorem State.raise_edge (p : Nat) (f : Fld) (i : Nat) : (s.raise p f i).edge = s.edge := rfl
@[simp] theorem State.raise_resetting (p : Nat) (f : Fld) (i : Nat) : (s.raise p f i).resetting = s.resetting := rfl
@[simp] theorem State.raise_mirror (p : Nat) (f : Fld) (i : Nat) : (s.raise p f i).mirror = s.mirror := rfl
@[simp] theorem State.raise_coreUp (p : Nat) (f : Fld) (i : Nat) : (s.raise p f i).coreUp = s.coreUp := rfl

@[simp] theorem State.noteSet_pending (k : Nat) (m : Word) : (s.noteSet k m).pending = s.pending := rfl
@[simp] theorem State.noteSet_now (k : Nat) (m : Word) : (s.noteSet k m).now = s.now := rfl
@[simp] theorem State.noteSet_agenda (k : Nat) (m : Word) : (s.noteSet k m).agenda = s.agenda := rfl
@[simp] theorem State.noteSet_regs (k : Nat) (m : Word) : (s.noteSet k m).regs = s.regs := rfl
@[simp] theorem State.noteSet_regPsn (k : Nat) (m : Word) : (s.noteSet k m).regPsn = s.regPsn := rfl
@[simp] theorem State.noteSet_crcHeld (k : Nat) (m : Word) : (s.noteSet k m).crcHeld = s.crcHeld := rfl
@[simp] theorem State.noteSet_sram (k : Nat) (m : Word) : (s.noteSet k m).sram = s.sram := rfl
@[simp] theorem State.noteSet_parity (k : Nat) (m : Word) : (s.noteSet k m).parity = s.parity := rfl
@[simp] theorem State.noteSet_free (k : Nat) (m : Word) : (s.noteSet k m).free = s.free := rfl
@[simp] theorem State.noteSet_cmps (k : Nat) (m : Word) : (s.noteSet k m).cmps = s.cmps := rfl
@[simp] theorem State.noteSet_ang (k : Nat) (m : Word) : (s.noteSet k m).ang = s.ang := rfl
@[simp] theorem State.noteSet_deliveries (k : Nat) (m : Word) : (s.noteSet k m).deliveries = s.deliveries := rfl
@[simp] theorem State.noteSet_mch (k : Nat) (m : Word) : (s.noteSet k m).mch = s.mch := rfl
@[simp] theorem State.noteSet_scoQueue (k : Nat) (m : Word) : (s.noteSet k m).scoQueue = s.scoQueue := rfl
@[simp] theorem State.noteSet_flt (k : Nat) (m : Word) : (s.noteSet k m).flt = s.flt := rfl
@[simp] theorem State.noteSet_hpt (k : Nat) (m : Word) : (s.noteSet k m).hpt = s.hpt := rfl
@[simp] theorem State.noteSet_scb (k : Nat) (m : Word) : (s.noteSet k m).scb = s.scb := rfl
@[simp] theorem State.noteSet_poisonEdge (k : Nat) (m : Word) : (s.noteSet k m).poisonEdge = s.poisonEdge := rfl
@[simp] theorem State.noteSet_codecInj (k : Nat) (m : Word) : (s.noteSet k m).codecInj = s.codecInj := rfl
@[simp] theorem State.noteSet_memPhase (k : Nat) (m : Word) : (s.noteSet k m).memPhase = s.memPhase := rfl
@[simp] theorem State.noteSet_bistBank (k : Nat) (m : Word) : (s.noteSet k m).bistBank = s.bistBank := rfl
@[simp] theorem State.noteSet_cku (k : Nat) (m : Word) : (s.noteSet k m).cku = s.cku := rfl
@[simp] theorem State.noteSet_pwr (k : Nat) (m : Word) : (s.noteSet k m).pwr = s.pwr := rfl
@[simp] theorem State.noteSet_ctxs (k : Nat) (m : Word) : (s.noteSet k m).ctxs = s.ctxs := rfl
@[simp] theorem State.noteSet_txc (k : Nat) (m : Word) : (s.noteSet k m).txc = s.txc := rfl
@[simp] theorem State.noteSet_wingEnds (k : Nat) (m : Word) : (s.noteSet k m).wingEnds = s.wingEnds := rfl
@[simp] theorem State.noteSet_rxc (k : Nat) (m : Word) : (s.noteSet k m).rxc = s.rxc := rfl
@[simp] theorem State.noteSet_timers (k : Nat) (m : Word) : (s.noteSet k m).timers = s.timers := rfl
@[simp] theorem State.noteSet_xmp (k : Nat) (m : Word) : (s.noteSet k m).xmp = s.xmp := rfl
@[simp] theorem State.noteSet_engs (k : Nat) (m : Word) : (s.noteSet k m).engs = s.engs := rfl
@[simp] theorem State.noteSet_inv (k : Nat) (m : Word) : (s.noteSet k m).inv = s.inv := rfl
@[simp] theorem State.noteSet_rates (k : Nat) (m : Word) : (s.noteSet k m).rates = s.rates := rfl
@[simp] theorem State.noteSet_kbz (k : Nat) (m : Word) : (s.noteSet k m).kbz = s.kbz := rfl
@[simp] theorem State.noteSet_lockMism (k : Nat) (m : Word) : (s.noteSet k m).lockMism = s.lockMism := rfl
@[simp] theorem State.noteSet_slot (k : Nat) (m : Word) : (s.noteSet k m).slot = s.slot := rfl
@[simp] theorem State.noteSet_fires (k : Nat) (m : Word) : (s.noteSet k m).fires = s.fires := rfl
@[simp] theorem State.noteSet_trig (k : Nat) (m : Word) : (s.noteSet k m).trig = s.trig := rfl
@[simp] theorem State.noteSet_cal (k : Nat) (m : Word) : (s.noteSet k m).cal = s.cal := rfl
@[simp] theorem State.noteSet_sco (k : Nat) (m : Word) : (s.noteSet k m).sco = s.sco := rfl
@[simp] theorem State.noteSet_pins (k : Nat) (m : Word) : (s.noteSet k m).pins = s.pins := rfl
@[simp] theorem State.noteSet_edge (k : Nat) (m : Word) : (s.noteSet k m).edge = s.edge := rfl
@[simp] theorem State.noteSet_resetting (k : Nat) (m : Word) : (s.noteSet k m).resetting = s.resetting := rfl
@[simp] theorem State.noteSet_mirror (k : Nat) (m : Word) : (s.noteSet k m).mirror = s.mirror := rfl
@[simp] theorem State.noteSet_reg (k : Nat) (m : Word) (q o : Nat) : (s.noteSet k m).reg q o = s.reg q o := rfl
@[simp] theorem State.noteSet_get (k : Nat) (m : Word) (q : Nat) (h : Fld) : (s.noteSet k m).get q h = s.get q h := rfl
@[simp] theorem State.noteSet_bit (k : Nat) (m : Word) (q : Nat) (h : Fld) : (s.noteSet k m).bit q h = s.bit q h := rfl
@[simp] theorem State.noteSet_bitOf (k : Nat) (m : Word) (q : Nat) (h : Fld) (i : Nat) : (s.noteSet k m).bitOf q h i = s.bitOf q h i := rfl
@[simp] theorem State.noteSet_enabled (k : Nat) (m : Word) (q : Nat) : (s.noteSet k m).enabled q = s.enabled q := rfl
@[simp] theorem State.noteSet_coreUp (k : Nat) (m : Word) : (s.noteSet k m).coreUp = s.coreUp := rfl
@[simp] theorem State.noteSet_coreRuns (k : Nat) (m : Word) : (s.noteSet k m).coreRuns = s.coreRuns := rfl

@[simp] theorem State.timer_pending (d : Nat) (c : Tm) : (s.timer d c).pending = s.pending := rfl
@[simp] theorem State.timer_now (d : Nat) (c : Tm) : (s.timer d c).now = s.now := rfl
@[simp] theorem State.timer_agenda (d : Nat) (c : Tm) : (s.timer d c).agenda = s.agenda := rfl
@[simp] theorem State.timer_regs (d : Nat) (c : Tm) : (s.timer d c).regs = s.regs := rfl
@[simp] theorem State.timer_regPsn (d : Nat) (c : Tm) : (s.timer d c).regPsn = s.regPsn := rfl
@[simp] theorem State.timer_crcHeld (d : Nat) (c : Tm) : (s.timer d c).crcHeld = s.crcHeld := rfl
@[simp] theorem State.timer_sram (d : Nat) (c : Tm) : (s.timer d c).sram = s.sram := rfl
@[simp] theorem State.timer_parity (d : Nat) (c : Tm) : (s.timer d c).parity = s.parity := rfl
@[simp] theorem State.timer_free (d : Nat) (c : Tm) : (s.timer d c).free = s.free := rfl
@[simp] theorem State.timer_cmps (d : Nat) (c : Tm) : (s.timer d c).cmps = s.cmps := rfl
@[simp] theorem State.timer_ang (d : Nat) (c : Tm) : (s.timer d c).ang = s.ang := rfl
@[simp] theorem State.timer_deliveries (d : Nat) (c : Tm) : (s.timer d c).deliveries = s.deliveries := rfl
@[simp] theorem State.timer_mch (d : Nat) (c : Tm) : (s.timer d c).mch = s.mch := rfl
@[simp] theorem State.timer_scoQueue (d : Nat) (c : Tm) : (s.timer d c).scoQueue = s.scoQueue := rfl
@[simp] theorem State.timer_flt (d : Nat) (c : Tm) : (s.timer d c).flt = s.flt := rfl
@[simp] theorem State.timer_hpt (d : Nat) (c : Tm) : (s.timer d c).hpt = s.hpt := rfl
@[simp] theorem State.timer_scb (d : Nat) (c : Tm) : (s.timer d c).scb = s.scb := rfl
@[simp] theorem State.timer_poisonEdge (d : Nat) (c : Tm) : (s.timer d c).poisonEdge = s.poisonEdge := rfl
@[simp] theorem State.timer_codecInj (d : Nat) (c : Tm) : (s.timer d c).codecInj = s.codecInj := rfl
@[simp] theorem State.timer_memPhase (d : Nat) (c : Tm) : (s.timer d c).memPhase = s.memPhase := rfl
@[simp] theorem State.timer_bistBank (d : Nat) (c : Tm) : (s.timer d c).bistBank = s.bistBank := rfl
@[simp] theorem State.timer_cku (d : Nat) (c : Tm) : (s.timer d c).cku = s.cku := rfl
@[simp] theorem State.timer_pwr (d : Nat) (c : Tm) : (s.timer d c).pwr = s.pwr := rfl
@[simp] theorem State.timer_ctxs (d : Nat) (c : Tm) : (s.timer d c).ctxs = s.ctxs := rfl
@[simp] theorem State.timer_txc (d : Nat) (c : Tm) : (s.timer d c).txc = s.txc := rfl
@[simp] theorem State.timer_wingEnds (d : Nat) (c : Tm) : (s.timer d c).wingEnds = s.wingEnds := rfl
@[simp] theorem State.timer_rxc (d : Nat) (c : Tm) : (s.timer d c).rxc = s.rxc := rfl
@[simp] theorem State.timer_xmp (d : Nat) (c : Tm) : (s.timer d c).xmp = s.xmp := rfl
@[simp] theorem State.timer_engs (d : Nat) (c : Tm) : (s.timer d c).engs = s.engs := rfl
@[simp] theorem State.timer_inv (d : Nat) (c : Tm) : (s.timer d c).inv = s.inv := rfl
@[simp] theorem State.timer_rates (d : Nat) (c : Tm) : (s.timer d c).rates = s.rates := rfl
@[simp] theorem State.timer_kbz (d : Nat) (c : Tm) : (s.timer d c).kbz = s.kbz := rfl
@[simp] theorem State.timer_lockMism (d : Nat) (c : Tm) : (s.timer d c).lockMism = s.lockMism := rfl
@[simp] theorem State.timer_slot (d : Nat) (c : Tm) : (s.timer d c).slot = s.slot := rfl
@[simp] theorem State.timer_fires (d : Nat) (c : Tm) : (s.timer d c).fires = s.fires := rfl
@[simp] theorem State.timer_trig (d : Nat) (c : Tm) : (s.timer d c).trig = s.trig := rfl
@[simp] theorem State.timer_cal (d : Nat) (c : Tm) : (s.timer d c).cal = s.cal := rfl
@[simp] theorem State.timer_sco (d : Nat) (c : Tm) : (s.timer d c).sco = s.sco := rfl
@[simp] theorem State.timer_pins (d : Nat) (c : Tm) : (s.timer d c).pins = s.pins := rfl
@[simp] theorem State.timer_edge (d : Nat) (c : Tm) : (s.timer d c).edge = s.edge := rfl
@[simp] theorem State.timer_touch (d : Nat) (c : Tm) : (s.timer d c).touch = s.touch := rfl
@[simp] theorem State.timer_resetting (d : Nat) (c : Tm) : (s.timer d c).resetting = s.resetting := rfl
@[simp] theorem State.timer_mirror (d : Nat) (c : Tm) : (s.timer d c).mirror = s.mirror := rfl
@[simp] theorem State.timer_reg (d : Nat) (c : Tm) (q o : Nat) : (s.timer d c).reg q o = s.reg q o := rfl
@[simp] theorem State.timer_get (d : Nat) (c : Tm) (q : Nat) (h : Fld) : (s.timer d c).get q h = s.get q h := rfl
@[simp] theorem State.timer_bit (d : Nat) (c : Tm) (q : Nat) (h : Fld) : (s.timer d c).bit q h = s.bit q h := rfl
@[simp] theorem State.timer_bitOf (d : Nat) (c : Tm) (q : Nat) (h : Fld) (i : Nat) : (s.timer d c).bitOf q h i = s.bitOf q h i := rfl
@[simp] theorem State.timer_enabled (d : Nat) (c : Tm) (q : Nat) : (s.timer d c).enabled q = s.enabled q := rfl
@[simp] theorem State.timer_coreUp (d : Nat) (c : Tm) : (s.timer d c).coreUp = s.coreUp := rfl
@[simp] theorem State.timer_coreRuns (d : Nat) (c : Tm) : (s.timer d c).coreRuns = s.coreRuns := rfl

@[simp] theorem State.untimer_pending (c : Tm) : (s.untimer c).pending = s.pending := rfl
@[simp] theorem State.untimer_now (c : Tm) : (s.untimer c).now = s.now := rfl
@[simp] theorem State.untimer_agenda (c : Tm) : (s.untimer c).agenda = s.agenda := rfl
@[simp] theorem State.untimer_regs (c : Tm) : (s.untimer c).regs = s.regs := rfl
@[simp] theorem State.untimer_regPsn (c : Tm) : (s.untimer c).regPsn = s.regPsn := rfl
@[simp] theorem State.untimer_crcHeld (c : Tm) : (s.untimer c).crcHeld = s.crcHeld := rfl
@[simp] theorem State.untimer_sram (c : Tm) : (s.untimer c).sram = s.sram := rfl
@[simp] theorem State.untimer_parity (c : Tm) : (s.untimer c).parity = s.parity := rfl
@[simp] theorem State.untimer_free (c : Tm) : (s.untimer c).free = s.free := rfl
@[simp] theorem State.untimer_cmps (c : Tm) : (s.untimer c).cmps = s.cmps := rfl
@[simp] theorem State.untimer_ang (c : Tm) : (s.untimer c).ang = s.ang := rfl
@[simp] theorem State.untimer_deliveries (c : Tm) : (s.untimer c).deliveries = s.deliveries := rfl
@[simp] theorem State.untimer_mch (c : Tm) : (s.untimer c).mch = s.mch := rfl
@[simp] theorem State.untimer_scoQueue (c : Tm) : (s.untimer c).scoQueue = s.scoQueue := rfl
@[simp] theorem State.untimer_flt (c : Tm) : (s.untimer c).flt = s.flt := rfl
@[simp] theorem State.untimer_hpt (c : Tm) : (s.untimer c).hpt = s.hpt := rfl
@[simp] theorem State.untimer_scb (c : Tm) : (s.untimer c).scb = s.scb := rfl
@[simp] theorem State.untimer_poisonEdge (c : Tm) : (s.untimer c).poisonEdge = s.poisonEdge := rfl
@[simp] theorem State.untimer_codecInj (c : Tm) : (s.untimer c).codecInj = s.codecInj := rfl
@[simp] theorem State.untimer_memPhase (c : Tm) : (s.untimer c).memPhase = s.memPhase := rfl
@[simp] theorem State.untimer_bistBank (c : Tm) : (s.untimer c).bistBank = s.bistBank := rfl
@[simp] theorem State.untimer_cku (c : Tm) : (s.untimer c).cku = s.cku := rfl
@[simp] theorem State.untimer_pwr (c : Tm) : (s.untimer c).pwr = s.pwr := rfl
@[simp] theorem State.untimer_ctxs (c : Tm) : (s.untimer c).ctxs = s.ctxs := rfl
@[simp] theorem State.untimer_txc (c : Tm) : (s.untimer c).txc = s.txc := rfl
@[simp] theorem State.untimer_wingEnds (c : Tm) : (s.untimer c).wingEnds = s.wingEnds := rfl
@[simp] theorem State.untimer_rxc (c : Tm) : (s.untimer c).rxc = s.rxc := rfl
@[simp] theorem State.untimer_xmp (c : Tm) : (s.untimer c).xmp = s.xmp := rfl
@[simp] theorem State.untimer_engs (c : Tm) : (s.untimer c).engs = s.engs := rfl
@[simp] theorem State.untimer_inv (c : Tm) : (s.untimer c).inv = s.inv := rfl
@[simp] theorem State.untimer_rates (c : Tm) : (s.untimer c).rates = s.rates := rfl
@[simp] theorem State.untimer_kbz (c : Tm) : (s.untimer c).kbz = s.kbz := rfl
@[simp] theorem State.untimer_lockMism (c : Tm) : (s.untimer c).lockMism = s.lockMism := rfl
@[simp] theorem State.untimer_slot (c : Tm) : (s.untimer c).slot = s.slot := rfl
@[simp] theorem State.untimer_fires (c : Tm) : (s.untimer c).fires = s.fires := rfl
@[simp] theorem State.untimer_trig (c : Tm) : (s.untimer c).trig = s.trig := rfl
@[simp] theorem State.untimer_cal (c : Tm) : (s.untimer c).cal = s.cal := rfl
@[simp] theorem State.untimer_sco (c : Tm) : (s.untimer c).sco = s.sco := rfl
@[simp] theorem State.untimer_pins (c : Tm) : (s.untimer c).pins = s.pins := rfl
@[simp] theorem State.untimer_edge (c : Tm) : (s.untimer c).edge = s.edge := rfl
@[simp] theorem State.untimer_touch (c : Tm) : (s.untimer c).touch = s.touch := rfl
@[simp] theorem State.untimer_resetting (c : Tm) : (s.untimer c).resetting = s.resetting := rfl
@[simp] theorem State.untimer_mirror (c : Tm) : (s.untimer c).mirror = s.mirror := rfl
@[simp] theorem State.untimer_reg (c : Tm) (q o : Nat) : (s.untimer c).reg q o = s.reg q o := rfl
@[simp] theorem State.untimer_get (c : Tm) (q : Nat) (h : Fld) : (s.untimer c).get q h = s.get q h := rfl
@[simp] theorem State.untimer_bit (c : Tm) (q : Nat) (h : Fld) : (s.untimer c).bit q h = s.bit q h := rfl
@[simp] theorem State.untimer_bitOf (c : Tm) (q : Nat) (h : Fld) (i : Nat) : (s.untimer c).bitOf q h i = s.bitOf q h i := rfl
@[simp] theorem State.untimer_enabled (c : Tm) (q : Nat) : (s.untimer c).enabled q = s.enabled q := rfl
@[simp] theorem State.untimer_coreUp (c : Tm) : (s.untimer c).coreUp = s.coreUp := rfl
@[simp] theorem State.untimer_coreRuns (c : Tm) : (s.untimer c).coreRuns = s.coreRuns := rfl

@[simp] theorem State.retimer_pending (d : Nat) (c : Tm) : (s.retimer d c).pending = s.pending := rfl
@[simp] theorem State.retimer_now (d : Nat) (c : Tm) : (s.retimer d c).now = s.now := rfl
@[simp] theorem State.retimer_agenda (d : Nat) (c : Tm) : (s.retimer d c).agenda = s.agenda := rfl
@[simp] theorem State.retimer_regs (d : Nat) (c : Tm) : (s.retimer d c).regs = s.regs := rfl
@[simp] theorem State.retimer_regPsn (d : Nat) (c : Tm) : (s.retimer d c).regPsn = s.regPsn := rfl
@[simp] theorem State.retimer_crcHeld (d : Nat) (c : Tm) : (s.retimer d c).crcHeld = s.crcHeld := rfl
@[simp] theorem State.retimer_sram (d : Nat) (c : Tm) : (s.retimer d c).sram = s.sram := rfl
@[simp] theorem State.retimer_parity (d : Nat) (c : Tm) : (s.retimer d c).parity = s.parity := rfl
@[simp] theorem State.retimer_free (d : Nat) (c : Tm) : (s.retimer d c).free = s.free := rfl
@[simp] theorem State.retimer_cmps (d : Nat) (c : Tm) : (s.retimer d c).cmps = s.cmps := rfl
@[simp] theorem State.retimer_ang (d : Nat) (c : Tm) : (s.retimer d c).ang = s.ang := rfl
@[simp] theorem State.retimer_deliveries (d : Nat) (c : Tm) : (s.retimer d c).deliveries = s.deliveries := rfl
@[simp] theorem State.retimer_mch (d : Nat) (c : Tm) : (s.retimer d c).mch = s.mch := rfl
@[simp] theorem State.retimer_scoQueue (d : Nat) (c : Tm) : (s.retimer d c).scoQueue = s.scoQueue := rfl
@[simp] theorem State.retimer_flt (d : Nat) (c : Tm) : (s.retimer d c).flt = s.flt := rfl
@[simp] theorem State.retimer_hpt (d : Nat) (c : Tm) : (s.retimer d c).hpt = s.hpt := rfl
@[simp] theorem State.retimer_scb (d : Nat) (c : Tm) : (s.retimer d c).scb = s.scb := rfl
@[simp] theorem State.retimer_poisonEdge (d : Nat) (c : Tm) : (s.retimer d c).poisonEdge = s.poisonEdge := rfl
@[simp] theorem State.retimer_codecInj (d : Nat) (c : Tm) : (s.retimer d c).codecInj = s.codecInj := rfl
@[simp] theorem State.retimer_memPhase (d : Nat) (c : Tm) : (s.retimer d c).memPhase = s.memPhase := rfl
@[simp] theorem State.retimer_bistBank (d : Nat) (c : Tm) : (s.retimer d c).bistBank = s.bistBank := rfl
@[simp] theorem State.retimer_cku (d : Nat) (c : Tm) : (s.retimer d c).cku = s.cku := rfl
@[simp] theorem State.retimer_pwr (d : Nat) (c : Tm) : (s.retimer d c).pwr = s.pwr := rfl
@[simp] theorem State.retimer_ctxs (d : Nat) (c : Tm) : (s.retimer d c).ctxs = s.ctxs := rfl
@[simp] theorem State.retimer_txc (d : Nat) (c : Tm) : (s.retimer d c).txc = s.txc := rfl
@[simp] theorem State.retimer_wingEnds (d : Nat) (c : Tm) : (s.retimer d c).wingEnds = s.wingEnds := rfl
@[simp] theorem State.retimer_rxc (d : Nat) (c : Tm) : (s.retimer d c).rxc = s.rxc := rfl
@[simp] theorem State.retimer_xmp (d : Nat) (c : Tm) : (s.retimer d c).xmp = s.xmp := rfl
@[simp] theorem State.retimer_engs (d : Nat) (c : Tm) : (s.retimer d c).engs = s.engs := rfl
@[simp] theorem State.retimer_inv (d : Nat) (c : Tm) : (s.retimer d c).inv = s.inv := rfl
@[simp] theorem State.retimer_rates (d : Nat) (c : Tm) : (s.retimer d c).rates = s.rates := rfl
@[simp] theorem State.retimer_kbz (d : Nat) (c : Tm) : (s.retimer d c).kbz = s.kbz := rfl
@[simp] theorem State.retimer_lockMism (d : Nat) (c : Tm) : (s.retimer d c).lockMism = s.lockMism := rfl
@[simp] theorem State.retimer_slot (d : Nat) (c : Tm) : (s.retimer d c).slot = s.slot := rfl
@[simp] theorem State.retimer_fires (d : Nat) (c : Tm) : (s.retimer d c).fires = s.fires := rfl
@[simp] theorem State.retimer_trig (d : Nat) (c : Tm) : (s.retimer d c).trig = s.trig := rfl
@[simp] theorem State.retimer_cal (d : Nat) (c : Tm) : (s.retimer d c).cal = s.cal := rfl
@[simp] theorem State.retimer_sco (d : Nat) (c : Tm) : (s.retimer d c).sco = s.sco := rfl
@[simp] theorem State.retimer_pins (d : Nat) (c : Tm) : (s.retimer d c).pins = s.pins := rfl
@[simp] theorem State.retimer_edge (d : Nat) (c : Tm) : (s.retimer d c).edge = s.edge := rfl
@[simp] theorem State.retimer_touch (d : Nat) (c : Tm) : (s.retimer d c).touch = s.touch := rfl
@[simp] theorem State.retimer_resetting (d : Nat) (c : Tm) : (s.retimer d c).resetting = s.resetting := rfl
@[simp] theorem State.retimer_mirror (d : Nat) (c : Tm) : (s.retimer d c).mirror = s.mirror := rfl
@[simp] theorem State.retimer_reg (d : Nat) (c : Tm) (q o : Nat) : (s.retimer d c).reg q o = s.reg q o := rfl
@[simp] theorem State.retimer_get (d : Nat) (c : Tm) (q : Nat) (h : Fld) : (s.retimer d c).get q h = s.get q h := rfl
@[simp] theorem State.retimer_bit (d : Nat) (c : Tm) (q : Nat) (h : Fld) : (s.retimer d c).bit q h = s.bit q h := rfl
@[simp] theorem State.retimer_bitOf (d : Nat) (c : Tm) (q : Nat) (h : Fld) (i : Nat) : (s.retimer d c).bitOf q h i = s.bitOf q h i := rfl
@[simp] theorem State.retimer_enabled (d : Nat) (c : Tm) (q : Nat) : (s.retimer d c).enabled q = s.enabled q := rfl
@[simp] theorem State.retimer_coreUp (d : Nat) (c : Tm) : (s.retimer d c).coreUp = s.coreUp := rfl
@[simp] theorem State.retimer_coreRuns (d : Nat) (c : Tm) : (s.retimer d c).coreRuns = s.coreRuns := rfl

@[simp] theorem State.sched_pending (d : Nat) (c : Instr) : (s.sched d c).pending = s.pending := rfl
@[simp] theorem State.sched_now (d : Nat) (c : Instr) : (s.sched d c).now = s.now := rfl
@[simp] theorem State.sched_regs (d : Nat) (c : Instr) : (s.sched d c).regs = s.regs := rfl
@[simp] theorem State.sched_regPsn (d : Nat) (c : Instr) : (s.sched d c).regPsn = s.regPsn := rfl
@[simp] theorem State.sched_crcHeld (d : Nat) (c : Instr) : (s.sched d c).crcHeld = s.crcHeld := rfl
@[simp] theorem State.sched_sram (d : Nat) (c : Instr) : (s.sched d c).sram = s.sram := rfl
@[simp] theorem State.sched_parity (d : Nat) (c : Instr) : (s.sched d c).parity = s.parity := rfl
@[simp] theorem State.sched_free (d : Nat) (c : Instr) : (s.sched d c).free = s.free := rfl
@[simp] theorem State.sched_cmps (d : Nat) (c : Instr) : (s.sched d c).cmps = s.cmps := rfl
@[simp] theorem State.sched_ang (d : Nat) (c : Instr) : (s.sched d c).ang = s.ang := rfl
@[simp] theorem State.sched_deliveries (d : Nat) (c : Instr) : (s.sched d c).deliveries = s.deliveries := rfl
@[simp] theorem State.sched_mch (d : Nat) (c : Instr) : (s.sched d c).mch = s.mch := rfl
@[simp] theorem State.sched_scoQueue (d : Nat) (c : Instr) : (s.sched d c).scoQueue = s.scoQueue := rfl
@[simp] theorem State.sched_flt (d : Nat) (c : Instr) : (s.sched d c).flt = s.flt := rfl
@[simp] theorem State.sched_hpt (d : Nat) (c : Instr) : (s.sched d c).hpt = s.hpt := rfl
@[simp] theorem State.sched_scb (d : Nat) (c : Instr) : (s.sched d c).scb = s.scb := rfl
@[simp] theorem State.sched_poisonEdge (d : Nat) (c : Instr) : (s.sched d c).poisonEdge = s.poisonEdge := rfl
@[simp] theorem State.sched_codecInj (d : Nat) (c : Instr) : (s.sched d c).codecInj = s.codecInj := rfl
@[simp] theorem State.sched_memPhase (d : Nat) (c : Instr) : (s.sched d c).memPhase = s.memPhase := rfl
@[simp] theorem State.sched_bistBank (d : Nat) (c : Instr) : (s.sched d c).bistBank = s.bistBank := rfl
@[simp] theorem State.sched_cku (d : Nat) (c : Instr) : (s.sched d c).cku = s.cku := rfl
@[simp] theorem State.sched_pwr (d : Nat) (c : Instr) : (s.sched d c).pwr = s.pwr := rfl
@[simp] theorem State.sched_ctxs (d : Nat) (c : Instr) : (s.sched d c).ctxs = s.ctxs := rfl
@[simp] theorem State.sched_txc (d : Nat) (c : Instr) : (s.sched d c).txc = s.txc := rfl
@[simp] theorem State.sched_wingEnds (d : Nat) (c : Instr) : (s.sched d c).wingEnds = s.wingEnds := rfl
@[simp] theorem State.sched_rxc (d : Nat) (c : Instr) : (s.sched d c).rxc = s.rxc := rfl
@[simp] theorem State.sched_timers (d : Nat) (c : Instr) : (s.sched d c).timers = s.timers := rfl
@[simp] theorem State.sched_xmp (d : Nat) (c : Instr) : (s.sched d c).xmp = s.xmp := rfl
@[simp] theorem State.sched_engs (d : Nat) (c : Instr) : (s.sched d c).engs = s.engs := rfl
@[simp] theorem State.sched_inv (d : Nat) (c : Instr) : (s.sched d c).inv = s.inv := rfl
@[simp] theorem State.sched_rates (d : Nat) (c : Instr) : (s.sched d c).rates = s.rates := rfl
@[simp] theorem State.sched_kbz (d : Nat) (c : Instr) : (s.sched d c).kbz = s.kbz := rfl
@[simp] theorem State.sched_lockMism (d : Nat) (c : Instr) : (s.sched d c).lockMism = s.lockMism := rfl
@[simp] theorem State.sched_slot (d : Nat) (c : Instr) : (s.sched d c).slot = s.slot := rfl
@[simp] theorem State.sched_fires (d : Nat) (c : Instr) : (s.sched d c).fires = s.fires := rfl
@[simp] theorem State.sched_trig (d : Nat) (c : Instr) : (s.sched d c).trig = s.trig := rfl
@[simp] theorem State.sched_cal (d : Nat) (c : Instr) : (s.sched d c).cal = s.cal := rfl
@[simp] theorem State.sched_sco (d : Nat) (c : Instr) : (s.sched d c).sco = s.sco := rfl
@[simp] theorem State.sched_pins (d : Nat) (c : Instr) : (s.sched d c).pins = s.pins := rfl
@[simp] theorem State.sched_edge (d : Nat) (c : Instr) : (s.sched d c).edge = s.edge := rfl
@[simp] theorem State.sched_touch (d : Nat) (c : Instr) : (s.sched d c).touch = s.touch := rfl
@[simp] theorem State.sched_resetting (d : Nat) (c : Instr) : (s.sched d c).resetting = s.resetting := rfl
@[simp] theorem State.sched_mirror (d : Nat) (c : Instr) : (s.sched d c).mirror = s.mirror := rfl
@[simp] theorem State.sched_reg (d : Nat) (c : Instr) (q o : Nat) : (s.sched d c).reg q o = s.reg q o := rfl
@[simp] theorem State.sched_get (d : Nat) (c : Instr) (q : Nat) (h : Fld) : (s.sched d c).get q h = s.get q h := rfl
@[simp] theorem State.sched_bit (d : Nat) (c : Instr) (q : Nat) (h : Fld) : (s.sched d c).bit q h = s.bit q h := rfl
@[simp] theorem State.sched_bitOf (d : Nat) (c : Instr) (q : Nat) (h : Fld) (i : Nat) : (s.sched d c).bitOf q h i = s.bitOf q h i := rfl
@[simp] theorem State.sched_enabled (d : Nat) (c : Instr) (q : Nat) : (s.sched d c).enabled q = s.enabled q := rfl
@[simp] theorem State.sched_coreUp (d : Nat) (c : Instr) : (s.sched d c).coreUp = s.coreUp := rfl
@[simp] theorem State.sched_coreRuns (d : Nat) (c : Instr) : (s.sched d c).coreRuns = s.coreRuns := rfl

@[simp] theorem State.unsched_pending (c : Instr) : (s.unsched c).pending = s.pending := rfl
@[simp] theorem State.unsched_now (c : Instr) : (s.unsched c).now = s.now := rfl
@[simp] theorem State.unsched_regs (c : Instr) : (s.unsched c).regs = s.regs := rfl
@[simp] theorem State.unsched_regPsn (c : Instr) : (s.unsched c).regPsn = s.regPsn := rfl
@[simp] theorem State.unsched_crcHeld (c : Instr) : (s.unsched c).crcHeld = s.crcHeld := rfl
@[simp] theorem State.unsched_sram (c : Instr) : (s.unsched c).sram = s.sram := rfl
@[simp] theorem State.unsched_parity (c : Instr) : (s.unsched c).parity = s.parity := rfl
@[simp] theorem State.unsched_free (c : Instr) : (s.unsched c).free = s.free := rfl
@[simp] theorem State.unsched_cmps (c : Instr) : (s.unsched c).cmps = s.cmps := rfl
@[simp] theorem State.unsched_ang (c : Instr) : (s.unsched c).ang = s.ang := rfl
@[simp] theorem State.unsched_deliveries (c : Instr) : (s.unsched c).deliveries = s.deliveries := rfl
@[simp] theorem State.unsched_mch (c : Instr) : (s.unsched c).mch = s.mch := rfl
@[simp] theorem State.unsched_scoQueue (c : Instr) : (s.unsched c).scoQueue = s.scoQueue := rfl
@[simp] theorem State.unsched_flt (c : Instr) : (s.unsched c).flt = s.flt := rfl
@[simp] theorem State.unsched_hpt (c : Instr) : (s.unsched c).hpt = s.hpt := rfl
@[simp] theorem State.unsched_scb (c : Instr) : (s.unsched c).scb = s.scb := rfl
@[simp] theorem State.unsched_poisonEdge (c : Instr) : (s.unsched c).poisonEdge = s.poisonEdge := rfl
@[simp] theorem State.unsched_codecInj (c : Instr) : (s.unsched c).codecInj = s.codecInj := rfl
@[simp] theorem State.unsched_memPhase (c : Instr) : (s.unsched c).memPhase = s.memPhase := rfl
@[simp] theorem State.unsched_bistBank (c : Instr) : (s.unsched c).bistBank = s.bistBank := rfl
@[simp] theorem State.unsched_cku (c : Instr) : (s.unsched c).cku = s.cku := rfl
@[simp] theorem State.unsched_pwr (c : Instr) : (s.unsched c).pwr = s.pwr := rfl
@[simp] theorem State.unsched_ctxs (c : Instr) : (s.unsched c).ctxs = s.ctxs := rfl
@[simp] theorem State.unsched_txc (c : Instr) : (s.unsched c).txc = s.txc := rfl
@[simp] theorem State.unsched_wingEnds (c : Instr) : (s.unsched c).wingEnds = s.wingEnds := rfl
@[simp] theorem State.unsched_rxc (c : Instr) : (s.unsched c).rxc = s.rxc := rfl
@[simp] theorem State.unsched_timers (c : Instr) : (s.unsched c).timers = s.timers := rfl
@[simp] theorem State.unsched_xmp (c : Instr) : (s.unsched c).xmp = s.xmp := rfl
@[simp] theorem State.unsched_engs (c : Instr) : (s.unsched c).engs = s.engs := rfl
@[simp] theorem State.unsched_inv (c : Instr) : (s.unsched c).inv = s.inv := rfl
@[simp] theorem State.unsched_rates (c : Instr) : (s.unsched c).rates = s.rates := rfl
@[simp] theorem State.unsched_kbz (c : Instr) : (s.unsched c).kbz = s.kbz := rfl
@[simp] theorem State.unsched_lockMism (c : Instr) : (s.unsched c).lockMism = s.lockMism := rfl
@[simp] theorem State.unsched_slot (c : Instr) : (s.unsched c).slot = s.slot := rfl
@[simp] theorem State.unsched_fires (c : Instr) : (s.unsched c).fires = s.fires := rfl
@[simp] theorem State.unsched_trig (c : Instr) : (s.unsched c).trig = s.trig := rfl
@[simp] theorem State.unsched_cal (c : Instr) : (s.unsched c).cal = s.cal := rfl
@[simp] theorem State.unsched_sco (c : Instr) : (s.unsched c).sco = s.sco := rfl
@[simp] theorem State.unsched_pins (c : Instr) : (s.unsched c).pins = s.pins := rfl
@[simp] theorem State.unsched_edge (c : Instr) : (s.unsched c).edge = s.edge := rfl
@[simp] theorem State.unsched_touch (c : Instr) : (s.unsched c).touch = s.touch := rfl
@[simp] theorem State.unsched_resetting (c : Instr) : (s.unsched c).resetting = s.resetting := rfl
@[simp] theorem State.unsched_mirror (c : Instr) : (s.unsched c).mirror = s.mirror := rfl
@[simp] theorem State.unsched_reg (c : Instr) (q o : Nat) : (s.unsched c).reg q o = s.reg q o := rfl
@[simp] theorem State.unsched_get (c : Instr) (q : Nat) (h : Fld) : (s.unsched c).get q h = s.get q h := rfl
@[simp] theorem State.unsched_bit (c : Instr) (q : Nat) (h : Fld) : (s.unsched c).bit q h = s.bit q h := rfl
@[simp] theorem State.unsched_bitOf (c : Instr) (q : Nat) (h : Fld) (i : Nat) : (s.unsched c).bitOf q h i = s.bitOf q h i := rfl
@[simp] theorem State.unsched_enabled (c : Instr) (q : Nat) : (s.unsched c).enabled q = s.enabled q := rfl
@[simp] theorem State.unsched_coreUp (c : Instr) : (s.unsched c).coreUp = s.coreUp := rfl
@[simp] theorem State.unsched_coreRuns (c : Instr) : (s.unsched c).coreRuns = s.coreRuns := rfl

@[simp] theorem State.resched_pending (d : Nat) (c : Instr) : (s.resched d c).pending = s.pending := rfl
@[simp] theorem State.resched_now (d : Nat) (c : Instr) : (s.resched d c).now = s.now := rfl
@[simp] theorem State.resched_regs (d : Nat) (c : Instr) : (s.resched d c).regs = s.regs := rfl
@[simp] theorem State.resched_regPsn (d : Nat) (c : Instr) : (s.resched d c).regPsn = s.regPsn := rfl
@[simp] theorem State.resched_crcHeld (d : Nat) (c : Instr) : (s.resched d c).crcHeld = s.crcHeld := rfl
@[simp] theorem State.resched_sram (d : Nat) (c : Instr) : (s.resched d c).sram = s.sram := rfl
@[simp] theorem State.resched_parity (d : Nat) (c : Instr) : (s.resched d c).parity = s.parity := rfl
@[simp] theorem State.resched_free (d : Nat) (c : Instr) : (s.resched d c).free = s.free := rfl
@[simp] theorem State.resched_cmps (d : Nat) (c : Instr) : (s.resched d c).cmps = s.cmps := rfl
@[simp] theorem State.resched_ang (d : Nat) (c : Instr) : (s.resched d c).ang = s.ang := rfl
@[simp] theorem State.resched_deliveries (d : Nat) (c : Instr) : (s.resched d c).deliveries = s.deliveries := rfl
@[simp] theorem State.resched_mch (d : Nat) (c : Instr) : (s.resched d c).mch = s.mch := rfl
@[simp] theorem State.resched_scoQueue (d : Nat) (c : Instr) : (s.resched d c).scoQueue = s.scoQueue := rfl
@[simp] theorem State.resched_flt (d : Nat) (c : Instr) : (s.resched d c).flt = s.flt := rfl
@[simp] theorem State.resched_hpt (d : Nat) (c : Instr) : (s.resched d c).hpt = s.hpt := rfl
@[simp] theorem State.resched_scb (d : Nat) (c : Instr) : (s.resched d c).scb = s.scb := rfl
@[simp] theorem State.resched_poisonEdge (d : Nat) (c : Instr) : (s.resched d c).poisonEdge = s.poisonEdge := rfl
@[simp] theorem State.resched_codecInj (d : Nat) (c : Instr) : (s.resched d c).codecInj = s.codecInj := rfl
@[simp] theorem State.resched_memPhase (d : Nat) (c : Instr) : (s.resched d c).memPhase = s.memPhase := rfl
@[simp] theorem State.resched_bistBank (d : Nat) (c : Instr) : (s.resched d c).bistBank = s.bistBank := rfl
@[simp] theorem State.resched_cku (d : Nat) (c : Instr) : (s.resched d c).cku = s.cku := rfl
@[simp] theorem State.resched_pwr (d : Nat) (c : Instr) : (s.resched d c).pwr = s.pwr := rfl
@[simp] theorem State.resched_ctxs (d : Nat) (c : Instr) : (s.resched d c).ctxs = s.ctxs := rfl
@[simp] theorem State.resched_txc (d : Nat) (c : Instr) : (s.resched d c).txc = s.txc := rfl
@[simp] theorem State.resched_wingEnds (d : Nat) (c : Instr) : (s.resched d c).wingEnds = s.wingEnds := rfl
@[simp] theorem State.resched_rxc (d : Nat) (c : Instr) : (s.resched d c).rxc = s.rxc := rfl
@[simp] theorem State.resched_timers (d : Nat) (c : Instr) : (s.resched d c).timers = s.timers := rfl
@[simp] theorem State.resched_xmp (d : Nat) (c : Instr) : (s.resched d c).xmp = s.xmp := rfl
@[simp] theorem State.resched_engs (d : Nat) (c : Instr) : (s.resched d c).engs = s.engs := rfl
@[simp] theorem State.resched_inv (d : Nat) (c : Instr) : (s.resched d c).inv = s.inv := rfl
@[simp] theorem State.resched_rates (d : Nat) (c : Instr) : (s.resched d c).rates = s.rates := rfl
@[simp] theorem State.resched_kbz (d : Nat) (c : Instr) : (s.resched d c).kbz = s.kbz := rfl
@[simp] theorem State.resched_lockMism (d : Nat) (c : Instr) : (s.resched d c).lockMism = s.lockMism := rfl
@[simp] theorem State.resched_slot (d : Nat) (c : Instr) : (s.resched d c).slot = s.slot := rfl
@[simp] theorem State.resched_fires (d : Nat) (c : Instr) : (s.resched d c).fires = s.fires := rfl
@[simp] theorem State.resched_trig (d : Nat) (c : Instr) : (s.resched d c).trig = s.trig := rfl
@[simp] theorem State.resched_cal (d : Nat) (c : Instr) : (s.resched d c).cal = s.cal := rfl
@[simp] theorem State.resched_sco (d : Nat) (c : Instr) : (s.resched d c).sco = s.sco := rfl
@[simp] theorem State.resched_pins (d : Nat) (c : Instr) : (s.resched d c).pins = s.pins := rfl
@[simp] theorem State.resched_edge (d : Nat) (c : Instr) : (s.resched d c).edge = s.edge := rfl
@[simp] theorem State.resched_touch (d : Nat) (c : Instr) : (s.resched d c).touch = s.touch := rfl
@[simp] theorem State.resched_resetting (d : Nat) (c : Instr) : (s.resched d c).resetting = s.resetting := rfl
@[simp] theorem State.resched_mirror (d : Nat) (c : Instr) : (s.resched d c).mirror = s.mirror := rfl
@[simp] theorem State.resched_reg (d : Nat) (c : Instr) (q o : Nat) : (s.resched d c).reg q o = s.reg q o := rfl
@[simp] theorem State.resched_get (d : Nat) (c : Instr) (q : Nat) (h : Fld) : (s.resched d c).get q h = s.get q h := rfl
@[simp] theorem State.resched_bit (d : Nat) (c : Instr) (q : Nat) (h : Fld) : (s.resched d c).bit q h = s.bit q h := rfl
@[simp] theorem State.resched_bitOf (d : Nat) (c : Instr) (q : Nat) (h : Fld) (i : Nat) : (s.resched d c).bitOf q h i = s.bitOf q h i := rfl
@[simp] theorem State.resched_enabled (d : Nat) (c : Instr) (q : Nat) : (s.resched d c).enabled q = s.enabled q := rfl
@[simp] theorem State.resched_coreUp (d : Nat) (c : Instr) : (s.resched d c).coreUp = s.coreUp := rfl
@[simp] theorem State.resched_coreRuns (d : Nat) (c : Instr) : (s.resched d c).coreRuns = s.coreRuns := rfl

@[simp] theorem State.fire_pending (u : CmpUser) (l : Bool) : (s.fire u l).pending = s.pending := rfl
@[simp] theorem State.fire_now (u : CmpUser) (l : Bool) : (s.fire u l).now = s.now := rfl
@[simp] theorem State.fire_regs (u : CmpUser) (l : Bool) : (s.fire u l).regs = s.regs := rfl
@[simp] theorem State.fire_regPsn (u : CmpUser) (l : Bool) : (s.fire u l).regPsn = s.regPsn := rfl
@[simp] theorem State.fire_crcHeld (u : CmpUser) (l : Bool) : (s.fire u l).crcHeld = s.crcHeld := rfl
@[simp] theorem State.fire_sram (u : CmpUser) (l : Bool) : (s.fire u l).sram = s.sram := rfl
@[simp] theorem State.fire_parity (u : CmpUser) (l : Bool) : (s.fire u l).parity = s.parity := rfl
@[simp] theorem State.fire_free (u : CmpUser) (l : Bool) : (s.fire u l).free = s.free := rfl
@[simp] theorem State.fire_cmps (u : CmpUser) (l : Bool) : (s.fire u l).cmps = s.cmps := rfl
@[simp] theorem State.fire_ang (u : CmpUser) (l : Bool) : (s.fire u l).ang = s.ang := rfl
@[simp] theorem State.fire_deliveries (u : CmpUser) (l : Bool) : (s.fire u l).deliveries = s.deliveries := rfl
@[simp] theorem State.fire_mch (u : CmpUser) (l : Bool) : (s.fire u l).mch = s.mch := rfl
@[simp] theorem State.fire_scoQueue (u : CmpUser) (l : Bool) : (s.fire u l).scoQueue = s.scoQueue := rfl
@[simp] theorem State.fire_flt (u : CmpUser) (l : Bool) : (s.fire u l).flt = s.flt := rfl
@[simp] theorem State.fire_hpt (u : CmpUser) (l : Bool) : (s.fire u l).hpt = s.hpt := rfl
@[simp] theorem State.fire_scb (u : CmpUser) (l : Bool) : (s.fire u l).scb = s.scb := rfl
@[simp] theorem State.fire_poisonEdge (u : CmpUser) (l : Bool) : (s.fire u l).poisonEdge = s.poisonEdge := rfl
@[simp] theorem State.fire_codecInj (u : CmpUser) (l : Bool) : (s.fire u l).codecInj = s.codecInj := rfl
@[simp] theorem State.fire_memPhase (u : CmpUser) (l : Bool) : (s.fire u l).memPhase = s.memPhase := rfl
@[simp] theorem State.fire_bistBank (u : CmpUser) (l : Bool) : (s.fire u l).bistBank = s.bistBank := rfl
@[simp] theorem State.fire_cku (u : CmpUser) (l : Bool) : (s.fire u l).cku = s.cku := rfl
@[simp] theorem State.fire_pwr (u : CmpUser) (l : Bool) : (s.fire u l).pwr = s.pwr := rfl
@[simp] theorem State.fire_ctxs (u : CmpUser) (l : Bool) : (s.fire u l).ctxs = s.ctxs := rfl
@[simp] theorem State.fire_txc (u : CmpUser) (l : Bool) : (s.fire u l).txc = s.txc := rfl
@[simp] theorem State.fire_wingEnds (u : CmpUser) (l : Bool) : (s.fire u l).wingEnds = s.wingEnds := rfl
@[simp] theorem State.fire_rxc (u : CmpUser) (l : Bool) : (s.fire u l).rxc = s.rxc := rfl
@[simp] theorem State.fire_timers (u : CmpUser) (l : Bool) : (s.fire u l).timers = s.timers := rfl
@[simp] theorem State.fire_xmp (u : CmpUser) (l : Bool) : (s.fire u l).xmp = s.xmp := rfl
@[simp] theorem State.fire_engs (u : CmpUser) (l : Bool) : (s.fire u l).engs = s.engs := rfl
@[simp] theorem State.fire_inv (u : CmpUser) (l : Bool) : (s.fire u l).inv = s.inv := rfl
@[simp] theorem State.fire_rates (u : CmpUser) (l : Bool) : (s.fire u l).rates = s.rates := rfl
@[simp] theorem State.fire_kbz (u : CmpUser) (l : Bool) : (s.fire u l).kbz = s.kbz := rfl
@[simp] theorem State.fire_lockMism (u : CmpUser) (l : Bool) : (s.fire u l).lockMism = s.lockMism := rfl
@[simp] theorem State.fire_slot (u : CmpUser) (l : Bool) : (s.fire u l).slot = s.slot := rfl
@[simp] theorem State.fire_fires (u : CmpUser) (l : Bool) : (s.fire u l).fires = s.fires := rfl
@[simp] theorem State.fire_trig (u : CmpUser) (l : Bool) : (s.fire u l).trig = s.trig := rfl
@[simp] theorem State.fire_cal (u : CmpUser) (l : Bool) : (s.fire u l).cal = s.cal := rfl
@[simp] theorem State.fire_sco (u : CmpUser) (l : Bool) : (s.fire u l).sco = s.sco := rfl
@[simp] theorem State.fire_pins (u : CmpUser) (l : Bool) : (s.fire u l).pins = s.pins := rfl
@[simp] theorem State.fire_edge (u : CmpUser) (l : Bool) : (s.fire u l).edge = s.edge := rfl
@[simp] theorem State.fire_touch (u : CmpUser) (l : Bool) : (s.fire u l).touch = s.touch := rfl
@[simp] theorem State.fire_resetting (u : CmpUser) (l : Bool) : (s.fire u l).resetting = s.resetting := rfl
@[simp] theorem State.fire_mirror (u : CmpUser) (l : Bool) : (s.fire u l).mirror = s.mirror := rfl
@[simp] theorem State.fire_reg (u : CmpUser) (l : Bool) (q o : Nat) : (s.fire u l).reg q o = s.reg q o := rfl
@[simp] theorem State.fire_get (u : CmpUser) (l : Bool) (q : Nat) (h : Fld) : (s.fire u l).get q h = s.get q h := rfl
@[simp] theorem State.fire_bit (u : CmpUser) (l : Bool) (q : Nat) (h : Fld) : (s.fire u l).bit q h = s.bit q h := rfl
@[simp] theorem State.fire_bitOf (u : CmpUser) (l : Bool) (q : Nat) (h : Fld) (i : Nat) : (s.fire u l).bitOf q h i = s.bitOf q h i := rfl
@[simp] theorem State.fire_enabled (u : CmpUser) (l : Bool) (q : Nat) : (s.fire u l).enabled q = s.enabled q := rfl
@[simp] theorem State.fire_coreUp (u : CmpUser) (l : Bool) : (s.fire u l).coreUp = s.coreUp := rfl
@[simp] theorem State.fire_coreRuns (u : CmpUser) (l : Bool) : (s.fire u l).coreRuns = s.coreRuns := rfl

@[simp] theorem State.nextFree_pending : (s.nextFree).pending = s.pending := rfl
@[simp] theorem State.nextFree_now : (s.nextFree).now = s.now := rfl
@[simp] theorem State.nextFree_agenda : (s.nextFree).agenda = s.agenda := rfl
@[simp] theorem State.nextFree_regs : (s.nextFree).regs = s.regs := rfl
@[simp] theorem State.nextFree_regPsn : (s.nextFree).regPsn = s.regPsn := rfl
@[simp] theorem State.nextFree_crcHeld : (s.nextFree).crcHeld = s.crcHeld := rfl
@[simp] theorem State.nextFree_sram : (s.nextFree).sram = s.sram := rfl
@[simp] theorem State.nextFree_parity : (s.nextFree).parity = s.parity := rfl
@[simp] theorem State.nextFree_cmps : (s.nextFree).cmps = s.cmps := rfl
@[simp] theorem State.nextFree_ang : (s.nextFree).ang = s.ang := rfl
@[simp] theorem State.nextFree_deliveries : (s.nextFree).deliveries = s.deliveries := rfl
@[simp] theorem State.nextFree_mch : (s.nextFree).mch = s.mch := rfl
@[simp] theorem State.nextFree_scoQueue : (s.nextFree).scoQueue = s.scoQueue := rfl
@[simp] theorem State.nextFree_flt : (s.nextFree).flt = s.flt := rfl
@[simp] theorem State.nextFree_hpt : (s.nextFree).hpt = s.hpt := rfl
@[simp] theorem State.nextFree_scb : (s.nextFree).scb = s.scb := rfl
@[simp] theorem State.nextFree_poisonEdge : (s.nextFree).poisonEdge = s.poisonEdge := rfl
@[simp] theorem State.nextFree_codecInj : (s.nextFree).codecInj = s.codecInj := rfl
@[simp] theorem State.nextFree_memPhase : (s.nextFree).memPhase = s.memPhase := rfl
@[simp] theorem State.nextFree_bistBank : (s.nextFree).bistBank = s.bistBank := rfl
@[simp] theorem State.nextFree_cku : (s.nextFree).cku = s.cku := rfl
@[simp] theorem State.nextFree_pwr : (s.nextFree).pwr = s.pwr := rfl
@[simp] theorem State.nextFree_ctxs : (s.nextFree).ctxs = s.ctxs := rfl
@[simp] theorem State.nextFree_txc : (s.nextFree).txc = s.txc := rfl
@[simp] theorem State.nextFree_wingEnds : (s.nextFree).wingEnds = s.wingEnds := rfl
@[simp] theorem State.nextFree_rxc : (s.nextFree).rxc = s.rxc := rfl
@[simp] theorem State.nextFree_timers : (s.nextFree).timers = s.timers := rfl
@[simp] theorem State.nextFree_xmp : (s.nextFree).xmp = s.xmp := rfl
@[simp] theorem State.nextFree_engs : (s.nextFree).engs = s.engs := rfl
@[simp] theorem State.nextFree_inv : (s.nextFree).inv = s.inv := rfl
@[simp] theorem State.nextFree_rates : (s.nextFree).rates = s.rates := rfl
@[simp] theorem State.nextFree_kbz : (s.nextFree).kbz = s.kbz := rfl
@[simp] theorem State.nextFree_lockMism : (s.nextFree).lockMism = s.lockMism := rfl
@[simp] theorem State.nextFree_slot : (s.nextFree).slot = s.slot := rfl
@[simp] theorem State.nextFree_fires : (s.nextFree).fires = s.fires := rfl
@[simp] theorem State.nextFree_trig : (s.nextFree).trig = s.trig := rfl
@[simp] theorem State.nextFree_cal : (s.nextFree).cal = s.cal := rfl
@[simp] theorem State.nextFree_sco : (s.nextFree).sco = s.sco := rfl
@[simp] theorem State.nextFree_pins : (s.nextFree).pins = s.pins := rfl
@[simp] theorem State.nextFree_edge : (s.nextFree).edge = s.edge := rfl
@[simp] theorem State.nextFree_touch : (s.nextFree).touch = s.touch := rfl
@[simp] theorem State.nextFree_resetting : (s.nextFree).resetting = s.resetting := rfl
@[simp] theorem State.nextFree_mirror : (s.nextFree).mirror = s.mirror := rfl
@[simp] theorem State.nextFree_reg (q o : Nat) : (s.nextFree).reg q o = s.reg q o := rfl
@[simp] theorem State.nextFree_get (q : Nat) (h : Fld) : (s.nextFree).get q h = s.get q h := rfl
@[simp] theorem State.nextFree_bit (q : Nat) (h : Fld) : (s.nextFree).bit q h = s.bit q h := rfl
@[simp] theorem State.nextFree_bitOf (q : Nat) (h : Fld) (i : Nat) : (s.nextFree).bitOf q h i = s.bitOf q h i := rfl
@[simp] theorem State.nextFree_enabled (q : Nat) : (s.nextFree).enabled q = s.enabled q := rfl
@[simp] theorem State.nextFree_coreUp : (s.nextFree).coreUp = s.coreUp := rfl
@[simp] theorem State.nextFree_coreRuns : (s.nextFree).coreRuns = s.coreRuns := rfl

@[simp] theorem State.disarm_pending (u : CmpUser) : (s.disarm u).pending = s.pending := rfl
@[simp] theorem State.disarm_now (u : CmpUser) : (s.disarm u).now = s.now := rfl
@[simp] theorem State.disarm_agenda (u : CmpUser) : (s.disarm u).agenda = s.agenda := rfl
@[simp] theorem State.disarm_regs (u : CmpUser) : (s.disarm u).regs = s.regs := rfl
@[simp] theorem State.disarm_regPsn (u : CmpUser) : (s.disarm u).regPsn = s.regPsn := rfl
@[simp] theorem State.disarm_crcHeld (u : CmpUser) : (s.disarm u).crcHeld = s.crcHeld := rfl
@[simp] theorem State.disarm_sram (u : CmpUser) : (s.disarm u).sram = s.sram := rfl
@[simp] theorem State.disarm_parity (u : CmpUser) : (s.disarm u).parity = s.parity := rfl
@[simp] theorem State.disarm_free (u : CmpUser) : (s.disarm u).free = s.free := rfl
@[simp] theorem State.disarm_ang (u : CmpUser) : (s.disarm u).ang = s.ang := rfl
@[simp] theorem State.disarm_deliveries (u : CmpUser) : (s.disarm u).deliveries = s.deliveries := rfl
@[simp] theorem State.disarm_mch (u : CmpUser) : (s.disarm u).mch = s.mch := rfl
@[simp] theorem State.disarm_scoQueue (u : CmpUser) : (s.disarm u).scoQueue = s.scoQueue := rfl
@[simp] theorem State.disarm_flt (u : CmpUser) : (s.disarm u).flt = s.flt := rfl
@[simp] theorem State.disarm_hpt (u : CmpUser) : (s.disarm u).hpt = s.hpt := rfl
@[simp] theorem State.disarm_scb (u : CmpUser) : (s.disarm u).scb = s.scb := rfl
@[simp] theorem State.disarm_poisonEdge (u : CmpUser) : (s.disarm u).poisonEdge = s.poisonEdge := rfl
@[simp] theorem State.disarm_codecInj (u : CmpUser) : (s.disarm u).codecInj = s.codecInj := rfl
@[simp] theorem State.disarm_memPhase (u : CmpUser) : (s.disarm u).memPhase = s.memPhase := rfl
@[simp] theorem State.disarm_bistBank (u : CmpUser) : (s.disarm u).bistBank = s.bistBank := rfl
@[simp] theorem State.disarm_cku (u : CmpUser) : (s.disarm u).cku = s.cku := rfl
@[simp] theorem State.disarm_pwr (u : CmpUser) : (s.disarm u).pwr = s.pwr := rfl
@[simp] theorem State.disarm_ctxs (u : CmpUser) : (s.disarm u).ctxs = s.ctxs := rfl
@[simp] theorem State.disarm_txc (u : CmpUser) : (s.disarm u).txc = s.txc := rfl
@[simp] theorem State.disarm_wingEnds (u : CmpUser) : (s.disarm u).wingEnds = s.wingEnds := rfl
@[simp] theorem State.disarm_rxc (u : CmpUser) : (s.disarm u).rxc = s.rxc := rfl
@[simp] theorem State.disarm_timers (u : CmpUser) : (s.disarm u).timers = s.timers := rfl
@[simp] theorem State.disarm_xmp (u : CmpUser) : (s.disarm u).xmp = s.xmp := rfl
@[simp] theorem State.disarm_engs (u : CmpUser) : (s.disarm u).engs = s.engs := rfl
@[simp] theorem State.disarm_inv (u : CmpUser) : (s.disarm u).inv = s.inv := rfl
@[simp] theorem State.disarm_rates (u : CmpUser) : (s.disarm u).rates = s.rates := rfl
@[simp] theorem State.disarm_kbz (u : CmpUser) : (s.disarm u).kbz = s.kbz := rfl
@[simp] theorem State.disarm_lockMism (u : CmpUser) : (s.disarm u).lockMism = s.lockMism := rfl
@[simp] theorem State.disarm_slot (u : CmpUser) : (s.disarm u).slot = s.slot := rfl
@[simp] theorem State.disarm_fires (u : CmpUser) : (s.disarm u).fires = s.fires := rfl
@[simp] theorem State.disarm_trig (u : CmpUser) : (s.disarm u).trig = s.trig := rfl
@[simp] theorem State.disarm_cal (u : CmpUser) : (s.disarm u).cal = s.cal := rfl
@[simp] theorem State.disarm_sco (u : CmpUser) : (s.disarm u).sco = s.sco := rfl
@[simp] theorem State.disarm_pins (u : CmpUser) : (s.disarm u).pins = s.pins := rfl
@[simp] theorem State.disarm_edge (u : CmpUser) : (s.disarm u).edge = s.edge := rfl
@[simp] theorem State.disarm_touch (u : CmpUser) : (s.disarm u).touch = s.touch := rfl
@[simp] theorem State.disarm_resetting (u : CmpUser) : (s.disarm u).resetting = s.resetting := rfl
@[simp] theorem State.disarm_mirror (u : CmpUser) : (s.disarm u).mirror = s.mirror := rfl
@[simp] theorem State.disarm_reg (u : CmpUser) (q o : Nat) : (s.disarm u).reg q o = s.reg q o := rfl
@[simp] theorem State.disarm_get (u : CmpUser) (q : Nat) (h : Fld) : (s.disarm u).get q h = s.get q h := rfl
@[simp] theorem State.disarm_bit (u : CmpUser) (q : Nat) (h : Fld) : (s.disarm u).bit q h = s.bit q h := rfl
@[simp] theorem State.disarm_bitOf (u : CmpUser) (q : Nat) (h : Fld) (i : Nat) : (s.disarm u).bitOf q h i = s.bitOf q h i := rfl
@[simp] theorem State.disarm_enabled (u : CmpUser) (q : Nat) : (s.disarm u).enabled q = s.enabled q := rfl
@[simp] theorem State.disarm_coreUp (u : CmpUser) : (s.disarm u).coreUp = s.coreUp := rfl
@[simp] theorem State.disarm_coreRuns (u : CmpUser) : (s.disarm u).coreRuns = s.coreRuns := rfl

@[simp] theorem State.withAng_pending (g : Ang → Ang) : (s.withAng g).pending = s.pending := rfl
@[simp] theorem State.withAng_now (g : Ang → Ang) : (s.withAng g).now = s.now := rfl
@[simp] theorem State.withAng_agenda (g : Ang → Ang) : (s.withAng g).agenda = s.agenda := rfl
@[simp] theorem State.withAng_regs (g : Ang → Ang) : (s.withAng g).regs = s.regs := rfl
@[simp] theorem State.withAng_regPsn (g : Ang → Ang) : (s.withAng g).regPsn = s.regPsn := rfl
@[simp] theorem State.withAng_crcHeld (g : Ang → Ang) : (s.withAng g).crcHeld = s.crcHeld := rfl
@[simp] theorem State.withAng_sram (g : Ang → Ang) : (s.withAng g).sram = s.sram := rfl
@[simp] theorem State.withAng_parity (g : Ang → Ang) : (s.withAng g).parity = s.parity := rfl
@[simp] theorem State.withAng_free (g : Ang → Ang) : (s.withAng g).free = s.free := rfl
@[simp] theorem State.withAng_cmps (g : Ang → Ang) : (s.withAng g).cmps = s.cmps := rfl
@[simp] theorem State.withAng_deliveries (g : Ang → Ang) : (s.withAng g).deliveries = s.deliveries := rfl
@[simp] theorem State.withAng_mch (g : Ang → Ang) : (s.withAng g).mch = s.mch := rfl
@[simp] theorem State.withAng_scoQueue (g : Ang → Ang) : (s.withAng g).scoQueue = s.scoQueue := rfl
@[simp] theorem State.withAng_flt (g : Ang → Ang) : (s.withAng g).flt = s.flt := rfl
@[simp] theorem State.withAng_hpt (g : Ang → Ang) : (s.withAng g).hpt = s.hpt := rfl
@[simp] theorem State.withAng_scb (g : Ang → Ang) : (s.withAng g).scb = s.scb := rfl
@[simp] theorem State.withAng_poisonEdge (g : Ang → Ang) : (s.withAng g).poisonEdge = s.poisonEdge := rfl
@[simp] theorem State.withAng_codecInj (g : Ang → Ang) : (s.withAng g).codecInj = s.codecInj := rfl
@[simp] theorem State.withAng_memPhase (g : Ang → Ang) : (s.withAng g).memPhase = s.memPhase := rfl
@[simp] theorem State.withAng_bistBank (g : Ang → Ang) : (s.withAng g).bistBank = s.bistBank := rfl
@[simp] theorem State.withAng_cku (g : Ang → Ang) : (s.withAng g).cku = s.cku := rfl
@[simp] theorem State.withAng_pwr (g : Ang → Ang) : (s.withAng g).pwr = s.pwr := rfl
@[simp] theorem State.withAng_ctxs (g : Ang → Ang) : (s.withAng g).ctxs = s.ctxs := rfl
@[simp] theorem State.withAng_txc (g : Ang → Ang) : (s.withAng g).txc = s.txc := rfl
@[simp] theorem State.withAng_wingEnds (g : Ang → Ang) : (s.withAng g).wingEnds = s.wingEnds := rfl
@[simp] theorem State.withAng_rxc (g : Ang → Ang) : (s.withAng g).rxc = s.rxc := rfl
@[simp] theorem State.withAng_timers (g : Ang → Ang) : (s.withAng g).timers = s.timers := rfl
@[simp] theorem State.withAng_xmp (g : Ang → Ang) : (s.withAng g).xmp = s.xmp := rfl
@[simp] theorem State.withAng_engs (g : Ang → Ang) : (s.withAng g).engs = s.engs := rfl
@[simp] theorem State.withAng_inv (g : Ang → Ang) : (s.withAng g).inv = s.inv := rfl
@[simp] theorem State.withAng_rates (g : Ang → Ang) : (s.withAng g).rates = s.rates := rfl
@[simp] theorem State.withAng_kbz (g : Ang → Ang) : (s.withAng g).kbz = s.kbz := rfl
@[simp] theorem State.withAng_lockMism (g : Ang → Ang) : (s.withAng g).lockMism = s.lockMism := rfl
@[simp] theorem State.withAng_slot (g : Ang → Ang) : (s.withAng g).slot = s.slot := rfl
@[simp] theorem State.withAng_fires (g : Ang → Ang) : (s.withAng g).fires = s.fires := rfl
@[simp] theorem State.withAng_trig (g : Ang → Ang) : (s.withAng g).trig = s.trig := rfl
@[simp] theorem State.withAng_cal (g : Ang → Ang) : (s.withAng g).cal = s.cal := rfl
@[simp] theorem State.withAng_sco (g : Ang → Ang) : (s.withAng g).sco = s.sco := rfl
@[simp] theorem State.withAng_pins (g : Ang → Ang) : (s.withAng g).pins = s.pins := rfl
@[simp] theorem State.withAng_edge (g : Ang → Ang) : (s.withAng g).edge = s.edge := rfl
@[simp] theorem State.withAng_touch (g : Ang → Ang) : (s.withAng g).touch = s.touch := rfl
@[simp] theorem State.withAng_resetting (g : Ang → Ang) : (s.withAng g).resetting = s.resetting := rfl
@[simp] theorem State.withAng_mirror (g : Ang → Ang) : (s.withAng g).mirror = s.mirror := rfl
@[simp] theorem State.withAng_reg (g : Ang → Ang) (q o : Nat) : (s.withAng g).reg q o = s.reg q o := rfl
@[simp] theorem State.withAng_get (g : Ang → Ang) (q : Nat) (h : Fld) : (s.withAng g).get q h = s.get q h := rfl
@[simp] theorem State.withAng_bit (g : Ang → Ang) (q : Nat) (h : Fld) : (s.withAng g).bit q h = s.bit q h := rfl
@[simp] theorem State.withAng_bitOf (g : Ang → Ang) (q : Nat) (h : Fld) (i : Nat) : (s.withAng g).bitOf q h i = s.bitOf q h i := rfl
@[simp] theorem State.withAng_enabled (g : Ang → Ang) (q : Nat) : (s.withAng g).enabled q = s.enabled q := rfl
@[simp] theorem State.withAng_coreUp (g : Ang → Ang) : (s.withAng g).coreUp = s.coreUp := rfl
@[simp] theorem State.withAng_coreRuns (g : Ang → Ang) : (s.withAng g).coreRuns = s.coreRuns := rfl

@[simp] theorem State.setAcc_pending (a : Nat) : (s.setAcc a).pending = s.pending := rfl
@[simp] theorem State.setAcc_now (a : Nat) : (s.setAcc a).now = s.now := rfl
@[simp] theorem State.setAcc_agenda (a : Nat) : (s.setAcc a).agenda = s.agenda := rfl
@[simp] theorem State.setAcc_regs (a : Nat) : (s.setAcc a).regs = s.regs := rfl
@[simp] theorem State.setAcc_regPsn (a : Nat) : (s.setAcc a).regPsn = s.regPsn := rfl
@[simp] theorem State.setAcc_crcHeld (a : Nat) : (s.setAcc a).crcHeld = s.crcHeld := rfl
@[simp] theorem State.setAcc_sram (a : Nat) : (s.setAcc a).sram = s.sram := rfl
@[simp] theorem State.setAcc_parity (a : Nat) : (s.setAcc a).parity = s.parity := rfl
@[simp] theorem State.setAcc_free (a : Nat) : (s.setAcc a).free = s.free := rfl
@[simp] theorem State.setAcc_cmps (a : Nat) : (s.setAcc a).cmps = s.cmps := rfl
@[simp] theorem State.setAcc_deliveries (a : Nat) : (s.setAcc a).deliveries = s.deliveries := rfl
@[simp] theorem State.setAcc_mch (a : Nat) : (s.setAcc a).mch = s.mch := rfl
@[simp] theorem State.setAcc_scoQueue (a : Nat) : (s.setAcc a).scoQueue = s.scoQueue := rfl
@[simp] theorem State.setAcc_flt (a : Nat) : (s.setAcc a).flt = s.flt := rfl
@[simp] theorem State.setAcc_hpt (a : Nat) : (s.setAcc a).hpt = s.hpt := rfl
@[simp] theorem State.setAcc_scb (a : Nat) : (s.setAcc a).scb = s.scb := rfl
@[simp] theorem State.setAcc_poisonEdge (a : Nat) : (s.setAcc a).poisonEdge = s.poisonEdge := rfl
@[simp] theorem State.setAcc_codecInj (a : Nat) : (s.setAcc a).codecInj = s.codecInj := rfl
@[simp] theorem State.setAcc_memPhase (a : Nat) : (s.setAcc a).memPhase = s.memPhase := rfl
@[simp] theorem State.setAcc_bistBank (a : Nat) : (s.setAcc a).bistBank = s.bistBank := rfl
@[simp] theorem State.setAcc_cku (a : Nat) : (s.setAcc a).cku = s.cku := rfl
@[simp] theorem State.setAcc_pwr (a : Nat) : (s.setAcc a).pwr = s.pwr := rfl
@[simp] theorem State.setAcc_ctxs (a : Nat) : (s.setAcc a).ctxs = s.ctxs := rfl
@[simp] theorem State.setAcc_txc (a : Nat) : (s.setAcc a).txc = s.txc := rfl
@[simp] theorem State.setAcc_wingEnds (a : Nat) : (s.setAcc a).wingEnds = s.wingEnds := rfl
@[simp] theorem State.setAcc_rxc (a : Nat) : (s.setAcc a).rxc = s.rxc := rfl
@[simp] theorem State.setAcc_timers (a : Nat) : (s.setAcc a).timers = s.timers := rfl
@[simp] theorem State.setAcc_xmp (a : Nat) : (s.setAcc a).xmp = s.xmp := rfl
@[simp] theorem State.setAcc_engs (a : Nat) : (s.setAcc a).engs = s.engs := rfl
@[simp] theorem State.setAcc_inv (a : Nat) : (s.setAcc a).inv = s.inv := rfl
@[simp] theorem State.setAcc_rates (a : Nat) : (s.setAcc a).rates = s.rates := rfl
@[simp] theorem State.setAcc_kbz (a : Nat) : (s.setAcc a).kbz = s.kbz := rfl
@[simp] theorem State.setAcc_lockMism (a : Nat) : (s.setAcc a).lockMism = s.lockMism := rfl
@[simp] theorem State.setAcc_slot (a : Nat) : (s.setAcc a).slot = s.slot := rfl
@[simp] theorem State.setAcc_fires (a : Nat) : (s.setAcc a).fires = s.fires := rfl
@[simp] theorem State.setAcc_trig (a : Nat) : (s.setAcc a).trig = s.trig := rfl
@[simp] theorem State.setAcc_cal (a : Nat) : (s.setAcc a).cal = s.cal := rfl
@[simp] theorem State.setAcc_sco (a : Nat) : (s.setAcc a).sco = s.sco := rfl
@[simp] theorem State.setAcc_pins (a : Nat) : (s.setAcc a).pins = s.pins := rfl
@[simp] theorem State.setAcc_edge (a : Nat) : (s.setAcc a).edge = s.edge := rfl
@[simp] theorem State.setAcc_touch (a : Nat) : (s.setAcc a).touch = s.touch := rfl
@[simp] theorem State.setAcc_resetting (a : Nat) : (s.setAcc a).resetting = s.resetting := rfl
@[simp] theorem State.setAcc_mirror (a : Nat) : (s.setAcc a).mirror = s.mirror := rfl
@[simp] theorem State.setAcc_reg (a : Nat) (q o : Nat) : (s.setAcc a).reg q o = s.reg q o := rfl
@[simp] theorem State.setAcc_get (a : Nat) (q : Nat) (h : Fld) : (s.setAcc a).get q h = s.get q h := rfl
@[simp] theorem State.setAcc_bit (a : Nat) (q : Nat) (h : Fld) : (s.setAcc a).bit q h = s.bit q h := rfl
@[simp] theorem State.setAcc_bitOf (a : Nat) (q : Nat) (h : Fld) (i : Nat) : (s.setAcc a).bitOf q h i = s.bitOf q h i := rfl
@[simp] theorem State.setAcc_enabled (a : Nat) (q : Nat) : (s.setAcc a).enabled q = s.enabled q := rfl
@[simp] theorem State.setAcc_coreUp (a : Nat) : (s.setAcc a).coreUp = s.coreUp := rfl
@[simp] theorem State.setAcc_coreRuns (a : Nat) : (s.setAcc a).coreRuns = s.coreRuns := rfl

@[simp] theorem State.withMch_pending (g : Mch → Mch) : (s.withMch g).pending = s.pending := rfl
@[simp] theorem State.withMch_now (g : Mch → Mch) : (s.withMch g).now = s.now := rfl
@[simp] theorem State.withMch_agenda (g : Mch → Mch) : (s.withMch g).agenda = s.agenda := rfl
@[simp] theorem State.withMch_regs (g : Mch → Mch) : (s.withMch g).regs = s.regs := rfl
@[simp] theorem State.withMch_regPsn (g : Mch → Mch) : (s.withMch g).regPsn = s.regPsn := rfl
@[simp] theorem State.withMch_crcHeld (g : Mch → Mch) : (s.withMch g).crcHeld = s.crcHeld := rfl
@[simp] theorem State.withMch_sram (g : Mch → Mch) : (s.withMch g).sram = s.sram := rfl
@[simp] theorem State.withMch_parity (g : Mch → Mch) : (s.withMch g).parity = s.parity := rfl
@[simp] theorem State.withMch_free (g : Mch → Mch) : (s.withMch g).free = s.free := rfl
@[simp] theorem State.withMch_cmps (g : Mch → Mch) : (s.withMch g).cmps = s.cmps := rfl
@[simp] theorem State.withMch_ang (g : Mch → Mch) : (s.withMch g).ang = s.ang := rfl
@[simp] theorem State.withMch_deliveries (g : Mch → Mch) : (s.withMch g).deliveries = s.deliveries := rfl
@[simp] theorem State.withMch_scoQueue (g : Mch → Mch) : (s.withMch g).scoQueue = s.scoQueue := rfl
@[simp] theorem State.withMch_flt (g : Mch → Mch) : (s.withMch g).flt = s.flt := rfl
@[simp] theorem State.withMch_hpt (g : Mch → Mch) : (s.withMch g).hpt = s.hpt := rfl
@[simp] theorem State.withMch_scb (g : Mch → Mch) : (s.withMch g).scb = s.scb := rfl
@[simp] theorem State.withMch_poisonEdge (g : Mch → Mch) : (s.withMch g).poisonEdge = s.poisonEdge := rfl
@[simp] theorem State.withMch_codecInj (g : Mch → Mch) : (s.withMch g).codecInj = s.codecInj := rfl
@[simp] theorem State.withMch_memPhase (g : Mch → Mch) : (s.withMch g).memPhase = s.memPhase := rfl
@[simp] theorem State.withMch_bistBank (g : Mch → Mch) : (s.withMch g).bistBank = s.bistBank := rfl
@[simp] theorem State.withMch_cku (g : Mch → Mch) : (s.withMch g).cku = s.cku := rfl
@[simp] theorem State.withMch_pwr (g : Mch → Mch) : (s.withMch g).pwr = s.pwr := rfl
@[simp] theorem State.withMch_ctxs (g : Mch → Mch) : (s.withMch g).ctxs = s.ctxs := rfl
@[simp] theorem State.withMch_txc (g : Mch → Mch) : (s.withMch g).txc = s.txc := rfl
@[simp] theorem State.withMch_wingEnds (g : Mch → Mch) : (s.withMch g).wingEnds = s.wingEnds := rfl
@[simp] theorem State.withMch_rxc (g : Mch → Mch) : (s.withMch g).rxc = s.rxc := rfl
@[simp] theorem State.withMch_timers (g : Mch → Mch) : (s.withMch g).timers = s.timers := rfl
@[simp] theorem State.withMch_xmp (g : Mch → Mch) : (s.withMch g).xmp = s.xmp := rfl
@[simp] theorem State.withMch_engs (g : Mch → Mch) : (s.withMch g).engs = s.engs := rfl
@[simp] theorem State.withMch_inv (g : Mch → Mch) : (s.withMch g).inv = s.inv := rfl
@[simp] theorem State.withMch_rates (g : Mch → Mch) : (s.withMch g).rates = s.rates := rfl
@[simp] theorem State.withMch_kbz (g : Mch → Mch) : (s.withMch g).kbz = s.kbz := rfl
@[simp] theorem State.withMch_lockMism (g : Mch → Mch) : (s.withMch g).lockMism = s.lockMism := rfl
@[simp] theorem State.withMch_slot (g : Mch → Mch) : (s.withMch g).slot = s.slot := rfl
@[simp] theorem State.withMch_fires (g : Mch → Mch) : (s.withMch g).fires = s.fires := rfl
@[simp] theorem State.withMch_trig (g : Mch → Mch) : (s.withMch g).trig = s.trig := rfl
@[simp] theorem State.withMch_cal (g : Mch → Mch) : (s.withMch g).cal = s.cal := rfl
@[simp] theorem State.withMch_sco (g : Mch → Mch) : (s.withMch g).sco = s.sco := rfl
@[simp] theorem State.withMch_pins (g : Mch → Mch) : (s.withMch g).pins = s.pins := rfl
@[simp] theorem State.withMch_edge (g : Mch → Mch) : (s.withMch g).edge = s.edge := rfl
@[simp] theorem State.withMch_touch (g : Mch → Mch) : (s.withMch g).touch = s.touch := rfl
@[simp] theorem State.withMch_resetting (g : Mch → Mch) : (s.withMch g).resetting = s.resetting := rfl
@[simp] theorem State.withMch_mirror (g : Mch → Mch) : (s.withMch g).mirror = s.mirror := rfl
@[simp] theorem State.withMch_reg (g : Mch → Mch) (q o : Nat) : (s.withMch g).reg q o = s.reg q o := rfl
@[simp] theorem State.withMch_get (g : Mch → Mch) (q : Nat) (h : Fld) : (s.withMch g).get q h = s.get q h := rfl
@[simp] theorem State.withMch_bit (g : Mch → Mch) (q : Nat) (h : Fld) : (s.withMch g).bit q h = s.bit q h := rfl
@[simp] theorem State.withMch_bitOf (g : Mch → Mch) (q : Nat) (h : Fld) (i : Nat) : (s.withMch g).bitOf q h i = s.bitOf q h i := rfl
@[simp] theorem State.withMch_enabled (g : Mch → Mch) (q : Nat) : (s.withMch g).enabled q = s.enabled q := rfl
@[simp] theorem State.withMch_coreUp (g : Mch → Mch) : (s.withMch g).coreUp = s.coreUp := rfl
@[simp] theorem State.withMch_coreRuns (g : Mch → Mch) : (s.withMch g).coreRuns = s.coreRuns := rfl

@[simp] theorem State.withCtx_pending (c : Nat) (g : Ctx → Ctx) : (s.withCtx c g).pending = s.pending := rfl
@[simp] theorem State.withCtx_now (c : Nat) (g : Ctx → Ctx) : (s.withCtx c g).now = s.now := rfl
@[simp] theorem State.withCtx_agenda (c : Nat) (g : Ctx → Ctx) : (s.withCtx c g).agenda = s.agenda := rfl
@[simp] theorem State.withCtx_regs (c : Nat) (g : Ctx → Ctx) : (s.withCtx c g).regs = s.regs := rfl
@[simp] theorem State.withCtx_regPsn (c : Nat) (g : Ctx → Ctx) : (s.withCtx c g).regPsn = s.regPsn := rfl
@[simp] theorem State.withCtx_crcHeld (c : Nat) (g : Ctx → Ctx) : (s.withCtx c g).crcHeld = s.crcHeld := rfl
@[simp] theorem State.withCtx_sram (c : Nat) (g : Ctx → Ctx) : (s.withCtx c g).sram = s.sram := rfl
@[simp] theorem State.withCtx_parity (c : Nat) (g : Ctx → Ctx) : (s.withCtx c g).parity = s.parity := rfl
@[simp] theorem State.withCtx_free (c : Nat) (g : Ctx → Ctx) : (s.withCtx c g).free = s.free := rfl
@[simp] theorem State.withCtx_cmps (c : Nat) (g : Ctx → Ctx) : (s.withCtx c g).cmps = s.cmps := rfl
@[simp] theorem State.withCtx_ang (c : Nat) (g : Ctx → Ctx) : (s.withCtx c g).ang = s.ang := rfl
@[simp] theorem State.withCtx_deliveries (c : Nat) (g : Ctx → Ctx) : (s.withCtx c g).deliveries = s.deliveries := rfl
@[simp] theorem State.withCtx_mch (c : Nat) (g : Ctx → Ctx) : (s.withCtx c g).mch = s.mch := rfl
@[simp] theorem State.withCtx_scoQueue (c : Nat) (g : Ctx → Ctx) : (s.withCtx c g).scoQueue = s.scoQueue := rfl
@[simp] theorem State.withCtx_flt (c : Nat) (g : Ctx → Ctx) : (s.withCtx c g).flt = s.flt := rfl
@[simp] theorem State.withCtx_hpt (c : Nat) (g : Ctx → Ctx) : (s.withCtx c g).hpt = s.hpt := rfl
@[simp] theorem State.withCtx_scb (c : Nat) (g : Ctx → Ctx) : (s.withCtx c g).scb = s.scb := rfl
@[simp] theorem State.withCtx_poisonEdge (c : Nat) (g : Ctx → Ctx) : (s.withCtx c g).poisonEdge = s.poisonEdge := rfl
@[simp] theorem State.withCtx_codecInj (c : Nat) (g : Ctx → Ctx) : (s.withCtx c g).codecInj = s.codecInj := rfl
@[simp] theorem State.withCtx_memPhase (c : Nat) (g : Ctx → Ctx) : (s.withCtx c g).memPhase = s.memPhase := rfl
@[simp] theorem State.withCtx_bistBank (c : Nat) (g : Ctx → Ctx) : (s.withCtx c g).bistBank = s.bistBank := rfl
@[simp] theorem State.withCtx_cku (c : Nat) (g : Ctx → Ctx) : (s.withCtx c g).cku = s.cku := rfl
@[simp] theorem State.withCtx_pwr (c : Nat) (g : Ctx → Ctx) : (s.withCtx c g).pwr = s.pwr := rfl
@[simp] theorem State.withCtx_txc (c : Nat) (g : Ctx → Ctx) : (s.withCtx c g).txc = s.txc := rfl
@[simp] theorem State.withCtx_wingEnds (c : Nat) (g : Ctx → Ctx) : (s.withCtx c g).wingEnds = s.wingEnds := rfl
@[simp] theorem State.withCtx_rxc (c : Nat) (g : Ctx → Ctx) : (s.withCtx c g).rxc = s.rxc := rfl
@[simp] theorem State.withCtx_timers (c : Nat) (g : Ctx → Ctx) : (s.withCtx c g).timers = s.timers := rfl
@[simp] theorem State.withCtx_xmp (c : Nat) (g : Ctx → Ctx) : (s.withCtx c g).xmp = s.xmp := rfl
@[simp] theorem State.withCtx_engs (c : Nat) (g : Ctx → Ctx) : (s.withCtx c g).engs = s.engs := rfl
@[simp] theorem State.withCtx_inv (c : Nat) (g : Ctx → Ctx) : (s.withCtx c g).inv = s.inv := rfl
@[simp] theorem State.withCtx_rates (c : Nat) (g : Ctx → Ctx) : (s.withCtx c g).rates = s.rates := rfl
@[simp] theorem State.withCtx_kbz (c : Nat) (g : Ctx → Ctx) : (s.withCtx c g).kbz = s.kbz := rfl
@[simp] theorem State.withCtx_lockMism (c : Nat) (g : Ctx → Ctx) : (s.withCtx c g).lockMism = s.lockMism := rfl
@[simp] theorem State.withCtx_slot (c : Nat) (g : Ctx → Ctx) : (s.withCtx c g).slot = s.slot := rfl
@[simp] theorem State.withCtx_fires (c : Nat) (g : Ctx → Ctx) : (s.withCtx c g).fires = s.fires := rfl
@[simp] theorem State.withCtx_trig (c : Nat) (g : Ctx → Ctx) : (s.withCtx c g).trig = s.trig := rfl
@[simp] theorem State.withCtx_cal (c : Nat) (g : Ctx → Ctx) : (s.withCtx c g).cal = s.cal := rfl
@[simp] theorem State.withCtx_sco (c : Nat) (g : Ctx → Ctx) : (s.withCtx c g).sco = s.sco := rfl
@[simp] theorem State.withCtx_pins (c : Nat) (g : Ctx → Ctx) : (s.withCtx c g).pins = s.pins := rfl
@[simp] theorem State.withCtx_edge (c : Nat) (g : Ctx → Ctx) : (s.withCtx c g).edge = s.edge := rfl
@[simp] theorem State.withCtx_touch (c : Nat) (g : Ctx → Ctx) : (s.withCtx c g).touch = s.touch := rfl
@[simp] theorem State.withCtx_resetting (c : Nat) (g : Ctx → Ctx) : (s.withCtx c g).resetting = s.resetting := rfl
@[simp] theorem State.withCtx_mirror (c : Nat) (g : Ctx → Ctx) : (s.withCtx c g).mirror = s.mirror := rfl
@[simp] theorem State.withCtx_reg (c : Nat) (g : Ctx → Ctx) (q o : Nat) : (s.withCtx c g).reg q o = s.reg q o := rfl
@[simp] theorem State.withCtx_get (c : Nat) (g : Ctx → Ctx) (q : Nat) (h : Fld) : (s.withCtx c g).get q h = s.get q h := rfl
@[simp] theorem State.withCtx_bit (c : Nat) (g : Ctx → Ctx) (q : Nat) (h : Fld) : (s.withCtx c g).bit q h = s.bit q h := rfl
@[simp] theorem State.withCtx_bitOf (c : Nat) (g : Ctx → Ctx) (q : Nat) (h : Fld) (i : Nat) : (s.withCtx c g).bitOf q h i = s.bitOf q h i := rfl
@[simp] theorem State.withCtx_enabled (c : Nat) (g : Ctx → Ctx) (q : Nat) : (s.withCtx c g).enabled q = s.enabled q := rfl
@[simp] theorem State.withCtx_coreUp (c : Nat) (g : Ctx → Ctx) : (s.withCtx c g).coreUp = s.coreUp := rfl
@[simp] theorem State.withCtx_coreRuns (c : Nat) (g : Ctx → Ctx) : (s.withCtx c g).coreRuns = s.coreRuns := rfl

@[simp] theorem State.withPwr_pending (g : Pwr → Pwr) : (s.withPwr g).pending = s.pending := rfl
@[simp] theorem State.withPwr_now (g : Pwr → Pwr) : (s.withPwr g).now = s.now := rfl
@[simp] theorem State.withPwr_agenda (g : Pwr → Pwr) : (s.withPwr g).agenda = s.agenda := rfl
@[simp] theorem State.withPwr_regs (g : Pwr → Pwr) : (s.withPwr g).regs = s.regs := rfl
@[simp] theorem State.withPwr_regPsn (g : Pwr → Pwr) : (s.withPwr g).regPsn = s.regPsn := rfl
@[simp] theorem State.withPwr_crcHeld (g : Pwr → Pwr) : (s.withPwr g).crcHeld = s.crcHeld := rfl
@[simp] theorem State.withPwr_sram (g : Pwr → Pwr) : (s.withPwr g).sram = s.sram := rfl
@[simp] theorem State.withPwr_parity (g : Pwr → Pwr) : (s.withPwr g).parity = s.parity := rfl
@[simp] theorem State.withPwr_free (g : Pwr → Pwr) : (s.withPwr g).free = s.free := rfl
@[simp] theorem State.withPwr_cmps (g : Pwr → Pwr) : (s.withPwr g).cmps = s.cmps := rfl
@[simp] theorem State.withPwr_ang (g : Pwr → Pwr) : (s.withPwr g).ang = s.ang := rfl
@[simp] theorem State.withPwr_deliveries (g : Pwr → Pwr) : (s.withPwr g).deliveries = s.deliveries := rfl
@[simp] theorem State.withPwr_mch (g : Pwr → Pwr) : (s.withPwr g).mch = s.mch := rfl
@[simp] theorem State.withPwr_scoQueue (g : Pwr → Pwr) : (s.withPwr g).scoQueue = s.scoQueue := rfl
@[simp] theorem State.withPwr_flt (g : Pwr → Pwr) : (s.withPwr g).flt = s.flt := rfl
@[simp] theorem State.withPwr_hpt (g : Pwr → Pwr) : (s.withPwr g).hpt = s.hpt := rfl
@[simp] theorem State.withPwr_scb (g : Pwr → Pwr) : (s.withPwr g).scb = s.scb := rfl
@[simp] theorem State.withPwr_poisonEdge (g : Pwr → Pwr) : (s.withPwr g).poisonEdge = s.poisonEdge := rfl
@[simp] theorem State.withPwr_codecInj (g : Pwr → Pwr) : (s.withPwr g).codecInj = s.codecInj := rfl
@[simp] theorem State.withPwr_memPhase (g : Pwr → Pwr) : (s.withPwr g).memPhase = s.memPhase := rfl
@[simp] theorem State.withPwr_bistBank (g : Pwr → Pwr) : (s.withPwr g).bistBank = s.bistBank := rfl
@[simp] theorem State.withPwr_cku (g : Pwr → Pwr) : (s.withPwr g).cku = s.cku := rfl
@[simp] theorem State.withPwr_ctxs (g : Pwr → Pwr) : (s.withPwr g).ctxs = s.ctxs := rfl
@[simp] theorem State.withPwr_txc (g : Pwr → Pwr) : (s.withPwr g).txc = s.txc := rfl
@[simp] theorem State.withPwr_wingEnds (g : Pwr → Pwr) : (s.withPwr g).wingEnds = s.wingEnds := rfl
@[simp] theorem State.withPwr_rxc (g : Pwr → Pwr) : (s.withPwr g).rxc = s.rxc := rfl
@[simp] theorem State.withPwr_timers (g : Pwr → Pwr) : (s.withPwr g).timers = s.timers := rfl
@[simp] theorem State.withPwr_xmp (g : Pwr → Pwr) : (s.withPwr g).xmp = s.xmp := rfl
@[simp] theorem State.withPwr_engs (g : Pwr → Pwr) : (s.withPwr g).engs = s.engs := rfl
@[simp] theorem State.withPwr_inv (g : Pwr → Pwr) : (s.withPwr g).inv = s.inv := rfl
@[simp] theorem State.withPwr_rates (g : Pwr → Pwr) : (s.withPwr g).rates = s.rates := rfl
@[simp] theorem State.withPwr_kbz (g : Pwr → Pwr) : (s.withPwr g).kbz = s.kbz := rfl
@[simp] theorem State.withPwr_lockMism (g : Pwr → Pwr) : (s.withPwr g).lockMism = s.lockMism := rfl
@[simp] theorem State.withPwr_slot (g : Pwr → Pwr) : (s.withPwr g).slot = s.slot := rfl
@[simp] theorem State.withPwr_fires (g : Pwr → Pwr) : (s.withPwr g).fires = s.fires := rfl
@[simp] theorem State.withPwr_trig (g : Pwr → Pwr) : (s.withPwr g).trig = s.trig := rfl
@[simp] theorem State.withPwr_cal (g : Pwr → Pwr) : (s.withPwr g).cal = s.cal := rfl
@[simp] theorem State.withPwr_sco (g : Pwr → Pwr) : (s.withPwr g).sco = s.sco := rfl
@[simp] theorem State.withPwr_pins (g : Pwr → Pwr) : (s.withPwr g).pins = s.pins := rfl
@[simp] theorem State.withPwr_edge (g : Pwr → Pwr) : (s.withPwr g).edge = s.edge := rfl
@[simp] theorem State.withPwr_touch (g : Pwr → Pwr) : (s.withPwr g).touch = s.touch := rfl
@[simp] theorem State.withPwr_resetting (g : Pwr → Pwr) : (s.withPwr g).resetting = s.resetting := rfl
@[simp] theorem State.withPwr_mirror (g : Pwr → Pwr) : (s.withPwr g).mirror = s.mirror := rfl
@[simp] theorem State.withPwr_reg (g : Pwr → Pwr) (q o : Nat) : (s.withPwr g).reg q o = s.reg q o := rfl
@[simp] theorem State.withPwr_get (g : Pwr → Pwr) (q : Nat) (h : Fld) : (s.withPwr g).get q h = s.get q h := rfl
@[simp] theorem State.withPwr_bit (g : Pwr → Pwr) (q : Nat) (h : Fld) : (s.withPwr g).bit q h = s.bit q h := rfl
@[simp] theorem State.withPwr_bitOf (g : Pwr → Pwr) (q : Nat) (h : Fld) (i : Nat) : (s.withPwr g).bitOf q h i = s.bitOf q h i := rfl
@[simp] theorem State.withPwr_enabled (g : Pwr → Pwr) (q : Nat) : (s.withPwr g).enabled q = s.enabled q := rfl

@[simp] theorem State.withRail_pending (r : Nat) (g : Rail → Rail) : (s.withRail r g).pending = s.pending := rfl
@[simp] theorem State.withRail_now (r : Nat) (g : Rail → Rail) : (s.withRail r g).now = s.now := rfl
@[simp] theorem State.withRail_agenda (r : Nat) (g : Rail → Rail) : (s.withRail r g).agenda = s.agenda := rfl
@[simp] theorem State.withRail_regs (r : Nat) (g : Rail → Rail) : (s.withRail r g).regs = s.regs := rfl
@[simp] theorem State.withRail_regPsn (r : Nat) (g : Rail → Rail) : (s.withRail r g).regPsn = s.regPsn := rfl
@[simp] theorem State.withRail_crcHeld (r : Nat) (g : Rail → Rail) : (s.withRail r g).crcHeld = s.crcHeld := rfl
@[simp] theorem State.withRail_sram (r : Nat) (g : Rail → Rail) : (s.withRail r g).sram = s.sram := rfl
@[simp] theorem State.withRail_parity (r : Nat) (g : Rail → Rail) : (s.withRail r g).parity = s.parity := rfl
@[simp] theorem State.withRail_free (r : Nat) (g : Rail → Rail) : (s.withRail r g).free = s.free := rfl
@[simp] theorem State.withRail_cmps (r : Nat) (g : Rail → Rail) : (s.withRail r g).cmps = s.cmps := rfl
@[simp] theorem State.withRail_ang (r : Nat) (g : Rail → Rail) : (s.withRail r g).ang = s.ang := rfl
@[simp] theorem State.withRail_deliveries (r : Nat) (g : Rail → Rail) : (s.withRail r g).deliveries = s.deliveries := rfl
@[simp] theorem State.withRail_mch (r : Nat) (g : Rail → Rail) : (s.withRail r g).mch = s.mch := rfl
@[simp] theorem State.withRail_scoQueue (r : Nat) (g : Rail → Rail) : (s.withRail r g).scoQueue = s.scoQueue := rfl
@[simp] theorem State.withRail_flt (r : Nat) (g : Rail → Rail) : (s.withRail r g).flt = s.flt := rfl
@[simp] theorem State.withRail_hpt (r : Nat) (g : Rail → Rail) : (s.withRail r g).hpt = s.hpt := rfl
@[simp] theorem State.withRail_scb (r : Nat) (g : Rail → Rail) : (s.withRail r g).scb = s.scb := rfl
@[simp] theorem State.withRail_poisonEdge (r : Nat) (g : Rail → Rail) : (s.withRail r g).poisonEdge = s.poisonEdge := rfl
@[simp] theorem State.withRail_codecInj (r : Nat) (g : Rail → Rail) : (s.withRail r g).codecInj = s.codecInj := rfl
@[simp] theorem State.withRail_memPhase (r : Nat) (g : Rail → Rail) : (s.withRail r g).memPhase = s.memPhase := rfl
@[simp] theorem State.withRail_bistBank (r : Nat) (g : Rail → Rail) : (s.withRail r g).bistBank = s.bistBank := rfl
@[simp] theorem State.withRail_cku (r : Nat) (g : Rail → Rail) : (s.withRail r g).cku = s.cku := rfl
@[simp] theorem State.withRail_ctxs (r : Nat) (g : Rail → Rail) : (s.withRail r g).ctxs = s.ctxs := rfl
@[simp] theorem State.withRail_txc (r : Nat) (g : Rail → Rail) : (s.withRail r g).txc = s.txc := rfl
@[simp] theorem State.withRail_wingEnds (r : Nat) (g : Rail → Rail) : (s.withRail r g).wingEnds = s.wingEnds := rfl
@[simp] theorem State.withRail_rxc (r : Nat) (g : Rail → Rail) : (s.withRail r g).rxc = s.rxc := rfl
@[simp] theorem State.withRail_timers (r : Nat) (g : Rail → Rail) : (s.withRail r g).timers = s.timers := rfl
@[simp] theorem State.withRail_xmp (r : Nat) (g : Rail → Rail) : (s.withRail r g).xmp = s.xmp := rfl
@[simp] theorem State.withRail_engs (r : Nat) (g : Rail → Rail) : (s.withRail r g).engs = s.engs := rfl
@[simp] theorem State.withRail_inv (r : Nat) (g : Rail → Rail) : (s.withRail r g).inv = s.inv := rfl
@[simp] theorem State.withRail_rates (r : Nat) (g : Rail → Rail) : (s.withRail r g).rates = s.rates := rfl
@[simp] theorem State.withRail_kbz (r : Nat) (g : Rail → Rail) : (s.withRail r g).kbz = s.kbz := rfl
@[simp] theorem State.withRail_lockMism (r : Nat) (g : Rail → Rail) : (s.withRail r g).lockMism = s.lockMism := rfl
@[simp] theorem State.withRail_slot (r : Nat) (g : Rail → Rail) : (s.withRail r g).slot = s.slot := rfl
@[simp] theorem State.withRail_fires (r : Nat) (g : Rail → Rail) : (s.withRail r g).fires = s.fires := rfl
@[simp] theorem State.withRail_trig (r : Nat) (g : Rail → Rail) : (s.withRail r g).trig = s.trig := rfl
@[simp] theorem State.withRail_cal (r : Nat) (g : Rail → Rail) : (s.withRail r g).cal = s.cal := rfl
@[simp] theorem State.withRail_sco (r : Nat) (g : Rail → Rail) : (s.withRail r g).sco = s.sco := rfl
@[simp] theorem State.withRail_pins (r : Nat) (g : Rail → Rail) : (s.withRail r g).pins = s.pins := rfl
@[simp] theorem State.withRail_edge (r : Nat) (g : Rail → Rail) : (s.withRail r g).edge = s.edge := rfl
@[simp] theorem State.withRail_touch (r : Nat) (g : Rail → Rail) : (s.withRail r g).touch = s.touch := rfl
@[simp] theorem State.withRail_resetting (r : Nat) (g : Rail → Rail) : (s.withRail r g).resetting = s.resetting := rfl
@[simp] theorem State.withRail_mirror (r : Nat) (g : Rail → Rail) : (s.withRail r g).mirror = s.mirror := rfl
@[simp] theorem State.withRail_reg (r : Nat) (g : Rail → Rail) (q o : Nat) : (s.withRail r g).reg q o = s.reg q o := rfl
@[simp] theorem State.withRail_get (r : Nat) (g : Rail → Rail) (q : Nat) (h : Fld) : (s.withRail r g).get q h = s.get q h := rfl
@[simp] theorem State.withRail_bit (r : Nat) (g : Rail → Rail) (q : Nat) (h : Fld) : (s.withRail r g).bit q h = s.bit q h := rfl
@[simp] theorem State.withRail_bitOf (r : Nat) (g : Rail → Rail) (q : Nat) (h : Fld) (i : Nat) : (s.withRail r g).bitOf q h i = s.bitOf q h i := rfl
@[simp] theorem State.withRail_enabled (r : Nat) (g : Rail → Rail) (q : Nat) : (s.withRail r g).enabled q = s.enabled q := rfl

@[simp] theorem State.withTx_pending (n : Nat) (g : Txc → Txc) : (s.withTx n g).pending = s.pending := rfl
@[simp] theorem State.withTx_now (n : Nat) (g : Txc → Txc) : (s.withTx n g).now = s.now := rfl
@[simp] theorem State.withTx_agenda (n : Nat) (g : Txc → Txc) : (s.withTx n g).agenda = s.agenda := rfl
@[simp] theorem State.withTx_regs (n : Nat) (g : Txc → Txc) : (s.withTx n g).regs = s.regs := rfl
@[simp] theorem State.withTx_regPsn (n : Nat) (g : Txc → Txc) : (s.withTx n g).regPsn = s.regPsn := rfl
@[simp] theorem State.withTx_crcHeld (n : Nat) (g : Txc → Txc) : (s.withTx n g).crcHeld = s.crcHeld := rfl
@[simp] theorem State.withTx_sram (n : Nat) (g : Txc → Txc) : (s.withTx n g).sram = s.sram := rfl
@[simp] theorem State.withTx_parity (n : Nat) (g : Txc → Txc) : (s.withTx n g).parity = s.parity := rfl
@[simp] theorem State.withTx_free (n : Nat) (g : Txc → Txc) : (s.withTx n g).free = s.free := rfl
@[simp] theorem State.withTx_cmps (n : Nat) (g : Txc → Txc) : (s.withTx n g).cmps = s.cmps := rfl
@[simp] theorem State.withTx_ang (n : Nat) (g : Txc → Txc) : (s.withTx n g).ang = s.ang := rfl
@[simp] theorem State.withTx_deliveries (n : Nat) (g : Txc → Txc) : (s.withTx n g).deliveries = s.deliveries := rfl
@[simp] theorem State.withTx_mch (n : Nat) (g : Txc → Txc) : (s.withTx n g).mch = s.mch := rfl
@[simp] theorem State.withTx_scoQueue (n : Nat) (g : Txc → Txc) : (s.withTx n g).scoQueue = s.scoQueue := rfl
@[simp] theorem State.withTx_flt (n : Nat) (g : Txc → Txc) : (s.withTx n g).flt = s.flt := rfl
@[simp] theorem State.withTx_hpt (n : Nat) (g : Txc → Txc) : (s.withTx n g).hpt = s.hpt := rfl
@[simp] theorem State.withTx_scb (n : Nat) (g : Txc → Txc) : (s.withTx n g).scb = s.scb := rfl
@[simp] theorem State.withTx_poisonEdge (n : Nat) (g : Txc → Txc) : (s.withTx n g).poisonEdge = s.poisonEdge := rfl
@[simp] theorem State.withTx_codecInj (n : Nat) (g : Txc → Txc) : (s.withTx n g).codecInj = s.codecInj := rfl
@[simp] theorem State.withTx_memPhase (n : Nat) (g : Txc → Txc) : (s.withTx n g).memPhase = s.memPhase := rfl
@[simp] theorem State.withTx_bistBank (n : Nat) (g : Txc → Txc) : (s.withTx n g).bistBank = s.bistBank := rfl
@[simp] theorem State.withTx_cku (n : Nat) (g : Txc → Txc) : (s.withTx n g).cku = s.cku := rfl
@[simp] theorem State.withTx_pwr (n : Nat) (g : Txc → Txc) : (s.withTx n g).pwr = s.pwr := rfl
@[simp] theorem State.withTx_ctxs (n : Nat) (g : Txc → Txc) : (s.withTx n g).ctxs = s.ctxs := rfl
@[simp] theorem State.withTx_wingEnds (n : Nat) (g : Txc → Txc) : (s.withTx n g).wingEnds = s.wingEnds := rfl
@[simp] theorem State.withTx_rxc (n : Nat) (g : Txc → Txc) : (s.withTx n g).rxc = s.rxc := rfl
@[simp] theorem State.withTx_timers (n : Nat) (g : Txc → Txc) : (s.withTx n g).timers = s.timers := rfl
@[simp] theorem State.withTx_xmp (n : Nat) (g : Txc → Txc) : (s.withTx n g).xmp = s.xmp := rfl
@[simp] theorem State.withTx_engs (n : Nat) (g : Txc → Txc) : (s.withTx n g).engs = s.engs := rfl
@[simp] theorem State.withTx_inv (n : Nat) (g : Txc → Txc) : (s.withTx n g).inv = s.inv := rfl
@[simp] theorem State.withTx_rates (n : Nat) (g : Txc → Txc) : (s.withTx n g).rates = s.rates := rfl
@[simp] theorem State.withTx_kbz (n : Nat) (g : Txc → Txc) : (s.withTx n g).kbz = s.kbz := rfl
@[simp] theorem State.withTx_lockMism (n : Nat) (g : Txc → Txc) : (s.withTx n g).lockMism = s.lockMism := rfl
@[simp] theorem State.withTx_slot (n : Nat) (g : Txc → Txc) : (s.withTx n g).slot = s.slot := rfl
@[simp] theorem State.withTx_fires (n : Nat) (g : Txc → Txc) : (s.withTx n g).fires = s.fires := rfl
@[simp] theorem State.withTx_trig (n : Nat) (g : Txc → Txc) : (s.withTx n g).trig = s.trig := rfl
@[simp] theorem State.withTx_cal (n : Nat) (g : Txc → Txc) : (s.withTx n g).cal = s.cal := rfl
@[simp] theorem State.withTx_sco (n : Nat) (g : Txc → Txc) : (s.withTx n g).sco = s.sco := rfl
@[simp] theorem State.withTx_pins (n : Nat) (g : Txc → Txc) : (s.withTx n g).pins = s.pins := rfl
@[simp] theorem State.withTx_edge (n : Nat) (g : Txc → Txc) : (s.withTx n g).edge = s.edge := rfl
@[simp] theorem State.withTx_touch (n : Nat) (g : Txc → Txc) : (s.withTx n g).touch = s.touch := rfl
@[simp] theorem State.withTx_resetting (n : Nat) (g : Txc → Txc) : (s.withTx n g).resetting = s.resetting := rfl
@[simp] theorem State.withTx_mirror (n : Nat) (g : Txc → Txc) : (s.withTx n g).mirror = s.mirror := rfl
@[simp] theorem State.withTx_reg (n : Nat) (g : Txc → Txc) (q o : Nat) : (s.withTx n g).reg q o = s.reg q o := rfl
@[simp] theorem State.withTx_get (n : Nat) (g : Txc → Txc) (q : Nat) (h : Fld) : (s.withTx n g).get q h = s.get q h := rfl
@[simp] theorem State.withTx_bit (n : Nat) (g : Txc → Txc) (q : Nat) (h : Fld) : (s.withTx n g).bit q h = s.bit q h := rfl
@[simp] theorem State.withTx_bitOf (n : Nat) (g : Txc → Txc) (q : Nat) (h : Fld) (i : Nat) : (s.withTx n g).bitOf q h i = s.bitOf q h i := rfl
@[simp] theorem State.withTx_enabled (n : Nat) (g : Txc → Txc) (q : Nat) : (s.withTx n g).enabled q = s.enabled q := rfl
@[simp] theorem State.withTx_coreUp (n : Nat) (g : Txc → Txc) : (s.withTx n g).coreUp = s.coreUp := rfl
@[simp] theorem State.withTx_coreRuns (n : Nat) (g : Txc → Txc) : (s.withTx n g).coreRuns = s.coreRuns := rfl

@[simp] theorem State.withRx_pending (n : Nat) (g : Rxc → Rxc) : (s.withRx n g).pending = s.pending := rfl
@[simp] theorem State.withRx_now (n : Nat) (g : Rxc → Rxc) : (s.withRx n g).now = s.now := rfl
@[simp] theorem State.withRx_agenda (n : Nat) (g : Rxc → Rxc) : (s.withRx n g).agenda = s.agenda := rfl
@[simp] theorem State.withRx_regs (n : Nat) (g : Rxc → Rxc) : (s.withRx n g).regs = s.regs := rfl
@[simp] theorem State.withRx_regPsn (n : Nat) (g : Rxc → Rxc) : (s.withRx n g).regPsn = s.regPsn := rfl
@[simp] theorem State.withRx_crcHeld (n : Nat) (g : Rxc → Rxc) : (s.withRx n g).crcHeld = s.crcHeld := rfl
@[simp] theorem State.withRx_sram (n : Nat) (g : Rxc → Rxc) : (s.withRx n g).sram = s.sram := rfl
@[simp] theorem State.withRx_parity (n : Nat) (g : Rxc → Rxc) : (s.withRx n g).parity = s.parity := rfl
@[simp] theorem State.withRx_free (n : Nat) (g : Rxc → Rxc) : (s.withRx n g).free = s.free := rfl
@[simp] theorem State.withRx_cmps (n : Nat) (g : Rxc → Rxc) : (s.withRx n g).cmps = s.cmps := rfl
@[simp] theorem State.withRx_ang (n : Nat) (g : Rxc → Rxc) : (s.withRx n g).ang = s.ang := rfl
@[simp] theorem State.withRx_deliveries (n : Nat) (g : Rxc → Rxc) : (s.withRx n g).deliveries = s.deliveries := rfl
@[simp] theorem State.withRx_mch (n : Nat) (g : Rxc → Rxc) : (s.withRx n g).mch = s.mch := rfl
@[simp] theorem State.withRx_scoQueue (n : Nat) (g : Rxc → Rxc) : (s.withRx n g).scoQueue = s.scoQueue := rfl
@[simp] theorem State.withRx_flt (n : Nat) (g : Rxc → Rxc) : (s.withRx n g).flt = s.flt := rfl
@[simp] theorem State.withRx_hpt (n : Nat) (g : Rxc → Rxc) : (s.withRx n g).hpt = s.hpt := rfl
@[simp] theorem State.withRx_scb (n : Nat) (g : Rxc → Rxc) : (s.withRx n g).scb = s.scb := rfl
@[simp] theorem State.withRx_poisonEdge (n : Nat) (g : Rxc → Rxc) : (s.withRx n g).poisonEdge = s.poisonEdge := rfl
@[simp] theorem State.withRx_codecInj (n : Nat) (g : Rxc → Rxc) : (s.withRx n g).codecInj = s.codecInj := rfl
@[simp] theorem State.withRx_memPhase (n : Nat) (g : Rxc → Rxc) : (s.withRx n g).memPhase = s.memPhase := rfl
@[simp] theorem State.withRx_bistBank (n : Nat) (g : Rxc → Rxc) : (s.withRx n g).bistBank = s.bistBank := rfl
@[simp] theorem State.withRx_cku (n : Nat) (g : Rxc → Rxc) : (s.withRx n g).cku = s.cku := rfl
@[simp] theorem State.withRx_pwr (n : Nat) (g : Rxc → Rxc) : (s.withRx n g).pwr = s.pwr := rfl
@[simp] theorem State.withRx_ctxs (n : Nat) (g : Rxc → Rxc) : (s.withRx n g).ctxs = s.ctxs := rfl
@[simp] theorem State.withRx_txc (n : Nat) (g : Rxc → Rxc) : (s.withRx n g).txc = s.txc := rfl
@[simp] theorem State.withRx_wingEnds (n : Nat) (g : Rxc → Rxc) : (s.withRx n g).wingEnds = s.wingEnds := rfl
@[simp] theorem State.withRx_timers (n : Nat) (g : Rxc → Rxc) : (s.withRx n g).timers = s.timers := rfl
@[simp] theorem State.withRx_xmp (n : Nat) (g : Rxc → Rxc) : (s.withRx n g).xmp = s.xmp := rfl
@[simp] theorem State.withRx_engs (n : Nat) (g : Rxc → Rxc) : (s.withRx n g).engs = s.engs := rfl
@[simp] theorem State.withRx_inv (n : Nat) (g : Rxc → Rxc) : (s.withRx n g).inv = s.inv := rfl
@[simp] theorem State.withRx_rates (n : Nat) (g : Rxc → Rxc) : (s.withRx n g).rates = s.rates := rfl
@[simp] theorem State.withRx_kbz (n : Nat) (g : Rxc → Rxc) : (s.withRx n g).kbz = s.kbz := rfl
@[simp] theorem State.withRx_lockMism (n : Nat) (g : Rxc → Rxc) : (s.withRx n g).lockMism = s.lockMism := rfl
@[simp] theorem State.withRx_slot (n : Nat) (g : Rxc → Rxc) : (s.withRx n g).slot = s.slot := rfl
@[simp] theorem State.withRx_fires (n : Nat) (g : Rxc → Rxc) : (s.withRx n g).fires = s.fires := rfl
@[simp] theorem State.withRx_trig (n : Nat) (g : Rxc → Rxc) : (s.withRx n g).trig = s.trig := rfl
@[simp] theorem State.withRx_cal (n : Nat) (g : Rxc → Rxc) : (s.withRx n g).cal = s.cal := rfl
@[simp] theorem State.withRx_sco (n : Nat) (g : Rxc → Rxc) : (s.withRx n g).sco = s.sco := rfl
@[simp] theorem State.withRx_pins (n : Nat) (g : Rxc → Rxc) : (s.withRx n g).pins = s.pins := rfl
@[simp] theorem State.withRx_edge (n : Nat) (g : Rxc → Rxc) : (s.withRx n g).edge = s.edge := rfl
@[simp] theorem State.withRx_touch (n : Nat) (g : Rxc → Rxc) : (s.withRx n g).touch = s.touch := rfl
@[simp] theorem State.withRx_resetting (n : Nat) (g : Rxc → Rxc) : (s.withRx n g).resetting = s.resetting := rfl
@[simp] theorem State.withRx_mirror (n : Nat) (g : Rxc → Rxc) : (s.withRx n g).mirror = s.mirror := rfl
@[simp] theorem State.withRx_reg (n : Nat) (g : Rxc → Rxc) (q o : Nat) : (s.withRx n g).reg q o = s.reg q o := rfl
@[simp] theorem State.withRx_get (n : Nat) (g : Rxc → Rxc) (q : Nat) (h : Fld) : (s.withRx n g).get q h = s.get q h := rfl
@[simp] theorem State.withRx_bit (n : Nat) (g : Rxc → Rxc) (q : Nat) (h : Fld) : (s.withRx n g).bit q h = s.bit q h := rfl
@[simp] theorem State.withRx_bitOf (n : Nat) (g : Rxc → Rxc) (q : Nat) (h : Fld) (i : Nat) : (s.withRx n g).bitOf q h i = s.bitOf q h i := rfl
@[simp] theorem State.withRx_enabled (n : Nat) (g : Rxc → Rxc) (q : Nat) : (s.withRx n g).enabled q = s.enabled q := rfl
@[simp] theorem State.withRx_coreUp (n : Nat) (g : Rxc → Rxc) : (s.withRx n g).coreUp = s.coreUp := rfl
@[simp] theorem State.withRx_coreRuns (n : Nat) (g : Rxc → Rxc) : (s.withRx n g).coreRuns = s.coreRuns := rfl

@[simp] theorem State.withXmp_pending (g : Xmp → Xmp) : (s.withXmp g).pending = s.pending := rfl
@[simp] theorem State.withXmp_now (g : Xmp → Xmp) : (s.withXmp g).now = s.now := rfl
@[simp] theorem State.withXmp_agenda (g : Xmp → Xmp) : (s.withXmp g).agenda = s.agenda := rfl
@[simp] theorem State.withXmp_regs (g : Xmp → Xmp) : (s.withXmp g).regs = s.regs := rfl
@[simp] theorem State.withXmp_regPsn (g : Xmp → Xmp) : (s.withXmp g).regPsn = s.regPsn := rfl
@[simp] theorem State.withXmp_crcHeld (g : Xmp → Xmp) : (s.withXmp g).crcHeld = s.crcHeld := rfl
@[simp] theorem State.withXmp_sram (g : Xmp → Xmp) : (s.withXmp g).sram = s.sram := rfl
@[simp] theorem State.withXmp_parity (g : Xmp → Xmp) : (s.withXmp g).parity = s.parity := rfl
@[simp] theorem State.withXmp_free (g : Xmp → Xmp) : (s.withXmp g).free = s.free := rfl
@[simp] theorem State.withXmp_cmps (g : Xmp → Xmp) : (s.withXmp g).cmps = s.cmps := rfl
@[simp] theorem State.withXmp_ang (g : Xmp → Xmp) : (s.withXmp g).ang = s.ang := rfl
@[simp] theorem State.withXmp_deliveries (g : Xmp → Xmp) : (s.withXmp g).deliveries = s.deliveries := rfl
@[simp] theorem State.withXmp_mch (g : Xmp → Xmp) : (s.withXmp g).mch = s.mch := rfl
@[simp] theorem State.withXmp_scoQueue (g : Xmp → Xmp) : (s.withXmp g).scoQueue = s.scoQueue := rfl
@[simp] theorem State.withXmp_flt (g : Xmp → Xmp) : (s.withXmp g).flt = s.flt := rfl
@[simp] theorem State.withXmp_hpt (g : Xmp → Xmp) : (s.withXmp g).hpt = s.hpt := rfl
@[simp] theorem State.withXmp_scb (g : Xmp → Xmp) : (s.withXmp g).scb = s.scb := rfl
@[simp] theorem State.withXmp_poisonEdge (g : Xmp → Xmp) : (s.withXmp g).poisonEdge = s.poisonEdge := rfl
@[simp] theorem State.withXmp_codecInj (g : Xmp → Xmp) : (s.withXmp g).codecInj = s.codecInj := rfl
@[simp] theorem State.withXmp_memPhase (g : Xmp → Xmp) : (s.withXmp g).memPhase = s.memPhase := rfl
@[simp] theorem State.withXmp_bistBank (g : Xmp → Xmp) : (s.withXmp g).bistBank = s.bistBank := rfl
@[simp] theorem State.withXmp_cku (g : Xmp → Xmp) : (s.withXmp g).cku = s.cku := rfl
@[simp] theorem State.withXmp_pwr (g : Xmp → Xmp) : (s.withXmp g).pwr = s.pwr := rfl
@[simp] theorem State.withXmp_ctxs (g : Xmp → Xmp) : (s.withXmp g).ctxs = s.ctxs := rfl
@[simp] theorem State.withXmp_txc (g : Xmp → Xmp) : (s.withXmp g).txc = s.txc := rfl
@[simp] theorem State.withXmp_wingEnds (g : Xmp → Xmp) : (s.withXmp g).wingEnds = s.wingEnds := rfl
@[simp] theorem State.withXmp_rxc (g : Xmp → Xmp) : (s.withXmp g).rxc = s.rxc := rfl
@[simp] theorem State.withXmp_timers (g : Xmp → Xmp) : (s.withXmp g).timers = s.timers := rfl
@[simp] theorem State.withXmp_engs (g : Xmp → Xmp) : (s.withXmp g).engs = s.engs := rfl
@[simp] theorem State.withXmp_inv (g : Xmp → Xmp) : (s.withXmp g).inv = s.inv := rfl
@[simp] theorem State.withXmp_rates (g : Xmp → Xmp) : (s.withXmp g).rates = s.rates := rfl
@[simp] theorem State.withXmp_kbz (g : Xmp → Xmp) : (s.withXmp g).kbz = s.kbz := rfl
@[simp] theorem State.withXmp_lockMism (g : Xmp → Xmp) : (s.withXmp g).lockMism = s.lockMism := rfl
@[simp] theorem State.withXmp_slot (g : Xmp → Xmp) : (s.withXmp g).slot = s.slot := rfl
@[simp] theorem State.withXmp_fires (g : Xmp → Xmp) : (s.withXmp g).fires = s.fires := rfl
@[simp] theorem State.withXmp_trig (g : Xmp → Xmp) : (s.withXmp g).trig = s.trig := rfl
@[simp] theorem State.withXmp_cal (g : Xmp → Xmp) : (s.withXmp g).cal = s.cal := rfl
@[simp] theorem State.withXmp_sco (g : Xmp → Xmp) : (s.withXmp g).sco = s.sco := rfl
@[simp] theorem State.withXmp_pins (g : Xmp → Xmp) : (s.withXmp g).pins = s.pins := rfl
@[simp] theorem State.withXmp_edge (g : Xmp → Xmp) : (s.withXmp g).edge = s.edge := rfl
@[simp] theorem State.withXmp_touch (g : Xmp → Xmp) : (s.withXmp g).touch = s.touch := rfl
@[simp] theorem State.withXmp_resetting (g : Xmp → Xmp) : (s.withXmp g).resetting = s.resetting := rfl
@[simp] theorem State.withXmp_mirror (g : Xmp → Xmp) : (s.withXmp g).mirror = s.mirror := rfl
@[simp] theorem State.withXmp_reg (g : Xmp → Xmp) (q o : Nat) : (s.withXmp g).reg q o = s.reg q o := rfl
@[simp] theorem State.withXmp_get (g : Xmp → Xmp) (q : Nat) (h : Fld) : (s.withXmp g).get q h = s.get q h := rfl
@[simp] theorem State.withXmp_bit (g : Xmp → Xmp) (q : Nat) (h : Fld) : (s.withXmp g).bit q h = s.bit q h := rfl
@[simp] theorem State.withXmp_bitOf (g : Xmp → Xmp) (q : Nat) (h : Fld) (i : Nat) : (s.withXmp g).bitOf q h i = s.bitOf q h i := rfl
@[simp] theorem State.withXmp_enabled (g : Xmp → Xmp) (q : Nat) : (s.withXmp g).enabled q = s.enabled q := rfl
@[simp] theorem State.withXmp_coreUp (g : Xmp → Xmp) : (s.withXmp g).coreUp = s.coreUp := rfl
@[simp] theorem State.withXmp_coreRuns (g : Xmp → Xmp) : (s.withXmp g).coreRuns = s.coreRuns := rfl

@[simp] theorem State.withEng_pending (w : Nat) (g : Eng → Eng) : (s.withEng w g).pending = s.pending := rfl
@[simp] theorem State.withEng_now (w : Nat) (g : Eng → Eng) : (s.withEng w g).now = s.now := rfl
@[simp] theorem State.withEng_agenda (w : Nat) (g : Eng → Eng) : (s.withEng w g).agenda = s.agenda := rfl
@[simp] theorem State.withEng_regs (w : Nat) (g : Eng → Eng) : (s.withEng w g).regs = s.regs := rfl
@[simp] theorem State.withEng_regPsn (w : Nat) (g : Eng → Eng) : (s.withEng w g).regPsn = s.regPsn := rfl
@[simp] theorem State.withEng_crcHeld (w : Nat) (g : Eng → Eng) : (s.withEng w g).crcHeld = s.crcHeld := rfl
@[simp] theorem State.withEng_sram (w : Nat) (g : Eng → Eng) : (s.withEng w g).sram = s.sram := rfl
@[simp] theorem State.withEng_parity (w : Nat) (g : Eng → Eng) : (s.withEng w g).parity = s.parity := rfl
@[simp] theorem State.withEng_free (w : Nat) (g : Eng → Eng) : (s.withEng w g).free = s.free := rfl
@[simp] theorem State.withEng_cmps (w : Nat) (g : Eng → Eng) : (s.withEng w g).cmps = s.cmps := rfl
@[simp] theorem State.withEng_ang (w : Nat) (g : Eng → Eng) : (s.withEng w g).ang = s.ang := rfl
@[simp] theorem State.withEng_deliveries (w : Nat) (g : Eng → Eng) : (s.withEng w g).deliveries = s.deliveries := rfl
@[simp] theorem State.withEng_mch (w : Nat) (g : Eng → Eng) : (s.withEng w g).mch = s.mch := rfl
@[simp] theorem State.withEng_scoQueue (w : Nat) (g : Eng → Eng) : (s.withEng w g).scoQueue = s.scoQueue := rfl
@[simp] theorem State.withEng_flt (w : Nat) (g : Eng → Eng) : (s.withEng w g).flt = s.flt := rfl
@[simp] theorem State.withEng_hpt (w : Nat) (g : Eng → Eng) : (s.withEng w g).hpt = s.hpt := rfl
@[simp] theorem State.withEng_scb (w : Nat) (g : Eng → Eng) : (s.withEng w g).scb = s.scb := rfl
@[simp] theorem State.withEng_poisonEdge (w : Nat) (g : Eng → Eng) : (s.withEng w g).poisonEdge = s.poisonEdge := rfl
@[simp] theorem State.withEng_codecInj (w : Nat) (g : Eng → Eng) : (s.withEng w g).codecInj = s.codecInj := rfl
@[simp] theorem State.withEng_memPhase (w : Nat) (g : Eng → Eng) : (s.withEng w g).memPhase = s.memPhase := rfl
@[simp] theorem State.withEng_bistBank (w : Nat) (g : Eng → Eng) : (s.withEng w g).bistBank = s.bistBank := rfl
@[simp] theorem State.withEng_cku (w : Nat) (g : Eng → Eng) : (s.withEng w g).cku = s.cku := rfl
@[simp] theorem State.withEng_pwr (w : Nat) (g : Eng → Eng) : (s.withEng w g).pwr = s.pwr := rfl
@[simp] theorem State.withEng_ctxs (w : Nat) (g : Eng → Eng) : (s.withEng w g).ctxs = s.ctxs := rfl
@[simp] theorem State.withEng_txc (w : Nat) (g : Eng → Eng) : (s.withEng w g).txc = s.txc := rfl
@[simp] theorem State.withEng_wingEnds (w : Nat) (g : Eng → Eng) : (s.withEng w g).wingEnds = s.wingEnds := rfl
@[simp] theorem State.withEng_rxc (w : Nat) (g : Eng → Eng) : (s.withEng w g).rxc = s.rxc := rfl
@[simp] theorem State.withEng_timers (w : Nat) (g : Eng → Eng) : (s.withEng w g).timers = s.timers := rfl
@[simp] theorem State.withEng_xmp (w : Nat) (g : Eng → Eng) : (s.withEng w g).xmp = s.xmp := rfl
@[simp] theorem State.withEng_inv (w : Nat) (g : Eng → Eng) : (s.withEng w g).inv = s.inv := rfl
@[simp] theorem State.withEng_rates (w : Nat) (g : Eng → Eng) : (s.withEng w g).rates = s.rates := rfl
@[simp] theorem State.withEng_kbz (w : Nat) (g : Eng → Eng) : (s.withEng w g).kbz = s.kbz := rfl
@[simp] theorem State.withEng_lockMism (w : Nat) (g : Eng → Eng) : (s.withEng w g).lockMism = s.lockMism := rfl
@[simp] theorem State.withEng_slot (w : Nat) (g : Eng → Eng) : (s.withEng w g).slot = s.slot := rfl
@[simp] theorem State.withEng_fires (w : Nat) (g : Eng → Eng) : (s.withEng w g).fires = s.fires := rfl
@[simp] theorem State.withEng_trig (w : Nat) (g : Eng → Eng) : (s.withEng w g).trig = s.trig := rfl
@[simp] theorem State.withEng_cal (w : Nat) (g : Eng → Eng) : (s.withEng w g).cal = s.cal := rfl
@[simp] theorem State.withEng_sco (w : Nat) (g : Eng → Eng) : (s.withEng w g).sco = s.sco := rfl
@[simp] theorem State.withEng_pins (w : Nat) (g : Eng → Eng) : (s.withEng w g).pins = s.pins := rfl
@[simp] theorem State.withEng_edge (w : Nat) (g : Eng → Eng) : (s.withEng w g).edge = s.edge := rfl
@[simp] theorem State.withEng_touch (w : Nat) (g : Eng → Eng) : (s.withEng w g).touch = s.touch := rfl
@[simp] theorem State.withEng_resetting (w : Nat) (g : Eng → Eng) : (s.withEng w g).resetting = s.resetting := rfl
@[simp] theorem State.withEng_mirror (w : Nat) (g : Eng → Eng) : (s.withEng w g).mirror = s.mirror := rfl
@[simp] theorem State.withEng_reg (w : Nat) (g : Eng → Eng) (q o : Nat) : (s.withEng w g).reg q o = s.reg q o := rfl
@[simp] theorem State.withEng_get (w : Nat) (g : Eng → Eng) (q : Nat) (h : Fld) : (s.withEng w g).get q h = s.get q h := rfl
@[simp] theorem State.withEng_bit (w : Nat) (g : Eng → Eng) (q : Nat) (h : Fld) : (s.withEng w g).bit q h = s.bit q h := rfl
@[simp] theorem State.withEng_bitOf (w : Nat) (g : Eng → Eng) (q : Nat) (h : Fld) (i : Nat) : (s.withEng w g).bitOf q h i = s.bitOf q h i := rfl
@[simp] theorem State.withEng_enabled (w : Nat) (g : Eng → Eng) (q : Nat) : (s.withEng w g).enabled q = s.enabled q := rfl
@[simp] theorem State.withEng_coreUp (w : Nat) (g : Eng → Eng) : (s.withEng w g).coreUp = s.coreUp := rfl
@[simp] theorem State.withEng_coreRuns (w : Nat) (g : Eng → Eng) : (s.withEng w g).coreRuns = s.coreRuns := rfl

@[simp] theorem State.withInv_pending (g : Inv → Inv) : (s.withInv g).pending = s.pending := rfl
@[simp] theorem State.withInv_now (g : Inv → Inv) : (s.withInv g).now = s.now := rfl
@[simp] theorem State.withInv_agenda (g : Inv → Inv) : (s.withInv g).agenda = s.agenda := rfl
@[simp] theorem State.withInv_regs (g : Inv → Inv) : (s.withInv g).regs = s.regs := rfl
@[simp] theorem State.withInv_regPsn (g : Inv → Inv) : (s.withInv g).regPsn = s.regPsn := rfl
@[simp] theorem State.withInv_crcHeld (g : Inv → Inv) : (s.withInv g).crcHeld = s.crcHeld := rfl
@[simp] theorem State.withInv_sram (g : Inv → Inv) : (s.withInv g).sram = s.sram := rfl
@[simp] theorem State.withInv_parity (g : Inv → Inv) : (s.withInv g).parity = s.parity := rfl
@[simp] theorem State.withInv_free (g : Inv → Inv) : (s.withInv g).free = s.free := rfl
@[simp] theorem State.withInv_cmps (g : Inv → Inv) : (s.withInv g).cmps = s.cmps := rfl
@[simp] theorem State.withInv_ang (g : Inv → Inv) : (s.withInv g).ang = s.ang := rfl
@[simp] theorem State.withInv_deliveries (g : Inv → Inv) : (s.withInv g).deliveries = s.deliveries := rfl
@[simp] theorem State.withInv_mch (g : Inv → Inv) : (s.withInv g).mch = s.mch := rfl
@[simp] theorem State.withInv_scoQueue (g : Inv → Inv) : (s.withInv g).scoQueue = s.scoQueue := rfl
@[simp] theorem State.withInv_flt (g : Inv → Inv) : (s.withInv g).flt = s.flt := rfl
@[simp] theorem State.withInv_hpt (g : Inv → Inv) : (s.withInv g).hpt = s.hpt := rfl
@[simp] theorem State.withInv_scb (g : Inv → Inv) : (s.withInv g).scb = s.scb := rfl
@[simp] theorem State.withInv_poisonEdge (g : Inv → Inv) : (s.withInv g).poisonEdge = s.poisonEdge := rfl
@[simp] theorem State.withInv_codecInj (g : Inv → Inv) : (s.withInv g).codecInj = s.codecInj := rfl
@[simp] theorem State.withInv_memPhase (g : Inv → Inv) : (s.withInv g).memPhase = s.memPhase := rfl
@[simp] theorem State.withInv_bistBank (g : Inv → Inv) : (s.withInv g).bistBank = s.bistBank := rfl
@[simp] theorem State.withInv_cku (g : Inv → Inv) : (s.withInv g).cku = s.cku := rfl
@[simp] theorem State.withInv_pwr (g : Inv → Inv) : (s.withInv g).pwr = s.pwr := rfl
@[simp] theorem State.withInv_ctxs (g : Inv → Inv) : (s.withInv g).ctxs = s.ctxs := rfl
@[simp] theorem State.withInv_txc (g : Inv → Inv) : (s.withInv g).txc = s.txc := rfl
@[simp] theorem State.withInv_wingEnds (g : Inv → Inv) : (s.withInv g).wingEnds = s.wingEnds := rfl
@[simp] theorem State.withInv_rxc (g : Inv → Inv) : (s.withInv g).rxc = s.rxc := rfl
@[simp] theorem State.withInv_timers (g : Inv → Inv) : (s.withInv g).timers = s.timers := rfl
@[simp] theorem State.withInv_xmp (g : Inv → Inv) : (s.withInv g).xmp = s.xmp := rfl
@[simp] theorem State.withInv_engs (g : Inv → Inv) : (s.withInv g).engs = s.engs := rfl
@[simp] theorem State.withInv_rates (g : Inv → Inv) : (s.withInv g).rates = s.rates := rfl
@[simp] theorem State.withInv_kbz (g : Inv → Inv) : (s.withInv g).kbz = s.kbz := rfl
@[simp] theorem State.withInv_lockMism (g : Inv → Inv) : (s.withInv g).lockMism = s.lockMism := rfl
@[simp] theorem State.withInv_slot (g : Inv → Inv) : (s.withInv g).slot = s.slot := rfl
@[simp] theorem State.withInv_fires (g : Inv → Inv) : (s.withInv g).fires = s.fires := rfl
@[simp] theorem State.withInv_trig (g : Inv → Inv) : (s.withInv g).trig = s.trig := rfl
@[simp] theorem State.withInv_cal (g : Inv → Inv) : (s.withInv g).cal = s.cal := rfl
@[simp] theorem State.withInv_sco (g : Inv → Inv) : (s.withInv g).sco = s.sco := rfl
@[simp] theorem State.withInv_pins (g : Inv → Inv) : (s.withInv g).pins = s.pins := rfl
@[simp] theorem State.withInv_edge (g : Inv → Inv) : (s.withInv g).edge = s.edge := rfl
@[simp] theorem State.withInv_touch (g : Inv → Inv) : (s.withInv g).touch = s.touch := rfl
@[simp] theorem State.withInv_resetting (g : Inv → Inv) : (s.withInv g).resetting = s.resetting := rfl
@[simp] theorem State.withInv_mirror (g : Inv → Inv) : (s.withInv g).mirror = s.mirror := rfl
@[simp] theorem State.withInv_reg (g : Inv → Inv) (q o : Nat) : (s.withInv g).reg q o = s.reg q o := rfl
@[simp] theorem State.withInv_get (g : Inv → Inv) (q : Nat) (h : Fld) : (s.withInv g).get q h = s.get q h := rfl
@[simp] theorem State.withInv_bit (g : Inv → Inv) (q : Nat) (h : Fld) : (s.withInv g).bit q h = s.bit q h := rfl
@[simp] theorem State.withInv_bitOf (g : Inv → Inv) (q : Nat) (h : Fld) (i : Nat) : (s.withInv g).bitOf q h i = s.bitOf q h i := rfl
@[simp] theorem State.withInv_enabled (g : Inv → Inv) (q : Nat) : (s.withInv g).enabled q = s.enabled q := rfl
@[simp] theorem State.withInv_coreUp (g : Inv → Inv) : (s.withInv g).coreUp = s.coreUp := rfl
@[simp] theorem State.withInv_coreRuns (g : Inv → Inv) : (s.withInv g).coreRuns = s.coreRuns := rfl

@[simp] theorem State.withKbz_pending (g : Kbz → Kbz) : (s.withKbz g).pending = s.pending := rfl
@[simp] theorem State.withKbz_now (g : Kbz → Kbz) : (s.withKbz g).now = s.now := rfl
@[simp] theorem State.withKbz_agenda (g : Kbz → Kbz) : (s.withKbz g).agenda = s.agenda := rfl
@[simp] theorem State.withKbz_regs (g : Kbz → Kbz) : (s.withKbz g).regs = s.regs := rfl
@[simp] theorem State.withKbz_regPsn (g : Kbz → Kbz) : (s.withKbz g).regPsn = s.regPsn := rfl
@[simp] theorem State.withKbz_crcHeld (g : Kbz → Kbz) : (s.withKbz g).crcHeld = s.crcHeld := rfl
@[simp] theorem State.withKbz_sram (g : Kbz → Kbz) : (s.withKbz g).sram = s.sram := rfl
@[simp] theorem State.withKbz_parity (g : Kbz → Kbz) : (s.withKbz g).parity = s.parity := rfl
@[simp] theorem State.withKbz_free (g : Kbz → Kbz) : (s.withKbz g).free = s.free := rfl
@[simp] theorem State.withKbz_cmps (g : Kbz → Kbz) : (s.withKbz g).cmps = s.cmps := rfl
@[simp] theorem State.withKbz_ang (g : Kbz → Kbz) : (s.withKbz g).ang = s.ang := rfl
@[simp] theorem State.withKbz_deliveries (g : Kbz → Kbz) : (s.withKbz g).deliveries = s.deliveries := rfl
@[simp] theorem State.withKbz_mch (g : Kbz → Kbz) : (s.withKbz g).mch = s.mch := rfl
@[simp] theorem State.withKbz_scoQueue (g : Kbz → Kbz) : (s.withKbz g).scoQueue = s.scoQueue := rfl
@[simp] theorem State.withKbz_flt (g : Kbz → Kbz) : (s.withKbz g).flt = s.flt := rfl
@[simp] theorem State.withKbz_hpt (g : Kbz → Kbz) : (s.withKbz g).hpt = s.hpt := rfl
@[simp] theorem State.withKbz_scb (g : Kbz → Kbz) : (s.withKbz g).scb = s.scb := rfl
@[simp] theorem State.withKbz_poisonEdge (g : Kbz → Kbz) : (s.withKbz g).poisonEdge = s.poisonEdge := rfl
@[simp] theorem State.withKbz_codecInj (g : Kbz → Kbz) : (s.withKbz g).codecInj = s.codecInj := rfl
@[simp] theorem State.withKbz_memPhase (g : Kbz → Kbz) : (s.withKbz g).memPhase = s.memPhase := rfl
@[simp] theorem State.withKbz_bistBank (g : Kbz → Kbz) : (s.withKbz g).bistBank = s.bistBank := rfl
@[simp] theorem State.withKbz_cku (g : Kbz → Kbz) : (s.withKbz g).cku = s.cku := rfl
@[simp] theorem State.withKbz_pwr (g : Kbz → Kbz) : (s.withKbz g).pwr = s.pwr := rfl
@[simp] theorem State.withKbz_ctxs (g : Kbz → Kbz) : (s.withKbz g).ctxs = s.ctxs := rfl
@[simp] theorem State.withKbz_txc (g : Kbz → Kbz) : (s.withKbz g).txc = s.txc := rfl
@[simp] theorem State.withKbz_wingEnds (g : Kbz → Kbz) : (s.withKbz g).wingEnds = s.wingEnds := rfl
@[simp] theorem State.withKbz_rxc (g : Kbz → Kbz) : (s.withKbz g).rxc = s.rxc := rfl
@[simp] theorem State.withKbz_timers (g : Kbz → Kbz) : (s.withKbz g).timers = s.timers := rfl
@[simp] theorem State.withKbz_xmp (g : Kbz → Kbz) : (s.withKbz g).xmp = s.xmp := rfl
@[simp] theorem State.withKbz_engs (g : Kbz → Kbz) : (s.withKbz g).engs = s.engs := rfl
@[simp] theorem State.withKbz_inv (g : Kbz → Kbz) : (s.withKbz g).inv = s.inv := rfl
@[simp] theorem State.withKbz_rates (g : Kbz → Kbz) : (s.withKbz g).rates = s.rates := rfl
@[simp] theorem State.withKbz_lockMism (g : Kbz → Kbz) : (s.withKbz g).lockMism = s.lockMism := rfl
@[simp] theorem State.withKbz_slot (g : Kbz → Kbz) : (s.withKbz g).slot = s.slot := rfl
@[simp] theorem State.withKbz_fires (g : Kbz → Kbz) : (s.withKbz g).fires = s.fires := rfl
@[simp] theorem State.withKbz_trig (g : Kbz → Kbz) : (s.withKbz g).trig = s.trig := rfl
@[simp] theorem State.withKbz_cal (g : Kbz → Kbz) : (s.withKbz g).cal = s.cal := rfl
@[simp] theorem State.withKbz_sco (g : Kbz → Kbz) : (s.withKbz g).sco = s.sco := rfl
@[simp] theorem State.withKbz_pins (g : Kbz → Kbz) : (s.withKbz g).pins = s.pins := rfl
@[simp] theorem State.withKbz_edge (g : Kbz → Kbz) : (s.withKbz g).edge = s.edge := rfl
@[simp] theorem State.withKbz_touch (g : Kbz → Kbz) : (s.withKbz g).touch = s.touch := rfl
@[simp] theorem State.withKbz_resetting (g : Kbz → Kbz) : (s.withKbz g).resetting = s.resetting := rfl
@[simp] theorem State.withKbz_mirror (g : Kbz → Kbz) : (s.withKbz g).mirror = s.mirror := rfl
@[simp] theorem State.withKbz_reg (g : Kbz → Kbz) (q o : Nat) : (s.withKbz g).reg q o = s.reg q o := rfl
@[simp] theorem State.withKbz_get (g : Kbz → Kbz) (q : Nat) (h : Fld) : (s.withKbz g).get q h = s.get q h := rfl
@[simp] theorem State.withKbz_bit (g : Kbz → Kbz) (q : Nat) (h : Fld) : (s.withKbz g).bit q h = s.bit q h := rfl
@[simp] theorem State.withKbz_bitOf (g : Kbz → Kbz) (q : Nat) (h : Fld) (i : Nat) : (s.withKbz g).bitOf q h i = s.bitOf q h i := rfl
@[simp] theorem State.withKbz_enabled (g : Kbz → Kbz) (q : Nat) : (s.withKbz g).enabled q = s.enabled q := rfl
@[simp] theorem State.withKbz_coreUp (g : Kbz → Kbz) : (s.withKbz g).coreUp = s.coreUp := rfl
@[simp] theorem State.withKbz_coreRuns (g : Kbz → Kbz) : (s.withKbz g).coreRuns = s.coreRuns := rfl

@[simp] theorem State.withCal_pending (g : Cal → Cal) : (s.withCal g).pending = s.pending := rfl
@[simp] theorem State.withCal_now (g : Cal → Cal) : (s.withCal g).now = s.now := rfl
@[simp] theorem State.withCal_agenda (g : Cal → Cal) : (s.withCal g).agenda = s.agenda := rfl
@[simp] theorem State.withCal_regs (g : Cal → Cal) : (s.withCal g).regs = s.regs := rfl
@[simp] theorem State.withCal_regPsn (g : Cal → Cal) : (s.withCal g).regPsn = s.regPsn := rfl
@[simp] theorem State.withCal_crcHeld (g : Cal → Cal) : (s.withCal g).crcHeld = s.crcHeld := rfl
@[simp] theorem State.withCal_sram (g : Cal → Cal) : (s.withCal g).sram = s.sram := rfl
@[simp] theorem State.withCal_parity (g : Cal → Cal) : (s.withCal g).parity = s.parity := rfl
@[simp] theorem State.withCal_free (g : Cal → Cal) : (s.withCal g).free = s.free := rfl
@[simp] theorem State.withCal_cmps (g : Cal → Cal) : (s.withCal g).cmps = s.cmps := rfl
@[simp] theorem State.withCal_ang (g : Cal → Cal) : (s.withCal g).ang = s.ang := rfl
@[simp] theorem State.withCal_deliveries (g : Cal → Cal) : (s.withCal g).deliveries = s.deliveries := rfl
@[simp] theorem State.withCal_mch (g : Cal → Cal) : (s.withCal g).mch = s.mch := rfl
@[simp] theorem State.withCal_scoQueue (g : Cal → Cal) : (s.withCal g).scoQueue = s.scoQueue := rfl
@[simp] theorem State.withCal_flt (g : Cal → Cal) : (s.withCal g).flt = s.flt := rfl
@[simp] theorem State.withCal_hpt (g : Cal → Cal) : (s.withCal g).hpt = s.hpt := rfl
@[simp] theorem State.withCal_scb (g : Cal → Cal) : (s.withCal g).scb = s.scb := rfl
@[simp] theorem State.withCal_poisonEdge (g : Cal → Cal) : (s.withCal g).poisonEdge = s.poisonEdge := rfl
@[simp] theorem State.withCal_codecInj (g : Cal → Cal) : (s.withCal g).codecInj = s.codecInj := rfl
@[simp] theorem State.withCal_memPhase (g : Cal → Cal) : (s.withCal g).memPhase = s.memPhase := rfl
@[simp] theorem State.withCal_bistBank (g : Cal → Cal) : (s.withCal g).bistBank = s.bistBank := rfl
@[simp] theorem State.withCal_cku (g : Cal → Cal) : (s.withCal g).cku = s.cku := rfl
@[simp] theorem State.withCal_pwr (g : Cal → Cal) : (s.withCal g).pwr = s.pwr := rfl
@[simp] theorem State.withCal_ctxs (g : Cal → Cal) : (s.withCal g).ctxs = s.ctxs := rfl
@[simp] theorem State.withCal_txc (g : Cal → Cal) : (s.withCal g).txc = s.txc := rfl
@[simp] theorem State.withCal_wingEnds (g : Cal → Cal) : (s.withCal g).wingEnds = s.wingEnds := rfl
@[simp] theorem State.withCal_rxc (g : Cal → Cal) : (s.withCal g).rxc = s.rxc := rfl
@[simp] theorem State.withCal_timers (g : Cal → Cal) : (s.withCal g).timers = s.timers := rfl
@[simp] theorem State.withCal_xmp (g : Cal → Cal) : (s.withCal g).xmp = s.xmp := rfl
@[simp] theorem State.withCal_engs (g : Cal → Cal) : (s.withCal g).engs = s.engs := rfl
@[simp] theorem State.withCal_inv (g : Cal → Cal) : (s.withCal g).inv = s.inv := rfl
@[simp] theorem State.withCal_rates (g : Cal → Cal) : (s.withCal g).rates = s.rates := rfl
@[simp] theorem State.withCal_kbz (g : Cal → Cal) : (s.withCal g).kbz = s.kbz := rfl
@[simp] theorem State.withCal_lockMism (g : Cal → Cal) : (s.withCal g).lockMism = s.lockMism := rfl
@[simp] theorem State.withCal_slot (g : Cal → Cal) : (s.withCal g).slot = s.slot := rfl
@[simp] theorem State.withCal_fires (g : Cal → Cal) : (s.withCal g).fires = s.fires := rfl
@[simp] theorem State.withCal_trig (g : Cal → Cal) : (s.withCal g).trig = s.trig := rfl
@[simp] theorem State.withCal_sco (g : Cal → Cal) : (s.withCal g).sco = s.sco := rfl
@[simp] theorem State.withCal_pins (g : Cal → Cal) : (s.withCal g).pins = s.pins := rfl
@[simp] theorem State.withCal_edge (g : Cal → Cal) : (s.withCal g).edge = s.edge := rfl
@[simp] theorem State.withCal_touch (g : Cal → Cal) : (s.withCal g).touch = s.touch := rfl
@[simp] theorem State.withCal_resetting (g : Cal → Cal) : (s.withCal g).resetting = s.resetting := rfl
@[simp] theorem State.withCal_mirror (g : Cal → Cal) : (s.withCal g).mirror = s.mirror := rfl
@[simp] theorem State.withCal_reg (g : Cal → Cal) (q o : Nat) : (s.withCal g).reg q o = s.reg q o := rfl
@[simp] theorem State.withCal_get (g : Cal → Cal) (q : Nat) (h : Fld) : (s.withCal g).get q h = s.get q h := rfl
@[simp] theorem State.withCal_bit (g : Cal → Cal) (q : Nat) (h : Fld) : (s.withCal g).bit q h = s.bit q h := rfl
@[simp] theorem State.withCal_bitOf (g : Cal → Cal) (q : Nat) (h : Fld) (i : Nat) : (s.withCal g).bitOf q h i = s.bitOf q h i := rfl
@[simp] theorem State.withCal_enabled (g : Cal → Cal) (q : Nat) : (s.withCal g).enabled q = s.enabled q := rfl
@[simp] theorem State.withCal_coreUp (g : Cal → Cal) : (s.withCal g).coreUp = s.coreUp := rfl
@[simp] theorem State.withCal_coreRuns (g : Cal → Cal) : (s.withCal g).coreRuns = s.coreRuns := rfl

@[simp] theorem State.withSco_pending (g : Sco → Sco) : (s.withSco g).pending = s.pending := rfl
@[simp] theorem State.withSco_now (g : Sco → Sco) : (s.withSco g).now = s.now := rfl
@[simp] theorem State.withSco_agenda (g : Sco → Sco) : (s.withSco g).agenda = s.agenda := rfl
@[simp] theorem State.withSco_regs (g : Sco → Sco) : (s.withSco g).regs = s.regs := rfl
@[simp] theorem State.withSco_regPsn (g : Sco → Sco) : (s.withSco g).regPsn = s.regPsn := rfl
@[simp] theorem State.withSco_crcHeld (g : Sco → Sco) : (s.withSco g).crcHeld = s.crcHeld := rfl
@[simp] theorem State.withSco_sram (g : Sco → Sco) : (s.withSco g).sram = s.sram := rfl
@[simp] theorem State.withSco_parity (g : Sco → Sco) : (s.withSco g).parity = s.parity := rfl
@[simp] theorem State.withSco_free (g : Sco → Sco) : (s.withSco g).free = s.free := rfl
@[simp] theorem State.withSco_cmps (g : Sco → Sco) : (s.withSco g).cmps = s.cmps := rfl
@[simp] theorem State.withSco_ang (g : Sco → Sco) : (s.withSco g).ang = s.ang := rfl
@[simp] theorem State.withSco_deliveries (g : Sco → Sco) : (s.withSco g).deliveries = s.deliveries := rfl
@[simp] theorem State.withSco_mch (g : Sco → Sco) : (s.withSco g).mch = s.mch := rfl
@[simp] theorem State.withSco_scoQueue (g : Sco → Sco) : (s.withSco g).scoQueue = s.scoQueue := rfl
@[simp] theorem State.withSco_flt (g : Sco → Sco) : (s.withSco g).flt = s.flt := rfl
@[simp] theorem State.withSco_hpt (g : Sco → Sco) : (s.withSco g).hpt = s.hpt := rfl
@[simp] theorem State.withSco_scb (g : Sco → Sco) : (s.withSco g).scb = s.scb := rfl
@[simp] theorem State.withSco_poisonEdge (g : Sco → Sco) : (s.withSco g).poisonEdge = s.poisonEdge := rfl
@[simp] theorem State.withSco_codecInj (g : Sco → Sco) : (s.withSco g).codecInj = s.codecInj := rfl
@[simp] theorem State.withSco_memPhase (g : Sco → Sco) : (s.withSco g).memPhase = s.memPhase := rfl
@[simp] theorem State.withSco_bistBank (g : Sco → Sco) : (s.withSco g).bistBank = s.bistBank := rfl
@[simp] theorem State.withSco_cku (g : Sco → Sco) : (s.withSco g).cku = s.cku := rfl
@[simp] theorem State.withSco_pwr (g : Sco → Sco) : (s.withSco g).pwr = s.pwr := rfl
@[simp] theorem State.withSco_ctxs (g : Sco → Sco) : (s.withSco g).ctxs = s.ctxs := rfl
@[simp] theorem State.withSco_txc (g : Sco → Sco) : (s.withSco g).txc = s.txc := rfl
@[simp] theorem State.withSco_wingEnds (g : Sco → Sco) : (s.withSco g).wingEnds = s.wingEnds := rfl
@[simp] theorem State.withSco_rxc (g : Sco → Sco) : (s.withSco g).rxc = s.rxc := rfl
@[simp] theorem State.withSco_timers (g : Sco → Sco) : (s.withSco g).timers = s.timers := rfl
@[simp] theorem State.withSco_xmp (g : Sco → Sco) : (s.withSco g).xmp = s.xmp := rfl
@[simp] theorem State.withSco_engs (g : Sco → Sco) : (s.withSco g).engs = s.engs := rfl
@[simp] theorem State.withSco_inv (g : Sco → Sco) : (s.withSco g).inv = s.inv := rfl
@[simp] theorem State.withSco_rates (g : Sco → Sco) : (s.withSco g).rates = s.rates := rfl
@[simp] theorem State.withSco_kbz (g : Sco → Sco) : (s.withSco g).kbz = s.kbz := rfl
@[simp] theorem State.withSco_lockMism (g : Sco → Sco) : (s.withSco g).lockMism = s.lockMism := rfl
@[simp] theorem State.withSco_slot (g : Sco → Sco) : (s.withSco g).slot = s.slot := rfl
@[simp] theorem State.withSco_fires (g : Sco → Sco) : (s.withSco g).fires = s.fires := rfl
@[simp] theorem State.withSco_trig (g : Sco → Sco) : (s.withSco g).trig = s.trig := rfl
@[simp] theorem State.withSco_cal (g : Sco → Sco) : (s.withSco g).cal = s.cal := rfl
@[simp] theorem State.withSco_pins (g : Sco → Sco) : (s.withSco g).pins = s.pins := rfl
@[simp] theorem State.withSco_edge (g : Sco → Sco) : (s.withSco g).edge = s.edge := rfl
@[simp] theorem State.withSco_touch (g : Sco → Sco) : (s.withSco g).touch = s.touch := rfl
@[simp] theorem State.withSco_resetting (g : Sco → Sco) : (s.withSco g).resetting = s.resetting := rfl
@[simp] theorem State.withSco_mirror (g : Sco → Sco) : (s.withSco g).mirror = s.mirror := rfl
@[simp] theorem State.withSco_reg (g : Sco → Sco) (q o : Nat) : (s.withSco g).reg q o = s.reg q o := rfl
@[simp] theorem State.withSco_get (g : Sco → Sco) (q : Nat) (h : Fld) : (s.withSco g).get q h = s.get q h := rfl
@[simp] theorem State.withSco_bit (g : Sco → Sco) (q : Nat) (h : Fld) : (s.withSco g).bit q h = s.bit q h := rfl
@[simp] theorem State.withSco_bitOf (g : Sco → Sco) (q : Nat) (h : Fld) (i : Nat) : (s.withSco g).bitOf q h i = s.bitOf q h i := rfl
@[simp] theorem State.withSco_enabled (g : Sco → Sco) (q : Nat) : (s.withSco g).enabled q = s.enabled q := rfl
@[simp] theorem State.withSco_coreUp (g : Sco → Sco) : (s.withSco g).coreUp = s.coreUp := rfl
@[simp] theorem State.withSco_coreRuns (g : Sco → Sco) : (s.withSco g).coreRuns = s.coreRuns := rfl

@[simp] theorem State.withHpt_pending (g : Hpt → Hpt) : (s.withHpt g).pending = s.pending := rfl
@[simp] theorem State.withHpt_now (g : Hpt → Hpt) : (s.withHpt g).now = s.now := rfl
@[simp] theorem State.withHpt_agenda (g : Hpt → Hpt) : (s.withHpt g).agenda = s.agenda := rfl
@[simp] theorem State.withHpt_regs (g : Hpt → Hpt) : (s.withHpt g).regs = s.regs := rfl
@[simp] theorem State.withHpt_regPsn (g : Hpt → Hpt) : (s.withHpt g).regPsn = s.regPsn := rfl
@[simp] theorem State.withHpt_crcHeld (g : Hpt → Hpt) : (s.withHpt g).crcHeld = s.crcHeld := rfl
@[simp] theorem State.withHpt_sram (g : Hpt → Hpt) : (s.withHpt g).sram = s.sram := rfl
@[simp] theorem State.withHpt_parity (g : Hpt → Hpt) : (s.withHpt g).parity = s.parity := rfl
@[simp] theorem State.withHpt_free (g : Hpt → Hpt) : (s.withHpt g).free = s.free := rfl
@[simp] theorem State.withHpt_cmps (g : Hpt → Hpt) : (s.withHpt g).cmps = s.cmps := rfl
@[simp] theorem State.withHpt_ang (g : Hpt → Hpt) : (s.withHpt g).ang = s.ang := rfl
@[simp] theorem State.withHpt_deliveries (g : Hpt → Hpt) : (s.withHpt g).deliveries = s.deliveries := rfl
@[simp] theorem State.withHpt_mch (g : Hpt → Hpt) : (s.withHpt g).mch = s.mch := rfl
@[simp] theorem State.withHpt_scoQueue (g : Hpt → Hpt) : (s.withHpt g).scoQueue = s.scoQueue := rfl
@[simp] theorem State.withHpt_flt (g : Hpt → Hpt) : (s.withHpt g).flt = s.flt := rfl
@[simp] theorem State.withHpt_scb (g : Hpt → Hpt) : (s.withHpt g).scb = s.scb := rfl
@[simp] theorem State.withHpt_poisonEdge (g : Hpt → Hpt) : (s.withHpt g).poisonEdge = s.poisonEdge := rfl
@[simp] theorem State.withHpt_codecInj (g : Hpt → Hpt) : (s.withHpt g).codecInj = s.codecInj := rfl
@[simp] theorem State.withHpt_memPhase (g : Hpt → Hpt) : (s.withHpt g).memPhase = s.memPhase := rfl
@[simp] theorem State.withHpt_bistBank (g : Hpt → Hpt) : (s.withHpt g).bistBank = s.bistBank := rfl
@[simp] theorem State.withHpt_cku (g : Hpt → Hpt) : (s.withHpt g).cku = s.cku := rfl
@[simp] theorem State.withHpt_pwr (g : Hpt → Hpt) : (s.withHpt g).pwr = s.pwr := rfl
@[simp] theorem State.withHpt_ctxs (g : Hpt → Hpt) : (s.withHpt g).ctxs = s.ctxs := rfl
@[simp] theorem State.withHpt_txc (g : Hpt → Hpt) : (s.withHpt g).txc = s.txc := rfl
@[simp] theorem State.withHpt_wingEnds (g : Hpt → Hpt) : (s.withHpt g).wingEnds = s.wingEnds := rfl
@[simp] theorem State.withHpt_rxc (g : Hpt → Hpt) : (s.withHpt g).rxc = s.rxc := rfl
@[simp] theorem State.withHpt_timers (g : Hpt → Hpt) : (s.withHpt g).timers = s.timers := rfl
@[simp] theorem State.withHpt_xmp (g : Hpt → Hpt) : (s.withHpt g).xmp = s.xmp := rfl
@[simp] theorem State.withHpt_engs (g : Hpt → Hpt) : (s.withHpt g).engs = s.engs := rfl
@[simp] theorem State.withHpt_inv (g : Hpt → Hpt) : (s.withHpt g).inv = s.inv := rfl
@[simp] theorem State.withHpt_rates (g : Hpt → Hpt) : (s.withHpt g).rates = s.rates := rfl
@[simp] theorem State.withHpt_kbz (g : Hpt → Hpt) : (s.withHpt g).kbz = s.kbz := rfl
@[simp] theorem State.withHpt_lockMism (g : Hpt → Hpt) : (s.withHpt g).lockMism = s.lockMism := rfl
@[simp] theorem State.withHpt_slot (g : Hpt → Hpt) : (s.withHpt g).slot = s.slot := rfl
@[simp] theorem State.withHpt_fires (g : Hpt → Hpt) : (s.withHpt g).fires = s.fires := rfl
@[simp] theorem State.withHpt_trig (g : Hpt → Hpt) : (s.withHpt g).trig = s.trig := rfl
@[simp] theorem State.withHpt_cal (g : Hpt → Hpt) : (s.withHpt g).cal = s.cal := rfl
@[simp] theorem State.withHpt_sco (g : Hpt → Hpt) : (s.withHpt g).sco = s.sco := rfl
@[simp] theorem State.withHpt_pins (g : Hpt → Hpt) : (s.withHpt g).pins = s.pins := rfl
@[simp] theorem State.withHpt_edge (g : Hpt → Hpt) : (s.withHpt g).edge = s.edge := rfl
@[simp] theorem State.withHpt_touch (g : Hpt → Hpt) : (s.withHpt g).touch = s.touch := rfl
@[simp] theorem State.withHpt_resetting (g : Hpt → Hpt) : (s.withHpt g).resetting = s.resetting := rfl
@[simp] theorem State.withHpt_mirror (g : Hpt → Hpt) : (s.withHpt g).mirror = s.mirror := rfl
@[simp] theorem State.withHpt_reg (g : Hpt → Hpt) (q o : Nat) : (s.withHpt g).reg q o = s.reg q o := rfl
@[simp] theorem State.withHpt_get (g : Hpt → Hpt) (q : Nat) (h : Fld) : (s.withHpt g).get q h = s.get q h := rfl
@[simp] theorem State.withHpt_bit (g : Hpt → Hpt) (q : Nat) (h : Fld) : (s.withHpt g).bit q h = s.bit q h := rfl
@[simp] theorem State.withHpt_bitOf (g : Hpt → Hpt) (q : Nat) (h : Fld) (i : Nat) : (s.withHpt g).bitOf q h i = s.bitOf q h i := rfl
@[simp] theorem State.withHpt_enabled (g : Hpt → Hpt) (q : Nat) : (s.withHpt g).enabled q = s.enabled q := rfl
@[simp] theorem State.withHpt_coreUp (g : Hpt → Hpt) : (s.withHpt g).coreUp = s.coreUp := rfl
@[simp] theorem State.withHpt_coreRuns (g : Hpt → Hpt) : (s.withHpt g).coreRuns = s.coreRuns := rfl

@[simp] theorem State.putWord_pending (a : Nat) (w : Stored) : (s.putWord a w).pending = s.pending := rfl
@[simp] theorem State.putWord_now (a : Nat) (w : Stored) : (s.putWord a w).now = s.now := rfl
@[simp] theorem State.putWord_agenda (a : Nat) (w : Stored) : (s.putWord a w).agenda = s.agenda := rfl
@[simp] theorem State.putWord_regs (a : Nat) (w : Stored) : (s.putWord a w).regs = s.regs := rfl
@[simp] theorem State.putWord_regPsn (a : Nat) (w : Stored) : (s.putWord a w).regPsn = s.regPsn := rfl
@[simp] theorem State.putWord_crcHeld (a : Nat) (w : Stored) : (s.putWord a w).crcHeld = s.crcHeld := rfl
@[simp] theorem State.putWord_parity (a : Nat) (w : Stored) : (s.putWord a w).parity = s.parity := rfl
@[simp] theorem State.putWord_free (a : Nat) (w : Stored) : (s.putWord a w).free = s.free := rfl
@[simp] theorem State.putWord_cmps (a : Nat) (w : Stored) : (s.putWord a w).cmps = s.cmps := rfl
@[simp] theorem State.putWord_ang (a : Nat) (w : Stored) : (s.putWord a w).ang = s.ang := rfl
@[simp] theorem State.putWord_deliveries (a : Nat) (w : Stored) : (s.putWord a w).deliveries = s.deliveries := rfl
@[simp] theorem State.putWord_mch (a : Nat) (w : Stored) : (s.putWord a w).mch = s.mch := rfl
@[simp] theorem State.putWord_scoQueue (a : Nat) (w : Stored) : (s.putWord a w).scoQueue = s.scoQueue := rfl
@[simp] theorem State.putWord_flt (a : Nat) (w : Stored) : (s.putWord a w).flt = s.flt := rfl
@[simp] theorem State.putWord_hpt (a : Nat) (w : Stored) : (s.putWord a w).hpt = s.hpt := rfl
@[simp] theorem State.putWord_scb (a : Nat) (w : Stored) : (s.putWord a w).scb = s.scb := rfl
@[simp] theorem State.putWord_poisonEdge (a : Nat) (w : Stored) : (s.putWord a w).poisonEdge = s.poisonEdge := rfl
@[simp] theorem State.putWord_codecInj (a : Nat) (w : Stored) : (s.putWord a w).codecInj = s.codecInj := rfl
@[simp] theorem State.putWord_memPhase (a : Nat) (w : Stored) : (s.putWord a w).memPhase = s.memPhase := rfl
@[simp] theorem State.putWord_bistBank (a : Nat) (w : Stored) : (s.putWord a w).bistBank = s.bistBank := rfl
@[simp] theorem State.putWord_cku (a : Nat) (w : Stored) : (s.putWord a w).cku = s.cku := rfl
@[simp] theorem State.putWord_pwr (a : Nat) (w : Stored) : (s.putWord a w).pwr = s.pwr := rfl
@[simp] theorem State.putWord_ctxs (a : Nat) (w : Stored) : (s.putWord a w).ctxs = s.ctxs := rfl
@[simp] theorem State.putWord_txc (a : Nat) (w : Stored) : (s.putWord a w).txc = s.txc := rfl
@[simp] theorem State.putWord_wingEnds (a : Nat) (w : Stored) : (s.putWord a w).wingEnds = s.wingEnds := rfl
@[simp] theorem State.putWord_rxc (a : Nat) (w : Stored) : (s.putWord a w).rxc = s.rxc := rfl
@[simp] theorem State.putWord_timers (a : Nat) (w : Stored) : (s.putWord a w).timers = s.timers := rfl
@[simp] theorem State.putWord_xmp (a : Nat) (w : Stored) : (s.putWord a w).xmp = s.xmp := rfl
@[simp] theorem State.putWord_engs (a : Nat) (w : Stored) : (s.putWord a w).engs = s.engs := rfl
@[simp] theorem State.putWord_inv (a : Nat) (w : Stored) : (s.putWord a w).inv = s.inv := rfl
@[simp] theorem State.putWord_rates (a : Nat) (w : Stored) : (s.putWord a w).rates = s.rates := rfl
@[simp] theorem State.putWord_kbz (a : Nat) (w : Stored) : (s.putWord a w).kbz = s.kbz := rfl
@[simp] theorem State.putWord_lockMism (a : Nat) (w : Stored) : (s.putWord a w).lockMism = s.lockMism := rfl
@[simp] theorem State.putWord_slot (a : Nat) (w : Stored) : (s.putWord a w).slot = s.slot := rfl
@[simp] theorem State.putWord_fires (a : Nat) (w : Stored) : (s.putWord a w).fires = s.fires := rfl
@[simp] theorem State.putWord_trig (a : Nat) (w : Stored) : (s.putWord a w).trig = s.trig := rfl
@[simp] theorem State.putWord_cal (a : Nat) (w : Stored) : (s.putWord a w).cal = s.cal := rfl
@[simp] theorem State.putWord_sco (a : Nat) (w : Stored) : (s.putWord a w).sco = s.sco := rfl
@[simp] theorem State.putWord_pins (a : Nat) (w : Stored) : (s.putWord a w).pins = s.pins := rfl
@[simp] theorem State.putWord_edge (a : Nat) (w : Stored) : (s.putWord a w).edge = s.edge := rfl
@[simp] theorem State.putWord_touch (a : Nat) (w : Stored) : (s.putWord a w).touch = s.touch := rfl
@[simp] theorem State.putWord_resetting (a : Nat) (w : Stored) : (s.putWord a w).resetting = s.resetting := rfl
@[simp] theorem State.putWord_mirror (a : Nat) (w : Stored) : (s.putWord a w).mirror = s.mirror := rfl
@[simp] theorem State.putWord_reg (a : Nat) (w : Stored) (q o : Nat) : (s.putWord a w).reg q o = s.reg q o := rfl
@[simp] theorem State.putWord_get (a : Nat) (w : Stored) (q : Nat) (h : Fld) : (s.putWord a w).get q h = s.get q h := rfl
@[simp] theorem State.putWord_bit (a : Nat) (w : Stored) (q : Nat) (h : Fld) : (s.putWord a w).bit q h = s.bit q h := rfl
@[simp] theorem State.putWord_bitOf (a : Nat) (w : Stored) (q : Nat) (h : Fld) (i : Nat) : (s.putWord a w).bitOf q h i = s.bitOf q h i := rfl
@[simp] theorem State.putWord_enabled (a : Nat) (w : Stored) (q : Nat) : (s.putWord a w).enabled q = s.enabled q := rfl
@[simp] theorem State.putWord_coreUp (a : Nat) (w : Stored) : (s.putWord a w).coreUp = s.coreUp := rfl
@[simp] theorem State.putWord_coreRuns (a : Nat) (w : Stored) : (s.putWord a w).coreRuns = s.coreRuns := rfl

@[simp] theorem State.putParity_pending (l : Nat) (w : Stored) : (s.putParity l w).pending = s.pending := rfl
@[simp] theorem State.putParity_now (l : Nat) (w : Stored) : (s.putParity l w).now = s.now := rfl
@[simp] theorem State.putParity_agenda (l : Nat) (w : Stored) : (s.putParity l w).agenda = s.agenda := rfl
@[simp] theorem State.putParity_regs (l : Nat) (w : Stored) : (s.putParity l w).regs = s.regs := rfl
@[simp] theorem State.putParity_regPsn (l : Nat) (w : Stored) : (s.putParity l w).regPsn = s.regPsn := rfl
@[simp] theorem State.putParity_crcHeld (l : Nat) (w : Stored) : (s.putParity l w).crcHeld = s.crcHeld := rfl
@[simp] theorem State.putParity_sram (l : Nat) (w : Stored) : (s.putParity l w).sram = s.sram := rfl
@[simp] theorem State.putParity_free (l : Nat) (w : Stored) : (s.putParity l w).free = s.free := rfl
@[simp] theorem State.putParity_cmps (l : Nat) (w : Stored) : (s.putParity l w).cmps = s.cmps := rfl
@[simp] theorem State.putParity_ang (l : Nat) (w : Stored) : (s.putParity l w).ang = s.ang := rfl
@[simp] theorem State.putParity_deliveries (l : Nat) (w : Stored) : (s.putParity l w).deliveries = s.deliveries := rfl
@[simp] theorem State.putParity_mch (l : Nat) (w : Stored) : (s.putParity l w).mch = s.mch := rfl
@[simp] theorem State.putParity_scoQueue (l : Nat) (w : Stored) : (s.putParity l w).scoQueue = s.scoQueue := rfl
@[simp] theorem State.putParity_flt (l : Nat) (w : Stored) : (s.putParity l w).flt = s.flt := rfl
@[simp] theorem State.putParity_hpt (l : Nat) (w : Stored) : (s.putParity l w).hpt = s.hpt := rfl
@[simp] theorem State.putParity_scb (l : Nat) (w : Stored) : (s.putParity l w).scb = s.scb := rfl
@[simp] theorem State.putParity_poisonEdge (l : Nat) (w : Stored) : (s.putParity l w).poisonEdge = s.poisonEdge := rfl
@[simp] theorem State.putParity_codecInj (l : Nat) (w : Stored) : (s.putParity l w).codecInj = s.codecInj := rfl
@[simp] theorem State.putParity_memPhase (l : Nat) (w : Stored) : (s.putParity l w).memPhase = s.memPhase := rfl
@[simp] theorem State.putParity_bistBank (l : Nat) (w : Stored) : (s.putParity l w).bistBank = s.bistBank := rfl
@[simp] theorem State.putParity_cku (l : Nat) (w : Stored) : (s.putParity l w).cku = s.cku := rfl
@[simp] theorem State.putParity_pwr (l : Nat) (w : Stored) : (s.putParity l w).pwr = s.pwr := rfl
@[simp] theorem State.putParity_ctxs (l : Nat) (w : Stored) : (s.putParity l w).ctxs = s.ctxs := rfl
@[simp] theorem State.putParity_txc (l : Nat) (w : Stored) : (s.putParity l w).txc = s.txc := rfl
@[simp] theorem State.putParity_wingEnds (l : Nat) (w : Stored) : (s.putParity l w).wingEnds = s.wingEnds := rfl
@[simp] theorem State.putParity_rxc (l : Nat) (w : Stored) : (s.putParity l w).rxc = s.rxc := rfl
@[simp] theorem State.putParity_timers (l : Nat) (w : Stored) : (s.putParity l w).timers = s.timers := rfl
@[simp] theorem State.putParity_xmp (l : Nat) (w : Stored) : (s.putParity l w).xmp = s.xmp := rfl
@[simp] theorem State.putParity_engs (l : Nat) (w : Stored) : (s.putParity l w).engs = s.engs := rfl
@[simp] theorem State.putParity_inv (l : Nat) (w : Stored) : (s.putParity l w).inv = s.inv := rfl
@[simp] theorem State.putParity_rates (l : Nat) (w : Stored) : (s.putParity l w).rates = s.rates := rfl
@[simp] theorem State.putParity_kbz (l : Nat) (w : Stored) : (s.putParity l w).kbz = s.kbz := rfl
@[simp] theorem State.putParity_lockMism (l : Nat) (w : Stored) : (s.putParity l w).lockMism = s.lockMism := rfl
@[simp] theorem State.putParity_slot (l : Nat) (w : Stored) : (s.putParity l w).slot = s.slot := rfl
@[simp] theorem State.putParity_fires (l : Nat) (w : Stored) : (s.putParity l w).fires = s.fires := rfl
@[simp] theorem State.putParity_trig (l : Nat) (w : Stored) : (s.putParity l w).trig = s.trig := rfl
@[simp] theorem State.putParity_cal (l : Nat) (w : Stored) : (s.putParity l w).cal = s.cal := rfl
@[simp] theorem State.putParity_sco (l : Nat) (w : Stored) : (s.putParity l w).sco = s.sco := rfl
@[simp] theorem State.putParity_pins (l : Nat) (w : Stored) : (s.putParity l w).pins = s.pins := rfl
@[simp] theorem State.putParity_edge (l : Nat) (w : Stored) : (s.putParity l w).edge = s.edge := rfl
@[simp] theorem State.putParity_touch (l : Nat) (w : Stored) : (s.putParity l w).touch = s.touch := rfl
@[simp] theorem State.putParity_resetting (l : Nat) (w : Stored) : (s.putParity l w).resetting = s.resetting := rfl
@[simp] theorem State.putParity_mirror (l : Nat) (w : Stored) : (s.putParity l w).mirror = s.mirror := rfl
@[simp] theorem State.putParity_reg (l : Nat) (w : Stored) (q o : Nat) : (s.putParity l w).reg q o = s.reg q o := rfl
@[simp] theorem State.putParity_get (l : Nat) (w : Stored) (q : Nat) (h : Fld) : (s.putParity l w).get q h = s.get q h := rfl
@[simp] theorem State.putParity_bit (l : Nat) (w : Stored) (q : Nat) (h : Fld) : (s.putParity l w).bit q h = s.bit q h := rfl
@[simp] theorem State.putParity_bitOf (l : Nat) (w : Stored) (q : Nat) (h : Fld) (i : Nat) : (s.putParity l w).bitOf q h i = s.bitOf q h i := rfl
@[simp] theorem State.putParity_enabled (l : Nat) (w : Stored) (q : Nat) : (s.putParity l w).enabled q = s.enabled q := rfl
@[simp] theorem State.putParity_coreUp (l : Nat) (w : Stored) : (s.putParity l w).coreUp = s.coreUp := rfl
@[simp] theorem State.putParity_coreRuns (l : Nat) (w : Stored) : (s.putParity l w).coreRuns = s.coreRuns := rfl

end Sys2Proof.Machine
end

