-- ==== Sys2Proof/Laws/Angle.lean ====
section
/-! SUPPORT. Laws of the Cycle Angle unit: what its configuration functions can change. -/

namespace Sys2Proof.Machine

open Sys2Proof

theorem Only.disarm {K : Nat → Nat → Bool} {s t : State} (h : Only K s t) (x : CmpUser) : Only K s (t.disarm x) := h.cmps _

theorem Only.arm {s t : State} (h : Only angKeys s t) (x : CmpUser) (g : Nat) : Only angKeys s (t.arm x g) :=
  h.trans (State.arm_only ..)

theorem Only.armPeriodic {K : Nat → Nat → Bool} {s t : State} (h : Only K s t) (x : CmpUser) (g : Nat) :
    Only K s (t.armPeriodic x g) := h.trans (State.armPeriodic_only ..)

theorem Only.unfire {K : Nat → Nat → Bool} {s t : State} (h : Only K s t) (x : CmpUser) : Only K s (t.unfire x) := ⟨h.reg, h.rest⟩

theorem Only.armNext {s t : State} (h : Only angKeys s t) (x : CmpUser) (g : Nat) : Only angKeys s (t.armNext x g) := by
  unfold State.armNext
  dsimp only
  have h := (h.disarm x).unfire x
  split
  · exact h.cmps _
  · split
    · exact ((Only.raise (p := pANG) (f := ANG.FLAG_LATE) h (by decide) (.inr (by decide)) _).trans (State.recordErr_only _ _ _ (.inr (by decide)))).sched _ _
    · split
      · exact h.sched _ _
      · exact h.cmps _

theorem State.alarmConfig_only (s : State) (n : Nat) : Only angKeys s (s.alarmConfig n) := by
  unfold State.alarmConfig
  dsimp only
  have h := ((Only.refl angKeys s).disarm (.alarm n)).unfire (.alarm n)
  split
  · split
    · exact h.armPeriodic _ _
    · exact h.armNext _ _
  · exact h

theorem State.applyConfig_only (s : State) : Only angKeys s s.applyConfig := by
  unfold State.applyConfig
  dsimp only
  have h := (Only.refl angKeys s).disarm .apply
  split
  · exact h.armPeriodic _ _
  · exact h

/-- What stays of the angle when only numbers, comparators and ANG's flags change. -/
theorem Only.ang {K : Nat → Nat → Bool} {s t : State} (h : Only K s t) : t.ang = s.ang := by
  have e := congrArg State.ang h.rest; exact e

/-- SYNC_OUT's comparator follows its register; of the angle unit only SYNC_OUT's level may change. -/
theorem State.syncOutConfig_keeps (s : State) :
    ∃ b, Only angKeys { s with ang := { s.ang with syncOut := b } } s.syncOutConfig := by
  unfold State.syncOutConfig
  dsimp only
  have h := (Only.refl angKeys s).disarm .syncOut
  split
  · exact ⟨s.ang.syncOut, h.armPeriodic _ _⟩
  · exact ⟨false, ⟨fun _ _ _ _ _ => rfl, rfl⟩⟩

/-- A state in which only the Match chain logic and the agenda have changed. -/
structure OnlyMch (s t : State) : Prop where
  regs : t.regs = s.regs
  rest : { t with mch := s.mch, agenda := s.agenda } = s

theorem OnlyMch.refl (s : State) : OnlyMch s s := ⟨rfl, rfl⟩

theorem OnlyMch.withMch {s t : State} (h : OnlyMch s t) (f : Mch → Mch) : OnlyMch s (t.withMch f) := ⟨h.regs, h.rest⟩

theorem OnlyMch.sched {s t : State} (h : OnlyMch s t) (d : Nat) (c : Instr) : OnlyMch s (t.sched d c) := ⟨h.regs, h.rest⟩

theorem OnlyMch.get {s t : State} (h : OnlyMch s t) (q : Nat) (f : Fld) : t.get q f = s.get q f := by
  unfold State.get State.reg; rw [h.regs]

theorem OnlyMch.ang {s t : State} (h : OnlyMch s t) : t.ang = s.ang := by
  have e := congrArg State.ang h.rest; exact e

theorem OnlyMch.only {K : Nat → Nat → Bool} {s t u : State} (h : OnlyMch s t) (g : Only K t u) :
    (∀ q f, f.off < 256 → numKey q f.off = false → K q f.off = false → u.get q f = s.get q f) ∧ u.ang = s.ang :=
  ⟨fun q f ho hn hk => (g.get ho hn hk).trans (h.get q f), g.ang.trans h.ang⟩

theorem OnlyMch.trans {s t u : State} (h : OnlyMch s t) (g : OnlyMch t u) : OnlyMch s u :=
  ⟨g.regs.trans h.regs, by have e := congrArg (fun x : State => { x with mch := s.mch, agenda := s.agenda }) g.rest; exact e.trans h.rest⟩

/-- A queued cell: only the chain logic changes (R72). -/
theorem State.queueCell_onlyMch (s : State) (ty tag p : Nat) : OnlyMch s (s.queueCell ty tag p) := by
  unfold State.queueCell State.newCell
  dsimp only
  split
  · exact ((OnlyMch.refl s).withMch _).withMch _
  · exact OnlyMch.refl s

theorem State.headCells_onlyMch (s : State) : OnlyMch s s.headCells := by
  unfold State.headCells State.sendRate
  split
  · exact (State.queueCell_onlyMch ..).trans (State.queueCell_onlyMch ..)
  · exact OnlyMch.refl s

end Sys2Proof.Machine
end

