-- ==== Sys2Proof/Laws/Canon.lean ====
section
/-! SUPPORT. Laws of the canonical form: the updates that keep it. -/

namespace Sys2Proof.Machine

open Sys2Proof

/-- What the canonical form says, of the parts of the state it speaks of. -/
structure CanonParts (a_regs : List (Nat × Word)) (a_sram : List Host.Cell) (a_parity : List Host.Cell) (a_ctxs : List Ctx) (a_txc : List Txc) (a_rxc : List Rxc) (a_engs : List Eng) (a_inv : Inv) : Prop where
  regs : AMap.wf regDefault a_regs = true
  sram : Memory.wf a_sram = true
  parity : Memory.wf a_parity = true
  ctxs : a_ctxs.length = 12
  txc : a_txc.length = 9
  rxc : a_rxc.length = 17
  engs : a_engs.length = 8
  wings : a_inv.wings.length = 8

theorem canon_parts (a_pending : List Instr) (a_now : Nat) (a_agenda : List (Nat × Instr)) (a_regs : List (Nat × Word)) (a_regPsn : List Nat) (a_crcHeld : List (Nat × Nat)) (a_sram : List Host.Cell) (a_parity : List Host.Cell) (a_free : Nat) (a_cmps : List Cmp) (a_ang : Ang) (a_deliveries : List Delivery) (a_mch : Mch) (a_scoQueue : List ScoRec) (a_flt : Flt) (a_hpt : Hpt) (a_scb : Scb) (a_poisonEdge : Nat) (a_codecInj : Bool) (a_memPhase : Nat) (a_bistBank : Nat) (a_cku : List Nat) (a_pwr : Pwr) (a_ctxs : List Ctx) (a_txc : List Txc) (a_wingEnds : List WingEnd) (a_rxc : List Rxc) (a_timers : List (Nat × Tm)) (a_xmp : Xmp) (a_engs : List Eng) (a_inv : Inv) (a_rates : List (Nat × Nat)) (a_kbz : Kbz) (a_lockMism : List Nat) (a_slot : Nat) (a_fires : List (Nat × Nat)) (a_trig : List (Nat × Nat × Bool)) (a_cal : Cal) (a_sco : Sco) (a_pins : Pins) (a_edge : Nat × List (Nat × Nat)) (a_touch : Touch) (a_resetting : List Nat) (a_mirror : List (Nat × Word)) :
    State.Canon (State.mk a_pending a_now a_agenda a_regs a_regPsn a_crcHeld a_sram a_parity a_free a_cmps a_ang a_deliveries a_mch a_scoQueue a_flt a_hpt a_scb a_poisonEdge a_codecInj a_memPhase a_bistBank a_cku a_pwr a_ctxs a_txc a_wingEnds a_rxc a_timers a_xmp a_engs a_inv a_rates a_kbz a_lockMism a_slot a_fires a_trig a_cal a_sco a_pins a_edge a_touch a_resetting a_mirror) ↔ CanonParts a_regs a_sram a_parity a_ctxs a_txc a_rxc a_engs a_inv :=
  ⟨fun h => ⟨h.regs, h.sram, h.parity, h.ctxs, h.txc, h.rxc, h.engs, h.wings⟩,
   fun h => ⟨h.regs, h.sram, h.parity, h.ctxs, h.txc, h.rxc, h.engs, h.wings⟩⟩

theorem parts_of {s : State} (h : s.Canon) :
    CanonParts s.regs s.sram s.parity s.ctxs s.txc s.rxc s.engs s.inv :=
  ⟨h.regs, h.sram, h.parity, h.ctxs, h.txc, h.rxc, h.engs, h.wings⟩

theorem parts_inv {s : State} (h : s.Canon) {i : Inv} (hi : i.wings = s.inv.wings) :
    CanonParts s.regs s.sram s.parity s.ctxs s.txc s.rxc s.engs i :=
  ⟨h.regs, h.sram, h.parity, h.ctxs, h.txc, h.rxc, h.engs, by rw [hi]; exact h.wings⟩

theorem canon_cut {s : State} {p : Prop} (hs : s.Canon) (hp : s.Canon → p) : p := hp hs

theorem canon_cutF {f : State → State} {p : Prop} (hf : ∀ t : State, t.Canon → (f t).Canon)
    (hp : (∀ t : State, t.Canon → (f t).Canon) → p) : p := hp hf
theorem canonF_use {f : State → State} {t : State} (hf : ∀ t : State, t.Canon → (f t).Canon) (h : t.Canon) : (f t).Canon := hf t h
theorem canon_cutG {α : Type} {f : State → α → State} {p : Prop} (hf : ∀ (t : State) (a : α), t.Canon → (f t a).Canon)
    (hp : (∀ (t : State) (a : α), t.Canon → (f t a).Canon) → p) : p := hp hf
theorem canonG_use {α : Type} {f : State → α → State} {t : State} {a : α} (hf : ∀ (t : State) (a : α), t.Canon → (f t a).Canon)
    (h : t.Canon) : (f t a).Canon := hf t a h
theorem canon_id {s : State} (h : s.Canon) : (id s).Canon := h

/-- The state after reset is canonical. -/
theorem canon_reset : State.reset.Canon := ⟨by decide, rfl, rfl, rfl, rfl, rfl, rfl, rfl⟩

/-- A state that may be answered is canonical. -/
structure CanonO (o : Option State) : Prop where
  all : ∀ t, o = some t → t.Canon

theorem canonO_none : CanonO none := ⟨by intro t h; cases h⟩
theorem canonO_some {s : State} (h : s.Canon) : CanonO (some s) := ⟨by intro t e; cases e; exact h⟩
theorem canonO_use {o : Option State} {t : State} (h : CanonO o) (e : o = some t) : t.Canon := h.all t e
theorem canonP_use {α : Type} {o : α × State} {b : α} {t : State} (h : o.2.Canon) (e : o = (b, t)) : t.Canon := by
  subst e; exact h
theorem canonQ_use {β : Type} {o : Option State × β} {b : β} {t : State} (h : CanonO o.1) (e : o = (some t, b)) : t.Canon := by
  subst e; exact h.all _ rfl
theorem canon_cutOP {r : Option State × State} {p : Prop} (h1 : CanonO r.1) (h2 : r.2.Canon) (hp : CanonO r.1 → r.2.Canon → p) : p :=
  hp h1 h2
theorem canonO_ite {c : Prop} [Decidable c] {a b : Option State} (ha : CanonO a) (hb : CanonO b) : CanonO (if c then a else b) := by
  split
  · exact ha
  · exact hb

/-- The state on the right of a sum is canonical. -/
structure CanonS {α β γ : Type} (o : α ⊕ (β × γ × State)) : Prop where
  all : ∀ r, o = .inr r → r.2.2.Canon

theorem canonS_inl {α β γ : Type} (a : α) : CanonS (.inl a : α ⊕ (β × γ × State)) := ⟨by intro t h; cases h⟩
theorem canonS_inr {α β γ : Type} {r : β × γ × State} (h : r.2.2.Canon) : CanonS (.inr r : α ⊕ (β × γ × State)) :=
  ⟨by intro t e; cases e; exact h⟩
theorem canonS_ite {α β γ : Type} {c : Prop} [Decidable c] {a b : α ⊕ (β × γ × State)} (ha : CanonS a) (hb : CanonS b) :
    CanonS (if c then a else b) := by
  split
  · exact ha
  · exact hb
theorem canonS_use {α β γ : Type} {o : α ⊕ (β × γ × State)} {r : β × γ × State} (h : CanonS o) (e : o = .inr r) : r.2.2.Canon := h.all r e

theorem canonS_use' {α β γ : Type} {o : α ⊕ (β × γ × State)} {b : β} {g : γ} {t : State} (h : CanonS o) (e : o = .inr (b, g, t)) :
    t.Canon := h.all _ e

/-- The same where the right side is a pair. -/
structure CanonR {α β : Type} (o : α ⊕ (β × State)) : Prop where
  all : ∀ r, o = .inr r → r.2.Canon

theorem canonR_inl {α β : Type} (a : α) : CanonR (.inl a : α ⊕ (β × State)) := ⟨by intro t h; cases h⟩
theorem canonR_inr {α β : Type} {r : β × State} (h : r.2.Canon) : CanonR (.inr r : α ⊕ (β × State)) :=
  ⟨by intro t e; cases e; exact h⟩
theorem canonR_ite {α β : Type} {c : Prop} [Decidable c] {a b : α ⊕ (β × State)} (ha : CanonR a) (hb : CanonR b) :
    CanonR (if c then a else b) := by
  split
  · exact ha
  · exact hb
theorem canonR_use {α β : Type} {o : α ⊕ (β × State)} {r : β × State} (h : CanonR o) (e : o = .inr r) : r.2.Canon := h.all r e
theorem canonR_use' {α β : Type} {o : α ⊕ (β × State)} {b : β} {t : State} (h : CanonR o) (e : o = .inr (b, t)) : t.Canon := h.all _ e

theorem canonR_foldl {α β δ : Type} {i : α ⊕ (β × State)} (h : CanonR i) (l : List δ) {f : α ⊕ (β × State) → δ → α ⊕ (β × State)}
    (hf : ∀ (r : α ⊕ (β × State)) (a : δ), CanonR r → CanonR (f r a)) : CanonR (l.foldl f i) := by
  induction l generalizing i with
  | nil => exact h
  | cons a t ih => exact ih (hf i a h)

theorem canon_foldl1 {α γ : Type} {i : State × γ} (h : i.1.Canon) (l : List α) {f : State × γ → α → State × γ}
    (hf : ∀ (r : State × γ) (a : α), r.1.Canon → (f r a).1.Canon) : (l.foldl f i).1.Canon := by
  induction l generalizing i with
  | nil => exact h
  | cons a t ih => exact ih (hf i a h)
theorem canon_foldl2 {α γ : Type} {i : γ × State} (h : i.2.Canon) (l : List α) {f : γ × State → α → γ × State}
    (hf : ∀ (r : γ × State) (a : α), r.2.Canon → (f r a).2.Canon) : (l.foldl f i).2.Canon := by
  induction l generalizing i with
  | nil => exact h
  | cons a t ih => exact ih (hf i a h)
theorem canon_foldl22 {α γ δ : Type} {i : γ × δ × State} (h : i.2.2.Canon) (l : List α) {f : γ × δ × State → α → γ × δ × State}
    (hf : ∀ (r : γ × δ × State) (a : α), r.2.2.Canon → (f r a).2.2.Canon) : (l.foldl f i).2.2.Canon := by
  induction l generalizing i with
  | nil => exact h
  | cons a t ih => exact ih (hf i a h)

theorem canon_ite {c : Prop} [Decidable c] {a b : State} (ha : a.Canon) (hb : b.Canon) : (if c then a else b).Canon := by
  split
  · exact ha
  · exact hb

theorem canon_when {s : State} (h : s.Canon) (b : Bool) {f : State → State} (hf : ∀ t : State, t.Canon → (f t).Canon) :
    (s.when b f).Canon := by
  unfold State.when; split
  · exact hf s h
  · exact h

theorem canon_forEach {α : Type} {s : State} (h : s.Canon) (l : List α) {f : State → α → State}
    (hf : ∀ (t : State) (a : α), t.Canon → (f t a).Canon) : (s.forEach l f).Canon := by
  unfold State.forEach
  induction l generalizing s with
  | nil => exact h
  | cons a t ih => exact ih (hf s a h)

theorem canon_foldl {α : Type} {s : State} (h : s.Canon) (l : List α) {f : State → α → State}
    (hf : ∀ (t : State) (a : α), t.Canon → (f t a).Canon) : (l.foldl f s).Canon := canon_forEach h l hf

theorem canon_setReg {s : State} (h : s.Canon) (p o : Nat) (v : Word) : (s.setReg p o v).Canon :=
  ⟨AMap.wf_set _ h.regs _ _, h.sram, h.parity, h.ctxs, h.txc, h.rxc, h.engs, h.wings⟩

theorem wf_nil : Memory.wf [] = true := rfl

theorem parts_nil {s : State} (h : s.Canon) :
    CanonParts s.regs [] [] s.ctxs s.txc s.rxc s.engs s.inv :=
  ⟨h.regs, wf_nil, wf_nil, h.ctxs, h.txc, h.rxc, h.engs, h.wings⟩

theorem wf_setCell {m : List Host.Cell} (h : Memory.wf m = true) (a v : Nat) : Memory.wf (setCell m a v) = true :=
  AMap.wf_set _ h _ _

/-- Storing a word keeps a memory's canonical form. -/
theorem wf_setStored {m : List Host.Cell} (h : Memory.wf m = true) (a : Nat) (w : Stored) : Memory.wf (setStored m a w) = true := by
  unfold setStored
  exact wf_setCell (wf_setCell (wf_setCell (wf_setCell (wf_setCell (wf_setCell (wf_setCell h _ _) _ _) _ _) _ _) _ _) _ _) _ _

/-- Dropping cells keeps it. -/
theorem wf_memFilter {m : List Host.Cell} (h : Memory.wf m = true) (p : Host.Cell → Bool) : Memory.wf (m.filter p) = true :=
  AMap.wf_filter _ p h

end Sys2Proof.Machine
end

