-- ==== Sys2Proof/Laws/CanonOps.lean ====
section
/-! SUPPORT. The functions of Machine/Ops.lean keep the canonical form. -/

namespace Sys2Proof.Machine

open Sys2Proof

set_option linter.all false

theorem canon_put {s : State} (page : Nat) (f : Fld) (x : Nat) (h_s : s.Canon) : (State.put s page f x).Canon := by
  unfold State.put
  repeat' (first
    | with_reducible first | assumption | apply canon_setReg
    | dsimp -zeta only)

theorem canon_putB {s : State} (page : Nat) (f : Fld) (b : Bool) (h_s : s.Canon) : (State.putB s page f b).Canon := by
  unfold State.putB
  repeat' (first
    | with_reducible first | assumption | apply canon_put
    | dsimp -zeta only)

theorem canon_putBit {s : State} (page : Nat) (f : Fld) (i : Nat) (b : Bool) (h_s : s.Canon) : (State.putBit s page f i b).Canon := by
  unfold State.putBit
  repeat' (first
    | with_reducible first | assumption | apply canon_put
    | dsimp -zeta only)

theorem canon_inc {s : State} (page : Nat) (f : Fld) (h_s : s.Canon) : (State.inc s page f).Canon := by
  unfold State.inc
  repeat' (first
    | with_reducible first | assumption | apply canon_put
    | dsimp -zeta only)

theorem canon_incBy {s : State} (page : Nat) (f : Fld) (d : Nat) (h_s : s.Canon) : (State.incBy s page f d).Canon := by
  unfold State.incBy
  repeat' (first
    | with_reducible first | assumption | apply canon_put
    | dsimp -zeta only)

theorem canon_incMod {s : State} (page : Nat) (f : Fld) (h_s : s.Canon) : (State.incMod s page f).Canon := by
  unfold State.incMod
  repeat' (first
    | with_reducible first | assumption | apply canon_put
    | dsimp -zeta only)

theorem canon_mirrorTake {s : State} (k : Nat) (m : Word) (h_s : s.Canon) : (State.mirrorTake s k m).Canon := by
  unfold State.mirrorTake
  repeat' (first
    | with_reducible assumption
    | intro _
    | (simp only [canon_parts]; with_reducible first | exact parts_of (by assumption) | apply parts_of)
    | dsimp -zeta only)

theorem canon_noteSet {s : State} (k : Nat) (m : Word) (h_s : s.Canon) : (State.noteSet s k m).Canon := by
  unfold State.noteSet
  repeat' (first
    | with_reducible assumption
    | (simp only [canon_parts]; with_reducible first | exact parts_of (by assumption) | apply parts_of)
    | dsimp -zeta only)

theorem canon_raise {s : State} (page : Nat) (f : Fld) (i : Nat) (h_s : s.Canon) : (State.raise s page f i).Canon := by
  unfold State.raise
  repeat' (first
    | with_reducible first | assumption | apply canon_putBit | apply canon_noteSet
    | dsimp -zeta only)

theorem canon_noteOld {s : State} (k : Nat) (h_s : s.Canon) : (State.noteOld s k).Canon := by
  unfold State.noteOld
  repeat' (first
    | with_reducible assumption
    | intro _
    | (simp only [canon_parts]; with_reducible first | exact parts_of (by assumption) | apply parts_of)
    | with_reducible apply canon_ite
    | split
    | dsimp -zeta only)

theorem canon_noteWrite {s : State} (k rank : Nat) (h_s : s.Canon) : (State.noteWrite s k rank).Canon := by
  unfold State.noteWrite
  repeat' (first
    | with_reducible assumption
    | (extract_lets -merge +onlyGivenNames t_
       first
       | (refine canon_cut (s := t_) ?_ (fun h_ => ?_) <;> [subst t_; clear_value t_])
       | clear_value t_)
    | (simp only [canon_parts]; with_reducible first | exact parts_of (by assumption) | apply parts_of)
    | with_reducible apply canon_noteOld
    | dsimp -zeta only)

theorem canon_unwritten {s : State} (h : s.Canon) : (State.unwritten s).Canon := by
  have hf : ∀ (l : List (Nat × Word)) (m : List (Nat × Word)), AMap.wf regDefault m = true →
      AMap.wf regDefault (l.foldl (fun m e => AMap.set regDefault m e.1 e.2) m) = true := by
    intro l
    induction l with
    | nil => intro m hm; exact hm
    | cons a t ih => intro m hm; exact ih _ (AMap.wf_set _ hm _ _)
  exact ⟨hf _ _ h.regs, h.sram, h.parity, h.ctxs, h.txc, h.rxc, h.engs, h.wings⟩

theorem canon_putHw {s : State} (page : Nat) (f : Fld) (x : Nat) (h_s : s.Canon) : (State.putHw s page f x).Canon := by
  unfold State.putHw
  repeat' (first
    | with_reducible assumption
    | intro _
    | with_reducible first | apply canon_put | apply canon_ite
    | split
    | dsimp -zeta only)

theorem canon_writeFields {s : State} (page off : Nat) (v : Word) (h_s : s.Canon) : (State.writeFields s page off v).Canon := by
  unfold State.writeFields
  repeat' (first
    | with_reducible assumption
    | intro _
    | (extract_lets -merge +onlyGivenNames t_
       first
       | (refine canon_cut (s := t_) ?_ (fun h_ => ?_) <;> [subst t_; clear_value t_])
       | clear_value t_)
    | (simp only [canon_parts]; with_reducible first | exact parts_of (by assumption) | apply parts_of)
    | with_reducible first | apply canon_setReg | apply canon_mirrorTake | apply canon_noteSet | apply canon_ite
    | split
    | dsimp -zeta only)

theorem canon_sched {s : State} (d : Nat) (c : Instr) (h_s : s.Canon) : (State.sched s d c).Canon := by
  unfold State.sched
  repeat' (first
    | with_reducible assumption
    | (simp only [canon_parts]; with_reducible first | exact parts_of (by assumption) | apply parts_of)
    | dsimp -zeta only)

theorem canon_timer {s : State} (d : Nat) (t : Tm) (h_s : s.Canon) : (State.timer s d t).Canon := by
  unfold State.timer
  repeat' (first
    | with_reducible assumption
    | (simp only [canon_parts]; with_reducible first | exact parts_of (by assumption) | apply parts_of)
    | dsimp -zeta only)

theorem canon_untimer {s : State} (t : Tm) (h_s : s.Canon) : (State.untimer s t).Canon := by
  unfold State.untimer
  repeat' (first
    | with_reducible assumption
    | intro _
    | (simp only [canon_parts]; with_reducible first | exact parts_of (by assumption) | apply parts_of)
    | dsimp -zeta only)

theorem canon_retimer {s : State} (d : Nat) (t : Tm) (h_s : s.Canon) : (State.retimer s d t).Canon := by
  unfold State.retimer
  repeat' (first
    | with_reducible first | assumption | apply canon_timer | apply canon_untimer
    | dsimp -zeta only)

theorem canon_unsched {s : State} (c : Instr) (h_s : s.Canon) : (State.unsched s c).Canon := by
  unfold State.unsched
  repeat' (first
    | with_reducible assumption
    | intro _
    | (simp only [canon_parts]; with_reducible first | exact parts_of (by assumption) | apply parts_of)
    | dsimp -zeta only)

theorem canon_resched {s : State} (d : Nat) (c : Instr) (h_s : s.Canon) : (State.resched s d c).Canon := by
  unfold State.resched
  repeat' (first
    | with_reducible first | assumption | apply canon_sched | apply canon_unsched
    | dsimp -zeta only)

theorem canon_nextFree {s : State} (h_s : s.Canon) : (State.nextFree s).Canon := by
  unfold State.nextFree
  repeat' (first
    | with_reducible assumption
    | (simp only [canon_parts]; with_reducible first | exact parts_of (by assumption) | apply parts_of)
    | dsimp -zeta only)

theorem canon_numberAs {s : State} (r n : Nat) (h : s.Canon) : (State.numberAs s r n).2.Canon := by
  unfold State.numberAs
  split
  · refine (canon_parts ..).2 (parts_of (canon_forEach (canon_put _ _ _ h) _ ?_))
    intro t a ht
    split
    · exact canon_put _ _ _ ht
    · exact ht
  · exact h

theorem canon_number {s : State} (src : Src) (h_s : s.Canon) : (State.number s src).Canon := by
  unfold State.number
  repeat' (first
    | with_reducible assumption
    | (simp only [canon_parts]; with_reducible first | exact parts_of (by assumption) | apply parts_of)
    | with_reducible apply canon_numberAs
    | split
    | dsimp -zeta only)

theorem canon_recordErr {s : State} (page code : Nat) (h_s : s.Canon) : (State.recordErr s page code).Canon := by
  unfold State.recordErr
  repeat' (first
    | with_reducible assumption
    | (extract_lets -merge +onlyGivenNames t_
       first
       | (refine canon_cut (s := t_) ?_ (fun h_ => ?_) <;> [subst t_; clear_value t_])
       | (refine canon_cut (s := t_.2) ?_ (fun h_ => ?_) <;> [subst t_; clear_value t_])
       | clear_value t_)
    | with_reducible first | apply canon_put | apply canon_inc | apply canon_nextFree | apply canon_numberAs | apply canon_ite
    | split
    | dsimp -zeta only)

theorem canon_recordBoth {s : State} (page code page2 code2 : Nat) (h_s : s.Canon) : (State.recordBoth s page code page2 code2).Canon := by
  unfold State.recordBoth
  repeat' (first
    | with_reducible first | assumption | apply canon_recordErr | apply canon_ite
    | split
    | dsimp -zeta only)

theorem canon_flag {s : State} (page : Nat) (f : Fld) (i : Nat) (h_s : s.Canon) : (State.flag s page f i).Canon := by
  unfold State.flag
  repeat' (first
    | with_reducible first | assumption | apply canon_raise
    | dsimp -zeta only)

theorem canon_pendingBits {s : State} (i : Nat) (h_s : s.Canon) : (State.pendingBits s i).Canon := by
  unfold State.pendingBits
  repeat' (first
    | with_reducible assumption
    | intro _
    | (extract_lets -merge +onlyGivenNames t_
       first
       | (refine canon_cut (s := t_) ?_ (fun h_ => ?_) <;> [subst t_; clear_value t_])
       | clear_value t_)
    | with_reducible first | apply canon_put | apply canon_ite | apply canon_foldl | apply canon_foldl1 | apply canon_foldl2 | apply canon_foldl22
    | dsimp -zeta only)

theorem canon_holdDelivery {s : State} (d : Delivery) (h_s : s.Canon) : (State.holdDelivery s d).Canon := by
  unfold State.holdDelivery
  repeat' (first
    | with_reducible assumption
    | intro _
    | (extract_lets -merge +onlyGivenNames t_
       first
       | (refine canon_cut (s := t_) ?_ (fun h_ => ?_) <;> [subst t_; clear_value t_])
       | clear_value t_)
    | (simp only [canon_parts]; with_reducible first | exact parts_of (by assumption) | apply parts_of)
    | with_reducible first | apply canon_inc | apply canon_recordErr | apply canon_flag | apply canon_pendingBits | apply canon_ite
    | split
    | dsimp -zeta only)

theorem canon_acceptAt {s : State} (p hop ch : Nat) (h_s : s.Canon) : (State.acceptAt s p hop ch).Canon := by
  unfold State.acceptAt
  repeat' (first
    | with_reducible assumption
    | intro _
    | (extract_lets -merge +onlyGivenNames t_
       first
       | (refine canon_cut (s := t_) ?_ (fun h_ => ?_) <;> [subst t_; clear_value t_])
       | clear_value t_)
    | with_reducible first | apply canon_inc | apply canon_sched | apply canon_recordErr | apply canon_flag | apply canon_holdDelivery | apply canon_ite | apply canon_when
    | split
    | dsimp -zeta only)

theorem canon_present {s : State} (p hop : Nat) (h_s : s.Canon) : (State.present s p hop).Canon := by
  unfold State.present
  repeat' (first
    | with_reducible assumption
    | intro _
    | (extract_lets -merge +onlyGivenNames t_
       first
       | (refine canon_cut (s := t_) ?_ (fun h_ => ?_) <;> [subst t_; clear_value t_])
       | (refine canon_cut (s := t_.2) ?_ (fun h_ => ?_) <;> [subst t_; clear_value t_])
       | clear_value t_)
    | with_reducible first | apply canon_unwritten | apply canon_numberAs | apply canon_acceptAt | apply canon_ite | apply canon_forEach
    | split
    | dsimp -zeta only)

theorem canon_presentTo {s : State} (p hop ch : Nat) (h_s : s.Canon) : (State.presentTo s p hop ch).1.Canon := by
  unfold State.presentTo
  repeat' (first
    | with_reducible assumption
    | (extract_lets -merge +onlyGivenNames t_
       first
       | (refine canon_cut (s := t_) ?_ (fun h_ => ?_) <;> [subst t_; clear_value t_])
       | (refine canon_cut (s := t_.2) ?_ (fun h_ => ?_) <;> [subst t_; clear_value t_])
       | clear_value t_)
    | with_reducible first | apply canon_numberAs | apply canon_acceptAt
    | dsimp -zeta only)

theorem canon_fire {s : State} (u : CmpUser) (late : Bool) (h_s : s.Canon) : (State.fire s u late).Canon := by
  unfold State.fire
  repeat' (first
    | with_reducible first | assumption | apply canon_sched | apply canon_ite
    | split
    | dsimp -zeta only)

theorem canon_disarm {s : State} (u : CmpUser) (h_s : s.Canon) : (State.disarm s u).Canon := by
  unfold State.disarm
  repeat' (first
    | with_reducible assumption
    | intro _
    | (simp only [canon_parts]; with_reducible first | exact parts_of (by assumption) | apply parts_of)
    | dsimp -zeta only)

theorem canon_lateFlag {s : State} (h_s : s.Canon) : (State.lateFlag s).Canon := by
  unfold State.lateFlag
  repeat' (first
    | with_reducible first | assumption | apply canon_recordErr | apply canon_flag
    | dsimp -zeta only)

theorem canon_arm {s : State} (u : CmpUser) (target : Nat) (h_s : s.Canon) : (State.arm s u target).Canon := by
  unfold State.arm
  repeat' (first
    | with_reducible assumption
    | (extract_lets -merge +onlyGivenNames t_
       first
       | (refine canon_cut (s := t_) ?_ (fun h_ => ?_) <;> [subst t_; clear_value t_])
       | clear_value t_)
    | (simp only [canon_parts]; with_reducible first | exact parts_of (by assumption) | apply parts_of)
    | with_reducible first | apply canon_fire | apply canon_disarm | apply canon_lateFlag | apply canon_ite
    | split
    | dsimp -zeta only)

theorem canon_unfire {s : State} (u : CmpUser) (h_s : s.Canon) : (State.unfire s u).Canon := by
  unfold State.unfire
  repeat' (first
    | with_reducible assumption
    | intro _
    | (simp only [canon_parts]; with_reducible first | exact parts_of (by assumption) | apply parts_of)
    | dsimp -zeta only)

theorem canon_armNext {s : State} (u : CmpUser) (target : Nat) (h_s : s.Canon) : (State.armNext s u target).Canon := by
  unfold State.armNext
  repeat' (first
    | with_reducible assumption
    | (extract_lets -merge +onlyGivenNames t_
       first
       | (refine canon_cut (s := t_) ?_ (fun h_ => ?_) <;> [subst t_; clear_value t_])
       | clear_value t_)
    | (simp only [canon_parts]; with_reducible first | exact parts_of (by assumption) | apply parts_of)
    | with_reducible first | apply canon_sched | apply canon_disarm | apply canon_lateFlag | apply canon_unfire | apply canon_ite
    | split
    | dsimp -zeta only)

theorem canon_armPeriodic {s : State} (u : CmpUser) (phase : Nat) (h_s : s.Canon) : (State.armPeriodic s u phase).Canon := by
  unfold State.armPeriodic
  repeat' (first
    | with_reducible assumption
    | (extract_lets -merge +onlyGivenNames t_
       first
       | (refine canon_cut (s := t_) ?_ (fun h_ => ?_) <;> [subst t_; clear_value t_])
       | clear_value t_)
    | (simp only [canon_parts]; with_reducible first | exact parts_of (by assumption) | apply parts_of)
    | with_reducible first | apply canon_fire | apply canon_disarm | apply canon_ite
    | split
    | dsimp -zeta only)

theorem canon_countDown {s : State} (d : Nat) (h_s : s.Canon) : (State.countDown s d).Canon := by
  unfold State.countDown
  repeat' (first
    | with_reducible assumption
    | intro _
    | (extract_lets -merge +onlyGivenNames t_
       first
       | (refine canon_cut (s := t_) ?_ (fun h_ => ?_) <;> [subst t_; clear_value t_])
       | clear_value t_)
    | (simp only [canon_parts]; with_reducible first | exact parts_of (by assumption) | apply parts_of)
    | with_reducible first | apply canon_fire | apply canon_ite | apply canon_forEach
    | split
    | dsimp -zeta only)

theorem canon_wakeCmps {s : State} (h_s : s.Canon) : (State.wakeCmps s).Canon := by
  unfold State.wakeCmps
  repeat' (first
    | with_reducible assumption
    | intro _
    | (extract_lets -merge +onlyGivenNames t_
       first
       | (refine canon_cut (s := t_) ?_ (fun h_ => ?_) <;> [subst t_; clear_value t_])
       | clear_value t_)
    | (simp only [canon_parts]; with_reducible first | exact parts_of (by assumption) | apply parts_of)
    | with_reducible first | apply canon_arm | apply canon_armPeriodic | apply canon_ite | apply canon_forEach
    | split
    | dsimp -zeta only)

theorem canon_showPend {s : State} (h_s : s.Canon) : (State.showPend s).Canon := by
  unfold State.showPend
  repeat' (first
    | with_reducible assumption
    | intro _
    | with_reducible first | apply canon_putBit | apply canon_forEach
    | dsimp -zeta only)

theorem canon_pendCorr {s : State} (page off : Nat) (v : Word) (h_s : s.Canon) : (State.pendCorr s page off v).Canon := by
  unfold State.pendCorr
  repeat' (first
    | with_reducible assumption
    | (extract_lets -merge +onlyGivenNames t_
       first
       | (refine canon_cut (s := t_) ?_ (fun h_ => ?_) <;> [subst t_; clear_value t_])
       | clear_value t_)
    | (simp only [canon_parts]; with_reducible first | exact parts_of (by assumption) | apply parts_of)
    | with_reducible first | apply canon_resched | apply canon_showPend
    | dsimp -zeta only)

theorem canon_scoLose {s : State} (h_s : s.Canon) : (State.scoLose s).Canon := by
  unfold State.scoLose
  repeat' (first
    | with_reducible first | assumption | apply canon_inc
    | dsimp -zeta only)

theorem canon_scoDrop {s : State} (h_s : s.Canon) : (State.scoDrop s).Canon := by
  unfold State.scoDrop
  repeat' (first
    | with_reducible first | assumption | apply canon_inc | apply canon_recordErr | apply canon_flag | apply canon_scoLose | apply canon_ite
    | split
    | dsimp -zeta only)

theorem canon_scoPush {s : State} (kind arbseq : Nat) (inj : Bool) (payload : List Nat) (h_s : s.Canon) : (State.scoPush s kind arbseq inj payload).Canon := by
  unfold State.scoPush
  repeat' (first
    | with_reducible assumption
    | (extract_lets -merge +onlyGivenNames t_
       first
       | (refine canon_cut (s := t_) ?_ (fun h_ => ?_) <;> [subst t_; clear_value t_])
       | clear_value t_)
    | (simp only [canon_parts]; with_reducible first | exact parts_of (by assumption) | apply parts_of)
    | with_reducible apply canon_put
    | dsimp -zeta only)

theorem canon_scoRecord {s : State} (kind arbseq : Nat) (payload : List Nat) (inj : Bool) (h_s : s.Canon) : (State.scoRecord s kind arbseq payload inj).Canon := by
  unfold State.scoRecord
  repeat' (first
    | with_reducible first | assumption | apply canon_scoDrop | apply canon_scoPush | apply canon_ite
    | split
    | dsimp -zeta only)

theorem canon_scoLostRecord {s : State} (h_s : s.Canon) : (State.scoLostRecord s).Canon := by
  unfold State.scoLostRecord
  repeat' (first
    | with_reducible assumption
    | (extract_lets -merge +onlyGivenNames t_
       first
       | (refine canon_cut (s := t_) ?_ (fun h_ => ?_) <;> [subst t_; clear_value t_])
       | clear_value t_)
    | with_reducible first | apply canon_put | apply canon_scoPush | apply canon_ite
    | split
    | dsimp -zeta only)

theorem canon_telCount {s : State} (i : Nat) (h_s : s.Canon) : (State.telCount s i).Canon := by
  unfold State.telCount
  repeat' (first
    | with_reducible assumption
    | (simp only [canon_parts]; with_reducible first | exact parts_of (by assumption) | apply parts_of)
    | dsimp -zeta only)

theorem canon_rptAppend {s : State} (w : Nat) (h_s : s.Canon) : (State.rptAppend s w).Canon := by
  unfold State.rptAppend
  repeat' (first
    | with_reducible assumption
    | (extract_lets -merge +onlyGivenNames t_
       first
       | (refine canon_cut (s := t_) ?_ (fun h_ => ?_) <;> [subst t_; clear_value t_])
       | clear_value t_)
    | (simp only [canon_parts]; with_reducible first | exact parts_of (by assumption) | apply parts_of)
    | with_reducible first | apply canon_put | apply canon_inc | apply canon_flag | apply canon_ite
    | split
    | dsimp -zeta only)

theorem canon_autoIrqWord {before after : State} (h_before : before.Canon) (h_after : after.Canon) : (State.autoIrqWord before after).Canon := by
  unfold State.autoIrqWord
  repeat' (first
    | with_reducible first | assumption | apply canon_rptAppend | apply canon_ite
    | split
    | dsimp -zeta only)

theorem canon_writeLine {s : State} (line : Nat) (words : List Nat) (h : s.Canon) : (State.writeLine s line words).Canon := by
  have hf : ∀ (l : List Nat) (m : List Host.Cell), Memory.wf m = true →
      Memory.wf (l.foldl (fun m i => setStored m (8 * line + i) (freshWord (nth words i) false)) m) = true := by
    intro l
    induction l with
    | nil => intro m hm; exact hm
    | cons a t ih => intro m hm; exact ih _ (wf_setStored hm _ _)
  have hp := wf_setStored h.parity line (freshWord (words.foldl (· ^^^ ·) 0) false)
  exact ⟨h.regs, hf _ _ h.sram, hp, h.ctxs, h.txc, h.rxc, h.engs, h.wings⟩

theorem canon_keepLine {s : State} (record : List Nat) (h_s : s.Canon) : (State.keepLine s record).Canon := by
  unfold State.keepLine
  repeat' (first
    | with_reducible assumption
    | intro _
    | (extract_lets -merge +onlyGivenNames t_
       first
       | (refine canon_cut (s := t_) ?_ (fun h_ => ?_) <;> [subst t_; clear_value t_])
       | clear_value t_)
    | (simp only [canon_parts]; with_reducible first | exact parts_of (by assumption) | apply parts_of)
    | with_reducible first | apply canon_setReg | apply canon_flag | apply canon_writeLine | apply canon_ite | apply canon_forEach
    | split
    | dsimp -zeta only)

theorem canon_tstDetected {s : State} (cls : Nat) (h_s : s.Canon) : (State.tstDetected s cls).Canon := by
  unfold State.tstDetected
  repeat' (first
    | with_reducible assumption
    | (extract_lets -merge +onlyGivenNames t_
       first
       | (refine canon_cut (s := t_) ?_ (fun h_ => ?_) <;> [subst t_; clear_value t_])
       | clear_value t_)
    | with_reducible first | apply canon_put | apply canon_putB | apply canon_inc | apply canon_unsched | apply canon_flag
    | dsimp -zeta only)

theorem canon_takeReport {s : State} (r : Report) (h_s : s.Canon) : (State.takeReport s r).Canon := by
  unfold State.takeReport
  repeat' (first
    | with_reducible assumption
    | (extract_lets -merge +onlyGivenNames t_
       first
       | (refine canon_cut (s := t_) ?_ (fun h_ => ?_) <;> [subst t_; clear_value t_])
       | clear_value t_)
    | (simp only [canon_parts]; with_reducible first | exact parts_of (by assumption) | apply parts_of)
    | with_reducible first | apply canon_put | apply canon_inc | apply canon_incMod | apply canon_raise | apply canon_recordErr | apply canon_flag | apply canon_present | apply canon_scoDrop | apply canon_scoPush | apply canon_telCount | apply canon_keepLine | apply canon_ite
    | split
    | dsimp -zeta only)

theorem canon_takeReports {s : State} (h_s : s.Canon) : (State.takeReports s).Canon := by
  unfold State.takeReports
  repeat' (first
    | with_reducible assumption
    | (simp only [canon_parts]; with_reducible first | exact parts_of (by assumption) | apply parts_of)
    | with_reducible first | apply canon_takeReport | apply canon_forEach
    | dsimp -zeta only)

theorem canon_reportFault {s : State} (page code : Nat) (i : FaultInfo) (inj : Bool) (h_s : s.Canon) : (State.reportFault s page code i inj).Canon := by
  unfold State.reportFault
  repeat' (first
    | with_reducible assumption
    | (extract_lets -merge +onlyGivenNames t_
       first
       | (refine canon_cut (s := t_) ?_ (fun h_ => ?_) <;> [subst t_; clear_value t_])
       | clear_value t_)
    | (simp only [canon_parts]; with_reducible first | exact parts_of (by assumption) | apply parts_of)
    | dsimp -zeta only)

theorem canon_setFault {s : State} (page bit code : Nat) (i : FaultInfo) (h_s : s.Canon) : (State.setFault s page bit code i).Canon := by
  unfold State.setFault
  repeat' (first
    | with_reducible assumption
    | (extract_lets -merge +onlyGivenNames t_
       first
       | (refine canon_cut (s := t_) ?_ (fun h_ => ?_) <;> [subst t_; clear_value t_])
       | clear_value t_)
    | with_reducible first | apply canon_raise | apply canon_recordErr | apply canon_tstDetected | apply canon_reportFault | apply canon_ite
    | split
    | dsimp -zeta only)

end Sys2Proof.Machine
end

