-- ==== Sys2Proof/Laws/CanonContexts.lean ====
section
/-! SUPPORT. The functions of Machine/Contexts.lean keep the canonical form. -/

namespace Sys2Proof.Machine

open Sys2Proof

set_option linter.all false

theorem canon_withCtx {s : State} (c : Nat) (f : Ctx → Ctx) (h : s.Canon) : (State.withCtx s c f).Canon :=
  ⟨h.regs, h.sram, h.parity, by simp [State.withCtx, h.ctxs], h.txc, h.rxc, h.engs, h.wings⟩

theorem canon_setRun {s : State} (c r : Nat) (h_s : s.Canon) : (State.setRun s c r).Canon := by
  unfold State.setRun
  repeat' (first
    | with_reducible first | assumption | apply canon_put
    | dsimp -zeta only)

theorem canon_setLaunch {s : State} (c a : Nat) (h_s : s.Canon) : (State.setLaunch s c a).Canon := by
  unfold State.setLaunch
  repeat' (first
    | with_reducible first | assumption | apply canon_put
    | dsimp -zeta only)

theorem canon_setOwner {s : State} (w o : Nat) (h_s : s.Canon) : (State.setOwner s w o).Canon := by
  unfold State.setOwner
  repeat' (first
    | with_reducible assumption
    | intro _
    | (extract_lets -merge +onlyGivenNames t_
       first
       | (refine canon_cut (s := t_) ?_ (fun h_ => ?_) <;> [subst t_; clear_value t_])
       | clear_value t_)
    | with_reducible first | apply canon_put | apply canon_putBit | apply canon_when
    | dsimp -zeta only)

theorem canon_releaseWing {s : State} (w : Nat) (h_s : s.Canon) : (State.releaseWing s w).Canon := by
  unfold State.releaseWing
  repeat' (first
    | with_reducible first | assumption | apply canon_sched | apply canon_setOwner | apply canon_ite
    | split
    | dsimp -zeta only)

theorem canon_tuneShow {s : State} (c status : Nat) (h_s : s.Canon) : (State.tuneShow s c status).Canon := by
  unfold State.tuneShow
  repeat' (first
    | with_reducible assumption
    | (simp only [canon_parts]; with_reducible first | exact parts_of (by assumption) | apply parts_of)
    | with_reducible first | apply canon_put | apply canon_ite
    | split
    | dsimp -zeta only)

theorem canon_endMove {s : State} (c status : Nat) (h_s : s.Canon) : (State.endMove s c status).Canon := by
  unfold State.endMove
  repeat' (first
    | with_reducible assumption
    | intro _
    | (simp only [canon_parts]; with_reducible first | exact parts_of (by assumption) | apply parts_of)
    | with_reducible first | apply canon_sched | apply canon_numberAs | apply canon_withCtx | apply canon_tuneShow | apply canon_ite
    | split
    | dsimp -zeta only)

theorem canon_endFor {s : State} (c : Option Nat) (status : Nat) (h_s : s.Canon) : (State.endFor s c status).Canon := by
  unfold State.endFor
  repeat' (first
    | with_reducible assumption
    | (simp only [canon_parts]; with_reducible first | exact parts_of (by assumption) | apply parts_of)
    | with_reducible apply canon_endMove
    | split
    | dsimp -zeta only)

theorem canon_armLimit {s : State} (c : Nat) (h_s : s.Canon) : (State.armLimit s c).Canon := by
  unfold State.armLimit
  repeat' (first
    | with_reducible assumption
    | (extract_lets -merge +onlyGivenNames t_
       first
       | (refine canon_cut (s := t_) ?_ (fun h_ => ?_) <;> [subst t_; clear_value t_])
       | clear_value t_)
    | (simp only [canon_parts]; with_reducible first | exact parts_of (by assumption) | apply parts_of)
    | with_reducible first | apply canon_resched | apply canon_disarm | apply canon_ite
    | split
    | dsimp -zeta only)

end Sys2Proof.Machine
end

