-- ==== Sys2Proof/Laws/CanonRails.lean ====
section
/-! SUPPORT. The functions of Machine/Rails.lean keep the canonical form. -/

namespace Sys2Proof.Machine

open Sys2Proof

set_option linter.all false

theorem canon_withPwr {s : State} (f : Pwr → Pwr) (h_s : s.Canon) : (State.withPwr s f).Canon := by
  unfold State.withPwr
  repeat' (first
    | with_reducible assumption
    | (simp only [canon_parts]; with_reducible first | exact parts_of (by assumption) | apply parts_of)
    | dsimp -zeta only)

theorem canon_withRail {s : State} (r : Nat) (f : Rail → Rail) (h_s : s.Canon) : (State.withRail s r f).Canon := by
  unfold State.withRail
  repeat' (first
    | with_reducible assumption
    | intro _
    | (simp only [canon_parts]; with_reducible first | exact parts_of (by assumption) | apply parts_of)
    | with_reducible apply canon_withPwr
    | dsimp -zeta only)

theorem canon_withTx {s : State} (n : Nat) (f : Txc → Txc) (h : s.Canon) : (State.withTx s n f).Canon :=
  ⟨h.regs, h.sram, h.parity, h.ctxs, by simp [State.withTx, h.txc], h.rxc, h.engs, h.wings⟩

theorem canon_serveJob {s : State} (h_s : s.Canon) : (State.serveJob s).Canon := by
  unfold State.serveJob
  repeat' (first
    | with_reducible assumption
    | (simp only [canon_parts]; with_reducible first | exact parts_of (by assumption) | apply parts_of)
    | with_reducible first | apply canon_resched | apply canon_ite
    | split
    | dsimp -zeta only)

theorem canon_addJob {s : State} (j : Job) (h_s : s.Canon) : (State.addJob s j).Canon := by
  unfold State.addJob
  repeat' (first
    | with_reducible assumption
    | intro _
    | (extract_lets -merge +onlyGivenNames t_
       first
       | (refine canon_cut (s := t_) ?_ (fun h_ => ?_) <;> [subst t_; clear_value t_])
       | clear_value t_)
    | (simp only [canon_parts]; with_reducible first | exact parts_of (by assumption) | apply parts_of)
    | with_reducible first | apply canon_withPwr | apply canon_serveJob | apply canon_ite
    | split
    | dsimp -zeta only)

theorem canon_popJob {s : State} (h_s : s.Canon) : (State.popJob s).Canon := by
  unfold State.popJob
  repeat' (first
    | with_reducible assumption
    | intro _
    | (simp only [canon_parts]; with_reducible first | exact parts_of (by assumption) | apply parts_of)
    | with_reducible first | apply canon_withPwr | apply canon_serveJob
    | dsimp -zeta only)

theorem canon_dropJobs {s : State} (r : Nat) (h_s : s.Canon) : (State.dropJobs s r).Canon := by
  unfold State.dropJobs
  repeat' (first
    | with_reducible assumption
    | intro _
    | (simp only [canon_parts]; with_reducible first | exact parts_of (by assumption) | apply parts_of)
    | with_reducible apply canon_withPwr
    | dsimp -zeta only)

theorem canon_railDown {s : State} (r state : Nat) (h_s : s.Canon) : (State.railDown s r state).Canon := by
  unfold State.railDown
  repeat' (first
    | with_reducible assumption
    | intro _
    | (extract_lets -merge +onlyGivenNames t_
       first
       | (refine canon_cut (s := t_) ?_ (fun h_ => ?_) <;> [subst t_; clear_value t_])
       | clear_value t_)
    | (simp only [canon_parts]; with_reducible first | exact parts_of (by assumption) | apply parts_of)
    | with_reducible first | apply canon_put | apply canon_putBit | apply canon_withRail
    | dsimp -zeta only)

theorem canon_railUp {s : State} (r mv prio : Nat) (h_s : s.Canon) : (State.railUp s r mv prio).Canon := by
  unfold State.railUp
  repeat' (first
    | with_reducible assumption
    | intro _
    | (extract_lets -merge +onlyGivenNames t_
       first
       | (refine canon_cut (s := t_) ?_ (fun h_ => ?_) <;> [subst t_; clear_value t_])
       | clear_value t_)
    | (simp only [canon_parts]; with_reducible first | exact parts_of (by assumption) | apply parts_of)
    | with_reducible first | apply canon_put | apply canon_withRail | apply canon_addJob | apply canon_dropJobs | apply canon_ite
    | split
    | dsimp -zeta only)

theorem canon_railChange {s : State} (r mv op : Nat) (h_s : s.Canon) : (State.railChange s r mv op).Canon := by
  unfold State.railChange
  repeat' (first
    | with_reducible assumption
    | intro _
    | (extract_lets -merge +onlyGivenNames t_
       first
       | (refine canon_cut (s := t_) ?_ (fun h_ => ?_) <;> [subst t_; clear_value t_])
       | clear_value t_)
    | (simp only [canon_parts]; with_reducible first | exact parts_of (by assumption) | apply parts_of)
    | with_reducible first | apply canon_put | apply canon_withRail | apply canon_addJob | apply canon_dropJobs | apply canon_ite
    | split
    | dsimp -zeta only)

theorem canon_railOff {s : State} (r : Nat) (h_s : s.Canon) : (State.railOff s r).Canon := by
  unfold State.railOff
  repeat' (first
    | with_reducible assumption
    | intro _
    | (extract_lets -merge +onlyGivenNames t_
       first
       | (refine canon_cut (s := t_) ?_ (fun h_ => ?_) <;> [subst t_; clear_value t_])
       | clear_value t_)
    | (simp only [canon_parts]; with_reducible first | exact parts_of (by assumption) | apply parts_of)
    | with_reducible first | apply canon_unsched | apply canon_withRail | apply canon_addJob | apply canon_dropJobs | apply canon_railDown | apply canon_ite
    | split
    | dsimp -zeta only)

theorem canon_safeRequest {s : State} (h_s : s.Canon) : (State.safeRequest s).Canon := by
  unfold State.safeRequest
  repeat' (first
    | with_reducible assumption
    | intro _
    | (extract_lets -merge +onlyGivenNames t_
       first
       | (refine canon_cut (s := t_) ?_ (fun h_ => ?_) <;> [subst t_; clear_value t_])
       | clear_value t_)
    | (simp only [canon_parts]; with_reducible first | exact parts_of (by assumption) | apply parts_of)
    | with_reducible first | apply canon_unsched | apply canon_withPwr | apply canon_dropJobs | apply canon_forEach
    | dsimp -zeta only)

theorem canon_raiseInUp {s : State} (r d : Nat) (h_s : s.Canon) : CanonO ((State.raiseInUp s r d)) := by
  unfold State.raiseInUp
  repeat' (first
    | with_reducible first | assumption | exact canonO_none | apply canonO_some | apply canonO_ite
    | (extract_lets -merge +onlyGivenNames t_
       first
       | (refine canon_cut (s := t_) ?_ (fun h_ => ?_) <;> [subst t_; clear_value t_])
       | clear_value t_)
    | (simp only [canon_parts]; with_reducible first | exact parts_of (by assumption) | apply parts_of)
    | with_reducible first | apply canon_withPwr | apply canon_withRail | apply canon_ite
    | split
    | intro _
    | dsimp -zeta only)

theorem canon_followRail {s : State} (r : Nat) (h_s : s.Canon) : (State.followRail s r).Canon := by
  unfold State.followRail
  repeat' (first
    | with_reducible assumption
    | intro _
    | (extract_lets -merge +onlyGivenNames t_
       first
       | (refine canon_cut (s := t_) ?_ (fun h_ => ?_) <;> [subst t_; clear_value t_])
       | (refine canon_cut (s := t_.2) ?_ (fun h_ => ?_) <;> [subst t_; clear_value t_])
       | clear_value t_)
    | (simp only [canon_parts]; with_reducible first | exact parts_of (by assumption) | apply parts_of)
    | with_reducible first | apply canon_sched | apply canon_unsched | apply canon_railUp | apply canon_railChange | apply canon_raiseInUp | apply canon_ite | refine canonO_use ?_ (by assumption)
    | split
    | dsimp -zeta only)

theorem canon_followRails {s : State} (h_s : s.Canon) : (State.followRails s).Canon := by
  unfold State.followRails
  repeat' (first
    | with_reducible first | assumption | apply canon_followRail
    | dsimp -zeta only)

theorem canon_effRailLowering (r : Nat) {s : State} (h_s : s.Canon) : (effRailLowering r s).Canon := by
  unfold effRailLowering
  repeat' (first
    | with_reducible first | assumption | apply canon_railChange | apply canon_ite
    | split
    | dsimp -zeta only)

theorem canon_wakeChains {s : State} (h_s : s.Canon) : (State.wakeChains s).Canon := by
  unfold State.wakeChains
  repeat' (first
    | with_reducible assumption
    | intro _
    | (extract_lets -merge +onlyGivenNames t_
       first
       | (refine canon_cut (s := t_) ?_ (fun h_ => ?_) <;> [subst t_; clear_value t_])
       | (refine canon_cut (s := t_.2) ?_ (fun h_ => ?_) <;> [subst t_; clear_value t_])
       | clear_value t_)
    | with_reducible first | apply canon_sched | apply canon_ite | apply canon_forEach
    | split
    | dsimp -zeta only)

theorem canon_acknowledge {s : State} (r : Nat) (h_s : s.Canon) : (State.acknowledge s r).Canon := by
  unfold State.acknowledge
  repeat' (first
    | with_reducible assumption
    | intro _
    | (extract_lets -merge +onlyGivenNames t_
       first
       | (refine canon_cut (s := t_) ?_ (fun h_ => ?_) <;> [subst t_; clear_value t_])
       | clear_value t_)
    | (simp only [canon_parts]; with_reducible first | exact parts_of (by assumption) | apply parts_of)
    | with_reducible first | apply canon_put | apply canon_putBit | apply canon_unsched | apply canon_withRail | apply canon_ite
    | split
    | dsimp -zeta only)

theorem canon_failAttempt {s : State} (r : Nat) (h_s : s.Canon) : (State.failAttempt s r).Canon := by
  unfold State.failAttempt
  repeat' (first
    | with_reducible assumption
    | (extract_lets -merge +onlyGivenNames t_
       first
       | (refine canon_cut (s := t_) ?_ (fun h_ => ?_) <;> [subst t_; clear_value t_])
       | clear_value t_)
    | with_reducible first | apply canon_unsched | apply canon_recordErr | apply canon_flag | apply canon_addJob | apply canon_dropJobs | apply canon_railDown
    | dsimp -zeta only)

theorem canon_effRailAttemptTimeout (r : Nat) {s : State} (h_s : s.Canon) : (effRailAttemptTimeout r s).Canon := by
  unfold effRailAttemptTimeout
  repeat' (first
    | with_reducible first | assumption | apply canon_failAttempt | apply canon_ite
    | split
    | dsimp -zeta only)

theorem canon_pmbFail {s : State} (j : Job) (f : Fld) (h_s : s.Canon) : (State.pmbFail s j f).Canon := by
  unfold State.pmbFail
  repeat' (first
    | with_reducible assumption
    | intro _
    | (extract_lets -merge +onlyGivenNames t_
       first
       | (refine canon_cut (s := t_) ?_ (fun h_ => ?_) <;> [subst t_; clear_value t_])
       | clear_value t_)
    | (simp only [canon_parts]; with_reducible first | exact parts_of (by assumption) | apply parts_of)
    | with_reducible first | apply canon_inc | apply canon_recordErr | apply canon_flag | apply canon_withPwr | apply canon_failAttempt | apply canon_ite
    | split
    | dsimp -zeta only)

end Sys2Proof.Machine
end

