-- ==== Sys2Proof/Laws/CanonMemory.lean ====
section
/-! SUPPORT. The functions of Machine/Memory.lean keep the canonical form. -/

namespace Sys2Proof.Machine

open Sys2Proof

set_option linter.all false

theorem canon_putWord {s : State} (a : Nat) (w : Stored) (h : s.Canon) : (State.putWord s a w).Canon :=
  ⟨h.regs, wf_setStored h.sram _ _, h.parity, h.ctxs, h.txc, h.rxc, h.engs, h.wings⟩

theorem canon_putParity {s : State} (l : Nat) (w : Stored) (h : s.Canon) : (State.putParity s l w).Canon :=
  ⟨h.regs, h.sram, wf_setStored h.parity _ _, h.ctxs, h.txc, h.rxc, h.engs, h.wings⟩

theorem canon_recomputeParity {s : State} (line : Nat) (h_s : s.Canon) : (State.recomputeParity s line).Canon := by
  unfold State.recomputeParity
  repeat' (first
    | with_reducible assumption
    | intro _
    | (extract_lets -merge +onlyGivenNames t_
       first
       | (refine canon_cut (s := t_) ?_ (fun h_ => ?_) <;> [subst t_; clear_value t_])
       | clear_value t_)
    | with_reducible first | apply canon_putParity | apply canon_foldl | apply canon_foldl1 | apply canon_foldl2 | apply canon_foldl22
    | dsimp -zeta only)

theorem canon_scbFound {s : State} (scrub : Bool) (f : Fld) (h_s : s.Canon) : (State.scbFound s scrub f).Canon := by
  unfold State.scbFound
  repeat' (first
    | with_reducible assumption
    | intro _
    | with_reducible first | apply canon_inc | apply canon_flag | apply canon_when
    | dsimp -zeta only)

theorem canon_countEcc {s : State} (addr kind syn : Nat) (scrub : Bool) (h_s : s.Canon) : (State.countEcc s addr kind syn scrub).Canon := by
  unfold State.countEcc
  repeat' (first
    | with_reducible assumption
    | (extract_lets -merge +onlyGivenNames t_
       first
       | (refine canon_cut (s := t_) ?_ (fun h_ => ?_) <;> [subst t_; clear_value t_])
       | clear_value t_)
    | with_reducible first | apply canon_put | apply canon_inc | apply canon_recordErr | apply canon_flag | apply canon_telCount | apply canon_setFault | apply canon_scbFound | apply canon_ite
    | split
    | dsimp -zeta only)

theorem canon_deliverPoison {s : State} (h_s : s.Canon) : (State.deliverPoison s).Canon := by
  unfold State.deliverPoison
  repeat' (first
    | with_reducible assumption
    | (extract_lets -merge +onlyGivenNames t_
       first
       | (refine canon_cut (s := t_) ?_ (fun h_ => ?_) <;> [subst t_; clear_value t_])
       | clear_value t_)
    | (simp only [canon_parts]; with_reducible first | exact parts_of (by assumption) | apply parts_of)
    | with_reducible first | apply canon_flag | apply canon_present | apply canon_ite
    | split
    | dsimp -zeta only)

theorem canon_readGood {s : State} (a : Nat) (scrub : Bool) (h_s : s.Canon) : (State.readGood s a scrub).Canon := by
  unfold State.readGood
  repeat' (first
    | with_reducible assumption
    | (extract_lets -merge +onlyGivenNames t_
       first
       | (refine canon_cut (s := t_) ?_ (fun h_ => ?_) <;> [subst t_; clear_value t_])
       | clear_value t_)
    | (simp only [canon_parts]; with_reducible first | exact parts_of (by assumption) | apply parts_of)
    | with_reducible first | apply canon_putWord | apply canon_countEcc | apply canon_ite
    | split
    | dsimp -zeta only)

theorem canon_poisonWord {s : State} (a : Nat) (scrub : Bool) (h_s : s.Canon) : (State.poisonWord s a scrub).Canon := by
  unfold State.poisonWord
  repeat' (first
    | with_reducible assumption
    | (extract_lets -merge +onlyGivenNames t_
       first
       | (refine canon_cut (s := t_) ?_ (fun h_ => ?_) <;> [subst t_; clear_value t_])
       | clear_value t_)
    | with_reducible first | apply canon_putWord | apply canon_countEcc
    | dsimp -zeta only)

theorem canon_readBad {s : State} (a : Nat) (scrub : Bool) (h_s : s.Canon) : (State.readBad s a scrub).Canon := by
  unfold State.readBad
  repeat' (first
    | with_reducible assumption
    | intro _
    | (extract_lets -merge +onlyGivenNames t_
       first
       | (refine canon_cut (s := t_) ?_ (fun h_ => ?_) <;> [subst t_; clear_value t_])
       | clear_value t_)
    | with_reducible first | apply canon_putWord | apply canon_putParity | apply canon_recomputeParity | apply canon_countEcc | apply canon_readGood | apply canon_poisonWord | apply canon_ite | apply canon_forEach | apply canon_foldl | apply canon_foldl1 | apply canon_foldl2 | apply canon_foldl22
    | split
    | dsimp -zeta only)

theorem canon_readState {s : State} (a : Nat) (scrub : Bool) (h_s : s.Canon) : (State.readState s a scrub).Canon := by
  unfold State.readState
  repeat' (first
    | with_reducible first | assumption | apply canon_readGood | apply canon_readBad | apply canon_ite
    | split
    | dsimp -zeta only)

theorem canon_memRead {s : State} (a : Nat) (h_s : s.Canon) : (State.memRead s a).2.2.Canon := by
  unfold State.memRead
  repeat' (first
    | with_reducible assumption
    | (extract_lets -merge +onlyGivenNames t_
       first
       | (refine canon_cut (s := t_) ?_ (fun h_ => ?_) <;> [subst t_; clear_value t_])
       | clear_value t_)
    | with_reducible first | apply canon_deliverPoison | apply canon_readState | apply canon_ite
    | split
    | dsimp -zeta only)

theorem canon_memWrite {s : State} (a v : Nat) (poison : Bool) (h_s : s.Canon) : (State.memWrite s a v poison).Canon := by
  unfold State.memWrite
  repeat' (first
    | with_reducible assumption
    | intro _
    | (extract_lets -merge +onlyGivenNames t_
       first
       | (refine canon_cut (s := t_) ?_ (fun h_ => ?_) <;> [subst t_; clear_value t_])
       | clear_value t_)
    | with_reducible first | apply canon_putWord | apply canon_putParity | apply canon_recomputeParity | apply canon_countEcc | apply canon_poisonWord | apply canon_ite | apply canon_forEach
    | split
    | dsimp -zeta only)

theorem canon_memWrites {s : State} (a : Nat) (l : List Nat) (h_s : s.Canon) : (State.memWrites s a l).Canon := by
  unfold State.memWrites
  repeat' (first
    | with_reducible assumption
    | intro _
    | with_reducible first | apply canon_memWrite | apply canon_foldl | apply canon_foldl1 | apply canon_foldl2 | apply canon_foldl22
    | dsimp -zeta only)

theorem canon_memReads {s : State} (a n : Nat) (h_s : s.Canon) : (State.memReads s a n).2.2.Canon := by
  unfold State.memReads
  repeat' (first
    | with_reducible assumption
    | intro _
    | (extract_lets -merge +onlyGivenNames t_
       first
       | (refine canon_cut (s := t_) ?_ (fun h_ => ?_) <;> [subst t_; clear_value t_])
       | (refine canon_cut (s := t_.2.2) ?_ (fun h_ => ?_) <;> [subst t_; clear_value t_])
       | (refine canon_cut (s := t_.2) ?_ (fun h_ => ?_) <;> [subst t_; clear_value t_])
       | clear_value t_)
    | with_reducible first | apply canon_memRead | apply canon_foldl | apply canon_foldl1 | apply canon_foldl2 | apply canon_foldl22
    | split
    | dsimp -zeta only)

theorem canon_effSramRead (a : Nat) {s : State} (h_s : s.Canon) : (effSramRead a s).Canon := by
  unfold effSramRead
  repeat' (first
    | with_reducible first | assumption | apply canon_memRead | apply canon_ite
    | split
    | dsimp -zeta only)

theorem canon_effSramWrite (a v : Nat) {s : State} (h_s : s.Canon) : (effSramWrite a v s).Canon := by
  unfold effSramWrite
  repeat' (first
    | with_reducible first | assumption | apply canon_memWrite | apply canon_ite
    | split
    | dsimp -zeta only)

theorem canon_effCodecMismatch (a : Nat) {s : State} (h_s : s.Canon) : (effCodecMismatch a s).Canon := by
  unfold effCodecMismatch
  repeat' (first
    | with_reducible first | assumption | apply canon_setFault | apply canon_deliverPoison | apply canon_ite
    | split
    | dsimp -zeta only)

theorem canon_scbStart {s : State} (h_s : s.Canon) : (State.scbStart s).Canon := by
  unfold State.scbStart
  repeat' (first
    | with_reducible assumption
    | (extract_lets -merge +onlyGivenNames t_
       first
       | (refine canon_cut (s := t_) ?_ (fun h_ => ?_) <;> [subst t_; clear_value t_])
       | clear_value t_)
    | (simp only [canon_parts]; with_reducible first | exact parts_of (by assumption) | apply parts_of)
    | with_reducible first | apply canon_put | apply canon_resched | apply canon_ite
    | split
    | dsimp -zeta only)

theorem canon_scbPassEnd {s : State} (h_s : s.Canon) : (State.scbPassEnd s).Canon := by
  unfold State.scbPassEnd
  repeat' (first
    | with_reducible assumption
    | intro _
    | (extract_lets -merge +onlyGivenNames t_
       first
       | (refine canon_cut (s := t_) ?_ (fun h_ => ?_) <;> [subst t_; clear_value t_])
       | clear_value t_)
    | with_reducible first | apply canon_putB | apply canon_incMod | apply canon_recordErr | apply canon_flag | apply canon_present | apply canon_scbStart | apply canon_ite | apply canon_when
    | split
    | dsimp -zeta only)

theorem canon_scrubOne {s : State} (line : Nat) (h_s : s.Canon) : (State.scrubOne s line).Canon := by
  unfold State.scrubOne
  repeat' (first
    | with_reducible assumption
    | intro _
    | (extract_lets -merge +onlyGivenNames t_
       first
       | (refine canon_cut (s := t_) ?_ (fun h_ => ?_) <;> [subst t_; clear_value t_])
       | clear_value t_)
    | (simp only [canon_parts]; with_reducible first | exact parts_of (by assumption) | apply parts_of)
    | with_reducible first | apply canon_putParity | apply canon_recomputeParity | apply canon_countEcc | apply canon_readState | apply canon_ite | apply canon_forEach
    | split
    | dsimp -zeta only)

theorem canon_effScrubLine {s : State} (h_s : s.Canon) : (effScrubLine s).Canon := by
  unfold effScrubLine
  repeat' (first
    | with_reducible assumption
    | (extract_lets -merge +onlyGivenNames t_
       first
       | (refine canon_cut (s := t_) ?_ (fun h_ => ?_) <;> [subst t_; clear_value t_])
       | clear_value t_)
    | (simp only [canon_parts]; with_reducible first | exact parts_of (by assumption) | apply parts_of)
    | with_reducible first | apply canon_put | apply canon_resched | apply canon_scbPassEnd | apply canon_scrubOne | apply canon_ite
    | split
    | dsimp -zeta only)

theorem canon_effScbPeriodWrite (v : Nat) {s : State} (h_s : s.Canon) : (effScbPeriodWrite v s).Canon := by
  unfold effScbPeriodWrite
  repeat' (first
    | with_reducible assumption
    | (extract_lets -merge +onlyGivenNames t_
       first
       | (refine canon_cut (s := t_) ?_ (fun h_ => ?_) <;> [subst t_; clear_value t_])
       | clear_value t_)
    | (simp only [canon_parts]; with_reducible first | exact parts_of (by assumption) | apply parts_of)
    | with_reducible first | apply canon_put | apply canon_writeFields | apply canon_resched | apply canon_ite
    | split
    | dsimp -zeta only)

theorem canon_effScrubSeqMismatch {s : State} (h_s : s.Canon) : (effScrubSeqMismatch s).Canon := by
  unfold effScrubSeqMismatch
  repeat' (first
    | with_reducible first | assumption | apply canon_put | apply canon_setFault | apply canon_scbStart | apply canon_ite
    | split
    | dsimp -zeta only)

theorem canon_zeroBank {s : State} (b : Nat) (h : s.Canon) : (State.zeroBank s b).Canon :=
  ⟨h.regs, wf_memFilter h.sram _, wf_memFilter h.parity _, h.ctxs, h.txc, h.rxc, h.engs, h.wings⟩

theorem canon_restoreKept {s : State} (h_s : s.Canon) : (State.restoreKept s).Canon := by
  unfold State.restoreKept
  repeat' (first
    | with_reducible assumption
    | intro _
    | (extract_lets -merge +onlyGivenNames t_
       first
       | (refine canon_cut (s := t_) ?_ (fun h_ => ?_) <;> [subst t_; clear_value t_])
       | clear_value t_)
    | with_reducible first | apply canon_flag | apply canon_writeLine | apply canon_ite
    | split
    | dsimp -zeta only)

theorem canon_bistResult {s : State} (banks fails : Nat) (h_s : s.Canon) : (State.bistResult s banks fails).Canon := by
  unfold State.bistResult
  repeat' (first
    | with_reducible assumption
    | (extract_lets -merge +onlyGivenNames t_
       first
       | (refine canon_cut (s := t_) ?_ (fun h_ => ?_) <;> [subst t_; clear_value t_])
       | clear_value t_)
    | with_reducible first | apply canon_put | apply canon_flag | apply canon_setFault | apply canon_ite
    | split
    | dsimp -zeta only)

theorem canon_memReady {s : State} (h_s : s.Canon) : (State.memReady s).Canon := by
  unfold State.memReady
  repeat' (first
    | with_reducible assumption
    | (extract_lets -merge +onlyGivenNames t_
       first
       | (refine canon_cut (s := t_) ?_ (fun h_ => ?_) <;> [subst t_; clear_value t_])
       | clear_value t_)
    | (simp only [canon_parts]; with_reducible first | exact parts_of (by assumption) | apply parts_of)
    | with_reducible first | apply canon_put | apply canon_putB | apply canon_sched | apply canon_scbStart | apply canon_when
    | dsimp -zeta only)

theorem canon_effMemSelfTest (fails : Nat) {s : State} (h_s : s.Canon) : (effMemSelfTest fails s).Canon := by
  unfold effMemSelfTest
  repeat' (first
    | with_reducible assumption
    | (extract_lets -merge +onlyGivenNames t_
       first
       | (refine canon_cut (s := t_) ?_ (fun h_ => ?_) <;> [subst t_; clear_value t_])
       | clear_value t_)
    | (simp only [canon_parts]; with_reducible first | exact parts_of (by assumption) | apply parts_of | apply parts_nil)
    | with_reducible first | apply canon_putB | apply canon_putBit | apply canon_zeroBank | apply canon_restoreKept | apply canon_bistResult | apply canon_memReady | apply canon_ite
    | split
    | dsimp -zeta only)

theorem canon_effBankZeroing {s : State} (h_s : s.Canon) : (effBankZeroing s).Canon := by
  unfold effBankZeroing
  repeat' (first
    | with_reducible assumption
    | intro _
    | (extract_lets -merge +onlyGivenNames t_
       first
       | (refine canon_cut (s := t_) ?_ (fun h_ => ?_) <;> [subst t_; clear_value t_])
       | clear_value t_)
    | with_reducible first | apply canon_putB | apply canon_zeroBank | apply canon_memReady | apply canon_ite | apply canon_when | apply canon_forEach
    | split
    | dsimp -zeta only)

theorem canon_effBistGo {s : State} (h_s : s.Canon) : (effBistGo s).Canon := by
  unfold effBistGo
  repeat' (first
    | with_reducible assumption
    | intro _
    | (extract_lets -merge +onlyGivenNames t_
       first
       | (refine canon_cut (s := t_) ?_ (fun h_ => ?_) <;> [subst t_; clear_value t_])
       | clear_value t_)
    | (simp only [canon_parts]; with_reducible first | exact parts_of (by assumption) | apply parts_of)
    | with_reducible first | apply canon_putB | apply canon_putBit | apply canon_recordErr | apply canon_ite
    | split
    | dsimp -zeta only)

theorem canon_injRefused {s : State} (h_s : s.Canon) : CanonO ((State.injRefused s)) := by
  unfold State.injRefused
  repeat' (first
    | with_reducible first | assumption | exact canonO_none | apply canonO_some | apply canonO_ite | apply canon_recordErr | apply canon_flag | apply canon_ite
    | split
    | intro _
    | dsimp -zeta only)

theorem canon_effInjGo {s : State} (h_s : s.Canon) : (effInjGo s).Canon := by
  unfold effInjGo
  repeat' (first
    | with_reducible assumption
    | (extract_lets -merge +onlyGivenNames t_
       first
       | (refine canon_cut (s := t_) ?_ (fun h_ => ?_) <;> [subst t_; clear_value t_])
       | clear_value t_)
    | (simp only [canon_parts]; with_reducible first | exact parts_of (by assumption) | apply parts_of)
    | with_reducible first | apply canon_putWord | apply canon_putParity | apply canon_injRefused | apply canon_ite | refine canonO_use ?_ (by assumption)
    | split
    | dsimp -zeta only)

theorem canon_effInjRaw {s : State} (h_s : s.Canon) : (effInjRaw s).Canon := by
  unfold effInjRaw
  repeat' (first
    | with_reducible assumption
    | (extract_lets -merge +onlyGivenNames t_
       first
       | (refine canon_cut (s := t_) ?_ (fun h_ => ?_) <;> [subst t_; clear_value t_])
       | clear_value t_)
    | (simp only [canon_parts]; with_reducible first | exact parts_of (by assumption) | apply parts_of)
    | with_reducible first | apply canon_put | apply canon_putB | apply canon_injRefused | apply canon_ite | refine canonO_use ?_ (by assumption)
    | split
    | dsimp -zeta only)

theorem canon_winRange {s : State} (h_s : s.Canon) : (State.winRange s).Canon := by
  unfold State.winRange
  repeat' (first
    | with_reducible first | assumption | apply canon_recordErr | apply canon_flag
    | dsimp -zeta only)

theorem canon_winRead {s : State} (k : Nat) (h_s : s.Canon) : (State.winRead s k).2.2.Canon := by
  unfold State.winRead
  repeat' (first
    | with_reducible assumption
    | (extract_lets -merge +onlyGivenNames t_
       first
       | (refine canon_cut (s := t_) ?_ (fun h_ => ?_) <;> [subst t_; clear_value t_])
       | (refine canon_cut (s := t_.2.2) ?_ (fun h_ => ?_) <;> [subst t_; clear_value t_])
       | (refine canon_cut (s := t_.2) ?_ (fun h_ => ?_) <;> [subst t_; clear_value t_])
       | clear_value t_)
    | (simp only [canon_parts]; with_reducible first | exact parts_of (by assumption) | apply parts_of)
    | with_reducible first | apply canon_putBit | apply canon_setFault | apply canon_deliverPoison | apply canon_memRead | apply canon_winRange | apply canon_ite
    | split
    | dsimp -zeta only)

theorem canon_winWrite {s : State} (k v : Nat) (poison : Bool) (h_s : s.Canon) : (State.winWrite s k v poison).Canon := by
  unfold State.winWrite
  repeat' (first
    | with_reducible assumption
    | (simp only [canon_parts]; with_reducible first | exact parts_of (by assumption) | apply parts_of)
    | with_reducible first | apply canon_memWrite | apply canon_winRange | apply canon_ite
    | split
    | dsimp -zeta only)

theorem canon_effMemWindowRead (k : Nat) {s : State} (h_s : s.Canon) : (effMemWindowRead k s).Canon := by
  unfold effMemWindowRead
  repeat' (first
    | with_reducible assumption
    | (extract_lets -merge +onlyGivenNames t_
       first
       | (refine canon_cut (s := t_) ?_ (fun h_ => ?_) <;> [subst t_; clear_value t_])
       | (refine canon_cut (s := t_.2.2) ?_ (fun h_ => ?_) <;> [subst t_; clear_value t_])
       | (refine canon_cut (s := t_.2) ?_ (fun h_ => ?_) <;> [subst t_; clear_value t_])
       | clear_value t_)
    | (simp only [canon_parts]; with_reducible first | exact parts_of (by assumption) | apply parts_of)
    | with_reducible first | apply canon_winRead | apply canon_ite
    | split
    | dsimp -zeta only)

theorem canon_effMemWindowWrite (k v : Nat) {s : State} (h_s : s.Canon) : (effMemWindowWrite k v s).Canon := by
  unfold effMemWindowWrite
  repeat' (first
    | with_reducible first | assumption | apply canon_winWrite | apply canon_ite
    | split
    | dsimp -zeta only)

theorem canon_setCkuCfg {s : State} (n v : Nat) (h_s : s.Canon) : (State.setCkuCfg s n v).Canon := by
  unfold State.setCkuCfg
  repeat' (first
    | with_reducible assumption
    | (simp only [canon_parts]; with_reducible first | exact parts_of (by assumption) | apply parts_of)
    | dsimp -zeta only)

theorem canon_setCkuLast {s : State} (n v : Nat) (h_s : s.Canon) : (State.setCkuLast s n v).Canon := by
  unfold State.setCkuLast
  repeat' (first
    | with_reducible assumption
    | (simp only [canon_parts]; with_reducible first | exact parts_of (by assumption) | apply parts_of)
    | dsimp -zeta only)

theorem canon_ckuMark {s : State} (n : Nat) (b : Bool) (h_s : s.Canon) : (State.ckuMark s n b).Canon := by
  unfold State.ckuMark
  repeat' (first
    | with_reducible assumption
    | intro _
    | (extract_lets -merge +onlyGivenNames t_
       first
       | (refine canon_cut (s := t_) ?_ (fun h_ => ?_) <;> [subst t_; clear_value t_])
       | clear_value t_)
    | (simp only [canon_parts]; with_reducible first | exact parts_of (by assumption) | apply parts_of)
    | with_reducible apply canon_ite
    | split
    | dsimp -zeta only)

theorem canon_effCkuStart (n : Nat) {s : State} (h_s : s.Canon) : (effCkuStart n s).Canon := by
  unfold effCkuStart
  repeat' (first
    | with_reducible assumption
    | (extract_lets -merge +onlyGivenNames t_
       first
       | (refine canon_cut (s := t_) ?_ (fun h_ => ?_) <;> [subst t_; clear_value t_])
       | clear_value t_)
    | with_reducible first | apply canon_put | apply canon_putB | apply canon_recordErr | apply canon_flag | apply canon_setCkuCfg | apply canon_setCkuLast | apply canon_ckuMark | apply canon_ite
    | split
    | dsimp -zeta only)

theorem canon_ckuFeed {s : State} (n : Nat) (bytes : List Nat) (h_s : s.Canon) : (State.ckuFeed s n bytes).Canon := by
  unfold State.ckuFeed
  repeat' (first
    | with_reducible assumption
    | (extract_lets -merge +onlyGivenNames t_
       first
       | (refine canon_cut (s := t_) ?_ (fun h_ => ?_) <;> [subst t_; clear_value t_])
       | clear_value t_)
    | with_reducible first | apply canon_put | apply canon_setCkuLast
    | dsimp -zeta only)

theorem canon_effCkuData (n m v : Nat) (poison : Bool) {s : State} (h_s : s.Canon) : (effCkuData n m v poison s).Canon := by
  unfold effCkuData
  repeat' (first
    | with_reducible assumption
    | (extract_lets -merge +onlyGivenNames t_
       first
       | (refine canon_cut (s := t_) ?_ (fun h_ => ?_) <;> [subst t_; clear_value t_])
       | clear_value t_)
    | with_reducible first | apply canon_recordErr | apply canon_flag | apply canon_ckuMark | apply canon_ckuFeed | apply canon_ite
    | split
    | dsimp -zeta only)

theorem canon_ckuCompare {s : State} (n : Nat) (h_s : s.Canon) : (State.ckuCompare s n).Canon := by
  unfold State.ckuCompare
  repeat' (first
    | with_reducible assumption
    | (extract_lets -merge +onlyGivenNames t_
       first
       | (refine canon_cut (s := t_) ?_ (fun h_ => ?_) <;> [subst t_; clear_value t_])
       | clear_value t_)
    | with_reducible first | apply canon_putB | apply canon_recordErr | apply canon_flag | apply canon_ite
    | split
    | dsimp -zeta only)

theorem canon_ckuAlive {s : State} (n : Nat) (h_s : s.Canon) : (State.ckuAlive s n).Canon := by
  unfold State.ckuAlive
  repeat' (first
    | with_reducible assumption
    | (extract_lets -merge +onlyGivenNames t_
       first
       | (refine canon_cut (s := t_) ?_ (fun h_ => ?_) <;> [subst t_; clear_value t_])
       | clear_value t_)
    | with_reducible first | apply canon_put | apply canon_putB | apply canon_recordErr | apply canon_flag | apply canon_ite
    | split
    | dsimp -zeta only)

theorem canon_effCkuEnd (n : Nat) {s : State} (h_s : s.Canon) : (effCkuEnd n s).Canon := by
  unfold effCkuEnd
  repeat' (first
    | with_reducible assumption
    | (extract_lets -merge +onlyGivenNames t_
       first
       | (refine canon_cut (s := t_) ?_ (fun h_ => ?_) <;> [subst t_; clear_value t_])
       | clear_value t_)
    | with_reducible first | apply canon_put | apply canon_putB | apply canon_flag | apply canon_ckuFeed | apply canon_ckuCompare | apply canon_ckuAlive | apply canon_ite
    | split
    | dsimp -zeta only)

theorem canon_effCkuRunWrite (n v : Nat) {s : State} (h_s : s.Canon) : (effCkuRunWrite n v s).Canon := by
  unfold effCkuRunWrite
  repeat' (first
    | with_reducible first | assumption | apply canon_writeFields | apply canon_ite
    | split
    | dsimp -zeta only)

theorem canon_effCkuLogicMismatch (n : Nat) {s : State} (h_s : s.Canon) : (effCkuLogicMismatch n s).Canon := by
  unfold effCkuLogicMismatch
  repeat' (first
    | with_reducible assumption
    | intro _
    | (extract_lets -merge +onlyGivenNames t_
       first
       | (refine canon_cut (s := t_) ?_ (fun h_ => ?_) <;> [subst t_; clear_value t_])
       | clear_value t_)
    | with_reducible first | apply canon_setFault | apply canon_ckuMark | apply canon_ite | apply canon_when
    | split
    | dsimp -zeta only)

end Sys2Proof.Machine
end

