-- ==== Sys2Proof/Laws/CanonLedger.lean ====
section
/-! SUPPORT. The functions of Machine/Ledger.lean keep the canonical form. -/

namespace Sys2Proof.Machine

open Sys2Proof

set_option linter.all false

theorem canon_invRecord {s : State} (kind port entry : Nat) (h_s : s.Canon) : (State.invRecord s kind port entry).Canon := by
  unfold State.invRecord
  repeat' (first
    | with_reducible assumption
    | intro _
    | (extract_lets -merge +onlyGivenNames t_
       first
       | (refine canon_cut (s := t_) ?_ (fun h_ => ?_) <;> [subst t_; clear_value t_])
       | clear_value t_)
    | with_reducible first | apply canon_put | apply canon_inc | apply canon_recordErr | apply canon_flag | apply canon_present | apply canon_memWrite | apply canon_ite | apply canon_when
    | split
    | dsimp -zeta only)

theorem canon_entry {s : State} (p i : Nat) (h_s : s.Canon) : (State.entry s p i).2.Canon := by
  unfold State.entry
  repeat' (first
    | with_reducible assumption
    | (extract_lets -merge +onlyGivenNames t_
       first
       | (refine canon_cut (s := t_) ?_ (fun h_ => ?_) <;> [subst t_; clear_value t_])
       | (refine canon_cut (s := t_.2.2) ?_ (fun h_ => ?_) <;> [subst t_; clear_value t_])
       | (refine canon_cut (s := t_.2) ?_ (fun h_ => ?_) <;> [subst t_; clear_value t_])
       | clear_value t_)
    | with_reducible first | apply canon_recordErr | apply canon_flag | apply canon_memReads | apply canon_invRecord | apply canon_ite
    | split
    | dsimp -zeta only)

theorem canon_putEntry {s : State} (p i : Nat) (old new : List Nat) (h_s : s.Canon) : (State.putEntry s p i old new).Canon := by
  unfold State.putEntry
  repeat' (first
    | with_reducible assumption
    | intro _
    | with_reducible first | apply canon_memWrite | apply canon_ite | apply canon_forEach | refine canonP_use ?_ (by assumption)
    | split
    | dsimp -zeta only)

theorem canon_eachEntry {s : State} (p : Nat) (f : List Nat → List Nat) (h_s : s.Canon) : (State.eachEntry s p f).Canon := by
  unfold State.eachEntry
  repeat' (first
    | with_reducible assumption
    | intro _
    | (extract_lets -merge +onlyGivenNames t_
       first
       | (refine canon_cut (s := t_) ?_ (fun h_ => ?_) <;> [subst t_; clear_value t_])
       | (refine canon_cut (s := t_.2) ?_ (fun h_ => ?_) <;> [subst t_; clear_value t_])
       | clear_value t_)
    | with_reducible first | apply canon_entry | apply canon_putEntry | apply canon_ite | apply canon_forEach | refine canonP_use ?_ (by assumption)
    | split
    | dsimp -zeta only)

theorem canon_ledgerOff {s : State} (p : Nat) (h_s : s.Canon) : (State.ledgerOff s p).Canon := by
  unfold State.ledgerOff
  repeat' (first
    | with_reducible assumption
    | intro _
    | with_reducible apply canon_eachEntry
    | dsimp -zeta only)

theorem canon_ledgerTag {s : State} (p proto : Nat) (uid : List Nat) (from_ : Option Nat) (st : Nat) (h_s : s.Canon) : (State.ledgerTag s p proto uid from_ st).Canon := by
  unfold State.ledgerTag
  repeat' (first
    | with_reducible assumption
    | intro _
    | with_reducible first | apply canon_eachEntry | apply canon_ite
    | split
    | dsimp -zeta only)

theorem canon_ledgerActive {s : State} (p : Nat) (f : List Nat → List Nat) (h_s : s.Canon) : (State.ledgerActive s p f).Canon := by
  unfold State.ledgerActive
  repeat' (first
    | with_reducible assumption
    | intro _
    | with_reducible first | apply canon_eachEntry | apply canon_ite
    | split
    | dsimp -zeta only)

theorem canon_ledgerGain {s : State} (p : Nat) (h_s : s.Canon) : (State.ledgerGain s p).2.Canon := by
  unfold State.ledgerGain
  repeat' (first
    | with_reducible assumption
    | intro _
    | (extract_lets -merge +onlyGivenNames t_
       first
       | (refine canon_cut (s := t_) ?_ (fun h_ => ?_) <;> [subst t_; clear_value t_])
       | (refine canon_cut (s := t_.2.2) ?_ (fun h_ => ?_) <;> [subst t_; clear_value t_])
       | (refine canon_cut (s := t_.2) ?_ (fun h_ => ?_) <;> [subst t_; clear_value t_])
       | clear_value t_)
    | (simp only [canon_parts]; with_reducible first | exact parts_of (by assumption) | apply parts_of)
    | with_reducible first | apply canon_entry | apply canon_ite | apply canon_foldl | apply canon_foldl1 | apply canon_foldl2 | apply canon_foldl22 | refine canonP_use ?_ (by assumption)
    | split
    | dsimp -zeta only)

theorem canon_kbzLearn {s : State} (p old : Nat) (h_s : s.Canon) : (State.kbzLearn s p old).Canon := by
  unfold State.kbzLearn
  repeat' (first
    | with_reducible assumption
    | (extract_lets -merge +onlyGivenNames t_
       first
       | (refine canon_cut (s := t_) ?_ (fun h_ => ?_) <;> [subst t_; clear_value t_])
       | clear_value t_)
    | (simp only [canon_parts]; with_reducible first | exact parts_of (by assumption) | apply parts_of)
    | with_reducible apply canon_put
    | dsimp -zeta only)

end Sys2Proof.Machine
end

