-- ==== Sys2Proof/Laws/CanonCells.lean ====
section
/-! SUPPORT. The functions of Machine/Cells.lean keep the canonical form. -/

namespace Sys2Proof.Machine

open Sys2Proof

set_option linter.all false

theorem canon_withMch {s : State} (f : Mch → Mch) (h_s : s.Canon) : (State.withMch s f).Canon := by
  unfold State.withMch
  repeat' (first
    | with_reducible assumption
    | (simp only [canon_parts]; with_reducible first | exact parts_of (by assumption) | apply parts_of)
    | dsimp -zeta only)

theorem canon_newCell {s : State} (type tag payload : Nat) (h_s : s.Canon) : (State.newCell s type tag payload).2.Canon := by
  unfold State.newCell
  repeat' (first
    | with_reducible assumption
    | intro _
    | (extract_lets -merge +onlyGivenNames t_
       first
       | (refine canon_cut (s := t_) ?_ (fun h_ => ?_) <;> [subst t_; clear_value t_])
       | clear_value t_)
    | (simp only [canon_parts]; with_reducible first | exact parts_of (by assumption) | apply parts_of)
    | with_reducible apply canon_withMch
    | dsimp -zeta only)

theorem canon_chainLate {s : State} (h_s : s.Canon) : (State.chainLate s).Canon := by
  unfold State.chainLate
  repeat' (first
    | with_reducible first | assumption | apply canon_inc | apply canon_recordErr | apply canon_flag
    | dsimp -zeta only)

theorem canon_holdWake {s : State} (h_s : s.Canon) : (State.holdWake s).Canon := by
  unfold State.holdWake
  repeat' (first
    | with_reducible assumption
    | intro _
    | with_reducible first | apply canon_sched | apply canon_when
    | dsimp -zeta only)

theorem canon_slotFires {s : State} (n : Nat) (late : Bool) (h_s : s.Canon) : (State.slotFires s n late).Canon := by
  unfold State.slotFires
  repeat' (first
    | with_reducible assumption
    | intro _
    | (extract_lets -merge +onlyGivenNames t_
       first
       | (refine canon_cut (s := t_) ?_ (fun h_ => ?_) <;> [subst t_; clear_value t_])
       | clear_value t_)
    | with_reducible first | apply canon_sched | apply canon_flag | apply canon_present | apply canon_chainLate | apply canon_when
    | dsimp -zeta only)

theorem canon_slotToken {s : State} (n token angle : Nat) (h_s : s.Canon) : (State.slotToken s n token angle).Canon := by
  unfold State.slotToken
  repeat' (first
    | with_reducible assumption
    | intro _
    | (extract_lets -merge +onlyGivenNames t_
       first
       | (refine canon_cut (s := t_) ?_ (fun h_ => ?_) <;> [subst t_; clear_value t_])
       | (refine canon_cut (s := t_.2) ?_ (fun h_ => ?_) <;> [subst t_; clear_value t_])
       | clear_value t_)
    | (simp only [canon_parts]; with_reducible first | exact parts_of (by assumption) | apply parts_of)
    | with_reducible first | apply canon_put | apply canon_inc | apply canon_recordErr | apply canon_flag | apply canon_arm | apply canon_armNext | apply canon_holdWake | apply canon_slotFires | apply canon_ite | apply canon_when
    | split
    | dsimp -zeta only)

theorem canon_handleToken {s : State} (token angle : Nat) (h_s : s.Canon) : (State.handleToken s token angle).Canon := by
  unfold State.handleToken
  repeat' (first
    | with_reducible assumption
    | intro _
    | with_reducible first | apply canon_slotToken | apply canon_forEach
    | dsimp -zeta only)

theorem canon_stampEvent {s : State} (c : Cell) (h_s : s.Canon) : (State.stampEvent s c).2.Canon := by
  unfold State.stampEvent
  repeat' (first
    | with_reducible assumption
    | intro _
    | (extract_lets -merge +onlyGivenNames t_
       first
       | (refine canon_cut (s := t_) ?_ (fun h_ => ?_) <;> [subst t_; clear_value t_])
       | clear_value t_)
    | (simp only [canon_parts]; with_reducible first | exact parts_of (by assumption) | apply parts_of)
    | with_reducible first | apply canon_holdDelivery | apply canon_arm | apply canon_when
    | split
    | dsimp -zeta only)

theorem canon_watchCell {s : State} (c : Cell) (copy : Bool) (h_s : s.Canon) : (State.watchCell s c copy).Canon := by
  unfold State.watchCell
  repeat' (first
    | with_reducible assumption
    | intro _
    | (extract_lets -merge +onlyGivenNames t_
       first
       | (refine canon_cut (s := t_) ?_ (fun h_ => ?_) <;> [subst t_; clear_value t_])
       | clear_value t_)
    | (simp only [canon_parts]; with_reducible first | exact parts_of (by assumption) | apply parts_of)
    | with_reducible first | apply canon_sched | apply canon_withMch | apply canon_ite
    | split
    | dsimp -zeta only)

theorem canon_startRanging {s : State} (h_s : s.Canon) : (State.startRanging s).Canon := by
  unfold State.startRanging
  repeat' (first
    | with_reducible first | assumption | apply canon_putB | apply canon_retimer
    | dsimp -zeta only)

theorem canon_sendCell {s : State} (c : Cell) (h_s : s.Canon) : (State.sendCell s c).Canon := by
  unfold State.sendCell
  repeat' (first
    | with_reducible assumption
    | intro _
    | (extract_lets -merge +onlyGivenNames t_
       first
       | (refine canon_cut (s := t_) ?_ (fun h_ => ?_) <;> [subst t_; clear_value t_])
       | (refine canon_cut (s := t_.2) ?_ (fun h_ => ?_) <;> [subst t_; clear_value t_])
       | clear_value t_)
    | (simp only [canon_parts]; with_reducible first | exact parts_of (by assumption) | apply parts_of)
    | with_reducible first | apply canon_withMch | apply canon_handleToken | apply canon_stampEvent | apply canon_watchCell | apply canon_startRanging | apply canon_ite | refine canonP_use ?_ (by assumption)
    | split
    | dsimp -zeta only)

theorem canon_passFree {s : State} (free : Cell) (h_s : s.Canon) : (State.passFree s free).Canon := by
  unfold State.passFree
  repeat' (first
    | with_reducible assumption
    | intro _
    | (extract_lets -merge +onlyGivenNames t_
       first
       | (refine canon_cut (s := t_) ?_ (fun h_ => ?_) <;> [subst t_; clear_value t_])
       | (refine canon_cut (s := t_.2) ?_ (fun h_ => ?_) <;> [subst t_; clear_value t_])
       | clear_value t_)
    | (simp only [canon_parts]; with_reducible first | exact parts_of (by assumption) | apply parts_of)
    | with_reducible first | apply canon_withMch | apply canon_newCell | apply canon_ite | refine canonP_use ?_ (by assumption)
    | split
    | dsimp -zeta only)

theorem canon_takeSlot {s : State} (free : Cell) (h_s : s.Canon) : (State.takeSlot s free).Canon := by
  unfold State.takeSlot
  repeat' (first
    | with_reducible assumption
    | intro _
    | (simp only [canon_parts]; with_reducible first | exact parts_of (by assumption) | apply parts_of)
    | with_reducible first | apply canon_withMch | apply canon_sendCell | apply canon_passFree | apply canon_ite
    | split
    | dsimp -zeta only)

theorem canon_slotOut {s : State} (c : Cell) (free : Bool) (h_s : s.Canon) : (State.slotOut s c free).Canon := by
  unfold State.slotOut
  repeat' (first
    | with_reducible assumption
    | intro _
    | (simp only [canon_parts]; with_reducible first | exact parts_of (by assumption) | apply parts_of)
    | with_reducible first | apply canon_withMch | apply canon_takeSlot | apply canon_ite
    | split
    | dsimp -zeta only)

theorem canon_slotIn {s : State} (c : Cell) (free : Bool) (h_s : s.Canon) : (State.slotIn s c free).Canon := by
  unfold State.slotIn
  repeat' (first
    | with_reducible first | assumption | apply canon_timer | apply canon_slotOut | apply canon_ite
    | split
    | dsimp -zeta only)

theorem canon_newVoid {s : State} (h_s : s.Canon) : (State.newVoid s).2.Canon := by
  unfold State.newVoid
  repeat' (first
    | with_reducible first | assumption | apply canon_newCell | refine canonP_use ?_ (by assumption)
    | dsimp -zeta only)

theorem canon_cellSlot {s : State} (h_s : s.Canon) : (State.cellSlot s).Canon := by
  unfold State.cellSlot
  repeat' (first
    | with_reducible assumption
    | (extract_lets -merge +onlyGivenNames t_
       first
       | (refine canon_cut (s := t_) ?_ (fun h_ => ?_) <;> [subst t_; clear_value t_])
       | clear_value t_)
    | with_reducible first | apply canon_retimer | apply canon_takeSlot | apply canon_ite
    | split
    | dsimp -zeta only)

theorem canon_startStream {s : State} (h_s : s.Canon) : (State.startStream s).Canon := by
  unfold State.startStream
  repeat' (first
    | with_reducible assumption
    | intro _
    | with_reducible first | apply canon_timer | apply canon_cellSlot | apply canon_ite
    | split
    | dsimp -zeta only)

theorem canon_queueCell {s : State} (type tag payload : Nat) (h_s : s.Canon) : (State.queueCell s type tag payload).Canon := by
  unfold State.queueCell
  repeat' (first
    | with_reducible assumption
    | intro _
    | (extract_lets -merge +onlyGivenNames t_
       first
       | (refine canon_cut (s := t_) ?_ (fun h_ => ?_) <;> [subst t_; clear_value t_])
       | (refine canon_cut (s := t_.2) ?_ (fun h_ => ?_) <;> [subst t_; clear_value t_])
       | clear_value t_)
    | (simp only [canon_parts]; with_reducible first | exact parts_of (by assumption) | apply parts_of)
    | with_reducible first | apply canon_withMch | apply canon_newCell | apply canon_ite | refine canonP_use ?_ (by assumption)
    | split
    | dsimp -zeta only)

end Sys2Proof.Machine
end

