-- ==== Sys2Proof/Laws/CanonField.lean ====
section
/-! SUPPORT. The functions of Machine/Field.lean keep the canonical form. -/

namespace Sys2Proof.Machine

open Sys2Proof

set_option linter.all false

theorem canon_badPort {s : State} (page p : Nat) (h_s : s.Canon) : (State.badPort s page p).Canon := by
  unfold State.badPort
  repeat' (first
    | with_reducible assumption
    | intro _
    | with_reducible first | apply canon_recordErr | apply canon_when
    | dsimp -zeta only)

theorem canon_withRx {s : State} (n : Nat) (f : Rxc → Rxc) (h : s.Canon) : (State.withRx s n f).Canon :=
  ⟨h.regs, h.sram, h.parity, h.ctxs, h.txc, by simp [State.withRx, h.rxc], h.engs, h.wings⟩

theorem canon_rxPutHw {s : State} (n : Nat) (f : Fld) (x : Nat) (h_s : s.Canon) : (State.rxPutHw s n f x).Canon := by
  unfold State.rxPutHw
  repeat' (first
    | with_reducible assumption
    | (extract_lets -merge +onlyGivenNames t_
       first
       | (refine canon_cut (s := t_) ?_ (fun h_ => ?_) <;> [subst t_; clear_value t_])
       | clear_value t_)
    | with_reducible first | apply canon_mirrorTake | apply canon_putHw
    | dsimp -zeta only)

theorem canon_selectTap {s : State} (n p : Nat) (h_s : s.Canon) : (State.selectTap s n p).Canon := by
  unfold State.selectTap
  repeat' (first
    | with_reducible assumption
    | intro _
    | (extract_lets -merge +onlyGivenNames t_
       first
       | (refine canon_cut (s := t_) ?_ (fun h_ => ?_) <;> [subst t_; clear_value t_])
       | clear_value t_)
    | (simp only [canon_parts]; with_reducible first | exact parts_of (by assumption) | apply parts_of)
    | with_reducible first | apply canon_put | apply canon_putB | apply canon_withRx | apply canon_rxPutHw | apply canon_ite
    | split
    | dsimp -zeta only)

theorem canon_retap {s : State} (n : Nat) (h_s : s.Canon) : (State.retap s n).Canon := by
  unfold State.retap
  repeat' (first
    | with_reducible assumption
    | intro _
    | (simp only [canon_parts]; with_reducible first | exact parts_of (by assumption) | apply parts_of)
    | with_reducible first | apply canon_withRx | apply canon_selectTap | apply canon_ite
    | split
    | dsimp -zeta only)

theorem canon_retapWing {s : State} (w : Nat) (h_s : s.Canon) : (State.retapWing s w).Canon := by
  unfold State.retapWing
  repeat' (first
    | with_reducible first | assumption | apply canon_retap
    | dsimp -zeta only)

theorem canon_setSwitch {s : State} (n p : Nat) (h_s : s.Canon) : (State.setSwitch s n p).Canon := by
  unfold State.setSwitch
  repeat' (first
    | with_reducible assumption
    | intro _
    | (extract_lets -merge +onlyGivenNames t_
       first
       | (refine canon_cut (s := t_) ?_ (fun h_ => ?_) <;> [subst t_; clear_value t_])
       | clear_value t_)
    | (simp only [canon_parts]; with_reducible first | exact parts_of (by assumption) | apply parts_of)
    | with_reducible first | apply canon_put | apply canon_withTx | apply canon_retapWing | apply canon_ite
    | split
    | dsimp -zeta only)

theorem canon_openSwitch {s : State} (n : Nat) (h_s : s.Canon) : (State.openSwitch s n).Canon := by
  unfold State.openSwitch
  repeat' (first
    | with_reducible assumption
    | intro _
    | (simp only [canon_parts]; with_reducible first | exact parts_of (by assumption) | apply parts_of)
    | with_reducible first | apply canon_withTx | apply canon_retapWing
    | split
    | dsimp -zeta only)

theorem canon_retapAll {s : State} (h_s : s.Canon) : (State.retapAll s).Canon := by
  unfold State.retapAll
  repeat' (first
    | with_reducible assumption
    | intro _
    | (extract_lets -merge +onlyGivenNames t_
       first
       | (refine canon_cut (s := t_) ?_ (fun h_ => ?_) <;> [subst t_; clear_value t_])
       | clear_value t_)
    | (simp only [canon_parts]; with_reducible first | exact parts_of (by assumption) | apply parts_of)
    | with_reducible first | apply canon_withRx | apply canon_retap | apply canon_ite | apply canon_forEach
    | split
    | dsimp -zeta only)

theorem canon_setField {s : State} (n st : Nat) (h_s : s.Canon) : (State.setField s n st).Canon := by
  unfold State.setField
  repeat' (first
    | with_reducible first | assumption | apply canon_put
    | dsimp -zeta only)

theorem canon_armNow {s : State} (n : Nat) (h_s : s.Canon) : (State.armNow s n).Canon := by
  unfold State.armNow
  repeat' (first
    | with_reducible assumption
    | intro _
    | (extract_lets -merge +onlyGivenNames t_
       first
       | (refine canon_cut (s := t_) ?_ (fun h_ => ?_) <;> [subst t_; clear_value t_])
       | clear_value t_)
    | with_reducible first | apply canon_resched | apply canon_followRails | apply canon_setSwitch | apply canon_setField | apply canon_ite | apply canon_when
    | split
    | dsimp -zeta only)

theorem canon_takeHeld {s : State} (n : Nat) (h_s : s.Canon) : (State.takeHeld s n).Canon := by
  unfold State.takeHeld
  repeat' (first
    | with_reducible assumption
    | intro _
    | (simp only [canon_parts]; with_reducible first | exact parts_of (by assumption) | apply parts_of)
    | with_reducible first | apply canon_withTx | apply canon_armNow | apply canon_ite
    | split
    | dsimp -zeta only)

theorem canon_dropHeld {s : State} (n st : Nat) (h_s : s.Canon) : (State.dropHeld s n st).Canon := by
  unfold State.dropHeld
  repeat' (first
    | with_reducible assumption
    | intro _
    | (simp only [canon_parts]; with_reducible first | exact parts_of (by assumption) | apply parts_of)
    | with_reducible first | apply canon_endFor | apply canon_withTx
    | split
    | dsimp -zeta only)

theorem canon_tuneEnd {s : State} (n st : Nat) (h_s : s.Canon) : (State.tuneEnd s n st).Canon := by
  unfold State.tuneEnd
  repeat' (first
    | with_reducible assumption
    | intro _
    | (extract_lets -merge +onlyGivenNames t_
       first
       | (refine canon_cut (s := t_) ?_ (fun h_ => ?_) <;> [subst t_; clear_value t_])
       | clear_value t_)
    | (simp only [canon_parts]; with_reducible first | exact parts_of (by assumption) | apply parts_of)
    | with_reducible first | apply canon_put | apply canon_untimer | apply canon_recordErr | apply canon_flag | apply canon_endFor | apply canon_withTx | apply canon_takeHeld | apply canon_ite
    | split
    | dsimp -zeta only)

theorem canon_leakLost {s : State} (p : Nat) (h_s : s.Canon) : (State.leakLost s p).Canon := by
  unfold State.leakLost
  repeat' (first
    | with_reducible assumption
    | intro _
    | with_reducible first | apply canon_putB | apply canon_ite | apply canon_forEach
    | split
    | dsimp -zeta only)

theorem canon_fieldGone {s : State} (n : Nat) (h_s : s.Canon) : (State.fieldGone s n).Canon := by
  unfold State.fieldGone
  repeat' (first
    | with_reducible assumption
    | intro _
    | (extract_lets -merge +onlyGivenNames t_
       first
       | (refine canon_cut (s := t_) ?_ (fun h_ => ?_) <;> [subst t_; clear_value t_])
       | clear_value t_)
    | (simp only [canon_parts]; with_reducible first | exact parts_of (by assumption) | apply parts_of)
    | with_reducible first | apply canon_flag | apply canon_present | apply canon_releaseWing | apply canon_withTx | apply canon_followRails | apply canon_wakeChains | apply canon_ledgerOff | apply canon_setField | apply canon_ite
    | split
    | dsimp -zeta only)

theorem canon_dropArmed {s : State} (n st : Nat) (h_s : s.Canon) : (State.dropArmed s n st).Canon := by
  unfold State.dropArmed
  repeat' (first
    | with_reducible assumption
    | intro _
    | (extract_lets -merge +onlyGivenNames t_
       first
       | (refine canon_cut (s := t_) ?_ (fun h_ => ?_) <;> [subst t_; clear_value t_])
       | clear_value t_)
    | (simp only [canon_parts]; with_reducible first | exact parts_of (by assumption) | apply parts_of)
    | with_reducible first | apply canon_putB | apply canon_unsched | apply canon_endFor | apply canon_withTx | apply canon_followRails | apply canon_wakeChains | apply canon_openSwitch | apply canon_setField | apply canon_tuneEnd | apply canon_ite
    | split
    | dsimp -zeta only)

theorem canon_rampDown {s : State} (n st : Nat) (h_s : s.Canon) : (State.rampDown s n st).Canon := by
  unfold State.rampDown
  repeat' (first
    | with_reducible assumption
    | intro _
    | (extract_lets -merge +onlyGivenNames t_
       first
       | (refine canon_cut (s := t_) ?_ (fun h_ => ?_) <;> [subst t_; clear_value t_])
       | clear_value t_)
    | (simp only [canon_parts]; with_reducible first | exact parts_of (by assumption) | apply parts_of)
    | with_reducible first | apply canon_untimer | apply canon_unsched | apply canon_resched | apply canon_withTx | apply canon_setField | apply canon_ite
    | split
    | dsimp -zeta only)

theorem canon_stageOff {s : State} (n : Nat) (h_s : s.Canon) : (State.stageOff s n).Canon := by
  unfold State.stageOff
  repeat' (first
    | with_reducible assumption
    | intro _
    | (extract_lets -merge +onlyGivenNames t_
       first
       | (refine canon_cut (s := t_) ?_ (fun h_ => ?_) <;> [subst t_; clear_value t_])
       | clear_value t_)
    | (simp only [canon_parts]; with_reducible first | exact parts_of (by assumption) | apply parts_of)
    | with_reducible first | apply canon_sched | apply canon_unsched | apply canon_withTx | apply canon_setField
    | dsimp -zeta only)

theorem canon_wingEnd {s : State} (w st : Nat) (h_s : s.Canon) : (State.wingEnd s w st).Canon := by
  unfold State.wingEnd
  repeat' (first
    | with_reducible assumption
    | (simp only [canon_parts]; with_reducible first | exact parts_of (by assumption) | apply parts_of)
    | dsimp -zeta only)

theorem canon_dropTakeover {s : State} (n st : Nat) (h_s : s.Canon) : (State.dropTakeover s n st).Canon := by
  unfold State.dropTakeover
  repeat' (first
    | with_reducible assumption
    | intro _
    | (extract_lets -merge +onlyGivenNames t_
       first
       | (refine canon_cut (s := t_) ?_ (fun h_ => ?_) <;> [subst t_; clear_value t_])
       | clear_value t_)
    | (simp only [canon_parts]; with_reducible first | exact parts_of (by assumption) | apply parts_of)
    | with_reducible first | apply canon_untimer | apply canon_endFor | apply canon_withTx | apply canon_dropArmed | apply canon_wingEnd | apply canon_ite | apply canon_when
    | split
    | dsimp -zeta only)

theorem canon_killField {s : State} (n st : Nat) (h_s : s.Canon) : (State.killField s n st).Canon := by
  unfold State.killField
  repeat' (first
    | with_reducible assumption
    | intro _
    | (extract_lets -merge +onlyGivenNames t_
       first
       | (refine canon_cut (s := t_) ?_ (fun h_ => ?_) <;> [subst t_; clear_value t_])
       | clear_value t_)
    | (simp only [canon_parts]; with_reducible first | exact parts_of (by assumption) | apply parts_of)
    | with_reducible first | apply canon_endFor | apply canon_withTx | apply canon_dropHeld | apply canon_tuneEnd | apply canon_fieldGone | apply canon_dropArmed | apply canon_stageOff | apply canon_wingEnd | apply canon_dropTakeover | apply canon_ite
    | split
    | dsimp -zeta only)

theorem canon_endField {s : State} (n st : Nat) (h_s : s.Canon) : (State.endField s n st).Canon := by
  unfold State.endField
  repeat' (first
    | with_reducible assumption
    | intro _
    | (extract_lets -merge +onlyGivenNames t_
       first
       | (refine canon_cut (s := t_) ?_ (fun h_ => ?_) <;> [subst t_; clear_value t_])
       | clear_value t_)
    | with_reducible first | apply canon_dropHeld | apply canon_tuneEnd | apply canon_dropArmed | apply canon_rampDown | apply canon_wingEnd | apply canon_dropTakeover | apply canon_ite | apply canon_when
    | split
    | dsimp -zeta only)

theorem canon_armField {s : State} (c w : Nat) (off : Bool) (port : Nat) (h_s : s.Canon) : (State.armField s c w off port).Canon := by
  unfold State.armField
  repeat' (first
    | with_reducible assumption
    | intro _
    | (extract_lets -merge +onlyGivenNames t_
       first
       | (refine canon_cut (s := t_) ?_ (fun h_ => ?_) <;> [subst t_; clear_value t_])
       | clear_value t_)
    | (simp only [canon_parts]; with_reducible first | exact parts_of (by assumption) | apply parts_of)
    | with_reducible first | apply canon_endMove | apply canon_withTx | apply canon_badPort | apply canon_armNow | apply canon_ite
    | split
    | dsimp -zeta only)

theorem canon_fireField {s : State} (n : Nat) (h_s : s.Canon) : (State.fireField s n).Canon := by
  unfold State.fireField
  repeat' (first
    | with_reducible assumption
    | intro _
    | (simp only [canon_parts]; with_reducible first | exact parts_of (by assumption) | apply parts_of)
    | with_reducible first | apply canon_resched | apply canon_withTx
    | dsimp -zeta only)

theorem canon_fireFor {s : State} (c n : Nat) (h_s : s.Canon) : (State.fireFor s c n).Canon := by
  unfold State.fireFor
  repeat' (first
    | with_reducible assumption
    | intro _
    | (simp only [canon_parts]; with_reducible first | exact parts_of (by assumption) | apply parts_of)
    | with_reducible first | apply canon_withTx | apply canon_fireField | apply canon_ite
    | split
    | dsimp -zeta only)

theorem canon_lateMark {s : State} (n : Nat) (h_s : s.Canon) : (State.lateMark s n).Canon := by
  unfold State.lateMark
  repeat' (first
    | with_reducible first | assumption | apply canon_recordErr | apply canon_flag
    | dsimp -zeta only)

theorem canon_fieldLate {s : State} (n : Nat) (h_s : s.Canon) : (State.fieldLate s n).Canon := by
  unfold State.fieldLate
  repeat' (first
    | with_reducible first | assumption | apply canon_dropArmed | apply canon_lateMark
    | dsimp -zeta only)

theorem canon_dropFor {s : State} (c n st : Nat) (h_s : s.Canon) : (State.dropFor s c n st).Canon := by
  unfold State.dropFor
  repeat' (first
    | with_reducible assumption
    | intro _
    | (extract_lets -merge +onlyGivenNames t_
       first
       | (refine canon_cut (s := t_) ?_ (fun h_ => ?_) <;> [subst t_; clear_value t_])
       | clear_value t_)
    | with_reducible first | apply canon_dropHeld | apply canon_dropArmed | apply canon_lateMark | apply canon_ite | apply canon_when
    | split
    | dsimp -zeta only)

theorem canon_rampUp {s : State} (n : Nat) (r : Ramp) (h_s : s.Canon) : (State.rampUp s n r).Canon := by
  unfold State.rampUp
  repeat' (first
    | with_reducible assumption
    | intro _
    | (extract_lets -merge +onlyGivenNames t_
       first
       | (refine canon_cut (s := t_) ?_ (fun h_ => ?_) <;> [subst t_; clear_value t_])
       | clear_value t_)
    | (simp only [canon_parts]; with_reducible first | exact parts_of (by assumption) | apply parts_of)
    | with_reducible first | apply canon_putB | apply canon_sched | apply canon_withTx | apply canon_setField | apply canon_leakLost
    | dsimp -zeta only)

theorem canon_actDone {s : State} (n st : Nat) (h_s : s.Canon) : (State.actDone s n st).Canon := by
  unfold State.actDone
  repeat' (first
    | with_reducible assumption
    | intro _
    | (extract_lets -merge +onlyGivenNames t_
       first
       | (refine canon_cut (s := t_) ?_ (fun h_ => ?_) <;> [subst t_; clear_value t_])
       | clear_value t_)
    | (simp only [canon_parts]; with_reducible first | exact parts_of (by assumption) | apply parts_of)
    | with_reducible first | apply canon_endFor | apply canon_withTx
    | dsimp -zeta only)

theorem canon_captureRamp {s : State} (n : Nat) (h_s : s.Canon) : (State.captureRamp s n).Canon := by
  unfold State.captureRamp
  repeat' (first
    | with_reducible assumption
    | intro _
    | (extract_lets -merge +onlyGivenNames t_
       first
       | (refine canon_cut (s := t_) ?_ (fun h_ => ?_) <;> [subst t_; clear_value t_])
       | clear_value t_)
    | (simp only [canon_parts]; with_reducible first | exact parts_of (by assumption) | apply parts_of)
    | with_reducible first | apply canon_recordErr | apply canon_withTx | apply canon_dropArmed | apply canon_ite
    | split
    | dsimp -zeta only)

theorem canon_beginWait {s : State} (n : Nat) (h_s : s.Canon) : (State.beginWait s n).Canon := by
  unfold State.beginWait
  repeat' (first
    | with_reducible assumption
    | (extract_lets -merge +onlyGivenNames t_
       first
       | (refine canon_cut (s := t_) ?_ (fun h_ => ?_) <;> [subst t_; clear_value t_])
       | clear_value t_)
    | (simp only [canon_parts]; with_reducible first | exact parts_of (by assumption) | apply parts_of)
    | with_reducible first | apply canon_putB | apply canon_armLimit | apply canon_dropArmed | apply canon_ite
    | split
    | dsimp -zeta only)

theorem canon_beginField {s : State} (n : Nat) (h_s : s.Canon) : (State.beginField s n).Canon := by
  unfold State.beginField
  repeat' (first
    | with_reducible assumption
    | intro _
    | (extract_lets -merge +onlyGivenNames t_
       first
       | (refine canon_cut (s := t_) ?_ (fun h_ => ?_) <;> [subst t_; clear_value t_])
       | clear_value t_)
    | (simp only [canon_parts]; with_reducible first | exact parts_of (by assumption) | apply parts_of)
    | with_reducible first | apply canon_unsched | apply canon_resched | apply canon_withTx | apply canon_setField | apply canon_dropArmed | apply canon_rampUp | apply canon_ite
    | split
    | dsimp -zeta only)

theorem canon_launchOn {s : State} (n : Nat) (h_s : s.Canon) : (State.launchOn s n).Canon := by
  unfold State.launchOn
  repeat' (first
    | with_reducible assumption
    | (extract_lets -merge +onlyGivenNames t_
       first
       | (refine canon_cut (s := t_) ?_ (fun h_ => ?_) <;> [subst t_; clear_value t_])
       | clear_value t_)
    | with_reducible first | apply canon_badPort | apply canon_dropArmed | apply canon_fieldLate | apply canon_actDone | apply canon_captureRamp | apply canon_beginWait | apply canon_beginField | apply canon_ite
    | split
    | dsimp -zeta only)

theorem canon_moveAct {s : State} (a b : Nat) (h_s : s.Canon) : (State.moveAct s a b).Canon := by
  unfold State.moveAct
  repeat' (first
    | with_reducible assumption
    | intro _
    | (extract_lets -merge +onlyGivenNames t_
       first
       | (refine canon_cut (s := t_) ?_ (fun h_ => ?_) <;> [subst t_; clear_value t_])
       | clear_value t_)
    | (simp only [canon_parts]; with_reducible first | exact parts_of (by assumption) | apply parts_of)
    | with_reducible first | apply canon_putB | apply canon_unsched | apply canon_withTx | apply canon_openSwitch | apply canon_setField | apply canon_ite
    | split
    | dsimp -zeta only)

theorem canon_tookOver {s : State} (h_s : s.Canon) : (State.tookOver s).Canon := by
  unfold State.tookOver
  repeat' (first
    | with_reducible assumption
    | intro _
    | (simp only [canon_parts]; with_reducible first | exact parts_of (by assumption) | apply parts_of)
    | with_reducible first | apply canon_recordErr | apply canon_flag | apply canon_present | apply canon_withTx | apply canon_followRails
    | dsimp -zeta only)

theorem canon_takeoverStep {s : State} (h_s : s.Canon) : (State.takeoverStep s).Canon := by
  unfold State.takeoverStep
  repeat' (first
    | with_reducible assumption
    | intro _
    | (extract_lets -merge +onlyGivenNames t_
       first
       | (refine canon_cut (s := t_) ?_ (fun h_ => ?_) <;> [subst t_; clear_value t_])
       | clear_value t_)
    | (simp only [canon_parts]; with_reducible first | exact parts_of (by assumption) | apply parts_of)
    | with_reducible first | apply canon_put | apply canon_putB | apply canon_timer | apply canon_withTx | apply canon_retapWing | apply canon_setField | apply canon_armNow | apply canon_dropTakeover | apply canon_rampUp | apply canon_tookOver | apply canon_ite
    | split
    | dsimp -zeta only)

theorem canon_driveOn {s : State} (n : Nat) (h_s : s.Canon) : (State.driveOn s n).Canon := by
  unfold State.driveOn
  repeat' (first
    | with_reducible assumption
    | intro _
    | (extract_lets -merge +onlyGivenNames t_
       first
       | (refine canon_cut (s := t_) ?_ (fun h_ => ?_) <;> [subst t_; clear_value t_])
       | clear_value t_)
    | (simp only [canon_parts]; with_reducible first | exact parts_of (by assumption) | apply parts_of)
    | with_reducible first | apply canon_resched | apply canon_withTx | apply canon_dropArmed | apply canon_rampUp | apply canon_ite
    | split
    | dsimp -zeta only)

theorem canon_effFieldLaunch (n : Nat) {s : State} (h_s : s.Canon) : (effFieldLaunch n s).Canon := by
  unfold effFieldLaunch
  repeat' (first
    | with_reducible assumption
    | intro _
    | (extract_lets -merge +onlyGivenNames t_
       first
       | (refine canon_cut (s := t_) ?_ (fun h_ => ?_) <;> [subst t_; clear_value t_])
       | clear_value t_)
    | (simp only [canon_parts]; with_reducible first | exact parts_of (by assumption) | apply parts_of)
    | with_reducible first | apply canon_withTx | apply canon_rampDown | apply canon_rampUp | apply canon_actDone | apply canon_launchOn | apply canon_driveOn | apply canon_ite
    | split
    | dsimp -zeta only)

theorem canon_checkNeighbour {s : State} (n p m q : Nat) (h_s : s.Canon) : (State.checkNeighbour s n p m q).Canon := by
  unfold State.checkNeighbour
  repeat' (first
    | with_reducible assumption
    | intro _
    | (extract_lets -merge +onlyGivenNames t_
       first
       | (refine canon_cut (s := t_) ?_ (fun h_ => ?_) <;> [subst t_; clear_value t_])
       | (refine canon_cutF (f := t_) ?_ (fun h_ => ?_) <;> [subst t_; clear_value t_])
       | (refine canon_cutG (f := t_) ?_ (fun h_ => ?_) <;> [subst t_; clear_value t_])
       | clear_value t_)
    | with_reducible first | refine canonF_use (by assumption) ?_ | refine canonG_use (by assumption) ?_ | apply canon_recordErr | apply canon_recordBoth | apply canon_flag | apply canon_when
    | dsimp -zeta only)

theorem canon_legacyBeside {s : State} (n : Nat) (h_s : s.Canon) : (State.legacyBeside s n).Canon := by
  unfold State.legacyBeside
  repeat' (first
    | with_reducible first | assumption | apply canon_recordErr | apply canon_flag | apply canon_ite
    | split
    | dsimp -zeta only)

theorem canon_askConflict {s : State} (n m : Nat) (h_s : s.Canon) : (State.askConflict s n m).Canon := by
  unfold State.askConflict
  repeat' (first
    | with_reducible assumption
    | (extract_lets -merge +onlyGivenNames t_
       first
       | (refine canon_cut (s := t_) ?_ (fun h_ => ?_) <;> [subst t_; clear_value t_])
       | clear_value t_)
    | with_reducible first | apply canon_recordBoth | apply canon_flag
    | dsimp -zeta only)

theorem canon_powerLimit {s : State} (n : Nat) (h_s : s.Canon) : (State.powerLimit s n).Canon := by
  unfold State.powerLimit
  repeat' (first
    | with_reducible assumption
    | intro _
    | (simp only [canon_parts]; with_reducible first | exact parts_of (by assumption) | apply parts_of)
    | with_reducible first | apply canon_recordErr | apply canon_flag | apply canon_withTx | apply canon_ite
    | split
    | dsimp -zeta only)

theorem canon_levelStep {s : State} (n : Nat) (h_s : s.Canon) : (State.levelStep s n).Canon := by
  unfold State.levelStep
  repeat' (first
    | with_reducible assumption
    | intro _
    | (extract_lets -merge +onlyGivenNames t_
       first
       | (refine canon_cut (s := t_) ?_ (fun h_ => ?_) <;> [subst t_; clear_value t_])
       | clear_value t_)
    | (simp only [canon_parts]; with_reducible first | exact parts_of (by assumption) | apply parts_of)
    | with_reducible first | apply canon_withTx | apply canon_powerLimit | apply canon_ite
    | split
    | dsimp -zeta only)

theorem canon_tookUp {s : State} (h_s : s.Canon) : (State.tookUp s).Canon := by
  unfold State.tookUp
  repeat' (first
    | with_reducible assumption
    | (extract_lets -merge +onlyGivenNames t_
       first
       | (refine canon_cut (s := t_) ?_ (fun h_ => ?_) <;> [subst t_; clear_value t_])
       | clear_value t_)
    | with_reducible first | apply canon_resched | apply canon_setField | apply canon_armNow | apply canon_wingEnd | apply canon_actDone | apply canon_tookOver | apply canon_ite
    | split
    | dsimp -zeta only)

theorem canon_scanBegin {s : State} (n : Nat) (h_s : s.Canon) : (State.scanBegin s n).Canon := by
  unfold State.scanBegin
  repeat' (first
    | with_reducible assumption
    | intro _
    | (extract_lets -merge +onlyGivenNames t_
       first
       | (refine canon_cut (s := t_) ?_ (fun h_ => ?_) <;> [subst t_; clear_value t_])
       | clear_value t_)
    | (simp only [canon_parts]; with_reducible first | exact parts_of (by assumption) | apply parts_of)
    | with_reducible first | apply canon_put | apply canon_timer | apply canon_withTx | apply canon_setField
    | dsimp -zeta only)

theorem canon_effPlateau (n : Nat) {s : State} (h_s : s.Canon) : (effPlateau n s).Canon := by
  unfold effPlateau
  repeat' (first
    | with_reducible assumption
    | intro _
    | (extract_lets -merge +onlyGivenNames t_
       first
       | (refine canon_cut (s := t_) ?_ (fun h_ => ?_) <;> [subst t_; clear_value t_])
       | (refine canon_cut (s := t_.2) ?_ (fun h_ => ?_) <;> [subst t_; clear_value t_])
       | clear_value t_)
    | with_reducible first | apply canon_sched | apply canon_timer | apply canon_retimer | apply canon_setField | apply canon_checkNeighbour | apply canon_powerLimit | apply canon_tookUp | apply canon_scanBegin | apply canon_ite | apply canon_when | apply canon_forEach
    | split
    | dsimp -zeta only)

theorem canon_effSettleEnd (n : Nat) {s : State} (h_s : s.Canon) : (effSettleEnd n s).Canon := by
  unfold effSettleEnd
  repeat' (first
    | with_reducible assumption
    | (extract_lets -merge +onlyGivenNames t_
       first
       | (refine canon_cut (s := t_) ?_ (fun h_ => ?_) <;> [subst t_; clear_value t_])
       | clear_value t_)
    | with_reducible first | apply canon_flag | apply canon_present | apply canon_setField | apply canon_actDone | apply canon_ite
    | split
    | dsimp -zeta only)

theorem canon_releaseTx8 {s : State} (h_s : s.Canon) : (State.releaseTx8 s).Canon := by
  unfold State.releaseTx8
  repeat' (first
    | with_reducible assumption
    | intro _
    | (extract_lets -merge +onlyGivenNames t_
       first
       | (refine canon_cut (s := t_) ?_ (fun h_ => ?_) <;> [subst t_; clear_value t_])
       | clear_value t_)
    | (simp only [canon_parts]; with_reducible first | exact parts_of (by assumption) | apply parts_of)
    | with_reducible first | apply canon_put | apply canon_putB | apply canon_withTx | apply canon_retapWing | apply canon_armNow | apply canon_moveAct | apply canon_ite
    | split
    | dsimp -zeta only)

theorem canon_effRampDownEnd (n : Nat) {s : State} (h_s : s.Canon) : (effRampDownEnd n s).Canon := by
  unfold effRampDownEnd
  repeat' (first
    | with_reducible assumption
    | intro _
    | (extract_lets -merge +onlyGivenNames t_
       first
       | (refine canon_cut (s := t_) ?_ (fun h_ => ?_) <;> [subst t_; clear_value t_])
       | clear_value t_)
    | (simp only [canon_parts]; with_reducible first | exact parts_of (by assumption) | apply parts_of)
    | with_reducible first | apply canon_sched | apply canon_withTx | apply canon_setSwitch | apply canon_openSwitch | apply canon_setField | apply canon_armNow | apply canon_tuneEnd | apply canon_fieldGone | apply canon_actDone | apply canon_ite | apply canon_when
    | split
    | dsimp -zeta only)

theorem canon_startTune {s : State} (n port pg rp : Nat) (c : Option Nat) (h_s : s.Canon) : (State.startTune s n port pg rp c).Canon := by
  unfold State.startTune
  repeat' (first
    | with_reducible assumption
    | intro _
    | (extract_lets -merge +onlyGivenNames t_
       first
       | (refine canon_cut (s := t_) ?_ (fun h_ => ?_) <;> [subst t_; clear_value t_])
       | (refine canon_cutF (f := t_) ?_ (fun h_ => ?_) <;> [subst t_; clear_value t_])
       | (refine canon_cutG (f := t_) ?_ (fun h_ => ?_) <;> [subst t_; clear_value t_])
       | clear_value t_)
    | (simp only [canon_parts]; with_reducible first | exact parts_of (by assumption) | apply parts_of)
    | with_reducible first | refine canonF_use (by assumption) ?_ | refine canonG_use (by assumption) ?_ | apply canon_put | apply canon_recordErr | apply canon_flag | apply canon_endFor | apply canon_withTx | apply canon_followRails | apply canon_badPort | apply canon_setSwitch | apply canon_setField | apply canon_tuneEnd | apply canon_ite
    | split
    | dsimp -zeta only)

theorem canon_effAtuneStart (n : Nat) {s : State} (h_s : s.Canon) : (effAtuneStart n s).Canon := by
  unfold effAtuneStart
  repeat' (first
    | with_reducible assumption
    | (extract_lets -merge +onlyGivenNames t_
       first
       | (refine canon_cut (s := t_) ?_ (fun h_ => ?_) <;> [subst t_; clear_value t_])
       | clear_value t_)
    | with_reducible first | apply canon_fireField | apply canon_startTune | apply canon_ite
    | split
    | dsimp -zeta only)

theorem canon_scanStep {s : State} (n : Nat) (h_s : s.Canon) : (State.scanStep s n).Canon := by
  unfold State.scanStep
  repeat' (first
    | with_reducible assumption
    | intro _
    | (extract_lets -merge +onlyGivenNames t_
       first
       | (refine canon_cut (s := t_) ?_ (fun h_ => ?_) <;> [subst t_; clear_value t_])
       | clear_value t_)
    | (simp only [canon_parts]; with_reducible first | exact parts_of (by assumption) | apply parts_of)
    | with_reducible first | apply canon_timer | apply canon_resched | apply canon_withTx | apply canon_setField | apply canon_ite
    | split
    | dsimp -zeta only)

theorem canon_tuneOff {s : State} (n : Nat) (h_s : s.Canon) : (State.tuneOff s n).Canon := by
  unfold State.tuneOff
  repeat' (first
    | with_reducible assumption
    | intro _
    | (extract_lets -merge +onlyGivenNames t_
       first
       | (refine canon_cut (s := t_) ?_ (fun h_ => ?_) <;> [subst t_; clear_value t_])
       | clear_value t_)
    | (simp only [canon_parts]; with_reducible first | exact parts_of (by assumption) | apply parts_of)
    | with_reducible first | apply canon_sched | apply canon_unsched | apply canon_withTx | apply canon_fieldGone | apply canon_ite
    | split
    | dsimp -zeta only)

theorem canon_effAtuneComplete (n : Nat) (gammas : List Nat) {s : State} (h_s : s.Canon) : (effAtuneComplete n gammas s).Canon := by
  unfold effAtuneComplete
  repeat' (first
    | with_reducible assumption
    | intro _
    | (extract_lets -merge +onlyGivenNames t_
       first
       | (refine canon_cut (s := t_) ?_ (fun h_ => ?_) <;> [subst t_; clear_value t_])
       | (refine canon_cut (s := t_.2) ?_ (fun h_ => ?_) <;> [subst t_; clear_value t_])
       | clear_value t_)
    | with_reducible first | apply canon_put | apply canon_writeFields | apply canon_recordErr | apply canon_flag | apply canon_kbzLearn | apply canon_tuneEnd | apply canon_tuneOff | apply canon_ite
    | split
    | dsimp -zeta only)

theorem canon_tuneOverride {s : State} (p : Nat) (h_s : s.Canon) : (State.tuneOverride s p).Canon := by
  unfold State.tuneOverride
  repeat' (first
    | with_reducible assumption
    | intro _
    | with_reducible first | apply canon_tuneEnd | apply canon_dropArmed | apply canon_rampDown | apply canon_ite | apply canon_forEach
    | split
    | dsimp -zeta only)

theorem canon_stopTune8 {s : State} (h_s : s.Canon) : (State.stopTune8 s).Canon := by
  unfold State.stopTune8
  repeat' (first
    | with_reducible assumption
    | intro _
    | (extract_lets -merge +onlyGivenNames t_
       first
       | (refine canon_cut (s := t_) ?_ (fun h_ => ?_) <;> [subst t_; clear_value t_])
       | clear_value t_)
    | with_reducible first | apply canon_recordErr | apply canon_tuneEnd | apply canon_fieldGone | apply canon_dropArmed | apply canon_stageOff | apply canon_ite | apply canon_when
    | split
    | dsimp -zeta only)

theorem canon_endFailed {s : State} (w : Nat) (h_s : s.Canon) : (State.endFailed s w).Canon := by
  unfold State.endFailed
  repeat' (first
    | with_reducible assumption
    | (extract_lets -merge +onlyGivenNames t_
       first
       | (refine canon_cut (s := t_) ?_ (fun h_ => ?_) <;> [subst t_; clear_value t_])
       | clear_value t_)
    | with_reducible first | apply canon_tuneEnd | apply canon_fieldGone | apply canon_dropArmed | apply canon_stageOff | apply canon_actDone | apply canon_ite
    | split
    | dsimp -zeta only)

theorem canon_carryOn {s : State} (w : Nat) (h_s : s.Canon) : (State.carryOn s w).Canon := by
  unfold State.carryOn
  repeat' (first
    | with_reducible assumption
    | intro _
    | (extract_lets -merge +onlyGivenNames t_
       first
       | (refine canon_cut (s := t_) ?_ (fun h_ => ?_) <;> [subst t_; clear_value t_])
       | clear_value t_)
    | (simp only [canon_parts]; with_reducible first | exact parts_of (by assumption) | apply parts_of)
    | with_reducible first | apply canon_withTx | apply canon_stageOff | apply canon_ite
    | split
    | dsimp -zeta only)

theorem canon_takeOver {s : State} (w : Nat) (h_s : s.Canon) : (State.takeOver s w).Canon := by
  unfold State.takeOver
  repeat' (first
    | with_reducible assumption
    | intro _
    | (extract_lets -merge +onlyGivenNames t_
       first
       | (refine canon_cut (s := t_) ?_ (fun h_ => ?_) <;> [subst t_; clear_value t_])
       | clear_value t_)
    | (simp only [canon_parts]; with_reducible first | exact parts_of (by assumption) | apply parts_of)
    | with_reducible first | apply canon_putB | apply canon_timer | apply canon_unsched | apply canon_withTx | apply canon_moveAct | apply canon_stopTune8 | apply canon_endFailed | apply canon_carryOn | apply canon_ite
    | split
    | dsimp -zeta only)

theorem canon_chainFault {s : State} (n bit code : Nat) (h_s : s.Canon) : (State.chainFault s n bit code).Canon := by
  unfold State.chainFault
  repeat' (first
    | with_reducible assumption
    | (extract_lets -merge +onlyGivenNames t_
       first
       | (refine canon_cut (s := t_) ?_ (fun h_ => ?_) <;> [subst t_; clear_value t_])
       | clear_value t_)
    | with_reducible first | apply canon_setFault | apply canon_killField | apply canon_takeOver | apply canon_ite
    | split
    | dsimp -zeta only)

theorem canon_effPaOvercurrent (n : Nat) {s : State} (h_s : s.Canon) : (effPaOvercurrent n s).Canon := by
  unfold effPaOvercurrent
  repeat' (first
    | with_reducible first | assumption | apply canon_chainFault | apply canon_ite
    | split
    | dsimp -zeta only)

theorem canon_effTxcControlMismatch (n : Nat) {s : State} (h_s : s.Canon) : (effTxcControlMismatch n s).Canon := by
  unfold effTxcControlMismatch
  repeat' (first
    | with_reducible first | assumption | apply canon_chainFault | apply canon_ite
    | split
    | dsimp -zeta only)

theorem canon_reflect {s : State} (n : Nat) (h_s : s.Canon) : (State.reflect s n).Canon := by
  unfold State.reflect
  repeat' (first
    | with_reducible assumption
    | (extract_lets -merge +onlyGivenNames t_
       first
       | (refine canon_cut (s := t_) ?_ (fun h_ => ?_) <;> [subst t_; clear_value t_])
       | clear_value t_)
    | with_reducible first | apply canon_recordErr | apply canon_flag | apply canon_setFault | apply canon_endField | apply canon_ite
    | split
    | dsimp -zeta only)

theorem canon_effMonitorMean (n fwd refl sq : Nat) {s : State} (h_s : s.Canon) : (effMonitorMean n fwd refl sq s).Canon := by
  unfold effMonitorMean
  repeat' (first
    | with_reducible assumption
    | intro _
    | (extract_lets -merge +onlyGivenNames t_
       first
       | (refine canon_cut (s := t_) ?_ (fun h_ => ?_) <;> [subst t_; clear_value t_])
       | clear_value t_)
    | (simp only [canon_parts]; with_reducible first | exact parts_of (by assumption) | apply parts_of)
    | with_reducible first | apply canon_put | apply canon_withTx | apply canon_chainFault | apply canon_reflect | apply canon_ite | apply canon_when
    | split
    | dsimp -zeta only)

theorem canon_effSwitchReadbackFault (port : Nat) {s : State} (h_s : s.Canon) : (effSwitchReadbackFault port s).Canon := by
  unfold effSwitchReadbackFault
  repeat' (first
    | with_reducible assumption
    | (extract_lets -merge +onlyGivenNames t_
       first
       | (refine canon_cut (s := t_) ?_ (fun h_ => ?_) <;> [subst t_; clear_value t_])
       | clear_value t_)
    | (simp only [canon_parts]; with_reducible first | exact parts_of (by assumption) | apply parts_of)
    | with_reducible first | apply canon_setFault | apply canon_endField | apply canon_ite
    | split
    | dsimp -zeta only)

theorem canon_effTxc8Assign (v : Nat) {s : State} (h_s : s.Canon) : (effTxc8Assign v s).Canon := by
  unfold effTxc8Assign
  repeat' (first
    | with_reducible assumption
    | intro _
    | (extract_lets -merge +onlyGivenNames t_
       first
       | (refine canon_cut (s := t_) ?_ (fun h_ => ?_) <;> [subst t_; clear_value t_])
       | clear_value t_)
    | (simp only [canon_parts]; with_reducible first | exact parts_of (by assumption) | apply parts_of)
    | with_reducible first | apply canon_put | apply canon_putB | apply canon_recordErr | apply canon_withTx | apply canon_armNow | apply canon_tuneEnd | apply canon_dropArmed | apply canon_rampDown | apply canon_endField | apply canon_moveAct | apply canon_ite | apply canon_when
    | split
    | dsimp -zeta only)

theorem canon_effTxc8Release {s : State} (h_s : s.Canon) : (effTxc8Release s).Canon := by
  unfold effTxc8Release
  repeat' (first
    | with_reducible assumption
    | intro _
    | (simp only [canon_parts]; with_reducible first | exact parts_of (by assumption) | apply parts_of)
    | with_reducible first | apply canon_withTx | apply canon_releaseTx8 | apply canon_ite
    | split
    | dsimp -zeta only)

theorem canon_abortField {s : State} (n : Nat) (h_s : s.Canon) : (State.abortField s n).Canon := by
  unfold State.abortField
  repeat' (first
    | with_reducible assumption
    | intro _
    | (extract_lets -merge +onlyGivenNames t_
       first
       | (refine canon_cut (s := t_) ?_ (fun h_ => ?_) <;> [subst t_; clear_value t_])
       | clear_value t_)
    | (simp only [canon_parts]; with_reducible first | exact parts_of (by assumption) | apply parts_of)
    | with_reducible first | apply canon_withTx | apply canon_dropArmed | apply canon_rampDown | apply canon_ite
    | split
    | dsimp -zeta only)

theorem canon_disableChain {s : State} (n : Nat) (h_s : s.Canon) : (State.disableChain s n).Canon := by
  unfold State.disableChain
  repeat' (first
    | with_reducible first | assumption | apply canon_endField
    | dsimp -zeta only)

theorem canon_dropPorts {s : State} (gone : Nat → Bool) (h_s : s.Canon) : (State.dropPorts s gone).Canon := by
  unfold State.dropPorts
  repeat' (first
    | with_reducible assumption
    | intro _
    | (extract_lets -merge +onlyGivenNames t_
       first
       | (refine canon_cut (s := t_) ?_ (fun h_ => ?_) <;> [subst t_; clear_value t_])
       | clear_value t_)
    | with_reducible first | apply canon_retapAll | apply canon_endField | apply canon_ite | apply canon_forEach
    | split
    | dsimp -zeta only)

theorem canon_disableFile {s : State} (f : Nat) (h_s : s.Canon) : (State.disableFile s f).Canon := by
  unfold State.disableFile
  repeat' (first
    | with_reducible assumption
    | intro _
    | with_reducible apply canon_dropPorts
    | dsimp -zeta only)

theorem canon_allDown {s : State} (st : Nat) (h_s : s.Canon) : (State.allDown s st).Canon := by
  unfold State.allDown
  repeat' (first
    | with_reducible assumption
    | intro _
    | with_reducible first | apply canon_endField | apply canon_forEach
    | dsimp -zeta only)

theorem canon_litDown {s : State} (st : Nat) (h_s : s.Canon) : (State.litDown s st).Canon := by
  unfold State.litDown
  repeat' (first
    | with_reducible assumption
    | intro _
    | with_reducible first | apply canon_endField | apply canon_ite | apply canon_forEach
    | split
    | dsimp -zeta only)

theorem canon_allStop {s : State} (st : Nat) (h_s : s.Canon) : (State.allStop s st).Canon := by
  unfold State.allStop
  repeat' (first
    | with_reducible assumption
    | intro _
    | with_reducible first | apply canon_killField | apply canon_forEach
    | dsimp -zeta only)

theorem canon_powerWritten {s : State} (n : Nat) (h_s : s.Canon) : (State.powerWritten s n).Canon := by
  unfold State.powerWritten
  repeat' (first
    | with_reducible assumption
    | intro _
    | with_reducible first | apply canon_timer | apply canon_followRails | apply canon_levelStep | apply canon_when
    | dsimp -zeta only)

end Sys2Proof.Machine
end

