-- ==== Sys2Proof/Laws/CanonAir.lean ====
section
/-! SUPPORT. The functions of Machine/Air.lean keep the canonical form. -/

namespace Sys2Proof.Machine

open Sys2Proof

set_option linter.all false

theorem canon_withEng {s : State} (w : Nat) (f : Eng → Eng) (h : s.Canon) : (State.withEng s w f).Canon :=
  ⟨h.regs, h.sram, h.parity, h.ctxs, h.txc, h.rxc, by simp [State.withEng, h.engs], h.wings⟩

theorem canon_askCheck {s : State} (n : Nat) (h_s : s.Canon) : (State.askCheck s n).Canon := by
  unfold State.askCheck
  repeat' (first
    | with_reducible assumption
    | intro _
    | (extract_lets -merge +onlyGivenNames t_
       first
       | (refine canon_cut (s := t_) ?_ (fun h_ => ?_) <;> [subst t_; clear_value t_])
       | clear_value t_)
    | (simp only [canon_parts]; with_reducible first | exact parts_of (by assumption) | apply parts_of)
    | with_reducible first | apply canon_retimer | apply canon_forEach
    | split
    | dsimp -zeta only)

theorem canon_askDiff {s : State} (n m : Nat) (h_s : s.Canon) : (State.askDiff s n m).Canon := by
  unfold State.askDiff
  repeat' (first
    | with_reducible assumption
    | intro _
    | with_reducible first | apply canon_askConflict | apply canon_ite
    | split
    | dsimp -zeta only)

theorem canon_modBegin {s : State} (n d : Nat) (legacy : Bool) (h_s : s.Canon) : (State.modBegin s n d legacy).Canon := by
  unfold State.modBegin
  repeat' (first
    | with_reducible assumption
    | intro _
    | (extract_lets -merge +onlyGivenNames t_
       first
       | (refine canon_cut (s := t_) ?_ (fun h_ => ?_) <;> [subst t_; clear_value t_])
       | clear_value t_)
    | (simp only [canon_parts]; with_reducible first | exact parts_of (by assumption) | apply parts_of)
    | with_reducible first | apply canon_putB | apply canon_retimer | apply canon_withTx | apply canon_legacyBeside | apply canon_askCheck | apply canon_when
    | dsimp -zeta only)

theorem canon_modEnd {s : State} (n : Nat) (h_s : s.Canon) : (State.modEnd s n).Canon := by
  unfold State.modEnd
  repeat' (first
    | with_reducible assumption
    | intro _
    | (extract_lets -merge +onlyGivenNames t_
       first
       | (refine canon_cut (s := t_) ?_ (fun h_ => ?_) <;> [subst t_; clear_value t_])
       | clear_value t_)
    | (simp only [canon_parts]; with_reducible first | exact parts_of (by assumption) | apply parts_of)
    | with_reducible first | apply canon_putB | apply canon_withTx | apply canon_withRx | apply canon_levelStep | apply canon_forEach
    | dsimp -zeta only)

end Sys2Proof.Machine
end

