-- ==== Sys2Proof/Laws/CanonAngle.lean ====
section
/-! SUPPORT. The functions of Machine/Angle.lean keep the canonical form. -/

namespace Sys2Proof.Machine

open Sys2Proof

set_option linter.all false

theorem canon_withAng {s : State} (f : Ang → Ang) (h_s : s.Canon) : (State.withAng s f).Canon := by
  unfold State.withAng
  repeat' (first
    | with_reducible assumption
    | (simp only [canon_parts]; with_reducible first | exact parts_of (by assumption) | apply parts_of)
    | dsimp -zeta only)

theorem canon_setAcc {s : State} (a : Nat) (h_s : s.Canon) : (State.setAcc s a).Canon := by
  unfold State.setAcc
  repeat' (first
    | with_reducible assumption
    | intro _
    | (simp only [canon_parts]; with_reducible first | exact parts_of (by assumption) | apply parts_of)
    | with_reducible apply canon_withAng
    | dsimp -zeta only)

theorem canon_armWindow {s : State} (h_s : s.Canon) : (State.armWindow s).Canon := by
  unfold State.armWindow
  repeat' (first
    | with_reducible assumption
    | (extract_lets -merge +onlyGivenNames t_
       first
       | (refine canon_cut (s := t_) ?_ (fun h_ => ?_) <;> [subst t_; clear_value t_])
       | clear_value t_)
    | (simp only [canon_parts]; with_reducible first | exact parts_of (by assumption) | apply parts_of)
    | with_reducible first | apply canon_unsched | apply canon_fire | apply canon_disarm | apply canon_ite
    | split
    | dsimp -zeta only)

theorem canon_takeBoundaryCfg {s : State} (h_s : s.Canon) : (State.takeBoundaryCfg s).Canon := by
  unfold State.takeBoundaryCfg
  repeat' (first
    | with_reducible assumption
    | intro _
    | (extract_lets -merge +onlyGivenNames t_
       first
       | (refine canon_cut (s := t_) ?_ (fun h_ => ?_) <;> [subst t_; clear_value t_])
       | clear_value t_)
    | (simp only [canon_parts]; with_reducible first | exact parts_of (by assumption) | apply parts_of)
    | with_reducible apply canon_withAng
    | dsimp -zeta only)

theorem canon_alarmConfig {s : State} (n : Nat) (h_s : s.Canon) : (State.alarmConfig s n).Canon := by
  unfold State.alarmConfig
  repeat' (first
    | with_reducible assumption
    | (extract_lets -merge +onlyGivenNames t_
       first
       | (refine canon_cut (s := t_) ?_ (fun h_ => ?_) <;> [subst t_; clear_value t_])
       | clear_value t_)
    | with_reducible first | apply canon_disarm | apply canon_unfire | apply canon_armNext | apply canon_armPeriodic | apply canon_ite
    | split
    | dsimp -zeta only)

theorem canon_syncOutConfig {s : State} (h_s : s.Canon) : (State.syncOutConfig s).Canon := by
  unfold State.syncOutConfig
  repeat' (first
    | with_reducible assumption
    | intro _
    | (extract_lets -merge +onlyGivenNames t_
       first
       | (refine canon_cut (s := t_) ?_ (fun h_ => ?_) <;> [subst t_; clear_value t_])
       | clear_value t_)
    | (simp only [canon_parts]; with_reducible first | exact parts_of (by assumption) | apply parts_of)
    | with_reducible first | apply canon_unsched | apply canon_disarm | apply canon_armPeriodic | apply canon_withAng | apply canon_ite
    | split
    | dsimp -zeta only)

theorem canon_applyConfig {s : State} (h_s : s.Canon) : (State.applyConfig s).Canon := by
  unfold State.applyConfig
  repeat' (first
    | with_reducible assumption
    | (extract_lets -merge +onlyGivenNames t_
       first
       | (refine canon_cut (s := t_) ?_ (fun h_ => ?_) <;> [subst t_; clear_value t_])
       | clear_value t_)
    | with_reducible first | apply canon_disarm | apply canon_armPeriodic | apply canon_ite
    | split
    | dsimp -zeta only)

theorem canon_lockAngle {s : State} (h_s : s.Canon) : (State.lockAngle s).Canon := by
  unfold State.lockAngle
  repeat' (first
    | with_reducible assumption
    | (extract_lets -merge +onlyGivenNames t_
       first
       | (refine canon_cut (s := t_) ?_ (fun h_ => ?_) <;> [subst t_; clear_value t_])
       | clear_value t_)
    | with_reducible first | apply canon_putB | apply canon_flag | apply canon_present
    | dsimp -zeta only)

theorem canon_startAngle {s : State} (acc rate : Nat) (h_s : s.Canon) : (State.startAngle s acc rate).Canon := by
  unfold State.startAngle
  repeat' (first
    | with_reducible assumption
    | intro _
    | (extract_lets -merge +onlyGivenNames t_
       first
       | (refine canon_cut (s := t_) ?_ (fun h_ => ?_) <;> [subst t_; clear_value t_])
       | clear_value t_)
    | (simp only [canon_parts]; with_reducible first | exact parts_of (by assumption) | apply parts_of)
    | with_reducible first | apply canon_put | apply canon_wakeCmps | apply canon_withAng | apply canon_setAcc
    | dsimp -zeta only)

theorem canon_effAngEnable {s : State} (h_s : s.Canon) : (effAngEnable s).Canon := by
  unfold effAngEnable
  repeat' (first
    | with_reducible assumption
    | intro _
    | (extract_lets -merge +onlyGivenNames t_
       first
       | (refine canon_cut (s := t_) ?_ (fun h_ => ?_) <;> [subst t_; clear_value t_])
       | clear_value t_)
    | (simp only [canon_parts]; with_reducible first | exact parts_of (by assumption) | apply parts_of)
    | with_reducible first | apply canon_put | apply canon_putB | apply canon_recordErr | apply canon_withMch | apply canon_withAng | apply canon_setAcc | apply canon_takeBoundaryCfg | apply canon_alarmConfig | apply canon_syncOutConfig | apply canon_applyConfig | apply canon_ite | apply canon_forEach
    | split
    | dsimp -zeta only)

theorem canon_startVirtual {s : State} (h_s : s.Canon) : (State.startVirtual s).Canon := by
  unfold State.startVirtual
  repeat' (first
    | with_reducible first | assumption | apply canon_lockAngle | apply canon_startAngle
    | dsimp -zeta only)

theorem canon_holdRate {s : State} (r : Nat) (h_s : s.Canon) : (State.holdRate s r).Canon := by
  unfold State.holdRate
  repeat' (first
    | with_reducible assumption
    | intro _
    | (extract_lets -merge +onlyGivenNames t_
       first
       | (refine canon_cut (s := t_) ?_ (fun h_ => ?_) <;> [subst t_; clear_value t_])
       | clear_value t_)
    | (simp only [canon_parts]; with_reducible first | exact parts_of (by assumption) | apply parts_of)
    | with_reducible first | apply canon_withAng | apply canon_ite | apply canon_when
    | split
    | dsimp -zeta only)

theorem canon_sendRate {s : State} (h_s : s.Canon) : (State.sendRate s).Canon := by
  unfold State.sendRate
  repeat' (first
    | with_reducible assumption
    | (extract_lets -merge +onlyGivenNames t_
       first
       | (refine canon_cut (s := t_) ?_ (fun h_ => ?_) <;> [subst t_; clear_value t_])
       | clear_value t_)
    | with_reducible apply canon_queueCell
    | dsimp -zeta only)

theorem canon_resendRate {s : State} (h_s : s.Canon) : (State.resendRate s).Canon := by
  unfold State.resendRate
  repeat' (first
    | with_reducible first | assumption | apply canon_sendRate | apply canon_when
    | dsimp -zeta only)

theorem canon_headCells {s : State} (h_s : s.Canon) : (State.headCells s).Canon := by
  unfold State.headCells
  repeat' (first
    | with_reducible assumption
    | (extract_lets -merge +onlyGivenNames t_
       first
       | (refine canon_cut (s := t_) ?_ (fun h_ => ?_) <;> [subst t_; clear_value t_])
       | clear_value t_)
    | with_reducible first | apply canon_queueCell | apply canon_sendRate | apply canon_ite
    | split
    | dsimp -zeta only)

theorem canon_boundaryCommon {s : State} (h_s : s.Canon) : (State.boundaryCommon s).Canon := by
  unfold State.boundaryCommon
  repeat' (first
    | with_reducible assumption
    | intro _
    | (extract_lets -merge +onlyGivenNames t_
       first
       | (refine canon_cut (s := t_) ?_ (fun h_ => ?_) <;> [subst t_; clear_value t_])
       | clear_value t_)
    | with_reducible first | apply canon_inc | apply canon_present | apply canon_armWindow | apply canon_takeBoundaryCfg | apply canon_headCells | apply canon_when
    | dsimp -zeta only)

theorem canon_effCycleBoundary {s : State} (h_s : s.Canon) : (effCycleBoundary s).Canon := by
  unfold effCycleBoundary
  repeat' (first
    | with_reducible assumption
    | intro _
    | (extract_lets -merge +onlyGivenNames t_
       first
       | (refine canon_cut (s := t_) ?_ (fun h_ => ?_) <;> [subst t_; clear_value t_])
       | clear_value t_)
    | (simp only [canon_parts]; with_reducible first | exact parts_of (by assumption) | apply parts_of)
    | with_reducible first | apply canon_put | apply canon_withAng | apply canon_holdRate | apply canon_boundaryCommon | apply canon_ite | apply canon_when
    | split
    | dsimp -zeta only)

theorem canon_effVirtualCycleEnd {s : State} (h_s : s.Canon) : (effVirtualCycleEnd s).Canon := by
  unfold effVirtualCycleEnd
  repeat' (first
    | with_reducible assumption
    | intro _
    | (extract_lets -merge +onlyGivenNames t_
       first
       | (refine canon_cut (s := t_) ?_ (fun h_ => ?_) <;> [subst t_; clear_value t_])
       | clear_value t_)
    | (simp only [canon_parts]; with_reducible first | exact parts_of (by assumption) | apply parts_of)
    | with_reducible first | apply canon_put | apply canon_countDown | apply canon_withAng | apply canon_setAcc | apply canon_holdRate | apply canon_boundaryCommon | apply canon_ite
    | split
    | dsimp -zeta only)

theorem canon_angTicks {s : State} (h_s : s.Canon) : (State.angTicks s).Canon := by
  unfold State.angTicks
  repeat' (first
    | with_reducible assumption
    | intro _
    | (extract_lets -merge +onlyGivenNames t_
       first
       | (refine canon_cut (s := t_) ?_ (fun h_ => ?_) <;> [subst t_; clear_value t_])
       | clear_value t_)
    | (simp only [canon_parts]; with_reducible first | exact parts_of (by assumption) | apply parts_of)
    | with_reducible first | apply canon_nextFree | apply canon_withAng
    | dsimp -zeta only)

theorem canon_angStep {s : State} (k : Nat) (h_s : s.Canon) : (State.angStep s k).Canon := by
  unfold State.angStep
  repeat' (first
    | with_reducible assumption
    | intro _
    | (extract_lets -merge +onlyGivenNames t_
       first
       | (refine canon_cut (s := t_) ?_ (fun h_ => ?_) <;> [subst t_; clear_value t_])
       | clear_value t_)
    | (simp only [canon_parts]; with_reducible first | exact parts_of (by assumption) | apply parts_of)
    | with_reducible first | apply canon_sched | apply canon_countDown | apply canon_withAng | apply canon_setAcc | apply canon_startVirtual | apply canon_ite
    | split
    | dsimp -zeta only)

theorem canon_tickAngle {s : State} (h_s : s.Canon) : (State.tickAngle s).Canon := by
  unfold State.tickAngle
  repeat' (first
    | with_reducible assumption
    | intro _
    | (extract_lets -merge +onlyGivenNames t_
       first
       | (refine canon_cut (s := t_) ?_ (fun h_ => ?_) <;> [subst t_; clear_value t_])
       | clear_value t_)
    | (simp only [canon_parts]; with_reducible first | exact parts_of (by assumption) | apply parts_of)
    | with_reducible first | apply canon_withAng | apply canon_angTicks | apply canon_angStep | apply canon_ite
    | split
    | dsimp -zeta only)

theorem canon_effVperiodWrite (v : Nat) {s : State} (h_s : s.Canon) : (effVperiodWrite v s).Canon := by
  unfold effVperiodWrite
  repeat' (first
    | with_reducible assumption
    | intro _
    | (extract_lets -merge +onlyGivenNames t_
       first
       | (refine canon_cut (s := t_) ?_ (fun h_ => ?_) <;> [subst t_; clear_value t_])
       | clear_value t_)
    | (simp only [canon_parts]; with_reducible first | exact parts_of (by assumption) | apply parts_of)
    | with_reducible first | apply canon_writeFields | apply canon_recordErr | apply canon_withAng | apply canon_resendRate | apply canon_ite
    | split
    | dsimp -zeta only)

theorem canon_nextWindow {s : State} (h_s : s.Canon) : (State.nextWindow s).Canon := by
  unfold State.nextWindow
  repeat' (first
    | with_reducible assumption
    | intro _
    | (simp only [canon_parts]; with_reducible first | exact parts_of (by assumption) | apply parts_of)
    | with_reducible first | apply canon_withAng | apply canon_armWindow
    | dsimp -zeta only)

theorem canon_rejectEdge {s : State} (range : Bool) (code : Nat) (h_s : s.Canon) : (State.rejectEdge s range code).Canon := by
  unfold State.rejectEdge
  repeat' (first
    | with_reducible assumption
    | intro _
    | (extract_lets -merge +onlyGivenNames t_
       first
       | (refine canon_cut (s := t_) ?_ (fun h_ => ?_) <;> [subst t_; clear_value t_])
       | clear_value t_)
    | (simp only [canon_parts]; with_reducible first | exact parts_of (by assumption) | apply parts_of)
    | with_reducible first | apply canon_inc | apply canon_recordErr | apply canon_flag | apply canon_present | apply canon_withAng | apply canon_when
    | dsimp -zeta only)

theorem canon_firstEdge {s : State} (h_s : s.Canon) : (State.firstEdge s).Canon := by
  unfold State.firstEdge
  repeat' (first
    | with_reducible assumption
    | intro _
    | (extract_lets -merge +onlyGivenNames t_
       first
       | (refine canon_cut (s := t_) ?_ (fun h_ => ?_) <;> [subst t_; clear_value t_])
       | clear_value t_)
    | (simp only [canon_parts]; with_reducible first | exact parts_of (by assumption) | apply parts_of)
    | with_reducible first | apply canon_put | apply canon_withAng | apply canon_startAngle | apply canon_nextWindow
    | dsimp -zeta only)

theorem canon_loopUpdate {s : State} (e : Int) (t n cyc : Nat) (h_s : s.Canon) : (State.loopUpdate s e t n cyc).Canon := by
  unfold State.loopUpdate
  repeat' (first
    | with_reducible assumption
    | intro _
    | (extract_lets -merge +onlyGivenNames t_
       first
       | (refine canon_cut (s := t_) ?_ (fun h_ => ?_) <;> [subst t_; clear_value t_])
       | clear_value t_)
    | (simp only [canon_parts]; with_reducible first | exact parts_of (by assumption) | apply parts_of)
    | with_reducible first | apply canon_withAng | apply canon_ite
    | split
    | dsimp -zeta only)

theorem canon_lockTest {s : State} (e : Int) (h_s : s.Canon) : (State.lockTest s e).Canon := by
  unfold State.lockTest
  repeat' (first
    | with_reducible assumption
    | intro _
    | (extract_lets -merge +onlyGivenNames t_
       first
       | (refine canon_cut (s := t_) ?_ (fun h_ => ?_) <;> [subst t_; clear_value t_])
       | clear_value t_)
    | (simp only [canon_parts]; with_reducible first | exact parts_of (by assumption) | apply parts_of)
    | with_reducible first | apply canon_putB | apply canon_withAng | apply canon_lockAngle | apply canon_ite
    | split
    | dsimp -zeta only)

theorem canon_acceptEdge {s : State} (e : Int) (t n cyc : Nat) (h_s : s.Canon) : (State.acceptEdge s e t n cyc).Canon := by
  unfold State.acceptEdge
  repeat' (first
    | with_reducible assumption
    | intro _
    | (extract_lets -merge +onlyGivenNames t_
       first
       | (refine canon_cut (s := t_) ?_ (fun h_ => ?_) <;> [subst t_; clear_value t_])
       | clear_value t_)
    | (simp only [canon_parts]; with_reducible first | exact parts_of (by assumption) | apply parts_of)
    | with_reducible first | apply canon_put | apply canon_putB | apply canon_withAng | apply canon_nextWindow | apply canon_loopUpdate | apply canon_lockTest | apply canon_ite | apply canon_when
    | split
    | dsimp -zeta only)

theorem canon_effSyncInEdge {s : State} (h_s : s.Canon) : (effSyncInEdge s).Canon := by
  unfold effSyncInEdge
  repeat' (first
    | with_reducible assumption
    | (extract_lets -merge +onlyGivenNames t_
       first
       | (refine canon_cut (s := t_) ?_ (fun h_ => ?_) <;> [subst t_; clear_value t_])
       | clear_value t_)
    | with_reducible first | apply canon_rejectEdge | apply canon_firstEdge | apply canon_acceptEdge | apply canon_ite
    | split
    | dsimp -zeta only)

theorem canon_enterHoldover {s : State} (h_s : s.Canon) : (State.enterHoldover s).Canon := by
  unfold State.enterHoldover
  repeat' (first
    | with_reducible assumption
    | intro _
    | (extract_lets -merge +onlyGivenNames t_
       first
       | (refine canon_cut (s := t_) ?_ (fun h_ => ?_) <;> [subst t_; clear_value t_])
       | clear_value t_)
    | (simp only [canon_parts]; with_reducible first | exact parts_of (by assumption) | apply parts_of)
    | with_reducible first | apply canon_put | apply canon_putB | apply canon_flag | apply canon_present | apply canon_withAng | apply canon_resendRate
    | dsimp -zeta only)

theorem canon_effEdgeWindowClose {s : State} (h_s : s.Canon) : (effEdgeWindowClose s).Canon := by
  unfold effEdgeWindowClose
  repeat' (first
    | with_reducible assumption
    | intro _
    | (extract_lets -merge +onlyGivenNames t_
       first
       | (refine canon_cut (s := t_) ?_ (fun h_ => ?_) <;> [subst t_; clear_value t_])
       | clear_value t_)
    | (simp only [canon_parts]; with_reducible first | exact parts_of (by assumption) | apply parts_of)
    | with_reducible first | apply canon_inc | apply canon_recordErr | apply canon_withAng | apply canon_nextWindow | apply canon_enterHoldover | apply canon_ite | apply canon_when
    | split
    | dsimp -zeta only)

theorem canon_effAlarmFire (n : Nat) (_late : Bool) {s : State} (h_s : s.Canon) : (effAlarmFire n _late s).Canon := by
  unfold effAlarmFire
  repeat' (first
    | with_reducible assumption
    | intro _
    | (extract_lets -merge +onlyGivenNames t_
       first
       | (refine canon_cut (s := t_) ?_ (fun h_ => ?_) <;> [subst t_; clear_value t_])
       | clear_value t_)
    | with_reducible first | apply canon_putHw | apply canon_sched | apply canon_flag | apply canon_present | apply canon_disarm | apply canon_ite | apply canon_when
    | split
    | dsimp -zeta only)

theorem canon_effSyncOutPulse {s : State} (h_s : s.Canon) : (effSyncOutPulse s).Canon := by
  unfold effSyncOutPulse
  repeat' (first
    | with_reducible assumption
    | intro _
    | (extract_lets -merge +onlyGivenNames t_
       first
       | (refine canon_cut (s := t_) ?_ (fun h_ => ?_) <;> [subst t_; clear_value t_])
       | clear_value t_)
    | (simp only [canon_parts]; with_reducible first | exact parts_of (by assumption) | apply parts_of)
    | with_reducible first | apply canon_resched | apply canon_withAng | apply canon_ite
    | split
    | dsimp -zeta only)

theorem canon_effSyncOutPulseEnd {s : State} (h_s : s.Canon) : (effSyncOutPulseEnd s).Canon := by
  unfold effSyncOutPulseEnd
  repeat' (first
    | with_reducible assumption
    | intro _
    | (simp only [canon_parts]; with_reducible first | exact parts_of (by assumption) | apply parts_of)
    | with_reducible first | apply canon_unsched | apply canon_withAng
    | dsimp -zeta only)

theorem canon_effAccumulatorMismatch (second : Bool) {s : State} (h_s : s.Canon) : (effAccumulatorMismatch second s).Canon := by
  unfold effAccumulatorMismatch
  repeat' (first
    | with_reducible assumption
    | (extract_lets -merge +onlyGivenNames t_
       first
       | (refine canon_cut (s := t_) ?_ (fun h_ => ?_) <;> [subst t_; clear_value t_])
       | clear_value t_)
    | with_reducible first | apply canon_setFault | apply canon_setAcc | apply canon_ite
    | dsimp -zeta only)

end Sys2Proof.Machine
end

