-- ==== Sys2Proof/Laws/CanonChain.lean ====
section
/-! SUPPORT. The functions of Machine/Chain.lean keep the canonical form. -/

namespace Sys2Proof.Machine

open Sys2Proof

set_option linter.all false

theorem canon_effRoleDecision (toggles : Bool) {s : State} (h_s : s.Canon) : (effRoleDecision toggles s).Canon := by
  unfold effRoleDecision
  repeat' (first
    | with_reducible assumption
    | intro _
    | (simp only [canon_parts]; with_reducible first | exact parts_of (by assumption) | apply parts_of)
    | with_reducible first | apply canon_withMch | apply canon_ite
    | split
    | dsimp -zeta only)

theorem canon_goodCell {s : State} (h_s : s.Canon) : (State.goodCell s).Canon := by
  unfold State.goodCell
  repeat' (first
    | with_reducible assumption
    | intro _
    | (simp only [canon_parts]; with_reducible first | exact parts_of (by assumption) | apply parts_of)
    | with_reducible apply canon_withMch
    | split
    | dsimp -zeta only)

theorem canon_forwardCell {s : State} (c : Cell) (h_s : s.Canon) : (State.forwardCell s c).Canon := by
  unfold State.forwardCell
  repeat' (first
    | with_reducible first | assumption | apply canon_slotIn
    | dsimp -zeta only)

theorem canon_voidOut {s : State} (h_s : s.Canon) : (State.voidOut s).Canon := by
  unfold State.voidOut
  repeat' (first
    | with_reducible assumption
    | (extract_lets -merge +onlyGivenNames t_
       first
       | (refine canon_cut (s := t_) ?_ (fun h_ => ?_) <;> [subst t_; clear_value t_])
       | (refine canon_cut (s := t_.2) ?_ (fun h_ => ?_) <;> [subst t_; clear_value t_])
       | clear_value t_)
    | with_reducible first | apply canon_slotIn | apply canon_newVoid | refine canonP_use ?_ (by assumption)
    | dsimp -zeta only)

theorem canon_rangeNow {s : State} (h_s : s.Canon) : (State.rangeNow s).Canon := by
  unfold State.rangeNow
  repeat' (first
    | with_reducible assumption
    | intro _
    | with_reducible first | apply canon_queueCell | apply canon_ite
    | split
    | dsimp -zeta only)

theorem canon_ringClosed {s : State} (type : Nat) (h_s : s.Canon) : (State.ringClosed s type).Canon := by
  unfold State.ringClosed
  repeat' (first
    | with_reducible assumption
    | intro _
    | (extract_lets -merge +onlyGivenNames t_
       first
       | (refine canon_cut (s := t_) ?_ (fun h_ => ?_) <;> [subst t_; clear_value t_])
       | clear_value t_)
    | (simp only [canon_parts]; with_reducible first | exact parts_of (by assumption) | apply parts_of)
    | with_reducible first | apply canon_putB | apply canon_withMch | apply canon_rangeNow | apply canon_ite | apply canon_when
    | split
    | dsimp -zeta only)

theorem canon_stripOwn {s : State} (type seq : Nat) (h_s : s.Canon) : (State.stripOwn s type seq).Canon := by
  unfold State.stripOwn
  repeat' (first
    | with_reducible assumption
    | intro _
    | (extract_lets -merge +onlyGivenNames t_
       first
       | (refine canon_cut (s := t_) ?_ (fun h_ => ?_) <;> [subst t_; clear_value t_])
       | clear_value t_)
    | (simp only [canon_parts]; with_reducible first | exact parts_of (by assumption) | apply parts_of)
    | with_reducible first | apply canon_put | apply canon_withMch | apply canon_voidOut | apply canon_ringClosed | apply canon_when
    | split
    | dsimp -zeta only)

theorem canon_noteSeen {s : State} (type : Nat) (h : CellHead) (h_s : s.Canon) : (State.noteSeen s type h).Canon := by
  unfold State.noteSeen
  repeat' (first
    | with_reducible assumption
    | intro _
    | (simp only [canon_parts]; with_reducible first | exact parts_of (by assumption) | apply parts_of)
    | with_reducible apply canon_withMch
    | dsimp -zeta only)

theorem canon_cellIn {s : State} (type : Nat) (h : CellHead) (raw out : Cell) (own other : State → State) (h_s : s.Canon) (h_own : ∀ t : State, t.Canon → (own t).Canon) (h_other : ∀ t : State, t.Canon → (other t).Canon) : (State.cellIn s type h raw out own other).Canon := by
  unfold State.cellIn
  repeat' (first
    | with_reducible assumption
    | (extract_lets -merge +onlyGivenNames t_
       first
       | (refine canon_cut (s := t_) ?_ (fun h_ => ?_) <;> [subst t_; clear_value t_])
       | clear_value t_)
    | with_reducible first | refine canonF_use (by assumption) ?_ | refine canonG_use (by assumption) ?_ | apply canon_inc | apply canon_goodCell | apply canon_forwardCell | apply canon_stripOwn | apply canon_noteSeen | apply canon_ite
    | split
    | dsimp -zeta only)

theorem canon_checkAngle {s : State} (a : Nat) (h_s : s.Canon) : (State.checkAngle s a).Canon := by
  unfold State.checkAngle
  repeat' (first
    | with_reducible assumption
    | intro _
    | (extract_lets -merge +onlyGivenNames t_
       first
       | (refine canon_cut (s := t_) ?_ (fun h_ => ?_) <;> [subst t_; clear_value t_])
       | clear_value t_)
    | (simp only [canon_parts]; with_reducible first | exact parts_of (by assumption) | apply parts_of)
    | with_reducible first | apply canon_putB | apply canon_flag | apply canon_withMch | apply canon_withAng | apply canon_ite
    | split
    | dsimp -zeta only)

theorem canon_idleAngle {s : State} (angle : Nat) (h_s : s.Canon) : (State.idleAngle s angle).Canon := by
  unfold State.idleAngle
  repeat' (first
    | with_reducible assumption
    | (extract_lets -merge +onlyGivenNames t_
       first
       | (refine canon_cut (s := t_) ?_ (fun h_ => ?_) <;> [subst t_; clear_value t_])
       | clear_value t_)
    | with_reducible first | apply canon_putB | apply canon_startAngle | apply canon_checkAngle | apply canon_ite
    | split
    | dsimp -zeta only)

theorem canon_effIdleCell (h : CellHead) (angle : Nat) {s : State} (h_s : s.Canon) : (effIdleCell h angle s).Canon := by
  unfold effIdleCell
  repeat' (first
    | with_reducible assumption
    | (extract_lets -merge +onlyGivenNames t_
       first
       | (refine canon_cut (s := t_) ?_ (fun h_ => ?_) <;> [subst t_; clear_value t_])
       | (refine canon_cut (s := t_.2) ?_ (fun h_ => ?_) <;> [subst t_; clear_value t_])
       | clear_value t_)
    | with_reducible first | apply canon_inc | apply canon_resched | apply canon_slotIn | apply canon_newVoid | apply canon_goodCell | apply canon_noteSeen | apply canon_idleAngle | apply canon_ite | refine canonP_use ?_ (by assumption)
    | split
    | dsimp -zeta only)

theorem canon_effVoidCell (h : CellHead) {s : State} (h_s : s.Canon) : (effVoidCell h s).Canon := by
  unfold effVoidCell
  repeat' (first
    | with_reducible assumption
    | (extract_lets -merge +onlyGivenNames t_
       first
       | (refine canon_cut (s := t_) ?_ (fun h_ => ?_) <;> [subst t_; clear_value t_])
       | clear_value t_)
    | with_reducible first | apply canon_slotIn | apply canon_goodCell | apply canon_ite
    | split
    | dsimp -zeta only)

theorem canon_effRateCell (h : CellHead) (boundary rate : Nat) {s : State} (h_s : s.Canon) : (effRateCell h boundary rate s).Canon := by
  unfold effRateCell
  repeat' (first
    | with_reducible assumption
    | intro _
    | (extract_lets -merge +onlyGivenNames t_
       first
       | (refine canon_cut (s := t_) ?_ (fun h_ => ?_) <;> [subst t_; clear_value t_])
       | clear_value t_)
    | (simp only [canon_parts]; with_reducible first | exact parts_of (by assumption) | apply parts_of)
    | with_reducible first | apply canon_id | apply canon_withMch | apply canon_withAng | apply canon_cellIn | apply canon_ite | apply canon_when
    | split
    | dsimp -zeta only)

theorem canon_effStateCell (h : CellHead) (tag count : Nat) {s : State} (h_s : s.Canon) : (effStateCell h tag count s).Canon := by
  unfold effStateCell
  repeat' (first
    | with_reducible assumption
    | intro _
    | (extract_lets -merge +onlyGivenNames t_
       first
       | (refine canon_cut (s := t_) ?_ (fun h_ => ?_) <;> [subst t_; clear_value t_])
       | clear_value t_)
    | with_reducible first | apply canon_id | apply canon_put | apply canon_putB | apply canon_lockAngle | apply canon_cellIn | apply canon_ite
    | split
    | dsimp -zeta only)

theorem canon_discover {s : State} (h_s : s.Canon) : (State.discover s).Canon := by
  unfold State.discover
  repeat' (first
    | with_reducible assumption
    | (extract_lets -merge +onlyGivenNames t_
       first
       | (refine canon_cut (s := t_) ?_ (fun h_ => ?_) <;> [subst t_; clear_value t_])
       | clear_value t_)
    | with_reducible first | apply canon_put | apply canon_putB | apply canon_resched | apply canon_startStream | apply canon_queueCell | apply canon_ite
    | split
    | dsimp -zeta only)

theorem canon_effDiscover {s : State} (h_s : s.Canon) : (effDiscover s).Canon := by
  unfold effDiscover
  repeat' (first
    | with_reducible first | assumption | apply canon_discover | apply canon_ite
    | split
    | dsimp -zeta only)

theorem canon_effCountCell (h : CellHead) (count : Nat) {s : State} (h_s : s.Canon) : (effCountCell h count s).Canon := by
  unfold effCountCell
  repeat' (first
    | with_reducible assumption
    | intro _
    | (extract_lets -merge +onlyGivenNames t_
       first
       | (refine canon_cut (s := t_) ?_ (fun h_ => ?_) <;> [subst t_; clear_value t_])
       | clear_value t_)
    | (simp only [canon_parts]; with_reducible first | exact parts_of (by assumption) | apply parts_of)
    | with_reducible first | apply canon_put | apply canon_putB | apply canon_unsched | apply canon_withMch | apply canon_cellIn
    | dsimp -zeta only)

theorem canon_effCountTimeout {s : State} (h_s : s.Canon) : (effCountTimeout s).Canon := by
  unfold effCountTimeout
  repeat' (first
    | with_reducible assumption
    | intro _
    | (simp only [canon_parts]; with_reducible first | exact parts_of (by assumption) | apply parts_of)
    | with_reducible first | apply canon_unsched | apply canon_recordErr | apply canon_flag | apply canon_withMch | apply canon_ite
    | split
    | dsimp -zeta only)

theorem canon_effRange {s : State} (h_s : s.Canon) : (effRange s).Canon := by
  unfold effRange
  repeat' (first
    | with_reducible first | assumption | apply canon_rangeNow | apply canon_ite
    | split
    | dsimp -zeta only)

theorem canon_effRangeStartCell (h : CellHead) {s : State} (h_s : s.Canon) : (effRangeStartCell h s).Canon := by
  unfold effRangeStartCell
  repeat' (first
    | with_reducible assumption
    | intro _
    | with_reducible first | apply canon_id | apply canon_startRanging | apply canon_cellIn
    | dsimp -zeta only)

theorem canon_effEchoWindowEnd (trips : List Nat) {s : State} (h_s : s.Canon) : (effEchoWindowEnd trips s).Canon := by
  unfold effEchoWindowEnd
  repeat' (first
    | with_reducible assumption
    | (extract_lets -merge +onlyGivenNames t_
       first
       | (refine canon_cut (s := t_) ?_ (fun h_ => ?_) <;> [subst t_; clear_value t_])
       | (refine canon_cut (s := t_.2) ?_ (fun h_ => ?_) <;> [subst t_; clear_value t_])
       | clear_value t_)
    | with_reducible first | apply canon_put | apply canon_newCell | apply canon_sendCell | apply canon_ite | apply canon_foldl | apply canon_foldl1 | apply canon_foldl2 | apply canon_foldl22 | refine canonP_use ?_ (by assumption)
    | split
    | dsimp -zeta only)

theorem canon_endRanging {s : State} (h_s : s.Canon) : (State.endRanging s).Canon := by
  unfold State.endRanging
  repeat' (first
    | with_reducible assumption
    | intro _
    | (extract_lets -merge +onlyGivenNames t_
       first
       | (refine canon_cut (s := t_) ?_ (fun h_ => ?_) <;> [subst t_; clear_value t_])
       | clear_value t_)
    | (simp only [canon_parts]; with_reducible first | exact parts_of (by assumption) | apply parts_of)
    | with_reducible first | apply canon_putB | apply canon_resched | apply canon_withMch | apply canon_when
    | dsimp -zeta only)

theorem canon_rangeEnd {s : State} (h_s : s.Canon) : (State.rangeEnd s).Canon := by
  unfold State.rangeEnd
  repeat' (first
    | with_reducible first | assumption | apply canon_endRanging | apply canon_when
    | dsimp -zeta only)

theorem canon_createToken {s : State} (h_s : s.Canon) : (State.createToken s).Canon := by
  unfold State.createToken
  repeat' (first
    | with_reducible assumption
    | (extract_lets -merge +onlyGivenNames t_
       first
       | (refine canon_cut (s := t_) ?_ (fun h_ => ?_) <;> [subst t_; clear_value t_])
       | clear_value t_)
    | with_reducible first | apply canon_resched | apply canon_queueCell | apply canon_ite
    | split
    | dsimp -zeta only)

theorem canon_effRangeResultCell (h : CellHead) (v : Nat) {s : State} (h_s : s.Canon) : (effRangeResultCell h v s).Canon := by
  unfold effRangeResultCell
  repeat' (first
    | with_reducible assumption
    | intro _
    | (extract_lets -merge +onlyGivenNames t_
       first
       | (refine canon_cut (s := t_) ?_ (fun h_ => ?_) <;> [subst t_; clear_value t_])
       | clear_value t_)
    | (simp only [canon_parts]; with_reducible first | exact parts_of (by assumption) | apply parts_of)
    | with_reducible first | apply canon_put | apply canon_putB | apply canon_recordErr | apply canon_flag | apply canon_pendCorr | apply canon_withMch | apply canon_cellIn | apply canon_endRanging | apply canon_createToken | apply canon_ite | apply canon_when
    | split
    | dsimp -zeta only)

theorem canon_effHelloCell (h : CellHead) (position : Nat) {s : State} (h_s : s.Canon) : (effHelloCell h position s).Canon := by
  unfold effHelloCell
  repeat' (first
    | with_reducible assumption
    | intro _
    | (extract_lets -merge +onlyGivenNames t_
       first
       | (refine canon_cut (s := t_) ?_ (fun h_ => ?_) <;> [subst t_; clear_value t_])
       | (refine canon_cutF (f := t_) ?_ (fun h_ => ?_) <;> [subst t_; clear_value t_])
       | (refine canon_cutG (f := t_) ?_ (fun h_ => ?_) <;> [subst t_; clear_value t_])
       | clear_value t_)
    | (simp only [canon_parts]; with_reducible first | exact parts_of (by assumption) | apply parts_of)
    | with_reducible first | refine canonF_use (by assumption) ?_ | refine canonG_use (by assumption) ?_ | apply canon_id | apply canon_setFault | apply canon_withMch | apply canon_goodCell | apply canon_forwardCell | apply canon_rangeNow | apply canon_cellIn | apply canon_ite
    | split
    | dsimp -zeta only)

theorem canon_takeNumber {s : State} (v : Nat) (h_s : s.Canon) : (State.takeNumber s v).Canon := by
  unfold State.takeNumber
  repeat' (first
    | with_reducible assumption
    | intro _
    | (extract_lets -merge +onlyGivenNames t_
       first
       | (refine canon_cut (s := t_) ?_ (fun h_ => ?_) <;> [subst t_; clear_value t_])
       | clear_value t_)
    | (simp only [canon_parts]; with_reducible first | exact parts_of (by assumption) | apply parts_of)
    | with_reducible first | apply canon_put | apply canon_withMch | apply canon_queueCell | apply canon_ite
    | split
    | dsimp -zeta only)

theorem canon_effLaunchCell (h : CellHead) (token angle : Nat) {s : State} (h_s : s.Canon) : (effLaunchCell h token angle s).Canon := by
  unfold effLaunchCell
  repeat' (first
    | with_reducible assumption
    | intro _
    | (extract_lets -merge +onlyGivenNames t_
       first
       | (refine canon_cut (s := t_) ?_ (fun h_ => ?_) <;> [subst t_; clear_value t_])
       | clear_value t_)
    | with_reducible first | apply canon_handleToken | apply canon_noteSeen | apply canon_cellIn | apply canon_ite
    | split
    | dsimp -zeta only)

theorem canon_effPostToken (token : Nat) {s : State} (h_s : s.Canon) : (effPostToken token s).Canon := by
  unfold effPostToken
  repeat' (first
    | with_reducible first | assumption | apply canon_queueCell | apply canon_ite
    | split
    | dsimp -zeta only)

theorem canon_effLslotFire (n : Nat) (late : Bool) {s : State} (h_s : s.Canon) : (effLslotFire n late s).Canon := by
  unfold effLslotFire
  repeat' (first
    | with_reducible first | assumption | apply canon_disarm | apply canon_slotFires | apply canon_ite
    | split
    | dsimp -zeta only)

theorem canon_slotDrop {s : State} (n : Nat) (h_s : s.Canon) : (State.slotDrop s n).Canon := by
  unfold State.slotDrop
  repeat' (first
    | with_reducible first | assumption | apply canon_inc | apply canon_disarm | apply canon_ite
    | split
    | dsimp -zeta only)

theorem canon_effEventCell (h : CellHead) (ch hop angle : Nat) {s : State} (h_s : s.Canon) : (effEventCell h ch hop angle s).Canon := by
  unfold effEventCell
  repeat' (first
    | with_reducible assumption
    | intro _
    | (extract_lets -merge +onlyGivenNames t_
       first
       | (refine canon_cut (s := t_) ?_ (fun h_ => ?_) <;> [subst t_; clear_value t_])
       | clear_value t_)
    | with_reducible first | apply canon_id | apply canon_inc | apply canon_holdDelivery | apply canon_arm | apply canon_chainLate | apply canon_holdWake | apply canon_cellIn | apply canon_ite | apply canon_when
    | split
    | dsimp -zeta only)

theorem canon_reinsertToken {s : State} (h_s : s.Canon) : (State.reinsertToken s).Canon := by
  unfold State.reinsertToken
  repeat' (first
    | with_reducible assumption
    | intro _
    | (extract_lets -merge +onlyGivenNames t_
       first
       | (refine canon_cut (s := t_) ?_ (fun h_ => ?_) <;> [subst t_; clear_value t_])
       | clear_value t_)
    | (simp only [canon_parts]; with_reducible first | exact parts_of (by assumption) | apply parts_of)
    | with_reducible first | apply canon_putB | apply canon_unsched | apply canon_withMch | apply canon_queueCell | apply canon_ite | apply canon_when
    | split
    | dsimp -zeta only)

theorem canon_passToken {s : State} (h : CellHead) (h_s : s.Canon) : (State.passToken s h).Canon := by
  unfold State.passToken
  repeat' (first
    | with_reducible assumption
    | (extract_lets -merge +onlyGivenNames t_
       first
       | (refine canon_cut (s := t_) ?_ (fun h_ => ?_) <;> [subst t_; clear_value t_])
       | (refine canon_cut (s := t_.2) ?_ (fun h_ => ?_) <;> [subst t_; clear_value t_])
       | clear_value t_)
    | with_reducible first | apply canon_newCell | apply canon_forwardCell | apply canon_ite | refine canonP_use ?_ (by assumption)
    | split
    | dsimp -zeta only)

theorem canon_effReportCell (h : CellHead) {s : State} (h_s : s.Canon) : (effReportCell h s).Canon := by
  unfold effReportCell
  repeat' (first
    | with_reducible assumption
    | intro _
    | (extract_lets -merge +onlyGivenNames t_
       first
       | (refine canon_cut (s := t_) ?_ (fun h_ => ?_) <;> [subst t_; clear_value t_])
       | clear_value t_)
    | with_reducible first | apply canon_putB | apply canon_inc | apply canon_resched | apply canon_flag | apply canon_goodCell | apply canon_forwardCell | apply canon_voidOut | apply canon_noteSeen | apply canon_passToken | apply canon_ite | apply canon_when
    | split
    | dsimp -zeta only)

theorem canon_tokenIdle {s : State} (h_s : s.Canon) : (State.tokenIdle s).Canon := by
  unfold State.tokenIdle
  repeat' (first
    | with_reducible first | assumption | apply canon_reinsertToken | apply canon_ite
    | split
    | dsimp -zeta only)

theorem canon_reportEnabled {s : State} (h_s : s.Canon) : (State.reportEnabled s).Canon := by
  unfold State.reportEnabled
  repeat' (first
    | with_reducible assumption
    | intro _
    | with_reducible first | apply canon_createToken | apply canon_when
    | dsimp -zeta only)

theorem canon_effTokenHoldLimit {s : State} (h_s : s.Canon) : (effTokenHoldLimit s).Canon := by
  unfold effTokenHoldLimit
  repeat' (first
    | with_reducible assumption
    | intro _
    | (simp only [canon_parts]; with_reducible first | exact parts_of (by assumption) | apply parts_of)
    | with_reducible first | apply canon_withMch | apply canon_reinsertToken | apply canon_ite
    | split
    | dsimp -zeta only)

theorem canon_effReportTokenTimeout {s : State} (h_s : s.Canon) : (effReportTokenTimeout s).Canon := by
  unfold effReportTokenTimeout
  repeat' (first
    | with_reducible first | assumption | apply canon_createToken | apply canon_ite
    | split
    | dsimp -zeta only)

theorem canon_loseChain {s : State} (h_s : s.Canon) : (State.loseChain s).Canon := by
  unfold State.loseChain
  repeat' (first
    | with_reducible assumption
    | intro _
    | (extract_lets -merge +onlyGivenNames t_
       first
       | (refine canon_cut (s := t_) ?_ (fun h_ => ?_) <;> [subst t_; clear_value t_])
       | clear_value t_)
    | (simp only [canon_parts]; with_reducible first | exact parts_of (by assumption) | apply parts_of)
    | with_reducible first | apply canon_put | apply canon_putB | apply canon_recordErr | apply canon_flag | apply canon_setFault | apply canon_withMch | apply canon_withAng
    | dsimp -zeta only)

theorem canon_effChainAngleLost (mclk : Bool) {s : State} (h_s : s.Canon) : (effChainAngleLost mclk s).Canon := by
  unfold effChainAngleLost
  repeat' (first
    | with_reducible assumption
    | intro _
    | (extract_lets -merge +onlyGivenNames t_
       first
       | (refine canon_cut (s := t_) ?_ (fun h_ => ?_) <;> [subst t_; clear_value t_])
       | clear_value t_)
    | (simp only [canon_parts]; with_reducible first | exact parts_of (by assumption) | apply parts_of)
    | with_reducible first | apply canon_unsched | apply canon_setFault | apply canon_withMch | apply canon_loseChain | apply canon_ite | apply canon_when
    | split
    | dsimp -zeta only)

theorem canon_effBadCell (word : Nat) {s : State} (h_s : s.Canon) : (effBadCell word s).Canon := by
  unfold effBadCell
  repeat' (first
    | with_reducible assumption
    | intro _
    | (extract_lets -merge +onlyGivenNames t_
       first
       | (refine canon_cut (s := t_) ?_ (fun h_ => ?_) <;> [subst t_; clear_value t_])
       | clear_value t_)
    | (simp only [canon_parts]; with_reducible first | exact parts_of (by assumption) | apply parts_of)
    | with_reducible first | apply canon_inc | apply canon_sched | apply canon_recordErr | apply canon_flag | apply canon_withMch | apply canon_voidOut | apply canon_ite
    | split
    | dsimp -zeta only)

theorem canon_ringOpens {s : State} (h_s : s.Canon) : (State.ringOpens s).Canon := by
  unfold State.ringOpens
  repeat' (first
    | with_reducible assumption
    | intro _
    | (simp only [canon_parts]; with_reducible first | exact parts_of (by assumption) | apply parts_of)
    | with_reducible first | apply canon_putB | apply canon_withMch | apply canon_startStream | apply canon_when
    | dsimp -zeta only)

theorem canon_effCellResend (type : Nat) {s : State} (h_s : s.Canon) : (effCellResend type s).Canon := by
  unfold effCellResend
  repeat' (first
    | with_reducible assumption
    | intro _
    | (extract_lets -merge +onlyGivenNames t_
       first
       | (refine canon_cut (s := t_) ?_ (fun h_ => ?_) <;> [subst t_; clear_value t_])
       | clear_value t_)
    | (simp only [canon_parts]; with_reducible first | exact parts_of (by assumption) | apply parts_of)
    | with_reducible first | apply canon_inc | apply canon_recordErr | apply canon_flag | apply canon_withMch | apply canon_sendCell | apply canon_ringOpens | apply canon_ite
    | split
    | dsimp -zeta only)

end Sys2Proof.Machine
end

