-- ==== Sys2Proof/Laws/CanonReceive.lean ====
section
/-! SUPPORT. The functions of Machine/Receive.lean keep the canonical form. -/

namespace Sys2Proof.Machine

open Sys2Proof

set_option linter.all false

theorem canon_roleFail {s : State} (w role st : Nat) (h_s : s.Canon) : (State.roleFail s w role st).Canon := by
  unfold State.roleFail
  repeat' (first
    | with_reducible first | assumption | apply canon_recordErr | apply canon_ite
    | split
    | dsimp -zeta only)

theorem canon_capWrite {s : State} (n : Nat) (samples : List Nat) (h_s : s.Canon) : (State.capWrite s n samples).Canon := by
  unfold State.capWrite
  repeat' (first
    | with_reducible assumption
    | intro _
    | (extract_lets -merge +onlyGivenNames t_
       first
       | (refine canon_cut (s := t_) ?_ (fun h_ => ?_) <;> [subst t_; clear_value t_])
       | clear_value t_)
    | (simp only [canon_parts]; with_reducible first | exact parts_of (by assumption) | apply parts_of)
    | with_reducible first | apply canon_put | apply canon_putB | apply canon_memWrite | apply canon_withRx | apply canon_ite | apply canon_forEach
    | dsimp -zeta only)

theorem canon_capUnseen {s : State} (n : Nat) (h_s : s.Canon) : (State.capUnseen s n).Canon := by
  unfold State.capUnseen
  repeat' (first
    | with_reducible assumption
    | intro _
    | (extract_lets -merge +onlyGivenNames t_
       first
       | (refine canon_cut (s := t_) ?_ (fun h_ => ?_) <;> [subst t_; clear_value t_])
       | clear_value t_)
    | (simp only [canon_parts]; with_reducible first | exact parts_of (by assumption) | apply parts_of)
    | with_reducible first | apply canon_nextFree | apply canon_withRx | apply canon_capWrite | apply canon_ite | apply canon_forEach
    | split
    | dsimp -zeta only)

theorem canon_capEnd {s : State} (n st : Nat) (h_s : s.Canon) : (State.capEnd s n st).Canon := by
  unfold State.capEnd
  repeat' (first
    | with_reducible assumption
    | (extract_lets -merge +onlyGivenNames t_
       first
       | (refine canon_cut (s := t_) ?_ (fun h_ => ?_) <;> [subst t_; clear_value t_])
       | clear_value t_)
    | with_reducible first | apply canon_put | apply canon_putB | apply canon_flag | apply canon_present | apply canon_ite
    | split
    | dsimp -zeta only)

theorem canon_capStop {s : State} (n : Nat) (h_s : s.Canon) : (State.capStop s n).Canon := by
  unfold State.capStop
  repeat' (first
    | with_reducible assumption
    | (extract_lets -merge +onlyGivenNames t_
       first
       | (refine canon_cut (s := t_) ?_ (fun h_ => ?_) <;> [subst t_; clear_value t_])
       | (refine canon_cut (s := t_.2) ?_ (fun h_ => ?_) <;> [subst t_; clear_value t_])
       | clear_value t_)
    | with_reducible first | apply canon_put | apply canon_capEnd | apply canon_ite
    | dsimp -zeta only)

theorem canon_capTrig {s : State} (n trig : Nat) (h_s : s.Canon) : (State.capTrig s n trig).Canon := by
  unfold State.capTrig
  repeat' (first
    | with_reducible assumption
    | intro _
    | (extract_lets -merge +onlyGivenNames t_
       first
       | (refine canon_cut (s := t_) ?_ (fun h_ => ?_) <;> [subst t_; clear_value t_])
       | clear_value t_)
    | (simp only [canon_parts]; with_reducible first | exact parts_of (by assumption) | apply parts_of)
    | with_reducible first | apply canon_put | apply canon_withRx | apply canon_ite
    | split
    | dsimp -zeta only)

theorem canon_trigger {s : State} (n trig : Nat) (h_s : s.Canon) : (State.trigger s n trig).Canon := by
  unfold State.trigger
  repeat' (first
    | with_reducible first | assumption | apply canon_capUnseen | apply canon_capTrig | apply canon_ite
    | split
    | dsimp -zeta only)

theorem canon_capArm {s : State} (n : Nat) (h_s : s.Canon) : (State.capArm s n).Canon := by
  unfold State.capArm
  repeat' (first
    | with_reducible assumption
    | intro _
    | (extract_lets -merge +onlyGivenNames t_
       first
       | (refine canon_cut (s := t_) ?_ (fun h_ => ?_) <;> [subst t_; clear_value t_])
       | clear_value t_)
    | (simp only [canon_parts]; with_reducible first | exact parts_of (by assumption) | apply parts_of)
    | with_reducible first | apply canon_put | apply canon_putB | apply canon_recordErr | apply canon_withRx | apply canon_ite
    | split
    | dsimp -zeta only)

theorem canon_effCaptureStart (n : Nat) {s : State} (h_s : s.Canon) : (effCaptureStart n s).Canon := by
  unfold effCaptureStart
  repeat' (first
    | with_reducible assumption
    | (extract_lets -merge +onlyGivenNames t_
       first
       | (refine canon_cut (s := t_) ?_ (fun h_ => ?_) <;> [subst t_; clear_value t_])
       | clear_value t_)
    | with_reducible first | apply canon_retimer | apply canon_capUnseen | apply canon_capStop | apply canon_capArm | apply canon_ite
    | split
    | dsimp -zeta only)

theorem canon_effCaptureStop (n : Nat) (samples : List Nat) {s : State} (h_s : s.Canon) : (effCaptureStop n samples s).Canon := by
  unfold effCaptureStop
  repeat' (first
    | with_reducible assumption
    | (extract_lets -merge +onlyGivenNames t_
       first
       | (refine canon_cut (s := t_) ?_ (fun h_ => ?_) <;> [subst t_; clear_value t_])
       | clear_value t_)
    | with_reducible first | apply canon_untimer | apply canon_capWrite | apply canon_capUnseen | apply canon_capStop | apply canon_capArm | apply canon_ite
    | split
    | dsimp -zeta only)

theorem canon_effCaptureTrigger (n trig : Nat) (samples : List Nat) {s : State} (h_s : s.Canon) : (effCaptureTrigger n trig samples s).Canon := by
  unfold effCaptureTrigger
  repeat' (first
    | with_reducible assumption
    | (extract_lets -merge +onlyGivenNames t_
       first
       | (refine canon_cut (s := t_) ?_ (fun h_ => ?_) <;> [subst t_; clear_value t_])
       | clear_value t_)
    | with_reducible first | apply canon_capWrite | apply canon_capTrig | apply canon_ite
    | split
    | dsimp -zeta only)

theorem canon_effCaptureDone (n : Nat) (samples : List Nat) {s : State} (h_s : s.Canon) : (effCaptureDone n samples s).Canon := by
  unfold effCaptureDone
  repeat' (first
    | with_reducible first | assumption | apply canon_capWrite | apply canon_capEnd | apply canon_ite
    | split
    | dsimp -zeta only)

theorem canon_effCaptureOverrun (n : Nat) (samples : List Nat) {s : State} (h_s : s.Canon) : (effCaptureOverrun n samples s).Canon := by
  unfold effCaptureOverrun
  repeat' (first
    | with_reducible first | assumption | apply canon_recordErr | apply canon_flag | apply canon_capWrite | apply canon_capEnd | apply canon_ite
    | split
    | dsimp -zeta only)

theorem canon_showNoise {s : State} (n : Nat) (h_s : s.Canon) : (State.showNoise s n).Canon := by
  unfold State.showNoise
  repeat' (first
    | with_reducible assumption
    | (extract_lets -merge +onlyGivenNames t_
       first
       | (refine canon_cut (s := t_) ?_ (fun h_ => ?_) <;> [subst t_; clear_value t_])
       | (refine canon_cut (s := t_.2) ?_ (fun h_ => ?_) <;> [subst t_; clear_value t_])
       | clear_value t_)
    | (simp only [canon_parts]; with_reducible first | exact parts_of (by assumption) | apply parts_of)
    | with_reducible apply canon_put
    | split
    | dsimp -zeta only)

theorem canon_setGain {s : State} (n g : Nat) (h_s : s.Canon) : (State.setGain s n g).Canon := by
  unfold State.setGain
  repeat' (first
    | with_reducible assumption
    | intro _
    | (simp only [canon_parts]; with_reducible first | exact parts_of (by assumption) | apply parts_of)
    | with_reducible first | apply canon_put | apply canon_withRx | apply canon_showNoise | apply canon_ite
    | split
    | dsimp -zeta only)

theorem canon_setRxState {s : State} (n st : Nat) (h_s : s.Canon) : (State.setRxState s n st).Canon := by
  unfold State.setRxState
  repeat' (first
    | with_reducible first | assumption | apply canon_put
    | dsimp -zeta only)

theorem canon_rxListen {s : State} (n c : Nat) (blitz : Bool) (classes : Nat) (h_s : s.Canon) : (State.rxListen s n c blitz classes).Canon := by
  unfold State.rxListen
  repeat' (first
    | with_reducible assumption
    | intro _
    | (extract_lets -merge +onlyGivenNames t_
       first
       | (refine canon_cut (s := t_) ?_ (fun h_ => ?_) <;> [subst t_; clear_value t_])
       | clear_value t_)
    | (simp only [canon_parts]; with_reducible first | exact parts_of (by assumption) | apply parts_of)
    | with_reducible first | apply canon_withRx | apply canon_trigger | apply canon_setGain | apply canon_setRxState | apply canon_ite
    | split
    | dsimp -zeta only)

theorem canon_rxTake {s : State} (n c : Nat) (h_s : s.Canon) : (State.rxTake s n c).Canon := by
  unfold State.rxTake
  repeat' (first
    | with_reducible assumption
    | intro _
    | (simp only [canon_parts]; with_reducible first | exact parts_of (by assumption) | apply parts_of)
    | with_reducible apply canon_withRx
    | dsimp -zeta only)

theorem canon_releaseRx16 {s : State} (h_s : s.Canon) : (State.releaseRx16 s).Canon := by
  unfold State.releaseRx16
  repeat' (first
    | with_reducible assumption
    | intro _
    | (extract_lets -merge +onlyGivenNames t_
       first
       | (refine canon_cut (s := t_) ?_ (fun h_ => ?_) <;> [subst t_; clear_value t_])
       | clear_value t_)
    | (simp only [canon_parts]; with_reducible first | exact parts_of (by assumption) | apply parts_of)
    | with_reducible first | apply canon_put | apply canon_putB | apply canon_withRx | apply canon_retapWing | apply canon_ite
    | split
    | dsimp -zeta only)

theorem canon_rxRest {s : State} (n : Nat) (h_s : s.Canon) : (State.rxRest s n).Canon := by
  unfold State.rxRest
  repeat' (first
    | with_reducible assumption
    | intro _
    | (simp only [canon_parts]; with_reducible first | exact parts_of (by assumption) | apply parts_of)
    | with_reducible first | apply canon_withRx | apply canon_retap | apply canon_ite
    | split
    | dsimp -zeta only)

theorem canon_rxFree {s : State} (c : Nat) (h_s : s.Canon) : (State.rxFree s c).Canon := by
  unfold State.rxFree
  repeat' (first
    | with_reducible assumption
    | intro _
    | (simp only [canon_parts]; with_reducible first | exact parts_of (by assumption) | apply parts_of)
    | with_reducible first | apply canon_withRx | apply canon_setRxState | apply canon_rxRest | apply canon_ite | apply canon_forEach
    | split
    | dsimp -zeta only)

theorem canon_effLeakConverged (n i q residual : Nat) {s : State} (h_s : s.Canon) : (effLeakConverged n i q residual s).Canon := by
  unfold effLeakConverged
  repeat' (first
    | with_reducible assumption
    | (extract_lets -merge +onlyGivenNames t_
       first
       | (refine canon_cut (s := t_) ?_ (fun h_ => ?_) <;> [subst t_; clear_value t_])
       | clear_value t_)
    | with_reducible first | apply canon_put | apply canon_putB | apply canon_recordErr | apply canon_flag | apply canon_ite
    | split
    | dsimp -zeta only)

theorem canon_effLegacyFrameStart (n : Nat) (env : List (Int × Int)) {s : State} (h_s : s.Canon) : (effLegacyFrameStart n env s).Canon := by
  unfold effLegacyFrameStart
  repeat' (first
    | with_reducible assumption
    | intro _
    | (extract_lets -merge +onlyGivenNames t_
       first
       | (refine canon_cut (s := t_) ?_ (fun h_ => ?_) <;> [subst t_; clear_value t_])
       | clear_value t_)
    | (simp only [canon_parts]; with_reducible first | exact parts_of (by assumption) | apply parts_of)
    | with_reducible first | apply canon_put | apply canon_withRx | apply canon_startAngle | apply canon_trigger | apply canon_setRxState | apply canon_ite | apply canon_foldl | apply canon_foldl1 | apply canon_foldl2 | apply canon_foldl22
    | split
    | dsimp -zeta only)

theorem canon_stepGain {s : State} (n e : Nat) (h_s : s.Canon) : (State.stepGain s n e).Canon := by
  unfold State.stepGain
  repeat' (first
    | with_reducible assumption
    | (extract_lets -merge +onlyGivenNames t_
       first
       | (refine canon_cut (s := t_) ?_ (fun h_ => ?_) <;> [subst t_; clear_value t_])
       | skip)
    | with_reducible first | apply canon_flag | apply canon_rxPutHw | apply canon_setGain | apply canon_ite
    | split
    | dsimp -zeta only)

theorem canon_frameEnds {s : State} (n : Nat) (h_s : s.Canon) : (State.frameEnds s n).Canon := by
  unfold State.frameEnds
  repeat' (first
    | with_reducible first | assumption | apply canon_flag | apply canon_present
    | dsimp -zeta only)

theorem canon_showLevel {s : State} (n e k : Nat) (clipped : Bool) (h_s : s.Canon) : (State.showLevel s n e k clipped).Canon := by
  unfold State.showLevel
  repeat' (first
    | with_reducible first | assumption | apply canon_put | apply canon_ite
    | dsimp -zeta only)

theorem canon_clippedFrame {s : State} (n : Nat) (h_s : s.Canon) : (State.clippedFrame s n).Canon := by
  unfold State.clippedFrame
  repeat' (first
    | with_reducible assumption
    | intro _
    | (simp only [canon_parts]; with_reducible first | exact parts_of (by assumption) | apply parts_of)
    | with_reducible first | apply canon_recordErr | apply canon_flag | apply canon_withRx
    | dsimp -zeta only)

theorem canon_effLegacyFrameEnd (n : Nat) (clipped : Bool) (halves : List ((Int × Int) × (Int × Int))) {s : State} (h_s : s.Canon) : (effLegacyFrameEnd n clipped halves s).Canon := by
  unfold effLegacyFrameEnd
  repeat' (first
    | with_reducible assumption
    | intro _
    | (extract_lets -merge +onlyGivenNames t_
       first
       | (refine canon_cut (s := t_) ?_ (fun h_ => ?_) <;> [subst t_; clear_value t_])
       | (refine canon_cut (s := t_.2) ?_ (fun h_ => ?_) <;> [subst t_; clear_value t_])
       | clear_value t_)
    | (simp only [canon_parts]; with_reducible first | exact parts_of (by assumption) | apply parts_of)
    | with_reducible first | apply canon_flag | apply canon_withRx | apply canon_retap | apply canon_setRxState | apply canon_stepGain | apply canon_frameEnds | apply canon_showLevel | apply canon_clippedFrame | apply canon_ite | apply canon_when | apply canon_foldl | apply canon_foldl1 | apply canon_foldl2 | apply canon_foldl22
    | split
    | dsimp -zeta only)

theorem canon_cutFrame {s : State} (n : Nat) (h_s : s.Canon) : (State.cutFrame s n).Canon := by
  unfold State.cutFrame
  repeat' (first
    | with_reducible assumption
    | (extract_lets -merge +onlyGivenNames t_
       first
       | (refine canon_cut (s := t_) ?_ (fun h_ => ?_) <;> [subst t_; clear_value t_])
       | clear_value t_)
    | with_reducible first | apply canon_nextFree | apply canon_setRxState | apply canon_stepGain | apply canon_frameEnds | apply canon_showLevel | apply canon_ite
    | split
    | dsimp -zeta only)

theorem canon_rxEnds {s : State} (n st mark : Nat) (h_s : s.Canon) : (State.rxEnds s n st mark).Canon := by
  unfold State.rxEnds
  repeat' (first
    | with_reducible assumption
    | (simp only [canon_parts]; with_reducible first | exact parts_of (by assumption) | apply parts_of)
    | split
    | dsimp -zeta only)

theorem canon_fallBack {s : State} (n : Nat) (h_s : s.Canon) : (State.fallBack s n).Canon := by
  unfold State.fallBack
  repeat' (first
    | with_reducible assumption
    | intro _
    | (extract_lets -merge +onlyGivenNames t_
       first
       | (refine canon_cut (s := t_) ?_ (fun h_ => ?_) <;> [subst t_; clear_value t_])
       | clear_value t_)
    | (simp only [canon_parts]; with_reducible first | exact parts_of (by assumption) | apply parts_of)
    | with_reducible first | apply canon_withRx | apply canon_selectTap | apply canon_withEng | apply canon_setRxState | apply canon_rxListen | apply canon_ite | apply canon_forEach
    | split
    | dsimp -zeta only)

theorem canon_rxFault {s : State} (n bit code : Nat) (h_s : s.Canon) : (State.rxFault s n bit code).Canon := by
  unfold State.rxFault
  repeat' (first
    | with_reducible assumption
    | intro _
    | (extract_lets -merge +onlyGivenNames t_
       first
       | (refine canon_cut (s := t_) ?_ (fun h_ => ?_) <;> [subst t_; clear_value t_])
       | clear_value t_)
    | (simp only [canon_parts]; with_reducible first | exact parts_of (by assumption) | apply parts_of)
    | with_reducible first | apply canon_putB | apply canon_timer | apply canon_recordErr | apply canon_setFault | apply canon_withRx | apply canon_setRxState | apply canon_cutFrame | apply canon_rxEnds | apply canon_fallBack | apply canon_ite | apply canon_when
    | split
    | dsimp -zeta only)

theorem canon_tapOpen {s : State} (n : Nat) (h_s : s.Canon) : (State.tapOpen s n).Canon := by
  unfold State.tapOpen
  repeat' (first
    | with_reducible assumption
    | intro _
    | (simp only [canon_parts]; with_reducible first | exact parts_of (by assumption) | apply parts_of)
    | with_reducible apply canon_withRx
    | dsimp -zeta only)

theorem canon_rxServe {s : State} (h_s : s.Canon) : (State.rxServe s).Canon := by
  unfold State.rxServe
  repeat' (first
    | with_reducible assumption
    | intro _
    | (extract_lets -merge +onlyGivenNames t_
       first
       | (refine canon_cut (s := t_) ?_ (fun h_ => ?_) <;> [subst t_; clear_value t_])
       | clear_value t_)
    | (simp only [canon_parts]; with_reducible first | exact parts_of (by assumption) | apply parts_of)
    | with_reducible first | apply canon_put | apply canon_putB | apply canon_timer | apply canon_withRx | apply canon_rxPutHw | apply canon_setGain | apply canon_ite
    | split
    | dsimp -zeta only)

theorem canon_rxReady {s : State} (h_s : s.Canon) : (State.rxReady s).Canon := by
  unfold State.rxReady
  repeat' (first
    | with_reducible assumption
    | intro _
    | (extract_lets -merge +onlyGivenNames t_
       first
       | (refine canon_cut (s := t_) ?_ (fun h_ => ?_) <;> [subst t_; clear_value t_])
       | clear_value t_)
    | (simp only [canon_parts]; with_reducible first | exact parts_of (by assumption) | apply parts_of)
    | with_reducible first | apply canon_putB | apply canon_recordErr | apply canon_flag | apply canon_present | apply canon_withRx | apply canon_rxListen | apply canon_rxRest | apply canon_ite | apply canon_when
    | split
    | dsimp -zeta only)

theorem canon_effTapReadbackFault (n : Nat) {s : State} (h_s : s.Canon) : (effTapReadbackFault n s).Canon := by
  unfold effTapReadbackFault
  repeat' (first
    | with_reducible first | assumption | apply canon_rxFault | apply canon_ite
    | split
    | dsimp -zeta only)

theorem canon_effRxcControlMismatch (n : Nat) {s : State} (h_s : s.Canon) : (effRxcControlMismatch n s).Canon := by
  unfold effRxcControlMismatch
  repeat' (first
    | with_reducible first | assumption | apply canon_rxFault | apply canon_ite
    | split
    | dsimp -zeta only)

theorem canon_effCheckToneBlock (n amp phase : Nat) {s : State} (h_s : s.Canon) : (effCheckToneBlock n amp phase s).Canon := by
  unfold effCheckToneBlock
  repeat' (first
    | with_reducible assumption
    | intro _
    | (extract_lets -merge +onlyGivenNames t_
       first
       | (refine canon_cut (s := t_) ?_ (fun h_ => ?_) <;> [subst t_; clear_value t_])
       | clear_value t_)
    | (simp only [canon_parts]; with_reducible first | exact parts_of (by assumption) | apply parts_of)
    | with_reducible first | apply canon_put | apply canon_withRx | apply canon_rxFault | apply canon_ite
    | split
    | dsimp -zeta only)

theorem canon_effAgcBlock (n : Nat) (samples : List Nat) {s : State} (h_s : s.Canon) : (effAgcBlock n samples s).Canon := by
  unfold effAgcBlock
  repeat' (first
    | with_reducible assumption
    | intro _
    | (extract_lets -merge +onlyGivenNames t_
       first
       | (refine canon_cut (s := t_) ?_ (fun h_ => ?_) <;> [subst t_; clear_value t_])
       | clear_value t_)
    | (simp only [canon_parts]; with_reducible first | exact parts_of (by assumption) | apply parts_of)
    | with_reducible first | apply canon_withRx | apply canon_showNoise | apply canon_setGain | apply canon_ite
    | split
    | dsimp -zeta only)

theorem canon_effPreambleDetect (n : Nat) (samples : List Nat) {s : State} (h_s : s.Canon) : (effPreambleDetect n samples s).Canon := by
  unfold effPreambleDetect
  repeat' (first
    | with_reducible assumption
    | intro _
    | (extract_lets -merge +onlyGivenNames t_
       first
       | (refine canon_cut (s := t_) ?_ (fun h_ => ?_) <;> [subst t_; clear_value t_])
       | clear_value t_)
    | (simp only [canon_parts]; with_reducible first | exact parts_of (by assumption) | apply parts_of)
    | with_reducible first | apply canon_put | apply canon_flag | apply canon_present | apply canon_withRx | apply canon_trigger | apply canon_setGain | apply canon_setRxState | apply canon_ite
    | split
    | dsimp -zeta only)

theorem canon_effFineTimingDecision (n : Nat) (samples : List Nat) {s : State} (h_s : s.Canon) : (effFineTimingDecision n samples s).Canon := by
  unfold effFineTimingDecision
  repeat' (first
    | with_reducible assumption
    | intro _
    | (extract_lets -merge +onlyGivenNames t_
       first
       | (refine canon_cut (s := t_) ?_ (fun h_ => ?_) <;> [subst t_; clear_value t_])
       | (refine canon_cut (s := t_.2.2) ?_ (fun h_ => ?_) <;> [subst t_; clear_value t_])
       | (refine canon_cut (s := t_.2) ?_ (fun h_ => ?_) <;> [subst t_; clear_value t_])
       | clear_value t_)
    | (simp only [canon_parts]; with_reducible first | exact parts_of (by assumption) | apply parts_of)
    | with_reducible first | apply canon_inc | apply canon_resched | apply canon_recordErr | apply canon_flag | apply canon_withRx | apply canon_startAngle | apply canon_setRxState | apply canon_showLevel | apply canon_ite
    | split
    | dsimp -zeta only)

theorem canon_effCaptureWatchFire (n : Nat) (samples : List Nat) {s : State} (h_s : s.Canon) : (effCaptureWatchFire n samples s).Canon := by
  unfold effCaptureWatchFire
  repeat' (first
    | with_reducible assumption
    | intro _
    | (extract_lets -merge +onlyGivenNames t_
       first
       | (refine canon_cut (s := t_) ?_ (fun h_ => ?_) <;> [subst t_; clear_value t_])
       | (refine canon_cutF (f := t_) ?_ (fun h_ => ?_) <;> [subst t_; clear_value t_])
       | (refine canon_cutG (f := t_) ?_ (fun h_ => ?_) <;> [subst t_; clear_value t_])
       | skip)
    | (simp only [canon_parts]; with_reducible first | exact parts_of (by assumption) | apply parts_of)
    | with_reducible first | refine canonF_use (by assumption) ?_ | refine canonG_use (by assumption) ?_ | apply canon_put | apply canon_inc | apply canon_flag | apply canon_withRx | apply canon_withEng | apply canon_setGain | apply canon_setRxState | apply canon_frameEnds | apply canon_ite
    | split
    | dsimp -zeta only)

theorem canon_effRxc16Assign (v : Nat) {s : State} (h_s : s.Canon) : (effRxc16Assign v s).Canon := by
  unfold effRxc16Assign
  repeat' (first
    | with_reducible assumption
    | intro _
    | (extract_lets -merge +onlyGivenNames t_
       first
       | (refine canon_cut (s := t_) ?_ (fun h_ => ?_) <;> [subst t_; clear_value t_])
       | clear_value t_)
    | (simp only [canon_parts]; with_reducible first | exact parts_of (by assumption) | apply parts_of)
    | with_reducible first | apply canon_put | apply canon_putB | apply canon_recordErr | apply canon_withRx | apply canon_rxRest | apply canon_ite
    | split
    | dsimp -zeta only)

theorem canon_effRxc16Release {s : State} (h_s : s.Canon) : (effRxc16Release s).Canon := by
  unfold effRxc16Release
  repeat' (first
    | with_reducible assumption
    | intro _
    | (simp only [canon_parts]; with_reducible first | exact parts_of (by assumption) | apply parts_of)
    | with_reducible first | apply canon_withRx | apply canon_releaseRx16 | apply canon_ite
    | split
    | dsimp -zeta only)

theorem canon_rxEnable {s : State} (n : Nat) (h_s : s.Canon) : (State.rxEnable s n).Canon := by
  unfold State.rxEnable
  repeat' (first
    | with_reducible assumption
    | intro _
    | (simp only [canon_parts]; with_reducible first | exact parts_of (by assumption) | apply parts_of)
    | with_reducible first | apply canon_withRx | apply canon_retap
    | dsimp -zeta only)

theorem canon_disableRx {s : State} (n : Nat) (h_s : s.Canon) : (State.disableRx s n).Canon := by
  unfold State.disableRx
  repeat' (first
    | with_reducible assumption
    | intro _
    | (extract_lets -merge +onlyGivenNames t_
       first
       | (refine canon_cut (s := t_) ?_ (fun h_ => ?_) <;> [subst t_; clear_value t_])
       | clear_value t_)
    | (simp only [canon_parts]; with_reducible first | exact parts_of (by assumption) | apply parts_of)
    | with_reducible first | apply canon_untimer | apply canon_withRx | apply canon_capUnseen | apply canon_capStop | apply canon_capArm | apply canon_releaseRx16 | apply canon_rxEnds | apply canon_ite | apply canon_when
    | split
    | dsimp -zeta only)

end Sys2Proof.Machine
end

