-- ==== Sys2Proof/Laws/CanonXmp.lean ====
section
/-! SUPPORT. The functions of Machine/Xmp.lean keep the canonical form. -/

namespace Sys2Proof.Machine

open Sys2Proof

set_option linter.all false

theorem canon_withXmp {s : State} (f : Xmp → Xmp) (h_s : s.Canon) : (State.withXmp s f).Canon := by
  unfold State.withXmp
  repeat' (first
    | with_reducible assumption
    | (simp only [canon_parts]; with_reducible first | exact parts_of (by assumption) | apply parts_of)
    | dsimp -zeta only)

theorem canon_xmpRange {s : State} (h_s : s.Canon) : (State.xmpRange s).Canon := by
  unfold State.xmpRange
  repeat' (first
    | with_reducible first | assumption | apply canon_recordErr | apply canon_flag
    | dsimp -zeta only)

theorem canon_xmpShow {s : State} (h_s : s.Canon) : (State.xmpShow s).Canon := by
  unfold State.xmpShow
  repeat' (first
    | with_reducible assumption
    | intro _
    | (extract_lets -merge +onlyGivenNames t_
       first
       | (refine canon_cut (s := t_) ?_ (fun h_ => ?_) <;> [subst t_; clear_value t_])
       | clear_value t_)
    | (simp only [canon_parts]; with_reducible first | exact parts_of (by assumption) | apply parts_of)
    | with_reducible first | apply canon_put | apply canon_putB | apply canon_ite
    | split
    | dsimp -zeta only)

theorem canon_xmpWant {s : State} (lines : List Nat) (prefetch : Bool) (h_s : s.Canon) : (State.xmpWant s lines prefetch).Canon := by
  unfold State.xmpWant
  repeat' (first
    | with_reducible assumption
    | intro _
    | (extract_lets -merge +onlyGivenNames t_
       first
       | (refine canon_cut (s := t_) ?_ (fun h_ => ?_) <;> [subst t_; clear_value t_])
       | (refine canon_cutF (f := t_) ?_ (fun h_ => ?_) <;> [subst t_; clear_value t_])
       | (refine canon_cutG (f := t_) ?_ (fun h_ => ?_) <;> [subst t_; clear_value t_])
       | clear_value t_)
    | (simp only [canon_parts]; with_reducible first | exact parts_of (by assumption) | apply parts_of)
    | with_reducible first | refine canonF_use (by assumption) ?_ | refine canonG_use (by assumption) ?_ | apply canon_withXmp | apply canon_xmpShow | apply canon_ite | apply canon_foldl | apply canon_foldl1 | apply canon_foldl2 | apply canon_foldl22
    | split
    | dsimp -zeta only)

theorem canon_xmpWait {s : State} (lines : List Nat) (again : Instr) (h_s : s.Canon) : (State.xmpWait s lines again).Canon := by
  unfold State.xmpWait
  repeat' (first
    | with_reducible assumption
    | intro _
    | (simp only [canon_parts]; with_reducible first | exact parts_of (by assumption) | apply parts_of)
    | with_reducible first | apply canon_withXmp | apply canon_xmpWant
    | dsimp -zeta only)

theorem canon_poisonedWord {s : State} (h_s : s.Canon) : (State.poisonedWord s).2.2.Canon := by
  unfold State.poisonedWord
  repeat' (first
    | with_reducible first | assumption | apply canon_nextFree
    | dsimp -zeta only)

theorem canon_winWord {s : State} (off : Nat) (h_s : s.Canon) : CanonS (State.winWord s off) := by
  unfold State.winWord
  repeat' (first
    | with_reducible first | assumption | exact canonS_inl _ | apply canonS_inr | apply canonS_ite
    | (extract_lets -merge +onlyGivenNames t_
       first
       | (refine canon_cut (s := t_) ?_ (fun h_ => ?_) <;> [subst t_; clear_value t_])
       | clear_value t_)
    | with_reducible first | apply canon_withXmp | apply canon_xmpRange | apply canon_poisonedWord | apply canon_ite | apply canon_foldl | apply canon_foldl1 | apply canon_foldl2 | apply canon_foldl22
    | split
    | intro _
    | dsimp -zeta only)

theorem canon_gather {s : State} (c addr : Nat) (again : Instr) (n : Nat) (h : s.Canon) : (State.gather s c addr again n).2.Canon := by
  induction n with
  | zero => exact h
  | succ k ih =>
    unfold State.gather
    split
    · rename_i s' he
      have hs : s'.Canon := canonP_use ih he
      split
      · extract_lets a keep
        have hk : ∀ (v : Nat) (p : Bool) (t : State), t.Canon → (keep v p t).Canon := fun v p t ht => canon_withCtx _ _ ht
        clear_value keep
        split
        · exact hk _ _ _ (canon_memRead _ hs)
        · split
          · split
            · exact canon_xmpWait _ _ hs
            · rename_i hr
              exact hk _ _ _ ((canon_winWord _ hs).all _ hr)
          · exact hs
      · exact hs
    · exact ih

theorem canon_xmpPrefetch {s : State} (addr : Nat) (h_s : s.Canon) : (State.xmpPrefetch s addr).Canon := by
  unfold State.xmpPrefetch
  repeat' (first
    | with_reducible assumption
    | intro _
    | (extract_lets -merge +onlyGivenNames t_
       first
       | (refine canon_cut (s := t_) ?_ (fun h_ => ?_) <;> [subst t_; clear_value t_])
       | clear_value t_)
    | with_reducible first | apply canon_xmpWant | apply canon_ite
    | split
    | dsimp -zeta only)

theorem canon_deliverLine {s : State} (line : Nat) (data : Option (List Nat)) (h_s : s.Canon) : (State.deliverLine s line data).Canon := by
  unfold State.deliverLine
  repeat' (first
    | with_reducible assumption
    | intro _
    | (extract_lets -merge +onlyGivenNames t_
       first
       | (refine canon_cut (s := t_) ?_ (fun h_ => ?_) <;> [subst t_; clear_value t_])
       | (refine canon_cut (s := t_.2) ?_ (fun h_ => ?_) <;> [subst t_; clear_value t_])
       | clear_value t_)
    | (simp only [canon_parts]; with_reducible first | exact parts_of (by assumption) | apply parts_of)
    | with_reducible first | apply canon_sched | apply canon_withXmp | apply canon_forEach
    | dsimp -zeta only)

theorem canon_lineFailed {s : State} (line : Nat) (h_s : s.Canon) : (State.lineFailed s line).Canon := by
  unfold State.lineFailed
  repeat' (first
    | with_reducible assumption
    | intro _
    | (extract_lets -merge +onlyGivenNames t_
       first
       | (refine canon_cut (s := t_) ?_ (fun h_ => ?_) <;> [subst t_; clear_value t_])
       | (refine canon_cut (s := t_.2) ?_ (fun h_ => ?_) <;> [subst t_; clear_value t_])
       | clear_value t_)
    | with_reducible first | apply canon_inc | apply canon_recordErr | apply canon_flag | apply canon_deliverLine | apply canon_when
    | dsimp -zeta only)

theorem canon_effLineFetch (line : Nat) (data : List Nat) (ok : Bool) {s : State} (h_s : s.Canon) : (effLineFetch line data ok s).Canon := by
  unfold effLineFetch
  repeat' (first
    | with_reducible assumption
    | intro _
    | (extract_lets -merge +onlyGivenNames t_
       first
       | (refine canon_cut (s := t_) ?_ (fun h_ => ?_) <;> [subst t_; clear_value t_])
       | clear_value t_)
    | (simp only [canon_parts]; with_reducible first | exact parts_of (by assumption) | apply parts_of)
    | with_reducible first | apply canon_withXmp | apply canon_xmpShow | apply canon_deliverLine | apply canon_lineFailed | apply canon_ite
    | split
    | dsimp -zeta only)

theorem canon_xmpStart {s : State} (h_s : s.Canon) : (State.xmpStart s).Canon := by
  unfold State.xmpStart
  repeat' (first
    | with_reducible assumption
    | intro _
    | (extract_lets -merge +onlyGivenNames t_
       first
       | (refine canon_cut (s := t_) ?_ (fun h_ => ?_) <;> [subst t_; clear_value t_])
       | (refine canon_cut (s := t_.2) ?_ (fun h_ => ?_) <;> [subst t_; clear_value t_])
       | clear_value t_)
    | (simp only [canon_parts]; with_reducible first | exact parts_of (by assumption) | apply parts_of)
    | with_reducible first | apply canon_withXmp | apply canon_xmpShow | apply canon_ite | apply canon_foldl | apply canon_foldl1 | apply canon_foldl2 | apply canon_foldl22
    | split
    | dsimp -zeta only)

theorem canon_xmpStore {s : State} (c off : Nat) (ws : List (Nat × Bool)) (h_s : s.Canon) : (State.xmpStore s c off ws).Canon := by
  unfold State.xmpStore
  repeat' (first
    | with_reducible assumption
    | intro _
    | (extract_lets -merge +onlyGivenNames t_
       first
       | (refine canon_cut (s := t_) ?_ (fun h_ => ?_) <;> [subst t_; clear_value t_])
       | (refine canon_cut (s := t_.2.2) ?_ (fun h_ => ?_) <;> [subst t_; clear_value t_])
       | (refine canon_cut (s := t_.2) ?_ (fun h_ => ?_) <;> [subst t_; clear_value t_])
       | clear_value t_)
    | (simp only [canon_parts]; with_reducible first | exact parts_of (by assumption) | apply parts_of)
    | with_reducible first | apply canon_recordErr | apply canon_flag | apply canon_withXmp | apply canon_xmpRange | apply canon_xmpStart | apply canon_ite | apply canon_forEach
    | split
    | dsimp -zeta only)

theorem canon_xmpPost {s : State} (owner off : Nat) (bytes : List Nat) (h_s : s.Canon) : (State.xmpPost s owner off bytes).2.Canon := by
  unfold State.xmpPost
  repeat' (first
    | with_reducible assumption
    | intro _
    | (extract_lets -merge +onlyGivenNames t_
       first
       | (refine canon_cut (s := t_) ?_ (fun h_ => ?_) <;> [subst t_; clear_value t_])
       | clear_value t_)
    | (simp only [canon_parts]; with_reducible first | exact parts_of (by assumption) | apply parts_of)
    | with_reducible first | apply canon_recordErr | apply canon_flag | apply canon_withXmp | apply canon_xmpRange | apply canon_xmpStart | apply canon_ite
    | split
    | dsimp -zeta only)

theorem canon_xmpOwnerDone {s : State} (owner : Nat) (h_s : s.Canon) : (State.xmpOwnerDone s owner).Canon := by
  unfold State.xmpOwnerDone
  repeat' (first
    | with_reducible assumption
    | intro _
    | with_reducible first | apply canon_endMove | apply canon_ite
    | split
    | dsimp -zeta only)

theorem canon_xmpForget {s : State} (o : XmpOp) (h_s : s.Canon) : (State.xmpForget s o).Canon := by
  unfold State.xmpForget
  repeat' (first
    | with_reducible assumption
    | intro _
    | (simp only [canon_parts]; with_reducible first | exact parts_of (by assumption) | apply parts_of)
    | with_reducible apply canon_withXmp
    | dsimp -zeta only)

theorem canon_programDone {s : State} (o : XmpOp) (ok : Bool) (h_s : s.Canon) : (State.programDone s o ok).Canon := by
  unfold State.programDone
  repeat' (first
    | with_reducible assumption
    | intro _
    | (extract_lets -merge +onlyGivenNames t_
       first
       | (refine canon_cut (s := t_) ?_ (fun h_ => ?_) <;> [subst t_; clear_value t_])
       | clear_value t_)
    | (simp only [canon_parts]; with_reducible first | exact parts_of (by assumption) | apply parts_of)
    | with_reducible first | apply canon_inc | apply canon_sched | apply canon_recordErr | apply canon_flag | apply canon_withXmp | apply canon_xmpStart | apply canon_xmpOwnerDone | apply canon_xmpForget | apply canon_when
    | dsimp -zeta only)

theorem canon_effPageProgram (dev : Nat) (ok : Bool) {s : State} (h_s : s.Canon) : (effPageProgram dev ok s).Canon := by
  unfold effPageProgram
  repeat' (first
    | with_reducible assumption
    | intro _
    | (simp only [canon_parts]; with_reducible first | exact parts_of (by assumption) | apply parts_of)
    | with_reducible first | apply canon_programDone | apply canon_ite
    | split
    | dsimp -zeta only)

theorem canon_eraseDone {s : State} (o : XmpOp) (ok : Bool) (h_s : s.Canon) : (State.eraseDone s o ok).Canon := by
  unfold State.eraseDone
  repeat' (first
    | with_reducible assumption
    | intro _
    | (extract_lets -merge +onlyGivenNames t_
       first
       | (refine canon_cut (s := t_) ?_ (fun h_ => ?_) <;> [subst t_; clear_value t_])
       | clear_value t_)
    | (simp only [canon_parts]; with_reducible first | exact parts_of (by assumption) | apply parts_of)
    | with_reducible first | apply canon_inc | apply canon_sched | apply canon_recordErr | apply canon_flag | apply canon_withXmp | apply canon_xmpStart | apply canon_xmpForget | apply canon_ite | apply canon_when
    | split
    | dsimp -zeta only)

theorem canon_effEraseComplete (dev : Nat) (ok : Bool) {s : State} (h_s : s.Canon) : (effEraseComplete dev ok s).Canon := by
  unfold effEraseComplete
  repeat' (first
    | with_reducible assumption
    | intro _
    | (simp only [canon_parts]; with_reducible first | exact parts_of (by assumption) | apply parts_of)
    | with_reducible first | apply canon_eraseDone | apply canon_ite
    | split
    | dsimp -zeta only)

theorem canon_xmpEraseQ {s : State} (t off owner : Nat) (h_s : s.Canon) : (State.xmpEraseQ s t off owner).2.Canon := by
  unfold State.xmpEraseQ
  repeat' (first
    | with_reducible assumption
    | intro _
    | (extract_lets -merge +onlyGivenNames t_
       first
       | (refine canon_cut (s := t_) ?_ (fun h_ => ?_) <;> [subst t_; clear_value t_])
       | clear_value t_)
    | (simp only [canon_parts]; with_reducible first | exact parts_of (by assumption) | apply parts_of)
    | with_reducible first | apply canon_recordErr | apply canon_flag | apply canon_withXmp | apply canon_xmpRange | apply canon_xmpStart | apply canon_ite | apply canon_when
    | split
    | dsimp -zeta only)

theorem canon_effXmpErase {s : State} (h_s : s.Canon) : (effXmpErase s).Canon := by
  unfold effXmpErase
  repeat' (first
    | with_reducible first | assumption | apply canon_xmpEraseQ | apply canon_ite | refine canonP_use ?_ (by assumption)
    | split
    | dsimp -zeta only)

theorem canon_xmpDiscard {s : State} (h_s : s.Canon) : (State.xmpDiscard s).Canon := by
  unfold State.xmpDiscard
  repeat' (first
    | with_reducible assumption
    | intro _
    | (extract_lets -merge +onlyGivenNames t_
       first
       | (refine canon_cut (s := t_) ?_ (fun h_ => ?_) <;> [subst t_; clear_value t_])
       | clear_value t_)
    | (simp only [canon_parts]; with_reducible first | exact parts_of (by assumption) | apply parts_of)
    | with_reducible first | apply canon_sched | apply canon_recordErr | apply canon_flag | apply canon_withXmp | apply canon_xmpShow | apply canon_xmpOwnerDone | apply canon_ite | apply canon_forEach
    | split
    | dsimp -zeta only)

theorem canon_disableXmp {s : State} (h_s : s.Canon) : (State.disableXmp s).Canon := by
  unfold State.disableXmp
  repeat' (first
    | with_reducible assumption
    | intro _
    | (extract_lets -merge +onlyGivenNames t_
       first
       | (refine canon_cut (s := t_) ?_ (fun h_ => ?_) <;> [subst t_; clear_value t_])
       | clear_value t_)
    | (simp only [canon_parts]; with_reducible first | exact parts_of (by assumption) | apply parts_of)
    | with_reducible first | apply canon_putB | apply canon_withXmp | apply canon_xmpShow | apply canon_deliverLine | apply canon_xmpDiscard | apply canon_forEach
    | dsimp -zeta only)

theorem canon_effXmpDiscovery {s : State} (h_s : s.Canon) : (effXmpDiscovery s).Canon := by
  unfold effXmpDiscovery
  repeat' (first
    | with_reducible assumption
    | intro _
    | (extract_lets -merge +onlyGivenNames t_
       first
       | (refine canon_cut (s := t_) ?_ (fun h_ => ?_) <;> [subst t_; clear_value t_])
       | clear_value t_)
    | (simp only [canon_parts]; with_reducible first | exact parts_of (by assumption) | apply parts_of)
    | with_reducible first | apply canon_putB | apply canon_retimer | apply canon_withXmp | apply canon_xmpShow | apply canon_ite
    | split
    | dsimp -zeta only)

theorem canon_takeDev {s : State} (d : Nat) (f : FlashDev) (h_s : s.Canon) : (State.takeDev s d f).Canon := by
  unfold State.takeDev
  repeat' (first
    | with_reducible assumption
    | intro _
    | (extract_lets -merge +onlyGivenNames t_
       first
       | (refine canon_cut (s := t_) ?_ (fun h_ => ?_) <;> [subst t_; clear_value t_])
       | (refine canon_cut (s := t_.2) ?_ (fun h_ => ?_) <;> [subst t_; clear_value t_])
       | clear_value t_)
    | (simp only [canon_parts]; with_reducible first | exact parts_of (by assumption) | apply parts_of)
    | with_reducible first | apply canon_setReg | apply canon_put | apply canon_putB | apply canon_recordErr | apply canon_flag | apply canon_withXmp | apply canon_ite | apply canon_when | apply canon_forEach | apply canon_foldl | apply canon_foldl1 | apply canon_foldl2 | apply canon_foldl22
    | split
    | dsimp -zeta only)

theorem canon_effDiscoveryEnd (devs : List FlashDev) {s : State} (h_s : s.Canon) : (effDiscoveryEnd devs s).Canon := by
  unfold effDiscoveryEnd
  repeat' (first
    | with_reducible assumption
    | intro _
    | (extract_lets -merge +onlyGivenNames t_
       first
       | (refine canon_cut (s := t_) ?_ (fun h_ => ?_) <;> [subst t_; clear_value t_])
       | clear_value t_)
    | (simp only [canon_parts]; with_reducible first | exact parts_of (by assumption) | apply parts_of)
    | with_reducible first | apply canon_putB | apply canon_flag | apply canon_withXmp | apply canon_xmpShow | apply canon_takeDev | apply canon_ite
    | split
    | dsimp -zeta only)

theorem canon_effXmpWindowRead (k : Nat) {s : State} (h_s : s.Canon) : (effXmpWindowRead k s).Canon := by
  unfold effXmpWindowRead
  repeat' (first
    | with_reducible assumption
    | (simp only [canon_parts]; with_reducible first | exact parts_of (by assumption) | apply parts_of)
    | with_reducible first | apply canon_putBit | apply canon_xmpWait | apply canon_winWord | apply canon_ite | refine canonS_use' ?_ (by assumption)
    | split
    | dsimp -zeta only)

theorem canon_xmpWinWrite {s : State} (k v : Nat) (poison : Bool) (h_s : s.Canon) : (State.xmpWinWrite s k v poison).Canon := by
  unfold State.xmpWinWrite
  repeat' (first
    | with_reducible first | assumption | apply canon_recordErr | apply canon_flag | apply canon_xmpPost | apply canon_ite | refine canonP_use ?_ (by assumption)
    | split
    | dsimp -zeta only)

theorem canon_effXmpWindowWrite (k v : Nat) {s : State} (h_s : s.Canon) : (effXmpWindowWrite k v s).Canon := by
  unfold effXmpWindowWrite
  repeat' (first
    | with_reducible first | assumption | apply canon_xmpWinWrite | apply canon_ite
    | split
    | dsimp -zeta only)

theorem canon_effXmpMismatch {s : State} (h_s : s.Canon) : (effXmpMismatch s).Canon := by
  unfold effXmpMismatch
  repeat' (first
    | with_reducible assumption
    | intro _
    | (extract_lets -merge +onlyGivenNames t_
       first
       | (refine canon_cut (s := t_) ?_ (fun h_ => ?_) <;> [subst t_; clear_value t_])
       | clear_value t_)
    | (simp only [canon_parts]; with_reducible first | exact parts_of (by assumption) | apply parts_of)
    | with_reducible first | apply canon_setFault | apply canon_withXmp | apply canon_xmpShow | apply canon_lineFailed | apply canon_programDone | apply canon_eraseDone | apply canon_ite
    | split
    | dsimp -zeta only)

end Sys2Proof.Machine
end

