-- ==== Sys2Proof/Laws/CanonPrt.lean ====
section
/-! SUPPORT. The functions of Machine/Prt.lean keep the canonical form. -/

namespace Sys2Proof.Machine

open Sys2Proof

set_option linter.all false

theorem canon_engBusy {s : State} (w : Nat) (b : Bool) (h_s : s.Canon) : (State.engBusy s w b).Canon := by
  unfold State.engBusy
  repeat' (first
    | with_reducible first | assumption | apply canon_putB | apply canon_putBit
    | dsimp -zeta only)

theorem canon_laneBusy {s : State} (w : Nat) (b : Bool) (h_s : s.Canon) : (State.laneBusy s w b).Canon := by
  unfold State.laneBusy
  repeat' (first
    | with_reducible first | assumption | apply canon_putBit
    | dsimp -zeta only)

theorem canon_engStart {s : State} (w u : Nat) (p : Prog) (h_s : s.Canon) : (State.engStart s w u p).Canon := by
  unfold State.engStart
  repeat' (first
    | with_reducible assumption
    | intro _
    | (extract_lets -merge +onlyGivenNames t_
       first
       | (refine canon_cut (s := t_) ?_ (fun h_ => ?_) <;> [subst t_; clear_value t_])
       | clear_value t_)
    | (simp only [canon_parts]; with_reducible first | exact parts_of (by assumption) | apply parts_of)
    | with_reducible first | apply canon_withEng | apply canon_engBusy
    | dsimp -zeta only)

theorem canon_engStartRx {s : State} (w u : Nat) (p : Prog) (n : Nat) (h_s : s.Canon) : (State.engStartRx s w u p n).Canon := by
  unfold State.engStartRx
  repeat' (first
    | with_reducible assumption
    | intro _
    | (simp only [canon_parts]; with_reducible first | exact parts_of (by assumption) | apply parts_of)
    | with_reducible first | apply canon_withEng | apply canon_rxTake | apply canon_engStart
    | dsimp -zeta only)

theorem canon_frameCut {s : State} (w : Nat) (h_s : s.Canon) : (State.frameCut s w).Canon := by
  unfold State.frameCut
  repeat' (first
    | with_reducible assumption
    | intro _
    | (extract_lets -merge +onlyGivenNames t_
       first
       | (refine canon_cut (s := t_) ?_ (fun h_ => ?_) <;> [subst t_; clear_value t_])
       | clear_value t_)
    | (simp only [canon_parts]; with_reducible first | exact parts_of (by assumption) | apply parts_of)
    | with_reducible first | apply canon_untimer | apply canon_withEng | apply canon_modEnd | apply canon_when
    | dsimp -zeta only)

theorem canon_engEnd {s : State} (w st : Nat) (h_s : s.Canon) : (State.engEnd s w st).Canon := by
  unfold State.engEnd
  repeat' (first
    | with_reducible assumption
    | intro _
    | (extract_lets -merge +onlyGivenNames t_
       first
       | (refine canon_cut (s := t_) ?_ (fun h_ => ?_) <;> [subst t_; clear_value t_])
       | clear_value t_)
    | (simp only [canon_parts]; with_reducible first | exact parts_of (by assumption) | apply parts_of)
    | with_reducible first | apply canon_unsched | apply canon_endMove | apply canon_withEng | apply canon_rxFree | apply canon_engBusy | apply canon_laneBusy | apply canon_frameCut
    | split
    | dsimp -zeta only)

theorem canon_badTap {s : State} (n p : Nat) (h_s : s.Canon) : (State.badTap s n p).Canon := by
  unfold State.badTap
  repeat' (first
    | with_reducible assumption
    | intro _
    | with_reducible first | apply canon_recordErr | apply canon_when
    | dsimp -zeta only)

theorem canon_openRx {s : State} (w role : Nat) (fixed : Option Nat) (h_s : s.Canon) : (State.openRx s w role fixed).2.2.Canon := by
  unfold State.openRx
  repeat' (first
    | with_reducible assumption
    | intro _
    | (simp only [canon_parts]; with_reducible first | exact parts_of (by assumption) | apply parts_of)
    | with_reducible first | apply canon_withRx | apply canon_selectTap | apply canon_roleFail | apply canon_badTap | apply canon_ite
    | split
    | dsimp -zeta only)

theorem canon_waitFor {s : State} (w cc : Nat) (h_s : s.Canon) : (State.waitFor s w cc).Canon := by
  unfold State.waitFor
  repeat' (first
    | with_reducible assumption
    | intro _
    | (simp only [canon_parts]; with_reducible first | exact parts_of (by assumption) | apply parts_of)
    | with_reducible first | apply canon_resched | apply canon_withEng
    | dsimp -zeta only)

theorem canon_awaitLegacy {s : State} (w : Nat) (h_s : s.Canon) : (State.awaitLegacy s w).Canon := by
  unfold State.awaitLegacy
  repeat' (first
    | with_reducible assumption
    | intro _
    | (extract_lets -merge +onlyGivenNames t_
       first
       | (refine canon_cut (s := t_) ?_ (fun h_ => ?_) <;> [subst t_; clear_value t_])
       | clear_value t_)
    | (simp only [canon_parts]; with_reducible first | exact parts_of (by assumption) | apply parts_of)
    | with_reducible first | apply canon_withEng | apply canon_rxListen | apply canon_waitFor
    | dsimp -zeta only)

theorem canon_handOn {s : State} (w : Nat) (f : TxFrame) (hear : Nat) (h_s : s.Canon) : (State.handOn s w f hear).Canon := by
  unfold State.handOn
  repeat' (first
    | with_reducible assumption
    | intro _
    | (extract_lets -merge +onlyGivenNames t_
       first
       | (refine canon_cut (s := t_) ?_ (fun h_ => ?_) <;> [subst t_; clear_value t_])
       | clear_value t_)
    | (simp only [canon_parts]; with_reducible first | exact parts_of (by assumption) | apply parts_of)
    | with_reducible first | apply canon_retimer | apply canon_withEng
    | dsimp -zeta only)

theorem canon_sendFrame {s : State} (w : Nat) (f : TxFrame) (h_s : s.Canon) : (State.sendFrame s w f).Canon := by
  unfold State.sendFrame
  repeat' (first
    | with_reducible first | assumption | apply canon_handOn
    | dsimp -zeta only)

theorem canon_frameStart {s : State} (w : Nat) (h_s : s.Canon) : (State.frameStart s w).Canon := by
  unfold State.frameStart
  repeat' (first
    | with_reducible assumption
    | intro _
    | (extract_lets -merge +onlyGivenNames t_
       first
       | (refine canon_cut (s := t_) ?_ (fun h_ => ?_) <;> [subst t_; clear_value t_])
       | clear_value t_)
    | (simp only [canon_parts]; with_reducible first | exact parts_of (by assumption) | apply parts_of)
    | with_reducible first | apply canon_put | apply canon_timer | apply canon_withEng | apply canon_modBegin | apply canon_ite
    | split
    | dsimp -zeta only)

theorem canon_frameEnd {s : State} (w : Nat) (h_s : s.Canon) : (State.frameEnd s w).Canon := by
  unfold State.frameEnd
  repeat' (first
    | with_reducible assumption
    | intro _
    | (extract_lets -merge +onlyGivenNames t_
       first
       | (refine canon_cut (s := t_) ?_ (fun h_ => ?_) <;> [subst t_; clear_value t_])
       | clear_value t_)
    | (simp only [canon_parts]; with_reducible first | exact parts_of (by assumption) | apply parts_of)
    | with_reducible first | apply canon_withEng | apply canon_modEnd
    | dsimp -zeta only)

theorem canon_showReply {s : State} (w : Nat) (r : RxRes) (h_s : s.Canon) : (State.showReply s w r).Canon := by
  unfold State.showReply
  repeat' (first
    | with_reducible assumption
    | intro _
    | (extract_lets -merge +onlyGivenNames t_
       first
       | (refine canon_cut (s := t_) ?_ (fun h_ => ?_) <;> [subst t_; clear_value t_])
       | clear_value t_)
    | (simp only [canon_parts]; with_reducible first | exact parts_of (by assumption) | apply parts_of)
    | with_reducible first | apply canon_put | apply canon_recordErr | apply canon_flag | apply canon_withTx | apply canon_withEng | apply canon_ite | apply canon_when
    | split
    | dsimp -zeta only)

theorem canon_blockReply {s : State} (w : Nat) (r : RxRes) (isW : Bool) (h_s : s.Canon) : (State.blockReply s w r isW).Canon := by
  unfold State.blockReply
  repeat' (first
    | with_reducible assumption
    | intro _
    | (extract_lets -merge +onlyGivenNames t_
       first
       | (refine canon_cut (s := t_) ?_ (fun h_ => ?_) <;> [subst t_; clear_value t_])
       | clear_value t_)
    | (simp only [canon_parts]; with_reducible first | exact parts_of (by assumption) | apply parts_of)
    | with_reducible first | apply canon_put | apply canon_putHw | apply canon_recordErr | apply canon_flag | apply canon_withEng | apply canon_ite
    | split
    | dsimp -zeta only)

theorem canon_atqbFwi {s : State} (w : Nat) (r : RxRes) (h_s : s.Canon) : (State.atqbFwi s w r).Canon := by
  unfold State.atqbFwi
  repeat' (first
    | with_reducible assumption
    | intro _
    | (simp only [canon_parts]; with_reducible first | exact parts_of (by assumption) | apply parts_of)
    | with_reducible first | apply canon_withEng | apply canon_ite
    | split
    | dsimp -zeta only)

theorem canon_writeRecord {s : State} (w : Nat) (ws : List Nat) (h_s : s.Canon) : (State.writeRecord s w ws).Canon := by
  unfold State.writeRecord
  repeat' (first
    | with_reducible assumption
    | (simp only [canon_parts]; with_reducible first | exact parts_of (by assumption) | apply parts_of)
    | with_reducible apply canon_memWrites
    | split
    | dsimp -zeta only)

theorem canon_exchangeEnd {s : State} (w : Nat) (r : RxRes) (h_s : s.Canon) : (State.exchangeEnd s w r).Canon := by
  unfold State.exchangeEnd
  repeat' (first
    | with_reducible assumption
    | (extract_lets -merge +onlyGivenNames t_
       first
       | (refine canon_cut (s := t_) ?_ (fun h_ => ?_) <;> [subst t_; clear_value t_])
       | clear_value t_)
    | with_reducible first | apply canon_present | apply canon_engEnd | apply canon_writeRecord
    | dsimp -zeta only)

theorem canon_outOfService {s : State} (page code ctx port : Nat) (h_s : s.Canon) : (State.outOfService s page code ctx port).Canon := by
  unfold State.outOfService
  repeat' (first
    | with_reducible first | assumption | apply canon_recordErr | apply canon_reportFault
    | dsimp -zeta only)

end Sys2Proof.Machine
end

