-- ==== Sys2Proof/Laws/CanonAnticoll.lean ====
section
/-! SUPPORT. The functions of Machine/Anticoll.lean keep the canonical form. -/

namespace Sys2Proof.Machine

open Sys2Proof

set_option linter.all false

theorem canon_acSend {s : State} (w : Nat) (a : Ac) (f : TxFrame) (h_s : s.Canon) : (State.acSend s w a f).Canon := by
  unfold State.acSend
  repeat' (first
    | with_reducible assumption
    | intro _
    | (simp only [canon_parts]; with_reducible first | exact parts_of (by assumption) | apply parts_of)
    | with_reducible first | apply canon_withEng | apply canon_sendFrame
    | dsimp -zeta only)

theorem canon_acEnd {s : State} (w st : Nat) (h_s : s.Canon) : (State.acEnd s w st).Canon := by
  unfold State.acEnd
  repeat' (first
    | with_reducible assumption
    | (extract_lets -merge +onlyGivenNames t_
       first
       | (refine canon_cut (s := t_) ?_ (fun h_ => ?_) <;> [subst t_; clear_value t_])
       | clear_value t_)
    | with_reducible first | apply canon_flag | apply canon_present | apply canon_engEnd
    | dsimp -zeta only)

theorem canon_acMax {s : State} (w : Nat) (h_s : s.Canon) : (State.acMax s w).Canon := by
  unfold State.acMax
  repeat' (first
    | with_reducible first | assumption | apply canon_recordErr | apply canon_flag | apply canon_acEnd
    | dsimp -zeta only)

theorem canon_acTwice {s : State} (w : Nat) (h_s : s.Canon) : (State.acTwice s w).Canon := by
  unfold State.acTwice
  repeat' (first
    | with_reducible first | assumption | apply canon_recordErr | apply canon_flag | apply canon_acEnd
    | dsimp -zeta only)

theorem canon_acEntry {s : State} (w : Nat) (a : Ac) (uid ws : List Nat) (h_s : s.Canon) : (State.acEntry s w a uid ws).2.Canon := by
  unfold State.acEntry
  repeat' (first
    | with_reducible assumption
    | (extract_lets -merge +onlyGivenNames t_
       first
       | (refine canon_cut (s := t_) ?_ (fun h_ => ?_) <;> [subst t_; clear_value t_])
       | clear_value t_)
    | (simp only [canon_parts]; with_reducible first | exact parts_of (by assumption) | apply parts_of)
    | with_reducible first | apply canon_put | apply canon_memWrites
    | dsimp -zeta only)

theorem canon_acPush {s : State} (a : Ac) (depth : Nat) (b : Branch) (h_s : s.Canon) : (State.acPush s a depth b).2.Canon := by
  unfold State.acPush
  repeat' (first
    | with_reducible assumption
    | (simp only [canon_parts]; with_reducible first | exact parts_of (by assumption) | apply parts_of)
    | with_reducible first | apply canon_recordErr | apply canon_flag | apply canon_ite
    | split
    | dsimp -zeta only)

theorem canon_acNextA {s : State} (w : Nat) (a : Ac) (h_s : s.Canon) : (State.acNextA s w a).Canon := by
  unfold State.acNextA
  repeat' (first
    | with_reducible assumption
    | (simp only [canon_parts]; with_reducible first | exact parts_of (by assumption) | apply parts_of)
    | with_reducible first | apply canon_acSend | apply canon_acEnd | apply canon_ite
    | split
    | dsimp -zeta only)

theorem canon_acWalk {s : State} (w : Nat) (a : Ac) (h_s : s.Canon) : (State.acWalk s w a).Canon := by
  unfold State.acWalk
  repeat' (first
    | with_reducible assumption
    | (simp only [canon_parts]; with_reducible first | exact parts_of (by assumption) | apply parts_of)
    | with_reducible apply canon_acSend
    | split
    | dsimp -zeta only)

theorem canon_acFoundA {s : State} (w : Nat) (a : Ac) (uid : List Nat) (sak : Nat) (r : RxRes) (h_s : s.Canon) : (State.acFoundA s w a uid sak r).Canon := by
  unfold State.acFoundA
  repeat' (first
    | with_reducible assumption
    | (extract_lets -merge +onlyGivenNames t_
       first
       | (refine canon_cut (s := t_) ?_ (fun h_ => ?_) <;> [subst t_; clear_value t_])
       | (refine canon_cut (s := t_.2) ?_ (fun h_ => ?_) <;> [subst t_; clear_value t_])
       | clear_value t_)
    | (simp only [canon_parts]; with_reducible first | exact parts_of (by assumption) | apply parts_of)
    | with_reducible first | apply canon_ledgerTag | apply canon_acSend | apply canon_acEnd | apply canon_acTwice | apply canon_acEntry | apply canon_ite | refine canonP_use ?_ (by assumption)
    | split
    | dsimp -zeta only)

theorem canon_acReplyA {s : State} (w : Nat) (a : Ac) (r : RxRes) (h_s : s.Canon) : (State.acReplyA s w a r).Canon := by
  unfold State.acReplyA
  repeat' (first
    | with_reducible assumption
    | intro _
    | (extract_lets -merge +onlyGivenNames t_
       first
       | (refine canon_cut (s := t_) ?_ (fun h_ => ?_) <;> [subst t_; clear_value t_])
       | (refine canon_cut (s := t_.2) ?_ (fun h_ => ?_) <;> [subst t_; clear_value t_])
       | clear_value t_)
    | (simp only [canon_parts]; with_reducible first | exact parts_of (by assumption) | apply parts_of)
    | with_reducible first | apply canon_put | apply canon_ledgerTag | apply canon_acSend | apply canon_acMax | apply canon_acPush | apply canon_acNextA | apply canon_acWalk | apply canon_acFoundA | apply canon_ite | apply canon_when | refine canonP_use ?_ (by assumption)
    | split
    | dsimp -zeta only)

theorem canon_acNextB {s : State} (w : Nat) (a : Ac) (h_s : s.Canon) : (State.acNextB s w a).Canon := by
  unfold State.acNextB
  repeat' (first
    | with_reducible assumption
    | (simp only [canon_parts]; with_reducible first | exact parts_of (by assumption) | apply parts_of)
    | with_reducible first | apply canon_acSend | apply canon_acEnd | apply canon_ite
    | split
    | dsimp -zeta only)

theorem canon_acSlotB {s : State} (w : Nat) (a : Ac) (h_s : s.Canon) : (State.acSlotB s w a).Canon := by
  unfold State.acSlotB
  repeat' (first
    | with_reducible assumption
    | (simp only [canon_parts]; with_reducible first | exact parts_of (by assumption) | apply parts_of)
    | with_reducible first | apply canon_acSend | apply canon_acNextB | apply canon_ite
    | split
    | dsimp -zeta only)

theorem canon_attribRecord {s : State} (a : Ac) (r : RxRes) (h_s : s.Canon) : (State.attribRecord s a r).Canon := by
  unfold State.attribRecord
  repeat' (first
    | with_reducible assumption
    | (simp only [canon_parts]; with_reducible first | exact parts_of (by assumption) | apply parts_of)
    | with_reducible first | apply canon_memWrites | apply canon_ite
    | split
    | dsimp -zeta only)

theorem canon_acReplyB {s : State} (w : Nat) (a : Ac) (r : RxRes) (h_s : s.Canon) : (State.acReplyB s w a r).Canon := by
  unfold State.acReplyB
  repeat' (first
    | with_reducible assumption
    | intro _
    | (extract_lets -merge +onlyGivenNames t_
       first
       | (refine canon_cut (s := t_) ?_ (fun h_ => ?_) <;> [subst t_; clear_value t_])
       | (refine canon_cut (s := t_.2) ?_ (fun h_ => ?_) <;> [subst t_; clear_value t_])
       | clear_value t_)
    | (simp only [canon_parts]; with_reducible first | exact parts_of (by assumption) | apply parts_of)
    | with_reducible first | apply canon_ledgerTag | apply canon_acSend | apply canon_acEnd | apply canon_acMax | apply canon_acTwice | apply canon_acEntry | apply canon_acSlotB | apply canon_attribRecord | apply canon_ite | apply canon_when | refine canonP_use ?_ (by assumption)
    | split
    | dsimp -zeta only)

theorem canon_acPopV {s : State} (w : Nat) (a : Ac) (b : Branch) (rest : List Branch) (h_s : s.Canon) : (State.acPopV s w a b rest).Canon := by
  unfold State.acPopV
  repeat' (first
    | with_reducible assumption
    | (simp only [canon_parts]; with_reducible first | exact parts_of (by assumption) | apply parts_of)
    | with_reducible apply canon_acSend
    | dsimp -zeta only)

theorem canon_acPassV {s : State} (w : Nat) (a : Ac) (len mask : Nat) (h_s : s.Canon) : (State.acPassV s w a len mask).Canon := by
  unfold State.acPassV
  repeat' (first
    | with_reducible assumption
    | (simp only [canon_parts]; with_reducible first | exact parts_of (by assumption) | apply parts_of)
    | with_reducible apply canon_acPopV
    | dsimp -zeta only)

theorem canon_acBranchV {s : State} (w : Nat) (a : Ac) (h_s : s.Canon) : (State.acBranchV s w a).Canon := by
  unfold State.acBranchV
  repeat' (first
    | with_reducible assumption
    | (extract_lets -merge +onlyGivenNames t_
       first
       | (refine canon_cut (s := t_) ?_ (fun h_ => ?_) <;> [subst t_; clear_value t_])
       | clear_value t_)
    | (simp only [canon_parts]; with_reducible first | exact parts_of (by assumption) | apply parts_of)
    | with_reducible first | apply canon_acEnd | apply canon_acPopV | apply canon_acPassV | apply canon_ite
    | split
    | dsimp -zeta only)

theorem canon_acSlotV {s : State} (w : Nat) (a : Ac) (h_s : s.Canon) : (State.acSlotV s w a).Canon := by
  unfold State.acSlotV
  repeat' (first
    | with_reducible assumption
    | (simp only [canon_parts]; with_reducible first | exact parts_of (by assumption) | apply parts_of)
    | with_reducible first | apply canon_acSend | apply canon_acBranchV | apply canon_ite
    | split
    | dsimp -zeta only)

theorem canon_acGarbledV {s : State} (w : Nat) (a : Ac) (r : RxRes) (h_s : s.Canon) : (State.acGarbledV s w a r).2.Canon := by
  unfold State.acGarbledV
  extract_lets -merge +onlyGivenNames push
  have hp : ∀ (x : Ac × State) (l m : Nat), x.2.Canon → (push x l m).2.Canon := by
    intro x l m hx
    simp only [push]
    split
    · exact canon_recordErr _ _ (canon_flag _ _ _ hx)
    · exact canon_acPush _ _ _ hx
  clear_value push
  split
  · extract_lets c j
    split
    · exact hp _ _ _ (hp _ _ _ h_s)
    · exact hp _ _ _ (hp _ _ _ h_s)
  · exact hp _ _ _ h_s

theorem canon_acTagV {s : State} (w : Nat) (a : Ac) (h_s : s.Canon) : (State.acTagV s w a).Canon := by
  unfold State.acTagV
  repeat' (first
    | with_reducible first | assumption | apply canon_acMax | apply canon_acSlotV | apply canon_ite
    | split
    | dsimp -zeta only)

theorem canon_acReplyV {s : State} (w : Nat) (a : Ac) (r : RxRes) (h_s : s.Canon) : (State.acReplyV s w a r).Canon := by
  unfold State.acReplyV
  repeat' (first
    | with_reducible assumption
    | (extract_lets -merge +onlyGivenNames t_
       first
       | (refine canon_cut (s := t_) ?_ (fun h_ => ?_) <;> [subst t_; clear_value t_])
       | (refine canon_cut (s := t_.2) ?_ (fun h_ => ?_) <;> [subst t_; clear_value t_])
       | clear_value t_)
    | (simp only [canon_parts]; with_reducible first | exact parts_of (by assumption) | apply parts_of)
    | with_reducible first | apply canon_ledgerTag | apply canon_acSend | apply canon_acEnd | apply canon_acTwice | apply canon_acEntry | apply canon_acSlotV | apply canon_acGarbledV | apply canon_acTagV | apply canon_ite | refine canonP_use ?_ (by assumption)
    | split
    | dsimp -zeta only)

theorem canon_acBegin {s : State} (w : Nat) (args : AnticollArgs) (max : Nat) (h_s : s.Canon) : (State.acBegin s w args max).Canon := by
  unfold State.acBegin
  repeat' (first
    | with_reducible assumption
    | (extract_lets -merge +onlyGivenNames t_
       first
       | (refine canon_cut (s := t_) ?_ (fun h_ => ?_) <;> [subst t_; clear_value t_])
       | clear_value t_)
    | (simp only [canon_parts]; with_reducible first | exact parts_of (by assumption) | apply parts_of)
    | with_reducible first | apply canon_put | apply canon_recordErr | apply canon_flag | apply canon_acSend | apply canon_acEnd | apply canon_acNextA | apply canon_acNextB | apply canon_acPassV | apply canon_ite
    | split
    | dsimp -zeta only)

theorem canon_acContinue {s : State} (w : Nat) (a : Ac) (h_s : s.Canon) : (State.acContinue s w a).Canon := by
  unfold State.acContinue
  repeat' (first
    | with_reducible first | assumption | apply canon_acPassV | apply canon_acTagV | apply canon_ite
    | split
    | dsimp -zeta only)

theorem canon_acReply {s : State} (w : Nat) (a : Ac) (r : RxRes) (h_s : s.Canon) : (State.acReply s w a r).Canon := by
  unfold State.acReply
  repeat' (first
    | with_reducible first | assumption | apply canon_acEnd | apply canon_acReplyA | apply canon_acReplyB | apply canon_acReplyV | apply canon_ite
    | split
    | dsimp -zeta only)

end Sys2Proof.Machine
end

