-- ==== Sys2Proof/Laws/CanonBlz.lean ====
section
/-! SUPPORT. The functions of Machine/Blz.lean keep the canonical form. -/

namespace Sys2Proof.Machine

open Sys2Proof

set_option linter.all false

theorem canon_bookWords {s : State} (p k n : Nat) (h_s : s.Canon) : CanonR (State.bookWords s p k n) := by
  unfold State.bookWords
  refine canonR_foldl (canonR_inr h_s) _ ?_
  intro r i hr
  dsimp only
  split
  · exact canonR_inl _
  · have hs := canonR_use' hr rfl
    split
    · exact canonR_inr (canon_memRead _ hs)
    · split
      · split
        · exact canonR_inl _
        · rename_i hm
          exact canonR_inr (canonS_use (canon_winWord _ hs) hm)
      · exact canonR_inr hs

theorem canon_startGain {s : State} (w : Nat) (h_s : s.Canon) : (State.startGain s w).Canon := by
  unfold State.startGain
  repeat' (first
    | with_reducible assumption
    | (extract_lets -merge +onlyGivenNames t_
       first
       | (refine canon_cut (s := t_) ?_ (fun h_ => ?_) <;> [subst t_; clear_value t_])
       | (refine canon_cut (s := t_.2) ?_ (fun h_ => ?_) <;> [subst t_; clear_value t_])
       | clear_value t_)
    | (simp only [canon_parts]; with_reducible first | exact parts_of (by assumption) | apply parts_of)
    | with_reducible first | apply canon_ledgerGain | apply canon_rxPutHw | apply canon_ite | refine canonP_use ?_ (by assumption)
    | split
    | dsimp -zeta only)

theorem canon_awaitBlitz {s : State} (w : Nat) (h_s : s.Canon) : (State.awaitBlitz s w).Canon := by
  unfold State.awaitBlitz
  repeat' (first
    | with_reducible assumption
    | intro _
    | (extract_lets -merge +onlyGivenNames t_
       first
       | (refine canon_cut (s := t_) ?_ (fun h_ => ?_) <;> [subst t_; clear_value t_])
       | (refine canon_cut (s := t_.2) ?_ (fun h_ => ?_) <;> [subst t_; clear_value t_])
       | clear_value t_)
    | (simp only [canon_parts]; with_reducible first | exact parts_of (by assumption) | apply parts_of)
    | with_reducible first | apply canon_withEng | apply canon_rxListen | apply canon_xmpWant | apply canon_waitFor | apply canon_bookWords | apply canon_startGain | apply canon_ite | refine canonR_use' ?_ (by assumption)
    | split
    | dsimp -zeta only)

theorem canon_sendBlitz {s : State} (w : Nat) (f : TxFrame) (seq set : Nat) (h_s : s.Canon) : (State.sendBlitz s w f seq set).Canon := by
  unfold State.sendBlitz
  repeat' (first
    | with_reducible assumption
    | intro _
    | (simp only [canon_parts]; with_reducible first | exact parts_of (by assumption) | apply parts_of)
    | with_reducible first | apply canon_withEng | apply canon_handOn
    | dsimp -zeta only)

theorem canon_laneSend {s : State} (w code : Nat) (coloured : Bool) (params : List Nat) (h_s : s.Canon) : (State.laneSend s w code coloured params).Canon := by
  unfold State.laneSend
  repeat' (first
    | with_reducible assumption
    | intro _
    | (extract_lets -merge +onlyGivenNames t_
       first
       | (refine canon_cut (s := t_) ?_ (fun h_ => ?_) <;> [subst t_; clear_value t_])
       | clear_value t_)
    | with_reducible first | apply canon_putHw | apply canon_sendBlitz
    | dsimp -zeta only)

theorem canon_promoteBook {s : State} (p : Nat) (b : Nat × Nat) (h_s : s.Canon) : (State.promoteBook s p b).Canon := by
  unfold State.promoteBook
  repeat' (first
    | with_reducible assumption
    | (extract_lets -merge +onlyGivenNames t_
       first
       | (refine canon_cut (s := t_) ?_ (fun h_ => ?_) <;> [subst t_; clear_value t_])
       | (refine canon_cut (s := t_.2) ?_ (fun h_ => ?_) <;> [subst t_; clear_value t_])
       | clear_value t_)
    | with_reducible first | apply canon_flag | apply canon_present | apply canon_memWrite
    | dsimp -zeta only)

theorem canon_chooseBook {s : State} (w id : Nat) (l : List (Nat × Bool)) (h_s : s.Canon) : (State.chooseBook s w id l).Canon := by
  unfold State.chooseBook
  repeat' (first
    | with_reducible assumption
    | intro _
    | (extract_lets -merge +onlyGivenNames t_
       first
       | (refine canon_cut (s := t_) ?_ (fun h_ => ?_) <;> [subst t_; clear_value t_])
       | (refine canon_cutF (f := t_) ?_ (fun h_ => ?_) <;> [subst t_; clear_value t_])
       | (refine canon_cutG (f := t_) ?_ (fun h_ => ?_) <;> [subst t_; clear_value t_])
       | (refine canon_cut (s := t_.2) ?_ (fun h_ => ?_) <;> [subst t_; clear_value t_])
       | clear_value t_)
    | (simp only [canon_parts]; with_reducible first | exact parts_of (by assumption) | apply parts_of)
    | with_reducible first | refine canonF_use (by assumption) ?_ | refine canonG_use (by assumption) ?_ | apply canon_id | apply canon_recordErr | apply canon_flag | apply canon_withEng | apply canon_promoteBook | apply canon_ite
    | split
    | dsimp -zeta only)

theorem canon_linkQuality {s : State} (w : Nat) (f : BlitzFrame) (h_s : s.Canon) : (State.linkQuality s w f).Canon := by
  unfold State.linkQuality
  repeat' (first
    | with_reducible assumption
    | intro _
    | (extract_lets -merge +onlyGivenNames t_
       first
       | (refine canon_cut (s := t_) ?_ (fun h_ => ?_) <;> [subst t_; clear_value t_])
       | (refine canon_cut (s := t_.2.2) ?_ (fun h_ => ?_) <;> [subst t_; clear_value t_])
       | (refine canon_cut (s := t_.2) ?_ (fun h_ => ?_) <;> [subst t_; clear_value t_])
       | clear_value t_)
    | with_reducible first | apply canon_put | apply canon_recordErr | apply canon_flag | apply canon_present | apply canon_ledgerActive | apply canon_ite | apply canon_foldl | apply canon_foldl1 | apply canon_foldl2 | apply canon_foldl22
    | split
    | dsimp -zeta only)

theorem canon_blitzShow {s : State} (w : Nat) (r : BlitzRes) (h_s : s.Canon) : (State.blitzShow s w r).Canon := by
  unfold State.blitzShow
  repeat' (first
    | with_reducible assumption
    | intro _
    | (extract_lets -merge +onlyGivenNames t_
       first
       | (refine canon_cut (s := t_) ?_ (fun h_ => ?_) <;> [subst t_; clear_value t_])
       | clear_value t_)
    | (simp only [canon_parts]; with_reducible first | exact parts_of (by assumption) | apply parts_of)
    | with_reducible first | apply canon_inc | apply canon_recordErr | apply canon_flag | apply canon_present | apply canon_withTx | apply canon_withEng | apply canon_setRxState | apply canon_frameEnds | apply canon_ite
    | split
    | dsimp -zeta only)

theorem canon_blitzClip {s : State} (w : Nat) (samples : List Nat) (h_s : s.Canon) : (State.blitzClip s w samples).Canon := by
  unfold State.blitzClip
  repeat' (first
    | with_reducible assumption
    | (extract_lets -merge +onlyGivenNames t_
       first
       | (refine canon_cut (s := t_) ?_ (fun h_ => ?_) <;> [subst t_; clear_value t_])
       | clear_value t_)
    | with_reducible first | apply canon_put | apply canon_clippedFrame | apply canon_ite
    | split
    | dsimp -zeta only)

theorem canon_blitzEnd {s : State} (w : Nat) (r : BlitzRes) (h_s : s.Canon) : (State.blitzEnd s w r).Canon := by
  unfold State.blitzEnd
  repeat' (first
    | with_reducible assumption
    | intro _
    | (extract_lets -merge +onlyGivenNames t_
       first
       | (refine canon_cut (s := t_) ?_ (fun h_ => ?_) <;> [subst t_; clear_value t_])
       | clear_value t_)
    | with_reducible first | apply canon_ledgerActive | apply canon_engEnd | apply canon_writeRecord | apply canon_when
    | dsimp -zeta only)

theorem canon_soundBegin {s : State} (w : Nat) (coloured : Bool) (h_s : s.Canon) : (State.soundBegin s w coloured).Canon := by
  unfold State.soundBegin
  repeat' (first
    | with_reducible assumption
    | intro _
    | (extract_lets -merge +onlyGivenNames t_
       first
       | (refine canon_cut (s := t_) ?_ (fun h_ => ?_) <;> [subst t_; clear_value t_])
       | clear_value t_)
    | (simp only [canon_parts]; with_reducible first | exact parts_of (by assumption) | apply parts_of)
    | with_reducible first | apply canon_timer | apply canon_withEng | apply canon_setGain | apply canon_setRxState | apply canon_engEnd | apply canon_startGain | apply canon_ite
    | split
    | dsimp -zeta only)

theorem canon_soundSend {s : State} (w : Nat) (h_s : s.Canon) : (State.soundSend s w).Canon := by
  unfold State.soundSend
  repeat' (first
    | with_reducible assumption
    | (simp only [canon_parts]; with_reducible first | exact parts_of (by assumption) | apply parts_of)
    | with_reducible apply canon_laneSend
    | split
    | dsimp -zeta only)

theorem canon_soundReply {s : State} (w quiet : Nat) (r : BlitzRes) (h_s : s.Canon) : (State.soundReply s w quiet r).Canon := by
  unfold State.soundReply
  repeat' (first
    | with_reducible assumption
    | intro _
    | (extract_lets -merge +onlyGivenNames t_
       first
       | (refine canon_cut (s := t_) ?_ (fun h_ => ?_) <;> [subst t_; clear_value t_])
       | (refine canon_cut (s := t_.2.2) ?_ (fun h_ => ?_) <;> [subst t_; clear_value t_])
       | (refine canon_cut (s := t_.2) ?_ (fun h_ => ?_) <;> [subst t_; clear_value t_])
       | clear_value t_)
    | with_reducible first | apply canon_memWrite | apply canon_engEnd | apply canon_ite | apply canon_forEach
    | split
    | dsimp -zeta only)

theorem canon_bookBegin {s : State} (w : Nat) (coloured : Bool) (h_s : s.Canon) : (State.bookBegin s w coloured).Canon := by
  unfold State.bookBegin
  repeat' (first
    | with_reducible assumption
    | intro _
    | (extract_lets -merge +onlyGivenNames t_
       first
       | (refine canon_cut (s := t_) ?_ (fun h_ => ?_) <;> [subst t_; clear_value t_])
       | (refine canon_cut (s := t_.2.2) ?_ (fun h_ => ?_) <;> [subst t_; clear_value t_])
       | (refine canon_cut (s := t_.2) ?_ (fun h_ => ?_) <;> [subst t_; clear_value t_])
       | clear_value t_)
    | (simp only [canon_parts]; with_reducible first | exact parts_of (by assumption) | apply parts_of)
    | with_reducible first | apply canon_recordErr | apply canon_flag | apply canon_memRead | apply canon_memWrite | apply canon_memReads | apply canon_withEng | apply canon_engEnd | apply canon_laneSend | apply canon_ite
    | split
    | dsimp -zeta only)

theorem canon_bookReply {s : State} (w id : Nat) (r : BlitzRes) (h_s : s.Canon) : (State.bookReply s w id r).Canon := by
  unfold State.bookReply
  repeat' (first
    | with_reducible first | assumption | apply canon_id | apply canon_recordErr | apply canon_flag | apply canon_engEnd | apply canon_ite
    | split
    | dsimp -zeta only)

theorem canon_gambitSend {s : State} (w rate : Nat) (again reload : Bool) (h_s : s.Canon) : (State.gambitSend s w rate again reload).Canon := by
  unfold State.gambitSend
  repeat' (first
    | with_reducible assumption
    | intro _
    | (extract_lets -merge +onlyGivenNames t_
       first
       | (refine canon_cut (s := t_) ?_ (fun h_ => ?_) <;> [subst t_; clear_value t_])
       | clear_value t_)
    | (simp only [canon_parts]; with_reducible first | exact parts_of (by assumption) | apply parts_of)
    | with_reducible first | apply canon_withEng | apply canon_sendFrame
    | dsimp -zeta only)

theorem canon_gambitBegin {s : State} (w : Nat) (reload : Bool) (h_s : s.Canon) : (State.gambitBegin s w reload).Canon := by
  unfold State.gambitBegin
  repeat' (first
    | with_reducible first | assumption | apply canon_engEnd | apply canon_gambitSend | apply canon_ite
    | split
    | dsimp -zeta only)

theorem canon_gambitFail {s : State} (w : Nat) (h_s : s.Canon) : (State.gambitFail s w).Canon := by
  unfold State.gambitFail
  repeat' (first
    | with_reducible first | assumption | apply canon_recordErr | apply canon_flag | apply canon_engEnd
    | dsimp -zeta only)

theorem canon_gambitDone {s : State} (w ans1 : Nat) (h_s : s.Canon) : (State.gambitDone s w ans1).Canon := by
  unfold State.gambitDone
  repeat' (first
    | with_reducible assumption
    | intro _
    | (extract_lets -merge +onlyGivenNames t_
       first
       | (refine canon_cut (s := t_) ?_ (fun h_ => ?_) <;> [subst t_; clear_value t_])
       | clear_value t_)
    | with_reducible first | apply canon_ledgerActive | apply canon_engEnd
    | dsimp -zeta only)

theorem canon_gambitReload {s : State} (w a1 a2 : Nat) (h_s : s.Canon) : (State.gambitReload s w a1 a2).Canon := by
  unfold State.gambitReload
  repeat' (first
    | with_reducible assumption
    | intro _
    | (extract_lets -merge +onlyGivenNames t_
       first
       | (refine canon_cut (s := t_) ?_ (fun h_ => ?_) <;> [subst t_; clear_value t_])
       | (refine canon_cut (s := t_.2) ?_ (fun h_ => ?_) <;> [subst t_; clear_value t_])
       | clear_value t_)
    | (simp only [canon_parts]; with_reducible first | exact parts_of (by assumption) | apply parts_of)
    | with_reducible first | apply canon_recordErr | apply canon_flag | apply canon_withEng | apply canon_xmpWait | apply canon_engEnd | apply canon_bookWords | apply canon_laneSend | apply canon_gambitDone | apply canon_ite | refine canonR_use' ?_ (by assumption)
    | split
    | dsimp -zeta only)

theorem canon_gambitReply {s : State} (w rate : Nat) (again reload : Bool) (r : RxRes) (h_s : s.Canon) : (State.gambitReply s w rate again reload r).Canon := by
  unfold State.gambitReply
  repeat' (first
    | with_reducible assumption
    | intro _
    | (extract_lets -merge +onlyGivenNames t_
       first
       | (refine canon_cut (s := t_) ?_ (fun h_ => ?_) <;> [subst t_; clear_value t_])
       | clear_value t_)
    | (simp only [canon_parts]; with_reducible first | exact parts_of (by assumption) | apply parts_of)
    | with_reducible first | apply canon_memWrite | apply canon_gambitSend | apply canon_gambitFail | apply canon_gambitDone | apply canon_gambitReload | apply canon_ite
    | split
    | dsimp -zeta only)

theorem canon_reloadReply {s : State} (w id : Nat) (r : BlitzRes) (h_s : s.Canon) : (State.reloadReply s w id r).Canon := by
  unfold State.reloadReply
  repeat' (first
    | with_reducible first | assumption | apply canon_id | apply canon_recordErr | apply canon_flag | apply canon_engEnd | apply canon_gambitDone | apply canon_ite
    | split
    | dsimp -zeta only)

end Sys2Proof.Machine
end

