-- ==== Sys2Proof/Laws/CanonSeal.lean ====
section
/-! SUPPORT. The functions of Machine/Seal.lean keep the canonical form. -/

namespace Sys2Proof.Machine

open Sys2Proof

set_option linter.all false

theorem canon_blockWords {s : State} (addr n : Nat) (h : s.Canon) : (State.blockWords s addr n).2.Canon := by
  induction n with
  | zero => exact h
  | succ k ih =>
    unfold State.blockWords
    split
    · rename_i s' he
      have hs : s'.Canon := canonP_use ih he
      extract_lets a
      split
      · exact canon_memRead _ hs
      · split
        · split
          · exact hs
          · rename_i hr
            exact (canon_winWord _ hs).all _ hr
        · exact hs
    · exact ih

theorem canon_blockWrite {s : State} (a v : Nat) (h_s : s.Canon) : (State.blockWrite s a v).Canon := by
  unfold State.blockWrite
  repeat' (first
    | with_reducible first | assumption | apply canon_memWrite | apply canon_xmpPost | apply canon_ite | refine canonP_use ?_ (by assumption)
    | split
    | dsimp -zeta only)

theorem canon_sealShow {s : State} (h_s : s.Canon) : (State.sealShow s).Canon := by
  unfold State.sealShow
  repeat' (first
    | with_reducible assumption
    | intro _
    | (simp only [canon_parts]; with_reducible first | exact parts_of (by assumption) | apply parts_of)
    | with_reducible apply canon_putB
    | split
    | dsimp -zeta only)

theorem canon_sealResult {s : State} (q : SealSt) (result : Nat) (h_s : s.Canon) : (State.sealResult s q result).Canon := by
  unfold State.sealResult
  repeat' (first
    | with_reducible first | assumption | apply canon_blockWrite
    | dsimp -zeta only)

theorem canon_sealEntry {s : State} (q : SealSt) (f : List Nat → List Nat) (h_s : s.Canon) : (State.sealEntry s q f).Canon := by
  unfold State.sealEntry
  repeat' (first
    | with_reducible assumption
    | (extract_lets -merge +onlyGivenNames t_
       first
       | (refine canon_cut (s := t_) ?_ (fun h_ => ?_) <;> [subst t_; clear_value t_])
       | (refine canon_cut (s := t_.2) ?_ (fun h_ => ?_) <;> [subst t_; clear_value t_])
       | clear_value t_)
    | with_reducible first | apply canon_entry | apply canon_putEntry | apply canon_ite | refine canonP_use ?_ (by assumption)
    | split
    | dsimp -zeta only)

theorem canon_sealClear {s : State} (q : SealSt) (h_s : s.Canon) : (State.sealClear s q).Canon := by
  unfold State.sealClear
  repeat' (first
    | with_reducible assumption
    | intro _
    | with_reducible apply canon_sealEntry
    | dsimp -zeta only)

theorem canon_sealDone {s : State} (w : Nat) (q : SealSt) (result st : Nat) (h_s : s.Canon) : (State.sealDone s w q result st).Canon := by
  unfold State.sealDone
  repeat' (first
    | with_reducible first | assumption | apply canon_engEnd | apply canon_sealShow | apply canon_sealResult
    | dsimp -zeta only)

theorem canon_sealLost {s : State} (w : Nat) (q : SealSt) (st : Nat) (h_s : s.Canon) : (State.sealLost s w q st).Canon := by
  unfold State.sealLost
  repeat' (first
    | with_reducible first | assumption | apply canon_sealDone
    | dsimp -zeta only)

theorem canon_sealConflict {s : State} (w : Nat) (q : SealSt) (h_s : s.Canon) : (State.sealConflict s w q).Canon := by
  unfold State.sealConflict
  repeat' (first
    | with_reducible assumption
    | (extract_lets -merge +onlyGivenNames t_
       first
       | (refine canon_cut (s := t_) ?_ (fun h_ => ?_) <;> [subst t_; clear_value t_])
       | clear_value t_)
    | with_reducible first | apply canon_recordErr | apply canon_flag | apply canon_invRecord | apply canon_entry | apply canon_sealClear | apply canon_sealDone | refine canonP_use ?_ (by assumption)
    | dsimp -zeta only)

theorem canon_sealRefused {s : State} (w : Nat) (q : SealSt) (h_s : s.Canon) : (State.sealRefused s w q).Canon := by
  unfold State.sealRefused
  repeat' (first
    | with_reducible first | assumption | apply canon_recordErr | apply canon_sealClear | apply canon_sealDone
    | dsimp -zeta only)

theorem canon_sealLow {s : State} (w : Nat) (q : SealSt) (h_s : s.Canon) : (State.sealLow s w q).Canon := by
  unfold State.sealLow
  repeat' (first
    | with_reducible first | assumption | apply canon_recordErr | apply canon_sealClear | apply canon_sealDone
    | dsimp -zeta only)

theorem canon_sealPassed {s : State} (w : Nat) (q : SealSt) (h_s : s.Canon) : (State.sealPassed s w q).Canon := by
  unfold State.sealPassed
  repeat' (first
    | with_reducible assumption
    | (extract_lets -merge +onlyGivenNames t_
       first
       | (refine canon_cut (s := t_) ?_ (fun h_ => ?_) <;> [subst t_; clear_value t_])
       | clear_value t_)
    | with_reducible first | apply canon_flag | apply canon_invRecord | apply canon_entry | apply canon_sealClear | apply canon_sealDone | refine canonP_use ?_ (by assumption)
    | dsimp -zeta only)

theorem canon_sealSend {s : State} (w : Nat) (q : SealSt) (h_s : s.Canon) : (State.sealSend s w q).Canon := by
  unfold State.sealSend
  repeat' (first
    | with_reducible assumption
    | intro _
    | (extract_lets -merge +onlyGivenNames t_
       first
       | (refine canon_cut (s := t_) ?_ (fun h_ => ?_) <;> [subst t_; clear_value t_])
       | clear_value t_)
    | (simp only [canon_parts]; with_reducible first | exact parts_of (by assumption) | apply parts_of)
    | with_reducible first | apply canon_withEng | apply canon_laneSend | apply canon_ite
    | split
    | dsimp -zeta only)

theorem canon_sealStep {s : State} (w : Nat) (q : SealSt) (step : Nat) (h_s : s.Canon) : (State.sealStep s w q step).Canon := by
  unfold State.sealStep
  repeat' (first
    | with_reducible assumption
    | intro _
    | (extract_lets -merge +onlyGivenNames t_
       first
       | (refine canon_cut (s := t_) ?_ (fun h_ => ?_) <;> [subst t_; clear_value t_])
       | clear_value t_)
    | (simp only [canon_parts]; with_reducible first | exact parts_of (by assumption) | apply parts_of)
    | with_reducible first | apply canon_flag | apply canon_invRecord | apply canon_entry | apply canon_sealResult | apply canon_sealEntry | apply canon_sealSend | apply canon_ite | refine canonP_use ?_ (by assumption)
    | split
    | dsimp -zeta only)

theorem canon_sealDecide {s : State} (w : Nat) (q : SealSt) (b : List Nat) (h_s : s.Canon) : (State.sealDecide s w q b).Canon := by
  unfold State.sealDecide
  repeat' (first
    | with_reducible assumption
    | (simp only [canon_parts]; with_reducible first | exact parts_of (by assumption) | apply parts_of)
    | with_reducible first | apply canon_sealConflict | apply canon_sealStep | apply canon_ite
    | split
    | dsimp -zeta only)

theorem canon_sealJudge {s : State} (w : Nat) (q : SealSt) (b : List Nat) (h_s : s.Canon) : (State.sealJudge s w q b).Canon := by
  unfold State.sealJudge
  repeat' (first
    | with_reducible assumption
    | (simp only [canon_parts]; with_reducible first | exact parts_of (by assumption) | apply parts_of)
    | with_reducible first | apply canon_sealLost | apply canon_sealConflict | apply canon_sealLow | apply canon_sealPassed | apply canon_sealSend | apply canon_sealStep | apply canon_sealDecide | apply canon_ite
    | split
    | dsimp -zeta only)

theorem canon_sealReply {s : State} (w : Nat) (q : SealSt) (r : BlitzRes) (h_s : s.Canon) : (State.sealReply s w q r).Canon := by
  unfold State.sealReply
  repeat' (first
    | with_reducible assumption
    | (extract_lets -merge +onlyGivenNames t_
       first
       | (refine canon_cut (s := t_) ?_ (fun h_ => ?_) <;> [subst t_; clear_value t_])
       | clear_value t_)
    | (simp only [canon_parts]; with_reducible first | exact parts_of (by assumption) | apply parts_of)
    | with_reducible first | apply canon_sealLost | apply canon_sealRefused | apply canon_sealSend | apply canon_sealJudge | apply canon_ite
    | split
    | dsimp -zeta only)

theorem canon_legacySend {s : State} (w : Nat) (q : SealSt) (ws : List Nat) (psn : Option Nat) (h_s : s.Canon) : (State.legacySend s w q ws psn).Canon := by
  unfold State.legacySend
  repeat' (first
    | with_reducible assumption
    | (extract_lets -merge +onlyGivenNames t_
       first
       | (refine canon_cut (s := t_) ?_ (fun h_ => ?_) <;> [subst t_; clear_value t_])
       | clear_value t_)
    | (simp only [canon_parts]; with_reducible first | exact parts_of (by assumption) | apply parts_of)
    | with_reducible first | apply canon_sendFrame | apply canon_sealResult | apply canon_sealDone
    | split
    | dsimp -zeta only)

theorem canon_legacyReply {s : State} (w job : Nat) (ok : Bool) (h_s : s.Canon) : (State.legacyReply s w job ok).Canon := by
  unfold State.legacyReply
  repeat' (first
    | with_reducible assumption
    | (extract_lets -merge +onlyGivenNames t_
       first
       | (refine canon_cut (s := t_) ?_ (fun h_ => ?_) <;> [subst t_; clear_value t_])
       | (refine canon_cut (s := t_.2) ?_ (fun h_ => ?_) <;> [subst t_; clear_value t_])
       | clear_value t_)
    | (simp only [canon_parts]; with_reducible first | exact parts_of (by assumption) | apply parts_of)
    | with_reducible first | apply canon_engEnd | apply canon_blockWords | apply canon_blockWrite | apply canon_sealShow | apply canon_ite | refine canonP_use ?_ (by assumption)
    | split
    | dsimp -zeta only)

theorem canon_jobPoisoned {s : State} (u : Nat) (h_s : s.Canon) : (State.jobPoisoned s u).Canon := by
  unfold State.jobPoisoned
  repeat' (first
    | with_reducible first | assumption | apply canon_recordErr | apply canon_flag | apply canon_endMove
    | dsimp -zeta only)

theorem canon_jobBad {s : State} (u : Nat) (h_s : s.Canon) : (State.jobBad s u).Canon := by
  unfold State.jobBad
  repeat' (first
    | with_reducible first | assumption | apply canon_recordErr | apply canon_endMove
    | dsimp -zeta only)

theorem canon_sealTake {s : State} (w u : Nat) (p : Prog) (h_s : s.Canon) : CanonO ((State.sealTake s w u p).1) := by
  unfold State.sealTake
  repeat' (first
    | with_reducible first | assumption | exact canonO_none | apply canonO_some | apply canonO_ite
    | (extract_lets -merge +onlyGivenNames t_
       first
       | (refine canon_cut (s := t_) ?_ (fun h_ => ?_) <;> [subst t_; clear_value t_])
       | (refine canon_cut (s := t_.2.2) ?_ (fun h_ => ?_) <;> [subst t_; clear_value t_])
       | (refine canon_cut (s := t_.2) ?_ (fun h_ => ?_) <;> [subst t_; clear_value t_])
       | clear_value t_)
    | (simp only [canon_parts]; with_reducible first | exact parts_of (by assumption) | apply parts_of)
    | with_reducible first | apply canon_endMove | apply canon_laneBusy | apply canon_engStartRx | apply canon_openRx | apply canon_sealShow
    | split
    | intro _
    | dsimp -zeta only)
theorem canon_sealTake_1 {s : State} (w u : Nat) (p : Prog) (h_s : s.Canon) : (State.sealTake s w u p).2.Canon := by
  unfold State.sealTake
  repeat' (first
    | with_reducible assumption
    | (extract_lets -merge +onlyGivenNames t_
       first
       | (refine canon_cut (s := t_) ?_ (fun h_ => ?_) <;> [subst t_; clear_value t_])
       | (refine canon_cut (s := t_.2.2) ?_ (fun h_ => ?_) <;> [subst t_; clear_value t_])
       | (refine canon_cut (s := t_.2) ?_ (fun h_ => ?_) <;> [subst t_; clear_value t_])
       | clear_value t_)
    | (simp only [canon_parts]; with_reducible first | exact parts_of (by assumption) | apply parts_of)
    | with_reducible first | apply canon_endMove | apply canon_laneBusy | apply canon_engStartRx | apply canon_openRx | apply canon_sealShow
    | split
    | dsimp -zeta only)

theorem canon_sealBegin {s : State} (w u : Nat) (q : SealSt) (h_s : s.Canon) : (State.sealBegin s w u q).Canon := by
  unfold State.sealBegin
  repeat' (first
    | with_reducible first | apply canonO_some | exact canonO_none | assumption
    | (extract_lets -merge +onlyGivenNames t_
       first
       | (refine canon_cutOP (r := t_) ?_ ?_ (fun h1_ h2_ => ?_) <;> [subst t_; subst t_; clear_value t_])
       | (refine canon_cut (s := t_) ?_ (fun h_ => ?_) <;> [subst t_; clear_value t_])
       | (refine canon_cut (s := t_.2) ?_ (fun h_ => ?_) <;> [subst t_; clear_value t_])
       | clear_value t_)
    | (simp only [canon_parts]; with_reducible first | exact parts_of (by assumption) | apply parts_of)
    | with_reducible first | apply canon_endMove | apply canon_entry | apply canon_sealResult | apply canon_sealSend | apply canon_sealStep | apply canon_sealTake | apply canon_sealTake_1 | apply canon_ite | refine canonP_use ?_ (by assumption) | refine canonQ_use ?_ (by assumption) | refine canonO_use ?_ (by assumption)
    | split
    | dsimp -zeta only)

theorem canon_legacyBegin {s : State} (w u : Nat) (q : SealSt) (ws : List Nat) (psn : Option Nat) (h_s : s.Canon) : (State.legacyBegin s w u q ws psn).Canon := by
  unfold State.legacyBegin
  repeat' (first
    | with_reducible first | apply canonO_some | exact canonO_none | assumption
    | (simp only [canon_parts]; with_reducible first | exact parts_of (by assumption) | apply parts_of)
    | with_reducible first | apply canon_recordErr | apply canon_flag | apply canon_endMove | apply canon_engEnd | apply canon_sealShow | apply canon_sealDone | apply canon_legacySend | apply canon_sealTake | apply canon_sealTake_1 | apply canon_ite | refine canonP_use ?_ (by assumption) | refine canonQ_use ?_ (by assumption) | refine canonO_use ?_ (by assumption)
    | split
    | dsimp -zeta only)

theorem canon_sealLaunch {s : State} (w u job : Nat) (again : Instr) (h_s : s.Canon) : (State.sealLaunch s w u job again).Canon := by
  unfold State.sealLaunch
  repeat' (first
    | with_reducible assumption
    | intro _
    | (extract_lets -merge +onlyGivenNames t_
       first
       | (refine canon_cut (s := t_) ?_ (fun h_ => ?_) <;> [subst t_; clear_value t_])
       | (refine canon_cutF (f := t_) ?_ (fun h_ => ?_) <;> [subst t_; clear_value t_])
       | (refine canon_cutG (f := t_) ?_ (fun h_ => ?_) <;> [subst t_; clear_value t_])
       | clear_value t_)
    | (simp only [canon_parts]; with_reducible first | exact parts_of (by assumption) | apply parts_of)
    | with_reducible first | refine canonF_use (by assumption) ?_ | refine canonG_use (by assumption) ?_ | apply canon_endMove | apply canon_entry | apply canon_xmpWait | apply canon_gather | apply canon_blockWords | apply canon_jobPoisoned | apply canon_jobBad | apply canon_sealBegin | apply canon_legacyBegin | apply canon_ite | refine canonP_use ?_ (by assumption)
    | split
    | dsimp -zeta only)

end Sys2Proof.Machine
end

