-- ==== Sys2Proof/Laws/CanonInv.lean ====
section
/-! SUPPORT. The functions of Machine/Inv.lean keep the canonical form. -/

namespace Sys2Proof.Machine

open Sys2Proof

set_option linter.all false

theorem canon_withInv {s : State} (f : Inv → Inv) (h : s.Canon) (hf : (f s.inv).wings.length = s.inv.wings.length) : (State.withInv s f).Canon :=
  ⟨h.regs, h.sram, h.parity, h.ctxs, h.txc, h.rxc, h.engs, hf.trans h.wings⟩

theorem canon_withWing {s : State} (w : Nat) (f : InvWing → InvWing) (h_s : s.Canon) : (State.withWing s w f).Canon := by
  unfold State.withWing
  repeat' (first
    | with_reducible assumption
    | rfl
    | with_reducible exact List.length_set ..
    | intro _
    | (simp only [canon_parts]; with_reducible first | exact parts_of (by assumption) | apply parts_of)
    | with_reducible apply canon_withInv
    | dsimp -zeta only)

theorem canon_setInvState {s : State} (st : Nat) (h_s : s.Canon) : (State.setInvState s st).Canon := by
  unfold State.setInvState
  repeat' (first
    | with_reducible first | assumption | apply canon_put | apply canon_putB
    | dsimp -zeta only)

theorem canon_setQueued {s : State} (p : Nat) (b : Bool) (h_s : s.Canon) : (State.setQueued s p b).Canon := by
  unfold State.setQueued
  repeat' (first
    | with_reducible assumption
    | (extract_lets -merge +onlyGivenNames t_
       first
       | (refine canon_cut (s := t_) ?_ (fun h_ => ?_) <;> [subst t_; clear_value t_])
       | clear_value t_)
    | with_reducible apply canon_putHw
    | dsimp -zeta only)

theorem canon_readPlan {s : State} (n : Nat) (h : s.Canon) : (State.readPlan s n).2.Canon := by
  induction n with
  | zero => exact h
  | succ k ih =>
    unfold State.readPlan
    split
    · rename_i s' he
      have hs : s'.Canon := canonP_use ih he
      split
      · exact hs
      · have hb := canon_blockWords (wordAddr (s'.get pINV INV.PLAN_BASE_ADDR) (2 * k)) 2 hs
        split
        · rename_i hr
          dsimp only
          exact canon_withInv _ (canonP_use hb hr) rfl
        · exact hb
    · exact ih

theorem canon_armSlot {s : State} (n r : Nat) (h_s : s.Canon) : (State.armSlot s n r).Canon := by
  unfold State.armSlot
  repeat' (first
    | with_reducible assumption
    | rfl
    | with_reducible exact List.length_set ..
    | intro _
    | (extract_lets -merge +onlyGivenNames t_
       first
       | (refine canon_cut (s := t_) ?_ (fun h_ => ?_) <;> [subst t_; clear_value t_])
       | clear_value t_)
    | (simp only [canon_parts]; with_reducible first | exact parts_of (by assumption) | apply parts_of)
    | with_reducible first | apply canon_arm | apply canon_withInv
    | dsimp -zeta only)

theorem canon_armPass {s : State} (n : Nat) (next : Bool) (h_s : s.Canon) : (State.armPass s n next).Canon := by
  unfold State.armPass
  repeat' (first
    | with_reducible assumption
    | rfl
    | with_reducible exact List.length_set ..
    | intro _
    | (extract_lets -merge +onlyGivenNames t_
       first
       | (refine canon_cut (s := t_) ?_ (fun h_ => ?_) <;> [subst t_; clear_value t_])
       | clear_value t_)
    | (simp only [canon_parts]; with_reducible first | exact parts_of (by assumption) | apply parts_of)
    | with_reducible first | apply canon_sched | apply canon_withInv | apply canon_setInvState | apply canon_armSlot | apply canon_ite
    | split
    | dsimp -zeta only)

theorem canon_armDisc {s : State} (h_s : s.Canon) : (State.armDisc s).Canon := by
  unfold State.armDisc
  repeat' (first
    | with_reducible assumption
    | rfl
    | with_reducible exact List.length_set ..
    | intro _
    | (extract_lets -merge +onlyGivenNames t_
       first
       | (refine canon_cut (s := t_) ?_ (fun h_ => ?_) <;> [subst t_; clear_value t_])
       | clear_value t_)
    | (simp only [canon_parts]; with_reducible first | exact parts_of (by assumption) | apply parts_of)
    | with_reducible first | apply canon_sched | apply canon_disarm | apply canon_withInv | apply canon_setInvState
    | dsimp -zeta only)

theorem canon_invRefuse {s : State} (h_s : s.Canon) : (State.invRefuse s).2.Canon := by
  unfold State.invRefuse
  repeat' (first
    | with_reducible assumption
    | rfl
    | with_reducible exact List.length_set ..
    | intro _
    | (simp only [canon_parts]; with_reducible first | exact parts_of (by assumption) | apply parts_of)
    | with_reducible first | apply canon_recordErr | apply canon_withInv
    | dsimp -zeta only)

theorem canon_invBegin {s : State} (disc : Bool) (ctx : Option Nat) (hop : Nat) (again : Instr) (h_s : s.Canon) : (State.invBegin s disc ctx hop again).2.Canon := by
  unfold State.invBegin
  repeat' (first
    | with_reducible assumption
    | rfl
    | with_reducible exact List.length_set ..
    | intro _
    | (extract_lets -merge +onlyGivenNames t_
       first
       | (refine canon_cut (s := t_) ?_ (fun h_ => ?_) <;> [subst t_; clear_value t_])
       | clear_value t_)
    | (simp only [canon_parts]; with_reducible first | exact parts_of (by assumption) | apply parts_of)
    | with_reducible first | apply canon_xmpWait | apply canon_withInv | apply canon_readPlan | apply canon_armPass | apply canon_armDisc | apply canon_invRefuse | apply canon_ite | refine canonP_use ?_ (by assumption)
    | split
    | dsimp -zeta only)

theorem canon_effInvStart {s : State} (h_s : s.Canon) : (effInvStart s).Canon := by
  unfold effInvStart
  repeat' (first
    | with_reducible first | assumption | apply canon_invBegin | apply canon_ite | refine canonP_use ?_ (by assumption)
    | split
    | dsimp -zeta only)

theorem canon_effInvDiscover {s : State} (h_s : s.Canon) : (effInvDiscover s).Canon := by
  unfold effInvDiscover
  repeat' (first
    | with_reducible first | assumption | apply canon_invBegin | apply canon_ite | refine canonP_use ?_ (by assumption)
    | split
    | dsimp -zeta only)

theorem canon_endPass {s : State} (h_s : s.Canon) : (State.endPass s).Canon := by
  unfold State.endPass
  repeat' (first
    | with_reducible assumption
    | rfl
    | with_reducible exact List.length_set ..
    | intro _
    | (simp only [canon_parts]; with_reducible first | exact parts_of (by assumption) | apply parts_of)
    | with_reducible first | apply canon_sched | apply canon_withInv
    | dsimp -zeta only)

theorem canon_invStop {s : State} (h_s : s.Canon) : (State.invStop s).Canon := by
  unfold State.invStop
  repeat' (first
    | with_reducible assumption
    | (extract_lets -merge +onlyGivenNames t_
       first
       | (refine canon_cut (s := t_) ?_ (fun h_ => ?_) <;> [subst t_; clear_value t_])
       | clear_value t_)
    | with_reducible first | apply canon_unsched | apply canon_disarm | apply canon_setInvState | apply canon_endPass | apply canon_ite
    | split
    | dsimp -zeta only)

theorem canon_effInvStop {s : State} (h_s : s.Canon) : (effInvStop s).Canon := by
  unfold effInvStop
  repeat' (first
    | with_reducible first | assumption | apply canon_invStop | apply canon_ite
    | split
    | dsimp -zeta only)

theorem canon_invOff {s : State} (w st : Nat) (h_s : s.Canon) : (State.invOff s w st).Canon := by
  unfold State.invOff
  repeat' (first
    | with_reducible assumption
    | intro _
    | (extract_lets -merge +onlyGivenNames t_
       first
       | (refine canon_cut (s := t_) ?_ (fun h_ => ?_) <;> [subst t_; clear_value t_])
       | clear_value t_)
    | (simp only [canon_parts]; with_reducible first | exact parts_of (by assumption) | apply parts_of)
    | with_reducible first | apply canon_withTx | apply canon_dropArmed | apply canon_rampDown | apply canon_withWing | apply canon_ite
    | split
    | dsimp -zeta only)

theorem canon_invDrop {s : State} (w : Nat) (h_s : s.Canon) : (State.invDrop s w).Canon := by
  unfold State.invDrop
  repeat' (first
    | with_reducible assumption
    | intro _
    | (extract_lets -merge +onlyGivenNames t_
       first
       | (refine canon_cut (s := t_) ?_ (fun h_ => ?_) <;> [subst t_; clear_value t_])
       | clear_value t_)
    | (simp only [canon_parts]; with_reducible first | exact parts_of (by assumption) | apply parts_of)
    | with_reducible first | apply canon_unsched | apply canon_withEng | apply canon_rxFree | apply canon_engBusy | apply canon_laneBusy | apply canon_frameCut | apply canon_sealShow | apply canon_sealResult | apply canon_ite
    | split
    | dsimp -zeta only)

theorem canon_cutCount {s : State} (count : Bool) (h_s : s.Canon) : (State.cutCount s count).Canon := by
  unfold State.cutCount
  repeat' (first
    | with_reducible assumption
    | intro _
    | with_reducible first | apply canon_inc | apply canon_recordErr | apply canon_flag | apply canon_when
    | dsimp -zeta only)

theorem canon_invCut {s : State} (w st : Nat) (count : Bool) (h_s : s.Canon) : (State.invCut s w st count).Canon := by
  unfold State.invCut
  repeat' (first
    | with_reducible assumption
    | (extract_lets -merge +onlyGivenNames t_
       first
       | (refine canon_cut (s := t_) ?_ (fun h_ => ?_) <;> [subst t_; clear_value t_])
       | clear_value t_)
    | with_reducible first | apply canon_invOff | apply canon_invDrop | apply canon_cutCount | apply canon_ite
    | split
    | dsimp -zeta only)

theorem canon_invCutLate {s : State} (w st : Nat) (count : Bool) (h_s : s.Canon) : (State.invCutLate s w st count).Canon := by
  unfold State.invCutLate
  repeat' (first
    | with_reducible assumption
    | intro _
    | (extract_lets -merge +onlyGivenNames t_
       first
       | (refine canon_cut (s := t_) ?_ (fun h_ => ?_) <;> [subst t_; clear_value t_])
       | clear_value t_)
    | (simp only [canon_parts]; with_reducible first | exact parts_of (by assumption) | apply parts_of)
    | with_reducible first | apply canon_withEng | apply canon_cutCount | apply canon_invCut | apply canon_ite
    | split
    | dsimp -zeta only)

theorem canon_endRound {s : State} (h_s : s.Canon) : (State.endRound s).Canon := by
  unfold State.endRound
  repeat' (first
    | with_reducible assumption
    | rfl
    | with_reducible exact List.length_set ..
    | intro _
    | (extract_lets -merge +onlyGivenNames t_
       first
       | (refine canon_cut (s := t_) ?_ (fun h_ => ?_) <;> [subst t_; clear_value t_])
       | clear_value t_)
    | (simp only [canon_parts]; with_reducible first | exact parts_of (by assumption) | apply parts_of)
    | with_reducible first | apply canon_sched | apply canon_flag | apply canon_present | apply canon_withInv | apply canon_endPass | apply canon_ite
    | split
    | dsimp -zeta only)

theorem canon_roundDone {s : State} (h_s : s.Canon) : (State.roundDone s).Canon := by
  unfold State.roundDone
  repeat' (first
    | with_reducible assumption
    | intro _
    | with_reducible first | apply canon_endRound | apply canon_ite
    | split
    | dsimp -zeta only)

theorem canon_invSettle {s : State} (w : Nat) (h_s : s.Canon) : (State.invSettle s w).Canon := by
  unfold State.invSettle
  repeat' (first
    | with_reducible assumption
    | intro _
    | (extract_lets -merge +onlyGivenNames t_
       first
       | (refine canon_cut (s := t_) ?_ (fun h_ => ?_) <;> [subst t_; clear_value t_])
       | clear_value t_)
    | with_reducible first | apply canon_sched | apply canon_releaseWing | apply canon_withWing | apply canon_roundDone | apply canon_ite
    | split
    | dsimp -zeta only)

theorem canon_invSettleAll {s : State} (h_s : s.Canon) : (State.invSettleAll s).Canon := by
  unfold State.invSettleAll
  repeat' (first
    | with_reducible first | assumption | apply canon_invSettle | apply canon_forEach
    | dsimp -zeta only)

theorem canon_invTake {s : State} (w : Nat) (p : Prog) (h_s : s.Canon) : CanonO ((State.invTake s w p)) := by
  unfold State.invTake
  repeat' (first
    | with_reducible first | assumption | exact canonO_none | apply canonO_some | apply canonO_ite
    | (extract_lets -merge +onlyGivenNames t_
       first
       | (refine canon_cut (s := t_) ?_ (fun h_ => ?_) <;> [subst t_; clear_value t_])
       | (refine canon_cut (s := t_.2.2) ?_ (fun h_ => ?_) <;> [subst t_; clear_value t_])
       | (refine canon_cut (s := t_.2) ?_ (fun h_ => ?_) <;> [subst t_; clear_value t_])
       | clear_value t_)
    | (simp only [canon_parts]; with_reducible first | exact parts_of (by assumption) | apply parts_of)
    | with_reducible first | apply canon_engStartRx | apply canon_openRx | apply canon_ite
    | split
    | intro _
    | dsimp -zeta only)

theorem canon_missEntries {s : State} (p : Nat) (l : List Nat) (count : Bool) (h_s : s.Canon) : (State.missEntries s p l count).Canon := by
  unfold State.missEntries
  repeat' (first
    | with_reducible assumption
    | intro _
    | (extract_lets -merge +onlyGivenNames t_
       first
       | (refine canon_cut (s := t_) ?_ (fun h_ => ?_) <;> [subst t_; clear_value t_])
       | (refine canon_cut (s := t_.2) ?_ (fun h_ => ?_) <;> [subst t_; clear_value t_])
       | clear_value t_)
    | with_reducible first | apply canon_inc | apply canon_invRecord | apply canon_entry | apply canon_putEntry | apply canon_ite | apply canon_when | apply canon_forEach | refine canonP_use ?_ (by assumption)
    | split
    | dsimp -zeta only)

theorem canon_invNext {s : State} (w : Nat) (h_s : s.Canon) : (State.invNext s w).Canon := by
  unfold State.invNext
  repeat' (first
    | with_reducible assumption
    | intro _
    | (extract_lets -merge +onlyGivenNames t_
       first
       | (refine canon_cut (s := t_) ?_ (fun h_ => ?_) <;> [subst t_; clear_value t_])
       | (refine canon_cut (s := t_.2) ?_ (fun h_ => ?_) <;> [subst t_; clear_value t_])
       | clear_value t_)
    | (simp only [canon_parts]; with_reducible first | exact parts_of (by assumption) | apply parts_of)
    | with_reducible first | apply canon_entry | apply canon_engEnd | apply canon_sendFrame | apply canon_withWing | apply canon_missEntries | apply canon_ite | refine canonP_use ?_ (by assumption)
    | split
    | dsimp -zeta only)

theorem canon_confirmed {s : State} (p k : Nat) (r : RxRes) (h_s : s.Canon) : (State.confirmed s p k r).Canon := by
  unfold State.confirmed
  repeat' (first
    | with_reducible assumption
    | (extract_lets -merge +onlyGivenNames t_
       first
       | (refine canon_cut (s := t_) ?_ (fun h_ => ?_) <;> [subst t_; clear_value t_])
       | (refine canon_cut (s := t_.2) ?_ (fun h_ => ?_) <;> [subst t_; clear_value t_])
       | clear_value t_)
    | with_reducible first | apply canon_entry | apply canon_putEntry | apply canon_setQueued | apply canon_ite | refine canonP_use ?_ (by assumption)
    | split
    | dsimp -zeta only)

theorem canon_invReply {s : State} (w : Nat) (r : RxRes) (h_s : s.Canon) : (State.invReply s w r).Canon := by
  unfold State.invReply
  repeat' (first
    | with_reducible assumption
    | intro _
    | (extract_lets -merge +onlyGivenNames t_
       first
       | (refine canon_cut (s := t_) ?_ (fun h_ => ?_) <;> [subst t_; clear_value t_])
       | (refine canon_cut (s := t_.2) ?_ (fun h_ => ?_) <;> [subst t_; clear_value t_])
       | clear_value t_)
    | (simp only [canon_parts]; with_reducible first | exact parts_of (by assumption) | apply parts_of)
    | with_reducible first | apply canon_entry | apply canon_sendFrame | apply canon_withWing | apply canon_setQueued | apply canon_invNext | apply canon_confirmed | apply canon_ite | apply canon_when | refine canonP_use ?_ (by assumption)
    | split
    | dsimp -zeta only)

theorem canon_discNext {s : State} (w : Nat) (h_s : s.Canon) : (State.discNext s w).Canon := by
  unfold State.discNext
  repeat' (first
    | with_reducible assumption
    | intro _
    | (extract_lets -merge +onlyGivenNames t_
       first
       | (refine canon_cut (s := t_) ?_ (fun h_ => ?_) <;> [subst t_; clear_value t_])
       | clear_value t_)
    | (simp only [canon_parts]; with_reducible first | exact parts_of (by assumption) | apply parts_of)
    | with_reducible first | apply canon_engEnd | apply canon_acBegin | apply canon_withWing | apply canon_invOff | apply canon_invTake | apply canon_ite | refine canonO_use ?_ (by assumption)
    | split
    | dsimp -zeta only)

theorem canon_mergeOne {s : State} (w : Nat) (ws : List Nat) (h_s : s.Canon) : (State.mergeOne s w ws).Canon := by
  unfold State.mergeOne
  repeat' (first
    | with_reducible assumption
    | intro _
    | (extract_lets -merge +onlyGivenNames t_
       first
       | (refine canon_cut (s := t_) ?_ (fun h_ => ?_) <;> [subst t_; clear_value t_])
       | (refine canon_cut (s := t_.2) ?_ (fun h_ => ?_) <;> [subst t_; clear_value t_])
       | clear_value t_)
    | (simp only [canon_parts]; with_reducible first | exact parts_of (by assumption) | apply parts_of)
    | with_reducible first | apply canon_recordErr | apply canon_flag | apply canon_memWrite | apply canon_invRecord | apply canon_entry | apply canon_putEntry | apply canon_withWing | apply canon_forEach | apply canon_foldl | apply canon_foldl1 | apply canon_foldl2 | apply canon_foldl22 | refine canonP_use ?_ (by assumption)
    | split
    | dsimp -zeta only)

theorem canon_merge {s : State} (w : Nat) (h_s : s.Canon) : (State.merge s w).Canon := by
  unfold State.merge
  repeat' (first
    | with_reducible assumption
    | intro _
    | (extract_lets -merge +onlyGivenNames t_
       first
       | (refine canon_cut (s := t_) ?_ (fun h_ => ?_) <;> [subst t_; clear_value t_])
       | (refine canon_cut (s := t_.2.2) ?_ (fun h_ => ?_) <;> [subst t_; clear_value t_])
       | (refine canon_cut (s := t_.2) ?_ (fun h_ => ?_) <;> [subst t_; clear_value t_])
       | clear_value t_)
    | with_reducible first | apply canon_memReads | apply canon_mergeOne | apply canon_forEach
    | dsimp -zeta only)

theorem canon_pendingSeals {s : State} (w : Nat) (h_s : s.Canon) : (State.pendingSeals s w).2.Canon := by
  unfold State.pendingSeals
  repeat' (first
    | with_reducible assumption
    | intro _
    | (extract_lets -merge +onlyGivenNames t_
       first
       | (refine canon_cut (s := t_) ?_ (fun h_ => ?_) <;> [subst t_; clear_value t_])
       | (refine canon_cut (s := t_.2) ?_ (fun h_ => ?_) <;> [subst t_; clear_value t_])
       | clear_value t_)
    | with_reducible first | apply canon_entry | apply canon_ite | apply canon_foldl | apply canon_foldl1 | apply canon_foldl2 | apply canon_foldl22 | refine canonP_use ?_ (by assumption)
    | split
    | dsimp -zeta only)

theorem canon_sealNext {s : State} (w : Nat) (h_s : s.Canon) : (State.sealNext s w).Canon := by
  unfold State.sealNext
  repeat' (first
    | with_reducible assumption
    | intro _
    | (extract_lets -merge +onlyGivenNames t_
       first
       | (refine canon_cut (s := t_) ?_ (fun h_ => ?_) <;> [subst t_; clear_value t_])
       | (refine canon_cut (s := t_.2) ?_ (fun h_ => ?_) <;> [subst t_; clear_value t_])
       | clear_value t_)
    | (simp only [canon_parts]; with_reducible first | exact parts_of (by assumption) | apply parts_of)
    | with_reducible first | apply canon_entry | apply canon_sendFrame | apply canon_withWing | apply canon_invOff | apply canon_invTake | refine canonP_use ?_ (by assumption) | refine canonO_use ?_ (by assumption)
    | split
    | dsimp -zeta only)

theorem canon_rewakeReply {s : State} (w : Nat) (levels : List (List Nat)) (selecting : Bool) (r : RxRes) (h_s : s.Canon) : (State.rewakeReply s w levels selecting r).Canon := by
  unfold State.rewakeReply
  repeat' (first
    | with_reducible assumption
    | intro _
    | (extract_lets -merge +onlyGivenNames t_
       first
       | (refine canon_cut (s := t_) ?_ (fun h_ => ?_) <;> [subst t_; clear_value t_])
       | (refine canon_cutF (f := t_) ?_ (fun h_ => ?_) <;> [subst t_; clear_value t_])
       | (refine canon_cutG (f := t_) ?_ (fun h_ => ?_) <;> [subst t_; clear_value t_])
       | (refine canon_cut (s := t_.2) ?_ (fun h_ => ?_) <;> [subst t_; clear_value t_])
       | clear_value t_)
    | (simp only [canon_parts]; with_reducible first | exact parts_of (by assumption) | apply parts_of)
    | with_reducible first | refine canonF_use (by assumption) ?_ | refine canonG_use (by assumption) ?_ | apply canon_entry | apply canon_putEntry | apply canon_withEng | apply canon_engEnd | apply canon_sendFrame | apply canon_ite | refine canonP_use ?_ (by assumption)
    | split
    | dsimp -zeta only)

theorem canon_resumeStep {s : State} (w st : Nat) (h_s : s.Canon) : (State.resumeStep s w st).Canon := by
  unfold State.resumeStep
  repeat' (first
    | with_reducible assumption
    | intro _
    | (extract_lets -merge +onlyGivenNames t_
       first
       | (refine canon_cut (s := t_) ?_ (fun h_ => ?_) <;> [subst t_; clear_value t_])
       | (refine canon_cut (s := t_.2) ?_ (fun h_ => ?_) <;> [subst t_; clear_value t_])
       | clear_value t_)
    | (simp only [canon_parts]; with_reducible first | exact parts_of (by assumption) | apply parts_of)
    | with_reducible first | apply canon_entry | apply canon_laneBusy | apply canon_gambitBegin | apply canon_sealLaunch | apply canon_withWing | apply canon_invOff | apply canon_invTake | apply canon_sealNext | apply canon_ite | refine canonP_use ?_ (by assumption) | refine canonO_use ?_ (by assumption)
    | split
    | dsimp -zeta only)

theorem canon_invProc {s : State} (w : Nat) (h_s : s.Canon) : (State.invProc s w).Canon := by
  unfold State.invProc
  repeat' (first
    | with_reducible assumption
    | intro _
    | (extract_lets -merge +onlyGivenNames t_
       first
       | (refine canon_cut (s := t_) ?_ (fun h_ => ?_) <;> [subst t_; clear_value t_])
       | clear_value t_)
    | (simp only [canon_parts]; with_reducible first | exact parts_of (by assumption) | apply parts_of)
    | with_reducible first | apply canon_withWing | apply canon_invOff | apply canon_invTake | apply canon_invNext | apply canon_discNext | apply canon_ite | refine canonO_use ?_ (by assumption)
    | split
    | dsimp -zeta only)

theorem canon_invOwn {s : State} (w st : Nat) (h_s : s.Canon) : (State.invOwn s w st).Canon := by
  unfold State.invOwn
  repeat' (first
    | with_reducible assumption
    | intro _
    | (extract_lets -merge +onlyGivenNames t_
       first
       | (refine canon_cut (s := t_) ?_ (fun h_ => ?_) <;> [subst t_; clear_value t_])
       | (refine canon_cut (s := t_.2) ?_ (fun h_ => ?_) <;> [subst t_; clear_value t_])
       | clear_value t_)
    | (simp only [canon_parts]; with_reducible first | exact parts_of (by assumption) | apply parts_of)
    | with_reducible first | apply canon_withWing | apply canon_setQueued | apply canon_invOff | apply canon_missEntries | apply canon_discNext | apply canon_merge | apply canon_pendingSeals | apply canon_sealNext | apply canon_resumeStep | apply canon_invProc | apply canon_ite | refine canonP_use ?_ (by assumption)
    | split
    | dsimp -zeta only)

theorem canon_usedEntries {s : State} (p : Nat) (h_s : s.Canon) : (State.usedEntries s p).2.Canon := by
  unfold State.usedEntries
  repeat' (first
    | with_reducible assumption
    | intro _
    | (extract_lets -merge +onlyGivenNames t_
       first
       | (refine canon_cut (s := t_) ?_ (fun h_ => ?_) <;> [subst t_; clear_value t_])
       | (refine canon_cut (s := t_.2) ?_ (fun h_ => ?_) <;> [subst t_; clear_value t_])
       | clear_value t_)
    | with_reducible first | apply canon_entry | apply canon_ite | apply canon_foldl | apply canon_foldl1 | apply canon_foldl2 | apply canon_foldl22 | refine canonP_use ?_ (by assumption)
    | split
    | dsimp -zeta only)

theorem canon_launchWing {s : State} (r w : Nat) (h : s.Canon) : (State.launchWing s r w).Canon := by
  unfold State.launchWing
  extract_lets -merge +onlyGivenNames p
  split
  · exact h
  · split
    · exact h
    · extract_lets -merge +onlyGivenNames s1 x confirm src s2 s3
      have h1 : s1.Canon := by
        subst s1
        split
        · exact canon_setOwner _ _ h
        · exact h
      have h2 : x.2.Canon := by
        subst x
        split
        · exact h1
        · exact canon_usedEntries _ h1
      have h3 : s3.Canon := canon_armField _ _ _ _ (canon_withWing _ _ h2)
      split
      · exact canon_fireField _ h3
      · exact canon_withWing _ _ h3

theorem canon_launchRound {s : State} (r : Nat) (h_s : s.Canon) : (State.launchRound s r).Canon := by
  unfold State.launchRound
  repeat' (first
    | with_reducible assumption
    | rfl
    | with_reducible exact List.length_set ..
    | intro _
    | (extract_lets -merge +onlyGivenNames t_
       first
       | (refine canon_cut (s := t_) ?_ (fun h_ => ?_) <;> [subst t_; clear_value t_])
       | clear_value t_)
    | (simp only [canon_parts]; with_reducible first | exact parts_of (by assumption) | apply parts_of)
    | with_reducible first | apply canon_put | apply canon_recordErr | apply canon_flag | apply canon_invRecord | apply canon_withInv | apply canon_setInvState | apply canon_armSlot | apply canon_roundDone | apply canon_invSettleAll | apply canon_launchWing | apply canon_ite | apply canon_when | apply canon_forEach
    | split
    | dsimp -zeta only)

theorem canon_effRoundLaunch (_late : Bool) {s : State} (h_s : s.Canon) : (effRoundLaunch _late s).Canon := by
  unfold effRoundLaunch
  repeat' (first
    | with_reducible assumption
    | intro _
    | (extract_lets -merge +onlyGivenNames t_
       first
       | (refine canon_cut (s := t_) ?_ (fun h_ => ?_) <;> [subst t_; clear_value t_])
       | clear_value t_)
    | (simp only [canon_parts]; with_reducible first | exact parts_of (by assumption) | apply parts_of)
    | with_reducible first | apply canon_endPass | apply canon_invCut | apply canon_endRound | apply canon_launchRound | apply canon_ite | apply canon_forEach
    | split
    | dsimp -zeta only)

theorem canon_passOver {s : State} (st : Nat) (h_s : s.Canon) : (State.passOver s st).Canon := by
  unfold State.passOver
  repeat' (first
    | with_reducible assumption
    | rfl
    | with_reducible exact List.length_set ..
    | intro _
    | (extract_lets -merge +onlyGivenNames t_
       first
       | (refine canon_cut (s := t_) ?_ (fun h_ => ?_) <;> [subst t_; clear_value t_])
       | clear_value t_)
    | (simp only [canon_parts]; with_reducible first | exact parts_of (by assumption) | apply parts_of)
    | with_reducible first | apply canon_incMod | apply canon_flag | apply canon_present | apply canon_telCount | apply canon_endMove | apply canon_withInv | apply canon_when | apply canon_forEach
    | dsimp -zeta only)

theorem canon_invIdle {s : State} (h_s : s.Canon) : (State.invIdle s).Canon := by
  unfold State.invIdle
  repeat' (first
    | with_reducible assumption
    | rfl
    | with_reducible exact List.length_set ..
    | intro _
    | (simp only [canon_parts]; with_reducible first | exact parts_of (by assumption) | apply parts_of)
    | with_reducible first | apply canon_disarm | apply canon_withInv | apply canon_setInvState
    | dsimp -zeta only)

theorem canon_effPassEnd {s : State} (h_s : s.Canon) : (effPassEnd s).Canon := by
  unfold effPassEnd
  repeat' (first
    | with_reducible assumption
    | rfl
    | with_reducible exact List.length_set ..
    | intro _
    | (extract_lets -merge +onlyGivenNames t_
       first
       | (refine canon_cut (s := t_) ?_ (fun h_ => ?_) <;> [subst t_; clear_value t_])
       | clear_value t_)
    | (simp only [canon_parts]; with_reducible first | exact parts_of (by assumption) | apply parts_of)
    | with_reducible first | apply canon_withInv | apply canon_armPass | apply canon_armDisc | apply canon_passOver | apply canon_invIdle | apply canon_ite
    | split
    | dsimp -zeta only)

theorem canon_invAbandon {s : State} (st : Nat) (count : Bool) (h_s : s.Canon) : (State.invAbandon s st count).Canon := by
  unfold State.invAbandon
  repeat' (first
    | with_reducible assumption
    | rfl
    | with_reducible exact List.length_set ..
    | intro _
    | (extract_lets -merge +onlyGivenNames t_
       first
       | (refine canon_cut (s := t_) ?_ (fun h_ => ?_) <;> [subst t_; clear_value t_])
       | clear_value t_)
    | (simp only [canon_parts]; with_reducible first | exact parts_of (by assumption) | apply parts_of)
    | with_reducible first | apply canon_unsched | apply canon_withInv | apply canon_invCutLate | apply canon_passOver | apply canon_invIdle | apply canon_ite | apply canon_forEach
    | split
    | dsimp -zeta only)

theorem canon_effInvSchedMismatch {s : State} (h_s : s.Canon) : (effInvSchedMismatch s).Canon := by
  unfold effInvSchedMismatch
  repeat' (first
    | with_reducible assumption
    | rfl
    | with_reducible exact List.length_set ..
    | intro _
    | (extract_lets -merge +onlyGivenNames t_
       first
       | (refine canon_cut (s := t_) ?_ (fun h_ => ?_) <;> [subst t_; clear_value t_])
       | clear_value t_)
    | (simp only [canon_parts]; with_reducible first | exact parts_of (by assumption) | apply parts_of)
    | with_reducible first | apply canon_reportFault | apply canon_setFault | apply canon_withInv | apply canon_invAbandon | apply canon_ite
    | split
    | dsimp -zeta only)

theorem canon_effPendHandoff {s : State} (h_s : s.Canon) : (effPendHandoff s).Canon := by
  unfold effPendHandoff
  repeat' (first
    | with_reducible assumption
    | intro _
    | (extract_lets -merge +onlyGivenNames t_
       first
       | (refine canon_cut (s := t_) ?_ (fun h_ => ?_) <;> [subst t_; clear_value t_])
       | clear_value t_)
    | with_reducible first | apply canon_putBit | apply canon_invRecord | apply canon_setQueued | apply canon_ite | apply canon_forEach
    | split
    | dsimp -zeta only)

end Sys2Proof.Machine
end

