-- ==== Sys2Proof/Laws/CanonKbz.lean ====
section
/-! SUPPORT. The functions of Machine/Kbz.lean keep the canonical form. -/

namespace Sys2Proof.Machine

open Sys2Proof

set_option linter.all false

theorem canon_withKbz {s : State} (f : Kbz → Kbz) (h_s : s.Canon) : (State.withKbz s f).Canon := by
  unfold State.withKbz
  repeat' (first
    | with_reducible assumption
    | (simp only [canon_parts]; with_reducible first | exact parts_of (by assumption) | apply parts_of)
    | dsimp -zeta only)

theorem canon_kbzKeep {s : State} (h_s : s.Canon) : (State.kbzKeep s).Canon := by
  unfold State.kbzKeep
  repeat' (first
    | with_reducible assumption
    | intro _
    | (simp only [canon_parts]; with_reducible first | exact parts_of (by assumption) | apply parts_of)
    | with_reducible apply canon_withKbz
    | dsimp -zeta only)

theorem canon_kbzFlag {s : State} (f : Fld) (h_s : s.Canon) : (State.kbzFlag s f).Canon := by
  unfold State.kbzFlag
  repeat' (first
    | with_reducible assumption
    | intro _
    | with_reducible first | apply canon_flag | apply canon_when
    | dsimp -zeta only)

theorem canon_takeHand {s : State} (h_s : s.Canon) : (State.takeHand s).Canon := by
  unfold State.takeHand
  repeat' (first
    | with_reducible assumption
    | intro _
    | (extract_lets -merge +onlyGivenNames t_
       first
       | (refine canon_cut (s := t_) ?_ (fun h_ => ?_) <;> [subst t_; clear_value t_])
       | clear_value t_)
    | (simp only [canon_parts]; with_reducible first | exact parts_of (by assumption) | apply parts_of)
    | with_reducible apply canon_withKbz
    | dsimp -zeta only)

theorem canon_sweepNow {s : State} (h_s : s.Canon) : (State.sweepNow s).Canon := by
  unfold State.sweepNow
  repeat' (first
    | with_reducible assumption
    | intro _
    | (extract_lets -merge +onlyGivenNames t_
       first
       | (refine canon_cut (s := t_) ?_ (fun h_ => ?_) <;> [subst t_; clear_value t_])
       | clear_value t_)
    | (simp only [canon_parts]; with_reducible first | exact parts_of (by assumption) | apply parts_of)
    | with_reducible first | apply canon_putB | apply canon_resched | apply canon_withKbz | apply canon_takeHand
    | dsimp -zeta only)

theorem canon_effSweepStart {s : State} (h_s : s.Canon) : (effSweepStart s).Canon := by
  unfold effSweepStart
  repeat' (first
    | with_reducible assumption
    | intro _
    | (extract_lets -merge +onlyGivenNames t_
       first
       | (refine canon_cut (s := t_) ?_ (fun h_ => ?_) <;> [subst t_; clear_value t_])
       | clear_value t_)
    | (simp only [canon_parts]; with_reducible first | exact parts_of (by assumption) | apply parts_of)
    | with_reducible first | apply canon_resched | apply canon_recordErr | apply canon_withKbz | apply canon_kbzFlag | apply canon_sweepNow | apply canon_ite | apply canon_when
    | split
    | dsimp -zeta only)

theorem canon_sweepTask {s : State} (hop : Nat) (h_s : s.Canon) : (State.sweepTask s hop).Canon := by
  unfold State.sweepTask
  repeat' (first
    | with_reducible assumption
    | intro _
    | (extract_lets -merge +onlyGivenNames t_
       first
       | (refine canon_cut (s := t_) ?_ (fun h_ => ?_) <;> [subst t_; clear_value t_])
       | clear_value t_)
    | (simp only [canon_parts]; with_reducible first | exact parts_of (by assumption) | apply parts_of)
    | with_reducible first | apply canon_withKbz | apply canon_sweepNow | apply canon_ite
    | split
    | dsimp -zeta only)

theorem canon_skipTo {s : State} (p : Nat) (h_s : s.Canon) : (State.skipTo s p).Canon := by
  unfold State.skipTo
  repeat' (first
    | with_reducible assumption
    | intro _
    | (extract_lets -merge +onlyGivenNames t_
       first
       | (refine canon_cut (s := t_) ?_ (fun h_ => ?_) <;> [subst t_; clear_value t_])
       | clear_value t_)
    | (simp only [canon_parts]; with_reducible first | exact parts_of (by assumption) | apply parts_of)
    | with_reducible first | apply canon_incBy | apply canon_withKbz
    | dsimp -zeta only)

theorem canon_dropHits {s : State} (h_s : s.Canon) : (State.dropHits s).Canon := by
  unfold State.dropHits
  repeat' (first
    | with_reducible assumption
    | intro _
    | (simp only [canon_parts]; with_reducible first | exact parts_of (by assumption) | apply parts_of)
    | with_reducible first | apply canon_incBy | apply canon_withKbz
    | dsimp -zeta only)

theorem canon_setBase {s : State} (p : Nat) (b : Base) (h_s : s.Canon) : (State.setBase s p b).Canon := by
  unfold State.setBase
  repeat' (first
    | with_reducible assumption
    | intro _
    | (extract_lets -merge +onlyGivenNames t_
       first
       | (refine canon_cut (s := t_) ?_ (fun h_ => ?_) <;> [subst t_; clear_value t_])
       | clear_value t_)
    | (simp only [canon_parts]; with_reducible first | exact parts_of (by assumption) | apply parts_of)
    | with_reducible first | apply canon_put | apply canon_withKbz | apply canon_ite
    | split
    | dsimp -zeta only)

theorem canon_devOr {s : State} (x : Int) (h_s : s.Canon) : (State.devOr s x).2.Canon := by
  unfold State.devOr
  repeat' (first
    | with_reducible first | assumption | apply canon_nextFree | apply canon_ite
    | split
    | dsimp -zeta only)

theorem canon_trackBase {s : State} (p : Nat) (b : Base) (amp phase n m : Nat) (h_s : s.Canon) : (State.trackBase s p b amp phase n m).Canon := by
  unfold State.trackBase
  repeat' (first
    | with_reducible assumption
    | (extract_lets -merge +onlyGivenNames t_
       first
       | (refine canon_cut (s := t_) ?_ (fun h_ => ?_) <;> [subst t_; clear_value t_])
       | (refine canon_cut (s := t_.2) ?_ (fun h_ => ?_) <;> [subst t_; clear_value t_])
       | clear_value t_)
    | with_reducible first | apply canon_setBase | apply canon_devOr | refine canonP_use ?_ (by assumption)
    | dsimp -zeta only)

theorem canon_kbzChange {s : State} (p amp phase : Nat) (h_s : s.Canon) : (State.kbzChange s p amp phase).Canon := by
  unfold State.kbzChange
  repeat' (first
    | with_reducible assumption
    | intro _
    | (extract_lets -merge +onlyGivenNames t_
       first
       | (refine canon_cut (s := t_) ?_ (fun h_ => ?_) <;> [subst t_; clear_value t_])
       | clear_value t_)
    | (simp only [canon_parts]; with_reducible first | exact parts_of (by assumption) | apply parts_of)
    | with_reducible first | apply canon_putBit | apply canon_raise | apply canon_sched | apply canon_present | apply canon_telCount | apply canon_invRecord | apply canon_setQueued | apply canon_withKbz | apply canon_kbzFlag | apply canon_setBase | apply canon_ite | apply canon_when
    | split
    | dsimp -zeta only)

theorem canon_trackPing {s : State} (p amp phase : Nat) (h_s : s.Canon) : (State.trackPing s p amp phase).Canon := by
  unfold State.trackPing
  repeat' (first
    | with_reducible assumption
    | intro _
    | (extract_lets -merge +onlyGivenNames t_
       first
       | (refine canon_cut (s := t_) ?_ (fun h_ => ?_) <;> [subst t_; clear_value t_])
       | clear_value t_)
    | (simp only [canon_parts]; with_reducible first | exact parts_of (by assumption) | apply parts_of)
    | with_reducible first | apply canon_withKbz | apply canon_dropHits | apply canon_trackBase | apply canon_kbzChange | apply canon_ite
    | split
    | dsimp -zeta only)

theorem canon_learnPing {s : State} (p amp phase : Nat) (h_s : s.Canon) : (State.learnPing s p amp phase).Canon := by
  unfold State.learnPing
  repeat' (first
    | with_reducible assumption
    | intro _
    | (extract_lets -merge +onlyGivenNames t_
       first
       | (refine canon_cut (s := t_) ?_ (fun h_ => ?_) <;> [subst t_; clear_value t_])
       | clear_value t_)
    | (simp only [canon_parts]; with_reducible first | exact parts_of (by assumption) | apply parts_of)
    | with_reducible first | apply canon_put | apply canon_withKbz | apply canon_trackBase | apply canon_ite
    | split
    | dsimp -zeta only)

theorem canon_stopSweep {s : State} (h_s : s.Canon) : (State.stopSweep s).Canon := by
  unfold State.stopSweep
  repeat' (first
    | with_reducible assumption
    | intro _
    | (extract_lets -merge +onlyGivenNames t_
       first
       | (refine canon_cut (s := t_) ?_ (fun h_ => ?_) <;> [subst t_; clear_value t_])
       | clear_value t_)
    | (simp only [canon_parts]; with_reducible first | exact parts_of (by assumption) | apply parts_of)
    | with_reducible first | apply canon_putB | apply canon_untimer | apply canon_withKbz | apply canon_dropHits
    | dsimp -zeta only)

theorem canon_pingIn {s : State} (port : Nat) (r : PingResult) (h_s : s.Canon) : (State.pingIn s port r).Canon := by
  unfold State.pingIn
  repeat' (first
    | with_reducible assumption
    | intro _
    | (extract_lets -merge +onlyGivenNames t_
       first
       | (refine canon_cut (s := t_) ?_ (fun h_ => ?_) <;> [subst t_; clear_value t_])
       | clear_value t_)
    | (simp only [canon_parts]; with_reducible first | exact parts_of (by assumption) | apply parts_of)
    | with_reducible first | apply canon_put | apply canon_inc | apply canon_setFault | apply canon_withKbz | apply canon_skipTo | apply canon_dropHits | apply canon_trackPing | apply canon_learnPing | apply canon_ite
    | split
    | dsimp -zeta only)

theorem canon_effPing (port : Nat) (r : PingResult) {s : State} (h_s : s.Canon) : (effPing port r s).Canon := by
  unfold effPing
  repeat' (first
    | with_reducible assumption
    | (extract_lets -merge +onlyGivenNames t_
       first
       | (refine canon_cut (s := t_) ?_ (fun h_ => ?_) <;> [subst t_; clear_value t_])
       | clear_value t_)
    | with_reducible first | apply canon_takeHand | apply canon_stopSweep | apply canon_pingIn | apply canon_when
    | dsimp -zeta only)

theorem canon_sweepOver {s : State} (h_s : s.Canon) : (State.sweepOver s).Canon := by
  unfold State.sweepOver
  repeat' (first
    | with_reducible assumption
    | (extract_lets -merge +onlyGivenNames t_
       first
       | (refine canon_cut (s := t_) ?_ (fun h_ => ?_) <;> [subst t_; clear_value t_])
       | clear_value t_)
    | with_reducible first | apply canon_putB | apply canon_incMod | apply canon_present | apply canon_kbzFlag | apply canon_sweepNow | apply canon_skipTo | apply canon_dropHits | apply canon_ite
    | split
    | dsimp -zeta only)

theorem canon_effSweepEnd {s : State} (h_s : s.Canon) : (effSweepEnd s).Canon := by
  unfold effSweepEnd
  repeat' (first
    | with_reducible first | assumption | apply canon_stopSweep | apply canon_sweepOver | apply canon_ite
    | split
    | dsimp -zeta only)

theorem canon_endSweep {s : State} (h_s : s.Canon) : (State.endSweep s).Canon := by
  unfold State.endSweep
  repeat' (first
    | with_reducible assumption
    | intro _
    | (simp only [canon_parts]; with_reducible first | exact parts_of (by assumption) | apply parts_of)
    | with_reducible first | apply canon_retimer | apply canon_withKbz | apply canon_ite
    | split
    | dsimp -zeta only)

theorem canon_kbzStop {s : State} (h_s : s.Canon) : (State.kbzStop s).Canon := by
  unfold State.kbzStop
  repeat' (first
    | with_reducible first | assumption | apply canon_stopSweep | apply canon_ite
    | split
    | dsimp -zeta only)

theorem canon_effKbzMismatch {s : State} (h_s : s.Canon) : (effKbzMismatch s).Canon := by
  unfold effKbzMismatch
  repeat' (first
    | with_reducible assumption
    | intro _
    | (extract_lets -merge +onlyGivenNames t_
       first
       | (refine canon_cut (s := t_) ?_ (fun h_ => ?_) <;> [subst t_; clear_value t_])
       | clear_value t_)
    | (simp only [canon_parts]; with_reducible first | exact parts_of (by assumption) | apply parts_of)
    | with_reducible first | apply canon_setFault | apply canon_withKbz | apply canon_takeHand | apply canon_dropHits | apply canon_ite
    | split
    | dsimp -zeta only)

end Sys2Proof.Machine
end

