-- ==== Sys2Proof/Laws/CanonWing.lean ====
section
/-! SUPPORT. The functions of Machine/Wing.lean keep the canonical form. -/

namespace Sys2Proof.Machine

open Sys2Proof

set_option linter.all false

theorem canon_legacyIn {s : State} (w : Nat) (r : RxRes) (isW : Bool) (h_s : s.Canon) : (State.legacyIn s w r isW).Canon := by
  unfold State.legacyIn
  repeat' (first
    | with_reducible assumption
    | intro _
    | (extract_lets -merge +onlyGivenNames t_
       first
       | (refine canon_cut (s := t_) ?_ (fun h_ => ?_) <;> [subst t_; clear_value t_])
       | clear_value t_)
    | (simp only [canon_parts]; with_reducible first | exact parts_of (by assumption) | apply parts_of)
    | with_reducible first | apply canon_unsched | apply canon_present | apply canon_withEng | apply canon_setRxState | apply canon_engEnd | apply canon_blockReply | apply canon_atqbFwi | apply canon_exchangeEnd | apply canon_acReply | apply canon_gambitReply | apply canon_legacyReply | apply canon_invReply | apply canon_rewakeReply
    | split
    | dsimp -zeta only)

theorem canon_effReplyFrame (w : Nat) (r : Reply) {s : State} (h_s : s.Canon) : (effReplyFrame w r s).Canon := by
  unfold effReplyFrame
  repeat' (first
    | with_reducible assumption
    | (extract_lets -merge +onlyGivenNames t_
       first
       | (refine canon_cut (s := t_) ?_ (fun h_ => ?_) <;> [subst t_; clear_value t_])
       | (refine canon_cut (s := t_.2) ?_ (fun h_ => ?_) <;> [subst t_; clear_value t_])
       | clear_value t_)
    | with_reducible first | apply canon_showReply | apply canon_legacyIn | apply canon_ite
    | split
    | dsimp -zeta only)

theorem canon_blitzIn {s : State} (w : Nat) (r : BlitzRes) (h_s : s.Canon) : (State.blitzIn s w r).Canon := by
  unfold State.blitzIn
  repeat' (first
    | with_reducible assumption
    | intro _
    | (extract_lets -merge +onlyGivenNames t_
       first
       | (refine canon_cut (s := t_) ?_ (fun h_ => ?_) <;> [subst t_; clear_value t_])
       | clear_value t_)
    | (simp only [canon_parts]; with_reducible first | exact parts_of (by assumption) | apply parts_of)
    | with_reducible first | apply canon_id | apply canon_unsched | apply canon_retap | apply canon_withEng | apply canon_setRxState | apply canon_engEnd | apply canon_blitzEnd | apply canon_soundReply | apply canon_bookReply | apply canon_reloadReply | apply canon_sealReply
    | split
    | dsimp -zeta only)

theorem canon_effReplyWaitEnd (w : Nat) {s : State} (h_s : s.Canon) : (effReplyWaitEnd w s).Canon := by
  unfold effReplyWaitEnd
  repeat' (first
    | with_reducible assumption
    | intro _
    | (extract_lets -merge +onlyGivenNames t_
       first
       | (refine canon_cut (s := t_) ?_ (fun h_ => ?_) <;> [subst t_; clear_value t_])
       | clear_value t_)
    | (simp only [canon_parts]; with_reducible first | exact parts_of (by assumption) | apply parts_of)
    | with_reducible first | apply canon_withEng | apply canon_showReply | apply canon_legacyIn | apply canon_blitzIn | apply canon_ite | apply canon_when
    | split
    | dsimp -zeta only)

theorem canon_headerEnd {s : State} (w : Nat) (samples : List Nat) (slip : Option Nat) (h_s : s.Canon) : (State.headerEnd s w samples slip).Canon := by
  unfold State.headerEnd
  repeat' (first
    | with_reducible assumption
    | (extract_lets -merge +onlyGivenNames t_
       first
       | (refine canon_cut (s := t_) ?_ (fun h_ => ?_) <;> [subst t_; clear_value t_])
       | clear_value t_)
    | (simp only [canon_parts]; with_reducible first | exact parts_of (by assumption) | apply parts_of)
    | with_reducible first | apply canon_blitzShow | apply canon_blitzClip | apply canon_blitzIn
    | dsimp -zeta only)

theorem canon_effBlitzHeader (w : Nat) (samples : List Nat) {s : State} (h_s : s.Canon) : (effBlitzHeader w samples s).Canon := by
  unfold effBlitzHeader
  repeat' (first
    | with_reducible assumption
    | intro _
    | (extract_lets -merge +onlyGivenNames t_
       first
       | (refine canon_cut (s := t_) ?_ (fun h_ => ?_) <;> [subst t_; clear_value t_])
       | (refine canon_cut (s := t_.2) ?_ (fun h_ => ?_) <;> [subst t_; clear_value t_])
       | clear_value t_)
    | (simp only [canon_parts]; with_reducible first | exact parts_of (by assumption) | apply parts_of)
    | with_reducible first | apply canon_inc | apply canon_recordErr | apply canon_flag | apply canon_withRx | apply canon_withEng | apply canon_showLevel | apply canon_xmpWait | apply canon_bookWords | apply canon_chooseBook | apply canon_headerEnd | apply canon_ite | refine canonR_use' ?_ (by assumption)
    | split
    | dsimp -zeta only)

theorem canon_effBlitzFrameEnd (w : Nat) (f : BlitzFrame) {s : State} (h_s : s.Canon) : (effBlitzFrameEnd w f s).Canon := by
  unfold effBlitzFrameEnd
  repeat' (first
    | with_reducible assumption
    | (extract_lets -merge +onlyGivenNames t_
       first
       | (refine canon_cut (s := t_) ?_ (fun h_ => ?_) <;> [subst t_; clear_value t_])
       | clear_value t_)
    | with_reducible first | apply canon_linkQuality | apply canon_blitzShow | apply canon_blitzClip | apply canon_blitzIn | apply canon_ite
    | split
    | dsimp -zeta only)

theorem canon_brokenRecord {s : State} (w : Nat) (mark : Option Nat) (h_s : s.Canon) : (State.brokenRecord s w mark).Canon := by
  unfold State.brokenRecord
  repeat' (first
    | with_reducible assumption
    | intro _
    | (extract_lets -merge +onlyGivenNames t_
       first
       | (refine canon_cut (s := t_) ?_ (fun h_ => ?_) <;> [subst t_; clear_value t_])
       | clear_value t_)
    | (simp only [canon_parts]; with_reducible first | exact parts_of (by assumption) | apply parts_of)
    | with_reducible first | apply canon_put | apply canon_nextFree | apply canon_flag | apply canon_present | apply canon_startAngle | apply canon_showReply | apply canon_writeRecord | apply canon_ite | apply canon_when
    | split
    | dsimp -zeta only)

theorem canon_breakWing {s : State} (w st : Nat) (mark : Option Nat) (h_s : s.Canon) : (State.breakWing s w st mark).Canon := by
  unfold State.breakWing
  repeat' (first
    | with_reducible assumption
    | (extract_lets -merge +onlyGivenNames t_
       first
       | (refine canon_cut (s := t_) ?_ (fun h_ => ?_) <;> [subst t_; clear_value t_])
       | clear_value t_)
    | (simp only [canon_parts]; with_reducible first | exact parts_of (by assumption) | apply parts_of)
    | with_reducible first | apply canon_flag | apply canon_present | apply canon_cutFrame | apply canon_engEnd | apply canon_sealDone | apply canon_legacyReply | apply canon_brokenRecord | apply canon_ite
    | split
    | dsimp -zeta only)

theorem canon_stopNow {s : State} (w : Nat) (h_s : s.Canon) : (State.stopNow s w).Canon := by
  unfold State.stopNow
  repeat' (first
    | with_reducible assumption
    | (simp only [canon_parts]; with_reducible first | exact parts_of (by assumption) | apply parts_of)
    | with_reducible first | apply canon_sealDone | apply canon_breakWing
    | split
    | dsimp -zeta only)

theorem canon_stopWing {s : State} (w st : Nat) (h_s : s.Canon) : (State.stopWing s w st).Canon := by
  unfold State.stopWing
  repeat' (first
    | with_reducible assumption
    | intro _
    | (extract_lets -merge +onlyGivenNames t_
       first
       | (refine canon_cut (s := t_) ?_ (fun h_ => ?_) <;> [subst t_; clear_value t_])
       | clear_value t_)
    | (simp only [canon_parts]; with_reducible first | exact parts_of (by assumption) | apply parts_of)
    | with_reducible first | apply canon_withEng | apply canon_stopNow | apply canon_ite
    | split
    | dsimp -zeta only)

theorem canon_frameOut {s : State} (w : Nat) (h_s : s.Canon) : (State.frameOut s w).Canon := by
  unfold State.frameOut
  repeat' (first
    | with_reducible assumption
    | (extract_lets -merge +onlyGivenNames t_
       first
       | (refine canon_cut (s := t_) ?_ (fun h_ => ?_) <;> [subst t_; clear_value t_])
       | clear_value t_)
    | (simp only [canon_parts]; with_reducible first | exact parts_of (by assumption) | apply parts_of)
    | with_reducible first | apply canon_present | apply canon_engEnd | apply canon_awaitLegacy | apply canon_frameEnd | apply canon_acContinue | apply canon_awaitBlitz | apply canon_stopNow | apply canon_ite
    | split
    | dsimp -zeta only)

theorem canon_effPrtEngineMismatch (w : Nat) {s : State} (h_s : s.Canon) : (effPrtEngineMismatch w s).Canon := by
  unfold effPrtEngineMismatch
  repeat' (first
    | with_reducible assumption
    | intro _
    | (extract_lets -merge +onlyGivenNames t_
       first
       | (refine canon_cut (s := t_) ?_ (fun h_ => ?_) <;> [subst t_; clear_value t_])
       | clear_value t_)
    | (simp only [canon_parts]; with_reducible first | exact parts_of (by assumption) | apply parts_of)
    | with_reducible first | apply canon_putBit | apply canon_setFault | apply canon_withEng | apply canon_outOfService | apply canon_breakWing | apply canon_ite
    | split
    | dsimp -zeta only)

theorem canon_effLaneMismatch (w : Nat) {s : State} (h_s : s.Canon) : (effLaneMismatch w s).Canon := by
  unfold effLaneMismatch
  repeat' (first
    | with_reducible assumption
    | intro _
    | (extract_lets -merge +onlyGivenNames t_
       first
       | (refine canon_cut (s := t_) ?_ (fun h_ => ?_) <;> [subst t_; clear_value t_])
       | clear_value t_)
    | (simp only [canon_parts]; with_reducible first | exact parts_of (by assumption) | apply parts_of)
    | with_reducible first | apply canon_putBit | apply canon_setFault | apply canon_withEng | apply canon_outOfService | apply canon_breakWing | apply canon_ite | apply canon_when
    | split
    | dsimp -zeta only)

theorem canon_takeEnd {s : State} (e : WingEnd) (h_s : s.Canon) : (State.takeEnd s e).Canon := by
  unfold State.takeEnd
  repeat' (first
    | with_reducible first | assumption | apply canon_invOwn | apply canon_breakWing | apply canon_ite
    | split
    | dsimp -zeta only)

theorem canon_takeEnds {s : State} (n : Nat) (h : s.Canon) : (State.takeEnds n s).Canon := by
  induction n generalizing s with
  | zero => exact h
  | succ k ih =>
    unfold State.takeEnds
    split
    · exact h
    · exact ih (canon_forEach ((canon_parts ..).2 (parts_of h)) _ (fun t e ht => canon_takeEnd e ht))

end Sys2Proof.Machine
end

