-- ==== Sys2Proof/Laws/CanonConductor.lean ====
section
/-! SUPPORT. The functions of Machine/Conductor.lean keep the canonical form. -/

namespace Sys2Proof.Machine

open Sys2Proof

set_option linter.all false

theorem canon_markReg {s : State} (page off : Nat) (b : Bool) (h_s : s.Canon) : (State.markReg s page off b).Canon := by
  unfold State.markReg
  repeat' (first
    | with_reducible assumption
    | intro _
    | (extract_lets -merge +onlyGivenNames t_
       first
       | (refine canon_cut (s := t_) ?_ (fun h_ => ?_) <;> [subst t_; clear_value t_])
       | clear_value t_)
    | (simp only [canon_parts]; with_reducible first | exact parts_of (by assumption) | apply parts_of)
    | with_reducible apply canon_ite
    | split
    | dsimp -zeta only)

theorem canon_setA {s : State} (c r v : Nat) (psn : Bool) (h_s : s.Canon) : (State.setA s c r v psn).Canon := by
  unfold State.setA
  repeat' (first
    | with_reducible first | assumption | apply canon_setReg | apply canon_markReg
    | dsimp -zeta only)

theorem canon_setReason {s : State} (c r : Nat) (h_s : s.Canon) : (State.setReason s c r).Canon := by
  unfold State.setReason
  repeat' (first
    | with_reducible first | assumption | apply canon_put
    | dsimp -zeta only)

theorem canon_setPc {s : State} (c a : Nat) (h_s : s.Canon) : (State.setPc s c a).Canon := by
  unfold State.setPc
  repeat' (first
    | with_reducible first | assumption | apply canon_put
    | dsimp -zeta only)

theorem canon_setOp {s : State} (c op : Nat) (h_s : s.Canon) : (State.setOp s c op).Canon := by
  unfold State.setOp
  repeat' (first
    | with_reducible first | assumption | apply canon_put
    | dsimp -zeta only)

theorem canon_setStack {s : State} (c : Nat) (l : List Nat) (h_s : s.Canon) : (State.setStack s c l).Canon := by
  unfold State.setStack
  repeat' (first
    | with_reducible assumption
    | intro _
    | (simp only [canon_parts]; with_reducible first | exact parts_of (by assumption) | apply parts_of)
    | with_reducible first | apply canon_put | apply canon_withCtx
    | dsimp -zeta only)

theorem canon_fetchNext {s : State} (c : Nat) (h_s : s.Canon) : (State.fetchNext s c).Canon := by
  unfold State.fetchNext
  repeat' (first
    | with_reducible first | assumption | apply canon_resched | apply canon_setRun
    | dsimp -zeta only)

theorem canon_clearWaits {s : State} (c : Nat) (h_s : s.Canon) : (State.clearWaits s c).Canon := by
  unfold State.clearWaits
  repeat' (first
    | with_reducible assumption
    | (extract_lets -merge +onlyGivenNames t_
       first
       | (refine canon_cut (s := t_) ?_ (fun h_ => ?_) <;> [subst t_; clear_value t_])
       | clear_value t_)
    | with_reducible first | apply canon_putBit | apply canon_unsched | apply canon_disarm
    | dsimp -zeta only)

theorem canon_fieldOffNow {s : State} (w hop : Nat) (h_s : s.Canon) : (State.fieldOffNow s w hop).Canon := by
  unfold State.fieldOffNow
  repeat' (first
    | with_reducible assumption
    | intro _
    | (extract_lets -merge +onlyGivenNames t_
       first
       | (refine canon_cut (s := t_) ?_ (fun h_ => ?_) <;> [subst t_; clear_value t_])
       | clear_value t_)
    | (simp only [canon_parts]; with_reducible first | exact parts_of (by assumption) | apply parts_of)
    | with_reducible first | apply canon_withTx | apply canon_dropArmed | apply canon_rampDown | apply canon_invCut | apply canon_ite
    | split
    | dsimp -zeta only)

theorem canon_dropClaims {s : State} (c : Nat) (down : Bool) (h_s : s.Canon) : (State.dropClaims s c down).Canon := by
  unfold State.dropClaims
  repeat' (first
    | with_reducible assumption
    | intro _
    | (extract_lets -merge +onlyGivenNames t_
       first
       | (refine canon_cut (s := t_) ?_ (fun h_ => ?_) <;> [subst t_; clear_value t_])
       | clear_value t_)
    | with_reducible first | apply canon_releaseWing | apply canon_fieldOffNow | apply canon_ite | apply canon_when | apply canon_forEach
    | split
    | dsimp -zeta only)

theorem canon_refuseStart {s : State} (c : Nat) (h_s : s.Canon) : (State.refuseStart s c).Canon := by
  unfold State.refuseStart
  repeat' (first
    | with_reducible first | assumption | apply canon_inc | apply canon_recordErr | apply canon_flag
    | dsimp -zeta only)

theorem canon_startAt {s : State} (c hop entry : Nat) (h_s : s.Canon) : (State.startAt s c hop entry).Canon := by
  unfold State.startAt
  repeat' (first
    | with_reducible assumption
    | intro _
    | (extract_lets -merge +onlyGivenNames t_
       first
       | (refine canon_cut (s := t_) ?_ (fun h_ => ?_) <;> [subst t_; clear_value t_])
       | clear_value t_)
    | with_reducible first | apply canon_put | apply canon_withCtx | apply canon_setLaunch | apply canon_entry | apply canon_setReason | apply canon_setPc | apply canon_setStack | apply canon_fetchNext | refine canonP_use ?_ (by assumption)
    | dsimp -zeta only)

theorem canon_startCtx {s : State} (c hop : Nat) (h_s : s.Canon) : (State.startCtx s c hop).Canon := by
  unfold State.startCtx
  repeat' (first
    | with_reducible first | assumption | apply canon_refuseStart | apply canon_startAt | apply canon_ite
    | split
    | dsimp -zeta only)

theorem canon_stopCtx {s : State} (c reason code : Nat) (h_s : s.Canon) : (State.stopCtx s c reason code).Canon := by
  unfold State.stopCtx
  repeat' (first
    | with_reducible assumption
    | intro _
    | (extract_lets -merge +onlyGivenNames t_
       first
       | (refine canon_cut (s := t_) ?_ (fun h_ => ?_) <;> [subst t_; clear_value t_])
       | clear_value t_)
    | (simp only [canon_parts]; with_reducible first | exact parts_of (by assumption) | apply parts_of)
    | with_reducible first | apply canon_incMod | apply canon_unsched | apply canon_recordErr | apply canon_flag | apply canon_present | apply canon_withCtx | apply canon_setRun | apply canon_setReason | apply canon_setOp | apply canon_clearWaits | apply canon_dropClaims | apply canon_ite | apply canon_when
    | split
    | dsimp -zeta only)

theorem canon_takeMove {s : State} (c : Nat) (m : Instr) (h_s : s.Canon) : (State.takeMove s c m).Canon := by
  unfold State.takeMove
  repeat' (first
    | with_reducible assumption
    | intro _
    | (extract_lets -merge +onlyGivenNames t_
       first
       | (refine canon_cut (s := t_) ?_ (fun h_ => ?_) <;> [subst t_; clear_value t_])
       | clear_value t_)
    | (simp only [canon_parts]; with_reducible first | exact parts_of (by assumption) | apply parts_of)
    | with_reducible first | apply canon_unsched | apply canon_withCtx | apply canon_setRun | apply canon_setOp | apply canon_ite
    | split
    | dsimp -zeta only)

theorem canon_issue {s : State} (c : Nat) (m : Instr) (more : Bool) (go : State → State) (h_s : s.Canon) (h_go : ∀ t : State, t.Canon → (go t).Canon) : (State.issue s c m more go).Canon := by
  unfold State.issue
  repeat' (first
    | with_reducible assumption
    | (extract_lets -merge +onlyGivenNames t_
       first
       | (refine canon_cut (s := t_) ?_ (fun h_ => ?_) <;> [subst t_; clear_value t_])
       | clear_value t_)
    | (simp only [canon_parts]; with_reducible first | exact parts_of (by assumption) | apply parts_of)
    | with_reducible first | refine canonF_use (by assumption) ?_ | refine canonG_use (by assumption) ?_ | apply canon_resched | apply canon_stopCtx | apply canon_takeMove | apply canon_ite
    | split
    | dsimp -zeta only)

theorem canon_complete {s : State} (c : Nat) (m : Instr) (st : Nat) (h_s : s.Canon) : (State.complete s c m st).Canon := by
  unfold State.complete
  repeat' (first
    | with_reducible assumption
    | intro _
    | (extract_lets -merge +onlyGivenNames t_
       first
       | (refine canon_cut (s := t_) ?_ (fun h_ => ?_) <;> [subst t_; clear_value t_])
       | clear_value t_)
    | (simp only [canon_parts]; with_reducible first | exact parts_of (by assumption) | apply parts_of)
    | with_reducible first | apply canon_put | apply canon_inc | apply canon_incMod | apply canon_sched | apply canon_withCtx | apply canon_setRun | apply canon_setLaunch | apply canon_releaseWing | apply canon_setPc | apply canon_setOp | apply canon_fetchNext | apply canon_clearWaits | apply canon_stopCtx | apply canon_ite
    | split
    | dsimp -zeta only)

theorem canon_effMoveCompletion (c : Nat) {s : State} (h_s : s.Canon) : (effMoveCompletion c s).Canon := by
  unfold effMoveCompletion
  repeat' (first
    | with_reducible assumption
    | (simp only [canon_parts]; with_reducible first | exact parts_of (by assumption) | apply parts_of)
    | with_reducible first | apply canon_resched | apply canon_complete | apply canon_ite
    | split
    | dsimp -zeta only)

theorem canon_effMoveFetch (c : Nat) {s : State} (h_s : s.Canon) : (effMoveFetch c s).Canon := by
  unfold effMoveFetch
  repeat' (first
    | with_reducible assumption
    | intro _
    | (extract_lets -merge +onlyGivenNames t_
       first
       | (refine canon_cut (s := t_) ?_ (fun h_ => ?_) <;> [subst t_; clear_value t_])
       | (refine canon_cut (s := t_.2) ?_ (fun h_ => ?_) <;> [subst t_; clear_value t_])
       | clear_value t_)
    | (simp only [canon_parts]; with_reducible first | exact parts_of (by assumption) | apply parts_of)
    | with_reducible first | apply canon_sched | apply canon_resched | apply canon_withCtx | apply canon_gather | apply canon_xmpPrefetch | apply canon_stopCtx | apply canon_ite | apply canon_when | refine canonP_use ?_ (by assumption)
    | split
    | dsimp -zeta only)

theorem canon_claimed {s : State} (c : Nat) (m : Instr) (h : Launch) (h_s : s.Canon) : (State.claimed s c m h).Canon := by
  unfold State.claimed
  repeat' (first
    | with_reducible assumption
    | (extract_lets -merge +onlyGivenNames t_
       first
       | (refine canon_cut (s := t_) ?_ (fun h_ => ?_) <;> [subst t_; clear_value t_])
       | clear_value t_)
    | (simp only [canon_parts]; with_reducible first | exact parts_of (by assumption) | apply parts_of)
    | with_reducible first | apply canon_sched | apply canon_disarm | apply canon_arm | apply canon_setRun | apply canon_setOwner | apply canon_armField | apply canon_ite
    | split
    | dsimp -zeta only)

theorem canon_issueRf {s : State} (c : Nat) (m : Instr) (h : Launch) (h_s : s.Canon) : (State.issueRf s c m h).Canon := by
  unfold State.issueRf
  repeat' (first
    | with_reducible assumption
    | intro _
    | (extract_lets -merge +onlyGivenNames t_
       first
       | (refine canon_cut (s := t_) ?_ (fun h_ => ?_) <;> [subst t_; clear_value t_])
       | (refine canon_cut (s := t_.2) ?_ (fun h_ => ?_) <;> [subst t_; clear_value t_])
       | clear_value t_)
    | (simp only [canon_parts]; with_reducible first | exact parts_of (by assumption) | apply parts_of)
    | with_reducible first | apply canon_sched | apply canon_withCtx | apply canon_setRun | apply canon_endMove | apply canon_armLimit | apply canon_issue | apply canon_claimed | apply canon_ite | apply canon_when
    | split
    | dsimp -zeta only)

theorem canon_effWingClaimGrant (w : Nat) {s : State} (h_s : s.Canon) : (effWingClaimGrant w s).Canon := by
  unfold effWingClaimGrant
  repeat' (first
    | with_reducible assumption
    | intro _
    | (simp only [canon_parts]; with_reducible first | exact parts_of (by assumption) | apply parts_of)
    | with_reducible first | apply canon_sched | apply canon_resched | apply canon_claimed | apply canon_ite
    | split
    | dsimp -zeta only)

theorem canon_takeEngine {s : State} (c w role : Nat) (fixed : Option Nat) (p : Prog) (h_s : s.Canon) : CanonO ((State.takeEngine s c w role fixed p).1) := by
  unfold State.takeEngine
  repeat' (first
    | with_reducible first | assumption | exact canonO_none | apply canonO_some | apply canonO_ite
    | (extract_lets -merge +onlyGivenNames t_
       first
       | (refine canon_cut (s := t_) ?_ (fun h_ => ?_) <;> [subst t_; clear_value t_])
       | (refine canon_cut (s := t_.2.2) ?_ (fun h_ => ?_) <;> [subst t_; clear_value t_])
       | (refine canon_cut (s := t_.2) ?_ (fun h_ => ?_) <;> [subst t_; clear_value t_])
       | clear_value t_)
    | (simp only [canon_parts]; with_reducible first | exact parts_of (by assumption) | apply parts_of)
    | with_reducible first | apply canon_endMove | apply canon_engStartRx | apply canon_openRx
    | split
    | intro _
    | dsimp -zeta only)
theorem canon_takeEngine_1 {s : State} (c w role : Nat) (fixed : Option Nat) (p : Prog) (h_s : s.Canon) : (State.takeEngine s c w role fixed p).2.Canon := by
  unfold State.takeEngine
  repeat' (first
    | with_reducible assumption
    | (extract_lets -merge +onlyGivenNames t_
       first
       | (refine canon_cut (s := t_) ?_ (fun h_ => ?_) <;> [subst t_; clear_value t_])
       | (refine canon_cut (s := t_.2.2) ?_ (fun h_ => ?_) <;> [subst t_; clear_value t_])
       | (refine canon_cut (s := t_.2) ?_ (fun h_ => ?_) <;> [subst t_; clear_value t_])
       | clear_value t_)
    | (simp only [canon_parts]; with_reducible first | exact parts_of (by assumption) | apply parts_of)
    | with_reducible first | apply canon_endMove | apply canon_engStartRx | apply canon_openRx
    | split
    | dsimp -zeta only)

theorem canon_badDesc {s : State} (w : Nat) (blitz : Bool) (h_s : s.Canon) : (State.badDesc s w blitz).Canon := by
  unfold State.badDesc
  repeat' (first
    | with_reducible first | assumption | apply canon_recordErr | apply canon_flag | apply canon_engEnd | apply canon_ite
    | split
    | dsimp -zeta only)

theorem canon_startSend {s : State} (c w : Nat) (fixed : Option Nat) (blitz : Bool) (dest : Option Nat) (h_s : s.Canon) : (State.startSend s c w fixed blitz dest).Canon := by
  unfold State.startSend
  repeat' (first
    | with_reducible first | apply canonO_some | exact canonO_none | assumption
    | intro _
    | (extract_lets -merge +onlyGivenNames t_
       first
       | (refine canon_cutOP (r := t_) ?_ ?_ (fun h1_ h2_ => ?_) <;> [subst t_; subst t_; clear_value t_])
       | (refine canon_cut (s := t_) ?_ (fun h_ => ?_) <;> [subst t_; clear_value t_])
       | (refine canon_cut (s := t_.2) ?_ (fun h_ => ?_) <;> [subst t_; clear_value t_])
       | clear_value t_)
    | (simp only [canon_parts]; with_reducible first | exact parts_of (by assumption) | apply parts_of)
    | with_reducible first | apply canon_withCtx | apply canon_endMove | apply canon_withEng | apply canon_laneBusy | apply canon_engStart | apply canon_engEnd | apply canon_sendFrame | apply canon_sendBlitz | apply canon_takeEngine | apply canon_takeEngine_1 | apply canon_badDesc | apply canon_ite | refine canonP_use ?_ (by assumption) | refine canonQ_use ?_ (by assumption) | refine canonO_use ?_ (by assumption)
    | split
    | dsimp -zeta only)

theorem canon_descMove {s : State} (c w desc : Nat) (fixed : Option Nat) (blitz : Bool) (dest : Option Nat) (h_s : s.Canon) : (State.descMove s c w desc fixed blitz dest).Canon := by
  unfold State.descMove
  repeat' (first
    | with_reducible assumption
    | (extract_lets -merge +onlyGivenNames t_
       first
       | (refine canon_cut (s := t_) ?_ (fun h_ => ?_) <;> [subst t_; clear_value t_])
       | clear_value t_)
    | (simp only [canon_parts]; with_reducible first | exact parts_of (by assumption) | apply parts_of)
    | with_reducible first | apply canon_endMove | apply canon_gather | apply canon_startSend | refine canonP_use ?_ (by assumption)
    | split
    | dsimp -zeta only)

theorem canon_startListen {s : State} (c w : Nat) (a : ListenArgs) (h_s : s.Canon) : (State.startListen s c w a).Canon := by
  unfold State.startListen
  repeat' (first
    | with_reducible first | apply canonO_some | exact canonO_none | assumption
    | intro _
    | (extract_lets -merge +onlyGivenNames t_
       first
       | (refine canon_cutOP (r := t_) ?_ ?_ (fun h1_ h2_ => ?_) <;> [subst t_; subst t_; clear_value t_])
       | (refine canon_cut (s := t_) ?_ (fun h_ => ?_) <;> [subst t_; clear_value t_])
       | (refine canon_cut (s := t_.2) ?_ (fun h_ => ?_) <;> [subst t_; clear_value t_])
       | clear_value t_)
    | (simp only [canon_parts]; with_reducible first | exact parts_of (by assumption) | apply parts_of)
    | with_reducible first | apply canon_put | apply canon_withCtx | apply canon_endMove | apply canon_withEng | apply canon_laneBusy | apply canon_waitFor | apply canon_awaitLegacy | apply canon_awaitBlitz | apply canon_takeEngine | apply canon_takeEngine_1 | apply canon_ite | refine canonP_use ?_ (by assumption) | refine canonQ_use ?_ (by assumption) | refine canonO_use ?_ (by assumption)
    | split
    | dsimp -zeta only)

theorem canon_startAnticoll {s : State} (c w : Nat) (a : AnticollArgs) (h_s : s.Canon) : (State.startAnticoll s c w a).Canon := by
  unfold State.startAnticoll
  repeat' (first
    | with_reducible first | apply canonO_some | exact canonO_none | assumption
    | intro _
    | (extract_lets -merge +onlyGivenNames t_
       first
       | (refine canon_cutOP (r := t_) ?_ ?_ (fun h1_ h2_ => ?_) <;> [subst t_; subst t_; clear_value t_])
       | (refine canon_cut (s := t_) ?_ (fun h_ => ?_) <;> [subst t_; clear_value t_])
       | clear_value t_)
    | (simp only [canon_parts]; with_reducible first | exact parts_of (by assumption) | apply parts_of)
    | with_reducible first | apply canon_withCtx | apply canon_endMove | apply canon_acBegin | apply canon_takeEngine | apply canon_takeEngine_1 | apply canon_ite | refine canonP_use ?_ (by assumption) | refine canonQ_use ?_ (by assumption) | refine canonO_use ?_ (by assumption)
    | split
    | dsimp -zeta only)

theorem canon_startLane {s : State} (c w : Nat) (begin_ : State → State) (h_s : s.Canon) (h_begin_ : ∀ t : State, t.Canon → (begin_ t).Canon) : (State.startLane s c w begin_).Canon := by
  unfold State.startLane
  repeat' (first
    | with_reducible first | apply canonO_some | exact canonO_none | assumption
    | intro _
    | (extract_lets -merge +onlyGivenNames t_
       first
       | (refine canon_cutOP (r := t_) ?_ ?_ (fun h1_ h2_ => ?_) <;> [subst t_; subst t_; clear_value t_])
       | (refine canon_cut (s := t_) ?_ (fun h_ => ?_) <;> [subst t_; clear_value t_])
       | clear_value t_)
    | (simp only [canon_parts]; with_reducible first | exact parts_of (by assumption) | apply parts_of)
    | with_reducible first | refine canonF_use (by assumption) ?_ | refine canonG_use (by assumption) ?_ | apply canon_withCtx | apply canon_laneBusy | apply canon_takeEngine | apply canon_takeEngine_1 | refine canonP_use ?_ (by assumption) | refine canonQ_use ?_ (by assumption) | refine canonO_use ?_ (by assumption)
    | split
    | dsimp -zeta only)

theorem canon_startTuneMove {s : State} (c w : Nat) (reserve : Bool) (port : Nat) (h_s : s.Canon) : (State.startTuneMove s c w reserve port).Canon := by
  unfold State.startTuneMove
  repeat' (first
    | with_reducible assumption
    | intro _
    | (extract_lets -merge +onlyGivenNames t_
       first
       | (refine canon_cut (s := t_) ?_ (fun h_ => ?_) <;> [subst t_; clear_value t_])
       | clear_value t_)
    | (simp only [canon_parts]; with_reducible first | exact parts_of (by assumption) | apply parts_of)
    | with_reducible first | apply canon_withCtx | apply canon_fireField | apply canon_startTune | apply canon_ite
    | split
    | dsimp -zeta only)

theorem canon_startRf {s : State} (c : Nat) (m : Instr) (w : Nat) (h_s : s.Canon) : (State.startRf s c m w).Canon := by
  unfold State.startRf
  repeat' (first
    | with_reducible assumption
    | intro _
    | (extract_lets -merge +onlyGivenNames t_
       first
       | (refine canon_cut (s := t_) ?_ (fun h_ => ?_) <;> [subst t_; clear_value t_])
       | clear_value t_)
    | (simp only [canon_parts]; with_reducible first | exact parts_of (by assumption) | apply parts_of)
    | with_reducible first | apply canon_disarm | apply canon_withCtx | apply canon_endMove | apply canon_armLimit | apply canon_soundBegin | apply canon_bookBegin | apply canon_gambitBegin | apply canon_sealLaunch | apply canon_descMove | apply canon_startListen | apply canon_startAnticoll | apply canon_startLane | apply canon_startTuneMove | apply canon_ite
    | split
    | dsimp -zeta only)

theorem canon_fireRf {s : State} (c : Nat) (m : Instr) (h : Launch) (late : Bool) (h_s : s.Canon) : (State.fireRf s c m h late).Canon := by
  unfold State.fireRf
  repeat' (first
    | with_reducible assumption
    | intro _
    | (extract_lets -merge +onlyGivenNames t_
       first
       | (refine canon_cut (s := t_) ?_ (fun h_ => ?_) <;> [subst t_; clear_value t_])
       | clear_value t_)
    | (simp only [canon_parts]; with_reducible first | exact parts_of (by assumption) | apply parts_of)
    | with_reducible first | apply canon_sched | apply canon_withCtx | apply canon_setRun | apply canon_setLaunch | apply canon_endMove | apply canon_fireFor | apply canon_dropFor | apply canon_ite
    | split
    | dsimp -zeta only)

theorem canon_laneOn {s : State} (w : Nat) (h_s : s.Canon) : (State.laneOn s w).Canon := by
  unfold State.laneOn
  repeat' (first
    | with_reducible assumption
    | (simp only [canon_parts]; with_reducible first | exact parts_of (by assumption) | apply parts_of)
    | with_reducible apply canon_gambitReload
    | split
    | dsimp -zeta only)

theorem canon_effRfMoveLaunch (c : Nat) (late : Bool) {s : State} (h_s : s.Canon) : (effRfMoveLaunch c late s).Canon := by
  unfold effRfMoveLaunch
  repeat' (first
    | with_reducible assumption
    | (simp only [canon_parts]; with_reducible first | exact parts_of (by assumption) | apply parts_of)
    | with_reducible first | apply canon_resched | apply canon_startRf | apply canon_fireRf | apply canon_laneOn | apply canon_ite
    | split
    | dsimp -zeta only)

theorem canon_effLateLimitExpiry (c : Nat) {s : State} (h_s : s.Canon) : (effLateLimitExpiry c s).Canon := by
  unfold effLateLimitExpiry
  repeat' (first
    | with_reducible assumption
    | intro _
    | (extract_lets -merge +onlyGivenNames t_
       first
       | (refine canon_cut (s := t_) ?_ (fun h_ => ?_) <;> [subst t_; clear_value t_])
       | clear_value t_)
    | (simp only [canon_parts]; with_reducible first | exact parts_of (by assumption) | apply parts_of)
    | with_reducible first | apply canon_recordErr | apply canon_flag | apply canon_setLaunch | apply canon_endMove | apply canon_dropArmed | apply canon_lateMark | apply canon_dropFor | apply canon_ite | apply canon_when
    | split
    | dsimp -zeta only)

theorem canon_abortMove {s : State} (c : Nat) (h_s : s.Canon) : (State.abortMove s c).Canon := by
  unfold State.abortMove
  repeat' (first
    | with_reducible assumption
    | rfl
    | with_reducible exact List.length_set ..
    | intro _
    | (extract_lets -merge +onlyGivenNames t_
       first
       | (refine canon_cut (s := t_) ?_ (fun h_ => ?_) <;> [subst t_; clear_value t_])
       | clear_value t_)
    | (simp only [canon_parts]; with_reducible first | exact parts_of (by assumption) | apply parts_of)
    | with_reducible first | apply canon_endMove | apply canon_dropHeld | apply canon_abortField | apply canon_xmpStore | apply canon_withInv | apply canon_stopWing | apply canon_clearWaits | apply canon_ite
    | split
    | dsimp -zeta only)

theorem canon_abortCtx {s : State} (c hop : Nat) (h_s : s.Canon) : (State.abortCtx s c hop).Canon := by
  unfold State.abortCtx
  repeat' (first
    | with_reducible first | assumption | apply canon_inc | apply canon_flag | apply canon_present | apply canon_abortMove | apply canon_ite
    | split
    | dsimp -zeta only)

theorem canon_haltCtx {s : State} (c reason : Nat) (h_s : s.Canon) : (State.haltCtx s c reason).Canon := by
  unfold State.haltCtx
  repeat' (first
    | with_reducible assumption
    | intro _
    | (extract_lets -merge +onlyGivenNames t_
       first
       | (refine canon_cut (s := t_) ?_ (fun h_ => ?_) <;> [subst t_; clear_value t_])
       | clear_value t_)
    | (simp only [canon_parts]; with_reducible first | exact parts_of (by assumption) | apply parts_of)
    | with_reducible first | apply canon_withCtx | apply canon_setReason | apply canon_dropClaims | apply canon_stopCtx | apply canon_abortMove | apply canon_ite
    | split
    | dsimp -zeta only)

theorem canon_effContextStart (_src : Src) (c : Nat) {s : State} (h_s : s.Canon) : (effContextStart _src c s).Canon := by
  unfold effContextStart
  repeat' (first
    | with_reducible first | assumption | apply canon_startCtx | apply canon_ite
    | split
    | dsimp -zeta only)

theorem canon_effContextAbort (c : Nat) {s : State} (h_s : s.Canon) : (effContextAbort c s).Canon := by
  unfold effContextAbort
  repeat' (first
    | with_reducible first | assumption | apply canon_abortCtx | apply canon_ite
    | split
    | dsimp -zeta only)

theorem canon_effContextHalt (c : Nat) {s : State} (h_s : s.Canon) : (effContextHalt c s).Canon := by
  unfold effContextHalt
  repeat' (first
    | with_reducible first | assumption | apply canon_haltCtx | apply canon_ite
    | split
    | dsimp -zeta only)

theorem canon_disableCnd {s : State} (page : Nat) (h_s : s.Canon) : (State.disableCnd s page).Canon := by
  unfold State.disableCnd
  repeat' (first
    | with_reducible assumption
    | intro _
    | with_reducible first | apply canon_haltCtx | apply canon_ite | apply canon_forEach
    | split
    | dsimp -zeta only)

theorem canon_angStopMoves {s : State} (h_s : s.Canon) : (State.angStopMoves s).Canon := by
  unfold State.angStopMoves
  repeat' (first
    | with_reducible assumption
    | intro _
    | (extract_lets -merge +onlyGivenNames t_
       first
       | (refine canon_cut (s := t_) ?_ (fun h_ => ?_) <;> [subst t_; clear_value t_])
       | clear_value t_)
    | (simp only [canon_parts]; with_reducible first | exact parts_of (by assumption) | apply parts_of)
    | with_reducible first | apply canon_endMove | apply canon_dropFor | apply canon_clearWaits | apply canon_ite | apply canon_forEach
    | split
    | dsimp -zeta only)

theorem canon_lockRecovered {s : State} (h_s : s.Canon) : (State.lockRecovered s).Canon := by
  unfold State.lockRecovered
  repeat' (first
    | with_reducible first | assumption | apply canon_inc | apply canon_flag | apply canon_ite
    | split
    | dsimp -zeta only)

theorem canon_copyAgain {s : State} (c : Nat) (h_s : s.Canon) : (State.copyAgain s c).Canon := by
  unfold State.copyAgain
  repeat' (first
    | with_reducible assumption
    | intro _
    | (simp only [canon_parts]; with_reducible first | exact parts_of (by assumption) | apply parts_of)
    | with_reducible first | apply canon_withCtx | apply canon_ite
    | split
    | dsimp -zeta only)

theorem canon_effLockstepMismatch {s : State} (h_s : s.Canon) : (effLockstepMismatch s).Canon := by
  unfold effLockstepMismatch
  repeat' (first
    | with_reducible assumption
    | intro _
    | (extract_lets -merge +onlyGivenNames t_
       first
       | (refine canon_cut (s := t_) ?_ (fun h_ => ?_) <;> [subst t_; clear_value t_])
       | (refine canon_cut (s := t_.2) ?_ (fun h_ => ?_) <;> [subst t_; clear_value t_])
       | clear_value t_)
    | (simp only [canon_parts]; with_reducible first | exact parts_of (by assumption) | apply parts_of)
    | with_reducible first | apply canon_timer | apply canon_setFault | apply canon_allDown | apply canon_stopCtx | apply canon_abortMove | apply canon_copyAgain | apply canon_ite | apply canon_forEach
    | split
    | dsimp -zeta only)

theorem canon_effField (c : Nat) (h : Launch) (off : Bool) (port : Nat) {s : State} (h_s : s.Canon) : (effField c h off port s).Canon := by
  unfold effField
  repeat' (first
    | with_reducible first | assumption | apply canon_issueRf
    | dsimp -zeta only)

theorem canon_effTune (c : Nat) (h : Launch) (reserve : Bool) (port : Nat) {s : State} (h_s : s.Canon) : (effTune c h reserve port s).Canon := by
  unfold effTune
  repeat' (first
    | with_reducible first | assumption | apply canon_issueRf
    | dsimp -zeta only)

theorem canon_effSend (c : Nat) (h : Launch) (desc : Nat) {s : State} (h_s : s.Canon) : (effSend c h desc s).Canon := by
  unfold effSend
  repeat' (first
    | with_reducible first | assumption | apply canon_issueRf
    | dsimp -zeta only)

theorem canon_effListen (c : Nat) (h : Launch) (a : ListenArgs) {s : State} (h_s : s.Canon) : (effListen c h a s).Canon := by
  unfold effListen
  repeat' (first
    | with_reducible first | assumption | apply canon_issueRf
    | dsimp -zeta only)

theorem canon_effXchg (c : Nat) (h : Launch) (tapEn blitz : Bool) (tapPort desc dest : Nat) {s : State} (h_s : s.Canon) : (effXchg c h tapEn blitz tapPort desc dest s).Canon := by
  unfold effXchg
  repeat' (first
    | with_reducible first | assumption | apply canon_issueRf
    | dsimp -zeta only)

theorem canon_effAnticoll (c : Nat) (h : Launch) (a : AnticollArgs) {s : State} (h_s : s.Canon) : (effAnticoll c h a s).Canon := by
  unfold effAnticoll
  repeat' (first
    | with_reducible first | assumption | apply canon_issueRf
    | dsimp -zeta only)

theorem canon_effSound (c : Nat) (h : Launch) (coloured : Bool) {s : State} (h_s : s.Canon) : (effSound c h coloured s).Canon := by
  unfold effSound
  repeat' (first
    | with_reducible first | assumption | apply canon_issueRf
    | dsimp -zeta only)

theorem canon_effBook (c : Nat) (h : Launch) (coloured : Bool) {s : State} (h_s : s.Canon) : (effBook c h coloured s).Canon := by
  unfold effBook
  repeat' (first
    | with_reducible first | assumption | apply canon_issueRf
    | dsimp -zeta only)

theorem canon_effGambit (c : Nat) (h : Launch) (reload : Bool) {s : State} (h_s : s.Canon) : (effGambit c h reload s).Canon := by
  unfold effGambit
  repeat' (first
    | with_reducible first | assumption | apply canon_issueRf
    | dsimp -zeta only)

theorem canon_effSeal (c : Nat) (h : Launch) (job : Nat) {s : State} (h_s : s.Canon) : (effSeal c h job s).Canon := by
  unfold effSeal
  repeat' (first
    | with_reducible first | assumption | apply canon_sealLaunch | apply canon_issueRf | apply canon_ite
    | split
    | dsimp -zeta only)

theorem canon_effStop (c : Nat) {s : State} (h_s : s.Canon) : (effStop c s).Canon := by
  unfold effStop
  repeat' (first
    | with_reducible assumption
    | intro _
    | with_reducible first | apply canon_stopCtx | apply canon_issue
    | dsimp -zeta only)

theorem canon_effInventory (c : Nat) (wait : Bool) (action : Nat) {s : State} (h_s : s.Canon) : (effInventory c wait action s).Canon := by
  unfold effInventory
  repeat' (first
    | with_reducible assumption
    | rfl
    | with_reducible exact List.length_set ..
    | intro _
    | (extract_lets -merge +onlyGivenNames t_
       first
       | (refine canon_cut (s := t_) ?_ (fun h_ => ?_) <;> [subst t_; clear_value t_])
       | (refine canon_cutF (f := t_) ?_ (fun h_ => ?_) <;> [subst t_; clear_value t_])
       | (refine canon_cutG (f := t_) ?_ (fun h_ => ?_) <;> [subst t_; clear_value t_])
       | clear_value t_)
    | (simp only [canon_parts]; with_reducible first | exact parts_of (by assumption) | apply parts_of)
    | with_reducible first | refine canonF_use (by assumption) ?_ | refine canonG_use (by assumption) ?_ | apply canon_number | apply canon_withCtx | apply canon_endMove | apply canon_withInv | apply canon_invBegin | apply canon_invStop | apply canon_issue | apply canon_ite | refine canonP_use ?_ (by assumption)
    | split
    | dsimp -zeta only)

theorem canon_effWaitAngle (c when_ angle : Nat) {s : State} (h_s : s.Canon) : (effWaitAngle c when_ angle s).Canon := by
  unfold effWaitAngle
  repeat' (first
    | with_reducible assumption
    | intro _
    | (extract_lets -merge +onlyGivenNames t_
       first
       | (refine canon_cut (s := t_) ?_ (fun h_ => ?_) <;> [subst t_; clear_value t_])
       | clear_value t_)
    | (simp only [canon_parts]; with_reducible first | exact parts_of (by assumption) | apply parts_of)
    | with_reducible first | apply canon_put | apply canon_putBit | apply canon_arm | apply canon_withCtx | apply canon_setRun | apply canon_endMove | apply canon_issue | apply canon_ite
    | split
    | dsimp -zeta only)

theorem canon_effWaitAngleFire (c : Nat) (late : Bool) {s : State} (h_s : s.Canon) : (effWaitAngleFire c late s).Canon := by
  unfold effWaitAngleFire
  repeat' (first
    | with_reducible first | assumption | apply canon_setLaunch | apply canon_endMove | apply canon_ite
    | split
    | dsimp -zeta only)

theorem canon_effWaitEvent (c ch timeout : Nat) {s : State} (h_s : s.Canon) : (effWaitEvent c ch timeout s).Canon := by
  unfold effWaitEvent
  repeat' (first
    | with_reducible assumption
    | intro _
    | (extract_lets -merge +onlyGivenNames t_
       first
       | (refine canon_cut (s := t_) ?_ (fun h_ => ?_) <;> [subst t_; clear_value t_])
       | clear_value t_)
    | with_reducible first | apply canon_sched | apply canon_setRun | apply canon_endMove | apply canon_issue | apply canon_ite | apply canon_when
    | split
    | dsimp -zeta only)

theorem canon_effWaitEventTimeout (c : Nat) {s : State} (h_s : s.Canon) : (effWaitEventTimeout c s).Canon := by
  unfold effWaitEventTimeout
  repeat' (first
    | with_reducible first | assumption | apply canon_endMove | apply canon_ite
    | split
    | dsimp -zeta only)

theorem canon_wakeWaiters {s : State} (ch : Nat) (h_s : s.Canon) : (State.wakeWaiters s ch).Canon := by
  unfold State.wakeWaiters
  repeat' (first
    | with_reducible assumption
    | intro _
    | (simp only [canon_parts]; with_reducible first | exact parts_of (by assumption) | apply parts_of)
    | with_reducible first | apply canon_endMove | apply canon_ite | apply canon_forEach
    | split
    | dsimp -zeta only)

theorem canon_effRaise (c ch : Nat) {s : State} (h_s : s.Canon) : (effRaise c ch s).Canon := by
  unfold effRaise
  repeat' (first
    | with_reducible assumption
    | intro _
    | (extract_lets -merge +onlyGivenNames t_
       first
       | (refine canon_cut (s := t_) ?_ (fun h_ => ?_) <;> [subst t_; clear_value t_])
       | (refine canon_cut (s := t_.2) ?_ (fun h_ => ?_) <;> [subst t_; clear_value t_])
       | (refine canon_cut (s := t_.1) ?_ (fun h_ => ?_) <;> [subst t_; clear_value t_])
       | clear_value t_)
    | with_reducible first | apply canon_raise | apply canon_presentTo | apply canon_endMove | apply canon_issue | apply canon_ite
    | dsimp -zeta only)

theorem canon_effBranch (c cond imm reg target : Nat) {s : State} (h_s : s.Canon) : (effBranch c cond imm reg target s).Canon := by
  unfold effBranch
  repeat' (first
    | with_reducible assumption
    | intro _
    | (extract_lets -merge +onlyGivenNames t_
       first
       | (refine canon_cut (s := t_) ?_ (fun h_ => ?_) <;> [subst t_; clear_value t_])
       | clear_value t_)
    | (simp only [canon_parts]; with_reducible first | exact parts_of (by assumption) | apply parts_of)
    | with_reducible first | apply canon_withCtx | apply canon_endMove | apply canon_setA | apply canon_stopCtx | apply canon_issue | apply canon_ite | apply canon_when
    | split
    | dsimp -zeta only)

theorem canon_effCall (c target : Nat) {s : State} (h_s : s.Canon) : (effCall c target s).Canon := by
  unfold effCall
  repeat' (first
    | with_reducible assumption
    | intro _
    | (extract_lets -merge +onlyGivenNames t_
       first
       | (refine canon_cut (s := t_) ?_ (fun h_ => ?_) <;> [subst t_; clear_value t_])
       | clear_value t_)
    | (simp only [canon_parts]; with_reducible first | exact parts_of (by assumption) | apply parts_of)
    | with_reducible first | apply canon_withCtx | apply canon_endMove | apply canon_setStack | apply canon_stopCtx | apply canon_issue | apply canon_ite
    | split
    | dsimp -zeta only)

theorem canon_effRet (c : Nat) {s : State} (h_s : s.Canon) : (effRet c s).Canon := by
  unfold effRet
  repeat' (first
    | with_reducible assumption
    | intro _
    | (simp only [canon_parts]; with_reducible first | exact parts_of (by assumption) | apply parts_of)
    | with_reducible first | apply canon_withCtx | apply canon_endMove | apply canon_setStack | apply canon_stopCtx | apply canon_issue
    | split
    | dsimp -zeta only)

theorem canon_effLog (c tag value : Nat) {s : State} (h_s : s.Canon) : (effLog c tag value s).Canon := by
  unfold effLog
  repeat' (first
    | with_reducible assumption
    | intro _
    | (extract_lets -merge +onlyGivenNames t_
       first
       | (refine canon_cut (s := t_) ?_ (fun h_ => ?_) <;> [subst t_; clear_value t_])
       | clear_value t_)
    | with_reducible first | apply canon_scoRecord | apply canon_endMove | apply canon_issue | apply canon_ite
    | dsimp -zeta only)

end Sys2Proof.Machine
end

