-- ==== Sys2Proof/Laws/CanonEvents.lean ====
section
/-! SUPPORT. The functions of Machine/Events.lean keep the canonical form. -/

namespace Sys2Proof.Machine

open Sys2Proof

set_option linter.all false

theorem canon_gpioTask {s : State} (n : Nat) (up : Bool) (h_s : s.Canon) : (State.gpioTask s n up).Canon := by
  unfold State.gpioTask
  repeat' (first
    | with_reducible assumption
    | intro _
    | (extract_lets -merge +onlyGivenNames t_
       first
       | (refine canon_cut (s := t_) ?_ (fun h_ => ?_) <;> [subst t_; clear_value t_])
       | (refine canon_cut (s := t_.2.2) ?_ (fun h_ => ?_) <;> [subst t_; clear_value t_])
       | (refine canon_cut (s := t_.2) ?_ (fun h_ => ?_) <;> [subst t_; clear_value t_])
       | clear_value t_)
    | (simp only [canon_parts]; with_reducible first | exact parts_of (by assumption) | apply parts_of)
    | with_reducible first | apply canon_putBit | apply canon_ite
    | split
    | dsimp -zeta only)

theorem canon_invTask {s : State} (disc : Bool) (hop : Nat) (h_s : s.Canon) : (State.invTask s disc hop).Canon := by
  unfold State.invTask
  repeat' (first
    | with_reducible first | assumption | apply canon_invBegin | apply canon_ite | refine canonP_use ?_ (by assumption)
    | dsimp -zeta only)

theorem canon_captureTask {s : State} (n hop : Nat) (h_s : s.Canon) : (State.captureTask s n hop).Canon := by
  unfold State.captureTask
  repeat' (first
    | with_reducible assumption
    | intro _
    | (simp only [canon_parts]; with_reducible first | exact parts_of (by assumption) | apply parts_of)
    | with_reducible first | apply canon_withRx | apply canon_trigger | apply canon_ite
    | split
    | dsimp -zeta only)

theorem canon_taskAct {s : State} (t hop : Nat) (h_s : s.Canon) : (State.taskAct s t hop).Canon := by
  unfold State.taskAct
  repeat' (first
    | with_reducible first | assumption | apply canon_invStop | apply canon_sweepTask | apply canon_startCtx | apply canon_abortCtx | apply canon_haltCtx | apply canon_gpioTask | apply canon_invTask | apply canon_captureTask | apply canon_ite
    | split
    | dsimp -zeta only)

theorem canon_taskHop {s : State} (t hop : Nat) (h_s : s.Canon) : (State.taskHop s t hop).Canon := by
  unfold State.taskHop
  repeat' (first
    | with_reducible assumption
    | rfl
    | with_reducible exact List.length_set ..
    | intro _
    | (simp only [canon_parts]; with_reducible first | exact parts_of (by assumption) | apply parts_of)
    | with_reducible first | apply canon_put | apply canon_withRx | apply canon_withInv | apply canon_withKbz | apply canon_ite | apply canon_when
    | split
    | dsimp -zeta only)

theorem canon_trigTask {s : State} (t hop : Nat) (h_s : s.Canon) : (State.trigTask s t hop).Canon := by
  unfold State.trigTask
  repeat' (first
    | with_reducible assumption
    | intro _
    | (extract_lets -merge +onlyGivenNames t_
       first
       | (refine canon_cut (s := t_) ?_ (fun h_ => ?_) <;> [subst t_; clear_value t_])
       | (refine canon_cut (s := t_.2) ?_ (fun h_ => ?_) <;> [subst t_; clear_value t_])
       | clear_value t_)
    | (simp only [canon_parts]; with_reducible first | exact parts_of (by assumption) | apply parts_of)
    | with_reducible first | apply canon_inc | apply canon_incMod | apply canon_taskAct | apply canon_taskHop | apply canon_ite
    | split
    | dsimp -zeta only)

theorem canon_deliver {s : State} (d : Delivery) (h_s : s.Canon) : (State.deliver s d).Canon := by
  unfold State.deliver
  repeat' (first
    | with_reducible assumption
    | intro _
    | (extract_lets -merge +onlyGivenNames t_
       first
       | (refine canon_cut (s := t_) ?_ (fun h_ => ?_) <;> [subst t_; clear_value t_])
       | (refine canon_cut (s := t_.2) ?_ (fun h_ => ?_) <;> [subst t_; clear_value t_])
       | clear_value t_)
    | (simp only [canon_parts]; with_reducible first | exact parts_of (by assumption) | apply parts_of)
    | with_reducible first | apply canon_put | apply canon_putB | apply canon_inc | apply canon_incMod | apply canon_numberAs | apply canon_flag | apply canon_pendingBits | apply canon_wakeWaiters | apply canon_trigTask | apply canon_ite | apply canon_forEach
    | split
    | dsimp -zeta only)

theorem canon_chainFire {s : State} (d : Delivery) (h_s : s.Canon) : (State.chainFire s d).Canon := by
  unfold State.chainFire
  repeat' (first
    | with_reducible assumption
    | intro _
    | (extract_lets -merge +onlyGivenNames t_
       first
       | (refine canon_cut (s := t_) ?_ (fun h_ => ?_) <;> [subst t_; clear_value t_])
       | clear_value t_)
    | (simp only [canon_parts]; with_reducible first | exact parts_of (by assumption) | apply parts_of)
    | with_reducible first | apply canon_inc | apply canon_recordErr | apply canon_flag | apply canon_pendingBits | apply canon_queueCell | apply canon_ite
    | split
    | dsimp -zeta only)

theorem canon_effChannelDelivery (ch : Nat) {s : State} (h_s : s.Canon) : (effChannelDelivery ch s).Canon := by
  unfold effChannelDelivery
  repeat' (first
    | with_reducible assumption
    | intro _
    | (extract_lets -merge +onlyGivenNames t_
       first
       | (refine canon_cut (s := t_) ?_ (fun h_ => ?_) <;> [subst t_; clear_value t_])
       | clear_value t_)
    | (simp only [canon_parts]; with_reducible first | exact parts_of (by assumption) | apply parts_of)
    | with_reducible first | apply canon_deliver | apply canon_chainFire | apply canon_ite
    | split
    | dsimp -zeta only)

theorem canon_effChainLinkedDelivery (ch angle : Nat) {s : State} (h_s : s.Canon) : (effChainLinkedDelivery ch angle s).Canon := by
  unfold effChainLinkedDelivery
  repeat' (first
    | with_reducible assumption
    | intro _
    | (extract_lets -merge +onlyGivenNames t_
       first
       | (refine canon_cut (s := t_) ?_ (fun h_ => ?_) <;> [subst t_; clear_value t_])
       | clear_value t_)
    | (simp only [canon_parts]; with_reducible first | exact parts_of (by assumption) | apply parts_of)
    | with_reducible first | apply canon_disarm | apply canon_deliver | apply canon_ite
    | split
    | dsimp -zeta only)

theorem canon_effProducerEvent (p hop : Nat) {s : State} (h_s : s.Canon) : (effProducerEvent p hop s).Canon := by
  unfold effProducerEvent
  repeat' (first
    | with_reducible first | assumption | apply canon_present | apply canon_ite
    | split
    | dsimp -zeta only)

theorem canon_effHostFire (high : Bool) (mask : Nat) {s : State} (h_s : s.Canon) : (effHostFire high mask s).Canon := by
  unfold effHostFire
  repeat' (first
    | with_reducible assumption
    | intro _
    | (extract_lets -merge +onlyGivenNames t_
       first
       | (refine canon_cut (s := t_) ?_ (fun h_ => ?_) <;> [subst t_; clear_value t_])
       | (refine canon_cut (s := t_.2) ?_ (fun h_ => ?_) <;> [subst t_; clear_value t_])
       | clear_value t_)
    | (simp only [canon_parts]; with_reducible first | exact parts_of (by assumption) | apply parts_of)
    | with_reducible first | apply canon_numberAs | apply canon_acceptAt | apply canon_ite | apply canon_when | apply canon_forEach
    | split
    | dsimp -zeta only)

theorem canon_stopChannel {s : State} (ch : Nat) (h_s : s.Canon) : (State.stopChannel s ch).Canon := by
  unfold State.stopChannel
  repeat' (first
    | with_reducible assumption
    | intro _
    | (extract_lets -merge +onlyGivenNames t_
       first
       | (refine canon_cut (s := t_) ?_ (fun h_ => ?_) <;> [subst t_; clear_value t_])
       | (refine canon_cut (s := t_.2) ?_ (fun h_ => ?_) <;> [subst t_; clear_value t_])
       | clear_value t_)
    | (simp only [canon_parts]; with_reducible first | exact parts_of (by assumption) | apply parts_of)
    | with_reducible first | apply canon_incBy | apply canon_pendingBits
    | split
    | dsimp -zeta only)

theorem canon_stopPage {s : State} (i : Nat) (h_s : s.Canon) : (State.stopPage s i).Canon := by
  unfold State.stopPage
  repeat' (first
    | with_reducible assumption
    | intro _
    | with_reducible first | apply canon_stopChannel | apply canon_forEach
    | dsimp -zeta only)

theorem canon_stopFabric {s : State} (h_s : s.Canon) : (State.stopFabric s).Canon := by
  unfold State.stopFabric
  repeat' (first
    | with_reducible first | assumption | apply canon_stopPage | apply canon_forEach
    | dsimp -zeta only)

theorem canon_dropChainDeliveries {s : State} (h_s : s.Canon) : (State.dropChainDeliveries s).Canon := by
  unfold State.dropChainDeliveries
  repeat' (first
    | with_reducible assumption
    | intro _
    | (extract_lets -merge +onlyGivenNames t_
       first
       | (refine canon_cut (s := t_) ?_ (fun h_ => ?_) <;> [subst t_; clear_value t_])
       | clear_value t_)
    | (simp only [canon_parts]; with_reducible first | exact parts_of (by assumption) | apply parts_of)
    | with_reducible first | apply canon_inc | apply canon_pendingBits | apply canon_disarm | apply canon_forEach
    | dsimp -zeta only)

theorem canon_effArbMismatch (second : Bool) {s : State} (h_s : s.Canon) : (effArbMismatch second s).Canon := by
  unfold effArbMismatch
  repeat' (first
    | with_reducible assumption
    | intro _
    | (extract_lets -merge +onlyGivenNames t_
       first
       | (refine canon_cut (s := t_) ?_ (fun h_ => ?_) <;> [subst t_; clear_value t_])
       | (refine canon_cutF (f := t_) ?_ (fun h_ => ?_) <;> [subst t_; clear_value t_])
       | (refine canon_cutG (f := t_) ?_ (fun h_ => ?_) <;> [subst t_; clear_value t_])
       | (refine canon_cut (s := t_.2) ?_ (fun h_ => ?_) <;> [subst t_; clear_value t_])
       | clear_value t_)
    | (simp only [canon_parts]; with_reducible first | exact parts_of (by assumption) | apply parts_of)
    | with_reducible first | refine canonF_use (by assumption) ?_ | refine canonG_use (by assumption) ?_ | apply canon_inc | apply canon_flag | apply canon_pendingBits | apply canon_setFault | apply canon_ite | apply canon_forEach
    | split
    | dsimp -zeta only)

end Sys2Proof.Machine
end

