-- ==== Sys2Proof/Laws/CanonCal.lean ====
section
/-! SUPPORT. The functions of Machine/Cal.lean keep the canonical form. -/

namespace Sys2Proof.Machine

open Sys2Proof

set_option linter.all false

theorem canon_withCal {s : State} (f : Cal → Cal) (h_s : s.Canon) : (State.withCal s f).Canon := by
  unfold State.withCal
  repeat' (first
    | with_reducible assumption
    | (simp only [canon_parts]; with_reducible first | exact parts_of (by assumption) | apply parts_of)
    | dsimp -zeta only)

theorem canon_calShow {s : State} (h_s : s.Canon) : (State.calShow s).Canon := by
  unfold State.calShow
  repeat' (first
    | with_reducible assumption
    | (extract_lets -merge +onlyGivenNames t_
       first
       | (refine canon_cut (s := t_) ?_ (fun h_ => ?_) <;> [subst t_; clear_value t_])
       | clear_value t_)
    | with_reducible first | apply canon_put | apply canon_putB
    | split
    | dsimp -zeta only)

theorem canon_fallDue {s : State} (i : Nat) (h_s : s.Canon) : (State.fallDue s i).Canon := by
  unfold State.fallDue
  repeat' (first
    | with_reducible assumption
    | intro _
    | (extract_lets -merge +onlyGivenNames t_
       first
       | (refine canon_cut (s := t_) ?_ (fun h_ => ?_) <;> [subst t_; clear_value t_])
       | clear_value t_)
    | (simp only [canon_parts]; with_reducible first | exact parts_of (by assumption) | apply parts_of)
    | with_reducible first | apply canon_unsched | apply canon_resched | apply canon_withCal | apply canon_ite
    | split
    | dsimp -zeta only)

theorem canon_effCalDue (i : Nat) {s : State} (h_s : s.Canon) : (effCalDue i s).Canon := by
  unfold effCalDue
  repeat' (first
    | with_reducible first | assumption | apply canon_fallDue | apply canon_ite
    | split
    | dsimp -zeta only)

theorem canon_calCfg {s : State} (h_s : s.Canon) : (State.calCfg s).Canon := by
  unfold State.calCfg
  repeat' (first
    | with_reducible assumption
    | intro _
    | with_reducible first | apply canon_sched | apply canon_ite | apply canon_forEach
    | split
    | dsimp -zeta only)

theorem canon_calEnable {s : State} (h_s : s.Canon) : (State.calEnable s).Canon := by
  unfold State.calEnable
  repeat' (first
    | with_reducible assumption
    | intro _
    | (extract_lets -merge +onlyGivenNames t_
       first
       | (refine canon_cut (s := t_) ?_ (fun h_ => ?_) <;> [subst t_; clear_value t_])
       | clear_value t_)
    | (simp only [canon_parts]; with_reducible first | exact parts_of (by assumption) | apply parts_of)
    | with_reducible first | apply canon_put | apply canon_resched | apply canon_withCal | apply canon_forEach
    | dsimp -zeta only)

theorem canon_calTemp {s : State} (tj : Nat) (h_s : s.Canon) : (State.calTemp s tj).Canon := by
  unfold State.calTemp
  repeat' (first
    | with_reducible assumption
    | intro _
    | (extract_lets -merge +onlyGivenNames t_
       first
       | (refine canon_cut (s := t_) ?_ (fun h_ => ?_) <;> [subst t_; clear_value t_])
       | clear_value t_)
    | (simp only [canon_parts]; with_reducible first | exact parts_of (by assumption) | apply parts_of)
    | with_reducible first | apply canon_put | apply canon_resched | apply canon_ite | apply canon_when
    | split
    | dsimp -zeta only)

theorem canon_calOver {s : State} (h_s : s.Canon) : (State.calOver s).Canon := by
  unfold State.calOver
  repeat' (first
    | with_reducible assumption
    | intro _
    | (extract_lets -merge +onlyGivenNames t_
       first
       | (refine canon_cut (s := t_) ?_ (fun h_ => ?_) <;> [subst t_; clear_value t_])
       | (refine canon_cut (s := t_.2) ?_ (fun h_ => ?_) <;> [subst t_; clear_value t_])
       | clear_value t_)
    | (simp only [canon_parts]; with_reducible first | exact parts_of (by assumption) | apply parts_of)
    | with_reducible first | apply canon_putB | apply canon_unsched | apply canon_releaseWing | apply canon_wakeChains | apply canon_withCal | apply canon_calShow | apply canon_ite | apply canon_when | apply canon_forEach
    | split
    | dsimp -zeta only)

theorem canon_calClaim {s : State} (stage w : Nat) (ws todo : List Nat) (h_s : s.Canon) : (State.calClaim s stage w ws todo).Canon := by
  unfold State.calClaim
  repeat' (first
    | with_reducible assumption
    | intro _
    | (extract_lets -merge +onlyGivenNames t_
       first
       | (refine canon_cut (s := t_) ?_ (fun h_ => ?_) <;> [subst t_; clear_value t_])
       | clear_value t_)
    | (simp only [canon_parts]; with_reducible first | exact parts_of (by assumption) | apply parts_of)
    | with_reducible first | apply canon_setOwner | apply canon_withCal | apply canon_calShow | apply canon_forEach
    | dsimp -zeta only)

theorem canon_openWindow {s : State} (w : Nat) (h_s : s.Canon) : (State.openWindow s w).Canon := by
  unfold State.openWindow
  repeat' (first
    | with_reducible assumption
    | (extract_lets -merge +onlyGivenNames t_
       first
       | (refine canon_cut (s := t_) ?_ (fun h_ => ?_) <;> [subst t_; clear_value t_])
       | clear_value t_)
    | with_reducible first | apply canon_calClaim | apply canon_ite
    | split
    | dsimp -zeta only)

theorem canon_effWingWindow (w : Nat) {s : State} (h_s : s.Canon) : (effWingWindow w s).Canon := by
  unfold effWingWindow
  repeat' (first
    | with_reducible first | assumption | apply canon_putB | apply canon_calClaim | apply canon_openWindow | apply canon_ite
    | split
    | dsimp -zeta only)

theorem canon_effForcedWindow (w : Nat) {s : State} (h_s : s.Canon) : (effForcedWindow w s).Canon := by
  unfold effForcedWindow
  repeat' (first
    | with_reducible assumption
    | intro _
    | (extract_lets -merge +onlyGivenNames t_
       first
       | (refine canon_cut (s := t_) ?_ (fun h_ => ?_) <;> [subst t_; clear_value t_])
       | clear_value t_)
    | (simp only [canon_parts]; with_reducible first | exact parts_of (by assumption) | apply parts_of)
    | with_reducible first | apply canon_inc | apply canon_sched | apply canon_timer | apply canon_withCal | apply canon_openWindow | apply canon_ite
    | split
    | dsimp -zeta only)

theorem canon_calCut {s : State} (h_s : s.Canon) : (State.calCut s).Canon := by
  unfold State.calCut
  repeat' (first
    | with_reducible first | assumption | apply canon_calOver | apply canon_ite
    | split
    | dsimp -zeta only)

theorem canon_xbStop {s : State} (h_s : s.Canon) : (State.xbStop s).Canon := by
  unfold State.xbStop
  repeat' (first
    | with_reducible first | assumption | apply canon_fieldOffNow | apply canon_calOver | apply canon_ite
    | split
    | dsimp -zeta only)

theorem canon_effCalYield {s : State} (h_s : s.Canon) : (effCalYield s).Canon := by
  unfold effCalYield
  repeat' (first
    | with_reducible first | assumption | apply canon_inc | apply canon_calOver | apply canon_ite
    | split
    | dsimp -zeta only)

theorem canon_calDisable {s : State} (h_s : s.Canon) : (State.calDisable s).Canon := by
  unfold State.calDisable
  repeat' (first
    | with_reducible assumption
    | intro _
    | (extract_lets -merge +onlyGivenNames t_
       first
       | (refine canon_cut (s := t_) ?_ (fun h_ => ?_) <;> [subst t_; clear_value t_])
       | (refine canon_cut (s := t_.2) ?_ (fun h_ => ?_) <;> [subst t_; clear_value t_])
       | clear_value t_)
    | (simp only [canon_parts]; with_reducible first | exact parts_of (by assumption) | apply parts_of)
    | with_reducible first | apply canon_resched | apply canon_withCal | apply canon_xbStop | apply canon_ite
    | split
    | dsimp -zeta only)

theorem canon_effCalStarved (i : Nat) {s : State} (h_s : s.Canon) : (effCalStarved i s).Canon := by
  unfold effCalStarved
  repeat' (first
    | with_reducible assumption
    | intro _
    | (extract_lets -merge +onlyGivenNames t_
       first
       | (refine canon_cut (s := t_) ?_ (fun h_ => ?_) <;> [subst t_; clear_value t_])
       | clear_value t_)
    | (simp only [canon_parts]; with_reducible first | exact parts_of (by assumption) | apply parts_of)
    | with_reducible first | apply canon_resched | apply canon_recordErr | apply canon_flag | apply canon_withCal | apply canon_ite
    | split
    | dsimp -zeta only)

theorem canon_adopted {s : State} (i old new spread dev : Nat) (confirmed : Bool) (h_s : s.Canon) : (State.adopted s i old new spread dev confirmed).Canon := by
  unfold State.adopted
  repeat' (first
    | with_reducible assumption
    | intro _
    | (extract_lets -merge +onlyGivenNames t_
       first
       | (refine canon_cut (s := t_) ?_ (fun h_ => ?_) <;> [subst t_; clear_value t_])
       | clear_value t_)
    | (simp only [canon_parts]; with_reducible first | exact parts_of (by assumption) | apply parts_of)
    | with_reducible first | apply canon_put | apply canon_inc | apply canon_unsched | apply canon_resched | apply canon_flag | apply canon_present | apply canon_scoRecord | apply canon_telCount | apply canon_confirmed | apply canon_withCal | apply canon_ite
    | split
    | dsimp -zeta only)

theorem canon_adopt {s : State} (i c spread : Nat) (confirmed : Bool) (h_s : s.Canon) : (State.adopt s i c spread confirmed).Canon := by
  unfold State.adopt
  repeat' (first
    | with_reducible assumption
    | intro _
    | (extract_lets -merge +onlyGivenNames t_
       first
       | (refine canon_cut (s := t_) ?_ (fun h_ => ?_) <;> [subst t_; clear_value t_])
       | (refine canon_cut (s := t_.2) ?_ (fun h_ => ?_) <;> [subst t_; clear_value t_])
       | clear_value t_)
    | (simp only [canon_parts]; with_reducible first | exact parts_of (by assumption) | apply parts_of)
    | with_reducible first | apply canon_recordErr | apply canon_flag | apply canon_pendCorr | apply canon_confirmed | apply canon_withCal | apply canon_adopted | apply canon_when
    | split
    | dsimp -zeta only)

theorem canon_candidate {s : State} (i c spread : Nat) (h_s : s.Canon) : (State.candidate s i c spread).Canon := by
  unfold State.candidate
  repeat' (first
    | with_reducible assumption
    | intro _
    | (extract_lets -merge +onlyGivenNames t_
       first
       | (refine canon_cut (s := t_) ?_ (fun h_ => ?_) <;> [subst t_; clear_value t_])
       | clear_value t_)
    | (simp only [canon_parts]; with_reducible first | exact parts_of (by assumption) | apply parts_of)
    | with_reducible first | apply canon_recordErr | apply canon_withCal | apply canon_adopt | apply canon_ite
    | split
    | dsimp -zeta only)

theorem canon_calReject {s : State} (h_s : s.Canon) : (State.calReject s).Canon := by
  unfold State.calReject
  repeat' (first
    | with_reducible first | assumption | apply canon_inc | apply canon_recordErr | apply canon_flag
    | dsimp -zeta only)

theorem canon_synAdopted {s : State} (h_s : s.Canon) : (State.synAdopted s).Canon := by
  unfold State.synAdopted
  repeat' (first
    | with_reducible assumption
    | intro _
    | (extract_lets -merge +onlyGivenNames t_
       first
       | (refine canon_cut (s := t_) ?_ (fun h_ => ?_) <;> [subst t_; clear_value t_])
       | clear_value t_)
    | (simp only [canon_parts]; with_reducible first | exact parts_of (by assumption) | apply parts_of)
    | with_reducible first | apply canon_nextFree | apply canon_withCal | apply canon_adopted
    | dsimp -zeta only)

theorem canon_calEvaluate {s : State} (i : Nat) (readings : List Nat) (h_s : s.Canon) : (State.calEvaluate s i readings).Canon := by
  unfold State.calEvaluate
  repeat' (first
    | with_reducible assumption
    | intro _
    | (extract_lets -merge +onlyGivenNames t_
       first
       | (refine canon_cut (s := t_) ?_ (fun h_ => ?_) <;> [subst t_; clear_value t_])
       | clear_value t_)
    | with_reducible first | apply canon_candidate | apply canon_calReject | apply canon_synAdopted | apply canon_ite
    | split
    | dsimp -zeta only)

theorem canon_effCalRunEnd (i : Nat) (readings : List Nat) {s : State} (h_s : s.Canon) : (effCalRunEnd i readings s).Canon := by
  unfold effCalRunEnd
  repeat' (first
    | with_reducible assumption
    | intro _
    | (extract_lets -merge +onlyGivenNames t_
       first
       | (refine canon_cut (s := t_) ?_ (fun h_ => ?_) <;> [subst t_; clear_value t_])
       | clear_value t_)
    | (simp only [canon_parts]; with_reducible first | exact parts_of (by assumption) | apply parts_of)
    | with_reducible first | apply canon_withCal | apply canon_calShow | apply canon_calOver | apply canon_calEvaluate | apply canon_ite
    | split
    | dsimp -zeta only)

theorem canon_applyOne {s : State} (e : Nat × Word) (h_s : s.Canon) : (State.applyOne s e).Canon := by
  unfold State.applyOne
  repeat' (first
    | with_reducible assumption
    | intro _
    | (simp only [canon_parts]; with_reducible first | exact parts_of (by assumption) | apply parts_of)
    | with_reducible first | apply canon_setReg | apply canon_withCal | apply canon_ite
    | split
    | dsimp -zeta only)

theorem canon_applyAll {s : State} (go : Nat → Bool) (h_s : s.Canon) : (State.applyAll s go).Canon := by
  unfold State.applyAll
  repeat' (first
    | with_reducible assumption
    | intro _
    | (extract_lets -merge +onlyGivenNames t_
       first
       | (refine canon_cut (s := t_) ?_ (fun h_ => ?_) <;> [subst t_; clear_value t_])
       | clear_value t_)
    | (simp only [canon_parts]; with_reducible first | exact parts_of (by assumption) | apply parts_of)
    | with_reducible first | apply canon_flag | apply canon_showPend | apply canon_withCal | apply canon_applyOne | apply canon_ite | apply canon_forEach
    | split
    | dsimp -zeta only)

theorem canon_effSoloApply {s : State} (h_s : s.Canon) : (effSoloApply s).Canon := by
  unfold effSoloApply
  repeat' (first
    | with_reducible first | assumption | apply canon_unsched | apply canon_applyAll | apply canon_ite
    | split
    | dsimp -zeta only)

theorem canon_effApplyPoint {s : State} (h_s : s.Canon) : (effApplyPoint s).Canon := by
  unfold effApplyPoint
  repeat' (first
    | with_reducible assumption
    | intro _
    | with_reducible first | apply canon_putB | apply canon_applyAll | apply canon_ite
    | split
    | dsimp -zeta only)

theorem canon_effXbArm {s : State} (h_s : s.Canon) : (effXbArm s).Canon := by
  unfold effXbArm
  repeat' (first
    | with_reducible assumption
    | intro _
    | (extract_lets -merge +onlyGivenNames t_
       first
       | (refine canon_cut (s := t_) ?_ (fun h_ => ?_) <;> [subst t_; clear_value t_])
       | clear_value t_)
    | (simp only [canon_parts]; with_reducible first | exact parts_of (by assumption) | apply parts_of)
    | with_reducible first | apply canon_withCal | apply canon_ite
    | split
    | dsimp -zeta only)

theorem canon_xbFail {s : State} (listen : Bool) (h_s : s.Canon) : (State.xbFail s listen).Canon := by
  unfold State.xbFail
  repeat' (first
    | with_reducible assumption
    | intro _
    | with_reducible first | apply canon_putB | apply canon_recordErr | apply canon_flag | apply canon_when
    | dsimp -zeta only)

theorem canon_xbOver {s : State} (h_s : s.Canon) : (State.xbOver s).Canon := by
  unfold State.xbOver
  repeat' (first
    | with_reducible first | assumption | apply canon_flag | apply canon_rxRest | apply canon_calOver | apply canon_forEach
    | dsimp -zeta only)

theorem canon_xbDrive {s : State} (w port level : Nat) (h_s : s.Canon) : (State.xbDrive s w port level).Canon := by
  unfold State.xbDrive
  repeat' (first
    | with_reducible assumption
    | intro _
    | (extract_lets -merge +onlyGivenNames t_
       first
       | (refine canon_cut (s := t_) ?_ (fun h_ => ?_) <;> [subst t_; clear_value t_])
       | clear_value t_)
    | (simp only [canon_parts]; with_reducible first | exact parts_of (by assumption) | apply parts_of)
    | with_reducible first | apply canon_withTx | apply canon_followRails | apply canon_setSwitch | apply canon_setField | apply canon_fireField | apply canon_calClaim | apply canon_xbFail | apply canon_ite
    | split
    | dsimp -zeta only)

theorem canon_xbListen {s : State} (w port : Nat) (readings : List Nat) (h_s : s.Canon) : (State.xbListen s w port readings).Canon := by
  unfold State.xbListen
  repeat' (first
    | with_reducible assumption
    | intro _
    | (extract_lets -merge +onlyGivenNames t_
       first
       | (refine canon_cut (s := t_) ?_ (fun h_ => ?_) <;> [subst t_; clear_value t_])
       | clear_value t_)
    | (simp only [canon_parts]; with_reducible first | exact parts_of (by assumption) | apply parts_of)
    | with_reducible first | apply canon_putB | apply canon_timer | apply canon_withRx | apply canon_calClaim | apply canon_xbFail | apply canon_ite
    | split
    | dsimp -zeta only)

theorem canon_effXbMeasurement (readings : List Nat) {s : State} (h_s : s.Canon) : (effXbMeasurement readings s).Canon := by
  unfold effXbMeasurement
  repeat' (first
    | with_reducible assumption
    | intro _
    | (extract_lets -merge +onlyGivenNames t_
       first
       | (refine canon_cut (s := t_) ?_ (fun h_ => ?_) <;> [subst t_; clear_value t_])
       | clear_value t_)
    | (simp only [canon_parts]; with_reducible first | exact parts_of (by assumption) | apply parts_of)
    | with_reducible first | apply canon_withCal | apply canon_xbFail | apply canon_xbDrive | apply canon_xbListen | apply canon_ite
    | split
    | dsimp -zeta only)

theorem canon_xbOff {s : State} (h_s : s.Canon) : (State.xbOff s).Canon := by
  unfold State.xbOff
  repeat' (first
    | with_reducible assumption
    | (extract_lets -merge +onlyGivenNames t_
       first
       | (refine canon_cut (s := t_) ?_ (fun h_ => ?_) <;> [subst t_; clear_value t_])
       | clear_value t_)
    | with_reducible first | apply canon_put | apply canon_putB | apply canon_fieldOffNow | apply canon_calReject | apply canon_xbOver | apply canon_ite | apply canon_when
    | split
    | dsimp -zeta only)

theorem canon_effXbPeer (phase : Nat) {s : State} (h_s : s.Canon) : (effXbPeer phase s).Canon := by
  unfold effXbPeer
  repeat' (first
    | with_reducible assumption
    | (extract_lets -merge +onlyGivenNames t_
       first
       | (refine canon_cut (s := t_) ?_ (fun h_ => ?_) <;> [subst t_; clear_value t_])
       | clear_value t_)
    | with_reducible first | apply canon_recordErr | apply canon_candidate | apply canon_ite
    | split
    | dsimp -zeta only)

theorem canon_effCalMismatch {s : State} (h_s : s.Canon) : (effCalMismatch s).Canon := by
  unfold effCalMismatch
  repeat' (first
    | with_reducible assumption
    | (extract_lets -merge +onlyGivenNames t_
       first
       | (refine canon_cut (s := t_) ?_ (fun h_ => ?_) <;> [subst t_; clear_value t_])
       | clear_value t_)
    | with_reducible first | apply canon_setFault | apply canon_calOver | apply canon_xbStop | apply canon_ite
    | split
    | dsimp -zeta only)

theorem canon_simulAt {s : State} (h_s : s.Canon) : (State.simulAt s).Canon := by
  unfold State.simulAt
  repeat' (first
    | with_reducible assumption
    | intro _
    | with_reducible first | apply canon_putB | apply canon_when
    | dsimp -zeta only)

theorem canon_calSettle {s : State} (h_s : s.Canon) : (State.calSettle s).Canon := by
  unfold State.calSettle
  repeat' (first
    | with_reducible assumption
    | intro _
    | (extract_lets -merge +onlyGivenNames t_
       first
       | (refine canon_cut (s := t_) ?_ (fun h_ => ?_) <;> [subst t_; clear_value t_])
       | (refine canon_cut (s := t_.2) ?_ (fun h_ => ?_) <;> [subst t_; clear_value t_])
       | clear_value t_)
    | (simp only [canon_parts]; with_reducible first | exact parts_of (by assumption) | apply parts_of)
    | with_reducible first | apply canon_sched | apply canon_retimer | apply canon_withTx | apply canon_fieldOffNow | apply canon_calOver | apply canon_xbOver | apply canon_simulAt | apply canon_ite | apply canon_when | apply canon_forEach
    | split
    | dsimp -zeta only)

end Sys2Proof.Machine
end

