-- ==== Sys2Proof/Laws/CanonSco.lean ====
section
/-! SUPPORT. The functions of Machine/Sco.lean keep the canonical form. -/

namespace Sys2Proof.Machine

open Sys2Proof

set_option linter.all false

theorem canon_withSco {s : State} (f : Sco → Sco) (h_s : s.Canon) : (State.withSco s f).Canon := by
  unfold State.withSco
  repeat' (first
    | with_reducible assumption
    | (simp only [canon_parts]; with_reducible first | exact parts_of (by assumption) | apply parts_of)
    | dsimp -zeta only)

theorem canon_scoDiscard {s : State} (h_s : s.Canon) : (State.scoDiscard s).Canon := by
  unfold State.scoDiscard
  repeat' (first
    | with_reducible assumption
    | intro _
    | (extract_lets -merge +onlyGivenNames t_
       first
       | (refine canon_cut (s := t_) ?_ (fun h_ => ?_) <;> [subst t_; clear_value t_])
       | clear_value t_)
    | (simp only [canon_parts]; with_reducible first | exact parts_of (by assumption) | apply parts_of)
    | with_reducible first | apply canon_put | apply canon_scoLose | apply canon_ite | apply canon_foldl | apply canon_foldl1 | apply canon_foldl2 | apply canon_foldl22
    | split
    | dsimp -zeta only)

theorem canon_scoShow {s : State} (h_s : s.Canon) : (State.scoShow s).Canon := by
  unfold State.scoShow
  repeat' (first
    | with_reducible assumption
    | (extract_lets -merge +onlyGivenNames t_
       first
       | (refine canon_cut (s := t_) ?_ (fun h_ => ?_) <;> [subst t_; clear_value t_])
       | clear_value t_)
    | with_reducible first | apply canon_put | apply canon_putB
    | split
    | dsimp -zeta only)

theorem canon_scoRefuse {s : State} (h_s : s.Canon) : (State.scoRefuse s).Canon := by
  unfold State.scoRefuse
  repeat' (first
    | with_reducible assumption
    | (extract_lets -merge +onlyGivenNames t_
       first
       | (refine canon_cut (s := t_) ?_ (fun h_ => ?_) <;> [subst t_; clear_value t_])
       | clear_value t_)
    | with_reducible first | apply canon_putB | apply canon_recordErr | apply canon_scoDiscard
    | dsimp -zeta only)

theorem canon_scoTest {s : State} (h_s : s.Canon) : (State.scoTest s).Canon := by
  unfold State.scoTest
  repeat' (first
    | with_reducible assumption
    | (extract_lets -merge +onlyGivenNames t_
       first
       | (refine canon_cut (s := t_) ?_ (fun h_ => ?_) <;> [subst t_; clear_value t_])
       | clear_value t_)
    | with_reducible first | apply canon_putB | apply canon_scoRefuse | apply canon_ite
    | split
    | dsimp -zeta only)

theorem canon_scoEnable {s : State} (h_s : s.Canon) : (State.scoEnable s).Canon := by
  unfold State.scoEnable
  repeat' (first
    | with_reducible first | assumption | apply canon_putB | apply canon_scoTest | apply canon_ite
    | split
    | dsimp -zeta only)

theorem canon_scoEraseSector {s : State} (k : Nat) (h_s : s.Canon) : (State.scoEraseSector s k).Canon := by
  unfold State.scoEraseSector
  repeat' (first
    | with_reducible assumption
    | intro _
    | (extract_lets -merge +onlyGivenNames t_
       first
       | (refine canon_cut (s := t_) ?_ (fun h_ => ?_) <;> [subst t_; clear_value t_])
       | (refine canon_cut (s := t_.2) ?_ (fun h_ => ?_) <;> [subst t_; clear_value t_])
       | clear_value t_)
    | (simp only [canon_parts]; with_reducible first | exact parts_of (by assumption) | apply parts_of)
    | with_reducible first | apply canon_xmpEraseQ | apply canon_withSco | apply canon_scoShow | refine canonP_use ?_ (by assumption)
    | split
    | dsimp -zeta only)

theorem canon_scoAdvance {s : State} (h_s : s.Canon) : (State.scoAdvance s).Canon := by
  unfold State.scoAdvance
  repeat' (first
    | with_reducible first | assumption | apply canon_scoEraseSector
    | dsimp -zeta only)

theorem canon_scoProgram {s : State} (h : s.Canon) : (State.scoProgram s).Canon := by
  unfold State.scoProgram
  split
  · rename_i r _ _
    generalize s.get pSCO SCO.HEAD_ADDR - winBase = k
    have hx := canon_xmpPost 254 k (s.recordBytes (s.get pSCO SCO.SEQ_RSEQ) r) h
    generalize s.xmpPost 254 k (s.recordBytes (s.get pSCO SCO.SEQ_RSEQ) r) = x at hx
    show State.Canon (if x.1 then (x.2.withSco _).scoShow else x.2)
    split
    · exact canon_scoShow (canon_withSco _ hx)
    · exact hx
  · exact h

theorem canon_scoSettle {s : State} (h_s : s.Canon) : (State.scoSettle s).Canon := by
  unfold State.scoSettle
  repeat' (first
    | with_reducible assumption
    | (extract_lets -merge +onlyGivenNames t_
       first
       | (refine canon_cut (s := t_) ?_ (fun h_ => ?_) <;> [subst t_; clear_value t_])
       | clear_value t_)
    | with_reducible first | apply canon_scoLostRecord | apply canon_scoRefuse | apply canon_scoTest | apply canon_scoAdvance | apply canon_scoProgram | apply canon_ite
    | split
    | dsimp -zeta only)

theorem canon_effRecordProgrammed (ok : Bool) {s : State} (h_s : s.Canon) : (effRecordProgrammed ok s).Canon := by
  unfold effRecordProgrammed
  repeat' (first
    | with_reducible assumption
    | intro _
    | (extract_lets -merge +onlyGivenNames t_
       first
       | (refine canon_cut (s := t_) ?_ (fun h_ => ?_) <;> [subst t_; clear_value t_])
       | clear_value t_)
    | (simp only [canon_parts]; with_reducible first | exact parts_of (by assumption) | apply parts_of)
    | with_reducible first | apply canon_put | apply canon_putB | apply canon_inc | apply canon_incMod | apply canon_flag | apply canon_setFault | apply canon_withSco | apply canon_scoShow | apply canon_scoAdvance | apply canon_ite | apply canon_when
    | split
    | dsimp -zeta only)

theorem canon_scoHeaderAt {s : State} (a : Nat) (h : s.Canon) : (State.scoHeaderAt s a).Canon := by
  unfold State.scoHeaderAt
  generalize a - winBase = k
  have hx := canon_xmpPost 254 k (s.recordBytes (s.get pSCO SCO.SEQ_RSEQ) s.header) h
  generalize s.xmpPost 254 k (s.recordBytes (s.get pSCO SCO.SEQ_RSEQ) s.header) = x at hx
  show State.Canon (if x.1 then x.2.withSco _ else x.2)
  split
  · exact canon_withSco _ hx
  · exact hx

theorem canon_effSectorErased (ok : Bool) {s : State} (h_s : s.Canon) : (effSectorErased ok s).Canon := by
  unfold effSectorErased
  repeat' (first
    | with_reducible assumption
    | intro _
    | (extract_lets -merge +onlyGivenNames t_
       first
       | (refine canon_cut (s := t_) ?_ (fun h_ => ?_) <;> [subst t_; clear_value t_])
       | clear_value t_)
    | (simp only [canon_parts]; with_reducible first | exact parts_of (by assumption) | apply parts_of)
    | with_reducible first | apply canon_put | apply canon_inc | apply canon_flag | apply canon_setFault | apply canon_withSco | apply canon_scoShow | apply canon_scoAdvance | apply canon_scoHeaderAt | apply canon_ite
    | split
    | dsimp -zeta only)

theorem canon_scoFormat {s : State} (h_s : s.Canon) : (State.scoFormat s).Canon := by
  unfold State.scoFormat
  repeat' (first
    | with_reducible assumption
    | intro _
    | (simp only [canon_parts]; with_reducible first | exact parts_of (by assumption) | apply parts_of)
    | with_reducible first | apply canon_withSco | apply canon_scoEraseSector | apply canon_ite
    | split
    | dsimp -zeta only)

theorem canon_mount {s : State} (l : List SectorScan) (h_s : s.Canon) : (State.mount s l).Canon := by
  unfold State.mount
  repeat' (first
    | with_reducible assumption
    | intro _
    | (extract_lets -merge +onlyGivenNames t_
       first
       | (refine canon_cut (s := t_) ?_ (fun h_ => ?_) <;> [subst t_; clear_value t_])
       | clear_value t_)
    | (simp only [canon_parts]; with_reducible first | exact parts_of (by assumption) | apply parts_of)
    | with_reducible first | apply canon_put | apply canon_putB | apply canon_inc | apply canon_recordErr | apply canon_flag | apply canon_withSco | apply canon_scoFormat | apply canon_when | apply canon_forEach
    | split
    | dsimp -zeta only)

theorem canon_effScoMount (l : List SectorScan) {s : State} (h_s : s.Canon) : (effScoMount l s).Canon := by
  unfold effScoMount
  repeat' (first
    | with_reducible first | assumption | apply canon_putB | apply canon_mount | apply canon_ite
    | split
    | dsimp -zeta only)

theorem canon_effRemount (l : List SectorScan) {s : State} (h_s : s.Canon) : (effRemount l s).Canon := by
  unfold effRemount
  repeat' (first
    | with_reducible assumption
    | (extract_lets -merge +onlyGivenNames t_
       first
       | (refine canon_cut (s := t_) ?_ (fun h_ => ?_) <;> [subst t_; clear_value t_])
       | clear_value t_)
    | with_reducible first | apply canon_putB | apply canon_mount | apply canon_ite
    | split
    | dsimp -zeta only)

theorem canon_effFormat {s : State} (h_s : s.Canon) : (effFormat s).Canon := by
  unfold effFormat
  repeat' (first
    | with_reducible first | assumption | apply canon_scoFormat | apply canon_ite
    | split
    | dsimp -zeta only)

theorem canon_scoDisable {s : State} (h_s : s.Canon) : (State.scoDisable s).Canon := by
  unfold State.scoDisable
  repeat' (first
    | with_reducible first | assumption | apply canon_putB | apply canon_scoDiscard
    | dsimp -zeta only)

theorem canon_telemetry {s : State} (t : TelReading) (h_s : s.Canon) : (State.telemetry s t).Canon := by
  unfold State.telemetry
  repeat' (first
    | with_reducible assumption
    | intro _
    | (extract_lets -merge +onlyGivenNames t_
       first
       | (refine canon_cut (s := t_) ?_ (fun h_ => ?_) <;> [subst t_; clear_value t_])
       | (refine canon_cutF (f := t_) ?_ (fun h_ => ?_) <;> [subst t_; clear_value t_])
       | (refine canon_cutG (f := t_) ?_ (fun h_ => ?_) <;> [subst t_; clear_value t_])
       | clear_value t_)
    | (simp only [canon_parts]; with_reducible first | exact parts_of (by assumption) | apply parts_of)
    | with_reducible first | refine canonF_use (by assumption) ?_ | refine canonG_use (by assumption) ?_ | apply canon_scoRecord | apply canon_withSco | apply canon_when
    | dsimp -zeta only)

theorem canon_effTelNow (t : TelReading) {s : State} (h_s : s.Canon) : (effTelNow t s).Canon := by
  unfold effTelNow
  repeat' (first
    | with_reducible first | assumption | apply canon_telemetry | apply canon_ite
    | split
    | dsimp -zeta only)

theorem canon_effTelemetryTimer (t : TelReading) {s : State} (h_s : s.Canon) : (effTelemetryTimer t s).Canon := by
  unfold effTelemetryTimer
  repeat' (first
    | with_reducible assumption
    | intro _
    | with_reducible first | apply canon_telemetry | apply canon_ite | apply canon_when
    | split
    | dsimp -zeta only)

end Sys2Proof.Machine
end

