-- ==== Sys2Proof/Laws/CanonHpt.lean ====
section
/-! SUPPORT. The functions of Machine/Hpt.lean keep the canonical form. -/

namespace Sys2Proof.Machine

open Sys2Proof

set_option linter.all false

theorem canon_withHpt {s : State} (f : Hpt → Hpt) (h_s : s.Canon) : (State.withHpt s f).Canon := by
  unfold State.withHpt
  repeat' (first
    | with_reducible assumption
    | (simp only [canon_parts]; with_reducible first | exact parts_of (by assumption) | apply parts_of)
    | dsimp -zeta only)

theorem canon_violate {s : State} (code op board page off bytes : Nat) (h_s : s.Canon) : (State.violate s code op board page off bytes).Canon := by
  unfold State.violate
  repeat' (first
    | with_reducible assumption
    | intro _
    | (extract_lets -merge +onlyGivenNames t_
       first
       | (refine canon_cut (s := t_) ?_ (fun h_ => ?_) <;> [subst t_; clear_value t_])
       | clear_value t_)
    | with_reducible first | apply canon_put | apply canon_putB | apply canon_recordErr | apply canon_flag | apply canon_when
    | dsimp -zeta only)

theorem canon_setResult {s : State} (r : Nat) (h_s : s.Canon) : (State.setResult s r).Canon := by
  unfold State.setResult
  repeat' (first
    | with_reducible assumption
    | intro _
    | (simp only [canon_parts]; with_reducible first | exact parts_of (by assumption) | apply parts_of)
    | with_reducible apply canon_withHpt
    | dsimp -zeta only)

theorem canon_requestResign {s : State} (cause : Nat) (h_s : s.Canon) : (State.requestResign s cause).Canon := by
  unfold State.requestResign
  repeat' (first
    | with_reducible assumption
    | (simp only [canon_parts]; with_reducible first | exact parts_of (by assumption) | apply parts_of)
    | with_reducible apply canon_ite
    | split
    | dsimp -zeta only)

theorem canon_effRptPush (v : Nat) {s : State} (h_s : s.Canon) : (effRptPush v s).Canon := by
  unfold effRptPush
  repeat' (first
    | with_reducible first | assumption | apply canon_rptAppend
    | dsimp -zeta only)

theorem canon_popWord {s : State} (h_s : s.Canon) : (State.popWord s).2.Canon := by
  unfold State.popWord
  repeat' (first
    | with_reducible assumption
    | intro _
    | (extract_lets -merge +onlyGivenNames t_
       first
       | (refine canon_cut (s := t_) ?_ (fun h_ => ?_) <;> [subst t_; clear_value t_])
       | clear_value t_)
    | (simp only [canon_parts]; with_reducible first | exact parts_of (by assumption) | apply parts_of)
    | with_reducible first | apply canon_put | apply canon_tokenIdle | apply canon_withHpt
    | split
    | dsimp -zeta only)

theorem canon_effRptPop {s : State} (h_s : s.Canon) : (effRptPop s).Canon := by
  unfold effRptPop
  repeat' (first
    | with_reducible assumption
    | intro _
    | (extract_lets -merge +onlyGivenNames t_
       first
       | (refine canon_cut (s := t_) ?_ (fun h_ => ?_) <;> [subst t_; clear_value t_])
       | (refine canon_cut (s := t_.2) ?_ (fun h_ => ?_) <;> [subst t_; clear_value t_])
       | clear_value t_)
    | (simp only [canon_parts]; with_reducible first | exact parts_of (by assumption) | apply parts_of)
    | with_reducible first | apply canon_withHpt | apply canon_popWord | refine canonP_use ?_ (by assumption)
    | dsimp -zeta only)

theorem canon_effReportUnit {s : State} (h_s : s.Canon) : (effReportUnit s).Canon := by
  unfold effReportUnit
  repeat' (first
    | with_reducible assumption
    | intro _
    | (extract_lets -merge +onlyGivenNames t_
       first
       | (refine canon_cut (s := t_) ?_ (fun h_ => ?_) <;> [subst t_; clear_value t_])
       | clear_value t_)
    | (simp only [canon_parts]; with_reducible first | exact parts_of (by assumption) | apply parts_of)
    | with_reducible first | apply canon_put | apply canon_putB | apply canon_resched | apply canon_withHpt | apply canon_ite
    | split
    | dsimp -zeta only)

theorem canon_effReportUnitEnd {s : State} (h_s : s.Canon) : (effReportUnitEnd s).Canon := by
  unfold effReportUnitEnd
  repeat' (first
    | with_reducible assumption
    | intro _
    | (extract_lets -merge +onlyGivenNames t_
       first
       | (refine canon_cut (s := t_) ?_ (fun h_ => ?_) <;> [subst t_; clear_value t_])
       | clear_value t_)
    | (simp only [canon_parts]; with_reducible first | exact parts_of (by assumption) | apply parts_of)
    | with_reducible first | apply canon_put | apply canon_putB | apply canon_incMod | apply canon_unsched | apply canon_flag | apply canon_reinsertToken | apply canon_withHpt | apply canon_ite
    | split
    | dsimp -zeta only)

theorem canon_effMasterCollision {s : State} (h_s : s.Canon) : (effMasterCollision s).Canon := by
  unfold effMasterCollision
  repeat' (first
    | with_reducible assumption
    | intro _
    | (extract_lets -merge +onlyGivenNames t_
       first
       | (refine canon_cut (s := t_) ?_ (fun h_ => ?_) <;> [subst t_; clear_value t_])
       | clear_value t_)
    | (simp only [canon_parts]; with_reducible first | exact parts_of (by assumption) | apply parts_of)
    | with_reducible first | apply canon_putB | apply canon_unsched | apply canon_flag | apply canon_reinsertToken | apply canon_withHpt | apply canon_violate | apply canon_setResult | apply canon_ite
    | split
    | dsimp -zeta only)

theorem canon_selFall {s : State} (h_s : s.Canon) : (State.selFall s).Canon := by
  unfold State.selFall
  repeat' (first
    | with_reducible assumption
    | (simp only [canon_parts]; with_reducible first | exact parts_of (by assumption) | apply parts_of)
    | dsimp -zeta only)

theorem canon_takeMode {s : State} (h_s : s.Canon) : (State.takeMode s).Canon := by
  unfold State.takeMode
  repeat' (first
    | with_reducible first | assumption | apply canon_putB
    | dsimp -zeta only)

theorem canon_effSdrResetPulse {s : State} (h_s : s.Canon) : (effSdrResetPulse s).Canon := by
  unfold effSdrResetPulse
  repeat' (first
    | with_reducible first | assumption | apply canon_putB | apply canon_effMasterCollision | apply canon_selFall | apply canon_takeMode | apply canon_ite
    | split
    | dsimp -zeta only)

theorem canon_effRunt (ddr otherBoard : Bool) (bytes : Nat) {s : State} (h_s : s.Canon) : (effRunt ddr otherBoard bytes s).Canon := by
  unfold effRunt
  repeat' (first
    | with_reducible assumption
    | (extract_lets -merge +onlyGivenNames t_
       first
       | (refine canon_cut (s := t_) ?_ (fun h_ => ?_) <;> [subst t_; clear_value t_])
       | clear_value t_)
    | with_reducible first | apply canon_violate | apply canon_setResult | apply canon_effMasterCollision | apply canon_selFall | apply canon_ite
    | split
    | dsimp -zeta only)

theorem canon_effClkNoSel {s : State} (h_s : s.Canon) : (effClkNoSel s).Canon := by
  unfold effClkNoSel
  repeat' (first
    | with_reducible assumption
    | (extract_lets -merge +onlyGivenNames t_
       first
       | (refine canon_cut (s := t_) ?_ (fun h_ => ?_) <;> [subst t_; clear_value t_])
       | clear_value t_)
    | (simp only [canon_parts]; with_reducible first | exact parts_of (by assumption) | apply parts_of)
    | with_reducible first | apply canon_violate | apply canon_setResult | apply canon_ite
    | split
    | dsimp -zeta only)

theorem canon_effDecoderMismatch {s : State} (h_s : s.Canon) : (effDecoderMismatch s).Canon := by
  unfold effDecoderMismatch
  repeat' (first
    | with_reducible first | assumption | apply canon_setFault | apply canon_setResult
    | dsimp -zeta only)

theorem canon_answer {s : State} (board : Nat) (l : List Nat) (h_s : s.Canon) : (State.answer s board l).Canon := by
  unfold State.answer
  repeat' (first
    | with_reducible assumption
    | intro _
    | (extract_lets -merge +onlyGivenNames t_
       first
       | (refine canon_cut (s := t_) ?_ (fun h_ => ?_) <;> [subst t_; clear_value t_])
       | clear_value t_)
    | (simp only [canon_parts]; with_reducible first | exact parts_of (by assumption) | apply parts_of)
    | with_reducible first | apply canon_withHpt | apply canon_ite
    | split
    | dsimp -zeta only)

theorem canon_frameRecord {s : State} (op board page off result first psn : Nat) (h_s : s.Canon) : (State.frameRecord s op board page off result first psn).Canon := by
  unfold State.frameRecord
  repeat' (first
    | with_reducible assumption
    | (extract_lets -merge +onlyGivenNames t_
       first
       | (refine canon_cut (s := t_) ?_ (fun h_ => ?_) <;> [subst t_; clear_value t_])
       | clear_value t_)
    | with_reducible first | apply canon_put | apply canon_incMod | apply canon_setResult
    | dsimp -zeta only)

theorem canon_frame {s : State} (board : Nat) (enumi : Bool) (f : State → State) (h_s : s.Canon) (h_f : ∀ t : State, t.Canon → (f t).Canon) : (State.frame s board enumi f).Canon := by
  unfold State.frame
  repeat' (first
    | with_reducible assumption
    | intro _
    | (extract_lets -merge +onlyGivenNames t_
       first
       | (refine canon_cut (s := t_) ?_ (fun h_ => ?_) <;> [subst t_; clear_value t_])
       | clear_value t_)
    | with_reducible first | refine canonF_use (by assumption) ?_ | refine canonG_use (by assumption) ?_ | apply canon_sched | apply canon_effMasterCollision | apply canon_selFall | apply canon_ite | apply canon_when
    | split
    | dsimp -zeta only)

theorem canon_effStatus (board : Nat) (enumi : Bool) {s : State} (h_s : s.Canon) : (effStatus board enumi s).Canon := by
  unfold effStatus
  repeat' (first
    | with_reducible assumption
    | intro _
    | with_reducible first | apply canon_answer | apply canon_frameRecord | apply canon_frame
    | dsimp -zeta only)

theorem canon_effResignFrame (board : Nat) (enumi : Bool) {s : State} (h_s : s.Canon) : (effResignFrame board enumi s).Canon := by
  unfold effResignFrame
  repeat' (first
    | with_reducible assumption
    | intro _
    | with_reducible first | apply canon_requestResign | apply canon_answer | apply canon_frameRecord | apply canon_frame
    | dsimp -zeta only)

theorem canon_effBadOpcode (board op page off bytes : Nat) (enumi : Bool) {s : State} (h_s : s.Canon) : (effBadOpcode board op page off bytes enumi s).Canon := by
  unfold effBadOpcode
  repeat' (first
    | with_reducible assumption
    | intro _
    | (extract_lets -merge +onlyGivenNames t_
       first
       | (refine canon_cut (s := t_) ?_ (fun h_ => ?_) <;> [subst t_; clear_value t_])
       | clear_value t_)
    | with_reducible first | apply canon_violate | apply canon_answer | apply canon_frameRecord | apply canon_frame | apply canon_ite
    | split
    | dsimp -zeta only)

end Sys2Proof.Machine
end

