-- ==== Sys2Proof/Laws/CanonPower.lean ====
section
/-! SUPPORT. The functions of Machine/Power.lean keep the canonical form. -/

namespace Sys2Proof.Machine

open Sys2Proof

set_option linter.all false

theorem canon_coreOff {s : State} (h : s.Canon) : (State.coreOff s).Canon := by
  unfold State.coreOff
  extract_lets -merge +onlyGivenNames s1 keep x m s2 p k s3 s4 s5
  have h1 : s1.Canon := canon_incBy _ _ _ h
  have h2 : s2.Canon := (canon_parts ..).2 ⟨AMap.wf_filter _ _ h1.regs, h1.sram, h1.parity, rfl, rfl, rfl, rfl, rfl⟩
  clear_value s2
  exact canon_angTicks (canon_withPwr _ (canon_withHpt _ (canon_putB _ _ _ ((canon_parts ..).2 (parts_of h2)))))

theorem canon_synStart {s : State} (h_s : s.Canon) : (State.synStart s).Canon := by
  unfold State.synStart
  repeat' (first
    | with_reducible first | assumption | apply canon_putB | apply canon_resched | apply canon_ite
    | split
    | dsimp -zeta only)

theorem canon_reloadTunes {s : State} (h_s : s.Canon) : (State.reloadTunes s).Canon := by
  unfold State.reloadTunes
  repeat' (first
    | with_reducible assumption
    | intro _
    | (extract_lets -merge +onlyGivenNames t_
       first
       | (refine canon_cut (s := t_) ?_ (fun h_ => ?_) <;> [subst t_; clear_value t_])
       | (refine canon_cut (s := t_.2) ?_ (fun h_ => ?_) <;> [subst t_; clear_value t_])
       | clear_value t_)
    | (simp only [canon_parts]; with_reducible first | exact parts_of (by assumption) | apply parts_of)
    | with_reducible first | apply canon_setReg | apply canon_withPwr | apply canon_forEach
    | dsimp -zeta only)

theorem canon_anaUp {s : State} (h_s : s.Canon) : (State.anaUp s).Canon := by
  unfold State.anaUp
  repeat' (first
    | with_reducible assumption
    | (extract_lets -merge +onlyGivenNames t_
       first
       | (refine canon_cut (s := t_) ?_ (fun h_ => ?_) <;> [subst t_; clear_value t_])
       | clear_value t_)
    | with_reducible first | apply canon_resched | apply canon_synStart | apply canon_reloadTunes | apply canon_ite
    | split
    | dsimp -zeta only)

theorem canon_coreOn {s : State} (h : s.Canon) : (State.coreOn s).Canon := by
  unfold State.coreOn
  extract_lets -merge +onlyGivenNames s1 s2 s3 s4 s5 s6
  have h1 : s1.Canon := (canon_parts ..).2 ⟨AMap.wf_filter _ _ h.regs, h.sram, h.parity, h.ctxs, h.txc, h.rxc, h.engs, h.wings⟩
  clear_value s1
  have h3 : s3.Canon := canon_put _ _ _ (canon_withPwr _ h1)
  clear_value s3
  have h4 : s4.Canon := (canon_parts ..).2 (parts_of h3)
  clear_value s4
  have h5 : s5.Canon := canon_ite (canon_putB _ _ _ h4) (canon_resched _ _ (canon_putB _ _ _ h4))
  clear_value s5
  exact canon_anaUp (canon_resched _ _ (canon_put _ _ _ h5))

theorem canon_wakeRail {s : State} (r : Nat) (h_s : s.Canon) : (State.wakeRail s r).Canon := by
  unfold State.wakeRail
  repeat' (first
    | with_reducible first | assumption | apply canon_railUp | apply canon_acknowledge | apply canon_ite
    | split
    | dsimp -zeta only)

theorem canon_wakeRails {s : State} (h_s : s.Canon) : (State.wakeRails s).Canon := by
  unfold State.wakeRails
  repeat' (first
    | with_reducible assumption
    | (extract_lets -merge +onlyGivenNames t_
       first
       | (refine canon_cut (s := t_) ?_ (fun h_ => ?_) <;> [subst t_; clear_value t_])
       | clear_value t_)
    | with_reducible first | apply canon_anaUp | apply canon_wakeRail | apply canon_ite
    | split
    | dsimp -zeta only)

theorem canon_beginWake {s : State} (cause : Nat) (h_s : s.Canon) : (State.beginWake s cause).Canon := by
  unfold State.beginWake
  repeat' (first
    | with_reducible assumption
    | intro _
    | (extract_lets -merge +onlyGivenNames t_
       first
       | (refine canon_cut (s := t_) ?_ (fun h_ => ?_) <;> [subst t_; clear_value t_])
       | clear_value t_)
    | (simp only [canon_parts]; with_reducible first | exact parts_of (by assumption) | apply parts_of)
    | with_reducible first | apply canon_putB | apply canon_resched | apply canon_withPwr | apply canon_coreOn | apply canon_wakeRail | apply canon_wakeRails | apply canon_ite
    | split
    | dsimp -zeta only)

theorem canon_beginEntry {s : State} (cause target : Nat) (h_s : s.Canon) : (State.beginEntry s cause target).Canon := by
  unfold State.beginEntry
  repeat' (first
    | with_reducible assumption
    | intro _
    | (extract_lets -merge +onlyGivenNames t_
       first
       | (refine canon_cut (s := t_) ?_ (fun h_ => ?_) <;> [subst t_; clear_value t_])
       | clear_value t_)
    | (simp only [canon_parts]; with_reducible first | exact parts_of (by assumption) | apply parts_of)
    | with_reducible first | apply canon_putB | apply canon_resched | apply canon_scoRecord | apply canon_withPwr | apply canon_ite | refine canonP_use ?_ (by assumption)
    | split
    | dsimp -zeta only)

theorem canon_entryHalt {s : State} (h_s : s.Canon) : (State.entryHalt s).Canon := by
  unfold State.entryHalt
  repeat' (first
    | with_reducible assumption
    | intro _
    | (extract_lets -merge +onlyGivenNames t_
       first
       | (refine canon_cut (s := t_) ?_ (fun h_ => ?_) <;> [subst t_; clear_value t_])
       | clear_value t_)
    | (simp only [canon_parts]; with_reducible first | exact parts_of (by assumption) | apply parts_of)
    | with_reducible first | apply canon_withPwr | apply canon_endField | apply canon_capUnseen | apply canon_capStop | apply canon_invAbandon | apply canon_endSweep | apply canon_haltCtx | apply canon_ite | apply canon_when | apply canon_forEach
    | split
    | dsimp -zeta only)

theorem canon_entrySettle {s : State} (h_s : s.Canon) : (State.entrySettle s).Canon := by
  unfold State.entrySettle
  repeat' (first
    | with_reducible assumption
    | intro _
    | (extract_lets -merge +onlyGivenNames t_
       first
       | (refine canon_cut (s := t_) ?_ (fun h_ => ?_) <;> [subst t_; clear_value t_])
       | clear_value t_)
    | (simp only [canon_parts]; with_reducible first | exact parts_of (by assumption) | apply parts_of)
    | with_reducible first | apply canon_resched | apply canon_withPwr | apply canon_xmpDiscard | apply canon_ite | apply canon_when | refine canonP_use ?_ (by assumption)
    | split
    | dsimp -zeta only)

theorem canon_modeRequest {s : State} (cause mode : Nat) (h_s : s.Canon) : (State.modeRequest s cause mode).Canon := by
  unfold State.modeRequest
  repeat' (first
    | with_reducible assumption
    | intro _
    | (simp only [canon_parts]; with_reducible first | exact parts_of (by assumption) | apply parts_of)
    | with_reducible first | apply canon_recordErr | apply canon_flag | apply canon_withPwr | apply canon_beginWake | apply canon_beginEntry | apply canon_ite
    | split
    | dsimp -zeta only)

theorem canon_effModeReq (src : Src) (mode : Nat) {s : State} (h_s : s.Canon) : (effModeReq src mode s).Canon := by
  unfold effModeReq
  repeat' (first
    | with_reducible first | assumption | apply canon_modeRequest | apply canon_ite
    | dsimp -zeta only)

theorem canon_actHeld {s : State} (h_s : s.Canon) : (State.actHeld s).Canon := by
  unfold State.actHeld
  repeat' (first
    | with_reducible assumption
    | intro _
    | (simp only [canon_parts]; with_reducible first | exact parts_of (by assumption) | apply parts_of)
    | with_reducible first | apply canon_withPwr | apply canon_modeRequest
    | split
    | dsimp -zeta only)

theorem canon_holdModeRec {s : State} (l : List Nat) (h_s : s.Canon) : (State.holdModeRec s l).Canon := by
  unfold State.holdModeRec
  repeat' (first
    | with_reducible assumption
    | intro _
    | (simp only [canon_parts]; with_reducible first | exact parts_of (by assumption) | apply parts_of)
    | with_reducible first | apply canon_scoLose | apply canon_withPwr | apply canon_when
    | dsimp -zeta only)

theorem canon_wakeStart {s : State} (h_s : s.Canon) : (State.wakeStart s).Canon := by
  unfold State.wakeStart
  repeat' (first
    | with_reducible assumption
    | (extract_lets -merge +onlyGivenNames t_
       first
       | (refine canon_cut (s := t_) ?_ (fun h_ => ?_) <;> [subst t_; clear_value t_])
       | clear_value t_)
    | with_reducible first | apply canon_putB | apply canon_refuseStart | apply canon_startAt | apply canon_ite
    | split
    | dsimp -zeta only)

theorem canon_backInRun {s : State} (h_s : s.Canon) : (State.backInRun s).Canon := by
  unfold State.backInRun
  repeat' (first
    | with_reducible assumption
    | intro _
    | (extract_lets -merge +onlyGivenNames t_
       first
       | (refine canon_cut (s := t_) ?_ (fun h_ => ?_) <;> [subst t_; clear_value t_])
       | clear_value t_)
    | (simp only [canon_parts]; with_reducible first | exact parts_of (by assumption) | apply parts_of)
    | with_reducible first | apply canon_put | apply canon_putB | apply canon_resched | apply canon_flag | apply canon_withPwr | apply canon_actHeld | apply canon_holdModeRec | apply canon_wakeStart | apply canon_when
    | dsimp -zeta only)

theorem canon_effWakeComplete {s : State} (h_s : s.Canon) : (effWakeComplete s).Canon := by
  unfold effWakeComplete
  repeat' (first
    | with_reducible first | assumption | apply canon_backInRun | apply canon_ite
    | split
    | dsimp -zeta only)

theorem canon_effWakeSource (cause : Nat) {s : State} (h_s : s.Canon) : (effWakeSource cause s).Canon := by
  unfold effWakeSource
  repeat' (first
    | with_reducible assumption
    | intro _
    | (simp only [canon_parts]; with_reducible first | exact parts_of (by assumption) | apply parts_of)
    | with_reducible first | apply canon_withPwr | apply canon_beginWake | apply canon_ite
    | split
    | dsimp -zeta only)

theorem canon_lowPower {s : State} (target : Nat) (h : s.Canon) : (State.lowPower s target).Canon := by
  unfold State.lowPower
  extract_lets -merge +onlyGivenNames sweeps xtal sa sb s1 s2 s3 s4
  have ha : sa.Canon := canon_withPwr _ (canon_kbzKeep h)
  have hb : sb.Canon := canon_when ha _ (fun t ht => canon_putBit _ _ _ _ ht)
  have h1 : s1.Canon := canon_ite (canon_coreOff hb) h
  have h2 : s2.Canon := canon_put _ _ _ h1
  have h3 : s3.Canon := canon_forEach h2 _ (fun t r ht => canon_ite ht (canon_railOff _ ht))
  have h4 : s4.Canon := canon_ite h3 (canon_withPwr _ (canon_ite h3 (canon_railOff _ h3)))
  exact canon_when h4 _ (fun t ht => canon_resched _ _ ht)

theorem canon_effEntryDone {s : State} (h_s : s.Canon) : (effEntryDone s).Canon := by
  unfold effEntryDone
  repeat' (first
    | with_reducible assumption
    | intro _
    | (extract_lets -merge +onlyGivenNames t_
       first
       | (refine canon_cut (s := t_) ?_ (fun h_ => ?_) <;> [subst t_; clear_value t_])
       | clear_value t_)
    | (simp only [canon_parts]; with_reducible first | exact parts_of (by assumption) | apply parts_of)
    | with_reducible first | apply canon_put | apply canon_putB | apply canon_sched | apply canon_unsched | apply canon_withPwr | apply canon_actHeld | apply canon_backInRun | apply canon_lowPower | apply canon_ite | apply canon_when | refine canonP_use ?_ (by assumption)
    | split
    | dsimp -zeta only)

theorem canon_railAcked {s : State} (r : Nat) (h_s : s.Canon) : (State.railAcked s r).Canon := by
  unfold State.railAcked
  repeat' (first
    | with_reducible assumption
    | (extract_lets -merge +onlyGivenNames t_
       first
       | (refine canon_cut (s := t_) ?_ (fun h_ => ?_) <;> [subst t_; clear_value t_])
       | clear_value t_)
    | with_reducible first | apply canon_wakeChains | apply canon_acknowledge | apply canon_anaUp | apply canon_coreOn | apply canon_wakeRails | apply canon_ite
    | split
    | dsimp -zeta only)

theorem canon_effRailAck (r : Nat) {s : State} (h_s : s.Canon) : (effRailAck r s).Canon := by
  unfold effRailAck
  repeat' (first
    | with_reducible first | assumption | apply canon_railAcked | apply canon_ite
    | split
    | dsimp -zeta only)

theorem canon_wakeFail {s : State} (h_s : s.Canon) : (State.wakeFail s).Canon := by
  unfold State.wakeFail
  repeat' (first
    | with_reducible assumption
    | intro _
    | (extract_lets -merge +onlyGivenNames t_
       first
       | (refine canon_cut (s := t_) ?_ (fun h_ => ?_) <;> [subst t_; clear_value t_])
       | clear_value t_)
    | (simp only [canon_parts]; with_reducible first | exact parts_of (by assumption) | apply parts_of)
    | with_reducible first | apply canon_put | apply canon_putB | apply canon_unsched | apply canon_flag | apply canon_withPwr | apply canon_railOff | apply canon_coreOff | apply canon_actHeld | apply canon_ite | apply canon_when | apply canon_forEach
    | split
    | dsimp -zeta only)

theorem canon_railFailed {s : State} (r : Nat) (h_s : s.Canon) : (State.railFailed s r).Canon := by
  unfold State.railFailed
  repeat' (first
    | with_reducible assumption
    | (extract_lets -merge +onlyGivenNames t_
       first
       | (refine canon_cut (s := t_) ?_ (fun h_ => ?_) <;> [subst t_; clear_value t_])
       | clear_value t_)
    | with_reducible first | apply canon_put | apply canon_setFault | apply canon_wakeChains | apply canon_wakeFail | apply canon_ite
    | split
    | dsimp -zeta only)

theorem canon_railRetry {s : State} (j : Job) (h_s : s.Canon) : (State.railRetry s j).Canon := by
  unfold State.railRetry
  repeat' (first
    | with_reducible assumption
    | intro _
    | (extract_lets -merge +onlyGivenNames t_
       first
       | (refine canon_cut (s := t_) ?_ (fun h_ => ?_) <;> [subst t_; clear_value t_])
       | clear_value t_)
    | (simp only [canon_parts]; with_reducible first | exact parts_of (by assumption) | apply parts_of)
    | with_reducible first | apply canon_put | apply canon_withRail | apply canon_addJob | apply canon_popJob | apply canon_railFailed | apply canon_ite
    | split
    | dsimp -zeta only)

theorem canon_jobSent {s : State} (j : Job) (h_s : s.Canon) : (State.jobSent s j).Canon := by
  unfold State.jobSent
  repeat' (first
    | with_reducible assumption
    | intro _
    | (extract_lets -merge +onlyGivenNames t_
       first
       | (refine canon_cut (s := t_) ?_ (fun h_ => ?_) <;> [subst t_; clear_value t_])
       | clear_value t_)
    | (simp only [canon_parts]; with_reducible first | exact parts_of (by assumption) | apply parts_of)
    | with_reducible first | apply canon_put | apply canon_resched | apply canon_withPwr | apply canon_withRail | apply canon_popJob | apply canon_railDown | apply canon_acknowledge | apply canon_railRetry | apply canon_ite
    | split
    | dsimp -zeta only)

theorem canon_pmbDone {s : State} (j : Job) (cmd value : Nat) (h_s : s.Canon) : (State.pmbDone s j cmd value).Canon := by
  unfold State.pmbDone
  repeat' (first
    | with_reducible assumption
    | intro _
    | (extract_lets -merge +onlyGivenNames t_
       first
       | (refine canon_cut (s := t_) ?_ (fun h_ => ?_) <;> [subst t_; clear_value t_])
       | clear_value t_)
    | (simp only [canon_parts]; with_reducible first | exact parts_of (by assumption) | apply parts_of)
    | with_reducible first | apply canon_put | apply canon_recordErr | apply canon_withPwr | apply canon_withRail | apply canon_popJob | apply canon_failAttempt | apply canon_railAcked | apply canon_jobSent | apply canon_ite
    | split
    | dsimp -zeta only)

theorem canon_effPmbusTransaction (rail cmd : Nat) (o : PmbOutcome) {s : State} (h_s : s.Canon) : (effPmbusTransaction rail cmd o s).Canon := by
  unfold effPmbusTransaction
  repeat' (first
    | with_reducible assumption
    | intro _
    | (extract_lets -merge +onlyGivenNames t_
       first
       | (refine canon_cut (s := t_) ?_ (fun h_ => ?_) <;> [subst t_; clear_value t_])
       | clear_value t_)
    | (simp only [canon_parts]; with_reducible first | exact parts_of (by assumption) | apply parts_of)
    | with_reducible first | apply canon_withPwr | apply canon_pmbFail | apply canon_pmbDone | apply canon_ite
    | split
    | dsimp -zeta only)

theorem canon_effPowerGoodLost (r : Nat) {s : State} (h_s : s.Canon) : (effPowerGoodLost r s).Canon := by
  unfold effPowerGoodLost
  repeat' (first
    | with_reducible first | assumption | apply canon_setFault | apply canon_railDown | apply canon_ite
    | split
    | dsimp -zeta only)

theorem canon_effSafeRequestDone {s : State} (h_s : s.Canon) : (effSafeRequestDone s).Canon := by
  unfold effSafeRequestDone
  repeat' (first
    | with_reducible assumption
    | intro _
    | with_reducible first | apply canon_putB | apply canon_ite
    | split
    | dsimp -zeta only)

theorem canon_refSwitch {s : State} (h_s : s.Canon) : (State.refSwitch s).Canon := by
  unfold State.refSwitch
  repeat' (first
    | with_reducible assumption
    | intro _
    | (extract_lets -merge +onlyGivenNames t_
       first
       | (refine canon_cut (s := t_) ?_ (fun h_ => ?_) <;> [subst t_; clear_value t_])
       | clear_value t_)
    | (simp only [canon_parts]; with_reducible first | exact parts_of (by assumption) | apply parts_of)
    | with_reducible first | apply canon_put | apply canon_flag | apply canon_withPwr | apply canon_synStart | apply canon_ite | apply canon_when
    | split
    | dsimp -zeta only)

theorem canon_synStop {s : State} (h_s : s.Canon) : (State.synStop s).Canon := by
  unfold State.synStop
  repeat' (first
    | with_reducible assumption
    | intro _
    | with_reducible first | apply canon_putB | apply canon_unsched | apply canon_ite
    | split
    | dsimp -zeta only)

theorem canon_effReferenceCheckPassed {s : State} (h_s : s.Canon) : (effReferenceCheckPassed s).Canon := by
  unfold effReferenceCheckPassed
  repeat' (first
    | with_reducible assumption
    | intro _
    | (simp only [canon_parts]; with_reducible first | exact parts_of (by assumption) | apply parts_of)
    | with_reducible first | apply canon_unsched | apply canon_withPwr | apply canon_refSwitch
    | dsimp -zeta only)

theorem canon_effSynLock {s : State} (h_s : s.Canon) : (effSynLock s).Canon := by
  unfold effSynLock
  repeat' (first
    | with_reducible assumption
    | intro _
    | (extract_lets -merge +onlyGivenNames t_
       first
       | (refine canon_cut (s := t_) ?_ (fun h_ => ?_) <;> [subst t_; clear_value t_])
       | clear_value t_)
    | (simp only [canon_parts]; with_reducible first | exact parts_of (by assumption) | apply parts_of)
    | with_reducible first | apply canon_putB | apply canon_unsched | apply canon_withPwr | apply canon_wakeChains | apply canon_ite
    | split
    | dsimp -zeta only)

theorem canon_effXtalTimeout {s : State} (h_s : s.Canon) : (effXtalTimeout s).Canon := by
  unfold effXtalTimeout
  repeat' (first
    | with_reducible assumption
    | intro _
    | (extract_lets -merge +onlyGivenNames t_
       first
       | (refine canon_cut (s := t_) ?_ (fun h_ => ?_) <;> [subst t_; clear_value t_])
       | clear_value t_)
    | (simp only [canon_parts]; with_reducible first | exact parts_of (by assumption) | apply parts_of)
    | with_reducible first | apply canon_unsched | apply canon_recordErr | apply canon_flag | apply canon_withPwr | apply canon_wakeChains | apply canon_ite
    | split
    | dsimp -zeta only)

theorem canon_stopStages {s : State} (h_s : s.Canon) : (State.stopStages s).Canon := by
  unfold State.stopStages
  repeat' (first
    | with_reducible assumption
    | intro _
    | (extract_lets -merge +onlyGivenNames t_
       first
       | (refine canon_cut (s := t_) ?_ (fun h_ => ?_) <;> [subst t_; clear_value t_])
       | clear_value t_)
    | with_reducible first | apply canon_putB | apply canon_unsched | apply canon_wingEnd | apply canon_allStop | apply canon_ite | apply canon_forEach
    | split
    | dsimp -zeta only)

theorem canon_refLost {s : State} (h_s : s.Canon) : (State.refLost s).Canon := by
  unfold State.refLost
  repeat' (first
    | with_reducible assumption
    | intro _
    | (extract_lets -merge +onlyGivenNames t_
       first
       | (refine canon_cut (s := t_) ?_ (fun h_ => ?_) <;> [subst t_; clear_value t_])
       | clear_value t_)
    | (simp only [canon_parts]; with_reducible first | exact parts_of (by assumption) | apply parts_of)
    | with_reducible first | apply canon_put | apply canon_inc | apply canon_flag | apply canon_setFault | apply canon_withPwr | apply canon_effChainAngleLost | apply canon_stopStages | apply canon_ite
    | split
    | dsimp -zeta only)

theorem canon_effReferenceLoss {s : State} (h_s : s.Canon) : (effReferenceLoss s).Canon := by
  unfold effReferenceLoss
  repeat' (first
    | with_reducible first | assumption | apply canon_refLost | apply canon_ite
    | split
    | dsimp -zeta only)

theorem canon_effClkRestore {s : State} (h_s : s.Canon) : (effClkRestore s).Canon := by
  unfold effClkRestore
  repeat' (first
    | with_reducible assumption
    | intro _
    | (simp only [canon_parts]; with_reducible first | exact parts_of (by assumption) | apply parts_of)
    | with_reducible first | apply canon_recordErr | apply canon_withPwr | apply canon_refSwitch | apply canon_ite
    | split
    | dsimp -zeta only)

theorem canon_effSynUnlock {s : State} (h_s : s.Canon) : (effSynUnlock s).Canon := by
  unfold effSynUnlock
  repeat' (first
    | with_reducible assumption
    | intro _
    | (simp only [canon_parts]; with_reducible first | exact parts_of (by assumption) | apply parts_of)
    | with_reducible first | apply canon_flag | apply canon_setFault | apply canon_withPwr | apply canon_stopStages | apply canon_ite
    | split
    | dsimp -zeta only)

theorem canon_clkOff {s : State} (h_s : s.Canon) : (State.clkOff s).Canon := by
  unfold State.clkOff
  repeat' (first
    | with_reducible first | assumption | apply canon_putB | apply canon_wakeChains | apply canon_litDown | apply canon_synStop
    | dsimp -zeta only)

theorem canon_effClkDisable {s : State} (h_s : s.Canon) : (effClkDisable s).Canon := by
  unfold effClkDisable
  repeat' (first
    | with_reducible first | assumption | apply canon_clkOff | apply canon_ite
    | split
    | dsimp -zeta only)

theorem canon_resetRelease {s : State} (h_s : s.Canon) : (State.resetRelease s).Canon := by
  unfold State.resetRelease
  repeat' (first
    | with_reducible assumption
    | intro _
    | with_reducible first | apply canon_requestResign | apply canon_when
    | dsimp -zeta only)

theorem wf_canonRegs (l : List (Nat × Word)) : AMap.wf regDefault (State.deviceReset.canonRegs l) = true := by
  have hf : ∀ (l : List (Nat × Word)) (m : List (Nat × Word)), AMap.wf regDefault m = true →
      AMap.wf regDefault (l.foldl (fun m e => AMap.set regDefault m e.1 e.2) m) = true := by
    intro l
    induction l with
    | nil => intro m h; exact h
    | cons a t ih => intro m h; exact ih _ (AMap.wf_set _ h _ _)
  exact hf l [] rfl

theorem canon_deviceReset {s : State} (cause : Nat) (h : s.Canon) : (State.deviceReset s cause).Canon := by
  unfold State.deviceReset
  refine canon_resetRelease (canon_put _ _ _ (canon_put _ _ _ (canon_put _ _ _ ?_)))
  exact (canon_parts ..).2 ⟨wf_canonRegs _, rfl, rfl, rfl, rfl, rfl, rfl, rfl⟩

theorem canon_effPowerOnReset {s : State} (h : s.Canon) : (effPowerOnReset s).Canon := by
  unfold effPowerOnReset
  exact canon_resetRelease ((canon_parts ..).2 (parts_of canon_reset))

theorem canon_effResetN {s : State} (h_s : s.Canon) : (effResetN s).Canon := by
  unfold effResetN
  repeat' (first
    | with_reducible first | assumption | apply wf_canonRegs | apply canon_deviceReset
    | dsimp -zeta only)

theorem canon_effChipReset (v : Nat) {s : State} (h_s : s.Canon) : (effChipReset v s).Canon := by
  unfold effChipReset
  repeat' (first
    | with_reducible first | assumption | apply canon_recordErr | apply wf_canonRegs | apply canon_deviceReset | apply canon_ite
    | split
    | dsimp -zeta only)

theorem canon_effThermalReading (tj : Nat) {s : State} (h_s : s.Canon) : (effThermalReading tj s).Canon := by
  unfold effThermalReading
  repeat' (first
    | with_reducible assumption
    | intro _
    | (extract_lets -merge +onlyGivenNames t_
       first
       | (refine canon_cut (s := t_) ?_ (fun h_ => ?_) <;> [subst t_; clear_value t_])
       | clear_value t_)
    | (simp only [canon_parts]; with_reducible first | exact parts_of (by assumption) | apply parts_of)
    | with_reducible first | apply canon_putB | apply canon_recordErr | apply canon_flag | apply canon_reportFault | apply canon_withPwr | apply canon_allDown | apply canon_calTemp | apply canon_ite | apply canon_when
    | split
    | dsimp -zeta only)

theorem canon_effGpioEdge (n : Nat) (rising : Bool) {s : State} (h_s : s.Canon) : (effGpioEdge n rising s).Canon := by
  unfold effGpioEdge
  repeat' (first
    | with_reducible assumption
    | intro _
    | (extract_lets -merge +onlyGivenNames t_
       first
       | (refine canon_cut (s := t_) ?_ (fun h_ => ?_) <;> [subst t_; clear_value t_])
       | (refine canon_cut (s := t_.2) ?_ (fun h_ => ?_) <;> [subst t_; clear_value t_])
       | clear_value t_)
    | (simp only [canon_parts]; with_reducible first | exact parts_of (by assumption) | apply parts_of)
    | with_reducible first | apply canon_sched | apply canon_unsched | apply canon_ite | apply canon_when
    | split
    | dsimp -zeta only)

theorem canon_giveModeRec {s : State} (h_s : s.Canon) : (State.giveModeRec s).Canon := by
  unfold State.giveModeRec
  repeat' (first
    | with_reducible assumption
    | intro _
    | (simp only [canon_parts]; with_reducible first | exact parts_of (by assumption) | apply parts_of)
    | with_reducible first | apply canon_scoRecord | apply canon_withPwr | apply canon_ite
    | split
    | dsimp -zeta only)

theorem canon_pwrSettle {s : State} (h_s : s.Canon) : (State.pwrSettle s).Canon := by
  unfold State.pwrSettle
  repeat' (first
    | with_reducible first | assumption | apply canon_entrySettle | apply canon_refSwitch | apply canon_synStop | apply canon_giveModeRec | refine canonP_use ?_ (by assumption)
    | dsimp -zeta only)

end Sys2Proof.Machine
end

