-- ==== Sys2Proof/Laws/CanonFault.lean ====
section
/-! SUPPORT. The functions of Machine/Fault.lean keep the canonical form. -/

namespace Sys2Proof.Machine

open Sys2Proof

set_option linter.all false

theorem canon_upset {s : State} (page off mask : Nat) (h_s : s.Canon) : (State.upset s page off mask).Canon := by
  unfold State.upset
  repeat' (first
    | with_reducible assumption
    | intro _
    | (extract_lets -merge +onlyGivenNames t_
       first
       | (refine canon_cut (s := t_) ?_ (fun h_ => ?_) <;> [subst t_; clear_value t_])
       | clear_value t_)
    | (simp only [canon_parts]; with_reducible first | exact parts_of (by assumption) | apply parts_of)
    | with_reducible first | apply canon_setReg | apply canon_ite
    | split
    | dsimp -zeta only)

theorem canon_effConfigWatchVisit (upsetOff upsetMask : Nat) {s : State} (h_s : s.Canon) : (effConfigWatchVisit upsetOff upsetMask s).Canon := by
  unfold effConfigWatchVisit
  repeat' (first
    | with_reducible assumption
    | intro _
    | (extract_lets -merge +onlyGivenNames t_
       first
       | (refine canon_cut (s := t_) ?_ (fun h_ => ?_) <;> [subst t_; clear_value t_])
       | (refine canon_cut (s := t_.2) ?_ (fun h_ => ?_) <;> [subst t_; clear_value t_])
       | clear_value t_)
    | (simp only [canon_parts]; with_reducible first | exact parts_of (by assumption) | apply parts_of)
    | with_reducible first | apply canon_put | apply canon_incMod | apply canon_sched | apply canon_unsched | apply canon_setFault | apply canon_upset | apply canon_ite | apply canon_when
    | split
    | dsimp -zeta only)

theorem canon_aonFault {s : State} (i : FaultInfo) (h_s : s.Canon) : (State.aonFault s i).Canon := by
  unfold State.aonFault
  repeat' (first
    | with_reducible assumption
    | (extract_lets -merge +onlyGivenNames t_
       first
       | (refine canon_cut (s := t_) ?_ (fun h_ => ?_) <;> [subst t_; clear_value t_])
       | clear_value t_)
    | with_reducible first | apply canon_tstDetected | apply canon_reportFault | apply canon_ite
    | split
    | dsimp -zeta only)

theorem canon_effSupplyMonitorFault (u : Nat) {s : State} (h_s : s.Canon) : (effSupplyMonitorFault u s).Canon := by
  unfold effSupplyMonitorFault
  repeat' (first
    | with_reducible first | assumption | apply canon_putBit | apply canon_aonFault | apply canon_ite
    | split
    | dsimp -zeta only)

theorem canon_effCclkStop {s : State} (h_s : s.Canon) : (effCclkStop s).Canon := by
  unfold effCclkStop
  repeat' (first
    | with_reducible assumption
    | (extract_lets -merge +onlyGivenNames t_
       first
       | (refine canon_cut (s := t_) ?_ (fun h_ => ?_) <;> [subst t_; clear_value t_])
       | clear_value t_)
    | (simp only [canon_parts]; with_reducible first | exact parts_of (by assumption) | apply parts_of)
    | with_reducible first | apply canon_putB | apply canon_refLost | apply canon_aonFault | apply canon_ite
    | split
    | dsimp -zeta only)

theorem canon_supplyBack {s : State} (u : Nat) (h_s : s.Canon) : (State.supplyBack s u).Canon := by
  unfold State.supplyBack
  repeat' (first
    | with_reducible first | assumption | apply canon_putBit
    | dsimp -zeta only)

theorem canon_effFaultManagerMismatch {s : State} (h_s : s.Canon) : (effFaultManagerMismatch s).Canon := by
  unfold effFaultManagerMismatch
  repeat' (first
    | with_reducible first | assumption | apply canon_aonFault
    | dsimp -zeta only)

theorem canon_beginResign {s : State} (cause : Nat) (h_s : s.Canon) : (State.beginResign s cause).Canon := by
  unfold State.beginResign
  repeat' (first
    | with_reducible assumption
    | intro _
    | (extract_lets -merge +onlyGivenNames t_
       first
       | (refine canon_cut (s := t_) ?_ (fun h_ => ?_) <;> [subst t_; clear_value t_])
       | clear_value t_)
    | (simp only [canon_parts]; with_reducible first | exact parts_of (by assumption) | apply parts_of)
    | with_reducible first | apply canon_put | apply canon_putB | apply canon_resched | apply canon_flag | apply canon_keepLine | apply canon_withTx | apply canon_endField | apply canon_stopSweep | apply canon_haltCtx | apply canon_ite | apply canon_when | apply canon_forEach
    | split
    | dsimp -zeta only)

theorem canon_takeResign {s : State} (h_s : s.Canon) : (State.takeResign s).Canon := by
  unfold State.takeResign
  repeat' (first
    | with_reducible assumption
    | (extract_lets -merge +onlyGivenNames t_
       first
       | (refine canon_cut (s := t_) ?_ (fun h_ => ?_) <;> [subst t_; clear_value t_])
       | clear_value t_)
    | (simp only [canon_parts]; with_reducible first | exact parts_of (by assumption) | apply parts_of)
    | with_reducible first | apply canon_beginResign | apply canon_ite
    | split
    | dsimp -zeta only)

theorem canon_effResignNLow {s : State} (h_s : s.Canon) : (effResignNLow s).Canon := by
  unfold effResignNLow
  repeat' (first
    | with_reducible assumption
    | intro _
    | (extract_lets -merge +onlyGivenNames t_
       first
       | (refine canon_cut (s := t_) ?_ (fun h_ => ?_) <;> [subst t_; clear_value t_])
       | (refine canon_cut (s := t_.2) ?_ (fun h_ => ?_) <;> [subst t_; clear_value t_])
       | clear_value t_)
    | (simp only [canon_parts]; with_reducible first | exact parts_of (by assumption) | apply parts_of)
    | with_reducible apply canon_requestResign
    | dsimp -zeta only)

theorem canon_effResignRampEnd {s : State} (h_s : s.Canon) : (effResignRampEnd s).Canon := by
  unfold effResignRampEnd
  repeat' (first
    | with_reducible assumption
    | intro _
    | (extract_lets -merge +onlyGivenNames t_
       first
       | (refine canon_cut (s := t_) ?_ (fun h_ => ?_) <;> [subst t_; clear_value t_])
       | clear_value t_)
    | with_reducible first | apply canon_putB | apply canon_sched | apply canon_unsched | apply canon_safeRequest | apply canon_ite
    | split
    | dsimp -zeta only)

theorem canon_effResignRelease (v : Nat) {s : State} (h_s : s.Canon) : (effResignRelease v s).Canon := by
  unfold effResignRelease
  repeat' (first
    | with_reducible assumption
    | intro _
    | (extract_lets -merge +onlyGivenNames t_
       first
       | (refine canon_cut (s := t_) ?_ (fun h_ => ?_) <;> [subst t_; clear_value t_])
       | clear_value t_)
    | with_reducible first | apply canon_putB | apply canon_recordErr | apply canon_railUp | apply canon_ite | apply canon_forEach
    | split
    | dsimp -zeta only)

theorem canon_tstRefuse {s : State} (code : Nat) (h_s : s.Canon) : (State.tstRefuse s code).Canon := by
  unfold State.tstRefuse
  repeat' (first
    | with_reducible first | assumption | apply canon_recordErr | apply canon_flag
    | dsimp -zeta only)

theorem canon_tstDisarm {s : State} (h_s : s.Canon) : (State.tstDisarm s).Canon := by
  unfold State.tstDisarm
  repeat' (first
    | with_reducible first | assumption | apply canon_putB | apply canon_unsched
    | dsimp -zeta only)

theorem canon_effTstArm (key : Nat) {s : State} (h_s : s.Canon) : (effTstArm key s).Canon := by
  unfold effTstArm
  repeat' (first
    | with_reducible assumption
    | (extract_lets -merge +onlyGivenNames t_
       first
       | (refine canon_cut (s := t_) ?_ (fun h_ => ?_) <;> [subst t_; clear_value t_])
       | clear_value t_)
    | with_reducible first | apply canon_putB | apply canon_sched | apply canon_tstRefuse | apply canon_tstDisarm | apply canon_ite
    | split
    | dsimp -zeta only)

theorem canon_effTstArmExpiry {s : State} (h_s : s.Canon) : (effTstArmExpiry s).Canon := by
  unfold effTstArmExpiry
  repeat' (first
    | with_reducible first | assumption | apply canon_tstDisarm | apply canon_ite
    | split
    | dsimp -zeta only)

theorem canon_inject {s : State} (unit inst : Nat) (h_s : s.Canon) : (State.inject s unit inst).Canon := by
  unfold State.inject
  repeat' (first
    | with_reducible assumption
    | intro _
    | (extract_lets -merge +onlyGivenNames t_
       first
       | (refine canon_cut (s := t_) ?_ (fun h_ => ?_) <;> [subst t_; clear_value t_])
       | clear_value t_)
    | (simp only [canon_parts]; with_reducible first | exact parts_of (by assumption) | apply parts_of)
    | with_reducible first | apply canon_sched | apply canon_withTx | apply canon_withRx | apply canon_supplyBack | apply canon_ite
    | split
    | dsimp -zeta only)

theorem canon_effTstInject (unit inst : Nat) {s : State} (h_s : s.Canon) : (effTstInject unit inst s).Canon := by
  unfold effTstInject
  repeat' (first
    | with_reducible assumption
    | (extract_lets -merge +onlyGivenNames t_
       first
       | (refine canon_cut (s := t_) ?_ (fun h_ => ?_) <;> [subst t_; clear_value t_])
       | clear_value t_)
    | (simp only [canon_parts]; with_reducible first | exact parts_of (by assumption) | apply parts_of)
    | with_reducible first | apply canon_put | apply canon_tstRefuse | apply canon_tstDisarm | apply canon_inject | apply canon_ite
    | split
    | dsimp -zeta only)

theorem canon_tstMark {s : State} (unit inst seq : Nat) (h_s : s.Canon) : (State.tstMark s unit inst seq).Canon := by
  unfold State.tstMark
  repeat' (first
    | with_reducible assumption
    | (extract_lets -merge +onlyGivenNames t_
       first
       | (refine canon_cut (s := t_) ?_ (fun h_ => ?_) <;> [subst t_; clear_value t_])
       | clear_value t_)
    | with_reducible first | apply canon_put | apply canon_putB | apply canon_resched
    | dsimp -zeta only)

theorem canon_effInjectionOutcomeTimeout {s : State} (h_s : s.Canon) : (effInjectionOutcomeTimeout s).Canon := by
  unfold effInjectionOutcomeTimeout
  repeat' (first
    | with_reducible assumption
    | (extract_lets -merge +onlyGivenNames t_
       first
       | (refine canon_cut (s := t_) ?_ (fun h_ => ?_) <;> [subst t_; clear_value t_])
       | clear_value t_)
    | with_reducible first | apply canon_put | apply canon_putB | apply canon_inc | apply canon_unsched | apply canon_flag | apply canon_setFault | apply canon_ite
    | split
    | dsimp -zeta only)

theorem canon_xmpInjSettle {s : State} (h_s : s.Canon) : (State.xmpInjSettle s).Canon := by
  unfold State.xmpInjSettle
  repeat' (first
    | with_reducible assumption
    | intro _
    | (simp only [canon_parts]; with_reducible first | exact parts_of (by assumption) | apply parts_of)
    | with_reducible first | apply canon_sched | apply canon_ite
    | split
    | dsimp -zeta only)

theorem canon_effJtagInstruction (code : Nat) {s : State} (h_s : s.Canon) : (effJtagInstruction code s).Canon := by
  unfold effJtagInstruction
  repeat' (first
    | with_reducible assumption
    | (simp only [canon_parts]; with_reducible first | exact parts_of (by assumption) | apply parts_of)
    | dsimp -zeta only)

theorem canon_effTrstN {s : State} (h_s : s.Canon) : (effTrstN s).Canon := by
  unfold effTrstN
  repeat' (first
    | with_reducible assumption
    | (simp only [canon_parts]; with_reducible first | exact parts_of (by assumption) | apply parts_of)
    | dsimp -zeta only)

end Sys2Proof.Machine
end

