-- ==== Sys2Proof/Laws/CanonEnable.lean ====
section
/-! SUPPORT. The functions of Machine/Enable.lean keep the canonical form. -/

namespace Sys2Proof.Machine

open Sys2Proof

set_option linter.all false

theorem canon_dropAlarms {s : State} (h_s : s.Canon) : (State.dropAlarms s).Canon := by
  unfold State.dropAlarms
  repeat' (first
    | with_reducible assumption
    | intro _
    | with_reducible first | apply canon_putB | apply canon_when | apply canon_forEach
    | dsimp -zeta only)

theorem canon_dropSlots {s : State} (h_s : s.Canon) : (State.dropSlots s).Canon := by
  unfold State.dropSlots
  repeat' (first
    | with_reducible assumption
    | intro _
    | with_reducible first | apply canon_inc | apply canon_disarm | apply canon_forEach
    | dsimp -zeta only)

theorem canon_unschedAll {s : State} (l : List Instr) (h_s : s.Canon) : (State.unschedAll s l).Canon := by
  unfold State.unschedAll
  repeat' (first
    | with_reducible first | assumption | apply canon_unsched | apply canon_forEach
    | dsimp -zeta only)

theorem canon_angDisable {s : State} (h_s : s.Canon) : (State.angDisable s).Canon := by
  unfold State.angDisable
  repeat' (first
    | with_reducible assumption
    | intro _
    | (extract_lets -merge +onlyGivenNames t_
       first
       | (refine canon_cut (s := t_) ?_ (fun h_ => ?_) <;> [subst t_; clear_value t_])
       | clear_value t_)
    | (simp only [canon_parts]; with_reducible first | exact parts_of (by assumption) | apply parts_of)
    | with_reducible first | apply canon_putB | apply canon_withAng | apply canon_invStop | apply canon_angStopMoves | apply canon_dropChainDeliveries | apply canon_dropAlarms | apply canon_dropSlots | apply canon_unschedAll | apply canon_ite | apply canon_when
    | split
    | dsimp -zeta only)

theorem canon_dropWaiting {s : State} (h_s : s.Canon) : (State.dropWaiting s).Canon := by
  unfold State.dropWaiting
  repeat' (first
    | with_reducible assumption
    | intro _
    | (extract_lets -merge +onlyGivenNames t_
       first
       | (refine canon_cut (s := t_) ?_ (fun h_ => ?_) <;> [subst t_; clear_value t_])
       | clear_value t_)
    | (simp only [canon_parts]; with_reducible first | exact parts_of (by assumption) | apply parts_of)
    | with_reducible first | apply canon_endMove | apply canon_clearWaits | apply canon_ite | apply canon_forEach
    | split
    | dsimp -zeta only)

theorem canon_stopProgs {s : State} (p : Prog → Bool) (h_s : s.Canon) : (State.stopProgs s p).Canon := by
  unfold State.stopProgs
  repeat' (first
    | with_reducible assumption
    | intro _
    | with_reducible first | apply canon_stopWing | apply canon_ite | apply canon_forEach
    | split
    | dsimp -zeta only)

theorem canon_enablePage {s : State} (page : Nat) (k : PageKind) (h_s : s.Canon) : (State.enablePage s page k).Canon := by
  unfold State.enablePage
  repeat' (first
    | with_reducible assumption
    | intro _
    | (extract_lets -merge +onlyGivenNames t_
       first
       | (refine canon_cut (s := t_) ?_ (fun h_ => ?_) <;> [subst t_; clear_value t_])
       | clear_value t_)
    | (simp only [canon_parts]; with_reducible first | exact parts_of (by assumption) | apply parts_of)
    | with_reducible first | apply canon_putB | apply canon_sched | apply canon_resched | apply canon_withTx | apply canon_retapAll | apply canon_effAngEnable | apply canon_discover | apply canon_rxEnable | apply canon_effXmpDiscovery | apply canon_calEnable | apply canon_scoEnable | apply canon_synStart | apply canon_when
    | split
    | dsimp -zeta only)

theorem canon_disablePage {s : State} (page : Nat) (k : PageKind) (h_s : s.Canon) : (State.disablePage s page k).Canon := by
  unfold State.disablePage
  repeat' (first
    | with_reducible assumption
    | intro _
    | (extract_lets -merge +onlyGivenNames t_
       first
       | (refine canon_cut (s := t_) ?_ (fun h_ => ?_) <;> [subst t_; clear_value t_])
       | clear_value t_)
    | (simp only [canon_parts]; with_reducible first | exact parts_of (by assumption) | apply parts_of)
    | with_reducible first | apply canon_putB | apply canon_unsched | apply canon_withMch | apply canon_disableChain | apply canon_disableFile | apply canon_disableRx | apply canon_disableXmp | apply canon_invAbandon | apply canon_endSweep | apply canon_disableCnd | apply canon_stopPage | apply canon_stopFabric | apply canon_calDisable | apply canon_scoDisable | apply canon_clkOff | apply canon_tstDisarm | apply canon_angDisable | apply canon_dropWaiting | apply canon_stopProgs
    | split
    | dsimp -zeta only)

theorem canon_setEnable {s : State} (page : Nat) (on : Bool) (h_s : s.Canon) : (State.setEnable s page on).Canon := by
  unfold State.setEnable
  repeat' (first
    | with_reducible assumption
    | (extract_lets -merge +onlyGivenNames t_
       first
       | (refine canon_cut (s := t_) ?_ (fun h_ => ?_) <;> [subst t_; clear_value t_])
       | clear_value t_)
    | (simp only [canon_parts]; with_reducible first | exact parts_of (by assumption) | apply parts_of)
    | with_reducible first | apply canon_noteOld | apply canon_enablePage | apply canon_disablePage | apply canon_ite
    | split
    | dsimp -zeta only)

theorem canon_setLock {s : State} (page : Nat) (h_s : s.Canon) : (State.setLock s page).Canon := by
  unfold State.setLock
  repeat' (first
    | with_reducible assumption
    | (extract_lets -merge +onlyGivenNames t_
       first
       | (refine canon_cut (s := t_) ?_ (fun h_ => ?_) <;> [subst t_; clear_value t_])
       | clear_value t_)
    | (simp only [canon_parts]; with_reducible first | exact parts_of (by assumption) | apply parts_of)
    | with_reducible first | apply canon_putB | apply canon_ite
    | split
    | dsimp -zeta only)

theorem canon_softReg {s : State} (page : Nat) (k : PageKind) (off : Nat) (old : Word) (h_s : s.Canon) : (State.softReg s page k off old).Canon := by
  unfold State.softReg
  repeat' (first
    | with_reducible assumption
    | (extract_lets -merge +onlyGivenNames t_
       first
       | (refine canon_cut (s := t_) ?_ (fun h_ => ?_) <;> [subst t_; clear_value t_])
       | clear_value t_)
    | (simp only [canon_parts]; with_reducible first | exact parts_of (by assumption) | apply parts_of)
    | with_reducible first | apply canon_setReg | apply canon_ite
    | split
    | dsimp -zeta only)

theorem canon_softRegs {s : State} (page : Nat) (k : PageKind) (h_s : s.Canon) : (State.softRegs s page k).Canon := by
  unfold State.softRegs
  repeat' (first
    | with_reducible assumption
    | intro _
    | (extract_lets -merge +onlyGivenNames t_
       first
       | (refine canon_cut (s := t_) ?_ (fun h_ => ?_) <;> [subst t_; clear_value t_])
       | (refine canon_cut (s := t_.2) ?_ (fun h_ => ?_) <;> [subst t_; clear_value t_])
       | clear_value t_)
    | (simp only [canon_parts]; with_reducible first | exact parts_of (by assumption) | apply parts_of)
    | with_reducible first | apply canon_softReg | apply canon_forEach
    | dsimp -zeta only)

theorem canon_forceStop {s : State} (c : Nat) (h_s : s.Canon) : (State.forceStop s c).Canon := by
  unfold State.forceStop
  repeat' (first
    | with_reducible assumption
    | intro _
    | (extract_lets -merge +onlyGivenNames t_
       first
       | (refine canon_cut (s := t_) ?_ (fun h_ => ?_) <;> [subst t_; clear_value t_])
       | clear_value t_)
    | with_reducible first | apply canon_withCtx | apply canon_stopCtx | apply canon_ite
    | split
    | dsimp -zeta only)

theorem canon_softDrop {s : State} (page : Nat) (k : PageKind) (h_s : s.Canon) : (State.softDrop s page k).Canon := by
  unfold State.softDrop
  repeat' (first
    | with_reducible assumption
    | intro _
    | (extract_lets -merge +onlyGivenNames t_
       first
       | (refine canon_cut (s := t_) ?_ (fun h_ => ?_) <;> [subst t_; clear_value t_])
       | (refine canon_cut (s := t_.2) ?_ (fun h_ => ?_) <;> [subst t_; clear_value t_])
       | clear_value t_)
    | (simp only [canon_parts]; with_reducible first | exact parts_of (by assumption) | apply parts_of)
    | with_reducible first | apply canon_unsched | apply canon_calOver | apply canon_tstMark | apply canon_dropSlots | apply canon_unschedAll | apply canon_disablePage | apply canon_forceStop | apply canon_ite | apply canon_forEach
    | split
    | dsimp -zeta only)

theorem canon_dropTrim {s : State} (page : Nat) (h_s : s.Canon) : (State.dropTrim s page).Canon := by
  unfold State.dropTrim
  repeat' (first
    | with_reducible assumption
    | intro _
    | (simp only [canon_parts]; with_reducible first | exact parts_of (by assumption) | apply parts_of)
    | with_reducible first | apply canon_showPend | apply canon_withCal
    | dsimp -zeta only)

theorem canon_softState {s : State} (page : Nat) (k : PageKind) (h_s : s.Canon) : (State.softState s page k).Canon := by
  unfold State.softState
  repeat' (first
    | with_reducible assumption
    | rfl
    | with_reducible exact List.length_set ..
    | intro _
    | (extract_lets -merge +onlyGivenNames t_
       first
       | (refine canon_cut (s := t_) ?_ (fun h_ => ?_) <;> [subst t_; clear_value t_])
       | clear_value t_)
    | (simp only [canon_parts]; with_reducible first | exact parts_of (by assumption) | apply parts_of)
    | with_reducible first | apply canon_put | apply canon_putB | apply canon_showPend | apply canon_scbStart | apply canon_setCkuCfg | apply canon_setCkuLast | apply canon_withMch | apply canon_effTxc8Release | apply canon_withEng | apply canon_takeNumber | apply canon_effRxc16Release | apply canon_xmpShow | apply canon_withInv | apply canon_withKbz | apply canon_withCal | apply canon_calShow | apply canon_scoShow | apply canon_withHpt | apply canon_synStart | apply canon_dropTrim | apply canon_ite | apply canon_forEach
    | split
    | dsimp -zeta only)

theorem canon_softReset {s : State} (page : Nat) (h_s : s.Canon) : (State.softReset s page).Canon := by
  unfold State.softReset
  repeat' (first
    | with_reducible assumption
    | intro _
    | (extract_lets -merge +onlyGivenNames t_
       first
       | (refine canon_cut (s := t_) ?_ (fun h_ => ?_) <;> [subst t_; clear_value t_])
       | (refine canon_cut (s := t_.2) ?_ (fun h_ => ?_) <;> [subst t_; clear_value t_])
       | clear_value t_)
    | (simp only [canon_parts]; with_reducible first | exact parts_of (by assumption) | apply parts_of)
    | with_reducible first | apply canon_setReg | apply canon_nextFree | apply canon_softRegs | apply canon_softDrop | apply canon_softState | apply canon_ite
    | split
    | dsimp -zeta only)

theorem canon_softDone {s : State} (page : Nat) (h_s : s.Canon) : (State.softDone s page).Canon := by
  unfold State.softDone
  repeat' (first
    | with_reducible assumption
    | intro _
    | (simp only [canon_parts]; with_reducible first | exact parts_of (by assumption) | apply parts_of)
    | dsimp -zeta only)

theorem canon_ctrlWrite {s : State} (page v : Nat) (h_s : s.Canon) : (State.ctrlWrite s page v).Canon := by
  unfold State.ctrlWrite
  repeat' (first
    | with_reducible assumption
    | (extract_lets -merge +onlyGivenNames t_
       first
       | (refine canon_cut (s := t_) ?_ (fun h_ => ?_) <;> [subst t_; clear_value t_])
       | clear_value t_)
    | with_reducible first | apply canon_setEnable | apply canon_setLock | apply canon_softReset | apply canon_ite
    | split
    | dsimp -zeta only)

theorem canon_effSoftReset (page : Nat) {s : State} (h_s : s.Canon) : (effSoftReset page s).Canon := by
  unfold effSoftReset
  repeat' (first
    | with_reducible first | assumption | apply canon_softReset | apply canon_ite
    | split
    | dsimp -zeta only)

theorem canon_effCtrlEnableWrite (page : Nat) (on : Bool) {s : State} (h_s : s.Canon) : (effCtrlEnableWrite page on s).Canon := by
  unfold effCtrlEnableWrite
  repeat' (first
    | with_reducible first | assumption | apply canon_setEnable | apply canon_ite
    | split
    | dsimp -zeta only)

theorem canon_effLockWrite (page : Nat) {s : State} (h_s : s.Canon) : (effLockWrite page s).Canon := by
  unfold effLockWrite
  repeat' (first
    | with_reducible first | assumption | apply canon_setLock | apply canon_ite
    | split
    | dsimp -zeta only)

theorem canon_effAngDisable {s : State} (h_s : s.Canon) : (effAngDisable s).Canon := by
  unfold effAngDisable
  repeat' (first
    | with_reducible first | assumption | apply canon_setEnable | apply canon_ite
    | split
    | dsimp -zeta only)

end Sys2Proof.Machine
end

