-- ==== Sys2Proof/Laws/CanonWrite.lean ====
section
/-! SUPPORT. The functions of Machine/Write.lean keep the canonical form. -/

namespace Sys2Proof.Machine

open Sys2Proof

set_option linter.all false

theorem canon_clearFault {s : State} (page v : Nat) (h_s : s.Canon) : (State.clearFault s page v).Canon := by
  unfold State.clearFault
  repeat' (first
    | with_reducible assumption
    | (extract_lets -merge +onlyGivenNames t_
       first
       | (refine canon_cut (s := t_) ?_ (fun h_ => ?_) <;> [subst t_; clear_value t_])
       | clear_value t_)
    | with_reducible apply canon_writeFields
    | dsimp -zeta only)

theorem canon_trimWrite {s : State} (page off v : Nat) (h_s : s.Canon) : (State.trimWrite s page off v).Canon := by
  unfold State.trimWrite
  repeat' (first
    | with_reducible assumption
    | intro _
    | (extract_lets -merge +onlyGivenNames t_
       first
       | (refine canon_cut (s := t_) ?_ (fun h_ => ?_) <;> [subst t_; clear_value t_])
       | clear_value t_)
    | (simp only [canon_parts]; with_reducible first | exact parts_of (by assumption) | apply parts_of)
    | with_reducible apply canon_pendCorr
    | split
    | dsimp -zeta only)

theorem canon_pwrWritten {s : State} (off : Nat) (h_s : s.Canon) : (State.pwrWritten s off).Canon := by
  unfold State.pwrWritten
  repeat' (first
    | with_reducible assumption
    | intro _
    | with_reducible first | apply canon_sched | apply canon_railChange | apply canon_followRails | apply canon_ite | apply canon_forEach
    | split
    | dsimp -zeta only)

theorem canon_mchCmd {s : State} (v : Nat) (h_s : s.Canon) : (State.mchCmd s v).Canon := by
  unfold State.mchCmd
  repeat' (first
    | with_reducible assumption
    | (extract_lets -merge +onlyGivenNames t_
       first
       | (refine canon_cut (s := t_) ?_ (fun h_ => ?_) <;> [subst t_; clear_value t_])
       | clear_value t_)
    | with_reducible first | apply canon_effDiscover | apply canon_effRange | apply canon_ite
    | split
    | dsimp -zeta only)

theorem canon_ckuCmd {s : State} (n v : Nat) (h_s : s.Canon) : (State.ckuCmd s n v).Canon := by
  unfold State.ckuCmd
  repeat' (first
    | with_reducible assumption
    | (extract_lets -merge +onlyGivenNames t_
       first
       | (refine canon_cut (s := t_) ?_ (fun h_ => ?_) <;> [subst t_; clear_value t_])
       | clear_value t_)
    | with_reducible first | apply canon_effCkuStart | apply canon_effCkuEnd | apply canon_ite
    | split
    | dsimp -zeta only)

theorem canon_scoCmd {s : State} (v : Nat) (h_s : s.Canon) : (State.scoCmd s v).Canon := by
  unfold State.scoCmd
  repeat' (first
    | with_reducible assumption
    | intro _
    | (extract_lets -merge +onlyGivenNames t_
       first
       | (refine canon_cut (s := t_) ?_ (fun h_ => ?_) <;> [subst t_; clear_value t_])
       | (refine canon_cutF (f := t_) ?_ (fun h_ => ?_) <;> [subst t_; clear_value t_])
       | (refine canon_cutG (f := t_) ?_ (fun h_ => ?_) <;> [subst t_; clear_value t_])
       | clear_value t_)
    | with_reducible first | refine canonF_use (by assumption) ?_ | refine canonG_use (by assumption) ?_ | apply canon_putB | apply canon_nextFree | apply canon_effFormat | apply canon_effTelNow | apply canon_ite
    | split
    | dsimp -zeta only)

theorem canon_invCmd {s : State} (v : Nat) (h_s : s.Canon) : (State.invCmd s v).Canon := by
  unfold State.invCmd
  repeat' (first
    | with_reducible assumption
    | (extract_lets -merge +onlyGivenNames t_
       first
       | (refine canon_cut (s := t_) ?_ (fun h_ => ?_) <;> [subst t_; clear_value t_])
       | clear_value t_)
    | with_reducible first | apply canon_effInvStart | apply canon_effInvDiscover | apply canon_effInvStop | apply canon_ite
    | split
    | dsimp -zeta only)

theorem canon_ctxCmd {s : State} (src : Src) (c v : Nat) (h_s : s.Canon) : (State.ctxCmd s src c v).Canon := by
  unfold State.ctxCmd
  repeat' (first
    | with_reducible assumption
    | (extract_lets -merge +onlyGivenNames t_
       first
       | (refine canon_cut (s := t_) ?_ (fun h_ => ?_) <;> [subst t_; clear_value t_])
       | clear_value t_)
    | with_reducible first | apply canon_refuseStart | apply canon_effContextStart | apply canon_effContextAbort | apply canon_effContextHalt | apply canon_ite
    | split
    | dsimp -zeta only)

theorem canon_txcWritten {s : State} (n off v : Nat) (h_s : s.Canon) : (State.txcWritten s n off v).Canon := by
  unfold State.txcWritten
  repeat' (first
    | with_reducible assumption
    | (extract_lets -merge +onlyGivenNames t_
       first
       | (refine canon_cut (s := t_) ?_ (fun h_ => ?_) <;> [subst t_; clear_value t_])
       | clear_value t_)
    | with_reducible first | apply canon_effAtuneStart | apply canon_effTxc8Assign | apply canon_effTxc8Release | apply canon_powerWritten | apply canon_ite
    | split
    | dsimp -zeta only)

theorem canon_rxcWritten {s : State} (n off v : Nat) (h_s : s.Canon) : (State.rxcWritten s n off v).Canon := by
  unfold State.rxcWritten
  repeat' (first
    | with_reducible assumption
    | (extract_lets -merge +onlyGivenNames t_
       first
       | (refine canon_cut (s := t_) ?_ (fun h_ => ?_) <;> [subst t_; clear_value t_])
       | clear_value t_)
    | with_reducible first | apply canon_retap | apply canon_effCaptureStart | apply canon_effCaptureStop | apply canon_effRxc16Assign | apply canon_effRxc16Release | apply canon_ite
    | split
    | dsimp -zeta only)

theorem canon_cndWrite {s : State} (src : Src) (page off v : Nat) (h_s : s.Canon) : (State.cndWrite s src page off v).Canon := by
  unfold State.cndWrite
  repeat' (first
    | with_reducible assumption
    | (extract_lets -merge +onlyGivenNames t_
       first
       | (refine canon_cut (s := t_) ?_ (fun h_ => ?_) <;> [subst t_; clear_value t_])
       | clear_value t_)
    | with_reducible first | apply canon_writeFields | apply canon_ctxCmd | apply canon_ite
    | split
    | dsimp -zeta only)

theorem canon_kbzWritten {s : State} (off : Nat) (h_s : s.Canon) : (State.kbzWritten s off).Canon := by
  unfold State.kbzWritten
  repeat' (first
    | with_reducible assumption
    | intro _
    | (extract_lets -merge +onlyGivenNames t_
       first
       | (refine canon_cut (s := t_) ?_ (fun h_ => ?_) <;> [subst t_; clear_value t_])
       | clear_value t_)
    | (simp only [canon_parts]; with_reducible first | exact parts_of (by assumption) | apply parts_of)
    | with_reducible first | apply canon_withKbz | apply canon_ite
    | split
    | dsimp -zeta only)

theorem canon_filWrite {s : State} (page off v : Nat) (h_s : s.Canon) : (State.filWrite s page off v).Canon := by
  unfold State.filWrite
  repeat' (first
    | with_reducible assumption
    | intro _
    | (extract_lets -merge +onlyGivenNames t_
       first
       | (refine canon_cut (s := t_) ?_ (fun h_ => ?_) <;> [subst t_; clear_value t_])
       | clear_value t_)
    | with_reducible first | apply canon_writeFields | apply canon_kbzLearn | apply canon_retapAll | apply canon_tuneOverride | apply canon_dropPorts | apply canon_ite
    | split
    | dsimp -zeta only)

theorem canon_angWrite {s : State} (off v : Nat) (h_s : s.Canon) : (State.angWrite s off v).Canon := by
  unfold State.angWrite
  repeat' (first
    | with_reducible assumption
    | (extract_lets -merge +onlyGivenNames t_
       first
       | (refine canon_cut (s := t_) ?_ (fun h_ => ?_) <;> [subst t_; clear_value t_])
       | clear_value t_)
    | with_reducible first | apply canon_writeFields | apply canon_alarmConfig | apply canon_syncOutConfig | apply canon_effVperiodWrite | apply canon_ite
    | split
    | dsimp -zeta only)

theorem canon_memWrite1 {s : State} (off v : Nat) (psn : Bool) (h_s : s.Canon) : (State.memWrite1 s off v psn).Canon := by
  unfold State.memWrite1
  repeat' (first
    | with_reducible assumption
    | (extract_lets -merge +onlyGivenNames t_
       first
       | (refine canon_cut (s := t_) ?_ (fun h_ => ?_) <;> [subst t_; clear_value t_])
       | clear_value t_)
    | with_reducible first | apply canon_writeFields | apply canon_effBistGo | apply canon_effInjGo | apply canon_effInjRaw | apply canon_winWrite | apply canon_ite
    | split
    | dsimp -zeta only)

theorem canon_chWritten {s : State} (page off : Nat) (h_s : s.Canon) : (State.chWritten s page off).Canon := by
  unfold State.chWritten
  repeat' (first
    | with_reducible assumption
    | intro _
    | (extract_lets -merge +onlyGivenNames t_
       first
       | (refine canon_cut (s := t_) ?_ (fun h_ => ?_) <;> [subst t_; clear_value t_])
       | clear_value t_)
    | with_reducible first | apply canon_stopChannel | apply canon_forEach
    | dsimp -zeta only)

theorem canon_blockWrite1 {s : State} (src : Src) (page : Nat) (k : PageKind) (off v : Nat) (psn : Bool) (h_s : s.Canon) : (State.blockWrite1 s src page k off v psn).Canon := by
  unfold State.blockWrite1
  repeat' (first
    | with_reducible assumption
    | (extract_lets -merge +onlyGivenNames t_
       first
       | (refine canon_cut (s := t_) ?_ (fun h_ => ?_) <;> [subst t_; clear_value t_])
       | clear_value t_)
    | (simp only [canon_parts]; with_reducible first | exact parts_of (by assumption) | apply parts_of)
    | with_reducible first | apply canon_writeFields | apply canon_effScbPeriodWrite | apply canon_effCkuData | apply canon_applyConfig | apply canon_takeNumber | apply canon_effPostToken | apply canon_slotDrop | apply canon_tokenIdle | apply canon_reportEnabled | apply canon_effXmpErase | apply canon_xmpWinWrite | apply canon_effHostFire | apply canon_calCfg | apply canon_effXbArm | apply canon_effXbPeer | apply canon_effRptPush | apply canon_takeMode | apply canon_effModeReq | apply canon_effClkRestore | apply canon_effChipReset | apply canon_effResignRelease | apply canon_effTstArm | apply canon_effTstInject | apply canon_trimWrite | apply canon_pwrWritten | apply canon_mchCmd | apply canon_ckuCmd | apply canon_scoCmd | apply canon_invCmd | apply canon_txcWritten | apply canon_rxcWritten | apply canon_cndWrite | apply canon_kbzWritten | apply canon_filWrite | apply canon_angWrite | apply canon_memWrite1 | apply canon_chWritten | apply canon_ite
    | split
    | dsimp -zeta only)

theorem canon_poisonReg {s : State} (page off : Nat) (h_s : s.Canon) : (State.poisonReg s page off).Canon := by
  unfold State.poisonReg
  repeat' (first
    | with_reducible assumption
    | intro _
    | (extract_lets -merge +onlyGivenNames t_
       first
       | (refine canon_cut (s := t_) ?_ (fun h_ => ?_) <;> [subst t_; clear_value t_])
       | clear_value t_)
    | (simp only [canon_parts]; with_reducible first | exact parts_of (by assumption) | apply parts_of)
    | with_reducible apply canon_setFault
    | dsimp -zeta only)

theorem canon_applyWrite {s : State} (src : Src) (page off v : Nat) (psn : Bool) (h_s : s.Canon) : (State.applyWrite s src page off v psn).Canon := by
  unfold State.applyWrite
  repeat' (first
    | with_reducible assumption
    | (extract_lets -merge +onlyGivenNames t_
       first
       | (refine canon_cut (s := t_) ?_ (fun h_ => ?_) <;> [subst t_; clear_value t_])
       | clear_value t_)
    | (simp only [canon_parts]; with_reducible first | exact parts_of (by assumption) | apply parts_of)
    | with_reducible first | apply canon_noteWrite | apply canon_writeFields | apply canon_number | apply canon_ctrlWrite | apply canon_clearFault | apply canon_blockWrite1 | apply canon_poisonReg | apply canon_ite
    | split
    | dsimp -zeta only)

theorem canon_effRegisterWrite (src : Src) (page off value : Nat) (poison : Bool) {s : State} (h_s : s.Canon) : (effRegisterWrite src page off value poison s).Canon := by
  unfold effRegisterWrite
  repeat' (first
    | with_reducible first | assumption | apply canon_applyWrite
    | dsimp -zeta only)

theorem canon_effTuneWrite (src : Src) (port value : Nat) {s : State} (h_s : s.Canon) : (effTuneWrite src port value s).Canon := by
  unfold effTuneWrite
  repeat' (first
    | with_reducible first | assumption | apply canon_applyWrite | apply canon_ite
    | split
    | dsimp -zeta only)

theorem canon_afterRead {s : State} (page off : Nat) (h_s : s.Canon) : (State.afterRead s page off).Canon := by
  unfold State.afterRead
  repeat' (first
    | with_reducible first | assumption | apply canon_nextFree | apply canon_ite
    | split
    | dsimp -zeta only)

theorem canon_readReg {s : State} (page off : Nat) (sel : Bool) (h_s : s.Canon) : CanonS (State.readReg s page off sel) := by
  unfold State.readReg
  repeat' (first
    | with_reducible first | assumption | exact canonS_inl _ | apply canonS_inr | apply canonS_ite
    | (simp only [canon_parts]; with_reducible first | exact parts_of (by assumption) | apply parts_of)
    | with_reducible first | apply canon_putBit | apply canon_winRead | apply canon_winWord | apply canon_popWord | apply canon_afterRead | apply canon_ite | refine canonP_use ?_ (by assumption) | refine canonS_use' ?_ (by assumption)
    | split
    | intro _
    | dsimp -zeta only)

end Sys2Proof.Machine
end

