-- ==== Sys2Proof/Laws/CanonFrames.lean ====
section
/-! SUPPORT. The functions of Machine/Frames.lean keep the canonical form. -/

namespace Sys2Proof.Machine

open Sys2Proof

set_option linter.all false

theorem canon_Frame_violate {f : Frame} (c off bytes : Nat) (h : f.s.Canon) : (Frame.violate f c off bytes).s.Canon := by
  unfold Frame.violate
  split
  · exact h
  · exact canon_violate _ _ _ _ _ _ h

theorem canon_Frame_past {f : Frame} (h : f.s.Canon) : (Frame.past f).s.Canon := canon_flag _ _ _ h

theorem canon_Frame_retry {f : Frame} (i : Nat) (h : f.s.Canon) : (Frame.retry f i).s.Canon := canon_flag _ _ _ h

theorem canon_Frame_readOne {f : Frame} (late : Bool) (i : Nat) (h : f.s.Canon) : (Frame.readOne f late i).s.Canon := by
  unfold Frame.readOne
  extract_lets -merge +onlyGivenNames o
  split
  · exact canon_Frame_violate _ _ _ h
  · split
    · exact h
    · split
      · exact canon_Frame_past h
      · have hr := canon_readReg f.page o true h
        split
        · exact canon_Frame_retry _ (canon_xmpWant _ _ h)
        · rename_i he
          have ht := canonS_use' hr he
          split
          · exact canon_Frame_retry _ ht
          · exact ht

theorem canon_effHostRead (board page off count : Nat) (late : List Nat) (enumi : Bool) {s : State} (h : s.Canon) : (effHostRead board page off count late enumi s).Canon := by
  unfold effHostRead
  refine canon_frame _ _ _ h ?_
  intro t ht
  extract_lets -merge +onlyGivenNames f
  have hf : f.s.Canon := ht
  clear_value f
  split
  · exact canon_frameRecord _ _ _ _ _ _ _ (canon_withHpt _ (canon_Frame_violate _ _ _ hf))
  · extract_lets -merge +onlyGivenNames sb g pre u
    have hg : g.s.Canon := by
      subst g
      generalize List.range count = l
      clear u pre
      induction l generalizing f with
      | nil => exact hf
      | cons a l ih => exact ih _ (canon_Frame_readOne _ _ hf)
    exact canon_frameRecord _ _ _ _ _ _ _ (canon_withHpt _ hg)

theorem canon_Frame_writeOne {f : Frame} (i v bytes : Nat) (h : f.s.Canon) : (Frame.writeOne f i v bytes).s.Canon := by
  unfold Frame.writeOne
  extract_lets -merge +onlyGivenNames o
  split
  · exact h
  · split
    · exact canon_Frame_violate _ _ _ h
    · split
      · exact h
      · split
        · exact canon_Frame_past h
        · split
          · split
            · exact canon_Frame_violate _ _ _ h
            · exact h
          · split
            · exact h
            · split
              · exact canon_Frame_violate _ _ _ h
              · extract_lets -merge +onlyGivenNames locked g
                have hg : g.s.Canon := canon_applyWrite _ _ _ _ _ h
                split
                · exact canon_Frame_violate _ _ _ hg
                · exact hg

theorem canon_Frame_nextEdge {f : Frame} (h : f.s.Canon) : (Frame.nextEdge f).s.Canon := (canon_parts ..).2 (parts_of h)

theorem canon_Frame_writeTail {f : Frame} (w : WriteFrame) (ddr : Bool) (h : f.s.Canon) : (Frame.writeTail f w ddr).s.Canon := by
  unfold Frame.writeTail
  extract_lets -merge +onlyGivenNames n bytes
  split
  · exact h
  · split
    · exact canon_Frame_violate _ _ _ h
    · split
      · extract_lets -merge +onlyGivenNames g
        have hg : g.s.Canon := canon_Frame_violate _ _ _ (f := { f with s := f.s.flag pHPT HPT.FLAG_PARTIAL }) (canon_flag _ _ _ h)
        refine canon_Frame_writeOne _ _ _ ?_
        split
        · exact hg
        · exact canon_Frame_nextEdge hg
      · exact h

theorem canon_Frame_writeEnd {f : Frame} (h : f.s.Canon) : (Frame.writeEnd f).Canon := by
  unfold Frame.writeEnd
  split
  · exact h
  · extract_lets -merge +onlyGivenNames s
    have hs : s.Canon := by
      subst s
      split
      · exact canon_takeNumber _ h
      · exact h
    clear_value s
    split
    · exact canon_applyWrite _ _ _ _ _ hs
    · exact hs

theorem canon_effHostWrite (w : WriteFrame) {s : State} (h : s.Canon) : (effHostWrite w s).Canon := by
  unfold effHostWrite
  refine canon_frame _ _ _ h ?_
  intro t ht
  extract_lets -merge +onlyGivenNames ddr u f g
  have hu : u.Canon := canon_ite (canon_withHpt _ ht) (canon_answer _ _ ht)
  have hf : f.s.Canon := hu
  clear_value f
  have hg : g.s.Canon := by
    refine canon_Frame_writeTail _ _ ?_
    generalize (frameWords w).zipIdx = l
    induction l generalizing f with
    | nil => exact hf
    | cons a l ih =>
      refine ih _ (canon_Frame_writeOne _ _ _ ?_)
      split
      · exact hf
      · exact canon_Frame_nextEdge hf
  exact canon_frameRecord _ _ _ _ _ _ _ (canon_takeMode (canon_Frame_writeEnd hg))

theorem canon_effBoardNum (value : Nat) (broadcast enumi : Bool) {s : State} (h_s : s.Canon) : (effBoardNum value broadcast enumi s).Canon := by
  unfold effBoardNum
  repeat' (first
    | with_reducible first | assumption | apply canon_effHostWrite | apply canon_ite
    | split
    | dsimp -zeta only)

end Sys2Proof.Machine
end

