-- ==== Sys2Proof/Laws/CanonCtlMoves.lean ====
section
/-! SUPPORT. The functions of Machine/CtlMoves.lean keep the canonical form. -/

namespace Sys2Proof.Machine

open Sys2Proof

set_option linter.all false

theorem canon_ctlRead {s : State} (a : Nat) {o : List Nat ⊕ (Nat × Bool × State)} (h : s.Canon) (e : State.ctlRead s a = some o) : CanonS o := by
  unfold State.ctlRead at e
  split at e
  · cases e; exact canonS_inr (canon_memRead _ h)
  · split at e
    · cases e; exact canon_winWord _ h
    · split at e
      · cases e; exact canon_readReg _ _ _ h
      · cases e

theorem canon_ctlRead' {s t : State} {a v : Nat} {p : Bool} (h : s.Canon) (e : State.ctlRead s a = some (.inr (v, p, t))) : t.Canon :=
  canonS_use' (canon_ctlRead a h e) rfl

theorem canon_ctlWrite {s : State} (a v : Nat) (psn : Bool) (h_s : s.Canon) : CanonO ((State.ctlWrite s a v psn)) := by
  unfold State.ctlWrite
  repeat' (first
    | with_reducible first | assumption | exact canonO_none | apply canonO_some | apply canonO_ite
    | (simp only [canon_parts]; with_reducible first | exact parts_of (by assumption) | apply parts_of)
    | with_reducible first | apply canon_memWrite | apply canon_applyWrite | apply canon_ite
    | split
    | intro _
    | dsimp -zeta only)

theorem canon_ctlStore {s : State} (c addr : Nat) (ws : List (Nat × Bool)) (h_s : s.Canon) : (State.ctlStore s c addr ws).Canon := by
  unfold State.ctlStore
  repeat' (first
    | with_reducible assumption
    | intro _
    | (simp only [canon_parts]; with_reducible first | exact parts_of (by assumption) | apply parts_of)
    | with_reducible first | apply canon_withCtx | apply canon_xmpStore | apply canon_xmpOwnerDone
    | dsimp -zeta only)

theorem canon_effLoad (c : Nat) (imm : Bool) (reg value : Nat) {s : State} (h_s : s.Canon) : (effLoad c imm reg value s).Canon := by
  unfold effLoad
  repeat' (first
    | with_reducible assumption
    | intro _
    | (extract_lets -merge +onlyGivenNames t_
       first
       | (refine canon_cut (s := t_) ?_ (fun h_ => ?_) <;> [subst t_; clear_value t_])
       | clear_value t_)
    | (simp only [canon_parts]; with_reducible first | exact parts_of (by assumption) | apply parts_of)
    | with_reducible first | apply canon_endMove | apply canon_xmpWait | apply canon_setA | apply canon_issue | apply canon_ctlRead | apply canon_ctlRead | apply canon_ite | refine canon_ctlRead' ?_ (by assumption)
    | split
    | dsimp -zeta only)

theorem canon_effStore (c reg addr : Nat) {s : State} (h_s : s.Canon) : (effStore c reg addr s).Canon := by
  unfold effStore
  repeat' (first
    | with_reducible assumption
    | intro _
    | (extract_lets -merge +onlyGivenNames t_
       first
       | (refine canon_cut (s := t_) ?_ (fun h_ => ?_) <;> [subst t_; clear_value t_])
       | clear_value t_)
    | (simp only [canon_parts]; with_reducible first | exact parts_of (by assumption) | apply parts_of)
    | with_reducible first | apply canon_endMove | apply canon_issue | apply canon_ctlWrite | apply canon_ctlStore | apply canon_ite | refine canonO_use ?_ (by assumption)
    | split
    | dsimp -zeta only)

theorem canon_copyFlush {s : State} (c dst : Nat) (h_s : s.Canon) : (State.copyFlush s c dst).Canon := by
  unfold State.copyFlush
  repeat' (first
    | with_reducible first | assumption | apply canon_ctlStore
    | dsimp -zeta only)

theorem canon_copyBad {s : State} (c dst : Nat) (h_s : s.Canon) : (State.copyBad s c dst).Canon := by
  unfold State.copyBad
  repeat' (first
    | with_reducible assumption
    | (extract_lets -merge +onlyGivenNames t_
       first
       | (refine canon_cut (s := t_) ?_ (fun h_ => ?_) <;> [subst t_; clear_value t_])
       | clear_value t_)
    | with_reducible first | apply canon_endMove | apply canon_xmpStore | apply canon_ite
    | split
    | dsimp -zeta only)

theorem canon_effCopy (c count src dst : Nat) {s : State} (h_s : s.Canon) : (effCopy c count src dst s).Canon := by
  unfold effCopy
  repeat' (first
    | with_reducible assumption
    | intro _
    | (extract_lets -merge +onlyGivenNames t_
       first
       | (refine canon_cut (s := t_) ?_ (fun h_ => ?_) <;> [subst t_; clear_value t_])
       | (refine canon_cutF (f := t_) ?_ (fun h_ => ?_) <;> [subst t_; clear_value t_])
       | (refine canon_cutG (f := t_) ?_ (fun h_ => ?_) <;> [subst t_; clear_value t_])
       | clear_value t_)
    | (simp only [canon_parts]; with_reducible first | exact parts_of (by assumption) | apply parts_of)
    | with_reducible first | refine canonF_use (by assumption) ?_ | refine canonG_use (by assumption) ?_ | apply canon_sched | apply canon_withCtx | apply canon_endMove | apply canon_xmpWait | apply canon_issue | apply canon_ctlRead | apply canon_ctlRead | apply canon_ctlWrite | apply canon_copyFlush | apply canon_copyBad | apply canon_ite | refine canon_ctlRead' ?_ (by assumption) | refine canonO_use ?_ (by assumption)
    | split
    | dsimp -zeta only)

end Sys2Proof.Machine
end

