-- ==== Sys2Proof/Laws/CanonExec.lean ====
section
/-! SUPPORT. The functions of Machine/Exec.lean keep the canonical form. -/

namespace Sys2Proof.Machine

open Sys2Proof

set_option linter.all false

theorem canon_settle {before after : State} (hb : before.Canon) (h : after.Canon) : (State.settle before after).Canon := by
  unfold State.settle
  exact canon_autoIrqWord hb (canon_takeReports (canon_takeEnds _ (canon_takeResign (canon_xmpInjSettle (canon_takeReports (canon_pwrSettle
    (canon_scoSettle (canon_takeEnds _ (canon_releaseRx16 (canon_releaseTx8 (canon_calSettle (canon_invSettleAll (canon_takeReports
      (canon_takeEnds _ (canon_releaseRx16 (canon_releaseTx8 h))))))))))))))))

theorem canon_finish {before after : State} (hb : before.Canon) (h : after.Canon) : (State.finish before after).Canon :=
  (canon_parts ..).2 (parts_of (canon_settle hb h))

/-- What a command answers is canonical. -/
structure CanonE (o : Host.Outcome State Fault Refusal) : Prop where
  all : ∀ t, o = .next t → t.Canon

theorem canon_answerWith {a b : State} (ha : a.Canon) (h : b.Canon) : CanonE (State.answerWith a b) :=
  ⟨by intro t e; cases e; exact canon_finish ha h⟩

theorem canon_execRegisterWrite (src : Src) (page off value : Nat) (poison : Bool) {s : State} (h_s : s.Canon) : CanonE (execRegisterWrite src page off value poison s) := by
  unfold execRegisterWrite
  repeat' (first
    | with_reducible first | assumption | apply canon_answerWith | apply canon_effRegisterWrite | apply canon_answerWith
    | intro _
    | dsimp -zeta only)

theorem canon_execSoftReset (page : Nat) {s : State} (h_s : s.Canon) : CanonE (execSoftReset page s) := by
  unfold execSoftReset
  repeat' (first
    | with_reducible first | assumption | apply canon_answerWith | apply canon_number | apply canon_effSoftReset | apply canon_answerWith
    | intro _
    | dsimp -zeta only)

theorem canon_execCtrlEnableWrite (page : Nat) (on : Bool) {s : State} (h_s : s.Canon) : CanonE (execCtrlEnableWrite page on s) := by
  unfold execCtrlEnableWrite
  repeat' (first
    | with_reducible first | assumption | apply canon_answerWith | apply canon_number | apply canon_effCtrlEnableWrite | apply canon_answerWith
    | intro _
    | dsimp -zeta only)

theorem canon_execLockWrite (page : Nat) {s : State} (h_s : s.Canon) : CanonE (execLockWrite page s) := by
  unfold execLockWrite
  repeat' (first
    | with_reducible first | assumption | apply canon_answerWith | apply canon_number | apply canon_effLockWrite | apply canon_answerWith
    | intro _
    | dsimp -zeta only)

theorem canon_execConfigWatchVisit (upsetOff upsetMask : Nat) {s : State} (h_s : s.Canon) : CanonE (execConfigWatchVisit upsetOff upsetMask s) := by
  unfold execConfigWatchVisit
  repeat' (first
    | with_reducible first | assumption | apply canon_answerWith | apply canon_effConfigWatchVisit | apply canon_answerWith
    | intro _
    | dsimp -zeta only)

theorem canon_execAngEnable {s : State} (h_s : s.Canon) : CanonE (execAngEnable s) := by
  unfold execAngEnable
  repeat' (first
    | with_reducible first | assumption | apply canon_answerWith | apply canon_number | apply canon_effAngEnable | apply canon_answerWith
    | intro _
    | dsimp -zeta only)

theorem canon_execAngDisable {s : State} (h_s : s.Canon) : CanonE (execAngDisable s) := by
  unfold execAngDisable
  repeat' (first
    | with_reducible first | assumption | apply canon_answerWith | apply canon_number | apply canon_effAngDisable | apply canon_answerWith
    | intro _
    | dsimp -zeta only)

theorem canon_execSyncInEdge {s : State} (h_s : s.Canon) : CanonE (execSyncInEdge s) := by
  unfold execSyncInEdge
  repeat' (first
    | with_reducible first | assumption | apply canon_answerWith | apply canon_effSyncInEdge | apply canon_answerWith
    | intro _
    | dsimp -zeta only)

theorem canon_execEdgeWindowClose {s : State} (h_s : s.Canon) : CanonE (execEdgeWindowClose s) := by
  unfold execEdgeWindowClose
  repeat' (first
    | with_reducible first | assumption | apply canon_answerWith | apply canon_effEdgeWindowClose | apply canon_answerWith
    | intro _
    | dsimp -zeta only)

theorem canon_execCycleBoundary {s : State} (h_s : s.Canon) : CanonE (execCycleBoundary s) := by
  unfold execCycleBoundary
  repeat' (first
    | with_reducible first | assumption | apply canon_answerWith | apply canon_effCycleBoundary | apply canon_answerWith
    | intro _
    | dsimp -zeta only)

theorem canon_execVirtualCycleEnd {s : State} (h_s : s.Canon) : CanonE (execVirtualCycleEnd s) := by
  unfold execVirtualCycleEnd
  repeat' (first
    | with_reducible first | assumption | apply canon_answerWith | apply canon_effVirtualCycleEnd | apply canon_answerWith
    | intro _
    | dsimp -zeta only)

theorem canon_execVperiodWrite (value : Nat) {s : State} (h_s : s.Canon) : CanonE (execVperiodWrite value s) := by
  unfold execVperiodWrite
  repeat' (first
    | with_reducible first | assumption | apply canon_answerWith | apply canon_effVperiodWrite | apply canon_answerWith
    | intro _
    | dsimp -zeta only)

theorem canon_execAlarmFire (n : Nat) (late : Bool) {s : State} (h_s : s.Canon) : CanonE (execAlarmFire n late s) := by
  unfold execAlarmFire
  repeat' (first
    | with_reducible first | assumption | apply canon_answerWith | apply canon_effAlarmFire | apply canon_answerWith
    | intro _
    | dsimp -zeta only)

theorem canon_execSyncOutPulse {s : State} (h_s : s.Canon) : CanonE (execSyncOutPulse s) := by
  unfold execSyncOutPulse
  repeat' (first
    | with_reducible first | assumption | apply canon_answerWith | apply canon_effSyncOutPulse | apply canon_answerWith
    | intro _
    | dsimp -zeta only)

theorem canon_execSyncOutPulseEnd {s : State} (h_s : s.Canon) : CanonE (execSyncOutPulseEnd s) := by
  unfold execSyncOutPulseEnd
  repeat' (first
    | with_reducible first | assumption | apply canon_answerWith | apply canon_effSyncOutPulseEnd | apply canon_answerWith
    | intro _
    | dsimp -zeta only)

theorem canon_execAccumulatorMismatch (second : Bool) {s : State} (h_s : s.Canon) : CanonE (execAccumulatorMismatch second s) := by
  unfold execAccumulatorMismatch
  repeat' (first
    | with_reducible first | assumption | apply canon_answerWith | apply canon_effAccumulatorMismatch | apply canon_answerWith
    | split
    | intro _
    | dsimp -zeta only)

theorem canon_execRoleDecision (mclkToggles : Bool) {s : State} (h_s : s.Canon) : CanonE (execRoleDecision mclkToggles s) := by
  unfold execRoleDecision
  repeat' (first
    | with_reducible first | assumption | apply canon_answerWith | apply canon_effRoleDecision | apply canon_answerWith
    | intro _
    | dsimp -zeta only)

theorem canon_execIdleCell (c : CellHead) (angle : Nat) {s : State} (h_s : s.Canon) : CanonE (execIdleCell c angle s) := by
  unfold execIdleCell
  repeat' (first
    | with_reducible first | assumption | apply canon_answerWith | apply canon_effIdleCell | apply canon_answerWith
    | intro _
    | dsimp -zeta only)

theorem canon_execRateCell (c : CellHead) (boundary rate : Nat) {s : State} (h_s : s.Canon) : CanonE (execRateCell c boundary rate s) := by
  unfold execRateCell
  repeat' (first
    | with_reducible first | assumption | apply canon_answerWith | apply canon_effRateCell | apply canon_answerWith
    | intro _
    | dsimp -zeta only)

theorem canon_execStateCell (c : CellHead) (tag count : Nat) {s : State} (h_s : s.Canon) : CanonE (execStateCell c tag count s) := by
  unfold execStateCell
  repeat' (first
    | with_reducible first | assumption | apply canon_answerWith | apply canon_effStateCell | apply canon_answerWith
    | intro _
    | dsimp -zeta only)

theorem canon_execCountCell (c : CellHead) (count : Nat) {s : State} (h_s : s.Canon) : CanonE (execCountCell c count s) := by
  unfold execCountCell
  repeat' (first
    | with_reducible first | assumption | apply canon_answerWith | apply canon_effCountCell | apply canon_answerWith
    | intro _
    | dsimp -zeta only)

theorem canon_execRangeStartCell (c : CellHead) {s : State} (h_s : s.Canon) : CanonE (execRangeStartCell c s) := by
  unfold execRangeStartCell
  repeat' (first
    | with_reducible first | assumption | apply canon_answerWith | apply canon_effRangeStartCell | apply canon_answerWith
    | intro _
    | dsimp -zeta only)

theorem canon_execRangeResultCell (c : CellHead) (value : Nat) {s : State} (h_s : s.Canon) : CanonE (execRangeResultCell c value s) := by
  unfold execRangeResultCell
  repeat' (first
    | with_reducible first | assumption | apply canon_answerWith | apply canon_effRangeResultCell | apply canon_answerWith
    | intro _
    | dsimp -zeta only)

theorem canon_execHelloCell (c : CellHead) (position : Nat) {s : State} (h_s : s.Canon) : CanonE (execHelloCell c position s) := by
  unfold execHelloCell
  repeat' (first
    | with_reducible first | assumption | apply canon_answerWith | apply canon_effHelloCell | apply canon_answerWith
    | intro _
    | dsimp -zeta only)

theorem canon_execLaunchCell (c : CellHead) (token angle : Nat) {s : State} (h_s : s.Canon) : CanonE (execLaunchCell c token angle s) := by
  unfold execLaunchCell
  repeat' (first
    | with_reducible first | assumption | apply canon_answerWith | apply canon_effLaunchCell | apply canon_answerWith
    | intro _
    | dsimp -zeta only)

theorem canon_execEventCell (c : CellHead) (channel hop angle : Nat) {s : State} (h_s : s.Canon) : CanonE (execEventCell c channel hop angle s) := by
  unfold execEventCell
  repeat' (first
    | with_reducible first | assumption | apply canon_answerWith | apply canon_effEventCell | apply canon_answerWith
    | intro _
    | dsimp -zeta only)

theorem canon_execReportCell (c : CellHead) {s : State} (h_s : s.Canon) : CanonE (execReportCell c s) := by
  unfold execReportCell
  repeat' (first
    | with_reducible first | assumption | apply canon_answerWith | apply canon_effReportCell | apply canon_answerWith
    | intro _
    | dsimp -zeta only)

theorem canon_execBadCell (word : Nat) {s : State} (h_s : s.Canon) : CanonE (execBadCell word s) := by
  unfold execBadCell
  repeat' (first
    | with_reducible first | assumption | apply canon_answerWith | apply canon_effBadCell | apply canon_answerWith
    | intro _
    | dsimp -zeta only)

theorem canon_execCellResend (type : Nat) {s : State} (h_s : s.Canon) : CanonE (execCellResend type s) := by
  unfold execCellResend
  repeat' (first
    | with_reducible first | assumption | apply canon_answerWith | apply canon_effCellResend | apply canon_answerWith
    | intro _
    | dsimp -zeta only)

theorem canon_execCountTimeout {s : State} (h_s : s.Canon) : CanonE (execCountTimeout s) := by
  unfold execCountTimeout
  repeat' (first
    | with_reducible first | assumption | apply canon_answerWith | apply canon_effCountTimeout | apply canon_answerWith
    | intro _
    | dsimp -zeta only)

theorem canon_execDiscover {s : State} (h_s : s.Canon) : CanonE (execDiscover s) := by
  unfold execDiscover
  repeat' (first
    | with_reducible first | assumption | apply canon_answerWith | apply canon_number | apply canon_effDiscover | apply canon_answerWith
    | intro _
    | dsimp -zeta only)

theorem canon_execRange {s : State} (h_s : s.Canon) : CanonE (execRange s) := by
  unfold execRange
  repeat' (first
    | with_reducible first | assumption | apply canon_answerWith | apply canon_number | apply canon_effRange | apply canon_answerWith
    | intro _
    | dsimp -zeta only)

theorem canon_execEchoWindowEnd (roundTrips : List Nat) {s : State} (h_s : s.Canon) : CanonE (execEchoWindowEnd roundTrips s) := by
  unfold execEchoWindowEnd
  repeat' (first
    | with_reducible first | assumption | apply canon_answerWith | apply canon_effEchoWindowEnd | apply canon_answerWith
    | intro _
    | dsimp -zeta only)

theorem canon_execBoardNum (value : Nat) (broadcast enumi : Bool) {s : State} (h_s : s.Canon) : CanonE (execBoardNum value broadcast enumi s) := by
  unfold execBoardNum
  repeat' (first
    | with_reducible first | assumption | apply canon_answerWith | apply canon_effBoardNum | apply canon_answerWith
    | intro _
    | dsimp -zeta only)

theorem canon_execPostToken (token : Nat) {s : State} (h_s : s.Canon) : CanonE (execPostToken token s) := by
  unfold execPostToken
  repeat' (first
    | with_reducible first | assumption | apply canon_answerWith | apply canon_number | apply canon_effPostToken | apply canon_answerWith
    | intro _
    | dsimp -zeta only)

theorem canon_execLslotFire (slot : Nat) (late : Bool) {s : State} (h_s : s.Canon) : CanonE (execLslotFire slot late s) := by
  unfold execLslotFire
  repeat' (first
    | with_reducible first | assumption | apply canon_answerWith | apply canon_effLslotFire | apply canon_answerWith
    | intro _
    | dsimp -zeta only)

theorem canon_execChainLinkedDelivery (ch angle : Nat) {s : State} (h_s : s.Canon) : CanonE (execChainLinkedDelivery ch angle s) := by
  unfold execChainLinkedDelivery
  repeat' (first
    | with_reducible first | assumption | apply canon_answerWith | apply canon_effChainLinkedDelivery | apply canon_answerWith
    | intro _
    | dsimp -zeta only)

theorem canon_execTokenHoldLimit {s : State} (h_s : s.Canon) : CanonE (execTokenHoldLimit s) := by
  unfold execTokenHoldLimit
  repeat' (first
    | with_reducible first | assumption | apply canon_answerWith | apply canon_effTokenHoldLimit | apply canon_answerWith
    | intro _
    | dsimp -zeta only)

theorem canon_execReportTokenTimeout {s : State} (h_s : s.Canon) : CanonE (execReportTokenTimeout s) := by
  unfold execReportTokenTimeout
  repeat' (first
    | with_reducible first | assumption | apply canon_answerWith | apply canon_effReportTokenTimeout | apply canon_answerWith
    | intro _
    | dsimp -zeta only)

theorem canon_execChainAngleLost (mclk : Bool) {s : State} (h_s : s.Canon) : CanonE (execChainAngleLost mclk s) := by
  unfold execChainAngleLost
  repeat' (first
    | with_reducible first | assumption | apply canon_answerWith | apply canon_effChainAngleLost | apply canon_answerWith
    | intro _
    | dsimp -zeta only)

theorem canon_execSwitchReadbackFault (port : Nat) {s : State} (h_s : s.Canon) : CanonE (execSwitchReadbackFault port s) := by
  unfold execSwitchReadbackFault
  repeat' (first
    | with_reducible first | assumption | apply canon_answerWith | apply canon_effSwitchReadbackFault | apply canon_answerWith
    | intro _
    | dsimp -zeta only)

theorem canon_execTuneWrite (src : Src) (port value : Nat) {s : State} (h_s : s.Canon) : CanonE (execTuneWrite src port value s) := by
  unfold execTuneWrite
  repeat' (first
    | with_reducible first | assumption | apply canon_answerWith | apply canon_effTuneWrite | apply canon_answerWith
    | intro _
    | dsimp -zeta only)

theorem canon_execAtuneStart (n : Nat) {s : State} (h_s : s.Canon) : CanonE (execAtuneStart n s) := by
  unfold execAtuneStart
  repeat' (first
    | with_reducible first | assumption | apply canon_answerWith | apply canon_number | apply canon_effAtuneStart | apply canon_answerWith
    | intro _
    | dsimp -zeta only)

theorem canon_execAtuneComplete (n : Nat) (gammas : List Nat) {s : State} (h_s : s.Canon) : CanonE (execAtuneComplete n gammas s) := by
  unfold execAtuneComplete
  repeat' (first
    | with_reducible first | assumption | apply canon_answerWith | apply canon_effAtuneComplete | apply canon_answerWith
    | intro _
    | dsimp -zeta only)

theorem canon_execFieldLaunch (n : Nat) {s : State} (h_s : s.Canon) : CanonE (execFieldLaunch n s) := by
  unfold execFieldLaunch
  repeat' (first
    | with_reducible first | assumption | apply canon_answerWith | apply canon_effFieldLaunch | apply canon_answerWith
    | intro _
    | dsimp -zeta only)

theorem canon_execPlateau (n : Nat) {s : State} (h_s : s.Canon) : CanonE (execPlateau n s) := by
  unfold execPlateau
  repeat' (first
    | with_reducible first | assumption | apply canon_answerWith | apply canon_effPlateau | apply canon_answerWith
    | intro _
    | dsimp -zeta only)

theorem canon_execSettleEnd (n : Nat) {s : State} (h_s : s.Canon) : CanonE (execSettleEnd n s) := by
  unfold execSettleEnd
  repeat' (first
    | with_reducible first | assumption | apply canon_answerWith | apply canon_effSettleEnd | apply canon_answerWith
    | intro _
    | dsimp -zeta only)

theorem canon_execRampDownEnd (n : Nat) {s : State} (h_s : s.Canon) : CanonE (execRampDownEnd n s) := by
  unfold execRampDownEnd
  repeat' (first
    | with_reducible first | assumption | apply canon_answerWith | apply canon_effRampDownEnd | apply canon_answerWith
    | intro _
    | dsimp -zeta only)

theorem canon_execMonitorMean (n fwd refl sq : Nat) {s : State} (h_s : s.Canon) : CanonE (execMonitorMean n fwd refl sq s) := by
  unfold execMonitorMean
  repeat' (first
    | with_reducible first | assumption | apply canon_answerWith | apply canon_effMonitorMean | apply canon_answerWith
    | intro _
    | dsimp -zeta only)

theorem canon_execPaOvercurrent (n : Nat) {s : State} (h_s : s.Canon) : CanonE (execPaOvercurrent n s) := by
  unfold execPaOvercurrent
  repeat' (first
    | with_reducible first | assumption | apply canon_answerWith | apply canon_effPaOvercurrent | apply canon_answerWith
    | intro _
    | dsimp -zeta only)

theorem canon_execTxcControlMismatch (n : Nat) {s : State} (h_s : s.Canon) : CanonE (execTxcControlMismatch n s) := by
  unfold execTxcControlMismatch
  repeat' (first
    | with_reducible first | assumption | apply canon_answerWith | apply canon_effTxcControlMismatch | apply canon_answerWith
    | split
    | intro _
    | dsimp -zeta only)

theorem canon_execTxc8Assign (value : Nat) {s : State} (h_s : s.Canon) : CanonE (execTxc8Assign value s) := by
  unfold execTxc8Assign
  repeat' (first
    | with_reducible first | assumption | apply canon_answerWith | apply canon_number | apply canon_effTxc8Assign | apply canon_answerWith
    | intro _
    | dsimp -zeta only)

theorem canon_execTxc8Release {s : State} (h_s : s.Canon) : CanonE (execTxc8Release s) := by
  unfold execTxc8Release
  repeat' (first
    | with_reducible first | assumption | apply canon_answerWith | apply canon_number | apply canon_effTxc8Release | apply canon_answerWith
    | intro _
    | dsimp -zeta only)

theorem canon_execRailLowering (rail : Nat) {s : State} (h_s : s.Canon) : CanonE (execRailLowering rail s) := by
  unfold execRailLowering
  repeat' (first
    | with_reducible first | assumption | apply canon_answerWith | apply canon_effRailLowering | apply canon_answerWith
    | intro _
    | dsimp -zeta only)

theorem canon_execRailAck (rail : Nat) {s : State} (h_s : s.Canon) : CanonE (execRailAck rail s) := by
  unfold execRailAck
  repeat' (first
    | with_reducible first | assumption | apply canon_answerWith | apply canon_effRailAck | apply canon_answerWith
    | intro _
    | dsimp -zeta only)

theorem canon_execTapReadbackFault (n : Nat) {s : State} (h_s : s.Canon) : CanonE (execTapReadbackFault n s) := by
  unfold execTapReadbackFault
  repeat' (first
    | with_reducible first | assumption | apply canon_answerWith | apply canon_effTapReadbackFault | apply canon_answerWith
    | intro _
    | dsimp -zeta only)

theorem canon_execLeakConverged (n i q residual : Nat) {s : State} (h_s : s.Canon) : CanonE (execLeakConverged n i q residual s) := by
  unfold execLeakConverged
  repeat' (first
    | with_reducible first | assumption | apply canon_answerWith | apply canon_effLeakConverged | apply canon_answerWith
    | intro _
    | dsimp -zeta only)

theorem canon_execCheckToneBlock (n amp phase : Nat) {s : State} (h_s : s.Canon) : CanonE (execCheckToneBlock n amp phase s) := by
  unfold execCheckToneBlock
  repeat' (first
    | with_reducible first | assumption | apply canon_answerWith | apply canon_effCheckToneBlock | apply canon_answerWith
    | intro _
    | dsimp -zeta only)

theorem canon_execRxcControlMismatch (n : Nat) {s : State} (h_s : s.Canon) : CanonE (execRxcControlMismatch n s) := by
  unfold execRxcControlMismatch
  repeat' (first
    | with_reducible first | assumption | apply canon_answerWith | apply canon_effRxcControlMismatch | apply canon_answerWith
    | split
    | intro _
    | dsimp -zeta only)

theorem canon_execAgcBlock (n : Nat) (samples : List Nat) {s : State} (h_s : s.Canon) : CanonE (execAgcBlock n samples s) := by
  unfold execAgcBlock
  repeat' (first
    | with_reducible first | assumption | apply canon_answerWith | apply canon_effAgcBlock | apply canon_answerWith
    | intro _
    | dsimp -zeta only)

theorem canon_execPreambleDetect (n : Nat) (samples : List Nat) {s : State} (h_s : s.Canon) : CanonE (execPreambleDetect n samples s) := by
  unfold execPreambleDetect
  repeat' (first
    | with_reducible first | assumption | apply canon_answerWith | apply canon_effPreambleDetect | apply canon_answerWith
    | intro _
    | dsimp -zeta only)

theorem canon_execFineTimingDecision (n : Nat) (samples : List Nat) {s : State} (h_s : s.Canon) : CanonE (execFineTimingDecision n samples s) := by
  unfold execFineTimingDecision
  repeat' (first
    | with_reducible first | assumption | apply canon_answerWith | apply canon_effFineTimingDecision | apply canon_answerWith
    | intro _
    | dsimp -zeta only)

theorem canon_execCaptureWatchFire (n : Nat) (samples : List Nat) {s : State} (h_s : s.Canon) : CanonE (execCaptureWatchFire n samples s) := by
  unfold execCaptureWatchFire
  repeat' (first
    | with_reducible first | assumption | apply canon_answerWith | apply canon_effCaptureWatchFire | apply canon_answerWith
    | intro _
    | dsimp -zeta only)

theorem canon_execLegacyFrameStart (n : Nat) (env : List (Int × Int)) {s : State} (h_s : s.Canon) : CanonE (execLegacyFrameStart n env s) := by
  unfold execLegacyFrameStart
  repeat' (first
    | with_reducible first | assumption | apply canon_answerWith | apply canon_effLegacyFrameStart | apply canon_answerWith
    | intro _
    | dsimp -zeta only)

theorem canon_execLegacyFrameEnd (n : Nat) (clipped : Bool) (halves : List ((Int × Int) × (Int × Int))) {s : State} (h_s : s.Canon) : CanonE (execLegacyFrameEnd n clipped halves s) := by
  unfold execLegacyFrameEnd
  repeat' (first
    | with_reducible first | assumption | apply canon_answerWith | apply canon_effLegacyFrameEnd | apply canon_answerWith
    | intro _
    | dsimp -zeta only)

theorem canon_execCaptureStart (n : Nat) {s : State} (h_s : s.Canon) : CanonE (execCaptureStart n s) := by
  unfold execCaptureStart
  repeat' (first
    | with_reducible first | assumption | apply canon_answerWith | apply canon_number | apply canon_effCaptureStart | apply canon_answerWith
    | intro _
    | dsimp -zeta only)

theorem canon_execCaptureStop (n : Nat) (samples : List Nat) {s : State} (h_s : s.Canon) : CanonE (execCaptureStop n samples s) := by
  unfold execCaptureStop
  repeat' (first
    | with_reducible first | assumption | apply canon_answerWith | apply canon_number | apply canon_effCaptureStop | apply canon_answerWith
    | intro _
    | dsimp -zeta only)

theorem canon_execCaptureTrigger (n trig : Nat) (samples : List Nat) {s : State} (h_s : s.Canon) : CanonE (execCaptureTrigger n trig samples s) := by
  unfold execCaptureTrigger
  repeat' (first
    | with_reducible first | assumption | apply canon_answerWith | apply canon_effCaptureTrigger | apply canon_answerWith
    | intro _
    | dsimp -zeta only)

theorem canon_execCaptureDone (n : Nat) (samples : List Nat) {s : State} (h_s : s.Canon) : CanonE (execCaptureDone n samples s) := by
  unfold execCaptureDone
  repeat' (first
    | with_reducible first | assumption | apply canon_answerWith | apply canon_effCaptureDone | apply canon_answerWith
    | intro _
    | dsimp -zeta only)

theorem canon_execCaptureOverrun (n : Nat) (samples : List Nat) {s : State} (h_s : s.Canon) : CanonE (execCaptureOverrun n samples s) := by
  unfold execCaptureOverrun
  repeat' (first
    | with_reducible first | assumption | apply canon_answerWith | apply canon_effCaptureOverrun | apply canon_answerWith
    | intro _
    | dsimp -zeta only)

theorem canon_execRxc16Assign (value : Nat) {s : State} (h_s : s.Canon) : CanonE (execRxc16Assign value s) := by
  unfold execRxc16Assign
  repeat' (first
    | with_reducible first | assumption | apply canon_answerWith | apply canon_number | apply canon_effRxc16Assign | apply canon_answerWith
    | intro _
    | dsimp -zeta only)

theorem canon_execRxc16Release {s : State} (h_s : s.Canon) : CanonE (execRxc16Release s) := by
  unfold execRxc16Release
  repeat' (first
    | with_reducible first | assumption | apply canon_answerWith | apply canon_number | apply canon_effRxc16Release | apply canon_answerWith
    | intro _
    | dsimp -zeta only)

theorem canon_execReplyFrame (w : Nat) (r : Reply) {s : State} (h_s : s.Canon) : CanonE (execReplyFrame w r s) := by
  unfold execReplyFrame
  repeat' (first
    | with_reducible first | assumption | apply canon_answerWith | apply canon_effReplyFrame | apply canon_answerWith
    | intro _
    | dsimp -zeta only)

theorem canon_execReplyWaitEnd (w : Nat) {s : State} (h_s : s.Canon) : CanonE (execReplyWaitEnd w s) := by
  unfold execReplyWaitEnd
  repeat' (first
    | with_reducible first | assumption | apply canon_answerWith | apply canon_effReplyWaitEnd | apply canon_answerWith
    | intro _
    | dsimp -zeta only)

theorem canon_execPrtEngineMismatch (w : Nat) {s : State} (h_s : s.Canon) : CanonE (execPrtEngineMismatch w s) := by
  unfold execPrtEngineMismatch
  repeat' (first
    | with_reducible first | assumption | apply canon_answerWith | apply canon_effPrtEngineMismatch | apply canon_answerWith
    | split
    | intro _
    | dsimp -zeta only)

theorem canon_execBlitzHeader (w : Nat) (samples : List Nat) {s : State} (h_s : s.Canon) : CanonE (execBlitzHeader w samples s) := by
  unfold execBlitzHeader
  repeat' (first
    | with_reducible first | assumption | apply canon_answerWith | apply canon_effBlitzHeader | apply canon_answerWith
    | intro _
    | dsimp -zeta only)

theorem canon_execBlitzFrameEnd (w : Nat) (f : BlitzFrame) {s : State} (h_s : s.Canon) : CanonE (execBlitzFrameEnd w f s) := by
  unfold execBlitzFrameEnd
  repeat' (first
    | with_reducible first | assumption | apply canon_answerWith | apply canon_effBlitzFrameEnd | apply canon_answerWith
    | intro _
    | dsimp -zeta only)

theorem canon_execLaneMismatch (w : Nat) {s : State} (h_s : s.Canon) : CanonE (execLaneMismatch w s) := by
  unfold execLaneMismatch
  repeat' (first
    | with_reducible first | assumption | apply canon_answerWith | apply canon_effLaneMismatch | apply canon_answerWith
    | split
    | intro _
    | dsimp -zeta only)

theorem canon_execInvStart {s : State} (h_s : s.Canon) : CanonE (execInvStart s) := by
  unfold execInvStart
  repeat' (first
    | with_reducible first | assumption | apply canon_answerWith | apply canon_number | apply canon_effInvStart | apply canon_answerWith
    | intro _
    | dsimp -zeta only)

theorem canon_execInvDiscover {s : State} (h_s : s.Canon) : CanonE (execInvDiscover s) := by
  unfold execInvDiscover
  repeat' (first
    | with_reducible first | assumption | apply canon_answerWith | apply canon_number | apply canon_effInvDiscover | apply canon_answerWith
    | intro _
    | dsimp -zeta only)

theorem canon_execInvStop {s : State} (h_s : s.Canon) : CanonE (execInvStop s) := by
  unfold execInvStop
  repeat' (first
    | with_reducible first | assumption | apply canon_answerWith | apply canon_number | apply canon_effInvStop | apply canon_answerWith
    | intro _
    | dsimp -zeta only)

theorem canon_execRoundLaunch (late : Bool) {s : State} (h_s : s.Canon) : CanonE (execRoundLaunch late s) := by
  unfold execRoundLaunch
  repeat' (first
    | with_reducible first | assumption | apply canon_answerWith | apply canon_effRoundLaunch | apply canon_answerWith
    | intro _
    | dsimp -zeta only)

theorem canon_execPassEnd {s : State} (h_s : s.Canon) : CanonE (execPassEnd s) := by
  unfold execPassEnd
  repeat' (first
    | with_reducible first | assumption | apply canon_answerWith | apply canon_effPassEnd | apply canon_answerWith
    | intro _
    | dsimp -zeta only)

theorem canon_execInvSchedMismatch {s : State} (h_s : s.Canon) : CanonE (execInvSchedMismatch s) := by
  unfold execInvSchedMismatch
  repeat' (first
    | with_reducible first | assumption | apply canon_answerWith | apply canon_effInvSchedMismatch | apply canon_answerWith
    | split
    | intro _
    | dsimp -zeta only)

theorem canon_execSweepStart {s : State} (h_s : s.Canon) : CanonE (execSweepStart s) := by
  unfold execSweepStart
  repeat' (first
    | with_reducible first | assumption | apply canon_answerWith | apply canon_effSweepStart | apply canon_answerWith
    | intro _
    | dsimp -zeta only)

theorem canon_execPing (port : Nat) (p : PingResult) {s : State} (h_s : s.Canon) : CanonE (execPing port p s) := by
  unfold execPing
  repeat' (first
    | with_reducible first | assumption | apply canon_answerWith | apply canon_effPing | apply canon_answerWith
    | intro _
    | dsimp -zeta only)

theorem canon_execSweepEnd {s : State} (h_s : s.Canon) : CanonE (execSweepEnd s) := by
  unfold execSweepEnd
  repeat' (first
    | with_reducible first | assumption | apply canon_answerWith | apply canon_effSweepEnd | apply canon_answerWith
    | intro _
    | dsimp -zeta only)

theorem canon_execPendHandoff {s : State} (h_s : s.Canon) : CanonE (execPendHandoff s) := by
  unfold execPendHandoff
  repeat' (first
    | with_reducible first | assumption | apply canon_answerWith | apply canon_effPendHandoff | apply canon_answerWith
    | intro _
    | dsimp -zeta only)

theorem canon_execKbzMismatch {s : State} (h_s : s.Canon) : CanonE (execKbzMismatch s) := by
  unfold execKbzMismatch
  repeat' (first
    | with_reducible first | assumption | apply canon_answerWith | apply canon_effKbzMismatch | apply canon_answerWith
    | split
    | intro _
    | dsimp -zeta only)

theorem canon_execContextStart (src : Src) (c : Nat) {s : State} (h_s : s.Canon) : CanonE (execContextStart src c s) := by
  unfold execContextStart
  repeat' (first
    | with_reducible first | assumption | apply canon_answerWith | apply canon_number | apply canon_effContextStart | apply canon_answerWith
    | intro _
    | dsimp -zeta only)

theorem canon_execContextAbort (c : Nat) {s : State} (h_s : s.Canon) : CanonE (execContextAbort c s) := by
  unfold execContextAbort
  repeat' (first
    | with_reducible first | assumption | apply canon_answerWith | apply canon_number | apply canon_effContextAbort | apply canon_answerWith
    | intro _
    | dsimp -zeta only)

theorem canon_execContextHalt (c : Nat) {s : State} (h_s : s.Canon) : CanonE (execContextHalt c s) := by
  unfold execContextHalt
  repeat' (first
    | with_reducible first | assumption | apply canon_answerWith | apply canon_number | apply canon_effContextHalt | apply canon_answerWith
    | intro _
    | dsimp -zeta only)

theorem canon_execMoveFetch (c : Nat) {s : State} (h_s : s.Canon) : CanonE (execMoveFetch c s) := by
  unfold execMoveFetch
  repeat' (first
    | with_reducible first | assumption | apply canon_answerWith | apply canon_effMoveFetch | apply canon_answerWith
    | intro _
    | dsimp -zeta only)

theorem canon_execWingClaimGrant (w : Nat) {s : State} (h_s : s.Canon) : CanonE (execWingClaimGrant w s) := by
  unfold execWingClaimGrant
  repeat' (first
    | with_reducible first | assumption | apply canon_answerWith | apply canon_effWingClaimGrant | apply canon_answerWith
    | intro _
    | dsimp -zeta only)

theorem canon_execRfMoveLaunch (c : Nat) (late : Bool) {s : State} (h_s : s.Canon) : CanonE (execRfMoveLaunch c late s) := by
  unfold execRfMoveLaunch
  repeat' (first
    | with_reducible first | assumption | apply canon_answerWith | apply canon_effRfMoveLaunch | apply canon_answerWith
    | intro _
    | dsimp -zeta only)

theorem canon_execLateLimitExpiry (c : Nat) {s : State} (h_s : s.Canon) : CanonE (execLateLimitExpiry c s) := by
  unfold execLateLimitExpiry
  repeat' (first
    | with_reducible first | assumption | apply canon_answerWith | apply canon_effLateLimitExpiry | apply canon_answerWith
    | intro _
    | dsimp -zeta only)

theorem canon_execMoveCompletion (c : Nat) {s : State} (h_s : s.Canon) : CanonE (execMoveCompletion c s) := by
  unfold execMoveCompletion
  repeat' (first
    | with_reducible first | assumption | apply canon_answerWith | apply canon_effMoveCompletion | apply canon_answerWith
    | intro _
    | dsimp -zeta only)

theorem canon_execLockstepMismatch {s : State} (h_s : s.Canon) : CanonE (execLockstepMismatch s) := by
  unfold execLockstepMismatch
  repeat' (first
    | with_reducible first | assumption | apply canon_answerWith | apply canon_effLockstepMismatch | apply canon_answerWith
    | split
    | intro _
    | dsimp -zeta only)

theorem canon_execStop (c : Nat) {s : State} (h_s : s.Canon) : CanonE (execStop c s) := by
  unfold execStop
  repeat' (first
    | with_reducible first | assumption | apply canon_answerWith | apply canon_effStop | apply canon_answerWith
    | intro _
    | dsimp -zeta only)

theorem canon_execField (c : Nat) (h : Launch) (off : Bool) (port : Nat) {s : State} (h_s : s.Canon) : CanonE (execField c h off port s) := by
  unfold execField
  repeat' (first
    | with_reducible first | assumption | apply canon_answerWith | apply canon_effField | apply canon_answerWith
    | intro _
    | dsimp -zeta only)

theorem canon_execTune (c : Nat) (h : Launch) (reserve : Bool) (port : Nat) {s : State} (h_s : s.Canon) : CanonE (execTune c h reserve port s) := by
  unfold execTune
  repeat' (first
    | with_reducible first | assumption | apply canon_answerWith | apply canon_effTune | apply canon_answerWith
    | intro _
    | dsimp -zeta only)

theorem canon_execSend (c : Nat) (h : Launch) (desc : Nat) {s : State} (h_s : s.Canon) : CanonE (execSend c h desc s) := by
  unfold execSend
  repeat' (first
    | with_reducible first | assumption | apply canon_answerWith | apply canon_effSend | apply canon_answerWith
    | intro _
    | dsimp -zeta only)

theorem canon_execListen (c : Nat) (h : Launch) (a : ListenArgs) {s : State} (h_s : s.Canon) : CanonE (execListen c h a s) := by
  unfold execListen
  repeat' (first
    | with_reducible first | assumption | apply canon_answerWith | apply canon_effListen | apply canon_answerWith
    | intro _
    | dsimp -zeta only)

theorem canon_execXchg (c : Nat) (h : Launch) (tapEn blitz : Bool) (tapPort desc dest : Nat) {s : State} (h_s : s.Canon) : CanonE (execXchg c h tapEn blitz tapPort desc dest s) := by
  unfold execXchg
  repeat' (first
    | with_reducible first | assumption | apply canon_answerWith | apply canon_effXchg | apply canon_answerWith
    | intro _
    | dsimp -zeta only)

theorem canon_execAnticoll (c : Nat) (h : Launch) (a : AnticollArgs) {s : State} (h_s : s.Canon) : CanonE (execAnticoll c h a s) := by
  unfold execAnticoll
  repeat' (first
    | with_reducible first | assumption | apply canon_answerWith | apply canon_effAnticoll | apply canon_answerWith
    | intro _
    | dsimp -zeta only)

theorem canon_execInventory (c : Nat) (wait : Bool) (action : Nat) {s : State} (h_s : s.Canon) : CanonE (execInventory c wait action s) := by
  unfold execInventory
  repeat' (first
    | with_reducible first | assumption | apply canon_answerWith | apply canon_effInventory | apply canon_answerWith
    | intro _
    | dsimp -zeta only)

theorem canon_execSound (c : Nat) (h : Launch) (coloured : Bool) {s : State} (h_s : s.Canon) : CanonE (execSound c h coloured s) := by
  unfold execSound
  repeat' (first
    | with_reducible first | assumption | apply canon_answerWith | apply canon_effSound | apply canon_answerWith
    | intro _
    | dsimp -zeta only)

theorem canon_execBook (c : Nat) (h : Launch) (coloured : Bool) {s : State} (h_s : s.Canon) : CanonE (execBook c h coloured s) := by
  unfold execBook
  repeat' (first
    | with_reducible first | assumption | apply canon_answerWith | apply canon_effBook | apply canon_answerWith
    | intro _
    | dsimp -zeta only)

theorem canon_execGambit (c : Nat) (h : Launch) (reload : Bool) {s : State} (h_s : s.Canon) : CanonE (execGambit c h reload s) := by
  unfold execGambit
  repeat' (first
    | with_reducible first | assumption | apply canon_answerWith | apply canon_effGambit | apply canon_answerWith
    | intro _
    | dsimp -zeta only)

theorem canon_execSeal (c : Nat) (h : Launch) (job : Nat) {s : State} (h_s : s.Canon) : CanonE (execSeal c h job s) := by
  unfold execSeal
  repeat' (first
    | with_reducible first | assumption | apply canon_answerWith | apply canon_effSeal | apply canon_answerWith
    | intro _
    | dsimp -zeta only)

theorem canon_execWaitAngle (c when_ angle : Nat) {s : State} (h_s : s.Canon) : CanonE (execWaitAngle c when_ angle s) := by
  unfold execWaitAngle
  repeat' (first
    | with_reducible first | assumption | apply canon_answerWith | apply canon_effWaitAngle | apply canon_answerWith
    | intro _
    | dsimp -zeta only)

theorem canon_execWaitAngleFire (c : Nat) (late : Bool) {s : State} (h_s : s.Canon) : CanonE (execWaitAngleFire c late s) := by
  unfold execWaitAngleFire
  repeat' (first
    | with_reducible first | assumption | apply canon_answerWith | apply canon_effWaitAngleFire | apply canon_answerWith
    | intro _
    | dsimp -zeta only)

theorem canon_execWaitEvent (c ch timeout : Nat) {s : State} (h_s : s.Canon) : CanonE (execWaitEvent c ch timeout s) := by
  unfold execWaitEvent
  repeat' (first
    | with_reducible first | assumption | apply canon_answerWith | apply canon_effWaitEvent | apply canon_answerWith
    | intro _
    | dsimp -zeta only)

theorem canon_execWaitEventTimeout (c : Nat) {s : State} (h_s : s.Canon) : CanonE (execWaitEventTimeout c s) := by
  unfold execWaitEventTimeout
  repeat' (first
    | with_reducible first | assumption | apply canon_answerWith | apply canon_effWaitEventTimeout | apply canon_answerWith
    | intro _
    | dsimp -zeta only)

theorem canon_execRaise (c ch : Nat) {s : State} (h_s : s.Canon) : CanonE (execRaise c ch s) := by
  unfold execRaise
  repeat' (first
    | with_reducible first | assumption | apply canon_answerWith | apply canon_effRaise | apply canon_answerWith
    | intro _
    | dsimp -zeta only)

theorem canon_execBranch (c cond imm reg target : Nat) {s : State} (h_s : s.Canon) : CanonE (execBranch c cond imm reg target s) := by
  unfold execBranch
  repeat' (first
    | with_reducible first | assumption | apply canon_answerWith | apply canon_effBranch | apply canon_answerWith
    | intro _
    | dsimp -zeta only)

theorem canon_execCall (c target : Nat) {s : State} (h_s : s.Canon) : CanonE (execCall c target s) := by
  unfold execCall
  repeat' (first
    | with_reducible first | assumption | apply canon_answerWith | apply canon_effCall | apply canon_answerWith
    | intro _
    | dsimp -zeta only)

theorem canon_execRet (c : Nat) {s : State} (h_s : s.Canon) : CanonE (execRet c s) := by
  unfold execRet
  repeat' (first
    | with_reducible first | assumption | apply canon_answerWith | apply canon_effRet | apply canon_answerWith
    | intro _
    | dsimp -zeta only)

theorem canon_execLoad (c : Nat) (imm : Bool) (reg value : Nat) {s : State} (h_s : s.Canon) : CanonE (execLoad c imm reg value s) := by
  unfold execLoad
  repeat' (first
    | with_reducible first | assumption | apply canon_answerWith | apply canon_effLoad | apply canon_answerWith
    | intro _
    | dsimp -zeta only)

theorem canon_execStore (c reg addr : Nat) {s : State} (h_s : s.Canon) : CanonE (execStore c reg addr s) := by
  unfold execStore
  repeat' (first
    | with_reducible first | assumption | apply canon_answerWith | apply canon_effStore | apply canon_answerWith
    | intro _
    | dsimp -zeta only)

theorem canon_execCopy (c count src dst : Nat) {s : State} (h_s : s.Canon) : CanonE (execCopy c count src dst s) := by
  unfold execCopy
  repeat' (first
    | with_reducible first | assumption | apply canon_answerWith | apply canon_effCopy | apply canon_answerWith
    | intro _
    | dsimp -zeta only)

theorem canon_execLog (c tag value : Nat) {s : State} (h_s : s.Canon) : CanonE (execLog c tag value s) := by
  unfold execLog
  repeat' (first
    | with_reducible first | assumption | apply canon_answerWith | apply canon_effLog | apply canon_answerWith
    | intro _
    | dsimp -zeta only)

theorem canon_execProducerEvent (p hop : Nat) {s : State} (h_s : s.Canon) : CanonE (execProducerEvent p hop s) := by
  unfold execProducerEvent
  repeat' (first
    | with_reducible first | assumption | apply canon_answerWith | apply canon_effProducerEvent | apply canon_answerWith
    | intro _
    | dsimp -zeta only)

theorem canon_execChannelDelivery (ch : Nat) {s : State} (h_s : s.Canon) : CanonE (execChannelDelivery ch s) := by
  unfold execChannelDelivery
  repeat' (first
    | with_reducible first | assumption | apply canon_answerWith | apply canon_effChannelDelivery | apply canon_answerWith
    | intro _
    | dsimp -zeta only)

theorem canon_execHostFire (high : Bool) (mask : Nat) {s : State} (h_s : s.Canon) : CanonE (execHostFire high mask s) := by
  unfold execHostFire
  repeat' (first
    | with_reducible first | assumption | apply canon_answerWith | apply canon_number | apply canon_effHostFire | apply canon_answerWith
    | intro _
    | dsimp -zeta only)

theorem canon_execGpioEdge (n : Nat) (rising : Bool) {s : State} (h_s : s.Canon) : CanonE (execGpioEdge n rising s) := by
  unfold execGpioEdge
  repeat' (first
    | with_reducible first | assumption | apply canon_answerWith | apply canon_effGpioEdge | apply canon_answerWith
    | intro _
    | dsimp -zeta only)

theorem canon_execArbMismatch (second : Bool) {s : State} (h_s : s.Canon) : CanonE (execArbMismatch second s) := by
  unfold execArbMismatch
  repeat' (first
    | with_reducible first | assumption | apply canon_answerWith | apply canon_effArbMismatch | apply canon_answerWith
    | split
    | intro _
    | dsimp -zeta only)

theorem canon_execCalDue (inst : Nat) {s : State} (h_s : s.Canon) : CanonE (execCalDue inst s) := by
  unfold execCalDue
  repeat' (first
    | with_reducible first | assumption | apply canon_answerWith | apply canon_effCalDue | apply canon_answerWith
    | intro _
    | dsimp -zeta only)

theorem canon_execWingWindow (w : Nat) {s : State} (h_s : s.Canon) : CanonE (execWingWindow w s) := by
  unfold execWingWindow
  repeat' (first
    | with_reducible first | assumption | apply canon_answerWith | apply canon_effWingWindow | apply canon_answerWith
    | intro _
    | dsimp -zeta only)

theorem canon_execCalRunEnd (inst : Nat) (readings : List Nat) {s : State} (h_s : s.Canon) : CanonE (execCalRunEnd inst readings s) := by
  unfold execCalRunEnd
  repeat' (first
    | with_reducible first | assumption | apply canon_answerWith | apply canon_effCalRunEnd | apply canon_answerWith
    | intro _
    | dsimp -zeta only)

theorem canon_execCalYield {s : State} (h_s : s.Canon) : CanonE (execCalYield s) := by
  unfold execCalYield
  repeat' (first
    | with_reducible first | assumption | apply canon_answerWith | apply canon_effCalYield | apply canon_answerWith
    | intro _
    | dsimp -zeta only)

theorem canon_execCalStarved (inst : Nat) {s : State} (h_s : s.Canon) : CanonE (execCalStarved inst s) := by
  unfold execCalStarved
  repeat' (first
    | with_reducible first | assumption | apply canon_answerWith | apply canon_effCalStarved | apply canon_answerWith
    | intro _
    | dsimp -zeta only)

theorem canon_execForcedWindow (w : Nat) {s : State} (h_s : s.Canon) : CanonE (execForcedWindow w s) := by
  unfold execForcedWindow
  repeat' (first
    | with_reducible first | assumption | apply canon_answerWith | apply canon_effForcedWindow | apply canon_answerWith
    | intro _
    | dsimp -zeta only)

theorem canon_execApplyPoint {s : State} (h_s : s.Canon) : CanonE (execApplyPoint s) := by
  unfold execApplyPoint
  repeat' (first
    | with_reducible first | assumption | apply canon_answerWith | apply canon_effApplyPoint | apply canon_answerWith
    | intro _
    | dsimp -zeta only)

theorem canon_execSoloApply {s : State} (h_s : s.Canon) : CanonE (execSoloApply s) := by
  unfold execSoloApply
  repeat' (first
    | with_reducible first | assumption | apply canon_answerWith | apply canon_effSoloApply | apply canon_answerWith
    | intro _
    | dsimp -zeta only)

theorem canon_execXbArm {s : State} (h_s : s.Canon) : CanonE (execXbArm s) := by
  unfold execXbArm
  repeat' (first
    | with_reducible first | assumption | apply canon_answerWith | apply canon_number | apply canon_effXbArm | apply canon_answerWith
    | intro _
    | dsimp -zeta only)

theorem canon_execXbMeasurement (readings : List Nat) {s : State} (h_s : s.Canon) : CanonE (execXbMeasurement readings s) := by
  unfold execXbMeasurement
  repeat' (first
    | with_reducible first | assumption | apply canon_answerWith | apply canon_effXbMeasurement | apply canon_answerWith
    | intro _
    | dsimp -zeta only)

theorem canon_execXbPeer (phase : Nat) {s : State} (h_s : s.Canon) : CanonE (execXbPeer phase s) := by
  unfold execXbPeer
  repeat' (first
    | with_reducible first | assumption | apply canon_answerWith | apply canon_number | apply canon_effXbPeer | apply canon_answerWith
    | intro _
    | dsimp -zeta only)

theorem canon_execCalMismatch {s : State} (h_s : s.Canon) : CanonE (execCalMismatch s) := by
  unfold execCalMismatch
  repeat' (first
    | with_reducible first | assumption | apply canon_answerWith | apply canon_effCalMismatch | apply canon_answerWith
    | split
    | intro _
    | dsimp -zeta only)

theorem canon_execScoMount (sectors : List SectorScan) {s : State} (h_s : s.Canon) : CanonE (execScoMount sectors s) := by
  unfold execScoMount
  repeat' (first
    | with_reducible first | assumption | apply canon_answerWith | apply canon_effScoMount | apply canon_answerWith
    | intro _
    | dsimp -zeta only)

theorem canon_execRemount (sectors : List SectorScan) {s : State} (h_s : s.Canon) : CanonE (execRemount sectors s) := by
  unfold execRemount
  repeat' (first
    | with_reducible first | assumption | apply canon_answerWith | apply canon_number | apply canon_effRemount | apply canon_answerWith
    | intro _
    | dsimp -zeta only)

theorem canon_execFormat {s : State} (h_s : s.Canon) : CanonE (execFormat s) := by
  unfold execFormat
  repeat' (first
    | with_reducible first | assumption | apply canon_answerWith | apply canon_number | apply canon_effFormat | apply canon_answerWith
    | intro _
    | dsimp -zeta only)

theorem canon_execTelNow (t : TelReading) {s : State} (h_s : s.Canon) : CanonE (execTelNow t s) := by
  unfold execTelNow
  repeat' (first
    | with_reducible first | assumption | apply canon_answerWith | apply canon_number | apply canon_effTelNow | apply canon_answerWith
    | intro _
    | dsimp -zeta only)

theorem canon_execTelemetryTimer (t : TelReading) {s : State} (h_s : s.Canon) : CanonE (execTelemetryTimer t s) := by
  unfold execTelemetryTimer
  repeat' (first
    | with_reducible first | assumption | apply canon_answerWith | apply canon_effTelemetryTimer | apply canon_answerWith
    | intro _
    | dsimp -zeta only)

theorem canon_execRecordProgrammed (ok : Bool) {s : State} (h_s : s.Canon) : CanonE (execRecordProgrammed ok s) := by
  unfold execRecordProgrammed
  repeat' (first
    | with_reducible first | assumption | apply canon_answerWith | apply canon_effRecordProgrammed | apply canon_answerWith
    | intro _
    | dsimp -zeta only)

theorem canon_execSectorErased (ok : Bool) {s : State} (h_s : s.Canon) : CanonE (execSectorErased ok s) := by
  unfold execSectorErased
  repeat' (first
    | with_reducible first | assumption | apply canon_answerWith | apply canon_effSectorErased | apply canon_answerWith
    | intro _
    | dsimp -zeta only)

theorem canon_execSramRead (addr : Nat) {s : State} (h_s : s.Canon) : CanonE (execSramRead addr s) := by
  unfold execSramRead
  repeat' (first
    | with_reducible first | assumption | apply canon_answerWith | apply canon_effSramRead | apply canon_answerWith
    | intro _
    | dsimp -zeta only)

theorem canon_execSramWrite (addr value : Nat) {s : State} (h_s : s.Canon) : CanonE (execSramWrite addr value s) := by
  unfold execSramWrite
  repeat' (first
    | with_reducible first | assumption | apply canon_answerWith | apply canon_effSramWrite | apply canon_answerWith
    | intro _
    | dsimp -zeta only)

theorem canon_execCodecMismatch (addr : Nat) {s : State} (h_s : s.Canon) : CanonE (execCodecMismatch addr s) := by
  unfold execCodecMismatch
  repeat' (first
    | with_reducible first | assumption | apply canon_answerWith | apply canon_effCodecMismatch | apply canon_answerWith
    | split
    | intro _
    | dsimp -zeta only)

theorem canon_execScrubLine {s : State} (h_s : s.Canon) : CanonE (execScrubLine s) := by
  unfold execScrubLine
  repeat' (first
    | with_reducible first | assumption | apply canon_answerWith | apply canon_effScrubLine | apply canon_answerWith
    | intro _
    | dsimp -zeta only)

theorem canon_execScbPeriodWrite (value : Nat) {s : State} (h_s : s.Canon) : CanonE (execScbPeriodWrite value s) := by
  unfold execScbPeriodWrite
  repeat' (first
    | with_reducible first | assumption | apply canon_answerWith | apply canon_effScbPeriodWrite | apply canon_answerWith
    | intro _
    | dsimp -zeta only)

theorem canon_execScrubSeqMismatch {s : State} (h_s : s.Canon) : CanonE (execScrubSeqMismatch s) := by
  unfold execScrubSeqMismatch
  repeat' (first
    | with_reducible first | assumption | apply canon_answerWith | apply canon_effScrubSeqMismatch | apply canon_answerWith
    | split
    | intro _
    | dsimp -zeta only)

theorem canon_execMemSelfTest (fails : Nat) {s : State} (h_s : s.Canon) : CanonE (execMemSelfTest fails s) := by
  unfold execMemSelfTest
  repeat' (first
    | with_reducible first | assumption | apply canon_answerWith | apply canon_effMemSelfTest | apply canon_answerWith
    | intro _
    | dsimp -zeta only)

theorem canon_execBankZeroing {s : State} (h_s : s.Canon) : CanonE (execBankZeroing s) := by
  unfold execBankZeroing
  repeat' (first
    | with_reducible first | assumption | apply canon_answerWith | apply canon_effBankZeroing | apply canon_answerWith
    | intro _
    | dsimp -zeta only)

theorem canon_execBistGo {s : State} (h_s : s.Canon) : CanonE (execBistGo s) := by
  unfold execBistGo
  repeat' (first
    | with_reducible first | assumption | apply canon_answerWith | apply canon_number | apply canon_effBistGo | apply canon_answerWith
    | intro _
    | dsimp -zeta only)

theorem canon_execInjGo {s : State} (h_s : s.Canon) : CanonE (execInjGo s) := by
  unfold execInjGo
  repeat' (first
    | with_reducible first | assumption | apply canon_answerWith | apply canon_number | apply canon_effInjGo | apply canon_answerWith
    | intro _
    | dsimp -zeta only)

theorem canon_execInjRaw {s : State} (h_s : s.Canon) : CanonE (execInjRaw s) := by
  unfold execInjRaw
  repeat' (first
    | with_reducible first | assumption | apply canon_answerWith | apply canon_number | apply canon_effInjRaw | apply canon_answerWith
    | intro _
    | dsimp -zeta only)

theorem canon_execMemWindowRead (k : Nat) {s : State} (h_s : s.Canon) : CanonE (execMemWindowRead k s) := by
  unfold execMemWindowRead
  repeat' (first
    | with_reducible first | assumption | apply canon_answerWith | apply canon_effMemWindowRead | apply canon_answerWith
    | intro _
    | dsimp -zeta only)

theorem canon_execMemWindowWrite (k value : Nat) {s : State} (h_s : s.Canon) : CanonE (execMemWindowWrite k value s) := by
  unfold execMemWindowWrite
  repeat' (first
    | with_reducible first | assumption | apply canon_answerWith | apply canon_effMemWindowWrite | apply canon_answerWith
    | intro _
    | dsimp -zeta only)

theorem canon_execCkuStart (n : Nat) {s : State} (h_s : s.Canon) : CanonE (execCkuStart n s) := by
  unfold execCkuStart
  repeat' (first
    | with_reducible first | assumption | apply canon_answerWith | apply canon_number | apply canon_effCkuStart | apply canon_answerWith
    | intro _
    | dsimp -zeta only)

theorem canon_execCkuData (n m value : Nat) (poison : Bool) {s : State} (h_s : s.Canon) : CanonE (execCkuData n m value poison s) := by
  unfold execCkuData
  repeat' (first
    | with_reducible first | assumption | apply canon_answerWith | apply canon_number | apply canon_effCkuData | apply canon_answerWith
    | intro _
    | dsimp -zeta only)

theorem canon_execCkuEnd (n : Nat) {s : State} (h_s : s.Canon) : CanonE (execCkuEnd n s) := by
  unfold execCkuEnd
  repeat' (first
    | with_reducible first | assumption | apply canon_answerWith | apply canon_number | apply canon_effCkuEnd | apply canon_answerWith
    | intro _
    | dsimp -zeta only)

theorem canon_execCkuRunWrite (n value : Nat) {s : State} (h_s : s.Canon) : CanonE (execCkuRunWrite n value s) := by
  unfold execCkuRunWrite
  repeat' (first
    | with_reducible first | assumption | apply canon_answerWith | apply canon_effCkuRunWrite | apply canon_answerWith
    | intro _
    | dsimp -zeta only)

theorem canon_execCkuLogicMismatch (n : Nat) {s : State} (h_s : s.Canon) : CanonE (execCkuLogicMismatch n s) := by
  unfold execCkuLogicMismatch
  repeat' (first
    | with_reducible first | assumption | apply canon_answerWith | apply canon_effCkuLogicMismatch | apply canon_answerWith
    | split
    | intro _
    | dsimp -zeta only)

theorem canon_execHostRead (board page off count : Nat) (late : List Nat) (enumi : Bool) {s : State} (h_s : s.Canon) : CanonE (execHostRead board page off count late enumi s) := by
  unfold execHostRead
  repeat' (first
    | with_reducible first | assumption | apply canon_answerWith | apply canon_effHostRead | apply canon_answerWith
    | intro _
    | dsimp -zeta only)

theorem canon_execHostWrite (f : WriteFrame) {s : State} (h_s : s.Canon) : CanonE (execHostWrite f s) := by
  unfold execHostWrite
  repeat' (first
    | with_reducible first | assumption | apply canon_answerWith | apply canon_effHostWrite | apply canon_answerWith
    | intro _
    | dsimp -zeta only)

theorem canon_execStatus (board : Nat) (enumi : Bool) {s : State} (h_s : s.Canon) : CanonE (execStatus board enumi s) := by
  unfold execStatus
  repeat' (first
    | with_reducible first | assumption | apply canon_answerWith | apply canon_effStatus | apply canon_answerWith
    | intro _
    | dsimp -zeta only)

theorem canon_execResignFrame (board : Nat) (enumi : Bool) {s : State} (h_s : s.Canon) : CanonE (execResignFrame board enumi s) := by
  unfold execResignFrame
  repeat' (first
    | with_reducible first | assumption | apply canon_answerWith | apply canon_effResignFrame | apply canon_answerWith
    | intro _
    | dsimp -zeta only)

theorem canon_execSdrResetPulse {s : State} (h_s : s.Canon) : CanonE (execSdrResetPulse s) := by
  unfold execSdrResetPulse
  repeat' (first
    | with_reducible first | assumption | apply canon_answerWith | apply canon_effSdrResetPulse | apply canon_answerWith
    | intro _
    | dsimp -zeta only)

theorem canon_execRunt (ddr otherBoard : Bool) (bytes : Nat) {s : State} (h_s : s.Canon) : CanonE (execRunt ddr otherBoard bytes s) := by
  unfold execRunt
  repeat' (first
    | with_reducible first | assumption | apply canon_answerWith | apply canon_effRunt | apply canon_answerWith
    | intro _
    | dsimp -zeta only)

theorem canon_execClkNoSel {s : State} (h_s : s.Canon) : CanonE (execClkNoSel s) := by
  unfold execClkNoSel
  repeat' (first
    | with_reducible first | assumption | apply canon_answerWith | apply canon_effClkNoSel | apply canon_answerWith
    | intro _
    | dsimp -zeta only)

theorem canon_execRptPush (value : Nat) {s : State} (h_s : s.Canon) : CanonE (execRptPush value s) := by
  unfold execRptPush
  repeat' (first
    | with_reducible first | assumption | apply canon_answerWith | apply canon_number | apply canon_effRptPush | apply canon_answerWith
    | intro _
    | dsimp -zeta only)

theorem canon_execRptPop {s : State} (h_s : s.Canon) : CanonE (execRptPop s) := by
  unfold execRptPop
  repeat' (first
    | with_reducible first | assumption | apply canon_answerWith | apply canon_effRptPop | apply canon_answerWith
    | intro _
    | dsimp -zeta only)

theorem canon_execReportUnit {s : State} (h_s : s.Canon) : CanonE (execReportUnit s) := by
  unfold execReportUnit
  repeat' (first
    | with_reducible first | assumption | apply canon_answerWith | apply canon_effReportUnit | apply canon_answerWith
    | intro _
    | dsimp -zeta only)

theorem canon_execReportUnitEnd {s : State} (h_s : s.Canon) : CanonE (execReportUnitEnd s) := by
  unfold execReportUnitEnd
  repeat' (first
    | with_reducible first | assumption | apply canon_answerWith | apply canon_effReportUnitEnd | apply canon_answerWith
    | intro _
    | dsimp -zeta only)

theorem canon_execMasterCollision {s : State} (h_s : s.Canon) : CanonE (execMasterCollision s) := by
  unfold execMasterCollision
  repeat' (first
    | with_reducible first | assumption | apply canon_answerWith | apply canon_effMasterCollision | apply canon_answerWith
    | intro _
    | dsimp -zeta only)

theorem canon_execDecoderMismatch {s : State} (h_s : s.Canon) : CanonE (execDecoderMismatch s) := by
  unfold execDecoderMismatch
  repeat' (first
    | with_reducible first | assumption | apply canon_answerWith | apply canon_effDecoderMismatch | apply canon_answerWith
    | split
    | intro _
    | dsimp -zeta only)

theorem canon_execXmpDiscovery {s : State} (h_s : s.Canon) : CanonE (execXmpDiscovery s) := by
  unfold execXmpDiscovery
  repeat' (first
    | with_reducible first | assumption | apply canon_answerWith | apply canon_effXmpDiscovery | apply canon_answerWith
    | intro _
    | dsimp -zeta only)

theorem canon_execDiscoveryEnd (devs : List FlashDev) {s : State} (h_s : s.Canon) : CanonE (execDiscoveryEnd devs s) := by
  unfold execDiscoveryEnd
  repeat' (first
    | with_reducible first | assumption | apply canon_answerWith | apply canon_effDiscoveryEnd | apply canon_answerWith
    | intro _
    | dsimp -zeta only)

theorem canon_execLineFetch (line : Nat) (data : List Nat) (ok : Bool) {s : State} (h_s : s.Canon) : CanonE (execLineFetch line data ok s) := by
  unfold execLineFetch
  repeat' (first
    | with_reducible first | assumption | apply canon_answerWith | apply canon_effLineFetch | apply canon_answerWith
    | intro _
    | dsimp -zeta only)

theorem canon_execPageProgram (dev : Nat) (ok : Bool) {s : State} (h_s : s.Canon) : CanonE (execPageProgram dev ok s) := by
  unfold execPageProgram
  repeat' (first
    | with_reducible first | assumption | apply canon_answerWith | apply canon_effPageProgram | apply canon_answerWith
    | intro _
    | dsimp -zeta only)

theorem canon_execXmpErase {s : State} (h_s : s.Canon) : CanonE (execXmpErase s) := by
  unfold execXmpErase
  repeat' (first
    | with_reducible first | assumption | apply canon_answerWith | apply canon_number | apply canon_effXmpErase | apply canon_answerWith
    | intro _
    | dsimp -zeta only)

theorem canon_execEraseComplete (dev : Nat) (ok : Bool) {s : State} (h_s : s.Canon) : CanonE (execEraseComplete dev ok s) := by
  unfold execEraseComplete
  repeat' (first
    | with_reducible first | assumption | apply canon_answerWith | apply canon_effEraseComplete | apply canon_answerWith
    | intro _
    | dsimp -zeta only)

theorem canon_execXmpWindowRead (k : Nat) {s : State} (h_s : s.Canon) : CanonE (execXmpWindowRead k s) := by
  unfold execXmpWindowRead
  repeat' (first
    | with_reducible first | assumption | apply canon_answerWith | apply canon_effXmpWindowRead | apply canon_answerWith
    | intro _
    | dsimp -zeta only)

theorem canon_execXmpWindowWrite (k value : Nat) {s : State} (h_s : s.Canon) : CanonE (execXmpWindowWrite k value s) := by
  unfold execXmpWindowWrite
  repeat' (first
    | with_reducible first | assumption | apply canon_answerWith | apply canon_effXmpWindowWrite | apply canon_answerWith
    | intro _
    | dsimp -zeta only)

theorem canon_execXmpMismatch {s : State} (h_s : s.Canon) : CanonE (execXmpMismatch s) := by
  unfold execXmpMismatch
  repeat' (first
    | with_reducible first | assumption | apply canon_answerWith | apply canon_effXmpMismatch | apply canon_answerWith
    | split
    | intro _
    | dsimp -zeta only)

theorem canon_execModeReq (src : Src) (mode : Nat) {s : State} (h_s : s.Canon) : CanonE (execModeReq src mode s) := by
  unfold execModeReq
  repeat' (first
    | with_reducible first | assumption | apply canon_answerWith | apply canon_number | apply canon_effModeReq | apply canon_answerWith
    | intro _
    | dsimp -zeta only)

theorem canon_execEntryDone {s : State} (h_s : s.Canon) : CanonE (execEntryDone s) := by
  unfold execEntryDone
  repeat' (first
    | with_reducible first | assumption | apply canon_answerWith | apply canon_effEntryDone | apply canon_answerWith
    | intro _
    | dsimp -zeta only)

theorem canon_execWakeSource (cause : Nat) {s : State} (h_s : s.Canon) : CanonE (execWakeSource cause s) := by
  unfold execWakeSource
  repeat' (first
    | with_reducible first | assumption | apply canon_answerWith | apply canon_effWakeSource | apply canon_answerWith
    | intro _
    | dsimp -zeta only)

theorem canon_execWakeComplete {s : State} (h_s : s.Canon) : CanonE (execWakeComplete s) := by
  unfold execWakeComplete
  repeat' (first
    | with_reducible first | assumption | apply canon_answerWith | apply canon_effWakeComplete | apply canon_answerWith
    | intro _
    | dsimp -zeta only)

theorem canon_execPmbusTransaction (rail cmd : Nat) (outcome : PmbOutcome) {s : State} (h_s : s.Canon) : CanonE (execPmbusTransaction rail cmd outcome s) := by
  unfold execPmbusTransaction
  repeat' (first
    | with_reducible first | assumption | apply canon_answerWith | apply canon_effPmbusTransaction | apply canon_answerWith
    | intro _
    | dsimp -zeta only)

theorem canon_execRailAttemptTimeout (rail : Nat) {s : State} (h_s : s.Canon) : CanonE (execRailAttemptTimeout rail s) := by
  unfold execRailAttemptTimeout
  repeat' (first
    | with_reducible first | assumption | apply canon_answerWith | apply canon_effRailAttemptTimeout | apply canon_answerWith
    | intro _
    | dsimp -zeta only)

theorem canon_execPowerGoodLost (rail : Nat) {s : State} (h_s : s.Canon) : CanonE (execPowerGoodLost rail s) := by
  unfold execPowerGoodLost
  repeat' (first
    | with_reducible first | assumption | apply canon_answerWith | apply canon_effPowerGoodLost | apply canon_answerWith
    | intro _
    | dsimp -zeta only)

theorem canon_execSafeRequestDone {s : State} (h_s : s.Canon) : CanonE (execSafeRequestDone s) := by
  unfold execSafeRequestDone
  repeat' (first
    | with_reducible first | assumption | apply canon_answerWith | apply canon_effSafeRequestDone | apply canon_answerWith
    | intro _
    | dsimp -zeta only)

theorem canon_execReferenceCheckPassed {s : State} (h_s : s.Canon) : CanonE (execReferenceCheckPassed s) := by
  unfold execReferenceCheckPassed
  repeat' (first
    | with_reducible first | assumption | apply canon_answerWith | apply canon_effReferenceCheckPassed | apply canon_answerWith
    | intro _
    | dsimp -zeta only)

theorem canon_execSynLock {s : State} (h_s : s.Canon) : CanonE (execSynLock s) := by
  unfold execSynLock
  repeat' (first
    | with_reducible first | assumption | apply canon_answerWith | apply canon_effSynLock | apply canon_answerWith
    | intro _
    | dsimp -zeta only)

theorem canon_execXtalTimeout {s : State} (h_s : s.Canon) : CanonE (execXtalTimeout s) := by
  unfold execXtalTimeout
  repeat' (first
    | with_reducible first | assumption | apply canon_answerWith | apply canon_effXtalTimeout | apply canon_answerWith
    | intro _
    | dsimp -zeta only)

theorem canon_execReferenceLoss {s : State} (h_s : s.Canon) : CanonE (execReferenceLoss s) := by
  unfold execReferenceLoss
  repeat' (first
    | with_reducible first | assumption | apply canon_answerWith | apply canon_effReferenceLoss | apply canon_answerWith
    | intro _
    | dsimp -zeta only)

theorem canon_execClkRestore {s : State} (h_s : s.Canon) : CanonE (execClkRestore s) := by
  unfold execClkRestore
  repeat' (first
    | with_reducible first | assumption | apply canon_answerWith | apply canon_number | apply canon_effClkRestore | apply canon_answerWith
    | intro _
    | dsimp -zeta only)

theorem canon_execSynUnlock {s : State} (h_s : s.Canon) : CanonE (execSynUnlock s) := by
  unfold execSynUnlock
  repeat' (first
    | with_reducible first | assumption | apply canon_answerWith | apply canon_effSynUnlock | apply canon_answerWith
    | intro _
    | dsimp -zeta only)

theorem canon_execClkDisable {s : State} (h_s : s.Canon) : CanonE (execClkDisable s) := by
  unfold execClkDisable
  repeat' (first
    | with_reducible first | assumption | apply canon_answerWith | apply canon_number | apply canon_effClkDisable | apply canon_answerWith
    | intro _
    | dsimp -zeta only)

theorem canon_execPowerOnReset {s : State} (h_s : s.Canon) : CanonE (execPowerOnReset s) := by
  unfold execPowerOnReset
  repeat' (first
    | with_reducible first | assumption | apply canon_answerWith | apply canon_effPowerOnReset | apply canon_answerWith
    | intro _
    | dsimp -zeta only)

theorem canon_execResetN {s : State} (h_s : s.Canon) : CanonE (execResetN s) := by
  unfold execResetN
  repeat' (first
    | with_reducible first | assumption | apply canon_answerWith | apply canon_effResetN | apply canon_answerWith
    | intro _
    | dsimp -zeta only)

theorem canon_execChipReset (value : Nat) {s : State} (h_s : s.Canon) : CanonE (execChipReset value s) := by
  unfold execChipReset
  repeat' (first
    | with_reducible first | assumption | apply canon_answerWith | apply canon_number | apply canon_effChipReset | apply canon_answerWith
    | intro _
    | dsimp -zeta only)

theorem canon_execThermalReading (tj : Nat) {s : State} (h_s : s.Canon) : CanonE (execThermalReading tj s) := by
  unfold execThermalReading
  repeat' (first
    | with_reducible first | assumption | apply canon_answerWith | apply canon_effThermalReading | apply canon_answerWith
    | intro _
    | dsimp -zeta only)

theorem canon_execSupplyMonitorFault (unit : Nat) {s : State} (h_s : s.Canon) : CanonE (execSupplyMonitorFault unit s) := by
  unfold execSupplyMonitorFault
  repeat' (first
    | with_reducible first | assumption | apply canon_answerWith | apply canon_effSupplyMonitorFault | apply canon_answerWith
    | intro _
    | dsimp -zeta only)

theorem canon_execCclkStop {s : State} (h_s : s.Canon) : CanonE (execCclkStop s) := by
  unfold execCclkStop
  repeat' (first
    | with_reducible first | assumption | apply canon_answerWith | apply canon_effCclkStop | apply canon_answerWith
    | intro _
    | dsimp -zeta only)

theorem canon_execFaultManagerMismatch {s : State} (h_s : s.Canon) : CanonE (execFaultManagerMismatch s) := by
  unfold execFaultManagerMismatch
  repeat' (first
    | with_reducible first | assumption | apply canon_answerWith | apply canon_effFaultManagerMismatch | apply canon_answerWith
    | split
    | intro _
    | dsimp -zeta only)

theorem canon_execResignNLow {s : State} (h_s : s.Canon) : CanonE (execResignNLow s) := by
  unfold execResignNLow
  repeat' (first
    | with_reducible first | assumption | apply canon_answerWith | apply canon_effResignNLow | apply canon_answerWith
    | intro _
    | dsimp -zeta only)

theorem canon_execResignRampEnd {s : State} (h_s : s.Canon) : CanonE (execResignRampEnd s) := by
  unfold execResignRampEnd
  repeat' (first
    | with_reducible first | assumption | apply canon_answerWith | apply canon_effResignRampEnd | apply canon_answerWith
    | intro _
    | dsimp -zeta only)

theorem canon_execResignRelease (value : Nat) {s : State} (h_s : s.Canon) : CanonE (execResignRelease value s) := by
  unfold execResignRelease
  repeat' (first
    | with_reducible first | assumption | apply canon_answerWith | apply canon_number | apply canon_effResignRelease | apply canon_answerWith
    | intro _
    | dsimp -zeta only)

theorem canon_execTstArm (key : Nat) {s : State} (h_s : s.Canon) : CanonE (execTstArm key s) := by
  unfold execTstArm
  repeat' (first
    | with_reducible first | assumption | apply canon_answerWith | apply canon_number | apply canon_effTstArm | apply canon_answerWith
    | intro _
    | dsimp -zeta only)

theorem canon_execTstArmExpiry {s : State} (h_s : s.Canon) : CanonE (execTstArmExpiry s) := by
  unfold execTstArmExpiry
  repeat' (first
    | with_reducible first | assumption | apply canon_answerWith | apply canon_effTstArmExpiry | apply canon_answerWith
    | intro _
    | dsimp -zeta only)

theorem canon_execTstInject (unit inst : Nat) {s : State} (h_s : s.Canon) : CanonE (execTstInject unit inst s) := by
  unfold execTstInject
  repeat' (first
    | with_reducible first | assumption | apply canon_answerWith | apply canon_number | apply canon_effTstInject | apply canon_answerWith
    | intro _
    | dsimp -zeta only)

theorem canon_execInjectionOutcomeTimeout {s : State} (h_s : s.Canon) : CanonE (execInjectionOutcomeTimeout s) := by
  unfold execInjectionOutcomeTimeout
  repeat' (first
    | with_reducible first | assumption | apply canon_answerWith | apply canon_effInjectionOutcomeTimeout | apply canon_answerWith
    | intro _
    | dsimp -zeta only)

theorem canon_execJtagInstruction (code : Nat) {s : State} (h_s : s.Canon) : CanonE (execJtagInstruction code s) := by
  unfold execJtagInstruction
  repeat' (first
    | with_reducible first | assumption | apply canon_answerWith | apply canon_effJtagInstruction | apply canon_answerWith
    | intro _
    | dsimp -zeta only)

theorem canon_execVoidCell (c : CellHead) {s : State} (h_s : s.Canon) : CanonE (execVoidCell c s) := by
  unfold execVoidCell
  repeat' (first
    | with_reducible first | assumption | apply canon_answerWith | apply canon_effVoidCell | apply canon_answerWith
    | intro _
    | dsimp -zeta only)

theorem canon_execBadOpcode (board op page off bytes : Nat) (enumi : Bool) {s : State} (h_s : s.Canon) : CanonE (execBadOpcode board op page off bytes enumi s) := by
  unfold execBadOpcode
  repeat' (first
    | with_reducible first | assumption | apply canon_answerWith | apply canon_effBadOpcode | apply canon_answerWith
    | intro _
    | dsimp -zeta only)

theorem canon_execTrstN {s : State} (h_s : s.Canon) : CanonE (execTrstN s) := by
  unfold execTrstN
  repeat' (first
    | with_reducible first | assumption | apply canon_answerWith | apply canon_effTrstN | apply canon_answerWith
    | intro _
    | dsimp -zeta only)

end Sys2Proof.Machine
end

