-- ==== Sys2Proof/Laws/CanonTime.lean ====
section
/-! SUPPORT. The functions of Machine/Time.lean keep the canonical form. -/

namespace Sys2Proof.Machine

open Sys2Proof

set_option linter.all false

theorem canon_runTimer {s : State} (t : Tm) (h_s : s.Canon) : (State.runTimer s t).Canon := by
  unfold State.runTimer
  repeat' (first
    | with_reducible assumption
    | intro _
    | (simp only [canon_parts]; with_reducible first | exact parts_of (by assumption) | apply parts_of)
    | with_reducible first | apply canon_slotOut | apply canon_cellSlot | apply canon_selectTap | apply canon_takeoverStep | apply canon_levelStep | apply canon_scanStep | apply canon_askCheck | apply canon_askDiff | apply canon_rangeEnd | apply canon_capArm | apply canon_tapOpen | apply canon_rxServe | apply canon_rxReady | apply canon_withXmp | apply canon_frameStart | apply canon_soundSend | apply canon_kbzStop | apply canon_frameOut | apply canon_lockRecovered | apply canon_calCut | apply canon_xbOff | apply canon_simulAt | apply canon_entryHalt | apply canon_supplyBack | apply canon_tstMark | apply canon_softDone | refine canonP_use ?_ (by assumption)
    | split
    | dsimp -zeta only)

theorem canon_tickUptime {s : State} (h_s : s.Canon) : (State.tickUptime s).Canon := by
  unfold State.tickUptime
  repeat' (first
    | with_reducible first | assumption | apply canon_incMod | apply canon_ite
    | split
    | dsimp -zeta only)

theorem canon_tick {s : State} (h_s : s.Canon) : (State.tick s).Canon := by
  unfold State.tick
  repeat' (first
    | with_reducible assumption
    | (simp only [canon_parts]; with_reducible first | exact parts_of (by assumption) | apply parts_of)
    | with_reducible first | apply canon_tickAngle | apply canon_tickUptime
    | dsimp -zeta only)

theorem canon_elapse {s : State} (h_s : s.Canon) : (State.elapse s).Canon := by
  unfold State.elapse
  repeat' (first
    | with_reducible assumption
    | intro _
    | (extract_lets -merge +onlyGivenNames t_
       first
       | (refine canon_cut (s := t_) ?_ (fun h_ => ?_) <;> [subst t_; clear_value t_])
       | (refine canon_cut (s := t_.2) ?_ (fun h_ => ?_) <;> [subst t_; clear_value t_])
       | clear_value t_)
    | (simp only [canon_parts]; with_reducible first | exact parts_of (by assumption) | apply parts_of)
    | with_reducible first | apply canon_finish | apply canon_runTimer | apply canon_tick | apply canon_ite | apply canon_forEach | apply canon_foldl | apply canon_foldl1 | apply canon_foldl2 | apply canon_foldl22
    | split
    | dsimp -zeta only)

end Sys2Proof.Machine
end

