-- ==== Sys2Proof/Laws/Settle.lean ====
section
/-! SUPPORT. Laws of what follows a happening on its edge: where nothing waits, nothing follows. -/

namespace Sys2Proof.Machine

open Sys2Proof

theorem State.forEach_id {α : Type} (s : State) (l : List α) (f : State → α → State) (h : ∀ a ∈ l, f s a = s) :
    s.forEach l f = s := by
  unfold State.forEach
  induction l with
  | nil => rfl
  | cons a t ih => rw [List.foldl_cons, h a (by simp)]; exact ih fun b hb => h b (List.mem_cons_of_mem _ hb)

theorem State.takeEnds_none (n : Nat) (s : State) (h : s.wingEnds = []) : State.takeEnds n s = s := by
  cases n <;> simp [State.takeEnds, h]

theorem State.takeReports_none (s : State) (h : s.flt.reports = []) : s.takeReports = s := by
  unfold State.takeReports State.forEach
  rw [h]
  show ({ s with flt := { s.flt with reports := [] } } : State) = s
  rw [← h]

/-- Where nothing waits, nothing follows a happening. -/
theorem State.settle_calm (b u : State) (h : u.calm = true) : b.settle u = u := by
  unfold State.calm at h
  simp only [Bool.and_eq_true, Bool.not_eq_true', bne_iff_ne, ne_eq, beq_iff_eq, List.all_eq_true, List.isEmpty_iff,
    List.mem_range, Bool.or_eq_true] at h
  obtain ⟨⟨⟨⟨⟨⟨⟨⟨⟨⟨⟨⟨⟨⟨⟨⟨⟨h1, h2⟩, h3⟩, h4⟩, h5⟩, h6⟩, h7⟩, h8⟩, h9⟩, h10⟩, h11⟩, h12⟩, h13⟩, h14⟩, h15⟩, h16⟩, h17⟩, h18⟩ := h
  have e1 : State.takeEnds 8 u = u := State.takeEnds_none 8 u h1
  have e2 : u.takeReports = u := State.takeReports_none u h2
  have e3 : u.invSettleAll = u := by
    unfold State.invSettleAll
    exact State.forEach_id _ _ _ fun w hw => by
      unfold State.invSettle
      rw [if_neg (fun hc => h4 w (List.mem_range.1 hw) hc.1)]
  have e4 : u.calSettle = u := by
    unfold State.calSettle State.when
    simp [h5, h6, h7, h8, h9]
  have e5 : u.scoSettle = u := by
    unfold State.scoSettle State.scoLostRecord State.scoTakes
    simp [h10, h11]
  have e6 : u.pwrSettle = u := by
    unfold State.pwrSettle
    have a : u.entrySettle = u := by simp [State.entrySettle, h12]
    have b : u.refSwitch = u := by
      unfold State.refSwitch
      rcases h13 with (h | h) | h <;> simp [h]
    have c : u.synStop = u := by
      unfold State.synStop
      rcases h14 with h | h <;> simp [h]
    have d : u.giveModeRec = u := by
      unfold State.giveModeRec
      split <;> simp [h11]
    rw [a, a, a, b, c, d]
  have e7 : u.xmpInjSettle = u := by simp [State.xmpInjSettle, h15]
  have e8 : u.takeResign = u := by simp [State.takeResign, h3]
  have e9 : u.releaseTx8 = u := by simp [State.releaseTx8, h17]
  have e10 : u.releaseRx16 = u := by simp [State.releaseRx16, h18]
  unfold State.settle
  simp only [e9, e10, e1, e2, e3, e4, e5, e6, e7, e8]
  simp [State.autoIrqWord, h16]

/-- Where nothing waits, the answer is the effect with the queue as it was. -/
theorem State.finish_calm (b u : State) (h : u.calm = true) : b.finish u = { u with pending := b.pending } := by
  unfold State.finish; rw [State.settle_calm b u h]

/-- A command never touches the queue behind it. -/
@[simp] theorem State.finish_pending (b u : State) : (b.finish u).pending = b.pending := rfl

/-- A command whose answer is made of an effect with a property does that. -/
theorem does_of {c : Instr} {s u : State} {P : State → Prop} (h : exec c s = .next (s.finish u)) (hp : P u) : Does c s P :=
  ⟨u, h, hp, fun hc => by rw [h, State.finish_calm s u hc]⟩

end Sys2Proof.Machine
end

