-- ==== Sys2Proof/Tests/Slice0.lean ====
section
/-! SUPPORT. Tests: the checks of well-formedness refuse what is ill-formed, the spec's worked examples, the words of moves written out
from their tables, and for every statement with hypotheses a state and operands that meet them. -/

namespace Sys2Proof.Tests

open Sys2Proof Sys2Proof.Machine

set_option linter.all false
set_option Elab.async false

/-- A Board in RUN with CORE powered and CCLK running, nothing due: the state that the tests start from. -/
def up : State :=
  ({ State.reset with pwr := { State.reset.pwr with core := true, cclk := true }, now := 5000000, agenda := [] } : State).put pDEV DEV.STATUS_MODE 0

/-! ## Ill-formed commands -/

/-- An operand out of its range, one check at a time, in the commands of this family. -/
theorem test_ill_formed_registers_angle :
    (([.registerWrite .host 256 0 0 false, .registerWrite .host 0 256 0 false, .registerWrite .host 0 0 (2 ^ 40) false, .softReset 256,
    .ctrlEnableWrite 256 false, .lockWrite 256, .configWatchVisit (4608) 0, .configWatchVisit 0 (2 ^ 40), .vperiodWrite (2 ^ 40),
    .alarmFire (8) false] : List Instr).all fun c => !c.wf) = true := by decide +kernel

theorem test_well_formed_registers_angle :
    (([.registerWrite .host 0 0 0 false, .softReset 0, .ctrlEnableWrite 0 false, .lockWrite 0, .configWatchVisit 0 0, .vperiodWrite 0,
    .alarmFire 0 false] : List Instr).all fun c => c.wf) = true := by decide +kernel

/-- An operand out of its range, one check at a time, in the commands of this family. -/
theorem test_ill_formed_chain :
    (([.idleCell ⟨64, 0⟩ 0, .idleCell ⟨0, 64⟩ 0, .idleCell ⟨1, 2⟩ (2 ^ 40), .rateCell ⟨64, 0⟩ 0 0, .rateCell ⟨0, 64⟩ 0 0,
    .rateCell ⟨1, 2⟩ (64) 0, .rateCell ⟨1, 2⟩ 0 (2 ^ 34), .stateCell ⟨64, 0⟩ 0 0, .stateCell ⟨0, 64⟩ 0 0, .stateCell ⟨1, 2⟩ 256 0,
    .stateCell ⟨1, 2⟩ 0 (2 ^ 40), .countCell ⟨64, 0⟩ 0, .countCell ⟨0, 64⟩ 0, .countCell ⟨1, 2⟩ (2 ^ 40), .rangeStartCell ⟨64, 0⟩,
    .rangeStartCell ⟨0, 64⟩, .rangeResultCell ⟨64, 0⟩ 0, .rangeResultCell ⟨0, 64⟩ 0, .rangeResultCell ⟨1, 2⟩ (2 ^ 40),
    .helloCell ⟨64, 0⟩ 0, .helloCell ⟨0, 64⟩ 0, .helloCell ⟨1, 2⟩ (64), .launchCell ⟨64, 0⟩ 0 0, .launchCell ⟨0, 64⟩ 0 0,
    .launchCell ⟨1, 2⟩ 256 0, .launchCell ⟨1, 2⟩ 0 (2 ^ 40), .eventCell ⟨64, 0⟩ 48 0 0, .eventCell ⟨0, 64⟩ 48 0 0,
    .eventCell ⟨1, 2⟩ 47 0 0, .eventCell ⟨1, 2⟩ 64 0 0, .eventCell ⟨1, 2⟩ 48 (16) 0, .eventCell ⟨1, 2⟩ 48 0 (2 ^ 40),
    .reportCell ⟨64, 0⟩, .reportCell ⟨0, 64⟩, .badCell (2 ^ 80), .cellResend (16), .echoWindowEnd (List.replicate 65 0),
    .boardNum (2 ^ 40) false false, .postToken 256, .lslotFire (8) false, .chainLinkedDelivery 47 0, .chainLinkedDelivery 64 0,
    .chainLinkedDelivery 48 (2 ^ 40)] : List Instr).all fun c => !c.wf) = true := by decide +kernel

theorem test_well_formed_chain :
    (([.idleCell ⟨1, 2⟩ 0, .rateCell ⟨1, 2⟩ 0 0, .stateCell ⟨1, 2⟩ 0 0, .countCell ⟨1, 2⟩ 0, .rangeStartCell ⟨1, 2⟩,
    .rangeResultCell ⟨1, 2⟩ 0, .helloCell ⟨1, 2⟩ 0, .launchCell ⟨1, 2⟩ 0 0, .eventCell ⟨1, 2⟩ 48 0 0, .reportCell ⟨1, 2⟩, .badCell 0,
    .cellResend 0, .echoWindowEnd [], .boardNum 0 false false, .postToken 0, .lslotFire 0 false, .chainLinkedDelivery 48 0] : List Instr).all fun c
        => c.wf) = true := by decide +kernel

/-- An operand out of its range, one check at a time, in the commands of this family. -/
theorem test_ill_formed_fields :
    (([.switchReadbackFault 192, .tuneWrite .host 192 0, .tuneWrite .host 0 (2 ^ 40), .atuneStart 9, .atuneComplete 9 [],
    .atuneComplete 0 [(2 ^ 40)], .fieldLaunch 9, .plateau 9, .settleEnd 9, .rampDownEnd 9, .monitorMean 9 0 0 0,
    .monitorMean 0 (2 ^ 40) 0 0, .monitorMean 0 0 (2 ^ 40) 0, .monitorMean 0 0 0 (2 ^ 40), .paOvercurrent 9, .txcControlMismatch 9,
    .txc8Assign (16), .railLowering (4), .railAck (4)] : List Instr).all fun c => !c.wf) = true := by decide +kernel

theorem test_well_formed_fields :
    (([.switchReadbackFault 0, .tuneWrite .host 0 0, .atuneStart 0, .atuneComplete 0 [], .fieldLaunch 0, .plateau 0, .settleEnd 0,
    .rampDownEnd 0, .monitorMean 0 0 0 0, .paOvercurrent 0, .txcControlMismatch 0, .txc8Assign 0, .railLowering 0, .railAck 0] : List Instr).all fun
        c => c.wf) = true := by decide +kernel

/-- An operand out of its range, one check at a time, in the commands of this family. -/
theorem test_ill_formed_receive :
    (([.tapReadbackFault 17, .leakConverged 17 0 0 0, .leakConverged 0 (2 ^ 40) 0 0, .leakConverged 0 0 (2 ^ 40) 0,
    .leakConverged 0 0 0 (2 ^ 40), .checkToneBlock 17 0 0, .checkToneBlock 0 (2 ^ 40) 0, .checkToneBlock 0 0 (2 ^ 40),
    .rxcControlMismatch 17, .agcBlock 17 (List.replicate 8 0), .agcBlock 0 (List.replicate 9 0),
    .agcBlock 0 (List.replicate 8 (2 ^ 40)), .preambleDetect 17 [], .preambleDetect 0 [(2 ^ 40)],
    .fineTimingDecision 17 (List.replicate 128 0), .fineTimingDecision 0 (List.replicate 129 0),
    .fineTimingDecision 0 (List.replicate 128 (2 ^ 40)), .captureWatchFire 17 [], .captureWatchFire 0 [(2 ^ 40)],
    .legacyFrameStart 17 [], .legacyFrameEnd 17 false [], .captureStart 17, .captureStop 17 [], .captureStop 0 [(2 ^ 40)],
    .captureTrigger 17 0 [], .captureTrigger 0 (4) [], .captureTrigger 0 0 [(2 ^ 40)], .captureDone 17 [], .captureDone 0 [(2 ^ 40)],
    .captureOverrun 17 [], .captureOverrun 0 [(2 ^ 40)], .rxc16Assign (32)] : List Instr).all fun c => !c.wf) = true := by decide +kernel

theorem test_well_formed_receive :
    (([.tapReadbackFault 0, .leakConverged 0 0 0 0, .checkToneBlock 0 0 0, .rxcControlMismatch 0, .agcBlock 0 (List.replicate 8 0),
    .preambleDetect 0 [], .fineTimingDecision 0 (List.replicate 128 0), .captureWatchFire 0 [], .legacyFrameStart 0 [],
    .legacyFrameEnd 0 false [], .captureStart 0, .captureStop 0 [], .captureTrigger 0 0 [], .captureDone 0 [], .captureOverrun 0 [],
    .rxc16Assign 0] : List Instr).all fun c => c.wf) = true := by decide +kernel

/-- An operand out of its range, one check at a time, in the commands of this family. -/
theorem test_ill_formed_replies_inventory :
    (([.replyFrame 8 { broken := false }, .replyWaitEnd 8, .prtEngineMismatch 8, .blitzHeader 8 [], .blitzHeader 0 [(2 ^ 40)],
    .blitzFrameEnd 8 ⟨[1], [[2]]⟩, .blitzFrameEnd 0 ⟨[2 ^ 40], []⟩, .blitzFrameEnd 0 ⟨[], [[2 ^ 40]]⟩, .laneMismatch 8,
    .ping 192 ⟨0, 0, false⟩, .ping 0 ⟨2 ^ 40, 0, false⟩, .ping 0 ⟨0, 2 ^ 40, false⟩] : List Instr).all fun c => !c.wf) = true := by decide +kernel

theorem test_well_formed_replies_inventory :
    (([.replyFrame 0 { broken := false }, .replyWaitEnd 0, .prtEngineMismatch 0, .blitzHeader 0 [], .blitzFrameEnd 0 ⟨[1], [[2]]⟩,
    .laneMismatch 0, .ping 0 ⟨0, 0, false⟩] : List Instr).all fun c => c.wf) = true := by decide +kernel

/-- An operand out of its range, one check at a time, in the commands of this family. -/
theorem test_ill_formed_contexts :
    (([.contextStart .host 12, .contextAbort 12, .contextHalt 12, .moveFetch 12, .wingClaimGrant 8, .rfMoveLaunch 12 false,
    .lateLimitExpiry 12, .moveCompletion 12] : List Instr).all fun c => !c.wf) = true := by decide +kernel

theorem test_well_formed_contexts :
    (([.contextStart .host 0, .contextAbort 0, .contextHalt 0, .moveFetch 0, .wingClaimGrant 0, .rfMoveLaunch 0 false,
    .lateLimitExpiry 0, .moveCompletion 0] : List Instr).all fun c => c.wf) = true := by decide +kernel

/-- An operand out of its range, one check at a time, in the commands of this family. -/
theorem test_ill_formed_moves :
    (([.stop 12, .field 12 ⟨7, 1, 9, 5⟩ false 0, .field 0 ⟨8, 0, 0, 0⟩ false 0, .field 0 ⟨0, 4, 0, 0⟩ false 0,
    .field 0 ⟨0, 0, 2 ^ 13, 0⟩ false 0, .field 0 ⟨0, 0, 0, 2 ^ 40⟩ false 0, .field 0 ⟨7, 1, 9, 5⟩ false 256,
    .tune 12 ⟨7, 1, 9, 5⟩ false 0, .tune 0 ⟨8, 0, 0, 0⟩ false 0, .tune 0 ⟨0, 4, 0, 0⟩ false 0, .tune 0 ⟨0, 0, 2 ^ 13, 0⟩ false 0,
    .tune 0 ⟨0, 0, 0, 2 ^ 40⟩ false 0, .tune 0 ⟨7, 1, 9, 5⟩ false 256, .send 12 ⟨7, 1, 9, 5⟩ 0, .send 0 ⟨8, 0, 0, 0⟩ 0,
    .send 0 ⟨0, 4, 0, 0⟩ 0, .send 0 ⟨0, 0, 2 ^ 13, 0⟩ 0, .send 0 ⟨0, 0, 0, 2 ^ 40⟩ 0, .send 0 ⟨7, 1, 9, 5⟩ (2 ^ 40),
    .listen 12 ⟨7, 1, 9, 5⟩ ⟨true, 1, false, 2, 191, 500, 1, 4095, 9⟩,
    .listen 0 ⟨8, 0, 0, 0⟩ ⟨true, 1, false, 2, 191, 500, 1, 4095, 9⟩,
    .listen 0 ⟨0, 4, 0, 0⟩ ⟨true, 1, false, 2, 191, 500, 1, 4095, 9⟩,
    .listen 0 ⟨0, 0, 2 ^ 13, 0⟩ ⟨true, 1, false, 2, 191, 500, 1, 4095, 9⟩,
    .listen 0 ⟨0, 0, 0, 2 ^ 40⟩ ⟨true, 1, false, 2, 191, 500, 1, 4095, 9⟩,
    .listen 0 ⟨7, 1, 9, 5⟩ ⟨true, 2, false, 2, 191, 500, 1, 4095, 9⟩,
    .listen 0 ⟨7, 1, 9, 5⟩ ⟨true, 1, false, 4, 191, 500, 1, 4095, 9⟩,
    .listen 0 ⟨7, 1, 9, 5⟩ ⟨true, 1, false, 2, 256, 500, 1, 4095, 9⟩,
    .listen 0 ⟨7, 1, 9, 5⟩ ⟨true, 1, false, 2, 191, 2 ^ 40, 1, 4095, 9⟩,
    .listen 0 ⟨7, 1, 9, 5⟩ ⟨true, 1, false, 2, 191, 500, 8, 4095, 9⟩,
    .listen 0 ⟨7, 1, 9, 5⟩ ⟨true, 1, false, 2, 191, 500, 1, 4096, 9⟩,
    .listen 0 ⟨7, 1, 9, 5⟩ ⟨true, 1, false, 2, 191, 500, 1, 4095, 2 ^ 24⟩, .xchg 12 ⟨7, 1, 9, 5⟩ false false 0 0 0,
    .xchg 0 ⟨8, 0, 0, 0⟩ false false 0 0 0, .xchg 0 ⟨0, 4, 0, 0⟩ false false 0 0 0, .xchg 0 ⟨0, 0, 2 ^ 13, 0⟩ false false 0 0 0,
    .xchg 0 ⟨0, 0, 0, 2 ^ 40⟩ false false 0 0 0, .xchg 0 ⟨7, 1, 9, 5⟩ false false 256 0 0,
    .xchg 0 ⟨7, 1, 9, 5⟩ false false 0 (2 ^ 40) 0, .xchg 0 ⟨7, 1, 9, 5⟩ false false 0 0 (2 ^ 40),
    .anticoll 12 ⟨7, 1, 9, 5⟩ ⟨1, true, false, true, 20, 77, 400⟩, .anticoll 0 ⟨8, 0, 0, 0⟩ ⟨1, true, false, true, 20, 77, 400⟩,
    .anticoll 0 ⟨0, 4, 0, 0⟩ ⟨1, true, false, true, 20, 77, 400⟩, .anticoll 0 ⟨0, 0, 2 ^ 13, 0⟩ ⟨1, true, false, true, 20, 77, 400⟩,
    .anticoll 0 ⟨0, 0, 0, 2 ^ 40⟩ ⟨1, true, false, true, 20, 77, 400⟩, .anticoll 0 ⟨7, 1, 9, 5⟩ ⟨4, true, false, true, 20, 77, 400⟩,
    .anticoll 0 ⟨7, 1, 9, 5⟩ ⟨1, true, false, true, 64, 77, 400⟩, .anticoll 0 ⟨7, 1, 9, 5⟩ ⟨1, true, false, true, 20, 2 ^ 60, 400⟩,
    .anticoll 0 ⟨7, 1, 9, 5⟩ ⟨1, true, false, true, 20, 77, 2 ^ 21⟩, .anticoll 0 ⟨7, 1, 9, 5⟩ ⟨1, true, false, true, 20, 77, 401⟩,
    .inventory 12 false 0, .inventory 0 false (4), .sound 12 ⟨7, 1, 9, 5⟩ false, .sound 0 ⟨8, 0, 0, 0⟩ false,
    .sound 0 ⟨0, 4, 0, 0⟩ false, .sound 0 ⟨0, 0, 2 ^ 13, 0⟩ false, .sound 0 ⟨0, 0, 0, 2 ^ 40⟩ false, .book 12 ⟨7, 1, 9, 5⟩ false,
    .book 0 ⟨8, 0, 0, 0⟩ false, .book 0 ⟨0, 4, 0, 0⟩ false, .book 0 ⟨0, 0, 2 ^ 13, 0⟩ false, .book 0 ⟨0, 0, 0, 2 ^ 40⟩ false,
    .gambit 12 ⟨7, 1, 9, 5⟩ false, .gambit 0 ⟨8, 0, 0, 0⟩ false, .gambit 0 ⟨0, 4, 0, 0⟩ false, .gambit 0 ⟨0, 0, 2 ^ 13, 0⟩ false,
    .gambit 0 ⟨0, 0, 0, 2 ^ 40⟩ false, .seal 12 ⟨7, 1, 9, 5⟩ 0, .seal 31 ⟨7, 1, 9, 5⟩ 0, .seal 40 ⟨7, 1, 9, 5⟩ 0,
    .seal 32 ⟨8, 0, 0, 0⟩ 0, .seal 32 ⟨0, 4, 0, 0⟩ 0, .seal 32 ⟨0, 0, 2 ^ 13, 0⟩ 0, .seal 32 ⟨0, 0, 0, 2 ^ 40⟩ 0,
    .seal 32 ⟨7, 1, 9, 5⟩ (2 ^ 40), .waitAngle 12 0 0, .waitAngle 0 (4) 0, .waitAngle 0 0 (2 ^ 40), .waitAngleFire 12 false,
    .waitEvent 12 0 0, .waitEvent 0 (64) 0, .waitEvent 0 0 (2 ^ 32), .waitEventTimeout 12, .raise 12 0, .raise 0 (64),
    .branch 12 0 0 0 0, .branch 0 (16) 0 0 0, .branch 0 0 256 0 0, .branch 0 0 0 (4) 0, .branch 0 0 0 0 (2 ^ 40), .call 12 0,
    .call 0 (2 ^ 40), .ret 12, .load 12 false 0 0, .load 0 false (4) 0, .load 0 false 0 (2 ^ 40), .store 12 0 0, .store 0 (4) 0,
    .store 0 0 (2 ^ 40), .copy 12 0 0 0, .copy 0 (2 ^ 17) 0 0, .copy 0 0 (2 ^ 40) 0, .copy 0 0 0 (2 ^ 40), .log 12 0 0, .log 0 256 0,
    .log 0 0 (2 ^ 40)] : List Instr).all fun c => !c.wf) = true := by decide +kernel

theorem test_well_formed_moves :
    (([.stop 0, .field 0 ⟨7, 1, 9, 5⟩ false 0, .tune 0 ⟨7, 1, 9, 5⟩ false 0, .send 0 ⟨7, 1, 9, 5⟩ 0,
    .listen 0 ⟨7, 1, 9, 5⟩ ⟨true, 1, false, 2, 191, 500, 1, 4095, 9⟩, .xchg 0 ⟨7, 1, 9, 5⟩ false false 0 0 0,
    .anticoll 0 ⟨7, 1, 9, 5⟩ ⟨1, true, false, true, 20, 77, 400⟩, .inventory 0 false 0, .sound 0 ⟨7, 1, 9, 5⟩ false,
    .book 0 ⟨7, 1, 9, 5⟩ false, .gambit 0 ⟨7, 1, 9, 5⟩ false, .seal 32 ⟨7, 1, 9, 5⟩ 0, .waitAngle 0 0 0, .waitAngleFire 0 false,
    .waitEvent 0 0 0, .waitEventTimeout 0, .raise 0 0, .branch 0 0 0 0 0, .call 0 0, .ret 0, .load 0 false 0 0, .store 0 0 0,
    .copy 0 0 0 0, .log 0 0 0] : List Instr).all fun c => c.wf) = true := by decide +kernel

/-- An operand out of its range, one check at a time, in the commands of this family. -/
theorem test_ill_formed_events_background :
    (([.producerEvent (240) 0, .producerEvent 0 (17), .channelDelivery (64), .hostFire false (2 ^ 32), .gpioEdge (16) false,
    .calDue (27), .wingWindow (9), .calRunEnd (27) [], .calRunEnd 0 [(2 ^ 40)], .calStarved (27), .forcedWindow 8,
    .xbMeasurement [(2 ^ 40)], .xbPeer (512), .scoMount [⟨[⟨[256], false⟩]⟩], .scoMount [⟨[⟨List.replicate 65 0, false⟩]⟩],
    .remount [⟨[⟨[256], false⟩]⟩], .remount [⟨[⟨List.replicate 65 0, false⟩]⟩], .telNow ⟨65536, 2, 3, 4⟩, .telNow ⟨1, 65536, 3, 4⟩,
    .telNow ⟨1, 2, 65536, 4⟩, .telNow ⟨1, 2, 3, 65536⟩, .telemetryTimer ⟨65536, 2, 3, 4⟩, .telemetryTimer ⟨1, 65536, 3, 4⟩,
    .telemetryTimer ⟨1, 2, 65536, 4⟩, .telemetryTimer ⟨1, 2, 3, 65536⟩] : List Instr).all fun c => !c.wf) = true := by decide +kernel

theorem test_well_formed_events_background :
    (([.producerEvent 0 0, .channelDelivery 0, .hostFire false 0, .gpioEdge 0 false, .calDue 0, .wingWindow 0, .calRunEnd 0 [],
    .calStarved 0, .forcedWindow 0, .xbMeasurement [], .xbPeer 0, .scoMount [], .remount [], .telNow ⟨1, 2, 3, 4⟩,
    .telemetryTimer ⟨1, 2, 3, 4⟩] : List Instr).all fun c => c.wf) = true := by decide +kernel

/-- An operand out of its range, one check at a time, in the commands of this family. -/
theorem test_ill_formed_memory_checks :
    (([.sramRead (24 * 65536), .sramWrite (24 * 65536) 0, .sramWrite 0 (2 ^ 40), .codecMismatch (24 * 65536), .scbPeriodWrite (2 ^ 40),
    .memSelfTest (2 ^ 24), .memWindowRead (32), .memWindowWrite (32) 0, .memWindowWrite 0 (2 ^ 40), .ckuStart (4),
    .ckuData (4) 1 0 false, .ckuData 0 0 0 false, .ckuData 0 6 0 false, .ckuData 0 1 (2 ^ 40) false, .ckuEnd (4), .ckuRunWrite (4) 0,
    .ckuRunWrite 0 (2 ^ 40), .ckuLogicMismatch (4)] : List Instr).all fun c => !c.wf) = true := by decide +kernel

theorem test_well_formed_memory_checks :
    (([.sramRead 0, .sramWrite 0 0, .codecMismatch 0, .scbPeriodWrite 0, .memSelfTest 0, .memWindowRead 0, .memWindowWrite 0 0,
    .ckuStart 0, .ckuData 0 1 0 false, .ckuEnd 0, .ckuRunWrite 0 0, .ckuLogicMismatch 0] : List Instr).all fun c => c.wf) = true := by decide +kernel

/-- An operand out of its range, one check at a time, in the commands of this family. -/
theorem test_ill_formed_host_flash :
    (([.hostRead (64) 0 0 0 [] false, .hostRead 0 256 0 0 [] false, .hostRead 0 0 256 0 [] false,
    .hostWrite ⟨true, 64, 3, 16, [1], 0, 0, false⟩, .hostWrite ⟨true, 5, 256, 16, [1], 0, 0, false⟩,
    .hostWrite ⟨true, 5, 3, 256, [1], 0, 0, false⟩, .hostWrite ⟨true, 5, 3, 16, [256], 0, 0, false⟩,
    .hostWrite ⟨true, 5, 3, 16, [1], 8, 0, false⟩, .hostWrite ⟨true, 5, 3, 16, [1], 3, 8, false⟩, .status (64) false,
    .resignFrame (64) false, .rptPush (2 ^ 40), .discoveryEnd (List.replicate 3 ⟨true, true, 24, 8, [], true, []⟩),
    .lineFetch (2 ^ 26) [] false, .lineFetch 0 [256] false, .pageProgram (2) false, .eraseComplete (2) false, .xmpWindowRead (8),
    .xmpWindowWrite (8) 0, .xmpWindowWrite 0 (2 ^ 40)] : List Instr).all fun c => !c.wf) = true := by decide +kernel

theorem test_well_formed_host_flash :
    (([.hostRead 0 0 0 0 [] false, .hostWrite ⟨true, 5, 3, 16, [1], 0, 0, false⟩, .status 0 false, .resignFrame 0 false, .rptPush 0,
    .discoveryEnd [], .lineFetch 0 [] false, .pageProgram 0 false, .eraseComplete 0 false, .xmpWindowRead 0, .xmpWindowWrite 0 0] : List Instr).all
        fun c => c.wf) = true := by decide +kernel

/-- An operand out of its range, one check at a time, in the commands of this family. -/
theorem test_ill_formed_power_faults :
    (([.modeReq .host (8), .wakeSource (16), .pmbusTransaction (4) 0 .nack, .pmbusTransaction 0 256 .nack,
    .pmbusTransaction 0 0 (.ok 65536), .railAttemptTimeout (4), .powerGoodLost (4), .chipReset (2 ^ 40), .thermalReading (2 ^ 16),
    .supplyMonitorFault (3), .resignRelease (2 ^ 40), .tstArm 256, .tstInject 256 0, .tstInject 0 256, .jtagInstruction (32),
    .voidCell ⟨64, 0⟩, .voidCell ⟨0, 64⟩, .badOpcode (64) 0 0 0 0 false, .badOpcode 0 (8) 0 0 0 false, .badOpcode 0 0 256 0 0 false,
    .badOpcode 0 0 0 256 0 false] : List Instr).all fun c => !c.wf) = true := by decide +kernel

theorem test_well_formed_power_faults :
    (([.modeReq .host 0, .wakeSource 0, .pmbusTransaction 0 0 .nack, .railAttemptTimeout 0, .powerGoodLost 0, .chipReset 0,
    .thermalReading 0, .supplyMonitorFault 0, .resignRelease 0, .tstArm 0, .tstInject 0 0, .jtagInstruction 0, .voidCell ⟨1, 2⟩,
    .badOpcode 0 0 0 0 0 false] : List Instr).all fun c => c.wf) = true := by decide +kernel

/-! ## Worked examples of the spec and words of moves -/

/-- Samples of an answer on tone set 0: two long symbols, then the header 4, 0, 0 with its CRC on the tones between the pilots. -/
def blitzAnswer : List Nat :=
  let hdr := [4, 0, 0, crc8 [4, 0, 0]].flatMap fun b => (List.range 8).map b.testBit
  let z : Nat → Nat → Int := fun j i =>
    if j < 2 then (setTones 0).foldl (fun (a : Int) d => a + longTone d * cos64 (d * (i + 48))) 0
    else (mapBits (headerTones 0) (hdr.drop (16 * (j - 2)))).foldl (fun (a : Int) e => a + e.2.1 / 2 ^ 20 * cos64 (e.1 * (i + 48)))
      ((pilotTones 0).foldl (fun (a : Int) d => a + pilot (j - 2) * cos64 (d * (i + 48))) 0)
  (List.range 4).flatMap fun j => (List.range 80).map fun i => (z j i / 64 % 2 ^ 20).toNat * 2 ^ 20

/-- Samples whose pilots slip: one tone in the two long symbols, then that tone turned over. -/
def blitzSlip : List Nat :=
  let z : Nat → Nat → Int := fun j i => (if j < 2 then longTone 3 else -1) * cos64 (3 * (i + 48)) / 4
  (List.range 4).flatMap fun j => (List.range 80).map fun i => (z j i % 2 ^ 20).toNat * 2 ^ 20

/-- 50 Hz is a RATE of 64,867,942 (the example of R46). -/
theorem test_rate_at_50_hz : rateOf 4339200 = 64867942 := by decide +kernel

/-- ID of FIL17, CKU2 and DEV (the example of R31). -/
theorem test_page_ids : up.reg 0x51 0 = 0x4011010000 ∧ up.reg 0x0C 0 = 0x0A02010000 ∧ up.reg 0 0 = 0x0000010000 := by decide +kernel

/-- The check values of R336 over "123456789". -/
theorem test_check_values :
    crcA [0x31, 0x32, 0x33, 0x34, 0x35, 0x36, 0x37, 0x38, 0x39] = 0xBF05 ∧
    crcB [0x31, 0x32, 0x33, 0x34, 0x35, 0x36, 0x37, 0x38, 0x39] = 0x906E ∧
    crc32c [0x31, 0x32, 0x33, 0x34, 0x35, 0x36, 0x37, 0x38, 0x39] = 0xE3069283 ∧ crcA [0x50, 0x00] = 0xCD57 := by decide +kernel

/-- CKU2 runs CRC-32C over DATA5 and DATA4 as R337 says. -/
theorem test_check_unit_block :
    (((effCkuEnd 2 (effCkuData 2 4 0x0036373839 false (effCkuData 2 5 0x3132333435 false (effCkuStart 2
      (up.putB (pCKU 2) COM.ENABLE true |>.put (pCKU 2) CKU.CFG_POLY 3)))))).get (pCKU 2) CKU.RESULT_VALUE) = 0xE3069283 := by decide +kernel

/-- The injection example of R334: mask 0x10 gives the syndrome 0x13 of data bit 4, mask 0x11 an uncorrectable 0x14. -/
theorem test_injected_syndromes :
    ((freshWord 0 false).flip 0x10 0).syn = 0x13 ∧ ((freshWord 0 false).flip 0x10 0).fixed = 0 ∧
    ((freshWord 0 false).flip 0x11 0).syn = 0x14 ∧ ((freshWord 0 false).flip 0x11 0).isBad = true := by decide +kernel

/-- The auto-tune example: coarse minimum 18 at 88, fine minimum 3 at 93 (R96). -/
theorem test_auto_tune_scan :
    scanResult ((List.range 16).map (fun i => if i = 5 then 18 else 90) ++ (List.range 31).map (fun i => if i = 20 then 3 else 60)) =
      (93, 3) := by decide +kernel

/-- 64 steps with UP_DWELL 32 take 2,176 CCLK (the example of R101). -/
theorem test_ramp_length :
    (up.put (pTXC 5) TXC.RAMP_UP_STEPS 64 |>.put (pTXC 5) TXC.RAMP_UP_DWELL 32 |>.put (pTXC 8) TXC.CFG_SERVE 0 |>.chainRamp 5).upLen = 2176 := by decide +kernel

/-- The VNEED values of the example of R109, in 10 mV: 2.84 V, 3.56 V, 3.34 V with RLOAD 12.5 Ω. -/
theorem test_vneed : vneedOf 200 25 = 284 ∧ vneedOf 350 25 = 356 ∧ vneedOf 300 25 = 334 := by decide +kernel

/-- 800 mV at N = −12 is 0x0CCD (the example of R394). -/
theorem test_vout_command : voutCommand 800 0x14 = 0x0CCD := by decide +kernel

/-- A follower with OFFSET 316 and L = 40 advances an IDLE cell's angle to 0x2A07AFC0D6 (the example of R79). -/
theorem test_follower_advance :
    (0x2A07AF0000 * 2 ^ 16 + (up.put pMCH MCH.POSITION_POSITION 2 |>.put pMCH MCH.RANGE_OFFSET 316).chainAdvance 64867942) / 2 ^ 16 =
      0x2A07AFC0D6 := by decide +kernel

/-- A WRITE to FIL17's TUNE of rank 3 cut after 36 bits of data stores CAP 5 and logs PARTIAL (the example of R358). -/
theorem test_partial_write :
    let s := (up.put pDEV DEV.BOARD_NUM_NUM 4).put pHPT HPT.VLOG_PTR_WR 0
    let t := effHostWrite ⟨false, 4, 0x51, 0x13, [0x00, 0x00, 0x00, 0x00], 4, 5, false⟩ s
    t.get 0x51 (FIL.TUNE_CAP 3) = 5 ∧ t.hpt.result = 4 ∧ t.bit pHPT HPT.FLAG_PARTIAL = true ∧
      bits (t.get pHPT (HPT.VLOG_ENTRY 0)) 27 20 = 0x51 ∧ bits (t.get pHPT (HPT.VLOG_ENTRY 0)) 19 12 = 0x13 := by decide +kernel

/-- The Book of the worked example of R213: its sixteen codes, packed with ID 3 on tone set 0. -/
theorem test_book_words :
    bookOf 3 0 [4, 4, 3, 3, 4, 2, 0, 2, 4, 2, 1, 3, 4, 1, 2, 4] = (0x302B4146E4, 0x000088C654) := by decide +kernel

/-- The codes that the reset thresholds give the SNRs of the example, in 0.1 dB. -/
theorem test_book_codes :
    ([225, 210, 183, 199, 240, 135, 82, 169, 200, 120, 119, 174, 231, 90, 150, 260].map fun x => up.toneCode 4 x) =
      [4, 4, 3, 3, 4, 2, 0, 2, 4, 2, 1, 3, 4, 1, 2, 4] := by decide +kernel

/-- The collision threshold of R146: with COLL_DB 20 and the stronger half at 200,000, a weaker one of 25,000 is reported and one of
18,000 is not. -/
theorem test_collision_threshold :
    let s := (up.put (pRXC 0) RXC.COLL_COLL_DB 20).withRx 0 fun r => { r with noise := List.replicate 32 (1, 0) }
    (s.collides 0 (200000 ^ 2) (25000 ^ 2), s.collides 0 (200000 ^ 2) (18000 ^ 2)) = (true, false) := by decide +kernel

/-- The pilot register of R189 begins +1 and repeats after 127 symbols. -/
theorem test_pilots : pilot 0 = 1 ∧ ((List.range 8).map fun m => pilot (m + 127)) = ((List.range 8).map pilot) := by decide +kernel

/-- P139 lies in File 17 and Wing 5 (R91). -/
theorem test_port_geometry : (139 / 8, 139 % 8, 139 / 24) = (17, 3, 5) := by decide +kernel

/-- The words of RF moves, written out field by field from R255, R256 and R260, spell them. -/
theorem test_rf_move_words :
    decodeMove 3 [0b00001_1_101_10_0000000000011_0_0000000_10001011, 7, 0, 0] = some (.field 3 ⟨5, 2, 3, 7⟩ false 139) ∧
    decodeMove 3 [0b00010_1_111_00_1111111111111_1_0000000_10111111, 7, 0, 0] = some (.tune 3 ⟨7, 0, 8191, 7⟩ true 191) ∧
    decodeMove 3 [0b00011_1_001_01_0000000000001_0_0000000_00000000, 9, 0x1234, 0] = some (.send 3 ⟨1, 1, 1, 9⟩ 0x1234) ∧
    decodeMove 3 [0b00100_1_010_00_0000000000000_1_1_0_10_000_01000000, 0, 0x100, 0b011_0_000000011000_000000000000000000000101] =
      some (.listen 3 ⟨2, 0, 0, 0⟩ ⟨true, 1, false, 2, 64, 0x100, 3, 24, 5⟩) ∧
    decodeMove 3 [0b00101_1_010_00_0000000000000_1_0_1_00000_00000111, 0, 0x20, 0x30] =
      some (.xchg 3 ⟨2, 0, 0, 0⟩ true true 7 0x20 0x30) ∧
    decodeMove 3 [0b00110_1_010_00_0000000000000_11_1_0_1_00000_010000, 0, 0b0_00000000000000000010_0000000000000000011, 0xFFFF] =
      some (.anticoll 3 ⟨2, 0, 0, 0⟩ ⟨3, true, false, true, 16, 2 * 2 ^ 40 + 0xFFFF, 12⟩) ∧
    decodeMove 3 [0b01000_1_011_00_0000000000000_0_0_1_0000000000000, 0, 0, 0] = some (.sound 3 ⟨3, 0, 0, 0⟩ true) ∧
    decodeMove 3 [0b01001_1_011_00_0000000000000_0_0_0_0000000000000, 0, 0, 0] = some (.book 3 ⟨3, 0, 0, 0⟩ false) ∧
    decodeMove 3 [0b01010_1_011_00_0000000000000_0_0_1_0000000000000, 0, 0, 0] = some (.gambit 3 ⟨3, 0, 0, 0⟩ true) ∧
    decodeMove 3 [0b01011_1_011_00_0000000000000_0000000000000000, 0, 0x55, 0] = some (.seal 3 ⟨3, 0, 0, 0⟩ 0x55) := by decide +kernel

/-- The words of control moves, written out from R255, R256 and R262; an all-zero word is a STOP; a reserved opcode and a LONG that
does not match spell none. -/
theorem test_control_move_words :
    decodeMove 9 [0, 0] = some (.stop 9) ∧
    decodeMove 9 [0b00111_0_000_00_0000000000000_0000000000000_1_01, 0] = some (.inventory 9 true 1) ∧
    decodeMove 9 [0b01100_0_000_10_0000000000000_0000000000000000, 0x99] = some (.waitAngle 9 2 0x99) ∧
    decodeMove 9 [0b01101_0_000_00_0000000000000_0000000000_111111, 5] = some (.waitEvent 9 63 5) ∧
    decodeMove 9 [0b01110_0_000_00_0000000000000_0000000000_001001, 0] = some (.raise 9 9) ∧
    decodeMove 9 [0b01111_0_000_00_0000000000000_1000_00100111_00_10, 0x77] = some (.branch 9 8 39 2 0x77) ∧
    decodeMove 9 [0b10000_0_000_00_0000000000000_0000000000000000, 0x77] = some (.call 9 0x77) ∧
    decodeMove 9 [0b10001_0_000_00_0000000000000_0000000000000000, 0] = some (.ret 9) ∧
    decodeMove 9 [0b10010_0_000_00_0000000000000_0000000000000_1_11, 0x42] = some (.load 9 true 3 0x42) ∧
    decodeMove 9 [0b10011_0_000_00_0000000000000_00000000000000_01, 0x42] = some (.store 9 1 0x42) ∧
    decodeMove 9 [0b10100_1_000_00_0000000000000_0000000000000000, 65536, 8, 9] = some (.copy 9 65536 8 9) ∧
    decodeMove 9 [0b10101_0_000_00_0000000000000_00000000_10101010, 6] = some (.log 9 0xAA 6) ∧
    decodeMove 9 [0b10110_0_000_00_0000000000000_0000000000000000, 6] = none ∧
    decodeMove 9 [0b10101_1_000_00_0000000000000_0000000000000000, 6, 0, 0] = none := by decide +kernel

/-- A step takes the front command; with none the Board's time goes on. -/
theorem wit_StepRunsTheFront : ∃ (c : Instr) (rest : List Instr) (s : State), s.pending = c :: rest ∧ ∃ z : State, z.pending = [] :=
  ⟨.cycleBoundary, [.discover], { up with pending := [.cycleBoundary, .discover] }, rfl, up, rfl⟩

theorem wit_StepKeepsCanonical : ∃ s t : State, step s = .next t ∧ s.Canon := ⟨State.reset, _, rfl, canon_reset⟩

theorem wit_MoveRoundTrip : ∃ (m : Instr) (ws : List Nat), m.wf = true ∧ encodeMove m = some ws :=
  ⟨.branch 11 9 39 3 (2 ^ 40 - 1), _, by decide, rfl⟩

theorem wit_FaultsAreTakenUp :
    (∃ (s : State) (r : Report), s.flt.reports = [r] ∧ 1 ≤ r.info.cls ∧ r.info.cls < 16 ∧ r.page < 128 ∧ r.code < 256 ∧
      (s.recentlyRecorded r.info.cls = false ∨ r.info.cls = 13)) ∧
    (∃ (s : State) (r : Report), s.flt.reports = [r] ∧ 1 ≤ r.info.cls ∧ r.info.cls < 16 ∧ s.recentlyRecorded r.info.cls = true ∧
      r.info.cls ≠ 13) :=
  ⟨⟨{ up with flt := { up.flt with reports := [⟨127, 255, { cls := 15 }, [], [], false⟩] } }, _, rfl, by decide +kernel⟩,
   ⟨{ up with flt := { up.flt with reports := [⟨127, 255, { cls := 15 }, [], [], false⟩], recorded := [(15, up.now)] } }, _, rfl,
    by decide +kernel⟩⟩

theorem wit_Frames :
    (∃ (c : Instr) (l : List Nat), c.wf = true ∧ timingFrame c = some l) ∧
    (∃ (c : Instr) (l : List Nat), c.wf = true ∧ radioFrame c = some l) ∧
    (∃ (c : Instr) (l : List Nat), c.wf = true ∧ serviceFrame c = some l) :=
  ⟨⟨.lslotFire 7 true, _, by decide, rfl⟩, ⟨.txc8Assign 8, _, by decide, rfl⟩, ⟨.powerGoodLost 3, _, by decide, rfl⟩⟩

/-! ## The hypotheses of the statements are met -/

theorem wit_AngEnableDisable :
    (∃ (s : State), s.enabled pANG = false ∧ s.angRefused = false) ∧
    (∃ (s : State), s.enabled pANG = false ∧ s.angRefused = true) ∧
    (∃ (s : State), s.enabled pANG = true) :=
  ⟨⟨((fun (s : State) => (s.putB pANG COM.ENABLE false) |>.put pANG ANG.CFG_SRC (2) |>.put pANG ANG.VPERIOD_PERIOD 30000) up), by decide +kernel⟩,
   ⟨((fun (s : State) => s.putB pANG COM.ENABLE false |>.put pANG ANG.CFG_SRC 3) up), by decide +kernel⟩,
   ⟨((fun (s : State) => s.putB pANG COM.ENABLE true) up), by decide +kernel⟩⟩

theorem wit_AngBoundariesAndPeriod :
    (∃ (s : State), s.ang.running = true ∧ s.ang.src ≠ 1 ∧ s.ang.src ≠ 2 ∧ s.rateHeld (s.boundaryRate (s.angle / 2 ^ 32)) = false) ∧
    (∃ (s : State), s.ang.running = true ∧ s.ang.src = 1 ∧ s.rateHeld (rateOf (s.ang.periodNext.getD s.ang.period)) = false) ∧
    (∃ (s : State), s.enabled pANG = true ∧ s.ang.src = 0 ∧ s.ang.running = true) ∧
    (∃ (s : State), s.enabled pANG = true ∧ s.ang.src = 0 ∧ s.ang.running = false) ∧
    (∃ (s : State), s.enabled pANG = true ∧ s.ang.src = 0 ∧ s.ang.running = true) ∧
    (∃ (s : State), s.enabled pANG = true ∧ s.ang.src = 0 ∧ s.ang.running = true ∧ s.bit pANG ANG.STATUS_HOLDOVER = false ∧ orDefault 1
        s.ang.missLimit ≤ s.ang.missRun + 1) ∧
    (∃ (s : State) (v : Nat), s.locked pANG = false ∧ s.enabled pANG = true ∧ s.ang.src = 1 ∧ periodOk ((s.writeFields pANG 0x13 (word v)).get pANG
        ANG.VPERIOD_PERIOD) = true) ∧
    (∃ (s : State) (v : Nat), s.locked pANG = false ∧ s.enabled pANG = true ∧ s.ang.src = 1 ∧ periodOk ((s.writeFields pANG 0x13 (word v)).get pANG
        ANG.VPERIOD_PERIOD) = false) :=
  ⟨⟨((fun (s : State) => ((s.putB pMCH MCH.STATUS_RANGING false).withMch fun m => { m with rateHold := 0 }).withAng fun g =>
      { g with running := true, src := 0 }) up), by decide +kernel⟩,
   ⟨((fun (s : State) => ((s.putB pMCH MCH.STATUS_RANGING false).withMch fun m => { m with rateHold := 0 }).withAng fun g =>
       { g with running := true, src := 1 }) up), by decide +kernel⟩,
   ⟨((fun (s : State) => (s.putB pANG COM.ENABLE true).withAng fun g => { g with running := true, src := 0 }) up), by decide +kernel⟩,
   ⟨((fun (s : State) => (s.putB pANG COM.ENABLE true).withAng fun g => { g with running := false, src := 0 }) up), by decide +kernel⟩,
   ⟨((fun (s : State) => (s.putB pANG COM.ENABLE true).withAng fun g => { g with running := true, src := 0 }) up), by decide +kernel⟩,
   ⟨((fun (s : State) => ((s.putB pANG COM.ENABLE true).putB pANG ANG.STATUS_HOLDOVER false).withAng fun g =>
       { g with running := true, src := 0, missLimit := 3, missRun := 2 }) up), by decide +kernel⟩,
   ⟨((fun (s : State) => ((s.putB pANG COM.ENABLE true).putB pANG COM.LOCK false).withAng fun g => { g with src := 1 }) up), (21696),
       by decide +kernel⟩,
   ⟨((fun (s : State) => ((s.putB pANG COM.ENABLE true).putB pANG COM.LOCK false).withAng fun g => { g with src := 1 }) up), (5424001),
       by decide +kernel⟩⟩

theorem wit_AngAlarmsAndOutputs :
    (∃ (s : State) (n : Nat) (late : Bool), n < 8 ∧ s.enabled pANG = true ∧ s.bit pANG (ANG.ALARM_CTRL_ARM n) = true ∧ s.touched.writes.any (fun e =>
        e.1 == pANG * 256 + (ANG.ALARM_CTRL_ARM n).off) = false) ∧
    (∃ (s : State), s.enabled pANG = true ∧ s.ang.running = true ∧ s.bit pANG ANG.SYNC_OUT_EN = true ∧ s.get pANG ANG.SYNC_OUT_WIDTH ≠ 0) :=
  ⟨⟨((fun (s : State) => ((s.putB pANG COM.ENABLE true).putB pANG (ANG.ALARM_CTRL_ARM 7) true).when (0 % 2 == 0) fun s =>
      { s with touch := { s.touch with writes := [] } }) up), (7), (false), by decide +kernel⟩,
   ⟨((fun (s : State) => ((s.putB pANG COM.ENABLE true).putB pANG ANG.SYNC_OUT_EN true |>.put pANG ANG.SYNC_OUT_WIDTH 1).withAng fun g =>
       { g with running := true }) up), by decide +kernel⟩⟩

theorem wit_ChainRoleAndDiscovery :
    (∃ (s : State) (toggles : Bool), s.mch.roleSet = false) ∧
    (∃ (s : State) (toggles : Bool), s.mch.roleSet = true) ∧
    (∃ (s : State), s.coreRuns = true ∧ s.isHead = true ∧ s.enabled pMCH = true ∧ s.mayOriginate 3 = true) ∧
    (∃ (s : State), s.coreRuns = true ∧ s.isHead = true ∧ s.enabled pMCH = true ∧ s.bit pMCH MCH.STATUS_RING_OK = false) ∧
    (∃ (s : State) (h : CellHead) (position : Nat), s.takesCells 5 = true ∧ s.enabled pMCH = true ∧ s.mch.aligned = true ∧ s.isHead = true ∧ s.bit
        pMCH MCH.STATUS_RANGING = false ∧ h.src ≠ s.boardNum ∧ s.dupCell 5 h = false) :=
  ⟨⟨((fun (s : State) => s.withMch fun m => { m with roleSet := false }) up), (false), by decide +kernel⟩,
   ⟨((fun (s : State) => s.withMch fun m => { m with roleSet := true }) up), (false), by decide +kernel⟩,
   ⟨((fun (s : State) => ((s.putB pMCH COM.ENABLE true |>.putB pMCH MCH.STATUS_RANGING false).withMch fun m =>
       { m with head := true, aligned := true, lost := false })) up), by decide +kernel⟩,
   ⟨((fun (s : State) => ((s.putB pMCH COM.ENABLE true |>.putB pMCH MCH.STATUS_RANGING false).withMch fun m =>
       { m with head := true, aligned := true }).putB pMCH MCH.STATUS_RING_OK false) up), by decide +kernel⟩,
   ⟨((fun (s : State) => ((s.putB pMCH COM.ENABLE true |>.putB pMCH MCH.STATUS_RANGING false).withMch fun m =>
       { m with head := true, aligned := true, seen := [] })) up), (⟨3, 1⟩), (2), by decide +kernel⟩⟩

theorem wit_ChainFreeSlots :
    (∃ (s : State) (h : CellHead) (angle : Nat), s.takesCells 0 = true ∧ s.enabled pMCH = true ∧ s.mch.aligned = true ∧ s.isHead = false ∧ s.dupCell
        0 h = false ∧ s.enabled pANG = true ∧ s.ang.src = 2 ∧ s.ang.running = false ∧ s.bit pMCH MCH.STATUS_RANGED = true ∧ s.mch.gotRate = true) ∧
    (∃ (s : State) (h : CellHead), s.takesCells 15 = true ∧ s.isHead = false) ∧
    (∃ (s : State) (h : CellHead), s.takesCells 15 = true ∧ s.bit pMCH MCH.STATUS_RANGING = false ∧ s.isHead = true ∧ s.enabled pMCH = true) :=
  ⟨⟨((fun (s : State) => (((s.putB pMCH COM.ENABLE true |>.putB pMCH MCH.STATUS_RANGING false).withMch fun m =>
      { m with head := false, aligned := true, gotRate := true, seen := [] }).putB pMCH MCH.STATUS_RANGED true |>.putB pANG COM.ENABLE true).withAng
      fun g => { g with running := false, src := 2 }) up), (⟨3, 1⟩), (1000000), by decide +kernel⟩,
   ⟨((fun (s : State) => ((s.putB pMCH COM.ENABLE true |>.putB pMCH MCH.STATUS_RANGING false).withMch fun m =>
       { m with head := false, aligned := true })) up), (⟨3, 1⟩), by decide +kernel⟩,
   ⟨((fun (s : State) => ((s.putB pMCH COM.ENABLE true |>.putB pMCH MCH.STATUS_RANGING false).withMch fun m =>
       { m with head := true, aligned := true })) up), (⟨3, 1⟩), by decide +kernel⟩⟩

theorem wit_ChainHeadCells :
    (∃ (s : State) (h : CellHead) (boundary : Nat) (rate : Nat), s.takesCells 1 = true ∧ s.enabled pMCH = true ∧ s.mch.aligned = true ∧ s.isHead =
        false ∧ s.dupCell 1 h = false ∧ s.enabled pANG = true ∧ s.bit pMCH MCH.STATUS_RANGED = true ∧ s.ang.src = 2 ∧ s.ang.running = true) ∧
    (∃ (s : State) (h : CellHead) (tag : Nat) (count : Nat), s.takesCells 2 = true ∧ s.enabled pMCH = true ∧ s.mch.aligned = true ∧ s.isHead = false
        ∧ s.dupCell 2 h = false) ∧
    (∃ (s : State) (h : CellHead) (count : Nat), s.takesCells 3 = true ∧ s.enabled pMCH = true ∧ s.mch.aligned = true ∧ s.isHead = false ∧ s.dupCell
        3 h = false) ∧
    (∃ (s : State) (h : CellHead) (count : Nat), s.takesCells 3 = true ∧ s.enabled pMCH = true ∧ s.mch.aligned = true ∧ s.isHead = true) ∧
    (∃ (s : State) (h : CellHead) (count : Nat), s.takesCells 3 = true ∧ s.enabled pMCH = true ∧ s.mch.aligned = true ∧ s.isHead = false ∧ s.dupCell
        3 h = true) :=
  ⟨⟨((fun (s : State) => ((s.putB pMCH COM.ENABLE true |>.putB pMCH MCH.STATUS_RANGING false).withMch fun m =>
      { m with head := false, aligned := true, seen := [] }).putB pANG COM.ENABLE true |>.putB pMCH MCH.STATUS_RANGED true |>.withAng fun g =>
      { g with running := true, src := 2 }) up), (⟨3, 1⟩), (5), (7000), by decide +kernel⟩,
   ⟨((fun (s : State) => ((s.putB pMCH COM.ENABLE true |>.putB pMCH MCH.STATUS_RANGING false).withMch fun m =>
       { m with head := false, aligned := true, seen := [] })) up), (⟨3, 1⟩), (0 % 8), (9), by decide +kernel⟩,
   ⟨((fun (s : State) => ((s.putB pMCH COM.ENABLE true |>.putB pMCH MCH.STATUS_RANGING false).withMch fun m =>
       { m with head := false, aligned := true, seen := [] })) up), (⟨3, 1⟩), (62), by decide +kernel⟩,
   ⟨((fun (s : State) => ((s.putB pMCH COM.ENABLE true |>.putB pMCH MCH.STATUS_RANGING false).withMch fun m =>
       { m with head := true, aligned := true })) up), (⟨3, 1⟩), (4), by decide +kernel⟩,
   ⟨((fun (s : State) => ((s.putB pMCH COM.ENABLE true |>.putB pMCH MCH.STATUS_RANGING false).withMch fun m =>
       { m with head := false, aligned := true, seen := [(3 * 16 + 3, 1)] })) up), (⟨3, 1⟩), (4), by decide +kernel⟩⟩

theorem wit_ChainRanging :
    (∃ (s : State), s.coreRuns = true ∧ s.isHead = true ∧ s.enabled pMCH = true ∧ s.mayOriginate 4 = true ∧ s.bit pMCH MCH.STATUS_RANGING = false ∧
        s.mch.queue.any (fun c => c.type == 4) = false) ∧
    (∃ (s : State) (h : CellHead), s.takesCells 4 = true ∧ s.enabled pMCH = true ∧ s.mch.aligned = true ∧ s.isHead = false ∧ s.dupCell 4 h = false) ∧
    (∃ (s : State) (trips : List Nat), s.forwards = true ∧ s.bit pMCH MCH.STATUS_RANGING = true) ∧
    (∃ (s : State) (h : CellHead) (v : Nat), s.takesCells 4 = true ∧ s.enabled pMCH = true ∧ s.mch.aligned = true ∧ s.isHead = false ∧ s.dupCell 4 h
        = false ∧ v ≠ 0xFFFFFFFFFF) ∧
    (∃ (s : State) (h : CellHead) (v : Nat), s.takesCells 4 = true ∧ s.enabled pMCH = true ∧ s.mch.aligned = true ∧ s.isHead = false ∧ s.dupCell 4 h
        = false ∧ v = 0xFFFFFFFFFF) :=
  ⟨⟨((fun (s : State) => ((s.putB pMCH COM.ENABLE true |>.putB pMCH MCH.STATUS_RANGING false).withMch fun m =>
      { m with head := true, aligned := true, lost := false })) up), by decide +kernel⟩,
   ⟨((fun (s : State) => ((s.putB pMCH COM.ENABLE true |>.putB pMCH MCH.STATUS_RANGING false).withMch fun m =>
       { m with head := false, aligned := true, seen := [] })) up), (⟨3, 1⟩), by decide +kernel⟩,
   ⟨((fun (s : State) => s.putB pMCH MCH.STATUS_RANGING true) up), (List.replicate 65 90000), by decide +kernel⟩,
   ⟨((fun (s : State) => ((s.putB pMCH COM.ENABLE true |>.putB pMCH MCH.STATUS_RANGING false).withMch fun m =>
       { m with head := false, aligned := true, seen := [] })) up), (⟨3, 1⟩), (0xFFFFFFFE), by decide +kernel⟩,
   ⟨((fun (s : State) => ((s.putB pMCH COM.ENABLE true |>.putB pMCH MCH.STATUS_RANGING false).withMch fun m =>
       { m with head := false, aligned := true, seen := [] })) up), (⟨3, 1⟩), (0xFFFFFFFFFF), by decide +kernel⟩⟩

theorem wit_ChainTokens :
    (∃ (s : State) (token : Nat), s.coreRuns = true ∧ s.boardNum ≠ 62 ∧ s.mayOriginate 6 = true) ∧
    (∃ (s : State) (h : CellHead) (token : Nat) (angle : Nat) (n : Nat), s.takesCells 6 = true ∧ s.enabled pMCH = true ∧ s.mch.aligned = true ∧
        s.isHead = false ∧ s.dupCell 6 h = false ∧ n < 8 ∧ s.enabled pANG = true ∧ s.bit pMCH (MCH.LSLOT_CFG_EN n) = true ∧ s.get pMCH
        (MCH.LSLOT_CFG_TOKEN n) = token ∧ h.src ≠ s.boardNum) ∧
    (∃ (s : State) (n : Nat) (late : Bool), s.coreRuns = true ∧ n < 8 ∧ s.enabled pMCH = true ∧ s.enabled pANG = true) ∧
    (∃ (s : State) (h : CellHead), s.takesCells 8 = true ∧ s.enabled pMCH = true ∧ s.mch.aligned = true ∧ (h.src = s.boardNum ∨ s.dupCell 8 h =
        false) ∧ s.bit pMCH MCH.STATUS_TOKEN_HELD = false ∧ s.bit pMCH MCH.CFG_REPORT_EN = true ∧ s.wordsPending = true ∧ s.mayOriginate 8 = true) ∧
    (∃ (s : State), s.coreRuns = true ∧ s.bit pMCH MCH.STATUS_TOKEN_HELD = true ∧ s.bit pHPT HPT.STATUS_MASTERING = false ∧ (s.isHead = false ∨ s.bit
        pMCH MCH.CFG_REPORT_EN = true) ∧ s.mayOriginate 8 = true) ∧
    (∃ (s : State), s.coreRuns = true ∧ s.enabled pMCH = true ∧ s.mch.rangedOnce = true ∧ s.isHead = true ∧ s.bit pMCH MCH.CFG_REPORT_EN = true ∧
        s.mayOriginate 8 = true) :=
  ⟨⟨((fun (s : State) => ((s.putB pMCH COM.ENABLE true |>.putB pMCH MCH.STATUS_RANGING false).withMch fun m =>
      { m with head := false, aligned := true, lost := false, dup := false }).put pDEV DEV.BOARD_NUM_NUM 61) up), (255), by decide +kernel⟩,
   ⟨((fun (s : State) => (((s.putB pMCH COM.ENABLE true |>.putB pMCH MCH.STATUS_RANGING false).withMch fun m =>
       { m with head := false, aligned := true, seen := [] }).putB pANG COM.ENABLE true).putB pMCH (MCH.LSLOT_CFG_EN 7) true |>.put pMCH
       (MCH.LSLOT_CFG_TOKEN 7) 200) up), (⟨3, 1⟩), (200), (77777777), (7), by decide +kernel⟩,
   ⟨((fun (s : State) => (s.putB pMCH COM.ENABLE true).putB pANG COM.ENABLE true) up), (7), (false), by decide +kernel⟩,
   ⟨((fun (s : State) => (fun (s : State) => { s with hpt := { s.hpt with rpt := [1] } }) (((s.putB pMCH COM.ENABLE true |>.putB pMCH
       MCH.STATUS_RANGING false).withMch fun m => { m with head := true, aligned := true, dup := false, lost := false, seen := [] }).putB pMCH
       MCH.STATUS_TOKEN_HELD false |>.putB pMCH MCH.CFG_REPORT_EN true |>.putB pHPT HPT.RPT_CFG_MASTER_EN true)) up), (⟨3, 1⟩), by decide +kernel⟩,
   ⟨((fun (s : State) => ((s.putB pMCH COM.ENABLE true |>.putB pMCH MCH.STATUS_RANGING false).withMch fun m =>
       { m with head := false, aligned := true, lost := false, dup := false }).putB pMCH MCH.STATUS_TOKEN_HELD true |>.putB pHPT HPT.STATUS_MASTERING
       false |>.put pDEV DEV.BOARD_NUM_NUM 61) up), by decide +kernel⟩,
   ⟨((fun (s : State) => ((s.putB pMCH COM.ENABLE true |>.putB pMCH MCH.STATUS_RANGING false).withMch fun m =>
       { m with head := true, aligned := true, lost := false, dup := false, rangedOnce := true }).putB pMCH MCH.CFG_REPORT_EN true) up),
       by decide +kernel⟩⟩

theorem wit_ChainErrors :
    (∃ (s : State) (word : Nat), s.forwards = true ∧ wordBad word = true) ∧
    (∃ (s : State) (type : Nat) (f : Flight), s.forwards = true ∧ s.enabled pMCH = true ∧ (s.mch.flights.find? fun f => f.cell.type == type) = some f
        ∧ s.isHead = false ∧ f.copy = false ∧ s.bit pMCH MCH.CFG_RESEND_EN = true ∧ s.mayOriginate type = true) ∧
    (∃ (s : State) (type : Nat) (f : Flight), s.forwards = true ∧ s.enabled pMCH = true ∧ (s.mch.flights.find? fun f => f.cell.type == type) = some f
        ∧ f.copy = true) ∧
    (∃ (s : State) (type : Nat) (f : Flight), s.forwards = true ∧ s.enabled pMCH = true ∧ (s.mch.flights.find? fun f => f.cell.type == type) = some f
        ∧ f.copy = false ∧ s.bit pMCH MCH.CFG_RESEND_EN = false) ∧
    (∃ (s : State) (mclk : Bool), s.coreUp = true ∧ s.mch.roleSet = true ∧ s.isHead = false ∧ s.bit pMCH MCH.STATUS_ANGLE_OK = true ∧ (mclk = true ∨
        s.bit pMCH MCH.STATUS_RANGING = false)) ∧
    (∃ (s : State) (h : CellHead) (ch : Nat) (hop : Nat) (angle : Nat), s.takesCells 7 = true ∧ s.enabled pMCH = true ∧ s.mch.aligned = true ∧
        s.isHead = false ∧ s.dupCell 7 h = false ∧ h.src ≠ s.boardNum ∧ 48 ≤ ch ∧ ch < 64 ∧ s.channelOn ch = true ∧ s.chainLinked ch = true ∧
        s.enabled pANG = true ∧ (s.deliveries.filter fun e => e.ch == ch).length + s.fires.count (ch, s.now) < 4) :=
  ⟨⟨((fun (s : State) => s) up), (0xB4), by decide +kernel⟩,
   ⟨((fun (s : State) => ((s.putB pMCH COM.ENABLE true |>.putB pMCH MCH.STATUS_RANGING false).withMch fun m =>
       { m with head := false, aligned := true, flights := [⟨⟨6, 1, 2, 3, 4⟩, 9, false⟩], dup := false, lost := false }).putB pMCH MCH.CFG_RESEND_EN
       true |>.put pDEV DEV.BOARD_NUM_NUM 61) up), (6), (⟨⟨6, 1, 2, 3, 4⟩, 9, false⟩), by decide +kernel⟩,
   ⟨((fun (s : State) => ((s.putB pMCH COM.ENABLE true |>.putB pMCH MCH.STATUS_RANGING false).withMch fun m =>
       { m with head := false, aligned := true, flights := [⟨⟨6, 1, 2, 3, 4⟩, 9, true⟩] })) up), (6), (⟨⟨6, 1, 2, 3, 4⟩, 9, true⟩),
       by decide +kernel⟩,
   ⟨((fun (s : State) => ((s.putB pMCH COM.ENABLE true |>.putB pMCH MCH.STATUS_RANGING false).withMch fun m =>
       { m with head := true, aligned := true, flights := [⟨⟨6, 1, 2, 3, 4⟩, 9, false⟩] }).putB pMCH MCH.CFG_RESEND_EN false |>.putB pMCH
       MCH.STATUS_RING_OK true) up), (6), (⟨⟨6, 1, 2, 3, 4⟩, 9, false⟩), by decide +kernel⟩,
   ⟨((fun (s : State) => ((s.putB pMCH COM.ENABLE true |>.putB pMCH MCH.STATUS_RANGING false).withMch fun m =>
       { m with head := false, aligned := true, roleSet := true }).putB pMCH MCH.STATUS_ANGLE_OK true) up), (true), by decide +kernel⟩,
   ⟨((fun (s : State) =>
       ({ (((s.putB pMCH COM.ENABLE true |>.putB pMCH MCH.STATUS_RANGING false).withMch fun m => { m with head := false, aligned := true, seen := [] }).putB pANG COM.ENABLE true |>.putB pARB COM.ENABLE true |>.putB (pEVT 7) COM.ENABLE true |>.putB (pEVT 7) (EVT.CH_CFG_EN 7) true |>.putB (pEVT 7) (EVT.CH_CFG_CHAIN 7) true) with touch := State.reset.touch } : State)) up), (⟨3, 1⟩), (63), (15), (3), by decide +kernel⟩⟩

theorem wit_FieldOn :
    (∃ (s : State) (n : Nat), s.coreRuns = true ∧ n < 9 ∧ s.txc.length = 9 ∧ (s.tx n).takeover = 0 ∧ s.fieldSt n = 1 ∧ (s.tx n).fired = true ∧ (s.tx
        n).act = 1 ∧ (s.tx n).capt = none ∧ s.noField n = false ∧ s.portOk (s.tx n).port = true ∧ s.inReach n (s.tx n).port = true ∧ s.mustWait n =
        false ∧ (s.railCtl (s.txRail n) ≠ 0 ∨ s.railState (s.txRail n) ≠ 4) ∧ (s.tx n).swAt ≤ s.now ∧ (s.chainRamp n).ok = true) ∧
    (∃ (s : State) (n : Nat), s.coreRuns = true ∧ n < 9 ∧ s.txc.length = 9 ∧ s.fieldSt n = 2 ∧ (s.tx n).act = 4 ∧ (n ≠ 8 ∨ (s.tx n).takeover ≠ 3)) ∧
    (∃ (s : State) (n : Nat), s.coreRuns = true ∧ n < 9 ∧ s.fieldSt n = 3) :=
  ⟨⟨((fun (s : State) => ((s.setField 0 1).setField 8 0 |>.setField 1 0 |>.setField 2 0 |>.setField 3 0 |>.setField 4 0 |>.setField 5 0 |>.setField 6
      0 |>.setField 7 0 |>.putB pCLK CLK.STATUS_SYN_LOCK true |>.put pPWR (PWR.RAIL_CFG_CTL 2) 1 |>.put pPWR PWR.STATUS_RAIL 15 |>.put (pTXC 0) ⟨7,
      3, 1⟩ 0 |>.put (pTXC 8) TXC.CFG_SERVE 0 |>.put pFLT ⟨2, 39, 0⟩ 0 |>.put pPWR (PWR.RAIL_STAT_STATE 2) 3 |>.put (pTXC 0) TXC.RAMP_UP_STEPS 32
      |>.put (pTXC 0) TXC.RAMP_UP_DWELL 2 |>.put (pTXC 0) TXC.RAMP_DOWN_STEPS 0 |>.putB (pFIL 0) COM.ENABLE true |>.putB (pFIL 0) (FIL.PORT_FITTED 3)
      true).withTx 0 fun t => { t with fired := true, act := 1, sw := some 3, port := 3 }) up), (0), by decide +kernel⟩,
   ⟨((fun (s : State) => (s.setField 7 2).withTx 7 fun t => { t with act := 4, sw := some 170 }) up), (7), by decide +kernel⟩,
   ⟨((fun (s : State) => (s.setField 8 3).withTx 8 fun t => { t with act := 4 }) up), (8), by decide +kernel⟩⟩

theorem wit_FieldOff :
    (∃ (s : State) (n : Nat), s.coreRuns = true ∧ n < 9 ∧ s.txc.length = 9 ∧ (s.tx n).takeover = 0 ∧ s.fieldSt n = 4 ∧ (s.tx n).fired = true ∧ (s.tx
        n).act = 2) ∧
    (∃ (s : State) (n : Nat), s.coreUp = true ∧ n < 9 ∧ s.txc.length = 9 ∧ s.fieldSt n = 5 ∧ (s.tx n).next = none ∧ (s.tx n).act = 6) ∧
    (∃ (s : State) (n : Nat), s.coreUp = true ∧ n < 9 ∧ s.txc.length = 9 ∧ s.fieldSt n = 0 ∧ (s.tx n).opening = true) :=
  ⟨⟨((fun (s : State) => (s.setField 3 4).withTx 3 fun t => { t with fired := true, act := 2, ramp := Ramp.plain }) up), (3), by decide +kernel⟩,
   ⟨((fun (s : State) => (s.setField 3 5).withTx 3 fun t => { t with act := 6, sw := some 75 }) up), (3), by decide +kernel⟩,
   ⟨((fun (s : State) => (s.setField 3 0).withTx 3 fun t => { t with opening := true, sw := some 75 }) up), (3), by decide +kernel⟩⟩

theorem wit_TuneRuns :
    (∃ (s : State) (n : Nat), s.coreUp = true ∧ n < 8 ∧ s.txc.length = 9 ∧ s.tx8Serve ≠ n + 1 ∧ s.enabled (pTXC n) = true ∧ s.portOk (s.get (pTXC n)
        TXC.ATUNE_PORT) = true ∧ s.inReach n (s.get (pTXC n) TXC.ATUNE_PORT) = true ∧ s.fieldSt n = 0 ∧ (s.tx n).act = 0 ∧ ((s.tx 8).takeover = 0 ∨
        (s.tx 8).tookPort ≠ n) ∧ s.noField n = false ∧ s.enabled pCLK = true ∧ s.get pCLK CLK.STATUS_SRC ≠ 0 ∧ s.railCtl (s.txRail n) ≠ 2 ∧
        s.railState (s.txRail n) ≠ 4) ∧
    (∃ (s : State) (n : Nat) (gammas : List Nat), s.coreRuns = true ∧ n < 9 ∧ s.txc.length = 9 ∧ (s.fieldSt n = 7 ∨ ((s.tx n).scanning = true ∧
        (s.fieldSt n = 5 ∨ s.fieldSt n = 0))) ∧ (s.tx n).act = 3 ∧ (s.tx n).held = none ∧ (s.tx n).port < 192 ∧ (s.tx n).resPage = pTXC n ∧ (s.tx
        n).tunePage = pTXC n) ∧
    (∃ (s : State) (n : Nat), s.coreUp = true ∧ n < 8 ∧ s.tx8Serve ≠ n + 1 ∧ s.enabled (pTXC n) = true ∧ s.portOk (s.get (pTXC n) TXC.ATUNE_PORT) =
        false ∧ (s.tx n).act = 0) ∧
    (∃ (s : State) (src : Src) (port : Nat) (value : Nat) (r : RegRow), port < 192 ∧ s.coreUp = true ∧ regRow (pFIL (port / 8)) (0x10 + port % 8) =
        some r ∧ s.writtenAfter (pFIL (port / 8) * 256 + (0x10 + port % 8)) (writeRank src) = false) :=
  ⟨⟨((fun (s : State) => (s.setField 1 0).put (pTXC 8) TXC.CFG_SERVE 0 |>.putB (pTXC 1) COM.ENABLE true |>.put (pTXC 1) TXC.ATUNE_PORT 47 |>.putB
      (pFIL 5) COM.ENABLE true |>.putB (pFIL 5) (FIL.PORT_FITTED 7) true |>.put (pTXC 1) ⟨7, 3, 1⟩ 0 |>.put pFLT ⟨2, 39, 0⟩ 0 |>.putB pCLK COM.ENABLE
      true |>.put pCLK CLK.STATUS_SRC 1 |>.put pPWR (PWR.RAIL_CFG_CTL 2) 1 |>.put pPWR (PWR.RAIL_STAT_STATE 2) 0) up), (1), by decide +kernel⟩,
   ⟨((fun (s : State) => (s.setField 2 7).withTx 2 fun t => { t with act := 3, port := 48 + 0 % 24, resPage := pTXC 2, tunePage := pTXC 2 }) up),
       (2), ((List.range 46).map fun i => 255 - 2 * i), by decide +kernel⟩,
   ⟨((fun (s : State) => s.put (pTXC 8) TXC.CFG_SERVE 0 |>.putB (pTXC 1) COM.ENABLE true |>.put (pTXC 1) TXC.ATUNE_PORT 200) up), (1),
       by decide +kernel⟩,
   ⟨((fun (s : State) => s) up), (.host), (191), (0x123456789A), ((regRow (pFIL 23) 0x17).getD ⟨0, 0, 0, 0, 0, 0, 0, 0, 0, 0⟩), by decide +kernel⟩⟩

theorem wit_ChainMonitorAndFaults :
    (∃ (s : State) (n : Nat) (fwd : Nat) (refl : Nat) (sq : Nat), s.coreRuns = true ∧ n < 9 ∧ s.enabled (pTXC n) = true ∧ (s.tx n).injUntil ≤ s.now) ∧
    (∃ (s : State) (n : Nat), s.coreRuns = true ∧ n < 9 ∧ s.enabled (pTXC n) = true) ∧
    (∃ (s : State) (n : Nat), s.coreRuns = true ∧ n < 9 ∧ s.enabled (pTXC n) = true) ∧
    (∃ (s : State) (port : Nat), s.coreRuns = true ∧ port < 192) :=
  ⟨⟨((fun (s : State) => s.putB (pTXC 8) COM.ENABLE true) up), (8), (70000), (900), (1023 * 1023), by decide +kernel⟩,
   ⟨((fun (s : State) => s.putB (pTXC 8) COM.ENABLE true) up), (8), by decide +kernel⟩,
   ⟨((fun (s : State) => s.putB (pTXC 0) COM.ENABLE true) up), (0), by decide +kernel⟩,
   ⟨((fun (s : State) => s) up), (191), by decide +kernel⟩⟩

theorem wit_CaptureRuns :
    (∃ (s : State) (n : Nat), s.coreRuns = true ∧ n < 17 ∧ s.capChain n = n ∧ s.enabled (pRXC n) = true ∧ s.capState n ≠ 1 ∧ s.capState n ≠ 2 ∧
        s.rxGet n RXC.CAP_CFG_LEN ≠ 0 ∧ s.rxGet n RXC.CAP_ADDR_START + s.rxGet n RXC.CAP_CFG_LEN - 1 ≤ sramLast ∧ (s.rxBit n RXC.CAP_CFG_RING = false
        ∨ s.rxGet n RXC.CAP_CFG_TRIG = 0 ∨ s.rxGet n RXC.CAP_CFG_PRE < s.rxGet n RXC.CAP_CFG_LEN)) ∧
    (∃ (s : State) (n : Nat), s.coreRuns = true ∧ n < 17 ∧ s.capChain n = n ∧ s.enabled (pRXC n) = true ∧ s.capState n ≠ 1 ∧ s.capState n ≠ 2 ∧
        s.rxGet n RXC.CAP_CFG_LEN ≠ 0 ∧ sramLast < s.rxGet n RXC.CAP_ADDR_START + s.rxGet n RXC.CAP_CFG_LEN - 1) ∧
    (∃ (s : State) (n : Nat) (b : Nat), s.coreRuns = true ∧ n < 17 ∧ s.capChain n = n ∧ s.enabled (pRXC n) = true ∧ (s.capState n = 1 ∨ s.capState n
        = 2) ∧ s.offCapture n b = true) ∧
    (∃ (s : State) (n : Nat) (samples : List Nat) (b : Nat), s.coreRuns = true ∧ n < 17 ∧ s.capChain n = n ∧ (s.capState n = 1 ∨ s.capState n = 2) ∧
        s.offCapture n b = true) ∧
    (∃ (s : State) (n : Nat) (trig : Nat) (samples : List Nat), s.coreRuns = true ∧ n < 17 ∧ s.capState n = 1 ∧ s.rxGet n RXC.CAP_CFG_TRIG = trig ∧
        s.rxBit n RXC.CAP_CFG_RING = false) ∧
    (∃ (s : State) (n : Nat) (samples : List Nat) (b : Nat), s.coreRuns = true ∧ n < 17 ∧ s.capState n = 2 ∧ s.capLeft n = some samples.length ∧
        s.offCapture n b = true) ∧
    (∃ (s : State) (n : Nat) (samples : List Nat) (b : Nat), s.coreRuns = true ∧ n < 17 ∧ s.capState n = 2 ∧ s.offCapture n b = true) :=
  ⟨⟨((fun (s : State) => s.putB (pRXC 15) COM.ENABLE true |>.put (pRXC 15) RXC.CAP_STAT_STATE 0 |>.put (pRXC 15) RXC.CAP_CFG_LEN 1 |>.put (pRXC 15)
      RXC.CAP_ADDR_START sramLast |>.putB (pRXC 15) RXC.CAP_CFG_RING false |>.put (pRXC 16) RXC.CFG_SERVE 0) up), (15), by decide +kernel⟩,
   ⟨((fun (s : State) => s.putB (pRXC 0) COM.ENABLE true |>.put (pRXC 0) RXC.CAP_STAT_STATE 0 |>.put (pRXC 0) RXC.CAP_CFG_LEN 2 |>.put (pRXC 0)
       RXC.CAP_ADDR_START sramLast |>.put (pRXC 16) RXC.CFG_SERVE 0) up), (0), by decide +kernel⟩,
   ⟨((fun (s : State) => s.putB (pRXC 0) COM.ENABLE true |>.put (pRXC 0) RXC.CAP_STAT_STATE 1 |>.putB (pRXC 0) RXC.CAP_CFG_RING false |>.put (pRXC
       16) RXC.CFG_SERVE 0) up), (0), (9), by decide +kernel⟩,
   ⟨((fun (s : State) => s.put (pRXC 3) RXC.CAP_STAT_STATE 1 |>.putB (pRXC 3) RXC.CAP_CFG_RING false |>.put (pRXC 16) RXC.CFG_SERVE 0) up), (3), ([5,
       6]), (9), by decide +kernel⟩,
   ⟨((fun (s : State) => s.put (pRXC 3) RXC.CAP_STAT_STATE 1 |>.putB (pRXC 3) RXC.CAP_CFG_RING false |>.put (pRXC 3) RXC.CAP_CFG_TRIG 2) up), (3),
       (2), ([]), by decide +kernel⟩,
   ⟨((fun (s : State) => s.put (pRXC 3) RXC.CAP_STAT_STATE 2 |>.putB (pRXC 3) RXC.CAP_CFG_RING false |>.put (pRXC 3) RXC.CAP_CFG_LEN 1 |>.put (pRXC
       3) RXC.CAP_ADDR_START 1600) up), (3), ([7]), (1599), by decide +kernel⟩,
   ⟨((fun (s : State) => s.put (pRXC 3) RXC.CAP_STAT_STATE 2 |>.put (pRXC 3) RXC.CAP_CFG_LEN 40 |>.put (pRXC 3) RXC.CAP_ADDR_START 1600) up), (3),
       ([7]), (1640), by decide +kernel⟩⟩

theorem wit_ReceiveLevels :
    (∃ (s : State) (n : Nat) (i : Nat) (q : Nat) (residual : Nat), s.coreRuns = true ∧ n < 17 ∧ s.enabled (pRXC n) = true ∧ s.nearField n = true ∧
        s.nearModulates n = false ∧ s.rxState n ≠ 3 ∧ (s.rx n).tapAt ≤ s.now) ∧
    (∃ (s : State) (n : Nat) (amp : Nat) (phase : Nat), s.coreRuns = true ∧ n < 17 ∧ s.enabled (pRXC n) = true ∧ s.checkDue n = true ∧ s.checkSkips n
        = false ∧ (s.rx n).checkRun < 3 ∧ (s.rx n).injBlocks = 0) ∧
    (∃ (s : State) (n : Nat) (samples : List Nat), s.coreRuns = true ∧ n < 17 ∧ s.rxc.length = 17 ∧ s.rxState n = 1 ∧ samples.length = 8 ∧
        samples.any blanked = false ∧ s.blankedNow n = false) ∧
    (∃ (s : State) (n : Nat) (samples : List Nat) (b : Nat), s.coreRuns = true ∧ n < 17 ∧ (s.rx n).blitz = true ∧ s.rxState n = 1 ∧ s.rxHears n =
        true ∧ s.blankedNow n = false ∧ s.rxBit n RXC.GAIN_FORCE = false ∧ (List.range (s.detHold n)).all (fun i => s.corrHit n (corrWin samples i)
        && s.corrGate n (corrWin samples i)) = true ∧ s.offCapture n b = true) ∧
    (∃ (s : State) (n : Nat) (samples : List Nat), s.coreRuns = true ∧ n < 17 ∧ s.rxc.length = 17 ∧ s.rxState n = 2 ∧ samples.length = 128 ∧ s.rxGet
        n RXC.DET_XC_THR * (matchPeak (s.eng ((s.engOf n).getD 0)).set samples).2.2 ≤ 256 * (matchPeak (s.eng ((s.engOf n).getD 0)).set samples).2.1)
        ∧
    (∃ (s : State) (n : Nat) (samples : List Nat), s.coreRuns = true ∧ n < 17 ∧ s.rxState n = 2 ∧ samples.length = 128 ∧ 256 * (matchPeak (s.eng
        ((s.engOf n).getD 0)).set samples).2.1 < s.rxGet n RXC.DET_XC_THR * (matchPeak (s.eng ((s.engOf n).getD 0)).set samples).2.2) ∧
    (∃ (s : State) (n : Nat) (samples : List Nat), s.coreRuns = true ∧ n < 17 ∧ s.rxc.length = 17 ∧ (s.rx n).blitz = true ∧ s.rxState n = 3 ∧ s.rxBit
        n RXC.CAPTURE_WATCH_EN = true ∧ s.rxBit n RXC.CAPTURE_MODE = false ∧ (List.range (s.detHold n)).all (fun i => s.corrHit n (corrWin samples
        i)) = true ∧ (List.range (s.detHold n)).all (fun i => decide (10 ^ Nat.max 3 (s.rxGet n RXC.CAPTURE_MARGIN) * ((s.rx n).power * 16) ^ 10 ≤
        (energy ((samples.drop i).take 16) * (s.rx n).powerN) ^ 10)) = true) :=
  ⟨⟨((fun (s : State) => (((s.putB (pRXC 2) COM.ENABLE true |>.put (pRXC 2) RXC.STATUS_STATE 0).setField 1 4).putB (pTXC 1) TXC.STATUS_MODULATING
      false |>.withTx 1 (fun t => { t with sw := some 30 })).withRx 2 fun r => { r with tap := some 30, last := some 30 }) up), (2), (0xFFFFF), (2),
      (0), by decide +kernel⟩,
   ⟨((fun (s : State) => (s.putB (pRXC 15) COM.ENABLE true).withRx 15 fun r => { r with gridAt := s.now - 4096 }) up), (15), (255), (1),
       by decide +kernel⟩,
   ⟨((fun (s : State) => (s.setRxState 2 1).withRx 2 fun r => { r with blitz := true }) up), (2), (List.replicate 8 1000), by decide +kernel⟩,
   ⟨((fun (s : State) => (s.setRxState 2 1).put (pRXC 2) RXC.DET_THR 0 |>.put (pRXC 2) RXC.DET_CLASS 15 |>.put (pRXC 2) RXC.DET_HOLD 0 |>.putB (pRXC
       2) RXC.GAIN_FORCE false |>.put (pRXC 2) RXC.CAP_STAT_STATE 0 |>.withRx 2 fun r => { r with blitz := true, classes := 15 }) up), (2),
       (List.replicate 32 (1000 * 2 ^ 20 + 1000)), (77), by decide +kernel⟩,
   ⟨((fun (s : State) => (s.setRxState 2 2).put (pRXC 2) RXC.DET_XC_THR 0 |>.withRx 2 fun r => { r with detAt := s.now - 4000 }) up), (2),
       (List.replicate 128 (1000 * 2 ^ 20 + 1000)), by decide +kernel⟩,
   ⟨((fun (s : State) => (s.setRxState 2 2).put (pRXC 2) RXC.DET_XC_THR 255) up), (2), (List.replicate 128 (1000 * 2 ^ 20 + 1000)),
       by decide +kernel⟩,
   ⟨((fun (s : State) => (s.setRxState 2 3).putB (pRXC 2) RXC.CAPTURE_WATCH_EN true |>.putB (pRXC 2) RXC.CAPTURE_MODE false |>.put (pRXC 2)
       RXC.DET_THR 0 |>.put (pRXC 2) RXC.DET_CLASS 15 |>.put (pRXC 2) RXC.DET_HOLD 1 |>.withRx 2 fun r =>
       { r with blitz := true, classes := 15, power := 1, powerN := 1 }) up), (2), (List.replicate 32 (100000 * 2 ^ 20 + 1000)), by decide +kernel⟩⟩

theorem wit_LegacyFrames :
    (∃ (s : State) (n : Nat) (env : List (Int × Int)) (b : Nat), s.coreRuns = true ∧ n < 17 ∧ s.rxc.length = 17 ∧ s.rxState n = 1 ∧ (s.rx n).blitz =
        false ∧ s.rxHears n = true ∧ s.blankedNow n = false ∧ s.offCapture n b = true) ∧
    (∃ (s : State) (n : Nat) (clipped : Bool) (halves : List ((Int × Int) × (Int × Int))), s.coreRuns = true ∧ n < 17 ∧ s.rxc.length = 17 ∧ s.rxState
        n = 3 ∧ (s.rx n).blitz = false) :=
  ⟨⟨((fun (s : State) => (s.setRxState 16 1).put (pRXC 16) RXC.CAP_STAT_STATE 0) up), (16), ([(3, -4), (5, 6)]), (8), by decide +kernel⟩,
   ⟨((fun (s : State) => (s.setRxState 16 3)) up), (16), (0 % 2 == 0), ([((1000, 0), (1000, 0)), ((1000, 0), (1, 0))]), by decide +kernel⟩⟩

theorem wit_RepliesEndExchanges :
    (∃ (s : State) (w : Nat) (r : Reply) (c : Nat), s.coreRuns = true ∧ w < 8 ∧ (s.eng w).await = 1 ∧ (s.rx (s.eng w).chain).begun = true ∧ s.rxState
        (s.eng w).chain ≠ 3 ∧ (s.eng w).prog = .exchange ∧ (s.eng w).user = some c ∧ c < 12 ∧ s.ctxs.length = 12 ∧ s.engs.length = 8 ∧ s.run c ≠ 0 ∧
        (s.ctx c).ended = none ∧ (s.ctx c).move.isSome = true ∧ (s.eng w).stop = none) ∧
    (∃ (s : State) (w : Nat) (c : Nat), s.coreRuns = true ∧ w < 8 ∧ (s.eng w).await = 1 ∧ (s.rx (s.eng w).chain).begun = false ∧ s.rxState (s.eng
        w).chain ≠ 2 ∧ (s.eng w).waitAt.any (fun t => decide (t ≤ s.now)) = true ∧ (s.eng w).prog = .exchange ∧ (s.eng w).user = some c ∧ c < 12 ∧
        s.ctxs.length = 12 ∧ s.engs.length = 8 ∧ s.run c ≠ 0 ∧ (s.ctx c).ended = none ∧ (s.ctx c).move.isSome = true ∧ (s.eng w).stop = none) ∧
    (∃ (s : State) (w : Nat) (f : BlitzFrame) (c : Nat), s.coreRuns = true ∧ w < 8 ∧ (s.eng w).await = 2 ∧ (s.rx (s.eng w).chain).begun = true ∧
        s.rxState (s.eng w).chain = 3 ∧ hdrGood (s.eng w).hdr = true ∧ (s.eng w).prog = .blitz ∧ (s.eng w).user = some c ∧ c < 12 ∧ s.ctxs.length =
        12 ∧ s.engs.length = 8 ∧ s.run c ≠ 0 ∧ (s.ctx c).ended = none ∧ (s.ctx c).move.isSome = true ∧ (s.eng w).stop = none) :=
  ⟨⟨((fun (s : State) => ((((s.setRun 2 4).withCtx 2 fun x => { x with move := some .angEnable, ended := none }).withRx 3 fun r =>
      { r with begun := true }).withEng 7 fun e =>
      { e with user := some 2, chain := 3, await := 1, prog := .exchange, limit := 10, dest := some 100 }).withRx 3 (fun r =>
      { r with raw := [true, false, true, true, false, true, true, false, true] }) |>.setRxState 3 1) up), (7), ({ broken := false }), (2),
      by decide +kernel⟩,
   ⟨((fun (s : State) => ((((s.setRun 2 4).withCtx 2 fun x => { x with move := some .angEnable, ended := none }).withRx 3 fun r =>
       { r with begun := false }).withEng 7 fun e =>
       { e with user := some 2, chain := 3, await := 1, prog := .exchange, limit := 10, dest := some 100, waitAt := some s.now }).setRxState 3 1)
       up), (7), (2), by decide +kernel⟩,
   ⟨((fun (s : State) => ((((s.setRun 2 4).withCtx 2 fun x => { x with move := some .angEnable, ended := none }).withRx 3 fun r =>
       { r with begun := true }).withEng 7 fun e =>
       { e with user := some 2, chain := 3, await := 2, prog := .blitz, limit := 10, hdr := [4, 0, 0, crc8 [4, 0, 0]], booked := true, book := book0 }).setRxState 3 3) up), (7), (⟨List.replicate 400 (1000 * 2 ^ 20 + 7), []⟩), (2), by decide +kernel⟩⟩

theorem wit_SparesAndChainFaults :
    (∃ (s : State) (n : Nat), s.coreRuns = true ∧ n < 17 ∧ s.enabled (pRXC n) = true ∧ (n < 16 ∨ s.rx16For = 0)) ∧
    (∃ (s : State) (n : Nat), s.coreRuns = true ∧ n < 17 ∧ s.enabled (pRXC n) = true) ∧
    (∃ (s : State) (v : Nat), s.coreUp = true ∧ 1 ≤ v ∧ v ≤ 16 ∧ s.rx16Serve = 0 ∧ (s.rx 16).takeover = false) ∧
    (∃ (s : State) (v : Nat), s.coreUp = true ∧ 1 ≤ v ∧ v ≤ 16 ∧ (s.rx16Serve ≠ 0 ∨ (s.rx 16).takeover = true)) ∧
    (∃ (s : State), s.coreUp = true ∧ s.rx16Serve ≠ 0 ∧ s.rxc.length = 17 ∧ s.rxInFlight 16 = false ∧ s.capState 16 ≠ 1 ∧ s.capState 16 ≠ 2) ∧
    (∃ (s : State) (v : Nat), s.coreUp = true ∧ 1 ≤ v ∧ v ≤ 8 ∧ s.tx8Serve = 0 ∧ (s.tx 8).takeover = 0) ∧
    (∃ (s : State) (v : Nat), s.coreUp = true ∧ 1 ≤ v ∧ v ≤ 8 ∧ (s.tx8Serve ≠ 0 ∨ (s.tx 8).takeover ≠ 0)) ∧
    (∃ (s : State), s.coreUp = true ∧ s.tx8Serve ≠ 0 ∧ s.fieldSt 8 = 0 ∧ (s.tx 8).takeover = 0 ∧ s.txc.length = 9) ∧
    (∃ (s : State) (r : Nat), (r = 2 ∨ r = 3) ∧ s.railCtl r = 0 ∧ s.resigned = false ∧ s.railState r = 3 ∧ s.demand r < (s.rail r).req) :=
  ⟨⟨((fun (s : State) => s.putB (pRXC 15) COM.ENABLE true) up), (15), by decide +kernel⟩,
   ⟨((fun (s : State) => s.putB (pRXC 16) COM.ENABLE true) up), (16), by decide +kernel⟩,
   ⟨((fun (s : State) => s.put (pRXC 16) RXC.CFG_SERVE 0) up), (16), by decide +kernel⟩,
   ⟨((fun (s : State) => s.put (pRXC 16) RXC.CFG_SERVE 3) up), (1), by decide +kernel⟩,
   ⟨((fun (s : State) => s.put (pRXC 16) RXC.CFG_SERVE 16 |>.put (pRXC 16) RXC.CAP_STAT_STATE 3) up), by decide +kernel⟩,
   ⟨((fun (s : State) => (s.setField 8 0).put (pTXC 8) TXC.CFG_SERVE 0) up), (8), by decide +kernel⟩,
   ⟨((fun (s : State) => s.put (pTXC 8) TXC.CFG_SERVE 3) up), (1), by decide +kernel⟩,
   ⟨((fun (s : State) => (s.setField 8 0).put (pTXC 8) TXC.CFG_SERVE 8) up), by decide +kernel⟩,
   ⟨((fun (s : State) => (s.put pPWR (PWR.RAIL_CFG_CTL 3) 0 |>.put pPWR (PWR.RAIL_STAT_STATE 3) 3 |>.put pFLT ⟨2, 39, 0⟩ 0).withRail 3 fun x =>
       { x with req := 6000 }) up), (3), by decide +kernel⟩⟩

theorem wit_BlitzHeadersAndEngineFaults_1 :
    ∃ (s : State) (w : Nat) (samples : List Nat) (c : Nat), s.coreRuns = true ∧ w < 8 ∧ (s.eng w).await = 2 ∧ (s.rx (s.eng w).chain).begun = true ∧
        s.rxState (s.eng w).chain = 3 ∧ 80 * (2 + headerSymbols (s.eng w).set) ≤ samples.length ∧ (s.demod w samples).slip (headerSymbols (s.eng
        w).set) = none ∧ hdrGood (packBits ((s.demod w samples).bits 0 (headerSymbols (s.eng w).set) (headerTones (s.eng w).set))) = false ∧ (s.eng
        w).prog = .blitz ∧ (s.eng w).user = some c ∧ c < 12 ∧ s.ctxs.length = 12 ∧ s.engs.length = 8 ∧ s.run c ≠ 0 ∧ (s.ctx c).ended = none ∧ (s.ctx
        c).move.isSome = true ∧ (s.eng w).stop = none :=
  ⟨((fun (s : State) => ((((s.setRun 2 4).withCtx 2 fun x => { x with move := some .angEnable, ended := none }).withRx 3 fun r =>
      { r with begun := true }).withEng 7 fun e => { e with user := some 2, chain := 3, await := 2, prog := .blitz, set := 0 }).setRxState 3 3) up),
      (7), (List.replicate 320 0), (2), by decide +kernel⟩

theorem wit_BlitzHeadersAndEngineFaults_2 :
    ∃ (s : State) (w : Nat) (samples : List Nat) (c : Nat), s.coreRuns = true ∧ w < 8 ∧ (s.eng w).await = 2 ∧ (s.rx (s.eng w).chain).begun = true ∧
        s.rxState (s.eng w).chain = 3 ∧ 80 * (2 + headerSymbols (s.eng w).set) ≤ samples.length ∧ ((s.demod w samples).slip (headerSymbols (s.eng
        w).set)).isSome = true ∧ (s.eng w).prog = .blitz ∧ (s.eng w).user = some c ∧ c < 12 ∧ s.ctxs.length = 12 ∧ s.engs.length = 8 ∧ s.run c ≠ 0 ∧
        (s.ctx c).ended = none ∧ (s.ctx c).move.isSome = true ∧ (s.eng w).stop = none :=
  ⟨((fun (s : State) => ((((s.setRun 2 4).withCtx 2 fun x => { x with move := some .angEnable, ended := none }).withRx 3 fun r =>
      { r with begun := true }).withEng 7 fun e => { e with user := some 2, chain := 3, await := 2, prog := .blitz, set := 0 }).setRxState 3 3 |>.put
      (pRXC 3) RXC.DET_BACKOFF 0) up), (7), (blitzSlip), (2), by decide +kernel⟩

theorem wit_BlitzHeadersAndEngineFaults_3 :
    ∃ (s : State) (w : Nat) (samples : List Nat), s.coreRuns = true ∧ w < 8 ∧ (s.eng w).await = 2 ∧ (s.rx (s.eng w).chain).begun = true ∧ s.rxState
        (s.eng w).chain = 3 ∧ 80 * (2 + headerSymbols (s.eng w).set) ≤ samples.length ∧ s.engs.length = 8 ∧ (s.eng w).user.isSome = true ∧ (s.demod w
        samples).slip (headerSymbols (s.eng w).set) = none ∧ hdrGood (packBits ((s.demod w samples).bits 0 (headerSymbols (s.eng w).set) (headerTones
        (s.eng w).set))) = true ∧ (s.bookWords (s.eng w).port 0 4).isRight = true ∧ s.bookInWindow = false :=
  ⟨((fun (s : State) => ((s.withRx 3 fun r => { r with begun := true }).withEng 7 fun e =>
      { e with user := some 2, chain := 3, await := 2, prog := .blitz, set := 0 }).setRxState 3 3 |>.put pBLZ BLZ.BOOK_BASE_ADDR 64 |>.put (pRXC 3)
      RXC.DET_BACKOFF 0) up), (7), (blitzAnswer), by decide +kernel⟩

theorem wit_BlitzHeadersAndEngineFaults_4 :
    ∃ (s : State) (w : Nat), s.coreRuns = true ∧ w < 8 ∧ s.enabled pPRT = true :=
  ⟨((fun (s : State) => s.putB pPRT COM.ENABLE true) up), (7), by decide +kernel⟩

theorem wit_BlitzHeadersAndEngineFaults_5 :
    ∃ (s : State) (w : Nat), s.coreRuns = true ∧ w < 8 ∧ s.enabled pBLZ = true :=
  ⟨((fun (s : State) => s.putB pBLZ COM.ENABLE true) up), (7), by decide +kernel⟩

theorem wit_InventoryPasses :
    (∃ (s : State), s.coreRuns = true ∧ s.enabled pINV = true ∧ s.invState = 0 ∧ s.inv.oos = false ∧ s.ledgerFits = true ∧ (s.readPlan
        s.rounds).2.planOk = true ∧ (match (s.readPlan s.rounds).1 with | .words _ => true | _ => false) = true ∧ (s.schedMode = 1 ∨ s.schedMode =
        2)) ∧
    (∃ (s : State), s.coreRuns = true ∧ s.enabled pINV = true ∧ s.invState = 0 ∧ s.inv.oos = false ∧ s.ledgerFits = true ∧ (s.readPlan
        s.rounds).2.planOk = true ∧ (match (s.readPlan s.rounds).1 with | .words _ => true | _ => false) = true) ∧
    (∃ (s : State), s.coreRuns = true ∧ s.invState ≠ 0) ∧
    (∃ (s : State) (late : Bool) (r : Nat), s.coreRuns = true ∧ s.enabled pINV = true ∧ (s.invState = 1 ∨ s.invState = 2 ∨ s.invState = 3) ∧
        s.inv.ending = false ∧ s.inv.inRound = false ∧ s.roundFrom = some r) ∧
    (∃ (s : State) (late : Bool), s.coreRuns = true ∧ s.enabled pINV = true ∧ (s.invState = 1 ∨ s.invState = 2 ∨ s.invState = 3) ∧ s.inv.ending =
        false ∧ s.inv.inRound = false ∧ s.roundFrom = none) ∧
    (∃ (s : State), s.coreRuns = true ∧ s.invState = 4 ∧ s.inv.ending = true ∧ s.inv.inRound = false) ∧
    (∃ (s : State), s.coreRuns = true ∧ s.invState = 2 ∧ s.inv.ending = true ∧ s.inv.inRound = false ∧ s.inv.disc = false ∧ s.bit pINV
        INV.CFG_AUTO_DISC = false ∧ s.bit pINV INV.SCHED_REPEAT = false) ∧
    (∃ (s : State), s.coreRuns = true ∧ s.enabled pINV = true) ∧
    (∃ (s : State) (p : Nat), s.coreRuns = true ∧ s.enabled pINV = true ∧ p < 192 ∧ s.bitOf pKBZ (KBZ.PEND_PORTS (p / 40)) (p % 40) = true) :=
  ⟨⟨((fun (s : State) => (s.memWrites 1000 [0xFFFFFFFFFF, 0xFFFFFF8000] |>.putB pINV COM.ENABLE true |>.setInvState 0 |>.put pINV
      INV.LEDGER_BASE_ADDR 0 |>.put pINV INV.PLAN_BASE_ADDR 1000 |>.put pINV INV.SCHED_ROUNDS 1 |>.put pINV INV.SCHED_MODE (1 + 0 % 2))) up),
      by decide +kernel⟩,
   ⟨((fun (s : State) => (s.memWrites 1000 [0xFFFFFFFFFF, 0xFFFFFF8000] |>.putB pINV COM.ENABLE true |>.setInvState 0 |>.put pINV
       INV.LEDGER_BASE_ADDR 0 |>.put pINV INV.PLAN_BASE_ADDR 1000 |>.put pINV INV.SCHED_ROUNDS 1 |>.put pINV INV.SCHED_MODE (1 + 0 % 2))) up),
       by decide +kernel⟩,
   ⟨((fun (s : State) => s.setInvState 2) up), by decide +kernel⟩,
   ⟨((fun (s : State) => (s.putB pINV COM.ENABLE true |>.setInvState 1).withInv fun i =>
       { i with plan := [(0xFFFFFFFFFF, false), (0xFFFFFF0000, false)], inRound := false, ending := false, round := 0, disc := false }) up), (false),
       (0), by decide +kernel⟩,
   ⟨((fun (s : State) => (s.putB pINV COM.ENABLE true |>.setInvState 1).withInv fun i => { i with plan := [], inRound := false, ending := false })
       up), (false), by decide +kernel⟩,
   ⟨((fun (s : State) => (s.setInvState 4).withInv fun i => { i with ending := true }) up), by decide +kernel⟩,
   ⟨((fun (s : State) => (s.setInvState 2 |>.putB pINV INV.CFG_AUTO_DISC false |>.putB pINV INV.SCHED_REPEAT false).withInv fun i =>
       { i with ending := true }) up), by decide +kernel⟩,
   ⟨((fun (s : State) => s.putB pINV COM.ENABLE true) up), by decide +kernel⟩,
   ⟨((fun (s : State) => s.putB pINV COM.ENABLE true |>.putBit pKBZ (KBZ.PEND_PORTS 4) 31 true) up), (191), by decide +kernel⟩⟩

theorem wit_KibitzSweeps :
    (∃ (s : State), s.kbzRuns = true ∧ s.bit pKBZ KBZ.STATUS_SWEEPING = false) ∧
    (∃ (s : State), s.kbzRuns = true ∧ s.coreUp = true ∧ s.bit pKBZ KBZ.STATUS_SWEEPING = true) ∧
    (∃ (s : State) (port : Nat) (r : PingResult), s.kbzRuns = true ∧ s.bit pKBZ KBZ.STATUS_SWEEPING = true ∧ port < 192 ∧ s.kbz.next ≤ port ∧
        (s.kbz.hits = 0 ∨ port = s.kbz.next) ∧ (s.skipTo port).pingable port = true ∧ (s.get pKBZ (KBZ.BASE_STATE port) = 1 ∨ s.get pKBZ
        (KBZ.BASE_STATE port) = 2)) ∧
    (∃ (s : State), s.kbzRuns = true ∧ s.coreUp = true ∧ s.bit pKBZ KBZ.STATUS_SWEEPING = true ∧ s.kbz.waited = false) ∧
    (∃ (s : State), s.coreUp = true ∧ s.enabled pKBZ = true) :=
  ⟨⟨((fun (s : State) => ((s.putB pKBZ COM.ENABLE true |>.put pCLK CLK.STATUS_SRC 1 |>.put pFLT ⟨2, 39, 0⟩ 0 |>.putB pKBZ KBZ.CFG_RUN_EN true |>.putB
      pKBZ KBZ.STATUS_SWEEPING false))) up), by decide +kernel⟩,
   ⟨((fun (s : State) => ((s.putB pKBZ COM.ENABLE true |>.put pCLK CLK.STATUS_SRC 1 |>.put pFLT ⟨2, 39, 0⟩ 0 |>.putB pKBZ KBZ.CFG_RUN_EN true |>.putB
       pKBZ KBZ.STATUS_SWEEPING true))) up), by decide +kernel⟩,
   ⟨((fun (s : State) => ((s.putB pKBZ COM.ENABLE true |>.put pCLK CLK.STATUS_SRC 1 |>.put pFLT ⟨2, 39, 0⟩ 0 |>.putB pKBZ KBZ.CFG_RUN_EN true |>.putB
       pKBZ KBZ.STATUS_SWEEPING true).put pKBZ (KBZ.BASE_STATE 191) (1 + 0 % 2) |>.putBit pKBZ (KBZ.MASK_PORTS 4) 31 true |>.putB (pFIL 23)
       COM.ENABLE true |>.putB (pFIL 23) (FIL.PORT_FITTED 7) true)) up), (191), (⟨4096 + 77, 1024 + 5, 0 % 3 == 0⟩), by decide +kernel⟩,
   ⟨((fun (s : State) => ((s.putB pKBZ COM.ENABLE true |>.put pCLK CLK.STATUS_SRC 1 |>.put pFLT ⟨2, 39, 0⟩ 0 |>.putB pKBZ KBZ.CFG_RUN_EN true |>.putB
       pKBZ KBZ.STATUS_SWEEPING true))) up), by decide +kernel⟩,
   ⟨((fun (s : State) => s.putB pKBZ COM.ENABLE true) up), by decide +kernel⟩⟩

theorem wit_ReadsCorrect :
    (∃ (s : State) (a : Nat) (b : Nat), s.coreUp = true ∧ a ≤ sramLast ∧ (s.word a).cls = .clean ∧ ((s.word a).psn = 0 ∨ (s.word a).psn = 7)) ∧
    (∃ (s : State) (a : Nat) (b : Nat), s.coreUp = true ∧ a ≤ sramLast ∧ (s.word a).cls = .clean ∧ (s.word a).psn ≠ 0 ∧ (s.word a).psn ≠ 7 ∧ b ≠ a) ∧
    (∃ (s : State) (a : Nat) (b : Nat), s.coreUp = true ∧ a ≤ sramLast ∧ (s.word a).cls ≠ .clean ∧ (s.word a).cls ≠ .bad ∧ b ≠ a) ∧
    (∃ (s : State) (a : Nat), s.coreUp = true ∧ a ≤ sramLast ∧ (s.word a).isBad = true ∧ (s.parityWord (a / 8)).isBad = false ∧ ((lineWords (a /
        8)).all fun x => x == a || !(s.word x).isBad) = true) ∧
    (∃ (s : State) (a : Nat) (b : Nat), s.coreUp = true ∧ a ≤ sramLast ∧ b / 8 = a / 8 ∧ b ≠ a ∧ (s.word a).isBad = true ∧ (s.word b).isBad = true) ∧
    (∃ (s : State) (a : Nat), s.coreUp = true ∧ a ≤ sramLast ∧ (s.word a).isBad = true ∧ (s.parityWord (a / 8)).isBad = true) :=
  ⟨⟨((fun (s : State) => (s.putWord (0x17FFF0 + 0) (freshWord (12345 * 0) (0 % 2 == 0)))) up), (0x17FFF0 + 0), (0x17FFF0 + 7 * 0 / 5),
      by decide +kernel⟩,
   ⟨((fun (s : State) => (s.putWord (0x17FFF0 + 0) { freshWord (12345 * 0) false with psn := 1 + 0 % 6 })) up), (0x17FFF0 + 0), (0x17FFF0 + 0 + 1),
       by decide +kernel⟩,
   ⟨((fun (s : State) => (s.putWord (0x17FFF0 + 0) ((freshWord (12345 * 0) (0 % 2 == 0)).flip (if 0 % 3 = 0 then 0 else 2 ^ (3 * 0)) (if 0 % 3 = 0
       then 2 ^ (0 % 8) else 0)))) up), (0x17FFF0 + 0), (0x17FFF0 + 0 + 1), by decide +kernel⟩,
   ⟨((fun (s : State) => ((fun (s : State) => s.putWord (0x17FFF0 + 0) ((s.word (0x17FFF0 + 0)).flip 0x30003 0)) ((fun (s : State) => (List.range
       8).foldl (fun s i => s.memWrite (8 * ((0x17FFF0 + 0) / 8) + i) (0x1234567890 * (i + 1))) s) (s)))) up), (0x17FFF0 + 0), by decide +kernel⟩,
   ⟨((fun (s : State) => ((fun (s : State) => s.putWord (8 * ((0x17FFF0 + 0) / 8) + (0 + 3) % 8) ((s.word (8 * ((0x17FFF0 + 0) / 8) + (0 + 3) %
       8)).flip 0x30003 0)) (((fun (s : State) => s.putWord (0x17FFF0 + 0) ((s.word (0x17FFF0 + 0)).flip 0x50005 0)) ((fun (s : State) => (List.range
       8).foldl (fun s i => s.memWrite (8 * ((0x17FFF0 + 0) / 8) + i) (0x1234567890 * (i + 1))) s) (s)))))) up), (0x17FFF0 + 0), (8 * ((0x17FFF0 + 0)
       / 8) + (0 + 3) % 8), by decide +kernel⟩,
   ⟨((fun (s : State) => (fun (s : State) => s.putParity ((0x17FFF0 + 0) / 8) ((s.parityWord ((0x17FFF0 + 0) / 8)).flip 0x30003 0)) (((fun (s :
       State) => s.putWord (0x17FFF0 + 0) ((s.word (0x17FFF0 + 0)).flip 0x50005 0)) ((fun (s : State) => (List.range 8).foldl (fun s i => s.memWrite
       (8 * ((0x17FFF0 + 0) / 8) + i) (0x1234567890 * (i + 1))) s) (s))))) up), (0x17FFF0 + 0), by decide +kernel⟩⟩

theorem wit_WritesKeepParity :
    (∃ (s : State) (a : Nat) (v : Nat) (b : Nat), s.coreUp = true ∧ a ≤ sramLast ∧ v < 2 ^ 40 ∧ b ≠ a ∧ (s.word a).isBad = false ∧ (s.parityWord (a /
        8)).isBad = false) ∧
    (∃ (s : State) (a : Nat) (v : Nat) (b : Nat), s.coreUp = true ∧ a ≤ sramLast ∧ v < 2 ^ 40 ∧ b ≠ a ∧ (s.word a).isBad = false ∧ (s.parityWord (a /
        8)).isBad = true) ∧
    (∃ (s : State) (a : Nat) (v : Nat), s.coreUp = true ∧ a ≤ sramLast ∧ v < 2 ^ 40 ∧ (s.word a).isBad = true ∧ ((lineWords (a / 8)).all fun x => x
        == a || !(s.word x).isBad) = true) ∧
    (∃ (s : State) (a : Nat) (v : Nat) (b : Nat), s.coreUp = true ∧ a ≤ sramLast ∧ v < 2 ^ 40 ∧ b / 8 = a / 8 ∧ b ≠ a ∧ (s.word a).isBad = true ∧
        (s.word b).isBad = true) ∧
    (∃ (s : State) (a : Nat) (v : Nat) (b : Nat), s.coreUp = true ∧ a ≤ sramLast ∧ b / 8 ≠ a / 8) :=
  ⟨⟨((fun (s : State) => ((fun (s : State) => s.putWord (0x17FFF0 + 0) ((s.word (0x17FFF0 + 0)).flip (if 0 % 2 = 0 then 2 ^ 0 else 0) 0)) ((fun (s :
      State) => (List.range 8).foldl (fun s i => s.memWrite (8 * ((0x17FFF0 + 0) / 8) + i) (0x1234567890 * (i + 1))) s) (s)))) up), (0x17FFF0 + 0),
      (777 * 0), (0x17FFF0 + 2 * 0 + 1), by decide +kernel⟩,
   ⟨((fun (s : State) => (fun (s : State) => s.putParity ((0x17FFF0 + 0) / 8) ((s.parityWord ((0x17FFF0 + 0) / 8)).flip 0x30003 0)) ((fun (s : State)
       => (List.range 8).foldl (fun s i => s.memWrite (8 * ((0x17FFF0 + 0) / 8) + i) (0x1234567890 * (i + 1))) s) (s))) up), (0x17FFF0 + 0), (777 *
       0), (0x17FFF0 + 2 * 0 + 1), by decide +kernel⟩,
   ⟨((fun (s : State) => (fun (s : State) => if 0 % 2 = 0 then s else s.putParity ((0x17FFF0 + 0) / 8) ((s.parityWord ((0x17FFF0 + 0) / 8)).flip
       0x30003 0)) (((fun (s : State) => s.putWord (0x17FFF0 + 0) ((s.word (0x17FFF0 + 0)).flip 0x30003 0)) ((fun (s : State) => (List.range 8).foldl
       (fun s i => s.memWrite (8 * ((0x17FFF0 + 0) / 8) + i) (0x1234567890 * (i + 1))) s) (s))))) up), (0x17FFF0 + 0), (777 * 0), by decide +kernel⟩,
   ⟨((fun (s : State) => ((fun (s : State) => s.putWord (8 * ((0x17FFF0 + 0) / 8) + (0 + 3) % 8) ((s.word (8 * ((0x17FFF0 + 0) / 8) + (0 + 3) %
       8)).flip 0x30003 0)) (((fun (s : State) => s.putWord (0x17FFF0 + 0) ((s.word (0x17FFF0 + 0)).flip 0x50005 0)) ((fun (s : State) => (List.range
       8).foldl (fun s i => s.memWrite (8 * ((0x17FFF0 + 0) / 8) + i) (0x1234567890 * (i + 1))) s) (s)))))) up), (0x17FFF0 + 0), (9), (8 * ((0x17FFF0
       + 0) / 8) + (0 + 3) % 8), by decide +kernel⟩,
   ⟨((fun (s : State) => ((fun (s : State) => s.putWord (0x17FFF0 + 0) ((s.word (0x17FFF0 + 0)).flip 0x30003 0)) ((fun (s : State) => (List.range
       8).foldl (fun s i => s.memWrite (8 * ((0x17FFF0 + 0) / 8) + i) (0x1234567890 * (i + 1))) s) (s)))) up), (0x17FFF0 + 0), (9), (0x17FFF0 + 0 -
       8), by decide +kernel⟩⟩

theorem wit_Scrubbing :
    (∃ (s : State), s.coreRuns = true ∧ s.enabled pSCB = true ∧ s.bit pSCB SCB.STATUS_FAST = false ∧ s.get pSCB SCB.POS_LINE + 1 < 196608) ∧
    (∃ (s : State), s.coreRuns = true ∧ s.enabled pSCB = true ∧ s.bit pSCB SCB.STATUS_FAST = false ∧ s.get pSCB SCB.POS_LINE = 196607) ∧
    (∃ (s : State), s.coreRuns = true ∧ s.enabled pSCB = true ∧ s.bit pSCB SCB.STATUS_FAST = true ∧ s.scbNext (s.get pSCB SCB.POS_LINE) < 196608) ∧
    (∃ (s : State), s.coreRuns = true ∧ s.enabled pSCB = true ∧ s.bit pSCB SCB.STATUS_FAST = true ∧ 196608 ≤ s.scbNext (s.get pSCB SCB.POS_LINE)) ∧
    (∃ (s : State) (v : Nat), s.coreUp = true ∧ s.locked pSCB = false) ∧
    (∃ (s : State), s.coreRuns = true) ∧
    (∃ (s : State) (a : Nat), s.coreUp = true ∧ a ≤ sramLast) :=
  ⟨⟨((fun (s : State) => s.putB pSCB COM.ENABLE true |>.putB pSCB SCB.STATUS_FAST false |>.put pSCB SCB.POS_LINE (196606 - 0)) up),
      by decide +kernel⟩,
   ⟨((fun (s : State) => s.putB pSCB COM.ENABLE true |>.putB pSCB SCB.STATUS_FAST false |>.put pSCB SCB.POS_LINE 196607) up), by decide +kernel⟩,
   ⟨((fun (s : State) => s.putB pSCB COM.ENABLE true |>.putB pSCB SCB.STATUS_FAST true |>.put pSCB SCB.POS_LINE (8191 + 8192 * 0) |>.put pPWR
       PWR.RETAIN_BANKS 0x8000AA) up), by decide +kernel⟩,
   ⟨((fun (s : State) => s.putB pSCB COM.ENABLE true |>.putB pSCB SCB.STATUS_FAST true |>.put pSCB SCB.POS_LINE (8191 + 8192 * 0) |>.put pPWR
       PWR.RETAIN_BANKS 0) up), by decide +kernel⟩,
   ⟨((fun (s : State) => s.putB pSCB COM.LOCK false) up), (7000 * 0), by decide +kernel⟩,
   ⟨((fun (s : State) => s) up), by decide +kernel⟩,
   ⟨((fun (s : State) => s) up), (sramLast), by decide +kernel⟩⟩

theorem wit_BanksAndInjection :
    (∃ (s : State) (f : Nat) (b : Nat), s.coreUp = true ∧ s.memPhase = 1 ∧ 196608 ≤ s.get pFLT FLT.KEEP_ADDR_LINE) ∧
    (∃ (s : State) (b : Nat) (a : Nat), s.coreUp = true ∧ s.memPhase = 2 ∧ b < 24 ∧ s.mode ≠ 4 ∧ a / 65536 = b) ∧
    (∃ (s : State), s.coreUp = true ∧ s.enabled pCND0 = true) ∧
    (∃ (s : State), s.coreUp = true ∧ s.enabled pCND0 = false ∧ s.get pINV INV.STATUS_STATE = 0 ∧ s.get pBLZ BLZ.STATUS_LANE_BUSY = 0 ∧ s.get pPRT
        PRT.STATUS_ENG_BUSY = 0 ∧ ((List.range 17).all fun n => !s.bit (pRXC n) RXC.STATUS_CAPTURING) = true ∧ s.get pMEM MEM.BIST_BANK < 24 ∧
        s.memPhase = 0) ∧
    (∃ (s : State) (b : Nat) (q : Nat) (o : Nat), s.coreUp = true ∧ s.locked pMEM = false ∧ s.get pMEM MEM.INJ_ADDR ≤ sramLast ∧ s.bit pMEM
        MEM.INJ_PARITY = false ∧ q < pEVT 0) ∧
    (∃ (s : State) (q : Nat) (o : Nat), s.coreUp = true ∧ s.locked pMEM = false ∧ s.get pMEM MEM.INJ_ADDR ≤ sramLast ∧ s.bit pMEM MEM.INJ_PARITY =
        true ∧ q < pEVT 0) ∧
    (∃ (s : State), s.coreUp = true ∧ s.locked pMEM = false ∧ sramLast < s.get pMEM MEM.INJ_ADDR) ∧
    (∃ (s : State), s.coreUp = true ∧ s.locked pMEM = false ∧ s.get pMEM MEM.INJ_ADDR ≤ sramLast ∧ s.bit pMEM MEM.INJ_PARITY = false) :=
  ⟨⟨((fun (s : State) => { s.put pFLT FLT.KEEP_ADDR_LINE 196608 with memPhase := 1 }) up), (0 % 3 * 2 ^ (2 * 0)), (77), by decide +kernel⟩,
   ⟨((fun (s : State) => { s.memWrite 65540 9 |>.put pPWR PWR.RETAIN_BANKS (0 % 4) with memPhase := 2 }) up), (1), (65540), by decide +kernel⟩,
   ⟨((fun (s : State) => s.putB pCND0 COM.ENABLE true) up), by decide +kernel⟩,
   ⟨((fun (s : State) => (List.range 17).foldl (fun (s : State) n => s.putB (pRXC n) RXC.STATUS_CAPTURING false) (s.putB pCND0 COM.ENABLE false
       |>.put pINV INV.STATUS_STATE 0 |>.put pBLZ BLZ.STATUS_LANE_BUSY 0 |>.put pPRT PRT.STATUS_ENG_BUSY 0 |>.put pMEM MEM.BIST_BANK 23)) up),
       by decide +kernel⟩,
   ⟨((fun (s : State) => s.putB pMEM COM.LOCK false |>.put pMEM MEM.INJ_ADDR 0x17FFFF |>.putB pMEM MEM.INJ_PARITY false) up), (0x17FFFF - 0 % 2),
       (pMEM), (9 + 0), by decide +kernel⟩,
   ⟨((fun (s : State) => s.putB pMEM COM.LOCK false |>.put pMEM MEM.INJ_ADDR 0x17FFFF |>.putB pMEM MEM.INJ_PARITY true) up), (pMEM), (9 + 0),
       by decide +kernel⟩,
   ⟨((fun (s : State) => s.putB pMEM COM.LOCK false |>.put pMEM MEM.INJ_ADDR 0x180000) up), by decide +kernel⟩,
   ⟨((fun (s : State) => (s.putB pMEM COM.LOCK false |>.put pMEM MEM.INJ_ADDR 0x17FFFF |>.putB pMEM MEM.INJ_PARITY false).memWrite 0x17FFFF (0 *
       12345678)) up), by decide +kernel⟩⟩

theorem wit_WindowOfMemory :
    (∃ (s : State) (w : Nat), s.coreUp = true ∧ w < 32 ∧ s.enabled pMEM = true ∧ s.memPhase ≠ 3 ∧ s.codecInj = false ∧ s.get pMEM MEM.ACC_BASE_ADDR +
        w ≤ sramLast) ∧
    (∃ (s : State) (w : Nat) (v : Nat), s.coreUp = true ∧ w < 32 ∧ v < 2 ^ 40 ∧ s.enabled pMEM = true ∧ s.memPhase ≠ 3 ∧ s.get pMEM MEM.ACC_BASE_ADDR
        + w ≤ sramLast) ∧
    (∃ (s : State) (w : Nat), s.coreUp = true ∧ w < 32 ∧ s.enabled pMEM = true ∧ (sramLast < s.get pMEM MEM.ACC_BASE_ADDR + w ∨ s.memPhase = 3 ∧
        (s.get pMEM MEM.ACC_BASE_ADDR + w) / 65536 = s.bistBank)) ∧
    (∃ (s : State) (w : Nat) (v : Nat), s.coreUp = true ∧ w < 32 ∧ s.enabled pMEM = true ∧ (sramLast < s.get pMEM MEM.ACC_BASE_ADDR + w ∨ s.memPhase
        = 3 ∧ (s.get pMEM MEM.ACC_BASE_ADDR + w) / 65536 = s.bistBank)) ∧
    (∃ (s : State) (w : Nat), s.coreUp = true ∧ w < 32 ∧ s.enabled pMEM = false) ∧
    (∃ (s : State) (w : Nat) (v : Nat), s.enabled pMEM = false) :=
  ⟨⟨((fun (s : State) => (s.putWord (0x17FFE0 + 31) (freshWord (0 * 99999999) (0 % 2 == 0))).putB pMEM COM.ENABLE true |>.put pMEM MEM.ACC_BASE_ADDR
      0x17FFE0) up), (31), by decide +kernel⟩,
   ⟨((fun (s : State) => s.putB pMEM COM.ENABLE true |>.put pMEM MEM.ACC_BASE_ADDR 0x17FFE0) up), (31), (0), by decide +kernel⟩,
   ⟨((fun (s : State) => s.putB pMEM COM.ENABLE true |>.put pMEM MEM.ACC_BASE_ADDR 0x17FFE1) up), (31), by decide +kernel⟩,
   ⟨((fun (s : State) => { s.putB pMEM COM.ENABLE true |>.put pMEM MEM.ACC_BASE_ADDR 0x20000 with memPhase := 3, bistBank := 2 }) up), (31), (5),
       by decide +kernel⟩,
   ⟨((fun (s : State) => s.putB pMEM COM.ENABLE false) up), (31), by decide +kernel⟩,
   ⟨((fun (s : State) => s.putB pMEM COM.ENABLE false) up), (0), (5), by decide +kernel⟩⟩

theorem wit_CheckValues :
    (∃ (s : State) (n : Nat), s.coreRuns = true ∧ n < 4 ∧ s.enabled (pCKU n) = true ∧ s.get (pCKU n) CKU.CFG_POLY < 4 ∧ (s.get (pCKU n) CKU.CFG_MODE
        = 0 ∨ s.get (pCKU n) CKU.CFG_MODE = 2)) ∧
    (∃ (s : State) (n : Nat), s.coreRuns = true ∧ n < 4 ∧ s.enabled (pCKU n) = true ∧ (4 ≤ s.get (pCKU n) CKU.CFG_POLY ∨ s.get (pCKU n) CKU.CFG_MODE
        = 3)) ∧
    (∃ (s : State) (n : Nat) (m : Nat) (v : Nat), s.coreRuns = true ∧ n < 4 ∧ 1 ≤ m ∧ m ≤ 5 ∧ s.enabled (pCKU n) = true ∧ s.bit (pCKU n)
        CKU.STATUS_OPEN = true) ∧
    (∃ (s : State) (n : Nat) (m : Nat) (v : Nat) (p : Bool), s.coreRuns = true ∧ n < 4 ∧ 1 ≤ m ∧ m ≤ 5 ∧ s.enabled (pCKU n) = true ∧ s.bit (pCKU n)
        CKU.STATUS_OPEN = false) ∧
    (∃ (s : State) (n : Nat), s.coreRuns = true ∧ n < 4 ∧ s.enabled (pCKU n) = true ∧ s.bit (pCKU n) CKU.STATUS_OPEN = true ∧ bits (s.ckuCfg n) 5 4 =
        0) ∧
    (∃ (s : State) (n : Nat) (v : Nat), s.coreUp = true ∧ n < 4 ∧ s.locked (pCKU n) = false) ∧
    (∃ (s : State) (n : Nat), s.coreRuns = true ∧ n < 4) :=
  ⟨⟨((fun (s : State) => s.putB (pCKU 3) COM.ENABLE true |>.put (pCKU 3) CKU.CFG_POLY (0 % 4) |>.put (pCKU 3) CKU.CFG_MODE (0 % 2 * 2)) up), (3),
      by decide +kernel⟩,
   ⟨((fun (s : State) => s.putB (pCKU 3) COM.ENABLE true |>.put (pCKU 3) CKU.CFG_POLY 4 |>.put (pCKU 3) CKU.CFG_MODE 3) up), (3), by decide +kernel⟩,
   ⟨((fun (s : State) => s.putB (pCKU 3) COM.ENABLE true |>.putB (pCKU 3) CKU.STATUS_OPEN true |>.setCkuCfg 3 (0 % 4)) up), (3), (5), (0x0102030405 +
       0), by decide +kernel⟩,
   ⟨((fun (s : State) => s.putB (pCKU 3) COM.ENABLE true |>.putB (pCKU 3) CKU.STATUS_OPEN false) up), (3), (1), (9), (0 % 2 == 0), by decide +kernel⟩,
   ⟨((fun (s : State) => s.putB (pCKU 3) COM.ENABLE true |>.putB (pCKU 3) CKU.STATUS_OPEN true |>.setCkuCfg 3 (0 % 4 + 512 * (0 / 4 % 2))) up), (3),
       by decide +kernel⟩,
   ⟨((fun (s : State) => s.putB (pCKU 3) COM.LOCK false) up), (3), (0xF0F0F0F0F0), by decide +kernel⟩,
   ⟨((fun (s : State) => s) up), (3), by decide +kernel⟩⟩

theorem wit_RegisterWrites :
    (∃ (s : State) (src : Src) (page : Nat) (off : Nat) (v : Nat) (r : RegRow), s.reachable page = true ∧ off < 0x10 ∧ off ≠ 1 ∧ off ≠ 6 ∧ off ≠ 7 ∧
        regRow page off = some r) ∧
    (∃ (s : State) (src : Src) (page : Nat) (v : Nat) (r : RegRow), s.reachable page = true ∧ regRow page 6 = some r) ∧
    (∃ (s : State) (src : Src) (page : Nat) (off : Nat) (v : Nat) (p : Bool), (s.reachable page = false ∨ regRow page off = none)) ∧
    (∃ (s : State) (n : Nat) (on : Bool), s.coreUp = true ∧ n < 4 ∧ s.locked (pCKU n) = false) ∧
    (∃ (s : State) (page : Nat), s.coreUp = true ∧ s.enabled page = false ∧ page ∈ [pPRT, pBLZ, pCND0, pCND 0, pCND 4, pCND 8, pARB, pTST, pSCB,
        pKBZ] ++ (List.range 8).map pEVT ++ List.range' 0x10 9 ++ List.range' 0x0A 4) ∧
    (∃ (s : State) (page : Nat), s.coreUp = true ∧ page ∈ [pMCH, pSCB, pTST]) ∧
    (∃ (s : State) (page : Nat) (on : Bool), page ∈ [pDEV, pPWR, pHPT, pFLT]) ∧
    (∃ (s : State) (page : Nat), s.reachable page = true) ∧
    (∃ (s : State) (page : Nat), s.reachable page = true ∧ page ≠ pFLT) ∧
    (∃ (s : State) (n : Nat) (o : Nat), s.coreUp = true ∧ n < 4 ∧ 0x10 ≤ o ∧ s.locked (pCKU n) = false) :=
  ⟨⟨((fun (s : State) => s) up), (.move), ([pMCH, pCLK, pFIL 23, pTXC 8, pCND 11, pCKU 3].getD (0 % 6) 0), (4 + 0 / 6 % 2), (0xAAAAAAAAAA + 0),
      ((regRow ([pMCH, pCLK, pFIL 23, pTXC 8, pCND 11, pCKU 3].getD (0 % 6) 0) (4 + 0 / 6 % 2)).getD ⟨0, 0, 0, 0, 0, 0, 0, 0, 0, 0⟩),
      by decide +kernel⟩,
   ⟨((fun (s : State) => s) up), (.move), ([pMCH, pCLK, pFIL 23, pTXC 8, pCND 11, pCKU 3].getD (0 % 6) 0), (0x5555555555 + 0), ((regRow ([pMCH, pCLK,
       pFIL 23, pTXC 8, pCND 11, pCKU 3].getD (0 % 6) 0) (6)).getD ⟨0, 0, 0, 0, 0, 0, 0, 0, 0, 0⟩), by decide +kernel⟩,
   ⟨((fun (s : State) => (if 0 % 2 = 0 then s else { s with pwr := { s.pwr with core := false } })) up), (.host), (pTXC 3), (if 0 % 2 = 0 then 0x0F
       else 0x10), (0x5555555555 + 0), (false), by decide +kernel⟩,
   ⟨((fun (s : State) => s.putB (pCKU 3) COM.LOCK false) up), (3), (0 % 2 == 0), by decide +kernel⟩,
   ⟨((fun (s : State) => s.putB ([pPRT, pBLZ, pCND0, pCND 8, pARB, pTST, pSCB, pKBZ, pEVT 7, 0x18, 0x0A].getD (0 % 11) 0) COM.ENABLE false) up),
       ([pPRT, pBLZ, pCND0, pCND 8, pARB, pTST, pSCB, pKBZ, pEVT 7, 0x18, 0x0A].getD (0 % 11) 0), by decide +kernel⟩,
   ⟨((fun (s : State) => s.putB ([pMCH, pSCB, pTST].getD (0 % 3) 0) COM.ENABLE true) up), ([pMCH, pSCB, pTST].getD (0 % 3) 0), by decide +kernel⟩,
   ⟨((fun (s : State) => s) up), ([pDEV, pPWR, pHPT, pFLT].getD (0 % 4) 0), (0 % 2 == 0), by decide +kernel⟩,
   ⟨((fun (s : State) => s) up), ([0, 1, 2, 3, 4, 5, 6, 7, 8, 0x0A, 0x0E, 0x0F, 0x10, 0x18, 0x20, 0x30, 0x40, 0x57, 0x60, 0x61, 0x62, 0x63, 0x64,
       0x68, 0x69, 0x70, 0x76, 0x77, 0x78, 0x7F, 0x0D].getD (0 % 31) 0), by decide +kernel⟩,
   ⟨((fun (s : State) => s) up), ([pMCH, pCLK, pFIL 23, pTXC 8, pCND 11, pCKU 3].getD (0 % 6) 0), by decide +kernel⟩,
   ⟨((fun (s : State) => s.putB (pCKU 3) COM.LOCK false) up), (3), (0x10 + 0), by decide +kernel⟩⟩

theorem wit_UnpoweredPages :
    (∃ (s : State) (b : Nat) (en : Bool) (page : Nat) (off : Nat), s.coreUp = false ∧ s.bit pHPT HPT.STATUS_MASTERING = false ∧ s.bit pHPT
        HPT.STATUS_DDR = false ∧ s.ownFrame b en = true ∧ b % 64 ≠ 63 ∧ (page = pDEV ∨ page = pPWR ∨ page = pFLT ∨ page = pHPT ∨ page = pANG) ∧
        (regRow page off).isSome = true ∧ ¬ (page = pHPT ∧ off = HPT.RPT_POP.off)) ∧
    (∃ (s : State) (b : Nat) (en : Bool) (page : Nat) (off : Nat) (v : Nat) (r : RegRow), s.coreUp = false ∧ s.bit pHPT HPT.STATUS_MASTERING = false
        ∧ s.ownFrame b en = true ∧ (page = pDEV ∨ page = pPWR ∨ page = pFLT ∨ page = pHPT ∨ page = pANG) ∧ off = 5 ∧ s.locked page = false ∧ regRow
        page off = some r) ∧
    (∃ (s : State) (b : Nat) (en : Bool) (page : Nat) (off : Nat), s.coreUp = false ∧ s.bit pHPT HPT.STATUS_MASTERING = false ∧ s.bit pHPT
        HPT.STATUS_DDR = false ∧ s.ownFrame b en = true ∧ b % 64 ≠ 63 ∧ page < 256 ∧ (pageKind page).isSome = true ∧ (¬ (page = pDEV ∨ page = pPWR ∨
        page = pFLT ∨ page = pHPT ∨ page = pANG))) ∧
    (∃ (s : State) (b : Nat) (en : Bool) (page : Nat) (off : Nat) (v : Nat), s.coreUp = false ∧ s.bit pHPT HPT.STATUS_MASTERING = false ∧ s.ownFrame
        b en = true ∧ page < 256 ∧ (pageKind page).isSome = true ∧ (¬ (page = pDEV ∨ page = pPWR ∨ page = pFLT ∨ page = pHPT ∨ page = pANG))) :=
  ⟨⟨((fun (s : State) =>
      { s.putB pHPT HPT.STATUS_MASTERING false |>.putB pHPT HPT.STATUS_DDR false |>.put pDEV DEV.BOARD_NUM_NUM 5 with pwr := { s.pwr with core := false, cclk := false } }) up), (5), (0 % 2 == 0), ([pDEV, pPWR, pFLT, pHPT, pANG].getD (0 % 5) 0), (0 % 15 + 16 * (0 % 2)), by decide +kernel⟩,
   ⟨((fun (s : State) =>
       ({ s.putB pHPT HPT.STATUS_MASTERING false |>.putB pHPT HPT.STATUS_DDR false |>.put pDEV DEV.BOARD_NUM_NUM 5 with pwr := { s.pwr with core := false, cclk := false } }).putB ([pDEV, pPWR, pFLT, pHPT, pANG].getD (1 + 0 % 4) 0) COM.LOCK false) up), (5 + 58 * (0 % 2)), (true), ([pDEV, pPWR, pFLT, pHPT, pANG].getD (1 + 0 % 4) 0), (5), (0x123456789A + 0), ((regRow ([pDEV, pPWR, pFLT, pHPT, pANG].getD (1 + 0 % 4) 0) (5)).getD ⟨0, 0, 0, 0, 0, 0, 0, 0, 0, 0⟩), by decide +kernel⟩,
   ⟨((fun (s : State) =>
       { s.putB pHPT HPT.STATUS_MASTERING false |>.putB pHPT HPT.STATUS_DDR false |>.put pDEV DEV.BOARD_NUM_NUM 5 with pwr := { s.pwr with core := false, cclk := false } }) up), (5), (0 % 2 == 0), ([pMEM, pTXC 8, pFIL 23, pTST, pCLK].getD (0 % 5) 0), (0 * 21), by decide +kernel⟩,
   ⟨((fun (s : State) =>
       { s.putB pHPT HPT.STATUS_MASTERING false |>.putB pHPT HPT.STATUS_DDR false |>.put pDEV DEV.BOARD_NUM_NUM 5 with pwr := { s.pwr with core := false, cclk := false } }) up), (5 + 58 * (0 % 2)), (false), ([pMEM, pTXC 8, pFIL 23, pTST, pCLK].getD (0 % 5) 0), (0 * 21), (0), by decide +kernel⟩⟩

theorem wit_HostFrames :
    (∃ (s : State) (b : Nat) (en : Bool), s.bit pHPT HPT.STATUS_MASTERING = false ∧ s.ownFrame b en = true ∧ b % 64 ≠ 63) ∧
    (∃ (s : State) (b : Nat) (en : Bool), s.bit pHPT HPT.STATUS_MASTERING = false ∧ s.ownFrame b en = false) ∧
    (∃ (s : State) (b : Nat) (en : Bool), s.bit pHPT HPT.STATUS_MASTERING = false ∧ s.ownFrame b en = true ∧ s.flt.request = 0) ∧
    (∃ (s : State) (b : Nat) (en : Bool) (op : Nat) (page : Nat) (off : Nat) (n : Nat), s.bit pHPT HPT.STATUS_MASTERING = false ∧ s.ownFrame b en =
        true ∧ (op = 3 ∨ op = 2 ∧ ¬ (page = 0 ∧ off = 0) ∧ ¬ (page = 0xA5 ∧ off = 0x5A)) ∧ page < 256 ∧ off < 256 ∧ n < 4096) ∧
    (∃ (s : State) (b : Nat) (en : Bool) (page : Nat) (off : Nat), s.bit pHPT HPT.STATUS_MASTERING = false ∧ s.bit pHPT HPT.STATUS_DDR = false ∧
        s.ownFrame b en = true ∧ b % 64 ≠ 63 ∧ pageKind (page % 256) = none) ∧
    (∃ (s : State) (n : Nat) (bc : Bool) (en : Bool), s.bit pHPT HPT.STATUS_MASTERING = false ∧ bc = false ∧ n < 63 ∧ (s.boardNum ≠ 62 ∨ en = true)) ∧
    (∃ (s : State) (n : Nat) (bc : Bool) (en : Bool), s.bit pHPT HPT.STATUS_MASTERING = false ∧ bc = true) ∧
    (∃ (s : State) (b : Nat) (en : Bool) (page : Nat) (off : Nat) (v : Nat), s.bit pHPT HPT.STATUS_MASTERING = false ∧ s.ownFrame b en = true ∧ (page
        = pCKU 0 ∨ page = pCKU 1 ∨ page = pCKU 2 ∨ page = pCKU 3) ∧ s.coreUp = true ∧ off = 5 ∧ s.locked page = false) :=
  ⟨⟨((fun (s : State) => s.putB pHPT HPT.STATUS_MASTERING false |>.putB pHPT HPT.STATUS_DDR false |>.put pDEV DEV.BOARD_NUM_NUM 5) up), (5), (0 % 2
      == 0), by decide +kernel⟩,
   ⟨((fun (s : State) => s.putB pHPT HPT.STATUS_MASTERING false |>.putB pHPT HPT.STATUS_DDR false |>.put pDEV DEV.BOARD_NUM_NUM 5) up), (6), (true),
       by decide +kernel⟩,
   ⟨((fun (s : State) => s.putB pHPT HPT.STATUS_MASTERING false |>.putB pHPT HPT.STATUS_DDR false |>.put pDEV DEV.BOARD_NUM_NUM 5) up), (63),
       (false), by decide +kernel⟩,
   ⟨((fun (s : State) => s.putB pHPT HPT.STATUS_MASTERING false |>.putB pHPT HPT.STATUS_DDR false |>.put pDEV DEV.BOARD_NUM_NUM 5) up), (5), (0 % 2
       == 0), (2 + 0 % 2), (255), (255), (4095), by decide +kernel⟩,
   ⟨((fun (s : State) => s.putB pHPT HPT.STATUS_MASTERING false |>.putB pHPT HPT.STATUS_DDR false |>.put pDEV DEV.BOARD_NUM_NUM 5) up), (5), (0 % 2
       == 0), (0x5F), (3), by decide +kernel⟩,
   ⟨((fun (s : State) => s.putB pHPT HPT.STATUS_MASTERING false |>.putB pHPT HPT.STATUS_DDR false |>.put pDEV DEV.BOARD_NUM_NUM 5) up), (61),
       (false), (true), by decide +kernel⟩,
   ⟨((fun (s : State) => s.putB pHPT HPT.STATUS_MASTERING false |>.putB pHPT HPT.STATUS_DDR false |>.put pDEV DEV.BOARD_NUM_NUM 5) up), (61), (true),
       (false), by decide +kernel⟩,
   ⟨((fun (s : State) => (s.putB pHPT HPT.STATUS_MASTERING false |>.putB pHPT HPT.STATUS_DDR false |>.put pDEV DEV.BOARD_NUM_NUM 5).putB (pCKU (0 %
       4)) COM.LOCK false) up), (5 + 58 * (0 % 2)), (true), (pCKU (0 % 4)), (5), (0xAAAAAAAAAA + 0), by decide +kernel⟩⟩

theorem wit_HostReports :
    (∃ (s : State) (v : Nat), s.hpt.rpt.length < 32) ∧
    (∃ (s : State) (v : Nat), s.hpt.rpt.length = 32) ∧
    (∃ (s : State) (w : Nat) (l : List Nat), s.hpt.rpt = w :: l ∧ s.hpt.unit = 0 ∧ w < 2 ^ 32) ∧
    (∃ (s : State), s.coreRuns = true ∧ s.bit pMCH MCH.STATUS_TOKEN_HELD = true ∧ s.bit pHPT HPT.RPT_CFG_MASTER_EN = true ∧ s.bit pHPT
        HPT.STATUS_MASTERING = false ∧ s.hpt.rpt ≠ []) ∧
    (∃ (s : State), s.bit pHPT HPT.STATUS_MASTERING = true) ∧
    (∃ (s : State), s.bit pHPT HPT.STATUS_MASTERING = true) ∧
    (∃ (s : State), s.bit pHPT HPT.STATUS_MASTERING = false) ∧
    (∃ (s : State) (b : Bool) (n : Nat), s.bit pHPT HPT.STATUS_MASTERING = false ∧ b = false) ∧
    (∃ (s : State), s.bit pHPT HPT.STATUS_MASTERING = false ∧ s.pins.noSel = false) :=
  ⟨⟨((fun (s : State) => s.withHpt fun h => { h with rpt := [] }) up), (0x1F2345678), by decide +kernel⟩,
   ⟨((fun (s : State) => s.withHpt fun h => { h with rpt := List.replicate 32 7 }) up), (5), by decide +kernel⟩,
   ⟨((fun (s : State) => s.withHpt fun h => { h with rpt := [77, 5], unit := 0 }) up), (77), ([5]), by decide +kernel⟩,
   ⟨((fun (s : State) => (s.putB pMCH MCH.STATUS_TOKEN_HELD true |>.putB pHPT HPT.RPT_CFG_MASTER_EN true |>.putB pHPT HPT.STATUS_MASTERING
       false).withHpt fun h => { h with rpt := [12, 13, 14] }) up), by decide +kernel⟩,
   ⟨((fun (s : State) => (s.putB pHPT HPT.STATUS_MASTERING true).withHpt fun h => { h with rpt := [12, 13], unit := 1 }) up), by decide +kernel⟩,
   ⟨((fun (s : State) => (s.putB pHPT HPT.STATUS_MASTERING true).withHpt fun h => { h with rpt := [12, 13], unit := 1 }) up), by decide +kernel⟩,
   ⟨((fun (s : State) => s.putB pHPT HPT.STATUS_MASTERING false |>.putB pHPT HPT.STATUS_DDR false |>.put pDEV DEV.BOARD_NUM_NUM 5) up),
       by decide +kernel⟩,
   ⟨((fun (s : State) => s.putB pHPT HPT.STATUS_MASTERING false |>.putB pHPT HPT.STATUS_DDR false |>.put pDEV DEV.BOARD_NUM_NUM 5) up), (false), (2),
       by decide +kernel⟩,
   ⟨((fun (s : State) => s.putB pHPT HPT.STATUS_MASTERING false |>.putB pHPT HPT.STATUS_DDR false |>.put pDEV DEV.BOARD_NUM_NUM 5) up),
       by decide +kernel⟩⟩

theorem wit_FlashReads :
    (∃ (s : State), s.coreRuns = true ∧ s.enabled pXMP = true ∧ s.xmp.discovered = false ∧ s.bit pXMP XMP.STATUS_DISCOVERY = false) ∧
    (∃ (s : State) (l : List FlashDev), s.coreRuns = true ∧ s.enabled pXMP = true ∧ s.bit pXMP XMP.STATUS_DISCOVERY = true) ∧
    (∃ (s : State) (f : FlashDev) (m : FlashMode), s.coreRuns = true ∧ s.enabled pXMP = true ∧ s.bit pXMP XMP.STATUS_DISCOVERY = true ∧ devPresent f
        = true ∧ (pickMode f.modes s.xmp.modeMax).1 = some m) ∧
    (∃ (s : State) (l : Nat) (d : List Nat), s.coreRuns = true ∧ s.xmp.want.any (fun e => e.1 == l) = true ∧ d.length = 64 ∧ s.xmp.touched l = false)
        ∧
    (∃ (s : State) (l : Nat) (d : List Nat) (p : Bool), s.coreRuns = true ∧ s.xmp.want = [(l, p)]) ∧
    (∃ (s : State) (w : Nat) (ds : List (List Nat)), s.coreRuns = true ∧ w < 8 ∧ s.xmpWinOff w + 4 < s.flashEnd ∧ (wordLines (s.xmpWinOff w)).map
        s.lineNow = ds.map (fun d => some (some d))) ∧
    (∃ (s : State) (w : Nat) (ls : List Nat), s.coreRuns = true ∧ w < 8 ∧ s.xmpWinOff w + 4 < s.flashEnd ∧ (wordLines (s.xmpWinOff w)).filter (fun l
        => (s.lineNow l).isNone) = ls ∧ ls ≠ []) ∧
    (∃ (s : State) (w : Nat), s.coreRuns = true ∧ w < 8 ∧ s.flashEnd ≤ s.xmpWinOff w + 4) ∧
    (∃ (s : State) (w : Nat) (v : Nat), s.coreRuns = true ∧ w < 8 ∧ s.flashEnd < s.xmpWinOff w + 5) :=
  ⟨⟨((fun (s : State) => (s.putB pXMP COM.ENABLE true |>.putB pXMP (XMP.DEV_PRESENT 0) true |>.put pXMP (XMP.DEV_SIZE_LOG2 0) 24 |>.put pXMP
      (XMP.DEV_PAGE_LOG2 0) 8 |>.putB pXMP (XMP.DEV_PRESENT 1) false |>.putB pXMP XMP.STATUS_DISCOVERY false)) up), by decide +kernel⟩,
   ⟨((fun (s : State) => ((s.putB pXMP COM.ENABLE true |>.putB pXMP (XMP.DEV_PRESENT 0) true |>.put pXMP (XMP.DEV_SIZE_LOG2 0) 24 |>.put pXMP
       (XMP.DEV_PAGE_LOG2 0) 8 |>.putB pXMP (XMP.DEV_PRESENT 1) false |>.putB pXMP XMP.STATUS_DISCOVERY false).putB pXMP XMP.STATUS_DISCOVERY true))
       up), ([{ sig := true, addr4 := true, sizeLog2 := 25, pageLog2 := 8, erases := [12, 16], suspend := true, modes := [⟨0, 100, 8, true⟩, ⟨2, 150 + 0, 20, 0 % 2 == 0⟩] }]), by decide +kernel⟩,
   ⟨((fun (s : State) => ((s.putB pXMP COM.ENABLE true |>.putB pXMP (XMP.DEV_PRESENT 0) true |>.put pXMP (XMP.DEV_SIZE_LOG2 0) 24 |>.put pXMP
       (XMP.DEV_PAGE_LOG2 0) 8 |>.putB pXMP (XMP.DEV_PRESENT 1) false |>.putB pXMP XMP.STATUS_DISCOVERY false).putB pXMP XMP.STATUS_DISCOVERY true))
       up), ({ sig := true, addr4 := true, sizeLog2 := 32, pageLog2 := 8, erases := [12, 16], suspend := true, modes := [⟨0, 100, 8, true⟩, ⟨2, 150, 20, 0 % 2 == 0⟩] }), ((fun (s : State) => ((pickMode ({ sig := true, addr4 := true, sizeLog2 := 32, pageLog2 := 8, erases := [12, 16], suspend := true, modes := [⟨0, 100, 8, true⟩, ⟨2, 150, 20, 0 % 2 == 0⟩] } : FlashDev).modes s.xmp.modeMax).1).getD ⟨0, 0, 0, false⟩) ((fun (s : State) => ((s.putB pXMP COM.ENABLE true |>.putB pXMP (XMP.DEV_PRESENT 0) true |>.put pXMP (XMP.DEV_SIZE_LOG2 0) 24 |>.put pXMP (XMP.DEV_PAGE_LOG2 0) 8 |>.putB pXMP (XMP.DEV_PRESENT 1) false |>.putB pXMP XMP.STATUS_DISCOVERY false).putB pXMP XMP.STATUS_DISCOVERY true)) up)), by decide +kernel⟩,
   ⟨((fun (s : State) => (((s.putB pXMP COM.ENABLE true |>.putB pXMP (XMP.DEV_PRESENT 0) true |>.put pXMP (XMP.DEV_SIZE_LOG2 0) 24 |>.put pXMP
       (XMP.DEV_PAGE_LOG2 0) 8 |>.putB pXMP (XMP.DEV_PRESENT 1) false |>.putB pXMP XMP.STATUS_DISCOVERY false)).withXmp fun x =>
       { x with discovered := true, want := [(5, false)], lines := (List.range 8).map fun i => (i + 10, []) })) up), (5), (List.range 64),
       by decide +kernel⟩,
   ⟨((fun (s : State) => (((s.putB pXMP COM.ENABLE true |>.putB pXMP (XMP.DEV_PRESENT 0) true |>.put pXMP (XMP.DEV_SIZE_LOG2 0) 24 |>.put pXMP
       (XMP.DEV_PAGE_LOG2 0) 8 |>.putB pXMP (XMP.DEV_PRESENT 1) false |>.putB pXMP XMP.STATUS_DISCOVERY false)).withXmp fun x =>
       { x with discovered := true, want := [(5, 0 % 2 == 1)] })) up), (5), ([]), (0 % 2 == 1), by decide +kernel⟩,
   ⟨((fun (s : State) => (((s.putB pXMP COM.ENABLE true |>.putB pXMP (XMP.DEV_PRESENT 0) true |>.put pXMP (XMP.DEV_SIZE_LOG2 0) 24 |>.put pXMP
       (XMP.DEV_PAGE_LOG2 0) 8 |>.putB pXMP (XMP.DEV_PRESENT 1) false |>.putB pXMP XMP.STATUS_DISCOVERY false).put pXMP XMP.ACC_BASE_OFFSET (24 + 3 *
       (0 % 2))).withXmp fun x =>
       { x with discovered := true, lines := [(0, List.range 64), (1, List.range 64)], running := [], queue := [], backlog := [] })) up), (7), (if 0
       % 2 = 0 then [List.range 64] else [List.range 64, List.range 64]), by decide +kernel⟩,
   ⟨((fun (s : State) => (((s.putB pXMP COM.ENABLE true |>.putB pXMP (XMP.DEV_PRESENT 0) true |>.put pXMP (XMP.DEV_SIZE_LOG2 0) 24 |>.put pXMP
       (XMP.DEV_PAGE_LOG2 0) 8 |>.putB pXMP (XMP.DEV_PRESENT 1) false |>.putB pXMP XMP.STATUS_DISCOVERY false).put pXMP XMP.ACC_BASE_OFFSET (27 + 40
       * (0 % 2))).withXmp fun x => { x with discovered := true, lines := [(0, List.range 64)] })) up), (7), ([1]), by decide +kernel⟩,
   ⟨((fun (s : State) => (((s.putB pXMP COM.ENABLE true |>.putB pXMP (XMP.DEV_PRESENT 0) true |>.put pXMP (XMP.DEV_SIZE_LOG2 0) 24 |>.put pXMP
       (XMP.DEV_PAGE_LOG2 0) 8 |>.putB pXMP (XMP.DEV_PRESENT 1) false |>.putB pXMP XMP.STATUS_DISCOVERY false).put pXMP XMP.ACC_BASE_OFFSET
       0x1000000).withXmp fun x => { x with discovered := true, lines := [] })) up), (0), by decide +kernel⟩,
   ⟨((fun (s : State) => (((s.putB pXMP COM.ENABLE true |>.putB pXMP (XMP.DEV_PRESENT 0) true |>.put pXMP (XMP.DEV_SIZE_LOG2 0) 24 |>.put pXMP
       (XMP.DEV_PAGE_LOG2 0) 8 |>.putB pXMP (XMP.DEV_PRESENT 1) false |>.putB pXMP XMP.STATUS_DISCOVERY false).put pXMP XMP.ACC_BASE_OFFSET
       0xFFFFFC).withXmp fun x => { x with discovered := true, lines := [] })) up), (0), (7), by decide +kernel⟩⟩

theorem wit_FlashWrites :
    (∃ (s : State) (w : Nat) (v : Nat), s.coreRuns = true ∧ w < 8 ∧ v < 2 ^ 40 ∧ s.xmpWinOff w + 5 ≤ s.flashEnd ∧ s.devOf (s.xmpWinOff w) = 0 ∧
        s.devOf (s.xmpWinOff w + 4) = 0 ∧ s.xmpWinOff w / 2 ^ s.get pXMP (XMP.DEV_PAGE_LOG2 0) = (s.xmpWinOff w + 4) / 2 ^ s.get pXMP
        (XMP.DEV_PAGE_LOG2 0) ∧ s.xmp.running = [] ∧ s.xmp.queue = [] ∧ s.xmp.backlog = []) ∧
    (∃ (s : State) (d : Nat) (o : XmpOp), s.coreUp = true ∧ s.xmp.running.find? (fun o => o.dev == d && !o.erase) = some o ∧ o.owner = 255) ∧
    (∃ (s : State) (d : Nat) (o : XmpOp), s.coreUp = true ∧ s.xmp.running.find? (fun o => o.dev == d && !o.erase) = some o ∧ o.owner = 255) ∧
    (∃ (s : State) (o : XmpOp), s.coreRuns = true ∧ s.enabled pXMP = true ∧ s.get pXMP XMP.ERASE_OFFSET < s.flashEnd ∧ s.eraseOp (s.get pXMP
        XMP.ERASE_TYPE) (s.get pXMP XMP.ERASE_OFFSET) 255 = some o ∧ s.xmp.running = [] ∧ s.xmp.queue = [] ∧ s.xmp.backlog = []) ∧
    (∃ (s : State), s.coreRuns = true ∧ s.enabled pXMP = true ∧ s.eraseOp (s.get pXMP XMP.ERASE_TYPE) (s.get pXMP XMP.ERASE_OFFSET) 255 = none) ∧
    (∃ (s : State) (d : Nat) (o : XmpOp), s.coreUp = true ∧ s.xmp.running.find? (fun o => o.dev == d && o.erase) = some o ∧ o.owner = 255) ∧
    (∃ (s : State) (d : Nat) (o : XmpOp), s.coreUp = true ∧ s.xmp.running.find? (fun o => o.dev == d && o.erase) = some o ∧ o.owner = 255) ∧
    (∃ (s : State), s.coreRuns = true ∧ s.enabled pXMP = true) :=
  ⟨⟨((fun (s : State) => (((s.putB pXMP COM.ENABLE true |>.putB pXMP (XMP.DEV_PRESENT 0) true |>.put pXMP (XMP.DEV_SIZE_LOG2 0) 24 |>.put pXMP
      (XMP.DEV_PAGE_LOG2 0) 8 |>.putB pXMP (XMP.DEV_PRESENT 1) false |>.putB pXMP XMP.STATUS_DISCOVERY false).put pXMP XMP.ACC_BASE_OFFSET
      0xFFFFFB).withXmp fun x => { x with discovered := true, lines := [] })) up), (0), (0x0102030405), by decide +kernel⟩,
   ⟨((fun (s : State) => (((s.putB pXMP COM.ENABLE true |>.putB pXMP (XMP.DEV_PRESENT 0) true |>.put pXMP (XMP.DEV_SIZE_LOG2 0) 24 |>.put pXMP
       (XMP.DEV_PAGE_LOG2 0) 8 |>.putB pXMP (XMP.DEV_PRESENT 1) false |>.putB pXMP XMP.STATUS_DISCOVERY false)).withXmp fun x =>
       { x with discovered := true, running := [⟨false, 0, 9, [1], 1, 255⟩] })) up), (0), (⟨false, 0, 9, [1], 1, 255⟩), by decide +kernel⟩,
   ⟨((fun (s : State) => (((s.putB pXMP COM.ENABLE true |>.putB pXMP (XMP.DEV_PRESENT 0) true |>.put pXMP (XMP.DEV_SIZE_LOG2 0) 24 |>.put pXMP
       (XMP.DEV_PAGE_LOG2 0) 8 |>.putB pXMP (XMP.DEV_PRESENT 1) false |>.putB pXMP XMP.STATUS_DISCOVERY false)).withXmp fun x =>
       { x with discovered := true, running := [⟨false, 1, 9, [1], 1, 255⟩] })) up), (1), (⟨false, 1, 9, [1], 1, 255⟩), by decide +kernel⟩,
   ⟨((fun (s : State) => (((s.putB pXMP COM.ENABLE true |>.putB pXMP (XMP.DEV_PRESENT 0) true |>.put pXMP (XMP.DEV_SIZE_LOG2 0) 24 |>.put pXMP
       (XMP.DEV_PAGE_LOG2 0) 8 |>.putB pXMP (XMP.DEV_PRESENT 1) false |>.putB pXMP XMP.STATUS_DISCOVERY false).put pXMP (XMP.DEV_ERASE_TYPES 0)
       0x8C90 |>.put pXMP XMP.ERASE_TYPE 1 |>.put pXMP XMP.ERASE_OFFSET 0xFFF000).withXmp fun x => { x with discovered := true, lines := [] })) up),
       (⟨true, 0, 0xFFF000, [], 4096, 255⟩), by decide +kernel⟩,
   ⟨((fun (s : State) => (((s.putB pXMP COM.ENABLE true |>.putB pXMP (XMP.DEV_PRESENT 0) true |>.put pXMP (XMP.DEV_SIZE_LOG2 0) 24 |>.put pXMP
       (XMP.DEV_PAGE_LOG2 0) 8 |>.putB pXMP (XMP.DEV_PRESENT 1) false |>.putB pXMP XMP.STATUS_DISCOVERY false).put pXMP (XMP.DEV_ERASE_TYPES 0)
       0x8C90 |>.put pXMP XMP.ERASE_TYPE 1 |>.put pXMP XMP.ERASE_OFFSET 0xFFF800).withXmp fun x => { x with discovered := true, lines := [] })) up),
       by decide +kernel⟩,
   ⟨((fun (s : State) => (((s.putB pXMP COM.ENABLE true |>.putB pXMP (XMP.DEV_PRESENT 0) true |>.put pXMP (XMP.DEV_SIZE_LOG2 0) 24 |>.put pXMP
       (XMP.DEV_PAGE_LOG2 0) 8 |>.putB pXMP (XMP.DEV_PRESENT 1) false |>.putB pXMP XMP.STATUS_DISCOVERY false)).withXmp fun x =>
       { x with discovered := true, running := [⟨true, 1, 0, [], 4096, 255⟩] })) up), (1), (⟨true, 1, 0, [], 4096, 255⟩), by decide +kernel⟩,
   ⟨((fun (s : State) => (((s.putB pXMP COM.ENABLE true |>.putB pXMP (XMP.DEV_PRESENT 0) true |>.put pXMP (XMP.DEV_SIZE_LOG2 0) 24 |>.put pXMP
       (XMP.DEV_PAGE_LOG2 0) 8 |>.putB pXMP (XMP.DEV_PRESENT 1) false |>.putB pXMP XMP.STATUS_DISCOVERY false)).withXmp fun x =>
       { x with discovered := true, running := [⟨true, 1, 0, [], 4096, 255⟩] })) up), (1), (⟨true, 1, 0, [], 4096, 255⟩), by decide +kernel⟩,
   ⟨((fun (s : State) => (((s.putB pXMP COM.ENABLE true |>.putB pXMP (XMP.DEV_PRESENT 0) true |>.put pXMP (XMP.DEV_SIZE_LOG2 0) 24 |>.put pXMP
       (XMP.DEV_PAGE_LOG2 0) 8 |>.putB pXMP (XMP.DEV_PRESENT 1) false |>.putB pXMP XMP.STATUS_DISCOVERY false)).withXmp fun x =>
       { x with discovered := true, running := (if 0 % 2 = 0 then [] else [⟨true, 1, 0, [], 4096, 255⟩]), want := [] })) up), by decide +kernel⟩⟩

theorem wit_EventsAreHeld :
    (∃ (s : State) (p : Nat) (hop : Nat) (ch : Nat), s.coreUp = true ∧ ch < 64 ∧ s.channelOn ch = true ∧ s.feeds p ch = true ∧ s.chainLinked ch =
        false ∧ openProducer p = true ∧ hop < 16 ∧ (s.deliveries.any fun e => e.ch == ch && e.chain == false && e.due == s.now + 1 + s.channelDelay
        ch && e.angle == 0) = false ∧ (s.deliveries.filter fun e => e.ch == ch).length + s.fires.count (ch, s.now) < 4) ∧
    (∃ (s : State) (p : Nat) (hop : Nat) (ch : Nat), s.coreUp = true ∧ ch < 64 ∧ s.channelOn ch = true ∧ s.feeds p ch = true ∧ s.chainLinked ch =
        false ∧ openProducer p = true ∧ hop < 16 ∧ (s.deliveries.any fun e => e.ch == ch && e.chain == false && e.due == s.now + 1 + s.channelDelay
        ch && e.angle == 0) = true) ∧
    (∃ (s : State) (p : Nat) (hop : Nat) (ch : Nat), s.coreUp = true ∧ ch < 64 ∧ s.channelOn ch = true ∧ s.feeds p ch = true ∧ s.chainLinked ch =
        false ∧ openProducer p = true ∧ hop < 16 ∧ (s.deliveries.any fun e => e.ch == ch && e.chain == false && e.due == s.now + 1 + s.channelDelay
        ch && e.angle == 0) = false ∧ 4 ≤ (s.deliveries.filter fun e => e.ch == ch).length + s.fires.count (ch, s.now)) ∧
    (∃ (s : State) (p : Nat) (hop : Nat) (ch : Nat), s.coreUp = true ∧ ch < 64 ∧ s.channelOn ch = true ∧ s.feeds p ch = true ∧ openProducer p = true
        ∧ 16 ≤ hop) ∧
    (∃ (s : State) (hi : Bool) (m : Nat) (ch : Nat), s.coreUp = true ∧ ch < 64 ∧ s.channelOn ch = true ∧ s.feeds 171 ch = true ∧ s.chainLinked ch =
        false ∧ (if hi then 40 ≤ ch ∧ m.testBit (ch - 40) = true else ch < 40 ∧ m.testBit ch = true) ∧ s.touched.fired.testBit ch = false ∧
        (s.deliveries.any fun e => e.ch == ch && e.chain == false && e.due == s.now + 1 + s.channelDelay ch && e.angle == 0) = false ∧
        (s.deliveries.filter fun e => e.ch == ch).length + s.fires.count (ch, s.now) < 4) ∧
    (∃ (s : State) (n : Nat) (r : Bool), s.coreRuns = true ∧ n < 16 ∧ (s.get pARB ARB.GPIO_EV_EDGE / 4 ^ n % 4 = 3 ∨ s.get pARB ARB.GPIO_EV_EDGE / 4
        ^ n % 4 = (if r then 1 else 2))) :=
  ⟨⟨((fun (s : State) =>
      { (fun (s : State) => (s.putB pARB COM.ENABLE true |>.putB (pEVT 7) COM.ENABLE true |>.putB (pEVT 7) (EVT.CH_CFG_EN 7) true |>.put (pEVT 7) (EVT.CH_CFG_DELAY 7) (3 * 0) |>.putB (pEVT 7) (EVT.CH_CFG_CHAIN 7) false |>.putBit (pEVT 7) (EVT.CH_PSEL 7 4) 31 true |>.putBit (pEVT 7) (EVT.CH_PSEL 7 4) 11 true)) s with touch := { s.touch with at_ := 0 } }) up), (191), (15), (63), by decide +kernel⟩,
   ⟨((fun (s : State) =>
       { (fun (s : State) => (fun (s : State) => { s with deliveries := [⟨63, s.now + 1 + s.get (pEVT 7) (EVT.CH_CFG_DELAY 7), 5, false, 0, false⟩] }) ((s.putB pARB COM.ENABLE true |>.putB (pEVT 7) COM.ENABLE true |>.putB (pEVT 7) (EVT.CH_CFG_EN 7) true |>.put (pEVT 7) (EVT.CH_CFG_DELAY 7) (3 * 0) |>.putB (pEVT 7) (EVT.CH_CFG_CHAIN 7) false |>.putBit (pEVT 7) (EVT.CH_PSEL 7 4) 31 true |>.putBit (pEVT 7) (EVT.CH_PSEL 7 4) 11 true))) s with touch := { s.touch with at_ := 0 } }) up), (191), (15), (63), by decide +kernel⟩,
   ⟨((fun (s : State) =>
       { (fun (s : State) => (fun (s : State) => { s with deliveries := (List.range 4).map fun i => ⟨63, s.now + 100000 + i, 5, false, 0, false⟩ }) ((s.putB pARB COM.ENABLE true |>.putB (pEVT 7) COM.ENABLE true |>.putB (pEVT 7) (EVT.CH_CFG_EN 7) true |>.put (pEVT 7) (EVT.CH_CFG_DELAY 7) (3 * 0) |>.putB (pEVT 7) (EVT.CH_CFG_CHAIN 7) false |>.putBit (pEVT 7) (EVT.CH_PSEL 7 4) 31 true |>.putBit (pEVT 7) (EVT.CH_PSEL 7 4) 11 true))) s with touch := { s.touch with at_ := 0 } }) up), (191), (15), (63), by decide +kernel⟩,
   ⟨((fun (s : State) =>
       { (fun (s : State) => (s.putB pARB COM.ENABLE true |>.putB (pEVT 7) COM.ENABLE true |>.putB (pEVT 7) (EVT.CH_CFG_EN 7) true |>.put (pEVT 7) (EVT.CH_CFG_DELAY 7) (3 * 0) |>.putB (pEVT 7) (EVT.CH_CFG_CHAIN 7) false |>.putBit (pEVT 7) (EVT.CH_PSEL 7 4) 31 true |>.putBit (pEVT 7) (EVT.CH_PSEL 7 4) 11 true)) s with touch := { s.touch with at_ := 0 } }) up), (191), (16), (63), by decide +kernel⟩,
   ⟨((fun (s : State) =>
       { (fun (s : State) => (s.putB pARB COM.ENABLE true |>.putB (pEVT 7) COM.ENABLE true |>.putB (pEVT 7) (EVT.CH_CFG_EN 7) true |>.put (pEVT 7) (EVT.CH_CFG_DELAY 7) (3 * 0) |>.putB (pEVT 7) (EVT.CH_CFG_CHAIN 7) false |>.putBit (pEVT 7) (EVT.CH_PSEL 7 4) 31 true |>.putBit (pEVT 7) (EVT.CH_PSEL 7 4) 11 true)) s with touch := { s.touch with at_ := 0 } }) up), (true), (2 ^ 23 + 0), (63), by decide +kernel⟩,
   ⟨((fun (s : State) => s.put pARB ARB.GPIO_EV_EDGE (if 0 % 3 = 0 then 3 * 2 ^ 30 else if 0 % 2 = 0 then 2 ^ 30 else 2 ^ 31)) up), (15), (0 % 2 ==
       0), by decide +kernel⟩⟩

theorem wit_ChannelsDeliver :
    (∃ (s : State) (ch : Nat) (d : Delivery), s.coreUp = true ∧ ch < 64 ∧ s.nextDelivery ch = some d ∧ s.chainLinked ch = false ∧ (ch, s.now) ∉
        s.fires ∧ s.channelTasks ch = []) ∧
    (∃ (s : State) (ch : Nat) (d : Delivery), s.coreUp = true ∧ ch < 64 ∧ s.nextDelivery ch = some d ∧ s.chainLinked ch = false ∧ (ch, s.now) ∈
        s.fires ∧ s.channelTasks ch = []) ∧
    (∃ (s : State) (ch : Nat) (d : Delivery) (n : Nat), s.coreUp = true ∧ ch < 64 ∧ s.nextDelivery ch = some d ∧ s.chainLinked ch = false ∧ n < 16 ∧
        s.channelTasks ch = [57 + n] ∧ s.trig = []) ∧
    (∃ (s : State) (ch : Nat) (d : Delivery), s.coreUp = true ∧ ch < 64 ∧ s.nextDelivery ch = some d ∧ s.chainLinked ch = true ∧ s.cannotSend =
        false) ∧
    (∃ (s : State) (ch : Nat) (d : Delivery), s.coreUp = true ∧ ch < 64 ∧ s.nextDelivery ch = some d ∧ s.chainLinked ch = true ∧ s.boardNum = 62) ∧
    (∃ (s : State) (ch : Nat) (a : Nat) (d : Delivery), s.coreUp = true ∧ ch < 64 ∧ s.channelOn ch = true ∧ s.deliveries.find? (fun d => d.ch == ch
        && d.chain && d.angle == a) = some d ∧ (ch, s.now) ∉ s.fires ∧ s.channelTasks ch = []) ∧
    (∃ (s : State) (second : Bool), s.coreRuns = true) :=
  ⟨⟨((fun (s : State) =>
      { (fun (s : State) => { (s.putB pARB COM.ENABLE true |>.putB (pEVT 7) COM.ENABLE true |>.putB (pEVT 7) (EVT.CH_CFG_EN 7) true |>.put (pEVT 7) (EVT.CH_CFG_DELAY 7) (3 * 0) |>.putB (pEVT 7) (EVT.CH_CFG_CHAIN 7) false |>.putBit (pEVT 7) (EVT.CH_PSEL 7 4) 31 true |>.putBit (pEVT 7) (EVT.CH_PSEL 7 4) 11 true) with deliveries := [⟨63, 100, 5, false, 77, false⟩] } |>.put (pEVT 7) (EVT.CH_TSEL 7 0) 0 |>.put (pEVT 7) (EVT.CH_TSEL 7 1) 0 |>.put (pEVT 7) (EVT.CH_TSEL 7 2) 0) s with touch := { s.touch with at_ := 0 } }) up), (63), (⟨63, 100, 5, false, 77, false⟩), by decide +kernel⟩,
   ⟨((fun (s : State) =>
       { (fun (s : State) => { (s.putB pARB COM.ENABLE true |>.putB (pEVT 7) COM.ENABLE true |>.putB (pEVT 7) (EVT.CH_CFG_EN 7) true |>.put (pEVT 7) (EVT.CH_CFG_DELAY 7) (3 * 0) |>.putB (pEVT 7) (EVT.CH_CFG_CHAIN 7) false |>.putBit (pEVT 7) (EVT.CH_PSEL 7 4) 31 true |>.putBit (pEVT 7) (EVT.CH_PSEL 7 4) 11 true) with deliveries := [⟨63, 100, 5, false, 77, false⟩], fires := [(63, s.now)] } |>.put (pEVT 7) (EVT.CH_TSEL 7 0) 0 |>.put (pEVT 7) (EVT.CH_TSEL 7 1) 0 |>.put (pEVT 7) (EVT.CH_TSEL 7 2) 0) s with touch := { s.touch with at_ := 0 } }) up), (63), (⟨63, 100, 5, false, 77, false⟩), by decide +kernel⟩,
   ⟨((fun (s : State) =>
       { (fun (s : State) => ({ (s.putB pARB COM.ENABLE true |>.putB (pEVT 7) COM.ENABLE true |>.putB (pEVT 7) (EVT.CH_CFG_EN 7) true |>.put (pEVT 7) (EVT.CH_CFG_DELAY 7) (3 * 0) |>.putB (pEVT 7) (EVT.CH_CFG_CHAIN 7) false |>.putBit (pEVT 7) (EVT.CH_PSEL 7 4) 31 true |>.putBit (pEVT 7) (EVT.CH_PSEL 7 4) 11 true) with deliveries := [⟨63, 100, 5, false, 77, false⟩] } |>.put (pEVT 7) (EVT.CH_TSEL 7 0) 0 |>.put (pEVT 7) (EVT.CH_TSEL 7 1) (2 ^ 32) |>.put (pEVT 7) (EVT.CH_TSEL 7 2) 0)) s with touch := { s.touch with at_ := 0 } }) up), (63), (⟨63, 100, 5, false, 77, false⟩), (15), by decide +kernel⟩,
   ⟨((fun (s : State) =>
       { (fun (s : State) => ({ (s.putB pARB COM.ENABLE true |>.putB (pEVT 7) COM.ENABLE true |>.putB (pEVT 7) (EVT.CH_CFG_EN 7) true |>.put (pEVT 7) (EVT.CH_CFG_DELAY 7) (3 * 0) |>.putB (pEVT 7) (EVT.CH_CFG_CHAIN 7) true |>.putBit (pEVT 7) (EVT.CH_PSEL 7 4) 31 true |>.putBit (pEVT 7) (EVT.CH_PSEL 7 4) 11 true) with deliveries := [⟨63, 100, 5, false, 77, false⟩], mch := { s.mch with lost := false, dup := false, head := true, roleSet := true, aligned := true }, ang := { s.ang with running := true } }.put pDEV DEV.BOARD_NUM_NUM 5 |>.putB pMCH MCH.FAULT_DUP_NUMBER false |>.putB pMCH MCH.FAULT_ANGLE_LOST false |>.putB pMCH COM.ENABLE true |>.putB pANG COM.ENABLE true)) s with touch := { s.touch with at_ := 0 } }) up), (63), (⟨63, 100, 5, false, 77, false⟩), by decide +kernel⟩,
   ⟨((fun (s : State) =>
       { (fun (s : State) => ({ (s.putB pARB COM.ENABLE true |>.putB (pEVT 7) COM.ENABLE true |>.putB (pEVT 7) (EVT.CH_CFG_EN 7) true |>.put (pEVT 7) (EVT.CH_CFG_DELAY 7) (3 * 0) |>.putB (pEVT 7) (EVT.CH_CFG_CHAIN 7) true |>.putBit (pEVT 7) (EVT.CH_PSEL 7 4) 31 true |>.putBit (pEVT 7) (EVT.CH_PSEL 7 4) 11 true) with deliveries := [⟨63, 100, 5, false, 77, false⟩] }.put pDEV DEV.BOARD_NUM_NUM 62)) s with touch := { s.touch with at_ := 0 } }) up), (63), (⟨63, 100, 5, false, 77, false⟩), by decide +kernel⟩,
   ⟨((fun (s : State) =>
       { (fun (s : State) => ({ (s.putB pARB COM.ENABLE true |>.putB (pEVT 7) COM.ENABLE true |>.putB (pEVT 7) (EVT.CH_CFG_EN 7) true |>.put (pEVT 7) (EVT.CH_CFG_DELAY 7) (3 * 0) |>.putB (pEVT 7) (EVT.CH_CFG_CHAIN 7) true |>.putBit (pEVT 7) (EVT.CH_PSEL 7 4) 31 true |>.putBit (pEVT 7) (EVT.CH_PSEL 7 4) 11 true) with deliveries := [⟨63, 100, 5, true, 77, false⟩] } |>.put (pEVT 7) (EVT.CH_TSEL 7 0) 0 |>.put (pEVT 7) (EVT.CH_TSEL 7 1) 0 |>.put (pEVT 7) (EVT.CH_TSEL 7 2) 0)) s with touch := { s.touch with at_ := 0 } }) up), (63), (77), (⟨63, 100, 5, true, 77, false⟩), by decide +kernel⟩,
   ⟨((fun (s : State) => s) up), (0 % 2 == 0), by decide +kernel⟩⟩

theorem wit_CalibrationRuns :
    (∃ (s : State) (i : Nat), s.coreUp = true ∧ s.enabled pCAL = true ∧ i < 27 ∧ s.kindOn i = true ∧ s.isDue i = false) ∧
    (∃ (s : State) (w : Nat), s.coreRuns = true ∧ s.enabled pCAL = true ∧ s.cal.stage = 0 ∧ w < 8 ∧ s.calMayTake w false = true ∧ (s.windowTx w ++
        s.windowRx w).any s.isDue = true) ∧
    (∃ (s : State), s.coreRuns = true ∧ s.enabled pCAL = true ∧ s.cal.stage = 0 ∧ s.isDue 0 = true ∧ s.quiet = true ∧ ((List.range 8).all
        (s.calMayTake · false)) = true) ∧
    (∃ (s : State) (i : Nat) (l : List Nat), s.coreRuns = true ∧ s.enabled pCAL = true ∧ s.cal.stage = 2 ∧ s.cal.todo = [i] ∧ 10 ≤ i ∧ i < 27 ∧
        s.readingsFor i ≤ l.length ∧ circSpread ((l.take s.calReps).map (· % 512)) ≤ s.get pCAL CAL.ACCEPT_AGREE ∧ (l.drop s.calReps).take s.calReps
        = List.replicate s.calReps 7 ∧ AMap.find i s.cal.refs = none ∧ s.isDue 0 = false ∧ s.touched.writes = []) ∧
    (∃ (s : State) (i : Nat) (l : List Nat), s.coreRuns = true ∧ s.enabled pCAL = true ∧ s.cal.stage = 2 ∧ s.cal.todo = [i] ∧ 10 ≤ i ∧ i < 27 ∧
        s.readingsFor i ≤ l.length ∧ s.get pCAL CAL.ACCEPT_AGREE < circSpread ((l.take s.calReps).map (· % 512))) ∧
    (∃ (s : State), s.coreUp = true ∧ 1 ≤ s.cal.stage ∧ s.cal.stage ≤ 3 ∧ s.cal.wing < 8 ∧ s.owner s.cal.wing = 11 ∧ (s.enabled pCAL = false ∨
        s.cal.forced = false ∧ s.calWanted = true)) ∧
    (∃ (s : State) (i : Nat), s.coreUp = true ∧ s.enabled pCAL = true ∧ s.isDue i = true ∧ s.kindOn i = true) ∧
    (∃ (s : State) (w : Nat), s.coreRuns = true ∧ s.enabled pCAL = true ∧ s.cal.stage = 0 ∧ w < 8 ∧ s.calMayTake w true = true ∧ s.forcedReady w =
        true ∧ s.windowTx w ++ s.windowRx w ≠ []) ∧
    (∃ (s : State), s.coreRuns = true ∧ s.enabled pCAL = true ∧ s.cal.stage ≤ 3 ∧ s.cal.wing < 8) :=
  ⟨⟨((fun (s : State) => (((s.putB pCAL COM.ENABLE true |>.putB pCAL CAL.CFG_TXP_EN true |>.putB pCAL CAL.CFG_RXP_EN true |>.setOwner 7 15 |>.put
      (pTXC 7) ⟨7, 3, 1⟩ 0)).withCal fun c => { c with due := [] })) up), (26), by decide +kernel⟩,
   ⟨((fun (s : State) => (((s.putB pCAL COM.ENABLE true |>.putB pCAL CAL.CFG_TXP_EN true |>.putB pCAL CAL.CFG_RXP_EN true |>.setOwner 7 15 |>.put
       (pTXC 7) ⟨7, 3, 1⟩ 0).put (pTXC 7) COM.STATUS 0 |>.put (pTXC 8) TXC.CFG_SERVE 0 |>.putB pCAL CAL.CFG_TXP_EN (0 % 2 == 0)).withCal fun c =>
       { c with due := [(8, 5), (24, 6)], stage := 0 })) up), (7), by decide +kernel⟩,
   ⟨((fun (s : State) => (List.range 9).foldl (fun (s : State) n => (s.setField n 0).setOwner (n % 8) 15) ((((s.putB pCAL COM.ENABLE true |>.putB
       pCAL CAL.CFG_TXP_EN true |>.putB pCAL CAL.CFG_RXP_EN true |>.setOwner 7 15 |>.put (pTXC 7) ⟨7, 3, 1⟩ 0)).withCal fun c =>
       { c with due := [(0, 5)], stage := 0 }))) up), by decide +kernel⟩,
   ⟨((fun (s : State) => (((s.putB pCAL COM.ENABLE true |>.putB pCAL CAL.CFG_TXP_EN true |>.putB pCAL CAL.CFG_RXP_EN true |>.setOwner 7 15 |>.put
       (pTXC 7) ⟨7, 3, 1⟩ 0).put pCAL CAL.ACCEPT_REPS 4 |>.put pCAL CAL.ACCEPT_AGREE 9).withCal fun c =>
       { c with due := [(26, 5)], stage := 2, wing := 7, todo := [26] }) |> fun s => { s with touch := { s.touch with at_ := 0 } }) up), (26), ([511,
       3, 1, 510, 7, 7, 7, 7]), by decide +kernel⟩,
   ⟨((fun (s : State) => (((s.putB pCAL COM.ENABLE true |>.putB pCAL CAL.CFG_TXP_EN true |>.putB pCAL CAL.CFG_RXP_EN true |>.setOwner 7 15 |>.put
       (pTXC 7) ⟨7, 3, 1⟩ 0).put pCAL CAL.ACCEPT_REPS 4 |>.put pCAL CAL.ACCEPT_AGREE 9).withCal fun c =>
       { c with due := [(26, 5)], stage := 2, wing := 7, todo := [26] })) up), (26), ([511, 3, 1, 300, 7, 7, 7, 7]), by decide +kernel⟩,
   ⟨((fun (s : State) => (((((s.putB pCAL COM.ENABLE true |>.putB pCAL CAL.CFG_TXP_EN true |>.putB pCAL CAL.CFG_RXP_EN true |>.setOwner 7 15 |>.put
       (pTXC 7) ⟨7, 3, 1⟩ 0).setOwner 7 11).withCal fun c => { c with stage := 1 + 0 % 3, wing := 7, forced := false })).put (pCND 3)
       (CND.CTX_STATE_RUN 3) 2).withCtx 3 fun x => { x with move := some (.send 3 ⟨7, 0, 0, 0⟩ 0) }) up), by decide +kernel⟩,
   ⟨((fun (s : State) => (((s.putB pCAL COM.ENABLE true |>.putB pCAL CAL.CFG_TXP_EN true |>.putB pCAL CAL.CFG_RXP_EN true |>.setOwner 7 15 |>.put
       (pTXC 7) ⟨7, 3, 1⟩ 0)).withCal fun c => { c with due := [(26, 5)] })) up), (26), by decide +kernel⟩,
   ⟨((fun (s : State) => (((s.putB pCAL COM.ENABLE true |>.putB pCAL CAL.CFG_TXP_EN true |>.putB pCAL CAL.CFG_RXP_EN true |>.setOwner 7 15 |>.put
       (pTXC 7) ⟨7, 3, 1⟩ 0).put (pTXC 7) COM.STATUS 0 |>.put (pTXC 8) TXC.CFG_SERVE 0).withCal fun c =>
       { c with due := [(8, 5)], owed := [7], stage := 0 })) up), (7), by decide +kernel⟩,
   ⟨((fun (s : State) => (((s.putB pCAL COM.ENABLE true |>.putB pCAL CAL.CFG_TXP_EN true |>.putB pCAL CAL.CFG_RXP_EN true |>.setOwner 7 15 |>.put
       (pTXC 7) ⟨7, 3, 1⟩ 0)).withCal fun c => { c with stage := 0 % 4, wing := 7 })) up), by decide +kernel⟩⟩

theorem wit_CorrectionsApply :
    (∃ (s : State) (q : Nat) (o : Nat) (v : Word), s.coreRuns = true ∧ s.cal.pend = [(q * 256 + o, v)] ∧ q < 256 ∧ o < 256 ∧ q ≠ pCAL ∧ ¬ (q = pMCH ∧
        o = MCH.RANGE_OFFSET.off)) ∧
    (∃ (s : State) (q : Nat) (o : Nat) (v : Word), s.coreRuns = true ∧ s.bit pCAL CAL.STATUS_SIMUL_HOLD = false ∧ s.cal.pend = [(q * 256 + o, v)] ∧ q
        < 256 ∧ o < 256 ∧ q ≠ pCAL ∧ ¬ (q = pMCH ∧ o = MCH.RANGE_OFFSET.off)) ∧
    (∃ (s : State), s.coreRuns = true ∧ s.enabled pCAL = true) ∧
    (∃ (s : State) (l : List Nat) (r : Nat) (p : Nat) (a : Nat) (b : Nat), s.coreRuns = true ∧ s.enabled pCAL = true ∧ s.cal.xb = some (r, p, a, b) ∧
        s.owner (p / 24) ≠ 15) ∧
    (∃ (s : State) (p : Nat), s.coreRuns = true ∧ s.enabled pCAL = true ∧ s.bit pCAL CAL.XB_RESULT_VALID = false) ∧
    (∃ (s : State) (p : Nat) (d : Int), s.coreRuns = true ∧ s.enabled pCAL = true ∧ s.bit pCAL CAL.XB_RESULT_VALID = true ∧ AMap.find 27 s.cal.refs =
        none ∧ s.touched.writes = [] ∧ d = circDiff (s.get pCAL CAL.XB_RESULT_PHASE) p) ∧
    (∃ (s : State) (l : List Nat) (p : Nat) (a : Nat) (b : Nat) (n : Nat), s.coreRuns = true ∧ s.enabled pCAL = true ∧ s.cal.xb = some (1, p, a, b) ∧
        p < 192 ∧ s.cal.stage = 0 ∧ s.owner (p / 24) = 15 ∧ s.invHolds (p / 24) = false ∧ n = s.serving (p / 24) ∧ s.txc.length = 9 ∧ s.portOk p =
        true ∧ s.inReach n p = true ∧ s.noField n = false ∧ s.fieldSt n = 0 ∧ s.enabled (pTXC n) = true) ∧
    (∃ (s : State) (l : List Nat) (p : Nat) (a : Nat) (b : Nat) (n : Nat), s.coreRuns = true ∧ s.enabled pCAL = true ∧ s.cal.xb = some (2, p, a, b) ∧
        p < 192 ∧ s.cal.stage = 0 ∧ s.owner (p / 24) = 15 ∧ s.invHolds (p / 24) = false ∧ s.roleChain (p / 24) 1 = .inl n ∧ s.tapOk n p = true ∧
        s.calReps ≤ l.length) :=
  ⟨⟨((fun (s : State) => (((s.putB pCAL COM.ENABLE true |>.putB pCAL CAL.CFG_TXP_EN true |>.putB pCAL CAL.CFG_RXP_EN true |>.setOwner 7 15 |>.put
      (pTXC 7) ⟨7, 3, 1⟩ 0)).withCal fun c => { c with pend := [(pTXC 8 * 256 + TXC.TRIM_PHASE.off, 300)] })) up), (pTXC 8), (TXC.TRIM_PHASE.off),
      (300), by decide +kernel⟩,
   ⟨((fun (s : State) => (((s.putB pCAL COM.ENABLE true |>.putB pCAL CAL.CFG_TXP_EN true |>.putB pCAL CAL.CFG_RXP_EN true |>.setOwner 7 15 |>.put
       (pTXC 7) ⟨7, 3, 1⟩ 0).putB pCAL CAL.STATUS_SIMUL_HOLD false).withCal fun c => { c with pend := [(pRXC 3 * 256 + RXC.TRIM_PHASE.off, 300)] }))
       up), (pRXC 3), (RXC.TRIM_PHASE.off), (300), by decide +kernel⟩,
   ⟨((fun (s : State) => (s.putB pCAL COM.ENABLE true |>.putB pCAL CAL.CFG_TXP_EN true |>.putB pCAL CAL.CFG_RXP_EN true |>.setOwner 7 15 |>.put (pTXC
       7) ⟨7, 3, 1⟩ 0)) up), by decide +kernel⟩,
   ⟨((fun (s : State) => (((s.putB pCAL COM.ENABLE true |>.putB pCAL CAL.CFG_TXP_EN true |>.putB pCAL CAL.CFG_RXP_EN true |>.setOwner 7 15 |>.put
       (pTXC 7) ⟨7, 3, 1⟩ 0).setOwner 7 3).withCal fun c => { c with xb := some (2, 191, 0, 100) })) up), ([]), (2), (191), (0), (100),
       by decide +kernel⟩,
   ⟨((fun (s : State) => (s.putB pCAL COM.ENABLE true |>.putB pCAL CAL.CFG_TXP_EN true |>.putB pCAL CAL.CFG_RXP_EN true |>.setOwner 7 15 |>.put (pTXC
       7) ⟨7, 3, 1⟩ 0).putB pCAL CAL.XB_RESULT_VALID false) up), (9), by decide +kernel⟩,
   ⟨((fun (s : State) => (((s.putB pCAL COM.ENABLE true |>.putB pCAL CAL.CFG_TXP_EN true |>.putB pCAL CAL.CFG_RXP_EN true |>.setOwner 7 15 |>.put
       (pTXC 7) ⟨7, 3, 1⟩ 0).putB pCAL CAL.XB_RESULT_VALID true |>.put pCAL CAL.XB_RESULT_PHASE (500 + 0)).withCal fun c => { c with refs := [] }) |>
       fun s => { s with touch := { s.touch with at_ := 0 } }) up), (9), ((fun (s : State) => circDiff (s.get pCAL CAL.XB_RESULT_PHASE) (9 : Nat))
       ((fun (s : State) => (((s.putB pCAL COM.ENABLE true |>.putB pCAL CAL.CFG_TXP_EN true |>.putB pCAL CAL.CFG_RXP_EN true |>.setOwner 7 15 |>.put
       (pTXC 7) ⟨7, 3, 1⟩ 0).putB pCAL CAL.XB_RESULT_VALID true |>.put pCAL CAL.XB_RESULT_PHASE (500 + 0)).withCal fun c => { c with refs := [] }) |>
       fun s => { s with touch := { s.touch with at_ := 0 } }) up)), by decide +kernel⟩,
   ⟨((fun (s : State) => (((s.putB pCAL COM.ENABLE true |>.putB pCAL CAL.CFG_TXP_EN true |>.putB pCAL CAL.CFG_RXP_EN true |>.setOwner 7 15 |>.put
       (pTXC 7) ⟨7, 3, 1⟩ 0).setOwner 7 15 |>.putB pCLK COM.ENABLE true |>.putB (pFIL 23) COM.ENABLE true |>.putB (pFIL 23) (FIL.PORT_FITTED 7) true
       |>.putB (pTXC 7) COM.ENABLE true |>.putB (pRXC 15) COM.ENABLE true |>.putB (pRXC 14) COM.ENABLE true |>.put (pRXC 14) ⟨7, 3, 1⟩ 0 |>.put (pTXC
       8) TXC.CFG_SERVE 0 |>.put (pRXC 16) RXC.CFG_SERVE 0 |>.put (pRXC 15) ⟨7, 3, 1⟩ 0 |>.put (pTXC 8) ⟨2, 39, 0⟩ 0 |>.put pFLT FLT.STATUS_RESIGNED
       0 |>.setField 7 0).withCal fun c => { c with xb := some (1, 191, 0, 100), stage := 0 })) up), ([]), (191), (0), (100), ((fun (s : State) =>
       s.serving 7) ((fun (s : State) => (((s.putB pCAL COM.ENABLE true |>.putB pCAL CAL.CFG_TXP_EN true |>.putB pCAL CAL.CFG_RXP_EN true |>.setOwner
       7 15 |>.put (pTXC 7) ⟨7, 3, 1⟩ 0).setOwner 7 15 |>.putB pCLK COM.ENABLE true |>.putB (pFIL 23) COM.ENABLE true |>.putB (pFIL 23)
       (FIL.PORT_FITTED 7) true |>.putB (pTXC 7) COM.ENABLE true |>.putB (pRXC 15) COM.ENABLE true |>.putB (pRXC 14) COM.ENABLE true |>.put (pRXC 14)
       ⟨7, 3, 1⟩ 0 |>.put (pTXC 8) TXC.CFG_SERVE 0 |>.put (pRXC 16) RXC.CFG_SERVE 0 |>.put (pRXC 15) ⟨7, 3, 1⟩ 0 |>.put (pTXC 8) ⟨2, 39, 0⟩ 0 |>.put
       pFLT FLT.STATUS_RESIGNED 0 |>.setField 7 0).withCal fun c => { c with xb := some (1, 191, 0, 100), stage := 0 })) up)), by decide +kernel⟩,
   ⟨((fun (s : State) => (((s.putB pCAL COM.ENABLE true |>.putB pCAL CAL.CFG_TXP_EN true |>.putB pCAL CAL.CFG_RXP_EN true |>.setOwner 7 15 |>.put
       (pTXC 7) ⟨7, 3, 1⟩ 0).setOwner 7 15 |>.putB pCLK COM.ENABLE true |>.putB (pFIL 23) COM.ENABLE true |>.putB (pFIL 23) (FIL.PORT_FITTED 7) true
       |>.putB (pTXC 7) COM.ENABLE true |>.putB (pRXC 15) COM.ENABLE true |>.putB (pRXC 14) COM.ENABLE true |>.put (pRXC 14) ⟨7, 3, 1⟩ 0 |>.put (pTXC
       8) TXC.CFG_SERVE 0 |>.put (pRXC 16) RXC.CFG_SERVE 0 |>.put (pRXC 15) ⟨7, 3, 1⟩ 0 |>.put (pTXC 8) ⟨2, 39, 0⟩ 0 |>.put pFLT FLT.STATUS_RESIGNED
       0 |>.setField 7 0).withCal fun c => { c with xb := some (2, 191, 0, 100), stage := 0 })) up), (List.replicate 64 9), (191), (0), (100), (15),
       by decide +kernel⟩⟩

theorem wit_ScoresheetMounts :
    (∃ (s : State) (l : List SectorScan) (n : Nat) (q : Nat) (x : SectorScan), s.scoUsable = true ∧ s.bit pSCO SCO.STATUS_MOUNTED = false ∧ s.sco.op
        = 0 ∧ pickSector false (s.headers l) = some (n, q) ∧ l[n]? = some x ∧ x.slots.length ≤ s.scoSlots) ∧
    (∃ (s : State) (l : List SectorScan) (n : Nat) (q : Nat) (x : SectorScan), s.scoUsable = true ∧ s.sco.op = 0 ∧ pickSector false (s.headers l) =
        some (n, q) ∧ l[n]? = some x ∧ x.slots.length ≤ s.scoSlots) ∧
    (∃ (s : State) (l : List SectorScan), s.scoUsable = true ∧ s.bit pSCO SCO.STATUS_MOUNTED = false ∧ s.sco.op = 0 ∧ pickSector false (s.headers l)
        = none ∧ s.bit pSCO SCO.CFG_AUTO_FORMAT = false) ∧
    (∃ (s : State) (e : Nat), s.scoUsable = true ∧ s.bit pSCO SCO.STATUS_MOUNTED = false ∧ s.scoMay = true ∧ s.xmp.running = [] ∧ s.xmp.queue = [] ∧
        s.xmp.backlog = [] ∧ s.scoErase (s.devOf (s.sectorAddr 0 - winBase)) = some e ∧ (s.eraseOp e (s.sectorAddr 0 - winBase) 254).isSome = true) ∧
    (∃ (s : State) (t : TelReading), s.coreRuns = true ∧ s.enabled pSCO = true ∧ s.scoRoom 3 = true) ∧
    (∃ (s : State) (t : TelReading), s.coreRuns = true ∧ s.enabled pSCO = true ∧ s.bit pSCO SCO.TEL_EN = true ∧ s.scoRoom 3 = false) ∧
    (∃ (s : State) (t : TelReading), s.coreRuns = true ∧ s.enabled pSCO = true ∧ s.bit pSCO SCO.TEL_EN = true ∧ s.scoRoom 3 = true) :=
  ⟨⟨((fun (s : State) => (((((((s.putB pXMP COM.ENABLE true |>.putB pXMP (XMP.DEV_PRESENT 0) true |>.put pXMP (XMP.DEV_SIZE_LOG2 0) 24 |>.put pXMP
      (XMP.DEV_PAGE_LOG2 0) 8 |>.putB pXMP (XMP.DEV_PRESENT 1) false |>.putB pXMP XMP.STATUS_DISCOVERY false).put pXMP (XMP.DEV_ERASE_TYPES 0) 0x8C
      |>.put pSCO SCO.CFG_SECTORS 4 |>.put pSCO SCO.CFG_LOG2 12 |>.put pSCO SCO.BASE_ADDR (winBase + 8192) |>.putB pSCO COM.ENABLE true |>.putB pSCO
      SCO.STATUS_MOUNTED false).withXmp fun x => { x with discovered := true, running := [], queue := [], backlog := [], lines := [] }))).withSco fun
      x => { x with op := 0, sector := 0 }))) up), ((fun (s : State) => (let s := s.withSco fun x => { x with sseq := 7 + 0 }; [⟨[]⟩,
      ⟨[⟨s.recordBytes (41 + 0) s.header, false⟩, ⟨[1], false⟩]⟩])) ((fun (s : State) => (((((((s.putB pXMP COM.ENABLE true |>.putB pXMP
      (XMP.DEV_PRESENT 0) true |>.put pXMP (XMP.DEV_SIZE_LOG2 0) 24 |>.put pXMP (XMP.DEV_PAGE_LOG2 0) 8 |>.putB pXMP (XMP.DEV_PRESENT 1) false
      |>.putB pXMP XMP.STATUS_DISCOVERY false).put pXMP (XMP.DEV_ERASE_TYPES 0) 0x8C |>.put pSCO SCO.CFG_SECTORS 4 |>.put pSCO SCO.CFG_LOG2 12 |>.put
      pSCO SCO.BASE_ADDR (winBase + 8192) |>.putB pSCO COM.ENABLE true |>.putB pSCO SCO.STATUS_MOUNTED false).withXmp fun x =>
      { x with discovered := true, running := [], queue := [], backlog := [], lines := [] }))).withSco fun x => { x with op := 0, sector := 0 })))
      up)), (1), (7 + 0), ((fun (s : State) => ((let s := s.withSco fun x => { x with sseq := 7 + 0 }; [⟨[]⟩, ⟨[⟨s.recordBytes (41 + 0) s.header,
      false⟩, ⟨[1], false⟩]⟩])).getD 1 ⟨[]⟩) ((fun (s : State) => (((((((s.putB pXMP COM.ENABLE true |>.putB pXMP (XMP.DEV_PRESENT 0) true |>.put
      pXMP (XMP.DEV_SIZE_LOG2 0) 24 |>.put pXMP (XMP.DEV_PAGE_LOG2 0) 8 |>.putB pXMP (XMP.DEV_PRESENT 1) false |>.putB pXMP XMP.STATUS_DISCOVERY
      false).put pXMP (XMP.DEV_ERASE_TYPES 0) 0x8C |>.put pSCO SCO.CFG_SECTORS 4 |>.put pSCO SCO.CFG_LOG2 12 |>.put pSCO SCO.BASE_ADDR (winBase +
      8192) |>.putB pSCO COM.ENABLE true |>.putB pSCO SCO.STATUS_MOUNTED false).withXmp fun x =>
      { x with discovered := true, running := [], queue := [], backlog := [], lines := [] }))).withSco fun x => { x with op := 0, sector := 0 })))
      up)), by decide +kernel⟩,
   ⟨((fun (s : State) => (((((((s.putB pXMP COM.ENABLE true |>.putB pXMP (XMP.DEV_PRESENT 0) true |>.put pXMP (XMP.DEV_SIZE_LOG2 0) 24 |>.put pXMP
       (XMP.DEV_PAGE_LOG2 0) 8 |>.putB pXMP (XMP.DEV_PRESENT 1) false |>.putB pXMP XMP.STATUS_DISCOVERY false).put pXMP (XMP.DEV_ERASE_TYPES 0) 0x8C
       |>.put pSCO SCO.CFG_SECTORS 4 |>.put pSCO SCO.CFG_LOG2 12 |>.put pSCO SCO.BASE_ADDR (winBase + 8192) |>.putB pSCO COM.ENABLE true |>.putB pSCO
       SCO.STATUS_MOUNTED true).withXmp fun x => { x with discovered := true, running := [], queue := [], backlog := [], lines := [] }))).withSco fun
       x => { x with op := 0, sector := 0 }))) up), ((fun (s : State) => (let s := s.withSco fun x => { x with sseq := 7 + 0 }; [⟨[]⟩,
       ⟨[⟨s.recordBytes (41 + 0) s.header, false⟩, ⟨[1], false⟩]⟩])) ((fun (s : State) => (((((((s.putB pXMP COM.ENABLE true |>.putB pXMP
       (XMP.DEV_PRESENT 0) true |>.put pXMP (XMP.DEV_SIZE_LOG2 0) 24 |>.put pXMP (XMP.DEV_PAGE_LOG2 0) 8 |>.putB pXMP (XMP.DEV_PRESENT 1) false
       |>.putB pXMP XMP.STATUS_DISCOVERY false).put pXMP (XMP.DEV_ERASE_TYPES 0) 0x8C |>.put pSCO SCO.CFG_SECTORS 4 |>.put pSCO SCO.CFG_LOG2 12
       |>.put pSCO SCO.BASE_ADDR (winBase + 8192) |>.putB pSCO COM.ENABLE true |>.putB pSCO SCO.STATUS_MOUNTED true).withXmp fun x =>
       { x with discovered := true, running := [], queue := [], backlog := [], lines := [] }))).withSco fun x => { x with op := 0, sector := 0 })))
       up)), (1), (7 + 0), ((fun (s : State) => ((let s := s.withSco fun x => { x with sseq := 7 + 0 }; [⟨[]⟩, ⟨[⟨s.recordBytes (41 + 0) s.header,
       false⟩, ⟨[1], false⟩]⟩])).getD 1 ⟨[]⟩) ((fun (s : State) => (((((((s.putB pXMP COM.ENABLE true |>.putB pXMP (XMP.DEV_PRESENT 0) true |>.put
       pXMP (XMP.DEV_SIZE_LOG2 0) 24 |>.put pXMP (XMP.DEV_PAGE_LOG2 0) 8 |>.putB pXMP (XMP.DEV_PRESENT 1) false |>.putB pXMP XMP.STATUS_DISCOVERY
       false).put pXMP (XMP.DEV_ERASE_TYPES 0) 0x8C |>.put pSCO SCO.CFG_SECTORS 4 |>.put pSCO SCO.CFG_LOG2 12 |>.put pSCO SCO.BASE_ADDR (winBase +
       8192) |>.putB pSCO COM.ENABLE true |>.putB pSCO SCO.STATUS_MOUNTED true).withXmp fun x =>
       { x with discovered := true, running := [], queue := [], backlog := [], lines := [] }))).withSco fun x => { x with op := 0, sector := 0 })))
       up)), by decide +kernel⟩,
   ⟨((fun (s : State) => (((((((s.putB pXMP COM.ENABLE true |>.putB pXMP (XMP.DEV_PRESENT 0) true |>.put pXMP (XMP.DEV_SIZE_LOG2 0) 24 |>.put pXMP
       (XMP.DEV_PAGE_LOG2 0) 8 |>.putB pXMP (XMP.DEV_PRESENT 1) false |>.putB pXMP XMP.STATUS_DISCOVERY false).put pXMP (XMP.DEV_ERASE_TYPES 0) 0x8C
       |>.put pSCO SCO.CFG_SECTORS 4 |>.put pSCO SCO.CFG_LOG2 12 |>.put pSCO SCO.BASE_ADDR (winBase + 8192) |>.putB pSCO COM.ENABLE true |>.putB pSCO
       SCO.STATUS_MOUNTED false).withXmp fun x => { x with discovered := true, running := [], queue := [], backlog := [], lines := [] }))).withSco
       fun x => { x with op := 0, sector := 0 }).putB pSCO SCO.CFG_AUTO_FORMAT false)) up), ([]), by decide +kernel⟩,
   ⟨((fun (s : State) => (((((((s.putB pXMP COM.ENABLE true |>.putB pXMP (XMP.DEV_PRESENT 0) true |>.put pXMP (XMP.DEV_SIZE_LOG2 0) 24 |>.put pXMP
       (XMP.DEV_PAGE_LOG2 0) 8 |>.putB pXMP (XMP.DEV_PRESENT 1) false |>.putB pXMP XMP.STATUS_DISCOVERY false).put pXMP (XMP.DEV_ERASE_TYPES 0) 0x8C
       |>.put pSCO SCO.CFG_SECTORS 4 |>.put pSCO SCO.CFG_LOG2 12 |>.put pSCO SCO.BASE_ADDR (winBase + 8192) |>.putB pSCO COM.ENABLE true |>.putB pSCO
       SCO.STATUS_MOUNTED false).withXmp fun x => { x with discovered := true, running := [], queue := [], backlog := [], lines := [] }))).withSco
       fun x => { x with op := 0, sector := 0 }))) up), (0), by decide +kernel⟩,
   ⟨((fun (s : State) => (((((((s.putB pXMP COM.ENABLE true |>.putB pXMP (XMP.DEV_PRESENT 0) true |>.put pXMP (XMP.DEV_SIZE_LOG2 0) 24 |>.put pXMP
       (XMP.DEV_PAGE_LOG2 0) 8 |>.putB pXMP (XMP.DEV_PRESENT 1) false |>.putB pXMP XMP.STATUS_DISCOVERY false).put pXMP (XMP.DEV_ERASE_TYPES 0) 0x8C
       |>.put pSCO SCO.CFG_SECTORS 4 |>.put pSCO SCO.CFG_LOG2 12 |>.put pSCO SCO.BASE_ADDR (winBase + 8192) |>.putB pSCO COM.ENABLE true |>.putB pSCO
       SCO.STATUS_MOUNTED true).withXmp fun x => { x with discovered := true, running := [], queue := [], backlog := [], lines := [] }))).withSco fun
       x => { x with op := 0, sector := 0 }))) up), (⟨1, 2, 3, 4⟩), by decide +kernel⟩,
   ⟨((fun (s : State) => ((((((((s.putB pXMP COM.ENABLE true |>.putB pXMP (XMP.DEV_PRESENT 0) true |>.put pXMP (XMP.DEV_SIZE_LOG2 0) 24 |>.put pXMP
       (XMP.DEV_PAGE_LOG2 0) 8 |>.putB pXMP (XMP.DEV_PRESENT 1) false |>.putB pXMP XMP.STATUS_DISCOVERY false).put pXMP (XMP.DEV_ERASE_TYPES 0) 0x8C
       |>.put pSCO SCO.CFG_SECTORS 4 |>.put pSCO SCO.CFG_LOG2 12 |>.put pSCO SCO.BASE_ADDR (winBase + 8192) |>.putB pSCO COM.ENABLE true |>.putB pSCO
       SCO.STATUS_MOUNTED false).withXmp fun x => { x with discovered := true, running := [], queue := [], backlog := [], lines := [] }))).withSco
       fun x => { x with op := 0, sector := 0 })).putB pSCO SCO.TEL_EN true |>.putB pSCO SCO.STATUS_WAIT_XMP false)) up), (⟨1, 2, 3, 4⟩),
       by decide +kernel⟩,
   ⟨((fun (s : State) => (((((((s.putB pXMP COM.ENABLE true |>.putB pXMP (XMP.DEV_PRESENT 0) true |>.put pXMP (XMP.DEV_SIZE_LOG2 0) 24 |>.put pXMP
       (XMP.DEV_PAGE_LOG2 0) 8 |>.putB pXMP (XMP.DEV_PRESENT 1) false |>.putB pXMP XMP.STATUS_DISCOVERY false).put pXMP (XMP.DEV_ERASE_TYPES 0) 0x8C
       |>.put pSCO SCO.CFG_SECTORS 4 |>.put pSCO SCO.CFG_LOG2 12 |>.put pSCO SCO.BASE_ADDR (winBase + 8192) |>.putB pSCO COM.ENABLE true |>.putB pSCO
       SCO.STATUS_MOUNTED true).withXmp fun x => { x with discovered := true, running := [], queue := [], backlog := [], lines := [] }))).withSco fun
       x => { x with op := 0, sector := 0 }).putB pSCO SCO.TEL_EN true)) up), (⟨1, 2, 3, 4⟩), by decide +kernel⟩⟩

theorem wit_ScoresheetRecords :
    (∃ (s : State) (r : ScoRec) (l : List ScoRec), s.coreUp = true ∧ s.sco.op = 1 ∧ s.scoQueue = r :: l ∧ s.get pSCO SCO.HEAD_ADDR + 64 < 2 ^ 40) ∧
    (∃ (s : State), s.coreUp = true ∧ s.sco.op = 1 ∧ s.get pSCO SCO.HEAD_ADDR + 64 < 2 ^ 40) ∧
    (∃ (s : State), s.coreUp = true ∧ s.sco.op = 3 ∧ s.enabled pSCO = true ∧ s.sectorAddr s.sco.sector + 64 < 2 ^ 40) ∧
    (∃ (s : State), s.coreRuns = true ∧ s.enabled pSCO = true ∧ s.sco.op = 2 ∧ s.xmp.running = [] ∧ s.xmp.queue = [] ∧ s.xmp.backlog = [] ∧
        s.sectorAddr s.sco.sector - winBase + 64 ≤ s.flashEnd ∧ s.get pXMP (XMP.DEV_PAGE_LOG2 0) = 8 ∧ s.density 1 = 0 ∧ s.scoBase % 256 = 0 ∧ 8 ≤
        s.scoLog2 ∧ winBase ≤ s.scoBase) ∧
    (∃ (s : State), s.coreUp = true ∧ s.sco.op = 2) :=
  ⟨⟨((fun (s : State) =>
      { (((((((s.putB pXMP COM.ENABLE true |>.putB pXMP (XMP.DEV_PRESENT 0) true |>.put pXMP (XMP.DEV_SIZE_LOG2 0) 24 |>.put pXMP (XMP.DEV_PAGE_LOG2 0) 8 |>.putB pXMP (XMP.DEV_PRESENT 1) false |>.putB pXMP XMP.STATUS_DISCOVERY false).put pXMP (XMP.DEV_ERASE_TYPES 0) 0x8C |>.put pSCO SCO.CFG_SECTORS 4 |>.put pSCO SCO.CFG_LOG2 12 |>.put pSCO SCO.BASE_ADDR (winBase + 8192) |>.putB pSCO COM.ENABLE true |>.putB pSCO SCO.STATUS_MOUNTED true).withXmp fun x => { x with discovered := true, running := [], queue := [], backlog := [], lines := [] }))).withSco fun x => { x with op := 1 })).put pSCO SCO.HEAD_ADDR 64000 with scoQueue := [⟨2, 1, 2, 3, 4, []⟩] }) up), (⟨2, 1, 2, 3, 4, []⟩), ([]), by decide +kernel⟩,
   ⟨((fun (s : State) =>
       { (((((((s.putB pXMP COM.ENABLE true |>.putB pXMP (XMP.DEV_PRESENT 0) true |>.put pXMP (XMP.DEV_SIZE_LOG2 0) 24 |>.put pXMP (XMP.DEV_PAGE_LOG2 0) 8 |>.putB pXMP (XMP.DEV_PRESENT 1) false |>.putB pXMP XMP.STATUS_DISCOVERY false).put pXMP (XMP.DEV_ERASE_TYPES 0) 0x8C |>.put pSCO SCO.CFG_SECTORS 4 |>.put pSCO SCO.CFG_LOG2 12 |>.put pSCO SCO.BASE_ADDR (winBase + 8192) |>.putB pSCO COM.ENABLE true |>.putB pSCO SCO.STATUS_MOUNTED true).withXmp fun x => { x with discovered := true, running := [], queue := [], backlog := [], lines := [] }))).withSco fun x => { x with op := 1 })).put pSCO SCO.HEAD_ADDR 64000 with scoQueue := [⟨2, 1, 2, 3, 4, []⟩] }) up), by decide +kernel⟩,
   ⟨((fun (s : State) => (((((((s.putB pXMP COM.ENABLE true |>.putB pXMP (XMP.DEV_PRESENT 0) true |>.put pXMP (XMP.DEV_SIZE_LOG2 0) 24 |>.put pXMP
       (XMP.DEV_PAGE_LOG2 0) 8 |>.putB pXMP (XMP.DEV_PRESENT 1) false |>.putB pXMP XMP.STATUS_DISCOVERY false).put pXMP (XMP.DEV_ERASE_TYPES 0) 0x8C
       |>.put pSCO SCO.CFG_SECTORS 4 |>.put pSCO SCO.CFG_LOG2 12 |>.put pSCO SCO.BASE_ADDR (winBase + 8192) |>.putB pSCO COM.ENABLE true |>.putB pSCO
       SCO.STATUS_MOUNTED true).withXmp fun x => { x with discovered := true, running := [], queue := [], backlog := [], lines := [] }))).withSco fun
       x => { x with op := 3, sector := 2, sseq := 9 }))) up), by decide +kernel⟩,
   ⟨((fun (s : State) => (((((((s.putB pXMP COM.ENABLE true |>.putB pXMP (XMP.DEV_PRESENT 0) true |>.put pXMP (XMP.DEV_SIZE_LOG2 0) 24 |>.put pXMP
       (XMP.DEV_PAGE_LOG2 0) 8 |>.putB pXMP (XMP.DEV_PRESENT 1) false |>.putB pXMP XMP.STATUS_DISCOVERY false).put pXMP (XMP.DEV_ERASE_TYPES 0) 0x8C
       |>.put pSCO SCO.CFG_SECTORS 4 |>.put pSCO SCO.CFG_LOG2 12 |>.put pSCO SCO.BASE_ADDR (winBase + 8192) |>.putB pSCO COM.ENABLE true |>.putB pSCO
       SCO.STATUS_MOUNTED true).withXmp fun x => { x with discovered := true, running := [], queue := [], backlog := [], lines := [] }))).withSco fun
       x => { x with op := 2, sector := 2, format := false }))) up), by decide +kernel⟩,
   ⟨((fun (s : State) => (((((((s.putB pXMP COM.ENABLE true |>.putB pXMP (XMP.DEV_PRESENT 0) true |>.put pXMP (XMP.DEV_SIZE_LOG2 0) 24 |>.put pXMP
       (XMP.DEV_PAGE_LOG2 0) 8 |>.putB pXMP (XMP.DEV_PRESENT 1) false |>.putB pXMP XMP.STATUS_DISCOVERY false).put pXMP (XMP.DEV_ERASE_TYPES 0) 0x8C
       |>.put pSCO SCO.CFG_SECTORS 4 |>.put pSCO SCO.CFG_LOG2 12 |>.put pSCO SCO.BASE_ADDR (winBase + 8192) |>.putB pSCO COM.ENABLE true |>.putB pSCO
       SCO.STATUS_MOUNTED true).withXmp fun x => { x with discovered := true, running := [], queue := [], backlog := [], lines := [] }))).withSco fun
       x => { x with op := 2, sector := 2 }))) up), by decide +kernel⟩⟩

theorem wit_ModesChange :
    (∃ (s : State) (src : Src) (m : Nat), s.bit pDEV DEV.STATUS_BUSY = false ∧ s.mode = 0 ∧ s.pwr.core = true ∧ 1 ≤ m ∧ m ≤ 4) ∧
    (∃ (s : State) (src : Src) (m : Nat), 5 ≤ m ∧ m ≤ 7) ∧
    (∃ (s : State) (src : Src) (m : Nat), s.bit pDEV DEV.STATUS_BUSY = true ∧ m ≤ 4) ∧
    (∃ (s : State), s.bit pDEV DEV.STATUS_ENTERING = true ∧ 3 ≤ s.pwr.phase ∧ s.pwr.back = false ∧ 2 ≤ s.pwr.target ∧ s.pwr.target ≤ 4 ∧ s.pwr.held =
        none) ∧
    (∃ (s : State), s.bit pDEV DEV.STATUS_ENTERING = true ∧ 3 ≤ s.pwr.phase ∧ s.pwr.back = false ∧ s.pwr.target = 1 ∧ s.pwr.held = none) ∧
    (∃ (s : State) (n : Nat), s.bit pDEV DEV.STATUS_ENTERING = false ∧ s.mode = 1 ∧ s.bit pDEV DEV.STATUS_WAKING = false ∧ s.sourceOk 1 n = true) ∧
    (∃ (s : State) (n : Nat), s.bit pDEV DEV.STATUS_ENTERING = false ∧ 2 ≤ s.mode ∧ s.bit pDEV DEV.STATUS_WAKING = false ∧ s.sourceOk s.mode n =
        true) ∧
    (∃ (s : State) (n : Nat), s.bit pDEV DEV.STATUS_ENTERING = true ∧ s.sourceOk s.pwr.target n = true ∧ s.pwr.back = false) ∧
    (∃ (s : State), s.bit pDEV DEV.STATUS_WAKING = true ∧ s.memUp = true ∧ s.pwr.held = none ∧ s.bit pPWR PWR.WAKE_EN_START = false) :=
  ⟨⟨((fun (s : State) => (s.putB pDEV DEV.STATUS_BUSY false |>.putB pDEV DEV.STATUS_ENTERING false |>.putB pDEV DEV.STATUS_WAKING false |>.put pDEV
      DEV.STATUS_MODE 0)) up), (.host), (0 % 4 + 1), by decide +kernel⟩,
   ⟨((fun (s : State) => s) up), (.move), (0 % 3 + 5), by decide +kernel⟩,
   ⟨((fun (s : State) => s.putB pDEV DEV.STATUS_BUSY true) up), ([Src.host, .move].getD (0 % 2) .host), (0 % 5), by decide +kernel⟩,
   ⟨((fun (s : State) => ((s.putB pDEV DEV.STATUS_ENTERING true).withPwr fun p => { p with phase := 4, back := false, target := 0 % 3 + 2 })) up),
       by decide +kernel⟩,
   ⟨((fun (s : State) => ((s.putB pDEV DEV.STATUS_ENTERING true).withPwr fun p => { p with phase := 4, back := false, target := 1 })) up),
       by decide +kernel⟩,
   ⟨((fun (s : State) => (s.putB pDEV DEV.STATUS_BUSY false |>.putB pDEV DEV.STATUS_ENTERING false |>.putB pDEV DEV.STATUS_WAKING false |>.put pDEV
       DEV.STATUS_MODE 1).putB pPWR PWR.WAKE_EN_MATCH true) up), (5), by decide +kernel⟩,
   ⟨((fun (s : State) => (s.putB pDEV DEV.STATUS_BUSY false |>.putB pDEV DEV.STATUS_ENTERING false |>.putB pDEV DEV.STATUS_WAKING false |>.put pDEV
       DEV.STATUS_MODE (0 % 3 + 2)).putB pPWR PWR.WAKE_EN_HOST true) up), (4), by decide +kernel⟩,
   ⟨((fun (s : State) => ((s.putB pDEV DEV.STATUS_ENTERING true |>.putB pPWR PWR.WAKE_EN_HOST true).withPwr fun p =>
       { p with back := false, target := 2 })) up), (4), by decide +kernel⟩,
   ⟨((fun (s : State) => ((s.putB pDEV DEV.STATUS_WAKING true |>.put pMEM MEM.READY_BANK 0xFFFFFF |>.putB pPWR PWR.WAKE_EN_START false).withPwr fun p
       => { p with held := none, cause := 7 })) up), by decide +kernel⟩⟩

theorem wit_RailsAreSequenced :
    (∃ (s : State) (r : Nat), 2 ≤ r ∧ r < 4 ∧ s.railCtl r = 0 ∧ s.bit pPWR (PWR.RAIL_CFG_ACK r) = false ∧ s.railState r = 2 ∧ s.coreUp = true ∧
        s.pwr.rails.length = 4) ∧
    (∃ (s : State) (r : Nat), r < 4 ∧ s.railCtl r = 0 ∧ (s.railState r = 1 ∨ s.railState r = 2)) ∧
    (∃ (s : State) (j : Job) (c : Nat) (d : Nat) (l : List Nat) (js : List Job), s.pwr.jobs = j :: js ∧ j.todo = c :: d :: l ∧ c ≠ 0x20 ∧ c ≠ 0x79 ∧
        c ≠ 0x8B) ∧
    (∃ (s : State) (j : Job) (c : Nat) (js : List Job), s.pwr.jobs = j :: js ∧ j.todo.head? = some c ∧ j.reps < 3) ∧
    (∃ (s : State) (r : Nat), r < 4 ∧ s.bitOf pPWR PWR.STATUS_RAIL r = true) ∧
    (∃ (s : State), s.resigned = true ∧ s.bit pFLT FLT.RESIGN_RF_OFF = true ∧ s.pwr.jobs = []) :=
  ⟨⟨((fun (s : State) => s.put pPWR (PWR.RAIL_CFG_CTL 3) 0 |>.putB pPWR (PWR.RAIL_CFG_ACK 3) false |>.put pPWR (PWR.RAIL_STAT_STATE 3) 2) up), (3),
      by decide +kernel⟩,
   ⟨((fun (s : State) => s.put pPWR (PWR.RAIL_CFG_CTL 3) 0 |>.put pPWR (PWR.RAIL_STAT_STATE 3) (1 + 0 % 2)) up), (3), by decide +kernel⟩,
   ⟨((fun (s : State) => ((s).withPwr fun p => { p with jobs := [⟨3, 0, 1, [0x03, 0x20, 0x21, 0x01], 2⟩] })) up), (⟨3, 0, 1, [0x03, 0x20, 0x21,
       0x01], 2⟩), (3), (0x20), ([0x21, 0x01]), ([]), by decide +kernel⟩,
   ⟨((fun (s : State) => ((s).withPwr fun p => { p with jobs := [⟨3, 0, 1, [0x03, 0x20, 0x21, 0x01], 2⟩] })) up), (⟨3, 0, 1, [0x03, 0x20, 0x21,
       0x01], 2⟩), (3), ([]), by decide +kernel⟩,
   ⟨((fun (s : State) => s.put pPWR PWR.STATUS_RAIL 15) up), (0 % 4), by decide +kernel⟩,
   ⟨((fun (s : State) => ((s.putB pFLT FLT.STATUS_RESIGNED true |>.putB pFLT FLT.RESIGN_RF_OFF true).withPwr fun p => { p with jobs := [] })) up),
       by decide +kernel⟩⟩

theorem wit_ClocksFollow :
    (∃ (s : State), s.coreUp = true ∧ s.get pCLK CLK.STATUS_SRC = 0 ∧ s.pwr.fell = false ∧ ((List.range 9).all fun n => s.fieldSt n == 0) = true) ∧
    (∃ (s : State), s.coreUp = true ∧ s.pwr.refOk = true ∧ s.enabled pCLK = true ∧ s.get pCLK CLK.STATUS_SRC ≠ 0 ∧ s.bitOf pPWR PWR.STATUS_RAIL 1 =
        true) ∧
    (∃ (s : State), s.coreUp = true ∧ s.pwr.refOk = false ∧ s.pwr.fell = false) ∧
    (∃ (s : State), s.coreUp = true ∧ s.pwr.refOk = true) ∧
    (∃ (s : State), s.coreRuns = true ∧ s.pwr.refOk = false) ∧
    (∃ (s : State), s.coreUp = true ∧ s.synLocked = true) ∧
    (∃ (s : State), s.coreRuns = true ∧ s.enabled pCLK = true ∧ ((List.range 9).all fun n => s.fieldSt n == 0 && (s.tx n).act == 0) = true) ∧
    (∃ (s : State) (t : Nat), s.coreUp = true ∧ t < 2 ^ 15 ∧ 4 * s.get pPWR PWR.THERM_THROTTLE ≤ t ∧ t < 4 * s.get pPWR PWR.THERM_SHUT) ∧
    (∃ (s : State) (t : Nat), s.coreUp = true ∧ t < 2 ^ 15 ∧ t + 20 < 4 * s.get pPWR PWR.THERM_THROTTLE ∧ t < 4 * s.get pPWR PWR.THERM_SHUT) ∧
    (∃ (s : State), s.coreRuns = true ∧ s.pwr.refOk = true ∧ s.get pCLK CLK.STATUS_SRC = 0 ∧ ((List.range 9).all fun n => s.fieldSt n == 0) = true ∧
        s.enabled pCLK = true) :=
  ⟨⟨((fun (s : State) => (List.range 9).foldl (fun (s : State) n => s.setField n 0) (s.put pCLK CLK.STATUS_SRC 0)) up), by decide +kernel⟩,
   ⟨((fun (s : State) => ((s.put pCLK CLK.STATUS_SRC 1 |>.putB pCLK COM.ENABLE true |>.put pPWR PWR.STATUS_RAIL 15).withPwr fun p =>
       { p with refOk := true })) up), by decide +kernel⟩,
   ⟨((fun (s : State) => ((s).withPwr fun p => { p with refOk := false, fell := false })) up), by decide +kernel⟩,
   ⟨((fun (s : State) => ((s).withPwr fun p => { p with refOk := true })) up), by decide +kernel⟩,
   ⟨((fun (s : State) => ((s).withPwr fun p => { p with refOk := false })) up), by decide +kernel⟩,
   ⟨((fun (s : State) => s.putB pCLK CLK.STATUS_SYN_LOCK true) up), by decide +kernel⟩,
   ⟨((fun (s : State) => (List.range 9).foldl (fun (s : State) n => s.setField n 0) (s.putB pCLK COM.ENABLE true)) up), by decide +kernel⟩,
   ⟨((fun (s : State) => s.put pPWR PWR.THERM_THROTTLE 100 |>.put pPWR PWR.THERM_SHUT 125) up), (400 + 0), by decide +kernel⟩,
   ⟨((fun (s : State) => s.put pPWR PWR.THERM_THROTTLE 100 |>.put pPWR PWR.THERM_SHUT 125) up), (379 - 0), by decide +kernel⟩,
   ⟨((fun (s : State) => ((((List.range 9).foldl (fun (s : State) n => s.setField n 0) (s.putB pCLK COM.ENABLE true |>.put pCLK CLK.STATUS_SRC
       0))).withPwr fun p => { p with refOk := true })) up), by decide +kernel⟩⟩

theorem wit_ResetsRestart :
    (∃ (s : State) (q : Nat) (o : Nat), o < 256 ∧ (¬ (q = pDEV ∧ (o = 0x11 ∨ o = 0x12))) ∧ q ≠ pFLT ∧ s.pins.resignLow = false) ∧
    (∃ (s : State) (v : Nat) (q : Nat) (o : Nat), v % 256 = 0xC3 ∧ o < 256 ∧ (¬ (q = pDEV ∧ (o = 0x11 ∨ o = 0x12))) ∧ q ≠ pFLT ∧ q ≠ pARB ∧ ¬ (0x70 ≤
        q ∧ q ≤ 0x77) ∧ s.pins.resignLow = false) ∧
    (∃ (s : State) (v : Nat), v % 256 ≠ 0xC3 ∧ v % 256 ≠ 0) ∧
    (∃ (s : State), s.pins.resignLow = false) :=
  ⟨⟨((fun (s : State) => s) up), ([pTXC 8, pANG, pPWR, pMEM].getD (0 % 4) 0), (0x10 + 0), by decide +kernel⟩,
   ⟨((fun (s : State) => s) up), (0xC3), ([pTXC 8, pANG, pPWR, pMEM].getD (0 % 4) 0), (0x10 + 0), by decide +kernel⟩,
   ⟨((fun (s : State) => s) up), (0xC2), by decide +kernel⟩,
   ⟨((fun (s : State) => s) up), by decide +kernel⟩⟩

theorem wit_MonitorsReport :
    (∃ (s : State) (n : Nat), n < 3 ∧ (n = 2 ∨ s.bitOf pPWR PWR.STATUS_RAIL n = true) ∧ s.bit pTST TST.STATUS_BUSY = false) ∧
    (∃ (s : State), s.coreUp = true ∧ s.pwr.refOk = true) ∧
    (∃ (s : State), s.bit pTST TST.STATUS_BUSY = false) ∧
    (∃ (s : State), s.resigned = true ∧ s.bit pFLT FLT.RESIGN_RF_OFF = false) ∧
    (∃ (s : State) (p : Nat) (o : Nat) (m : Nat) (bad : Bool), s.coreRuns = true ∧ p = s.get pFLT FLT.WATCH_PAGE ∧ (pageKind p).isSome = true ∧
        s.coveredNow p = false ∧ bad = ((s.upset p o m).crcValue p != (s.upset p o m).cfgCrc p || !(s.upset p o m).mirrorsGood p || s.pins.watchInj
        == some p)) ∧
    (∃ (s : State) (p : Nat) (o : Nat) (m : Nat), s.coreRuns = true ∧ p = s.get pFLT FLT.WATCH_PAGE ∧ s.coveredNow p = true) :=
  ⟨⟨((fun (s : State) => s.put pPWR PWR.STATUS_RAIL 15 |>.putB pTST TST.STATUS_BUSY false) up), (0 % 3), by decide +kernel⟩,
   ⟨((fun (s : State) => ((s).withPwr fun p => { p with refOk := true })) up), by decide +kernel⟩,
   ⟨((fun (s : State) => s.putB pTST TST.STATUS_BUSY false) up), by decide +kernel⟩,
   ⟨((fun (s : State) => ((s.putB pFLT FLT.STATUS_RESIGNED true |>.putB pFLT FLT.RESIGN_RF_OFF false).withPwr fun p =>
       { p with jobs := [⟨3, 0, 1, [0x03, 0x20, 0x21, 0x01], 2⟩] })) up), by decide +kernel⟩,
   ⟨((fun (s : State) =>
       { s.put pFLT FLT.WATCH_PAGE (if 0 % 2 = 0 then pTXC 3 else 0x18) with touch := { s.touch with at_ := 0 }, pins := { s.pins with watchInj := if 0 % 4 = 3 then some 0x18 else none } }) up), ((fun (s : State) => s.get pFLT FLT.WATCH_PAGE) ((fun (s : State) => { s.put pFLT FLT.WATCH_PAGE (if 0 % 2 = 0 then pTXC 3 else 0x18) with touch := { s.touch with at_ := 0 }, pins := { s.pins with watchInj := if 0 % 4 = 3 then some 0x18 else none } }) up)), (0x10), (0 % 3), ((fun (s : State) => (s.upset (s.get pFLT FLT.WATCH_PAGE) 0x10 (0 % 3)).crcValue (s.get pFLT FLT.WATCH_PAGE) != (s.upset (s.get pFLT FLT.WATCH_PAGE) 0x10 (0 % 3)).cfgCrc (s.get pFLT FLT.WATCH_PAGE) || !(s.upset (s.get pFLT FLT.WATCH_PAGE) 0x10 (0 % 3)).mirrorsGood (s.get pFLT FLT.WATCH_PAGE) || s.pins.watchInj == some (s.get pFLT FLT.WATCH_PAGE)) ((fun (s : State) => { s.put pFLT FLT.WATCH_PAGE (if 0 % 2 = 0 then pTXC 3 else 0x18) with touch := { s.touch with at_ := 0 }, pins := { s.pins with watchInj := if 0 % 4 = 3 then some 0x18 else none } }) up)), by decide +kernel⟩,
   ⟨((fun (s : State) =>
       { s.put pFLT FLT.WATCH_PAGE (pTXC 3) with touch := { s.touch with at_ := s.now, writes := [(pTXC 3 * 256 + TXC.POWER.off, 2)] } }) up), ((fun
       (s : State) => s.get pFLT FLT.WATCH_PAGE) ((fun (s : State) =>
       { s.put pFLT FLT.WATCH_PAGE (pTXC 3) with touch := { s.touch with at_ := s.now, writes := [(pTXC 3 * 256 + TXC.POWER.off, 2)] } }) up)),
       (0x10), (0 % 3), by decide +kernel⟩⟩

theorem wit_ReleaseEndsResign :
    (∃ (s : State) (v : Nat), v % 256 = 0x5A ∧ s.resigned = true ∧ (s.pins.resignLow = true ∨ s.flt.asked = s.now + 1 ∨ s.bit pFLT
        FLT.RESIGN_SAFE_DONE = false ∨ s.get pFLT FLT.RESIGN_CAUSE = 3 ∧ s.bitOf pFLT COM.FAULT s.flt.resignClass = true)) ∧
    (∃ (s : State) (v : Nat) (r : Nat), v % 256 = 0x5A ∧ s.resigned = true ∧ s.pins.resignLow = false ∧ s.flt.asked ≠ s.now + 1 ∧ s.bit pFLT
        FLT.RESIGN_SAFE_DONE = true ∧ ¬ (s.get pFLT FLT.RESIGN_CAUSE = 3 ∧ s.bitOf pFLT COM.FAULT s.flt.resignClass = true) ∧ s.coreUp = true ∧ (r =
        2 ∨ r = 3) ∧ s.pwr.rails.length = 4) ∧
    (∃ (s : State) (v : Nat), (v % 256 ≠ 0x5A ∨ s.resigned = false)) :=
  ⟨⟨((fun (s : State) => (fun (s : State) => if 0 % 3 = 0 then s.putB pFLT FLT.RESIGN_SAFE_DONE false else if 0 % 3 = 1 then
      { s with pins := { s.pins with resignLow := true } } else
      { s.put pFLT FLT.RESIGN_CAUSE 3 |>.putBit pFLT COM.FAULT 8 true with flt := { s.flt with resignClass := 8 } }) (s.putB pFLT FLT.STATUS_RESIGNED
      true)) up), (0x5A), by decide +kernel⟩,
   ⟨((fun (s : State) =>
       { s.putB pFLT FLT.STATUS_RESIGNED true |>.putB pFLT FLT.RESIGN_SAFE_DONE true |>.put pFLT FLT.RESIGN_CAUSE 2 |>.put pPWR (PWR.RAIL_CFG_CTL 3) 0 with pins := { s.pins with resignLow := false }, flt := { s.flt with asked := 0 } }) up), (0x5A), (2 + 0 % 2), by decide +kernel⟩,
   ⟨((fun (s : State) => s) up), (0x5B), by decide +kernel⟩⟩

theorem wit_InjectionsAreArmed :
    (∃ (s : State) (key : Nat), s.coreRuns = true ∧ key % 256 = 0x3C ∧ s.enabled pTST = true ∧ s.locked pTST = false) ∧
    (∃ (s : State) (key : Nat), s.coreRuns = true ∧ key % 256 ≠ 0x3C) ∧
    (∃ (s : State) (key : Nat), s.coreRuns = true ∧ key % 256 = 0x3C ∧ (s.enabled pTST = false ∨ s.locked pTST = true)) ∧
    (∃ (s : State), s.coreUp = true) ∧
    (∃ (s : State) (n : Nat) (i : Nat), s.coreRuns = true ∧ s.bit pTST TST.STATUS_ARMED = false) ∧
    (∃ (s : State) (n : Nat) (i : Nat), s.coreRuns = true ∧ s.bit pTST TST.STATUS_ARMED = true ∧ s.tstOk n i = true ∧ s.bit pTST TST.STATUS_BUSY =
        false ∧ n ≠ 0x11) ∧
    (∃ (s : State), s.coreUp = true ∧ s.bit pTST TST.STATUS_BUSY = true) :=
  ⟨⟨((fun (s : State) => s.putB pTST COM.ENABLE true |>.putB pTST COM.LOCK false) up), (0x3C), by decide +kernel⟩,
   ⟨((fun (s : State) => s.putB pTST TST.STATUS_ARMED true) up), (0x3D), by decide +kernel⟩,
   ⟨((fun (s : State) => s.putB pTST COM.ENABLE (0 % 2 == 0) |>.putB pTST COM.LOCK true) up), (0x3C), by decide +kernel⟩,
   ⟨((fun (s : State) => s.putB pTST TST.STATUS_ARMED true) up), by decide +kernel⟩,
   ⟨((fun (s : State) => s.putB pTST TST.STATUS_ARMED false) up), (1), (0), by decide +kernel⟩,
   ⟨((fun (s : State) => s.putB pTST TST.STATUS_ARMED true |>.putB pTST TST.STATUS_BUSY false |>.putB (pTXC 8) COM.ENABLE true) up), ([2, 0x12, 0x13,
       0x14].getD (0 % 4) 0), ([8, 0, 0x7F, 3].getD (0 % 4) 0), by decide +kernel⟩,
   ⟨((fun (s : State) => s.putB pTST TST.STATUS_BUSY true) up), by decide +kernel⟩⟩

theorem wit_ContextsStartAndStop :
    (∃ (s : State) (src : Src) (c : Nat), s.coreRuns = true ∧ listCtx c = true ∧ s.ctxs.length = 12 ∧ s.run c = 0 ∧ s.enabled (pCND c) = true ∧
        s.enabled pCND0 = true ∧ s.conductorOut = false ∧ s.bit pDEV DEV.STATUS_ENTERING = false) ∧
    (∃ (s : State) (src : Src) (c : Nat), s.coreRuns = true ∧ listCtx c = true ∧ (s.run c ≠ 0 ∨ s.enabled (pCND c) = false ∨ s.enabled pCND0 = false
        ∨ s.conductorOut = true ∨ s.bit pDEV DEV.STATUS_ENTERING = true)) ∧
    (∃ (s : State) (c : Nat), s.coreRuns = true ∧ listCtx c = true ∧ (s.ctx c).move = none) ∧
    (∃ (s : State) (c : Nat) (w : Nat) (a : Nat), s.coreRuns = true ∧ listCtx c = true ∧ s.ctxs.length = 12 ∧ s.run c = 5 ∧ (s.ctx c).move = some
        (.waitAngle c w a) ∧ (s.ctx c).ended = none ∧ s.chainFor c = none ∧ ((List.range 8).all fun w => (s.eng w).user != some c) = true) ∧
    (∃ (s : State) (c : Nat), s.coreRuns = true ∧ listCtx c = true ∧ s.ctxs.length = 12 ∧ s.run c = 1 ∧ (s.ctx c).move = none ∧ ((List.range 8).all
        fun w => s.owner w != c) = true) ∧
    (∃ (s : State) (c : Nat), s.coreRuns = true ∧ listCtx c = true ∧ s.ctxs.length = 12 ∧ s.run c = 1 ∧ (s.ctx c).move = none ∧ s.recoverAt = none ∧
        badMove c (.stop c) = false ∧ ((List.range 8).all fun w => s.owner w != c) = true) ∧
    (∃ (s : State), s.coreRuns = true ∧ s.lockMism = []) :=
  ⟨⟨((fun (s : State) => (((s.put (pCND 9) (CND.CTX_STATE_RUN 1) 0).withCtx 9 fun _ => { Ctx.reset with copied := 0 }).putB (pCND 9) COM.ENABLE true
      |>.putB pCND0 COM.ENABLE true |>.putB pDEV DEV.STATUS_ENTERING false)) up), (.host), (9), by decide +kernel⟩,
   ⟨((fun (s : State) => ((s.put (pCND 9) (CND.CTX_STATE_RUN 1) 3).withCtx 9 fun _ => { Ctx.reset with copied := 0 })) up), (.move), (9),
       by decide +kernel⟩,
   ⟨((fun (s : State) => ((s.put (pCND 9) (CND.CTX_STATE_RUN 1) 1).withCtx 9 fun _ => { Ctx.reset with copied := 0 })) up), (9), by decide +kernel⟩,
   ⟨((fun (s : State) => ((s.put (pCND 9) (CND.CTX_STATE_RUN 1) 5).withCtx 9 fun _ => { Ctx.reset with move := some (.waitAngle 9 0 77) })) up), (9),
       (0), (77), by decide +kernel⟩,
   ⟨((fun (s : State) => ((List.range 8).foldl (fun (s : State) w => s.setOwner w 15) ((s.put (pCND 9) (CND.CTX_STATE_RUN 1) 1).withCtx 9 fun _ =>
       { Ctx.reset with copied := 0 }))) up), (9), by decide +kernel⟩,
   ⟨((fun (s : State) => ((List.range 8).foldl (fun (s : State) w => s.setOwner w 15) ((s.put (pCND 9) (CND.CTX_STATE_RUN 1) 1).withCtx 9 fun _ =>
       { Ctx.reset with copied := 0 }))) up), (9), by decide +kernel⟩,
   ⟨((fun (s : State) => { s with lockMism := [], timers := [] }) up), by decide +kernel⟩⟩

theorem wit_MovesAreFetchedAndEnd :
    (∃ (s : State) (c : Nat) (m : Instr), s.coreRuns = true ∧ listCtx c = true ∧ s.ctxs.length = 12 ∧ s.run c = 1 ∧ (s.ctx c).move = none ∧
        s.recoverAt = none ∧ (s.ctx c).words = [] ∧ (s.ctx c).psn = none ∧ s.pc c + 1 ≤ sramLast ∧ s.word (s.pc c) = freshWord (s.word (s.pc c)).data
        false ∧ s.word (s.pc c + 1) = freshWord (s.word (s.pc c + 1)).data false ∧ (s.word (s.pc c)).data.testBit 34 = false ∧ decodeMove c [(s.word
        (s.pc c)).data, (s.word (s.pc c + 1)).data] = some m ∧ launchOf m = none) ∧
    (∃ (s : State) (c : Nat), s.coreRuns = true ∧ listCtx c = true ∧ s.ctxs.length = 12 ∧ s.run c = 1 ∧ (s.ctx c).move = none ∧ s.recoverAt = none ∧
        (s.ctx c).words = [] ∧ (s.ctx c).psn = none ∧ s.pc c + 1 ≤ sramLast ∧ s.word (s.pc c) = freshWord (s.word (s.pc c)).data false ∧ s.word (s.pc
        c + 1) = freshWord (s.word (s.pc c + 1)).data false ∧ (s.word (s.pc c)).data.testBit 34 = false ∧ decodeMove c [(s.word (s.pc c)).data,
        (s.word (s.pc c + 1)).data] = none ∧ ((List.range 8).all fun w => s.owner w != c) = true) ∧
    (∃ (s : State) (c : Nat), s.coreRuns = true ∧ listCtx c = true ∧ s.ctxs.length = 12 ∧ s.run c = 1 ∧ (s.ctx c).move = none ∧ s.recoverAt = none ∧
        (s.ctx c).words = [] ∧ (s.ctx c).psn = none ∧ s.pc c + 1 ≤ sramLast ∧ s.word (s.pc c) = freshWord (s.word (s.pc c)).data true ∧ s.word (s.pc
        c + 1) = freshWord (s.word (s.pc c + 1)).data false ∧ (s.word (s.pc c)).data.testBit 34 = false ∧ ((List.range 8).all fun w => s.owner w !=
        c) = true) ∧
    (∃ (s : State) (c : Nat) (m : Instr) (st : Nat), s.coreRuns = true ∧ listCtx c = true ∧ s.ctxs.length = 12 ∧ s.run c ≠ 0 ∧ (s.ctx c).move = some
        m ∧ (s.ctx c).ended = some st ∧ (s.ctx c).stopAs = none ∧ (s.ctx c).next = none ∧ s.recoverAt = none ∧ okClass st = true ∧ keepsStatus m =
        false ∧ launchOf m = none) ∧
    (∃ (s : State) (c : Nat) (m : Instr) (st : Nat), s.coreRuns = true ∧ listCtx c = true ∧ s.ctxs.length = 12 ∧ s.run c ≠ 0 ∧ (s.ctx c).move = some
        m ∧ (s.ctx c).ended = some st ∧ (s.ctx c).stopAs = none ∧ s.recoverAt = none ∧ okClass st = false ∧ st ≠ stBAD_ADDRESS ∧ st ≠ stTAKEOVER ∧ st
        ≠ stFAULTED ∧ launchOf m = none ∧ s.bit (pCND c) (CND.CTX_CTRL_STOP_ON_ERR (c % 4)) = true ∧ ((List.range 8).all fun w => s.owner w != c) =
        true) :=
  ⟨⟨((fun (s : State) => (((s.put (pCND 9) (CND.CTX_STATE_RUN 1) 1).withCtx 9 fun _ => { Ctx.reset with copied := 0 }).setPc 9 0x17FFFE |>.putWord
      0x17FFFE (freshWord (0x12 * 2^35 + 4 + 0 % 4) false) |>.putWord 0x17FFFF (freshWord (999 * 0) false))) up), (9), (.load 9 true (0 % 4) (999 *
      0)), by decide +kernel⟩,
   ⟨((fun (s : State) => ((List.range 8).foldl (fun (s : State) w => s.setOwner w 15) ((s.put (pCND 9) (CND.CTX_STATE_RUN 1) 1).withCtx 9 fun _ =>
       { Ctx.reset with copied := 0 })).setPc 9 0x17FFFE |>.putWord 0x17FFFE (freshWord (0x1F * 2^35) false) |>.putWord 0x17FFFF (freshWord (999 * 0)
       false)) up), (9), by decide +kernel⟩,
   ⟨((fun (s : State) => ((List.range 8).foldl (fun (s : State) w => s.setOwner w 15) ((s.put (pCND 9) (CND.CTX_STATE_RUN 1) 1).withCtx 9 fun _ =>
       { Ctx.reset with copied := 0 })).setPc 9 0x17FFFE |>.putWord 0x17FFFE (freshWord (0x12 * 2^35) true) |>.putWord 0x17FFFF (freshWord (999 * 0)
       false)) up), (9), by decide +kernel⟩,
   ⟨((fun (s : State) => ((s.put (pCND 9) (CND.CTX_STATE_RUN 1) 6).withCtx 9 fun _ =>
       { Ctx.reset with move := some (.waitEvent 9 3 0), ended := some ([0, 1, 0x16, 0x40].getD (0 % 4) 0) })) up), (9), (.waitEvent 9 3 0), ([0, 1,
       0x16, 0x40].getD (0 % 4) 0), by decide +kernel⟩,
   ⟨((fun (s : State) => ((List.range 8).foldl (fun (s : State) w => s.setOwner w 15) ((s.put (pCND 9) (CND.CTX_STATE_RUN 1) 6|>.putB (pCND 9)
       (CND.CTX_CTRL_STOP_ON_ERR 1) true).withCtx 9 fun _ => { Ctx.reset with move := some (.waitEvent 9 3 0), ended := some 0x0D }))) up), (9),
       (.waitEvent 9 3 0), (0x0D), by decide +kernel⟩⟩

theorem wit_RfMovesClaimAndLaunch :
    (∃ (s : State) (c : Nat) (h : Launch) (off : Bool) (port : Nat), s.coreRuns = true ∧ listCtx c = true ∧ s.ctxs.length = 12 ∧ s.run c = 1 ∧ (s.ctx
        c).move = none ∧ s.recoverAt = none ∧ badMove c (.field c h off port) = false ∧ h.when_ = 0 ∧ h.wing < 8 ∧ s.blockOff (.field c h off port)
        h.wing = false ∧ s.claimFree c h.wing = true ∧ off = true ∧ s.resigned = false ∧ s.chainFaulted (s.serving h.wing) = false) ∧
    (∃ (s : State) (c : Nat) (h : Launch) (off : Bool) (port : Nat), s.coreRuns = true ∧ listCtx c = true ∧ s.ctxs.length = 12 ∧ s.run c = 1 ∧ (s.ctx
        c).move = none ∧ s.recoverAt = none ∧ badMove c (.field c h off port) = false ∧ h.when_ = 0 ∧ h.wing < 8 ∧ s.blockOff (.field c h off port)
        h.wing = false ∧ s.claimFree c h.wing = true ∧ off = false ∧ s.noField (s.serving h.wing) = false ∧ s.portOk port = true ∧ s.inReach
        (s.serving h.wing) port = true ∧ (s.tx (s.serving h.wing)).act ≠ 3) ∧
    (∃ (s : State) (c : Nat) (h : Launch) (r : Bool) (port : Nat), s.coreRuns = true ∧ listCtx c = true ∧ s.ctxs.length = 12 ∧ s.run c = 1 ∧ (s.ctx
        c).move = none ∧ s.recoverAt = none ∧ badMove c (.tune c h r port) = false ∧ h.when_ = 0 ∧ h.wing < 8 ∧ s.blockOff (.tune c h r port) h.wing
        = false ∧ s.claimFree c h.wing = true) ∧
    (∃ (s : State) (c : Nat) (h : Launch) (a : Nat), s.coreRuns = true ∧ listCtx c = true ∧ s.ctxs.length = 12 ∧ s.run c = 1 ∧ (s.ctx c).move = none
        ∧ s.recoverAt = none ∧ badMove c (.send c h a) = false ∧ h.when_ = 0 ∧ h.wing < 8 ∧ s.blockOff (.send c h a) h.wing = false ∧ s.claimFree c
        h.wing = true) ∧
    (∃ (s : State) (c : Nat) (h : Launch) (a : ListenArgs), s.coreRuns = true ∧ listCtx c = true ∧ s.ctxs.length = 12 ∧ s.run c = 1 ∧ (s.ctx c).move
        = none ∧ s.recoverAt = none ∧ badMove c (.listen c h a) = false ∧ h.when_ = 0 ∧ h.wing < 8 ∧ s.blockOff (.listen c h a) h.wing = false ∧
        s.claimFree c h.wing = true) ∧
    (∃ (s : State) (c : Nat) (h : Launch) (e : Bool) (b : Bool) (p : Nat) (d : Nat) (t : Nat), s.coreRuns = true ∧ listCtx c = true ∧ s.ctxs.length =
        12 ∧ s.run c = 1 ∧ (s.ctx c).move = none ∧ s.recoverAt = none ∧ badMove c (.xchg c h e b p d t) = false ∧ h.when_ = 0 ∧ h.wing < 8 ∧
        s.blockOff (.xchg c h e b p d t) h.wing = false ∧ s.claimFree c h.wing = true) ∧
    (∃ (s : State) (c : Nat) (h : Launch) (a : AnticollArgs), s.coreRuns = true ∧ listCtx c = true ∧ s.ctxs.length = 12 ∧ s.run c = 1 ∧ (s.ctx
        c).move = none ∧ s.recoverAt = none ∧ badMove c (.anticoll c h a) = false ∧ h.when_ = 0 ∧ h.wing < 8 ∧ s.blockOff (.anticoll c h a) h.wing =
        false ∧ s.claimFree c h.wing = true) ∧
    (∃ (s : State) (c : Nat) (h : Launch) (b : Bool), s.coreRuns = true ∧ listCtx c = true ∧ s.ctxs.length = 12 ∧ s.run c = 1 ∧ (s.ctx c).move = none
        ∧ s.recoverAt = none ∧ badMove c (.sound c h b) = false ∧ h.when_ = 0 ∧ h.wing < 8 ∧ s.blockOff (.sound c h b) h.wing = false ∧ s.claimFree c
        h.wing = true) ∧
    (∃ (s : State) (c : Nat) (h : Launch) (b : Bool), s.coreRuns = true ∧ listCtx c = true ∧ s.ctxs.length = 12 ∧ s.run c = 1 ∧ (s.ctx c).move = none
        ∧ s.recoverAt = none ∧ badMove c (.book c h b) = false ∧ h.when_ = 0 ∧ h.wing < 8 ∧ s.blockOff (.book c h b) h.wing = false ∧ s.claimFree c
        h.wing = true) ∧
    (∃ (s : State) (c : Nat) (h : Launch) (b : Bool), s.coreRuns = true ∧ listCtx c = true ∧ s.ctxs.length = 12 ∧ s.run c = 1 ∧ (s.ctx c).move = none
        ∧ s.recoverAt = none ∧ badMove c (.gambit c h b) = false ∧ h.when_ = 0 ∧ h.wing < 8 ∧ s.blockOff (.gambit c h b) h.wing = false ∧ s.claimFree
        c h.wing = true) ∧
    (∃ (s : State) (c : Nat) (h : Launch) (a : Nat), s.coreRuns = true ∧ listCtx c = true ∧ s.ctxs.length = 12 ∧ s.run c = 1 ∧ (s.ctx c).move = none
        ∧ s.recoverAt = none ∧ badMove c (.seal c h a) = false ∧ h.when_ = 0 ∧ h.wing < 8 ∧ s.blockOff (.seal c h a) h.wing = false ∧ s.claimFree c
        h.wing = true) ∧
    (∃ (s : State) (c : Nat) (h : Launch) (a : Nat), s.coreRuns = true ∧ listCtx c = true ∧ s.ctxs.length = 12 ∧ s.run c = 1 ∧ (s.ctx c).move = none
        ∧ s.recoverAt = none ∧ badMove c (.send c h a) = false ∧ h.wing < 8 ∧ h.when_ = 1 ∧ s.enabled pANG = true ∧ s.blockOff (.send c h a) h.wing =
        false ∧ s.claimFree c h.wing = true) ∧
    (∃ (s : State) (c : Nat) (h : Launch) (a : Nat), s.coreRuns = true ∧ listCtx c = true ∧ s.ctxs.length = 12 ∧ s.run c = 1 ∧ (s.ctx c).move = none
        ∧ s.recoverAt = none ∧ badMove c (.send c h a) = false ∧ h.wing < 8 ∧ h.when_ = 2 ∧ (s.ctx c).again = false ∧ s.enabled pANG = true ∧
        s.blockOff (.send c h a) h.wing = false ∧ s.claimFree c h.wing = true) ∧
    (∃ (s : State) (c : Nat) (h : Launch) (a : Nat), s.coreRuns = true ∧ listCtx c = true ∧ s.ctxs.length = 12 ∧ s.run c = 1 ∧ (s.ctx c).move = none
        ∧ s.recoverAt = none ∧ badMove c (.send c h a) = false ∧ h.wing < 8 ∧ h.when_ = 0 ∧ s.blockOff (.send c h a) h.wing = false ∧ s.claimFree c
        h.wing = false) ∧
    (∃ (s : State) (c : Nat) (h : Launch) (a : Nat), s.coreRuns = true ∧ listCtx c = true ∧ s.ctxs.length = 12 ∧ s.run c = 1 ∧ (s.ctx c).move = none
        ∧ s.recoverAt = none ∧ badMove c (.send c h a) = false ∧ h.wing < 8 ∧ s.blockOff (.send c h a) h.wing = true) ∧
    (∃ (s : State) (w : Nat) (c : Nat) (m : Instr) (h : Launch), s.coreRuns = true ∧ w < 8 ∧ s.owner w = 15 ∧ s.calHolds w = false ∧ s.invHolds w =
        false ∧ s.recoverAt = none ∧ s.forcedReady w = false ∧ (s.slotOrder.find? fun c => s.run c == 2 && s.moveWing c == some w) = some c ∧ (s.ctx
        c).move = some m ∧ launchOf m = some h ∧ moveOp m ≠ 1 ∧ (s.ctx c).ended = none) ∧
    (∃ (s : State) (c : Nat) (m : Instr) (h : Launch) (t : Nat), s.coreRuns = true ∧ listCtx c = true ∧ s.ctxs.length = 12 ∧ s.run c = 3 ∧ (s.ctx
        c).move = some m ∧ (s.ctx c).ended = none ∧ launchOf m = some h ∧ moveOp m ≠ 1 ∧ (s.ctx c).target = some t ∧ t < 2 ^ 40 ∧ s.recoverAt = none)
        ∧
    (∃ (s : State) (c : Nat) (m : Instr) (h : Launch) (t : Nat), s.coreRuns = true ∧ listCtx c = true ∧ s.ctxs.length = 12 ∧ s.run c = 3 ∧ (s.ctx
        c).move = some m ∧ (s.ctx c).ended = none ∧ launchOf m = some h ∧ (s.ctx c).target = some t ∧ t < 2 ^ 40 ∧ s.recoverAt = none ∧ s.chainFor c
        = none ∧ h.late % 8192 * 65536 < (s.angle + 2 ^ 40 - t) % 2 ^ 40) ∧
    (∃ (s : State) (c : Nat) (m : Instr) (h : Launch), s.coreRuns = true ∧ listCtx c = true ∧ s.ctxs.length = 12 ∧ s.run c = 2 ∧ (s.ctx c).move =
        some m ∧ (s.ctx c).ended = none ∧ launchOf m = some h) :=
  ⟨⟨((fun (s : State) => (((s.put (pCND 9) (CND.CTX_STATE_RUN 1) 1).withCtx 9 fun _ => { Ctx.reset with copied := 0 }).setOwner 7 15 |>.putB (pFIL
      23) COM.ENABLE true |>.putB (pFIL 23) (FIL.PORT_FITTED 7) true |>.put (pTXC 8) TXC.CFG_SERVE 0 |>.put (pTXC 7) ⟨7, 3, 1⟩ 0 |>.put (pTXC 8) ⟨7,
      3, 1⟩ 0 |>.put pFLT ⟨2, 39, 0⟩ 0 |>.putB (pTXC 7) COM.ENABLE true |>.putB (pTXC 8) COM.ENABLE true |>.put (pTXC 7) ⟨2, 39, 0⟩ 0 |>.put (pTXC 8)
      ⟨2, 39, 0⟩ 0 |>.putB pPRT COM.ENABLE true |>.putB pBLZ COM.ENABLE true |>.putB pINV COM.ENABLE true |>.putB pANG COM.ENABLE true)) up), (9),
      (⟨7, 0, 9, 5⟩), (true), (191), by decide +kernel⟩,
   ⟨((fun (s : State) => (((s.put (pCND 9) (CND.CTX_STATE_RUN 1) 1).withCtx 9 fun _ => { Ctx.reset with copied := 0 }).setOwner 7 15 |>.putB (pFIL
       23) COM.ENABLE true |>.putB (pFIL 23) (FIL.PORT_FITTED 7) true |>.put (pTXC 8) TXC.CFG_SERVE 0 |>.put (pTXC 7) ⟨7, 3, 1⟩ 0 |>.put (pTXC 8) ⟨7,
       3, 1⟩ 0 |>.put pFLT ⟨2, 39, 0⟩ 0 |>.putB (pTXC 7) COM.ENABLE true |>.putB (pTXC 8) COM.ENABLE true |>.put (pTXC 7) ⟨2, 39, 0⟩ 0 |>.put (pTXC
       8) ⟨2, 39, 0⟩ 0 |>.putB pPRT COM.ENABLE true |>.putB pBLZ COM.ENABLE true |>.putB pINV COM.ENABLE true |>.putB pANG COM.ENABLE true)) up),
       (9), (⟨7, 0, 9, 5⟩), (false), (191), by decide +kernel⟩,
   ⟨((fun (s : State) => (((s.put (pCND 9) (CND.CTX_STATE_RUN 1) 1).withCtx 9 fun _ => { Ctx.reset with copied := 0 }).setOwner 7 15 |>.putB (pFIL
       23) COM.ENABLE true |>.putB (pFIL 23) (FIL.PORT_FITTED 7) true |>.put (pTXC 8) TXC.CFG_SERVE 0 |>.put (pTXC 7) ⟨7, 3, 1⟩ 0 |>.put (pTXC 8) ⟨7,
       3, 1⟩ 0 |>.put pFLT ⟨2, 39, 0⟩ 0 |>.putB (pTXC 7) COM.ENABLE true |>.putB (pTXC 8) COM.ENABLE true |>.put (pTXC 7) ⟨2, 39, 0⟩ 0 |>.put (pTXC
       8) ⟨2, 39, 0⟩ 0 |>.putB pPRT COM.ENABLE true |>.putB pBLZ COM.ENABLE true |>.putB pINV COM.ENABLE true |>.putB pANG COM.ENABLE true)) up),
       (9), (⟨7, 0, 9, 5⟩), (false), (191), by decide +kernel⟩,
   ⟨((fun (s : State) => (((s.put (pCND 9) (CND.CTX_STATE_RUN 1) 1).withCtx 9 fun _ => { Ctx.reset with copied := 0 }).setOwner 7 15 |>.putB (pFIL
       23) COM.ENABLE true |>.putB (pFIL 23) (FIL.PORT_FITTED 7) true |>.put (pTXC 8) TXC.CFG_SERVE 0 |>.put (pTXC 7) ⟨7, 3, 1⟩ 0 |>.put (pTXC 8) ⟨7,
       3, 1⟩ 0 |>.put pFLT ⟨2, 39, 0⟩ 0 |>.putB (pTXC 7) COM.ENABLE true |>.putB (pTXC 8) COM.ENABLE true |>.put (pTXC 7) ⟨2, 39, 0⟩ 0 |>.put (pTXC
       8) ⟨2, 39, 0⟩ 0 |>.putB pPRT COM.ENABLE true |>.putB pBLZ COM.ENABLE true |>.putB pINV COM.ENABLE true |>.putB pANG COM.ENABLE true)) up),
       (9), (⟨7, 0, 9, 5⟩), (77), by decide +kernel⟩,
   ⟨((fun (s : State) => (((s.put (pCND 9) (CND.CTX_STATE_RUN 1) 1).withCtx 9 fun _ => { Ctx.reset with copied := 0 }).setOwner 7 15 |>.putB (pFIL
       23) COM.ENABLE true |>.putB (pFIL 23) (FIL.PORT_FITTED 7) true |>.put (pTXC 8) TXC.CFG_SERVE 0 |>.put (pTXC 7) ⟨7, 3, 1⟩ 0 |>.put (pTXC 8) ⟨7,
       3, 1⟩ 0 |>.put pFLT ⟨2, 39, 0⟩ 0 |>.putB (pTXC 7) COM.ENABLE true |>.putB (pTXC 8) COM.ENABLE true |>.put (pTXC 7) ⟨2, 39, 0⟩ 0 |>.put (pTXC
       8) ⟨2, 39, 0⟩ 0 |>.putB pPRT COM.ENABLE true |>.putB pBLZ COM.ENABLE true |>.putB pINV COM.ENABLE true |>.putB pANG COM.ENABLE true)) up),
       (9), (⟨7, 0, 9, 5⟩), (⟨true, 1, false, 2, 191, 500, 1, 4095, 9⟩), by decide +kernel⟩,
   ⟨((fun (s : State) => (((s.put (pCND 9) (CND.CTX_STATE_RUN 1) 1).withCtx 9 fun _ => { Ctx.reset with copied := 0 }).setOwner 7 15 |>.putB (pFIL
       23) COM.ENABLE true |>.putB (pFIL 23) (FIL.PORT_FITTED 7) true |>.put (pTXC 8) TXC.CFG_SERVE 0 |>.put (pTXC 7) ⟨7, 3, 1⟩ 0 |>.put (pTXC 8) ⟨7,
       3, 1⟩ 0 |>.put pFLT ⟨2, 39, 0⟩ 0 |>.putB (pTXC 7) COM.ENABLE true |>.putB (pTXC 8) COM.ENABLE true |>.put (pTXC 7) ⟨2, 39, 0⟩ 0 |>.put (pTXC
       8) ⟨2, 39, 0⟩ 0 |>.putB pPRT COM.ENABLE true |>.putB pBLZ COM.ENABLE true |>.putB pINV COM.ENABLE true |>.putB pANG COM.ENABLE true)) up),
       (9), (⟨7, 0, 9, 5⟩), (false), (0 % 2 == 0), (1), (5), (6), by decide +kernel⟩,
   ⟨((fun (s : State) => (((s.put (pCND 9) (CND.CTX_STATE_RUN 1) 1).withCtx 9 fun _ => { Ctx.reset with copied := 0 }).setOwner 7 15 |>.putB (pFIL
       23) COM.ENABLE true |>.putB (pFIL 23) (FIL.PORT_FITTED 7) true |>.put (pTXC 8) TXC.CFG_SERVE 0 |>.put (pTXC 7) ⟨7, 3, 1⟩ 0 |>.put (pTXC 8) ⟨7,
       3, 1⟩ 0 |>.put pFLT ⟨2, 39, 0⟩ 0 |>.putB (pTXC 7) COM.ENABLE true |>.putB (pTXC 8) COM.ENABLE true |>.put (pTXC 7) ⟨2, 39, 0⟩ 0 |>.put (pTXC
       8) ⟨2, 39, 0⟩ 0 |>.putB pPRT COM.ENABLE true |>.putB pBLZ COM.ENABLE true |>.putB pINV COM.ENABLE true |>.putB pANG COM.ENABLE true)) up),
       (9), (⟨7, 0, 9, 5⟩), (⟨1, true, false, true, 3, 5, 100⟩), by decide +kernel⟩,
   ⟨((fun (s : State) => (((s.put (pCND 9) (CND.CTX_STATE_RUN 1) 1).withCtx 9 fun _ => { Ctx.reset with copied := 0 }).setOwner 7 15 |>.putB (pFIL
       23) COM.ENABLE true |>.putB (pFIL 23) (FIL.PORT_FITTED 7) true |>.put (pTXC 8) TXC.CFG_SERVE 0 |>.put (pTXC 7) ⟨7, 3, 1⟩ 0 |>.put (pTXC 8) ⟨7,
       3, 1⟩ 0 |>.put pFLT ⟨2, 39, 0⟩ 0 |>.putB (pTXC 7) COM.ENABLE true |>.putB (pTXC 8) COM.ENABLE true |>.put (pTXC 7) ⟨2, 39, 0⟩ 0 |>.put (pTXC
       8) ⟨2, 39, 0⟩ 0 |>.putB pPRT COM.ENABLE true |>.putB pBLZ COM.ENABLE true |>.putB pINV COM.ENABLE true |>.putB pANG COM.ENABLE true)) up),
       (9), (⟨7, 0, 9, 5⟩), (0 % 2 == 0), by decide +kernel⟩,
   ⟨((fun (s : State) => (((s.put (pCND 9) (CND.CTX_STATE_RUN 1) 1).withCtx 9 fun _ => { Ctx.reset with copied := 0 }).setOwner 7 15 |>.putB (pFIL
       23) COM.ENABLE true |>.putB (pFIL 23) (FIL.PORT_FITTED 7) true |>.put (pTXC 8) TXC.CFG_SERVE 0 |>.put (pTXC 7) ⟨7, 3, 1⟩ 0 |>.put (pTXC 8) ⟨7,
       3, 1⟩ 0 |>.put pFLT ⟨2, 39, 0⟩ 0 |>.putB (pTXC 7) COM.ENABLE true |>.putB (pTXC 8) COM.ENABLE true |>.put (pTXC 7) ⟨2, 39, 0⟩ 0 |>.put (pTXC
       8) ⟨2, 39, 0⟩ 0 |>.putB pPRT COM.ENABLE true |>.putB pBLZ COM.ENABLE true |>.putB pINV COM.ENABLE true |>.putB pANG COM.ENABLE true)) up),
       (9), (⟨7, 0, 9, 5⟩), (0 % 2 == 0), by decide +kernel⟩,
   ⟨((fun (s : State) => (((s.put (pCND 9) (CND.CTX_STATE_RUN 1) 1).withCtx 9 fun _ => { Ctx.reset with copied := 0 }).setOwner 7 15 |>.putB (pFIL
       23) COM.ENABLE true |>.putB (pFIL 23) (FIL.PORT_FITTED 7) true |>.put (pTXC 8) TXC.CFG_SERVE 0 |>.put (pTXC 7) ⟨7, 3, 1⟩ 0 |>.put (pTXC 8) ⟨7,
       3, 1⟩ 0 |>.put pFLT ⟨2, 39, 0⟩ 0 |>.putB (pTXC 7) COM.ENABLE true |>.putB (pTXC 8) COM.ENABLE true |>.put (pTXC 7) ⟨2, 39, 0⟩ 0 |>.put (pTXC
       8) ⟨2, 39, 0⟩ 0 |>.putB pPRT COM.ENABLE true |>.putB pBLZ COM.ENABLE true |>.putB pINV COM.ENABLE true |>.putB pANG COM.ENABLE true)) up),
       (9), (⟨7, 0, 9, 5⟩), (0 % 2 == 0), by decide +kernel⟩,
   ⟨((fun (s : State) => (((s.put (pCND 9) (CND.CTX_STATE_RUN 1) 1).withCtx 9 fun _ => { Ctx.reset with copied := 0 }).setOwner 7 15 |>.putB (pFIL
       23) COM.ENABLE true |>.putB (pFIL 23) (FIL.PORT_FITTED 7) true |>.put (pTXC 8) TXC.CFG_SERVE 0 |>.put (pTXC 7) ⟨7, 3, 1⟩ 0 |>.put (pTXC 8) ⟨7,
       3, 1⟩ 0 |>.put pFLT ⟨2, 39, 0⟩ 0 |>.putB (pTXC 7) COM.ENABLE true |>.putB (pTXC 8) COM.ENABLE true |>.put (pTXC 7) ⟨2, 39, 0⟩ 0 |>.put (pTXC
       8) ⟨2, 39, 0⟩ 0 |>.putB pPRT COM.ENABLE true |>.putB pBLZ COM.ENABLE true |>.putB pINV COM.ENABLE true |>.putB pANG COM.ENABLE true)) up),
       (9), (⟨7, 0, 9, 5⟩), (5), by decide +kernel⟩,
   ⟨((fun (s : State) => (((s.put (pCND 9) (CND.CTX_STATE_RUN 1) 1).withCtx 9 fun _ => { Ctx.reset with copied := 0 }).setOwner 7 15 |>.putB (pFIL
       23) COM.ENABLE true |>.putB (pFIL 23) (FIL.PORT_FITTED 7) true |>.put (pTXC 8) TXC.CFG_SERVE 0 |>.put (pTXC 7) ⟨7, 3, 1⟩ 0 |>.put (pTXC 8) ⟨7,
       3, 1⟩ 0 |>.put pFLT ⟨2, 39, 0⟩ 0 |>.putB (pTXC 7) COM.ENABLE true |>.putB (pTXC 8) COM.ENABLE true |>.put (pTXC 7) ⟨2, 39, 0⟩ 0 |>.put (pTXC
       8) ⟨2, 39, 0⟩ 0 |>.putB pPRT COM.ENABLE true |>.putB pBLZ COM.ENABLE true |>.putB pINV COM.ENABLE true |>.putB pANG COM.ENABLE true)) up),
       (9), (⟨7, 1, 9, 2^40 - 1⟩), (7), by decide +kernel⟩,
   ⟨((fun (s : State) => ((((s.put (pCND 9) (CND.CTX_STATE_RUN 1) 1).withCtx 9 fun _ => { Ctx.reset with copied := 0 }).setOwner 7 15 |>.putB (pFIL
       23) COM.ENABLE true |>.putB (pFIL 23) (FIL.PORT_FITTED 7) true |>.put (pTXC 8) TXC.CFG_SERVE 0 |>.put (pTXC 7) ⟨7, 3, 1⟩ 0 |>.put (pTXC 8) ⟨7,
       3, 1⟩ 0 |>.put pFLT ⟨2, 39, 0⟩ 0 |>.putB (pTXC 7) COM.ENABLE true |>.putB (pTXC 8) COM.ENABLE true |>.put (pTXC 7) ⟨2, 39, 0⟩ 0 |>.put (pTXC
       8) ⟨2, 39, 0⟩ 0 |>.putB pPRT COM.ENABLE true |>.putB pBLZ COM.ENABLE true |>.putB pINV COM.ENABLE true |>.putB pANG COM.ENABLE true).setLaunch
       9 (7 + 0))) up), (9), (⟨7, 2, 9, 2^40 - 1⟩), (7), by decide +kernel⟩,
   ⟨((fun (s : State) => ((((s.put (pCND 9) (CND.CTX_STATE_RUN 1) 1).withCtx 9 fun _ => { Ctx.reset with copied := 0 }).setOwner 7 15 |>.putB (pFIL
       23) COM.ENABLE true |>.putB (pFIL 23) (FIL.PORT_FITTED 7) true |>.put (pTXC 8) TXC.CFG_SERVE 0 |>.put (pTXC 7) ⟨7, 3, 1⟩ 0 |>.put (pTXC 8) ⟨7,
       3, 1⟩ 0 |>.put pFLT ⟨2, 39, 0⟩ 0 |>.putB (pTXC 7) COM.ENABLE true |>.putB (pTXC 8) COM.ENABLE true |>.put (pTXC 7) ⟨2, 39, 0⟩ 0 |>.put (pTXC
       8) ⟨2, 39, 0⟩ 0 |>.putB pPRT COM.ENABLE true |>.putB pBLZ COM.ENABLE true |>.putB pINV COM.ENABLE true |>.putB pANG COM.ENABLE true).setOwner
       7 3)) up), (9), (⟨7, 0, 9, 2^40 - 1⟩), (7), by decide +kernel⟩,
   ⟨((fun (s : State) => ((((s.put (pCND 9) (CND.CTX_STATE_RUN 1) 1).withCtx 9 fun _ => { Ctx.reset with copied := 0 }).setOwner 7 15 |>.putB (pFIL
       23) COM.ENABLE true |>.putB (pFIL 23) (FIL.PORT_FITTED 7) true |>.put (pTXC 8) TXC.CFG_SERVE 0 |>.put (pTXC 7) ⟨7, 3, 1⟩ 0 |>.put (pTXC 8) ⟨7,
       3, 1⟩ 0 |>.put pFLT ⟨2, 39, 0⟩ 0 |>.putB (pTXC 7) COM.ENABLE true |>.putB (pTXC 8) COM.ENABLE true |>.put (pTXC 7) ⟨2, 39, 0⟩ 0 |>.put (pTXC
       8) ⟨2, 39, 0⟩ 0 |>.putB pPRT COM.ENABLE true |>.putB pBLZ COM.ENABLE true |>.putB pINV COM.ENABLE true |>.putB pANG COM.ENABLE true).putB pPRT
       COM.ENABLE false)) up), (9), (⟨7, 0, 9, 2^40 - 1⟩), (7), by decide +kernel⟩,
   ⟨((fun (s : State) => (fun (s : State) => (List.range 12).foldl (fun (s : State) c => if c = 9 then s else s.setRun c 0) s) ((((s.put (pCND 9)
       (CND.CTX_STATE_RUN 1) 2).withCtx 9 fun _ => { Ctx.reset with move := some (.send 9 ⟨7, 0, 0, 0⟩ 5) }).setOwner 7 15 |>.putB (pFIL 23)
       COM.ENABLE true |>.putB (pFIL 23) (FIL.PORT_FITTED 7) true |>.put (pTXC 8) TXC.CFG_SERVE 0 |>.put (pTXC 7) ⟨7, 3, 1⟩ 0 |>.put (pTXC 8) ⟨7, 3,
       1⟩ 0 |>.put pFLT ⟨2, 39, 0⟩ 0 |>.putB (pTXC 7) COM.ENABLE true |>.putB (pTXC 8) COM.ENABLE true |>.put (pTXC 7) ⟨2, 39, 0⟩ 0 |>.put (pTXC 8)
       ⟨2, 39, 0⟩ 0 |>.putB pPRT COM.ENABLE true |>.putB pBLZ COM.ENABLE true |>.putB pINV COM.ENABLE true |>.putB pANG COM.ENABLE true))) up), (7),
       (9), (.send 9 ⟨7, 0, 0, 0⟩ 5), (⟨7, 0, 0, 0⟩), by decide +kernel⟩,
   ⟨((fun (s : State) => (((s.put (pCND 9) (CND.CTX_STATE_RUN 1) 3).withCtx 9 fun _ =>
       { Ctx.reset with move := some (.send 9 ⟨7, 1, 0, 99⟩ 5), target := some 99 }).setOwner 7 15 |>.putB (pFIL 23) COM.ENABLE true |>.putB (pFIL
       23) (FIL.PORT_FITTED 7) true |>.put (pTXC 8) TXC.CFG_SERVE 0 |>.put (pTXC 7) ⟨7, 3, 1⟩ 0 |>.put (pTXC 8) ⟨7, 3, 1⟩ 0 |>.put pFLT ⟨2, 39, 0⟩ 0
       |>.putB (pTXC 7) COM.ENABLE true |>.putB (pTXC 8) COM.ENABLE true |>.put (pTXC 7) ⟨2, 39, 0⟩ 0 |>.put (pTXC 8) ⟨2, 39, 0⟩ 0 |>.putB pPRT
       COM.ENABLE true |>.putB pBLZ COM.ENABLE true |>.putB pINV COM.ENABLE true |>.putB pANG COM.ENABLE true)) up), (9), (.send 9 ⟨7, 1, 0, 99⟩ 5),
       (⟨7, 1, 0, 99⟩), (99), by decide +kernel⟩,
   ⟨((fun (s : State) =>
       { (((s.put (pCND 9) (CND.CTX_STATE_RUN 1) 3).withCtx 9 fun _ => { Ctx.reset with move := some (.send 9 ⟨7, 1, 0, 99⟩ 5), target := some 99 }).setOwner 7 15 |>.putB (pFIL 23) COM.ENABLE true |>.putB (pFIL 23) (FIL.PORT_FITTED 7) true |>.put (pTXC 8) TXC.CFG_SERVE 0 |>.put (pTXC 7) ⟨7, 3, 1⟩ 0 |>.put (pTXC 8) ⟨7, 3, 1⟩ 0 |>.put pFLT ⟨2, 39, 0⟩ 0 |>.putB (pTXC 7) COM.ENABLE true |>.putB (pTXC 8) COM.ENABLE true |>.put (pTXC 7) ⟨2, 39, 0⟩ 0 |>.put (pTXC 8) ⟨2, 39, 0⟩ 0 |>.putB pPRT COM.ENABLE true |>.putB pBLZ COM.ENABLE true |>.putB pINV COM.ENABLE true |>.putB pANG COM.ENABLE true) with ang := { s.ang with acc := 2 ^ 54 } }) up), (9), (.send 9 ⟨7, 1, 0, 99⟩ 5), (⟨7, 1, 0, 99⟩), (99), by decide +kernel⟩,
   ⟨((fun (s : State) => (((s.put (pCND 9) (CND.CTX_STATE_RUN 1) 2).withCtx 9 fun _ =>
       { Ctx.reset with move := some (.send 9 ⟨7, 1, 0, 99⟩ 5), target := some 99 }).setOwner 7 15 |>.putB (pFIL 23) COM.ENABLE true |>.putB (pFIL
       23) (FIL.PORT_FITTED 7) true |>.put (pTXC 8) TXC.CFG_SERVE 0 |>.put (pTXC 7) ⟨7, 3, 1⟩ 0 |>.put (pTXC 8) ⟨7, 3, 1⟩ 0 |>.put pFLT ⟨2, 39, 0⟩ 0
       |>.putB (pTXC 7) COM.ENABLE true |>.putB (pTXC 8) COM.ENABLE true |>.put (pTXC 7) ⟨2, 39, 0⟩ 0 |>.put (pTXC 8) ⟨2, 39, 0⟩ 0 |>.putB pPRT
       COM.ENABLE true |>.putB pBLZ COM.ENABLE true |>.putB pINV COM.ENABLE true |>.putB pANG COM.ENABLE true)) up), (9), (.send 9 ⟨7, 1, 0, 99⟩ 5),
       (⟨7, 1, 0, 99⟩), by decide +kernel⟩⟩

theorem wit_ControlMoves :
    (∃ (s : State) (c : Nat) (r : Nat) (v : Nat), s.coreRuns = true ∧ listCtx c = true ∧ s.ctxs.length = 12 ∧ s.run c = 1 ∧ (s.ctx c).move = none ∧
        s.recoverAt = none ∧ badMove c (.load c true r v) = false ∧ r < 4) ∧
    (∃ (s : State) (c : Nat) (r : Nat) (a : Nat), s.coreRuns = true ∧ listCtx c = true ∧ s.ctxs.length = 12 ∧ s.run c = 1 ∧ (s.ctx c).move = none ∧
        s.recoverAt = none ∧ badMove c (.load c false r a) = false ∧ r < 4 ∧ s.word a = freshWord (s.word a).data false ∧ a ≤ sramLast) ∧
    (∃ (s : State) (c : Nat) (r : Nat) (a : Nat), s.coreRuns = true ∧ listCtx c = true ∧ s.ctxs.length = 12 ∧ s.run c = 1 ∧ (s.ctx c).move = none ∧
        s.recoverAt = none ∧ badMove c (.load c false r a) = false ∧ mapped a = false) ∧
    (∃ (s : State) (c : Nat) (r : Nat) (a : Nat), s.coreRuns = true ∧ listCtx c = true ∧ s.ctxs.length = 12 ∧ s.run c = 1 ∧ (s.ctx c).move = none ∧
        s.recoverAt = none ∧ badMove c (.store c r a) = false ∧ mapped a = false) ∧
    (∃ (s : State) (c : Nat) (a : Nat) (d : Nat), s.coreRuns = true ∧ listCtx c = true ∧ s.ctxs.length = 12 ∧ s.run c = 1 ∧ (s.ctx c).move = none ∧
        s.recoverAt = none ∧ badMove c (.copy c 1 a d) = false ∧ a < 2 ^ 40 ∧ mapped a = false) ∧
    (∃ (s : State) (c : Nat) (a : Nat) (d : Nat), s.coreRuns = true ∧ listCtx c = true ∧ s.ctxs.length = 12 ∧ s.run c = 1 ∧ (s.ctx c).move = none ∧
        s.recoverAt = none ∧ badMove c (.copy c 1 a d) = false ∧ s.word a = freshWord (s.word a).data false ∧ a ≤ sramLast ∧ d < 2 ^ 40 ∧ mapped d =
        false) ∧
    (∃ (s : State) (c : Nat) (r : Nat) (a : Nat) (b : Nat), s.coreRuns = true ∧ listCtx c = true ∧ s.ctxs.length = 12 ∧ s.run c = 1 ∧ (s.ctx c).move
        = none ∧ s.recoverAt = none ∧ badMove c (.store c r a) = false ∧ r < 4 ∧ a ≤ sramLast ∧ (s.word a).isBad = false ∧ (s.parityWord (a /
        8)).isBad = false ∧ b ≠ a) ∧
    (∃ (s : State) (c : Nat) (a : Nat) (d : Nat) (b : Nat), s.coreRuns = true ∧ listCtx c = true ∧ s.ctxs.length = 12 ∧ s.run c = 1 ∧ (s.ctx c).move
        = none ∧ s.recoverAt = none ∧ badMove c (.copy c 1 a d) = false ∧ s.word a = freshWord (s.word a).data false ∧ a ≤ sramLast ∧ d ≤ sramLast ∧
        (s.word d).isBad = false ∧ (s.parityWord (d / 8)).isBad = false ∧ b ≠ d) ∧
    (∃ (s : State) (c : Nat) (cond : Nat) (imm : Nat) (r : Nat) (t : Nat), s.coreRuns = true ∧ listCtx c = true ∧ s.ctxs.length = 12 ∧ s.run c = 1 ∧
        (s.ctx c).move = none ∧ s.recoverAt = none ∧ badMove c (.branch c cond imm r t) = false ∧ (cond < 5 ∨ s.accPoisoned c r = false) ∧ cond ≠ 7) ∧
    (∃ (s : State) (c : Nat) (imm : Nat) (r : Nat) (t : Nat), s.coreRuns = true ∧ listCtx c = true ∧ s.ctxs.length = 12 ∧ s.run c = 1 ∧ (s.ctx
        c).move = none ∧ s.recoverAt = none ∧ badMove c (.branch c 7 imm r t) = false ∧ s.accPoisoned c r = false ∧ r < 4) ∧
    (∃ (s : State) (c : Nat) (t : Nat), s.coreRuns = true ∧ listCtx c = true ∧ s.ctxs.length = 12 ∧ s.run c = 1 ∧ (s.ctx c).move = none ∧ s.recoverAt
        = none ∧ badMove c (.call c t) = false ∧ (s.ctx c).stack.length < 8) ∧
    (∃ (s : State) (c : Nat) (t : Nat), s.coreRuns = true ∧ listCtx c = true ∧ s.ctxs.length = 12 ∧ s.run c = 1 ∧ (s.ctx c).move = none ∧ s.recoverAt
        = none ∧ badMove c (.call c t) = false ∧ 8 ≤ (s.ctx c).stack.length ∧ ((List.range 8).all fun w => s.owner w != c) = true) ∧
    (∃ (s : State) (c : Nat) (a : Nat) (l : List Nat), s.coreRuns = true ∧ listCtx c = true ∧ s.ctxs.length = 12 ∧ s.run c = 1 ∧ (s.ctx c).move =
        none ∧ s.recoverAt = none ∧ badMove c (.ret c) = false ∧ (s.ctx c).stack = a :: l) ∧
    (∃ (s : State) (c : Nat), s.coreRuns = true ∧ listCtx c = true ∧ s.ctxs.length = 12 ∧ s.run c = 1 ∧ (s.ctx c).move = none ∧ s.recoverAt = none ∧
        badMove c (.ret c) = false ∧ (s.ctx c).stack = [] ∧ ((List.range 8).all fun w => s.owner w != c) = true) ∧
    (∃ (s : State) (c : Nat) (g : Nat) (v : Nat), s.coreRuns = true ∧ listCtx c = true ∧ s.ctxs.length = 12 ∧ s.run c = 1 ∧ (s.ctx c).move = none ∧
        s.recoverAt = none ∧ badMove c (.log c g v) = false ∧ s.scoRoom 2 = true) ∧
    (∃ (s : State) (c : Nat) (g : Nat) (v : Nat), s.coreRuns = true ∧ listCtx c = true ∧ s.ctxs.length = 12 ∧ s.run c = 1 ∧ (s.ctx c).move = none ∧
        s.recoverAt = none ∧ badMove c (.log c g v) = false ∧ 12 ≤ s.scoQueue.length) ∧
    (∃ (s : State) (c : Nat) (ch : Nat), s.coreRuns = true ∧ listCtx c = true ∧ s.ctxs.length = 12 ∧ s.run c = 1 ∧ (s.ctx c).move = none ∧
        s.recoverAt = none ∧ badMove c (.raise c ch) = false ∧ ch < 64 ∧ s.channelOn ch = true ∧ s.feeds (159 + c) ch = true ∧ s.moveHop c < 16) ∧
    (∃ (s : State) (c : Nat) (ch : Nat), s.coreRuns = true ∧ listCtx c = true ∧ s.ctxs.length = 12 ∧ s.run c = 1 ∧ (s.ctx c).move = none ∧
        s.recoverAt = none ∧ badMove c (.raise c ch) = false ∧ ch < 64 ∧ s.channelOn ch = false) :=
  ⟨⟨((fun (s : State) => ((s.put (pCND 9) (CND.CTX_STATE_RUN 1) 1).withCtx 9 fun _ => { Ctx.reset with copied := 0 })) up), (9), (3), (2 ^ 40 - 1),
      by decide +kernel⟩,
   ⟨((fun (s : State) => (((s.put (pCND 9) (CND.CTX_STATE_RUN 1) 1).withCtx 9 fun _ => { Ctx.reset with copied := 0 }).putWord 0x17FFFF (freshWord
       (999 * 0) false))) up), (9), (3), (0x17FFFF), by decide +kernel⟩,
   ⟨((fun (s : State) => ((s.put (pCND 9) (CND.CTX_STATE_RUN 1) 1).withCtx 9 fun _ => { Ctx.reset with copied := 0 })) up), (9), (3), (0x180000),
       by decide +kernel⟩,
   ⟨((fun (s : State) => ((s.put (pCND 9) (CND.CTX_STATE_RUN 1) 1).withCtx 9 fun _ => { Ctx.reset with copied := 0 })) up), (9), (3), (0x180000),
       by decide +kernel⟩,
   ⟨((fun (s : State) => ((s.put (pCND 9) (CND.CTX_STATE_RUN 1) 1).withCtx 9 fun _ => { Ctx.reset with copied := 0 })) up), (9), (0x180000), (5),
       by decide +kernel⟩,
   ⟨((fun (s : State) => (((s.put (pCND 9) (CND.CTX_STATE_RUN 1) 1).withCtx 9 fun _ => { Ctx.reset with copied := 0 }).putWord 0x17FFFF (freshWord
       (999 * 0) false))) up), (9), (0x17FFFF), (0x180000), by decide +kernel⟩,
   ⟨((fun (s : State) => ((s.put (pCND 9) (CND.CTX_STATE_RUN 1) 1).withCtx 9 fun _ => { Ctx.reset with copied := 0 })) up), (9), (3), (0x17FFFF),
       (0x17FFFE), by decide +kernel⟩,
   ⟨((fun (s : State) => (((s.put (pCND 9) (CND.CTX_STATE_RUN 1) 1).withCtx 9 fun _ => { Ctx.reset with copied := 0 }).putWord 0x17FFFF (freshWord
       (999 * 0) false))) up), (9), (0x17FFFF), (0x17FFF8), (0x17FFFE), by decide +kernel⟩,
   ⟨((fun (s : State) => ((s.put (pCND 9) (CND.CTX_STATE_RUN 1) 1).withCtx 9 fun _ => { Ctx.reset with copied := 0 })) up), (9), ([0, 1, 2, 3, 4, 5,
       6, 8, 9].getD (0 % 9) 0), (0), (0 % 4), (2 ^ 40 - 1), by decide +kernel⟩,
   ⟨((fun (s : State) => (((s.put (pCND 9) (CND.CTX_STATE_RUN 1) 1).withCtx 9 fun _ => { Ctx.reset with copied := 0 }).setA 9 2 (0 % 3) false)) up),
       (9), (0), (2), (2 ^ 40 - 1), by decide +kernel⟩,
   ⟨((fun (s : State) => ((s.put (pCND 9) (CND.CTX_STATE_RUN 1) 1).withCtx 9 fun _ => { Ctx.reset with stack := [1, 2, 3, 4, 5, 6, 7] })) up), (9),
       (2 ^ 40 - 1), by decide +kernel⟩,
   ⟨((fun (s : State) => ((List.range 8).foldl (fun (s : State) w => s.setOwner w 15) ((s.put (pCND 9) (CND.CTX_STATE_RUN 1) 1).withCtx 9 fun _ =>
       { Ctx.reset with stack := [1, 2, 3, 4, 5, 6, 7, 8] }))) up), (9), (5), by decide +kernel⟩,
   ⟨((fun (s : State) => ((s.put (pCND 9) (CND.CTX_STATE_RUN 1) 1).withCtx 9 fun _ => { Ctx.reset with stack := [1, 2, 3, 4, 5, 6, 7] })) up), (9),
       (1), ([2, 3, 4, 5, 6, 7]), by decide +kernel⟩,
   ⟨((fun (s : State) => ((List.range 8).foldl (fun (s : State) w => s.setOwner w 15) ((s.put (pCND 9) (CND.CTX_STATE_RUN 1) 1).withCtx 9 fun _ =>
       { Ctx.reset with copied := 0 }))) up), (9), by decide +kernel⟩,
   ⟨((fun (s : State) => (((s.put (pCND 9) (CND.CTX_STATE_RUN 1) 1).withCtx 9 fun _ => { Ctx.reset with copied := 0 }).putB pSCO SCO.STATUS_MOUNTED
       true)) up), (9), (255), (2 ^ 40 - 1), by decide +kernel⟩,
   ⟨((fun (s : State) =>
       { ((s.put (pCND 9) (CND.CTX_STATE_RUN 1) 1).withCtx 9 fun _ => { Ctx.reset with copied := 0 }) with scoQueue := List.replicate 12 ⟨2, 0, 0, 0, 0, []⟩ }) up), (9), (255), (2 ^ 40 - 1), by decide +kernel⟩,
   ⟨((fun (s : State) => ((fun (s : State) => (s.putB pARB COM.ENABLE true |>.putB (pEVT 7) COM.ENABLE true |>.putB (pEVT 7) (EVT.CH_CFG_EN 7) true
       |>.put (pEVT 7) (EVT.CH_CFG_DELAY 7) (3 * 0) |>.putB (pEVT 7) (EVT.CH_CFG_CHAIN 7) false |>.putBit (pEVT 7) (EVT.CH_PSEL 7 4) 31 true
       |>.putBit (pEVT 7) (EVT.CH_PSEL 7 4) 11 true)) ((((s.put (pCND 9) (CND.CTX_STATE_RUN 1) 1).withCtx 9 fun _ =>
       { Ctx.reset with copied := 0 }).put (pCND 9) (CND.CTX_STATE_HOP 1) 14))).putBit (pEVT 7) (EVT.CH_PSEL 7 4) 8 true) up), (9), (63),
       by decide +kernel⟩,
   ⟨((fun (s : State) => (((s.put (pCND 9) (CND.CTX_STATE_RUN 1) 1).withCtx 9 fun _ => { Ctx.reset with copied := 0 }).putB pARB COM.ENABLE false))
       up), (9), (63), by decide +kernel⟩⟩

theorem wit_WaitingMoves :
    (∃ (s : State) (c : Nat) (w : Nat) (a : Nat) (t : Nat), s.coreRuns = true ∧ listCtx c = true ∧ s.ctxs.length = 12 ∧ s.run c = 1 ∧ (s.ctx c).move
        = none ∧ s.recoverAt = none ∧ badMove c (.waitAngle c w a) = false ∧ w < 3 ∧ (s.ctx c).again = false ∧ s.enabled pANG = true ∧ t = ((if w = 1
        then 0 else if w = 2 then s.lastLaunch c else s.angle) + a) % 2 ^ 40) ∧
    (∃ (s : State) (c : Nat) (w : Nat) (a : Nat), s.coreRuns = true ∧ listCtx c = true ∧ s.ctxs.length = 12 ∧ s.run c = 1 ∧ (s.ctx c).move = none ∧
        s.recoverAt = none ∧ badMove c (.waitAngle c w a) = false ∧ s.enabled pANG = false) ∧
    (∃ (s : State) (c : Nat) (late : Bool) (t : Nat) (m : Instr), s.coreRuns = true ∧ listCtx c = true ∧ s.ctxs.length = 12 ∧ s.run c = 5 ∧ (s.ctx
        c).ended = none ∧ (s.ctx c).move = some m ∧ (s.ctx c).target = some t ∧ t < 2 ^ 40) ∧
    (∃ (s : State) (c : Nat) (ch : Nat) (t : Nat), s.coreRuns = true ∧ listCtx c = true ∧ s.ctxs.length = 12 ∧ s.run c = 1 ∧ (s.ctx c).move = none ∧
        s.recoverAt = none ∧ badMove c (.waitEvent c ch t) = false ∧ (ch, s.now) ∉ s.fires) ∧
    (∃ (s : State) (c : Nat) (ch : Nat) (t : Nat), s.coreRuns = true ∧ listCtx c = true ∧ s.ctxs.length = 12 ∧ s.run c = 1 ∧ (s.ctx c).move = none ∧
        s.recoverAt = none ∧ badMove c (.waitEvent c ch t) = false ∧ (ch, s.now) ∈ s.fires) ∧
    (∃ (s : State) (c : Nat) (m : Instr), s.coreRuns = true ∧ listCtx c = true ∧ s.ctxs.length = 12 ∧ s.run c = 6 ∧ (s.ctx c).ended = none ∧ (s.ctx
        c).move = some m) ∧
    (∃ (s : State) (c : Nat) (w : Bool), s.coreRuns = true ∧ listCtx c = true ∧ s.ctxs.length = 12 ∧ s.run c = 1 ∧ (s.ctx c).move = none ∧
        s.recoverAt = none ∧ badMove c (.inventory c w 2) = false ∧ s.invState = 0) ∧
    (∃ (s : State) (c : Nat) (w : Bool) (a : Nat), s.coreRuns = true ∧ listCtx c = true ∧ s.ctxs.length = 12 ∧ s.run c = 1 ∧ (s.ctx c).move = none ∧
        s.recoverAt = none ∧ badMove c (.inventory c w a) = false ∧ a < 2 ∧ s.enabled pINV = false) ∧
    (∃ (s : State) (c : Nat) (w : Bool) (a : Nat), s.coreRuns = true ∧ listCtx c = true ∧ s.ctxs.length = 12 ∧ s.run c = 1 ∧ (s.ctx c).move = none ∧
        s.recoverAt = none ∧ badMove c (.inventory c w a) = false ∧ w = false ∧ a = 0 ∧ s.enabled pINV = true ∧ s.invState = 0 ∧ s.inv.oos = false ∧
        s.ledgerFits = true ∧ (s.readPlan s.rounds).2.planOk = true ∧ (match (s.readPlan s.rounds).1 with | .words _ => true | _ => false) = true ∧
        (s.schedMode = 1 ∨ s.schedMode = 2)) :=
  ⟨⟨((fun (s : State) => (((s.put (pCND 9) (CND.CTX_STATE_RUN 1) 1).withCtx 9 fun _ => { Ctx.reset with copied := 0 }).putB pANG COM.ENABLE true
      |>.setLaunch 9 (77 + 0))) up), (9), (0 % 3), (2 ^ 40 - 1), ((fun (s : State) => ((if 0 % 3 = 1 then 0 else if 0 % 3 = 2 then s.lastLaunch 9
      else s.angle) + (2 ^ 40 - 1)) % 2 ^ 40) ((fun (s : State) => (((s.put (pCND 9) (CND.CTX_STATE_RUN 1) 1).withCtx 9 fun _ =>
      { Ctx.reset with copied := 0 }).putB pANG COM.ENABLE true |>.setLaunch 9 (77 + 0))) up)), by decide +kernel⟩,
   ⟨((fun (s : State) => (((s.put (pCND 9) (CND.CTX_STATE_RUN 1) 1).withCtx 9 fun _ => { Ctx.reset with copied := 0 }).putB pANG COM.ENABLE false))
       up), (9), (0), (5), by decide +kernel⟩,
   ⟨((fun (s : State) => ((s.put (pCND 9) (CND.CTX_STATE_RUN 1) 5).withCtx 9 fun _ =>
       { Ctx.reset with move := some (.waitAngle 9 1 77), target := some 77 })) up), (9), (0 % 2 == 0), (77), (.waitAngle 9 1 77), by decide +kernel⟩,
   ⟨((fun (s : State) => ((s.put (pCND 9) (CND.CTX_STATE_RUN 1) 1).withCtx 9 fun _ => { Ctx.reset with copied := 0 })) up), (9), (63), (2 ^ 32 - 1),
       by decide +kernel⟩,
   ⟨((fun (s : State) =>
       { ((s.put (pCND 9) (CND.CTX_STATE_RUN 1) 1).withCtx 9 fun _ => { Ctx.reset with copied := 0 }) with fires := [(63, s.now)] }) up), (9), (63),
       (0), by decide +kernel⟩,
   ⟨((fun (s : State) => ((s.put (pCND 9) (CND.CTX_STATE_RUN 1) 6).withCtx 9 fun _ => { Ctx.reset with move := some (.waitEvent 9 1 77) })) up), (9),
       (.waitEvent 9 1 77), by decide +kernel⟩,
   ⟨((fun (s : State) => (((s.put (pCND 9) (CND.CTX_STATE_RUN 1) 1).withCtx 9 fun _ => { Ctx.reset with copied := 0 }).setInvState 0)) up), (9), (0 %
       2 == 0), by decide +kernel⟩,
   ⟨((fun (s : State) => (((s.put (pCND 9) (CND.CTX_STATE_RUN 1) 1).withCtx 9 fun _ => { Ctx.reset with copied := 0 }).putB pINV COM.ENABLE false))
       up), (9), (0 % 2 == 0), (0 % 2), by decide +kernel⟩,
   ⟨((fun (s : State) => ((fun (s : State) => (s.memWrites 1000 [0xFFFFFFFFFF, 0xFFFFFF8000] |>.putB pINV COM.ENABLE true |>.setInvState 0 |>.put
       pINV INV.LEDGER_BASE_ADDR 0 |>.put pINV INV.PLAN_BASE_ADDR 1000 |>.put pINV INV.SCHED_ROUNDS 1 |>.put pINV INV.SCHED_MODE (1 + 0 % 2)))
       ((s.put (pCND 9) (CND.CTX_STATE_RUN 1) 1).withCtx 9 fun _ => { Ctx.reset with copied := 0 }))) up), (9), (false), (0), by decide +kernel⟩⟩

end Sys2Proof.Tests
end

section
/-! SUPPORT. The invariant of O55 over the step: each command's own law of the canonical form, taken together over the table. -/

namespace Sys2Proof.Machine

open Sys2Proof

/-- What any command answers from a canonical state is canonical: each arm of the dispatch has its law. -/
theorem canon_exec (c : Instr) {s : State} (h : s.Canon) : CanonE (exec c s) :=
  match c with
  | .registerWrite .. => canon_execRegisterWrite _ _ _ _ _ h
  | .softReset .. => canon_execSoftReset _ h
  | .ctrlEnableWrite .. => canon_execCtrlEnableWrite _ _ h
  | .lockWrite .. => canon_execLockWrite _ h
  | .configWatchVisit .. => canon_execConfigWatchVisit _ _ h
  | .angEnable => canon_execAngEnable h
  | .angDisable => canon_execAngDisable h
  | .syncInEdge => canon_execSyncInEdge h
  | .edgeWindowClose => canon_execEdgeWindowClose h
  | .cycleBoundary => canon_execCycleBoundary h
  | .virtualCycleEnd => canon_execVirtualCycleEnd h
  | .vperiodWrite .. => canon_execVperiodWrite _ h
  | .alarmFire .. => canon_execAlarmFire _ _ h
  | .syncOutPulse => canon_execSyncOutPulse h
  | .syncOutPulseEnd => canon_execSyncOutPulseEnd h
  | .accumulatorMismatch .. => canon_execAccumulatorMismatch _ h
  | .roleDecision .. => canon_execRoleDecision _ h
  | .idleCell .. => canon_execIdleCell _ _ h
  | .rateCell .. => canon_execRateCell _ _ _ h
  | .stateCell .. => canon_execStateCell _ _ _ h
  | .countCell .. => canon_execCountCell _ _ h
  | .rangeStartCell .. => canon_execRangeStartCell _ h
  | .rangeResultCell .. => canon_execRangeResultCell _ _ h
  | .helloCell .. => canon_execHelloCell _ _ h
  | .launchCell .. => canon_execLaunchCell _ _ _ h
  | .eventCell .. => canon_execEventCell _ _ _ _ h
  | .reportCell .. => canon_execReportCell _ h
  | .badCell .. => canon_execBadCell _ h
  | .cellResend .. => canon_execCellResend _ h
  | .countTimeout => canon_execCountTimeout h
  | .discover => canon_execDiscover h
  | .range => canon_execRange h
  | .echoWindowEnd .. => canon_execEchoWindowEnd _ h
  | .boardNum .. => canon_execBoardNum _ _ _ h
  | .postToken .. => canon_execPostToken _ h
  | .lslotFire .. => canon_execLslotFire _ _ h
  | .chainLinkedDelivery .. => canon_execChainLinkedDelivery _ _ h
  | .tokenHoldLimit => canon_execTokenHoldLimit h
  | .reportTokenTimeout => canon_execReportTokenTimeout h
  | .chainAngleLost .. => canon_execChainAngleLost _ h
  | .switchReadbackFault .. => canon_execSwitchReadbackFault _ h
  | .tuneWrite .. => canon_execTuneWrite _ _ _ h
  | .atuneStart .. => canon_execAtuneStart _ h
  | .atuneComplete .. => canon_execAtuneComplete _ _ h
  | .fieldLaunch .. => canon_execFieldLaunch _ h
  | .plateau .. => canon_execPlateau _ h
  | .settleEnd .. => canon_execSettleEnd _ h
  | .rampDownEnd .. => canon_execRampDownEnd _ h
  | .monitorMean .. => canon_execMonitorMean _ _ _ _ h
  | .paOvercurrent .. => canon_execPaOvercurrent _ h
  | .txcControlMismatch .. => canon_execTxcControlMismatch _ h
  | .txc8Assign .. => canon_execTxc8Assign _ h
  | .txc8Release => canon_execTxc8Release h
  | .railLowering .. => canon_execRailLowering _ h
  | .railAck .. => canon_execRailAck _ h
  | .tapReadbackFault .. => canon_execTapReadbackFault _ h
  | .leakConverged .. => canon_execLeakConverged _ _ _ _ h
  | .checkToneBlock .. => canon_execCheckToneBlock _ _ _ h
  | .rxcControlMismatch .. => canon_execRxcControlMismatch _ h
  | .agcBlock .. => canon_execAgcBlock _ _ h
  | .preambleDetect .. => canon_execPreambleDetect _ _ h
  | .fineTimingDecision .. => canon_execFineTimingDecision _ _ h
  | .captureWatchFire .. => canon_execCaptureWatchFire _ _ h
  | .legacyFrameStart .. => canon_execLegacyFrameStart _ _ h
  | .legacyFrameEnd .. => canon_execLegacyFrameEnd _ _ _ h
  | .captureStart .. => canon_execCaptureStart _ h
  | .captureStop .. => canon_execCaptureStop _ _ h
  | .captureTrigger .. => canon_execCaptureTrigger _ _ _ h
  | .captureDone .. => canon_execCaptureDone _ _ h
  | .captureOverrun .. => canon_execCaptureOverrun _ _ h
  | .rxc16Assign .. => canon_execRxc16Assign _ h
  | .rxc16Release => canon_execRxc16Release h
  | .replyFrame .. => canon_execReplyFrame _ _ h
  | .replyWaitEnd .. => canon_execReplyWaitEnd _ h
  | .prtEngineMismatch .. => canon_execPrtEngineMismatch _ h
  | .blitzHeader .. => canon_execBlitzHeader _ _ h
  | .blitzFrameEnd .. => canon_execBlitzFrameEnd _ _ h
  | .laneMismatch .. => canon_execLaneMismatch _ h
  | .invStart => canon_execInvStart h
  | .invDiscover => canon_execInvDiscover h
  | .invStop => canon_execInvStop h
  | .roundLaunch .. => canon_execRoundLaunch _ h
  | .passEnd => canon_execPassEnd h
  | .invSchedMismatch => canon_execInvSchedMismatch h
  | .sweepStart => canon_execSweepStart h
  | .ping .. => canon_execPing _ _ h
  | .sweepEnd => canon_execSweepEnd h
  | .pendHandoff => canon_execPendHandoff h
  | .kbzMismatch => canon_execKbzMismatch h
  | .contextStart .. => canon_execContextStart _ _ h
  | .contextAbort .. => canon_execContextAbort _ h
  | .contextHalt .. => canon_execContextHalt _ h
  | .moveFetch .. => canon_execMoveFetch _ h
  | .wingClaimGrant .. => canon_execWingClaimGrant _ h
  | .rfMoveLaunch .. => canon_execRfMoveLaunch _ _ h
  | .lateLimitExpiry .. => canon_execLateLimitExpiry _ h
  | .moveCompletion .. => canon_execMoveCompletion _ h
  | .lockstepMismatch => canon_execLockstepMismatch h
  | .stop .. => canon_execStop _ h
  | .field .. => canon_execField _ _ _ _ h
  | .tune .. => canon_execTune _ _ _ _ h
  | .send .. => canon_execSend _ _ _ h
  | .listen .. => canon_execListen _ _ _ h
  | .xchg .. => canon_execXchg _ _ _ _ _ _ _ h
  | .anticoll .. => canon_execAnticoll _ _ _ h
  | .inventory .. => canon_execInventory _ _ _ h
  | .sound .. => canon_execSound _ _ _ h
  | .book .. => canon_execBook _ _ _ h
  | .gambit .. => canon_execGambit _ _ _ h
  | .seal .. => canon_execSeal _ _ _ h
  | .waitAngle .. => canon_execWaitAngle _ _ _ h
  | .waitAngleFire .. => canon_execWaitAngleFire _ _ h
  | .waitEvent .. => canon_execWaitEvent _ _ _ h
  | .waitEventTimeout .. => canon_execWaitEventTimeout _ h
  | .raise .. => canon_execRaise _ _ h
  | .branch .. => canon_execBranch _ _ _ _ _ h
  | .call .. => canon_execCall _ _ h
  | .ret .. => canon_execRet _ h
  | .load .. => canon_execLoad _ _ _ _ h
  | .store .. => canon_execStore _ _ _ h
  | .copy .. => canon_execCopy _ _ _ _ h
  | .log .. => canon_execLog _ _ _ h
  | .producerEvent .. => canon_execProducerEvent _ _ h
  | .channelDelivery .. => canon_execChannelDelivery _ h
  | .hostFire .. => canon_execHostFire _ _ h
  | .gpioEdge .. => canon_execGpioEdge _ _ h
  | .arbMismatch .. => canon_execArbMismatch _ h
  | .calDue .. => canon_execCalDue _ h
  | .wingWindow .. => canon_execWingWindow _ h
  | .calRunEnd .. => canon_execCalRunEnd _ _ h
  | .calYield => canon_execCalYield h
  | .calStarved .. => canon_execCalStarved _ h
  | .forcedWindow .. => canon_execForcedWindow _ h
  | .applyPoint => canon_execApplyPoint h
  | .soloApply => canon_execSoloApply h
  | .xbArm => canon_execXbArm h
  | .xbMeasurement .. => canon_execXbMeasurement _ h
  | .xbPeer .. => canon_execXbPeer _ h
  | .calMismatch => canon_execCalMismatch h
  | .scoMount .. => canon_execScoMount _ h
  | .remount .. => canon_execRemount _ h
  | .format => canon_execFormat h
  | .telNow .. => canon_execTelNow _ h
  | .telemetryTimer .. => canon_execTelemetryTimer _ h
  | .recordProgrammed .. => canon_execRecordProgrammed _ h
  | .sectorErased .. => canon_execSectorErased _ h
  | .sramRead .. => canon_execSramRead _ h
  | .sramWrite .. => canon_execSramWrite _ _ h
  | .codecMismatch .. => canon_execCodecMismatch _ h
  | .scrubLine => canon_execScrubLine h
  | .scbPeriodWrite .. => canon_execScbPeriodWrite _ h
  | .scrubSeqMismatch => canon_execScrubSeqMismatch h
  | .memSelfTest .. => canon_execMemSelfTest _ h
  | .bankZeroing => canon_execBankZeroing h
  | .bistGo => canon_execBistGo h
  | .injGo => canon_execInjGo h
  | .injRaw => canon_execInjRaw h
  | .memWindowRead .. => canon_execMemWindowRead _ h
  | .memWindowWrite .. => canon_execMemWindowWrite _ _ h
  | .ckuStart .. => canon_execCkuStart _ h
  | .ckuData .. => canon_execCkuData _ _ _ _ h
  | .ckuEnd .. => canon_execCkuEnd _ h
  | .ckuRunWrite .. => canon_execCkuRunWrite _ _ h
  | .ckuLogicMismatch .. => canon_execCkuLogicMismatch _ h
  | .hostRead .. => canon_execHostRead _ _ _ _ _ _ h
  | .hostWrite .. => canon_execHostWrite _ h
  | .status .. => canon_execStatus _ _ h
  | .resignFrame .. => canon_execResignFrame _ _ h
  | .sdrResetPulse => canon_execSdrResetPulse h
  | .runt .. => canon_execRunt _ _ _ h
  | .clkNoSel => canon_execClkNoSel h
  | .rptPush .. => canon_execRptPush _ h
  | .rptPop => canon_execRptPop h
  | .reportUnit => canon_execReportUnit h
  | .reportUnitEnd => canon_execReportUnitEnd h
  | .masterCollision => canon_execMasterCollision h
  | .decoderMismatch => canon_execDecoderMismatch h
  | .xmpDiscovery => canon_execXmpDiscovery h
  | .discoveryEnd .. => canon_execDiscoveryEnd _ h
  | .lineFetch .. => canon_execLineFetch _ _ _ h
  | .pageProgram .. => canon_execPageProgram _ _ h
  | .xmpErase => canon_execXmpErase h
  | .eraseComplete .. => canon_execEraseComplete _ _ h
  | .xmpWindowRead .. => canon_execXmpWindowRead _ h
  | .xmpWindowWrite .. => canon_execXmpWindowWrite _ _ h
  | .xmpMismatch => canon_execXmpMismatch h
  | .modeReq .. => canon_execModeReq _ _ h
  | .entryDone => canon_execEntryDone h
  | .wakeSource .. => canon_execWakeSource _ h
  | .wakeComplete => canon_execWakeComplete h
  | .pmbusTransaction .. => canon_execPmbusTransaction _ _ _ h
  | .railAttemptTimeout .. => canon_execRailAttemptTimeout _ h
  | .powerGoodLost .. => canon_execPowerGoodLost _ h
  | .safeRequestDone => canon_execSafeRequestDone h
  | .referenceCheckPassed => canon_execReferenceCheckPassed h
  | .synLock => canon_execSynLock h
  | .xtalTimeout => canon_execXtalTimeout h
  | .referenceLoss => canon_execReferenceLoss h
  | .clkRestore => canon_execClkRestore h
  | .synUnlock => canon_execSynUnlock h
  | .clkDisable => canon_execClkDisable h
  | .powerOnReset => canon_execPowerOnReset h
  | .resetN => canon_execResetN h
  | .chipReset .. => canon_execChipReset _ h
  | .thermalReading .. => canon_execThermalReading _ h
  | .supplyMonitorFault .. => canon_execSupplyMonitorFault _ h
  | .cclkStop => canon_execCclkStop h
  | .faultManagerMismatch => canon_execFaultManagerMismatch h
  | .resignNLow => canon_execResignNLow h
  | .resignRampEnd => canon_execResignRampEnd h
  | .resignRelease .. => canon_execResignRelease _ h
  | .tstArm .. => canon_execTstArm _ h
  | .tstArmExpiry => canon_execTstArmExpiry h
  | .tstInject .. => canon_execTstInject _ _ h
  | .injectionOutcomeTimeout => canon_execInjectionOutcomeTimeout h
  | .jtagInstruction .. => canon_execJtagInstruction _ h
  | .voidCell .. => canon_execVoidCell _ h
  | .badOpcode .. => canon_execBadOpcode _ _ _ _ _ _ h
  | .trstN => canon_execTrstN h

/-- The queue of commands is no part of the canonical form. -/
theorem canon_withPending {s : State} (h : s.Canon) (l : List Instr) : State.Canon { s with pending := l } :=
  (canon_parts ..).2 (parts_of h)

/-- What a step answers from a canonical state is canonical: on an empty queue the Board's own time, else the front command. -/
theorem canon_step {s : State} (h : s.Canon) : CanonE (step s) := by
  unfold step
  split
  · exact ⟨fun t ht => by cases ht; exact canon_elapse h⟩
  · exact canon_exec _ (canon_withPending h _)

/-- Settles O55: the canonical form is kept by the Board's own time (`canon_elapse`) and by every command (`canon_exec`). -/
theorem stepKeepsCanonical : Obligations.StepKeepsCanonical :=
  fun _ t ht h => (canon_step h).all t ht

end Sys2Proof.Machine
end

section
/-! SUPPORT. What is followed of a state through `State.settle`, and the shared operations that keep it. -/

namespace Sys2Proof.Machine
open Sys2Proof

/-- What is followed of a state through what happens at once: how many engines and inventory Wings a state has and, with `all`,
which fault classes are recorded and the capacitor value that ATUNE_RESULT of TXC0 shows. -/
def State.gauge (all : Bool) (s : State) : (Nat × Nat) × Option (List (Nat × Nat) × Nat) :=
  ((s.engs.length, s.inv.wings.length), if all then some (s.flt.recorded, s.get (pTXC 0) TXC.ATUNE_RESULT_CAP) else none)

variable {all : Bool}

theorem gauge_of_get {s t : State} (he : t.engs = s.engs) (hi : t.inv.wings = s.inv.wings) (hf : t.flt.recorded = s.flt.recorded)
    (hg : t.get (pTXC 0) TXC.ATUNE_RESULT_CAP = s.get (pTXC 0) TXC.ATUNE_RESULT_CAP) : t.gauge all = s.gauge all := by
  unfold State.gauge; rw [he, hi, hf, hg]

@[simp] theorem gauge_put_false (s : State) (p : Nat) (f : Fld) (x : Nat) : (s.put p f x).gauge false = s.gauge false := rfl

/-- A field put in another register than ATUNE_RESULT of TXC0, whose key is 4121. -/
theorem gauge_put_ne {p : Nat} {f : Fld} (h : p * 256 + f.off ≠ 4121) (s : State) (x : Nat) : (s.put p f x).gauge all = s.gauge all :=
  gauge_of_get rfl rfl rfl (State.get_put_reg s (Ne.symm h) x)

@[simp] theorem gauge_put_off {f : Fld} (h : f.off % 256 ≠ 25) (s : State) (p x : Nat) : (s.put p f x).gauge all = s.gauge all :=
  gauge_put_ne (by omega) s x

@[simp] theorem gauge_put_page {p : Nat} {f : Fld} (h : 4121 < p * 256) (s : State) (x : Nat) : (s.put p f x).gauge all = s.gauge all :=
  gauge_put_ne (by omega) s x

/-- The status of an auto-tune lies in ATUNE_RESULT beside the capacitor value. -/
@[simp] theorem gauge_put_tuneStatus (s : State) (p x : Nat) : (s.put p TXC.ATUNE_RESULT_STATUS x).gauge all = s.gauge all :=
  gauge_of_get rfl rfl rfl (State.get_put_bits s (by decide) (by decide) (.inl (by decide)) x)

@[simp] theorem gauge_ite (c : Prop) [Decidable c] (x y : State) :
    (if c then x else y).gauge all = if c then x.gauge all else y.gauge all := apply_ite _ c x y

@[simp] theorem gauge_when (s : State) (c : Bool) (f : State → State) :
    (s.when c f).gauge all = if c then (f s).gauge all else s.gauge all := apply_ite _ _ _ _

@[simp] theorem gauge_forEach {α : Type} {f : State → α → State} (hf : ∀ t a, (f t a).gauge all = t.gauge all) (s : State)
    (l : List α) : (s.forEach l f).gauge all = s.gauge all := by
  unfold State.forEach
  induction l generalizing s with
  | nil => rfl
  | cons a l ih => exact (ih (f s a)).trans (hf s a)

theorem gauge_only {K : Nat → Nat → Bool} {s t : State} (hk : K 16 25 = false) (h : Only K s t) : t.gauge all = s.gauge all := by
  have hr := h.rest
  exact gauge_of_get (congrArg State.engs hr :) (congrArg (fun u : State => u.inv.wings) hr :)
    (congrArg (fun u : State => u.flt.recorded) hr :) (h.get (q := pTXC 0) (f := TXC.ATUNE_RESULT_CAP) (by decide) (by decide) hk)

@[simp] theorem gauge_numberAs (s : State) (r n : Nat) : (s.numberAs r n).2.gauge all = s.gauge all :=
  gauge_only (K := noKeys) rfl (State.numberAs_only s r n)

@[simp] theorem gauge_recordErr (s : State) (p c : Nat) : (s.recordErr p c).gauge all = s.gauge all :=
  gauge_only (K := fun _ o => o == 8) rfl (State.recordErr_only s p c (.inr rfl))

@[simp] theorem gauge_present (s : State) (p hop : Nat) : (s.present p hop).gauge all = s.gauge all :=
  gauge_only (K := noKeys) rfl (State.present_only s p hop)

@[simp] theorem gauge_putB (s : State) (p : Nat) (f : Fld) (x : Bool) : (s.putB p f x).gauge all = (s.put p f (b2n x)).gauge all := rfl

@[simp] theorem gauge_putBit (s : State) (p : Nat) (f : Fld) (i : Nat) (x : Bool) :
    (s.putBit p f i x).gauge all = (s.put p ⟨f.off, f.lo + i, f.lo + i⟩ (b2n x)).gauge all := rfl

@[simp] theorem gauge_inc (s : State) (p : Nat) (f : Fld) :
    (s.inc p f).gauge all = (s.put p f (satInc (2 ^ (f.hi + 1 - f.lo) - 1) (s.get p f))).gauge all := rfl

@[simp] theorem gauge_noteSet (s : State) (n : Nat) (m : Word) : (s.noteSet n m).gauge all = s.gauge all := rfl
@[simp] theorem gauge_raise (s : State) (p : Nat) (f : Fld) (i : Nat) : (s.raise p f i).gauge all = (s.putBit p f i true).gauge all := rfl
@[simp] theorem gauge_flag (s : State) (p : Nat) (f : Fld) (i : Nat) : (s.flag p f i).gauge all = (s.putBit p f i true).gauge all := rfl
@[simp] theorem gauge_mirrorTake (s : State) (n : Nat) (m : Word) : (s.mirrorTake n m).gauge all = s.gauge all := rfl

@[simp] theorem gauge_putHw_false (s : State) (p : Nat) (f : Fld) (x : Nat) : (s.putHw p f x).gauge false = s.gauge false := by
  unfold State.putHw; split <;> rfl

@[simp] theorem gauge_sched (s : State) (d : Nat) (c : Instr) : (s.sched d c).gauge all = s.gauge all := rfl
@[simp] theorem gauge_unsched (s : State) (c : Instr) : (s.unsched c).gauge all = s.gauge all := rfl
@[simp] theorem gauge_resched (s : State) (d : Nat) (c : Instr) : (s.resched d c).gauge all = s.gauge all := rfl
@[simp] theorem gauge_untimer (s : State) (t : Tm) : (s.untimer t).gauge all = s.gauge all := rfl
@[simp] theorem gauge_retimer (s : State) (d : Nat) (t : Tm) : (s.retimer d t).gauge all = s.gauge all := rfl
@[simp] theorem gauge_nextFree (s : State) : s.nextFree.gauge all = s.gauge all := rfl
@[simp] theorem gauge_withTx (s : State) (n : Nat) (f : Txc → Txc) : (s.withTx n f).gauge all = s.gauge all := rfl
@[simp] theorem gauge_withRx (s : State) (n : Nat) (f : Rxc → Rxc) : (s.withRx n f).gauge all = s.gauge all := rfl
@[simp] theorem gauge_withCtx (s : State) (n : Nat) (f : Ctx → Ctx) : (s.withCtx n f).gauge all = s.gauge all := rfl
@[simp] theorem gauge_withPwr (s : State) (f : Pwr → Pwr) : (s.withPwr f).gauge all = s.gauge all := rfl
@[simp] theorem gauge_withRail (s : State) (r : Nat) (f : Rail → Rail) : (s.withRail r f).gauge all = s.gauge all := rfl
@[simp] theorem gauge_withXmp (s : State) (f : Xmp → Xmp) : (s.withXmp f).gauge all = s.gauge all := rfl
@[simp] theorem gauge_withSco (s : State) (f : Sco → Sco) : (s.withSco f).gauge all = s.gauge all := rfl
@[simp] theorem gauge_withCal (s : State) (f : Cal → Cal) : (s.withCal f).gauge all = s.gauge all := rfl
@[simp] theorem gauge_putWord (s : State) (a : Nat) (w : Stored) : (s.putWord a w).gauge all = s.gauge all := rfl
@[simp] theorem gauge_putParity (s : State) (l : Nat) (w : Stored) : (s.putParity l w).gauge all = s.gauge all := rfl

@[simp] theorem gauge_putHw_page {p : Nat} (h : 4121 < p * 256) (s : State) (f : Fld) (x : Nat) :
    (s.putHw p f x).gauge all = s.gauge all := by
  unfold State.putHw; split
  · rfl
  · exact gauge_put_page h s x

theorem pCND_far (c : Nat) : 4121 < pCND c * 256 := by unfold pCND; omega

theorem gauge_put_rail {r : Nat} (hr : r < 4) (s : State) (x : Nat) :
    (s.put pPWR (PWR.RAIL_STAT_STATE r) x).gauge all = s.gauge all ∧ (s.put pPWR (PWR.RAIL_STAT_TRIES r) x).gauge all = s.gauge all := by
  have h : pPWR * 256 + (0x1D + r) ≠ 4121 := by unfold pPWR; omega
  exact ⟨gauge_put_ne h s x, gauge_put_ne h s x⟩

theorem gauge_foldl {α β : Type} (g : β → State) {f : β → α → β} (hf : ∀ r a, (g (f r a)).gauge all = (g r).gauge all)
    (i : β) (l : List α) : (g (l.foldl f i)).gauge all = (g i).gauge all := by
  induction l generalizing i with
  | nil => rfl
  | cons a l ih => exact (ih (f i a)).trans (hf i a)

@[simp] theorem gauge_withWing (s : State) (w : Nat) (f : InvWing → InvWing) : (s.withWing w f).gauge all = s.gauge all := by
  unfold State.gauge State.withWing State.withInv
  simp only [List.length_set]; rfl

@[simp] theorem gauge_withEng (s : State) (w : Nat) (f : Eng → Eng) : (s.withEng w f).gauge all = s.gauge all := by
  unfold State.gauge State.withEng
  simp only [List.length_set]; rfl

end Sys2Proof.Machine
end

section
/-! SUPPORT. What is followed, through Wing claims, chains, rails and the ends of moves. -/

namespace Sys2Proof.Machine
open Sys2Proof

variable {all : Bool}

@[simp] theorem gauge_setOwner (s : State) (w o : Nat) : (s.setOwner w o).gauge all = s.gauge all := by
  unfold State.setOwner ownerFld; simp +decide [pCND_far]

@[simp] theorem gauge_releaseWing (s : State) (w : Nat) : (s.releaseWing w).gauge all = s.gauge all := by
  unfold State.releaseWing; simp

@[simp] theorem gauge_endPass (s : State) : s.endPass.gauge all = s.gauge all := rfl

@[simp] theorem gauge_endRound (s : State) : s.endRound.gauge all = s.gauge all := by
  have h : (s.withInv fun i => { i with inRound := false }).gauge all = s.gauge all := rfl
  unfold State.endRound; simp +decide [h]

@[simp] theorem gauge_roundDone (s : State) : s.roundDone.gauge all = s.gauge all := by
  unfold State.roundDone; simp

@[simp] theorem gauge_invSettle (s : State) (w : Nat) : (s.invSettle w).gauge all = s.gauge all := by
  unfold State.invSettle; simp

@[simp] theorem gauge_invSettleAll (s : State) : s.invSettleAll.gauge all = s.gauge all := by
  unfold State.invSettleAll; simp

@[simp] theorem gauge_setField (s : State) (n st : Nat) : (s.setField n st).gauge all = s.gauge all := by
  unfold State.setField; simp +decide

@[simp] theorem gauge_rampDown (s : State) (n st : Nat) : (s.rampDown n st).gauge all = s.gauge all := by
  unfold State.rampDown; simp

theorem rxPage_far (s : State) (n : Nat) : 4121 < s.rxPage n * 256 := by
  unfold State.rxPage pRXC; split <;> omega

@[simp] theorem gauge_rxPutHw (s : State) (n : Nat) (f : Fld) (x : Nat) : (s.rxPutHw n f x).gauge all = s.gauge all :=
  gauge_putHw_page (rxPage_far s n) s f x

@[simp] theorem gauge_selectTap (s : State) (n p : Nat) : (s.selectTap n p).gauge all = s.gauge all := by
  unfold State.selectTap; simp +decide

@[simp] theorem gauge_retap (s : State) (n : Nat) : (s.retap n).gauge all = s.gauge all := by
  unfold State.retap; split
  · rfl
  · split <;> simp

@[simp] theorem gauge_retapWing (s : State) (w : Nat) : (s.retapWing w).gauge all = s.gauge all := by
  unfold State.retapWing; simp

@[simp] theorem gauge_openSwitch (s : State) (n : Nat) : (s.openSwitch n).gauge all = s.gauge all := by
  unfold State.openSwitch; split <;> simp

@[simp] theorem gauge_dropJobs (s : State) (r : Nat) : (s.dropJobs r).gauge all = s.gauge all := by
  unfold State.dropJobs; simp

@[simp] theorem gauge_serveJob (s : State) : s.serveJob.gauge all = s.gauge all := by
  unfold State.serveJob; split <;> simp

@[simp] theorem gauge_addJob (s : State) (j : Job) : (s.addJob j).gauge all = s.gauge all := by
  unfold State.addJob; simp

@[simp] theorem gauge_railUp (s : State) {r : Nat} (hr : r < 4) (mv prio : Nat) : (s.railUp r mv prio).gauge all = s.gauge all := by
  unfold State.railUp; simp [gauge_put_rail hr]

theorem gauge_raiseInUp {s t : State} {r d : Nat} (h : s.raiseInUp r d = some t) : t.gauge all = s.gauge all := by
  unfold State.raiseInUp at h; split at h
  · cases h
  · cases h; rfl

@[simp] theorem gauge_railChange (s : State) {r : Nat} (hr : r < 4) (mv op : Nat) : (s.railChange r mv op).gauge all = s.gauge all := by
  unfold State.railChange; simp [gauge_put_rail hr]

@[simp] theorem gauge_followRail (s : State) {r : Nat} (hr : r < 4) : (s.followRail r).gauge all = s.gauge all := by
  unfold State.followRail; split
  · rfl
  · dsimp only; split
    · split
      · exact gauge_railUp _ hr ..
      · split
        · exact (gauge_raiseInUp ‹_›).trans (gauge_unsched ..)
        · exact gauge_railChange _ hr ..
    · simp

@[simp] theorem gauge_followRails (s : State) : s.followRails.gauge all = s.gauge all := by
  unfold State.followRails; simp

@[simp] theorem gauge_setSwitch (s : State) (n p : Nat) : (s.setSwitch n p).gauge all = s.gauge all := by
  unfold State.setSwitch; simp +decide

@[simp] theorem gauge_armNow (s : State) (n : Nat) : (s.armNow n).gauge all = s.gauge all := by
  unfold State.armNow; simp

@[simp] theorem gauge_takeHeld (s : State) (n : Nat) : (s.takeHeld n).gauge all = s.gauge all := by
  unfold State.takeHeld; split <;> simp

@[simp] theorem gauge_tuneShow (s : State) (c status : Nat) : (s.tuneShow c status).gauge all = s.gauge all := by
  unfold State.tuneShow; split <;> simp

@[simp] theorem gauge_endMove (s : State) (c status : Nat) : (s.endMove c status).gauge all = s.gauge all := by
  unfold State.endMove; split
  · rfl
  · simp

@[simp] theorem gauge_endFor (s : State) (c : Option Nat) (status : Nat) : (s.endFor c status).gauge all = s.gauge all := by
  unfold State.endFor; split <;> simp

@[simp] theorem gauge_tuneEnd (s : State) (n st : Nat) : (s.tuneEnd n st).gauge all = s.gauge all := by
  unfold State.tuneEnd; simp +decide

@[simp] theorem gauge_wakeChains (s : State) : s.wakeChains.gauge all = s.gauge all := by
  unfold State.wakeChains; simp

@[simp] theorem gauge_dropArmed (s : State) (n st : Nat) : (s.dropArmed n st).gauge all = s.gauge all := by
  unfold State.dropArmed; simp +decide

@[simp] theorem gauge_rxRest (s : State) (n : Nat) : (s.rxRest n).gauge all = s.gauge all := by
  unfold State.rxRest; simp

@[simp] theorem gauge_releaseRx16 (s : State) : s.releaseRx16.gauge all = s.gauge all := by
  unfold State.releaseRx16; simp +decide

@[simp] theorem gauge_moveAct (s : State) (a b : Nat) : (s.moveAct a b).gauge all = s.gauge all := by
  unfold State.moveAct; simp +decide

@[simp] theorem gauge_releaseTx8 (s : State) : s.releaseTx8.gauge all = s.gauge all := by
  unfold State.releaseTx8; simp +decide

theorem gauge_fieldOffNow_of {s : State} {w : Nat} (h : (s.invCut w stDONE false).gauge all = s.gauge all) (hop : Nat) :
    (s.fieldOffNow w hop).gauge all = s.gauge all := by
  unfold State.fieldOffNow; simp [h]

end Sys2Proof.Machine
end

section
/-! SUPPORT. What is followed, through flash, Scoresheet, calibration, power modes and the report queue. -/

namespace Sys2Proof.Machine
open Sys2Proof

variable {all : Bool}

@[simp] theorem gauge_xmpRange (s : State) : s.xmpRange.gauge all = s.gauge all := by
  unfold State.xmpRange; simp +decide

@[simp] theorem gauge_xmpShow (s : State) : s.xmpShow.gauge all = s.gauge all := by
  unfold State.xmpShow; dsimp only; split <;> simp +decide

@[simp] theorem gauge_xmpStart (s : State) : s.xmpStart.gauge all = s.gauge all := by
  unfold State.xmpStart; simp

@[simp] theorem gauge_xmpPost (s : State) (owner off : Nat) (bytes : List Nat) :
    (s.xmpPost owner off bytes).2.gauge all = s.gauge all := by
  unfold State.xmpPost; split
  · simp
  · dsimp only; split <;> simp +decide

@[simp] theorem gauge_xmpEraseQ (s : State) (t off owner : Nat) : (s.xmpEraseQ t off owner).2.gauge all = s.gauge all := by
  unfold State.xmpEraseQ; dsimp only; split
  · simp +decide
  · split <;> simp +decide

@[simp] theorem gauge_xmpOwnerDone (s : State) (owner : Nat) : (s.xmpOwnerDone owner).gauge all = s.gauge all := by
  unfold State.xmpOwnerDone; simp

@[simp] theorem gauge_xmpDiscard (s : State) : s.xmpDiscard.gauge all = s.gauge all := by
  unfold State.xmpDiscard; extract_lets l s1 s2 s3 s4
  have h2 : s2.gauge all = s1.gauge all := gauge_forEach (fun t _ => by simp +decide) s1 l
  have h3 : s3.gauge all = s2.gauge all := gauge_forEach (fun t _ => by simp) s2 _
  have h4 : s4.gauge all = s3.gauge all := gauge_forEach (fun t _ => gauge_sched t ..) s3 _
  rw [gauge_xmpShow, h4, h3, h2]; rfl

@[simp] theorem gauge_xmpInjSettle (s : State) : s.xmpInjSettle.gauge all = s.gauge all := by
  unfold State.xmpInjSettle; split <;> rfl

@[simp] theorem gauge_scoPush (s : State) (kind arbseq : Nat) (inj : Bool) (payload : List Nat) :
    (s.scoPush kind arbseq inj payload).gauge all = s.gauge all := gauge_put_off (by decide) ..

@[simp] theorem gauge_scoLose (s : State) : s.scoLose.gauge all = s.gauge all := by
  unfold State.scoLose; simp +decide

@[simp] theorem gauge_scoDrop (s : State) : s.scoDrop.gauge all = s.gauge all := by
  unfold State.scoDrop; simp +decide [gauge_put_ne]

@[simp] theorem gauge_scoRecord (s : State) (kind arbseq : Nat) (payload : List Nat) (inj : Bool) :
    (s.scoRecord kind arbseq payload inj).gauge all = s.gauge all := by
  unfold State.scoRecord; simp

@[simp] theorem gauge_scoDiscard (s : State) : s.scoDiscard.gauge all = s.gauge all := by
  unfold State.scoDiscard
  refine (gauge_put_off (by decide) ..).trans ?_
  exact gauge_forEach (fun t _ => gauge_scoLose t) s _

@[simp] theorem gauge_scoRefuse (s : State) : s.scoRefuse.gauge all = s.gauge all := by
  unfold State.scoRefuse; simp +decide

@[simp] theorem gauge_scoTest (s : State) : s.scoTest.gauge all = s.gauge all := by
  unfold State.scoTest; simp +decide

@[simp] theorem gauge_scoLostRecord (s : State) : s.scoLostRecord.gauge all = s.gauge all := by
  unfold State.scoLostRecord; simp +decide

@[simp] theorem gauge_scoShow (s : State) : s.scoShow.gauge all = s.gauge all := by
  unfold State.scoShow; simp +decide

@[simp] theorem gauge_scoEraseSector (s : State) (k : Nat) : (s.scoEraseSector k).gauge all = s.gauge all := by
  unfold State.scoEraseSector; dsimp only; split <;> simp

@[simp] theorem gauge_scoAdvance (s : State) : s.scoAdvance.gauge all = s.gauge all := by
  unfold State.scoAdvance; simp

@[simp] theorem gauge_scoProgram (s : State) : s.scoProgram.gauge all = s.gauge all := by
  have h (x : Bool × State) (hx : x.2.gauge all = s.gauge all) :
      (if x.1 then (x.2.withSco fun y => { y with op := 1 }).scoShow else x.2).gauge all = s.gauge all := by
    split <;> simp [hx]
  unfold State.scoProgram; split
  · exact h _ (gauge_xmpPost ..)
  · rfl

@[simp] theorem gauge_scoSettle (s : State) : s.scoSettle.gauge all = s.gauge all := by
  unfold State.scoSettle; extract_lets s1 s2
  have h1 : s1.gauge all = s.gauge all := by unfold s1; simp
  have h2 : s2.gauge all = s.gauge all := (gauge_scoLostRecord s1).trans h1
  split
  · split
    · exact (gauge_scoAdvance s2).trans h2
    · exact (gauge_scoProgram s2).trans h2
  · exact h2

@[simp] theorem gauge_calShow (s : State) : s.calShow.gauge all = s.gauge all := by
  unfold State.calShow; simp +decide

@[simp] theorem gauge_calOver (s : State) : s.calOver.gauge all = s.gauge all := by
  have h (t : State) (l : List Nat) : (t.forEach l State.releaseWing).gauge all = t.gauge all := gauge_forEach gauge_releaseWing t l
  unfold State.calOver; simp +decide [h]; rfl

@[simp] theorem gauge_xbOver (s : State) : s.xbOver.gauge all = s.gauge all := by
  unfold State.xbOver; simp +decide

@[simp] theorem gauge_simulAt (s : State) : s.simulAt.gauge all = s.gauge all := by
  unfold State.simulAt; simp +decide

theorem gauge_calSettle_of {s : State} (h : (s.invCut s.cal.wing stDONE false).gauge all = s.gauge all) :
    s.calSettle.gauge all = s.gauge all := by
  have hlev (t : State) : (t.forEach (List.range 9) fun s n => s.withTx n fun t => { t with level := 0 }).gauge all = t.gauge all :=
    gauge_forEach (fun t n => gauge_withTx t n _) t _
  unfold State.calSettle; simp [gauge_fieldOffNow_of h, hlev]

@[simp] theorem gauge_giveModeRec (s : State) : s.giveModeRec.gauge all = s.gauge all := by
  unfold State.giveModeRec; split <;> simp

@[simp] theorem gauge_synStop (s : State) : s.synStop.gauge all = s.gauge all := by
  unfold State.synStop; simp +decide

@[simp] theorem gauge_synStart (s : State) : s.synStart.gauge all = s.gauge all := by
  unfold State.synStart; simp +decide

@[simp] theorem gauge_refSwitch (s : State) : s.refSwitch.gauge all = s.gauge all := by
  unfold State.refSwitch; simp +decide

@[simp] theorem gauge_entrySettle (s : State) : s.entrySettle.gauge all = s.gauge all := by
  unfold State.entrySettle; simp

@[simp] theorem gauge_pwrSettle (s : State) : s.pwrSettle.gauge all = s.gauge all := by
  unfold State.pwrSettle; simp

@[simp] theorem gauge_rptAppend (s : State) (w : Nat) : (s.rptAppend w).gauge all = s.gauge all := by
  unfold State.rptAppend; split
  · simp +decide
  · exact gauge_put_off (by decide) ..

@[simp] theorem gauge_autoIrqWord (s t : State) : (s.autoIrqWord t).gauge all = t.gauge all := by
  unfold State.autoIrqWord; split <;> simp

end Sys2Proof.Machine
end

section
/-! SUPPORT. The numbers of engines and inventory Wings through memory reads and writes. -/

namespace Sys2Proof.Machine
open Sys2Proof

@[simp] theorem gauge_telCount (s : State) (i : Nat) : (s.telCount i).gauge all = s.gauge all := rfl

@[simp] theorem gauge_scbFound (s : State) (scrub : Bool) (f : Fld) : (s.scbFound scrub f).gauge false = s.gauge false := by
  unfold State.scbFound; simp

@[simp] theorem gauge_reportFault (s : State) (page code : Nat) (i : FaultInfo) (inj : Bool) :
    (s.reportFault page code i inj).gauge all = s.gauge all := rfl

@[simp] theorem gauge_tstDetected (s : State) (cls : Nat) : (s.tstDetected cls).gauge false = s.gauge false := by
  unfold State.tstDetected; simp

@[simp] theorem gauge_setFault (s : State) (page bit code : Nat) (i : FaultInfo) :
    (s.setFault page bit code i).gauge false = s.gauge false := by
  unfold State.setFault; simp

@[simp] theorem gauge_countEcc (s : State) (addr kind syn : Nat) (scrub : Bool) :
    (s.countEcc addr kind syn scrub).gauge false = s.gauge false := by
  unfold State.countEcc; simp

@[simp] theorem gauge_readGood (s : State) (a : Nat) (scrub : Bool) : (s.readGood a scrub).gauge false = s.gauge false := by
  unfold State.readGood; simp

@[simp] theorem gauge_poisonWord (s : State) (a : Nat) (scrub : Bool) : (s.poisonWord a scrub).gauge false = s.gauge false := by
  unfold State.poisonWord; simp

@[simp] theorem gauge_recomputeParity (s : State) (line : Nat) : (s.recomputeParity line).gauge false = s.gauge false := by
  unfold State.recomputeParity; simp

@[simp] theorem gauge_readBad (s : State) (a : Nat) (scrub : Bool) : (s.readBad a scrub).gauge false = s.gauge false := by
  unfold State.readBad; simp

@[simp] theorem gauge_readState (s : State) (a : Nat) (scrub : Bool) : (s.readState a scrub).gauge false = s.gauge false := by
  unfold State.readState; simp

@[simp] theorem gauge_deliverPoison (s : State) : s.deliverPoison.gauge false = s.gauge false := by
  unfold State.deliverPoison; dsimp only; split
  · rfl
  · exact gauge_present ..

@[simp] theorem gauge_memRead (s : State) (a : Nat) : (s.memRead a).2.2.gauge false = s.gauge false := by
  unfold State.memRead; simp

@[simp] theorem gauge_memReads (s : State) (a n : Nat) : (s.memReads a n).2.2.gauge false = s.gauge false :=
  gauge_foldl (fun r : List Nat × Bool × State => r.2.2) (fun r i => gauge_memRead r.2.2 (a + i)) _ _

@[simp] theorem gauge_memWrite (s : State) (a v : Nat) (poison : Bool) : (s.memWrite a v poison).gauge false = s.gauge false := by
  unfold State.memWrite; simp

@[simp] theorem gauge_memWrites (s : State) (a : Nat) (l : List Nat) : (s.memWrites a l).gauge false = s.gauge false :=
  gauge_foldl (fun r : State × Nat => r.1) (fun r v => gauge_memWrite r.1 r.2 v false) _ _

@[simp] theorem gauge_poisonedWord (s : State) : s.poisonedWord.2.2.gauge all = s.gauge all := rfl

theorem gauge_winWord {s : State} {off : Nat} {r : Nat × Bool × State} (h : s.winWord off = .inr r) :
    r.2.2.gauge false = s.gauge false := by
  unfold State.winWord at h; split at h
  · cases h; simp
  · dsimp only at h; split at h
    · cases h
    · split at h <;> (cases h; rfl)

@[simp] theorem gauge_blockWords (s : State) (addr n : Nat) : (s.blockWords addr n).2.gauge false = s.gauge false := by
  induction n with
  | zero => rfl
  | succ k ih =>
    unfold State.blockWords; split
    · rename_i e
      rw [e] at ih
      dsimp only; split
      · simpa using ih
      · split
        · split
          · exact ih
          · exact (gauge_winWord ‹_›).trans ih
        · exact ih
    · exact ih

theorem gauge_of_blockWords {s t : State} {addr n : Nat} {g : BlockGot} (h : s.blockWords addr n = (g, t)) :
    t.gauge false = s.gauge false := by
  rw [← gauge_blockWords s addr n, h]

@[simp] theorem gauge_xmpWant (s : State) (lines : List Nat) (prefetch : Bool) :
    (s.xmpWant lines prefetch).gauge false = s.gauge false := by
  unfold State.xmpWant; simp

@[simp] theorem gauge_xmpWait (s : State) (lines : List Nat) (again : Instr) : (s.xmpWait lines again).gauge false = s.gauge false := by
  unfold State.xmpWait; simp

@[simp] theorem gauge_gather (s : State) (c addr : Nat) (again : Instr) (n : Nat) :
    (s.gather c addr again n).2.gauge false = s.gauge false := by
  induction n with
  | zero => rfl
  | succ k ih =>
    unfold State.gather; split
    · rename_i t e
      rw [e] at ih
      have ih : t.gauge false = s.gauge false := ih
      split
      · extract_lets a keep
        split
        · exact (gauge_memRead t a).trans ih
        · split
          · split
            · exact (gauge_xmpWait ..).trans ih
            · exact (gauge_winWord ‹_›).trans ih
          · exact ih
      · exact ih
    · exact ih

theorem gauge_of_gather {s t : State} {c addr n : Nat} {again : Instr} {g : Got} (h : s.gather c addr again n = (g, t)) :
    t.gauge false = s.gauge false := by
  rw [← gauge_gather s c addr again n, h]

@[simp] theorem gauge_blockWrite (s : State) (a v : Nat) : (s.blockWrite a v).gauge false = s.gauge false := by
  unfold State.blockWrite; split
  · simp
  · split <;> simp

end Sys2Proof.Machine
end

section
/-! SUPPORT. The numbers of engines and inventory Wings through engines, seals and inventory. -/

namespace Sys2Proof.Machine
open Sys2Proof

@[simp] theorem gauge_invOff (s : State) (w st : Nat) : (s.invOff w st).gauge false = s.gauge false := by
  unfold State.invOff; simp

@[simp] theorem gauge_roleFail (s : State) (w role st : Nat) : (s.roleFail w role st).gauge false = s.gauge false := by
  unfold State.roleFail; simp

@[simp] theorem gauge_badTap (s : State) (n p : Nat) : (s.badTap n p).gauge false = s.gauge false := by
  unfold State.badTap; simp

@[simp] theorem gauge_openRx (s : State) (w role : Nat) (fixed : Option Nat) :
    (s.openRx w role fixed).2.2.gauge false = s.gauge false := by
  unfold State.openRx; split
  · simp
  · split
    · rfl
    · split <;> simp

@[simp] theorem gauge_rxTake (s : State) (n c : Nat) : (s.rxTake n c).gauge false = s.gauge false := by
  unfold State.rxTake; simp

@[simp] theorem gauge_engBusy (s : State) (w : Nat) (b : Bool) : (s.engBusy w b).gauge false = s.gauge false := by
  unfold State.engBusy; simp

@[simp] theorem gauge_engStart (s : State) (w u : Nat) (p : Prog) : (s.engStart w u p).gauge false = s.gauge false := by
  unfold State.engStart; simp

@[simp] theorem gauge_engStartRx (s : State) (w u : Nat) (p : Prog) (n : Nat) : (s.engStartRx w u p n).gauge false = s.gauge false := by
  unfold State.engStartRx; simp

theorem gauge_invTake {s t : State} {w : Nat} {p : Prog} (h : s.invTake w p = some t) : t.gauge false = s.gauge false := by
  unfold State.invTake at h; split at h
  · cases h
  · dsimp only at h; split at h
    · cases h
    · cases h; simp

@[simp] theorem gauge_powerLimit (s : State) (n : Nat) : (s.powerLimit n).gauge false = s.gauge false := by
  unfold State.powerLimit; simp

@[simp] theorem gauge_levelStep (s : State) (n : Nat) : (s.levelStep n).gauge false = s.gauge false := by
  unfold State.levelStep; simp

@[simp] theorem gauge_modEnd (s : State) (n : Nat) : (s.modEnd n).gauge false = s.gauge false := by
  unfold State.modEnd; simp only [gauge_levelStep, gauge_putB, gauge_put_false, gauge_withTx]
  exact gauge_forEach (fun t k => gauge_withRx t k _) s _

@[simp] theorem gauge_frameCut (s : State) (w : Nat) : (s.frameCut w).gauge false = s.gauge false := by
  unfold State.frameCut; simp

@[simp] theorem gauge_laneBusy (s : State) (w : Nat) (b : Bool) : (s.laneBusy w b).gauge false = s.gauge false := by
  unfold State.laneBusy; simp

@[simp] theorem gauge_setRxState (s : State) (n st : Nat) : (s.setRxState n st).gauge false = s.gauge false := by
  unfold State.setRxState; simp

@[simp] theorem gauge_rxFree (s : State) (c : Nat) : (s.rxFree c).gauge false = s.gauge false := by
  unfold State.rxFree; simp

@[simp] theorem gauge_engEnd (s : State) (w st : Nat) : (s.engEnd w st).gauge false = s.gauge false := by
  unfold State.engEnd; dsimp only; split <;> simp

@[simp] theorem gauge_acEnd (s : State) (w st : Nat) : (s.acEnd w st).gauge false = s.gauge false := by
  unfold State.acEnd; simp

@[simp] theorem gauge_handOn (s : State) (w : Nat) (f : TxFrame) (hear : Nat) : (s.handOn w f hear).gauge false = s.gauge false := by
  unfold State.handOn; simp

@[simp] theorem gauge_sendFrame (s : State) (w : Nat) (f : TxFrame) : (s.sendFrame w f).gauge false = s.gauge false := by
  unfold State.sendFrame; simp

@[simp] theorem gauge_acSend (s : State) (w : Nat) (a : Ac) (f : TxFrame) : (s.acSend w a f).gauge false = s.gauge false := by
  unfold State.acSend; simp

@[simp] theorem gauge_acNextA (s : State) (w : Nat) (a : Ac) : (s.acNextA w a).gauge false = s.gauge false := by
  unfold State.acNextA; simp

@[simp] theorem gauge_acNextB (s : State) (w : Nat) (a : Ac) : (s.acNextB w a).gauge false = s.gauge false := by
  unfold State.acNextB; simp

@[simp] theorem gauge_acPopV (s : State) (w : Nat) (a : Ac) (b : Branch) (rest : List Branch) :
    (s.acPopV w a b rest).gauge false = s.gauge false := by
  unfold State.acPopV; simp

@[simp] theorem gauge_acPassV (s : State) (w : Nat) (a : Ac) (len mask : Nat) : (s.acPassV w a len mask).gauge false = s.gauge false := by
  unfold State.acPassV; simp

@[simp] theorem gauge_acBegin (s : State) (w : Nat) (args : AnticollArgs) (max : Nat) :
    (s.acBegin w args max).gauge false = s.gauge false := by
  unfold State.acBegin; extract_lets e len a t
  split
  · exact gauge_acNextA t w a
  · split
    · exact gauge_acNextB t w a
    · split
      · exact (gauge_acEnd ..).trans (gauge_recordErr ..)
      · split
        · exact gauge_acSend ..
        · exact gauge_acPassV t w a ..

@[simp] theorem gauge_discNext (s : State) (w : Nat) : (s.discNext w).gauge false = s.gauge false := by
  unfold State.discNext; dsimp only; split
  · rfl
  · split
    · have h := gauge_invTake ‹_›
      simp_all
    · simp

@[simp] theorem gauge_invRecord (s : State) (kind port entry : Nat) : (s.invRecord kind port entry).gauge false = s.gauge false := by
  unfold State.invRecord; simp

@[simp] theorem gauge_entry (s : State) (p i : Nat) : (s.entry p i).2.gauge false = s.gauge false := by
  unfold State.entry; dsimp only; split <;> simp

@[simp] theorem gauge_putEntry (s : State) (p i : Nat) (old new : List Nat) : (s.putEntry p i old new).gauge false = s.gauge false := by
  unfold State.putEntry; simp

@[simp] theorem gauge_missEntries (s : State) (p : Nat) (l : List Nat) (count : Bool) :
    (s.missEntries p l count).gauge false = s.gauge false := by
  unfold State.missEntries
  exact gauge_forEach (fun t i => by simp) s l

@[simp] theorem gauge_invNext (s : State) (w : Nat) : (s.invNext w).gauge false = s.gauge false := by
  unfold State.invNext; dsimp only; split
  · simp
  · split <;> simp

@[simp] theorem gauge_invProc (s : State) (w : Nat) : (s.invProc w).gauge false = s.gauge false := by
  unfold State.invProc; dsimp only; split
  · simp
  · split
    · have h := gauge_invTake ‹_›
      simp_all
    · simp

@[simp] theorem gauge_mergeOne (s : State) (w : Nat) (ws : List Nat) : (s.mergeOne w ws).gauge false = s.gauge false := by
  have h (p : Nat) : ((List.range s.perPort).foldl (fun (a : List (List Nat) × State) k =>
      (a.1 ++ [(a.2.entry p k).1], (a.2.entry p k).2)) ([], s)).2.gauge false = s.gauge false :=
    gauge_foldl (fun r : List (List Nat) × State => r.2) (fun r k => gauge_entry r.2 p k) _ _
  unfold State.mergeOne; dsimp only; split <;> simp [gauge_forEach, h]

@[simp] theorem gauge_merge (s : State) (w : Nat) : (s.merge w).gauge false = s.gauge false := by
  unfold State.merge
  exact gauge_forEach (fun t k => by simp) s _

@[simp] theorem gauge_setQueued (s : State) (p : Nat) (b : Bool) : (s.setQueued p b).gauge false = s.gauge false := by
  unfold State.setQueued; simp

@[simp] theorem gauge_pendingSeals (s : State) (w : Nat) : (s.pendingSeals w).2.gauge false = s.gauge false :=
  gauge_foldl (fun r : List Nat × State => r.2) (fun r k => by dsimp only; split <;> simp) _ _

@[simp] theorem gauge_sealNext (s : State) (w : Nat) : (s.sealNext w).gauge false = s.gauge false := by
  unfold State.sealNext; dsimp only; split
  · simp
  · split
    · have h := gauge_invTake ‹_›
      simp_all
    · simp

@[simp] theorem gauge_gambitSend (s : State) (w rate : Nat) (again reload : Bool) :
    (s.gambitSend w rate again reload).gauge false = s.gauge false := by
  unfold State.gambitSend; simp

@[simp] theorem gauge_gambitBegin (s : State) (w : Nat) (reload : Bool) : (s.gambitBegin w reload).gauge false = s.gauge false := by
  unfold State.gambitBegin; simp

@[simp] theorem gauge_jobPoisoned (s : State) (u : Nat) : (s.jobPoisoned u).gauge false = s.gauge false := by
  unfold State.jobPoisoned; simp

@[simp] theorem gauge_jobBad (s : State) (u : Nat) : (s.jobBad u).gauge false = s.gauge false := by
  unfold State.jobBad; simp

@[simp] theorem gauge_sealShow (s : State) : s.sealShow.gauge false = s.gauge false := by
  unfold State.sealShow; simp

@[simp] theorem gauge_sealTake (s : State) (w u : Nat) (p : Prog) : (s.sealTake w u p).2.gauge false = s.gauge false := by
  unfold State.sealTake; dsimp only; split <;> simp

theorem gauge_of_sealTake {s t : State} {w u : Nat} {p : Prog} {o : Option State} (h : s.sealTake w u p = (o, t)) :
    t.gauge false = s.gauge false := by
  rw [← gauge_sealTake s w u p, h]

theorem gauge_of_sealTake_some {s t x : State} {w u : Nat} {p : Prog} (h : s.sealTake w u p = (some t, x)) :
    t.gauge false = s.gauge false := by
  unfold State.sealTake at h; dsimp only at h; split at h
  · cases h
  · cases h; simp

@[simp] theorem gauge_sealResult (s : State) (q : SealSt) (result : Nat) : (s.sealResult q result).gauge false = s.gauge false := by
  unfold State.sealResult; simp

@[simp] theorem gauge_sealDone (s : State) (w : Nat) (q : SealSt) (result st : Nat) :
    (s.sealDone w q result st).gauge false = s.gauge false := by
  unfold State.sealDone; simp

@[simp] theorem gauge_legacySend (s : State) (w : Nat) (q : SealSt) (ws : List Nat) (psn : Option Nat) :
    (s.legacySend w q ws psn).gauge false = s.gauge false := by
  unfold State.legacySend; dsimp only; split <;> simp

@[simp] theorem gauge_legacyBegin (s : State) (w u : Nat) (q : SealSt) (ws : List Nat) (psn : Option Nat) :
    (s.legacyBegin w u q ws psn).gauge false = s.gauge false := by
  unfold State.legacyBegin; split
  · simp
  · split
    · exact gauge_of_sealTake ‹_›
    · have h := gauge_of_sealTake_some ‹_›
      split
      · simp [h]
      · split <;> simp [h]

@[simp] theorem gauge_sealEntry (s : State) (q : SealSt) (f : List Nat → List Nat) : (s.sealEntry q f).gauge false = s.gauge false := by
  unfold State.sealEntry; split
  · dsimp only; split <;> simp
  · rfl

@[simp] theorem gauge_sendBlitz (s : State) (w : Nat) (f : TxFrame) (seq set : Nat) :
    (s.sendBlitz w f seq set).gauge false = s.gauge false := by
  unfold State.sendBlitz; simp

@[simp] theorem gauge_laneSend (s : State) (w code : Nat) (coloured : Bool) (params : List Nat) :
    (s.laneSend w code coloured params).gauge false = s.gauge false := by
  unfold State.laneSend; simp

@[simp] theorem gauge_sealSend (s : State) (w : Nat) (q : SealSt) : (s.sealSend w q).gauge false = s.gauge false := by
  unfold State.sealSend; simp

@[simp] theorem gauge_sealStep (s : State) (w : Nat) (q : SealSt) (step : Nat) : (s.sealStep w q step).gauge false = s.gauge false := by
  unfold State.sealStep; simp

@[simp] theorem gauge_sealBegin (s : State) (w u : Nat) (q : SealSt) : (s.sealBegin w u q).gauge false = s.gauge false := by
  unfold State.sealBegin; extract_lets r e t
  have hr : t.gauge false = s.gauge false := by
    unfold t r; split <;> simp
  split
  · simp [hr]
  · split
    · exact (gauge_of_sealTake ‹_›).trans hr
    · have h := (gauge_of_sealTake_some ‹_›).trans hr
      split
      · simp [h]
      · split <;> simp [h]

@[simp] theorem gauge_sealLaunch (s : State) (w u job : Nat) (again : Instr) :
    (s.sealLaunch w u job again).gauge false = s.gauge false := by
  unfold State.sealLaunch; split
  · simp [gauge_of_blockWords ‹_›]
  · simp [gauge_of_blockWords ‹_›]
  · have h1 := gauge_of_blockWords ‹_›
    extract_lets word len legacy
    split
    · simp [h1]
    · split
      · simp [h1]
      · split
        · simp [h1, gauge_of_blockWords ‹_›]
        · simp [h1, gauge_of_blockWords ‹_›]
        · have h2 := (gauge_of_blockWords ‹_›).trans h1
          extract_lets data q a
          split
          · simp [h2]
          · split
            · split
              · simp [h2]
              · split
                · simp [h2, gauge_of_gather ‹_›]
                · simp [h2, gauge_of_gather ‹_›]
                · have h3 := (gauge_of_gather ‹_›).trans h2
                  split
                  · simp [h3, gauge_of_gather ‹_›]
                  · simp [h3, gauge_of_gather ‹_›]
                  · simp [h3, gauge_of_gather ‹_›]
            · split <;> simp [h2]

@[simp] theorem gauge_resumeStep (s : State) (w st : Nat) : (s.resumeStep w st).gauge false = s.gauge false := by
  unfold State.resumeStep; dsimp only; split
  · simp
  · split
    · split
      · have h := gauge_invTake ‹_›
        simp_all
      · simp
    · split <;> simp

@[simp] theorem gauge_invOwn (s : State) (w st : Nat) : (s.invOwn w st).gauge false = s.gauge false := by
  have hp (c : Prop) [Decidable c] (t : State) : (if c then t.pendingSeals w else ([], t)).2.gauge false = t.gauge false := by
    split <;> simp
  unfold State.invOwn; simp [hp]

@[simp] theorem gauge_writeRecord (s : State) (w : Nat) (ws : List Nat) : (s.writeRecord w ws).gauge false = s.gauge false := by
  unfold State.writeRecord; split <;> simp

@[simp] theorem gauge_showReply (s : State) (w : Nat) (r : RxRes) : (s.showReply w r).gauge false = s.gauge false := by
  unfold State.showReply; simp

@[simp] theorem gauge_brokenRecord (s : State) (w : Nat) (mark : Option Nat) : (s.brokenRecord w mark).gauge false = s.gauge false := by
  unfold State.brokenRecord; dsimp only; split <;> simp

@[simp] theorem gauge_frameEnds (s : State) (n : Nat) : (s.frameEnds n).gauge false = s.gauge false := by
  unfold State.frameEnds; simp

@[simp] theorem gauge_showNoise (s : State) (n : Nat) : (s.showNoise n).gauge false = s.gauge false := by
  unfold State.showNoise; split <;> simp

@[simp] theorem gauge_setGain (s : State) (n g : Nat) : (s.setGain n g).gauge false = s.gauge false := by
  unfold State.setGain; simp

@[simp] theorem gauge_stepGain (s : State) (n e : Nat) : (s.stepGain n e).gauge false = s.gauge false := by
  unfold State.stepGain; simp

@[simp] theorem gauge_showLevel (s : State) (n e k : Nat) (clipped : Bool) : (s.showLevel n e k clipped).gauge false = s.gauge false := by
  unfold State.showLevel; simp

@[simp] theorem gauge_cutFrame (s : State) (n : Nat) : (s.cutFrame n).gauge false = s.gauge false := by
  unfold State.cutFrame; simp

@[simp] theorem gauge_legacyReply (s : State) (w job : Nat) (ok : Bool) : (s.legacyReply w job ok).gauge false = s.gauge false := by
  unfold State.legacyReply; simp

@[simp] theorem gauge_breakWing (s : State) (w st : Nat) (mark : Option Nat) : (s.breakWing w st mark).gauge false = s.gauge false := by
  unfold State.breakWing; dsimp only; split
  · split <;> simp
  · rfl

@[simp] theorem gauge_takeEnd (s : State) (e : WingEnd) : (s.takeEnd e).gauge false = s.gauge false := by
  unfold State.takeEnd; split <;> simp

@[simp] theorem gauge_invDrop (s : State) (w : Nat) : (s.invDrop w).gauge false = s.gauge false := by
  unfold State.invDrop; split
  · dsimp only; split <;> simp
  · rfl

@[simp] theorem gauge_cutCount (s : State) (count : Bool) : (s.cutCount count).gauge false = s.gauge false := by
  unfold State.cutCount; simp

@[simp] theorem gauge_invCut (s : State) (w st : Nat) (count : Bool) : (s.invCut w st count).gauge false = s.gauge false := by
  unfold State.invCut; simp

end Sys2Proof.Machine
end

section
/-! SUPPORT. On a quiet Board without engines nothing that happens at once changes what is followed: `State.settle` read backwards. -/

namespace Sys2Proof.Machine
open Sys2Proof

/-- No engine, no inventory Wing, no fault class recorded, and the capacitor value `c` in ATUNE_RESULT of TXC0. -/
def State.Quiet (c : Nat) (s : State) : Prop := s.gauge true = ((0, 0), some ([], c))

variable {c : Nat} {s t : State}

theorem quiet_iff : s.Quiet c ↔ s.engs = [] ∧ s.inv.wings = [] ∧ s.flt.recorded = [] ∧ s.get (pTXC 0) TXC.ATUNE_RESULT_CAP = c := by
  simp [State.Quiet, State.gauge, and_assoc]

/-- What was followed is the same before an operation that keeps it. -/
theorem State.Quiet.of_gauge (h : t.Quiet c) (e : t.gauge true = s.gauge true) : s.Quiet c := e.symm.trans h

/-- Engines and inventory Wings are none where the gauge of another state with as many says so. -/
theorem State.Quiet.none_of (h : t.Quiet c) (e : t.gauge false = s.gauge false) : s.engs = [] ∧ s.inv.wings = [] := by
  obtain ⟨he, hw, -, -⟩ := quiet_iff.mp h
  simpa [State.gauge, he, hw, eq_comm] using e

theorem invOwn_of_none (h : s.inv.wings = []) (w st : Nat) : s.invOwn w st = s := by
  have hp : (s.invWing w).phase = 0 := by unfold State.invWing; rw [h]; rfl
  unfold State.invOwn; simp [hp]

theorem invCut_of_none (h : s.inv.wings = []) (w st : Nat) (count : Bool) : s.invCut w st count = s := by
  have hp : (s.invWing w).phase = 0 := by unfold State.invWing; rw [h]; rfl
  unfold State.invCut; simp [hp]

theorem breakWing_of_none (h : s.engs = []) (w st : Nat) (mark : Option Nat) : s.breakWing w st mark = s := by
  have hu : (s.eng w).user = none := by unfold State.eng; rw [h]; rfl
  unfold State.breakWing; simp [hu]

/-- Without engines and inventory Wings the end of a Wing changes nothing. -/
theorem takeEnd_of_none (he : s.engs = []) (hw : s.inv.wings = []) (e : WingEnd) : s.takeEnd e = s := by
  unfold State.takeEnd; split
  · exact invOwn_of_none hw ..
  · exact breakWing_of_none he ..

theorem gauge_takeEnds (n : Nat) (s : State) : (State.takeEnds n s).gauge false = s.gauge false := by
  induction n generalizing s with
  | zero => rfl
  | succ n ih =>
    unfold State.takeEnds; split
    · rfl
    · exact (ih _).trans (gauge_forEach gauge_takeEnd _ _)

theorem takeEnds_of_none (n : Nat) (he : s.engs = []) (hw : s.inv.wings = []) :
    ∃ l, State.takeEnds n s = { s with wingEnds := l } := by
  cases n with
  | zero => exact ⟨s.wingEnds, rfl⟩
  | succ n =>
    have hid (l : List WingEnd) : ({ s with wingEnds := [] } : State).forEach l State.takeEnd = { s with wingEnds := [] } :=
      State.forEach_inv (fun u => u = { s with wingEnds := [] }) l _
        (fun _ e _ hu => by subst hu; exact takeEnd_of_none (s := { s with wingEnds := [] }) he hw e) _ rfl
    have hnil : State.takeEnds n { s with wingEnds := [] } = { s with wingEnds := [] } := by cases n <;> rfl
    unfold State.takeEnds; split
    · exact ⟨s.wingEnds, rfl⟩
    · exact ⟨[], by rw [hid, hnil]⟩

theorem State.Quiet.takeEnds_eq {n : Nat} (h : (State.takeEnds n s).Quiet c) : ∃ l, State.takeEnds n s = { s with wingEnds := l } :=
  have ⟨he, hw⟩ := h.none_of (gauge_takeEnds n s)
  takeEnds_of_none n he hw

theorem State.Quiet.of_takeEnds {n : Nat} (h : (State.takeEnds n s).Quiet c) : s.Quiet c := by
  obtain ⟨l, e⟩ := h.takeEnds_eq
  exact h.of_gauge (by rw [e]; rfl)

theorem recorded_eq (h : t.gauge true = s.gauge true) : t.flt.recorded = s.flt.recorded := by
  simp [State.gauge] at h; exact h.2.1

theorem keepLine_recorded (s : State) (l : List Nat) : (s.keepLine l).flt.recorded = s.flt.recorded := by
  have hreg (t : State) (w : List Nat) :
      (t.forEach (List.range 8) fun s k => s.setReg pFLT (0x18 + k) (BitVec.ofNat 40 (nth w k))).flt.recorded = t.flt.recorded := by
    refine State.forEach_inv (fun u => u.flt.recorded = t.flt.recorded) _ _ ?_ t rfl
    exact fun _ _ _ h => h
  have hline (t : State) (c : Prop) [Decidable c] (n : Nat) (w : List Nat) : (if c then t.writeLine n w else t).flt = t.flt := by
    split <;> rfl
  unfold State.keepLine; dsimp only
  rw [State.flag_flt, hline, hreg]

theorem AMap.insert_ne_nil {β : Type} (k : Nat) (v : β) (l : List (Nat × β)) : AMap.insert k v l ≠ [] := by
  cases l with
  | nil => simp [AMap.insert]
  | cons e l => unfold AMap.insert; split_ifs <;> simp

theorem recentlyRecorded_ne_nil {k : Nat} (h : s.recentlyRecorded k = true) : s.flt.recorded ≠ [] := by
  intro e; unfold State.recentlyRecorded at h; simp [e, AMap.find] at h

theorem recordErr_recorded (s : State) (p k : Nat) : (s.recordErr p k).flt.recorded = s.flt.recorded :=
  recorded_eq (gauge_recordErr s p k)

theorem present_recorded (s : State) (p k : Nat) : (s.present p k).flt.recorded = s.flt.recorded :=
  recorded_eq (gauge_present s p k)

theorem scoDrop_recorded (s : State) : s.scoDrop.flt.recorded = s.flt.recorded := recorded_eq (gauge_scoDrop s)

/-- A report taken leaves its class recorded. -/
theorem takeReport_recorded (s : State) (r : Report) : (s.takeReport r).flt.recorded ≠ [] := by
  have hd (t : State) : (t.scoDrop.flag pFLT FLT.FLAG_DROPPED).flt.recorded = t.flt.recorded := scoDrop_recorded t
  have hk (t : State) (l : List Nat) : (((t.keepLine l).flag pFLT FLT.FLAG_RECORD).telCount 1).flt.recorded = t.flt.recorded :=
    keepLine_recorded t l
  unfold State.takeReport; extract_lets cl asks i0 i s1 r1 s2 s3 n fl s4 s5 s6 s7 s8 s9 s10 rec38 u s11 s12 fl'
  split
  · rename_i hr
    simp only [Bool.and_eq_true] at hr
    exact recentlyRecorded_ne_nil (s := s) hr.1
  · have h4 : s4.flt.recorded ≠ [] := AMap.insert_ne_nil _ _ _
    have h10 : s10.flt.recorded = s4.flt.recorded := recordErr_recorded s9 pFLT cl
    have h11 : s11.flt.recorded = s10.flt.recorded := by
      unfold s11; split
      · have hu : u.flt.recorded = s10.flt.recorded := hk s10 rec38
        split
        · exact hu
        · rw [recordErr_recorded, hd, hu]
      · rfl
    have h12 : s12.flt.recorded = s11.flt.recorded := present_recorded s11 188 0
    have h : s12.flt.recorded ≠ [] := by rwa [h12, h11, h10]
    split <;> exact h

/-- Without a class recorded no report was taken. -/
theorem State.Quiet.takeReports_eq (h : s.takeReports.Quiet c) : s.takeReports = { s with flt := { s.flt with reports := [] } } := by
  obtain ⟨-, -, hrec, -⟩ := quiet_iff.mp h
  have hnil : s.flt.reports = [] := by
    by_contra hne
    obtain ⟨l, r, e⟩ := List.eq_nil_or_concat s.flt.reports |>.resolve_left hne
    refine takeReport_recorded (({ s with flt := { s.flt with reports := [] } } : State).forEach l State.takeReport) r ?_
    rw [← hrec]; unfold State.takeReports State.forEach
    rw [e]; simp
  unfold State.takeReports; rw [hnil]; rfl

theorem State.Quiet.of_takeReports (h : s.takeReports.Quiet c) : s.Quiet c :=
  h.of_gauge (by rw [h.takeReports_eq]; rfl)

theorem State.Quiet.of_calSettle (h : s.calSettle.Quiet c) : s.Quiet c :=
  have ⟨_, hw⟩ := h.none_of (gauge_calSettle_of (gauge_invCut ..))
  h.of_gauge (gauge_calSettle_of (congrArg _ (invCut_of_none hw ..)))

theorem State.Quiet.of_releases (h : s.releaseTx8.releaseRx16.Quiet c) : s.Quiet c :=
  h.of_gauge ((gauge_releaseRx16 _).trans (gauge_releaseTx8 _))

/-- A Resign that begins leaves the end of its ramps due. -/
theorem beginResign_agenda (s : State) (cause : Nat) : ∃ d, (d, Instr.resignRampEnd) ∈ (s.beginResign cause).agenda :=
  ⟨_, List.mem_append_right _ (List.mem_singleton_self _)⟩

theorem State.Quiet.of_takeResign (h : s.takeResign.Quiet c) (ha : ∀ d, (d, Instr.resignRampEnd) ∉ s.takeResign.agenda) :
    s.Quiet c := by
  unfold State.takeResign at h ha; dsimp only at h ha
  split at h
  · exact h
  · rename_i h0
    rw [if_neg h0] at ha
    split at h
    · exact h.of_gauge rfl
    · rename_i hr
      rw [if_neg hr] at ha
      obtain ⟨d, hd⟩ := beginResign_agenda _ s.flt.request
      exact absurd hd (ha d)

theorem autoIrqWord_agenda (s t : State) : (s.autoIrqWord t).agenda = t.agenda := by
  unfold State.autoIrqWord State.rptAppend; split_ifs <;> rfl

/-- Where what happens at once leaves the Board quiet and no Resign begun, the Board was quiet before it. -/
theorem State.Quiet.of_settle {u : State} (h : (s.settle u).Quiet c) (ha : ∀ d, (d, Instr.resignRampEnd) ∉ (s.settle u).agenda) :
    u.Quiet c := by
  unfold State.settle at h ha; dsimp only at ha; extract_lets s1 s2 s3 at h
  rw [autoIrqWord_agenda] at ha
  have h3 : s3.Quiet c := h.of_gauge (gauge_autoIrqWord ..)
  have h4 := h3.of_takeReports
  obtain ⟨l, e4⟩ := h4.takeEnds_eq
  rw [h3.takeReports_eq, e4] at ha
  have h2 : s2.Quiet c := (h4.of_takeEnds.of_takeResign ha).of_gauge (gauge_xmpInjSettle _) |>.of_takeReports.of_gauge (gauge_pwrSettle _)
  have h1 : s1.Quiet c := (h2.of_gauge (gauge_scoSettle _)).of_takeEnds.of_releases.of_calSettle
  exact (h1.of_gauge (gauge_invSettleAll _)).of_takeReports.of_takeEnds.of_releases

theorem State.Quiet.of_finish {u : State} (h : (s.finish u).Quiet c) (ha : ∀ d, (d, Instr.resignRampEnd) ∉ (s.finish u).agenda) :
    u.Quiet c := State.Quiet.of_settle (s := s) h ha

theorem exec_atuneComplete (n : Nat) (gammas : List Nat) (s : State) :
    exec (.atuneComplete n gammas) s = .next (s.finish (effAtuneComplete n gammas s)) := rfl

end Sys2Proof.Machine
end

section
/-! SUPPORT. Auto-tune (R94, R96, R97): a stray antenna switch. -/

namespace Sys2Proof.Machine
open Sys2Proof

/-- TXC0 at the end of an auto-tune, its antenna switch on a port that the Board does not have. The Ledger entry that the end of the field
marks for that port holds one wrong bit, in a bank so far beyond the memory that the bank's count of corrected errors is ATUNE_RESULT of
TXC0. The state has no engines and no inventory Wings, so that what happens at once can be read backwards (`State.Quiet.of_settle`). -/
def strayTune : State :=
  let s : State := { State.reset with
    pwr := { State.reset.pwr with core := true, cclk := true }, now := 1, agenda := [], engs := [],
    inv := { State.reset.inv with wings := [] }, sram := [(8 * 150536192 + 5, 1#8)],
    txc := { Txc.reset with act := 3, sw := some 18621472, resPage := 16, tunePage := 16 } :: List.replicate 8 Txc.reset }
  ((s.put pDEV DEV.STATUS_MODE 0).putB pINV COM.ENABLE true).setField 0 7

theorem strayTune_quiet : (strayTune.finish (effAtuneComplete 0 [] strayTune)).Quiet 1 :=
  quiet_iff.mpr (by decide +kernel)

theorem strayTune_agenda : (strayTune.finish (effAtuneComplete 0 [] strayTune)).agenda = [(65, .rampDownEnd 0)] := by decide +kernel

/-- Refutes O12: its second clause bounds the port of the auto-tune and leaves the antenna switch free. In `strayTune` a corrected error of
the Ledger is counted in ATUNE_RESULT, which shows capacitor value 1 where the readings give 0. -/
theorem not_tuneRuns : ¬ Obligations.TuneRuns := by
  unfold Obligations.TuneRuns
  rintro ⟨-, h, -, -⟩
  obtain ⟨u, he, ⟨hcap, -⟩, -⟩ := h strayTune 0 [] (by decide +kernel) (by decide) (by decide +kernel) (.inl (by decide +kernel))
    (by decide +kernel) (by decide +kernel) (by decide +kernel) (by decide +kernel) (by decide +kernel)
  rw [exec_atuneComplete, Host.Outcome.next.injEq] at he
  have hq := strayTune_quiet
  have ha := strayTune_agenda
  rw [he] at hq ha
  obtain ⟨-, -, -, h1⟩ := quiet_iff.mp (hq.of_finish (by simp [ha]))
  exact absurd (h1.symm.trans hcap) (by decide +kernel)

end Sys2Proof.Machine
end

section
/-! SUPPORT. Architecture (R19, R23): the state after reset. -/

namespace Sys2Proof.Machine
open Sys2Proof

/-- Settles O54: the two registers that the start-up of R401 changes are listed in rising order, neither at its reset value; the
memories list nothing, and each list of contexts, chains, engines and Wings is made by its number. -/
theorem resetIsCanonical : Obligations.ResetIsCanonical where
  regs := by decide +kernel
  sram := rfl
  parity := rfl
  ctxs := List.length_replicate
  txc := List.length_replicate
  rxc := List.length_replicate
  engs := List.length_replicate
  wings := List.length_replicate

end Sys2Proof.Machine
end

section
/-! SUPPORT. Alarms, SYNC_OUT and the duplicated accumulator (R57, R63, R64). -/

namespace Sys2Proof.Machine
open Sys2Proof

theorem exec_alarmFire (n : Nat) (late : Bool) (s : State) : exec (.alarmFire n late) s = .next (s.finish (effAlarmFire n late s)) := rfl

theorem exec_syncOutPulse (s : State) : exec .syncOutPulse s = .next (s.finish (effSyncOutPulse s)) := rfl

theorem exec_syncOutPulseEnd (s : State) : exec .syncOutPulseEnd s = .next (s.finish (effSyncOutPulseEnd s)) := rfl

theorem exec_accumulatorMismatch (b : Bool) (s : State) :
    exec (.accumulatorMismatch b) s = .next (s.finish (effAccumulatorMismatch b s)) := rfl

theorem State.putHw_of_untouched (s : State) {p : Nat} {f : Fld}
    (h : s.touched.writes.any (fun e => e.1 == p * 256 + f.off) = false) (x : Nat) : s.putHw p f x = s.put p f x := by
  unfold State.putHw; rw [h]; rfl

theorem Only.bitOf {K : Nat → Nat → Bool} {s t : State} (h : Only K s t) {q : Nat} {f : Fld} (ho : f.off < 256)
    (hn : numKey q f.off = false) (hk : K q f.off = false) (i : Nat) : t.bitOf q f i = s.bitOf q f i := by
  unfold State.bitOf; rw [h.get ho hn hk]

/-- A flag set leaves a field of another register. -/
theorem State.bit_flag_reg (s : State) {p q : Nat} {f g : Fld} (h : q * 256 + g.off ≠ p * 256 + f.off) (i : Nat) :
    (s.flag p f i).bit q g = s.bit q g := by
  unfold State.bit State.flag State.raise
  rw [State.noteSet_get]
  exact congrArg (· != 0) (State.get_put_reg s (f := ⟨f.off, f.lo + i, f.lo + i⟩) h _)

theorem State.bit_put_zero (s : State) (p : Nat) (f : Fld) (h : f.lo ≤ f.hi) (h40 : f.hi < 40) : (s.put p f 0).bit p f = false := by
  unfold State.bit; rw [State.get_put_same s p f h h40, Nat.zero_mod]; rfl

/-- The end of a one-shot alarm at its firing, as `effAlarmFire` has it (R57). -/
def State.oneShotEnd (s : State) (n : Nat) : State :=
  s.when (!s.bit pANG (ANG.ALARM_CTRL_PERIODIC n)) fun s =>
    let s := s.putHw pANG (ANG.ALARM_CTRL_ARM n) 0
    s.when (!s.bit pANG (ANG.ALARM_CTRL_ARM n)) fun s => s.disarm (.alarm n)

theorem State.putHw_ang (s : State) (p : Nat) (f : Fld) (x : Nat) : (s.putHw p f x).ang = s.ang := by
  unfold State.putHw; split <;> rfl

theorem State.oneShotEnd_ang (s : State) (n : Nat) : (s.oneShotEnd n).ang = s.ang := by
  unfold State.oneShotEnd State.when
  split
  · dsimp only
    split
    · exact s.putHw_ang ..
    · exact s.putHw_ang ..
  · rfl

theorem State.oneShotEnd_disarms (s : State) {n : Nat} (h : s.bit pANG (ANG.ALARM_CTRL_PERIODIC n) = false)
    (hw : s.touched.writes.any (fun e => e.1 == pANG * 256 + (ANG.ALARM_CTRL_ARM n).off) = false) :
    (s.oneShotEnd n).bit pANG (ANG.ALARM_CTRL_ARM n) = false := by
  have hclear := s.bit_put_zero pANG (ANG.ALARM_CTRL_ARM n) (Nat.le_refl _) (Nat.zero_lt_succ 39)
  unfold State.oneShotEnd State.when
  simp only [h, s.putHw_of_untouched hw, hclear, Bool.not_false, if_true]
  exact hclear

/-- An armed alarm fires: the one-shot's end, the flag, the event, the wake (R57). -/
theorem effAlarmFire_armed {s : State} {n : Nat} (late : Bool) (hn : n < 8) (hen : s.enabled pANG = true)
    (harm : s.bit pANG (ANG.ALARM_CTRL_ARM n) = true) :
    effAlarmFire n late s =
      let t := ((s.oneShotEnd n).flag pANG ANG.FLAG_ALARM n).present n 0
      t.when (t.bit pANG (ANG.ALARM_CTRL_WAKE n) && (t.mode != 0 || t.bit pDEV DEV.STATUS_ENTERING)) fun s => s.sched 0 (.wakeSource 6) := by
  unfold effAlarmFire
  rw [if_pos (by simp [hn, hen, harm])]
  rfl

/-- After its flag an alarm's firing changes numbers, event channels and the agenda. -/
theorem effAlarmFire_only {s : State} {n : Nat} (late : Bool) (hn : n < 8) (hen : s.enabled pANG = true)
    (harm : s.bit pANG (ANG.ALARM_CTRL_ARM n) = true) :
    Only noKeys ((s.oneShotEnd n).flag pANG ANG.FLAG_ALARM n) (effAlarmFire n late s) := by
  rw [effAlarmFire_armed late hn hen harm]
  exact (State.present_only ..).when _ fun _ h => h.sched _ _

theorem alarmFire_does {s : State} {n : Nat} (late : Bool) (hn : n < 8) (hen : s.enabled pANG = true)
    (harm : s.bit pANG (ANG.ALARM_CTRL_ARM n) = true)
    (hw : s.touched.writes.any (fun e => e.1 == pANG * 256 + (ANG.ALARM_CTRL_ARM n).off) = false) :
    Does (.alarmFire n late) s fun u => u.bitOf pANG ANG.FLAG_ALARM n = true ∧
      (s.bit pANG (ANG.ALARM_CTRL_PERIODIC n) = false → u.bit pANG (ANG.ALARM_CTRL_ARM n) = false) ∧ u.ang = s.ang := by
  have h := effAlarmFire_only late hn hen harm
  have hoff : (ANG.ALARM_CTRL_ARM n).off = 0x21 + 2 * n := rfl
  have hkey : numKey pANG (ANG.ALARM_CTRL_ARM n).off = false := by
    have hne : (ANG.ALARM_CTRL_ARM n).off ≠ 9 := by omega
    simp [numKey, hne, pANG, pARB]
  have hreg : pANG * 256 + (ANG.ALARM_CTRL_ARM n).off ≠ pANG * 256 + ANG.FLAG_ALARM.off := by
    rw [hoff, show ANG.FLAG_ALARM.off = 4 from rfl]; omega
  refine does_of (exec_alarmFire n late s) ⟨?_, fun hone => ?_, ?_⟩
  · rw [h.bitOf (f := ANG.FLAG_ALARM) (by decide) (by decide) rfl]
    exact State.bitOf_putBit_same _ pANG ANG.FLAG_ALARM n (by simp only [ANG.FLAG_ALARM]; omega) (by decide) true
  · rw [h.bit (by omega) hkey rfl, State.bit_flag_reg _ hreg, s.oneShotEnd_disarms hone hw]
  · rw [h.ang, State.flag_ang, s.oneShotEnd_ang]

/-! ## SYNC_OUT (R63) -/

theorem syncOutPulse_does {s : State} (hen : s.enabled pANG = true) (hrun : s.ang.running = true)
    (hout : s.bit pANG ANG.SYNC_OUT_EN = true) (hw : s.get pANG ANG.SYNC_OUT_WIDTH ≠ 0) :
    Does .syncOutPulse s fun u => u.ang.syncOut = true ∧ (s.now + 64 * s.get pANG ANG.SYNC_OUT_WIDTH, .syncOutPulseEnd) ∈ u.agenda ∧
      u.regs = s.regs := by
  refine does_of (exec_syncOutPulse s) ?_
  unfold effSyncOutPulse
  rw [if_pos (by simp [hen, hrun, hout, hw])]
  exact ⟨rfl, List.mem_append_right _ (List.mem_singleton_self _), rfl⟩

theorem syncOutPulseEnd_does (s : State) :
    Does .syncOutPulseEnd s fun u => u.ang.syncOut = false ∧ u.regs = s.regs ∧ u.ang.acc = s.ang.acc :=
  does_of (exec_syncOutPulseEnd s) ⟨rfl, rfl, rfl⟩

/-! ## The duplicated accumulator (R64) -/

theorem State.recordErr_ang (s : State) (p c : Nat) : (s.recordErr p c).ang = s.ang :=
  (State.recordErr_only (K := fun _ o => o == 8) s p c (.inr rfl)).ang

theorem State.tstDetected_ang (s : State) (cls : Nat) : (s.tstDetected cls).ang = s.ang := by
  simp only [State.tstDetected, State.unsched_ang, State.putB_ang, State.inc_ang, State.flag_ang, State.put_ang]

theorem State.reportFault_ang (s : State) (page code : Nat) (i : FaultInfo) (inj : Bool) : (s.reportFault page code i inj).ang = s.ang := rfl

theorem State.setFault_ang (s : State) (page bit code : Nat) (i : FaultInfo) : (s.setFault page bit code i).ang = s.ang := by
  unfold State.setFault; dsimp only
  split
  · exact s.recordErr_ang page code
  · split
    · rw [State.tstDetected_ang, State.reportFault_ang, State.raise_ang, s.recordErr_ang]
    · rw [State.reportFault_ang, State.raise_ang, s.recordErr_ang]

/-- An outcome of an injection is shown on TST's page only (R424). -/
theorem State.tstDetected_reg (s : State) (cls : Nat) {q o : Nat} (hq : q ≠ pTST) (ho : o < 256) :
    (s.tstDetected cls).reg q o = s.reg q o := by
  have hput (t : State) {f : Fld} (hf : f.off < 256) (x : Nat) : (t.put pTST f x).reg q o = t.reg q o :=
    State.reg_put_ne t (by omega) x
  have hflag (t : State) {f : Fld} (hf : f.off < 256) : (t.flag pTST f).reg q o = t.reg q o :=
    hput t (f := ⟨f.off, f.lo + 0, f.lo + 0⟩) hf 1
  unfold State.tstDetected
  simp only [State.unsched_reg, State.putB, State.inc]
  rw [hput _ (by decide), hput _ (by decide), hflag _ (by decide), hput _ (by decide), hput _ (by decide)]

/-- A fault sets its bit, also where it stood already (R34). -/
theorem State.setFault_sets (s : State) {page bit : Nat} (code : Nat) (i : FaultInfo) (hp : page ≠ pTST) (hb : bit < 40) :
    (s.setFault page bit code i).bitOf page COM.FAULT bit = true := by
  have hraise (t : State) : (t.raise page COM.FAULT bit).bitOf page COM.FAULT bit = true :=
    State.bitOf_putBit_same t page COM.FAULT bit (by simp only [COM.FAULT]; omega) (by decide) true
  unfold State.setFault; dsimp only
  split
  · assumption
  · split
    · unfold State.bitOf State.get
      rw [State.tstDetected_reg _ _ hp (by decide)]
      exact hraise _
    · exact hraise _

theorem accumulatorMismatch_does (s : State) (b : Bool) :
    Does (.accumulatorMismatch b) s fun u => u.ang.acc = u.ang.acc2 ∧ u.ang.acc = (if b then s.ang.acc else s.ang.acc2) % 2 ^ 56 ∧
      u.bitOf pANG COM.FAULT 1 = true := by
  refine does_of (exec_accumulatorMismatch b s) ?_
  unfold effAccumulatorMismatch; dsimp only
  rw [State.setFault_ang]
  exact ⟨rfl, rfl, State.setFault_sets _ _ _ (by decide) (by decide)⟩

/-- Settles O3: the angle unit's events change its own flags and level; what an alarm presents to the event channels reaches neither the
alarm's registers nor the angle (`effAlarmFire_only`), and a fault that is shown already stays shown (`State.setFault_sets`). -/
theorem angAlarmsAndOutputs : Obligations.AngAlarmsAndOutputs :=
  ⟨fun _ _ late hn hen harm hw => alarmFire_does late hn hen harm hw, fun _ hen hrun hout hw => syncOutPulse_does hen hrun hout hw,
   syncOutPulseEnd_does, accumulatorMismatch_does⟩

end Sys2Proof.Machine
end

section
/-! SUPPORT. ANG's FLAG_EN through what happens at once: the shared operations. -/

namespace Sys2Proof.Machine
open Sys2Proof

/-- FLAG_EN of the ANG page as stored: only writes change it (R16). -/
def State.angFlagEn (s : State) : Word := s.reg pANG COM.FLAG_EN.off

@[simp] theorem angFlagEn_put {f : Fld} (h : f.off % 256 ≠ 5) (s : State) (p x : Nat) : (s.put p f x).angFlagEn = s.angFlagEn :=
  State.reg_put_ne s (by simp only [pANG, COM.FLAG_EN]; omega) x

@[simp] theorem angFlagEn_putB {f : Fld} (h : f.off % 256 ≠ 5) (s : State) (p : Nat) (b : Bool) : (s.putB p f b).angFlagEn = s.angFlagEn :=
  angFlagEn_put h s p _

@[simp] theorem angFlagEn_putBit {f : Fld} (h : f.off % 256 ≠ 5) (s : State) (p i : Nat) (b : Bool) :
    (s.putBit p f i b).angFlagEn = s.angFlagEn := angFlagEn_put (f := ⟨f.off, f.lo + i, f.lo + i⟩) h s p _

@[simp] theorem angFlagEn_inc {f : Fld} (h : f.off % 256 ≠ 5) (s : State) (p : Nat) : (s.inc p f).angFlagEn = s.angFlagEn :=
  angFlagEn_put h s p _

@[simp] theorem angFlagEn_flag {f : Fld} (h : f.off % 256 ≠ 5) (s : State) (p i : Nat) : (s.flag p f i).angFlagEn = s.angFlagEn :=
  angFlagEn_putBit h s p i true

@[simp] theorem angFlagEn_putHw {f : Fld} (h : f.off % 256 ≠ 5) (s : State) (p x : Nat) : (s.putHw p f x).angFlagEn = s.angFlagEn := by
  unfold State.putHw; split
  · rfl
  · exact angFlagEn_put h s p x

@[simp] theorem angFlagEn_ite (c : Prop) [Decidable c] (x y : State) :
    (if c then x else y).angFlagEn = if c then x.angFlagEn else y.angFlagEn := apply_ite _ c x y

@[simp] theorem angFlagEn_when (s : State) (c : Bool) (f : State → State) :
    (s.when c f).angFlagEn = if c then (f s).angFlagEn else s.angFlagEn := apply_ite _ _ _ _

@[simp] theorem angFlagEn_forEach {α : Type} {f : State → α → State} (hf : ∀ t a, (f t a).angFlagEn = t.angFlagEn) (s : State)
    (l : List α) : (s.forEach l f).angFlagEn = s.angFlagEn :=
  State.forEach_inv (fun u => u.angFlagEn = s.angFlagEn) l f (fun t a _ h => (hf t a).trans h) s rfl

@[simp] theorem angFlagEn_numberAs (s : State) (r n : Nat) : (s.numberAs r n).2.angFlagEn = s.angFlagEn :=
  (State.numberAs_only (K := noKeys) s r n).reg _ _ (by decide) (by decide) rfl

@[simp] theorem angFlagEn_recordErr (s : State) (p c : Nat) : (s.recordErr p c).angFlagEn = s.angFlagEn :=
  (State.recordErr_only (K := fun _ o => o == 8) s p c (.inr rfl)).reg _ _ (by decide) (by decide) rfl

@[simp] theorem angFlagEn_sched (s : State) (d : Nat) (c : Instr) : (s.sched d c).angFlagEn = s.angFlagEn := rfl
@[simp] theorem angFlagEn_unsched (s : State) (c : Instr) : (s.unsched c).angFlagEn = s.angFlagEn := rfl
@[simp] theorem angFlagEn_resched (s : State) (d : Nat) (c : Instr) : (s.resched d c).angFlagEn = s.angFlagEn := rfl
@[simp] theorem angFlagEn_untimer (s : State) (t : Tm) : (s.untimer t).angFlagEn = s.angFlagEn := rfl
@[simp] theorem angFlagEn_retimer (s : State) (d : Nat) (t : Tm) : (s.retimer d t).angFlagEn = s.angFlagEn := rfl
@[simp] theorem angFlagEn_mirrorTake (s : State) (k : Nat) (m : Word) : (s.mirrorTake k m).angFlagEn = s.angFlagEn := rfl
@[simp] theorem angFlagEn_withTx (s : State) (n : Nat) (f : Txc → Txc) : (s.withTx n f).angFlagEn = s.angFlagEn := rfl
@[simp] theorem angFlagEn_withRx (s : State) (n : Nat) (f : Rxc → Rxc) : (s.withRx n f).angFlagEn = s.angFlagEn := rfl
@[simp] theorem angFlagEn_withCtx (s : State) (n : Nat) (f : Ctx → Ctx) : (s.withCtx n f).angFlagEn = s.angFlagEn := rfl
@[simp] theorem angFlagEn_withPwr (s : State) (f : Pwr → Pwr) : (s.withPwr f).angFlagEn = s.angFlagEn := rfl
@[simp] theorem angFlagEn_withRail (s : State) (r : Nat) (f : Rail → Rail) : (s.withRail r f).angFlagEn = s.angFlagEn := rfl
@[simp] theorem angFlagEn_withXmp (s : State) (f : Xmp → Xmp) : (s.withXmp f).angFlagEn = s.angFlagEn := rfl
@[simp] theorem angFlagEn_withSco (s : State) (f : Sco → Sco) : (s.withSco f).angFlagEn = s.angFlagEn := rfl
@[simp] theorem angFlagEn_withCal (s : State) (f : Cal → Cal) : (s.withCal f).angFlagEn = s.angFlagEn := rfl

end Sys2Proof.Machine
end

section
/-! SUPPORT. ANG's FLAG_EN through Wing claims, taps, rails and the ends of moves. -/

namespace Sys2Proof.Machine
open Sys2Proof

theorem claims_off (c : Nat) : (CND.CTX_STATE_CLAIMS c).off % 256 ≠ 5 := by simp only [CND.CTX_STATE_CLAIMS]; omega

@[simp] theorem angFlagEn_releaseWing (s : State) (w : Nat) : (s.releaseWing w).angFlagEn = s.angFlagEn := by
  have howner : (ownerFld w).off % 256 ≠ 5 := (by decide : 17 % 256 ≠ 5)
  unfold State.releaseWing State.setOwner; simp [claims_off, howner]

@[simp] theorem angFlagEn_selectTap (s : State) (n p : Nat) : (s.selectTap n p).angFlagEn = s.angFlagEn := by
  unfold State.selectTap State.rxPutHw; simp +decide

@[simp] theorem angFlagEn_retap (s : State) (n : Nat) : (s.retap n).angFlagEn = s.angFlagEn := by
  unfold State.retap; split
  · rfl
  · split <;> simp

@[simp] theorem angFlagEn_retapWing (s : State) (w : Nat) : (s.retapWing w).angFlagEn = s.angFlagEn := by
  unfold State.retapWing; simp

@[simp] theorem angFlagEn_setField (s : State) (n st : Nat) : (s.setField n st).angFlagEn = s.angFlagEn := angFlagEn_put (by decide) ..

@[simp] theorem angFlagEn_rampDown (s : State) (n st : Nat) : (s.rampDown n st).angFlagEn = s.angFlagEn := by
  unfold State.rampDown; simp

@[simp] theorem angFlagEn_openSwitch (s : State) (n : Nat) : (s.openSwitch n).angFlagEn = s.angFlagEn := by
  unfold State.openSwitch; split <;> simp

@[simp] theorem angFlagEn_setSwitch (s : State) (n p : Nat) : (s.setSwitch n p).angFlagEn = s.angFlagEn := by
  unfold State.setSwitch; simp +decide

@[simp] theorem angFlagEn_addJob (s : State) (j : Job) : (s.addJob j).angFlagEn = s.angFlagEn := by
  have hserve (t : State) : t.serveJob.angFlagEn = t.angFlagEn := by unfold State.serveJob; split <;> simp
  unfold State.addJob; simp [hserve]

@[simp] theorem angFlagEn_dropJobs (s : State) (r : Nat) : (s.dropJobs r).angFlagEn = s.angFlagEn := by
  unfold State.dropJobs; simp

/-- The state and the attempts of one of the four rails lie elsewhere. -/
theorem railStat_off {r : Nat} (hr : r < 4) : (PWR.RAIL_STAT_STATE r).off % 256 ≠ 5 ∧ (PWR.RAIL_STAT_TRIES r).off % 256 ≠ 5 := by
  simp only [PWR.RAIL_STAT_STATE, PWR.RAIL_STAT_TRIES]; omega

@[simp] theorem angFlagEn_railUp (s : State) {r : Nat} (hr : r < 4) (mv prio : Nat) : (s.railUp r mv prio).angFlagEn = s.angFlagEn := by
  unfold State.railUp; simp [railStat_off hr]

@[simp] theorem angFlagEn_railChange (s : State) {r : Nat} (hr : r < 4) (mv op : Nat) :
    (s.railChange r mv op).angFlagEn = s.angFlagEn := by
  unfold State.railChange; simp [railStat_off hr]

theorem angFlagEn_raiseInUp {s t : State} {r d : Nat} (h : s.raiseInUp r d = some t) : t.angFlagEn = s.angFlagEn := by
  unfold State.raiseInUp at h; split at h
  · cases h
  · cases h; rfl

theorem angFlagEn_followRail (s : State) {r : Nat} (hr : r < 4) : (s.followRail r).angFlagEn = s.angFlagEn := by
  unfold State.followRail; split
  · rfl
  · dsimp only; split
    · split
      · exact angFlagEn_railUp _ hr ..
      · split
        · exact angFlagEn_raiseInUp (s := s.unsched (.railLowering r)) ‹_›
        · exact angFlagEn_railChange _ hr ..
    · simp

@[simp] theorem angFlagEn_followRails (s : State) : s.followRails.angFlagEn = s.angFlagEn :=
  (angFlagEn_followRail _ (by decide)).trans (angFlagEn_followRail s (by decide))

@[simp] theorem angFlagEn_armNow (s : State) (n : Nat) : (s.armNow n).angFlagEn = s.angFlagEn := by
  unfold State.armNow; simp

@[simp] theorem angFlagEn_endMove (s : State) (c status : Nat) : (s.endMove c status).angFlagEn = s.angFlagEn := by
  have hshow (t : State) : (t.tuneShow c status).angFlagEn = t.angFlagEn := by unfold State.tuneShow; split <;> simp +decide
  unfold State.endMove; split
  · rfl
  · simp [hshow]

@[simp] theorem angFlagEn_endFor (s : State) (c : Option Nat) (status : Nat) : (s.endFor c status).angFlagEn = s.angFlagEn := by
  unfold State.endFor; split <;> simp

@[simp] theorem angFlagEn_tuneEnd (s : State) (n st : Nat) : (s.tuneEnd n st).angFlagEn = s.angFlagEn := by
  have hheld (t : State) : (t.takeHeld n).angFlagEn = t.angFlagEn := by unfold State.takeHeld; split <;> simp
  unfold State.tuneEnd; simp +decide [hheld]

@[simp] theorem angFlagEn_wakeChains (s : State) : s.wakeChains.angFlagEn = s.angFlagEn := by
  unfold State.wakeChains; simp

@[simp] theorem angFlagEn_dropArmed (s : State) (n st : Nat) : (s.dropArmed n st).angFlagEn = s.angFlagEn := by
  unfold State.dropArmed; simp +decide

@[simp] theorem angFlagEn_releaseTx8 (s : State) : s.releaseTx8.angFlagEn = s.angFlagEn := by
  have hact (t : State) (a b : Nat) : (t.moveAct a b).angFlagEn = t.angFlagEn := by unfold State.moveAct; simp +decide
  unfold State.releaseTx8; simp +decide [hact]

@[simp] theorem angFlagEn_releaseRx16 (s : State) : s.releaseRx16.angFlagEn = s.angFlagEn := by
  unfold State.releaseRx16; simp +decide

/-- Without inventory Wings a cross-Board field-off cuts no round. -/
theorem angFlagEn_fieldOffNow {s : State} (hi : s.inv.wings = []) (w hop : Nat) : (s.fieldOffNow w hop).angFlagEn = s.angFlagEn := by
  unfold State.fieldOffNow; simp [invCut_of_none hi]

end Sys2Proof.Machine
end

section
/-! SUPPORT. ANG's FLAG_EN through flash, Scoresheet, calibration, power modes and the report queue. -/

namespace Sys2Proof.Machine
open Sys2Proof

@[simp] theorem angFlagEn_xmpShow (s : State) : s.xmpShow.angFlagEn = s.angFlagEn := by
  unfold State.xmpShow; dsimp only; split <;> simp +decide

@[simp] theorem angFlagEn_xmpRange (s : State) : s.xmpRange.angFlagEn = s.angFlagEn := by
  unfold State.xmpRange; simp +decide

@[simp] theorem angFlagEn_xmpStart (s : State) : s.xmpStart.angFlagEn = s.angFlagEn := by
  unfold State.xmpStart; simp

@[simp] theorem angFlagEn_xmpPost (s : State) (owner off : Nat) (bytes : List Nat) :
    (s.xmpPost owner off bytes).2.angFlagEn = s.angFlagEn := by
  unfold State.xmpPost; split
  · simp
  · dsimp only; split <;> simp +decide

@[simp] theorem angFlagEn_xmpEraseQ (s : State) (t off owner : Nat) : (s.xmpEraseQ t off owner).2.angFlagEn = s.angFlagEn := by
  unfold State.xmpEraseQ; dsimp only; split
  · simp +decide
  · split <;> simp +decide

@[simp] theorem angFlagEn_xmpDiscard (s : State) : s.xmpDiscard.angFlagEn = s.angFlagEn := by
  have hdone (t : State) (owner : Nat) : (t.xmpOwnerDone owner).angFlagEn = t.angFlagEn := by unfold State.xmpOwnerDone; simp
  unfold State.xmpDiscard; extract_lets l s1 s2 s3 s4
  have h2 : s2.angFlagEn = s1.angFlagEn := angFlagEn_forEach (fun t _ => by simp +decide) s1 l
  have h3 : s3.angFlagEn = s2.angFlagEn := angFlagEn_forEach (fun t _ => by simp [hdone]) s2 _
  have h4 : s4.angFlagEn = s3.angFlagEn := angFlagEn_forEach (fun t _ => angFlagEn_sched t ..) s3 _
  rw [angFlagEn_xmpShow, h4, h3, h2]; rfl

@[simp] theorem angFlagEn_scoPush (s : State) (kind arbseq : Nat) (inj : Bool) (payload : List Nat) :
    (s.scoPush kind arbseq inj payload).angFlagEn = s.angFlagEn := angFlagEn_put (by decide) ..

@[simp] theorem angFlagEn_scoLose (s : State) : s.scoLose.angFlagEn = s.angFlagEn := angFlagEn_inc (by decide) ..

@[simp] theorem angFlagEn_scoRecord (s : State) (kind arbseq : Nat) (payload : List Nat) (inj : Bool) :
    (s.scoRecord kind arbseq payload inj).angFlagEn = s.angFlagEn := by
  unfold State.scoRecord State.scoDrop; simp +decide

@[simp] theorem angFlagEn_scoLostRecord (s : State) : s.scoLostRecord.angFlagEn = s.angFlagEn := by
  unfold State.scoLostRecord; simp +decide

@[simp] theorem angFlagEn_scoRefuse (s : State) : s.scoRefuse.angFlagEn = s.angFlagEn := by
  have hdiscard (t : State) : t.scoDiscard.angFlagEn = t.angFlagEn := by
    unfold State.scoDiscard
    exact (angFlagEn_put (by decide) ..).trans (angFlagEn_forEach (fun u _ => angFlagEn_scoLose u) t _)
  unfold State.scoRefuse; simp +decide [hdiscard]

@[simp] theorem angFlagEn_scoTest (s : State) : s.scoTest.angFlagEn = s.angFlagEn := by
  unfold State.scoTest; simp +decide

@[simp] theorem angFlagEn_scoShow (s : State) : s.scoShow.angFlagEn = s.angFlagEn := by
  unfold State.scoShow; simp +decide

@[simp] theorem angFlagEn_scoAdvance (s : State) : s.scoAdvance.angFlagEn = s.angFlagEn := by
  have herase (t : State) (k : Nat) : (t.scoEraseSector k).angFlagEn = t.angFlagEn := by
    unfold State.scoEraseSector; dsimp only; split <;> simp
  unfold State.scoAdvance; simp [herase]

@[simp] theorem angFlagEn_scoProgram (s : State) : s.scoProgram.angFlagEn = s.angFlagEn := by
  have hpair (x : Bool × State) :
      (if x.1 then (x.2.withSco fun y => { y with op := 1 }).scoShow else x.2).angFlagEn = x.2.angFlagEn := by
    split <;> simp
  unfold State.scoProgram; split
  · exact (hpair _).trans (angFlagEn_xmpPost ..)
  · rfl

theorem angFlagEn_scoSettle (s : State) : s.scoSettle.angFlagEn = s.angFlagEn := by
  unfold State.scoSettle; simp

@[simp] theorem angFlagEn_calOver (s : State) : s.calOver.angFlagEn = s.angFlagEn := by
  have hshow (t : State) : t.calShow.angFlagEn = t.angFlagEn := by unfold State.calShow; simp +decide
  unfold State.calOver; simp +decide [hshow]; rfl

@[simp] theorem angFlagEn_xbOver (s : State) : s.xbOver.angFlagEn = s.angFlagEn := by
  unfold State.xbOver State.rxRest; simp +decide

theorem angFlagEn_calSettle {s : State} (hi : s.inv.wings = []) : s.calSettle.angFlagEn = s.angFlagEn := by
  have hlevel (t : State) : (t.forEach (List.range 9) fun s n => s.withTx n fun t => { t with level := 0 }).angFlagEn = t.angFlagEn :=
    angFlagEn_forEach (fun t n => angFlagEn_withTx t n _) t _
  unfold State.calSettle State.simulAt; simp +decide [angFlagEn_fieldOffNow hi, hlevel]

theorem angFlagEn_xmpInjSettle (s : State) : s.xmpInjSettle.angFlagEn = s.angFlagEn := by
  unfold State.xmpInjSettle; split <;> rfl

theorem angFlagEn_pwrSettle (s : State) : s.pwrSettle.angFlagEn = s.angFlagEn := by
  have hentry (t : State) : t.entrySettle.angFlagEn = t.angFlagEn := by unfold State.entrySettle; simp
  have href (t : State) : t.refSwitch.angFlagEn = t.angFlagEn := by unfold State.refSwitch State.synStart; simp +decide
  have hsyn (t : State) : t.synStop.angFlagEn = t.angFlagEn := by unfold State.synStop; simp +decide
  have hmode (t : State) : t.giveModeRec.angFlagEn = t.angFlagEn := by unfold State.giveModeRec; split <;> simp
  unfold State.pwrSettle; rw [hmode, hsyn, href, hentry, hentry, hentry]

theorem angFlagEn_autoIrqWord (s t : State) : (s.autoIrqWord t).angFlagEn = t.angFlagEn := by
  have hput (w : Nat) : (t.rptAppend w).angFlagEn = t.angFlagEn := by
    unfold State.rptAppend; split
    · simp +decide
    · exact angFlagEn_put (by decide) ..
  unfold State.autoIrqWord; split <;> simp [hput]

end Sys2Proof.Machine
end

section
/-! SUPPORT. Host access while CORE is unpowered (R31): a write beside one of a later place in the order of R38. -/

namespace Sys2Proof.Machine
open Sys2Proof

variable {c : Nat} {s : State}

theorem invSettleAll_of_none (h : s.inv.wings = []) : s.invSettleAll = s := by
  have hp (w : Nat) : (s.invWing w).phase = 0 := by unfold State.invWing; rw [h]; rfl
  unfold State.invSettleAll
  exact State.forEach_id s _ _ fun w _ => by unfold State.invSettle; simp [hp]

theorem State.Quiet.angFlagEn_takeEnds {n : Nat} (h : (State.takeEnds n s).Quiet c) : (State.takeEnds n s).angFlagEn = s.angFlagEn := by
  obtain ⟨l, e⟩ := h.takeEnds_eq
  rw [e]; rfl

theorem State.Quiet.angFlagEn_takeReports (h : s.takeReports.Quiet c) : s.takeReports.angFlagEn = s.angFlagEn := by
  rw [h.takeReports_eq]; rfl

theorem State.angFlagEn_takeResign (ha : ∀ d, (d, Instr.resignRampEnd) ∉ s.takeResign.agenda) : s.takeResign.angFlagEn = s.angFlagEn := by
  unfold State.takeResign at ha ⊢; dsimp only at ha ⊢
  split
  · rfl
  · rename_i h0
    rw [if_neg h0] at ha
    split
    · rfl
    · rename_i hr
      rw [if_neg hr] at ha
      obtain ⟨d, hd⟩ := beginResign_agenda _ s.flt.request
      exact absurd hd (ha d)

theorem angFlagEn_releases (s : State) : s.releaseTx8.releaseRx16.angFlagEn = s.angFlagEn :=
  (angFlagEn_releaseRx16 _).trans (angFlagEn_releaseTx8 s)

/-- Where what happens at once leaves the Board quiet and no Resign begun, it leaves FLAG_EN of ANG as it was. -/
theorem State.Quiet.angFlagEn_settle {u : State} (h : (s.settle u).Quiet c)
    (ha : ∀ d, (d, Instr.resignRampEnd) ∉ (s.settle u).agenda) : (s.settle u).angFlagEn = u.angFlagEn := by
  unfold State.settle at h ha ⊢; dsimp only at ha ⊢; extract_lets s1 s2 s3 at h
  rw [autoIrqWord_agenda] at ha
  have h3 : s3.Quiet c := h.of_gauge (gauge_autoIrqWord ..)
  have hEnds := h3.of_takeReports
  obtain ⟨l, e⟩ := hEnds.takeEnds_eq
  rw [h3.takeReports_eq, e] at ha
  have hReports : s2.pwrSettle.takeReports.Quiet c := (hEnds.of_takeEnds.of_takeResign ha).of_gauge (gauge_xmpInjSettle _)
  have hEnds2 := (hReports.of_takeReports.of_gauge (gauge_pwrSettle _)).of_gauge (gauge_scoSettle _)
  have h1 : s1.Quiet c := hEnds2.of_takeEnds.of_releases.of_calSettle
  have hReports1 := h1.of_gauge (gauge_invSettleAll _)
  have hwings (t : State) (ht : t.Quiet c) : t.inv.wings = [] := (quiet_iff.mp ht).2.1
  calc (s.autoIrqWord s3).angFlagEn
      = s3.angFlagEn := angFlagEn_autoIrqWord s s3
    _ = (State.takeEnds 8 s2.pwrSettle.takeReports.xmpInjSettle.takeResign).angFlagEn := h3.angFlagEn_takeReports
    _ = s2.pwrSettle.takeReports.xmpInjSettle.takeResign.angFlagEn := hEnds.angFlagEn_takeEnds
    _ = s2.pwrSettle.takeReports.xmpInjSettle.angFlagEn := State.angFlagEn_takeResign ha
    _ = s2.pwrSettle.takeReports.angFlagEn := angFlagEn_xmpInjSettle _
    _ = s2.pwrSettle.angFlagEn := hReports.angFlagEn_takeReports
    _ = (State.takeEnds 8 s1.calSettle.releaseTx8.releaseRx16).angFlagEn := (angFlagEn_pwrSettle _).trans (angFlagEn_scoSettle _)
    _ = s1.calSettle.releaseTx8.releaseRx16.angFlagEn := hEnds2.angFlagEn_takeEnds
    _ = s1.angFlagEn := (angFlagEn_releases _).trans (angFlagEn_calSettle (hwings s1 h1))
    _ = (State.takeEnds 8 u.releaseTx8.releaseRx16).takeReports.angFlagEn :=
        congrArg State.angFlagEn (invSettleAll_of_none (hwings _ hReports1))
    _ = (State.takeEnds 8 u.releaseTx8.releaseRx16).angFlagEn := hReports1.angFlagEn_takeReports
    _ = u.releaseTx8.releaseRx16.angFlagEn := hReports1.of_takeReports.angFlagEn_takeEnds
    _ = u.angFlagEn := angFlagEn_releases u

theorem State.Quiet.angFlagEn_finish {u : State} (h : (s.finish u).Quiet c)
    (ha : ∀ d, (d, Instr.resignRampEnd) ∉ (s.finish u).agenda) : (s.finish u).angFlagEn = u.angFlagEn :=
  State.Quiet.angFlagEn_settle (s := s) h ha

theorem exec_hostWrite (w : WriteFrame) (s : State) : exec (.hostWrite w) s = .next (s.finish (effHostWrite w s)) := rfl

/-- A Board after reset, CORE unpowered, whose notes of the edge list a write of ANG's FLAG_EN in a place of the order of R38 behind the
host's: no initiator has such a place (`writeRank`), but a state can hold it. The state has no engines and no inventory Wings, so that what
happens at once can be read backwards (`State.Quiet.of_settle`). -/
def outranked : State :=
  { State.reset with
    agenda := [], engs := [], inv := { State.reset.inv with wings := [] },
    touch := { State.reset.touch with writes := [(pANG * 256 + COM.FLAG_EN.off, 3)] } }

/-- A WRITE of 1 to FLAG_EN of ANG, to Board 62 with ENUMI high. -/
def flagEnWrite : WriteFrame := ⟨true, 62, pANG, 5, beBytes 5 1, 0, 0, false⟩

/-- The row of ANG's FLAG_EN. -/
def flagEnRow : RegRow := ⟨0x05, 1, 1, 0x0, 0xFF1F, 0x0, 0x0, 0x0, 0x0, 0xFF1F⟩

theorem outranked_quiet : (outranked.finish (effHostWrite flagEnWrite outranked)).Quiet 0 := quiet_iff.mpr (by decide +kernel)

theorem outranked_agenda : (outranked.finish (effHostWrite flagEnWrite outranked)).agenda = [(0, .wakeSource 4)] := by decide +kernel

/-- The write leaves FLAG_EN as it stood: the later writer's value holds (R38). -/
theorem outranked_keeps : (outranked.finish (effHostWrite flagEnWrite outranked)).angFlagEn = 0 := by decide +kernel

/-- Refutes O29: its second clause lets a WRITE to an unpowered Board take effect whatever has been written on the edge. In `outranked` a
writer behind the host has reached the register, whose value holds (R38): FLAG_EN stays 0 where the clause gives 1. -/
theorem not_unpoweredPages : ¬ Obligations.UnpoweredPages := by
  unfold Obligations.UnpoweredPages
  rintro ⟨-, h, -, -⟩
  obtain ⟨u, he, ⟨hreg, -, -⟩, -⟩ := h outranked 62 true pANG 5 1 flagEnRow (by decide +kernel) (by decide +kernel) (by decide +kernel)
    (by decide) rfl (by decide +kernel) (by decide +kernel)
  have hstate : outranked.finish (effHostWrite flagEnWrite outranked) = outranked.finish u := by
    rw [show (⟨true, 62, pANG, 5, beBytes 5 1, 0, 0, false⟩ : WriteFrame) = flagEnWrite from rfl, exec_hostWrite,
      Host.Outcome.next.injEq] at he
    exact he
  have hq := outranked_quiet
  have ha := outranked_agenda
  have hk := outranked_keeps
  rw [hstate] at hq ha hk
  have hu : u.angFlagEn = 0 := (hq.angFlagEn_finish (by simp [ha])).symm.trans hk
  exact absurd (hreg.symm.trans hu) (by decide +kernel)

end Sys2Proof.Machine
end

section
/-! SUPPORT. What arms, counts and numbers leave of the registers of ANG and of the angle (R41, R47, R49, R58). -/

namespace Sys2Proof.Machine
open Sys2Proof

variable {s t u : State}

/-- No register of ANG has changed but those at the offsets `l` and LAST_ERR (offset 9). -/
def AngPage (l : List Nat) (s t : State) : Prop := ∀ o, o < 256 → o ≠ 9 → o ∉ l → t.reg pANG o = s.reg pANG o

variable {l : List Nat}

theorem AngPage.refl (l : List Nat) (s : State) : AngPage l s s := fun _ _ _ _ => rfl

theorem AngPage.trans (h : AngPage l s t) (g : AngPage l t u) : AngPage l s u :=
  fun o ho hn hl => (g o ho hn hl).trans (h o ho hn hl)

theorem AngPage.mono {l' : List Nat} (h : AngPage l s t) (hl : ∀ o ∈ l, o ∈ l') : AngPage l' s t :=
  fun o ho hn ho' => h o ho hn fun hm => ho' (hl o hm)

theorem AngPage.of_regs (h : AngPage l s t) (e : u.regs = t.regs) : AngPage l s u :=
  fun o ho hn hl => (by unfold State.reg; rw [e] : u.reg pANG o = t.reg pANG o).trans (h o ho hn hl)

theorem AngPage.put (h : AngPage l s t) {f : Fld} (hl : f.off ∈ l) (x : Nat) : AngPage l s (t.put pANG f x) :=
  fun o ho hn ho' => (State.reg_put_ne t (fun e => ho' (by rwa [show o = f.off by omega])) x).trans (h o ho hn ho')

theorem AngPage.putB (h : AngPage l s t) {f : Fld} (hl : f.off ∈ l) (b : Bool) : AngPage l s (t.putB pANG f b) := h.put hl _

theorem AngPage.inc (h : AngPage l s t) {f : Fld} (hl : f.off ∈ l) : AngPage l s (t.inc pANG f) := h.put hl _

theorem AngPage.flag (h : AngPage l s t) {f : Fld} (hl : f.off ∈ l) (i : Nat := 0) : AngPage l s (t.flag pANG f i) :=
  (h.put (f := ⟨f.off, f.lo + i, f.lo + i⟩) hl 1).of_regs rfl

theorem AngPage.when (h : AngPage l s t) (b : Bool) {f : State → State} (hf : AngPage l t (f t)) : AngPage l s (t.when b f) := by
  unfold State.when; split
  · exact h.trans hf
  · exact h

/-- A change that reaches numbers, events and named registers of ANG. -/
theorem AngPage.only {K : Nat → Nat → Bool} (h : AngPage l s t) (g : Only K t u) (hk : ∀ o, o ∉ l → K pANG o = false) : AngPage l s u := by
  intro o ho hn hl
  refine (g.reg pANG o ho ?_ (hk o hl)).trans (h o ho hn hl)
  simp [numKey, hn, pANG, pARB]

theorem AngPage.present (h : AngPage l s t) (p hop : Nat) : AngPage l s (t.present p hop) :=
  h.only (K := noKeys) (State.present_only t p hop) fun _ _ => rfl

theorem AngPage.recordErr (h : AngPage l s t) (hl : 8 ∈ l) (c : Nat) : AngPage l s (t.recordErr pANG c) :=
  h.only (K := oneKey pANG 8) (State.recordErr_only t pANG c (.inr rfl)) fun o ho => by
    have h8 : o ≠ 8 := fun e => ho (e ▸ hl)
    simp [oneKey, h8]

/-- What arming can change of ANG's registers: FLAG and ERR_COUNT. -/
theorem AngPage.arms (h : AngPage l s t) (g : Only angKeys t u) (h4 : 4 ∈ l) (h8 : 8 ∈ l) : AngPage l s u :=
  h.only g fun o ho => by
    have h4' : o ≠ 4 := fun e => ho (e ▸ h4)
    have h8' : o ≠ 8 := fun e => ho (e ▸ h8)
    simp [angKeys, h4', h8']

theorem AngPage.get (h : AngPage l s t) {f : Fld} (ho : f.off < 256) (hn : f.off ≠ 9) (hl : f.off ∉ l) : t.get pANG f = s.get pANG f := by
  unfold State.get; rw [h _ ho hn hl]

theorem AngPage.bit (h : AngPage l s t) {f : Fld} (ho : f.off < 256) (hn : f.off ≠ 9) (hl : f.off ∉ l) : t.bit pANG f = s.bit pANG f := by
  unfold State.bit; rw [h.get ho hn hl]

/-! ## Comparators and the window -/

theorem Only.unsched {K : Nat → Nat → Bool} (h : Only K s t) (c : Instr) : Only K s (t.unsched c) := ⟨h.reg, h.rest⟩

theorem Only.armWindow (s : State) : Only noKeys s s.armWindow := by
  have h : Only noKeys s ((s.disarm .window).unsched .edgeWindowClose) := ((Only.refl _ s).disarm _).unsched _
  unfold State.armWindow; dsimp only
  split
  · exact h.fire .window false
  · exact h.cmps _

theorem State.countDown_only (s : State) (d : Nat) : Only noKeys s (s.countDown d) := by
  unfold State.countDown
  exact State.forEach_inv (Only noKeys s) _ _ (fun t c _ h => h.fire c.user false) _ ((Only.refl _ s).cmps _)

theorem State.wakeCmps_only (s : State) : Only angKeys s s.wakeCmps := by
  unfold State.wakeCmps
  refine State.forEach_inv (Only angKeys s) _ _ (fun t c _ h => ?_) _ ((Only.refl _ s).cmps _)
  split
  · exact h.armPeriodic ..
  · exact h.arm ..

theorem State.present_ang (s : State) (p hop : Nat) : (s.present p hop).ang = s.ang :=
  (State.present_only (K := noKeys) s p hop).ang

theorem State.resendRate_onlyMch (s : State) : OnlyMch s s.resendRate := by
  unfold State.resendRate State.when State.sendRate
  split
  · exact State.queueCell_onlyMch ..
  · exact OnlyMch.refl s

/-! ## The code of an error (R35, R282) -/

/-- A number is shown in the low 32 bits of a register, and beside it nothing changes. -/
theorem State.get_numberAs_high (s : State) (r n p : Nat) {f : Fld} (h : 31 < f.lo) : (s.numberAs r n).2.get p f = s.get p f := by
  have hput (t : State) (q : Nat) {g : Fld} (hg : g.lo = 0 ∧ g.hi = 31) (x : Nat) : (t.put q g x).get p f = t.get p f :=
    State.get_put_bits t (by omega) (by omega) (.inr (by omega)) x
  have hedge (t : State) (e : Nat × List (Nat × Nat)) : ({ t with edge := e } : State).get p f = t.get p f := rfl
  unfold State.numberAs
  split
  · refine (hedge _ _).trans ?_
    refine State.forEach_inv (fun t => t.get p f = s.get p f) _ _ (fun t a _ ht => ?_) _ ?_
    split
    · rename_i q g hs
      have hg : g.lo = 0 ∧ g.hi = 31 := by
        unfold numShown at hs
        split_ifs at hs <;> cases hs <;> exact ⟨rfl, rfl⟩
      exact (hput t q hg _).trans ht
    · exact ht
    · exact hput s pARB (g := ARB.SEQ_NEXT) ⟨rfl, rfl⟩ _
  · rfl

/-- A recorded error shows its code. -/
theorem State.get_recordErr_code (s : State) (p c : Nat) : (s.recordErr p c).get p COM.LAST_ERR_CODE = c % 2 ^ 8 := by
  have hseq (t : State) (x : Nat) : (t.put p COM.LAST_ERR_SEQ x).get p COM.LAST_ERR_CODE = t.get p COM.LAST_ERR_CODE :=
    State.get_put_bits t (by decide) (by decide) (.inr (by decide)) x
  have hcode (t : State) : (t.put p COM.LAST_ERR_CODE c).get p COM.LAST_ERR_CODE = c % 2 ^ 8 :=
    State.get_put_same t p COM.LAST_ERR_CODE (by decide) (by decide) c
  unfold State.recordErr; dsimp only
  split
  · rw [hseq, State.get_numberAs_high _ _ _ _ (by decide), hcode]
  · rw [hseq, State.nextFree_get, hcode]

theorem State.numberAs_cmps (s : State) (r n : Nat) : (s.numberAs r n).2.cmps = s.cmps := by
  unfold State.numberAs
  split
  · refine State.forEach_inv (fun t => t.cmps = s.cmps) _ _ (fun t a _ ht => ?_) _ rfl
    split
    · exact ht
    · exact ht
  · rfl

theorem State.number_ang (s : State) (src : Src) : (s.number src).ang = s.ang := (State.number_only (K := noKeys) s src).ang

end Sys2Proof.Machine
end

section
/-! SUPPORT. Enabling and disabling the Cycle Angle (R47, R48, R58). -/

namespace Sys2Proof.Machine
open Sys2Proof

theorem exec_angEnable (s : State) : exec .angEnable s = .next (s.finish ((effAngEnable s).number .host)) := rfl

theorem exec_angDisable (s : State) : exec .angDisable s = .next (s.finish ((effAngDisable s).number .host)) := rfl

/-- The registers of ANG at an accepted enable, as `effAngEnable` has them: ENABLE 1 and the counters 0 (R48). -/
def State.angCleared (s : State) : State := (s.putB pANG COM.ENABLE true).put pANG ANG.COUNT 0

/-- What the angle unit takes at an accepted enable, as `effAngEnable` has it, its comparators still to follow (R47, R48). -/
def State.angTaken (s : State) : State :=
  let t := s.angCleared.takeBoundaryCfg
  let t := t.withAng fun g => { g with
    src := s.get pANG ANG.CFG_SRC, pol := t.get pANG ANG.CFG_EDGE_POL, deglitch := t.get pANG ANG.CFG_DEGLITCH,
    offset := t.get pANG ANG.OFFSET_EDGE_OFFSET, preset := t.get pANG ANG.PRESET_ANGLE, period := t.get pANG ANG.VPERIOD_PERIOD,
    periodNext := none, running := false, starting := s.get pANG ANG.CFG_SRC == 1, rates := [], edges := 0, closed := 0, missRun := 0,
    accRun := 0, lockRun := 0, freq := 0, slew := 0, vcount := 0 }
  (t.setAcc (t.get pANG ANG.PRESET_ANGLE * 2 ^ 16)).withMch fun m => { m with gotRate := false }

/-- The comparators of alarms, SYNC_OUT and apply point follow their registers (R57, R63, R303). -/
def State.angComparators (s : State) : State := (s.forEach (List.range 8) State.alarmConfig).syncOutConfig.applyConfig

theorem effAngEnable_accepted {s : State} (h : s.enabled pANG = false) (hr : s.angRefused = false) :
    effAngEnable s = s.angTaken.angComparators := by
  unfold effAngEnable; dsimp only
  rw [if_neg (by simp [h]), if_neg (by simp [hr])]
  rfl

theorem effAngEnable_refused {s : State} (h : s.enabled pANG = false) (hr : s.angRefused = true) :
    effAngEnable s = s.recordErr pANG 5 := by
  unfold effAngEnable; rw [h, hr]; rfl

theorem State.syncOutConfig_page (s : State) : AngPage [4, 8] s s.syncOutConfig := by
  obtain ⟨b, h⟩ := s.syncOutConfig_keeps
  have hlevel : AngPage [4, 8] s { s with ang := { s.ang with syncOut := b } } := (AngPage.refl _ s).of_regs rfl
  exact hlevel.arms h (by decide) (by decide)

/-- Setting up comparators reaches of the angle unit SYNC_OUT's level only, and of its registers FLAG and ERR_COUNT. -/
theorem State.angComparators_keeps (s : State) :
    AngPage [4, 8] s s.angComparators ∧ ∃ b, s.angComparators.ang = { s.ang with syncOut := b } := by
  have halarms : Only angKeys s (s.forEach (List.range 8) State.alarmConfig) :=
    State.forEach_inv (Only angKeys s) _ _ (fun t n _ h => h.trans (t.alarmConfig_only n)) _ (Only.refl ..)
  unfold State.angComparators
  generalize s.forEach (List.range 8) State.alarmConfig = t at halarms
  obtain ⟨b, hout⟩ := t.syncOutConfig_keeps
  have happly := t.syncOutConfig.applyConfig_only
  have hpage := (AngPage.refl [4, 8] s).arms halarms (by decide) (by decide)
  refine ⟨(hpage.trans t.syncOutConfig_page).arms happly (by decide) (by decide), b, ?_⟩
  rw [happly.ang, hout.ang, ← halarms.ang]

theorem State.angCleared_get_preset (s : State) : s.angCleared.get pANG ANG.PRESET_ANGLE = s.get pANG ANG.PRESET_ANGLE :=
  (State.get_put_reg _ (by decide) _).trans (State.get_put_reg s (by decide) _)

theorem State.angTaken_enabled (s : State) : s.angTaken.enabled pANG = true := by
  have hcount (t : State) : (t.put pANG ANG.COUNT 0).bit pANG COM.ENABLE = t.bit pANG COM.ENABLE := by
    unfold State.bit; rw [State.get_put_reg t (by decide)]
  exact (hcount _).trans (State.bit_putB_same s pANG COM.ENABLE rfl (by decide) true)

theorem State.angTaken_count (s : State) : s.angTaken.get pANG ANG.COUNT = 0 :=
  State.get_put_same _ pANG ANG.COUNT (by decide) (by decide) 0

/-- An accepted enable (R48). -/
theorem angEnable_does {s : State} (h : s.enabled pANG = false) (hr : s.angRefused = false) :
    Does .angEnable s fun u => u.enabled pANG = true ∧ u.ang.src = s.get pANG ANG.CFG_SRC ∧
      u.ang.acc = s.get pANG ANG.PRESET_ANGLE * 2 ^ 16 % 2 ^ 56 ∧ u.ang.acc2 = u.ang.acc ∧ u.ang.running = false ∧
      u.ang.starting = (s.get pANG ANG.CFG_SRC == 1) ∧ u.get pANG ANG.COUNT = 0 := by
  obtain ⟨hpage, b, hang⟩ := s.angTaken.angComparators_keeps
  have hkept := hpage.only (State.number_only (K := noKeys) _ .host) fun _ _ => rfl
  have hacc : s.angTaken.ang.acc = s.get pANG ANG.PRESET_ANGLE * 2 ^ 16 % 2 ^ 56 := by rw [← s.angCleared_get_preset]; rfl
  refine does_of (exec_angEnable s) ?_
  rw [effAngEnable_accepted h hr, State.number_ang, hang]
  refine ⟨?_, rfl, hacc, rfl, rfl, rfl, ?_⟩
  · exact (hkept.bit (by decide) (by decide) (by decide)).trans s.angTaken_enabled
  · exact (hkept.get (by decide) (by decide) (by decide)).trans s.angTaken_count

/-- A refused enable (R47). -/
theorem angEnable_refused_does {s : State} (h : s.enabled pANG = false) (hr : s.angRefused = true) :
    Does .angEnable s fun u => u.enabled pANG = false ∧ u.get pANG COM.LAST_ERR_CODE = 5 ∧ u.ang = s.ang := by
  have hkept := ((AngPage.refl [8] s).recordErr (by decide) 5).only (State.number_only (K := noKeys) _ .host) fun _ _ => rfl
  refine does_of (exec_angEnable s) ?_
  rw [effAngEnable_refused h hr]
  refine ⟨(hkept.bit (by decide) (by decide) (by decide)).trans h, ?_, ?_⟩
  · exact (State.get_numberAs_high _ _ _ _ (by decide)).trans (State.get_recordErr_code s pANG 5)
  · rw [State.number_ang, State.recordErr_ang]

/-! ## The disable (R58) -/

/-- The end of `State.angDisable`, on the state in which moves, alarms, slots and deliveries have been dropped: STATUS, the angle and
every comparator (R58). -/
def State.angHalt (s : State) : State :=
  let s := ((s.putB pANG ANG.STATUS_LOCKED false).putB pANG ANG.STATUS_HOLDOVER false).putB pANG ANG.STATUS_REACQ false
  let s := s.putB pANG ANG.STATUS_CHAIN_HOLD false
  let s := s.withAng fun g => { g with running := false, starting := false, syncOut := false }
  ({ s with cmps := [] } : State).unschedAll [.cycleBoundary, .virtualCycleEnd, .edgeWindowClose, .syncOutPulse, .syncOutPulseEnd]

/-- Whatever is dropped first, a disable ends with the halt of the angle. -/
theorem effAngDisable_halts {s : State} (h : s.enabled pANG = true) : ∃ t, effAngDisable s = State.angHalt t := by
  have hset : effAngDisable s =
      State.angDisable { s.noteOld (pANG * 256 + 1) with crcHeld := AMap.erase pANG s.crcHeld } := by
    unfold effAngDisable State.setEnable
    rw [if_pos h, h]; rfl
  have hnote (l : List (Nat × Nat)) : State.enabled { s.noteOld (pANG * 256 + 1) with crcHeld := l } pANG = true := by
    unfold State.noteOld; split <;> exact h
  rw [hset]
  unfold State.angDisable
  rw [if_pos (hnote _)]
  exact ⟨_, rfl⟩

theorem State.angHalt_ang (s : State) : s.angHalt.ang = { s.ang with running := false, starting := false, syncOut := false } := rfl

theorem State.angHalt_cmps (s : State) : s.angHalt.cmps = [] := rfl

theorem State.bit_put_bits (s : State) {p q : Nat} {f g : Fld} (h : f.lo ≤ f.hi) (h40 : f.hi < 40) (hd : g.hi < f.lo ∨ f.hi < g.lo)
    (x : Nat) : (s.put p f x).bit q g = s.bit q g := by
  unfold State.bit; rw [State.get_put_bits s h h40 hd]

theorem State.angHalt_locked (s : State) : s.angHalt.bit pANG ANG.STATUS_LOCKED = false := by
  have hput (t : State) {f : Fld} (hf : f.lo = f.hi ∧ 1 < f.lo ∧ f.hi < 40) :
      (t.putB pANG f false).bit pANG ANG.STATUS_LOCKED = t.bit pANG ANG.STATUS_LOCKED :=
    State.bit_put_bits t (by omega) (by omega) (.inl (by show 1 < f.lo; omega)) _
  refine (hput _ (f := ANG.STATUS_CHAIN_HOLD) (by decide)).trans ?_
  rw [hput _ (by decide), hput _ (by decide)]
  exact State.bit_putB_same s pANG ANG.STATUS_LOCKED rfl (by decide) false

theorem State.angHalt_holdover (s : State) : s.angHalt.bit pANG ANG.STATUS_HOLDOVER = false := by
  have hput (t : State) {f : Fld} (hf : f.lo = f.hi ∧ 2 < f.lo ∧ f.hi < 40) :
      (t.putB pANG f false).bit pANG ANG.STATUS_HOLDOVER = t.bit pANG ANG.STATUS_HOLDOVER :=
    State.bit_put_bits t (by omega) (by omega) (.inl (by show 2 < f.lo; omega)) _
  refine (hput _ (f := ANG.STATUS_CHAIN_HOLD) (by decide)).trans ?_
  rw [hput _ (by decide)]
  exact State.bit_putB_same _ pANG ANG.STATUS_HOLDOVER rfl (by decide) false

theorem angDisable_does {s : State} (h : s.enabled pANG = true) :
    Does .angDisable s fun u => u.ang.running = false ∧ u.ang.starting = false ∧ u.cmps = [] ∧
      u.bit pANG ANG.STATUS_LOCKED = false ∧ u.bit pANG ANG.STATUS_HOLDOVER = false := by
  obtain ⟨t, ht⟩ := effAngDisable_halts h
  have hkept : AngPage [] t.angHalt (t.angHalt.number .host) :=
    (AngPage.refl [] _).only (State.number_only (K := noKeys) _ .host) fun _ _ => rfl
  refine does_of (exec_angDisable s) ?_
  rw [ht, State.number_ang]
  refine ⟨rfl, rfl, (State.numberAs_cmps ..).trans t.angHalt_cmps, ?_, ?_⟩
  · exact (hkept.bit (by decide) (by decide) (by decide)).trans t.angHalt_locked
  · exact (hkept.bit (by decide) (by decide) (by decide)).trans t.angHalt_holdover

/-- Settles O1: what an enable takes is set before comparators follow, which reach neither ENABLE nor the counters
(`State.angComparators_keeps`); a refusal records its code only; a disable ends with the halt of the angle, whatever it has dropped. -/
theorem angEnableDisable : Obligations.AngEnableDisable :=
  ⟨fun _ h hr => angEnable_does h hr, fun _ h hr => angEnable_refused_does h hr, fun _ h => angDisable_does h⟩

end Sys2Proof.Machine
end

section
/-! SUPPORT. Cycle boundaries, the edge loop and VPERIOD: what reaches RATE and the angle (R41, R45, R48–R52). -/

namespace Sys2Proof.Machine
open Sys2Proof

theorem exec_cycleBoundary (s : State) : exec .cycleBoundary s = .next (s.finish (effCycleBoundary s)) := rfl

theorem exec_virtualCycleEnd (s : State) : exec .virtualCycleEnd s = .next (s.finish (effVirtualCycleEnd s)) := rfl

theorem exec_syncInEdge (s : State) : exec .syncInEdge s = .next (s.finish (effSyncInEdge s)) := rfl

theorem exec_edgeWindowClose (s : State) : exec .edgeWindowClose s = .next (s.finish (effEdgeWindowClose s)) := rfl

theorem exec_vperiodWrite (v : Nat) (s : State) : exec (.vperiodWrite v) s = .next (s.finish (effVperiodWrite v s)) := rfl

theorem AngPage.window {l : List Nat} {s t u : State} (h : AngPage l s t) (g : Only noKeys t u) : AngPage l s u := h.only g fun _ _ => rfl

theorem AngPage.cells {l : List Nat} {s t u : State} (h : AngPage l s t) (g : OnlyMch t u) : AngPage l s u := h.of_regs g.regs

theorem State.get_put_rate (s : State) (r : Nat) : (s.put pANG ANG.RATE_RATE r).get pANG ANG.RATE_RATE = r % 2 ^ 40 :=
  State.get_put_same s pANG ANG.RATE_RATE (by decide) (by decide) r

/-! ## Boundaries (R41, R45) -/

/-- What every boundary does beyond the rate reaches of ANG's registers FLAG, ERR_COUNT and HOLD, and of the angle the configuration
taken (R47). -/
theorem State.boundaryCommon_keeps (s : State) :
    AngPage [0x1A] s s.boundaryCommon ∧ s.boundaryCommon.ang = s.takeBoundaryCfg.ang := by
  have hwindow (t : State) (b : Bool) : Only noKeys t (t.when b State.armWindow) := by
    unfold State.when; split
    · exact Only.armWindow t
    · exact Only.refl ..
  have hcfg : AngPage [0x1A] s s.takeBoundaryCfg := (AngPage.refl _ s).of_regs rfl
  unfold State.boundaryCommon; extract_lets s1 s2 s3
  have h2 : Only noKeys s1 s2 := hwindow ..
  have h3 : AngPage [0x1A] s s3 := (hcfg.window h2).when _ ((AngPage.refl _ s2).inc (by decide))
  have hang3 : s3.ang = s2.ang := by unfold s3 State.when; split <;> rfl
  have hcells := s3.headCells_onlyMch
  exact ⟨(h3.cells hcells).present 8 0, by rw [State.present_ang, hcells.ang, hang3, h2.ang]⟩

theorem State.boundaryCommon_rate (s : State) : s.boundaryCommon.get pANG ANG.RATE_RATE = s.get pANG ANG.RATE_RATE :=
  s.boundaryCommon_keeps.1.get (by decide) (by decide) (by decide)

/-- The rate `r` taken at a boundary, as `effCycleBoundary` has it (R41). -/
def State.rateTaken (s : State) (r : Nat) : State :=
  ((({ s with mch := { s.mch with rateHold := 0 } } : State).put pANG ANG.RATE_RATE r).withAng fun g =>
    { g with base := r, deferred := none, rateOld := s.rate, rateAt := g.clk })

/-- A boundary that is neither virtual nor a follower's and holds no rate back. -/
theorem effCycleBoundary_takes {s : State} (hrun : s.ang.running = true) (h1 : s.ang.src ≠ 1) (h2 : s.ang.src ≠ 2)
    (hheld : s.rateHeld (s.boundaryRate (s.angle / 2 ^ 32)) = false) :
    ∃ l, effCycleBoundary s =
      ((s.rateTaken (s.boundaryRate (s.angle / 2 ^ 32))).withAng fun g => { g with rates := l }).boundaryCommon := by
  unfold effCycleBoundary
  rw [if_pos (by simp [hrun, h1])]
  extract_lets cyc r r' old m s0 s1 s2 next rn s3
  have hr : r' = r := by simp [r', h2]
  have hcond : ¬ s.rateHeld r = true := by simpa [r, cyc] using hheld
  have h1 : s1 = s.rateTaken r := by unfold s1; rw [if_neg hcond, hr]; rfl
  clear_value s1
  subst h1
  unfold s3 State.when
  split
  · exact ⟨_, rfl⟩
  · exact ⟨_, rfl⟩

theorem cycleBoundary_does {s : State} (hrun : s.ang.running = true) (h1 : s.ang.src ≠ 1) (h2 : s.ang.src ≠ 2)
    (hheld : s.rateHeld (s.boundaryRate (s.angle / 2 ^ 32)) = false) :
    Does .cycleBoundary s fun u => u.get pANG ANG.RATE_RATE = s.boundaryRate (s.angle / 2 ^ 32) % 2 ^ 40 ∧ u.ang.acc = s.ang.acc := by
  obtain ⟨l, he⟩ := effCycleBoundary_takes hrun h1 h2 hheld
  refine does_of (exec_cycleBoundary s) ?_
  rw [he, State.boundaryCommon_rate, (State.boundaryCommon_keeps _).2]
  exact ⟨State.get_put_rate _ _, rfl⟩

/-- A virtual cycle's end that holds no rate back, as `effVirtualCycleEnd` has it before comparators count and the boundary follows: the
angle at the boundary, the period `p` in force (R45). -/
def State.periodTaken (s : State) (p : Nat) : State :=
  let t := (s.setAcc (s.ang.acc + s.ang.toBoundary)).withAng fun g => { g with vcount := 0 }
  (({ t with mch := { t.mch with rateHold := 0 } } : State).put pANG ANG.RATE_RATE (rateOf p)).withAng fun g =>
    { g with period := p, periodNext := none, deferred := none }

theorem effVirtualCycleEnd_takes {s : State} (hrun : s.ang.running = true) (h1 : s.ang.src = 1)
    (hheld : s.rateHeld (rateOf (s.ang.periodNext.getD s.ang.period)) = false) :
    effVirtualCycleEnd s =
      ((s.periodTaken (s.ang.periodNext.getD s.ang.period)).countDown s.ang.toBoundary).boundaryCommon := by
  unfold effVirtualCycleEnd
  rw [if_pos (by simp [hrun, h1])]
  extract_lets d s1 p s2 m s0 s3
  have hcond : ¬ s2.rateHeld (rateOf p) = true := by rw [show s2.rateHeld (rateOf p) = false from hheld]; simp
  unfold s3
  rw [if_neg hcond]
  rfl

theorem virtualCycleEnd_does {s : State} (hrun : s.ang.running = true) (h1 : s.ang.src = 1)
    (hheld : s.rateHeld (rateOf (s.ang.periodNext.getD s.ang.period)) = false) :
    Does .virtualCycleEnd s fun u => u.get pANG ANG.RATE_RATE = rateOf (s.ang.periodNext.getD s.ang.period) % 2 ^ 40 ∧
      u.ang.period = s.ang.periodNext.getD s.ang.period ∧ u.ang.periodNext = none ∧ u.ang.acc % 2 ^ 48 = 0 := by
  generalize hp : s.ang.periodNext.getD s.ang.period = p at *
  have hcount := (s.periodTaken p).countDown_only s.ang.toBoundary
  have hboundary : (s.ang.acc + s.ang.toBoundary) % 2 ^ 56 % 2 ^ 48 = 0 := by unfold Ang.toBoundary; omega
  refine does_of (exec_virtualCycleEnd s) ?_
  rw [effVirtualCycleEnd_takes hrun h1 (by rw [hp]; exact hheld), hp, State.boundaryCommon_rate, (State.boundaryCommon_keeps _).2]
  generalize hu : (s.periodTaken p).countDown s.ang.toBoundary = u at *
  have hang : u.ang = (s.periodTaken p).ang := hcount.ang
  have hcfg : u.takeBoundaryCfg.ang.period = u.ang.period ∧ u.takeBoundaryCfg.ang.periodNext = u.ang.periodNext ∧
      u.takeBoundaryCfg.ang.acc = u.ang.acc := ⟨rfl, rfl, rfl⟩
  rw [hcfg.1, hcfg.2.1, hcfg.2.2, hang]
  refine ⟨?_, rfl, rfl, hboundary⟩
  exact (hcount.get (by decide) (by decide) rfl).trans (State.get_put_rate _ _)

/-! ## Edges (R48–R51) -/

/-- Whether the angle runs, and where it stands. -/
def State.course (s : State) : Bool × Nat := (s.ang.running, s.ang.acc)

theorem running_of_course {s t : State} (h : t.course = s.course) : t.ang.running = s.ang.running := congrArg Prod.fst h

theorem acc_of_course {s t : State} (h : t.course = s.course) : t.ang.acc = s.ang.acc := congrArg Prod.snd h

/-- A prediction moved on and the close of its window armed change nothing else of the angle. -/
theorem State.armWindow_after (s : State) (p : Ang → Nat) :
    AngPage [] s (s.withAng fun g => { g with pred := p g }).armWindow ∧
      (s.withAng fun g => { g with pred := p g }).armWindow.course = s.course ∧
      (s.withAng fun g => { g with pred := p g }).armWindow.ang.closed = s.ang.closed := by
  have h := Only.armWindow (s.withAng fun g => { g with pred := p g })
  have hpage := (AngPage.refl [] s).of_regs (s.withAng_regs fun g => { g with pred := p g })
  exact ⟨hpage.window h, by unfold State.course; rw [h.ang]; rfl, by rw [h.ang]; rfl⟩

theorem State.nextWindow_keeps (s : State) : AngPage [] s s.nextWindow ∧ s.nextWindow.course = s.course ∧
    s.nextWindow.ang.closed = s.ang.closed := s.armWindow_after _

theorem State.rejectEdge_keeps (s : State) (range : Bool) (code : Nat) :
    AngPage [4, 8, 0x19] s (s.rejectEdge range code) ∧ (s.rejectEdge range code).course = s.course := by
  unfold State.rejectEdge; extract_lets s1 s2 s3 s4
  have h2 : AngPage [4, 8, 0x19] s s2 :=
    (((AngPage.refl _ s).inc (by decide)).flag (by decide)).when _ ((AngPage.refl _ _).flag (by decide))
  have hang2 : s2.ang = s.ang := by unfold s2 State.when; split <;> rfl
  have hang4 : s4.ang = s.ang := by unfold s4 s3; rw [State.present_ang, State.recordErr_ang, hang2]
  refine ⟨((h2.recordErr (by decide) code).present 11 0).of_regs rfl, ?_⟩
  show (s4.ang.running, s4.ang.acc) = s.course
  rw [hang4]; rfl

theorem State.lockAngle_keeps (s : State) : AngPage [2, 4] s s.lockAngle ∧ s.lockAngle.ang = s.ang := by
  unfold State.lockAngle
  exact ⟨((((AngPage.refl _ s).putB (by decide) _).putB (by decide) _).flag (by decide)).present 9 0, State.present_ang ..⟩

theorem State.lockTest_keeps (s : State) (e : Int) : AngPage [2, 4] s (s.lockTest e) ∧ (s.lockTest e).course = s.course := by
  unfold State.lockTest; extract_lets s1
  have h1 : AngPage [2, 4] s s1 := (AngPage.refl _ s).of_regs rfl
  split
  · exact ⟨h1.putB (by decide) _, rfl⟩
  · split
    · obtain ⟨hpage, hang⟩ := s1.lockAngle_keeps
      exact ⟨h1.trans hpage, by unfold State.course; rw [hang]; rfl⟩
    · exact ⟨h1, rfl⟩

/-- An accepted edge after the first reaches of ANG's registers STATUS, FLAG, PERIOD and EDGE (R50, R51). -/
theorem State.acceptEdge_keeps (s : State) (e : Int) (t n cyc : Nat) :
    AngPage [2, 4, 0x17, 0x18] s (s.acceptEdge e t n cyc) ∧ (s.acceptEdge e t n cyc).course = s.course := by
  have hend (u : State) : AngPage [2, 4, 0x17, 0x18] u (u.lockTest e).nextWindow ∧ (u.lockTest e).nextWindow.course = u.course := by
    obtain ⟨hlock, hcourse⟩ := u.lockTest_keeps e
    obtain ⟨hnext, hcourse', -⟩ := (u.lockTest e).nextWindow_keeps
    exact ⟨(hlock.mono (by decide)).trans (hnext.mono (by decide)), hcourse'.trans hcourse⟩
  unfold State.acceptEdge; extract_lets hold s1 s2 s3 per s4 s5 s6
  have h4 : AngPage [2, 4, 0x17, 0x18] s s4 :=
    ((((AngPage.refl _ s).of_regs rfl).put (by decide) _).put (by decide) _).put (by decide) _
  have hcourse4 : s4.course = s.course := rfl
  split
  · split
    · exact ⟨(h4.of_regs (State.withAng_regs ..)).trans (hend _).1, (hend _).2.trans hcourse4⟩
    · exact ⟨h4.trans (hend s4).1, (hend s4).2.trans hcourse4⟩
  · have h5 : AngPage [2, 4, 0x17, 0x18] s s5 := h4.when _ (((AngPage.refl _ s4).putB (by decide) _).putB (by decide) _)
    have hcourse5 : s5.course = s.course := by unfold s5 State.when; split <;> exact hcourse4
    have h6 : s6.regs = s5.regs ∧ s6.course = s5.course := ⟨rfl, rfl⟩
    exact ⟨(h5.of_regs h6.1).trans (hend s6).1, (hend s6).2.trans (h6.2.trans hcourse5)⟩

/-- An edge on a running angle is rejected or accepted. -/
theorem effSyncInEdge_running {s : State} (hen : s.enabled pANG = true) (h0 : s.ang.src = 0) (hrun : s.ang.running = true) :
    (∃ range code, effSyncInEdge s = s.rejectEdge range code) ∨ ∃ e t n cyc, effSyncInEdge s = s.acceptEdge e t n cyc := by
  unfold effSyncInEdge
  rw [if_pos (by simp [hen, h0]), if_neg (by simp [hrun])]
  dsimp only
  split
  · exact .inl ⟨_, _, rfl⟩
  · split
    · exact .inl ⟨_, _, rfl⟩
    · exact .inr ⟨_, _, _, _, rfl⟩

theorem syncInEdge_running_does {s : State} (hen : s.enabled pANG = true) (h0 : s.ang.src = 0) (hrun : s.ang.running = true) :
    Does .syncInEdge s fun u => u.get pANG ANG.RATE_RATE = s.get pANG ANG.RATE_RATE ∧ u.ang.running = true ∧ u.ang.acc = s.ang.acc := by
  have hkeeps {l : List Nat} {u : State} (hl : 0x16 ∉ l) (h : AngPage l s u ∧ u.course = s.course) :
      u.get pANG ANG.RATE_RATE = s.get pANG ANG.RATE_RATE ∧ u.ang.running = true ∧ u.ang.acc = s.ang.acc := by
    obtain ⟨hpage, hcourse⟩ := h
    exact ⟨hpage.get (by decide) (by decide) hl, (running_of_course hcourse).trans hrun, acc_of_course hcourse⟩
  refine does_of (exec_syncInEdge s) ?_
  rcases effSyncInEdge_running hen h0 hrun with ⟨range, code, he⟩ | ⟨e, t, n, cyc, he⟩
  · rw [he]; exact hkeeps (by decide) (s.rejectEdge_keeps range code)
  · rw [he]; exact hkeeps (by decide) (s.acceptEdge_keeps e t n cyc)

/-- The angle starts at the rate given; comparators that waited are tested (R48, R56). -/
theorem State.startAngle_starts (s : State) (acc rate : Nat) :
    (s.startAngle acc rate).get pANG ANG.RATE_RATE = rate % 2 ^ 40 ∧ (s.startAngle acc rate).ang.running = true := by
  unfold State.startAngle; extract_lets s1 s2 s3
  have h := s3.wakeCmps_only
  exact ⟨(h.get (by decide) (by decide) (by decide)).trans (State.get_put_rate s2 rate), by rw [h.ang]; rfl⟩

/-- What the first edge leaves of the loop on a started angle: the cycle `c` and error 0 (R48). -/
def State.edgeShown (s : State) (freq edgeAt pred c : Nat) : State :=
  let s := s.withAng fun g => { g with freq := freq, edgeAt := edgeAt, pred := pred, edges := 1, closed := 0, missRun := 0, lockRun := 1 }
  (s.put pANG ANG.EDGE_CYCLE c).put pANG ANG.EDGE_ERROR 0

theorem State.edgeShown_keeps (s : State) (freq edgeAt pred c : Nat) :
    AngPage [0x18] s (s.edgeShown freq edgeAt pred c) ∧ (s.edgeShown freq edgeAt pred c).course = s.course :=
  ⟨(((AngPage.refl _ s).of_regs (s.withAng_regs _)).put (by decide) _).put (by decide) _, rfl⟩

theorem State.edgeShown_error (s : State) (freq edgeAt pred c : Nat) : (s.edgeShown freq edgeAt pred c).get pANG ANG.EDGE_ERROR = 0 :=
  State.get_put_same _ pANG ANG.EDGE_ERROR (by decide) (by decide) 0

theorem State.firstEdge_shows (s : State) : ∃ acc freq edgeAt pred c,
    s.firstEdge = ((s.startAngle acc (rateOf s.ang.period)).edgeShown freq edgeAt pred c).nextWindow := by
  unfold State.firstEdge; extract_lets r stamp adv at0
  unfold State.edgeShown; dsimp only
  exact ⟨_, _, _, _, _, rfl⟩

theorem effSyncInEdge_first {s : State} (hen : s.enabled pANG = true) (h0 : s.ang.src = 0) (hrun : s.ang.running = false) :
    effSyncInEdge s = s.firstEdge := (if_pos (by simp [hen, h0])).trans (if_pos (by simp [hrun]))

theorem syncInEdge_first_does {s : State} (hen : s.enabled pANG = true) (h0 : s.ang.src = 0) (hrun : s.ang.running = false) :
    Does .syncInEdge s fun u => u.get pANG ANG.RATE_RATE = rateOf s.ang.period % 2 ^ 40 ∧ u.ang.running = true ∧
      u.get pANG ANG.EDGE_ERROR = 0 := by
  obtain ⟨acc, freq, edgeAt, pred, c, he⟩ := s.firstEdge_shows
  obtain ⟨hrate, hruns⟩ := s.startAngle_starts acc (rateOf s.ang.period)
  obtain ⟨hshown, hcourse⟩ := (s.startAngle acc (rateOf s.ang.period)).edgeShown_keeps freq edgeAt pred c
  obtain ⟨hnext, hcourse', -⟩ := ((s.startAngle acc (rateOf s.ang.period)).edgeShown freq edgeAt pred c).nextWindow_keeps
  refine does_of (exec_syncInEdge s) ?_
  rw [effSyncInEdge_first hen h0 hrun, he]
  refine ⟨?_, (running_of_course (hcourse'.trans hcourse)).trans hruns, ?_⟩
  · exact (hnext.get (by decide) (by decide) (by decide)).trans ((hshown.get (by decide) (by decide) (by decide)).trans hrate)
  · exact (hnext.get (by decide) (by decide) (by decide)).trans (State.edgeShown_error ..)

/-! ## A window that closes without an edge (R49, R52) -/

/-- The miss counted, as `effEdgeWindowClose` has it. -/
def State.missCounted (s : State) : State :=
  ((s.inc pANG ANG.COUNT_MISSED).recordErr pANG 2).withAng fun g =>
    { g with closed := g.closed + 1, missRun := g.missRun + 1, accRun := 0, lockRun := 0 }

/-- The test for holdover after a miss. -/
def State.holdoverTest (s : State) : State :=
  s.when (decide (orDefault 1 s.ang.missLimit ≤ s.ang.missRun) && !s.bit pANG ANG.STATUS_HOLDOVER) State.enterHoldover

theorem effEdgeWindowClose_misses {s : State} (hen : s.enabled pANG = true) (h0 : s.ang.src = 0) (hrun : s.ang.running = true) :
    effEdgeWindowClose s = s.missCounted.holdoverTest.nextWindow := by
  unfold effEdgeWindowClose
  rw [if_pos (by simp [hen, h0, hrun])]
  rfl

theorem State.missCounted_page (s : State) : AngPage [8, 0x19] s s.missCounted :=
  (((AngPage.refl _ s).inc (by decide)).recordErr (by decide) 2).of_regs rfl

theorem State.missCounted_ang (s : State) :
    s.missCounted.ang = { s.ang with closed := s.ang.closed + 1, missRun := s.ang.missRun + 1, accRun := 0, lockRun := 0 } := by
  show ({ (State.recordErr _ _ _).ang with closed := _, missRun := _, accRun := _, lockRun := _ } : Ang) = _
  rw [State.recordErr_ang]; rfl

theorem State.missCounted_count (s : State) :
    s.missCounted.get pANG ANG.COUNT_MISSED = satInc 65535 (s.get pANG ANG.COUNT_MISSED) := by
  have h : AngPage [8] (s.inc pANG ANG.COUNT_MISSED) s.missCounted := ((AngPage.refl _ _).recordErr (by decide) 2).of_regs rfl
  exact (h.get (by decide) (by decide) (by decide)).trans (State.get_inc_same s pANG ANG.COUNT_MISSED (by decide) (by decide))

/-- STATUS and the count of cycles as holdover begins, before its flag and event (R52). -/
def State.holdoverStatus (s : State) : State :=
  ((s.putB pANG ANG.STATUS_HOLDOVER true).putB pANG ANG.STATUS_LOCKED false).put pANG ANG.HOLD_CYCLES 0

theorem State.holdoverStatus_reads (s : State) : s.holdoverStatus.bit pANG ANG.STATUS_HOLDOVER = true ∧
    s.holdoverStatus.bit pANG ANG.STATUS_LOCKED = false ∧ s.holdoverStatus.get pANG ANG.HOLD_CYCLES = 0 := by
  have hcycles (t : State) {g : Fld} (hg : pANG * 256 + g.off ≠ pANG * 256 + ANG.HOLD_CYCLES.off) :
      (t.put pANG ANG.HOLD_CYCLES 0).bit pANG g = t.bit pANG g := by unfold State.bit; rw [State.get_put_reg t hg]
  unfold State.holdoverStatus
  rw [hcycles _ (by decide), hcycles _ (by decide)]
  refine ⟨?_, State.bit_putB_same _ pANG ANG.STATUS_LOCKED rfl (by decide) false,
    State.get_put_same _ pANG ANG.HOLD_CYCLES (by decide) (by decide) 0⟩
  exact (State.bit_put_bits _ (by decide) (by decide) (.inr (by decide)) _).trans
    (State.bit_putB_same s pANG ANG.STATUS_HOLDOVER rfl (by decide) true)

/-- Holdover begins: STATUS and HOLD, its flag, and beside them no register of ANG (R52). -/
theorem State.enterHoldover_keeps (s : State) :
    AngPage [4] s.holdoverStatus s.enterHoldover ∧ s.enterHoldover.bit pANG ANG.FLAG_HOLDOVER = true ∧
      s.enterHoldover.ang.closed = s.ang.closed := by
  unfold State.enterHoldover; extract_lets s1 s2 s3 s4
  have h4 : AngPage [4] s.holdoverStatus s4 := (AngPage.refl _ _).of_regs rfl
  have hsend := State.resendRate_onlyMch ((s4.flag pANG ANG.FLAG_HOLDOVER).present 10 0)
  have hafter : AngPage [] (s4.flag pANG ANG.FLAG_HOLDOVER) ((s4.flag pANG ANG.FLAG_HOLDOVER).present 10 0).resendRate :=
    ((AngPage.refl _ _).present 10 0).cells hsend
  refine ⟨((h4.flag (by decide)).present 10 0).cells hsend, ?_, ?_⟩
  · exact (hafter.bit (by decide) (by decide) (by decide)).trans (State.bit_flag_same s4 pANG ANG.FLAG_HOLDOVER rfl (by decide))
  · rw [hsend.ang, State.present_ang]; rfl

theorem State.holdoverStatus_page (s : State) : AngPage [2, 0x1A] s s.holdoverStatus :=
  (((AngPage.refl _ s).putB (by decide) _).putB (by decide) _).put (by decide) _

theorem State.holdoverTest_keeps (s : State) :
    AngPage [2, 4, 0x1A] s s.holdoverTest ∧ s.holdoverTest.ang.closed = s.ang.closed := by
  obtain ⟨hpage, -, hclosed⟩ := s.enterHoldover_keeps
  unfold State.holdoverTest State.when
  split
  · exact ⟨(s.holdoverStatus_page.mono (by decide)).trans (hpage.mono (by decide)), hclosed⟩
  · exact ⟨AngPage.refl _ s, rfl⟩

/-- A window that closes leaves RATE as it is. -/
theorem edgeWindowClose_rate (s : State) :
    s.missCounted.holdoverTest.nextWindow.get pANG ANG.RATE_RATE = s.get pANG ANG.RATE_RATE := by
  have h : AngPage [2, 4, 8, 0x19, 0x1A] s s.missCounted.holdoverTest.nextWindow :=
    ((s.missCounted_page.mono (by decide)).trans (s.missCounted.holdoverTest_keeps.1.mono (by decide))).trans
      ((State.nextWindow_keeps _).1.mono (by decide))
  exact h.get (by decide) (by decide) (by decide)

theorem edgeWindowClose_does {s : State} (hen : s.enabled pANG = true) (h0 : s.ang.src = 0) (hrun : s.ang.running = true) :
    Does .edgeWindowClose s fun u => u.get pANG ANG.COUNT_MISSED = satInc 65535 (s.get pANG ANG.COUNT_MISSED) ∧
      u.ang.closed = s.ang.closed + 1 ∧ u.get pANG ANG.RATE_RATE = s.get pANG ANG.RATE_RATE := by
  obtain ⟨htest, hclosed⟩ := s.missCounted.holdoverTest_keeps
  obtain ⟨hnext, -, hclosed'⟩ := s.missCounted.holdoverTest.nextWindow_keeps
  have h := htest.trans (hnext.mono (by decide))
  refine does_of (exec_edgeWindowClose s) ?_
  rw [effEdgeWindowClose_misses hen h0 hrun]
  refine ⟨?_, ?_, edgeWindowClose_rate s⟩
  · exact (h.get (by decide) (by decide) (by decide)).trans s.missCounted_count
  · rw [hclosed', hclosed, s.missCounted_ang]

theorem edgeWindowClose_holdover_does {s : State} (hen : s.enabled pANG = true) (h0 : s.ang.src = 0) (hrun : s.ang.running = true)
    (hhold : s.bit pANG ANG.STATUS_HOLDOVER = false) (hlimit : orDefault 1 s.ang.missLimit ≤ s.ang.missRun + 1) :
    Does .edgeWindowClose s fun u => u.bit pANG ANG.STATUS_HOLDOVER = true ∧ u.bit pANG ANG.STATUS_LOCKED = false ∧
      u.bit pANG ANG.FLAG_HOLDOVER = true ∧ u.get pANG ANG.HOLD_CYCLES = 0 ∧ u.get pANG ANG.RATE_RATE = s.get pANG ANG.RATE_RATE := by
  have hno : s.missCounted.bit pANG ANG.STATUS_HOLDOVER = false :=
    (s.missCounted_page.bit (by decide) (by decide) (by decide)).trans hhold
  have henters : s.missCounted.holdoverTest = s.missCounted.enterHoldover := by
    unfold State.holdoverTest; rw [s.missCounted_ang, hno]; simp [State.when, hlimit]
  obtain ⟨hlocked, hflag, -⟩ := s.missCounted.enterHoldover_keeps
  obtain ⟨hnext, -, -⟩ := s.missCounted.enterHoldover.nextWindow_keeps
  obtain ⟨hholds, hunlocked, hcycles⟩ := s.missCounted.holdoverStatus_reads
  have h := hlocked.trans (hnext.mono (by decide))
  have hrate := edgeWindowClose_rate s
  refine does_of (exec_edgeWindowClose s) ?_
  rw [effEdgeWindowClose_misses hen h0 hrun]
  rw [henters] at hrate ⊢
  refine ⟨?_, ?_, ?_, ?_, hrate⟩
  · exact (h.bit (by decide) (by decide) (by decide)).trans hholds
  · exact (h.bit (by decide) (by decide) (by decide)).trans hunlocked
  · exact (hnext.bit (by decide) (by decide) (by decide)).trans hflag
  · exact (h.get (by decide) (by decide) (by decide)).trans hcycles

/-! ## VPERIOD (R45) -/

/-- A write under access codes reaches the register written. -/
theorem State.writeFields_keeps (s : State) (o : Nat) (ho : o ≠ 6) (v : Word) :
    AngPage [o] s (s.writeFields pANG o v) ∧ (s.writeFields pANG o v).ang = s.ang := by
  have hset (w : Word) : AngPage [o] s (s.setReg pANG o w) :=
    fun o' _ _ hl => State.reg_setReg_ne s (by have : o' ≠ o := fun e => hl (by simp [e]); omega) w
  unfold State.writeFields
  split
  · exact ⟨AngPage.refl _ s, rfl⟩
  · rw [if_neg ho]; dsimp only
    split
    · exact ⟨(hset _).of_regs rfl, rfl⟩
    · exact ⟨(hset _).of_regs rfl, rfl⟩

theorem vperiodWrite_inRange_does {s : State} (v : Nat) (hlock : s.locked pANG = false) (hen : s.enabled pANG = true)
    (h1 : s.ang.src = 1) (hp : periodOk ((s.writeFields pANG 0x13 (word v)).get pANG ANG.VPERIOD_PERIOD) = true) :
    Does (.vperiodWrite v) s fun u => u.ang.periodNext = some ((s.writeFields pANG 0x13 (word v)).get pANG ANG.VPERIOD_PERIOD) ∧
      u.ang.period = s.ang.period ∧ u.get pANG ANG.RATE_RATE = s.get pANG ANG.RATE_RATE := by
  obtain ⟨hpage, hang⟩ := s.writeFields_keeps 0x13 (by decide) (word v)
  have hen' : (s.writeFields pANG 0x13 (word v)).enabled pANG = true := (hpage.bit (by decide) (by decide) (by decide)).trans hen
  refine does_of (exec_vperiodWrite v s) ?_
  unfold effVperiodWrite; dsimp only
  rw [if_pos (by simp [hlock, hen', hang, h1]), if_pos hp]
  generalize s.writeFields pANG 0x13 (word v) = w at *
  have hsend := State.resendRate_onlyMch (w.withAng fun g => { g with periodNext := some (w.get pANG ANG.VPERIOD_PERIOD) })
  rw [hsend.ang, hsend.get]
  exact ⟨rfl, (congrArg Ang.period hang :), hpage.get (by decide) (by decide) (by decide)⟩

theorem vperiodWrite_outOfRange_does {s : State} (v : Nat) (hlock : s.locked pANG = false) (hen : s.enabled pANG = true)
    (h1 : s.ang.src = 1) (hp : periodOk ((s.writeFields pANG 0x13 (word v)).get pANG ANG.VPERIOD_PERIOD) = false) :
    Does (.vperiodWrite v) s fun u => u.ang.periodNext = s.ang.periodNext ∧ u.ang.period = s.ang.period ∧
      u.get pANG COM.LAST_ERR_CODE = 5 := by
  obtain ⟨hpage, hang⟩ := s.writeFields_keeps 0x13 (by decide) (word v)
  have hen' : (s.writeFields pANG 0x13 (word v)).enabled pANG = true := (hpage.bit (by decide) (by decide) (by decide)).trans hen
  refine does_of (exec_vperiodWrite v s) ?_
  unfold effVperiodWrite; dsimp only
  rw [if_pos (by simp [hlock, hen', hang, h1]), if_neg (by simp [hp]), State.recordErr_ang, hang]
  exact ⟨rfl, rfl, State.get_recordErr_code _ pANG 5⟩

/-- Settles O2: RATE is stored by a boundary and by the start of the angle only; what else edges, misses and boundaries store lies in
other registers of ANG (`AngPage`), and a write of VPERIOD waits beside the period in force. -/
theorem angBoundariesAndPeriod : Obligations.AngBoundariesAndPeriod :=
  ⟨fun _ hrun h1 h2 hheld => cycleBoundary_does hrun h1 h2 hheld,
   fun _ hrun h1 hheld => virtualCycleEnd_does hrun h1 hheld,
   fun _ hen h0 hrun => syncInEdge_running_does hen h0 hrun,
   fun _ hen h0 hrun => syncInEdge_first_does hen h0 hrun,
   fun _ hen h0 hrun => edgeWindowClose_does hen h0 hrun,
   fun _ hen h0 hrun hhold hlimit => edgeWindowClose_holdover_does hen h0 hrun hhold hlimit,
   fun _ v hlock hen h1 hp => vperiodWrite_inRange_does v hlock hen h1 hp,
   fun _ v hlock hen h1 hp => vperiodWrite_outOfRange_does v hlock hen h1 hp⟩

end Sys2Proof.Machine
end

section
/-! SUPPORT. ATUNE_RESULT of TXC0 through what happens at once: the shared operations. -/

namespace Sys2Proof.Machine
open Sys2Proof

/-- ATUNE_RESULT of TXC0 as stored; the key of the register is 4121. -/
def State.tuneResult (s : State) : Word := s.reg (pTXC 0) TXC.ATUNE_RESULT.off

theorem tuneResult_put_ne {p : Nat} {f : Fld} (h : p * 256 + f.off ≠ 4121) (s : State) (x : Nat) :
    (s.put p f x).tuneResult = s.tuneResult := State.reg_put_ne s (Ne.symm h) x

@[simp] theorem tuneResult_put_off {f : Fld} (h : f.off % 256 ≠ 25) (s : State) (p x : Nat) :
    (s.put p f x).tuneResult = s.tuneResult :=
  tuneResult_put_ne (by omega) s x

@[simp] theorem tuneResult_put_page {p : Nat} {f : Fld} (h : 4121 < p * 256) (s : State) (x : Nat) :
    (s.put p f x).tuneResult = s.tuneResult := tuneResult_put_ne (by omega) s x

@[simp] theorem tuneResult_putB (s : State) (p : Nat) (f : Fld) (b : Bool) :
    (s.putB p f b).tuneResult = (s.put p f (b2n b)).tuneResult := rfl

@[simp] theorem tuneResult_putBit (s : State) (p : Nat) (f : Fld) (i : Nat) (b : Bool) :
    (s.putBit p f i b).tuneResult = (s.put p ⟨f.off, f.lo + i, f.lo + i⟩ (b2n b)).tuneResult := rfl

@[simp] theorem tuneResult_inc (s : State) (p : Nat) (f : Fld) :
    (s.inc p f).tuneResult = (s.put p f (satInc (2 ^ (f.hi + 1 - f.lo) - 1) (s.get p f))).tuneResult := rfl

@[simp] theorem tuneResult_flag (s : State) (p : Nat) (f : Fld) (i : Nat) :
    (s.flag p f i).tuneResult = (s.putBit p f i true).tuneResult := rfl

theorem tuneResult_flag_off {f : Fld} (h : f.off % 256 ≠ 25) (s : State) (p i : Nat) : (s.flag p f i).tuneResult = s.tuneResult :=
  (tuneResult_flag s p f i).trans <| (tuneResult_putBit s p f i true).trans (tuneResult_put_off (f := ⟨f.off, f.lo + i, f.lo + i⟩) h s p _)

@[simp] theorem tuneResult_putHw_page {p : Nat} (h : 4121 < p * 256) (s : State) (f : Fld) (x : Nat) :
    (s.putHw p f x).tuneResult = s.tuneResult := by
  unfold State.putHw; split
  · rfl
  · exact tuneResult_put_page h s x

@[simp] theorem tuneResult_ite (c : Prop) [Decidable c] (x y : State) :
    (if c then x else y).tuneResult = if c then x.tuneResult else y.tuneResult := apply_ite _ c x y

@[simp] theorem tuneResult_when (s : State) (c : Bool) (f : State → State) :
    (s.when c f).tuneResult = if c then (f s).tuneResult else s.tuneResult := apply_ite _ _ _ _

@[simp] theorem tuneResult_forEach {α : Type} {f : State → α → State} (hf : ∀ t a, (f t a).tuneResult = t.tuneResult) (s : State)
    (l : List α) : (s.forEach l f).tuneResult = s.tuneResult :=
  State.forEach_inv (fun u => u.tuneResult = s.tuneResult) l f (fun t a _ h => (hf t a).trans h) s rfl

theorem tuneResult_only {K : Nat → Nat → Bool} {s t : State} (hk : K 16 25 = false) (h : Only K s t) : t.tuneResult = s.tuneResult :=
  h.reg (pTXC 0) 25 (by decide) (by decide) hk

@[simp] theorem tuneResult_numberAs (s : State) (r n : Nat) : (s.numberAs r n).2.tuneResult = s.tuneResult :=
  tuneResult_only (K := noKeys) rfl (State.numberAs_only s r n)

@[simp] theorem tuneResult_recordErr (s : State) (p c : Nat) : (s.recordErr p c).tuneResult = s.tuneResult :=
  tuneResult_only (K := fun _ o => o == 8) rfl (State.recordErr_only s p c (.inr rfl))

@[simp] theorem tuneResult_sched (s : State) (d : Nat) (c : Instr) : (s.sched d c).tuneResult = s.tuneResult := rfl
@[simp] theorem tuneResult_unsched (s : State) (c : Instr) : (s.unsched c).tuneResult = s.tuneResult := rfl
@[simp] theorem tuneResult_resched (s : State) (d : Nat) (c : Instr) : (s.resched d c).tuneResult = s.tuneResult := rfl
@[simp] theorem tuneResult_untimer (s : State) (t : Tm) : (s.untimer t).tuneResult = s.tuneResult := rfl
@[simp] theorem tuneResult_retimer (s : State) (d : Nat) (t : Tm) : (s.retimer d t).tuneResult = s.tuneResult := rfl
@[simp] theorem tuneResult_mirrorTake (s : State) (k : Nat) (m : Word) : (s.mirrorTake k m).tuneResult = s.tuneResult := rfl
@[simp] theorem tuneResult_withTx (s : State) (n : Nat) (f : Txc → Txc) : (s.withTx n f).tuneResult = s.tuneResult := rfl
@[simp] theorem tuneResult_withRx (s : State) (n : Nat) (f : Rxc → Rxc) : (s.withRx n f).tuneResult = s.tuneResult := rfl
@[simp] theorem tuneResult_withCtx (s : State) (n : Nat) (f : Ctx → Ctx) : (s.withCtx n f).tuneResult = s.tuneResult := rfl
@[simp] theorem tuneResult_withPwr (s : State) (f : Pwr → Pwr) : (s.withPwr f).tuneResult = s.tuneResult := rfl
@[simp] theorem tuneResult_withRail (s : State) (r : Nat) (f : Rail → Rail) : (s.withRail r f).tuneResult = s.tuneResult := rfl
@[simp] theorem tuneResult_withXmp (s : State) (f : Xmp → Xmp) : (s.withXmp f).tuneResult = s.tuneResult := rfl
@[simp] theorem tuneResult_withSco (s : State) (f : Sco → Sco) : (s.withSco f).tuneResult = s.tuneResult := rfl
@[simp] theorem tuneResult_withCal (s : State) (f : Cal → Cal) : (s.withCal f).tuneResult = s.tuneResult := rfl

/-! ## The status that ATUNE_RESULT shows -/

/-- ATUNE_RESULT of TXC0 shows an auto-tune ended with a status that has no code of its own (R127). -/
def State.tuneOther (s : State) : Prop := TXC.ATUNE_RESULT_STATUS.get s.tuneResult = 12

/-- `t` shows no such status unless `s` did. -/
def NoOther (s t : State) : Prop := t.tuneOther → s.tuneOther

variable {s t u : State}

theorem NoOther.of_eq (h : t.tuneResult = s.tuneResult) : NoOther s t := by unfold NoOther State.tuneOther; rw [h]; exact id

theorem NoOther.trans (h : NoOther s t) (g : NoOther t u) : NoOther s u := h ∘ g

theorem NoOther.keep (h : NoOther s t) (e : u.tuneResult = t.tuneResult) : NoOther s u := h.trans (.of_eq e)

theorem NoOther.when (b : Bool) {f : State → State} (h : NoOther s (f s)) : NoOther s (s.when b f) := by
  unfold State.when; split
  · exact h
  · exact id

theorem NoOther.forEach {α : Type} {f : State → α → State} (hf : ∀ t a, NoOther t (f t a)) (s : State) (l : List α) :
    NoOther s (s.forEach l f) :=
  State.forEach_inv (NoOther s) l f (fun t a _ h => h.trans (hf t a)) s id

/-- A status with a code of its own, put in ATUNE_RESULT of any page. -/
theorem noOther_putStatus (s : State) (p : Nat) {st : Nat} (h : tuneCode st % 2 ^ 4 ≠ 12) :
    NoOther s (s.put p TXC.ATUNE_RESULT_STATUS (tuneCode st)) := by
  by_cases hp : p = pTXC 0
  · subst hp
    intro ho
    exact absurd ((State.get_put_same s _ TXC.ATUNE_RESULT_STATUS (by decide) (by decide) _).symm.trans ho) h
  · have hne : p * 256 + TXC.ATUNE_RESULT_STATUS.off ≠ 4121 := by
      simp only [pTXC, TXC.ATUNE_RESULT_STATUS] at hp ⊢; omega
    exact .of_eq (tuneResult_put_ne hne s _)

theorem noOther_endMove (s : State) (c : Nat) {st : Nat} (h : tuneCode st % 2 ^ 4 ≠ 12) : NoOther s (s.endMove c st) := by
  have hshow (t : State) : NoOther t (t.tuneShow c st) := by
    unfold State.tuneShow; split
    · split
      · exact noOther_putStatus t _ h
      · exact id
    · exact id
  unfold State.endMove; split
  · exact id
  · split
    · exact id
    · exact ((NoOther.of_eq (tuneResult_numberAs ..)).trans (hshow _)).keep rfl

theorem noOther_endFor (s : State) (c : Option Nat) {st : Nat} (h : tuneCode st % 2 ^ 4 ≠ 12) : NoOther s (s.endFor c st) := by
  unfold State.endFor; split
  · exact noOther_endMove s _ h
  · exact id

end Sys2Proof.Machine
end

section
/-! SUPPORT. ATUNE_RESULT of TXC0 through Wing claims, taps, rails and chains. -/

namespace Sys2Proof.Machine
open Sys2Proof

@[simp] theorem tuneResult_releaseWing (s : State) (w : Nat) : (s.releaseWing w).tuneResult = s.tuneResult := by
  unfold State.releaseWing State.setOwner ownerFld; simp +decide [pCND_far]

@[simp] theorem tuneResult_rxPutHw (s : State) (n : Nat) (f : Fld) (x : Nat) : (s.rxPutHw n f x).tuneResult = s.tuneResult :=
  tuneResult_putHw_page (rxPage_far s n) s f x

@[simp] theorem tuneResult_selectTap (s : State) (n p : Nat) : (s.selectTap n p).tuneResult = s.tuneResult := by
  unfold State.selectTap; simp +decide

@[simp] theorem tuneResult_retap (s : State) (n : Nat) : (s.retap n).tuneResult = s.tuneResult := by
  unfold State.retap; split
  · rfl
  · split <;> simp

@[simp] theorem tuneResult_retapWing (s : State) (w : Nat) : (s.retapWing w).tuneResult = s.tuneResult := by
  unfold State.retapWing; simp

@[simp] theorem tuneResult_setField (s : State) (n st : Nat) : (s.setField n st).tuneResult = s.tuneResult :=
  tuneResult_put_off (by decide) ..

@[simp] theorem tuneResult_rampDown (s : State) (n st : Nat) : (s.rampDown n st).tuneResult = s.tuneResult := by
  unfold State.rampDown; simp

@[simp] theorem tuneResult_openSwitch (s : State) (n : Nat) : (s.openSwitch n).tuneResult = s.tuneResult := by
  unfold State.openSwitch; split <;> simp

@[simp] theorem tuneResult_setSwitch (s : State) (n p : Nat) : (s.setSwitch n p).tuneResult = s.tuneResult := by
  unfold State.setSwitch; simp +decide

@[simp] theorem tuneResult_addJob (s : State) (j : Job) : (s.addJob j).tuneResult = s.tuneResult := by
  have hserve (t : State) : t.serveJob.tuneResult = t.tuneResult := by unfold State.serveJob; split <;> simp
  unfold State.addJob; simp [hserve]

@[simp] theorem tuneResult_dropJobs (s : State) (r : Nat) : (s.dropJobs r).tuneResult = s.tuneResult := by
  unfold State.dropJobs; simp

/-- A rail asked for another voltage, its state and attempts shown on PWR's page. -/
theorem tuneResult_rail {r : Nat} (hr : r < 4) (s : State) (mv prio op : Nat) :
    (s.railUp r mv prio).tuneResult = s.tuneResult ∧ (s.railChange r mv op).tuneResult = s.tuneResult := by
  have hput (t : State) (x : Nat) : (t.put pPWR (PWR.RAIL_STAT_STATE r) x).tuneResult = t.tuneResult ∧
      (t.put pPWR (PWR.RAIL_STAT_TRIES r) x).tuneResult = t.tuneResult :=
    have h : pPWR * 256 + (0x1D + r) ≠ 4121 := by unfold pPWR; omega
    ⟨tuneResult_put_ne h t x, tuneResult_put_ne h t x⟩
  unfold State.railUp State.railChange; simp [hput]

theorem tuneResult_followRail (s : State) {r : Nat} (hr : r < 4) : (s.followRail r).tuneResult = s.tuneResult := by
  unfold State.followRail; split
  · rfl
  · dsimp only; split
    · split
      · exact (tuneResult_rail hr _ _ _ 0).1
      · split
        · rename_i t ht
          unfold State.raiseInUp at ht; split at ht
          · cases ht
          · cases ht; rfl
        · exact (tuneResult_rail hr _ _ 0 _).2
    · simp

@[simp] theorem tuneResult_followRails (s : State) : s.followRails.tuneResult = s.tuneResult :=
  (tuneResult_followRail _ (by decide)).trans (tuneResult_followRail s (by decide))

@[simp] theorem tuneResult_armNow (s : State) (n : Nat) : (s.armNow n).tuneResult = s.tuneResult := by
  unfold State.armNow; simp

@[simp] theorem tuneResult_takeHeld (s : State) (n : Nat) : (s.takeHeld n).tuneResult = s.tuneResult := by
  unfold State.takeHeld; split <;> simp

@[simp] theorem tuneResult_wakeChains (s : State) : s.wakeChains.tuneResult = s.tuneResult := by
  unfold State.wakeChains; simp

@[simp] theorem tuneResult_releaseTx8 (s : State) : s.releaseTx8.tuneResult = s.tuneResult := by
  have hact (t : State) (a b : Nat) : (t.moveAct a b).tuneResult = t.tuneResult := by unfold State.moveAct; simp +decide
  unfold State.releaseTx8; simp +decide [hact]

@[simp] theorem tuneResult_releaseRx16 (s : State) : s.releaseRx16.tuneResult = s.tuneResult := by
  unfold State.releaseRx16; simp +decide

/-- The end of an auto-tune, up to what the status records. -/
theorem tuneResult_tuneFaults (s : State) (pg st : Nat) :
    (if st = stLATE then (s.flag pg TXC.FLAG_LATE).recordErr pg 0x0A
      else if st = stFAIL then s.recordErr pg 0x0E
      else if st = stBAD_RAMP then s.recordErr pg 1 else s).tuneResult = s.tuneResult := by
  have hl : (s.flag pg TXC.FLAG_LATE).tuneResult = s.tuneResult := tuneResult_flag_off (by decide) ..
  simp only [tuneResult_ite, tuneResult_recordErr, hl, ite_self]

theorem noOther_tuneEnd (s : State) (n : Nat) {st : Nat} (h : tuneCode st % 2 ^ 4 ≠ 12) : NoOther s (s.tuneEnd n st) := by
  have hshow (pg : Nat) : NoOther s ((s.put pg TXC.ATUNE_RESULT_STATUS (tuneCode st)).flag pg TXC.FLAG_TUNE_DONE) :=
    (noOther_putStatus s pg h).keep (tuneResult_flag_off (by decide) ..)
  unfold State.tuneEnd; extract_lets t pg s1 s2 s3
  have h3 : NoOther s s3 := (hshow pg).keep ((tuneResult_untimer ..).trans (tuneResult_tuneFaults s1 pg st))
  clear_value s3 t
  exact ((h3.keep (tuneResult_withTx ..)).trans (noOther_endFor _ _ h)).keep (tuneResult_takeHeld ..)

theorem noOther_dropArmed (s : State) (n : Nat) {st : Nat} (h : tuneCode st % 2 ^ 4 ≠ 12) : NoOther s (s.dropArmed n st) := by
  unfold State.dropArmed; extract_lets t s1 s2 s3 s4 s5
  have h4 : s4.tuneResult = s.tuneResult := by unfold s4 s3 s2 s1; simp +decide
  have h5 : NoOther s4 s5 := by
    unfold s5; split
    · exact noOther_tuneEnd s4 n h
    · exact (NoOther.of_eq (tuneResult_withTx ..)).trans (noOther_endFor _ _ h)
  exact ((NoOther.of_eq h4).trans h5).keep (by simp)

/-- Without inventory Wings a cross-Board field-off cuts no round. -/
theorem noOther_fieldOffNow {s : State} (hi : s.inv.wings = []) (w hop : Nat) : NoOther s (s.fieldOffNow w hop) := by
  unfold State.fieldOffNow; rw [invCut_of_none hi]; dsimp only
  split_ifs
  · exact id
  · exact id
  · exact noOther_dropArmed s _ (by decide)
  · exact id
  · exact .of_eq (by simp)

end Sys2Proof.Machine
end

section
/-! SUPPORT. ATUNE_RESULT of TXC0 through flash, Scoresheet, calibration, power modes and the report queue. -/

namespace Sys2Proof.Machine
open Sys2Proof

@[simp] theorem tuneResult_xmpShow (s : State) : s.xmpShow.tuneResult = s.tuneResult := by
  unfold State.xmpShow; dsimp only; split <;> simp +decide

@[simp] theorem tuneResult_xmpRange (s : State) : s.xmpRange.tuneResult = s.tuneResult := by
  unfold State.xmpRange; simp +decide

@[simp] theorem tuneResult_xmpStart (s : State) : s.xmpStart.tuneResult = s.tuneResult := by
  unfold State.xmpStart; simp

@[simp] theorem tuneResult_xmpPost (s : State) (owner off : Nat) (bytes : List Nat) :
    (s.xmpPost owner off bytes).2.tuneResult = s.tuneResult := by
  unfold State.xmpPost; split
  · simp
  · dsimp only; split <;> simp +decide

@[simp] theorem tuneResult_xmpEraseQ (s : State) (t off owner : Nat) : (s.xmpEraseQ t off owner).2.tuneResult = s.tuneResult := by
  unfold State.xmpEraseQ; dsimp only; split
  · simp +decide
  · split <;> simp +decide

theorem noOther_xmpDiscard (s : State) : NoOther s s.xmpDiscard := by
  have hdone (t : State) (owner : Nat) : NoOther t (t.xmpOwnerDone owner) := by
    unfold State.xmpOwnerDone; split
    · exact noOther_endMove t owner (by decide)
    · exact id
  unfold State.xmpDiscard; extract_lets l s1 s2 s3 s4
  have h2 : s2.tuneResult = s1.tuneResult := tuneResult_forEach (fun t _ => by simp +decide) s1 l
  have h3 : NoOther s2 s3 := NoOther.forEach (fun t c => by split; exacts [hdone t c, id]) s2 _
  have h4 : s4.tuneResult = s3.tuneResult := tuneResult_forEach (fun t _ => tuneResult_sched t ..) s3 _
  exact (((NoOther.of_eq (s := s) h2).trans h3).keep h4).keep (tuneResult_xmpShow s4)

@[simp] theorem tuneResult_scoPush (s : State) (kind arbseq : Nat) (inj : Bool) (payload : List Nat) :
    (s.scoPush kind arbseq inj payload).tuneResult = s.tuneResult := tuneResult_put_off (by decide) ..

@[simp] theorem tuneResult_scoLose (s : State) : s.scoLose.tuneResult = s.tuneResult := by
  unfold State.scoLose; simp +decide

@[simp] theorem tuneResult_scoRecord (s : State) (kind arbseq : Nat) (payload : List Nat) (inj : Bool) :
    (s.scoRecord kind arbseq payload inj).tuneResult = s.tuneResult := by
  unfold State.scoRecord State.scoDrop; simp +decide [tuneResult_put_ne]

@[simp] theorem tuneResult_scoShow (s : State) : s.scoShow.tuneResult = s.tuneResult := by
  unfold State.scoShow; simp +decide

@[simp] theorem tuneResult_scoLostRecord (s : State) : s.scoLostRecord.tuneResult = s.tuneResult := by
  unfold State.scoLostRecord; simp +decide

@[simp] theorem tuneResult_scoRefuse (s : State) : s.scoRefuse.tuneResult = s.tuneResult := by
  have hdiscard (t : State) : t.scoDiscard.tuneResult = t.tuneResult := by
    unfold State.scoDiscard
    exact (tuneResult_put_off (by decide) ..).trans (tuneResult_forEach (fun u _ => tuneResult_scoLose u) t _)
  unfold State.scoRefuse; simp +decide [hdiscard]

@[simp] theorem tuneResult_scoTest (s : State) : s.scoTest.tuneResult = s.tuneResult := by
  unfold State.scoTest; simp +decide

@[simp] theorem tuneResult_scoAdvance (s : State) : s.scoAdvance.tuneResult = s.tuneResult := by
  have herase (t : State) (k : Nat) : (t.scoEraseSector k).tuneResult = t.tuneResult := by
    unfold State.scoEraseSector; dsimp only; split <;> simp
  unfold State.scoAdvance; simp [herase]

@[simp] theorem tuneResult_scoProgram (s : State) : s.scoProgram.tuneResult = s.tuneResult := by
  have hpair (x : Bool × State) :
      (if x.1 then (x.2.withSco fun y => { y with op := 1 }).scoShow else x.2).tuneResult = x.2.tuneResult := by
    split <;> simp
  unfold State.scoProgram; split
  · exact (hpair _).trans (tuneResult_xmpPost ..)
  · rfl

theorem tuneResult_scoSettle (s : State) : s.scoSettle.tuneResult = s.tuneResult := by
  unfold State.scoSettle; simp

@[simp] theorem tuneResult_calOver (s : State) : s.calOver.tuneResult = s.tuneResult := by
  have hshow (t : State) : t.calShow.tuneResult = t.tuneResult := by unfold State.calShow; simp +decide
  unfold State.calOver; simp +decide [hshow]; rfl

@[simp] theorem tuneResult_xbOver (s : State) : s.xbOver.tuneResult = s.tuneResult := by
  unfold State.xbOver State.rxRest; simp +decide

/-- Calibration gives its Wings back at once: where it cuts an armed field, the move it drops ends ABORTED. -/
theorem noOther_calSettle {s : State} (hi : s.inv.wings = []) : NoOther s s.calSettle := by
  have hlevel (t : State) : (t.forEach (List.range 9) fun s n => s.withTx n fun t => { t with level := 0 }).tuneResult = t.tuneResult :=
    tuneResult_forEach (fun t n => tuneResult_withTx t n _) t _
  unfold State.calSettle; extract_lets n s1 s2 s3
  have h1 : NoOther s s1 := by
    unfold s1; split
    · split
      · exact .of_eq ((tuneResult_xbOver _).trans (hlevel s))
      · split
        · exact id
        · exact noOther_fieldOffNow hi _ _
    · exact id
  have h2 : s2.tuneResult = s1.tuneResult := by unfold s2; simp
  have h3 : s3.tuneResult = s2.tuneResult := by unfold s3 State.simulAt; simp +decide
  exact ((h1.keep h2).keep h3).keep (by simp)

theorem tuneResult_xmpInjSettle (s : State) : s.xmpInjSettle.tuneResult = s.tuneResult := by
  unfold State.xmpInjSettle; split <;> rfl

theorem noOther_entrySettle (s : State) : NoOther s s.entrySettle := by
  unfold State.entrySettle; split
  · exact (NoOther.when _ (noOther_xmpDiscard s)).keep (tuneResult_withPwr ..)
  · exact .of_eq (by simp)

theorem noOther_pwrSettle (s : State) : NoOther s s.pwrSettle := by
  have href (t : State) : t.refSwitch.tuneResult = t.tuneResult := by unfold State.refSwitch State.synStart; simp +decide
  have hsyn (t : State) : t.synStop.tuneResult = t.tuneResult := by unfold State.synStop; simp +decide
  have hmode (t : State) : t.giveModeRec.tuneResult = t.tuneResult := by unfold State.giveModeRec; split <;> simp
  have hentry : NoOther s s.entrySettle.entrySettle.entrySettle :=
    ((noOther_entrySettle _).trans (noOther_entrySettle _)).trans (noOther_entrySettle _)
  unfold State.pwrSettle
  exact ((hentry.keep (href _)).keep (hsyn _)).keep (hmode _)

theorem tuneResult_autoIrqWord (s t : State) : (s.autoIrqWord t).tuneResult = t.tuneResult := by
  have hput (w : Nat) : (t.rptAppend w).tuneResult = t.tuneResult := by
    unfold State.rptAppend; split
    · simp +decide
    · exact tuneResult_put_off (by decide) ..
  unfold State.autoIrqWord; split <;> simp [hput]

end Sys2Proof.Machine
end

section
/-! SUPPORT. WAIT_EVENT's timeout on a context whose move is a TUNE (R127, R262). -/

namespace Sys2Proof.Machine
open Sys2Proof

variable {k : Nat} {s : State}

theorem State.Quiet.tuneResult_takeEnds {n : Nat} (h : (State.takeEnds n s).Quiet k) : (State.takeEnds n s).tuneResult = s.tuneResult := by
  obtain ⟨l, e⟩ := h.takeEnds_eq
  rw [e]; rfl

theorem State.Quiet.tuneResult_takeReports (h : s.takeReports.Quiet k) : s.takeReports.tuneResult = s.tuneResult := by
  rw [h.takeReports_eq]; rfl

theorem State.tuneResult_takeResign (ha : ∀ d, (d, Instr.resignRampEnd) ∉ s.takeResign.agenda) :
    s.takeResign.tuneResult = s.tuneResult := by
  unfold State.takeResign at ha ⊢; dsimp only at ha ⊢
  split
  · rfl
  · rename_i h0
    rw [if_neg h0] at ha
    split
    · rfl
    · rename_i hr
      rw [if_neg hr] at ha
      obtain ⟨d, hd⟩ := beginResign_agenda _ s.flt.request
      exact absurd hd (ha d)

theorem tuneResult_releases (s : State) : s.releaseTx8.releaseRx16.tuneResult = s.tuneResult :=
  (tuneResult_releaseRx16 _).trans (tuneResult_releaseTx8 s)

/-- What happens at once ends moves DONE or ABORTED only, where it leaves the Board quiet and no Resign begun. -/
theorem State.Quiet.noOther_settle {u : State} (h : (s.settle u).Quiet k)
    (ha : ∀ d, (d, Instr.resignRampEnd) ∉ (s.settle u).agenda) : NoOther u (s.settle u) := by
  unfold State.settle at h ha ⊢; dsimp only at ha ⊢; extract_lets s1 s2 s3 at h
  rw [autoIrqWord_agenda] at ha
  have h3 : s3.Quiet k := h.of_gauge (gauge_autoIrqWord ..)
  have hEnds := h3.of_takeReports
  obtain ⟨l, e⟩ := hEnds.takeEnds_eq
  rw [h3.takeReports_eq, e] at ha
  have hReports : s2.pwrSettle.takeReports.Quiet k := (hEnds.of_takeEnds.of_takeResign ha).of_gauge (gauge_xmpInjSettle _)
  have hEnds2 := (hReports.of_takeReports.of_gauge (gauge_pwrSettle _)).of_gauge (gauge_scoSettle _)
  have h1 : s1.Quiet k := hEnds2.of_takeEnds.of_releases.of_calSettle
  have hReports1 := h1.of_gauge (gauge_invSettleAll _)
  have hwings (t : State) (ht : t.Quiet k) : t.inv.wings = [] := (quiet_iff.mp ht).2.1
  have hs1 : s1.tuneResult = u.tuneResult :=
    calc s1.tuneResult
        = (State.takeEnds 8 u.releaseTx8.releaseRx16).takeReports.tuneResult :=
          congrArg State.tuneResult (invSettleAll_of_none (hwings _ hReports1))
      _ = (State.takeEnds 8 u.releaseTx8.releaseRx16).tuneResult := hReports1.tuneResult_takeReports
      _ = u.releaseTx8.releaseRx16.tuneResult := hReports1.of_takeReports.tuneResult_takeEnds
      _ = u.tuneResult := tuneResult_releases u
  have hs2 : s2.tuneResult = s1.calSettle.tuneResult :=
    (tuneResult_scoSettle _).trans (hEnds2.tuneResult_takeEnds.trans (tuneResult_releases _))
  have hs3 : (s.autoIrqWord s3).tuneResult = s2.pwrSettle.tuneResult :=
    calc (s.autoIrqWord s3).tuneResult
        = s3.tuneResult := tuneResult_autoIrqWord s s3
      _ = (State.takeEnds 8 s2.pwrSettle.takeReports.xmpInjSettle.takeResign).tuneResult := h3.tuneResult_takeReports
      _ = s2.pwrSettle.takeReports.xmpInjSettle.takeResign.tuneResult := hEnds.tuneResult_takeEnds
      _ = s2.pwrSettle.takeReports.xmpInjSettle.tuneResult := State.tuneResult_takeResign ha
      _ = s2.pwrSettle.takeReports.tuneResult := tuneResult_xmpInjSettle _
      _ = s2.pwrSettle.tuneResult := hReports.tuneResult_takeReports
  exact ((((NoOther.of_eq hs1).trans (noOther_calSettle (hwings s1 h1))).keep hs2).trans (noOther_pwrSettle s2)).keep hs3

theorem State.Quiet.noOther_finish {u : State} (h : (s.finish u).Quiet k)
    (ha : ∀ d, (d, Instr.resignRampEnd) ∉ (s.finish u).agenda) : NoOther u (s.finish u) :=
  State.Quiet.noOther_settle (s := s) h ha

theorem exec_waitEventTimeout (c : Nat) (s : State) : exec (.waitEventTimeout c) s = .next (s.finish (effWaitEventTimeout c s)) := rfl

/-- An auto-tune NOW on the port of Wing 0. -/
def tuneNow : Instr := .tune 0 ⟨0, 0, 0, 0⟩ false 0

/-- A Board after reset that runs, context 0 waiting for an event with a TUNE of Wing 0 as its move: the model's state can hold such a pair,
and clause 6 of the obligation takes any move. It has no engines and no inventory Wings, so that what happens at once can be read backwards
(`State.Quiet.of_settle`). -/
def waitingTune : State :=
  ({ State.reset with
      agenda := [], engs := [], inv := { State.reset.inv with wings := [] },
      pwr := { State.reset.pwr with core := true, cclk := true },
      ctxs := { Ctx.reset with move := some tuneNow } :: List.replicate 11 Ctx.reset }.put pDEV DEV.STATUS_MODE 0).put
    (pCND 0) (CND.CTX_STATE_RUN 0) 6

theorem waitingTune_quiet : (waitingTune.finish (effWaitEventTimeout 0 waitingTune)).Quiet 0 := quiet_iff.mpr (by decide +kernel)

theorem waitingTune_agenda : (waitingTune.finish (effWaitEventTimeout 0 waitingTune)).agenda = [(0, .moveCompletion 0)] := by
  decide +kernel

/-- The TUNE ends TIMEOUT, which ATUNE_RESULT.STATUS of TXC0 shows (R110, R127). -/
theorem waitingTune_shows : (waitingTune.finish (effWaitEventTimeout 0 waitingTune)).tuneOther := by
  unfold State.tuneOther; decide +kernel

/-- Refutes O51: its sixth clause takes any move for the one in flight, and a context in state 6 of `waitingTune` holds a TUNE. Its end
at the timeout is shown in ATUNE_RESULT of TXC0, outside CND's page, which the clause has unchanged. -/
theorem not_waitingMoves : ¬ Obligations.WaitingMoves := by
  unfold Obligations.WaitingMoves
  rintro ⟨-, -, -, -, -, h, -⟩
  obtain ⟨u, he, ⟨-, -, -, hreg⟩, -⟩ := h waitingTune 0 tuneNow (by decide +kernel) (by decide) (by decide +kernel)
    (by decide +kernel) (by decide +kernel) rfl
  have hstate : waitingTune.finish (effWaitEventTimeout 0 waitingTune) = waitingTune.finish u := by
    rw [exec_waitEventTimeout, Host.Outcome.next.injEq] at he
    exact he
  have hq := waitingTune_quiet
  have ha := waitingTune_agenda
  have ho := waitingTune_shows
  rw [hstate] at hq ha ho
  have hu : u.tuneOther := hq.noOther_finish (by simp [ha]) ho
  have hsame : u.tuneResult = waitingTune.tuneResult :=
    hreg (pTXC 0) TXC.ATUNE_RESULT.off (by decide) (by decide) (by decide) (by decide) (by decide)
  unfold State.tuneOther at hu; rw [hsame] at hu
  exact absurd hu (by decide +kernel)

end Sys2Proof.Machine
end

section
/-! SUPPORT. Match chain: free slots, cells of other Boards, queued cells (R69, R70, R72, R73). -/

namespace Sys2Proof.Machine
open Sys2Proof

variable {K : Nat → Nat → Bool} {s t : State}

/-- Registers of the MCH page at the offsets `l`. -/
def mchKeys (l : List Nat) : Nat → Nat → Bool := fun q o => q == pMCH && l.contains o

/-! ## What numbers and named registers leave -/

theorem Only.mch (h : Only K s t) : t.mch = s.mch := (congrArg State.mch h.rest :)

theorem Only.timers (h : Only K s t) : t.timers = s.timers := (congrArg State.timers h.rest :)

theorem Only.now (h : Only K s t) : t.now = s.now := (congrArg State.now h.rest :)

theorem Only.isHead (h : Only K s t) : t.isHead = s.isHead := congrArg Mch.head h.mch

/-- Who may originate cells depends on the mode, ENABLE of MCH, the Board's number and the chain logic (R72). -/
theorem Only.mayOriginate (h : Only K s t) (hdev : K pDEV 2 = false) (hnum : K pDEV DEV.BOARD_NUM_NUM.off = false)
    (hen : K pMCH 1 = false) (ty : Nat) : t.mayOriginate ty = s.mayOriginate ty := by
  have hcore : t.coreUp = s.coreUp := by
    have hp : t.pwr = s.pwr := (congrArg State.pwr h.rest :)
    unfold State.coreUp; rw [hp]
  have hmode : t.mode = s.mode := h.get (f := DEV.STATUS_MODE) (by decide) (by decide) hdev
  have hnum' : t.boardNum = s.boardNum := h.get (f := DEV.BOARD_NUM_NUM) (by decide) (by decide) hnum
  have hen' : t.enabled pMCH = s.enabled pMCH := h.bit (f := COM.ENABLE) (by decide) (by decide) hen
  unfold State.mayOriginate State.forwards
  rw [hcore, hmode, hnum', hen', h.isHead, h.mch]

/-- What neither a field stored nor the edge's list of numbers changes is the same after a number is given. -/
theorem State.numberAs_keeps {β : Type} (g : State → β) (hput : ∀ t p f x, g (State.put t p f x) = g t)
    (hedge : ∀ t e, g { t with edge := e } = g t) (s : State) (r n : Nat) : g (s.numberAs r n).2 = g s := by
  unfold State.numberAs
  split
  · refine (hedge _ _).trans (State.forEach_inv (fun t => g t = g s) _ _ (fun t a _ ht => ?_) _ (hput ..))
    split
    · exact (hput ..).trans ht
    · exact ht
  · rfl

theorem State.number_agenda (s : State) (src : Src) : (s.number src).agenda = s.agenda :=
  State.numberAs_keeps State.agenda (fun _ _ _ _ => rfl) (fun _ _ => rfl) s _ 0

theorem State.recordErr_keeps {β : Type} (g : State → β) (hput : ∀ t p f x, g (State.put t p f x) = g t)
    (hedge : ∀ t e, g { t with edge := e } = g t) (hfree : ∀ t : State, g t.nextFree = g t) (s : State) (p c : Nat) :
    g (s.recordErr p c) = g s := by
  unfold State.recordErr State.inc; dsimp only
  split
  · rw [hput, State.numberAs_keeps g hput hedge, hput, hput]
  · rw [hput, hfree, hput, hput]

theorem State.recordErr_deliveries (s : State) (p c : Nat) : (s.recordErr p c).deliveries = s.deliveries :=
  State.recordErr_keeps State.deliveries (fun _ _ _ _ => rfl) (fun _ _ => rfl) (fun _ => rfl) s p c

theorem State.recordErr_cmps (s : State) (p c : Nat) : (s.recordErr p c).cmps = s.cmps :=
  State.recordErr_keeps State.cmps (fun _ _ _ _ => rfl) (fun _ _ => rfl) (fun _ => rfl) s p c

theorem State.recordErr_mch (s : State) (p c : Nat) : (s.recordErr p c).mch = s.mch :=
  State.recordErr_keeps State.mch (fun _ _ _ _ => rfl) (fun _ _ => rfl) (fun _ => rfl) s p c

/-! ## Slots that go on -/

theorem State.slotIn_goesOn {c : Cell} (free : Bool) (h : c.type = 4 ∨ s.bit pMCH MCH.STATUS_RANGING = false) :
    s.slotIn c free = s.timer 16 (.slotOut c free) := by
  unfold State.slotIn; rw [if_neg]; rcases h with h | h <;> simp [h]

theorem State.mem_timer (s : State) (d : Nat) (x : Tm) : (s.now + d, x) ∈ (s.timer d x).timers :=
  List.mem_append_right _ (List.mem_singleton_self _)

/-- A follower that takes in a cell of another type than RANGE is not ranging (R77). -/
theorem State.ranging_of_takes {type : Nat} (h : s.takesCells type = true) (h4 : type ≠ 4) (hf : s.isHead = false) :
    s.bit pMCH MCH.STATUS_RANGING = false := by
  unfold State.takesCells at h; simpa [h4, hf] using (Bool.and_eq_true_iff.mp h).2

/-! ## A cell of another Board -/

/-- A good cell of another Board is taken in and will go on as `out`, its SEQ noted (R69, R70, R73). -/
def State.cellTaken (s : State) (type : Nat) (h : CellHead) (out : Cell) : State :=
  (s.goodCell.timer 16 (.slotOut out false)).noteSeen type h

@[simp] theorem State.cellTaken_regs (s : State) (type : Nat) (h : CellHead) (out : Cell) : (s.cellTaken type h out).regs = s.regs := rfl
@[simp] theorem State.cellTaken_get (s : State) (type : Nat) (h : CellHead) (out : Cell) (p : Nat) (f : Fld) :
    (s.cellTaken type h out).get p f = s.get p f := rfl
@[simp] theorem State.cellTaken_bit (s : State) (type : Nat) (h : CellHead) (out : Cell) (p : Nat) (f : Fld) :
    (s.cellTaken type h out).bit p f = s.bit p f := rfl
@[simp] theorem State.cellTaken_enabled (s : State) (type : Nat) (h : CellHead) (out : Cell) (p : Nat) :
    (s.cellTaken type h out).enabled p = s.enabled p := rfl
@[simp] theorem State.cellTaken_isHead (s : State) (type : Nat) (h : CellHead) (out : Cell) :
    (s.cellTaken type h out).isHead = s.isHead := rfl
@[simp] theorem State.cellTaken_ang (s : State) (type : Nat) (h : CellHead) (out : Cell) : (s.cellTaken type h out).ang = s.ang := rfl
@[simp] theorem State.cellTaken_now (s : State) (type : Nat) (h : CellHead) (out : Cell) : (s.cellTaken type h out).now = s.now := rfl

theorem State.mem_cellTaken (s : State) (type : Nat) (h : CellHead) (out : Cell) :
    (s.now + 16, .slotOut out false) ∈ (s.cellTaken type h out).timers := s.goodCell.mem_timer 16 _

/-- A cell that another Board originated, no repeat, is handled by an enabled and aligned Board, and goes on (R69, R72, R73). -/
theorem State.cellIn_taken {type : Nat} {h : CellHead} {raw out : Cell} {own other : State → State} (ht : s.takesCells type = true)
    (ha : s.mch.aligned = true) (ho : s.ownCell type h.src = false) (hen : s.enabled pMCH = true) (hd : s.dupCell type h = false)
    (hr : out.type = 4 ∨ s.bit pMCH MCH.STATUS_RANGING = false) :
    s.cellIn type h raw out own other = other (s.cellTaken type h out) := by
  have hgood : s.goodCell.mch.aligned = true := by simp [State.goodCell, State.withMch, ha]
  have hown : s.goodCell.ownCell type h.src = false := ho
  have hen' : s.goodCell.enabled pMCH = true := hen
  have hgo : s.goodCell.forwardCell out = s.goodCell.timer 16 (.slotOut out false) := State.slotIn_goesOn false hr
  have hdup : (s.goodCell.timer 16 (.slotOut out false)).dupCell type h = false := hd
  unfold State.cellIn
  simp only [ht, hgood, hown, hen', hgo, hdup, if_true, Bool.not_true, Bool.false_eq_true, if_false]
  rfl

/-- A follower originates no cells of the head's types (R72). -/
theorem State.ownCell_follower {type : Nat} (h : type ≤ 4) (hf : s.isHead = false) (src : Nat) : s.ownCell type src = false := by
  unfold State.ownCell; rw [if_pos h, hf]

theorem State.ownCell_other {type src : Nat} (h : 4 < type) (hs : src ≠ s.boardNum) : s.ownCell type src = false := by
  unfold State.ownCell; rw [if_neg (by omega)]; simpa using hs

/-! ## Queued cells -/

/-- A Board that may originate a cell puts it last in its queue, with the next SEQ; RATE aside (R70, R72). -/
theorem State.queueCell_queue {type : Nat} (h : s.mayOriginate type = true) (h1 : type ≠ 1) (tag payload : Nat) :
    (s.queueCell type tag payload).mch.queue = s.mch.queue ++ [(s.newCell type tag payload).1] := by
  unfold State.queueCell; rw [if_pos h]
  show (if type = 1 then _ else _) = _
  rw [if_neg h1]; rfl

theorem State.queueCell_hellos (s : State) (type tag payload : Nat) : (s.queueCell type tag payload).mch.hellos = s.mch.hellos := by
  unfold State.queueCell; split <;> rfl

theorem OnlyMch.timers (h : OnlyMch s t) : t.timers = s.timers := (congrArg State.timers h.rest :)

theorem OnlyMch.now (h : OnlyMch s t) : t.now = s.now := (congrArg State.now h.rest :)

theorem OnlyMch.bit (h : OnlyMch s t) (q : Nat) (f : Fld) : t.bit q f = s.bit q f := by unfold State.bit; rw [h.get]

theorem State.mem_resched (s : State) (d : Nat) (c : Instr) : (s.now + d, c) ∈ (s.resched d c).agenda :=
  List.mem_append_right _ (List.mem_singleton_self _)

end Sys2Proof.Machine
end

section
/-! SUPPORT. Match chain: the role and the discovery of the chain (R68, R75, R76). -/

namespace Sys2Proof.Machine
open Sys2Proof

variable {s : State}

theorem exec_roleDecision (toggles : Bool) (s : State) :
    exec (.roleDecision toggles) s = .next (s.finish (effRoleDecision toggles s)) := rfl

theorem exec_discover (s : State) : exec .discover s = .next (s.finish ((effDiscover s).number .host)) := rfl

theorem exec_countTimeout (s : State) : exec .countTimeout s = .next (s.finish (effCountTimeout s)) := rfl

theorem exec_helloCell (h : CellHead) (position : Nat) (s : State) :
    exec (.helloCell h position) s = .next (s.finish (effHelloCell h position s)) := rfl

theorem roleDecision_does (toggles : Bool) (h : s.mch.roleSet = false) :
    Does (.roleDecision toggles) s fun u => u.mch.roleSet = true ∧ u.isHead = !toggles ∧ u.regs = s.regs := by
  refine does_of (exec_roleDecision toggles s) ?_
  unfold effRoleDecision; rw [if_neg (by simp [h])]
  exact ⟨rfl, rfl, rfl⟩

theorem roleDecision_again_does (toggles : Bool) (h : s.mch.roleSet = true) : Does (.roleDecision toggles) s fun u => u = s := by
  refine does_of (exec_roleDecision toggles s) ?_
  unfold effRoleDecision; rw [if_pos h]

/-! ## DISCOVER (R75) -/

theorem State.startStream_regs (s : State) : s.startStream.regs = s.regs := by unfold State.startStream; split <;> rfl
theorem State.startStream_mch (s : State) : s.startStream.mch = s.mch := by unfold State.startStream; split <;> rfl
theorem State.startStream_agenda (s : State) : s.startStream.agenda = s.agenda := by unfold State.startStream; split <;> rfl

/-- The registers of MCH while the COUNT cell is out: COUNT 1 and RING_OK 0. -/
def State.ringUncounted (s : State) : State := (s.put pMCH MCH.POSITION_COUNT 1).putB pMCH MCH.STATUS_RING_OK false

theorem State.ringUncounted_only (s : State) : Only (mchKeys [2, 0x11]) s s.ringUncounted :=
  ((Only.refl _ s).put (by decide) (.inr (by decide)) _).put (by decide) (.inr (by decide)) _

theorem State.ringUncounted_reads (s : State) :
    s.ringUncounted.get pMCH MCH.POSITION_COUNT = 1 ∧ s.ringUncounted.bit pMCH MCH.STATUS_RING_OK = false :=
  ⟨(State.get_put_reg _ (by decide) _).trans (State.get_put_same s pMCH MCH.POSITION_COUNT (by decide) (by decide) 1),
   State.bit_putB_same _ pMCH MCH.STATUS_RING_OK rfl (by decide) false⟩

theorem discover_does (hrun : s.coreRuns = true) (hhead : s.isHead = true) (hen : s.enabled pMCH = true)
    (hmay : s.mayOriginate 3 = true) :
    Does .discover s fun u => u.get pMCH MCH.POSITION_COUNT = 1 ∧ u.bit pMCH MCH.STATUS_RING_OK = false ∧
      u.mch.queue = s.mch.queue ++ [{ type := 3, src := s.boardNum, seq := AMap.get (fun _ => 0) s.mch.seqs 3, tag := 0, payload := 0 }] ∧
      (s.now + 65536, .countTimeout) ∈ u.agenda := by
  have hout := s.ringUncounted_only
  obtain ⟨hcount, hopen⟩ := s.ringUncounted_reads
  have hmay' : s.ringUncounted.mayOriginate 3 = true := (hout.mayOriginate rfl rfl (by decide) 3).trans hmay
  have hcell := State.queueCell_onlyMch s.ringUncounted 3 0 0
  have heff : effDiscover s = ((s.ringUncounted.queueCell 3 0 0).resched 65536 .countTimeout).startStream := by
    unfold effDiscover State.discover; rw [if_pos hrun, if_pos (by simp [hhead, hen])]; rfl
  have hregs : (effDiscover s).regs = s.ringUncounted.regs := by rw [heff, State.startStream_regs]; exact hcell.regs
  have hnum := State.number_only (K := noKeys) (effDiscover s) .host
  have hget (f : Fld) : (effDiscover s).get pMCH f = s.ringUncounted.get pMCH f := by unfold State.get State.reg; rw [hregs]
  have hnow : (s.ringUncounted.queueCell 3 0 0).now = s.now := hcell.now
  refine does_of (exec_discover s) ⟨?_, ?_, ?_, ?_⟩
  · rw [hnum.get (by decide) (by decide) rfl, hget, hcount]
  · rw [hnum.bit (by decide) (by decide) rfl]; unfold State.bit; rw [hget]; exact hopen
  · rw [hnum.mch, heff, State.startStream_mch]
    refine (State.queueCell_queue hmay' (by decide) 0 0).trans ?_
    have hsrc : s.ringUncounted.boardNum = s.boardNum := hout.get (by decide) (by decide) rfl
    unfold State.newCell; dsimp only; rw [hsrc]; rfl
  · rw [State.number_agenda, heff, State.startStream_agenda, ← hnow]
    exact State.mem_resched _ 65536 _

theorem countTimeout_does (hrun : s.coreRuns = true) (hhead : s.isHead = true) (hen : s.enabled pMCH = true)
    (hopen : s.bit pMCH MCH.STATUS_RING_OK = false) :
    Does .countTimeout s fun u => u.bit pMCH MCH.FLAG_RING_OPEN = true ∧ u.get pMCH COM.LAST_ERR_CODE = 4 := by
  refine does_of (exec_countTimeout s) ?_
  unfold effCountTimeout; rw [if_pos (by simp [hrun, hhead, hen, hopen])]
  refine ⟨?_, State.get_recordErr_code _ pMCH 4⟩
  have herr := State.recordErr_only (K := oneKey pMCH 8) ((s.unsched .countTimeout).flag pMCH MCH.FLAG_RING_OPEN) pMCH 4 (.inr rfl)
  exact (herr.bit (by decide) (by decide) (by decide)).trans (State.bit_flag_same _ pMCH MCH.FLAG_RING_OPEN rfl (by decide))

/-! ## HELLO at the head (R76) -/

/-- The head holds the sender of a HELLO among those that have answered. -/
def State.helloHeld (s : State) (src : Nat) : State :=
  s.withMch fun m => { m with hellos := if m.hellos.contains src then m.hellos else m.hellos ++ [src] }

theorem State.mem_helloHeld (s : State) (src : Nat) : src ∈ (s.helloHeld src).mch.hellos := by
  show src ∈ if s.mch.hellos.contains src then s.mch.hellos else s.mch.hellos ++ [src]
  split
  · simpa using ‹s.mch.hellos.contains src = true›
  · simp

/-- A start of ranging leaves the HELLOs held and what is on its way. -/
theorem State.rangeNow_keeps (s : State) : s.rangeNow.mch.hellos = s.mch.hellos ∧ s.rangeNow.timers = s.timers := by
  unfold State.rangeNow; split
  · exact ⟨s.queueCell_hellos .., (s.queueCell_onlyMch ..).timers⟩
  · exact ⟨rfl, rfl⟩

theorem helloCell_does {h : CellHead} (position : Nat) (ht : s.takesCells 5 = true) (hen : s.enabled pMCH = true)
    (ha : s.mch.aligned = true) (hhead : s.isHead = true) (hr : s.bit pMCH MCH.STATUS_RANGING = false) (hs : h.src ≠ s.boardNum)
    (hd : s.dupCell 5 h = false) :
    Does (.helloCell h position) s fun u =>
      h.src ∈ u.mch.hellos ∧ (s.now + 16, .slotOut (mkCell 5 h 0 position) false) ∈ u.timers := by
  have hmem := State.mem_helloHeld (s.cellTaken 5 h (mkCell 5 h 0 position)) h.src
  have hgo := s.mem_cellTaken 5 h (mkCell 5 h 0 position)
  obtain ⟨hhellos, htimers⟩ := ((s.cellTaken 5 h (mkCell 5 h 0 position)).helloHeld h.src).rangeNow_keeps
  refine does_of (exec_helloCell h position s) ?_
  unfold effHelloCell; dsimp only
  rw [if_neg (by simp [hs]), State.cellIn_taken ht ha (State.ownCell_other (by decide) hs) hen hd (.inr hr),
    if_pos (by simpa using hhead)]
  split
  · exact ⟨hhellos ▸ hmem, htimers ▸ hgo⟩
  · exact ⟨hmem, hgo⟩

/-- Settles O4: the role is decided once; of MCH's registers DISCOVER stores COUNT and RING_OK only, so that the Board may still send
(`Only.mayOriginate`), and a HELLO of another Board is taken in and goes on (`State.cellIn_taken`). -/
theorem chainRoleAndDiscovery : Obligations.ChainRoleAndDiscovery :=
  ⟨fun _ toggles h => roleDecision_does toggles h, fun _ toggles h => roleDecision_again_does toggles h,
   fun _ hrun hhead hen hmay => discover_does hrun hhead hen hmay,
   fun _ hrun hhead hen hopen => countTimeout_does hrun hhead hen hopen,
   fun _ _ position ht hen ha hhead hr hs hd => helloCell_does position ht hen ha hhead hr hs hd⟩

end Sys2Proof.Machine
end

section
/-! SUPPORT. Match chain: IDLE and VOID cells as free slots (R72, R79). -/

namespace Sys2Proof.Machine
open Sys2Proof

variable {s : State}

theorem exec_idleCell (h : CellHead) (angle : Nat) (s : State) :
    exec (.idleCell h angle) s = .next (s.finish (effIdleCell h angle s)) := rfl

theorem exec_voidCell (h : CellHead) (s : State) : exec (.voidCell h) s = .next (s.finish (effVoidCell h s)) := rfl

/-! ## VOID cells (R72) -/

theorem voidCell_follower_does {h : CellHead} (ht : s.takesCells 15 = true) (hf : s.isHead = false) :
    Does (.voidCell h) s fun u => (s.now + 16, .slotOut (mkCell 15 h 0 0) true) ∈ u.timers ∧ u.regs = s.regs := by
  have hf' : s.goodCell.isHead = false := hf
  have hr : s.goodCell.bit pMCH MCH.STATUS_RANGING = false := State.ranging_of_takes ht (by decide) hf
  refine does_of (exec_voidCell h s) ?_
  unfold effVoidCell; dsimp only
  rw [if_pos ht, hf', Bool.false_and, if_neg (by decide), State.slotIn_goesOn true (.inr hr)]
  exact ⟨s.goodCell.mem_timer 16 _, rfl⟩

theorem voidCell_head_does {h : CellHead} (ht : s.takesCells 15 = true) (hr : s.bit pMCH MCH.STATUS_RANGING = false)
    (hhead : s.isHead = true) (hen : s.enabled pMCH = true) :
    Does (.voidCell h) s fun u => (s.now + 16, .slotOut (mkCell 0 h 0 0) true) ∈ u.timers ∧ u.regs = s.regs := by
  have hhead' : s.goodCell.isHead = true := hhead
  have hen' : s.goodCell.enabled pMCH = true := hen
  have hr' : s.goodCell.bit pMCH MCH.STATUS_RANGING = false := hr
  refine does_of (exec_voidCell h s) ?_
  unfold effVoidCell; dsimp only
  rw [if_pos ht, hhead', hen', Bool.and_self, if_pos rfl, State.slotIn_goesOn true (.inr hr')]
  exact ⟨s.goodCell.mem_timer 16 _, rfl⟩

/-! ## A follower's start (R79) -/

/-- An IDLE cell, no repeat, is taken in by an aligned follower, and its slot goes on free. -/
def State.idleTaken (s : State) (h : CellHead) (angle : Nat) : State :=
  (s.goodCell.timer 16 (.slotOut (mkCell 0 h 0 angle) true)).noteSeen 0 h

theorem State.mem_idleTaken (s : State) (h : CellHead) (angle : Nat) :
    (s.now + 16, .slotOut (mkCell 0 h 0 angle) true) ∈ (s.idleTaken h angle).timers := s.goodCell.mem_timer 16 _

/-- The loss of the chain angle is watched for anew from the cell on (R87). -/
theorem effIdleCell_taken {h : CellHead} {angle : Nat} (ht : s.takesCells 0 = true) (hen : s.enabled pMCH = true)
    (ha : s.mch.aligned = true) (hf : s.isHead = false) (hd : s.dupCell 0 h = false) :
    effIdleCell h angle s = ((s.idleTaken h angle).idleAngle (angle % 2 ^ 40)).resched 4096 (.chainAngleLost false) := by
  have hf' : s.goodCell.isHead = false := hf
  have hr : s.goodCell.bit pMCH MCH.STATUS_RANGING = false := State.ranging_of_takes ht (by decide) hf
  have hgood : (s.goodCell.timer 16 (.slotOut (mkCell 0 h 0 angle) true)).mch.aligned = true := by
    show (s.mch.aligned || decide (7 ≤ s.mch.goodRun)) = true
    rw [ha, Bool.true_or]
  have hen' : (s.goodCell.timer 16 (.slotOut (mkCell 0 h 0 angle) true)).enabled pMCH = true := hen
  have hdup : (s.goodCell.timer 16 (.slotOut (mkCell 0 h 0 angle) true)).dupCell 0 h = false := hd
  unfold effIdleCell; dsimp only
  rw [if_pos ht, hf', if_neg (by decide), State.slotIn_goesOn true (.inr hr), hgood, hen', Bool.and_self, if_pos rfl, hdup,
    if_neg (by decide)]
  rfl

/-- The angle starts from the value given; of what is on its way on the chain nothing changes (R48). -/
theorem State.startAngle_keeps (s : State) (acc rate : Nat) :
    (s.startAngle acc rate).ang.acc = acc % 2 ^ 56 ∧ (s.startAngle acc rate).timers = s.timers := by
  unfold State.startAngle; extract_lets s1 s2 s3
  have h := s3.wakeCmps_only
  exact ⟨by rw [h.ang]; rfl, h.timers⟩

theorem idleCell_does {h : CellHead} {angle : Nat} (ht : s.takesCells 0 = true) (hen : s.enabled pMCH = true)
    (ha : s.mch.aligned = true) (hf : s.isHead = false) (hd : s.dupCell 0 h = false) (hang : s.enabled pANG = true)
    (hsrc : s.ang.src = 2) (hstop : s.ang.running = false) (hranged : s.bit pMCH MCH.STATUS_RANGED = true)
    (hrate : s.mch.gotRate = true) :
    Does (.idleCell h angle) s fun u => u.ang.running = true ∧ u.bit pMCH MCH.STATUS_ANGLE_OK = true ∧
      u.ang.acc = (angle % 2 ^ 40 * 2 ^ 16 + s.chainAdvance s.ang.base) % 2 ^ 56 ∧
      (s.now + 16, .slotOut (mkCell 0 h 0 angle) true) ∈ u.timers := by
  have hstart : (s.idleTaken h angle).idleAngle (angle % 2 ^ 40) =
      ((s.idleTaken h angle).startAngle (angle % 2 ^ 40 * 2 ^ 16 + s.chainAdvance s.ang.base) s.ang.base).putB pMCH
        MCH.STATUS_ANGLE_OK true := by
    have hang' : (s.idleTaken h angle).enabled pANG = true := hang
    have hsrc' : (s.idleTaken h angle).ang.src = 2 := hsrc
    have hstop' : (s.idleTaken h angle).ang.running = false := hstop
    have hranged' : (s.idleTaken h angle).bit pMCH MCH.STATUS_RANGED = true := hranged
    have hrate' : (s.idleTaken h angle).mch.gotRate = true := hrate
    unfold State.idleAngle
    rw [if_pos (by simp [hang', hsrc']), if_pos (by simp [hstop']), if_pos (by simp [hranged', hrate'])]
    rfl
  obtain ⟨-, hruns⟩ := (s.idleTaken h angle).startAngle_starts (angle % 2 ^ 40 * 2 ^ 16 + s.chainAdvance s.ang.base) s.ang.base
  obtain ⟨hacc, htimers⟩ :=
    (s.idleTaken h angle).startAngle_keeps (angle % 2 ^ 40 * 2 ^ 16 + s.chainAdvance s.ang.base) s.ang.base
  refine does_of (exec_idleCell h angle s) ?_
  rw [effIdleCell_taken ht hen ha hf hd, hstart]
  refine ⟨hruns, ?_, hacc, ?_⟩
  · exact State.bit_putB_same _ pMCH MCH.STATUS_ANGLE_OK rfl (by decide) true
  · simp only [State.resched_timers, State.putB_timers, htimers]
    exact s.mem_idleTaken h angle

/-- Settles O5: a free slot that comes in goes on by the timer that `State.slotIn_goesOn` gives, and a follower's angle starts at the
head's (`State.startAngle_keeps`). -/
theorem chainFreeSlots : Obligations.ChainFreeSlots :=
  ⟨fun _ _ _ ht hen ha hf hd hang hsrc hstop hranged hrate => idleCell_does ht hen ha hf hd hang hsrc hstop hranged hrate,
   fun _ _ ht hf => voidCell_follower_does ht hf, fun _ _ ht hr hhead hen => voidCell_head_does ht hr hhead hen⟩

end Sys2Proof.Machine
end

section
/-! SUPPORT. Match chain: ranging (R72, R77). -/

namespace Sys2Proof.Machine
open Sys2Proof

variable {s : State}

theorem exec_range (s : State) : exec .range s = .next (s.finish ((effRange s).number .host)) := rfl

theorem exec_rangeStartCell (h : CellHead) (s : State) : exec (.rangeStartCell h) s = .next (s.finish (effRangeStartCell h s)) := rfl

theorem exec_echoWindowEnd (trips : List Nat) (s : State) :
    exec (.echoWindowEnd trips) s = .next (s.finish (effEchoWindowEnd trips s)) := rfl

theorem exec_rangeResultCell (h : CellHead) (v : Nat) (s : State) :
    exec (.rangeResultCell h v) s = .next (s.finish (effRangeResultCell h v s)) := rfl

/-! ## The start of ranging -/

theorem range_does (hrun : s.coreRuns = true) (hhead : s.isHead = true) (hen : s.enabled pMCH = true)
    (hmay : s.mayOriginate 4 = true) (hr : s.bit pMCH MCH.STATUS_RANGING = false)
    (hq : s.mch.queue.any (fun c => c.type == 4) = false) :
    Does .range s fun u =>
      u.mch.queue = s.mch.queue ++ [{ type := 4, src := s.boardNum, seq := AMap.get (fun _ => 0) s.mch.seqs 4, tag := 1, payload := 0 }] ∧
      u.bit pMCH MCH.STATUS_RANGING = false := by
  have heff : effRange s = s.queueCell 4 1 0 := by
    unfold effRange State.rangeNow; rw [if_pos hrun, if_pos (by simp only [hhead, hen, hr, hq]; rfl)]
  have hnum := State.number_only (K := noKeys) (effRange s) .host
  refine does_of (exec_range s) ⟨?_, ?_⟩
  · rw [hnum.mch, heff]; exact State.queueCell_queue hmay (by decide) 1 0
  · rw [hnum.bit (by decide) (by decide) rfl, heff, (s.queueCell_onlyMch 4 1 0).bit]; exact hr

/-- Ranging begins: it is shown, it ends in time, and what else is on its way stays so (R77). -/
theorem State.startRanging_keeps (s : State) :
    s.startRanging.bit pMCH MCH.STATUS_RANGING = true ∧
      (s.now + (30000 + s.get pMCH MCH.RING_DELAY), .rangeEnd) ∈ s.startRanging.timers ∧
      ∀ e ∈ s.timers, e.2 ≠ .rangeEnd → e ∈ s.startRanging.timers := by
  refine ⟨State.bit_putB_same s pMCH MCH.STATUS_RANGING rfl (by decide) true, State.mem_timer _ _ _, fun e he hne => ?_⟩
  exact List.mem_append_left _ (List.mem_filter.mpr ⟨he, by simpa using hne⟩)

theorem rangeStartCell_does {h : CellHead} (ht : s.takesCells 4 = true) (hen : s.enabled pMCH = true) (ha : s.mch.aligned = true)
    (hf : s.isHead = false) (hd : s.dupCell 4 h = false) :
    Does (.rangeStartCell h) s fun u => u.bit pMCH MCH.STATUS_RANGING = true ∧ (s.now + 16, .slotOut (mkCell 4 h 1 0) false) ∈ u.timers ∧
      (s.now + (30000 + s.get pMCH MCH.RING_DELAY), .rangeEnd) ∈ u.timers := by
  obtain ⟨hshown, hend, hkept⟩ := (s.cellTaken 4 h (mkCell 4 h 1 0)).startRanging_keeps
  refine does_of (exec_rangeStartCell h s) ?_
  unfold effRangeStartCell
  rw [State.cellIn_taken ht ha (State.ownCell_follower (by decide) hf _) hen hd (.inl rfl)]
  exact ⟨hshown, hkept _ (s.mem_cellTaken ..) (by simp), hend⟩

/-! ## The echo window -/

/-- A RANGE result cell that leaves stores no register (R73). -/
theorem State.sendCell_result_regs (s : State) {c : Cell} (h4 : c.type = 4) (h1 : c.tag ≠ 1) : (s.sendCell c).regs = s.regs := by
  unfold State.sendCell; dsimp only
  split
  · rfl
  · rw [if_neg (by omega), if_neg (fun e => h1 e.2), if_neg (fun e => by omega), if_neg (by omega)]
    rfl

theorem echoWindowEnd_does (trips : List Nat) (hfw : s.forwards = true) (hr : s.bit pMCH MCH.STATUS_RANGING = true) :
    Does (.echoWindowEnd trips) s fun u =>
      u.get pMCH MCH.HOP_ECHOES = Nat.min 64 trips.length ∧ u.bit pMCH MCH.STATUS_RANGING = true := by
  refine does_of (exec_echoWindowEnd trips s) ?_
  unfold effEchoWindowEnd; rw [if_pos (by simp [hfw, hr])]
  extract_lets n total hop s1 s2 x
  have hn : n ≤ 64 := Nat.min_le_left ..
  have h2 : s2.get pMCH MCH.HOP_ECHOES = n ∧ s2.bit pMCH MCH.STATUS_RANGING = true := by
    have hstatus : Only (mchKeys [0x13]) s s2 :=
      ((Only.refl _ s).put (by decide) (.inr (by decide)) _).put (by decide) (.inr (by decide)) _
    refine ⟨?_, (hstatus.bit (by decide) (by decide) (by decide)).trans hr⟩
    rw [State.get_put_bits s1 (by decide) (by decide) (.inr (by decide)),
      State.get_put_same s pMCH MCH.HOP_ECHOES (by decide) (by decide)]
    exact Nat.mod_eq_of_lt (by simp only [MCH.HOP_ECHOES]; omega)
  split
  · have hregs : (x.2.sendCell x.1).regs = s2.regs := State.sendCell_result_regs x.2 rfl (by decide : 2 % 256 ≠ 1)
    unfold State.bit State.get State.reg at h2 ⊢; rw [hregs]; exact h2
  · exact h2

/-! ## The result -/

/-- Ranging ends: it is no longer shown, the wait for IDLE cells begins anew, and what is on its way stays so (R77, R87). -/
theorem State.endRanging_keeps (s : State) :
    s.endRanging.bit pMCH MCH.STATUS_RANGING = false ∧ Only (mchKeys [2]) s { s.endRanging with mch := s.mch } := by
  have hput : Only (mchKeys [2]) s (s.putB pMCH MCH.STATUS_RANGING false) := (Only.refl _ s).put (by decide) (.inr (by decide)) _
  have hclear : (s.putB pMCH MCH.STATUS_RANGING false).bit pMCH MCH.STATUS_RANGING = false :=
    State.bit_putB_same s pMCH MCH.STATUS_RANGING rfl (by decide) false
  unfold State.endRanging State.when; dsimp only
  split
  · exact ⟨hclear, hput.reg, hput.rest⟩
  · exact ⟨hclear, hput.reg, hput.rest⟩

/-- PEND of CAL is all that shows the corrections pending (R302). -/
theorem State.showPend_only (s : State) : Only (oneKey pCAL CAL.PEND.off) s s.showPend := by
  unfold State.showPend
  exact State.forEach_inv (Only (oneKey pCAL CAL.PEND.off) s) _ _ (fun t i _ h => h.putBit (by decide) (.inr (by decide)) i _) s (Only.refl ..)

/-- A pending correction leaves MCH's registers and what is on its way on the chain. -/
theorem State.pendCorr_keeps (s : State) (page off : Nat) (v : Word) :
    (∀ f : Fld, f.off < 256 → f.off ≠ 9 → (s.pendCorr page off v).get pMCH f = s.get pMCH f) ∧
      (s.pendCorr page off v).timers = s.timers := by
  have heq : ∃ d c, s.pendCorr page off v =
      ((s.withCal fun c => { c with pend := AMap.insert (page * 256 + off) v c.pend }).showPend).resched d c := ⟨_, _, rfl⟩
  obtain ⟨d, c, heq⟩ := heq
  have h := State.showPend_only (s.withCal fun c => { c with pend := AMap.insert (page * 256 + off) v c.pend })
  rw [heq, State.resched_timers, h.timers]
  refine ⟨fun f hf h9 => ?_, rfl⟩
  rw [State.resched_get, h.get hf (by simp [numKey, h9, pMCH, pARB]) (by simp [oneKey, pMCH, pCAL]), State.withCal_get]

/-- What a follower does with a result of another Board, taken in as `t`. -/
theorem effRangeResultCell_taken {h : CellHead} {v : Nat} (ht : s.takesCells 4 = true) (hen : s.enabled pMCH = true)
    (ha : s.mch.aligned = true) (hf : s.isHead = false) (hd : s.dupCell 4 h = false) :
    effRangeResultCell h v s =
      let t := (s.cellTaken 4 h (mkCell 4 h 2 (s.addHop v))).endRanging
      if v = 0xFFFFFFFFFF then (t.flag pMCH MCH.FLAG_RANGE_FAIL).recordErr pMCH 0x0A
      else
        let t := (t.put pMCH MCH.RANGE_OFFSET v).putB pMCH MCH.STATUS_RANGED true
        t.pendCorr pMCH MCH.RANGE_OFFSET.off (t.reg pMCH MCH.RANGE_OFFSET.off) := by
  unfold effRangeResultCell
  rw [State.cellIn_taken ht ha (State.ownCell_follower (by decide) hf _) hen hd (.inl rfl)]

theorem rangeResultCell_does {h : CellHead} {v : Nat} (ht : s.takesCells 4 = true) (hen : s.enabled pMCH = true)
    (ha : s.mch.aligned = true) (hf : s.isHead = false) (hd : s.dupCell 4 h = false) (hv : v ≠ 0xFFFFFFFFFF) :
    Does (.rangeResultCell h v) s fun u => u.get pMCH MCH.RANGE_OFFSET = v % 2 ^ 32 ∧ u.bit pMCH MCH.STATUS_RANGED = true ∧
      u.bit pMCH MCH.STATUS_RANGING = false ∧ (s.now + 16, .slotOut (mkCell 4 h 2 (s.addHop v)) false) ∈ u.timers := by
  refine does_of (exec_rangeResultCell h v s) ?_
  rw [effRangeResultCell_taken ht hen ha hf hd]; dsimp only; rw [if_neg hv]
  generalize hc : s.cellTaken 4 h (mkCell 4 h 2 (s.addHop v)) = c
  obtain ⟨hends, hout⟩ := c.endRanging_keeps
  generalize c.endRanging = e at hends hout ⊢
  generalize ho : e.put pMCH MCH.RANGE_OFFSET v = o
  obtain ⟨hget, htimers⟩ := (o.putB pMCH MCH.STATUS_RANGED true).pendCorr_keeps pMCH MCH.RANGE_OFFSET.off
    ((o.putB pMCH MCH.STATUS_RANGED true).reg pMCH MCH.RANGE_OFFSET.off)
  unfold State.bit
  rw [hget _ (by decide) (by decide), hget _ (by decide) (by decide), hget _ (by decide) (by decide), htimers]
  refine ⟨?_, ?_, ?_, ?_⟩
  · exact (State.get_put_reg o (by decide) _).trans
      (ho ▸ State.get_put_same e pMCH MCH.RANGE_OFFSET (by decide) (by decide) v)
  · exact State.bit_putB_same o pMCH MCH.STATUS_RANGED rfl (by decide) true
  · refine (State.bit_put_bits o (g := MCH.STATUS_RANGING) (by decide) (by decide) (.inr (by decide)) _).trans ?_
    unfold State.bit; rw [← ho, State.get_put_reg e (by decide)]; exact hends
  · have hmem := s.mem_cellTaken 4 h (mkCell 4 h 2 (s.addHop v))
    rw [hc, ← hout.timers] at hmem
    rw [← ho]; exact hmem

theorem rangeResultCell_failed_does {h : CellHead} {v : Nat} (ht : s.takesCells 4 = true) (hen : s.enabled pMCH = true)
    (ha : s.mch.aligned = true) (hf : s.isHead = false) (hd : s.dupCell 4 h = false) (hv : v = 0xFFFFFFFFFF) :
    Does (.rangeResultCell h v) s fun u => u.get pMCH MCH.RANGE_OFFSET = s.get pMCH MCH.RANGE_OFFSET ∧
      u.bit pMCH MCH.FLAG_RANGE_FAIL = true ∧ u.get pMCH COM.LAST_ERR_CODE = 0x0A ∧ u.bit pMCH MCH.STATUS_RANGING = false ∧
      (s.now + 16, .slotOut (mkCell 4 h 2 (s.addHop v)) false) ∈ u.timers := by
  refine does_of (exec_rangeResultCell h v s) ?_
  rw [effRangeResultCell_taken ht hen ha hf hd]; dsimp only; rw [if_pos hv]
  have hmem := s.mem_cellTaken 4 h (mkCell 4 h 2 (s.addHop v))
  have hoffset : (s.cellTaken 4 h (mkCell 4 h 2 (s.addHop v))).get pMCH MCH.RANGE_OFFSET = s.get pMCH MCH.RANGE_OFFSET := rfl
  generalize s.cellTaken 4 h (mkCell 4 h 2 (s.addHop v)) = c at hmem hoffset ⊢
  obtain ⟨hends, hout⟩ := c.endRanging_keeps
  have hflag : Only (mchKeys [4]) c.endRanging (c.endRanging.flag pMCH MCH.FLAG_RANGE_FAIL) :=
    Only.raise (Only.refl _ _) (by decide) (.inr (by decide)) 0
  have herr := State.recordErr_only (K := mchKeys [8]) (c.endRanging.flag pMCH MCH.FLAG_RANGE_FAIL) pMCH 0x0A (.inr (by decide))
  refine ⟨?_, ?_, State.get_recordErr_code _ pMCH 0x0A, ?_, ?_⟩
  · rw [herr.get (by decide) (by decide) (by decide), hflag.get (by decide) (by decide) (by decide)]
    exact (hout.get (by decide) (by decide) (by decide)).trans hoffset
  · exact (herr.bit (by decide) (by decide) (by decide)).trans (State.bit_flag_same _ pMCH MCH.FLAG_RANGE_FAIL rfl (by decide))
  · rw [herr.bit (by decide) (by decide) (by decide), hflag.bit (by decide) (by decide) (by decide)]; exact hends
  · rw [herr.timers, hflag.timers]; exact hout.timers ▸ hmem

/-- Settles O7: RANGE waits in the queue; at a follower what a start or a result stores lies in STATUS, FLAG and the range registers, and
the cell that goes on stays on its way (`State.endRanging_keeps`, `State.pendCorr_keeps`). -/
theorem chainRanging : Obligations.ChainRanging :=
  ⟨fun _ hrun hhead hen hmay hr hq => range_does hrun hhead hen hmay hr hq,
   fun _ _ ht hen ha hf hd => rangeStartCell_does ht hen ha hf hd,
   fun _ trips hfw hr => echoWindowEnd_does trips hfw hr,
   fun _ _ _ ht hen ha hf hd hv => rangeResultCell_does ht hen ha hf hd hv,
   fun _ _ _ ht hen ha hf hd hv => rangeResultCell_failed_does ht hen ha hf hd hv⟩

end Sys2Proof.Machine
end

section
/-! SUPPORT. Match chain: launch slots and their tokens (R84, R88). -/

namespace Sys2Proof.Machine
open Sys2Proof

variable {K : Nat → Nat → Bool} {s t : State}

theorem exec_postToken (token : Nat) (s : State) :
    exec (.postToken token) s = .next (s.finish ((effPostToken token s).number .host)) := rfl

theorem exec_launchCell (h : CellHead) (token angle : Nat) (s : State) :
    exec (.launchCell h token angle) s = .next (s.finish (effLaunchCell h token angle s)) := rfl

theorem exec_lslotFire (n : Nat) (late : Bool) (s : State) : exec (.lslotFire n late) s = .next (s.finish (effLslotFire n late s)) := rfl

theorem postToken_does (token : Nat) (hrun : s.coreRuns = true) (hnum : s.boardNum ≠ 62) (hmay : s.mayOriginate 6 = true) :
    Does (.postToken token) s fun u =>
      u.mch.queue = s.mch.queue ++ [{ type := 6, src := s.boardNum, seq := AMap.get (fun _ => 0) s.mch.seqs 6, tag := token % 256,
                                       payload := s.get pMCH MCH.POST_ANGLE_ANGLE % 2 ^ 40 }] := by
  refine does_of (exec_postToken token s) ?_
  rw [(State.number_only (K := noKeys) _ .host).mch]
  unfold effPostToken; rw [if_pos (by simp [hrun, hnum])]
  exact State.queueCell_queue hmay (by decide) _ _

/-! ## What a token's meeting of a slot can change -/

/-- A late token or a firing slot: FLAG, ERR_COUNT and COUNT2 of MCH. -/
def slotFireKeys : Nat → Nat → Bool := mchKeys [4, 8, 0x1B]

theorem Only.chainLate (h : Only slotFireKeys s t) : Only slotFireKeys s t.chainLate := by
  have hflag : Only slotFireKeys s (t.flag pMCH MCH.FLAG_LATE) := h.raise (by decide) (.inr (by decide)) 0
  exact (hflag.trans (State.recordErr_only _ pMCH 3 (.inr (by decide)))).put (by decide) (.inr (by decide)) _

theorem State.slotFires_only (s : State) (n : Nat) (late : Bool) : Only slotFireKeys s (s.slotFires n late) := by
  have hlate : Only slotFireKeys s (s.when late State.chainLate) := (Only.refl _ s).when late fun _ h => h.chainLate
  have hflag : Only slotFireKeys s ((s.when late State.chainLate).flag pMCH MCH.FLAG_LSLOT n) :=
    hlate.raise (by decide) (.inr (by decide)) n
  have hevent := hflag.trans (State.present_only _ (12 + n) 0)
  unfold State.slotFires; dsimp only
  exact (hevent.when _ fun _ h => h.sched _ _).when _ fun _ h => h.sched _ _

/-- What the slot `n` can change at a token: what its firing can, its angle, and what arming can. -/
def slotKeys (n : Nat) : Nat → Nat → Bool := fun q o => slotFireKeys q o || oneKey pMCH (0x21 + 2 * n) q o || angKeys q o

theorem Only.ofFire {n : Nat} (h : Only slotFireKeys s t) : Only (slotKeys n) s t :=
  h.mono fun q o hk => by unfold slotKeys at hk; cases hf : slotFireKeys q o <;> simp [hf] at hk ⊢

theorem Only.ofArm {n : Nat} (h : Only angKeys s t) : Only (slotKeys n) s t :=
  h.mono fun q o hk => by unfold slotKeys at hk; cases hf : angKeys q o <;> simp [hf] at hk ⊢

theorem Only.holdWake (h : Only K s t) : Only K s t.holdWake := h.when _ fun _ g => g.sched _ _

theorem State.armNext_only (s : State) (x : CmpUser) (target : Nat) : Only angKeys s (s.armNext x target) := (Only.refl _ s).armNext x target

/-- An angle put in a slot is armed at once, or from the next edge on. -/
theorem State.slotArms_only (s : State) (next : Bool) (n angle : Nat) :
    Only angKeys s (if next then s.armNext (.lslot n) angle else s.arm (.lslot n) angle).holdWake := by
  split
  · exact (s.armNext_only ..).holdWake
  · exact (s.arm_only ..).holdWake

/-- A token that the slot waits for puts its angle there, after what the slot has had to do before. -/
theorem State.slotToken_eq {n token : Nat} (angle : Nat) (hen : s.bit pMCH (MCH.LSLOT_CFG_EN n) = true)
    (htok : s.get pMCH (MCH.LSLOT_CFG_TOKEN n) = token) (hang : s.enabled pANG = true) :
    ∃ (t : State) (next : Bool), Only slotFireKeys s t ∧ s.slotToken n token angle =
      (if next then (t.put pMCH (MCH.LSLOT_ANGLE_ANGLE n) angle).armNext (.lslot n) angle
        else (t.put pMCH (MCH.LSLOT_ANGLE_ANGLE n) angle).arm (.lslot n) angle).holdWake := by
  have hfired (t : State) (h : Only slotFireKeys s t) (l : List (Nat × Instr)) :
      Only slotFireKeys s (({ t with agenda := l } : State).slotFires n false) :=
    Only.trans (t := { t with agenda := l }) ⟨h.reg, h.rest⟩ (State.slotFires_only ..)
  have hreplaced (t : State) (h : Only slotFireKeys s t) : Only slotFireKeys s ((t.flag pMCH MCH.FLAG_REPLACED).recordErr pMCH 9) := by
    have hflag : Only slotFireKeys s (t.flag pMCH MCH.FLAG_REPLACED) := h.raise (by decide) (.inr (by decide)) 0
    exact hflag.trans (State.recordErr_only _ pMCH 9 (.inr (by decide)))
  unfold State.slotToken
  rw [if_pos (by simp [hen, htok]), if_neg (by simp [hang])]
  extract_lets due s1 next s2
  have h1 : Only slotFireKeys s s1 := (Only.refl _ s).when due fun t h => hfired t h _
  exact ⟨s2, next, h1.when _ fun t h => hreplaced t h, rfl⟩

theorem State.slotToken_only (s : State) {n : Nat} (hn : n < 8) (token angle : Nat) :
    Only (slotKeys n) s (s.slotToken n token angle) := by
  by_cases hmeets : s.bit pMCH (MCH.LSLOT_CFG_EN n) = true ∧ s.get pMCH (MCH.LSLOT_CFG_TOKEN n) = token
  · obtain ⟨hen, htok⟩ := hmeets
    by_cases hang : s.enabled pANG = true
    · obtain ⟨t, next, ht, he⟩ := State.slotToken_eq angle hen htok hang
      have hput : Only (slotKeys n) s (t.put pMCH (MCH.LSLOT_ANGLE_ANGLE n) angle) :=
        (Only.ofFire ht).put (by simp only [MCH.LSLOT_ANGLE_ANGLE]; omega)
          (.inr (by simp [slotKeys, oneKey, MCH.LSLOT_ANGLE_ANGLE])) angle
      rw [he]
      exact hput.trans (Only.ofArm (State.slotArms_only _ next n angle))
    · have hlate : Only slotFireKeys s (s.inc pMCH MCH.COUNT2_LATE) := (Only.refl _ s).put (by decide) (.inr (by decide)) _
      unfold State.slotToken
      rw [if_pos (by simp [hen, htok]), if_pos (by simpa using hang)]
      exact Only.ofFire hlate
  · unfold State.slotToken
    rw [if_neg (by simpa using hmeets)]
    exact Only.refl _ s

theorem State.slotToken_takes {n token : Nat} (hn : n < 8) (angle : Nat) (hen : s.bit pMCH (MCH.LSLOT_CFG_EN n) = true)
    (htok : s.get pMCH (MCH.LSLOT_CFG_TOKEN n) = token) (hang : s.enabled pANG = true) :
    (s.slotToken n token angle).get pMCH (MCH.LSLOT_ANGLE_ANGLE n) = angle % 2 ^ 40 := by
  have hoff : (MCH.LSLOT_ANGLE_ANGLE n).off = 0x21 + 2 * n := rfl
  obtain ⟨t, next, -, he⟩ := State.slotToken_eq angle hen htok hang
  rw [he, (State.slotArms_only _ next n angle).get (by omega) (by simp [numKey, hoff, pMCH, pARB]; omega) rfl]
  exact State.get_put_same t pMCH (MCH.LSLOT_ANGLE_ANGLE n) (Nat.zero_le _) (Nat.lt_succ_self 39) angle

/-! ## A token meets every slot -/

/-- A field of MCH at 0x20 to 0x2F that is not the angle of slot `m`. -/
theorem slotKeys_other {m : Nat} {f : Fld} (h : 0x20 ≤ f.off ∧ f.off < 0x30) (hm : f.off ≠ 0x21 + 2 * m) :
    numKey pMCH f.off = false ∧ slotKeys m pMCH f.off = false := by
  constructor
  · simp [numKey, pMCH, pARB]; omega
  · simp [slotKeys, slotFireKeys, mchKeys, oneKey, angKeys, pMCH, pANG]; omega

/-- The slot `n` has its angle once it is among those that the token has met. -/
theorem State.forEach_slotToken_takes {n token angle : Nat} (hn : n < 8) {l : List Nat} (hl : ∀ m ∈ l, m < 8)
    (hen : s.bit pMCH (MCH.LSLOT_CFG_EN n) = true) (htok : s.get pMCH (MCH.LSLOT_CFG_TOKEN n) = token) (hang : s.enabled pANG = true)
    (h : n ∈ l ∨ s.get pMCH (MCH.LSLOT_ANGLE_ANGLE n) = angle % 2 ^ 40) :
    (s.forEach l fun s m => s.slotToken m token angle).get pMCH (MCH.LSLOT_ANGLE_ANGLE n) = angle % 2 ^ 40 := by
  induction l generalizing s with
  | nil => exact h.resolve_left List.not_mem_nil
  | cons m l ih =>
    have hm : m < 8 := hl m (List.mem_cons_self ..)
    have hcfg : (MCH.LSLOT_CFG_EN n).off = 0x20 + 2 * n ∧ (MCH.LSLOT_CFG_TOKEN n).off = 0x20 + 2 * n := ⟨rfl, rfl⟩
    have hoff : (MCH.LSLOT_ANGLE_ANGLE n).off = 0x21 + 2 * n := rfl
    have honly := s.slotToken_only hm token angle
    obtain ⟨hn1, hk1⟩ := slotKeys_other (m := m) (f := MCH.LSLOT_CFG_EN n) (by omega) (by omega)
    obtain ⟨hn2, hk2⟩ := slotKeys_other (m := m) (f := MCH.LSLOT_CFG_TOKEN n) (by omega) (by omega)
    have hang' : (s.slotToken m token angle).enabled pANG = true :=
      (honly.bit (f := COM.ENABLE) (by decide) (by decide)
        (by simp [slotKeys, slotFireKeys, mchKeys, oneKey, angKeys, pMCH, pANG, COM.ENABLE])).trans hang
    refine ih (s := s.slotToken m token angle) (fun k hk => hl k (List.mem_cons_of_mem _ hk))
      ((honly.bit (by omega) hn1 hk1).trans hen) ((honly.get (by omega) hn2 hk2).trans htok) hang' ?_
    by_cases hmn : m = n
    · subst hmn; exact .inr (State.slotToken_takes hm angle hen htok hang)
    · obtain ⟨hn3, hk3⟩ := slotKeys_other (m := m) (f := MCH.LSLOT_ANGLE_ANGLE n) (by omega) (by omega)
      refine h.imp (fun hin => ?_) fun hget => (honly.get (by omega) hn3 hk3).trans hget
      exact (List.mem_cons.mp hin).resolve_left (Ne.symm hmn)

theorem State.handleToken_timers (s : State) (token angle : Nat) : (s.handleToken token angle).timers = s.timers := by
  unfold State.handleToken
  refine State.forEach_inv (fun t => t.timers = s.timers) _ _ (fun t m hm ht => ?_) s rfl
  exact (t.slotToken_only (List.mem_range.mp hm) token _).timers.trans ht

theorem launchCell_does {h : CellHead} {token : Nat} (angle : Nat) {n : Nat} (ht : s.takesCells 6 = true) (hen : s.enabled pMCH = true)
    (ha : s.mch.aligned = true) (hf : s.isHead = false) (hd : s.dupCell 6 h = false) (hn : n < 8) (hang : s.enabled pANG = true)
    (hslot : s.bit pMCH (MCH.LSLOT_CFG_EN n) = true) (htok : s.get pMCH (MCH.LSLOT_CFG_TOKEN n) = token) (hs : h.src ≠ s.boardNum) :
    Does (.launchCell h token angle) s fun u => u.get pMCH (MCH.LSLOT_ANGLE_ANGLE n) = angle % 2 ^ 40 ∧
      (s.now + 16, .slotOut (mkCell 6 h token angle) false) ∈ u.timers := by
  refine does_of (exec_launchCell h token angle s) ?_
  unfold effLaunchCell; dsimp only
  rw [State.cellIn_taken ht ha (State.ownCell_other (by decide) hs) hen hd (.inr (State.ranging_of_takes ht (by decide) hf)),
    State.handleToken_timers]
  refine ⟨?_, s.mem_cellTaken ..⟩
  have h8 : ∀ m ∈ List.range 8, m < 8 := fun m hm => List.mem_range.mp hm
  have htakes := State.forEach_slotToken_takes (s := s.cellTaken 6 h (mkCell 6 h token angle)) (token := token) (angle := angle % 2 ^ 40)
    hn h8 hslot htok hang (.inl (List.mem_range.mpr hn))
  exact htakes.trans (Nat.mod_mod ..)

/-! ## A slot fires -/

theorem State.present_cmps (s : State) (p hop : Nat) : (s.present p hop).cmps = s.cmps := by
  have hhold (t : State) (d : Delivery) : (t.holdDelivery d).cmps = t.cmps := by
    unfold State.holdDelivery; dsimp only
    split
    · rfl
    · split
      · exact State.recordErr_cmps ..
      · rfl
  have haccept (t : State) (ch : Nat) : (t.acceptAt p hop ch).cmps = t.cmps := by
    have hdue (b : Bool) (d : Nat) (u : State) : (u.when b fun u => u.sched d (.channelDelivery ch)).cmps = u.cmps := by
      unfold State.when; split <;> rfl
    unfold State.acceptAt; dsimp only
    split
    · split
      · exact State.recordErr_cmps ..
      · exact (hdue ..).trans (hhold ..)
    · rfl
  unfold State.present; dsimp only
  split
  · split
    · refine State.forEach_inv (fun t => t.cmps = s.cmps) _ _ (fun t i _ ht => ?_) _ (State.numberAs_cmps ..)
      split
      · exact State.forEach_inv (fun t => t.cmps = s.cmps) _ _ (fun u k _ hu => (haccept u _).trans hu) t ht
      · exact ht
    · exact State.numberAs_cmps ..
  · rfl

theorem State.slotFires_cmps (s : State) (n : Nat) (late : Bool) : (s.slotFires n late).cmps = s.cmps := by
  have hlate : (s.when late State.chainLate).cmps = s.cmps := by
    unfold State.when State.chainLate; split
    · exact State.recordErr_cmps ..
    · rfl
  have hsched (t : State) (b : Bool) (c : Instr) : (t.when b fun t => t.sched 0 c).cmps = t.cmps := by
    unfold State.when; split <;> rfl
  unfold State.slotFires; dsimp only
  rw [hsched, hsched, State.present_cmps]
  exact hlate

theorem lslotFire_does {n : Nat} (late : Bool) (hrun : s.coreRuns = true) (hn : n < 8) (hen : s.enabled pMCH = true)
    (hang : s.enabled pANG = true) :
    Does (.lslotFire n late) s fun u => u.bitOf pMCH MCH.FLAG_LSLOT n = true ∧ u.slotArmed n = false := by
  refine does_of (exec_lslotFire n late s) ?_
  unfold effLslotFire; rw [if_pos (by simp [hrun, hn, hen, hang])]
  constructor
  · have hset (t : State) : (t.flag pMCH MCH.FLAG_LSLOT n).bitOf pMCH MCH.FLAG_LSLOT n = true :=
      State.bitOf_putBit_same t pMCH MCH.FLAG_LSLOT n (by simp only [MCH.FLAG_LSLOT]; omega) (by decide) true
    have hafter (t : State) : Only noKeys t ((t.present (12 + n) 0).when ((t.present (12 + n) 0).bit pCAL CAL.APPLY_SRC &&
        (t.present (12 + n) 0).get pCAL CAL.APPLY_LSLOT == n) fun s => s.sched 0 .applyPoint) :=
      (State.present_only ..).when _ fun _ h => h.sched _ _
    unfold State.slotFires; dsimp only
    exact (Only.bitOf ((hafter _).when _ fun _ h => h.sched _ _) (by decide) (by decide) rfl n).trans (hset _)
  · unfold State.slotArmed
    rw [State.slotFires_cmps, List.any_eq_false]
    intro c hc
    simpa using (List.mem_filter.mp hc).2

end Sys2Proof.Machine
end

section
/-! SUPPORT. Match chain: the report token (R86). -/

namespace Sys2Proof.Machine
open Sys2Proof

variable {s : State}

theorem exec_reportCell (h : CellHead) (s : State) : exec (.reportCell h) s = .next (s.finish (effReportCell h s)) := rfl

theorem exec_tokenHoldLimit (s : State) : exec .tokenHoldLimit s = .next (s.finish (effTokenHoldLimit s)) := rfl

theorem exec_reportTokenTimeout (s : State) : exec .reportTokenTimeout s = .next (s.finish (effReportTokenTimeout s)) := rfl

theorem State.slotIn_regs (s : State) (c : Cell) (free : Bool) : (s.slotIn c free).regs = s.regs := by unfold State.slotIn; split <;> rfl
theorem State.slotIn_now (s : State) (c : Cell) (free : Bool) : (s.slotIn c free).now = s.now := by unfold State.slotIn; split <;> rfl
theorem State.slotIn_mch (s : State) (c : Cell) (free : Bool) : (s.slotIn c free).mch = s.mch := by unfold State.slotIn; split <;> rfl

theorem State.voidOut_regs (s : State) : s.voidOut.regs = s.regs := State.slotIn_regs ..
theorem State.voidOut_now (s : State) : s.voidOut.now = s.now := State.slotIn_now ..

/-! ## The token is taken -/

/-- The REPORT cell has come in; a head watches anew for the token (R86). -/
def State.reportTaken (s : State) (h : CellHead) : State :=
  (s.goodCell.noteSeen 8 h).when s.isHead fun s =>
    s.resched ((orDefault 1 (s.get pMCH MCH.REPORT_HOLD_LIMIT) + 100) * 216960 / 1000) .reportTokenTimeout

theorem State.reportTaken_keeps (s : State) (h : CellHead) : (s.reportTaken h).regs = s.regs ∧ (s.reportTaken h).now = s.now ∧
    (s.reportTaken h).mayOriginate 8 = s.mayOriginate 8 ∧ (s.reportTaken h).wordsPending = s.wordsPending := by
  unfold State.reportTaken State.when; split <;> exact ⟨rfl, rfl, rfl, rfl⟩

/-- The Board holds the token, until the hold limit at the latest. -/
def State.tokenHeld (s : State) : State :=
  let s := s.voidOut.putB pMCH MCH.STATUS_TOKEN_HELD true
  s.resched (orDefault 1 (s.get pMCH MCH.REPORT_HOLD_LIMIT) * 216960 / 1000) .tokenHoldLimit

theorem State.tokenHeld_holds (s : State) : s.tokenHeld.bit pMCH MCH.STATUS_TOKEN_HELD = true ∧
    (s.now + orDefault 1 (s.get pMCH MCH.REPORT_HOLD_LIMIT) * 216960 / 1000, .tokenHoldLimit) ∈ s.tokenHeld.agenda := by
  have hlimit : (s.voidOut.putB pMCH MCH.STATUS_TOKEN_HELD true).get pMCH MCH.REPORT_HOLD_LIMIT = s.get pMCH MCH.REPORT_HOLD_LIMIT :=
    (State.get_put_reg _ (by decide) _).trans (by unfold State.get State.reg; rw [s.voidOut_regs])
  have hmem := (s.voidOut.putB pMCH MCH.STATUS_TOKEN_HELD true).mem_resched
    (orDefault 1 (s.get pMCH MCH.REPORT_HOLD_LIMIT) * 216960 / 1000) .tokenHoldLimit
  rw [State.putB_now, s.voidOut_now] at hmem
  unfold State.tokenHeld; dsimp only
  rw [hlimit]
  exact ⟨State.bit_putB_same s.voidOut pMCH MCH.STATUS_TOKEN_HELD rfl (by decide) true, hmem⟩

theorem effReportCell_held {h : CellHead} (ht : s.takesCells 8 = true) (hen : s.enabled pMCH = true) (ha : s.mch.aligned = true)
    (hd : h.src = s.boardNum ∨ s.dupCell 8 h = false) (hno : s.bit pMCH MCH.STATUS_TOKEN_HELD = false)
    (hrep : s.bit pMCH MCH.CFG_REPORT_EN = true) (hw : s.wordsPending = true) (hmay : s.mayOriginate 8 = true) :
    effReportCell h s = (s.reportTaken h).tokenHeld := by
  obtain ⟨hregs, -, hmay', hw'⟩ := s.reportTaken_keeps h
  have hbit (f : Fld) : (s.reportTaken h).bit pMCH f = s.bit pMCH f := by unfold State.bit State.get State.reg; rw [hregs]
  have hgood : s.goodCell.mch.aligned = true := by simp [State.goodCell, State.withMch, ha]
  have hen' : s.goodCell.enabled pMCH = true := hen
  have hfresh : (h.src != s.goodCell.boardNum && s.goodCell.dupCell 8 h) = false := by
    have hnum : s.goodCell.boardNum = s.boardNum := rfl
    have hdup : s.goodCell.dupCell 8 h = s.dupCell 8 h := rfl
    rw [hnum, hdup]; rcases hd with hd | hd <;> simp [hd]
  unfold effReportCell
  rw [if_pos ht]
  dsimp only
  rw [hgood, hen', Bool.and_self, Bool.not_true, if_neg (by decide), hfresh, if_neg (by decide)]
  show (if (s.reportTaken h).bit pMCH MCH.STATUS_TOKEN_HELD = true then _
    else if ((s.reportTaken h).bit pMCH MCH.CFG_REPORT_EN && (s.reportTaken h).wordsPending && (s.reportTaken h).mayOriginate 8) = true
      then (s.reportTaken h).tokenHeld else _) = _
  rw [hbit, hno, if_neg (by decide), hbit, hrep, hw', hw, hmay', hmay, if_pos (by decide)]

theorem reportCell_does {h : CellHead} (ht : s.takesCells 8 = true) (hen : s.enabled pMCH = true) (ha : s.mch.aligned = true)
    (hd : h.src = s.boardNum ∨ s.dupCell 8 h = false) (hno : s.bit pMCH MCH.STATUS_TOKEN_HELD = false)
    (hrep : s.bit pMCH MCH.CFG_REPORT_EN = true) (hw : s.wordsPending = true) (hmay : s.mayOriginate 8 = true) :
    Does (.reportCell h) s fun u => u.bit pMCH MCH.STATUS_TOKEN_HELD = true ∧
      (s.now + orDefault 1 (s.get pMCH MCH.REPORT_HOLD_LIMIT) * 216960 / 1000, .tokenHoldLimit) ∈ u.agenda := by
  obtain ⟨hregs, hnow, -, -⟩ := s.reportTaken_keeps h
  have hlimit : (s.reportTaken h).get pMCH MCH.REPORT_HOLD_LIMIT = s.get pMCH MCH.REPORT_HOLD_LIMIT := by
    unfold State.get State.reg; rw [hregs]
  have hheld := (s.reportTaken h).tokenHeld_holds
  rw [hnow, hlimit] at hheld
  refine does_of (exec_reportCell h s) ?_
  rw [effReportCell_held ht hen ha hd hno hrep hw hmay]
  exact hheld

/-! ## The token goes back, or is made anew -/

theorem tokenHoldLimit_does (hrun : s.coreRuns = true) (hheld : s.bit pMCH MCH.STATUS_TOKEN_HELD = true)
    (hidle : s.bit pHPT HPT.STATUS_MASTERING = false) (hrep : s.isHead = false ∨ s.bit pMCH MCH.CFG_REPORT_EN = true)
    (hmay : s.mayOriginate 8 = true) :
    Does .tokenHoldLimit s fun u => u.bit pMCH MCH.STATUS_TOKEN_HELD = false ∧
      u.mch.queue = s.mch.queue ++ [{ type := 8, src := s.boardNum, seq := AMap.get (fun _ => 0) s.mch.seqs 8, tag := 0, payload := 0 }] := by
  refine does_of (exec_tokenHoldLimit s) ?_
  unfold effTokenHoldLimit State.reinsertToken
  rw [if_pos (by simp [hrun, hheld]), if_neg (by simp [hidle]), if_pos hheld]
  extract_lets t1 t2
  have hstatus : Only (mchKeys [2]) s t1 := (Only.refl _ s).put (by decide) (.inr (by decide)) _
  have hcfg : t2.bit pMCH MCH.CFG_REPORT_EN = s.bit pMCH MCH.CFG_REPORT_EN := hstatus.bit (by decide) (by decide) (by decide)
  have hsends : (!t2.isHead || t2.bit pMCH MCH.CFG_REPORT_EN) = true := by
    rw [show t2.isHead = s.isHead from rfl, hcfg]; rcases hrep with h | h <;> simp [h]
  have hmay' : t2.mayOriginate 8 = true := (hstatus.mayOriginate rfl rfl (by decide) 8).trans hmay
  have hsrc : t2.boardNum = s.boardNum := hstatus.get (by decide) (by decide) rfl
  unfold State.when; rw [if_pos hsends]
  constructor
  · rw [(t2.queueCell_onlyMch 8 0 0).bit]
    exact State.bit_putB_same s pMCH MCH.STATUS_TOKEN_HELD rfl (by decide) false
  · refine (State.queueCell_queue hmay' (by decide) 0 0).trans ?_
    unfold State.newCell; dsimp only; rw [hsrc]; rfl

theorem reportTokenTimeout_does (hrun : s.coreRuns = true) (hen : s.enabled pMCH = true) (hranged : s.mch.rangedOnce = true)
    (hhead : s.isHead = true) (hrep : s.bit pMCH MCH.CFG_REPORT_EN = true) (hmay : s.mayOriginate 8 = true) :
    Does .reportTokenTimeout s fun u =>
      u.mch.queue = s.mch.queue ++ [{ type := 8, src := s.boardNum, seq := AMap.get (fun _ => 0) s.mch.seqs 8, tag := 0, payload := 0 }] := by
  refine does_of (exec_reportTokenTimeout s) ?_
  unfold effReportTokenTimeout State.createToken
  rw [if_pos (by simp [hrun, hen, hranged]), if_pos (by simp [hhead, hrep])]
  exact State.queueCell_queue hmay (by decide) 0 0

/-- Settles O8: a token that meets one slot leaves the others and every slot's configuration (`State.slotToken_only`), so that each slot
takes its angle wherever it stands in the row (`State.forEach_slotToken_takes`); a firing arms nothing (`State.slotFires_cmps`). -/
theorem chainTokens : Obligations.ChainTokens :=
  ⟨fun _ token hrun hnum hmay => postToken_does token hrun hnum hmay,
   fun _ _ _ angle _ ht hen ha hf hd hn hang hslot htok hs => launchCell_does angle ht hen ha hf hd hn hang hslot htok hs,
   fun _ _ late hrun hn hen hang => lslotFire_does late hrun hn hen hang,
   fun _ _ ht hen ha hd hno hrep hw hmay => reportCell_does ht hen ha hd hno hrep hw hmay,
   fun _ hrun hheld hidle hrep hmay => tokenHoldLimit_does hrun hheld hidle hrep hmay,
   fun _ hrun hen hranged hhead hrep hmay => reportTokenTimeout_does hrun hen hranged hhead hrep hmay⟩

end Sys2Proof.Machine
end

section
/-! SUPPORT. Match chain: bad and lost cells (R70, R73, R89). -/

namespace Sys2Proof.Machine
open Sys2Proof

variable {s : State}

theorem exec_badCell (word : Nat) (s : State) : exec (.badCell word) s = .next (s.finish (effBadCell word s)) := rfl

theorem exec_cellResend (type : Nat) (s : State) : exec (.cellResend type) s = .next (s.finish (effCellResend type s)) := rfl

/-! ## Bad cells (R70, R73) -/

/-- A bad cell is counted, flagged and recorded. -/
def State.badCellCounted (s : State) : State := ((s.inc pMCH MCH.COUNT1_CRC_ERR).flag pMCH MCH.FLAG_CRC).recordErr pMCH 1

theorem State.badCellCounted_only (s : State) : Only (mchKeys [4, 8, 0x1A]) s s.badCellCounted := by
  have hflag : Only (mchKeys [4, 8, 0x1A]) s ((s.inc pMCH MCH.COUNT1_CRC_ERR).flag pMCH MCH.FLAG_CRC) :=
    Only.raise ((Only.refl _ s).put (by decide) (.inr (by decide)) _) (by decide) (.inr (by decide)) 0
  exact hflag.trans (State.recordErr_only _ pMCH 1 (.inr (by decide)))

theorem State.badCellCounted_reads (s : State) :
    s.badCellCounted.get pMCH MCH.COUNT1_CRC_ERR = satInc 65535 (s.get pMCH MCH.COUNT1_CRC_ERR) ∧
      s.badCellCounted.bit pMCH MCH.FLAG_CRC = true ∧ s.badCellCounted.get pMCH COM.LAST_ERR_CODE = 1 := by
  have herr := State.recordErr_only (K := mchKeys [8]) ((s.inc pMCH MCH.COUNT1_CRC_ERR).flag pMCH MCH.FLAG_CRC) pMCH 1 (.inr (by decide))
  have hflag : Only (mchKeys [4]) (s.inc pMCH MCH.COUNT1_CRC_ERR) ((s.inc pMCH MCH.COUNT1_CRC_ERR).flag pMCH MCH.FLAG_CRC) :=
    Only.raise (Only.refl _ _) (by decide) (.inr (by decide)) 0
  refine ⟨?_, ?_, State.get_recordErr_code _ pMCH 1⟩
  · refine (herr.get (by decide) (by decide) (by decide)).trans ((hflag.get (by decide) (by decide) (by decide)).trans ?_)
    exact State.get_inc_same s pMCH MCH.COUNT1_CRC_ERR (by decide) (by decide)
  · exact (herr.bit (by decide) (by decide) (by decide)).trans (State.bit_flag_same _ pMCH MCH.FLAG_CRC rfl (by decide))

/-- The run of good cells ends, and the fourth bad one in a row loses alignment (R70). -/
def State.alignmentTest (s : State) : State :=
  let s := s.withMch fun m => { m with goodRun := 0, badRun := m.badRun + 1 }
  if 4 ≤ s.mch.badRun then
    let s := s.withMch fun m => { m with aligned := false }
    if !s.isHead then s.sched 0 (.chainAngleLost false) else s
  else s

theorem State.alignmentTest_keeps (s : State) : s.alignmentTest.regs = s.regs ∧ s.alignmentTest.timers = s.timers ∧
    s.alignmentTest.mch.goodRun = 0 ∧ (3 ≤ s.mch.badRun → s.alignmentTest.mch.aligned = false) := by
  unfold State.alignmentTest; dsimp only
  split
  · split <;> exact ⟨rfl, rfl, rfl, fun _ => rfl⟩
  · rename_i h
    exact ⟨rfl, rfl, rfl, fun h3 => absurd (Nat.succ_le_succ h3) h⟩

theorem State.voidOut_badRun (s : State) : s.voidOut.mch.badRun = s.mch.badRun := by
  unfold State.voidOut; dsimp only; rw [State.slotIn_mch]; rfl

/-- A VOID of this Board goes on in the slot, ranging aside (R69, R77). -/
theorem State.mem_voidOut (h : s.bit pMCH MCH.STATUS_RANGING = false) :
    (s.now + 16, .slotOut s.newVoid.1 false) ∈ s.voidOut.timers := by
  have hr : s.newVoid.2.bit pMCH MCH.STATUS_RANGING = false := h
  unfold State.voidOut; dsimp only; rw [State.slotIn_goesOn false (.inr hr)]
  exact s.newVoid.2.mem_timer 16 _

theorem badCell_does {word : Nat} (hfw : s.forwards = true) (hbad : wordBad word = true) :
    Does (.badCell word) s fun u => u.get pMCH MCH.COUNT1_CRC_ERR = satInc 65535 (s.get pMCH MCH.COUNT1_CRC_ERR) ∧
      u.bit pMCH MCH.FLAG_CRC = true ∧ u.get pMCH COM.LAST_ERR_CODE = 1 ∧
      (s.bit pMCH MCH.STATUS_RANGING = false →
         (s.now + 16, .slotOut ({ type := 15, src := s.boardNum, seq := AMap.get (fun _ => 0) s.mch.seqs 15, tag := 0,
                                  payload := 0 } : Cell) false) ∈ u.timers) ∧
      u.mch.goodRun = 0 ∧ (3 ≤ s.mch.badRun → u.mch.aligned = false) := by
  have heff : effBadCell word s = s.badCellCounted.voidOut.alignmentTest := by
    unfold effBadCell; rw [if_pos (by simp [hfw, hbad])]; rfl
  have hcounted := s.badCellCounted_only
  obtain ⟨hregs, htimers, hgood, haligned⟩ := s.badCellCounted.voidOut.alignmentTest_keeps
  have hget (f : Fld) : s.badCellCounted.voidOut.alignmentTest.get pMCH f = s.badCellCounted.get pMCH f := by
    unfold State.get State.reg; rw [hregs, State.voidOut_regs]
  obtain ⟨hcount, hflag, hcode⟩ := s.badCellCounted_reads
  refine does_of (exec_badCell word s) ?_
  rw [heff]
  refine ⟨(hget _).trans hcount, ?_, (hget _).trans hcode, fun hr => ?_, hgood, fun h3 => haligned ?_⟩
  · unfold State.bit at hflag ⊢; rw [hget]; exact hflag
  · have hr' : s.badCellCounted.bit pMCH MCH.STATUS_RANGING = false := (hcounted.bit (by decide) (by decide) (by decide)).trans hr
    have hcell : s.badCellCounted.newVoid.1 =
        { type := 15, src := s.boardNum, seq := AMap.get (fun _ => 0) s.mch.seqs 15, tag := 0, payload := 0 } := by
      have hsrc : s.badCellCounted.boardNum = s.boardNum := hcounted.get (by decide) (by decide) rfl
      unfold State.newVoid State.newCell; dsimp only; rw [hsrc, hcounted.mch]; rfl
    have hmem := State.mem_voidOut hr'
    rw [hcell, hcounted.now] at hmem
    exact htimers ▸ hmem
  · rw [State.voidOut_badRun, hcounted.mch]; exact h3

/-! ## Lost cells (R73, R89) -/

/-- A ring that opens stores STATUS only, and watches and queues the same cells. -/
theorem State.ringOpens_keeps (s : State) : (∀ f : Fld, f.off ≠ 2 → f.off < 256 → s.ringOpens.get pMCH f = s.get pMCH f) ∧
    s.ringOpens.mch.flights = s.mch.flights ∧ s.ringOpens.mch.queue = s.mch.queue ∧
    (s.isHead = true → s.ringOpens.bit pMCH MCH.STATUS_RING_OK = false) := by
  unfold State.ringOpens State.when
  split
  · have hget (t : State) (f : Fld) : t.startStream.get pMCH f = t.get pMCH f := by
      unfold State.get State.reg; rw [t.startStream_regs]
    rw [State.startStream_mch]
    refine ⟨fun f h2 hf => ?_, rfl, rfl, fun _ => ?_⟩
    · rw [hget]; exact State.get_put_reg s (by simp only [MCH.STATUS_RING_OK]; omega) _
    · unfold State.bit; rw [hget]; exact State.bit_putB_same s pMCH MCH.STATUS_RING_OK rfl (by decide) false
  · rename_i h
    exact ⟨fun _ _ _ => rfl, rfl, rfl, fun hhead => by simpa [hhead] using h⟩

/-- The cell `f` is watched no longer. -/
def State.unwatch (s : State) (f : Flight) : State := s.withMch fun m => { m with flights := m.flights.filter fun g => g ≠ f }

theorem State.not_mem_unwatch (s : State) (f : Flight) : f ∉ (s.unwatch f).mch.flights := fun h => by
  simpa using (List.mem_filter.mp h).2

/-- The watched cell of the type that has not come back (R73). -/
theorem effCellResend_found {type : Nat} {f : Flight} (hfw : s.forwards = true) (hen : s.enabled pMCH = true)
    (hfind : (s.mch.flights.find? fun f => f.cell.type == type) = some f) :
    effCellResend type s =
      if f.copy then (((s.unwatch f).flag pMCH MCH.FLAG_LOST).recordErr pMCH 2).ringOpens
      else if (s.unwatch f).bit pMCH MCH.CFG_RESEND_EN && (s.unwatch f).mayOriginate type then
        let t := ((s.unwatch f).inc pMCH MCH.COUNT1_RESENT).withMch fun m => { m with flights := m.flights ++ [{ f with copy := true }] }
        if t.isHead && type == 4 && t.bit pMCH MCH.STATUS_RANGING then t.sendCell f.cell
        else t.withMch fun m => { m with queue := f.cell :: m.queue }
      else (s.unwatch f).ringOpens := by
  unfold effCellResend; rw [if_pos (by simp [hfw, hen]), hfind]; rfl

theorem cellResend_does {type : Nat} {f : Flight} (hfw : s.forwards = true) (hen : s.enabled pMCH = true)
    (hfind : (s.mch.flights.find? fun f => f.cell.type == type) = some f) (hf : s.isHead = false) (hc : f.copy = false)
    (hre : s.bit pMCH MCH.CFG_RESEND_EN = true) (hmay : s.mayOriginate type = true) :
    Does (.cellResend type) s fun u => u.get pMCH MCH.COUNT1_RESENT = satInc 65535 (s.get pMCH MCH.COUNT1_RESENT) ∧
      u.mch.queue = f.cell :: s.mch.queue := by
  have hre' : (s.unwatch f).bit pMCH MCH.CFG_RESEND_EN = true := hre
  have hmay' : (s.unwatch f).mayOriginate type = true := hmay
  refine does_of (exec_cellResend type s) ?_
  rw [effCellResend_found hfw hen hfind, hc, if_neg (by decide), hre', hmay', if_pos (by decide)]
  extract_lets t
  have hf' : t.isHead = false := hf
  rw [hf', Bool.false_and, Bool.false_and, if_neg (by decide)]
  exact ⟨State.get_inc_same (s.unwatch f) pMCH MCH.COUNT1_RESENT (by decide) (by decide), rfl⟩

theorem cellResend_lost_does {type : Nat} {f : Flight} (hfw : s.forwards = true) (hen : s.enabled pMCH = true)
    (hfind : (s.mch.flights.find? fun f => f.cell.type == type) = some f) (hc : f.copy = true) :
    Does (.cellResend type) s fun u => u.bit pMCH MCH.FLAG_LOST = true ∧ u.get pMCH COM.LAST_ERR_CODE = 2 := by
  refine does_of (exec_cellResend type s) ?_
  rw [effCellResend_found hfw hen hfind, if_pos hc]
  have herr := State.recordErr_only (K := mchKeys [8]) ((s.unwatch f).flag pMCH MCH.FLAG_LOST) pMCH 2 (.inr (by decide))
  obtain ⟨hget, -⟩ := (((s.unwatch f).flag pMCH MCH.FLAG_LOST).recordErr pMCH 2).ringOpens_keeps
  constructor
  · unfold State.bit; rw [hget _ (by decide) (by decide)]
    exact (herr.bit (by decide) (by decide) (by decide)).trans (State.bit_flag_same _ pMCH MCH.FLAG_LOST rfl (by decide))
  · rw [hget _ (by decide) (by decide)]; exact State.get_recordErr_code _ pMCH 2

theorem cellResend_unwatched_does {type : Nat} {f : Flight} (hfw : s.forwards = true) (hen : s.enabled pMCH = true)
    (hfind : (s.mch.flights.find? fun f => f.cell.type == type) = some f) (hc : f.copy = false)
    (hre : s.bit pMCH MCH.CFG_RESEND_EN = false) :
    Does (.cellResend type) s fun u => f ∉ u.mch.flights ∧ u.bit pMCH MCH.FLAG_LOST = s.bit pMCH MCH.FLAG_LOST ∧
      u.mch.queue = s.mch.queue ∧ (s.isHead = true → u.bit pMCH MCH.STATUS_RING_OK = false) := by
  have hre' : (s.unwatch f).bit pMCH MCH.CFG_RESEND_EN = false := hre
  obtain ⟨hget, hflights, hqueue, hopen⟩ := (s.unwatch f).ringOpens_keeps
  refine does_of (exec_cellResend type s) ?_
  rw [effCellResend_found hfw hen hfind, hc, if_neg (by decide), hre', Bool.false_and, if_neg (by decide)]
  refine ⟨hflights ▸ s.not_mem_unwatch f, ?_, hqueue, hopen⟩
  unfold State.bit; rw [hget _ (by decide) (by decide)]; rfl

end Sys2Proof.Machine
end

section
/-! SUPPORT. Match chain: the loss of the chain angle, and EVENT cells (R85, R87). -/

namespace Sys2Proof.Machine
open Sys2Proof

variable {s : State}

theorem exec_chainAngleLost (mclk : Bool) (s : State) :
    exec (.chainAngleLost mclk) s = .next (s.finish (effChainAngleLost mclk s)) := rfl

theorem exec_eventCell (h : CellHead) (ch hop angle : Nat) (s : State) :
    exec (.eventCell h ch hop angle) s = .next (s.finish (effEventCell h ch hop angle s)) := rfl

/-! ## A fault's reach -/

theorem State.setFault_mch (s : State) (page bit code : Nat) (i : FaultInfo) : (s.setFault page bit code i).mch = s.mch := by
  have hdetected (t : State) (cls : Nat) : (t.tstDetected cls).mch = t.mch := rfl
  unfold State.setFault; dsimp only
  split
  · exact State.recordErr_mch ..
  · split
    · rw [hdetected]; exact State.recordErr_mch ..
    · exact State.recordErr_mch ..

/-- A fault stores FAULT, ERR_COUNT and LAST_ERR of its page, and an injection's outcome at TST (R34, R424). -/
theorem State.setFault_get (s : State) (page bit code : Nat) (i : FaultInfo) {q : Nat} {f : Fld} (hf : f.off < 256)
    (h7 : f.off ≠ 7) (h8 : f.off ≠ 8) (hn : numKey q f.off = false) (hq : q ≠ pTST) :
    (s.setFault page bit code i).get q f = s.get q f := by
  have herr : (s.recordErr page code).get q f = s.get q f :=
    (State.recordErr_only (K := fun _ o => o == 8) s page code (.inr rfl)).get hf hn (by simpa using h8)
  have hset (t : State) (c : Nat) (j : FaultInfo) (b : Bool) : ((t.raise page COM.FAULT bit).reportFault page c j b).get q f = t.get q f :=
    State.get_put_reg t (f := ⟨7, 0 + bit, 0 + bit⟩) (by simp only; omega) _
  have hdetected (t : State) (cls : Nat) : (t.tstDetected cls).get q f = t.get q f := by
    unfold State.get; rw [t.tstDetected_reg cls hq hf]
  unfold State.setFault; dsimp only
  split
  · exact herr
  · split
    · rw [hdetected, hset, herr]
    · rw [hset, herr]

theorem State.setFault_bit (s : State) (page bit code : Nat) (i : FaultInfo) {q : Nat} {f : Fld} (hf : f.off < 256)
    (h7 : f.off ≠ 7) (h8 : f.off ≠ 8) (hn : numKey q f.off = false) (hq : q ≠ pTST) :
    (s.setFault page bit code i).bit q f = s.bit q f := by
  unfold State.bit; rw [s.setFault_get page bit code i hf h7 h8 hn hq]

/-- A bit of a field is set where a one-bit field of that place is. -/
theorem State.bit_of_bitOf {p i : Nat} {f g : Fld} (h : s.bitOf p f i = true) (hoff : g.off = f.off) (hlo : g.lo = f.lo + i)
    (hhi : g.hi = g.lo) : s.bit p g = true := by
  have hf : (s.reg p f.off).getLsbD (f.lo + i) = true := by
    unfold State.bitOf State.get at h
    rw [Fld.get_testBit] at h
    exact (Bool.and_eq_true_iff.mp h).2
  have hg : (s.get p g).testBit 0 = true := by
    unfold State.get
    rw [Fld.get_testBit, hoff, hhi, hlo]; simpa using hf
  unfold State.bit
  rw [bne_iff_ne]
  intro h0
  rw [h0] at hg
  exact absurd hg (by decide)

/-! ## The loss of the chain angle (R87) -/

/-- STATUS of MCH and of ANG, and HOLD, as the chain angle is lost. -/
def State.chainLostShown (s : State) : State :=
  let s := (s.putB pMCH MCH.STATUS_ANGLE_OK false).putB pMCH MCH.STATUS_REALIGN false
  (s.putB pANG ANG.STATUS_HOLDOVER true).put pANG ANG.HOLD_CYCLES 0

theorem State.chainLostShown_reads (s : State) : s.chainLostShown.bit pMCH MCH.STATUS_ANGLE_OK = false ∧
    s.chainLostShown.bit pANG ANG.STATUS_HOLDOVER = true ∧ s.chainLostShown.get pANG ANG.HOLD_CYCLES = 0 := by
  unfold State.chainLostShown; dsimp only
  refine ⟨?_, ?_, State.get_put_same _ pANG ANG.HOLD_CYCLES (by decide) (by decide) 0⟩
  · refine Eq.trans ?_ (State.bit_putB_same s pMCH MCH.STATUS_ANGLE_OK rfl (by decide) false)
    unfold State.bit State.putB
    rw [State.get_put_reg _ (by decide), State.get_put_reg _ (by decide),
      State.get_put_bits _ (f := MCH.STATUS_REALIGN) (by decide) (by decide) (.inl (by decide))]
  · have hcycles (t : State) : (t.put pANG ANG.HOLD_CYCLES 0).bit pANG ANG.STATUS_HOLDOVER = t.bit pANG ANG.STATUS_HOLDOVER := by
      unfold State.bit; rw [State.get_put_reg t (by decide)]
    exact (hcycles _).trans (State.bit_putB_same _ pANG ANG.STATUS_HOLDOVER rfl (by decide) true)

/-- A follower's own holdover begins: what is shown of it stays through its flag, its error and its fault. -/
theorem State.loseChain_shows (s : State) : s.loseChain.bit pMCH MCH.STATUS_ANGLE_OK = false ∧
    s.loseChain.bit pANG ANG.STATUS_HOLDOVER = true ∧ s.loseChain.get pANG ANG.HOLD_CYCLES = 0 ∧ s.loseChain.mch.lost = true ∧
    s.loseChain.bit pMCH MCH.FAULT_ANGLE_LOST = true := by
  obtain ⟨hok, hhold, hcycles⟩ := (s.withMch fun m => { m with lost := true }).chainLostShown_reads
  unfold State.loseChain; extract_lets s1 s2 s3 s4 s5
  have hflag : Only angKeys s3 (s3.flag pANG ANG.FLAG_HOLDOVER) := Only.raise (Only.refl _ _) (by decide) (.inr (by decide)) 0
  have herr : Only angKeys s4 s5 := State.recordErr_only s4 pANG 6 (.inr (by decide))
  have hkept {q : Nat} {f : Fld} (hf : f.off < 256) (hn : numKey q f.off = false) (hk : angKeys q f.off = false) :
      s5.get q f = s3.get q f := (herr.get hf hn hk).trans ((State.withAng_get ..).trans (hflag.get hf hn hk))
  refine ⟨?_, ?_, ?_, ?_, ?_⟩
  · rw [State.setFault_bit _ _ _ _ _ (by decide) (by decide) (by decide) (by decide) (by decide)]
    unfold State.bit; rw [hkept (by decide) (by decide) (by decide)]; exact hok
  · rw [State.setFault_bit _ _ _ _ _ (by decide) (by decide) (by decide) (by decide) (by decide)]
    unfold State.bit; rw [hkept (by decide) (by decide) (by decide)]; exact hhold
  · rw [State.setFault_get _ _ _ _ _ (by decide) (by decide) (by decide) (by decide) (by decide),
      hkept (by decide) (by decide) (by decide)]
    exact hcycles
  · rw [State.setFault_mch, herr.mch]; rfl
  · exact State.bit_of_bitOf (State.setFault_sets s5 6 _ (by decide) (by decide)) rfl rfl rfl

theorem chainAngleLost_does {mclk : Bool} (hup : s.coreUp = true) (hrole : s.mch.roleSet = true) (hf : s.isHead = false)
    (hok : s.bit pMCH MCH.STATUS_ANGLE_OK = true) (hm : mclk = true ∨ s.bit pMCH MCH.STATUS_RANGING = false) :
    Does (.chainAngleLost mclk) s fun u => u.bit pMCH MCH.STATUS_ANGLE_OK = false ∧ u.bit pANG ANG.STATUS_HOLDOVER = true ∧
      u.get pANG ANG.HOLD_CYCLES = 0 ∧ u.mch.lost = true ∧ u.bit pMCH MCH.FAULT_ANGLE_LOST = true := by
  have heff : ∃ t, effChainAngleLost mclk s = State.loseChain t := by
    unfold effChainAngleLost; extract_lets s1 s2
    have hup' : s1.coreUp = true := hup
    have hrole' : s1.mch.roleSet = true := hrole
    have hf' : s1.isHead = false := hf
    have hbit {f : Fld} (ho : f.off = 2) : s2.bit pMCH f = s.bit pMCH f := by
      unfold s2 State.when
      split
      · exact State.setFault_bit _ _ _ _ _ (by omega) (by omega) (by omega) (by rw [ho]; decide) (by decide)
      · rfl
    refine ⟨s2, ?_⟩
    rw [if_pos (by simp [hup', hrole', hf']), if_pos]
    rw [hbit rfl, hbit rfl, hok]
    rcases hm with h | h <;> simp [h]
  obtain ⟨t, heff⟩ := heff
  refine does_of (exec_chainAngleLost mclk s) ?_
  rw [heff]
  exact t.loseChain_shows

/-! ## EVENT cells (R85, R289) -/

/-- A delivery of the channel, kind, edge and angle of `d`. -/
def Delivery.sameAs (d e : Delivery) : Bool := e.ch == d.ch && e.chain == d.chain && e.due == d.due && e.angle == d.angle

/-- A channel with a free place of its four holds the delivery, merged with one that is the same already or as its own (R280). -/
theorem State.holdDelivery_holds (d : Delivery)
    (hfree : (s.deliveries.filter fun e => e.ch == d.ch).length + s.fires.count (d.ch, s.now) < 4) :
    (s.holdDelivery d).deliveries.any d.sameAs = true := by
  unfold State.holdDelivery; dsimp only
  split
  · rename_i hmerge
    obtain ⟨e, he, hsame⟩ := List.any_eq_true.mp hmerge
    refine List.any_eq_true.mpr ⟨_, List.mem_map.mpr ⟨e, he, rfl⟩, ?_⟩
    split
    · exact hsame
    · exact hsame
  · rw [if_neg (by omega)]
    refine List.any_eq_true.mpr ⟨d, List.mem_append_right _ (List.mem_singleton_self d), ?_⟩
    simp [Delivery.sameAs]

/-- A late event leaves the deliveries held, and the places that count. -/
theorem State.chainLate_keeps (s : State) (b : Bool) : (s.when b State.chainLate).deliveries = s.deliveries ∧
    (s.when b State.chainLate).fires = s.fires ∧ (s.when b State.chainLate).now = s.now := by
  have h : Only slotFireKeys s (s.when b State.chainLate) := (Only.refl _ s).when b fun _ h => h.chainLate
  refine ⟨?_, (congrArg State.fires h.rest :), h.now⟩
  unfold State.when; split
  · exact State.recordErr_deliveries ..
  · rfl

theorem State.arm_deliveries (s : State) (x : CmpUser) (target : Nat) : (s.arm x target).deliveries = s.deliveries := by
  unfold State.arm; dsimp only
  split
  · rfl
  · split
    · exact State.recordErr_deliveries ..
    · split <;> rfl

theorem State.holdWake_deliveries (s : State) : s.holdWake.deliveries = s.deliveries := by
  unfold State.holdWake State.when; split <;> rfl

/-- A cell taken in leaves what the channels are set to (R274). -/
theorem State.cellTaken_channel (s : State) (type : Nat) (h : CellHead) (out : Cell) (ch : Nat) :
    (s.cellTaken type h out).channelOn ch = s.channelOn ch ∧ (s.cellTaken type h out).chainLinked ch = s.chainLinked ch := by
  have hregs : (s.cellTaken type h out).unwritten.regs = s.unwritten.regs := rfl
  unfold State.channelOn State.chainLinked State.enabled State.bit State.get State.reg
  rw [hregs]
  exact ⟨rfl, rfl⟩

theorem eventCell_does {h : CellHead} {ch : Nat} (hop angle : Nat) (ht : s.takesCells 7 = true) (hen : s.enabled pMCH = true)
    (ha : s.mch.aligned = true) (hf : s.isHead = false) (hd : s.dupCell 7 h = false) (hs : h.src ≠ s.boardNum) (h48 : 48 ≤ ch)
    (h64 : ch < 64) (hon : s.channelOn ch = true) (hlinked : s.chainLinked ch = true) (hang : s.enabled pANG = true)
    (hfree : (s.deliveries.filter fun e => e.ch == ch).length + s.fires.count (ch, s.now) < 4) :
    Does (.eventCell h ch hop angle) s fun u =>
      u.deliveries.any (fun d => d.ch == ch && d.chain && d.due == 0 && d.angle == angle % 2 ^ 40) = true := by
  refine does_of (exec_eventCell h ch hop angle s) ?_
  unfold effEventCell; dsimp only
  rw [State.cellIn_taken ht ha (State.ownCell_other (by decide) hs) hen hd (.inr (State.ranging_of_takes ht (by decide) hf))]
  obtain ⟨hon', hlinked'⟩ := s.cellTaken_channel 7 h (mkCell 7 h (hop % 16 * 16 + (ch - 48) % 16) angle) ch
  rw [hon] at hon'
  rw [hlinked] at hlinked'
  have hang' : (s.cellTaken 7 h (mkCell 7 h (hop % 16 * 16 + (ch - 48) % 16) angle)).enabled pANG = true := hang
  have hdeliveries : (s.cellTaken 7 h (mkCell 7 h (hop % 16 * 16 + (ch - 48) % 16) angle)).deliveries = s.deliveries := rfl
  have hfires : (s.cellTaken 7 h (mkCell 7 h (hop % 16 * 16 + (ch - 48) % 16) angle)).fires = s.fires := rfl
  have hnow : (s.cellTaken 7 h (mkCell 7 h (hop % 16 * 16 + (ch - 48) % 16) angle)).now = s.now := rfl
  rw [← hdeliveries, ← hfires, ← hnow] at hfree
  generalize s.cellTaken 7 h (mkCell 7 h (hop % 16 * 16 + (ch - 48) % 16) angle) = c at hon' hlinked' hang' hfree ⊢
  rw [if_pos (by simp [h48, h64, hon', hlinked']), if_neg (by simp [hang'])]
  obtain ⟨hdel, hfire, hat⟩ := c.chainLate_keeps (c.ang.running && c.lateTarget (angle % 2 ^ 40))
  generalize c.when (c.ang.running && c.lateTarget (angle % 2 ^ 40)) State.chainLate = l at hdel hfire hat ⊢
  rw [← hdel, ← hfire, ← hat] at hfree
  have hheld := State.holdDelivery_holds (s := l)
    { ch := ch, due := 0, hop := hop % 16, chain := true, angle := angle % 2 ^ 40, unaligned := false } hfree
  rw [State.holdWake_deliveries]
  refine Eq.trans (congrArg₂ List.any ?_ ?_) hheld
  · split
    · rfl
    · exact State.arm_deliveries ..
  · funext d; simp [Delivery.sameAs]

/-- Settles O9: a bad cell is counted before the VOID takes its slot, a watched cell is sent once more or given up
(`effCellResend_found`), and what the loss of the chain angle shows outlasts its error and its fault (`State.setFault_get`). -/
theorem chainErrors : Obligations.ChainErrors :=
  ⟨fun _ _ hfw hbad => badCell_does hfw hbad,
   fun _ _ _ hfw hen hfind hf hc hre hmay => cellResend_does hfw hen hfind hf hc hre hmay,
   fun _ _ _ hfw hen hfind hc => cellResend_lost_does hfw hen hfind hc,
   fun _ _ _ hfw hen hfind hc hre => cellResend_unwatched_does hfw hen hfind hc hre,
   fun _ _ hup hrole hf hok hm => chainAngleLost_does hup hrole hf hok hm,
   fun _ _ _ hop angle ht hen ha hf hd hs h48 h64 hon hlinked hang hfree =>
     eventCell_does hop angle ht hen ha hf hd hs h48 h64 hon hlinked hang hfree⟩

end Sys2Proof.Machine
end

section
/-! SUPPORT. What happens at once leaves the host port as it was: chains, taps, rails and the ends of moves. -/

namespace Sys2Proof.Machine
open Sys2Proof

@[simp] theorem hpt_ite (c : Prop) [Decidable c] (x y : State) : (if c then x else y).hpt = if c then x.hpt else y.hpt := apply_ite _ c x y

@[simp] theorem State.when_hpt (s : State) (c : Bool) (f : State → State) : (s.when c f).hpt = if c then (f s).hpt else s.hpt :=
  apply_ite _ _ _ _

@[simp] theorem State.forEach_hpt {α : Type} {f : State → α → State} (hf : ∀ t a, (f t a).hpt = t.hpt) (s : State) (l : List α) :
    (s.forEach l f).hpt = s.hpt :=
  State.forEach_inv (fun u => u.hpt = s.hpt) l f (fun t a _ h => (hf t a).trans h) s rfl

@[simp] theorem State.numberAs_hpt (s : State) (r n : Nat) : (s.numberAs r n).2.hpt = s.hpt :=
  State.numberAs_keeps State.hpt (fun _ _ _ _ => rfl) (fun _ _ => rfl) s r n

@[simp] theorem State.recordErr_hpt (s : State) (p c : Nat) : (s.recordErr p c).hpt = s.hpt :=
  State.recordErr_keeps State.hpt (fun _ _ _ _ => rfl) (fun _ _ => rfl) (fun _ => rfl) s p c

@[simp] theorem State.setField_hpt (s : State) (n st : Nat) : (s.setField n st).hpt = s.hpt := rfl
@[simp] theorem State.dropJobs_hpt (s : State) (r : Nat) : (s.dropJobs r).hpt = s.hpt := rfl

@[simp] theorem State.releaseWing_hpt (s : State) (w : Nat) : (s.releaseWing w).hpt = s.hpt := by
  unfold State.releaseWing State.setOwner; simp

@[simp] theorem State.selectTap_hpt (s : State) (n p : Nat) : (s.selectTap n p).hpt = s.hpt := by
  have hput (t : State) (f : Fld) (x : Nat) : (t.rxPutHw n f x).hpt = t.hpt := by
    unfold State.rxPutHw State.putHw State.mirrorTake; dsimp only; split <;> rfl
  unfold State.selectTap; simp [hput]

@[simp] theorem State.retap_hpt (s : State) (n : Nat) : (s.retap n).hpt = s.hpt := by
  unfold State.retap; split
  · rfl
  · split <;> simp

@[simp] theorem State.retapWing_hpt (s : State) (w : Nat) : (s.retapWing w).hpt = s.hpt := by
  unfold State.retapWing; simp

@[simp] theorem State.openSwitch_hpt (s : State) (n : Nat) : (s.openSwitch n).hpt = s.hpt := by
  unfold State.openSwitch; split <;> simp

@[simp] theorem State.addJob_hpt (s : State) (j : Job) : (s.addJob j).hpt = s.hpt := by
  have hserve (t : State) : t.serveJob.hpt = t.hpt := by unfold State.serveJob; split <;> simp
  unfold State.addJob; simp [hserve]

@[simp] theorem State.followRails_hpt (s : State) : s.followRails.hpt = s.hpt := by
  have hraise {t u : State} {r d : Nat} (h : t.raiseInUp r d = some u) : u.hpt = t.hpt := by
    unfold State.raiseInUp at h; split at h
    · cases h
    · cases h; rfl
  have hrail (t : State) (r : Nat) : (t.followRail r).hpt = t.hpt := by
    unfold State.followRail; split
    · rfl
    · dsimp only; split
      · split
        · unfold State.railUp; simp
        · split
          · exact hraise (t := t.unsched (.railLowering r)) ‹_›
          · unfold State.railChange; simp
      · simp
  unfold State.followRails; rw [hrail, hrail]

@[simp] theorem State.armNow_hpt (s : State) (n : Nat) : (s.armNow n).hpt = s.hpt := by
  have hswitch (t : State) (p : Nat) : (t.setSwitch n p).hpt = t.hpt := by unfold State.setSwitch; simp
  unfold State.armNow; simp [hswitch]

@[simp] theorem State.endMove_hpt (s : State) (c status : Nat) : (s.endMove c status).hpt = s.hpt := by
  have hshow (t : State) : (t.tuneShow c status).hpt = t.hpt := by unfold State.tuneShow; split <;> simp
  unfold State.endMove; split
  · rfl
  · simp [hshow]

@[simp] theorem State.endFor_hpt (s : State) (c : Option Nat) (status : Nat) : (s.endFor c status).hpt = s.hpt := by
  unfold State.endFor; split <;> simp

@[simp] theorem State.wakeChains_hpt (s : State) : s.wakeChains.hpt = s.hpt := by
  unfold State.wakeChains; simp

theorem State.dropArmed_hpt (s : State) (n st : Nat) : (s.dropArmed n st).hpt = s.hpt := by
  have hheld (t : State) : (t.takeHeld n).hpt = t.hpt := by unfold State.takeHeld; split <;> simp
  unfold State.dropArmed State.tuneEnd; simp [hheld]

/-- Without inventory Wings a cross-Board field-off cuts no round. -/
theorem State.fieldOffNow_hpt {s : State} (hi : s.inv.wings = []) (w hop : Nat) : (s.fieldOffNow w hop).hpt = s.hpt := by
  have hramp (t : State) (n st : Nat) : (t.rampDown n st).hpt = t.hpt := by unfold State.rampDown; simp
  unfold State.fieldOffNow; simp [invCut_of_none hi, hramp, State.dropArmed_hpt]

theorem State.releases_hpt (s : State) : s.releaseTx8.releaseRx16.hpt = s.hpt := by
  have hact (t : State) (a b : Nat) : (t.moveAct a b).hpt = t.hpt := by unfold State.moveAct; simp
  have htx : s.releaseTx8.hpt = s.hpt := by unfold State.releaseTx8; simp [hact]
  unfold State.releaseRx16; simp [htx]

theorem State.calShow_hpt (s : State) : s.calShow.hpt = s.hpt := by unfold State.calShow; simp

/-- An operation that keeps the port keeps it where it is done under a condition. -/
theorem State.when_keeps_hpt {f : State → State} (hf : ∀ t, (f t).hpt = t.hpt) (s : State) (c : Bool) : (s.when c f).hpt = s.hpt := by
  cases c
  · rfl
  · exact hf s

@[simp] theorem State.calOver_hpt (s : State) : s.calOver.hpt = s.hpt := by
  unfold State.calOver; extract_lets stage w s1 s2 s3 s4
  have h4 : s4.hpt = s3.hpt := State.when_keeps_hpt (fun t => by simp) s3 _
  exact ((State.forEach_hpt State.releaseWing_hpt _ _).trans h4).trans (State.calShow_hpt s2)

@[simp] theorem State.xbOver_hpt (s : State) : s.xbOver.hpt = s.hpt := by
  unfold State.xbOver State.rxRest; simp

theorem State.calLevel_hpt (t : State) : (t.forEach (List.range 9) fun s n => s.withTx n fun t => { t with level := 0 }).hpt = t.hpt :=
  State.forEach_hpt (fun t n => State.withTx_hpt t n _) t _

theorem State.calSettle_hpt {s : State} (hi : s.inv.wings = []) : s.calSettle.hpt = s.hpt := by
  unfold State.calSettle; extract_lets n s1 s2 s3
  have h1 : s1.hpt = s.hpt := by
    unfold s1; simp [State.fieldOffNow_hpt hi, State.calLevel_hpt]
  have h2 : s2.hpt = s1.hpt := by unfold s2; simp
  have h3 : s3.hpt = s2.hpt := by unfold s3 State.simulAt; simp
  simp [h3, h2, h1]

end Sys2Proof.Machine
end

section
/-! SUPPORT. What happens at once leaves the host port as it was: flash, Scoresheet, power modes; the result of the latest frame. -/

namespace Sys2Proof.Machine
open Sys2Proof

@[simp] theorem State.xmpShow_hpt (s : State) : s.xmpShow.hpt = s.hpt := by
  unfold State.xmpShow; dsimp only; split <;> simp

@[simp] theorem State.xmpStart_hpt (s : State) : s.xmpStart.hpt = s.hpt := State.xmpShow_hpt _

@[simp] theorem State.xmpRange_hpt (s : State) : s.xmpRange.hpt = s.hpt := State.recordErr_hpt ..

@[simp] theorem State.xmpPost_hpt (s : State) (owner off : Nat) (bytes : List Nat) : (s.xmpPost owner off bytes).2.hpt = s.hpt := by
  unfold State.xmpPost; split
  · simp
  · dsimp only; split <;> simp

@[simp] theorem State.xmpEraseQ_hpt (s : State) (t off owner : Nat) : (s.xmpEraseQ t off owner).2.hpt = s.hpt := by
  unfold State.xmpEraseQ; dsimp only; split
  · simp
  · split <;> simp

theorem State.xmpDiscard_hpt (s : State) : s.xmpDiscard.hpt = s.hpt := by
  have hdone (t : State) (owner : Nat) : (t.xmpOwnerDone owner).hpt = t.hpt := by unfold State.xmpOwnerDone; simp
  unfold State.xmpDiscard; extract_lets l s1 s2 s3 s4
  have h2 : s2.hpt = s1.hpt := State.forEach_hpt (fun t _ => by simp) s1 l
  have h3 : s3.hpt = s2.hpt := State.forEach_hpt (fun t _ => by simp [hdone]) s2 _
  have h4 : s4.hpt = s3.hpt := State.forEach_hpt (fun t _ => State.sched_hpt ..) s3 _
  rw [State.xmpShow_hpt, h4, h3, h2]; rfl

@[simp] theorem State.scoPush_hpt (s : State) (kind arbseq : Nat) (inj : Bool) (payload : List Nat) :
    (s.scoPush kind arbseq inj payload).hpt = s.hpt := State.put_hpt ..

@[simp] theorem State.scoLose_hpt (s : State) : s.scoLose.hpt = s.hpt := State.inc_hpt ..

@[simp] theorem State.scoRecord_hpt (s : State) (kind arbseq : Nat) (payload : List Nat) (inj : Bool) :
    (s.scoRecord kind arbseq payload inj).hpt = s.hpt := by
  unfold State.scoRecord State.scoDrop; simp

@[simp] theorem State.scoLostRecord_hpt (s : State) : s.scoLostRecord.hpt = s.hpt := by unfold State.scoLostRecord; simp

@[simp] theorem State.scoShow_hpt (s : State) : s.scoShow.hpt = s.hpt := by unfold State.scoShow; simp

@[simp] theorem State.scoRefuse_hpt (s : State) : s.scoRefuse.hpt = s.hpt := by
  have hdiscard (t : State) : t.scoDiscard.hpt = t.hpt := by
    unfold State.scoDiscard
    exact (State.put_hpt ..).trans (State.forEach_hpt (fun u _ => State.scoLose_hpt u) t _)
  unfold State.scoRefuse; simp [hdiscard]

@[simp] theorem State.scoTest_hpt (s : State) : s.scoTest.hpt = s.hpt := by unfold State.scoTest; simp

@[simp] theorem State.scoAdvance_hpt (s : State) : s.scoAdvance.hpt = s.hpt := by
  have herase (t : State) (k : Nat) : (t.scoEraseSector k).hpt = t.hpt := by
    unfold State.scoEraseSector; dsimp only; split <;> simp
  unfold State.scoAdvance; simp [herase]

@[simp] theorem State.scoProgram_hpt (s : State) : s.scoProgram.hpt = s.hpt := by
  have hpair (x : Bool × State) : (if x.1 then (x.2.withSco fun y => { y with op := 1 }).scoShow else x.2).hpt = x.2.hpt := by
    split <;> simp
  unfold State.scoProgram; split
  · exact (hpair _).trans (State.xmpPost_hpt ..)
  · rfl

theorem State.scoSettle_hpt (s : State) : s.scoSettle.hpt = s.hpt := by
  unfold State.scoSettle; simp

theorem State.pwrSettle_hpt (s : State) : s.pwrSettle.hpt = s.hpt := by
  have hentry (t : State) : t.entrySettle.hpt = t.hpt := by unfold State.entrySettle; simp [State.xmpDiscard_hpt]
  have href (t : State) : t.refSwitch.hpt = t.hpt := by unfold State.refSwitch State.synStart; simp
  have hsyn (t : State) : t.synStop.hpt = t.hpt := by unfold State.synStop; simp
  have hmode (t : State) : t.giveModeRec.hpt = t.hpt := by
    unfold State.giveModeRec; split <;> simp
  unfold State.pwrSettle; rw [hmode, hsyn, href, hentry, hentry, hentry]

theorem State.xmpInjSettle_hpt (s : State) : s.xmpInjSettle.hpt = s.hpt := by
  unfold State.xmpInjSettle; split <;> rfl

/-- The result of the latest frame (R354). -/
def State.frameResult (s : State) : Nat := s.hpt.result

theorem State.frameResult_of_hpt {s t : State} (h : t.hpt = s.hpt) : t.frameResult = s.frameResult := congrArg Hpt.result h

/-- Interrupt words reach the report queue, not the result. -/
theorem State.autoIrqWord_frameResult (s t : State) : (s.autoIrqWord t).frameResult = t.frameResult := by
  unfold State.frameResult
  unfold State.autoIrqWord State.rptAppend
  split
  · split <;> rfl
  · rfl

variable {c : Nat} {s : State}

theorem State.Quiet.takeEnds_frameResult {n : Nat} (h : (State.takeEnds n s).Quiet c) :
    (State.takeEnds n s).frameResult = s.frameResult := by
  obtain ⟨l, e⟩ := h.takeEnds_eq
  rw [e]; rfl

theorem State.Quiet.takeReports_frameResult (h : s.takeReports.Quiet c) : s.takeReports.frameResult = s.frameResult := by
  rw [h.takeReports_eq]; rfl

theorem State.takeResign_frameResult (ha : ∀ d, (d, Instr.resignRampEnd) ∉ s.takeResign.agenda) :
    s.takeResign.frameResult = s.frameResult := by
  unfold State.takeResign at ha ⊢; dsimp only at ha ⊢
  split
  · rfl
  · rename_i h0
    rw [if_neg h0] at ha
    split
    · rfl
    · rename_i hr
      rw [if_neg hr] at ha
      obtain ⟨d, hd⟩ := beginResign_agenda _ s.flt.request
      exact absurd hd (ha d)

theorem State.releases_frameResult (s : State) : s.releaseTx8.releaseRx16.frameResult = s.frameResult :=
  State.frameResult_of_hpt (State.releases_hpt s)

/-- Where what happens at once leaves the Board quiet and no Resign begun, the result of the latest frame is as it was. -/
theorem State.Quiet.frameResult_settle {u : State} (h : (s.settle u).Quiet c)
    (ha : ∀ d, (d, Instr.resignRampEnd) ∉ (s.settle u).agenda) : (s.settle u).frameResult = u.frameResult := by
  unfold State.settle at h ha ⊢; dsimp only at ha ⊢; extract_lets s1 s2 s3 at h
  rw [autoIrqWord_agenda] at ha
  have h3 : s3.Quiet c := h.of_gauge (gauge_autoIrqWord ..)
  have hEnds := h3.of_takeReports
  obtain ⟨l, e⟩ := hEnds.takeEnds_eq
  rw [h3.takeReports_eq, e] at ha
  have hReports : s2.pwrSettle.takeReports.Quiet c := (hEnds.of_takeEnds.of_takeResign ha).of_gauge (gauge_xmpInjSettle _)
  have hEnds2 := (hReports.of_takeReports.of_gauge (gauge_pwrSettle _)).of_gauge (gauge_scoSettle _)
  have h1 : s1.Quiet c := hEnds2.of_takeEnds.of_releases.of_calSettle
  have hReports1 := h1.of_gauge (gauge_invSettleAll _)
  have hwings (t : State) (ht : t.Quiet c) : t.inv.wings = [] := (quiet_iff.mp ht).2.1
  have hs1 : s1.frameResult = u.frameResult :=
    calc s1.frameResult
        = (State.takeEnds 8 u.releaseTx8.releaseRx16).takeReports.frameResult :=
          congrArg State.frameResult (invSettleAll_of_none (hwings _ hReports1))
      _ = (State.takeEnds 8 u.releaseTx8.releaseRx16).frameResult := hReports1.takeReports_frameResult
      _ = u.releaseTx8.releaseRx16.frameResult := hReports1.of_takeReports.takeEnds_frameResult
      _ = u.frameResult := State.releases_frameResult u
  have hs2 : s2.frameResult = s1.frameResult :=
    calc s2.frameResult
        = (State.takeEnds 8 s1.calSettle.releaseTx8.releaseRx16).frameResult := State.frameResult_of_hpt (State.scoSettle_hpt _)
      _ = s1.calSettle.releaseTx8.releaseRx16.frameResult := hEnds2.takeEnds_frameResult
      _ = s1.calSettle.frameResult := State.releases_frameResult _
      _ = s1.frameResult := State.frameResult_of_hpt (State.calSettle_hpt (hwings s1 h1))
  have hs3 : s3.frameResult = s2.frameResult :=
    calc s3.frameResult
        = (State.takeEnds 8 s2.pwrSettle.takeReports.xmpInjSettle.takeResign).frameResult := h3.takeReports_frameResult
      _ = s2.pwrSettle.takeReports.xmpInjSettle.takeResign.frameResult := hEnds.takeEnds_frameResult
      _ = s2.pwrSettle.takeReports.xmpInjSettle.frameResult := State.takeResign_frameResult ha
      _ = s2.pwrSettle.takeReports.frameResult := State.frameResult_of_hpt (State.xmpInjSettle_hpt _)
      _ = s2.pwrSettle.frameResult := hReports.takeReports_frameResult
      _ = s2.frameResult := State.frameResult_of_hpt (State.pwrSettle_hpt s2)
  calc (s.autoIrqWord s3).frameResult
      = s3.frameResult := State.autoIrqWord_frameResult s s3
    _ = u.frameResult := hs3.trans (hs2.trans hs1)

theorem State.Quiet.frameResult_finish {u : State} (h : (s.finish u).Quiet c)
    (ha : ∀ d, (d, Instr.resignRampEnd) ∉ (s.finish u).agenda) : (s.finish u).frameResult = u.frameResult :=
  State.Quiet.frameResult_settle (s := s) h ha

end Sys2Proof.Machine
end

section
/-! SUPPORT. Host frames (R74): a Board that holds the number of a broadcast. -/

namespace Sys2Proof.Machine
open Sys2Proof

theorem exec_boardNum (n : Nat) (bc en : Bool) (s : State) : exec (.boardNum n bc en) s = .next (s.finish (effBoardNum n bc en s)) := rfl

/-- A Board that runs and holds the number 63: no WRITE can give it (R74), but a state can hold it. The state has no engines and no
inventory Wings, so that what happens at once can be read backwards (`State.Quiet.of_settle`). -/
def numbered63 : State :=
  (({ State.reset with
      agenda := [], engs := [], inv := { State.reset.inv with wings := [] },
      pwr := { State.reset.pwr with core := true, cclk := true } } : State).put pDEV DEV.STATUS_MODE 0).put pDEV DEV.BOARD_NUM_NUM 63

theorem numbered63_quiet : (numbered63.finish (effBoardNum 5 false false numbered63)).Quiet 0 := quiet_iff.mpr (by decide +kernel)

theorem numbered63_agenda : (numbered63.finish (effBoardNum 5 false false numbered63)).agenda = [] := by decide +kernel

/-- A frame to Board 63 is a broadcast, in which DEV.BOARD_NUM is refused with code 8 (R74). -/
theorem numbered63_refused : (numbered63.finish (effBoardNum 5 false false numbered63)).frameResult = 8 := by
  unfold State.frameResult; decide +kernel

/-- Refutes O30: its sixth clause takes a frame to the Board's own number for one that is no broadcast. The number of `numbered63` is that
of a broadcast, so that the write of another number is refused with code 8 where the clause gives result 0. -/
theorem not_hostFrames : ¬ Obligations.HostFrames := by
  unfold Obligations.HostFrames
  rintro ⟨-, -, -, -, -, h, -, -⟩
  obtain ⟨u, he, ⟨-, hres, -⟩, -⟩ := h numbered63 5 false false (by decide +kernel) rfl (by decide) (.inl (by decide +kernel))
  have hstate : numbered63.finish (effBoardNum 5 false false numbered63) = numbered63.finish u := by
    rw [exec_boardNum, Host.Outcome.next.injEq] at he
    exact he
  have hq := numbered63_quiet
  have ha := numbered63_agenda
  have h8 := numbered63_refused
  rw [hstate] at hq ha h8
  have hkept : (numbered63.finish u).frameResult = 0 := (hq.frameResult_finish (by simp [ha])).trans hres
  exact absurd (h8.symm.trans hkept) (by decide)

end Sys2Proof.Machine
end

section
/-! SUPPORT. FAULT and FLAG.FIELD_OFF of TXC0 through what happens at once: the shared operations. -/

namespace Sys2Proof.Machine
open Sys2Proof

/-- What TXC0 shows of faults and of the end of its field: FAULT, whose key is 4103, and FLAG.FIELD_OFF, bit 1 of the register of key 4100. -/
def State.txMarks (s : State) : Nat × Bool := (s.get (pTXC 0) COM.FAULT, s.bit (pTXC 0) TXC.FLAG_FIELD_OFF)

theorem txMarks_of_get {s t : State} (h7 : t.get (pTXC 0) COM.FAULT = s.get (pTXC 0) COM.FAULT)
    (h4 : t.get (pTXC 0) TXC.FLAG_FIELD_OFF = s.get (pTXC 0) TXC.FLAG_FIELD_OFF) : t.txMarks = s.txMarks := by
  unfold State.txMarks State.bit; rw [h7, h4]

theorem txMarks_put_ne {p : Nat} {f : Fld} (h : p * 256 + f.off ≠ 4100 ∧ p * 256 + f.off ≠ 4103) (s : State) (x : Nat) :
    (s.put p f x).txMarks = s.txMarks :=
  txMarks_of_get (State.get_put_reg s (Ne.symm h.2) x) (State.get_put_reg s (Ne.symm h.1) x)

@[simp] theorem txMarks_put_off {f : Fld} (h : f.off % 256 ≠ 4 ∧ f.off % 256 ≠ 7) (s : State) (p x : Nat) :
    (s.put p f x).txMarks = s.txMarks := txMarks_put_ne (by omega) s x

@[simp] theorem txMarks_put_page {p : Nat} {f : Fld} (h : 4121 < p * 256) (s : State) (x : Nat) : (s.put p f x).txMarks = s.txMarks :=
  txMarks_put_ne (by omega) s x

/-- Another flag of a chain. -/
@[simp] theorem txMarks_put_bits {f : Fld} (h : f.off % 256 ≠ 7 ∧ 1 < f.lo ∧ f.lo ≤ f.hi ∧ f.hi < 40) (s : State) (p x : Nat) :
    (s.put p f x).txMarks = s.txMarks :=
  txMarks_of_get (State.get_put_reg s (by simp only [pTXC, COM.FAULT]; omega) x)
    (State.get_put_bits s h.2.2.1 h.2.2.2 (.inl h.2.1) x)

@[simp] theorem txMarks_putB (s : State) (p : Nat) (f : Fld) (b : Bool) : (s.putB p f b).txMarks = (s.put p f (b2n b)).txMarks := rfl

@[simp] theorem txMarks_putBit (s : State) (p : Nat) (f : Fld) (i : Nat) (b : Bool) :
    (s.putBit p f i b).txMarks = (s.put p ⟨f.off, f.lo + i, f.lo + i⟩ (b2n b)).txMarks := rfl

@[simp] theorem txMarks_inc (s : State) (p : Nat) (f : Fld) :
    (s.inc p f).txMarks = (s.put p f (satInc (2 ^ (f.hi + 1 - f.lo) - 1) (s.get p f))).txMarks := rfl

@[simp] theorem txMarks_flag (s : State) (p : Nat) (f : Fld) (i : Nat) : (s.flag p f i).txMarks = (s.putBit p f i true).txMarks := rfl

@[simp] theorem txMarks_putHw_page {p : Nat} (h : 4121 < p * 256) (s : State) (f : Fld) (x : Nat) :
    (s.putHw p f x).txMarks = s.txMarks := by
  unfold State.putHw; split
  · rfl
  · exact txMarks_put_page h s x

@[simp] theorem txMarks_ite (c : Prop) [Decidable c] (x y : State) :
    (if c then x else y).txMarks = if c then x.txMarks else y.txMarks := apply_ite _ c x y

@[simp] theorem txMarks_when (s : State) (c : Bool) (f : State → State) :
    (s.when c f).txMarks = if c then (f s).txMarks else s.txMarks := apply_ite _ _ _ _

@[simp] theorem txMarks_forEach {α : Type} {f : State → α → State} (hf : ∀ t a, (f t a).txMarks = t.txMarks) (s : State) (l : List α) :
    (s.forEach l f).txMarks = s.txMarks :=
  State.forEach_inv (fun u => u.txMarks = s.txMarks) l f (fun t a _ h => (hf t a).trans h) s rfl

theorem txMarks_only {K : Nat → Nat → Bool} {s t : State} (hk : K 16 4 = false ∧ K 16 7 = false) (h : Only K s t) :
    t.txMarks = s.txMarks :=
  txMarks_of_get (h.get (q := pTXC 0) (f := COM.FAULT) (by decide) (by decide) hk.2)
    (h.get (q := pTXC 0) (f := TXC.FLAG_FIELD_OFF) (by decide) (by decide) hk.1)

@[simp] theorem txMarks_numberAs (s : State) (r n : Nat) : (s.numberAs r n).2.txMarks = s.txMarks :=
  txMarks_only (K := noKeys) ⟨rfl, rfl⟩ (State.numberAs_only s r n)

@[simp] theorem txMarks_recordErr (s : State) (p c : Nat) : (s.recordErr p c).txMarks = s.txMarks :=
  txMarks_only (K := fun _ o => o == 8) ⟨rfl, rfl⟩ (State.recordErr_only s p c (.inr rfl))

@[simp] theorem txMarks_sched (s : State) (d : Nat) (c : Instr) : (s.sched d c).txMarks = s.txMarks := rfl
@[simp] theorem txMarks_unsched (s : State) (c : Instr) : (s.unsched c).txMarks = s.txMarks := rfl
@[simp] theorem txMarks_resched (s : State) (d : Nat) (c : Instr) : (s.resched d c).txMarks = s.txMarks := rfl
@[simp] theorem txMarks_untimer (s : State) (t : Tm) : (s.untimer t).txMarks = s.txMarks := rfl
@[simp] theorem txMarks_retimer (s : State) (d : Nat) (t : Tm) : (s.retimer d t).txMarks = s.txMarks := rfl
@[simp] theorem txMarks_mirrorTake (s : State) (k : Nat) (m : Word) : (s.mirrorTake k m).txMarks = s.txMarks := rfl
@[simp] theorem txMarks_withTx (s : State) (n : Nat) (f : Txc → Txc) : (s.withTx n f).txMarks = s.txMarks := rfl
@[simp] theorem txMarks_withRx (s : State) (n : Nat) (f : Rxc → Rxc) : (s.withRx n f).txMarks = s.txMarks := rfl
@[simp] theorem txMarks_withCtx (s : State) (n : Nat) (f : Ctx → Ctx) : (s.withCtx n f).txMarks = s.txMarks := rfl
@[simp] theorem txMarks_withPwr (s : State) (f : Pwr → Pwr) : (s.withPwr f).txMarks = s.txMarks := rfl
@[simp] theorem txMarks_withRail (s : State) (r : Nat) (f : Rail → Rail) : (s.withRail r f).txMarks = s.txMarks := rfl
@[simp] theorem txMarks_withXmp (s : State) (f : Xmp → Xmp) : (s.withXmp f).txMarks = s.txMarks := rfl
@[simp] theorem txMarks_withSco (s : State) (f : Sco → Sco) : (s.withSco f).txMarks = s.txMarks := rfl
@[simp] theorem txMarks_withCal (s : State) (f : Cal → Cal) : (s.withCal f).txMarks = s.txMarks := rfl

end Sys2Proof.Machine
end

section
/-! SUPPORT. FAULT and FLAG.FIELD_OFF of TXC0 through Wing claims, taps, rails, chains and the ends of moves. -/

namespace Sys2Proof.Machine
open Sys2Proof

@[simp] theorem txMarks_releaseWing (s : State) (w : Nat) : (s.releaseWing w).txMarks = s.txMarks := by
  unfold State.releaseWing State.setOwner ownerFld; simp +decide [pCND_far]

@[simp] theorem txMarks_rxPutHw (s : State) (n : Nat) (f : Fld) (x : Nat) : (s.rxPutHw n f x).txMarks = s.txMarks :=
  txMarks_putHw_page (rxPage_far s n) s f x

@[simp] theorem txMarks_selectTap (s : State) (n p : Nat) : (s.selectTap n p).txMarks = s.txMarks := by
  unfold State.selectTap; simp +decide

@[simp] theorem txMarks_retap (s : State) (n : Nat) : (s.retap n).txMarks = s.txMarks := by
  unfold State.retap; split
  · rfl
  · split <;> simp

@[simp] theorem txMarks_retapWing (s : State) (w : Nat) : (s.retapWing w).txMarks = s.txMarks := by
  unfold State.retapWing; simp

@[simp] theorem txMarks_setField (s : State) (n st : Nat) : (s.setField n st).txMarks = s.txMarks := txMarks_put_off (by decide) ..

@[simp] theorem txMarks_rampDown (s : State) (n st : Nat) : (s.rampDown n st).txMarks = s.txMarks := by
  unfold State.rampDown; simp

@[simp] theorem txMarks_openSwitch (s : State) (n : Nat) : (s.openSwitch n).txMarks = s.txMarks := by
  unfold State.openSwitch; split <;> simp

@[simp] theorem txMarks_setSwitch (s : State) (n p : Nat) : (s.setSwitch n p).txMarks = s.txMarks := by
  unfold State.setSwitch; simp +decide

@[simp] theorem txMarks_dropJobs (s : State) (r : Nat) : (s.dropJobs r).txMarks = s.txMarks := txMarks_withPwr ..

@[simp] theorem txMarks_addJob (s : State) (j : Job) : (s.addJob j).txMarks = s.txMarks := by
  have hserve (t : State) : t.serveJob.txMarks = t.txMarks := by unfold State.serveJob; split <;> simp
  unfold State.addJob; simp [hserve]

/-- A rail asked for another voltage, its state and attempts shown on PWR's page. -/
theorem txMarks_railAsked {r : Nat} (hr : r < 4) (s : State) (mv prio op : Nat) :
    (s.railUp r mv prio).txMarks = s.txMarks ∧ (s.railChange r mv op).txMarks = s.txMarks := by
  have hput (t : State) (x : Nat) : (t.put pPWR (PWR.RAIL_STAT_STATE r) x).txMarks = t.txMarks ∧
      (t.put pPWR (PWR.RAIL_STAT_TRIES r) x).txMarks = t.txMarks :=
    have h : pPWR * 256 + (0x1D + r) ≠ 4100 ∧ pPWR * 256 + (0x1D + r) ≠ 4103 := by unfold pPWR; omega
    ⟨txMarks_put_ne h t x, txMarks_put_ne h t x⟩
  unfold State.railUp State.railChange; simp [hput]

theorem txMarks_followRail (s : State) {r : Nat} (hr : r < 4) : (s.followRail r).txMarks = s.txMarks := by
  unfold State.followRail; split
  · rfl
  · dsimp only; split
    · split
      · exact (txMarks_railAsked hr _ _ _ 0).1
      · split
        · rename_i t ht
          unfold State.raiseInUp at ht; split at ht
          · cases ht
          · cases ht; rfl
        · exact (txMarks_railAsked hr _ _ 0 _).2
    · simp

@[simp] theorem txMarks_followRails (s : State) : s.followRails.txMarks = s.txMarks :=
  (txMarks_followRail _ (by decide)).trans (txMarks_followRail s (by decide))

@[simp] theorem txMarks_armNow (s : State) (n : Nat) : (s.armNow n).txMarks = s.txMarks := by
  unfold State.armNow; simp

@[simp] theorem txMarks_takeHeld (s : State) (n : Nat) : (s.takeHeld n).txMarks = s.txMarks := by
  unfold State.takeHeld; split <;> simp

@[simp] theorem txMarks_wakeChains (s : State) : s.wakeChains.txMarks = s.txMarks := by
  unfold State.wakeChains; simp

@[simp] theorem txMarks_endMove (s : State) (c status : Nat) : (s.endMove c status).txMarks = s.txMarks := by
  have hshow (t : State) : (t.tuneShow c status).txMarks = t.txMarks := by unfold State.tuneShow; split <;> simp +decide
  unfold State.endMove; split
  · rfl
  · simp [hshow]

@[simp] theorem txMarks_endFor (s : State) (c : Option Nat) (status : Nat) : (s.endFor c status).txMarks = s.txMarks := by
  unfold State.endFor; split <;> simp

/-- An auto-tune's end sets other flags of its page. -/
@[simp] theorem txMarks_tuneEnd (s : State) (n st : Nat) : (s.tuneEnd n st).txMarks = s.txMarks := by
  unfold State.tuneEnd; simp +decide

@[simp] theorem txMarks_dropArmed (s : State) (n st : Nat) : (s.dropArmed n st).txMarks = s.txMarks := by
  unfold State.dropArmed; simp +decide

theorem txMarks_releases (s : State) : s.releaseTx8.releaseRx16.txMarks = s.txMarks := by
  have hact (t : State) (a b : Nat) : (t.moveAct a b).txMarks = t.txMarks := by unfold State.moveAct; simp +decide
  unfold State.releaseRx16 State.releaseTx8; simp +decide [hact]

/-- Without inventory Wings a cross-Board field-off cuts no round. -/
theorem txMarks_fieldOffNow {s : State} (hi : s.inv.wings = []) (w hop : Nat) : (s.fieldOffNow w hop).txMarks = s.txMarks := by
  unfold State.fieldOffNow; simp [invCut_of_none hi]

end Sys2Proof.Machine
end

section
/-! SUPPORT. FAULT and FLAG.FIELD_OFF of TXC0 through flash, Scoresheet, calibration, power modes and the report queue, and through
`State.settle` read backwards. -/

namespace Sys2Proof.Machine
open Sys2Proof

@[simp] theorem txMarks_xmpShow (s : State) : s.xmpShow.txMarks = s.txMarks := by
  unfold State.xmpShow; dsimp only; split <;> simp +decide

@[simp] theorem txMarks_xmpPost (s : State) (owner off : Nat) (bytes : List Nat) : (s.xmpPost owner off bytes).2.txMarks = s.txMarks := by
  unfold State.xmpPost State.xmpStart State.xmpRange; split
  · simp +decide
  · dsimp only; split <;> simp +decide

@[simp] theorem txMarks_xmpEraseQ (s : State) (t off owner : Nat) : (s.xmpEraseQ t off owner).2.txMarks = s.txMarks := by
  unfold State.xmpEraseQ State.xmpStart State.xmpRange; dsimp only; split
  · simp +decide
  · split <;> simp +decide

@[simp] theorem txMarks_xmpDiscard (s : State) : s.xmpDiscard.txMarks = s.txMarks := by
  have hdone (t : State) (owner : Nat) : (t.xmpOwnerDone owner).txMarks = t.txMarks := by unfold State.xmpOwnerDone; simp
  unfold State.xmpDiscard; extract_lets l s1 s2 s3 s4
  have h2 : s2.txMarks = s1.txMarks := txMarks_forEach (fun t _ => by simp +decide) s1 l
  have h3 : s3.txMarks = s2.txMarks := txMarks_forEach (fun t _ => by simp [hdone]) s2 _
  have h4 : s4.txMarks = s3.txMarks := txMarks_forEach (fun t _ => txMarks_sched t ..) s3 _
  rw [txMarks_xmpShow, h4, h3, h2]; rfl

@[simp] theorem txMarks_scoLose (s : State) : s.scoLose.txMarks = s.txMarks := by
  unfold State.scoLose; simp +decide

@[simp] theorem txMarks_scoPush (s : State) (kind arbseq : Nat) (inj : Bool) (payload : List Nat) :
    (s.scoPush kind arbseq inj payload).txMarks = s.txMarks := txMarks_put_off (by decide) ..

@[simp] theorem txMarks_scoRecord (s : State) (kind arbseq : Nat) (payload : List Nat) (inj : Bool) :
    (s.scoRecord kind arbseq payload inj).txMarks = s.txMarks := by
  unfold State.scoRecord State.scoDrop; simp +decide [txMarks_put_ne]

@[simp] theorem txMarks_scoShow (s : State) : s.scoShow.txMarks = s.txMarks := by
  unfold State.scoShow; simp +decide

theorem txMarks_scoSettle (s : State) : s.scoSettle.txMarks = s.txMarks := by
  have hlost (t : State) : t.scoLostRecord.txMarks = t.txMarks := by unfold State.scoLostRecord; simp +decide
  have hdiscard (t : State) : t.scoDiscard.txMarks = t.txMarks := by
    unfold State.scoDiscard
    exact (txMarks_put_off (by decide) ..).trans (txMarks_forEach (fun u _ => txMarks_scoLose u) t _)
  have hrefuse (t : State) : t.scoRefuse.txMarks = t.txMarks := by unfold State.scoRefuse; simp +decide [hdiscard]
  have htest (t : State) : t.scoTest.txMarks = t.txMarks := by unfold State.scoTest; simp +decide [hrefuse]
  have herase (t : State) (k : Nat) : (t.scoEraseSector k).txMarks = t.txMarks := by
    unfold State.scoEraseSector; dsimp only; split <;> simp
  have hadvance (t : State) : t.scoAdvance.txMarks = t.txMarks := by unfold State.scoAdvance; simp [herase]
  have hpair (x : Bool × State) : (if x.1 then (x.2.withSco fun y => { y with op := 1 }).scoShow else x.2).txMarks = x.2.txMarks := by
    split <;> simp
  have hprogram (t : State) : t.scoProgram.txMarks = t.txMarks := by
    unfold State.scoProgram; split
    · exact (hpair _).trans (txMarks_xmpPost ..)
    · rfl
  unfold State.scoSettle; simp [hlost, hrefuse, htest, hadvance, hprogram]

@[simp] theorem txMarks_calOver (s : State) : s.calOver.txMarks = s.txMarks := by
  have hshow (t : State) : t.calShow.txMarks = t.txMarks := by unfold State.calShow; simp +decide
  unfold State.calOver; simp +decide [hshow]; rfl

theorem txMarks_calSettle {s : State} (hi : s.inv.wings = []) : s.calSettle.txMarks = s.txMarks := by
  have hlevel (t : State) : (t.forEach (List.range 9) fun s n => s.withTx n fun t => { t with level := 0 }).txMarks = t.txMarks :=
    txMarks_forEach (fun t n => txMarks_withTx t n _) t _
  have hxb (t : State) : t.xbOver.txMarks = t.txMarks := by
    unfold State.xbOver State.rxRest; simp +decide
  unfold State.calSettle State.simulAt; simp +decide [txMarks_fieldOffNow hi, hlevel, hxb]

theorem txMarks_xmpInjSettle (s : State) : s.xmpInjSettle.txMarks = s.txMarks := by
  unfold State.xmpInjSettle; split <;> rfl

theorem txMarks_pwrSettle (s : State) : s.pwrSettle.txMarks = s.txMarks := by
  have hentry (t : State) : t.entrySettle.txMarks = t.txMarks := by unfold State.entrySettle; simp
  have href (t : State) : t.refSwitch.txMarks = t.txMarks := by unfold State.refSwitch State.synStart; simp +decide
  have hsyn (t : State) : t.synStop.txMarks = t.txMarks := by unfold State.synStop; simp +decide
  have hmode (t : State) : t.giveModeRec.txMarks = t.txMarks := by unfold State.giveModeRec; split <;> simp
  unfold State.pwrSettle; rw [hmode, hsyn, href, hentry, hentry, hentry]

theorem txMarks_autoIrqWord (s t : State) : (s.autoIrqWord t).txMarks = t.txMarks := by
  have hput (w : Nat) : (t.rptAppend w).txMarks = t.txMarks := by
    unfold State.rptAppend; split
    · simp +decide
    · exact txMarks_put_off (by decide) ..
  unfold State.autoIrqWord; split <;> simp [hput]

variable {c : Nat} {s : State}

theorem State.Quiet.txMarks_takeEnds {n : Nat} (h : (State.takeEnds n s).Quiet c) : (State.takeEnds n s).txMarks = s.txMarks := by
  obtain ⟨l, e⟩ := h.takeEnds_eq
  rw [e]; rfl

theorem State.Quiet.txMarks_takeReports (h : s.takeReports.Quiet c) : s.takeReports.txMarks = s.txMarks := by
  rw [h.takeReports_eq]; rfl

theorem State.txMarks_takeResign (ha : ∀ d, (d, Instr.resignRampEnd) ∉ s.takeResign.agenda) : s.takeResign.txMarks = s.txMarks := by
  unfold State.takeResign at ha ⊢; dsimp only at ha ⊢
  split
  · rfl
  · rename_i h0
    rw [if_neg h0] at ha
    split
    · rfl
    · rename_i hr
      rw [if_neg hr] at ha
      obtain ⟨d, hd⟩ := beginResign_agenda _ s.flt.request
      exact absurd hd (ha d)

/-- Where what happens at once leaves the Board quiet and no Resign begun, it leaves FAULT and FLAG.FIELD_OFF of TXC0 as they were. -/
theorem State.Quiet.txMarks_finish {u : State} (h : (s.finish u).Quiet c)
    (ha : ∀ d, (d, Instr.resignRampEnd) ∉ (s.finish u).agenda) : (s.finish u).txMarks = u.txMarks := by
  change (s.settle u).Quiet c at h
  change ∀ d, (d, Instr.resignRampEnd) ∉ (s.settle u).agenda at ha
  change (s.settle u).txMarks = u.txMarks
  unfold State.settle at h ha ⊢; dsimp only at ha ⊢; extract_lets s1 s2 s3 at h
  rw [autoIrqWord_agenda] at ha
  have h3 : s3.Quiet c := h.of_gauge (gauge_autoIrqWord ..)
  have hEnds := h3.of_takeReports
  obtain ⟨l, e⟩ := hEnds.takeEnds_eq
  rw [h3.takeReports_eq, e] at ha
  have hReports : s2.pwrSettle.takeReports.Quiet c := (hEnds.of_takeEnds.of_takeResign ha).of_gauge (gauge_xmpInjSettle _)
  have hEnds2 := (hReports.of_takeReports.of_gauge (gauge_pwrSettle _)).of_gauge (gauge_scoSettle _)
  have h1 : s1.Quiet c := hEnds2.of_takeEnds.of_releases.of_calSettle
  have hReports1 := h1.of_gauge (gauge_invSettleAll _)
  have hwings (t : State) (ht : t.Quiet c) : t.inv.wings = [] := (quiet_iff.mp ht).2.1
  calc (s.autoIrqWord s3).txMarks
      = s3.txMarks := txMarks_autoIrqWord s s3
    _ = (State.takeEnds 8 s2.pwrSettle.takeReports.xmpInjSettle.takeResign).txMarks := h3.txMarks_takeReports
    _ = s2.pwrSettle.takeReports.xmpInjSettle.takeResign.txMarks := hEnds.txMarks_takeEnds
    _ = s2.pwrSettle.takeReports.xmpInjSettle.txMarks := State.txMarks_takeResign ha
    _ = s2.pwrSettle.takeReports.txMarks := txMarks_xmpInjSettle _
    _ = s2.pwrSettle.txMarks := hReports.txMarks_takeReports
    _ = (State.takeEnds 8 s1.calSettle.releaseTx8.releaseRx16).txMarks := (txMarks_pwrSettle _).trans (txMarks_scoSettle _)
    _ = s1.calSettle.releaseTx8.releaseRx16.txMarks := hEnds2.txMarks_takeEnds
    _ = s1.txMarks := (txMarks_releases _).trans (txMarks_calSettle (hwings s1 h1))
    _ = (State.takeEnds 8 u.releaseTx8.releaseRx16).takeReports.txMarks :=
        congrArg State.txMarks (invSettleAll_of_none (hwings _ hReports1))
    _ = (State.takeEnds 8 u.releaseTx8.releaseRx16).txMarks := hReports1.txMarks_takeReports
    _ = u.releaseTx8.releaseRx16.txMarks := hReports1.of_takeReports.txMarks_takeEnds
    _ = u.txMarks := txMarks_releases u

end Sys2Proof.Machine
end

section
/-! SUPPORT. Chains and their fields (R91, R100, R103, R104, R111): an antenna switch on a port that the Board does not have. -/

namespace Sys2Proof.Machine
open Sys2Proof

theorem exec_rampDownEnd (n : Nat) (s : State) : exec (.rampDownEnd n) s = .next (s.finish (effRampDownEnd n s)) := rfl

theorem exec_paOvercurrent (n : Nat) (s : State) : exec (.paOvercurrent n) s = .next (s.finish (effPaOvercurrent n s)) := rfl

/-- TXC0 enabled with a field in state `field`, its antenna switch on a port beyond those of the Board. The Ledger entry that the end of the
field marks for that port begins bank `b` of a memory that has 24 banks, with one wrong bit: the count of corrected errors of a bank so far
beyond the memory is a register of TXC0. The state has no engines and no inventory Wings, so that what happens at once can be read backwards
(`State.Quiet.txMarks_finish`). -/
def strayField (b act field : Nat) : State :=
  let s : State := { State.reset with
    pwr := { State.reset.pwr with core := true, cclk := true }, now := 1, agenda := [], engs := [],
    inv := { State.reset.inv with wings := [] }, sram := [(8 * (65536 * b) + 5, 1#8)],
    txc := { Txc.reset with act := act, sw := some (8192 * b - 195552) } :: List.replicate 8 Txc.reset }
  (((s.put pDEV DEV.STATUS_MODE 0).putB pINV COM.ENABLE true).putB (pTXC 0) COM.ENABLE true).setField 0 field

/-- The end of the ramp-down with FLAG.FIELD_ON set: the bank's count is FLAG of TXC0. -/
def strayOff : State := (strayField 2276 6 5).putB (pTXC 0) TXC.FLAG_FIELD_ON true

/-- A field on a chain that has its first three faults already: the bank's count is FAULT of TXC0. -/
def strayFault : State := (strayField 2279 0 4).put (pTXC 0) COM.FAULT 7

theorem strayOff_quiet : (strayOff.finish (effRampDownEnd 0 strayOff)).Quiet 0 := quiet_iff.mpr (by decide +kernel)

theorem strayOff_agenda : (strayOff.finish (effRampDownEnd 0 strayOff)).agenda = [(65, .rampDownEnd 0)] := by decide +kernel

theorem strayOff_marks : (strayOff.finish (effRampDownEnd 0 strayOff)).txMarks = (0, false) := by decide +kernel

theorem strayFault_quiet : (strayFault.finish (effPaOvercurrent 0 strayFault)).Quiet 0 := quiet_iff.mpr (by decide +kernel)

theorem strayFault_agenda : (strayFault.finish (effPaOvercurrent 0 strayFault)).agenda = [(2, .rampDownEnd 0)] := by decide +kernel

theorem strayFault_marks : (strayFault.finish (effPaOvercurrent 0 strayFault)).txMarks = (8, true) := by decide +kernel

/-- Refutes O11: its second clause leaves the antenna switch free. In `strayOff` FLAG of TXC0, where FIELD_ON and FIELD_OFF stand, counts a
corrected error of the Ledger on from 3 to 4, so that FIELD_OFF is clear where the clause has it set. -/
theorem not_fieldOff : ¬ Obligations.FieldOff := by
  unfold Obligations.FieldOff
  rintro ⟨-, h, -⟩
  obtain ⟨u, he, ⟨-, hoff, -⟩, -⟩ := h strayOff 0 (by decide +kernel) (by decide) (by decide +kernel) (by decide +kernel)
    (by decide +kernel) (by decide +kernel)
  rw [exec_rampDownEnd, Host.Outcome.next.injEq] at he
  have hq := strayOff_quiet
  have ha := strayOff_agenda
  have hm := strayOff_marks
  rw [he] at hq ha hm
  have hu : u.txMarks = (0, false) := (hq.txMarks_finish (by simp [ha])).symm.trans hm
  exact absurd (hoff.symm.trans (congrArg Prod.snd hu)) (by decide)

/-- Refutes O13: its second clause leaves the antenna switch free. In `strayFault` the field stops without a ramp, and FAULT of TXC0, where the
faults 0 to 2 stand, counts a corrected error of the Ledger on from 7 to 8, so that the overcurrent's bit 2 is clear where the clause has it
set. -/
theorem not_chainMonitorAndFaults : ¬ Obligations.ChainMonitorAndFaults := by
  unfold Obligations.ChainMonitorAndFaults
  rintro ⟨-, h, -, -⟩
  obtain ⟨u, he, hoc, -⟩ := h strayFault 0 (by decide +kernel) (by decide) (by decide +kernel)
  rw [exec_paOvercurrent, Host.Outcome.next.injEq] at he
  have hq := strayFault_quiet
  have ha := strayFault_agenda
  have hm := strayFault_marks
  rw [he] at hq ha hm
  have hu : u.get (pTXC 0) COM.FAULT = 8 := congrArg Prod.fst ((hq.txMarks_finish (by simp [ha])).symm.trans hm)
  unfold State.bitOf at hoc
  rw [hu] at hoc
  exact absurd hoc (by decide)

end Sys2Proof.Machine
end

section
/-! SUPPORT. Transmit chains: what an update of one chain leaves of the chains, and the begin of a ramp-up (R101–R103). -/

namespace Sys2Proof.Machine
open Sys2Proof

variable {K : Nat → Nat → Bool} {s t : State} {n : Nat}

theorem exec_fieldLaunch (n : Nat) (s : State) : exec (.fieldLaunch n) s = .next (s.finish (effFieldLaunch n s)) := rfl

theorem State.tx_withTx_same (h : n < s.txc.length) (g : Txc → Txc) : (s.withTx n g).tx n = g (s.tx n) := by
  simp [State.tx, State.withTx, h]

theorem State.tx_withTx_ne {m : Nat} (h : m ≠ n) (s : State) (g : Txc → Txc) : (s.withTx n g).tx m = s.tx m := by
  simp [State.tx, State.withTx, List.getElem?_set_ne (Ne.symm h)]

@[simp] theorem State.withTx_txc_length (s : State) (n : Nat) (g : Txc → Txc) : (s.withTx n g).txc.length = s.txc.length :=
  List.length_set

theorem State.setField_fieldSt (s : State) (n st : Nat) : (s.setField n st).fieldSt n = st % 8 :=
  s.get_put_same (pTXC n) TXC.STATUS_FIELD (by decide) (by decide) st

theorem Only.txc (h : Only K s t) : t.txc = s.txc := (congrArg State.txc h.rest :)

theorem Only.tx (h : Only K s t) (m : Nat) : t.tx m = s.tx m := by unfold State.tx; rw [h.txc]

/-- STATUS and READY of every page. -/
def statusKeys : Nat → Nat → Bool := fun _ o => o == 2 || o == 3

/-- A field-on on a tapped port reaches READY of receive chains (R132). -/
theorem State.leakLost_only (s : State) (p : Nat) : Only statusKeys s (s.leakLost p) := by
  unfold State.leakLost
  refine State.forEach_inv (Only statusKeys s) _ _ (fun t m _ h => ?_) s (Only.refl _ s)
  split
  · exact h.put (f := RXC.READY_LEAK) (by decide) (.inr rfl) _
  · exact h

/-- A ramp-up that begins: RAMP_UP, the plateau due after its steps, the ramps in force (R101, R102). -/
theorem State.rampUp_begins (hn : n < s.txc.length) (r : Ramp) :
    (s.rampUp n r).fieldSt n = 2 ∧ (s.now + r.upLen, .plateau n) ∈ (s.rampUp n r).agenda ∧ ((s.rampUp n r).tx n).act = (s.tx n).act ∧
      ((s.rampUp n r).tx n).ramp = r ∧ ((s.rampUp n r).tx n).since = s.now ∧ ((s.rampUp n r).tx n).sw = (s.tx n).sw := by
  unfold State.rampUp; extract_lets p s1 phase lev s2 s3
  have hshown : Only statusKeys s (s2.setField n 2) :=
    ((s.leakLost_only p).put (f := TXC.STATUS_RAIL_WAIT) (by decide) (.inr rfl) _).put (f := TXC.STATUS_FIELD) (by decide) (.inr rfl) _
  clear_value s2 phase lev
  have hnow : s2.now = s.now := hshown.now
  have hlen : n < (s2.setField n 2).txc.length := hshown.txc ▸ hn
  have h3 : s3.tx n = { s.tx n with
      phase := phase, lev := lev, ramp := r, capt := none, since := s.now, fired := false, reflRun := 0, limited := false,
      heard := false } := by
    unfold s3; rw [State.tx_withTx_same hlen, hshown.tx n, hnow]
  have hdue : (s3.sched r.upLen (.plateau n)).tx n = s3.tx n := rfl
  rw [hdue, h3, ← hnow]
  exact ⟨State.setField_fieldSt s2 n 2, List.mem_append_right _ (List.mem_singleton_self _), rfl, rfl, rfl, rfl⟩

end Sys2Proof.Machine
end

section
/-! SUPPORT. A field-on at its launch boundary (R103): nothing to wait for, its ramps captured. -/

namespace Sys2Proof.Machine
open Sys2Proof

variable {s : State} {n : Nat}

/-- The chain with its ramps captured (R102). -/
def State.captured (s : State) (n : Nat) (r : Ramp) : State := s.withTx n fun t => { t with capt := some r }

theorem State.captureRamp_of_ok (hc : (s.tx n).capt = none) (hok : (s.chainRamp n).ok = true) :
    s.captureRamp n = s.captured n (s.chainRamp n) := by
  unfold State.captureRamp; simp [hc, hok, State.captured]

/-- Captured ramps are all that differs in any chain. -/
theorem State.captured_tx (hn : n < s.txc.length) (r : Ramp) (m : Nat) :
    (s.captured n r).tx m = { s.tx m with capt := if m = n then some r else (s.tx m).capt } := by
  unfold State.captured
  by_cases hm : m = n
  · subst hm; rw [State.tx_withTx_same hn, if_pos rfl]
  · rw [State.tx_withTx_ne hm, if_neg hm]

@[simp] theorem State.captured_get (s : State) (n : Nat) (r : Ramp) (p : Nat) (f : Fld) : (s.captured n r).get p f = s.get p f := rfl

theorem State.captured_tx8For (hn : n < s.txc.length) (r : Ramp) : (s.captured n r).tx8For = s.tx8For := by
  unfold State.tx8For State.tx8Serve; simp only [State.captured_tx hn, State.captured_get]

theorem State.captured_txWing (hn : n < s.txc.length) (r : Ramp) (m : Nat) : (s.captured n r).txWing m = s.txWing m := by
  unfold State.txWing; rw [State.captured_tx8For hn, State.captured_tx hn]

theorem State.captured_txRail (hn : n < s.txc.length) (r : Ramp) (m : Nat) : (s.captured n r).txRail m = s.txRail m := by
  unfold State.txRail; rw [State.captured_txWing hn]

theorem State.captured_vneed (hn : n < s.txc.length) (r : Ramp) (m : Nat) : (s.captured n r).vneed m = s.vneed m := by
  have hget (f : Fld) : (s.captured n r).txGet m f = s.txGet m f := by
    unfold State.txGet; rw [State.captured_tx8For hn]; rfl
  unfold State.vneed State.txLevel State.txLoad; simp only [hget, State.captured_tx hn, State.captured_get]

/-- What a field-on waits for does not depend on captured ramps. -/
theorem State.captured_mustWait (hn : n < s.txc.length) (r : Ramp) : (s.captured n r).mustWait n = s.mustWait n := by
  have hready : (s.captured n r).railReady n = s.railReady n := by
    unfold State.railReady; rw [State.captured_txRail hn, State.captured_vneed hn]; rfl
  have hother (p : Nat) : (s.captured n r).otherField n p = s.otherField n p := by
    unfold State.otherField; simp only [State.captured_tx hn]; rfl
  unfold State.mustWait
  simp only [hready, State.captured_tx hn, hother, State.captured_tx8For hn, State.captured_txWing hn]; rfl

/-- A field-on with nothing to wait for and legal ramps begins its ramp-up at its launch boundary. -/
theorem effFieldLaunch_fieldOn (hrun : s.coreRuns = true) (hn : n < 9) (hlen : s.txc.length = 9) (htk : (s.tx n).takeover = 0)
    (hst : s.fieldSt n = 1) (hfired : (s.tx n).fired = true) (hact : (s.tx n).act = 1) (hcapt : (s.tx n).capt = none)
    (hno : s.noField n = false) (hport : s.portOk (s.tx n).port = true) (hreach : s.inReach n (s.tx n).port = true)
    (hwait : s.mustWait n = false) (hrail : s.railCtl (s.txRail n) ≠ 0 ∨ s.railState (s.txRail n) ≠ 4) (hsw : (s.tx n).swAt ≤ s.now)
    (hok : (s.chainRamp n).ok = true) :
    effFieldLaunch n s = ((s.captured n (s.chainRamp n)).withTx n fun t => { t with act := 4 }).rampUp n (s.chainRamp n) := by
  have hl : n < s.txc.length := by omega
  generalize hr : s.chainRamp n = r at *
  have hcap : s.captureRamp n = s.captured n r := by rw [State.captureRamp_of_ok hcapt (by rw [hr]; exact hok), hr]
  have htx := State.captured_tx hl r n
  have hfield : (s.captured n r).fieldSt n = 1 := hst
  have hlate : ((s.captured n r).railCtl ((s.captured n r).txRail n) == 0 &&
      (s.captured n r).railState ((s.captured n r).txRail n) == 4) = false := by
    rw [State.captured_txRail hl, Bool.and_eq_false_iff, beq_eq_false_iff_ne, beq_eq_false_iff_ne]; exact hrail
  have hbegin : (s.captured n r).beginField n = ((s.captured n r).withTx n fun t => { t with act := 4 }).rampUp n r := by
    have hthrough : ¬ (s.captured n r).now < (s.tx n).swAt := Nat.not_lt.mpr hsw
    unfold State.beginField; simp [htx, hact, hthrough, hfield]
  have hlaunch : s.launchOn n = (s.captured n r).beginField n := by
    unfold State.launchOn
    simp [hst, hact, hno, hport, hreach, hcap, htx, hlate, State.captured_mustWait hl, hwait]
  rw [← hbegin, ← hlaunch]
  unfold effFieldLaunch; simp [hrun, hn, hst, hfired, htk, hact]

end Sys2Proof.Machine
end

section
/-! SUPPORT. The plateau of a field-on and the end of its settle (R103, R105, R120). -/

namespace Sys2Proof.Machine
open Sys2Proof

variable {s t u : State} {n : Nat}

theorem exec_plateau (n : Nat) (s : State) : exec (.plateau n) s = .next (s.finish (effPlateau n s)) := rfl

theorem exec_settleEnd (n : Nat) (s : State) : exec (.settleEnd n) s = .next (s.finish (effSettleEnd n s)) := rfl

/-! ## What errors and flags leave of SETTLE -/

/-- FLAG and ERR_COUNT of every page. -/
def flagKeys : Nat → Nat → Bool := fun _ o => o == 4 || o == 8

/-- Between two states flags were set and errors recorded; no page's register 0x14, on a transmit chain's page SETTLE, has changed. Event
pages are included, whose registers `Only` leaves open: the page of which TXC8 has its copy is not bounded. -/
structure Flagged (s t : State) : Prop where
  only : Only flagKeys s t
  settle : ∀ q, t.reg q TXC.SETTLE_CYCLES.off = s.reg q TXC.SETTLE_CYCLES.off

theorem Flagged.refl (s : State) : Flagged s s := ⟨.refl _ s, fun _ => rfl⟩

theorem Flagged.trans (h : Flagged s t) (g : Flagged t u) : Flagged s u :=
  ⟨h.only.trans g.only, fun q => (g.settle q).trans (h.settle q)⟩

/-- A field of another register leaves register 0x14 of every page, SETTLE on a transmit chain's. -/
theorem settleReg_put {f : Fld} (h : f.off < 256 ∧ f.off ≠ 0x14) (s : State) (p x q : Nat) : (s.put p f x).reg q 0x14 = s.reg q 0x14 :=
  State.reg_put_ne s (by omega) x

/-- Where numbers are shown (R282). -/
theorem settleReg_numShown {k p : Nat} {f : Fld} (h : numShown k = some (p, f)) : f.off < 256 ∧ f.off ≠ 0x14 := by
  unfold numShown at h
  split at h
  · cases h
  · split at h
    · cases h; decide
    · split at h
      · cases h; simp only [EVT.CH_LAST_SEQ]; omega
      · cases h

theorem settleReg_numberAs (s : State) (r k q : Nat) : (s.numberAs r k).2.reg q 0x14 = s.reg q 0x14 := by
  unfold State.numberAs
  split
  · refine State.forEach_inv (fun u => u.reg q 0x14 = s.reg q 0x14) _ _ (fun u a _ hu => ?_) _ (settleReg_put (by decide) ..)
    split
    · exact (settleReg_put (settleReg_numShown ‹_›) ..).trans hu
    · exact hu
  · rfl

theorem Flagged.recordErr (h : Flagged s t) (p c : Nat) : Flagged s (t.recordErr p c) := by
  refine h.trans ⟨State.recordErr_only t p c (.inr rfl), fun q => ?_⟩
  have hcode : (((t.inc p COM.ERR_COUNT).put p COM.LAST_ERR_CODE c)).reg q 0x14 = t.reg q 0x14 :=
    (settleReg_put (by decide) ..).trans (settleReg_put (by decide) ..)
  unfold State.recordErr; dsimp only
  split
  · exact (settleReg_put (by decide) ..).trans ((settleReg_numberAs ..).trans hcode)
  · exact (settleReg_put (by decide) ..).trans hcode

theorem Flagged.recordBoth (h : Flagged s t) (p c p2 c2 : Nat) : Flagged s (t.recordBoth p c p2 c2) := by
  unfold State.recordBoth; split
  · exact (h.recordErr ..).recordErr ..
  · exact (h.recordErr ..).recordErr ..

theorem Flagged.flag (h : Flagged s t) (p : Nat) {f : Fld} (hf : f.off = 4) (i : Nat) : Flagged s (t.flag p f i) := by
  have ho : f.off < 256 := by omega
  refine h.trans ⟨(Only.refl _ t).raise ho (.inr (by simp [flagKeys, hf])) i, fun q => ?_⟩
  exact settleReg_put (f := ⟨f.off, f.lo + i, f.lo + i⟩) ⟨ho, by simp only [hf]; decide⟩ t p 1 q

theorem Flagged.when (h : Flagged s t) (b : Bool) {f : State → State} (hf : ∀ v, Flagged s v → Flagged s (f v)) :
    Flagged s (t.when b f) := by
  unfold State.when; split
  · exact hf t h
  · exact h

/-- A coupled neighbour is checked by flags and errors only (R120). -/
theorem Flagged.checkNeighbour (h : Flagged s t) (n p m q : Nat) : Flagged s (t.checkNeighbour n p m q) := by
  have heach (v : State) (hv : Flagged s v) : Flagged s (((v.flag (pFIL (p / 8)) FIL.FLAG_ADJ (p % 8)).flag (pFIL (q / 8)) FIL.FLAG_ADJ
      (q % 8)).recordBoth (pFIL (p / 8)) 4 (pFIL (q / 8)) 4) := ((hv.flag _ rfl _).flag _ rfl _).recordBoth ..
  unfold State.checkNeighbour; extract_lets pg cp cq bad1 bad2 each s1
  have h1 : Flagged s s1 := h.when bad1 fun v hv => heach _ ((hv.flag _ rfl 0).recordErr ..)
  exact h1.when bad2 fun v hv => heach _ ((hv.flag _ rfl 0).recordErr ..)

/-- The settle time a chain acts on is of its page or of the copy that TXC8 keeps (R113). -/
theorem Flagged.settleCycles (h : Flagged s t) (n : Nat) : t.txGet n TXC.SETTLE_CYCLES = s.txGet n TXC.SETTLE_CYCLES := by
  have hserve : t.tx8Serve = s.tx8Serve := h.only.get (q := pTXC 8) (f := TXC.CFG_SERVE) (by decide) (by decide) rfl
  have hfor : t.tx8For = s.tx8For := by unfold State.tx8For; rw [hserve, h.only.tx]
  have hmirror : t.mirror = s.mirror := (congrArg State.mirror h.only.rest :)
  unfold State.txGet State.mget State.mirrorReg State.get; rw [hfor, h.settle, h.settle, hmirror]

/-- A chain's note that its power is limited leaves its configuration. -/
theorem State.settleCycles_limited (hn : n < s.txc.length) (m : Nat) :
    (s.withTx n fun t => { t with limited := true }).txGet m TXC.SETTLE_CYCLES = s.txGet m TXC.SETTLE_CYCLES := by
  have hfor : (s.withTx n fun t => { t with limited := true }).tx8For = s.tx8For := by
    unfold State.tx8For State.tx8Serve
    by_cases h8 : 8 = n
    · subst h8; rw [State.tx_withTx_same hn]; rfl
    · rw [State.tx_withTx_ne h8]; rfl
  unfold State.txGet; rw [hfor]; rfl

/-! ## The plateau -/

/-- The Board after what the plateau of chain `n` checks: its neighbours, its power, the modulation beside it (R99, R120, R121). -/
def State.plateauChecked (s : State) (n : Nat) : State :=
  let v := s.forEach (s.coupledChains n) fun v e => v.checkNeighbour n (s.txPort n) e.1 e.2
  (v.powerLimit n).when ((v.coupledChains n).any fun e => v.bit (pTXC e.1) TXC.STATUS_MODULATING) fun v => v.retimer 1 (.askCheck n)

/-- At its plateau a field-on that is no takeover's begins to settle (R103). -/
theorem effPlateau_settles (hrun : s.coreRuns = true) (hn : n < 9) (hst : s.fieldSt n = 2) (hact : (s.tx n).act = 4)
    (htk : n ≠ 8 ∨ (s.tx n).takeover ≠ 3) :
    effPlateau n s =
      ((s.plateauChecked n).setField n 3).sched (16 * (s.plateauChecked n).txGet n TXC.SETTLE_CYCLES) (.settleEnd n) := by
  have hno : ¬ (n = 8 ∧ (s.tx n).takeover = 3) := fun h => htk.elim (absurd h.1) (absurd h.2)
  unfold effPlateau
  rw [if_pos (by simp [hrun, hn, hst])]
  simp only [hno, hact, if_false]
  rfl

/-- The checks take no time and leave the settle time. -/
theorem State.plateauChecked_keeps (hn : n < s.txc.length) :
    (s.plateauChecked n).now = s.now ∧ (s.plateauChecked n).txGet n TXC.SETTLE_CYCLES = s.txGet n TXC.SETTLE_CYCLES := by
  have hnear : Flagged s (s.forEach (s.coupledChains n) fun v e => v.checkNeighbour n (s.txPort n) e.1 e.2) :=
    State.forEach_inv (Flagged s) _ _ (fun v e _ hv => hv.checkNeighbour ..) s (.refl s)
  have hwhen (v : State) (b : Bool) : (v.when b fun v => v.retimer 1 (.askCheck n)).now = v.now ∧
      (v.when b fun v => v.retimer 1 (.askCheck n)).txGet n TXC.SETTLE_CYCLES = v.txGet n TXC.SETTLE_CYCLES := by
    cases b <;> exact ⟨rfl, rfl⟩
  unfold State.plateauChecked; extract_lets v
  obtain ⟨hnow, hget⟩ := hwhen (v.powerLimit n) ((v.coupledChains n).any fun e => v.bit (pTXC e.1) TXC.STATUS_MODULATING)
  rw [hnow, hget]
  have hv : Flagged s v := hnear
  clear_value v
  have hlen : n < v.txc.length := hv.only.txc ▸ hn
  unfold State.powerLimit; split
  · have hl : Flagged (v.withTx n fun t => { t with limited := true })
        (((v.withTx n fun t => { t with limited := true }).flag (pTXC n) TXC.FLAG_POWER_LIMIT).recordErr (pTXC n) 0x0B) :=
      ((Flagged.refl _).flag _ rfl 0).recordErr ..
    exact ⟨hl.only.now.trans hv.only.now,
      (hl.settleCycles n).trans ((State.settleCycles_limited hlen n).trans (hv.settleCycles n))⟩
  · exact ⟨hv.only.now, hv.settleCycles n⟩

theorem plateau_does (hrun : s.coreRuns = true) (hn : n < 9) (hlen : s.txc.length = 9) (hst : s.fieldSt n = 2) (hact : (s.tx n).act = 4)
    (htk : n ≠ 8 ∨ (s.tx n).takeover ≠ 3) :
    Does (.plateau n) s fun u => u.fieldSt n = 3 ∧ (s.now + 16 * s.txGet n TXC.SETTLE_CYCLES, .settleEnd n) ∈ u.agenda := by
  obtain ⟨hnow, hget⟩ := State.plateauChecked_keeps (s := s) (n := n) (by omega)
  refine does_of (exec_plateau n s) ?_
  rw [effPlateau_settles hrun hn hst hact htk, hget, ← hnow]
  exact ⟨State.setField_fieldSt _ n 3, List.mem_append_right _ (List.mem_singleton_self _)⟩

/-! ## The end of the settle -/

/-- The end of a chain's action reaches, of the registers outside those of numbers and events, ATUNE_RESULT. -/
theorem State.actDone_get (s : State) (n st : Nat) {q : Nat} {f : Fld} (ho : f.off < 256) (hn : numKey q f.off = false)
    (hne : f.off ≠ 0x19) : (s.actDone n st).get q f = s.get q f := by
  have hshow (v : State) (c : Nat) : (v.tuneShow c st).get q f = v.get q f := by
    unfold State.tuneShow; split
    · split
      · exact State.get_put_reg v (by simp only [TXC.ATUNE_RESULT_STATUS]; omega) _
      · rfl
    · rfl
  have hend (v : State) (c : Nat) : (v.endMove c st).get q f = v.get q f := by
    unfold State.endMove; split
    · rfl
    · split
      · rfl
      · exact (hshow _ c).trans ((State.numberAs_only (K := noKeys) v c 0).get ho hn rfl)
  unfold State.actDone State.endFor; dsimp only; split
  · exact hend _ _
  · rfl

/-- At the end of its settle a field is ON (R105); the event and the move's end come after its flag. -/
theorem effSettleEnd_keeps (hrun : s.coreRuns = true) (hn : n < 9) (hst : s.fieldSt n = 3) {f : Fld} (hf : f.off = 2 ∨ f.off = 4) :
    (effSettleEnd n s).get (pTXC n) f = ((s.setField n 4).flag (pTXC n) TXC.FLAG_FIELD_ON).get (pTXC n) f := by
  have ho : f.off < 256 := by omega
  have hkey : numKey (pTXC n) f.off = false := by
    have h : pTXC n ≠ pARB ∧ ¬ (0x70 ≤ pTXC n ∧ pTXC n ≤ 0x77) ∧ f.off ≠ 9 := by unfold pTXC pARB; omega
    simp [numKey, h]
  have hpresent := (State.present_only (K := noKeys) ((s.setField n 4).flag (pTXC n) TXC.FLAG_FIELD_ON) (20 + n)
    ((((s.setField n 4).flag (pTXC n) TXC.FLAG_FIELD_ON)).tx n).hop).get ho hkey rfl
  unfold effSettleEnd
  rw [if_pos (by simp [hrun, hn, hst])]
  dsimp only; split
  · exact (State.actDone_get _ n stDONE ho hkey (by omega)).trans hpresent
  · exact hpresent

theorem settleEnd_does (hrun : s.coreRuns = true) (hn : n < 9) (hst : s.fieldSt n = 3) :
    Does (.settleEnd n) s fun u => u.fieldSt n = 4 ∧ u.bit (pTXC n) TXC.FLAG_FIELD_ON = true := by
  refine does_of (exec_settleEnd n s) ⟨?_, ?_⟩
  · refine (effSettleEnd_keeps hrun hn hst (f := TXC.STATUS_FIELD) (.inl rfl)).trans ?_
    have hreg : pTXC n * 256 + TXC.STATUS_FIELD.off ≠ pTXC n * 256 + TXC.FLAG_FIELD_ON.off := fun h => absurd (Nat.add_left_cancel h) (by decide)
    exact (State.get_put_reg (s.setField n 4) (f := ⟨TXC.FLAG_FIELD_ON.off, 0, 0⟩) hreg 1).trans (State.setField_fieldSt s n 4)
  · unfold State.bit
    rw [effSettleEnd_keeps hrun hn hst (f := TXC.FLAG_FIELD_ON) (.inr rfl)]
    exact State.bit_flag_same _ _ _ rfl (by decide)

theorem fieldLaunch_does (hrun : s.coreRuns = true) (hn : n < 9) (hlen : s.txc.length = 9) (htk : (s.tx n).takeover = 0)
    (hst : s.fieldSt n = 1) (hfired : (s.tx n).fired = true) (hact : (s.tx n).act = 1) (hcapt : (s.tx n).capt = none)
    (hno : s.noField n = false) (hport : s.portOk (s.tx n).port = true) (hreach : s.inReach n (s.tx n).port = true)
    (hwait : s.mustWait n = false) (hrail : s.railCtl (s.txRail n) ≠ 0 ∨ s.railState (s.txRail n) ≠ 4) (hsw : (s.tx n).swAt ≤ s.now)
    (hok : (s.chainRamp n).ok = true) :
    Does (.fieldLaunch n) s fun u => u.fieldSt n = 2 ∧ (s.now + (s.chainRamp n).upLen, .plateau n) ∈ u.agenda ∧ (u.tx n).act = 4 ∧
      (u.tx n).ramp = s.chainRamp n ∧ (u.tx n).since = s.now ∧ (u.tx n).sw = (s.tx n).sw := by
  have hcap : n < (s.captured n (s.chainRamp n)).txc.length := by unfold State.captured; rw [State.withTx_txc_length]; omega
  have hlaunched := State.tx_withTx_same hcap fun t => { t with act := 4 }
  obtain ⟨hup, hdue, hact4, hramp, hsince, hswitch⟩ :=
    State.rampUp_begins (s := (s.captured n (s.chainRamp n)).withTx n fun t => { t with act := 4 }) (n := n)
      (by rw [State.withTx_txc_length]; exact hcap) (s.chainRamp n)
  refine does_of (exec_fieldLaunch n s) ?_
  rw [effFieldLaunch_fieldOn hrun hn hlen htk hst hfired hact hcapt hno hport hreach hwait hrail hsw hok]
  refine ⟨hup, hdue, hact4.trans (by rw [hlaunched]), hramp, hsince, hswitch.trans ?_⟩
  rw [hlaunched, State.captured_tx (by omega)]

/-- Settles O10: the launch captures the ramps, which nothing that a field-on waits for depends on (`State.captured_mustWait`); the checks at
the plateau set flags and record errors, which leave the settle time (`Flagged.settleCycles`); what the end of the settle presents and ends
comes after the field's state and flag. (`fieldOn` without its namespace is the model's test for a move.) -/
theorem TransmitChain.fieldOn : Obligations.FieldOn :=
  ⟨fun _ _ hrun hn hlen htk hst hfired hact hcapt hno hport hreach hwait hrail hsw hok =>
      fieldLaunch_does hrun hn hlen htk hst hfired hact hcapt hno hport hreach hwait hrail hsw hok,
   fun _ _ hrun hn hlen hst hact htk => plateau_does hrun hn hlen hst hact htk,
   fun _ _ hrun hn hst => settleEnd_does hrun hn hst⟩

end Sys2Proof.Machine
end

section
/-! SUPPORT. What happens at once leaves memory as it was: the shared operations, chains, taps, rails and the ends of moves. -/

namespace Sys2Proof.Machine
open Sys2Proof

/-- SRAM and its parity words. -/
def State.memory (s : State) : List Host.Cell × List Host.Cell := (s.sram, s.parity)

theorem sameMemory_of_memory {s t : State} (h : t.memory = s.memory) : SameMemory s t := Prod.ext_iff.mp h

theorem word_of_memory {s t : State} (h : t.memory = s.memory) (a : Nat) : t.word a = s.word a := by
  unfold State.word; rw [(sameMemory_of_memory h).1]

theorem parityWord_of_memory {s t : State} (h : t.memory = s.memory) (l : Nat) : t.parityWord l = s.parityWord l := by
  unfold State.parityWord; rw [(sameMemory_of_memory h).2]

@[simp] theorem memory_put (s : State) (p : Nat) (f : Fld) (x : Nat) : (s.put p f x).memory = s.memory := rfl
@[simp] theorem memory_putB (s : State) (p : Nat) (f : Fld) (b : Bool) : (s.putB p f b).memory = s.memory := rfl
@[simp] theorem memory_putBit (s : State) (p : Nat) (f : Fld) (i : Nat) (b : Bool) : (s.putBit p f i b).memory = s.memory := rfl
@[simp] theorem memory_inc (s : State) (p : Nat) (f : Fld) : (s.inc p f).memory = s.memory := rfl
@[simp] theorem memory_raise (s : State) (p : Nat) (f : Fld) (i : Nat) : (s.raise p f i).memory = s.memory := rfl
@[simp] theorem memory_flag (s : State) (p : Nat) (f : Fld) (i : Nat) : (s.flag p f i).memory = s.memory := rfl
@[simp] theorem memory_mirrorTake (s : State) (k : Nat) (m : Word) : (s.mirrorTake k m).memory = s.memory := rfl
@[simp] theorem memory_sched (s : State) (d : Nat) (c : Instr) : (s.sched d c).memory = s.memory := rfl
@[simp] theorem memory_unsched (s : State) (c : Instr) : (s.unsched c).memory = s.memory := rfl
@[simp] theorem memory_resched (s : State) (d : Nat) (c : Instr) : (s.resched d c).memory = s.memory := rfl
@[simp] theorem memory_untimer (s : State) (t : Tm) : (s.untimer t).memory = s.memory := rfl
@[simp] theorem memory_retimer (s : State) (d : Nat) (t : Tm) : (s.retimer d t).memory = s.memory := rfl
@[simp] theorem memory_withTx (s : State) (n : Nat) (f : Txc → Txc) : (s.withTx n f).memory = s.memory := rfl
@[simp] theorem memory_withRx (s : State) (n : Nat) (f : Rxc → Rxc) : (s.withRx n f).memory = s.memory := rfl
@[simp] theorem memory_withCtx (s : State) (n : Nat) (f : Ctx → Ctx) : (s.withCtx n f).memory = s.memory := rfl
@[simp] theorem memory_withEng (s : State) (n : Nat) (f : Eng → Eng) : (s.withEng n f).memory = s.memory := rfl
@[simp] theorem memory_withPwr (s : State) (f : Pwr → Pwr) : (s.withPwr f).memory = s.memory := rfl
@[simp] theorem memory_withRail (s : State) (r : Nat) (f : Rail → Rail) : (s.withRail r f).memory = s.memory := rfl
@[simp] theorem memory_withXmp (s : State) (f : Xmp → Xmp) : (s.withXmp f).memory = s.memory := rfl
@[simp] theorem memory_withSco (s : State) (f : Sco → Sco) : (s.withSco f).memory = s.memory := rfl
@[simp] theorem memory_withCal (s : State) (f : Cal → Cal) : (s.withCal f).memory = s.memory := rfl
@[simp] theorem memory_setField (s : State) (n st : Nat) : (s.setField n st).memory = s.memory := rfl
@[simp] theorem memory_dropJobs (s : State) (r : Nat) : (s.dropJobs r).memory = s.memory := rfl

@[simp] theorem memory_ite (c : Prop) [Decidable c] (x y : State) :
    (if c then x else y).memory = if c then x.memory else y.memory := apply_ite _ c x y

@[simp] theorem memory_when (s : State) (c : Bool) (f : State → State) :
    (s.when c f).memory = if c then (f s).memory else s.memory := apply_ite _ _ _ _

@[simp] theorem memory_forEach {α : Type} {f : State → α → State} (hf : ∀ t a, (f t a).memory = t.memory) (s : State) (l : List α) :
    (s.forEach l f).memory = s.memory :=
  State.forEach_inv (fun u => u.memory = s.memory) l f (fun t a _ h => (hf t a).trans h) s rfl

theorem Only.memory {K : Nat → Nat → Bool} {s t : State} (h : Only K s t) : t.memory = s.memory := (congrArg State.memory h.rest :)

@[simp] theorem memory_numberAs (s : State) (r n : Nat) : (s.numberAs r n).2.memory = s.memory :=
  (State.numberAs_only (K := noKeys) s r n).memory

@[simp] theorem memory_recordErr (s : State) (p c : Nat) : (s.recordErr p c).memory = s.memory :=
  (State.recordErr_only (K := fun _ _ => true) s p c (.inr rfl)).memory

@[simp] theorem memory_present (s : State) (p hop : Nat) : (s.present p hop).memory = s.memory :=
  (State.present_only (K := noKeys) s p hop).memory

@[simp] theorem memory_putHw (s : State) (p : Nat) (f : Fld) (x : Nat) : (s.putHw p f x).memory = s.memory := by
  unfold State.putHw; split <;> rfl

@[simp] theorem memory_rxPutHw (s : State) (n : Nat) (f : Fld) (x : Nat) : (s.rxPutHw n f x).memory = s.memory :=
  (memory_mirrorTake ..).trans (memory_putHw ..)

@[simp] theorem memory_releaseWing (s : State) (w : Nat) : (s.releaseWing w).memory = s.memory := by
  unfold State.releaseWing State.setOwner; simp

@[simp] theorem memory_selectTap (s : State) (n p : Nat) : (s.selectTap n p).memory = s.memory := by
  unfold State.selectTap; simp

@[simp] theorem memory_retap (s : State) (n : Nat) : (s.retap n).memory = s.memory := by
  unfold State.retap; split
  · rfl
  · split <;> simp

@[simp] theorem memory_retapWing (s : State) (w : Nat) : (s.retapWing w).memory = s.memory := by
  unfold State.retapWing; simp

@[simp] theorem memory_openSwitch (s : State) (n : Nat) : (s.openSwitch n).memory = s.memory := by
  unfold State.openSwitch; split <;> simp

@[simp] theorem memory_addJob (s : State) (j : Job) : (s.addJob j).memory = s.memory := by
  have hserve (t : State) : t.serveJob.memory = t.memory := by unfold State.serveJob; split <;> simp
  unfold State.addJob; simp [hserve]

@[simp] theorem memory_followRails (s : State) : s.followRails.memory = s.memory := by
  have hraise {t u : State} {r d : Nat} (h : t.raiseInUp r d = some u) : u.memory = t.memory := by
    unfold State.raiseInUp at h; split at h
    · cases h
    · cases h; rfl
  have hrail (t : State) (r : Nat) : (t.followRail r).memory = t.memory := by
    unfold State.followRail; split
    · rfl
    · dsimp only; split
      · split
        · unfold State.railUp; simp
        · split
          · exact hraise (t := t.unsched (.railLowering r)) ‹_›
          · unfold State.railChange; simp
      · simp
  unfold State.followRails; rw [hrail, hrail]

@[simp] theorem memory_armNow (s : State) (n : Nat) : (s.armNow n).memory = s.memory := by
  have hswitch (t : State) (p : Nat) : (t.setSwitch n p).memory = t.memory := by unfold State.setSwitch; simp
  unfold State.armNow; simp [hswitch]

@[simp] theorem memory_endMove (s : State) (c status : Nat) : (s.endMove c status).memory = s.memory := by
  have hshow (t : State) : (t.tuneShow c status).memory = t.memory := by unfold State.tuneShow; split <;> simp
  unfold State.endMove; split
  · rfl
  · simp [hshow]

@[simp] theorem memory_endFor (s : State) (c : Option Nat) (status : Nat) : (s.endFor c status).memory = s.memory := by
  unfold State.endFor; split <;> simp

@[simp] theorem memory_wakeChains (s : State) : s.wakeChains.memory = s.memory := by
  unfold State.wakeChains; simp

theorem memory_dropArmed (s : State) (n st : Nat) : (s.dropArmed n st).memory = s.memory := by
  have hheld (t : State) : (t.takeHeld n).memory = t.memory := by unfold State.takeHeld; split <;> simp
  unfold State.dropArmed State.tuneEnd; simp [hheld]

theorem memory_fieldOffNow {s : State} (hi : s.inv.wings = []) (w hop : Nat) : (s.fieldOffNow w hop).memory = s.memory := by
  have hramp (t : State) (n st : Nat) : (t.rampDown n st).memory = t.memory := by unfold State.rampDown; simp
  unfold State.fieldOffNow; simp [invCut_of_none hi, hramp, memory_dropArmed]

theorem memory_releases (s : State) : s.releaseTx8.releaseRx16.memory = s.memory := by
  have hact (t : State) (a b : Nat) : (t.moveAct a b).memory = t.memory := by unfold State.moveAct; simp
  have htx : s.releaseTx8.memory = s.memory := by unfold State.releaseTx8; simp [hact]
  unfold State.releaseRx16; simp [htx]

theorem memory_when_of {f : State → State} (hf : ∀ t, (f t).memory = t.memory) (s : State) (c : Bool) :
    (s.when c f).memory = s.memory := by
  cases c
  · rfl
  · exact hf s

@[simp] theorem memory_calOver (s : State) : s.calOver.memory = s.memory := by
  have hshow (t : State) : t.calShow.memory = t.memory := by unfold State.calShow; simp
  unfold State.calOver; extract_lets stage w s1 s2 s3 s4
  have h4 : s4.memory = s3.memory := memory_when_of (fun t => by simp) s3 _
  exact ((memory_forEach memory_releaseWing _ _).trans h4).trans (hshow s2)

@[simp] theorem memory_xbOver (s : State) : s.xbOver.memory = s.memory := by
  unfold State.xbOver State.rxRest; simp

theorem memory_calSettle {s : State} (hi : s.inv.wings = []) : s.calSettle.memory = s.memory := by
  have hlevel (t : State) : (t.forEach (List.range 9) fun s n => s.withTx n fun t => { t with level := 0 }).memory = t.memory :=
    memory_forEach (fun t n => memory_withTx t n _) t _
  unfold State.calSettle; extract_lets n s1 s2 s3
  have h1 : s1.memory = s.memory := by
    unfold s1; simp [memory_fieldOffNow hi, hlevel]
  have h2 : s2.memory = s1.memory := by unfold s2; simp
  have h3 : s3.memory = s2.memory := by unfold s3 State.simulAt; simp
  simp [h3, h2, h1]

end Sys2Proof.Machine
end

section
/-! SUPPORT. What happens at once leaves memory as it was: flash, Scoresheet and power modes; `State.settle` read backwards. -/

namespace Sys2Proof.Machine
open Sys2Proof

@[simp] theorem memory_xmpShow (s : State) : s.xmpShow.memory = s.memory := by
  unfold State.xmpShow; dsimp only; split <;> simp

@[simp] theorem memory_xmpStart (s : State) : s.xmpStart.memory = s.memory := memory_xmpShow _

@[simp] theorem memory_xmpPost (s : State) (owner off : Nat) (bytes : List Nat) : (s.xmpPost owner off bytes).2.memory = s.memory := by
  unfold State.xmpPost State.xmpRange; split
  · simp
  · dsimp only; split <;> simp

@[simp] theorem memory_xmpEraseQ (s : State) (t off owner : Nat) : (s.xmpEraseQ t off owner).2.memory = s.memory := by
  unfold State.xmpEraseQ State.xmpRange; dsimp only; split
  · simp
  · split <;> simp

theorem memory_xmpDiscard (s : State) : s.xmpDiscard.memory = s.memory := by
  have hdone (t : State) (owner : Nat) : (t.xmpOwnerDone owner).memory = t.memory := by unfold State.xmpOwnerDone; simp
  unfold State.xmpDiscard; extract_lets l s1 s2 s3 s4
  have h2 : s2.memory = s1.memory := memory_forEach (fun t _ => by simp) s1 l
  have h3 : s3.memory = s2.memory := memory_forEach (fun t _ => by simp [hdone]) s2 _
  have h4 : s4.memory = s3.memory := memory_forEach (fun t _ => memory_sched t _ _) s3 _
  rw [memory_xmpShow, h4, h3, h2]; rfl

@[simp] theorem memory_scoPush (s : State) (kind arbseq : Nat) (inj : Bool) (payload : List Nat) :
    (s.scoPush kind arbseq inj payload).memory = s.memory := memory_put ..

@[simp] theorem memory_scoLose (s : State) : s.scoLose.memory = s.memory := memory_inc ..

@[simp] theorem memory_scoRecord (s : State) (kind arbseq : Nat) (payload : List Nat) (inj : Bool) :
    (s.scoRecord kind arbseq payload inj).memory = s.memory := by
  unfold State.scoRecord State.scoDrop; simp

@[simp] theorem memory_scoShow (s : State) : s.scoShow.memory = s.memory := by unfold State.scoShow; simp

@[simp] theorem memory_scoProgram (s : State) : s.scoProgram.memory = s.memory := by
  have hpair (x : Bool × State) : (if x.1 then (x.2.withSco fun y => { y with op := 1 }).scoShow else x.2).memory = x.2.memory := by
    split <;> simp
  unfold State.scoProgram; split
  · exact (hpair _).trans (memory_xmpPost ..)
  · rfl

theorem memory_scoSettle (s : State) : s.scoSettle.memory = s.memory := by
  have hlost (t : State) : t.scoLostRecord.memory = t.memory := by unfold State.scoLostRecord; simp
  have hdiscard (t : State) : t.scoDiscard.memory = t.memory := by
    unfold State.scoDiscard
    exact (memory_put ..).trans (memory_forEach (fun u _ => memory_scoLose u) t _)
  have hrefuse (t : State) : t.scoRefuse.memory = t.memory := by unfold State.scoRefuse; simp [hdiscard]
  have htest (t : State) : t.scoTest.memory = t.memory := by unfold State.scoTest; simp [hrefuse]
  have herase (t : State) (k : Nat) : (t.scoEraseSector k).memory = t.memory := by
    unfold State.scoEraseSector; dsimp only; split <;> simp
  have hadvance (t : State) : t.scoAdvance.memory = t.memory := by unfold State.scoAdvance; simp [herase]
  unfold State.scoSettle; simp [hlost, hrefuse, htest, hadvance]

theorem memory_pwrSettle (s : State) : s.pwrSettle.memory = s.memory := by
  have hentry (t : State) : t.entrySettle.memory = t.memory := by unfold State.entrySettle; simp [memory_xmpDiscard]
  have href (t : State) : t.refSwitch.memory = t.memory := by unfold State.refSwitch State.synStart; simp
  have hsyn (t : State) : t.synStop.memory = t.memory := by unfold State.synStop; simp
  have hmode (t : State) : t.giveModeRec.memory = t.memory := by unfold State.giveModeRec; split <;> simp
  unfold State.pwrSettle; rw [hmode, hsyn, href, hentry, hentry, hentry]

theorem memory_xmpInjSettle (s : State) : s.xmpInjSettle.memory = s.memory := by
  unfold State.xmpInjSettle; split <;> rfl

theorem memory_autoIrqWord (s t : State) : (s.autoIrqWord t).memory = t.memory := by
  unfold State.autoIrqWord State.rptAppend
  split
  · split <;> rfl
  · rfl

variable {c : Nat} {s : State}

theorem State.Quiet.memory_takeEnds {n : Nat} (h : (State.takeEnds n s).Quiet c) : (State.takeEnds n s).memory = s.memory := by
  obtain ⟨l, e⟩ := h.takeEnds_eq
  rw [e]; rfl

theorem State.Quiet.memory_takeReports (h : s.takeReports.Quiet c) : s.takeReports.memory = s.memory := by
  rw [h.takeReports_eq]; rfl

theorem memory_takeResign (ha : ∀ d, (d, Instr.resignRampEnd) ∉ s.takeResign.agenda) : s.takeResign.memory = s.memory := by
  unfold State.takeResign at ha ⊢; dsimp only at ha ⊢
  split
  · rfl
  · rename_i h0
    rw [if_neg h0] at ha
    split
    · rfl
    · rename_i hr
      rw [if_neg hr] at ha
      obtain ⟨d, hd⟩ := beginResign_agenda _ s.flt.request
      exact absurd hd (ha d)

/-- Where what happens at once leaves the Board quiet and no Resign begun, it left memory as it was. -/
theorem State.Quiet.memory_settle {u : State} (h : (s.settle u).Quiet c)
    (ha : ∀ d, (d, Instr.resignRampEnd) ∉ (s.settle u).agenda) : (s.settle u).memory = u.memory := by
  unfold State.settle at h ha ⊢; dsimp only at ha ⊢; extract_lets s1 s2 s3 at h
  rw [autoIrqWord_agenda] at ha
  have h3 : s3.Quiet c := h.of_gauge (gauge_autoIrqWord ..)
  have hEnds := h3.of_takeReports
  obtain ⟨l, e⟩ := hEnds.takeEnds_eq
  rw [h3.takeReports_eq, e] at ha
  have hReports : s2.pwrSettle.takeReports.Quiet c := (hEnds.of_takeEnds.of_takeResign ha).of_gauge (gauge_xmpInjSettle _)
  have hEnds2 := (hReports.of_takeReports.of_gauge (gauge_pwrSettle _)).of_gauge (gauge_scoSettle _)
  have h1 : s1.Quiet c := hEnds2.of_takeEnds.of_releases.of_calSettle
  have hReports1 := h1.of_gauge (gauge_invSettleAll _)
  have hwings (t : State) (ht : t.Quiet c) : t.inv.wings = [] := (quiet_iff.mp ht).2.1
  have hs1 : s1.memory = u.memory :=
    calc s1.memory
        = (State.takeEnds 8 u.releaseTx8.releaseRx16).takeReports.memory :=
          congrArg State.memory (invSettleAll_of_none (hwings _ hReports1))
      _ = (State.takeEnds 8 u.releaseTx8.releaseRx16).memory := hReports1.memory_takeReports
      _ = u.releaseTx8.releaseRx16.memory := hReports1.of_takeReports.memory_takeEnds
      _ = u.memory := memory_releases u
  have hs2 : s2.memory = s1.memory :=
    calc s2.memory
        = (State.takeEnds 8 s1.calSettle.releaseTx8.releaseRx16).memory := memory_scoSettle _
      _ = s1.calSettle.releaseTx8.releaseRx16.memory := hEnds2.memory_takeEnds
      _ = s1.calSettle.memory := memory_releases _
      _ = s1.memory := memory_calSettle (hwings s1 h1)
  have hs3 : s3.memory = s2.memory :=
    calc s3.memory
        = (State.takeEnds 8 s2.pwrSettle.takeReports.xmpInjSettle.takeResign).memory := h3.memory_takeReports
      _ = s2.pwrSettle.takeReports.xmpInjSettle.takeResign.memory := hEnds.memory_takeEnds
      _ = s2.pwrSettle.takeReports.xmpInjSettle.memory := memory_takeResign ha
      _ = s2.pwrSettle.takeReports.memory := memory_xmpInjSettle _
      _ = s2.pwrSettle.memory := hReports.memory_takeReports
      _ = s2.memory := memory_pwrSettle s2
  calc (s.autoIrqWord s3).memory
      = s3.memory := memory_autoIrqWord s s3
    _ = u.memory := hs3.trans (hs2.trans hs1)

theorem State.Quiet.memory_finish {u : State} (h : (s.finish u).Quiet c)
    (ha : ∀ d, (d, Instr.resignRampEnd) ∉ (s.finish u).agenda) : (s.finish u).memory = u.memory :=
  State.Quiet.memory_settle (s := s) h ha

end Sys2Proof.Machine
end

section
/-! SUPPORT. Sample captures (R147, R149): RXC16 in a takeover for a chain that the Board does not have. -/

namespace Sys2Proof.Machine
open Sys2Proof

theorem exec_captureDone (n : Nat) (samples : List Nat) (s : State) :
    exec (.captureDone n samples) s = .next (s.finish (effCaptureDone n samples s)) := rfl

/-- RXC16 captures two words from word 6 on, in a takeover for a chain 80, so that its configuration is read from the page of the first event
channels, where CAP_ADDR is the latest number of channel 0. The first write finds a wrong bit in the parity word of its line; the error's
Arbiter number comes before one already shown for channel 0 on this edge, which moves up by one, and CAP_ADDR with it. The state has no
engines and no inventory Wings, so that what happens at once can be read backwards (`State.Quiet.memory_finish`). -/
def strayCapture : State :=
  let s : State := { State.reset with
    pwr := { State.reset.pwr with core := true, cclk := true }, now := 1, agenda := [], engs := [],
    inv := { State.reset.inv with wings := [] }, parity := [(5, 1#8)], edge := (1, [(5000, 200)]),
    rxc := List.replicate 16 Rxc.reset ++ [{ Rxc.reset with takeover := true, tookFor := 80 }] }
  (((s.put pDEV DEV.STATUS_MODE 0).put (pRXC 16) RXC.CAP_STAT_STATE 2).put (pEVT 0) RXC.CAP_ADDR_START 6).put (pEVT 0) RXC.CAP_CFG_LEN 2

theorem strayCapture_quiet : (strayCapture.finish (effCaptureDone 16 [1, 1] strayCapture)).Quiet 0 := quiet_iff.mpr (by decide +kernel)

theorem strayCapture_agenda : (strayCapture.finish (effCaptureDone 16 [1, 1] strayCapture)).agenda = [] := by decide +kernel

/-- The second sample goes to word 8, in the line after that of the region's words 6 and 7. -/
theorem strayCapture_writes : ((strayCapture.finish (effCaptureDone 16 [1, 1] strayCapture)).word 8).data = 1 := by decide +kernel

/-- Refutes O14: its sixth clause leaves the chain that RXC16 takes over for free. In `strayCapture` the region's start moves while the capture
writes, and word 8, of a line outside the region as it stood, takes a sample. -/
theorem not_captureRuns : ¬ Obligations.CaptureRuns := by
  unfold Obligations.CaptureRuns
  rintro ⟨-, -, -, -, -, h, -⟩
  obtain ⟨u, he, ⟨-, -, hword, -⟩, -⟩ := h strayCapture 16 [1, 1] 8 (by decide +kernel) (by decide) (by decide +kernel)
    (by decide +kernel) (by decide +kernel)
  rw [exec_captureDone, Host.Outcome.next.injEq] at he
  have hq := strayCapture_quiet
  have ha := strayCapture_agenda
  have hw := strayCapture_writes
  rw [he] at hq ha hw
  rw [word_of_memory (hq.memory_finish (by simp [ha])), hword] at hw
  exact absurd hw (by decide +kernel)

end Sys2Proof.Machine
end

section
/-! SUPPORT. What a command leaves of the registers, of the copies of the pages and of the receive chains (R147, R149); a word written. -/

namespace Sys2Proof.Machine
open Sys2Proof

variable {K : Nat → Nat → Bool} {β γ : Type} {π : Rxc → β} {s t u : State}

/-- Between two states registers other than those that `K` names and that numbers and events reach, the copies that TXC8 and RXC16 keep, and
of each receive chain what `π` takes of it have not changed. -/
structure RxStep (K : Nat → Nat → Bool) (π : Rxc → β) (s t : State) : Prop where
  reg : ∀ q o, o < 256 → numKey q o = false → K q o = false → t.reg q o = s.reg q o
  mirror : t.mirror = s.mirror
  rx : ∀ m, π (t.rx m) = π (s.rx m)

theorem RxStep.refl (K : Nat → Nat → Bool) (π : Rxc → β) (s : State) : RxStep K π s s := ⟨fun _ _ _ _ _ => rfl, rfl, fun _ => rfl⟩

theorem RxStep.trans (h : RxStep K π s t) (g : RxStep K π t u) : RxStep K π s u :=
  ⟨fun q o ho hn hk => (g.reg q o ho hn hk).trans (h.reg q o ho hn hk), g.mirror.trans h.mirror, fun m => (g.rx m).trans (h.rx m)⟩

theorem RxStep.mono {K' : Nat → Nat → Bool} (h : RxStep K' π s t) (hk : ∀ q o, K q o = false → K' q o = false) : RxStep K π s t :=
  ⟨fun q o ho hn hx => h.reg q o ho hn (hk q o hx), h.mirror, h.rx⟩

theorem RxStep.comp (h : RxStep K π s t) (f : β → γ) : RxStep K (fun r => f (π r)) s t :=
  ⟨h.reg, h.mirror, fun m => congrArg f (h.rx m)⟩

theorem Only.rx (h : Only K s t) (m : Nat) : t.rx m = s.rx m := by
  have hrxc : t.rxc = s.rxc := (congrArg State.rxc h.rest :)
  unfold State.rx; rw [hrxc]

theorem RxStep.only (h : RxStep K π s t) (g : Only K t u) : RxStep K π s u :=
  h.trans ⟨g.reg, (congrArg State.mirror g.rest :), fun m => congrArg π (g.rx m)⟩

theorem RxStep.put (h : RxStep K π s t) {p : Nat} {f : Fld} (hf : f.off < 256) (hk : K p f.off = true) (x : Nat) :
    RxStep K π s (t.put p f x) := h.only ((Only.refl K t).put hf (.inr hk) x)

theorem RxStep.putB (h : RxStep K π s t) {p : Nat} {f : Fld} (hf : f.off < 256) (hk : K p f.off = true) (b : Bool) :
    RxStep K π s (t.putB p f b) := h.put hf hk _

theorem RxStep.raise (h : RxStep K π s t) {p : Nat} {f : Fld} (hf : f.off < 256) (hk : K p f.off = true) (i : Nat) :
    RxStep K π s (t.raise p f i) := h.only ((Only.refl K t).raise hf (.inr hk) i)

theorem RxStep.flag (h : RxStep K π s t) {p : Nat} {f : Fld} (hf : f.off < 256) (hk : K p f.off = true) (i : Nat := 0) :
    RxStep K π s (t.flag p f i) := h.raise hf hk i

/-- An update of one chain that keeps what is taken keeps it on every chain. -/
theorem State.rx_withRx_of {g : Rxc → Rxc} (hg : ∀ r, π (g r) = π r) (s : State) (n m : Nat) :
    π ((s.withRx n g).rx m) = π (s.rx m) := by
  have hget : (s.withRx n g).rx m = (s.rxc.set n (g (s.rx n))).getD m Rxc.reset := rfl
  rw [hget, List.getD_eq_getElem?_getD, List.getElem?_set]
  split
  · rename_i hnm
    subst hnm
    split
    · exact hg _
    · rename_i hlen
      unfold State.rx; rw [List.getD_eq_default _ _ (by omega)]; rfl
  · rfl

theorem RxStep.withRx (h : RxStep K π s t) {g : Rxc → Rxc} (hg : ∀ r, π (g r) = π r) (n : Nat) : RxStep K π s (t.withRx n g) :=
  ⟨h.reg, h.mirror, fun m => (State.rx_withRx_of hg t n m).trans (h.rx m)⟩

theorem State.rx_withRx_same {n : Nat} (h : n < s.rxc.length) (g : Rxc → Rxc) : (s.withRx n g).rx n = g (s.rx n) := by
  unfold State.withRx State.rx; simp [h]

theorem RxStep.get (h : RxStep K π s t) {q : Nat} {f : Fld} (ho : f.off < 256) (hn : numKey q f.off = false) (hk : K q f.off = false) :
    t.get q f = s.get q f := by unfold State.get; rw [h.reg q f.off ho hn hk]

/-! ## The configuration of a chain (R149) -/

/-- Registers of chain `n`'s page at the offsets `l`. -/
def chainKeys (n : Nat) (l : List Nat) : Nat → Nat → Bool := fun q o => q == pRXC n && l.contains o

theorem chainKeys_page {n : Nat} {l : List Nat} {o : Nat} (h : l.contains o = true) : chainKeys n l (pRXC n) o = true := by
  simp only [chainKeys, h, beq_self_eq_true, Bool.and_self]

theorem chainKeys_other {n : Nat} {l : List Nat} {o : Nat} (h : l.contains o = false) (q : Nat) : chainKeys n l q o = false := by
  simp only [chainKeys, h, Bool.and_false]

/-- The pages of the receive chains are none that numbers and events reach, LAST_ERR aside. -/
theorem numKey_rxPage {q o : Nat} (h1 : 0x20 ≤ q) (h2 : q < 0x40) (h9 : o ≠ 9) : numKey q o = false := by
  have h : q ≠ pARB ∧ ¬ (0x70 ≤ q ∧ q ≤ 0x77) := by unfold pARB; omega
  simp [numKey, h, h9]

theorem numKey_chain {n o : Nat} (hn : n < 17) (h9 : o ≠ 9) : numKey (pRXC n) o = false :=
  numKey_rxPage (by unfold pRXC; omega) (by unfold pRXC; omega) h9

/-- A chain that is not in a takeover acts on the same configuration where no register of the chains' pages that holds it has changed. -/
theorem RxStep.rxGet (h : RxStep K Rxc.takeover s t) {n : Nat} (hn : n < 17) (hh : s.rxHears n = true) {f : Fld}
    (hf : f.off < 256) (h9 : f.off ≠ 9) (hk : ∀ q, 0x20 ≤ q → q < 0x40 → K q f.off = false ∧ K q RXC.CFG_SERVE.off = false) :
    t.rxGet n f = s.rxGet n f := by
  have hreg {q : Nat} (h1 : 0x20 ≤ q) (h2 : q < 0x40) : t.reg q f.off = s.reg q f.off :=
    h.reg q f.off hf (numKey_rxPage h1 h2 h9) (hk q h1 h2).1
  have hown : t.get (pRXC n) f = s.get (pRXC n) f := by
    unfold State.get; rw [hreg (by unfold pRXC; omega) (by unfold pRXC; omega)]
  by_cases h16 : n = 16
  · subst h16
    have hserve : t.rx16Serve = s.rx16Serve := h.get (by decide) (by decide) (hk (pRXC 16) (by decide) (by decide)).2
    have hlt : s.rx16Serve < 2 ^ 5 := State.get_lt s (pRXC 16) RXC.CFG_SERVE
    have hs : s.rx16For = s.rx16Serve := by
      have hno : (s.rx 16).takeover = false := by simpa [State.rxHears] using hh
      unfold State.rx16For; split <;> simp_all
    have ht : t.rx16For = s.rx16Serve := by
      have hno : (t.rx 16).takeover = false := by rw [h.rx]; simpa [State.rxHears] using hh
      unfold State.rx16For; split <;> simp_all
    have hcopy : t.mget (pRXC (s.rx16Serve - 1)) f = s.mget (pRXC (s.rx16Serve - 1)) f := by
      unfold State.mget State.mirrorReg
      rw [h.mirror, hreg (by unfold pRXC; omega) (by unfold pRXC; omega)]
    unfold State.rxGet; rw [hs, ht, hcopy, hown]
  · unfold State.rxGet; simp only [h16, false_and, if_false, hown]

/-- A field of a chain's configuration is below two to its width. -/
theorem State.rxGet_lt (s : State) (n : Nat) (f : Fld) : s.rxGet n f < 2 ^ (f.hi + 1 - f.lo) := by
  unfold State.rxGet; split
  · exact Nat.mod_lt _ (Nat.two_pow_pos _)
  · exact s.get_lt _ _

/-! ## The error report of a memory word (R320, R321, R325) -/

/-- The registers that an access to a word reaches: MEM's, and TST's when an open injection is detected (R424). -/
def memKeys : Nat → Nat → Bool := fun q _ => q == pMEM || q == pTST

theorem RxStep.setFault (h : RxStep memKeys π s t) (bit code : Nat) (i : FaultInfo) :
    RxStep memKeys π s (t.setFault pMEM bit code i) := by
  have herr : RxStep memKeys π s (t.recordErr pMEM code) := h.only (State.recordErr_only t pMEM code (.inr rfl))
  have hreport {v : State} (hv : RxStep memKeys π s v) (j : Bool) : RxStep memKeys π s (v.reportFault pMEM code i j) :=
    ⟨hv.reg, hv.mirror, hv.rx⟩
  have hdetected {v : State} (hv : RxStep memKeys π s v) : RxStep memKeys π s (v.tstDetected i.cls) := by
    have hmirror : (v.tstDetected i.cls).mirror = v.mirror := by unfold State.tstDetected; simp
    have hrxc : (v.tstDetected i.cls).rxc = v.rxc := by unfold State.tstDetected; simp
    have hrx (m : Nat) : (v.tstDetected i.cls).rx m = v.rx m := by unfold State.rx; rw [hrxc]
    refine ⟨fun q o ho hn hk => ?_, hmirror.trans hv.mirror, fun m => (congrArg π (hrx m)).trans (hv.rx m)⟩
    have hq : q ≠ pTST := fun e => by simp [memKeys, e] at hk
    exact (v.tstDetected_reg i.cls hq ho).trans (hv.reg q o ho hn hk)
  unfold State.setFault; dsimp only
  split
  · exact herr
  · split
    · exact hdetected (hreport (herr.raise (p := pMEM) (f := COM.FAULT) (by decide) rfl bit) _)
    · exact hreport (herr.raise (p := pMEM) (f := COM.FAULT) (by decide) rfl bit) _

/-- The counts of a bank lie on MEM's page for every address that a capture can write. -/
theorem RxStep.countEcc (h : RxStep memKeys π s t) {a : Nat} (ha : a < 2 ^ 22) (kind syn : Nat) :
    RxStep memKeys π s (t.countEcc a kind syn false) := by
  have hbank : 0x20 + a / 65536 < 256 := by omega
  have hmem (v : State) (hv : RxStep memKeys π s v) (f : Fld) (hf : f.off < 256) (x : Nat) : RxStep memKeys π s (v.put pMEM f x) :=
    hv.put hf rfl x
  have herr (v : State) (hv : RxStep memKeys π s v) (c : Nat) : RxStep memKeys π s (v.recordErr pMEM c) :=
    hv.only (State.recordErr_only v pMEM c (.inr rfl))
  have htel (v : State) (hv : RxStep memKeys π s v) : RxStep memKeys π s (v.telCount 0) := ⟨hv.reg, hv.mirror, hv.rx⟩
  unfold State.countEcc; extract_lets same old rep s1 s2 s3 s4 b s5 s6 s7 s8
  have h1 : RxStep memKeys π s s1 := hmem t h MEM.CE_LAST_KIND (by decide) kind
  have h2 : RxStep memKeys π s s2 := hmem s1 h1 MEM.CE_LAST_SYNDROME (by decide) syn
  have h3 : RxStep memKeys π s s3 := hmem s2 h2 MEM.CE_LAST_REPEAT (by decide) rep
  have h4 : RxStep memKeys π s s4 := hmem s3 h3 MEM.CE_LAST_ADDR (by decide) a
  have h5 : RxStep memKeys π s s5 := hmem s4 h4 (MEM.BANK_ERR_POISONED b) hbank _
  have h6 : RxStep memKeys π s s6 := hmem s4 h4 (MEM.BANK_ERR_REBUILT b) hbank _
  have h7 : RxStep memKeys π s s7 := hmem s4 h4 (MEM.BANK_ERR_CORRECTED b) hbank _
  have h8 : RxStep memKeys π s s8 := by
    unfold s8; clear_value s5 s6 s7; split
    · exact h5.setFault ..
    · split
      · exact herr _ (h6.flag (p := pMEM) (f := MEM.FLAG_REBUILT) (by decide) rfl) _
      · exact herr _ ((htel _ h7).flag (p := pMEM) (f := MEM.FLAG_CORRECTED) (by decide) rfl) _
  clear_value s8
  split
  · exact (h8.flag (p := pMEM) (f := MEM.FLAG_HARD) (by decide) rfl).setFault ..
  · exact h8

end Sys2Proof.Machine
end

section
/-! SUPPORT. A word written reaches its line only (R321), and the samples that a capture writes stay within its region (R147). -/

namespace Sys2Proof.Machine
open Sys2Proof

variable {s t : State} {l : Nat}

theorem storedAt_setStored_ne {a b : Nat} (h : b ≠ a) (m : List Host.Cell) (w : Stored) : storedAt (setStored m a w) b = storedAt m b := by
  have hcell {i j : Nat} (hi : i < 8) (hj : j < 8) (m : List Host.Cell) (v : Nat) :
      cellAt (setCell m (8 * a + i) v) (8 * b + j) = cellAt m (8 * b + j) :=
    congrArg BitVec.toNat (AMap.get_set_ne memDefault m (by omega) _)
  have hset {j : Nat} (hj : j < 8) : cellAt (setStored m a w) (8 * b + j) = cellAt m (8 * b + j) := by
    have h0 (m : List Host.Cell) (v : Nat) : cellAt (setCell m (8 * a) v) (8 * b + j) = cellAt m (8 * b + j) := hcell (i := 0) (by decide) hj m v
    unfold setStored
    rw [hcell (by decide) hj, hcell (by decide) hj, hcell (by decide) hj, hcell (by decide) hj, hcell (by decide) hj, hcell (by decide) hj, h0]
  unfold storedAt
  rw [hset (by decide), hset (by decide), hset (by decide), hset (by decide), hset (by decide), hset (by decide)]
  simp only [show cellAt (setStored m a w) (8 * b) = cellAt m (8 * b) from hset (j := 0) (by decide)]

@[simp] theorem memory_setFault (s : State) (page bit code : Nat) (i : FaultInfo) : (s.setFault page bit code i).memory = s.memory := by
  have hdetected (t : State) (c : Nat) : (t.tstDetected c).memory = t.memory := by unfold State.tstDetected; simp
  have hreport (t : State) (c : Nat) (j : FaultInfo) (b : Bool) : (t.reportFault page c j b).memory = t.memory := rfl
  unfold State.setFault; simp [hdetected, hreport]

@[simp] theorem memory_countEcc (s : State) (a kind syn : Nat) (scrub : Bool) : (s.countEcc a kind syn scrub).memory = s.memory := by
  have hfound (t : State) (f : Fld) : (t.scbFound scrub f).memory = t.memory := by unfold State.scbFound; simp
  have htel (t : State) : (t.telCount 0).memory = t.memory := rfl
  unfold State.countEcc; simp [hfound, htel]

/-- Between two states, beyond an error report, only words of line `l` and its parity word were written. -/
structure LineWritten (l : Nat) (s t : State) : Prop where
  step : RxStep memKeys id s t
  word : ∀ b, b / 8 ≠ l → t.word b = s.word b
  parity : ∀ m, m ≠ l → t.parityWord m = s.parityWord m

theorem LineWritten.refl (l : Nat) (s : State) : LineWritten l s s := ⟨.refl .., fun _ _ => rfl, fun _ _ => rfl⟩

theorem LineWritten.putWord (h : LineWritten l s t) {a : Nat} (ha : a / 8 = l) (w : Stored) : LineWritten l s (t.putWord a w) :=
  ⟨⟨h.step.reg, h.step.mirror, h.step.rx⟩,
   fun b hb => (storedAt_setStored_ne (fun e => hb (by rw [e, ha])) _ w).trans (h.word b hb), h.parity⟩

theorem LineWritten.putParity (h : LineWritten l s t) (w : Stored) : LineWritten l s (t.putParity l w) :=
  ⟨⟨h.step.reg, h.step.mirror, h.step.rx⟩, h.word, fun m hm => (storedAt_setStored_ne hm _ w).trans (h.parity m hm)⟩

theorem LineWritten.recomputeParity (h : LineWritten l s t) : LineWritten l s (t.recomputeParity l) := h.putParity _

theorem LineWritten.countEcc (h : LineWritten l s t) {a : Nat} (ha : a < 2 ^ 22) (kind syn : Nat) :
    LineWritten l s (t.countEcc a kind syn false) :=
  ⟨h.step.countEcc ha kind syn, fun b hb => (word_of_memory (memory_countEcc ..) b).trans (h.word b hb),
   fun m hm => (parityWord_of_memory (memory_countEcc ..) m).trans (h.parity m hm)⟩

theorem LineWritten.poisonWord (h : LineWritten l s t) {a : Nat} (hl : a / 8 = l) (ha : a < 2 ^ 22) : LineWritten l s (t.poisonWord a false) :=
  (h.putWord hl _).countEcc ha 4 _

theorem div_of_mem_lineWords {a l : Nat} (h : a ∈ lineWords l) : a / 8 = l := by
  obtain ⟨i, hi, rfl⟩ := List.mem_map.mp h
  have := List.mem_range.mp hi
  omega

/-- A word of a capture's region written (R321): its line and an error report. -/
theorem State.memWrite_line (s : State) {a : Nat} (ha : a < 2 ^ 22) (v : Nat) (poison : Bool) : LineWritten (a / 8) s (s.memWrite a v poison) := by
  have hline : 8 * (a / 8) < 2 ^ 22 := by omega
  unfold State.memWrite; extract_lets line old p t t1 bad
  have ht : LineWritten line s t := (LineWritten.refl line s).putWord rfl _
  have ht1 : LineWritten line s t1 := by
    unfold t1; clear_value t; split
    · exact ht
    · exact ht.countEcc hline ..
  clear_value t t1
  split
  · exact ht1.putParity _
  · split
    · exact ht.recomputeParity.countEcc hline ..
    · split
      · exact ht.recomputeParity
      · split
        · exact ht.recomputeParity.countEcc hline ..
        · refine LineWritten.recomputeParity (State.forEach_inv (LineWritten line s) _ _ (fun u x hx hu => ?_) t ht)
          have hx8 : x / 8 = line := div_of_mem_lineWords (List.mem_of_mem_filter hx)
          exact hu.poisonWord hx8 (by omega)

/-! ## Samples of a capture (R147) -/

/-- What a capture, a gain and a tap leave of a chain's record. -/
def Rxc.frame (r : Rxc) : Rxc := { r with written := 0, trigWas := (0, 0), capAt := 0, blankTo := 0, tap := none, last := none, tapAt := 0 }

/-- The registers that a capture reaches while it writes. -/
def captureKeys (n : Nat) : Nat → Nat → Bool := fun q o => memKeys q o || chainKeys n [0x1D] q o

theorem captureKeys_chain {n q o : Nat} (h1 : 0x20 ≤ q) (h2 : q < 0x40) (ho : o ≠ 0x1D) : captureKeys n q o = false := by
  have hmem : q ≠ pMEM ∧ q ≠ pTST := by unfold pMEM pTST; omega
  simp [captureKeys, memKeys, chainKeys, hmem, ho]

/-- A chain has written samples in its region since `s`: its configuration, its state and every word of other lines are as they were. -/
structure Sampled (n : Nat) (s t : State) : Prop where
  step : RxStep (captureKeys n) Rxc.frame s t
  state : t.capState n = s.capState n
  word : ∀ b, s.offCapture n b = true → t.word b = s.word b ∧ t.parityWord (b / 8) = s.parityWord (b / 8)

theorem Sampled.refl (n : Nat) (s : State) : Sampled n s s := ⟨.refl .., rfl, fun _ _ => ⟨rfl, rfl⟩⟩

/-- One sample written, as `State.capWrite` does it. -/
def State.capSample (s : State) (n v : Nat) : State :=
  let s := s.memWrite (s.capNext n) (v % 2 ^ 40)
  let s := s.withRx n fun r => { r with written := r.written + 1 }
  let s := s.put (pRXC n) RXC.CAP_STAT_NEXT (s.capNext n)
  s.putB (pRXC n) RXC.CAP_STAT_WRAPPED (s.rxBit n RXC.CAP_CFG_RING && decide (s.rxGet n RXC.CAP_CFG_LEN ≤ (s.rx n).written))

theorem RxStep.captureSetting {n : Nat} (h : RxStep (captureKeys n) Rxc.frame s t) (hn : n < 17) (hh : s.rxHears n = true) :
    t.rxGet n RXC.CAP_ADDR_START = s.rxGet n RXC.CAP_ADDR_START ∧ t.rxGet n RXC.CAP_CFG_LEN = s.rxGet n RXC.CAP_CFG_LEN ∧
      t.rxGet n RXC.CAP_CFG_RING = s.rxGet n RXC.CAP_CFG_RING := by
  have hget {f : Fld} (hf : f.off < 256 ∧ f.off ≠ 9 ∧ f.off ≠ 0x1D) : t.rxGet n f = s.rxGet n f :=
    (h.comp Rxc.takeover).rxGet hn hh hf.1 hf.2.1 fun q h1 h2 => ⟨captureKeys_chain h1 h2 hf.2.2, captureKeys_chain h1 h2 (by decide)⟩
  exact ⟨hget (by decide), hget (by decide), hget (by decide)⟩

/-- The next word lies in the region (R147). -/
theorem State.capNext_mem {n : Nat} (hlen : s.rxGet n RXC.CAP_CFG_LEN ≠ 0)
    (hk : s.rxBit n RXC.CAP_CFG_RING = true ∨ (s.rx n).written < s.rxGet n RXC.CAP_CFG_LEN) :
    s.rxGet n RXC.CAP_ADDR_START ≤ s.capNext n ∧ s.capNext n ≤ s.rxGet n RXC.CAP_ADDR_START + s.rxGet n RXC.CAP_CFG_LEN - 1 := by
  have hmod := Nat.mod_lt (s.rx n).written (Nat.pos_of_ne_zero hlen)
  unfold State.capNext; dsimp only; split
  · omega
  · rename_i hring
    have := hk.resolve_left hring
    omega

theorem State.capNext_lt {n : Nat} (hlen : s.rxGet n RXC.CAP_CFG_LEN ≠ 0)
    (hk : s.rxBit n RXC.CAP_CFG_RING = true ∨ (s.rx n).written < s.rxGet n RXC.CAP_CFG_LEN) : s.capNext n < 2 ^ 22 := by
  have h1 : s.rxGet n RXC.CAP_ADDR_START < 2 ^ 21 := s.rxGet_lt n RXC.CAP_ADDR_START
  have h2 : s.rxGet n RXC.CAP_CFG_LEN < 2 ^ 21 := s.rxGet_lt n RXC.CAP_CFG_LEN
  have h3 := (State.capNext_mem hlen hk).2
  omega

theorem RxStep.frame_same {K : Nat → Nat → Bool} (h : RxStep K id s t) : RxStep K Rxc.frame s t := h.comp Rxc.frame

theorem State.capSample_state (s : State) {n : Nat} (hn : n < 17) (v : Nat) (ha : s.capNext n < 2 ^ 22) :
    (s.capSample n v).capState n = s.capState n := by
  have hput (t : State) (f : Fld) (hf : f.lo ≤ f.hi ∧ f.hi < 37) (x : Nat) : (t.put (pRXC n) f x).capState n = t.capState n :=
    State.get_put_bits t hf.1 (by omega) (.inr hf.2) x
  have hmem : (s.memWrite (s.capNext n) (v % 2 ^ 40)).capState n = s.capState n := by
    refine (s.memWrite_line ha _ _).step.get (by decide) (numKey_chain hn (by decide)) ?_
    have hp : pRXC n ≠ pMEM ∧ pRXC n ≠ pTST := by unfold pRXC pMEM pTST; omega
    simp [memKeys, hp]
  unfold State.capSample; extract_lets s1 s2 s3
  exact (hput s3 RXC.CAP_STAT_WRAPPED (by decide) _).trans ((hput s2 RXC.CAP_STAT_NEXT (by decide) _).trans hmem)

/-- What one sample within the region reaches. -/
theorem State.capSample_reach (s : State) {n : Nat} (v : Nat) (ha : s.capNext n < 2 ^ 22) :
    RxStep (captureKeys n) Rxc.frame s (s.capSample n v) ∧ (∀ b, b / 8 ≠ s.capNext n / 8 →
      (s.capSample n v).word b = s.word b ∧ (s.capSample n v).parityWord (b / 8) = s.parityWord (b / 8)) := by
  have hline := s.memWrite_line ha (v % 2 ^ 40) false
  have hkey : captureKeys n (pRXC n) 0x1D = true := by simp [captureKeys, chainKeys]
  unfold State.capSample; extract_lets s1 s2 s3
  have h1 : RxStep (captureKeys n) Rxc.frame s s1 :=
    hline.step.frame_same.mono fun q o hk => (Bool.or_eq_false_iff.mp hk).1
  have h2 : RxStep (captureKeys n) Rxc.frame s s2 := h1.withRx (by intro r; rfl) n
  have h3 : RxStep (captureKeys n) Rxc.frame s s3 := h2.put (p := pRXC n) (f := RXC.CAP_STAT_NEXT) (by decide) hkey _
  exact ⟨h3.putB (p := pRXC n) (f := RXC.CAP_STAT_WRAPPED) (by decide) hkey _, fun b hb => ⟨hline.word b hb, hline.parity _ hb⟩⟩

theorem Sampled.sample {n : Nat} (h : Sampled n s t) (hn : n < 17) (hh : s.rxHears n = true) (hw : s.capWriting n = true)
    (hlen : s.rxGet n RXC.CAP_CFG_LEN ≠ 0) (hk : t.rxBit n RXC.CAP_CFG_RING = true ∨ (t.rx n).written < t.rxGet n RXC.CAP_CFG_LEN)
    (v : Nat) : Sampled n s (t.capSample n v) := by
  obtain ⟨hstart, hsize, -⟩ := h.step.captureSetting hn hh
  have hlen' : t.rxGet n RXC.CAP_CFG_LEN ≠ 0 := by rwa [hsize]
  have ha := State.capNext_lt hlen' hk
  obtain ⟨hlo, hhi⟩ := State.capNext_mem hlen' hk
  rw [hstart] at hlo hhi
  rw [hsize] at hhi
  obtain ⟨hstep, hword⟩ := t.capSample_reach v ha
  refine ⟨h.step.trans hstep, (t.capSample_state hn v ha).trans h.state, fun b hb => ?_⟩
  have hoff : b / 8 ≠ t.capNext n / 8 := by
    have hb' := hb
    simp only [State.offCapture, hw, Bool.not_true, Bool.false_or, Bool.and_eq_true, decide_eq_true_eq] at hb'
    omega
  obtain ⟨hw1, hp1⟩ := hword b hoff
  obtain ⟨hw0, hp0⟩ := h.word b hb
  exact ⟨hw1.trans hw0, hp1.trans hp0⟩

/-- A single sample is written while the region has room for it. -/
theorem State.capWrite_single (s : State) (n v : Nat) : s.capWrite n [v] =
    if s.rxBit n RXC.CAP_CFG_RING = true ∨ (s.rx n).written < s.rxGet n RXC.CAP_CFG_LEN then s.capSample n v else s := by
  unfold State.capWrite
  by_cases hring : s.rxBit n RXC.CAP_CFG_RING = true
  · rw [if_pos hring, if_pos (.inl hring)]; rfl
  · rw [if_neg hring]
    by_cases hroom : (s.rx n).written < s.rxGet n RXC.CAP_CFG_LEN
    · rw [if_pos (.inr hroom), List.take_of_length_le (by simp only [List.length_singleton]; omega)]; rfl
    · rw [if_neg (by tauto), Nat.sub_eq_zero_of_le (by omega)]; rfl

/-- The samples that no command has brought stay within the region too. -/
theorem State.capUnseen_sampled (s : State) {n : Nat} (hn : n < 17) (hh : s.rxHears n = true) : Sampled n s (s.capUnseen n) := by
  unfold State.capUnseen; split
  · rename_i hw
    extract_lets len due k s1
    have h1 : Sampled n s s1 := ⟨(RxStep.refl ..).withRx (by intro r; rfl) n, rfl, fun _ _ => ⟨rfl, rfl⟩⟩
    refine State.forEach_inv (Sampled n s) _ _ (fun t i hi ht => ?_) s1 h1
    have hpos : 0 < k := Nat.zero_lt_of_lt (List.mem_range.mp hi)
    have hlen : s.rxGet n RXC.CAP_CFG_LEN ≠ 0 := by
      intro h0
      have : k ≤ 0 := (Nat.min_le_right ..).trans (by split <;> simp [len, h0])
      omega
    have hsample : Sampled n s (t.capWrite n [(Config.unseenSample t.free).toNat]) := by
      rw [State.capWrite_single]; split
      · exact ht.sample hn hh hw hlen ‹_› _
      · exact ht
    exact ⟨⟨hsample.step.reg, hsample.step.mirror, hsample.step.rx⟩, hsample.state, hsample.word⟩
  · exact .refl n s

/-! ## A trigger (R147) -/

/-- A trigger that arrives writes CAP_STAT and CAP_TRIG. -/
theorem State.capTrig_reach (s : State) (n k : Nat) :
    RxStep (chainKeys n [0x1D, 0x1E]) Rxc.frame s (s.capTrig n k) ∧ (s.capTrig n k).memory = s.memory := by
  unfold State.capTrig; split
  · extract_lets s1
    have h1 : RxStep (chainKeys n [0x1D, 0x1E]) Rxc.frame s s1 := (RxStep.refl ..).withRx (by intro r; rfl) n
    refine ⟨(h1.put (p := pRXC n) (f := RXC.CAP_TRIG_ADDR) (by decide) (chainKeys_page rfl) _).put (p := pRXC n) (f := RXC.CAP_STAT_STATE)
      (by decide) (chainKeys_page rfl) _, ?_⟩
    rw [memory_put, memory_put]; exact memory_withRx ..
  · exact ⟨.refl .., rfl⟩

/-- The registers that a trigger reaches: a ring's samples before it are written first. -/
def triggerKeys (n : Nat) : Nat → Nat → Bool := fun q o => memKeys q o || chainKeys n [0x1D, 0x1E] q o

/-- A trigger of the Board's own, on a chain that hears. -/
theorem State.trigger_reach (s : State) {n : Nat} (hn : n < 17) (hh : s.rxHears n = true) (k : Nat) :
    RxStep (triggerKeys n) Rxc.frame s (s.trigger n k) ∧ ∀ b, s.offCapture n b = true →
      (s.trigger n k).word b = s.word b ∧ (s.trigger n k).parityWord (b / 8) = s.parityWord (b / 8) := by
  unfold State.trigger; split
  · have hs := s.capUnseen_sampled hn hh
    obtain ⟨htrig, hmem⟩ := (s.capUnseen n).capTrig_reach n k
    have hkey (q o : Nat) (h : triggerKeys n q o = false) : captureKeys n q o = false := by
      simp [triggerKeys, captureKeys, chainKeys] at h ⊢; tauto
    refine ⟨(hs.step.mono hkey).trans (htrig.mono fun q o h => (Bool.or_eq_false_iff.mp h).2), fun b hb => ?_⟩
    rw [word_of_memory hmem, parityWord_of_memory hmem]
    exact hs.word b hb
  · exact ⟨.refl .., fun _ _ => ⟨rfl, rfl⟩⟩

/-- A trigger of a chain that writes no samples. -/
theorem State.trigger_quiet (s : State) {n : Nat} (hw : s.capWriting n = false) (k : Nat) :
    RxStep (chainKeys n [0x1D, 0x1E]) Rxc.frame s (s.trigger n k) ∧ (s.trigger n k).memory = s.memory := by
  have hnone : s.capUnseen n = s := by unfold State.capUnseen; rw [if_neg (by simp [hw])]
  unfold State.trigger; split
  · rw [hnone]; exact s.capTrig_reach n k
  · exact ⟨.refl .., rfl⟩

end Sys2Proof.Machine
end

section
/-! SUPPORT. What gains, levels, taps and the end of a frame leave of a chain's registers and record (R130, R135, R138, R153). -/

namespace Sys2Proof.Machine
open Sys2Proof

variable {s t : State}

/-- Fields of different registers, or of different bits of one. -/
def Fld.apart (g f : Fld) : Bool :=
  decide (g.off < 256 ∧ f.off < 256 ∧ f.lo ≤ f.hi ∧ f.hi < 40 ∧ (g.off ≠ f.off ∨ g.hi < f.lo ∨ f.hi < g.lo))

theorem State.get_put_apart (s : State) {f g : Fld} (h : g.apart f = true) (p q x : Nat) : (s.put p f x).get q g = s.get q g := by
  obtain ⟨hg, hf, hlo, h40, hd⟩ := of_decide_eq_true h
  rcases hd with hd | hd
  · exact State.get_put_reg s (by omega) x
  · exact State.get_put_bits s hlo h40 hd x

theorem State.get_flag_apart (s : State) {f g : Fld} (h : g.apart ⟨f.off, f.lo, f.lo⟩ = true) (p q : Nat) :
    (s.flag p f).get q g = s.get q g := s.get_put_apart (f := ⟨f.off, f.lo + 0, f.lo + 0⟩) h p q 1

theorem State.bit_of_get {p : Nat} {f : Fld} (h : t.get p f = s.get p f) : t.bit p f = s.bit p f := congrArg (· != 0) h

/-! ## Gains, levels and taps -/

/-- A field that no gain, level or tap of a chain reaches. -/
def Fld.steady (g : Fld) : Bool :=
  decide (g.off < 256 ∧ g.off ≠ 3 ∧ g.off ≠ 0x12 ∧ g.off ≠ 0x17 ∧ (g.off = 2 → g.hi < 12) ∧ (g.off = 4 → g.hi < 2 ∨ 2 < g.lo))

theorem Fld.apart_of_steady {f g : Fld} (hg : g.steady = true) (hf : f.lo ≤ f.hi ∧ f.hi < 40)
    (h : f.off = 3 ∨ f.off = 0x12 ∨ f.off = 0x17 ∨ (f.off = 2 ∧ 12 ≤ f.lo) ∨ (f.off = 4 ∧ f.lo = 2 ∧ f.hi = 2)) : g.apart f = true := by
  obtain ⟨h256, h3, h12, h17, h2, h4⟩ := of_decide_eq_true hg
  exact decide_eq_true (by omega)

theorem State.get_put_steady (s : State) {f g : Fld} (hg : g.steady = true) (p q x : Nat) (hf : f.lo ≤ f.hi ∧ f.hi < 40 := by decide)
    (h : f.off = 3 ∨ f.off = 0x12 ∨ f.off = 0x17 ∨ (f.off = 2 ∧ 12 ≤ f.lo) ∨ (f.off = 4 ∧ f.lo = 2 ∧ f.hi = 2) := by decide) :
    (s.put p f x).get q g = s.get q g := s.get_put_apart (Fld.apart_of_steady hg hf h) p q x

/-- Between two states gains, levels and taps may have changed, and what captures leave of the chains' records has not. -/
structure Tuned (s t : State) : Prop where
  get : ∀ (q : Nat) (g : Fld), g.steady = true → t.get q g = s.get q g
  rx : ∀ m, (t.rx m).frame = (s.rx m).frame

theorem Tuned.refl (s : State) : Tuned s s := ⟨fun _ _ _ => rfl, fun _ => rfl⟩

theorem Tuned.put (h : Tuned s t) (p : Nat) {f : Fld} (x : Nat) (hf : f.lo ≤ f.hi ∧ f.hi < 40 := by decide)
    (ho : f.off = 3 ∨ f.off = 0x12 ∨ f.off = 0x17 ∨ (f.off = 2 ∧ 12 ≤ f.lo) ∨ (f.off = 4 ∧ f.lo = 2 ∧ f.hi = 2) := by decide) :
    Tuned s (t.put p f x) :=
  ⟨fun q _ hg => (t.get_put_steady hg p q x hf ho).trans (h.get q _ hg), h.rx⟩

theorem Tuned.withRx (h : Tuned s t) (n : Nat) {g : Rxc → Rxc} (hg : ∀ r, (g r).frame = r.frame) : Tuned s (t.withRx n g) :=
  ⟨h.get, fun m => (State.rx_withRx_of hg t n m).trans (h.rx m)⟩

theorem Tuned.rxPutGain (h : Tuned s t) (n x : Nat) : Tuned s (t.rxPutHw n RXC.GAIN_LEGACY x) := by
  have hput : Tuned s (t.putHw (t.rxPage n) RXC.GAIN_LEGACY x) := by
    unfold State.putHw; split
    · exact h
    · exact h.put _ x
  exact ⟨hput.get, hput.rx⟩

theorem Tuned.showNoise (h : Tuned s t) (n : Nat) : Tuned s (t.showNoise n) := by
  unfold State.showNoise; split
  · exact h
  · exact h.put _ _

theorem Tuned.setGain (h : Tuned s t) (n g : Nat) : Tuned s (t.setGain n g) := by
  unfold State.setGain; split
  · exact h
  · exact ((h.put (pRXC n) (f := RXC.STATUS_GAIN) g).withRx n (by intro r; rfl)).showNoise n

theorem Tuned.showLevel (h : Tuned s t) (n e k : Nat) (clipped : Bool) : Tuned s (t.showLevel n e k clipped) :=
  (h.put (pRXC n) (f := RXC.LEVEL_FRAME) _).put (pRXC n) (f := RXC.LEVEL_GAIN) _

theorem Tuned.stepGain (h : Tuned s t) (n e : Nat) : Tuned s (t.stepGain n e) := by
  unfold State.stepGain; extract_lets u g fs g' s1
  split
  · exact h
  · have h1 : Tuned s s1 := h.rxPutGain n g'
    have hg : Tuned s (s1.setGain n (Nat.min 66 (s1.rxGet n RXC.GAIN_LEGACY))) := h1.setGain n _
    have hflag := hg.put (pRXC n) (f := ⟨4, 2, 2⟩) 1
    exact ⟨hflag.get, hflag.rx⟩

theorem Tuned.selectTap (h : Tuned s t) (n p : Nat) : Tuned s (t.selectTap n p) := by
  unfold State.selectTap; split
  · exact (h.withRx n (by intro r; rfl)).put _ p
  · extract_lets s1 s2 s3
    have h1 : Tuned s s1 := h.withRx n (by intro r; rfl)
    have h2 : Tuned s s2 := h1.put (pRXC n) (f := RXC.STATUS_TAP) p
    have h3 : Tuned s s3 := h2.put (pRXC n) (f := RXC.READY_LEAK) _
    split
    · exact h3.rxPutGain n _
    · exact h3

theorem Tuned.retap (h : Tuned s t) (n : Nat) : Tuned s (t.retap n) := by
  unfold State.retap; split
  · exact h
  · split
    · split
      · exact h.selectTap n _
      · exact h.withRx n (by intro r; rfl)
    · exact h.withRx n (by intro r; rfl)

@[simp] theorem memory_showNoise (s : State) (n : Nat) : (s.showNoise n).memory = s.memory := by
  unfold State.showNoise; split
  · rfl
  · exact memory_put ..

@[simp] theorem memory_setGain (s : State) (n g : Nat) : (s.setGain n g).memory = s.memory := by unfold State.setGain; simp

@[simp] theorem memory_showLevel (s : State) (n e k : Nat) (clipped : Bool) : (s.showLevel n e k clipped).memory = s.memory := memory_put ..

@[simp] theorem memory_stepGain (s : State) (n e : Nat) : (s.stepGain n e).memory = s.memory := by unfold State.stepGain; simp

@[simp] theorem memory_frameEnds (s : State) (n : Nat) : (s.frameEnds n).memory = s.memory :=
  (memory_present ..).trans (memory_flag ..)

/-! ## The end of a frame (R153) -/

/-- The code of the latest error stands on the pages below the event channels' while an event is presented. -/
theorem State.present_code (s : State) (k hop : Nat) {p : Nat} (hp : p < 0x70) :
    (s.present k hop).get p COM.LAST_ERR_CODE = s.get p COM.LAST_ERR_CODE := by
  have hevt (ch : Nat) : p ≠ pEVT (ch / 8) := by unfold pEVT; omega
  have hput (t : State) (ch : Nat) (f : Fld) (x : Nat) :
      (t.put (pEVT (ch / 8)) f x).get p COM.LAST_ERR_CODE = t.get p COM.LAST_ERR_CODE :=
    State.get_put_reg t (by have : COM.LAST_ERR_CODE.off = 9 := rfl; unfold pEVT; omega) x
  have herr (t : State) (ch c : Nat) : (t.recordErr (pEVT (ch / 8)) c).get p COM.LAST_ERR_CODE = t.get p COM.LAST_ERR_CODE := by
    unfold State.recordErr State.inc; dsimp only; split
    · rw [hput, State.get_numberAs_high _ _ _ _ (by decide), hput, hput]
    · rw [hput, State.nextFree_get, hput, hput]
  have hflag (t : State) (ch : Nat) (f : Fld) (i : Nat) :
      (t.flag (pEVT (ch / 8)) f i).get p COM.LAST_ERR_CODE = t.get p COM.LAST_ERR_CODE := hput t ch ⟨f.off, f.lo + i, f.lo + i⟩ 1
  have hhold (t : State) (d : Delivery) : (t.holdDelivery d).get p COM.LAST_ERR_CODE = t.get p COM.LAST_ERR_CODE := by
    unfold State.holdDelivery State.inc; dsimp only; split
    · exact hput t d.ch _ _
    · split
      · rw [herr, hflag, hput]
      · exact hput _ d.ch _ _
  have haccept (t : State) (ch : Nat) : (t.acceptAt k hop ch).get p COM.LAST_ERR_CODE = t.get p COM.LAST_ERR_CODE := by
    have hwhen (u : State) (b : Bool) (d : Nat) : (u.when b fun v => v.sched d (.channelDelivery ch)).get p COM.LAST_ERR_CODE =
        u.get p COM.LAST_ERR_CODE := by cases b <;> rfl
    unfold State.acceptAt State.inc; dsimp only; split
    · split
      · rw [herr, hflag, hput]
      · rw [hwhen, hhold]
    · rfl
  have hnumber : (s.numberAs (2000 + k) 0).2.get p COM.LAST_ERR_CODE = s.get p COM.LAST_ERR_CODE :=
    State.get_numberAs_high _ _ _ _ (by decide)
  unfold State.present; split
  · dsimp only; split
    · refine State.forEach_inv (fun t => t.get p COM.LAST_ERR_CODE = s.get p COM.LAST_ERR_CODE) _ _ (fun t i _ ht => ?_) _ hnumber
      split
      · exact State.forEach_inv (fun u => u.get p COM.LAST_ERR_CODE = s.get p COM.LAST_ERR_CODE) _ _
          (fun u j _ hu => (haccept ..).trans hu) t ht
      · exact ht
    · exact hnumber
  · rfl

/-- An event leaves a chain's registers, LAST_ERR's number aside. -/
theorem State.present_get (s : State) (k hop : Nat) {n : Nat} (hn : n < 17) {f : Fld} (hf : f.off < 256) (h9 : f.off ≠ 9) :
    (s.present k hop).get (pRXC n) f = s.get (pRXC n) f :=
  (State.present_only (K := noKeys) s k hop).get hf (numKey_chain hn h9) rfl

theorem State.frameEnds_get (s : State) {n : Nat} (hn : n < 17) {f : Fld} (h : f.apart RXC.FLAG_FRAME_END = true) (h9 : f.off ≠ 9) :
    (s.frameEnds n).get (pRXC n) f = s.get (pRXC n) f :=
  (State.present_get _ _ _ hn (of_decide_eq_true h).1 h9).trans (s.get_flag_apart h _ _)

theorem State.frameEnds_flag (s : State) {n : Nat} (hn : n < 17) : (s.frameEnds n).bit (pRXC n) RXC.FLAG_FRAME_END = true :=
  (State.bit_of_get (State.present_get _ _ _ hn (by decide) (by decide))).trans (State.bit_flag_same _ _ _ rfl (by decide))

theorem State.frameEnds_rxc (s : State) (n : Nat) : (s.frameEnds n).rxc = s.rxc :=
  (congrArg State.rxc (State.present_only (K := noKeys) (s.flag (pRXC n) RXC.FLAG_FRAME_END) (56 + n) (s.rxHop n)).rest :)

theorem State.frameEnds_rx (s : State) (n m : Nat) : (s.frameEnds n).rx m = s.rx m := by unfold State.rx; rw [State.frameEnds_rxc]

theorem State.frameEnds_code (s : State) {n : Nat} (hn : n < 17) :
    (s.frameEnds n).get (pRXC n) COM.LAST_ERR_CODE = s.get (pRXC n) COM.LAST_ERR_CODE :=
  (State.present_code _ _ _ (by unfold pRXC; omega)).trans (s.get_flag_apart (f := RXC.FLAG_FRAME_END) (by decide) _ _)

end Sys2Proof.Machine
end

section
/-! SUPPORT. A chain's own registers: an error recorded, a trigger of the chain's own, and what stays on the other pages (R35, R147). -/

namespace Sys2Proof.Machine
open Sys2Proof

variable {β : Type} {π : Rxc → β} {s t : State} {n : Nat} {l : List Nat}

theorem chainKeys_off (hn : n < 17) (l : List Nat) {q : Nat} (hq : q ∉ rxPages) (o : Nat) : chainKeys n l q o = false := by
  have hpage : pRXC n ∈ rxPages := List.mem_range'_1.mpr (by unfold pRXC; omega)
  have hne : q ≠ pRXC n := fun e => hq (e ▸ hpage)
  simp [chainKeys, hne]

/-- Where registers of one chain's page have changed only, and memory has not. -/
theorem RxStep.elsewhere (h : RxStep (chainKeys n l) π s t) (hn : n < 17) (hm : t.memory = s.memory) : SameElsewhere rxPages s t :=
  ⟨sameMemory_of_memory hm, fun q o ho hq h9 harb hevt =>
    h.reg q o ho (by simp [numKey, h9, harb, hevt]) (chainKeys_off hn l hq o)⟩

theorem SameElsewhere.trans {pages : List Nat} {u : State} (h : SameElsewhere pages s t) (g : SameElsewhere pages t u) : SameElsewhere pages s u :=
  ⟨⟨g.1.1.trans h.1.1, g.1.2.trans h.1.2⟩, fun q o ho hq h9 ha he => (g.2 q o ho hq h9 ha he).trans (h.2 q o ho hq h9 ha he)⟩

theorem RxStep.recordErr (h : RxStep (chainKeys n l) π s t) (hl : l.contains 8 = true) (c : Nat) :
    RxStep (chainKeys n l) π s (t.recordErr (pRXC n) c) := h.only (State.recordErr_only t _ c (.inr (chainKeys_page hl)))

theorem RxStep.chainGet (h : RxStep (chainKeys n l) π s t) (hn : n < 17) {f : Fld} (hf : f.off < 256) (h9 : f.off ≠ 9)
    (hl : l.contains f.off = false) : t.get (pRXC n) f = s.get (pRXC n) f := h.get hf (numKey_chain hn h9) (chainKeys_other hl _)

/-- An error recorded leaves the other registers of the page. -/
theorem State.recordErr_get (s : State) (hn : n < 17) (c : Nat) {f : Fld} (hf : f.off < 256) (h8 : f.off ≠ 8) (h9 : f.off ≠ 9) :
    (s.recordErr (pRXC n) c).get (pRXC n) f = s.get (pRXC n) f :=
  ((RxStep.refl (chainKeys n [8]) id s).recordErr rfl c).chainGet hn hf h9 (by simp [h8])

/-! ## What a trigger depends on (R147) -/

/-- The registers on which a capture's state and region depend. -/
def captureOffs : List Nat := [RXC.CFG_SERVE.off, RXC.CAP_ADDR.off, RXC.CAP_CFG.off, RXC.CAP_STAT.off]

theorem RxStep.chainRxGet (h : RxStep (chainKeys n l) Rxc.takeover s t) (hn : n < 17) (hh : s.rxHears n = true) {f : Fld}
    (hf : f.off < 256) (h9 : f.off ≠ 9) (hl : l.contains f.off = false) (hs : l.contains RXC.CFG_SERVE.off = false) :
    t.rxGet n f = s.rxGet n f := h.rxGet hn hh hf h9 fun q _ _ => ⟨chainKeys_other hl q, chainKeys_other hs q⟩

theorem RxStep.capWriting (h : RxStep (chainKeys n l) Rxc.takeover s t) (hn : n < 17) (hh : s.rxHears n = true)
    (hl : ∀ o ∈ captureOffs, l.contains o = false) : t.capWriting n = s.capWriting n := by
  have hstate : t.capState n = s.capState n := h.chainGet hn (f := RXC.CAP_STAT_STATE) (by decide) (by decide) (hl _ (by decide))
  have hring : t.rxBit n RXC.CAP_CFG_RING = s.rxBit n RXC.CAP_CFG_RING :=
    congrArg (· != 0) (h.chainRxGet hn hh (f := RXC.CAP_CFG_RING) (by decide) (by decide) (hl _ (by decide)) (hl _ (by decide)))
  unfold State.capWriting; rw [hstate, hring]

theorem RxStep.offCapture (h : RxStep (chainKeys n l) Rxc.takeover s t) (hn : n < 17) (hh : s.rxHears n = true)
    (hl : ∀ o ∈ captureOffs, l.contains o = false) (b : Nat) : t.offCapture n b = s.offCapture n b := by
  have hget {f : Fld} (hf : f.off < 256) (h9 : f.off ≠ 9) (ho : f.off ∈ captureOffs) :
      t.rxGet n f = s.rxGet n f := h.chainRxGet hn hh hf h9 (hl _ ho) (hl _ (by decide))
  unfold State.offCapture
  rw [h.capWriting hn hh hl, hget (f := RXC.CAP_ADDR_START) (by decide) (by decide) (by decide),
    hget (f := RXC.CAP_CFG_LEN) (by decide) (by decide) (by decide)]

theorem State.capWriting_of_noCapture (hn : n < 17) (h : s.noCapture = true) : s.capWriting n = false := by
  simpa using List.all_eq_true.mp h n (List.mem_range.mpr hn)

/-- What a chain's own trigger leaves after a step that has left memory, the other pages and the capture's region: CAP_STAT and CAP_TRIG aside
its registers and its record, every word of a line outside the region, and where no chain captures everything else. -/
structure Triggered (n : Nat) (s t u : State) : Prop where
  get : ∀ f : Fld, f.off < 256 → [9, 0x1D, 0x1E].contains f.off = false → u.get (pRXC n) f = t.get (pRXC n) f
  rx : (u.rx n).frame = (t.rx n).frame
  word : ∀ b, s.offCapture n b = true → u.word b = s.word b ∧ u.parityWord (b / 8) = s.parityWord (b / 8)
  elsewhere : s.noCapture = true → SameElsewhere rxPages s u

theorem RxStep.trigger (h : RxStep (chainKeys n l) Rxc.takeover s t) (hm : t.memory = s.memory) (hn : n < 17) (hh : s.rxHears n = true)
    (hl : ∀ o ∈ captureOffs, l.contains o = false) (k : Nat) : Triggered n s t (t.trigger n k) := by
  have hears : t.rxHears n = true := by unfold State.rxHears; rw [h.rx n]; exact hh
  obtain ⟨hstep, hword⟩ := t.trigger_reach hn hears k
  refine ⟨fun f hf ho => hstep.get hf (numKey_chain hn (by rintro e; simp [e] at ho)) ?_, hstep.rx n, fun b hb => ?_, fun hno => ?_⟩
  · have hp : pRXC n ≠ pMEM ∧ pRXC n ≠ pTST := by unfold pRXC pMEM pTST; omega
    simp at ho
    simp [triggerKeys, memKeys, chainKeys, hp, ho]
  · obtain ⟨hw, hp⟩ := hword b ((h.offCapture hn hh hl b).trans hb)
    exact ⟨hw.trans (word_of_memory hm b), hp.trans (parityWord_of_memory hm _)⟩
  · have hquiet : t.capWriting n = false := (h.capWriting hn hh hl).trans (State.capWriting_of_noCapture hn hno)
    obtain ⟨hstep, hmem⟩ := t.trigger_quiet hquiet k
    exact (h.elsewhere hn hm).trans (hstep.elsewhere hn hmem)

end Sys2Proof.Machine
end

section
/-! SUPPORT. Leak canceller, check tone, AGC, preamble, timing and the capture watch (R132, R134, R136–R141). -/

namespace Sys2Proof.Machine
open Sys2Proof

variable {s : State} {n : Nat}

/-! ## Leak canceller and check tone (R132, R134) -/

theorem exec_leakConverged (n i q residual : Nat) (s : State) :
    exec (.leakConverged n i q residual) s = .next (s.finish (effLeakConverged n i q residual s)) := rfl

theorem leakConverged_does (i q residual : Nat) (hrun : s.coreRuns = true) (hn : n < 17) (hen : s.enabled (pRXC n) = true)
    (hnear : s.nearField n = true) (hmod : s.nearModulates n = false) (hst : s.rxState n ≠ 3) (htap : (s.rx n).tapAt ≤ s.now) :
    Does (.leakConverged n i q residual) s fun u => u.bit (pRXC n) RXC.READY_LEAK = true ∧ u.get (pRXC n) RXC.LEAK_LEAK_I = i % 2 ^ 20 ∧
      u.get (pRXC n) RXC.LEAK_LEAK_Q = q % 2 ^ 20 ∧ SameMemory s u := by
  refine does_of (exec_leakConverged n i q residual s) ?_
  unfold effLeakConverged
  rw [if_pos (by simp [hrun, hn, hen, hnear, hmod, hst, htap])]
  extract_lets s1 s2
  have hready : s2.bit (pRXC n) RXC.READY_LEAK = true := State.bit_putB_same s1 _ _ rfl (by decide) true
  have hi : s2.get (pRXC n) RXC.LEAK_LEAK_I = i % 2 ^ 20 :=
    (State.get_put_apart s1 (f := RXC.READY_LEAK) (by decide) _ _ _).trans
      ((State.get_put_apart _ (f := RXC.LEAK_LEAK_Q) (by decide) _ _ _).trans (State.get_put_same s _ _ (by decide) (by decide) i))
  have hq : s2.get (pRXC n) RXC.LEAK_LEAK_Q = q % 2 ^ 20 :=
    (State.get_put_apart s1 (f := RXC.READY_LEAK) (by decide) _ _ _).trans (State.get_put_same _ _ RXC.LEAK_LEAK_Q (by decide) (by decide) q)
  have hm : s2.memory = s.memory := by simp [s2, s1]
  clear_value s2
  split
  · have hstep : RxStep (chainKeys n [4, 8]) id s2 ((s2.flag (pRXC n) RXC.FLAG_LEAK_HIGH).recordErr (pRXC n) 9) :=
      ((RxStep.refl ..).flag (p := pRXC n) (f := RXC.FLAG_LEAK_HIGH) (by decide) (chainKeys_page rfl)).recordErr rfl 9
    exact ⟨(State.bit_of_get (hstep.chainGet hn (by decide) (by decide) (by decide))).trans hready,
      (hstep.chainGet hn (by decide) (by decide) (by decide)).trans hi, (hstep.chainGet hn (by decide) (by decide) (by decide)).trans hq,
      sameMemory_of_memory (by simp [hm])⟩
  · exact ⟨hready, hi, hq, sameMemory_of_memory hm⟩

theorem exec_checkToneBlock (n amp phase : Nat) (s : State) :
    exec (.checkToneBlock n amp phase) s = .next (s.finish (effCheckToneBlock n amp phase s)) := rfl

theorem checkToneBlock_does (amp phase : Nat) (hrun : s.coreRuns = true) (hn : n < 17) (hen : s.enabled (pRXC n) = true)
    (hdue : s.checkDue n = true) (hskip : s.checkSkips n = false) (hbad : (s.rx n).checkRun < 3) (hinj : (s.rx n).injBlocks = 0) :
    Does (.checkToneBlock n amp phase) s fun u => u.get (pRXC n) RXC.CHECK_AMP = amp % 2 ^ 8 ∧
      u.get (pRXC n) RXC.CHECK_PHASE = phase % 2 ^ 8 ∧ SameElsewhere rxPages s u := by
  refine does_of (exec_checkToneBlock n amp phase s) ?_
  unfold effCheckToneBlock
  rw [if_pos (by simp [hrun, hn, hen, hdue, hskip])]
  extract_lets inj ph s1 bad run s2
  have hamp : s1.get (pRXC n) RXC.CHECK_AMP = amp % 2 ^ 8 :=
    (State.get_put_apart _ (f := RXC.CHECK_PHASE) (by decide) _ _ _).trans (State.get_put_same s _ RXC.CHECK_AMP (by decide) (by decide) amp)
  have hph : s1.get (pRXC n) RXC.CHECK_PHASE = phase % 2 ^ 8 :=
    (State.get_put_same _ _ RXC.CHECK_PHASE (by decide) (by decide) ph).trans (by unfold ph inj; rw [if_pos hinj]; rfl)
  have h1 : RxStep (chainKeys n [0x1A]) (fun _ => ()) s s1 :=
    ((RxStep.refl ..).put (p := pRXC n) (f := RXC.CHECK_AMP) (by decide) (chainKeys_page rfl) amp).put (p := pRXC n) (f := RXC.CHECK_PHASE)
      (by decide) (chainKeys_page rfl) ph
  have hm : s1.memory = s.memory := by simp [s1]
  have hcount : s1.rx n = s.rx n := by simp only [s1, State.rx, State.put_rxc]
  have h2 : RxStep (chainKeys n [0x1A]) (fun _ => ()) s s2 := h1.withRx (fun _ => rfl) n
  have hrun4 : run ≠ 4 := by
    have : run ≤ (s1.rx n).checkRun + 1 := by unfold run; split <;> omega
    rw [hcount] at this
    omega
  rw [if_neg hrun4]
  clear_value s1
  exact ⟨(State.withRx_get s1 n _ _ _).trans hamp, (State.withRx_get s1 n _ _ _).trans hph, h2.elsewhere hn ((memory_withRx ..).trans hm)⟩

/-! ## Fast AGC (R136, R138) -/

theorem Tuned.noise {t : State} (h : Tuned s t) (n : Nat) : (t.rx n).noise = (s.rx n).noise := (congrArg Rxc.noise (h.rx n) :)

theorem exec_agcBlock (n : Nat) (samples : List Nat) (s : State) :
    exec (.agcBlock n samples) s = .next (s.finish (effAgcBlock n samples s)) := rfl

theorem agcBlock_does (samples : List Nat) (hrun : s.coreRuns = true) (hn : n < 17) (hlen : s.rxc.length = 17) (hst : s.rxState n = 1)
    (h8 : samples.length = 8) (hclean : samples.any blanked = false) (hnow : s.blankedNow n = false) :
    Does (.agcBlock n samples) s fun u => (u.rx n).noise = ((energy samples, s.rxGain n) :: (s.rx n).noise).take 32 ∧ u.rxState n = 1 ∧
      SameMemory s u := by
  refine does_of (exec_agcBlock n samples s) ?_
  unfold effAgcBlock
  rw [if_pos (by simp [hrun, hn, hst, h8, hclean, hnow])]
  extract_lets e g s1 gate s2 t d
  have hnoise : (s1.rx n).noise = ((e, g) :: (s.rx n).noise).take 32 := congrArg Rxc.noise (State.rx_withRx_same (by omega) _)
  have hgated : ((s1.withRx n fun r => { r with gated := gate }).rx n).noise = (s1.rx n).noise :=
    State.rx_withRx_of (π := Rxc.noise) (by intro r; rfl) s1 n n
  have h2 : Tuned (s1.withRx n fun r => { r with gated := gate }) s2 := (Tuned.refl _).showNoise n
  have h2n : (s2.rx n).noise = ((e, g) :: (s.rx n).noise).take 32 := (h2.noise n).trans (hgated.trans hnoise)
  have h2s : s2.rxState n = 1 := (h2.get _ RXC.STATUS_STATE (by decide)).trans hst
  have hm : s2.memory = s.memory := by simp [s2, s1]
  clear_value s2
  have hdone (u : State) (h : Tuned s2 u) (hu : u.memory = s2.memory) :
      (u.rx n).noise = ((e, g) :: (s.rx n).noise).take 32 ∧ u.rxState n = 1 ∧ SameMemory s u :=
    ⟨(h.noise n).trans h2n, (h.get _ RXC.STATUS_STATE (by decide)).trans h2s, sameMemory_of_memory (hu.trans hm)⟩
  split
  · split
    · exact hdone _ ((Tuned.refl s2).setGain n _) (by simp)
    · exact hdone _ (Tuned.refl s2) rfl
  · exact hdone _ (Tuned.refl s2) rfl

/-! ## The preamble and fine timing (R139, R140) -/

theorem exec_preambleDetect (n : Nat) (samples : List Nat) (s : State) :
    exec (.preambleDetect n samples) s = .next (s.finish (effPreambleDetect n samples s)) := rfl

theorem preambleDetect_does (samples : List Nat) (hrun : s.coreRuns = true) (hn : n < 17) (hblitz : (s.rx n).blitz = true)
    (hst : s.rxState n = 1) (hh : s.rxHears n = true) (hnow : s.blankedNow n = false) (hforce : s.rxBit n RXC.GAIN_FORCE = false)
    (hwin : (List.range (s.detHold n)).all (fun i => s.corrHit n (corrWin samples i) && s.corrGate n (corrWin samples i)) = true) {b : Nat}
    (hb : s.offCapture n b = true) :
    Does (.preambleDetect n samples) s fun u => u.rxState n = 2 ∧ u.bit (pRXC n) RXC.FLAG_DETECT = true ∧
      u.get (pRXC n) RXC.AGC_FROZEN = s.rxGain n % 2 ^ 7 ∧ u.word b = s.word b ∧ u.parityWord (b / 8) = s.parityWord (b / 8) ∧
      (s.noCapture = true → SameElsewhere rxPages s u) := by
  refine does_of (exec_preambleDetect n samples s) ?_
  unfold effPreambleDetect
  rw [if_pos (by simp only [hrun, hn, hblitz, hst, hh, hnow, hwin]; rfl)]
  extract_lets s1 s2 s3
  have hstate : s1.get (pRXC n) RXC.STATUS_STATE = 2 := State.get_put_same _ _ RXC.STATUS_STATE (by decide) (by decide) 2
  have hdetect : s1.bit (pRXC n) RXC.FLAG_DETECT = true :=
    (State.bit_of_get (State.get_put_apart _ (f := RXC.STATUS_STATE) (by decide) _ _ 2)).trans
      (State.bit_flag_same s _ RXC.FLAG_DETECT rfl (by decide))
  have hgain : s1.rxGain n = s.rxGain n :=
    (State.get_put_apart _ (f := RXC.STATUS_STATE) (by decide) _ _ 2).trans (s.get_flag_apart (f := RXC.FLAG_DETECT) (by decide) _ _)
  have h1 : RxStep (chainKeys n [2, 4, 0x13]) Rxc.takeover s s1 :=
    ((RxStep.refl ..).flag (p := pRXC n) (f := RXC.FLAG_DETECT) (by decide) (chainKeys_page rfl)).put (p := pRXC n) (f := RXC.STATUS_STATE)
      (by decide) (chainKeys_page rfl) 2
  have hm1 : s1.memory = s.memory := by simp [s1, State.setRxState]
  clear_value s1
  have h2 : RxStep (chainKeys n [2, 4, 0x13]) Rxc.takeover s s2 := h1.withRx (by intro r; rfl) n
  have hforce2 : s2.rxBit n RXC.GAIN_FORCE = false :=
    (congrArg (· != 0) (h2.chainRxGet hn hh (f := RXC.GAIN_FORCE) (by decide) (by decide) rfl rfl)).trans hforce
  have hs3 : s3 = s2.put (pRXC n) RXC.AGC_FROZEN (s2.rxGain n) := if_neg (by simp [hforce2])
  have hget2 (f : Fld) : s2.get (pRXC n) f = s1.get (pRXC n) f := State.withRx_get ..
  have hm2 : s2.memory = s.memory := (memory_withRx ..).trans hm1
  clear_value s2 s3
  subst hs3
  have h3 := (h2.put (p := pRXC n) (f := RXC.AGC_FROZEN) (by decide) (chainKeys_page rfl) (s2.rxGain n)).only
    (State.present_only _ (39 + n) ((s2.put (pRXC n) RXC.AGC_FROZEN (s2.rxGain n)).rxHop n))
  have hu := h3.trigger ((memory_present ..).trans hm2) hn hh (by decide) 2
  have hkept {f : Fld} (hf : f.off < 256) (ho : [9, 0x1D, 0x1E].contains f.off = false) :=
    (hu.get f hf ho).trans (State.present_get _ _ _ hn hf (by rintro e; simp [e] at ho))
  have hapart {f : Fld} (hf : f.apart RXC.AGC_FROZEN = true) := (s2.get_put_apart hf (pRXC n) (pRXC n) (s2.rxGain n)).trans (hget2 f)
  obtain ⟨hword, hparity⟩ := hu.word b hb
  exact ⟨(hkept (f := RXC.STATUS_STATE) (by decide) rfl).trans ((hapart (by decide)).trans hstate),
    (State.bit_of_get ((hkept (f := RXC.FLAG_DETECT) (by decide) rfl).trans (hapart (by decide)))).trans hdetect,
    (hkept (f := RXC.AGC_FROZEN) (by decide) rfl).trans ((State.get_put_same s2 _ RXC.AGC_FROZEN (by decide) (by decide) _).trans
      (by unfold State.rxGain; rw [hget2]; exact congrArg (· % 2 ^ 7) hgain)), hword, hparity, hu.elsewhere⟩

theorem exec_fineTimingDecision (n : Nat) (samples : List Nat) (s : State) :
    exec (.fineTimingDecision n samples) s = .next (s.finish (effFineTimingDecision n samples s)) := rfl

theorem fineTimingDecision_hit (samples : List Nat) (hrun : s.coreRuns = true) (hn : n < 17) (hlen : s.rxc.length = 17)
    (hst : s.rxState n = 2) (h128 : samples.length = 128)
    {x : Nat × Nat × Nat} (hpeak : matchPeak (s.eng ((s.engOf n).getD 0)).set samples = x) (hx : s.rxGet n RXC.DET_XC_THR * x.2.2 ≤ 256 * x.2.1) :
    Does (.fineTimingDecision n samples) s fun u => u.rxState n = 3 ∧
      (u.rx n).t0 = (s.rx n).detAt + 32 * x.1 - 256 ∧
      (u.rx n).startAngle = s.angleAgo (s.now - ((u.rx n).t0 - 2048)) ∧ (u.rx n).begun = true ∧ SameMemory s u := by
  refine does_of (exec_fineTimingDecision n samples s) ?_
  unfold effFineTimingDecision
  rw [if_pos (by simp only [hrun, hn, hst, h128]; rfl)]
  subst hpeak
  extract_lets w x t0 l s1 _ _
  rw [if_pos hx]
  have hrx : s1.rx n = { s.rx n with
      t0 := t0, startAt := t0 - 2048, startAngle := s.angleAgo (s.now - (t0 - 2048)), begun := true, power := energy l, powerN := l.length
      mark := if l.any clips then Nat.max 1 (s.rx n).mark else (s.rx n).mark } := State.rx_withRx_same (by omega) _
  have hm : s1.memory = s.memory := memory_withRx ..
  clear_value s1
  have hu : Tuned (s1.setRxState n 3) ((s1.setRxState n 3).showLevel n (energy l) l.length (l.any clips)) := (Tuned.refl _).showLevel ..
  have hframe : (((s1.setRxState n 3).showLevel n (energy l) l.length (l.any clips)).rx n).frame = (s1.rx n).frame := hu.rx n
  rw [hrx] at hframe
  have ht0 := congrArg Rxc.t0 hframe
  have hangle := congrArg Rxc.startAngle hframe
  refine ⟨(hu.get _ RXC.STATUS_STATE (by decide)).trans (State.get_put_same s1 _ RXC.STATUS_STATE (by decide) (by decide) 3), ht0, ?_,
    congrArg Rxc.begun hframe, sameMemory_of_memory ?_⟩
  · exact hangle.trans (congrArg (fun a => s.angleAgo (s.now - (a - 2048))) ht0.symm)
  · rw [memory_showLevel]; exact hm

theorem fineTimingDecision_miss (samples : List Nat) (hrun : s.coreRuns = true) (hn : n < 17) (hst : s.rxState n = 2)
    (h128 : samples.length = 128)
    {x : Nat × Nat × Nat} (hpeak : matchPeak (s.eng ((s.engOf n).getD 0)).set samples = x) (hx : 256 * x.2.1 < s.rxGet n RXC.DET_XC_THR * x.2.2) :
    Does (.fineTimingDecision n samples) s fun u => u.rxState n = 1 ∧
      u.get (pRXC n) RXC.COUNT_FALSE_DET = satInc 65535 (s.get (pRXC n) RXC.COUNT_FALSE_DET) ∧ u.bit (pRXC n) RXC.FLAG_FALSE_DET = true ∧
      u.get (pRXC n) COM.LAST_ERR_CODE = 8 ∧ SameMemory s u := by
  refine does_of (exec_fineTimingDecision n samples s) ?_
  unfold effFineTimingDecision
  rw [if_pos (by simp only [hrun, hn, hst, h128]; rfl)]
  subst hpeak
  extract_lets w x _ _ _ s1 s2
  rw [if_neg (Nat.not_le.mpr hx)]
  have hset {f : Fld} (hf : f.apart RXC.STATUS_STATE = true) :
      s2.get (pRXC n) f = ((s1.flag (pRXC n) RXC.FLAG_FALSE_DET).recordErr (pRXC n) 8).get (pRXC n) f := State.get_put_apart _ hf ..
  have hstate : s2.rxState n = 1 := State.get_put_same _ _ RXC.STATUS_STATE (by decide) (by decide) 1
  have hcount : s2.get (pRXC n) RXC.COUNT_FALSE_DET = satInc 65535 (s.get (pRXC n) RXC.COUNT_FALSE_DET) :=
    (hset (by decide)).trans ((State.recordErr_get _ hn 8 (by decide) (by decide) (by decide)).trans
      ((s1.get_flag_apart (f := RXC.FLAG_FALSE_DET) (by decide) _ _).trans (State.get_inc_same s _ RXC.COUNT_FALSE_DET (by decide) (by decide))))
  have hflag : s2.bit (pRXC n) RXC.FLAG_FALSE_DET = true :=
    (State.bit_of_get ((hset (by decide)).trans (State.recordErr_get _ hn 8 (by decide) (by decide) (by decide)))).trans
      (State.bit_flag_same s1 _ RXC.FLAG_FALSE_DET rfl (by decide))
  have hcode : s2.get (pRXC n) COM.LAST_ERR_CODE = 8 := (hset (by decide)).trans (State.get_recordErr_code _ _ 8)
  have hm : s2.memory = s.memory := by simp [s2, s1, State.setRxState]
  clear_value s2
  have hdone : s2.rxState n = 1 ∧ s2.get (pRXC n) RXC.COUNT_FALSE_DET = satInc 65535 (s.get (pRXC n) RXC.COUNT_FALSE_DET) ∧
      s2.bit (pRXC n) RXC.FLAG_FALSE_DET = true ∧ s2.get (pRXC n) COM.LAST_ERR_CODE = 8 ∧ SameMemory s s2 :=
    ⟨hstate, hcount, hflag, hcode, sameMemory_of_memory hm⟩
  clear_value x w
  cases w with
  | none => exact hdone
  | some w =>
    dsimp only
    split
    · exact hdone
    · exact hdone

/-! ## The capture watch (R141) -/

theorem exec_captureWatchFire (n : Nat) (samples : List Nat) (s : State) :
    exec (.captureWatchFire n samples) s = .next (s.finish (effCaptureWatchFire n samples s)) := rfl

theorem captureWatchFire_does (samples : List Nat) (hrun : s.coreRuns = true) (hn : n < 17) (hlen : s.rxc.length = 17)
    (hblitz : (s.rx n).blitz = true) (hst : s.rxState n = 3) (hen : s.rxBit n RXC.CAPTURE_WATCH_EN = true)
    (hmode : s.rxBit n RXC.CAPTURE_MODE = false)
    (hcorr : (List.range (s.detHold n)).all (fun i => s.corrHit n (corrWin samples i)) = true)
    (hstrong : (List.range (s.detHold n)).all (fun i => decide (10 ^ Nat.max 3 (s.rxGet n RXC.CAPTURE_MARGIN) * ((s.rx n).power * 16) ^ 10 ≤
      (energy ((samples.drop i).take 16) * (s.rx n).powerN) ^ 10)) = true) :
    Does (.captureWatchFire n samples) s fun u => u.rxState n = 2 ∧ u.bit (pRXC n) RXC.FLAG_CAPTURED = true ∧ (u.rx n).mark = 3 ∧
      u.get (pRXC n) RXC.COUNT_CAPTURED = satInc 65535 (s.get (pRXC n) RXC.COUNT_CAPTURED) ∧ u.bit (pRXC n) RXC.FLAG_FRAME_END = true := by
  refine does_of (exec_captureWatchFire n samples s) ?_
  unfold effCaptureWatchFire
  extract_lets r margin strong s1 s2 s3 t g s4
  have hboth : (List.range (s.detHold n)).all (fun i => s.corrHit n (corrWin samples i) && strong i) = true :=
    List.all_eq_true.mpr fun i hi => Bool.and_eq_true_iff.mpr ⟨List.all_eq_true.mp hcorr i hi, List.all_eq_true.mp hstrong i hi⟩
  rw [if_pos (by simp only [hrun, hn, r, hblitz, hst, hen, hboth]; rfl), if_neg (by simp [hmode])]
  have hcaptured : s1.bit (pRXC n) RXC.FLAG_CAPTURED = true :=
    (State.bit_of_get (State.frameEnds_get _ hn (by decide) (by decide))).trans (State.bit_flag_same _ _ RXC.FLAG_CAPTURED rfl (by decide))
  have hcount : s1.get (pRXC n) RXC.COUNT_CAPTURED = satInc 65535 (s.get (pRXC n) RXC.COUNT_CAPTURED) :=
    (State.frameEnds_get _ hn (by decide) (by decide)).trans ((State.get_flag_apart _ (f := RXC.FLAG_CAPTURED) (by decide) _ _).trans
      (State.get_inc_same s _ RXC.COUNT_CAPTURED (by decide) (by decide)))
  have hend : s1.bit (pRXC n) RXC.FLAG_FRAME_END = true := State.frameEnds_flag _ hn
  have hlen1 : s1.rxc.length = 17 := (congrArg List.length (State.frameEnds_rxc ..)).trans hlen
  clear_value s1
  have hmark : (s2.rx n).mark = 3 := congrArg Rxc.mark (State.rx_withRx_same (by omega) _)
  have hget2 (f : Fld) : s2.get (pRXC n) f = s1.get (pRXC n) f := State.withRx_get ..
  clear_value s2
  have hmark3 : (s3.rx n).mark = 3 := by
    refine Eq.trans ?_ hmark
    unfold s3; cases s2.engOf n <;> rfl
  have hget3 (f : Fld) : s3.get (pRXC n) f = s1.get (pRXC n) f := by
    refine Eq.trans ?_ (hget2 f)
    unfold s3; cases s2.engOf n <;> rfl
  clear_value s3
  have hmark4 : (s4.rx n).mark = 3 := by
    refine Eq.trans ?_ hmark3
    unfold s4; split
    · rfl
    · exact (congrArg Rxc.mark (((Tuned.refl s3).setGain n g).rx n) :)
  have hget4 {f : Fld} (hs : f.steady = true) (hf : f.apart RXC.AGC_FROZEN = true) : s4.get (pRXC n) f = s1.get (pRXC n) f := by
    refine Eq.trans ?_ (hget3 f)
    unfold s4; split
    · rfl
    · exact (State.get_put_apart _ hf ..).trans (((Tuned.refl s3).setGain n g).get _ f hs)
  clear_value s4
  have hget {f : Fld} (hs : f.steady = true) (hf : f.apart RXC.AGC_FROZEN = true) (hst : f.apart RXC.STATUS_STATE = true) :
      (s4.setRxState n 2).get (pRXC n) f = s1.get (pRXC n) f := (State.get_put_apart s4 hst ..).trans (hget4 hs hf)
  exact ⟨State.get_put_same s4 _ RXC.STATUS_STATE (by decide) (by decide) 2,
    (State.bit_of_get (hget (by decide) (by decide) (by decide))).trans hcaptured, hmark4,
    (hget (by decide) (by decide) (by decide)).trans hcount, (State.bit_of_get (hget (by decide) (by decide) (by decide))).trans hend⟩

/-- Settles O15, clause by clause. What a detection triggers in the chain's own capture is `RxStep.trigger`: the flag, the state and the frozen
gain are none of what the capture's region depends on, so it is the region as it stood before. -/
theorem receiveLevels : Obligations.ReceiveLevels :=
  ⟨fun _ _ i q residual hrun hn hen hnear hmod hst htap => leakConverged_does i q residual hrun hn hen hnear hmod hst htap,
   fun _ _ amp phase hrun hn hen hdue hskip hbad hinj => checkToneBlock_does amp phase hrun hn hen hdue hskip hbad hinj,
   fun _ _ samples hrun hn hlen hst h8 hclean hnow => agcBlock_does samples hrun hn hlen hst h8 hclean hnow,
   fun _ _ samples _ hrun hn hblitz hst hh hnow hforce hwin hb => preambleDetect_does samples hrun hn hblitz hst hh hnow hforce hwin hb,
   fun _ _ samples hrun hn hlen hst h128 hx => fineTimingDecision_hit samples hrun hn hlen hst h128 rfl hx,
   fun _ _ samples hrun hn hst h128 hx => fineTimingDecision_miss samples hrun hn hst h128 rfl hx,
   fun _ _ samples hrun hn hlen hblitz hst hen hmode hcorr hstrong =>
     captureWatchFire_does samples hrun hn hlen hblitz hst hen hmode hcorr hstrong⟩

end Sys2Proof.Machine
end

section
/-! SUPPORT. Legacy frames (R137, R143–R145). -/

namespace Sys2Proof.Machine
open Sys2Proof

variable {s : State} {n : Nat}

theorem exec_legacyFrameStart (n : Nat) (env : List (Int × Int)) (s : State) :
    exec (.legacyFrameStart n env) s = .next (s.finish (effLegacyFrameStart n env s)) := rfl

theorem legacyFrameStart_does (env : List (Int × Int)) (hrun : s.coreRuns = true) (hn : n < 17) (hlen : s.rxc.length = 17)
    (hst : s.rxState n = 1) (hblitz : (s.rx n).blitz = false) (hh : s.rxHears n = true) (hnow : s.blankedNow n = false) {b : Nat}
    (hb : s.offCapture n b = true) :
    Does (.legacyFrameStart n env) s fun u => u.rxState n = 3 ∧ u.rxGain n = Nat.min 66 (s.rxGet n RXC.GAIN_LEGACY) ∧
      (u.rx n).startAngle = s.angle ∧ (u.rx n).axis = axisOf env ∧ (u.rx n).colls = [] ∧ u.word b = s.word b ∧
      u.parityWord (b / 8) = s.parityWord (b / 8) ∧ (s.noCapture = true → SameElsewhere rxPages s u) := by
  refine does_of (exec_legacyFrameStart n env s) ?_
  unfold effLegacyFrameStart
  rw [if_pos (by simp only [hrun, hn, hst, hblitz, hh, hnow]; rfl)]
  extract_lets s1
  have hrx : s1.rx n = { s.rx n with
      begun := true, startAt := s.now, startAngle := s.angle, mark := 0, raw := [], colls := [], axis := axisOf env
      power := (env.map cAbs2).foldl Nat.max 0 } := State.rx_withRx_same (by omega) _
  have h1 : RxStep (chainKeys n [2]) Rxc.takeover s s1 := (RxStep.refl ..).withRx (by intro r; rfl) n
  have hgain : s1.rxGet n RXC.GAIN_LEGACY = s.rxGet n RXC.GAIN_LEGACY := h1.chainRxGet hn hh (by decide) (by decide) rfl rfl
  have hm : s1.memory = s.memory := memory_withRx ..
  clear_value s1
  rw [hgain]
  generalize hg : Nat.min 66 (s.rxGet n RXC.GAIN_LEGACY) = g
  have hg128 : g < 2 ^ 7 := hg ▸ Nat.lt_of_le_of_lt (Nat.min_le_left ..) (by decide)
  have h2 : RxStep (chainKeys n [2]) Rxc.takeover s ((s1.put (pRXC n) RXC.STATUS_GAIN g).setRxState n 3) :=
    (h1.put (p := pRXC n) (f := RXC.STATUS_GAIN) (by decide) (chainKeys_page rfl) g).put (p := pRXC n) (f := RXC.STATUS_STATE)
      (by decide) (chainKeys_page rfl) 3
  have hu := h2.trigger hm hn hh (by decide) 3
  have hframe : _ = (s1.rx n).frame := hu.rx
  rw [hrx] at hframe
  obtain ⟨hword, hparity⟩ := hu.word b hb
  refine ⟨(hu.get RXC.STATUS_STATE (by decide) rfl).trans (State.get_put_same _ _ RXC.STATUS_STATE (by decide) (by decide) 3),
    (hu.get RXC.STATUS_GAIN (by decide) rfl).trans ?_, congrArg Rxc.startAngle hframe, congrArg Rxc.axis hframe, congrArg Rxc.colls hframe,
    hword, hparity, hu.elsewhere⟩
  exact (State.get_put_apart _ (f := RXC.STATUS_STATE) (by decide) _ _ 3).trans
    ((State.get_put_same s1 _ RXC.STATUS_GAIN (by decide) (by decide) g).trans (Nat.mod_eq_of_lt hg128))

/-- A bit whose halves collide is among those that the frame's end notes. -/
theorem filterMap_zipIdx_isEmpty {α β : Type} {l : List α} {p : α → Bool} {f : α × Nat → β} (h : l.any p = true) :
    (l.zipIdx.filterMap fun x => if p x.1 then some (f x) else none).isEmpty = false := by
  obtain ⟨x, hx, hp⟩ := List.any_eq_true.mp h
  obtain ⟨i, hi, rfl⟩ := List.mem_iff_getElem.mp hx
  refine List.isEmpty_eq_false_iff_exists_mem.mpr ⟨f (l[i], i), List.mem_filterMap.mpr ⟨(l[i], i), ?_, by simp [hp]⟩⟩
  exact List.mk_mem_zipIdx_iff_getElem?.mpr (List.getElem?_eq_getElem hi)

theorem State.clippedFrame_step (s : State) (n : Nat) : RxStep (chainKeys n [4, 8]) Rxc.raw s (s.clippedFrame n) :=
  (((RxStep.refl ..).withRx (by intro r; rfl) n).flag (p := pRXC n) (f := RXC.FLAG_CLIPPED) (by decide) (chainKeys_page rfl)).recordErr rfl 4

/-- A legacy frame that is over: the chain searches on, the end is flagged, and other flags, the latest error and the bits decoded stand. -/
structure FrameOver (n : Nat) (s u : State) : Prop where
  state : u.rxState n = 1
  ended : u.bit (pRXC n) RXC.FLAG_FRAME_END = true
  raw : (u.rx n).raw = (s.rx n).raw
  bit : ∀ g : Fld, g.off = 4 → g.hi < 1 ∨ 2 < g.lo → u.bit (pRXC n) g = s.bit (pRXC n) g
  code : u.get (pRXC n) COM.LAST_ERR_CODE = s.get (pRXC n) COM.LAST_ERR_CODE
  memory : u.memory = s.memory

theorem State.frameOver (s : State) (hn : n < 17) (e : Nat) : FrameOver n s ((((s.frameEnds n).setRxState n 1).stepGain n e).retap n) := by
  have hu : Tuned ((s.frameEnds n).setRxState n 1) ((((s.frameEnds n).setRxState n 1).stepGain n e).retap n) :=
    ((Tuned.refl _).stepGain n e).retap n
  have hget {g : Fld} (hs : g.steady = true) (hst : g.apart RXC.STATUS_STATE = true) :
      ((((s.frameEnds n).setRxState n 1).stepGain n e).retap n).get (pRXC n) g = (s.frameEnds n).get (pRXC n) g :=
    (hu.get _ g hs).trans (State.get_put_apart _ hst ..)
  have hends : (((s.frameEnds n).setRxState n 1).rx n).raw = (s.rx n).raw := congrArg Rxc.raw (s.frameEnds_rx n n)
  refine ⟨(hu.get _ RXC.STATUS_STATE (by decide)).trans (State.get_put_same _ _ RXC.STATUS_STATE (by decide) (by decide) 1),
    (State.bit_of_get (hget (by decide) (by decide))).trans (s.frameEnds_flag hn), (congrArg Rxc.raw (hu.rx n) :).trans hends,
    fun g h4 hbits => State.bit_of_get ?_, (hget (by decide) (by decide)).trans (s.frameEnds_code hn), ?_⟩
  · have hsteady : g.steady = true := decide_eq_true (by omega)
    have hstate : g.apart RXC.STATUS_STATE = true := decide_eq_true (by simp only [RXC.STATUS_STATE]; omega)
    have hflag : g.apart RXC.FLAG_FRAME_END = true := decide_eq_true (by simp only [RXC.FLAG_FRAME_END]; omega)
    exact (hget hsteady hstate).trans (s.frameEnds_get hn hflag (by omega))
  · simp only [memory_retap, memory_stepGain]
    exact memory_frameEnds ..

theorem exec_legacyFrameEnd (n : Nat) (clipped : Bool) (halves : List ((Int × Int) × (Int × Int))) (s : State) :
    exec (.legacyFrameEnd n clipped halves) s = .next (s.finish (effLegacyFrameEnd n clipped halves s)) := rfl

theorem legacyFrameEnd_does (clipped : Bool) (halves : List ((Int × Int) × (Int × Int))) (hrun : s.coreRuns = true) (hn : n < 17)
    (hlen : s.rxc.length = 17) (hst : s.rxState n = 3) (hblitz : (s.rx n).blitz = false) {f : TxFrame}
    (hf : (s.eng ((s.engOf n).getD 0)).frame = f) :
    Does (.legacyFrameEnd n clipped halves) s fun u => u.rxState n = 1 ∧ u.bit (pRXC n) RXC.FLAG_FRAME_END = true ∧
      (u.rx n).raw = halves.map (halfBit f.kind f.rrate (s.rx n).axis) ∧
      (clipped = true → u.bit (pRXC n) RXC.FLAG_CLIPPED = true ∧ u.get (pRXC n) COM.LAST_ERR_CODE = 4) ∧
      (halfCoded f.kind f.rrate = true → halves.any (fun h => s.collides n (cAbs2 h.1) (cAbs2 h.2)) = true →
        u.bit (pRXC n) RXC.FLAG_COLLISION = true) ∧
      SameMemory s u := by
  refine does_of (exec_legacyFrameEnd n clipped halves s) ?_
  unfold effLegacyFrameEnd
  rw [if_pos (by simp only [hrun, hn, hst, hblitz]; rfl), hf]
  extract_lets _ raw colls top s1 s2 s3
  have hcolls (hc : halfCoded f.kind f.rrate = true) (hany : halves.any (fun h => s.collides n (cAbs2 h.1) (cAbs2 h.2)) = true) :
      colls.isEmpty = false := by
    unfold colls; rw [if_pos hc]
    exact filterMap_zipIdx_isEmpty (f := fun h => (h.2, isqrt (cAbs2 h.1.1), isqrt (cAbs2 h.1.2))) hany
  have hraw1 : (s1.rx n).raw = raw := by
    have hset : ((s.withRx n fun r => { r with raw := raw, colls := colls }).rx n).raw = raw :=
      congrArg Rxc.raw (State.rx_withRx_same (by omega) _)
    exact (congrArg Rxc.raw (((Tuned.refl _).showLevel n top 1 clipped).rx n) :).trans hset
  have hm1 : s1.memory = s.memory := (memory_showLevel ..).trans (memory_withRx ..)
  clear_value s1
  have hraw2 : (s2.rx n).raw = raw := by
    refine Eq.trans ?_ hraw1
    unfold s2; cases clipped with
    | false => rfl
    | true => exact (s1.clippedFrame_step n).rx n
  have hclip2 (hc : clipped = true) : s2.bit (pRXC n) RXC.FLAG_CLIPPED = true ∧ s2.get (pRXC n) COM.LAST_ERR_CODE = 4 := by
    subst hc
    exact ⟨(State.bit_of_get (State.recordErr_get _ hn 4 (by decide) (by decide) (by decide))).trans
      (State.bit_flag_same _ _ RXC.FLAG_CLIPPED rfl (by decide)), State.get_recordErr_code _ _ 4⟩
  have hm2 : s2.memory = s.memory := by
    refine Eq.trans ?_ hm1
    simp [s2, State.clippedFrame]
  clear_value s2
  have hraw3 : (s3.rx n).raw = raw := by
    refine Eq.trans ?_ hraw2
    unfold s3; cases colls.isEmpty <;> rfl
  have hget3 {g : Fld} (h : g.apart RXC.FLAG_COLLISION = true) : s3.get (pRXC n) g = s2.get (pRXC n) g := by
    unfold s3; cases colls.isEmpty with
    | true => rfl
    | false => exact s2.get_flag_apart h _ _
  have hcoll3 (h : colls.isEmpty = false) : s3.bit (pRXC n) RXC.FLAG_COLLISION = true := by
    unfold s3; rw [h]
    exact State.bit_flag_same s2 _ RXC.FLAG_COLLISION rfl (by decide)
  have hm3 : s3.memory = s.memory := by
    refine Eq.trans ?_ hm2
    simp [s3]
  clear_value s3 colls
  have hu := s3.frameOver hn (if clipped = true then fullScale * fullScale else top)
  refine ⟨hu.state, hu.ended, hu.raw.trans hraw3, fun hc => ?_,
    fun hc hany => (hu.bit RXC.FLAG_COLLISION rfl (by decide)).trans (hcoll3 (hcolls hc hany)), sameMemory_of_memory (hu.memory.trans hm3)⟩
  obtain ⟨hflag, hcode⟩ := hclip2 hc
  exact ⟨(hu.bit RXC.FLAG_CLIPPED rfl (by decide)).trans ((State.bit_of_get (hget3 (by decide))).trans hflag),
    hu.code.trans ((hget3 (by decide)).trans hcode)⟩

/-- Settles O16. That a frame's axis points along its first subcarrier samples (`axisOf`) and that its bits are decided from the projections of
their halves on it (`halfBit`) is the model's choice (assumption 89), which R143 to R145 leave open. -/
theorem legacyFrames : Obligations.LegacyFrames :=
  ⟨fun _ _ env _ hrun hn hlen hst hblitz hh hnow hb => legacyFrameStart_does env hrun hn hlen hst hblitz hh hnow hb,
   fun _ _ clipped halves hrun hn hlen hst hblitz => legacyFrameEnd_does clipped halves hrun hn hlen hst hblitz rfl⟩

end Sys2Proof.Machine
end

section
/-! SUPPORT. Properties that survive what happens at once: a watch on a state, and the shared operations that keep it. -/

namespace Sys2Proof.Machine
open Sys2Proof

/-- The registers that watches look at: ERR_COUNT of MEM, ENG_STAT of engine 0, LAST_ERR of BLZ. -/
def watchedKeys : List Nat := [pMEM * 256 + 8, pPRT * 256 + 32, pBLZ * 256 + 9]

/-- A property that rests on engines, recorded fault classes, a Resign that is due and the registers `keys`, and that Arbiter numbers
and recorded errors keep, other than a code 0x04 of BLZ. -/
structure Watch where
  on : State → Prop
  keys : List Nat
  watched : keys ⊆ watchedKeys
  same {s t : State} : t.regs = s.regs → t.engs = s.engs → t.flt.recorded = s.flt.recorded → t.agenda = s.agenda → on s → on t
  agenda {s : State} {l : List (Nat × Instr)} :
    (∀ d, (d, Instr.resignRampEnd) ∈ s.agenda → (d, Instr.resignRampEnd) ∈ l) → on s → on { s with agenda := l }
  put {s : State} {p : Nat} {f : Fld} (x : Nat) : p * 256 + f.off ∉ keys → on s → on (s.put p f x)
  number {s : State} (r n : Nat) : on s → on (s.numberAs r n).2
  error {s : State} {p c : Nat} : (p = pBLZ → c % 256 ≠ 4) → on s → on (s.recordErr p c)

/-- What is watched, at the end of an operation.  That an operation keeps it is stated as an equation, `on_iff`, so that `simp` goes
through a chain of operations of any length; there the right-hand side must not be rewritten again. -/
def Watch.gained (P : Watch) (t : State) : Prop := P.on t

variable {P : Watch} {s t : State}

theorem Watch.on_iff (h : P.on s → P.on t) : P.on t ↔ P.on s ∨ P.gained t :=
  ⟨.inr, fun g => g.elim h id⟩

theorem Watch.on_congr (hr : t.regs = s.regs) (he : t.engs = s.engs) (hf : t.flt.recorded = s.flt.recorded) (ha : t.agenda = s.agenda) :
    P.on t ↔ P.on s :=
  ⟨P.same hr.symm he.symm hf.symm ha.symm, P.same hr he hf ha⟩

theorem Watch.on_put_key {p : Nat} {f : Fld} (h : p * 256 + f.off ∉ watchedKeys) (s : State) (x : Nat) :
    P.on (s.put p f x) ↔ P.on s ∨ P.gained (s.put p f x) :=
  P.on_iff (P.put x fun hk => h (P.watched hk))

@[simp] theorem Watch.on_put {p : Nat} {f : Fld} (h : f.off % 256 ≠ 8 ∧ f.off % 256 ≠ 9 ∧ f.off % 256 ≠ 32)
    (s : State) (x : Nat) : P.on (s.put p f x) ↔ P.on s ∨ P.gained (s.put p f x) := by
  refine P.on_put_key (fun hk => ?_) s x
  simp only [watchedKeys, pMEM, pPRT, pBLZ, List.mem_cons, List.not_mem_nil, or_false] at hk
  omega

@[simp] theorem Watch.on_put_page {p : Nat} {f : Fld} (h : 99 < p) (s : State) (x : Nat) :
    P.on (s.put p f x) ↔ P.on s ∨ P.gained (s.put p f x) := by
  refine P.on_put_key (fun hk => ?_) s x
  simp only [watchedKeys, pMEM, pPRT, pBLZ, List.mem_cons, List.not_mem_nil, or_false] at hk
  omega

@[simp] theorem Watch.on_ite (c : Prop) [Decidable c] (x y : State) : P.on (if c then x else y) ↔ if c then P.on x else P.on y := by
  split <;> rfl

@[simp] theorem Watch.on_when (s : State) (c : Bool) (f : State → State) : P.on (s.when c f) ↔ if c then P.on (f s) else P.on s := by
  unfold State.when; split <;> rfl

@[simp] theorem Watch.on_forEach {α : Type} {f : State → α → State} (hf : ∀ t a, P.on t → P.on (f t a)) (s : State) (l : List α) :
    P.on (s.forEach l f) ↔ P.on s ∨ P.gained (s.forEach l f) :=
  P.on_iff (State.forEach_inv P.on l f (fun t a _ => hf t a) s)

@[simp] theorem Watch.on_putB (s : State) (p : Nat) (f : Fld) (b : Bool) : P.on (s.putB p f b) ↔ P.on (s.put p f (b2n b)) := Iff.rfl

@[simp] theorem Watch.on_putBit (s : State) (p : Nat) (f : Fld) (i : Nat) (b : Bool) :
    P.on (s.putBit p f i b) ↔ P.on (s.put p ⟨f.off, f.lo + i, f.lo + i⟩ (b2n b)) := Iff.rfl

@[simp] theorem Watch.on_inc (s : State) (p : Nat) (f : Fld) :
    P.on (s.inc p f) ↔ P.on (s.put p f (satInc (2 ^ (f.hi + 1 - f.lo) - 1) (s.get p f))) := Iff.rfl

@[simp] theorem Watch.on_noteSet (s : State) (k : Nat) (m : Word) : P.on (s.noteSet k m) ↔ P.on s := P.on_congr rfl rfl rfl rfl

@[simp] theorem Watch.on_raise (s : State) (p : Nat) (f : Fld) (i : Nat) : P.on (s.raise p f i) ↔ P.on (s.putBit p f i true) :=
  P.on_congr rfl rfl rfl rfl

@[simp] theorem Watch.on_flag (s : State) (p : Nat) (f : Fld) (i : Nat) : P.on (s.flag p f i) ↔ P.on (s.putBit p f i true) :=
  P.on_congr rfl rfl rfl rfl

@[simp] theorem Watch.on_mirrorTake (s : State) (k : Nat) (m : Word) : P.on (s.mirrorTake k m) ↔ P.on s := P.on_congr rfl rfl rfl rfl

@[simp] theorem Watch.on_putHw (s : State) (p : Nat) (f : Fld) (x : Nat) :
    P.on (s.putHw p f x) ↔ if (s.touched.writes.any fun e => e.1 == p * 256 + f.off) then P.on s else P.on (s.put p f x) :=
  P.on_ite ..

theorem Watch.on_agenda {l : List (Nat × Instr)} (h : ∀ d, (d, Instr.resignRampEnd) ∈ l ↔ (d, Instr.resignRampEnd) ∈ s.agenda) :
    P.on { s with agenda := l } ↔ P.on s :=
  ⟨fun g => P.agenda (s := { s with agenda := l }) (l := s.agenda) (fun d => (h d).1) g, P.agenda fun d => (h d).2⟩

@[simp] theorem Watch.on_sched {c : Instr} (hc : c ≠ .resignRampEnd) (s : State) (d : Nat) : P.on (s.sched d c) ↔ P.on s :=
  P.on_agenda fun _ => by simp [hc.symm]

@[simp] theorem Watch.on_unsched {c : Instr} (hc : c ≠ .resignRampEnd) (s : State) : P.on (s.unsched c) ↔ P.on s :=
  P.on_agenda fun _ => by simp [hc.symm]

@[simp] theorem Watch.on_resched {c : Instr} (hc : c ≠ .resignRampEnd) (s : State) (d : Nat) : P.on (s.resched d c) ↔ P.on s :=
  (P.on_sched hc ..).trans (P.on_unsched hc s)

@[simp] theorem Watch.on_untimer (s : State) (x : Tm) : P.on (s.untimer x) ↔ P.on s := P.on_congr rfl rfl rfl rfl
@[simp] theorem Watch.on_retimer (s : State) (d : Nat) (x : Tm) : P.on (s.retimer d x) ↔ P.on s := P.on_congr rfl rfl rfl rfl
@[simp] theorem Watch.on_nextFree (s : State) : P.on s.nextFree ↔ P.on s := P.on_congr rfl rfl rfl rfl
@[simp] theorem Watch.on_withTx (s : State) (n : Nat) (f : Txc → Txc) : P.on (s.withTx n f) ↔ P.on s := P.on_congr rfl rfl rfl rfl
@[simp] theorem Watch.on_withRx (s : State) (n : Nat) (f : Rxc → Rxc) : P.on (s.withRx n f) ↔ P.on s := P.on_congr rfl rfl rfl rfl
@[simp] theorem Watch.on_withCtx (s : State) (n : Nat) (f : Ctx → Ctx) : P.on (s.withCtx n f) ↔ P.on s := P.on_congr rfl rfl rfl rfl
@[simp] theorem Watch.on_withPwr (s : State) (f : Pwr → Pwr) : P.on (s.withPwr f) ↔ P.on s := P.on_congr rfl rfl rfl rfl
@[simp] theorem Watch.on_withRail (s : State) (r : Nat) (f : Rail → Rail) : P.on (s.withRail r f) ↔ P.on s := P.on_congr rfl rfl rfl rfl
@[simp] theorem Watch.on_withXmp (s : State) (f : Xmp → Xmp) : P.on (s.withXmp f) ↔ P.on s := P.on_congr rfl rfl rfl rfl
@[simp] theorem Watch.on_withSco (s : State) (f : Sco → Sco) : P.on (s.withSco f) ↔ P.on s := P.on_congr rfl rfl rfl rfl
@[simp] theorem Watch.on_withCal (s : State) (f : Cal → Cal) : P.on (s.withCal f) ↔ P.on s := P.on_congr rfl rfl rfl rfl
@[simp] theorem Watch.on_putWord (s : State) (a : Nat) (w : Stored) : P.on (s.putWord a w) ↔ P.on s := P.on_congr rfl rfl rfl rfl
@[simp] theorem Watch.on_putParity (s : State) (l : Nat) (w : Stored) : P.on (s.putParity l w) ↔ P.on s := P.on_congr rfl rfl rfl rfl
@[simp] theorem Watch.on_telCount (s : State) (i : Nat) : P.on (s.telCount i) ↔ P.on s := P.on_congr rfl rfl rfl rfl

@[simp] theorem Watch.on_reportFault (s : State) (p c : Nat) (i : FaultInfo) (inj : Bool) : P.on (s.reportFault p c i inj) ↔ P.on s :=
  P.on_congr rfl rfl rfl rfl

@[simp] theorem Watch.on_numberAs (s : State) (r n : Nat) : P.on (s.numberAs r n).2 ↔ P.on s ∨ P.gained (s.numberAs r n).2 :=
  P.on_iff (P.number r n)

@[simp] theorem Watch.on_recordErr {p c : Nat} (h : p = pBLZ → c % 256 ≠ 4) (s : State) :
    P.on (s.recordErr p c) ↔ P.on s ∨ P.gained (s.recordErr p c) :=
  P.on_iff (P.error h)

/-! ## Events (R279, R280) -/

@[simp] theorem pEVT_above (i : Nat) : 99 < pEVT i := by unfold pEVT; omega

@[simp] theorem pEVT_ne_blz (i : Nat) : pEVT i ≠ pBLZ := by unfold pEVT pBLZ; omega

@[simp] theorem Watch.on_pendingBits (s : State) (i : Nat) : P.on (s.pendingBits i) ↔ P.on s ∨ P.gained (s.pendingBits i) :=
  P.on_put_page (pEVT_above i) ..

theorem Watch.on_deliveries (s : State) (l : List Delivery) : P.on { s with deliveries := l } ↔ P.on s := P.on_congr rfl rfl rfl rfl

@[simp] theorem Watch.on_holdDelivery (s : State) (d : Delivery) :
    P.on (s.holdDelivery d) ↔ P.on s ∨ P.gained (s.holdDelivery d) :=
  P.on_iff fun h => by
    unfold State.holdDelivery; extract_lets pg k t
    have ht : P.on t := by unfold t; simp [h, pg]
    split
    · exact (P.on_deliveries t _).2 ht
    · split
      · simp [h, pg]
      · exact (P.on_pendingBits ..).2 (.inl ((P.on_deliveries s _).2 h))

@[simp] theorem Watch.on_acceptAt (s : State) (p hop ch : Nat) : P.on (s.acceptAt p hop ch) ↔ P.on s ∨ P.gained (s.acceptAt p hop ch) :=
  P.on_iff fun h => by unfold State.acceptAt; simp [h]

@[simp] theorem Watch.on_present (s : State) (p hop : Nat) : P.on (s.present p hop) ↔ P.on s ∨ P.gained (s.present p hop) :=
  P.on_iff fun h => by
    unfold State.present; simp +contextual [h]

@[simp] theorem Watch.on_tstDetected (s : State) (cls : Nat) : P.on (s.tstDetected cls) ↔ P.on s ∨ P.gained (s.tstDetected cls) :=
  P.on_iff fun h => by unfold State.tstDetected; simp +decide [h]

@[simp] theorem Watch.on_setFault {p code : Nat} (hp : p = pBLZ → code % 256 ≠ 4) (s : State) (bit : Nat) (i : FaultInfo) :
    P.on (s.setFault p bit code i) ↔ P.on s ∨ P.gained (s.setFault p bit code i) :=
  P.on_iff fun h => by
    have hr : P.on (s.recordErr p code) := P.error hp h
    unfold State.setFault; simp +decide [hr]

end Sys2Proof.Machine
end

section
/-! SUPPORT. What keeps a watch: Wing claims, chains, rails and the ends of moves. -/

namespace Sys2Proof.Machine
open Sys2Proof

variable {P : Watch}

@[simp] theorem pCND_above (c : Nat) : 99 < pCND c := by unfold pCND; omega

@[simp] theorem Watch.on_setOwner (s : State) (w o : Nat) : P.on (s.setOwner w o) ↔ P.on s ∨ P.gained (s.setOwner w o) :=
  P.on_iff fun h => by unfold State.setOwner; simp +decide [h]

@[simp] theorem Watch.on_releaseWing (s : State) (w : Nat) : P.on (s.releaseWing w) ↔ P.on s ∨ P.gained (s.releaseWing w) :=
  P.on_iff fun h => by unfold State.releaseWing; simp [h]

@[simp] theorem Watch.on_setField (s : State) (n st : Nat) : P.on (s.setField n st) ↔ P.on s ∨ P.gained (s.setField n st) :=
  P.on_iff fun h => by unfold State.setField; simp +decide [h]

@[simp] theorem Watch.on_rampDown (s : State) (n st : Nat) : P.on (s.rampDown n st) ↔ P.on s ∨ P.gained (s.rampDown n st) :=
  P.on_iff fun h => by unfold State.rampDown; simp [h]

@[simp] theorem Watch.on_setRxState (s : State) (n st : Nat) : P.on (s.setRxState n st) ↔ P.on s ∨ P.gained (s.setRxState n st) :=
  P.on_iff fun h => by unfold State.setRxState; simp +decide [h]

theorem Watch.on_rxPutHw {f : Fld} (hf : f.off % 256 ≠ 8 ∧ f.off % 256 ≠ 9 ∧ f.off % 256 ≠ 32) (s : State) (n x : Nat) :
    P.on (s.rxPutHw n f x) ↔ P.on s ∨ P.gained (s.rxPutHw n f x) :=
  P.on_iff fun h => by unfold State.rxPutHw; simp [h, hf]

@[simp] theorem Watch.on_selectTap (s : State) (n p : Nat) : P.on (s.selectTap n p) ↔ P.on s ∨ P.gained (s.selectTap n p) :=
  P.on_iff fun h => by unfold State.selectTap; simp +decide [h, Watch.on_rxPutHw]

@[simp] theorem Watch.on_retap (s : State) (n : Nat) : P.on (s.retap n) ↔ P.on s ∨ P.gained (s.retap n) :=
  P.on_iff fun h => by
    unfold State.retap; split
    · exact h
    · split <;> simp [h]

@[simp] theorem Watch.on_retapWing (s : State) (w : Nat) : P.on (s.retapWing w) ↔ P.on s ∨ P.gained (s.retapWing w) :=
  P.on_iff fun h => by unfold State.retapWing; simp [h]

@[simp] theorem Watch.on_openSwitch (s : State) (n : Nat) : P.on (s.openSwitch n) ↔ P.on s ∨ P.gained (s.openSwitch n) :=
  P.on_iff fun h => by unfold State.openSwitch; split <;> simp [h]

@[simp] theorem Watch.on_dropJobs (s : State) (r : Nat) : P.on (s.dropJobs r) ↔ P.on s := P.on_withPwr ..

@[simp] theorem Watch.on_serveJob (s : State) : P.on s.serveJob ↔ P.on s ∨ P.gained s.serveJob :=
  P.on_iff fun h => by unfold State.serveJob; split <;> simp [h]

@[simp] theorem Watch.on_addJob (s : State) (j : Job) : P.on (s.addJob j) ↔ P.on s ∨ P.gained (s.addJob j) :=
  P.on_iff fun h => by unfold State.addJob; simp [h]

/-- The state of a variable rail is shown in a register that is not watched. -/
theorem rail_unwatched {r : Nat} (hr : r < 4) : pPWR * 256 + (0x1D + r) ∉ watchedKeys := by
  simp only [watchedKeys, pPWR, pMEM, pPRT, pBLZ, List.mem_cons, List.not_mem_nil, or_false]; omega

theorem Watch.on_railState {r : Nat} (hr : r < 4) (s : State) (x : Nat) :
    P.on (s.put pPWR (PWR.RAIL_STAT_STATE r) x) ↔ P.on s ∨ P.gained (s.put pPWR (PWR.RAIL_STAT_STATE r) x) :=
  P.on_put_key (rail_unwatched hr) s x

theorem Watch.on_railTries {r : Nat} (hr : r < 4) (s : State) (x : Nat) :
    P.on (s.put pPWR (PWR.RAIL_STAT_TRIES r) x) ↔ P.on s ∨ P.gained (s.put pPWR (PWR.RAIL_STAT_TRIES r) x) :=
  P.on_put_key (rail_unwatched hr) s x

theorem Watch.on_railUp {r : Nat} (hr : r < 4) (s : State) (mv prio : Nat) :
    P.on (s.railUp r mv prio) ↔ P.on s ∨ P.gained (s.railUp r mv prio) :=
  P.on_iff fun h => by unfold State.railUp; simp [h, P.on_railState hr, P.on_railTries hr]

theorem Watch.on_railChange {r : Nat} (hr : r < 4) (s : State) (mv op : Nat) :
    P.on (s.railChange r mv op) ↔ P.on s ∨ P.gained (s.railChange r mv op) :=
  P.on_iff fun h => by unfold State.railChange; simp [h, P.on_railState hr, P.on_railTries hr]

theorem Watch.on_raiseInUp {s t : State} {r d : Nat} (e : s.raiseInUp r d = some t) : P.on t ↔ P.on s := by
  unfold State.raiseInUp at e; split at e
  · cases e
  · cases e; simp

theorem Watch.on_followRail {r : Nat} (hr : r < 4) (s : State) : P.on (s.followRail r) ↔ P.on s ∨ P.gained (s.followRail r) :=
  P.on_iff fun h => by
    unfold State.followRail; split
    · exact h
    · dsimp only; split
      · split
        · simp [h, P.on_railUp hr]
        · split
          · exact (P.on_raiseInUp ‹_›).2 ((P.on_unsched (by simp) s).2 h)
          · simp [h, P.on_railChange hr]
      · simp [h]

@[simp] theorem Watch.on_followRails (s : State) : P.on s.followRails ↔ P.on s ∨ P.gained s.followRails :=
  P.on_iff fun h => by unfold State.followRails; simp [h, P.on_followRail]

@[simp] theorem Watch.on_setSwitch (s : State) (n p : Nat) : P.on (s.setSwitch n p) ↔ P.on s ∨ P.gained (s.setSwitch n p) :=
  P.on_iff fun h => by unfold State.setSwitch; simp +decide [h]

@[simp] theorem Watch.on_armNow (s : State) (n : Nat) : P.on (s.armNow n) ↔ P.on s ∨ P.gained (s.armNow n) :=
  P.on_iff fun h => by unfold State.armNow; simp [h]

@[simp] theorem Watch.on_takeHeld (s : State) (n : Nat) : P.on (s.takeHeld n) ↔ P.on s ∨ P.gained (s.takeHeld n) :=
  P.on_iff fun h => by unfold State.takeHeld; split <;> simp [h]

@[simp] theorem Watch.on_tuneShow (s : State) (c st : Nat) : P.on (s.tuneShow c st) ↔ P.on s ∨ P.gained (s.tuneShow c st) :=
  P.on_iff fun h => by unfold State.tuneShow; split <;> simp +decide [h]

@[simp] theorem Watch.on_endMove (s : State) (c st : Nat) : P.on (s.endMove c st) ↔ P.on s ∨ P.gained (s.endMove c st) :=
  P.on_iff fun h => by
    unfold State.endMove; split
    · exact P.same (s := s) rfl rfl rfl rfl h
    · simp [h]

@[simp] theorem Watch.on_endFor (s : State) (c : Option Nat) (st : Nat) : P.on (s.endFor c st) ↔ P.on s ∨ P.gained (s.endFor c st) :=
  P.on_iff fun h => by unfold State.endFor; split <;> simp [h]

@[simp] theorem Watch.on_tuneEnd (s : State) (n st : Nat) : P.on (s.tuneEnd n st) ↔ P.on s ∨ P.gained (s.tuneEnd n st) :=
  P.on_iff fun h => by unfold State.tuneEnd; simp +decide [h]

@[simp] theorem Watch.on_wakeChains (s : State) : P.on s.wakeChains ↔ P.on s ∨ P.gained s.wakeChains :=
  P.on_iff fun h => by unfold State.wakeChains; simp +contextual [h]

@[simp] theorem Watch.on_dropArmed (s : State) (n st : Nat) : P.on (s.dropArmed n st) ↔ P.on s ∨ P.gained (s.dropArmed n st) :=
  P.on_iff fun h => by unfold State.dropArmed; simp +decide [h]

@[simp] theorem Watch.on_rxRest (s : State) (n : Nat) : P.on (s.rxRest n) ↔ P.on s ∨ P.gained (s.rxRest n) :=
  P.on_iff fun h => by unfold State.rxRest; simp [h]

@[simp] theorem Watch.on_rxFree (s : State) (c : Nat) : P.on (s.rxFree c) ↔ P.on s ∨ P.gained (s.rxFree c) :=
  P.on_iff fun h => by unfold State.rxFree; simp +contextual [h]

@[simp] theorem Watch.on_releaseRx16 (s : State) : P.on s.releaseRx16 ↔ P.on s ∨ P.gained s.releaseRx16 :=
  P.on_iff fun h => by unfold State.releaseRx16; simp +decide [h]

@[simp] theorem Watch.on_moveAct (s : State) (a b : Nat) : P.on (s.moveAct a b) ↔ P.on s ∨ P.gained (s.moveAct a b) :=
  P.on_iff fun h => by unfold State.moveAct; simp +decide [h]

@[simp] theorem Watch.on_releaseTx8 (s : State) : P.on s.releaseTx8 ↔ P.on s ∨ P.gained s.releaseTx8 :=
  P.on_iff fun h => by unfold State.releaseTx8; simp +decide [h]

theorem Watch.on_fieldOffNow {s : State} (hw : s.inv.wings = []) (w hop : Nat) :
    P.on (s.fieldOffNow w hop) ↔ P.on s ∨ P.gained (s.fieldOffNow w hop) :=
  P.on_iff fun h => by unfold State.fieldOffNow; simp [h, invCut_of_none hw]

end Sys2Proof.Machine
end

section
/-! SUPPORT. What keeps a watch: flash, Scoresheet, calibration, power modes and the report queue. -/

namespace Sys2Proof.Machine
open Sys2Proof

variable {P : Watch}

@[simp] theorem Watch.on_xmpRange (s : State) : P.on s.xmpRange ↔ P.on s ∨ P.gained s.xmpRange :=
  P.on_iff fun h => by unfold State.xmpRange; simp +decide [h]

@[simp] theorem Watch.on_xmpShow (s : State) : P.on s.xmpShow ↔ P.on s ∨ P.gained s.xmpShow :=
  P.on_iff fun h => by unfold State.xmpShow; dsimp only; split <;> simp +decide [h]

@[simp] theorem Watch.on_xmpStart (s : State) : P.on s.xmpStart ↔ P.on s ∨ P.gained s.xmpStart :=
  P.on_iff fun h => by unfold State.xmpStart; simp [h]

@[simp] theorem Watch.on_xmpPost (s : State) (owner off : Nat) (bytes : List Nat) :
    P.on (s.xmpPost owner off bytes).2 ↔ P.on s ∨ P.gained (s.xmpPost owner off bytes).2 :=
  P.on_iff fun h => by
    unfold State.xmpPost; split
    · simp [h]
    · dsimp only; split <;> simp +decide [h]

@[simp] theorem Watch.on_xmpEraseQ (s : State) (t off owner : Nat) :
    P.on (s.xmpEraseQ t off owner).2 ↔ P.on s ∨ P.gained (s.xmpEraseQ t off owner).2 :=
  P.on_iff fun h => by
    unfold State.xmpEraseQ; dsimp only; split
    · simp +decide [h]
    · split <;> simp +decide [h]

@[simp] theorem Watch.on_xmpOwnerDone (s : State) (owner : Nat) : P.on (s.xmpOwnerDone owner) ↔ P.on s ∨ P.gained (s.xmpOwnerDone owner) :=
  P.on_iff fun h => by unfold State.xmpOwnerDone; simp [h]

@[simp] theorem Watch.on_xmpDiscard (s : State) : P.on s.xmpDiscard ↔ P.on s ∨ P.gained s.xmpDiscard :=
  P.on_iff fun h => by
    unfold State.xmpDiscard
    have hf (t : State) : P.on t → P.on ((t.flag pXMP XMP.FLAG_QFULL).recordErr pXMP 6) := fun ht => by simp +decide [ht]
    have hc (b : Prop) [Decidable b] : (if b then Instr.sectorErased false else .recordProgrammed false) ≠ .resignRampEnd := by
      split <;> simp
    simp +contextual [h, hf, hc]

@[simp] theorem Watch.on_xmpInjSettle (s : State) : P.on s.xmpInjSettle ↔ P.on s ∨ P.gained s.xmpInjSettle :=
  P.on_iff fun h => by
    unfold State.xmpInjSettle; split
    · exact (P.on_sched (by decide) ..).2 (P.same (s := s) rfl rfl rfl rfl h)
    · exact h

@[simp] theorem Watch.on_scoPush (s : State) (kind arbseq : Nat) (inj : Bool) (payload : List Nat) :
    P.on (s.scoPush kind arbseq inj payload) ↔ P.on s ∨ P.gained (s.scoPush kind arbseq inj payload) :=
  P.on_iff fun h => (P.on_put (by decide) ..).2 (.inl (P.same (s := s) rfl rfl rfl rfl h))

@[simp] theorem Watch.on_scoLose (s : State) : P.on s.scoLose ↔ P.on s ∨ P.gained s.scoLose :=
  P.on_iff fun h => by unfold State.scoLose; simp +decide [h]

@[simp] theorem Watch.on_scoDrop (s : State) : P.on s.scoDrop ↔ P.on s ∨ P.gained s.scoDrop :=
  P.on_iff fun h => by unfold State.scoDrop; simp +decide [h]

@[simp] theorem Watch.on_scoRecord (s : State) (kind arbseq : Nat) (payload : List Nat) (inj : Bool) :
    P.on (s.scoRecord kind arbseq payload inj) ↔ P.on s ∨ P.gained (s.scoRecord kind arbseq payload inj) :=
  P.on_iff fun h => by unfold State.scoRecord; simp [h]

@[simp] theorem Watch.on_scoDiscard (s : State) : P.on s.scoDiscard ↔ P.on s ∨ P.gained s.scoDiscard :=
  P.on_iff fun h => by
    unfold State.scoDiscard; extract_lets keep t
    have ht : P.on t := State.forEach_inv P.on (s.scoQueue.drop keep) (fun v _ => v.scoLose)
      (fun v _ _ hv => (P.on_scoLose v).2 (.inl hv)) s h
    exact (P.on_put (by decide) ..).2 (.inl (P.same (s := t) rfl rfl rfl rfl ht))

@[simp] theorem Watch.on_scoRefuse (s : State) : P.on s.scoRefuse ↔ P.on s ∨ P.gained s.scoRefuse :=
  P.on_iff fun h => by unfold State.scoRefuse; simp +decide [h]

@[simp] theorem Watch.on_scoTest (s : State) : P.on s.scoTest ↔ P.on s ∨ P.gained s.scoTest :=
  P.on_iff fun h => by unfold State.scoTest; simp +decide [h]

@[simp] theorem Watch.on_scoLostRecord (s : State) : P.on s.scoLostRecord ↔ P.on s ∨ P.gained s.scoLostRecord :=
  P.on_iff fun h => by unfold State.scoLostRecord; simp +decide [h]

@[simp] theorem Watch.on_scoShow (s : State) : P.on s.scoShow ↔ P.on s ∨ P.gained s.scoShow :=
  P.on_iff fun h => by unfold State.scoShow; simp +decide [h]

@[simp] theorem Watch.on_scoEraseSector (s : State) (k : Nat) : P.on (s.scoEraseSector k) ↔ P.on s ∨ P.gained (s.scoEraseSector k) :=
  P.on_iff fun h => by unfold State.scoEraseSector; dsimp only; split <;> simp [h]

@[simp] theorem Watch.on_scoAdvance (s : State) : P.on s.scoAdvance ↔ P.on s ∨ P.gained s.scoAdvance :=
  P.on_iff fun h => by unfold State.scoAdvance; simp [h]

@[simp] theorem Watch.on_scoProgram (s : State) : P.on s.scoProgram ↔ P.on s ∨ P.gained s.scoProgram :=
  P.on_iff fun h => by unfold State.scoProgram; split <;> simp [h]

@[simp] theorem Watch.on_scoSettle (s : State) : P.on s.scoSettle ↔ P.on s ∨ P.gained s.scoSettle :=
  P.on_iff fun h => by unfold State.scoSettle; simp [h]

@[simp] theorem Watch.on_calShow (s : State) : P.on s.calShow ↔ P.on s ∨ P.gained s.calShow :=
  P.on_iff fun h => by unfold State.calShow; simp +decide [h]

@[simp] theorem Watch.on_calOver (s : State) : P.on s.calOver ↔ P.on s ∨ P.gained s.calOver :=
  P.on_iff fun h => by
    unfold State.calOver; extract_lets stage w s1 s2 s3 s4
    have h1 : P.on s1 := P.same (s := s) rfl rfl rfl rfl h
    have h4 : P.on s4 := by unfold s4 s3 s2; simp +decide [h1]
    simp +contextual [h4]

@[simp] theorem Watch.on_xbOver (s : State) : P.on s.xbOver ↔ P.on s ∨ P.gained s.xbOver :=
  P.on_iff fun h => by unfold State.xbOver; simp +decide +contextual [h]

@[simp] theorem Watch.on_simulAt (s : State) : P.on s.simulAt ↔ P.on s ∨ P.gained s.simulAt :=
  P.on_iff fun h => by unfold State.simulAt; simp +decide [h]

theorem Watch.on_calSettle {s : State} (hw : s.inv.wings = []) : P.on s.calSettle ↔ P.on s ∨ P.gained s.calSettle :=
  P.on_iff fun h => by
    unfold State.calSettle; simp [h, P.on_fieldOffNow hw]

@[simp] theorem Watch.on_giveModeRec (s : State) : P.on s.giveModeRec ↔ P.on s ∨ P.gained s.giveModeRec :=
  P.on_iff fun h => by unfold State.giveModeRec; split <;> simp [h]

@[simp] theorem Watch.on_synStop (s : State) : P.on s.synStop ↔ P.on s ∨ P.gained s.synStop :=
  P.on_iff fun h => by unfold State.synStop; simp +decide [h]

@[simp] theorem Watch.on_synStart (s : State) : P.on s.synStart ↔ P.on s ∨ P.gained s.synStart :=
  P.on_iff fun h => by unfold State.synStart; simp +decide [h]

@[simp] theorem Watch.on_refSwitch (s : State) : P.on s.refSwitch ↔ P.on s ∨ P.gained s.refSwitch :=
  P.on_iff fun h => by unfold State.refSwitch; simp +decide [h]

@[simp] theorem Watch.on_entrySettle (s : State) : P.on s.entrySettle ↔ P.on s ∨ P.gained s.entrySettle :=
  P.on_iff fun h => by unfold State.entrySettle; simp [h]

@[simp] theorem Watch.on_pwrSettle (s : State) : P.on s.pwrSettle ↔ P.on s ∨ P.gained s.pwrSettle :=
  P.on_iff fun h => by unfold State.pwrSettle; simp [h]

@[simp] theorem Watch.on_rptAppend (s : State) (w : Nat) : P.on (s.rptAppend w) ↔ P.on s ∨ P.gained (s.rptAppend w) :=
  P.on_iff fun h => by
    unfold State.rptAppend; split
    · simp +decide [h]
    · exact (P.on_put (by decide) ..).2 (.inl (P.same (s := s) rfl rfl rfl rfl h))

@[simp] theorem Watch.on_autoIrqWord (s t : State) : P.on (s.autoIrqWord t) ↔ P.on t ∨ P.gained (s.autoIrqWord t) :=
  P.on_iff fun h => by unfold State.autoIrqWord; simp [h]

end Sys2Proof.Machine
end

section
/-! SUPPORT. What the end that a Wing's work is given keeps: watches that hold through memory, seals, engines and lanes. -/

namespace Sys2Proof.Machine
open Sys2Proof

/-- A watch that does not look at ENG_STAT of engine 0, and that the count of a memory error and an engine that stays free keep. -/
structure EngWatch extends Watch where
  stat : pPRT * 256 + 32 ∉ keys
  ecc {s : State} (addr kind syn : Nat) (scrub : Bool) : on s → on (s.countEcc addr kind syn scrub)
  eng {s : State} (w : Nat) {f : Eng → Eng} : (∀ e, e.user = none → (f e).user = none) → on s → on (s.withEng w f)

variable {P : EngWatch} {s : State} {w : Nat}

@[simp] theorem EngWatch.on_countEcc (s : State) (addr kind syn : Nat) (scrub : Bool) :
    P.on (s.countEcc addr kind syn scrub) ↔ P.on s ∨ P.gained (s.countEcc addr kind syn scrub) :=
  P.on_iff (P.ecc addr kind syn scrub)

@[simp] theorem EngWatch.on_withEng {f : Eng → Eng} (hf : ∀ e, e.user = none → (f e).user = none) (s : State) (w : Nat) :
    P.on (s.withEng w f) ↔ P.on s ∨ P.gained (s.withEng w f) :=
  P.on_iff (P.eng w hf)

/-- The registers of PRT for its eight engines. -/
theorem EngWatch.on_engStat {f : Fld} (h : 32 ≤ f.off ∧ f.off < 48) (s : State) (x : Nat) :
    P.on (s.put pPRT f x) ↔ P.on s ∨ P.gained (s.put pPRT f x) := by
  refine P.on_iff (P.put x fun hk => ?_)
  have hw := P.watched hk
  simp only [watchedKeys, pMEM, pPRT, pBLZ, List.mem_cons, List.not_mem_nil, or_false] at hw
  have h0 : f.off = 32 := by omega
  exact P.stat (h0 ▸ hk)

/-! ## Memory (R318–R326) -/

@[simp] theorem EngWatch.on_readGood (s : State) (a : Nat) (scrub : Bool) :
    P.on (s.readGood a scrub) ↔ P.on s ∨ P.gained (s.readGood a scrub) :=
  P.on_iff fun h => by unfold State.readGood; simp [h]

@[simp] theorem EngWatch.on_poisonWord (s : State) (a : Nat) (scrub : Bool) :
    P.on (s.poisonWord a scrub) ↔ P.on s ∨ P.gained (s.poisonWord a scrub) :=
  P.on_iff fun h => by unfold State.poisonWord; simp [h]

@[simp] theorem EngWatch.on_recomputeParity (s : State) (line : Nat) : P.on (s.recomputeParity line) ↔ P.on s := P.on_putParity ..

@[simp] theorem EngWatch.on_readBad (s : State) (a : Nat) (scrub : Bool) :
    P.on (s.readBad a scrub) ↔ P.on s ∨ P.gained (s.readBad a scrub) :=
  P.on_iff fun h => by unfold State.readBad; simp +contextual [h]

@[simp] theorem EngWatch.on_readState (s : State) (a : Nat) (scrub : Bool) :
    P.on (s.readState a scrub) ↔ P.on s ∨ P.gained (s.readState a scrub) :=
  P.on_iff fun h => by unfold State.readState; simp [h]

@[simp] theorem EngWatch.on_deliverPoison (s : State) : P.on s.deliverPoison ↔ P.on s ∨ P.gained s.deliverPoison :=
  P.on_iff fun h => by
    unfold State.deliverPoison; extract_lets t
    have ht : P.on t := by unfold t; simp +decide [h]
    split
    · exact ht
    · exact (P.on_present ..).2 (.inl (P.same (s := t) rfl rfl rfl rfl ht))

@[simp] theorem EngWatch.on_memRead (s : State) (a : Nat) : P.on (s.memRead a).2.2 ↔ P.on s ∨ P.gained (s.memRead a).2.2 :=
  P.on_iff fun h => by unfold State.memRead; simp [h]

@[simp] theorem EngWatch.on_memWrite (s : State) (a v : Nat) (poison : Bool) :
    P.on (s.memWrite a v poison) ↔ P.on s ∨ P.gained (s.memWrite a v poison) :=
  P.on_iff fun h => by unfold State.memWrite; simp +contextual [h]

@[simp] theorem EngWatch.on_memWrites (s : State) (a : Nat) (l : List Nat) : P.on (s.memWrites a l) ↔ P.on s ∨ P.gained (s.memWrites a l) :=
  P.on_iff fun h => by
    unfold State.memWrites
    induction l generalizing s a with
    | nil => exact h
    | cons v l ih => exact ih (s.memWrite a v) (a + 1) ((P.on_memWrite ..).2 (.inl h))

@[simp] theorem EngWatch.on_blockWrite (s : State) (a v : Nat) : P.on (s.blockWrite a v) ↔ P.on s ∨ P.gained (s.blockWrite a v) :=
  P.on_iff fun h => by unfold State.blockWrite; simp [h]

theorem EngWatch.on_winWord {off : Nat} {r : Nat × Bool × State} (h : P.on s) (e : s.winWord off = .inr r) : P.on r.2.2 := by
  have hp (t : State) (ht : P.on t) : P.on t.poisonedWord.2.2 := (P.on_nextFree t).2 ht
  unfold State.winWord at e; split at e
  · cases e; exact hp _ (by simp [h])
  · dsimp only at e; split at e
    · cases e
    · split at e
      · cases e; exact hp s h
      · cases e; simp [h]

@[simp] theorem EngWatch.on_blockWords (s : State) (addr n : Nat) :
    P.on (s.blockWords addr n).2 ↔ P.on s ∨ P.gained (s.blockWords addr n).2 :=
  P.on_iff fun h => by
    induction n with
    | zero => exact h
    | succ k ih =>
      unfold State.blockWords; split
      · rename_i l t e
        have ht : P.on t := by simpa [e] using ih
        dsimp only; split
        · simp [ht]
        · split
          · split
            · exact ht
            · exact EngWatch.on_winWord ht ‹_›
          · exact ht
      · exact ih

/-! ## Chains, engines and seals -/

@[simp] theorem EngWatch.on_frameEnds (s : State) (n : Nat) : P.on (s.frameEnds n) ↔ P.on s ∨ P.gained (s.frameEnds n) :=
  P.on_iff fun h => by unfold State.frameEnds; simp +decide [h]

@[simp] theorem EngWatch.on_showNoise (s : State) (n : Nat) : P.on (s.showNoise n) ↔ P.on s ∨ P.gained (s.showNoise n) :=
  P.on_iff fun h => by unfold State.showNoise; split <;> simp +decide [h]

@[simp] theorem EngWatch.on_setGain (s : State) (n g : Nat) : P.on (s.setGain n g) ↔ P.on s ∨ P.gained (s.setGain n g) :=
  P.on_iff fun h => by unfold State.setGain; simp +decide [h]

@[simp] theorem EngWatch.on_stepGain (s : State) (n e : Nat) : P.on (s.stepGain n e) ↔ P.on s ∨ P.gained (s.stepGain n e) :=
  P.on_iff fun h => by unfold State.stepGain; simp +decide [h, Watch.on_rxPutHw]

@[simp] theorem EngWatch.on_showLevel (s : State) (n e k : Nat) (clipped : Bool) :
    P.on (s.showLevel n e k clipped) ↔ P.on s ∨ P.gained (s.showLevel n e k clipped) :=
  P.on_iff fun h => by unfold State.showLevel; simp +decide [h]

@[simp] theorem EngWatch.on_cutFrame (s : State) (n : Nat) : P.on (s.cutFrame n) ↔ P.on s ∨ P.gained (s.cutFrame n) :=
  P.on_iff fun h => by unfold State.cutFrame; simp [h]

@[simp] theorem EngWatch.on_powerLimit (s : State) (n : Nat) : P.on (s.powerLimit n) ↔ P.on s ∨ P.gained (s.powerLimit n) :=
  P.on_iff fun h => by unfold State.powerLimit; simp +decide [h]

@[simp] theorem EngWatch.on_levelStep (s : State) (n : Nat) : P.on (s.levelStep n) ↔ P.on s ∨ P.gained (s.levelStep n) :=
  P.on_iff fun h => by unfold State.levelStep; simp [h]

@[simp] theorem EngWatch.on_modEnd (s : State) (n : Nat) : P.on (s.modEnd n) ↔ P.on s ∨ P.gained (s.modEnd n) :=
  P.on_iff fun h => by unfold State.modEnd; simp +decide [h]

@[simp] theorem EngWatch.on_frameCut (s : State) (w : Nat) : P.on (s.frameCut w) ↔ P.on s ∨ P.gained (s.frameCut w) :=
  P.on_iff fun h => by unfold State.frameCut; simp [h]

@[simp] theorem EngWatch.on_laneBusy (s : State) (w : Nat) (b : Bool) : P.on (s.laneBusy w b) ↔ P.on s ∨ P.gained (s.laneBusy w b) :=
  P.on_iff fun h => by unfold State.laneBusy; simp +decide [h]

@[simp] theorem EngWatch.on_engBusy (hw : w < 8) (s : State) (b : Bool) : P.on (s.engBusy w b) ↔ P.on s ∨ P.gained (s.engBusy w b) :=
  P.on_iff fun h => by
    have hk : 32 ≤ (PRT.ENG_STAT_BUSY w).off ∧ (PRT.ENG_STAT_BUSY w).off < 48 := by simp only [PRT.ENG_STAT_BUSY]; omega
    unfold State.engBusy; simp +decide [h, P.on_engStat hk]

@[simp] theorem EngWatch.on_engEnd (hw : w < 8) (s : State) (st : Nat) : P.on (s.engEnd w st) ↔ P.on s ∨ P.gained (s.engEnd w st) :=
  P.on_iff fun h => by unfold State.engEnd; dsimp only; split <;> simp [h, hw]

@[simp] theorem EngWatch.on_sealShow (s : State) : P.on s.sealShow ↔ P.on s ∨ P.gained s.sealShow :=
  P.on_iff fun h => by unfold State.sealShow; simp +decide [h]

@[simp] theorem EngWatch.on_sealResult (s : State) (q : SealSt) (result : Nat) :
    P.on (s.sealResult q result) ↔ P.on s ∨ P.gained (s.sealResult q result) :=
  P.on_iff fun h => by unfold State.sealResult; simp [h]

@[simp] theorem EngWatch.on_sealDone (hw : w < 8) (s : State) (q : SealSt) (result st : Nat) :
    P.on (s.sealDone w q result st) ↔ P.on s ∨ P.gained (s.sealDone w q result st) :=
  P.on_iff fun h => by unfold State.sealDone; simp [h, hw]

@[simp] theorem EngWatch.on_legacyReply (hw : w < 8) (s : State) (job : Nat) (ok : Bool) :
    P.on (s.legacyReply w job ok) ↔ P.on s ∨ P.gained (s.legacyReply w job ok) :=
  P.on_iff fun h => by unfold State.legacyReply; simp [h, hw]

@[simp] theorem EngWatch.on_writeRecord (s : State) (w : Nat) (ws : List Nat) :
    P.on (s.writeRecord w ws) ↔ P.on s ∨ P.gained (s.writeRecord w ws) :=
  P.on_iff fun h => by unfold State.writeRecord; split <;> simp [h]

@[simp] theorem EngWatch.on_showReply (hw : w < 8) (s : State) (r : RxRes) :
    P.on (s.showReply w r) ↔ P.on s ∨ P.gained (s.showReply w r) :=
  P.on_iff fun h => by
    have hk : 32 ≤ (PRT.ENG_STAT_FSTATUS w).off ∧ (PRT.ENG_STAT_FSTATUS w).off < 48 := by simp only [PRT.ENG_STAT_FSTATUS]; omega
    have ht : 32 ≤ (PRT.ENG_TIME_RESP_TIME w).off ∧ (PRT.ENG_TIME_RESP_TIME w).off < 48 := by
      simp only [PRT.ENG_TIME_RESP_TIME]; omega
    unfold State.showReply
    simp +decide [h, P.on_engStat (f := PRT.ENG_STAT_FSTATUS w) hk, P.on_engStat (f := PRT.ENG_STAT_MARK w) hk,
      P.on_engStat (f := PRT.ENG_STAT_RATE w) hk, P.on_engStat ht]

@[simp] theorem EngWatch.on_brokenRecord (hw : w < 8) (s : State) (mark : Option Nat) :
    P.on (s.brokenRecord w mark) ↔ P.on s ∨ P.gained (s.brokenRecord w mark) :=
  P.on_iff fun h => by
    have hk : 32 ≤ (PRT.ENG_STAT_MARK w).off ∧ (PRT.ENG_STAT_MARK w).off < 48 := by simp only [PRT.ENG_STAT_MARK]; omega
    unfold State.brokenRecord; dsimp only; split
    · simp [h, hw]
    · simp +decide [h]
    · simp [h, P.on_engStat hk]
    · exact h

/-- An engine that a state of eight engines has no room for does no work. -/
theorem eng_free_of_length (hl : s.engs.length = 8) (hw : ¬ w < 8) : (s.eng w).user = none := by
  unfold State.eng; rw [List.getD_eq_default _ _ (by omega)]; rfl

theorem breakWing_of_free (hu : (s.eng w).user = none) (st : Nat) (mark : Option Nat) : s.breakWing w st mark = s := by
  unfold State.breakWing; simp [hu]

/-- The end of a Wing's work keeps what engines, memory and seals keep. -/
theorem EngWatch.on_breakWing (hl : s.engs.length = 8) (w st : Nat) (mark : Option Nat) (h : P.on s) : P.on (s.breakWing w st mark) := by
  by_cases hw : w < 8
  · unfold State.breakWing; dsimp only; split
    · split <;> simp +decide [h, hw]
    · exact h
  · rwa [breakWing_of_free (eng_free_of_length hl hw)]

end Sys2Proof.Machine
end

section
/-! SUPPORT. A watch through everything that happens at once (`State.settle`), where no Wing is in inventory. -/

namespace Sys2Proof.Machine
open Sys2Proof

variable {P : Watch} {s t : State}

/-- A watch that counts a fault class recorded and a Resign that is due as gains, and that the end of a Wing's work keeps. -/
structure EndWatch extends Watch where
  recorded {s : State} : s.flt.recorded ≠ [] → on s
  resign {s : State} {d : Nat} : (d, Instr.resignRampEnd) ∈ s.agenda → on s
  breakWing {s : State} (w st : Nat) (mark : Option Nat) : s.engs.length = 8 → on s → on (s.breakWing w st mark)

variable {W : EndWatch}

/-- Eight engines, and no Wing of the inventory. -/
def State.outlined (s : State) : Prop := s.gauge false = ((8, 0), none)

theorem outlined_iff : s.outlined ↔ s.engs.length = 8 ∧ s.inv.wings = [] := by simp [State.outlined, State.gauge]

theorem State.outlined.of_eq (h : s.outlined) (e : t.gauge false = s.gauge false) : t.outlined := e.trans h

theorem EndWatch.on_takeEnd (ho : s.outlined) (h : W.on s) (e : WingEnd) : W.on (s.takeEnd e) := by
  obtain ⟨hl, hw⟩ := outlined_iff.mp ho
  unfold State.takeEnd; split
  · rwa [invOwn_of_none hw]
  · exact W.breakWing _ _ _ hl h

theorem EndWatch.on_takeEnds (n : Nat) (ho : s.outlined) (h : W.on s) : W.on (State.takeEnds n s) := by
  induction n generalizing s with
  | zero => exact h
  | succ n ih =>
    unfold State.takeEnds; split
    · exact h
    · obtain ⟨ho', h'⟩ := State.forEach_inv (fun u => u.outlined ∧ W.on u) s.wingEnds State.takeEnd
        (fun u e _ hu => ⟨hu.1.of_eq (gauge_takeEnd u e), W.on_takeEnd hu.1 hu.2 e⟩) { s with wingEnds := [] }
        ⟨ho.of_eq rfl, W.same (s := s) rfl rfl rfl rfl h⟩
      exact ih ho' h'

/-- A report that is taken records its class. -/
theorem EndWatch.on_takeReports (h : W.on s) : W.on s.takeReports :=
  State.forEach_inv W.on _ _ (fun u r _ _ => W.recorded (takeReport_recorded u r)) _ (W.same (s := s) rfl rfl rfl rfl h)

/-- A Resign request that is taken leaves the end of the ramps due. -/
theorem EndWatch.on_takeResign (h : W.on s) : W.on s.takeResign := by
  have h0 : W.on { s with flt := { s.flt with request := 0 } } := W.same (s := s) rfl rfl rfl rfl h
  unfold State.takeResign; dsimp only; split
  · exact h
  · split
    · exact h0
    · obtain ⟨d, hd⟩ := beginResign_agenda { s with flt := { s.flt with request := 0 } } s.flt.request
      exact W.resign hd

theorem gauge_keepLine (s : State) (l : List Nat) : (s.keepLine l).gauge false = s.gauge false := by
  have hset (t : State) (o : Nat) (v : Word) : (t.setReg pFLT o v).gauge false = t.gauge false := rfl
  have hreg (t : State) (w : List Nat) :
      (t.forEach (List.range 8) fun s k => s.setReg pFLT (0x18 + k) (BitVec.ofNat 40 (nth w k))).gauge false = t.gauge false :=
    gauge_forEach (fun t k => hset t (0x18 + k) _) t _
  have hline (t : State) (c : Prop) [Decidable c] (n : Nat) (w : List Nat) :
      (if c then t.writeLine n w else t).gauge false = t.gauge false := by split <;> rfl
  unfold State.keepLine; dsimp only
  rw [gauge_flag, gauge_putBit, gauge_put_false, hline, hreg]; rfl

theorem gauge_takeReport (s : State) (r : Report) : (s.takeReport r).gauge false = s.gauge false := by
  have hflt (t : State) (f : Flt) : ({ t with flt := f } : State).gauge false = t.gauge false := rfl
  have hflag (t : State) (p : Nat) (f : Fld) (i : Nat) : (t.flag p f i).gauge false = t.gauge false := by simp
  have hinc (t : State) (p : Nat) (f : Fld) : (t.incMod p f).gauge false = t.gauge false := gauge_put_false ..
  unfold State.takeReport; extract_lets cl asks i0 i s1 r1 s2 s3 n fl s4 s5 s6 s7 s8 s9 s10 rec38 u s11 s12 fl'
  have h3 : s3.gauge false = s.gauge false := by
    calc s3.gauge false = s2.gauge false := hinc ..
      _ = s1.gauge false := gauge_put_false ..
      _ = s.gauge false := hflag ..
  have h10 : s10.gauge false = s.gauge false := by
    calc s10.gauge false = s9.gauge false := gauge_recordErr ..
      _ = s8.gauge false := gauge_put_false ..
      _ = s7.gauge false := gauge_put_false ..
      _ = s6.gauge false := gauge_put_false ..
      _ = s5.gauge false := gauge_put_false ..
      _ = s4.gauge false := gauge_put_false ..
      _ = s3.gauge false := hflt ..
      _ = s.gauge false := h3
  have hu : u.gauge false = s.gauge false := by
    calc u.gauge false = ((s10.keepLine rec38).flag pFLT FLT.FLAG_RECORD).gauge false := gauge_telCount ..
      _ = (s10.keepLine rec38).gauge false := hflag ..
      _ = s10.gauge false := gauge_keepLine ..
      _ = s.gauge false := h10
  have h11 : s11.gauge false = s.gauge false := by
    unfold s11; split
    · split
      · exact (gauge_scoPush ..).trans hu
      · exact (gauge_recordErr ..).trans ((hflag ..).trans ((gauge_scoDrop u).trans hu))
    · exact h10
  have h12 : s12.gauge false = s.gauge false := (gauge_present ..).trans h11
  split
  · exact (hflt ..).trans h3
  · split
    · exact (hflt ..).trans h12
    · exact h12

theorem gauge_takeReports (s : State) : s.takeReports.gauge false = s.gauge false :=
  gauge_forEach gauge_takeReport { s with flt := { s.flt with reports := [] } } _

/-- What is watched is kept by all that happens at once; that a Resign leaves the Board outlined is read from its end. -/
theorem EndWatch.on_settle (ho : t.outlined) (he : (s.settle t).outlined) (h : W.on t) : W.on (s.settle t) := by
  unfold State.settle at he ⊢; extract_lets s1 s2 s3
  change (s.autoIrqWord s3).outlined at he
  have g0 : t.releaseTx8.releaseRx16.outlined := ho.of_eq (by simp)
  have gr : ((State.takeEnds 8 t.releaseTx8.releaseRx16).takeReports).outlined :=
    g0.of_eq ((gauge_takeReports _).trans (gauge_takeEnds ..))
  have e1 : s1 = (State.takeEnds 8 t.releaseTx8.releaseRx16).takeReports := invSettleAll_of_none (outlined_iff.mp gr).2
  have g1 : s1.outlined := e1 ▸ gr
  have h1 : W.on s1 := e1 ▸ W.on_takeReports (W.on_takeEnds 8 g0 (by simp [h]))
  have gc : s1.calSettle.releaseTx8.releaseRx16.outlined := g1.of_eq (by simp [gauge_calSettle_of (gauge_invCut ..)])
  have h2 : W.on s2 := by
    have hc : W.on s1.calSettle := (W.on_calSettle (outlined_iff.mp g1).2).2 (.inl h1)
    exact (W.on_scoSettle _).2 (.inl (W.on_takeEnds 8 gc (by simp [hc])))
  have hx : W.on s2.pwrSettle.takeReports.xmpInjSettle :=
    (W.on_xmpInjSettle _).2 (.inl (W.on_takeReports ((W.on_pwrSettle _).2 (.inl h2))))
  have gx : s2.pwrSettle.takeReports.xmpInjSettle.takeResign.outlined :=
    he.of_eq (by unfold s3; rw [gauge_autoIrqWord, gauge_takeReports, gauge_takeEnds])
  have h3 : W.on s3 := W.on_takeReports (W.on_takeEnds 8 gx (W.on_takeResign hx))
  exact (W.on_autoIrqWord s s3).2 (.inl h3)

end Sys2Proof.Machine
end

section
/-! SUPPORT. The watches: a disturbance, an engine that is free, the errors of MEM and the code of BLZ, ENG_STAT of engine 0. -/

namespace Sys2Proof.Machine
open Sys2Proof

variable {s : State} {c : Nat}

/-- A number changes registers and the edge's list. -/
theorem State.numberAs_parts (s : State) (r n : Nat) :
    (s.numberAs r n).2.engs = s.engs ∧ (s.numberAs r n).2.flt = s.flt ∧ (s.numberAs r n).2.agenda = s.agenda := by
  unfold State.numberAs; split
  · refine State.forEach_inv (fun t => t.engs = s.engs ∧ t.flt = s.flt ∧ t.agenda = s.agenda) _ _ (fun t a _ ht => ?_) _ ⟨rfl, rfl, rfl⟩
    split
    · exact ht
    · exact ht
  · exact ⟨rfl, rfl, rfl⟩

/-- A recorded error changes registers, the edge's list and the index of free values. -/
theorem State.recordErr_parts (s : State) (p c : Nat) :
    (s.recordErr p c).engs = s.engs ∧ (s.recordErr p c).flt = s.flt ∧ (s.recordErr p c).agenda = s.agenda := by
  unfold State.recordErr; dsimp only; split
  · exact State.numberAs_parts ((s.inc p COM.ERR_COUNT).put p COM.LAST_ERR_CODE c) (1000 + p) (p + 1)
  · exact ⟨rfl, rfl, rfl⟩

theorem eng_of_engs {s t : State} (h : t.engs = s.engs) (k : Nat) : t.eng k = s.eng k := by unfold State.eng; rw [h]

/-- A fault class is recorded or a Resign has its ramps to end: a report or a request may have been taken up. -/
def State.disturbed (s : State) : Prop := s.flt.recorded ≠ [] ∨ ∃ d, (d, Instr.resignRampEnd) ∈ s.agenda

/-- A property of what is no register. -/
def Watch.ofParts (on : State → Prop)
    (same : ∀ {s t : State}, t.engs = s.engs → t.flt.recorded = s.flt.recorded →
      (∀ d, (d, Instr.resignRampEnd) ∈ s.agenda → (d, Instr.resignRampEnd) ∈ t.agenda) → on s → on t) : Watch where
  on := on
  keys := []
  watched := List.nil_subset _
  same _ he hf ha := same he hf fun d hd => ha ▸ hd
  agenda ha := same rfl rfl ha
  put _ _ := same rfl rfl fun _ hd => hd
  number {s} r n h := by
    obtain ⟨he, hf, ha⟩ := s.numberAs_parts r n
    exact same he (congrArg Flt.recorded hf) (fun _ hd => ha ▸ hd) h
  error {s p c} _ h := by
    obtain ⟨he, hf, ha⟩ := s.recordErr_parts p c
    exact same he (congrArg Flt.recorded hf) (fun _ hd => ha ▸ hd) h

/-- The count of a memory error keeps a watch that does not look at the counts of the banks. -/
theorem Watch.on_countEcc_of {P : Watch} (hk : ∀ b, pMEM * 256 + (0x20 + b) ∉ P.keys) (addr kind syn : Nat) (scrub : Bool)
    (h : P.on s) : P.on (s.countEcc addr kind syn scrub) := by
  have hbank (t : State) (f : Fld) (hf : f.off = 0x20 + addr / 65536) (ht : P.on t) : P.on (t.inc pMEM f) :=
    P.put _ (hf ▸ hk _) ht
  have hfound (t : State) (f : Fld) (hf : f.off % 256 ≠ 8 ∧ f.off % 256 ≠ 9 ∧ f.off % 256 ≠ 32) (ht : P.on t) :
      P.on (t.scbFound scrub f) := by
    unfold State.scbFound; simp +decide [ht, hf]
  unfold State.countEcc; extract_lets same old rep s1 s2 s3 s4 b sp sr sc s5
  have h4 : P.on s4 := by unfold s4 s3 s2 s1; simp +decide [h]
  have hp : P.on sp := hfound _ _ (by decide) (hbank s4 _ rfl h4)
  have hr : P.on sr := hfound _ _ (by decide) (hbank s4 _ rfl h4)
  have hc : P.on sc := hfound _ _ (by decide) (hbank s4 _ rfl h4)
  have h5 : P.on s5 := by unfold s5; simp +decide [hp, hr, hc]
  simp +decide [h5]

/-- A property of what is no register, and that an engine that stays free keeps. -/
def EngWatch.ofParts (P : Watch) (hk : P.keys = [])
    (eng : ∀ {s : State} (w : Nat) {f : Eng → Eng}, (∀ e, e.user = none → (f e).user = none) → P.on s → P.on (s.withEng w f)) :
    EngWatch where
  toWatch := P
  stat := by simp [hk]
  ecc addr kind syn scrub := P.on_countEcc_of (by simp [hk]) addr kind syn scrub
  eng := eng

/-- The Board is disturbed. -/
def disturbedWatch : EngWatch :=
  EngWatch.ofParts (Watch.ofParts State.disturbed fun _ hf ha h => h.imp (fun hr => hf ▸ hr) fun ⟨d, hd⟩ => ⟨d, ha d hd⟩) rfl
    fun _ _ _ h => h

/-- Engine `k` does no work. -/
def freeWatch (k : Nat) : EngWatch :=
  EngWatch.ofParts (Watch.ofParts (fun s => (s.eng k).user = none) fun he _ _ h => by rwa [eng_of_engs he]) rfl
    fun {s} w f hf h => by
      change ((s.engs.set w (f (s.eng w))).getD k Eng.reset).user = none
      rw [List.getD_eq_getElem?_getD, List.getElem?_set]
      split
      · subst w
        split
        · exact hf _ h
        · rfl
      · rwa [← List.getD_eq_getElem?_getD]

/-! ## Registers that are watched -/

theorem satInc_ne_zero {m x : Nat} (h : m ≠ 0) : satInc m x ≠ 0 := by unfold satInc; split <;> omega

/-- An error of MEM leaves its ERR_COUNT above zero. -/
theorem State.recordErr_counts (s : State) (c : Nat) : (s.recordErr pMEM c).get pMEM COM.ERR_COUNT ≠ 0 := by
  have hput (t : State) (f : Fld) (h : f.off = 9) (x : Nat) : (t.put pMEM f x).get pMEM COM.ERR_COUNT = t.get pMEM COM.ERR_COUNT :=
    State.get_put_reg t (by rw [h]; decide) x
  have hnumber (t : State) (r n : Nat) : (t.numberAs r n).2.get pMEM COM.ERR_COUNT = t.get pMEM COM.ERR_COUNT :=
    (State.numberAs_only (K := noKeys) t r n).get (by decide) (by decide) rfl
  have hinc : (s.inc pMEM COM.ERR_COUNT).get pMEM COM.ERR_COUNT ≠ 0 := by
    rw [State.get_inc_same _ _ _ (by decide) (by decide)]; exact satInc_ne_zero (by decide)
  unfold State.recordErr; dsimp only; split
  · rwa [hput _ _ rfl, hnumber, hput _ _ rfl]
  · rw [hput _ _ rfl, State.nextFree_get, hput _ _ rfl]; exact hinc

/-- An error of another page leaves the code of a page. -/
theorem State.get_recordErr_code_ne {p q : Nat} (h : p ≠ q) (s : State) (c : Nat) :
    (s.recordErr p c).get q COM.LAST_ERR_CODE = s.get q COM.LAST_ERR_CODE := by
  have hput (t : State) (f : Fld) (hf : f.off < 256) (x : Nat) : (t.put p f x).get q COM.LAST_ERR_CODE = t.get q COM.LAST_ERR_CODE :=
    State.get_put_reg t (by simp only [COM.LAST_ERR_CODE]; omega) x
  have hbase : ((s.inc p COM.ERR_COUNT).put p COM.LAST_ERR_CODE c).get q COM.LAST_ERR_CODE = s.get q COM.LAST_ERR_CODE :=
    (hput _ _ (by decide) _).trans (hput _ _ (by decide) _)
  unfold State.recordErr; dsimp only; split
  · rw [hput _ _ (by decide), State.get_numberAs_high _ _ _ _ (by decide), hbase]
  · rw [hput _ _ (by decide), State.nextFree_get, hbase]

theorem get_of_regs {s t : State} (h : t.regs = s.regs) (p : Nat) (f : Fld) : t.get p f = s.get p f := by
  unfold State.get State.reg; rw [h]

/-- MEM has counted an error. -/
def memErrorWatch : Watch where
  on s := s.get pMEM COM.ERR_COUNT ≠ 0
  keys := [pMEM * 256 + 8]
  watched := by decide
  same hr _ _ _ h := by rwa [get_of_regs hr]
  agenda _ h := h
  put x hk h := by rwa [State.get_put_reg _ (fun e => hk (by simp [← e, COM.ERR_COUNT]))]
  number {s} r n h := by
    rwa [(State.numberAs_only (K := noKeys) s r n).get (by decide) (by decide) rfl]
  error {s p c} _ h := by
    by_cases hp : p = pMEM
    · subst hp; exact s.recordErr_counts c
    · rwa [(State.recordErr_only (K := oneKey p 8) s p c (.inr (by simp [oneKey]))).get (by decide) (by decide)
        (by simp [oneKey, Ne.symm hp])]

/-- The code of BLZ is not 0x04. -/
def blzCodeWatch : Watch where
  on s := s.get pBLZ COM.LAST_ERR_CODE ≠ 4
  keys := [pBLZ * 256 + 9]
  watched := by decide
  same hr _ _ _ h := by rwa [get_of_regs hr]
  agenda _ h := h
  put x hk h := by rwa [State.get_put_reg _ (fun e => hk (by simp [← e, COM.LAST_ERR_CODE]))]
  number {s} r n h := by rwa [State.get_numberAs_high _ _ _ _ (by decide)]
  error {s p c} hc h := by
    by_cases hp : p = pBLZ
    · subst hp; rw [State.get_recordErr_code]; exact hc rfl
    · rwa [State.get_recordErr_code_ne hp]

/-- Engine 0 is free and shows NO_RESPONSE. -/
def noResponseWatch : Watch where
  on s := (s.eng 0).user = none ∧ s.get pPRT (PRT.ENG_STAT_FSTATUS 0) = fsNO_RESPONSE
  keys := [pPRT * 256 + 32]
  watched := by decide
  same hr he _ _ h := by rwa [get_of_regs hr, eng_of_engs he]
  agenda _ h := h
  put {s p f} x hk h := ⟨h.1, by rw [State.get_put_reg _ (fun e => hk (by simp [← e, PRT.ENG_STAT_FSTATUS]))]; exact h.2⟩
  number {s} r n h := by
    refine ⟨by rw [eng_of_engs (s.numberAs_parts r n).1]; exact h.1, ?_⟩
    rw [(State.numberAs_only (K := noKeys) s r n).get (by decide) (by decide) rfl]; exact h.2
  error {s p c} _ h := by
    refine ⟨by rw [eng_of_engs (s.recordErr_parts p c).1]; exact h.1, ?_⟩
    rw [(State.recordErr_only (K := fun _ o => o == 8) s p c (.inr rfl)).get (by decide) (by decide) rfl]; exact h.2

/-- One watch or the other holds. -/
def Watch.or (P Q : Watch) : Watch where
  on s := P.on s ∨ Q.on s
  keys := P.keys ++ Q.keys
  watched := List.append_subset.2 ⟨P.watched, Q.watched⟩
  same hr he hf ha h := h.imp (P.same hr he hf ha) (Q.same hr he hf ha)
  agenda ha h := h.imp (P.agenda ha) (Q.agenda ha)
  put x hk h := h.imp (P.put x fun g => hk (List.mem_append_left _ g)) (Q.put x fun g => hk (List.mem_append_right _ g))
  number r n h := h.imp (P.number r n) (Q.number r n)
  error hc h := h.imp (P.error hc) (Q.error hc)

/-- The count of a memory error is one of MEM's errors. -/
theorem countEcc_counts (s : State) (addr kind syn : Nat) (scrub : Bool) :
    (s.countEcc addr kind syn scrub).get pMEM COM.ERR_COUNT ≠ 0 := by
  have hfault (t : State) (bit c : Nat) (i : FaultInfo) : memErrorWatch.on (t.setFault pMEM bit c i) := by
    have hr : memErrorWatch.on (t.recordErr pMEM c) := t.recordErr_counts c
    unfold State.setFault; simp +decide [hr]
  have herr (t : State) (c : Nat) : memErrorWatch.on (t.recordErr pMEM c) := t.recordErr_counts c
  change memErrorWatch.on _
  unfold State.countEcc; extract_lets same old rep s1 s2 s3 s4 b sp sr sc s5
  have h5 : memErrorWatch.on s5 := by unfold s5; simp [hfault, herr]
  simp [hfault, h5]

/-- MEM has counted an error, or the code of BLZ is not 0x04: a stray count of a bank that reaches the code is counted by MEM. -/
def clearCodeWatch : EngWatch where
  toWatch := memErrorWatch.or blzCodeWatch
  stat := by decide
  ecc addr kind syn scrub _ := .inl (countEcc_counts _ addr kind syn scrub)
  eng _ _ _ h := h

/-! ## The ends of a Wing's work -/

/-- The end of an engine's work frees it. -/
theorem engEnd_frees {w : Nat} (hw : w < 8) (s : State) (st : Nat) : (freeWatch w).on (s.engEnd w st) := by
  unfold State.engEnd; extract_lets u t t1 t2
  have h1 : (freeWatch w).on t1 := by
    change ((t.engs.set w _).getD w Eng.reset).user = none
    rw [List.getD_eq_getElem?_getD, List.getElem?_set_self']
    cases t.engs[w]? <;> rfl
  have h2 : (freeWatch w).on t2 := by unfold t2; simp [h1, hw]
  clear_value u
  cases u with
  | none => exact h2
  | some c => simp [h2]

/-- An end of the work of an engine frees it. -/
theorem breakWing_frees {w : Nat} (hw : w < 8) (hu : (s.eng w).user ≠ none) (st : Nat) (mark : Option Nat) :
    (freeWatch w).on (s.breakWing w st mark) := by
  have hd (t : State) (q : SealSt) (r x : Nat) : (freeWatch w).on (t.sealDone w q r x) := by
    unfold State.sealDone; simp [engEnd_frees hw]
  have hl (t : State) (job : Nat) (ok : Bool) : (freeWatch w).on (t.legacyReply w job ok) := by
    unfold State.legacyReply; simp [engEnd_frees hw]
  unfold State.breakWing; dsimp only
  rw [if_pos (Option.isSome_iff_ne_none.2 hu)]
  split <;> simp [hd, hl, engEnd_frees hw]

/-! ## Watches through the end of a happening -/

/-- One watch or the other holds. -/
def EngWatch.or (P Q : EngWatch) : EngWatch where
  toWatch := P.toWatch.or Q.toWatch
  stat h := (List.mem_append.1 h).elim P.stat Q.stat
  ecc addr kind syn scrub h := h.imp (P.ecc addr kind syn scrub) (Q.ecc addr kind syn scrub)
  eng w _ hf h := h.imp (P.eng w hf) (Q.eng w hf)

/-- A disturbed Board, or one of a watch. -/
def EngWatch.orDisturbed (P : EngWatch) : EndWatch where
  toWatch := (disturbedWatch.or P).toWatch
  recorded h := .inl (.inl h)
  resign h := .inl (.inr ⟨_, h⟩)
  breakWing w st mark hl h := (disturbedWatch.or P).on_breakWing hl w st mark h

/-- One of the engines 1 to 7 is free. -/
def otherFreeWatch : EngWatch :=
  EngWatch.ofParts (Watch.ofParts (fun s => ∃ k, 1 ≤ k ∧ k < 8 ∧ (s.eng k).user = none)
      fun he _ _ ⟨k, h1, h8, h⟩ => ⟨k, h1, h8, by rwa [eng_of_engs he]⟩) rfl
    fun w _ hf ⟨k, h1, h8, h⟩ => ⟨k, h1, h8, (freeWatch k).eng w hf h⟩

/-- A disturbed Board, one of the engines 1 to 7 free, or engine 0 free with NO_RESPONSE shown: the end of a Wing's work frees the engine
that does it, and engine 0 does none. -/
def noResponseEnd : EndWatch where
  toWatch := (disturbedWatch.or otherFreeWatch).toWatch.or noResponseWatch
  recorded h := .inl (.inl (.inl h))
  resign h := .inl (.inl (.inr ⟨_, h⟩))
  breakWing {s} w st mark hl h := by
    obtain h | h := h
    · exact .inl ((disturbedWatch.or otherFreeWatch).on_breakWing hl w st mark h)
    · by_cases hu : (s.eng w).user = none
      · rw [breakWing_of_free hu]; exact .inr h
      · have hw : w < 8 := by_contra fun hw => hu (eng_free_of_length hl hw)
        have h0 : w ≠ 0 := fun e => hu (e ▸ h.1)
        exact .inl (.inr ⟨w, by omega, hw, breakWing_frees hw hu st mark⟩)

end Sys2Proof.Machine
end

section
/-! SUPPORT. `State.settle` read backwards where the Board is left undisturbed. -/

namespace Sys2Proof.Machine
open Sys2Proof

variable {s t : State} {W : EndWatch}

/-- A disturbance stays through everything that happens at once. -/
def disturbedEnd : EndWatch where
  toWatch := disturbedWatch.toWatch
  recorded h := .inl h
  resign h := .inr ⟨_, h⟩
  breakWing w st mark hl h := disturbedWatch.on_breakWing hl w st mark h

theorem gauge_takeResign_of (h : ¬ s.takeResign.disturbed) : s.takeResign.gauge false = s.gauge false := by
  have hr (t : State) (c : Nat) : (t.beginResign c).disturbed := .inr (beginResign_agenda t c)
  unfold State.takeResign at h ⊢; dsimp only at h ⊢
  split
  · rfl
  · rename_i h0
    rw [if_neg h0] at h
    split
    · rfl
    · rename_i h1
      rw [if_neg h1] at h
      exact absurd (hr _ _) h

/-- Where what happens at once leaves eight engines and no Wing in inventory, undisturbed, it began with them. -/
theorem outlined_of_settle (he : (s.settle t).outlined) (hd : ¬ (s.settle t).disturbed) : t.outlined := by
  unfold State.settle at he hd; extract_lets s1 s2 s3 at he
  change ¬ (s.autoIrqWord s3).disturbed at hd
  have g1 : s1.gauge false = t.gauge false := by
    unfold s1; rw [gauge_invSettleAll, gauge_takeReports, gauge_takeEnds, gauge_releaseRx16, gauge_releaseTx8]
  have g2 : s2.gauge false = s1.gauge false := by
    unfold s2
    rw [gauge_scoSettle, gauge_takeEnds, gauge_releaseRx16, gauge_releaseTx8, gauge_calSettle_of (gauge_invCut ..)]
  have gx : s2.pwrSettle.takeReports.xmpInjSettle.gauge false = s2.gauge false := by
    rw [gauge_xmpInjSettle, gauge_takeReports, gauge_pwrSettle]
  have gr : s2.pwrSettle.takeReports.xmpInjSettle.takeResign.outlined :=
    he.of_eq (by unfold s3; rw [gauge_autoIrqWord, gauge_takeReports, gauge_takeEnds])
  have hr : ¬ s2.pwrSettle.takeReports.xmpInjSettle.takeResign.disturbed := fun h =>
    hd ((disturbedEnd.on_autoIrqWord s s3).2 (.inl (disturbedEnd.on_takeReports (disturbedEnd.on_takeEnds 8 gr h))))
  exact gr.of_eq (by rw [gauge_takeResign_of hr, gx, g2, g1])

/-- What is watched is kept by what follows a happening that leaves the Board undisturbed. -/
theorem EndWatch.on_finish (he : (s.finish t).outlined) (hd : ¬ (s.finish t).disturbed) (h : W.on t) : W.on (s.finish t) := by
  have ht : t.outlined := outlined_of_settle (s := s) he hd
  exact W.same (s := s.settle t) rfl rfl rfl rfl (W.on_settle ht he h)

theorem not_disturbed_of (hr : s.flt.recorded = []) (ha : s.agenda.all (fun e => e.2 != .resignRampEnd) = true) : ¬ s.disturbed := by
  rintro (h | ⟨d, hd⟩)
  · exact h hr
  · simpa using List.all_eq_true.1 ha _ hd

end Sys2Proof.Machine
end

section
/-! SUPPORT. Replies and the end of a wait (R160, R164): a stray result address. -/

namespace Sys2Proof.Machine
open Sys2Proof

/-- The Board running, undisturbed, without inventory Wings. -/
def strayBoard : State :=
  { State.reset with
    pwr := { State.reset.pwr with core := true, cclk := true }, now := 1, agenda := [],
    inv := { State.reset.inv with wings := [] },
    ctxs := { Ctx.reset with move := some .angEnable } :: List.replicate 11 Ctx.reset }

/-- Engine 0 at the end of a wait, its record to be written so far beyond the memory that the bank's count of poisoned words is ENG_STAT of
engine 0: two words of the line that it begins in cannot be corrected, so that the first write poisons one. The other engines are busy,
so that an end of a Wing's work shows (`noResponseEnd`); FAULT of MEM is set, so that no report is made. -/
def strayRecord : State :=
  let s : State := { strayBoard with
    sram := [(8 * (65536 * 23296) + 5, 3#8), (8 * (65536 * 23296 + 3) + 5, 3#8)],
    engs := { Eng.reset with
      user := some 0, await := 1, waitAt := some 0, prog := .exchange, dest := some (65536 * 23296) } ::
        List.replicate 7 { Eng.reset with user := some 1 } }
  ((s.put pDEV DEV.STATUS_MODE 0).put pMEM COM.FAULT 24).setRun 0 4

/-- `strayRecord` after the wait ended. -/
def strayRecordEnd : State := strayRecord.finish (effReplyWaitEnd 0 strayRecord)

theorem strayRecordEnd_outlined : strayRecordEnd.outlined := by
  rw [outlined_iff]; decide +kernel

theorem strayRecordEnd_undisturbed : ¬ strayRecordEnd.disturbed := not_disturbed_of (by decide +kernel) (by decide +kernel)

theorem strayRecordEnd_busy : ∀ k < 8, 1 ≤ k → (strayRecordEnd.eng k).user ≠ none := by decide +kernel

theorem strayRecordEnd_status : strayRecordEnd.get pPRT (PRT.ENG_STAT_FSTATUS 0) ≠ fsNO_RESPONSE := by decide +kernel

theorem strayRecordEnd_off : ¬ noResponseEnd.on strayRecordEnd := by
  rintro ((h | ⟨k, h1, h8, h⟩) | ⟨-, h⟩)
  · exact strayRecordEnd_undisturbed h
  · exact strayRecordEnd_busy k h8 h1 h
  · exact strayRecordEnd_status h

theorem exec_replyWaitEnd (w : Nat) (s : State) : exec (.replyWaitEnd w) s = .next (s.finish (effReplyWaitEnd w s)) := rfl

/-- Refutes O17: its second clause leaves free where the record of the exchange is written. In `strayRecord` a word poisoned by the write is
counted in ENG_STAT of the engine, which shows a status of 3 where the wait ended with NO_RESPONSE, 2. -/
theorem not_repliesEndExchanges : ¬ Obligations.RepliesEndExchanges := by
  unfold Obligations.RepliesEndExchanges
  rintro ⟨-, h, -⟩
  obtain ⟨u, he, ⟨hstat, hfree, -⟩, -⟩ := h strayRecord 0 0 (by decide +kernel) (by decide) (by decide +kernel) (by decide +kernel)
    (by decide +kernel) (by decide +kernel) (by decide +kernel) (by decide +kernel) (by decide) (by decide +kernel) (by decide +kernel)
    (by decide +kernel) (by decide +kernel) (by decide +kernel) (by decide +kernel)
  rw [exec_replyWaitEnd, Host.Outcome.next.injEq] at he
  have ho := strayRecordEnd_outlined
  have hd := strayRecordEnd_undisturbed
  have hoff := strayRecordEnd_off
  unfold strayRecordEnd at ho hd hoff
  rw [he] at ho hd hoff
  exact hoff (EndWatch.on_finish ho hd (.inr ⟨hfree, hstat⟩))

end Sys2Proof.Machine
end

section
/-! SUPPORT. Blitz headers (R192): a stray chain. -/

namespace Sys2Proof.Machine
open Sys2Proof

/-- Lane 0 receives a frame, its mark set for clipping, on a chain of a number so far beyond the chains that its page is that of BLZ. -/
def strayChain : State :=
  let s : State := { strayBoard with
    rxc := State.reset.rxc ++ List.replicate 50 Rxc.reset ++ [{ Rxc.reset with begun := true, mark := 1 }],
    engs := { Eng.reset with user := some 0, chain := 67, await := 2, prog := .blitz } :: List.replicate 7 Eng.reset }
  ((s.put pDEV DEV.STATUS_MODE 0).setRxState 67 3).setRun 0 4

/-- Samples without a signal: the header decided from them is not good. -/
def emptySamples : List Nat := List.replicate 320 0

/-- `strayChain` after the header. -/
def strayChainEnd : State := strayChain.finish (effBlitzHeader 0 emptySamples strayChain)

theorem strayChainEnd_outlined : strayChainEnd.outlined := by
  rw [outlined_iff]; decide +kernel

theorem strayChainEnd_undisturbed : ¬ strayChainEnd.disturbed := not_disturbed_of (by decide +kernel) (by decide +kernel)

theorem strayChainEnd_count : strayChainEnd.get pMEM COM.ERR_COUNT = 0 := by decide +kernel

theorem strayChainEnd_code : strayChainEnd.get pBLZ COM.LAST_ERR_CODE = 4 := by decide +kernel

theorem strayChainEnd_off : ¬ clearCodeWatch.orDisturbed.on strayChainEnd := by
  rintro (h | h | h)
  · exact strayChainEnd_undisturbed h
  · exact h strayChainEnd_count
  · exact h strayChainEnd_code

theorem exec_blitzHeader (w : Nat) (l : List Nat) (s : State) : exec (.blitzHeader w l) s = .next (s.finish (effBlitzHeader w l s)) := rfl

/-- Refutes O19: its first clause bounds the lane and leaves the number of its chain free. In `strayChain` the clipped frame is recorded
on the page of BLZ after the header that is not good: LAST_ERR shows code 0x04, where the clause asks for 0x02. -/
theorem not_blitzHeadersAndEngineFaults : ¬ Obligations.BlitzHeadersAndEngineFaults := by
  unfold Obligations.BlitzHeadersAndEngineFaults
  rintro ⟨h, -, -, -, -⟩
  obtain ⟨u, he, ⟨-, -, hcode, -⟩, -⟩ := h strayChain 0 emptySamples 0 (by decide +kernel) (by decide) (by decide +kernel)
    (by decide +kernel) (by decide +kernel) (by decide +kernel) (by decide +kernel) (by decide +kernel) (by decide +kernel)
    (by decide +kernel) (by decide) (by decide +kernel) (by decide +kernel) (by decide +kernel) (by decide +kernel) (by decide +kernel)
    (by decide +kernel)
  rw [exec_blitzHeader, Host.Outcome.next.injEq] at he
  have ho := strayChainEnd_outlined
  have hd := strayChainEnd_undisturbed
  have hoff := strayChainEnd_off
  unfold strayChainEnd at ho hd hoff
  rw [he] at ho hd hoff
  exact hoff (EndWatch.on_finish ho hd (.inr (.inr fun h4 => absurd (hcode.symm.trans h4) (by decide))))

end Sys2Proof.Machine
end

section
/-! SUPPORT. Registers that what happens at once leaves as they are on a quiet Board: the shared operations. -/

namespace Sys2Proof.Machine
open Sys2Proof

/-- The offsets at which what happens at once writes registers of any page on a quiet Board: CTRL, STATUS, READY, FLAG, ERR_COUNT, CFG of
the serving chains, owners and claims of Wings, GAIN, OP of flash, the Scoresheet's queue and counts, ATUNE_RESULT, RAIL_STAT. -/
def settledOffs : List Nat := [1, 2, 3, 4, 8, 0x10, 0x11, 0x12, 0x13, 0x16, 0x18, 0x19, 0x1B, 0x1D, 0x1E, 0x1F, 0x20, 0x23, 0x33, 0x43]

/-- A register at another offset that no number or event reaches; of HPT, whose RPT_STAT counts interrupt words, none. -/
def idleKey (q o : Nat) : Bool := decide (o < 256) && !settledOffs.contains o && !numKey q o && q != pHPT

/-- The idle registers, with 0 for the others. -/
def State.idle (s : State) (q o : Nat) : Word := if idleKey q o then s.reg q o else 0

variable {s t : State}

theorem idleKey_iff {q o : Nat} : idleKey q o = true ↔ o < 256 ∧ o ∉ settledOffs ∧ numKey q o = false ∧ q ≠ pHPT := by
  simp [idleKey, and_assoc]

theorem idle_of_reg (h : ∀ q o, idleKey q o = true → t.reg q o = s.reg q o) : t.idle = s.idle := by
  funext q o
  unfold State.idle; split
  · exact h q o ‹_›
  · rfl

theorem reg_of_idle {q o : Nat} (hk : idleKey q o = true) (h : t.idle = s.idle) : t.reg q o = s.reg q o := by
  simpa [State.idle, hk] using congrFun (congrFun h q) o

theorem settledOffs_small : ∀ o ∈ settledOffs, o < 256 := by decide

@[simp] theorem idle_put {f : Fld} (h : f.off ∈ settledOffs) (s : State) (p x : Nat) : (s.put p f x).idle = s.idle :=
  idle_of_reg fun q o hk => by
    obtain ⟨ho, hset, -, -⟩ := idleKey_iff.1 hk
    have hne : o ≠ f.off := fun e => hset (e ▸ h)
    have hf : f.off < 256 := settledOffs_small _ h
    exact State.reg_put_ne s (by omega) x

theorem idle_put_hpt {f : Fld} (h : f.off < 256) (s : State) (x : Nat) : (s.put pHPT f x).idle = s.idle :=
  idle_of_reg fun q o hk => by
    obtain ⟨ho, -, -, hq⟩ := idleKey_iff.1 hk
    exact State.reg_put_ne s (by omega) x

@[simp] theorem idle_putB {f : Fld} (h : f.off ∈ settledOffs) (s : State) (p : Nat) (b : Bool) : (s.putB p f b).idle = s.idle :=
  idle_put h s p _

@[simp] theorem idle_putBit {f : Fld} (h : f.off ∈ settledOffs) (s : State) (p i : Nat) (b : Bool) : (s.putBit p f i b).idle = s.idle :=
  idle_put (f := ⟨f.off, f.lo + i, f.lo + i⟩) h s p _

@[simp] theorem idle_inc {f : Fld} (h : f.off ∈ settledOffs) (s : State) (p : Nat) : (s.inc p f).idle = s.idle := idle_put h s p _

@[simp] theorem idle_flag {f : Fld} (h : f.off ∈ settledOffs) (s : State) (p i : Nat) : (s.flag p f i).idle = s.idle :=
  idle_putBit h s p i true

@[simp] theorem idle_putHw {f : Fld} (h : f.off ∈ settledOffs) (s : State) (p x : Nat) : (s.putHw p f x).idle = s.idle := by
  unfold State.putHw; split
  · rfl
  · exact idle_put h s p x

@[simp] theorem idle_ite (c : Prop) [Decidable c] (x y : State) : (if c then x else y).idle = if c then x.idle else y.idle :=
  apply_ite _ c x y

@[simp] theorem idle_when (s : State) (c : Bool) (f : State → State) : (s.when c f).idle = if c then (f s).idle else s.idle :=
  apply_ite _ _ _ _

@[simp] theorem idle_forEach {α : Type} {f : State → α → State} (hf : ∀ t a, (f t a).idle = t.idle) (s : State) (l : List α) :
    (s.forEach l f).idle = s.idle :=
  State.forEach_inv (fun u => u.idle = s.idle) l f (fun t a _ h => (hf t a).trans h) s rfl

theorem idle_only {K : Nat → Nat → Bool} (hk : ∀ q o, idleKey q o = true → K q o = false) (h : Only K s t) : t.idle = s.idle :=
  idle_of_reg fun q o hi =>
    have ⟨ho, _, hn, _⟩ := idleKey_iff.1 hi
    h.reg q o ho hn (hk q o hi)

@[simp] theorem idle_numberAs (s : State) (r n : Nat) : (s.numberAs r n).2.idle = s.idle :=
  idle_only (K := noKeys) (fun _ _ _ => rfl) (State.numberAs_only s r n)

@[simp] theorem idle_recordErr (s : State) (p c : Nat) : (s.recordErr p c).idle = s.idle :=
  idle_only (K := fun _ o => o == 8)
    (fun _ _ hi => beq_eq_false_iff_ne.2 fun e => (idleKey_iff.1 hi).2.1 (e ▸ by decide)) (State.recordErr_only s p c (.inr rfl))

@[simp] theorem idle_sched (s : State) (d : Nat) (c : Instr) : (s.sched d c).idle = s.idle := rfl
@[simp] theorem idle_unsched (s : State) (c : Instr) : (s.unsched c).idle = s.idle := rfl
@[simp] theorem idle_resched (s : State) (d : Nat) (c : Instr) : (s.resched d c).idle = s.idle := rfl
@[simp] theorem idle_untimer (s : State) (x : Tm) : (s.untimer x).idle = s.idle := rfl
@[simp] theorem idle_retimer (s : State) (d : Nat) (x : Tm) : (s.retimer d x).idle = s.idle := rfl
@[simp] theorem idle_mirrorTake (s : State) (k : Nat) (m : Word) : (s.mirrorTake k m).idle = s.idle := rfl
@[simp] theorem idle_withTx (s : State) (n : Nat) (f : Txc → Txc) : (s.withTx n f).idle = s.idle := rfl
@[simp] theorem idle_withRx (s : State) (n : Nat) (f : Rxc → Rxc) : (s.withRx n f).idle = s.idle := rfl
@[simp] theorem idle_withCtx (s : State) (n : Nat) (f : Ctx → Ctx) : (s.withCtx n f).idle = s.idle := rfl
@[simp] theorem idle_withPwr (s : State) (f : Pwr → Pwr) : (s.withPwr f).idle = s.idle := rfl
@[simp] theorem idle_withRail (s : State) (r : Nat) (f : Rail → Rail) : (s.withRail r f).idle = s.idle := rfl
@[simp] theorem idle_withXmp (s : State) (f : Xmp → Xmp) : (s.withXmp f).idle = s.idle := rfl
@[simp] theorem idle_withSco (s : State) (f : Sco → Sco) : (s.withSco f).idle = s.idle := rfl
@[simp] theorem idle_withCal (s : State) (f : Cal → Cal) : (s.withCal f).idle = s.idle := rfl

end Sys2Proof.Machine
end

section
/-! SUPPORT. Idle registers through Wing claims, taps, rails and the ends of moves. -/

namespace Sys2Proof.Machine
open Sys2Proof

theorem claims_settled {c : Nat} (h : c < 4) : (CND.CTX_STATE_CLAIMS c).off ∈ settledOffs := by
  interval_cases c <;> decide

theorem railStat_settled {r : Nat} (h : r < 4) : (PWR.RAIL_STAT_STATE r).off ∈ settledOffs := by
  interval_cases r <;> decide

@[simp] theorem idle_releaseWing (s : State) (w : Nat) : (s.releaseWing w).idle = s.idle := by
  have hclaim (t : State) (p c : Nat) (b : Bool) : (t.putBit p (CND.CTX_STATE_CLAIMS (c % 4)) w b).idle = t.idle :=
    idle_putBit (claims_settled (Nat.mod_lt _ (by decide))) t p w b
  have howner (t : State) (x : Nat) : (t.put pCND0 (ownerFld w) x).idle = t.idle := idle_put (by change 0x11 ∈ settledOffs; decide) ..
  unfold State.releaseWing State.setOwner; simp [hclaim, howner]

@[simp] theorem idle_selectTap (s : State) (n p : Nat) : (s.selectTap n p).idle = s.idle := by
  unfold State.selectTap State.rxPutHw; simp +decide

@[simp] theorem idle_retap (s : State) (n : Nat) : (s.retap n).idle = s.idle := by
  unfold State.retap; split
  · rfl
  · split <;> simp

@[simp] theorem idle_retapWing (s : State) (w : Nat) : (s.retapWing w).idle = s.idle := by
  unfold State.retapWing; simp

@[simp] theorem idle_setField (s : State) (n st : Nat) : (s.setField n st).idle = s.idle := idle_put (by decide) ..

@[simp] theorem idle_rampDown (s : State) (n st : Nat) : (s.rampDown n st).idle = s.idle := by
  unfold State.rampDown; simp

@[simp] theorem idle_openSwitch (s : State) (n : Nat) : (s.openSwitch n).idle = s.idle := by
  unfold State.openSwitch; split <;> simp

@[simp] theorem idle_addJob (s : State) (j : Job) : (s.addJob j).idle = s.idle := by
  have hserve (t : State) : t.serveJob.idle = t.idle := by unfold State.serveJob; split <;> simp
  unfold State.addJob; simp [hserve]

/-- A rail asked for another voltage, its state and attempts shown on PWR's page. -/
theorem idle_railAsked {r : Nat} (hr : r < 4) (s : State) (mv prio op : Nat) :
    (s.railUp r mv prio).idle = s.idle ∧ (s.railChange r mv op).idle = s.idle := by
  have hstat := railStat_settled hr
  have htries : (PWR.RAIL_STAT_TRIES r).off ∈ settledOffs := hstat
  unfold State.railUp State.railChange State.dropJobs; simp [hstat, htries]

theorem idle_followRail (s : State) {r : Nat} (hr : r < 4) : (s.followRail r).idle = s.idle := by
  unfold State.followRail; split
  · rfl
  · dsimp only; split
    · split
      · exact (idle_railAsked hr _ _ _ 0).1
      · split
        · rename_i t ht
          unfold State.raiseInUp at ht; split at ht
          · cases ht
          · cases ht; rfl
        · exact (idle_railAsked hr _ _ 0 _).2
    · simp

@[simp] theorem idle_followRails (s : State) : s.followRails.idle = s.idle :=
  (idle_followRail _ (by decide)).trans (idle_followRail s (by decide))

@[simp] theorem idle_armNow (s : State) (n : Nat) : (s.armNow n).idle = s.idle := by
  have hswitch (t : State) (p : Nat) : (t.setSwitch n p).idle = t.idle := by unfold State.setSwitch; simp +decide
  unfold State.armNow; simp [hswitch]

@[simp] theorem idle_wakeChains (s : State) : s.wakeChains.idle = s.idle := by
  unfold State.wakeChains; simp

@[simp] theorem idle_endMove (s : State) (c status : Nat) : (s.endMove c status).idle = s.idle := by
  have hshow (t : State) : (t.tuneShow c status).idle = t.idle := by unfold State.tuneShow; split <;> simp +decide
  unfold State.endMove; split
  · rfl
  · simp [hshow]

theorem idle_dropArmed (s : State) (n st : Nat) : (s.dropArmed n st).idle = s.idle := by
  have hfor (t : State) (c : Option Nat) : (t.endFor c st).idle = t.idle := by unfold State.endFor; split <;> simp
  have hheld (t : State) : (t.takeHeld n).idle = t.idle := by unfold State.takeHeld; split <;> simp
  have htune (t : State) : (t.tuneEnd n st).idle = t.idle := by unfold State.tuneEnd; simp +decide [hfor, hheld]
  unfold State.dropArmed; simp +decide [hfor, htune]

theorem idle_releases (s : State) : s.releaseTx8.releaseRx16.idle = s.idle := by
  have hact (t : State) (a b : Nat) : (t.moveAct a b).idle = t.idle := by unfold State.moveAct; simp +decide
  unfold State.releaseRx16 State.releaseTx8; simp +decide [hact]

end Sys2Proof.Machine
end

section
/-! SUPPORT. Idle registers through flash, Scoresheet, calibration, power modes and the report queue, and through `State.settle` read
backwards. -/

namespace Sys2Proof.Machine
open Sys2Proof

@[simp] theorem idle_xmpShow (s : State) : s.xmpShow.idle = s.idle := by
  unfold State.xmpShow; dsimp only; split <;> simp +decide

@[simp] theorem idle_xmpPost (s : State) (owner off : Nat) (bytes : List Nat) : (s.xmpPost owner off bytes).2.idle = s.idle := by
  unfold State.xmpPost State.xmpStart State.xmpRange; split
  · simp +decide
  · dsimp only; split <;> simp +decide

@[simp] theorem idle_xmpEraseQ (s : State) (t off owner : Nat) : (s.xmpEraseQ t off owner).2.idle = s.idle := by
  unfold State.xmpEraseQ State.xmpStart State.xmpRange; dsimp only; split
  · simp +decide
  · split <;> simp +decide

theorem idle_xmpDiscard (s : State) : s.xmpDiscard.idle = s.idle := by
  have hdone (t : State) (owner : Nat) : (t.xmpOwnerDone owner).idle = t.idle := by unfold State.xmpOwnerDone; simp
  unfold State.xmpDiscard; extract_lets l s1 s2 s3 s4
  have h2 : s2.idle = s1.idle := idle_forEach (fun t _ => by simp +decide) s1 l
  have h3 : s3.idle = s2.idle := idle_forEach (fun t _ => by simp [hdone]) s2 _
  have h4 : s4.idle = s3.idle := idle_forEach (fun t _ => idle_sched t ..) s3 _
  rw [idle_xmpShow, h4, h3, h2]; rfl

@[simp] theorem idle_scoLose (s : State) : s.scoLose.idle = s.idle := idle_inc (by decide) ..

@[simp] theorem idle_scoPush (s : State) (kind arbseq : Nat) (inj : Bool) (payload : List Nat) :
    (s.scoPush kind arbseq inj payload).idle = s.idle := idle_put (by decide) ..

@[simp] theorem idle_scoRecord (s : State) (kind arbseq : Nat) (payload : List Nat) (inj : Bool) :
    (s.scoRecord kind arbseq payload inj).idle = s.idle := by
  unfold State.scoRecord State.scoDrop; simp +decide

@[simp] theorem idle_scoShow (s : State) : s.scoShow.idle = s.idle := by
  unfold State.scoShow; simp +decide

@[simp] theorem idle_scoLostRecord (s : State) : s.scoLostRecord.idle = s.idle := by
  unfold State.scoLostRecord; simp +decide

@[simp] theorem idle_scoRefuse (s : State) : s.scoRefuse.idle = s.idle := by
  have hdiscard (t : State) : t.scoDiscard.idle = t.idle := by
    unfold State.scoDiscard
    exact (idle_put (by decide) ..).trans (idle_forEach (fun u _ => idle_scoLose u) t _)
  unfold State.scoRefuse; simp +decide [hdiscard]

@[simp] theorem idle_scoTest (s : State) : s.scoTest.idle = s.idle := by
  unfold State.scoTest; simp +decide

@[simp] theorem idle_scoAdvance (s : State) : s.scoAdvance.idle = s.idle := by
  unfold State.scoAdvance State.scoEraseSector; dsimp only; split <;> simp

@[simp] theorem idle_scoProgram (s : State) : s.scoProgram.idle = s.idle := by
  have hbegun (x : Bool × State) : (if x.1 then (x.2.withSco fun y => { y with op := 1 }).scoShow else x.2).idle = x.2.idle := by
    split <;> simp
  unfold State.scoProgram; split
  · exact (hbegun _).trans (idle_xmpPost ..)
  · rfl

theorem idle_scoSettle (s : State) : s.scoSettle.idle = s.idle := by
  unfold State.scoSettle; simp

@[simp] theorem idle_calOver (s : State) : s.calOver.idle = s.idle := by
  have hshow (t : State) : t.calShow.idle = t.idle := by unfold State.calShow; simp +decide
  unfold State.calOver; simp +decide [hshow]; rfl

/-- Without inventory Wings calibration cuts no round. -/
theorem idle_calSettle {s : State} (hi : s.inv.wings = []) : s.calSettle.idle = s.idle := by
  have hoff (w hop : Nat) : (s.fieldOffNow w hop).idle = s.idle := by
    unfold State.fieldOffNow; simp [invCut_of_none hi, idle_dropArmed]
  have hlevel (t : State) : (t.forEach (List.range 9) fun s n => s.withTx n fun t => { t with level := 0 }).idle = t.idle :=
    idle_forEach (fun t n => idle_withTx t n _) t _
  have hxb (t : State) : t.xbOver.idle = t.idle := by unfold State.xbOver State.rxRest; simp +decide
  unfold State.calSettle State.simulAt; simp +decide [hoff, hlevel, hxb]

theorem idle_xmpInjSettle (s : State) : s.xmpInjSettle.idle = s.idle := by
  unfold State.xmpInjSettle; split <;> rfl

theorem idle_pwrSettle (s : State) : s.pwrSettle.idle = s.idle := by
  have hentry (t : State) : t.entrySettle.idle = t.idle := by unfold State.entrySettle; simp [idle_xmpDiscard]
  have href (t : State) : t.refSwitch.idle = t.idle := by unfold State.refSwitch State.synStart; simp +decide
  have hsyn (t : State) : t.synStop.idle = t.idle := by unfold State.synStop; simp +decide
  have hmode (t : State) : t.giveModeRec.idle = t.idle := by unfold State.giveModeRec; split <;> simp
  unfold State.pwrSettle; rw [hmode, hsyn, href, hentry, hentry, hentry]

theorem idle_autoIrqWord (s t : State) : (s.autoIrqWord t).idle = t.idle := by
  have hput (w : Nat) : (t.rptAppend w).idle = t.idle := by
    unfold State.rptAppend; split
    · simp +decide [State.inc, idle_put_hpt]
    · exact idle_put_hpt (by decide) ..
  unfold State.autoIrqWord; split
  · exact hput _
  · rfl

variable {c : Nat} {s : State}

theorem State.Quiet.idle_takeEnds {n : Nat} (h : (State.takeEnds n s).Quiet c) : (State.takeEnds n s).idle = s.idle := by
  obtain ⟨l, e⟩ := h.takeEnds_eq
  rw [e]; rfl

theorem State.Quiet.idle_takeReports (h : s.takeReports.Quiet c) : s.takeReports.idle = s.idle := by
  rw [h.takeReports_eq]; rfl

theorem State.idle_takeResign (ha : ∀ d, (d, Instr.resignRampEnd) ∉ s.takeResign.agenda) : s.takeResign.idle = s.idle := by
  unfold State.takeResign at ha ⊢; dsimp only at ha ⊢
  split
  · rfl
  · rename_i h0
    rw [if_neg h0] at ha
    split
    · rfl
    · rename_i hr
      rw [if_neg hr] at ha
      obtain ⟨d, hd⟩ := beginResign_agenda _ s.flt.request
      exact absurd hd (ha d)

/-- Where what happens at once leaves the Board quiet and no Resign begun, it leaves the idle registers as they were. -/
theorem State.Quiet.idle_finish {u : State} (h : (s.finish u).Quiet c)
    (ha : ∀ d, (d, Instr.resignRampEnd) ∉ (s.finish u).agenda) : (s.finish u).idle = u.idle := by
  change (s.settle u).Quiet c at h
  change ∀ d, (d, Instr.resignRampEnd) ∉ (s.settle u).agenda at ha
  change (s.settle u).idle = u.idle
  unfold State.settle at h ha ⊢; dsimp only at ha ⊢; extract_lets s1 s2 s3 at h
  rw [autoIrqWord_agenda] at ha
  have h3 : s3.Quiet c := h.of_gauge (gauge_autoIrqWord ..)
  have hEnds := h3.of_takeReports
  obtain ⟨l, e⟩ := hEnds.takeEnds_eq
  rw [h3.takeReports_eq, e] at ha
  have hReports : s2.pwrSettle.takeReports.Quiet c := (hEnds.of_takeEnds.of_takeResign ha).of_gauge (gauge_xmpInjSettle _)
  have hEnds2 := (hReports.of_takeReports.of_gauge (gauge_pwrSettle _)).of_gauge (gauge_scoSettle _)
  have h1 : s1.Quiet c := hEnds2.of_takeEnds.of_releases.of_calSettle
  have hReports1 := h1.of_gauge (gauge_invSettleAll _)
  have hwings (t : State) (ht : t.Quiet c) : t.inv.wings = [] := (quiet_iff.mp ht).2.1
  calc (s.autoIrqWord s3).idle
      = s3.idle := idle_autoIrqWord s s3
    _ = (State.takeEnds 8 s2.pwrSettle.takeReports.xmpInjSettle.takeResign).idle := h3.idle_takeReports
    _ = s2.pwrSettle.takeReports.xmpInjSettle.takeResign.idle := hEnds.idle_takeEnds
    _ = s2.pwrSettle.takeReports.xmpInjSettle.idle := State.idle_takeResign ha
    _ = s2.pwrSettle.takeReports.idle := idle_xmpInjSettle _
    _ = s2.pwrSettle.idle := hReports.idle_takeReports
    _ = (State.takeEnds 8 s1.calSettle.releaseTx8.releaseRx16).idle := (idle_pwrSettle _).trans (idle_scoSettle _)
    _ = s1.calSettle.releaseTx8.releaseRx16.idle := hEnds2.idle_takeEnds
    _ = s1.idle := (idle_releases _).trans (idle_calSettle (hwings s1 h1))
    _ = (State.takeEnds 8 u.releaseTx8.releaseRx16).takeReports.idle := congrArg State.idle (invSettleAll_of_none (hwings _ hReports1))
    _ = (State.takeEnds 8 u.releaseTx8.releaseRx16).idle := hReports1.idle_takeReports
    _ = u.releaseTx8.releaseRx16.idle := hReports1.of_takeReports.idle_takeEnds
    _ = u.idle := idle_releases u

/-- A field of an idle register reads the same before what happens at once. -/
theorem State.Quiet.get_finish {u : State} (h : (s.finish u).Quiet c) (ha : ∀ d, (d, Instr.resignRampEnd) ∉ (s.finish u).agenda)
    {q : Nat} {f : Fld} (hk : idleKey q f.off = true) : (s.finish u).get q f = u.get q f := by
  unfold State.get; rw [reg_of_idle hk (h.idle_finish ha)]

end Sys2Proof.Machine
end

section
/-! SUPPORT. Kibitz (R37, R232): the end of a sweep that is to stop. -/

namespace Sys2Proof.Machine
open Sys2Proof

theorem exec_sweepEnd (s : State) : exec .sweepEnd s = .next (s.finish (effSweepEnd s)) := rfl

/-- A Board that runs, KBZ enabled with RUN_EN and a sweep in progress that is to stop at the next port boundary, as a disable of KBZ leaves
it that is followed by an enable before the ping in hand has ended (R37). The state has no engines and no inventory Wings, so that what
happens at once can be read backwards (`State.Quiet.idle_finish`). -/
def stoppingSweep : State :=
  let s : State := { State.reset with
    pwr := { State.reset.pwr with core := true, cclk := true }, agenda := [], engs := [],
    inv := { State.reset.inv with wings := [] }, kbz := { State.reset.kbz with stopping := true } }
  (((((s.put pDEV DEV.STATUS_MODE 0).put pCLK CLK.STATUS_SRC 1).put pFLT ⟨2, 39, 0⟩ 0).putB pKBZ COM.ENABLE true).putB
    pKBZ KBZ.CFG_RUN_EN true).putB pKBZ KBZ.STATUS_SWEEPING true

theorem stoppingSweep_quiet : (stoppingSweep.finish (effSweepEnd stoppingSweep)).Quiet 0 := quiet_iff.mpr (by decide +kernel)

theorem stoppingSweep_agenda : (stoppingSweep.finish (effSweepEnd stoppingSweep)).agenda = [] := by decide +kernel

/-- The sweep stops, which is no end that is counted (R37). -/
theorem stoppingSweep_uncounted : (stoppingSweep.finish (effSweepEnd stoppingSweep)).get pKBZ KBZ.SWEEPS_COUNT = 0 := by decide +kernel

/-- Refutes O21: its fourth clause leaves free whether the sweep is to stop. That of `stoppingSweep` stops at its end, and SWEEPS stays 0 where
the clause gives 1. -/
theorem not_kibitzSweeps : ¬ Obligations.KibitzSweeps := by
  unfold Obligations.KibitzSweeps
  rintro ⟨-, -, -, h, -⟩
  obtain ⟨u, he, ⟨-, -, hcount, -⟩, -⟩ := h stoppingSweep (by decide +kernel) (by decide +kernel) (by decide +kernel) rfl
  rw [exec_sweepEnd, Host.Outcome.next.injEq] at he
  have hq := stoppingSweep_quiet
  have ha := stoppingSweep_agenda
  have hzero := stoppingSweep_uncounted
  rw [he] at hq ha hzero
  rw [hq.get_finish (by simp [ha]) (by decide), hcount] at hzero
  exact absurd hzero (by decide +kernel)

end Sys2Proof.Machine
end
